-- ==== Sys2Proof/Word.lean ====
section
/-! DEFINITION. The word types of the sled's structures (R8, R12, R13): bytes, fixed-width words, byte buffers. -/

namespace Sys2Proof

/-- A byte, 8 bits (R9). -/
abbrev Byte := BitVec 8

/-- 16-bit, 32-bit, 64-bit and 128-bit fields of the sled's structures (R12). -/
abbrev W16 := BitVec 16
abbrev W32 := BitVec 32
abbrev W64 := BitVec 64
abbrev W128 := BitVec 128

/-- A run of bytes, lowest address first (R13).  A byte past the listed ones reads as 0. -/
abbrev Buf := List Byte

/-- Byte `i` of a buffer; a byte that is not listed is 0 (log entry 3). -/
def Buf.at (b : Buf) (i : Nat) : Byte := b.getD i 0

/-- `n` bytes from offset `off`, read as a little-endian integer (R13). -/
def Buf.le (b : Buf) (off n : Nat) : Nat :=
  match n with
  | 0 => 0
  | k + 1 => (Buf.at b off).toNat + 256 * Buf.le b (off + 1) k

/-- `n` bytes from offset `off`. -/
def Buf.slice (b : Buf) (off n : Nat) : Buf :=
  (List.range n).map fun i => Buf.at b (off + i)

/-- The `n` little-endian bytes of an integer (R13). -/
def leBytes (n v : Nat) : Buf :=
  match n with
  | 0 => []
  | k + 1 => BitVec.ofNat 8 v :: leBytes k (v / 256)

/-- Bits `[lo + n - 1 : lo]` of an integer (R12). -/
def bitsOf (v lo n : Nat) : Nat := (v / 2 ^ lo) % 2 ^ n

end Sys2Proof
end

