-- ==== Sys2Proof/Machine/StateHost.lean ====
section
/-! DEFINITION. State of the host side: host port and connections (chapter 12), FRONT window, mailboxes, submissions,
sessions and grants (chapter 13), clients, queue pairs, contexts and knots (chapter 11).  Defaults are reset values. -/

namespace Sys2Proof.Machine

/-- One optical lane slot of an Ethernet port (R291 to R295). -/
structure Lane where
  /-- Receiver adapted here (RX_READY sent) and at the partner (RX_READY received).  R292.  Reset false. -/
  rxReady : Bool := false
  partnerReady : Bool := false
  /-- The partner asked this end to precode.  R292.  Reset false. -/
  precode : Bool := false
  /-- Transmit equaliser taps c(−3) … c(+1), in steps from the preset.  R292.  DESIGN CHOICE 0 (log 4). -/
  taps : List Int := [0, 0, 0, 0, 0]
  /-- Answer to the partner's last REQ (STS).  R292.  Reset 0. -/
  sts : BitVec 2 := 0
  /-- Frame counter SEQ.  R292.  Reset 0. -/
  seq : W16 := 0
  /-- Frames sent since four slots of the port, this one among them, have shown RX_READY in both directions.  R293.  Reset 0. -/
  further : Nat := 0
  /-- Carries data as this logical lane.  R291, R293.  Reset none. -/
  logical : Option Nat := none
  /-- Declared faulty and not yet trained again.  R294, R295.  Reset false. -/
  faulty : Bool := false
  /-- Lit by the laser sources.  R393, R394.  Reset true. -/
  lit : Bool := true
  deriving DecidableEq, Repr

/-- A lane move that is under way (R295). -/
structure Swap where
  logical : Nat
  slot : Nat
  sentRequest : Bool
  sentGrant : Bool
  received : Bool
  deriving DecidableEq, Repr

/-- One Ethernet port: the host port or a fabric port. -/
structure Port where
  /-- Lane slots: 8 on the host port, 5 on a fabric port (slot 4 the pair's spare).  R291, R332. -/
  lanes : List Lane := []
  /-- The PCS is aligned and the MAC transmits.  R293, R295, R334.  Reset false. -/
  up : Bool := false
  /-- Lane moves waiting, ascending logical order.  R295.  Reset none. -/
  swaps : List Swap := []
  /-- Receive-check counters of R308 in table order.  R308, R331.  Reset 0. -/
  rx : List W64 := List.replicate 14 0
  /-- RX_ICMP.  R308.  Reset 0. -/
  rxIcmp : W64 := 0
  /-- P-clock counts of the ICMP echo answers of the last second.  R308.  Reset none. -/
  icmpTimes : List W64 := []
  /-- IPv6 global address, 0 when none.  R300, R335.  Reset 0. -/
  globalAddr : W128 := 0
  deriving DecidableEq, Repr

/-- Host port settings of R302 as they are in force. -/
structure HpSettings where
  /-- Configured mode: wide-lane at the next reset.  R299.  DR8 as shipped. -/
  wideNext : Bool := false
  /-- IPv4 on, address, prefix, gateway.  R300.  Off as shipped. -/
  ipv4On : Bool := false
  ipv4Addr : W32 := 0
  prefixLen : Nat := 0
  gateway : W32 := 0
  /-- VID valid, VID.  R302.  None as shipped. -/
  vidValid : Bool := false
  vid : W16 := 0
  /-- PFC on, priority.  R302.  On, 3 as shipped. -/
  pfcOn : Bool := true
  pfcPrio : Nat := 3
  /-- DSCP of RoCEv2 data and of CNPs.  R302.  26 and 48 as shipped. -/
  dataDscp : Nat := 26
  cnpDscp : Nat := 48
  deriving DecidableEq, Repr

/-- State of one connection (R306, R309, R310). -/
inductive ConnState
  | repSent | opened | error | closed
  deriving DecidableEq, Repr

/-- The nonce a connection holds (R328). -/
structure Nonce where
  bytes : Buf
  keySlot : Nat
  /-- P-clock count at which SESSION_BEGIN completed. -/
  since : W64
  deriving DecidableEq, Repr

/-- One RDMA connection (R306). -/
structure Conn where
  index : Nat
  gen : Nat
  state : ConnState := .repSent
  /-- Send rate in Mb/s.  R304.  Starts at line rate, 1,600,000. -/
  rate : Nat := 1600000
  /-- Export reservations it carries (R46, R304). -/
  reservations : Nat := 0
  /-- A CNP was sent in the current 50 µs window, and the count at which it was. -/
  lastCnp : Option W64 := none
  /-- Next expected PSN of the sled as responder.  R308. -/
  expectedPsn : BitVec 24 := 0
  /-- Next PSN of the sled as requester, and the oldest one not acknowledged.  R307, R310. -/
  sendPsn : BitVec 24 := 0
  ackedPsn : BitVec 24 := 0
  /-- Expiries of the ACK timeout since the last acknowledgement.  R307. -/
  retries : Nat := 0
  /-- The nonce held.  R328. -/
  nonce : Option Nonce := none
  deriving DecidableEq, Repr

/-- Host port and connections (chapter 12). -/
structure HostPort where
  port : Port := { lanes := List.replicate 8 {} }
  /-- Mode in use: wide-lane.  R299.  Reset: the configured mode, DR8 as shipped. -/
  wide : Bool := false
  /-- Settings in force.  R302.  Reset: from config flash. -/
  settings : HpSettings := {}
  /-- PFC frames and global PAUSE frames discarded.  R303.  Reset 0. -/
  pfcDiscarded : W64 := 0
  /-- Slots past 2.0 s in training.  R293.  Reset 0. -/
  trainingLate : W64 := 0
  /-- FRONT_BAD_WRITE, MAILBOX_COLLISION.  R312, R325.  Reset 0. -/
  frontBadWrite : W64 := 0
  mailboxCollision : W64 := 0
  /-- Sending on the lossless priority is paused by a received pause.  R303.  Reset false. -/
  paused : Bool := false
  /-- XOFF has been sent and not yet XON.  R303.  Reset false. -/
  xoffSent : Bool := false
  /-- Free bytes of the 16 MiB receive buffer.  R303.  Reset 16 MiB. -/
  rxFree : Nat := 16777216
  /-- Announce counter since reset.  R301.  Reset 0. -/
  announceSeq : W64 := 0
  /-- A connection has been established since reset: announces every 30 s.  R301.  Reset false. -/
  everConnected : Bool := false
  /-- Last discovery answer per source address, with its count.  R301.  Reset none. -/
  answered : List (W128 × W64) := []
  /-- Connections, at most 4,096.  R306.  Reset none. -/
  conns : List Conn := []
  /-- Next generation of each connection index used before.  R155.  Reset: none used. -/
  connGens : List (Nat × Nat) := []
  /-- Export reservations of 12.5 GB/s held, by request.  R46.  Reset none. -/
  exports : List Nat := []
  deriving DecidableEq, Repr

/-- A submission entry (R316), as its fields. -/
structure Entry where
  arg3 : W64 := 0
  arg2 : W64 := 0
  arg1 : W64 := 0
  arg0 : W64 := 0
  handleB : W32 := 0
  handleA : W32 := 0
  length : W32 := 0
  rkey : W32 := 0
  addr : W64 := 0
  cmdTag : W32 := 0
  gen : Byte := 0
  rsv : W16 := 0
  opcode : Byte := 0
  deriving DecidableEq, Repr

/-- Status codes (R319). -/
inductive Status
  | ok | exhausted | short | degraded | deadlineMissed | infeasible | staleHandle | badField | notReady
  | noResource | contextTorn | mediaError | damaged | suspect | readOnly | denied | versionGone
  deriving DecidableEq, Repr

/-- Completion flags (R318). -/
structure Flags where
  writeThrottled : Bool := false
  rescaled : Bool := false
  widened : Bool := false
  cpGen : Bool := false
  cpRerank : Bool := false
  cpFetch : Bool := false
  cpExact : Bool := false
  deriving DecidableEq, Repr

/-- The content of a completion before it is written (R317). -/
structure Result where
  status : Status := .ok
  flags : Flags := {}
  result0 : W64 := 0
  result1 : W64 := 0
  deriving DecidableEq, Repr

/-- A completion entry as written (R317). -/
structure Completion where
  check : W16 := 0
  seq : W32 := 0
  status : Byte := 0
  flags : W32 := 0
  result1 : W64 := 0
  result0 : W64 := 0
  cmdTag : W32 := 0
  deriving DecidableEq, Repr

/-- Where a submission came from: a queue pair or a mailbox slot (with its CONTROL SEQ). -/
inductive Origin
  | queue (index : Nat)
  | mailbox (slot : Nat) (seq : W32)
  deriving DecidableEq, Repr

/-- What a TABLE_LOOKUP is bound to at its accept event: a version, the map version and its exceptions (R192). -/
structure LookupBound where
  version : Nat
  mapVersion : Nat
  exceptions : List (Nat × Nat)
  deriving DecidableEq, Repr

/-- An accepted submission: the queue manager's record of it (R33, R387). -/
structure Sub where
  /-- Event sequence number of its accept event, which names it. -/
  sid : Nat
  origin : Origin
  /-- Connection that carried the entry. -/
  conn : W32
  client : Nat
  entry : Entry
  /-- The mailbox data area copied at acceptance (R325). -/
  copied : Buf := []
  /-- P-clock count of the accept event (R48). -/
  count : W64 := 0
  /-- SHUTDOWN had been accepted before it (R253). -/
  afterShutdown : Bool := false
  /-- Statuses that apply to it since its accept event (R273, R320, R327); the model's way to rank them with the others. -/
  preset : List Status := []
  /-- Accepted at the job limit: counted as admitted and finished at once (R273). -/
  jobless : Bool := false
  /-- The sled was at the throttled end-of-life state at its accept event (R258). -/
  throttled : Bool := false
  /-- The command has begun to act and has not ended. -/
  running : Bool := false
  /-- The completion, once it is final. -/
  due : Option Result := none
  /-- The DONE bit of R387. -/
  finished : Bool := false
  /-- Abandoned count of a DESTROY_QUEUE at its accept event (R280). -/
  abandoned : W32 := 0
  /-- Extents that it has reserved since its accept event, each with its channel and object (R465).  Reset none. -/
  held : List (Nat × W64 × Nat) := []
  /-- What a TABLE_LOOKUP is bound to (R192).  Reset none. -/
  bound : Option LookupBound := none
  /-- What the takeovers in progress at its accept event still had to run, in ps (R43).  Reset 0. -/
  takeoverPs : Nat := 0
  /-- The buffer descriptor that serves it (R25).  Reset none. -/
  desc : Option Nat := none
  deriving DecidableEq, Repr

/-- The units between which buffer descriptors move (R25, R387): the host port's RoCEv2, the queue manager, a control core. -/
inductive DescUnit
  | hostPort | queueManager | core (n : Nat)
  deriving DecidableEq, Repr

/-- Where a buffer descriptor that is not free is (R25): owned by exactly one unit, or in flight between two. -/
inductive DescHolder
  | owned (unit : DescUnit)
  | inFlight (src dst : DescUnit)
  deriving DecidableEq, Repr

/-- STATE of a mailbox slot (R324). -/
inductive SlotState
  | idle | accepted | rejected | done
  deriving DecidableEq, Repr

/-- A bootstrap mailbox slot (R324). -/
structure Mailbox where
  /-- Bytes 0x000–0x03F, the entry as written by the host.  Reset zeros. -/
  entry : Buf := []
  /-- Bytes 0x040–0x05F, the completion.  Reset zeros. -/
  completion : Completion := {}
  /-- STATE bits [7:0].  Reset IDLE. -/
  state : SlotState := .idle
  /-- STATE bits [15:8], reject reason.  Reset 0. -/
  reason : Nat := 0
  /-- STATE bits [63:32], SEQ of the CONTROL word acted on.  Reset 0. -/
  seq : W32 := 0
  /-- Bytes 0x080–0xFF7, the data area.  Reset zeros. -/
  data : Buf := []
  /-- Bytes 0xFF8–0xFFF, CONTROL as last written.  Reset 0. -/
  control : W64 := 0
  deriving DecidableEq, Repr

/-- An admin session (R328). -/
structure Session where
  index : Nat
  gen : Nat
  conn : W32
  keySlot : Nat
  deriving DecidableEq, Repr

/-- An enrolled client and its job counts (R273). -/
structure Client where
  index : Nat
  limit : Nat := 4096
  current : Nat := 0
  admitted : Nat := 0
  finished : Nat := 0
  deriving DecidableEq, Repr

/-- Sasel: mailboxes, accepted submissions, sessions, clients, access (chapter 13, R273). -/
structure Sasel where
  /-- Sixteen mailbox slots.  R311, R324.  Reset IDLE. -/
  slots : List Mailbox := List.replicate 16 {}
  /-- Records of accepted submissions.  R387.  Reset none. -/
  subs : List Sub := []
  /-- Current event sequence number, 64 bits.  R63, R315.  DESIGN CHOICE 0 at reset (log 5). -/
  eventSeq : Nat := 0
  /-- Buffer descriptors: how many there are, fixed at reset, and those that are not free, by number.  R25, R387.  The number is
  not stated: DESIGN CHOICE 1,048,576 (log 88).  Reset: all free. -/
  descCount : Nat := 1048576
  descs : List (Nat × DescHolder) := []
  /-- Open sessions, at most 8.  R328.  Reset none (R329). -/
  sessions : List Session := []
  /-- Next generation of each session index used before.  R155.  Reset none used. -/
  sessionGens : List (Nat × Nat) := []
  /-- Enrolled clients.  R273.  Reset: client 0 with the default limit (R326). -/
  clients : List Client := [{ index := 0 }]
  /-- Access given: (handle of an index, table or log; client).  R322.  Reset none. -/
  grants : List (W32 × Nat) := []
  /-- SHUTDOWN has been accepted since the last reset, and has completed.  R252, R253.  Reset false. -/
  shutdown : Bool := false
  shutdownDone : Bool := false
  /-- A RESET_SLED has been accepted and resets when its completion is written.  R322.  Reset none. -/
  resetAfter : Option Nat := none
  /-- Key slots 0–3 image signing, 4–7 owner, as in force.  R418, R420.  Persistent (config flash).
  DESIGN CHOICE: owner slot 0 holds a key of the purchaser's (zeros but one byte, log 2), others empty. -/
  keys : List Buf := [[], [], [], [], [1], [], [], []]
  deriving DecidableEq, Repr

/-- State of a queue index (table *Queue states*). -/
inductive QState
  | free | active | draining | quarantine
  deriving DecidableEq, Repr

/-- One queue pair index (R274 to R282). -/
structure Queue where
  index : Nat
  gen : Nat := 1
  state : QState := .free
  conn : W32 := 0
  client : Nat := 0
  log2Depth : Nat := 1
  cqAddr : W64 := 0
  cqRkey : W32 := 0
  /-- The submission ring: entries by slot, as the host wrote them (R277). -/
  ring : List (Nat × Buf) := []
  /-- Fetch count F and last accepted tail T_last, modulo 2³² (R277). -/
  fetched : W32 := 0
  tail : W32 := 0
  /-- Completions written or held so far, j (R278, R317). -/
  completions : Nat := 0
  /-- Completions held while the connection is in error (R309). -/
  held : List Completion := []
  /-- Undelivered counter (R309). -/
  undelivered : W32 := 0
  /-- Stale counter, bad-doorbell counter (R277, R282). -/
  stale : W32 := 0
  badDoorbell : W32 := 0
  /-- The DESTROY_QUEUE that drains it (R280). -/
  destroyer : Option Nat := none
  /-- A SEND was received on its connection after the DESTROY_QUEUE completed (R281). -/
  flushed : Bool := false
  deriving DecidableEq, Repr

/-- Context states (R262). -/
inductive CtxState
  | running | blocked | saving | outReady | outBlocked | restoring | torn
  deriving DecidableEq, Repr

/-- Why a context was torn down (R271). -/
inductive TearCause
  | pickFault | gatherFault | knotOverflow | csRange | destroyed | loomOut
  deriving DecidableEq, Repr

/-- A run of an ENTRY range in a general context (RUN_ENTRY, R322; sled work, R261). -/
structure EntryRun where
  sid : Nat
  range : Nat
  /-- Next pick of the range, and its last pick. -/
  next : Nat
  last : Nat
  deriving DecidableEq, Repr

/-- A context (R259). -/
structure Ctx where
  index : Nat
  gen : Nat
  /-- Service context (R260) or general context (R261). -/
  service : Bool
  /-- The model binding it runs (handle). -/
  model : W32
  client : Nat := 0
  state : CtxState := .blocked
  /-- Resident slot 0–15 (R263). -/
  slot : Option Nat := none
  /-- Bases TB and CB of its ranges (R141), while resident. -/
  tb : Nat := 0
  cb : Nat := 0
  /-- Its knots: first index and count (R264). -/
  firstKnot : Nat := 4096
  knots : Nat := 0
  /-- Pre-emption pending (R268). -/
  preempt : Bool := false
  /-- Chosen for swap-out, so its save ends in OUT_BLOCKED (R269). -/
  toBlocked : Bool := false
  /-- P-clock counts at which it became resident, BLOCKED, and OUT_READY (R263, R268, R269, R270). -/
  sinceRun : Nat := 0
  sinceBlocked : Nat := 0
  sinceReady : Nat := 0
  /-- Passed over for a slot because it did not fit: takes precedence (R270). -/
  passedOver : Bool := false
  /-- Bytes of its save area, while it holds one (R267). -/
  saved : Nat := 0
  /-- The context has been saved and not restored since: a save may hold no live range (R153). -/
  hasSaved : Bool := false
  /-- Saved contents: (kind, offset, bytes) of the yield point's live ranges (R153). -/
  saveData : List (Nat × Nat × Buf) := []
  /-- Pick-list position: index in the DESC section of the next pick (R259). -/
  pick : Nat := 0
  /-- Work it carries. -/
  runs : List EntryRun := []
  /-- The DESTROY_CONTEXT that ends it (R272). -/
  destroyer : Option Nat := none
  /-- Fault cause and LAYER_ID (R271). -/
  cause : Option TearCause := none
  layerId : W16 := 0
  deriving DecidableEq, Repr

/-- Kinds of knots (R283, R284). -/
inductive KnotKind
  | unallocated | counter | barrier | event
  deriving DecidableEq, Repr

/-- One knot (R284). -/
structure Knot where
  index : Nat
  target : W32 := 0
  fires : W32 := 0
  count : W32 := 0
  owner : BitVec 12 := 0
  set : Bool := false
  kind : KnotKind := .unallocated
  deriving DecidableEq, Repr

/-- A source of knot signals (R286). -/
inductive SignalSource
  | slot (n : Nat) | thread (n : Nat) | flow (rank cls : Nat) | hub (n : Nat)
  deriving DecidableEq, Repr

/-- Contexts, slots, save areas and knots (chapter 11). -/
structure Work where
  /-- Defined contexts, at most 4,096.  R259.  Reset none. -/
  ctxs : List Ctx := []
  /-- Next generation of each context index used before.  R155.  Reset none used. -/
  ctxGens : List (Nat × Nat) := []
  /-- Knots that are allocated.  R283.  Reset: firmware counters as needed, none. -/
  knots : List Knot := []
  /-- Last signal number applied from each source.  R286.  DESIGN CHOICE 0 at reset (log 5). -/
  lastSignal : List (SignalSource × W32) := []
  /-- Slot served last by the round-robin of R265.  DESIGN CHOICE 15 (so that slot 0 is first, log 5). -/
  lastSlot : Nat := 15
  /-- Teardowns, discarded signals by cause: duplicate, out of order, overflow, freed knot.  R271, R287.  Reset 0. -/
  teardowns : W64 := 0
  sigDuplicate : W64 := 0
  sigOutOfOrder : W64 := 0
  sigOverflow : W64 := 0
  sigFreed : W64 := 0
  deriving DecidableEq, Repr

end Sys2Proof.Machine
end

