-- ==== Sys2Proof/Machine/StateAnswer.lean ====
section
/-! DEFINITION. State of the answer path (chapter 2), indexes (chapter 3), and model and filter images (chapter 6).
Defaults are reset values. -/

namespace Sys2Proof.Machine

/-- Metric of an index (R57). -/
inductive Metric
  | inner | cosine | l2
  deriving DecidableEq, Repr

/-- Parameters of an index after substitution of defaults (R57). -/
structure IndexParams where
  metric : Metric := .inner
  dim : Nat := 1024
  /-- SCALE, FP32. -/
  scale : W32 := 0
  partitions : Nat := 1048576
  /-- HOLD in ns. -/
  holdNs : Nat := 50000
  embedDigest : Buf := []
  deriving DecidableEq, Repr

/-- One record of a segment (R60, R71). -/
structure Rec where
  locator : W128
  metaBytes : W128
  vector : Buf
  partition : Nat
  channel : Nat
  sketch : BitVec 512
  deriving DecidableEq, Repr

/-- A segment, open or sealed (R60 to R62).  A record's ordinal is its place among the records of its slice. -/
structure Segment where
  /-- Segment handle index and generation (kind 9), until the commit that adds it (R62). -/
  handle : W32
  /-- Segment number, once sealed. -/
  number : Option Nat := none
  recs : List Rec := []
  /-- Object ID of its slice runs (kind 3, R164). -/
  runs : W64 := 0
  /-- Added by a completed commit. -/
  committed : Bool := false
  deriving DecidableEq, Repr

/-- A slice: one (segment, partition, channel) (R60). -/
structure SliceId where
  segment : Nat
  partition : Nat
  channel : Nat
  deriving DecidableEq, Repr

/-- A version of an index (R63). -/
structure Version where
  number : Nat
  /-- Segment numbers it contains. -/
  segments : List Nat := []
  /-- Tombstoned records: slice and ordinal. -/
  tombs : List (SliceId × Nat) := []
  /-- Event sequence number of its publication (R63, R64). -/
  pubSeq : Nat := 0
  pinned : Bool := false
  /-- Event sequence number of the accept event of the command that retired it: later requests find it gone (R47, R66). -/
  retiredAt : Option Nat := none
  /-- Its version directory is DAMAGED (R182). -/
  dirDamaged : Bool := false
  deriving DecidableEq, Repr

/-- A commit list (R323): handles added, locators deleted, segment numbers replaced. -/
structure CommitList where
  added : List W32 := []
  deleted : List W128 := []
  replaced : List Nat := []
  rsv : Bool := false
  deriving DecidableEq, Repr

/-- An index (R57). -/
structure Index where
  index : Nat
  gen : Nat
  params : IndexParams := {}
  /-- CENTROIDS and n_p (B2), PROJECTION (B3). -/
  centroids : Buf := []
  norms : List Int := []
  projection : Buf := []
  /-- Client that created it (R322). -/
  creator : Nat := 0
  /-- Count of segment numbers used (R62). -/
  segCount : Nat := 0
  /-- Segments opened so far, from which the object IDs of slice runs are taken (R164, log 24).  The model's own count. -/
  opened : Nat := 0
  segments : List Segment := []
  /-- Current version number, and the retained versions with their content (R65, R66). -/
  current : Nat := 0
  versions : List Version := [{ number := 0 }]
  /-- DAMAGED slices (R81) and a DAMAGED centroid table (R182). -/
  damaged : List SliceId := []
  tableDamaged : Bool := false
  /-- Event sequence number of a DELETE_INDEX (R67). -/
  releasedAt : Option Nat := none
  /-- Plot index number of which it is a member (R353). -/
  plot : Option Nat := none
  /-- Commits and compactions carried to the sequencer, by submission (R354). -/
  carried : List (Nat × CommitList) := []
  deriving DecidableEq, Repr

/-- Indexes (chapter 3). -/
structure Indexes where
  /-- Indexes, at most 64.  R57.  Reset: those kept on flash (log 6); none at first power-on. -/
  list : List Index := []
  indexGens : List (Nat × Nat) := []
  /-- Next generation of each segment-handle index used before.  R62, R155.  Reset none used. -/
  segGens : List (Nat × Nat) := []
  deriving DecidableEq, Repr

/-- Modes of an answer request (R34). -/
inductive Mode
  | retrieve | pack | handoff | answer
  deriving DecidableEq, Repr

/-- The answer request block (R34), after replacement of defaults (R35). -/
structure AnswerBlock where
  filterArgLen : Nat := 0
  topP : W32 := 0
  temperature : W32 := 0
  seed : W64 := 0
  sampleTopK : Nat := 0
  maxNew : Nat := 0
  rerankTokens : Nat := 0
  strict : Bool := false
  widenMax : Nat := 0
  mode : Nat := 0
  queryLen : Nat := 0
  tokenBudget : Nat := 0
  k : Nat := 0
  nRerank : Nat := 0
  nExact : Nat := 0
  nprobe : Nat := 0
  deadlineUs : Nat := 0
  filterImage : W32 := 0
  genModel : W32 := 0
  rerankModel : W32 := 0
  embedModel : W32 := 0
  indexVersion : Nat := 0
  indexHandle : W32 := 0
  handoffLen : Nat := 0
  resultLen : Nat := 0
  handoffConn : W32 := 0
  handoffRkey : W32 := 0
  resultRkey : W32 := 0
  queryRkey : W32 := 0
  handoffAddr : W64 := 0
  resultAddr : W64 := 0
  queryAddr : W64 := 0
  reqTag : W64 := 0
  /-- A reserved field of the block is not 0. -/
  rsv : Bool := false
  deriving DecidableEq, Repr

/-- Where a request stands on the path (table *Stages run by each mode*). -/
inductive Stage
  | accept | embed | probe | scan | exact | fetch | rerank | pack | prefill | decode | ret | done
  deriving DecidableEq, Repr

/-- A candidate of a request (R73, R79, R83, R42). -/
structure Cand where
  locator : W128
  slice : SliceId
  ordinal : Nat
  dist : Nat
  /-- FP32 exact score (R83) and re-rank score. -/
  exact : W32 := 0
  final : W32 := 0
  /-- SCORE_STAGE: 0 sketch, 1 exact, 2 re-rank. -/
  scoreStage : Nat := 0
  lost : Bool := false
  /-- Passage bytes as fetched. -/
  passage : Buf := []
  packed : Bool := false
  tokens : Nat := 0
  /-- Rank of the member that holds it, in a plot search (R356). -/
  member : Nat := 0
  deriving DecidableEq, Repr

/-- One channel's contribution to one pass of one request (R79). -/
structure Contribution where
  pass : Nat
  /-- Channel; 1,000 + rank for a member of a plot search. -/
  source : Nat
  hub : Nat
  list : List Cand := []
  /-- Records compared, for RECORDS_SCANNED. -/
  scanned : Nat := 0
  deriving DecidableEq, Repr

/-- Remaining Loom terms of a request, in picoseconds (R44). -/
structure LoomTime where
  embed : Nat := 0
  probe : Nat := 0
  rerank : Nat := 0
  gen : Nat := 0
  deriving DecidableEq, Repr

/-- The terms of a request's bound, in picoseconds (R43, R443), as admission took them. -/
structure Terms where
  acc : Nat := 0
  hold : Nat := 0
  pw : Nat := 0
  wloom : Nat := 0
  embed : Nat := 0
  probe : Nat := 0
  wscan : Nat := 0
  /-- One term for each pass 0 to WIDEN_MAX. -/
  scans : List Nat := []
  exact : Nat := 0
  fetch : Nat := 0
  rerank : Nat := 0
  pack : Nat := 0
  gen : Nat := 0
  /-- The decode steps' part of `gen`. -/
  dec : Nat := 0
  ret : Nat := 0
  deriving DecidableEq, Repr

/-- An accepted answer request (R33). -/
structure Req where
  sid : Nat
  /-- P-clock count of the accept event (R48). -/
  count : W64
  block : AnswerBlock := {}
  stage : Stage := .accept
  /-- Objects on which it holds a job (R47): index version, models, filter. -/
  holds : List W32 := []
  version : Nat := 0
  /-- Query text, its tokens, the filter arguments (R34, R143). -/
  query : Buf := []
  queryTokens : List Nat := []
  filterArgs : Buf := []
  /-- Quantised query, sketch, probe list (R59, R69, R70). -/
  q : List Int := []
  sketch : BitVec 512 := 0
  probes : List Nat := []
  /-- Pass in progress; contributions accepted; merged list (R79, R82). -/
  pass : Nat := 0
  contribs : List Contribution := []
  merged : List Cand := []
  countState : Nat := 0
  scanDone : Bool := false
  /-- A slice it met is DAMAGED (R81), or a model or table it needs is (R50, R182). -/
  sawDamaged : Bool := false
  /-- Prompt tokens, generated tokens and text (R39, R56). -/
  prompt : List Nat := []
  genTokens : List Nat := []
  genText : Buf := []
  flags : Nat := 0
  cpExact : Bool := false
  cpFetch : Bool := false
  cpRerank : Bool := false
  cpGen : Bool := false
  widened : Bool := false
  /-- Deadline passed at a stage without a cheaper path (R51). -/
  missed : Bool := false
  /-- A status that ends the request (R50, R356), once known. -/
  status : Option Status := none
  /-- The terms of its bound. -/
  terms : Terms := {}
  /-- Loom time still reserved (R44), and the pages of the binding's key-value pool it holds, those of a layer together and in token
  order (R148, R149). -/
  loom : LoomTime := {}
  pages : List Nat := []
  /-- Firmware's request slot, the TAG of its row groups (R94). -/
  slot : Nat := 0
  /-- Layers exported and key-value writes not yet acknowledged (R40, R150). -/
  layersDone : Nat := 0
  unacked : Nat := 0
  handoffBlocks : Nat := 0
  handoffBytes : Nat := 0
  /-- A key-value page it holds is DAMAGED (R183). -/
  kvDamaged : Bool := false
  /-- Members of the plot search whose contribution to the pass is awaited (R356). -/
  awaiting : List Nat := []
  /-- LOAD of each other member as used at admission, by rank, and whether a member's W_scan has exceeded it (R358). -/
  loads : List (Nat × Nat) := []
  overran : Bool := false
  deriving DecidableEq, Repr

/-- A batch of admitted requests (R53). -/
structure Batch where
  id : Nat
  index : W32
  version : Nat
  embed : W32
  members : List Nat := []
  isOpen : Bool := true
  deriving DecidableEq, Repr

/-- A sieve pass reserved for a request (R75): the channels on which the reservation stands. -/
structure Reservation where
  sid : Nat
  pass : Nat
  channels : List Nat
  /-- Its term of R43 in ns: 1.4 ms + 20 ns × R_i. -/
  ns : Nat := 0
  deriving DecidableEq, Repr

/-- A sieve pass running on a channel (R75). -/
structure SieveRun where
  channel : Nat
  pass : Nat
  members : List Nat
  deriving DecidableEq, Repr

/-- The answer path (chapter 2). -/
structure Answers where
  /-- Accepted requests.  R33.  Reset none. -/
  reqs : List Req := []
  /-- Batches, in the order in which they opened.  R53.  Reset none. -/
  batches : List Batch := []
  nextBatch : Nat := 0
  /-- Sieve-pass reservations, in reservation order.  R75.  Reset none. -/
  reservations : List Reservation := []
  /-- Sieve passes running, at most one a channel.  R75.  Reset none. -/
  sieves : List SieveRun := []
  deriving DecidableEq, Repr

/-- One instruction word of a filter (R76). -/
abbrev FilterWord := W32

/-- A loaded filter image (R154). -/
structure Filter where
  index : Nat
  gen : Nat
  words : List FilterWord
  argLen : Nat
  releasedAt : Option Nat := none
  deriving DecidableEq, Repr

/-- A pick descriptor (R92), as its fields. -/
structure Pick where
  sRStride : Nat := 0
  sHbm : Nat := 0
  epiAddr : Nat := 0
  pBase : Nat := 0
  oTcol : Nat := 0
  oBstep : Nat := 0
  waitKnot : Nat := 0
  waitEn : Bool := false
  sigKnot : Nat := 0
  sigEn : Bool := false
  waitCount : Nat := 0
  rmThresh : Nat := 0xFFFFFFFF
  rgAddr : Nat := 0
  rgCount : Nat := 1
  /-- HBM byte address of the wider variant's first descriptor (WIDE_ADDR × 128); 0 none. -/
  wideAddr : Nat := 0
  wideN : Nat := 1
  oHbm : Nat := 0
  oBase : Nat := 0
  oRStride : Nat := 0
  oTier : Nat := 0
  oFmt : Nat := 0
  kh : Nat := 1
  kw : Nat := 1
  sh : Nat := 1
  sw : Nat := 1
  dh : Nat := 1
  dw : Nat := 1
  pt : Nat := 0
  pl : Nat := 0
  cbCount : Nat := 1
  padZp : Byte := 0
  inH : Nat := 0
  inW : Nat := 0
  outH : Nat := 0
  outW : Nat := 0
  aRStride : Nat := 0
  idxAddr : Nat := 0
  wAddr : Nat := 0
  aBase : Nat := 0
  layerId : W16 := 0
  rows : Nat := 1
  epiCount : Nat := 0
  yieldPt : Bool := false
  wTranspose : Bool := false
  wReuse : Bool := false
  rowBcast : Bool := false
  paneNt : Nat := 0
  paneKt : Nat := 0
  ctxSlot : Nat := 0
  aMode : Nat := 0
  fmtW : Nat := 0
  fmtA : Nat := 0
  /-- A reserved field, or a field the A_MODE does not use, is not 0 (R92). -/
  rsv : Bool := false
  deriving DecidableEq, Repr

/-- A live range entry (R152). -/
structure LiveRange where
  kind : Nat
  length : Nat
  offset : Nat
  yieldPick : Nat
  rsv : Bool := false
  deriving DecidableEq, Repr

/-- A pick range of the ENTRY section (R135): stage name, first pick, count, which picks take their row count per
batch (R142), and which take weights from key-value pages (R170).  The manual gives the section no byte layout. -/
structure EntryRange where
  index : Nat
  first : Nat
  count : Nat
  perBatch : List Nat := []
  kvWeights : List Nat := []
  /-- In a decode range: for each layer, the pick that appends the step's new key-value row (R149). -/
  appends : List Nat := []
  /-- It is the GRAD range a graft job names (R210). -/
  grad : Bool := false
  deriving DecidableEq, Repr

/-- Tokeniser tables (R143): token byte strings, merges in rank order, special token IDs, NFC. -/
structure Tokeniser where
  vocab : List Buf := []
  merges : List (Nat × Nat) := []
  specials : List Nat := []
  nfc : Bool := false
  /-- End token of a generator. -/
  endToken : Nat := 0
  deriving DecidableEq, Repr

/-- An item of a template (R144). -/
inductive TemplateItem
  | literal (ids : List Nat)
  | query
  | passages (pre suf : List Nat)
  deriving DecidableEq, Repr

/-- A section table entry (R135). -/
structure SectionEntry where
  kind : Nat
  length : Nat
  offset : Nat
  rsv : Bool := false
  deriving DecidableEq, Repr

/-- The package header (R133), as its fields. -/
structure ImageHeader where
  yieldGapNs : Nat := 0
  maxInput : Nat := 0
  maxSeq : Nat := 0
  vocab : Nat := 0
  outDim : Nat := 0
  boundB : Nat := 0
  boundA : Nat := 0
  picks : Nat := 0
  csFootprint : Nat := 0
  sramFootprint : Nat := 0
  hbmBytes : Nat := 0
  kvBytes : Nat := 0
  kvFmt : Nat := 0
  headDim : Nat := 0
  kvHeads : Nat := 0
  layers : Nat := 1
  sections : Nat := 0
  cls : Nat := 0
  pkgRev : Nat := 1
  magic : W32 := 0x4A535449#32
  rsv : Bool := false
  deriving DecidableEq, Repr

/-- A loaded image (R156). -/
structure Image where
  index : Nat
  gen : Nat
  digest : Buf := []
  header : ImageHeader := {}
  /-- Object ID of its sealed sections (kind 0, R164). -/
  objId : W64 := 0
  sections : List SectionEntry := []
  desc : List Pick := []
  live : List LiveRange := []
  entries : List EntryRange := []
  tokeniser : Option Tokeniser := none
  template : Option (List TemplateItem) := none
  /-- The bytes of each section, by its TYPE, as loaded (R135). -/
  raw : List (Nat × Buf) := []
  damaged : Bool := false
  releasedAt : Option Nat := none
  deriving DecidableEq, Repr

/-- A binding of a model (R156, R157). -/
structure Model where
  index : Nat
  gen : Nat
  image : W32
  /-- Pages of the key-value pool (R148). -/
  kvPages : Nat := 0
  /-- Context handle of its service context (R260), 0 for AUX. -/
  ctx : W32 := 0
  /-- HBM base of the sealed copy (R142), and of the key-value pool. -/
  hbmBase : Nat := 0
  kvBase : Nat := 0
  /-- The BIND_MODEL that has not completed yet (R156). -/
  binder : Option Nat := none
  releasedAt : Option Nat := none
  deriving DecidableEq, Repr

/-- Images, models and filters (chapter 6). -/
structure Images where
  /-- Loaded images, at most 256 (on flash).  R132, R138.  None at first power-on. -/
  images : List Image := []
  imageGens : List (Nat × Nat) := []
  /-- Bindings, at most 64.  R132, R157.  Reset none (HBM does not survive, R177). -/
  models : List Model := []
  modelGens : List (Nat × Nat) := []
  /-- Filters, at most 1,024 (on flash).  R132, R154.  None at first power-on. -/
  filters : List Filter := []
  filterGens : List (Nat × Nat) := []
  deriving DecidableEq, Repr

end Sys2Proof.Machine
end

