-- ==== Sys2Proof/Machine/StateBoard.lean ====
section
/-! DEFINITION. State of the board level: input power, slot signals, sensors, steps, ageing (chapters 18 and 19),
start sequence, config flash, fuses and trust (chapter 17).  The default of each field is its reset value. -/

namespace Sys2Proof.Machine

/-- Why a shed and flush runs (R254, R430, R431, R441, R445). -/
inductive FlushCause
  | sagWarn | overVoltage | pwrEnOff | thermal | underCount
  deriving DecidableEq, Repr

/-- The demands of the table *Thermal limits* (R444), one for each threshold that names a step. -/
inductive Demand
  | dieP1 | dieP2 | dieP3 | hbmP2 | hbmP3 | inletP1 | inletP3 | flowP1 | flowP3 | outletP3
  deriving DecidableEq, Repr

/-- One reading of every temperature and flow sensor (R444): hundredths of a degree Celsius, hundredths of L/min. -/
structure Readings where
  die : List Int := []
  hbm : List Int := []
  inlet : Int := 0
  flow : Int := 450
  outlet : Int := 0
  hub : List Int := []
  nand : List Int := []
  laser : List Int := []
  deriving DecidableEq, Repr

/-- One voltage domain of the compute die (R446, R449): guard band and margin in mV. -/
structure VDomain where
  guardMv : Nat := 0
  marginMv : Nat := 0
  deriving DecidableEq, Repr

/-- Ageing of one laser source module (R446, R449): bias in µA, margin in hundredths of a percent. -/
structure LaserAge where
  biasUa : Nat := 0
  margin : Nat := 0
  deriving DecidableEq, Repr

/-- Input power, slot signals, regulators, performance step, sensors and ageing (chapters 18 and 19). -/
structure Power where
  /-- Measured voltage at J-PWR, mV.  R429, 18.  DESIGN CHOICE 0 (cold, log 1). -/
  inputMv : Nat := 0
  /-- Lowest voltage since reset, mV.  R449, 18.  DESIGN CHOICE 0 (log 1). -/
  lowMv : Nat := 0
  /-- Highest voltage since reset, mV.  R449, 18.  DESIGN CHOICE 0 (log 1). -/
  highMv : Nat := 0
  /-- Housekeeping supply runs.  R452, 19.  DESIGN CHOICE false (cold, log 1). -/
  housekeeping : Bool := false
  /-- Holdup bank charged.  R454, 19.  DESIGN CHOICE false (cold, log 1). -/
  bankCharged : Bool := false
  /-- PRESENT_L asserted.  R451, 19.  DESIGN CHOICE false (cold, log 1). -/
  presentL : Bool := false
  /-- PWR_EN asserted, after the 2 µs filter.  R452, R453, 19.  Reset: deasserted (pull-down, R452). -/
  pwrEn : Bool := false
  /-- RESET_L asserted, after the filter.  R452, R453, 19.  Reset: asserted (pull-down, R452). -/
  resetL : Bool := true
  /-- SLOT_ID[5:0] at the slot.  R452, 19.  Reset: all ones (pull-ups, R452). -/
  slotPins : BitVec 6 := 0x3F#6
  /-- SLOT_ID as sampled at the start of R404.  R453, 19.  DESIGN CHOICE 0 (log 1). -/
  slotId : BitVec 6 := 0#6
  /-- Consecutive samples meeting the Reset, Over-voltage and SAG_WARN conditions.  R429, 18.  Reset 0. -/
  runReset : Nat := 0
  runOver : Nat := 0
  runSag : Nat := 0
  /-- Consecutive samples (1 µs each) of at least 46.0 V with PWR_EN asserted and the bank charged.  R430, R454.  Reset 0. -/
  runStart : Nat := 0
  /-- Consecutive samples inside 46.0–58.0 V.  R430, 18.  Reset 0. -/
  runRange : Nat := 0
  /-- Consecutive samples of at most 58.0 V after an over-voltage trip.  R430, 18.  Reset 0. -/
  runBelowOver : Nat := 0
  /-- The Start condition of R430 holds.  Reset false. -/
  startMet : Bool := false
  /-- The Start condition has been met since PWR_EN was last asserted.  R429, 18.  Reset false. -/
  startSeen : Bool := false
  /-- An input excursion is in progress.  R430, 18.  Reset false. -/
  excursion : Bool := false
  /-- An over-voltage trip holds the regulators off.  R430, 18.  Reset false. -/
  overTripped : Bool := false
  /-- Regulators run.  R430, R431, R464, 18.  Reset: off (cold, log 1). -/
  regulatorsOn : Bool := false
  /-- PWRGD asserted.  R431, 18.  Reset: deasserted (cold, log 1). -/
  pwrgd : Bool := false
  /-- THERMTRIP_L asserted.  R445, 18.  Reset false. -/
  thermtrip : Bool := false
  /-- Regulators wait for a new assertion of PWR_EN after a trip.  R445, 18.  Reset false. -/
  tripLatched : Bool := false
  /-- A start of R404 has taken place since the regulators last started.  R463, 18.  Reset false. -/
  startedSince : Bool := false
  /-- The shed and flush that runs, if one does, by its cause.  R254, R432.  Reset none. -/
  flush : Option FlushCause := none
  /-- Regulators are to turn off at the end of the flush.  R430, R431, R441, R445.  Reset false. -/
  offAfterFlush : Bool := false
  /-- SAG_WARN events and over-voltage trips, 64-bit counters.  R449, 18.  Reset 0. -/
  sagEvents : W64 := 0
  overTrips : W64 := 0
  /-- Conservation condition lost by the input since the last reset (R26, R27).  Reset false. -/
  leftRange : Bool := false
  /-- Regulator modules in service, bitmap 16.  R401, R403.  Reset: all in service; retirements persist (R385). -/
  regulators : BitVec 16 := 0xFFFF#16
  /-- Performance step in force, 0–3.  R439, R440, 18.  DESIGN CHOICE 0 (no demand holds at reset, log 1). -/
  step : Nat := 0
  /-- Ageing ceiling, 0–3.  R447, 18.  Reset 0 (calibrated afresh). -/
  ageingCeiling : Nat := 0
  /-- Step changes, 64-bit counter.  R449.  Reset 0. -/
  stepChanges : W64 := 0
  /-- Time at each of P0–P3 in ms, four 64-bit counters.  R449.  Reset 0. -/
  stepMs : List W64 := [0, 0, 0, 0]
  /-- Thermal demands in force.  R444.  Reset none. -/
  demands : List Demand := []
  /-- The last sensor readings.  R444, R449.  DESIGN CHOICE (none taken, log 1). -/
  readings : Readings := {}
  /-- A coolant excursion is in progress.  R444.  Reset false. -/
  coolant : Bool := false
  /-- Consecutive readings (1 ms each) within the coolant requirement.  R444.  Reset 0. -/
  runCoolant : Nat := 0
  /-- NAND channels whose programs and erases are paused, bitmap 128.  R444, R449.  Reset 0. -/
  nandPaused : BitVec 128 := 0
  /-- The 16 voltage domains.  R446, R449.  DESIGN CHOICE: guard band 0, margin 100 mV (calibrated at each reset, log 1). -/
  domains : List VDomain := List.replicate 16 { guardMv := 0, marginMv := 100 }
  /-- The four laser modules' ageing.  R446.  DESIGN CHOICE: bias 0, margin 100 % (log 1). -/
  laserAge : List LaserAge := List.replicate 4 { biasUa := 0, margin := 10000 }
  /-- Eye margin of the 64 optical lane slots in 0.1 mV, and adaptations since reset.  R446, R449.  DESIGN CHOICE 100 (log 1). -/
  laneEye : List Nat := List.replicate 64 100
  laneAdapt : List W32 := List.replicate 64 0
  /-- Flash decode margin of the 128 channels, hundredths of a percent.  R446, R449.  DESIGN CHOICE 10000 (log 1). -/
  chanMargin : List Nat := List.replicate 128 10000
  /-- Units whose clock is stopped, by unit number.  R437, 18.  Reset none. -/
  stoppedClocks : List Nat := []
  deriving DecidableEq, Repr

/-- Where the start sequence stands (R404, R405, R424). -/
inductive BootPhase
  | off | bootRom | firmware | recovery
  deriving DecidableEq, Repr

/-- A firmware update in progress: who waits for it and how many sectors are written (R422). -/
structure Update where
  sid : Nat
  recovery : Bool
  deriving DecidableEq, Repr

/-- Start sequence, readiness, config flash, fuses, identity and measurement (chapter 17). -/
structure Boot where
  /-- Phase of the start sequence.  R404, R424.  Reset: off (cold, log 1). -/
  phase : BootPhase := .off
  /-- Readiness bits [127:0] of the readiness block.  R314.  Reset 0. -/
  ready : BitVec 128 := 0
  /-- ERASE_FLAGS: sectors the boot ROM found flagged.  R314, R417.  Reset 0. -/
  eraseFlags : W32 := 0
  /-- Flag bitmap: sectors still flagged.  R314, R417.  Reset none. -/
  flagged : List Nat := []
  /-- Sectors erased again, in order.  R417.  Reset none. -/
  erasedAgain : List Nat := []
  /-- Config flash words that are not erased, keyed by word address (sector × 1,024 + word).  R414, R415.
  Persistent.  DESIGN CHOICE: all erased but word 0 of the five counters, base 0 (R419, log 2). -/
  cfgWords : List (Nat × W32) := [(4194304, 0), (4196352, 0), (4198400, 0), (4200448, 0), (4202496, 0)]
  /-- Sectors whose unfinished-erase flag cell is programmed.  R415, R417.  Persistent; none. -/
  cfgFlags : List Nat := []
  /-- Fuses SEED, FWKEY0, FWKEY1.  R408.  Persistent.  DESIGN CHOICE zeros (manufacture, log 2). -/
  seed : Buf := List.replicate 32 0
  fwKey0 : Buf := List.replicate 32 0
  fwKey1 : Buf := List.replicate 32 0
  /-- Fuses REVOKE, 2 bits.  R408, R413.  Persistent.  DESIGN CHOICE 0 (log 2). -/
  revoke : BitVec 2 := 0
  /-- Fuses ROLLBACK, thermometer value 0–64.  R408, R412.  Persistent.  DESIGN CHOICE 0 (log 2). -/
  rollback : Nat := 0
  /-- Measurement registers M0–M3, 32 B each.  R425.  Reset zeros. -/
  m0 : Buf := List.replicate 32 0
  m1 : Buf := List.replicate 32 0
  m2 : Buf := List.replicate 32 0
  m3 : Buf := List.replicate 32 0
  /-- Running image: FW_VERSION, SVN, REVOKE_REQ, SASEL_REV (R313, R409).  Reset 0 until an image is accepted. -/
  fwVersion : W32 := 0
  svn : Nat := 0
  revokeReq : BitVec 2 := 0
  saselRev : W16 := 0
  /-- Identity fixed at manufacture: SERIAL, MAC (R313, R300).  Persistent.  DESIGN CHOICE 0 (log 2). -/
  serial : W64 := 0
  mac : BitVec 48 := 0
  /-- IDENTITY_KEY, which the boot ROM derives from SEED at each start (R411).  DESIGN CHOICE 0 before the first (log 2). -/
  identityKey : Buf := List.replicate 1312 0
  /-- VARIANT: false RLX-640-LQ, true RLX-320-LQ (R1, R313).  Persistent.  DESIGN CHOICE RLX-640-LQ (log 2). -/
  half : Bool := false
  /-- A firmware update that is writing the image region (R422, R423).  Reset none. -/
  update : Option Update := none
  /-- Config writes that wait for the update: (counter, none) or (item, payload) (R423).  Reset none. -/
  cfgWaiting : List (Nat × Option Buf) := []
  /-- P-clock count at which the update in recovery completed, for the reset 1 s later (R424).  Reset none. -/
  recoveryDone : Bool := false
  deriving DecidableEq, Repr

end Sys2Proof.Machine
end

