-- ==== Sys2Proof/Machine/StateCore.lean ====
section
/-! DEFINITION. State of the Loom (chapters 4 and 5), the addressed memories, the tiers and homes (chapter 7), the error
log and the Rake (chapter 15) and failover (chapter 16).  Defaults are reset values. -/

namespace Sys2Proof.Machine

/-- A byte-addressed memory: the bytes that differ from 0, by rising address.  Unlisted bytes read 0 (log 7). -/
abbrev Memory := List Host.Cell

/-- How far a pick has come (R93, R96, R109, R106). -/
inductive PickPhase
  | pending | running | replayDue | wideDue | widening | wideReplayDue
  deriving DecidableEq, Repr

/-- A row group of a pick (R94) and its saturation count (R106). -/
structure RowGroup where
  firstRow : Nat
  rowCount : Nat
  firstPane : Nat
  paneCount : Nat
  tag : Nat
  rsv : Bool := false
  count : Nat := 0
  marked : Bool := false
  deriving DecidableEq, Repr

/-- A sum that leaves a tile column in error (R109, R121): for an integer pair the accumulator of column m of row r of pane q, for
another pair the sum S_b of block b in tile row t of the band; with the value that left.  `desc` numbers the descriptor of a wider run. -/
structure ArrayFault where
  desc : Nat := 0
  pane : Nat
  row : Nat
  col : Nat
  tileRow : Nat := 0
  block : Nat := 0
  value : Int
  deriving DecidableEq, Repr

/-- A weight set of the 4,096 tiles (R95): the offset it was loaded from, whether transposed, and the bytes of every tile's block,
at the addresses of `Mems.tile`. -/
structure WeightSet where
  base : Nat := 0
  trans : Bool := false
  cells : Memory := []
  deriving DecidableEq, Repr

/-- An issued pick that has not signalled (R93, R97). -/
structure Issued where
  /-- Issue order. -/
  id : Nat
  /-- Context index that issued it, and its position in the image's DESC section. -/
  ctx : Nat
  pos : Nat
  pick : Pick
  groups : List RowGroup := []
  phase : PickPhase := .pending
  /-- The weights it runs with, once it has started: the active set of the tiles (R95, R96). -/
  weights : WeightSet := {}
  /-- Number of times the run that goes on, its own or its wider run, has been replayed (R110). -/
  replays : Nat := 0
  /-- It had not signalled when a column failed: it runs again in issue order (R110). -/
  rerun : Bool := false
  /-- It has been counted among the picks checked (R110). -/
  counted : Bool := false
  /-- Sums of its wider run that left in error unseen by the check (R121). -/
  faults : List ArrayFault := []
  /-- Signals of a context torn down are discarded (R271). -/
  discard : Bool := false
  deriving DecidableEq, Repr

/-- One entry of the range-monitor table (R130, R315). -/
structure Widening where
  layerId : W16
  ctxSlot : Nat
  tag : Nat
  count : Nat
  threshold : Nat
  seq : Nat
  deriving DecidableEq, Repr

/-- The Loom (chapter 4). -/
structure Loom where
  /-- Physical columns retired (0–65).  R84, R85, R385.  Persistent; none. -/
  retired : List Nat := []
  /-- The Loom has left service for good.  R86.  Persistent; false. -/
  out : Bool := false
  /-- Picks issued and not signalled, in issue order.  R93, R96, R97.  Reset none. -/
  issued : List Issued := []
  nextId : Nat := 0
  /-- The last pick issued (for W_REUSE and overlap).  R96.  Reset none. -/
  lastPick : Option (Nat × Pick) := none
  /-- The last pick started; the cycles so far of the run of picks joined by W_REUSE that it belongs to.  R45, R96.  Reset none, 0. -/
  lastStart : Option Nat := none
  runCycles : Nat := 0
  /-- The tiles' active and shadow weight sets.  R95, R96.  Reset empty. -/
  active : WeightSet := {}
  shadow : WeightSet := {}
  /-- Picks checked so far; mismatches as (physical column, pick, count of picks checked then).  R110.  Reset none. -/
  checked : Nat := 0
  mismatches : List (Nat × Nat × Nat) := []
  /-- Column takeover in progress: the columns that failed, oldest first.  R388, R389.  Reset none. -/
  takeover : List Nat := []
  /-- The last 256 widenings, oldest first.  R130.  Reset none. -/
  widenings : List Widening := []
  nextWidening : Nat := 0
  /-- Saturations in wider runs.  R130.  Reset 0. -/
  wideSaturations : W64 := 0
  deriving DecidableEq, Repr

/-- The addressed memories of the main package. -/
structure Mems where
  /-- HBM by logical HBM address, 0 to 1,104 GiB − 1.  R160. -/
  hbm : Memory := []
  /-- Tile SRAM: address (66 × tile row + physical column) × 0x18_0000 + offset.  R92, R372. -/
  tile : Memory := []
  /-- Control cluster SRAM, 64 MiB.  R92. -/
  cc : Memory := []
  deriving DecidableEq, Repr

/-- Tiers (R159, R166). -/
inductive Tier
  | hbm | flash | peer
  deriving DecidableEq, Repr

/-- A home directory entry (R166). -/
structure Home where
  objId : W64
  addr : W64 := 0
  dest : W64 := 0
  lengthM1 : W32 := 0
  pins : Nat := 0
  oldPins : Nat := 0
  version : W32 := 0
  owner : W32 := 0
  waiters : Nat := 0
  tier : Tier := .flash
  destTier : Tier := .flash
  isExplicit : Bool := false
  sealedObj : Bool := false
  hbmCopy : Bool := false
  inMotion : Bool := false
  evictPending : Bool := false
  referenced : Bool := false
  damaged : Bool := false
  /-- Bytes charged to the pool for a sealed object's HBM copy (R157, R162). -/
  charged : Nat := 0
  /-- The object has been removed and its bytes wait for the pins that cover them (R167). -/
  gone : Bool := false
  /-- A row block that this rank holds although another rank is its keeper (R189). -/
  guest : Bool := false
  deriving DecidableEq, Repr

/-- A move request that waits (R173): object, destination with the rank of a peer, explicit with the submission that asked. -/
structure MoveReq where
  objId : W64
  tier : Tier
  peer : Nat := 0
  sid : Option Nat
  deriving DecidableEq, Repr

/-- A write to a mutable object (R168, R172, R197): object, byte offset, and what is written there. -/
structure WaitingWrite where
  objId : W64
  offset : Nat
  bytes : Buf
  /-- An ADD of FP32 deltas to a row of this format and dimension, instead of the bytes themselves (R197). -/
  add : Option (Nat × Nat) := none
  /-- The rank and the submission there that wait for it (R197). -/
  origin : Option (Nat × Nat) := none
  /-- What its answer to another rank names: submission, table, row. -/
  key : List Nat := []
  deriving DecidableEq, Repr

/-- A fetch of a sealed object's extent with its waiters (R179). -/
structure Fetch where
  objId : W64
  extent : Nat
  waiters : List Nat
  deriving DecidableEq, Repr

/-- A piece of a window (R169): the tile, the offset in the context's range there, the offset in the object, and the bytes. -/
structure WindowPiece where
  row : Nat
  col : Nat
  off : Nat
  objOff : Nat
  len : Nat
  deriving DecidableEq, Repr

/-- A window in tile SRAM (R169): its pieces, and the bytes of its source as they stood when its staging started. -/
structure Window where
  ctx : Nat
  objId : W64
  pieces : List WindowPiece := []
  data : Buf := []
  /-- DESC position of the last pick that reads it. -/
  lastPick : Nat
  staged : Bool
  deriving DecidableEq, Repr

/-- The four HBM pools, in bytes (R162, R163). -/
structure Pools where
  model : Nat := 608 * 2 ^ 30
  index : Nat := 64 * 2 ^ 30
  table : Nat := 256 * 2 ^ 30
  graft : Nat := 32 * 2 ^ 30
  deriving DecidableEq, Repr

/-- Tiers and homes (chapter 7). -/
structure Tiers where
  /-- Pool budgets.  R162, R163.  Reset: the defaults 608, 64, 256, 32 GiB. -/
  budget : Pools := {}
  /-- Bytes each pool holds.  R163.  Reset 0 (HBM does not survive, R177). -/
  held : Pools := { model := 0, index := 0, table := 0, graft := 0 }
  /-- Home directory entries in use, at most 268,435,456.  R166.  Reset none (rebuilt, R177). -/
  homes : List Home := []
  /-- Bytes of mutable objects at their homes, by object (row blocks, key-value pages, residual blocks).  R165. -/
  bytes : List (W64 × Buf) := []
  /-- Move requests that wait, in arrival order.  R173.  Reset none. -/
  moves : List MoveReq := []
  /-- The move that runs on an object, with the submission that asked for it.  R172.  Reset none. -/
  running : List MoveReq := []
  /-- Writes that wait for a flip.  R172.  Reset none. -/
  writes : List WaitingWrite := []
  /-- Objects in order of their last pin, least recent first.  R175.  Reset none. -/
  pinOrder : List W64 := []
  /-- Fetches in progress.  R179.  Reset none. -/
  fetches : List Fetch := []
  /-- Windows and staged block sets: (context index, block set), next to start.  R169, R171.  Reset none. -/
  windows : List Window := []
  staged : List (Nat × Nat) := []
  /-- HBM bytes allocated to objects so far: (base, length, object).  R162.  Reset none. -/
  allocs : List (Nat × Nat × W64) := []
  /-- Stacks retired, in order.  R161, R385.  Persistent; none. -/
  retiredStacks : List Nat := []
  /-- The retired stack whose granules are not yet filled.  R184.  Reset none. -/
  refilling : Option Nat := none
  /-- Reads of granules not yet filled, which wait: word address, and the bytes of a write of less than 8 B that makes the read.  R184,
  R362.  Reset none. -/
  heldReads : List (Nat × Option (Nat × Buf)) := []
  deriving DecidableEq, Repr

/-- Error classes (R371). -/
inductive ErrClass
  | ce | ue | unitFail | deviceFatal
  deriving DecidableEq, Repr

/-- An error record (R371). -/
structure ErrRec where
  seq : Nat
  firstEvent : Nat
  lastEvent : Nat
  addr : W64
  lastAddr : W64
  count : Nat := 1
  layerId : W16 := 0
  context : BitVec 12 := 0
  ctxValid : Bool := false
  prior : W64 := 0xFFFFFFFFFFFFFFFF#64
  bit : Byte := 0xFF#8
  syndrome : Byte := 0
  source : Nat := 0
  escalated : Bool := false
  cls : ErrClass := .ce
  unitIndex : Nat := 0
  unitType : Nat := 0
  /-- The record key of R372, beyond UNIT_TYPE: unit, page or bank, object and extent, job and step. -/
  key : List Nat := []
  deriving DecidableEq, Repr

/-- The error log and the Rake (chapter 15). -/
structure Integrity where
  /-- Records in handling, by SEQ.  R371, R373.  Reset none. -/
  log : List ErrRec := []
  /-- Next SEQ to be opened.  R371.  Reset 0. -/
  nextSeq : Nat := 0
  /-- Unlogged counters for CE, UE, UNIT_FAIL, DEVICE_FATAL, 64 bits.  R375.  Reset 0. -/
  unlogged : List W64 := [0, 0, 0, 0]
  /-- An unlogged counter has increased since the last release.  R376.  Reset false. -/
  unloggedSince : Bool := false
  /-- A DEVICE_FATAL has been recorded since the last reset.  R28, R376.  Reset false. -/
  fatal : Bool := false
  /-- The history of the 1,024 latest UNIT_FAIL and DEVICE_FATAL records, oldest first.  R378.  Persistent; none. -/
  history : List ErrRec := []
  /-- Distinct keys with UE records since the last reset, for R380: tile pages and stack banks.  Reset none. -/
  ueKeys : List (Nat × List Nat) := []
  /-- Corrected write-backs; write-backs withheld.  R363, R383.  Reset 0. -/
  writeBacks : W64 := 0
  withheld : W64 := 0
  /-- Words of memory with bits in error, by memory (0 HBM, 1 tile, 2 cc) and word address (byte address / 8), with the
  flipped positions 0–71 (R361): the error state a read finds.  Reset none (R364). -/
  flips : List (Nat × Nat × List Nat) := []
  /-- Set lap times in seconds (HBM, SRAM).  R369.  Reset 86,400 and 3,600. -/
  hbmLap : Nat := 86400
  sramLap : Nat := 3600
  /-- Last actual lap times and laps completed.  R370.  Reset 0. -/
  hbmLast : W64 := 0
  sramLast : W64 := 0
  hbmLaps : W64 := 0
  sramLaps : W64 := 0
  /-- Next word each walk reads: HBM, tile SRAM and control cluster SRAM.  R368.  Reset 0. -/
  hbmNext : Nat := 0
  sramNext : Nat := 0
  /-- Self-test failures.  R366.  Reset 0. -/
  selfTest : W64 := 0
  /-- Retired granules (logical), banks (stack, bank), tile SRAM pages.  R381, R382.  Persistent; none. -/
  granules : List Nat := []
  banks : List (Nat × Nat) := []
  pages : List Nat := []
  /-- Isolated deliveries (R386) and dropped repeats (R387).  Reset 0. -/
  isolated : W64 := 0
  dropped : W64 := 0
  deriving DecidableEq, Repr

/-- A firmware thread and its journal (R391, R392). -/
structure Thread where
  index : Nat
  core : Nat
  /-- Step of its last journal entry. -/
  journal : Nat := 0
  /-- Replies kept in its reply queue. -/
  replies : List Nat := []
  deriving DecidableEq, Repr

/-- Receivers of firmware hand-offs (R391). -/
inductive Receiver
  | queueManager | knotArray | hub (n : Nat) | woane | homeDirectory | logEngine
  deriving DecidableEq, Repr

/-- Failover (chapter 16). -/
structure Failover where
  /-- Control cores in service (bitmap 32) and spares (bitmap).  R384, R403.  Reset: 0–27 in service, 28–31 spare;
  retirements persist (R385). -/
  coresIn : BitVec 32 := 0x0FFFFFFF#32
  coresSpare : BitVec 32 := 0xF0000000#32
  coresRetired : BitVec 32 := 0
  /-- Core takeovers in progress, in declaration order: failed core and the spare that starts.  R388, R392.  Reset none. -/
  coreTakeovers : List (Nat × Nat) := []
  /-- Firmware threads.  R391.  Reset none. -/
  threads : List Thread := []
  /-- Last effect number applied, by thread and receiver.  R391.  Reset none. -/
  effects : List (Nat × Receiver × W32) := []
  /-- Hubs retired; hubs that serve their buddy's channels; takeovers in progress.  R385, R397.  Retirement persists. -/
  hubsRetired : BitVec 16 := 0
  hubsServing : BitVec 16 := 0
  hubTakeovers : List Nat := []
  /-- Channels out of service, bitmap 128.  R399, R403.  Persistent (follows the retirements). -/
  channelsOut : BitVec 128 := 0
  /-- Laser modules present and in service.  R393, R403.  DESIGN CHOICE: all four fitted (ordering numbers, 00). -/
  lasersPresent : BitVec 4 := 0xF#4
  lasersIn : BitVec 4 := 0xF#4
  /-- Takeovers completed, and duration in µs of the last, in the order of R403.  Reset 0. -/
  completed : List W64 := List.replicate 8 0
  lastUs : List W64 := List.replicate 8 0
  /-- P-clock count at which each takeover in progress was declared: (kind, unit, count).  R386.  Reset none. -/
  declared : List (Nat × Nat × W64) := []
  deriving DecidableEq, Repr

end Sys2Proof.Machine
end

