-- ==== Sys2Proof/Machine/StateFabric.lean ====
section
/-! DEFINITION. State of the embedding tables (chapter 8), graft jobs and logs (chapter 9), fabric ports, plots and
Woane (chapter 14).  Defaults are reset values. -/

namespace Sys2Proof.Machine

/-- A table descriptor (R185), as its fields. -/
structure TableDesc where
  hotWindow : Nat := 0
  hotShare : Nat := 51
  fmt : Nat := 0
  dim : Nat := 1
  shards : Nat := 1
  sharded : Bool := false
  rows : Nat := 1
  rsv : Bool := false
  deriving DecidableEq, Repr

/-- A version of a table on this rank (R202, R203, R205). -/
structure TableVersion where
  number : Nat
  /-- Row blocks loaded here: block number and its stored bytes on flash.  Sharded: the keeper's; replicated: all. -/
  loaded : List (Nat × Buf) := []
  /-- Event sequence number of its publication here (R192, R203). -/
  pubSeq : Option Nat := none
  /-- Voted YES for it: sub-lookups for it are served (R203). -/
  servable : Bool := false
  /-- The rank of the coordinator of the publish in progress, once voted YES (R204). -/
  votedFor : Option Nat := none
  /-- Ranks that have reported no jobs on it after a commit (R205). -/
  freeReports : List Nat := []
  /-- HBM copy of a replicated version (R188), at this address. -/
  hbmCopy : Bool := false
  hbmAddr : Nat := 0
  /-- DAMAGED row blocks (R183, R196). -/
  damaged : List Nat := []
  /-- Last checkpoint: block and bytes (R206).  Persistent. -/
  checkpoint : List (Nat × Buf) := []
  deriving DecidableEq, Repr

/-- A publish this rank coordinates (R203). -/
inductive PublishPhase
  | preparing | committed | aborted
  deriving DecidableEq, Repr

structure Publish where
  sid : Nat
  version : Nat
  phase : PublishPhase := .preparing
  yes : List Nat := []
  confirmed : List Nat := []
  deriving DecidableEq, Repr

/-- A stub at an old home (R200): version and block, new home's rank, map version of its flip, ranks that have acknowledged. -/
structure Stub where
  version : Nat
  block : Nat
  rank : Nat
  mapVersion : Nat
  acked : List Nat := []
  deriving DecidableEq, Repr

/-- Hot-row counts of a block in the current window (R198): rows per rank. -/
structure HotCount where
  block : Nat
  perRank : List (Nat × Nat) := []
  deriving DecidableEq, Repr

/-- A lookup entry (R191). -/
structure LookupEntry where
  weight : W32
  bag : Nat
  row : Nat
  rsv : Bool := false
  deriving DecidableEq, Repr

/-- A sub-lookup that this rank serves (R192): the accepting rank and its submission there, what it is bound to, its entries. -/
structure SubLookup where
  rank : Nat
  sid : Nat
  version : Nat
  mapVersion : Nat
  entries : List LookupEntry
  deriving DecidableEq, Repr

/-- A row block that is being copied here from its keeper: its entry is not yet valid (R199). -/
structure Arrival where
  version : Nat
  block : Nat
  addr : Nat
  bytes : Buf
  deriving DecidableEq, Repr

/-- An embedding table on this rank (R185 to R206). -/
structure Table where
  index : Nat
  gen : Nat
  desc : TableDesc := {}
  creator : Nat := 0
  /-- Non-empty ranks when it was created, which fix the keepers (R337). -/
  keepers : List Nat := []
  /-- Current version and the versions held (R203, R205).  Version 0 holds no rows (log 9). -/
  current : Nat := 0
  versions : List TableVersion := []
  /-- Highest version ever freed (for VERSION_GONE, R205). -/
  freedTo : Nat := 0
  /-- MAP_VERSION, 32 bits, and exceptions: (block, rank), sorted by block (R190). -/
  mapVersion : Nat := 0
  exceptions : List (Nat × Nat) := []
  stubs : List Stub := []
  /-- Blocks that are being copied here (R199). -/
  arrivals : List Arrival := []
  /-- Redirected sub-lookups, each a job on its version: their rows are being read at the new home (R192, R200). -/
  held : List SubLookup := []
  hot : List HotCount := []
  /-- Map versions adopted here and not yet acknowledged (R201). -/
  owedAcks : List Nat := []
  publish : Option Publish := none
  /-- Decisions recorded on flash as coordinator: (version, commit?) (R203, R204).  Persistent. -/
  decisions : List (Nat × Bool) := []
  deriving DecidableEq, Repr

/-- Partials of one server for one lookup (R193): rank, then (bag, vector). -/
structure Partials where
  rank : Nat
  bags : List (Nat × List W32)
  failed : List Nat := []
  deriving DecidableEq, Repr

/-- A lookup in progress on the accepting sled (R192). -/
structure Lookup where
  sid : Nat
  table : Nat
  version : Nat
  mapVersion : Nat
  bags : Nat
  entries : List LookupEntry
  /-- Servers whose partials are awaited. -/
  awaiting : List Nat
  /-- The bags of each server's sub-lookup, by rank (R192). -/
  sent : List (Nat × List Nat) := []
  partials : List Partials := []
  /-- Bags written as NaN: DAMAGED block, lost sub-lookup (R196). -/
  damagedBags : List Nat := []
  lostBags : List Nat := []
  deriving DecidableEq, Repr

/-- An UPDATE_ROWS in progress (R197). -/
structure RowUpdates where
  sid : Nat
  /-- Its table, and the map version under which it sent updates to other ranks (R201). -/
  table : Nat := 0
  mapVersion : Nat := 0
  /-- Updates that wait at homes here. -/
  awaiting : Nat
  /-- Updates sent to other ranks and not answered: row, rank. -/
  away : List (Nat × Nat) := []
  applied : Nat := 0
  gone : Bool := false
  damaged : Bool := false
  /-- An update was lost with its server (log 45). -/
  lost : Bool := false
  deriving DecidableEq, Repr

/-- Tables (chapter 8). -/
structure Tables where
  /-- Tables of the plot held here, at most 256.  R185.  Kept on flash; none at first power-on. -/
  list : List Table := []
  gens : List (Nat × Nat) := []
  /-- Lookups and updates in progress.  R192, R197.  Reset none. -/
  lookups : List Lookup := []
  updates : List RowUpdates := []
  /-- Tables whose restoration is still due after the last reset.  R206, R407.  Reset: every table kept. -/
  toRestore : List Nat := []
  /-- Restored-block counter.  R206.  Reset 0. -/
  restored : W64 := 0
  deriving DecidableEq, Repr

/-- The local part of a feedback log (R208). -/
structure Log where
  index : Nat
  gen : Nat
  recordBytes : Nat
  creator : Nat := 0
  /-- Number of the first record kept, and the records from it. -/
  first : Nat := 0
  records : List Buf := []
  deriving DecidableEq, Repr

/-- A graft job descriptor (R210), as its fields. -/
structure GraftDesc where
  retry : Nat := 0
  ckptSteps : Nat := 0
  bucketBlocks : Nat := 1
  hopTimeoutMs : Nat := 1
  stepTimeoutMs : Nat := 10
  stepScale : W32 := 0
  steps : Nat := 0
  batch : Nat := 1
  log : W32 := 0
  image : W32 := 0
  tableVersion : Nat := 0
  table : W32 := 0
  rowCount : Nat := 1
  firstRow : Nat := 0
  rsv : Bool := false
  deriving DecidableEq, Repr

/-- State of a graft job as QUERY_GRAFT reports it, and its phase in a step (R213). -/
inductive GraftPhase
  | stopped | gradient | reduce
  deriving DecidableEq, Repr

/-- Why a job stops (R224, R226, R228). -/
inductive StopCause
  | done | stopGraft | suspect | damaged | deadline | notReady
  deriving DecidableEq, Repr

/-- A residual block of one bucket: its two planes of FP16 (R212). -/
structure Residual where
  bucket : Nat
  plane0 : List W16 := []
  plane1 : List W16 := []
  deriving DecidableEq, Repr

/-- A chain partial of one bucket (R215, R217): per scale block its mantissas and exponent. -/
structure ChainPartial where
  bucket : Nat
  group : Nat
  blocks : List (List Int × Int) := []
  rescaled : Bool := false
  hops : Nat := 0
  deriving DecidableEq, Repr

/-- Announced magnitudes of one member for one bucket (R215): FP16 per magnitude block. -/
structure Announce where
  bucket : Nat
  rank : Nat
  mags : List W16 := []
  deriving DecidableEq, Repr

/-- Raw samples of one rank for one bucket (R219): sampled scale block, signs, magnitude. -/
structure RawSample where
  bucket : Nat
  rank : Nat
  blocks : List (Nat × List Bool × W16) := []
  deriving DecidableEq, Repr

/-- A graft job on this rank (R207 to R230). -/
structure Graft where
  index : Nat
  gen : Nat
  desc : GraftDesc := {}
  creator : Nat := 0
  /-- Coordinator's rank (R210), and membership when it was created: ranks and their leaf groups. -/
  coordinator : Nat := 0
  phase : GraftPhase := .stopped
  cause : Option StopCause := none
  /-- RUN_GRAFT in progress here (R228). -/
  runSid : Option Nat := none
  /-- STOP_GRAFTs waiting for the stop (R226). -/
  stopSids : List Nat := []
  stopAsked : Bool := false
  /-- Step counted from the start record, attempt (R213). -/
  step : Nat := 0
  attempt : Nat := 0
  /-- First log record of step 0 on this rank (R213, R230). -/
  startRecord : Nat := 0
  /-- LAST_COMMIT, LAST_CKPT: steps committed / checkpointed so far; none before the first. -/
  lastCommit : Option Nat := none
  lastCkpt : Option Nat := none
  /-- Steps committed since the run began (R228). -/
  committedRun : Nat := 0
  /-- Attempts aborted, steps rescaled, SUSPECT, stale and saturation counters (R228). -/
  aborted : W64 := 0
  rescaledSteps : W64 := 0
  suspects : W64 := 0
  staleCount : W64 := 0
  saturations : W64 := 0
  rescaledRun : Bool := false
  /-- The current plane: false plane 0 (R212). -/
  plane : Bool := false
  residuals : List Residual := []
  /-- Gradient buffer, FP32, by bucket (R212, R213). -/
  gradient : List (Nat × List W32) := []
  /-- This rank's gradient of the step is complete (R213). -/
  gradDone : Bool := false
  /-- Contributions of this rank: bucket, signs, magnitudes (R214). -/
  contribs : List (Nat × List Bool × List W16) := []
  /-- GRAD_READY ranks (R213); announcements for the head; a predecessor's partials that wait for this rank's own
  contribution, and buckets passed on (R215, R216). -/
  gradReady : List Nat := []
  announces : List Announce := []
  waiting : List ChainPartial := []
  passed : List Nat := []
  /-- Group partials and raw samples received as owner: one signal each of the step's counter knot (R221). -/
  groups : List ChainPartial := []
  samples : List RawSample := []
  /-- Sums of owned buckets (R218); own vote; votes received; a vote said that the step rescaled (R222, R228). -/
  sums : List (Nat × List W32) := []
  voted : Bool := false
  votedYes : Bool := false
  votesYes : List Nat := []
  rescaledStep : Bool := false
  /-- Decision recorded for (step, attempt) as coordinator (R222).  Persistent. -/
  decision : Option (Nat × Nat × Bool) := none
  /-- Job checkpoints kept on the owner's flash, the last two: (step, block, bytes) (R229).  Persistent. -/
  checkpoints : List (Nat × List (Nat × Buf)) := []
  /-- An epoch has changed while this owner, having voted YES, does not know the decision: it stops when it has learnt it (R222, R224). -/
  inDoubt : Bool := false
  /-- The step whose checkpoint is being written, and the owners that have finished it (R229). -/
  ckptStep : Option Nat := none
  ckptDone : List Nat := []
  deriving DecidableEq, Repr

/-- Graft jobs and logs (chapter 9). -/
structure Grafts where
  /-- Jobs, at most 8.  R207.  Job records are kept on flash (R229). -/
  list : List Graft := []
  gens : List (Nat × Nat) := []
  /-- Logs' local parts.  R208.  Kept on flash. -/
  logs : List Log := []
  logGens : List (Nat × Nat) := []
  deriving DecidableEq, Repr

/-- A member entry of the plot settings (R336): digest (empty: an empty rank), leaf. -/
structure Member where
  digest : Buf := []
  leaf : Nat := 0
  deriving DecidableEq, Repr

/-- Plot settings (R336). -/
structure PlotSettings where
  plotId : W64 := 0
  members : List Member := []
  /-- (local index handle, plot index number). -/
  plotIndexes : List (W32 × Nat) := []
  credits : Nat := 32
  dataDscp : Nat := 26
  ctlDscp : Nat := 48
  deriving DecidableEq, Repr

/-- What a sled keeps about a peer (R338, R340, R348, R349, R358). -/
structure Peer where
  rank : Nat
  knownEpoch : Nat := 0
  deadEpoch : Nat := 0
  down : Bool := false
  /-- Its PLOT_ID or LIST_DIGEST differs, as it last advertised them: no member (R340). -/
  foreign : Bool := false
  /-- Ports in service as last advertised.  R349, R350, 14.  DESIGN CHOICE all twelve before the first HELLO (log 28). -/
  portMask : BitVec 12 := 0xFFF#12
  /-- LOAD in ns as last advertised. -/
  load : Nat := 0
  /-- Send rate to it, Mb/s (R348). -/
  rate : Nat := 1600000
  /-- CE totals last seen, by class; count at which the rate was last lowered. -/
  ceSeen : List (Nat × Nat) := []
  lowered : Option W64 := none
  deriving DecidableEq, Repr

/-- Sender half of a flow (R344, R347). -/
structure TxFlow where
  rank : Nat
  cls : Nat
  opened : Bool := false
  grant : Nat := 0
  nextPsn : W32 := 0
  returnedSeen : Nat := 0
  /-- Unacknowledged PSNs with their payloads and FIRST/LAST marks. -/
  unacked : List (W32 × Bool × Bool × Buf) := []
  /-- Highest CUM_PSN seen. -/
  cumSeen : W32 := 0xFFFFFFFF#32
  /-- Messages that wait for credits. -/
  queue : List (Bool × Bool × Buf) := []
  /-- Retransmit timer in µs, consecutive expiries. -/
  timerUs : Nat := 200
  expiries : Nat := 0
  /-- An AUDIT has been sent and not answered. -/
  auditing : Bool := false
  deriving DecidableEq, Repr

/-- Receiver half of a flow (R344, R345). -/
structure RxFlow where
  rank : Nat
  cls : Nat
  grant : Nat := 0
  cumPsn : W32 := 0xFFFFFFFF#32
  /-- Buffered PSNs beyond CUM_PSN or not yet taken: PSN, FIRST, LAST, payload. -/
  buffered : List (W32 × Bool × Bool × Buf) := []
  returned : Nat := 0
  ceTotal : W32 := 0
  /-- In-order arrivals since the last ACK; an arrival or release is not yet reported. -/
  sinceAck : Nat := 0
  unreported : Bool := false
  deriving DecidableEq, Repr

/-- An exchange in progress (R352). -/
structure Exchange where
  id : Nat
  rank : Nat
  /-- 0 sub-lookup, 1 plot search. -/
  kind : Nat
  sid : Nat
  deriving DecidableEq, Repr

/-- A plot index commit on the sequencer (R354). -/
structure PlotCommit where
  plot : Nat
  /-- Version n it starts from. -/
  base : Nat
  /-- Rank of the committing member and its submission there. -/
  rank : Nat
  sid : Nat
  inserted : List W128 := []
  deleted : List W128 := []
  phase : PublishPhase := .preparing
  yes : List Nat := []
  /-- Inserted locators that members named as live (R354). -/
  live : List W128 := []
  confirmed : List Nat := []
  deriving DecidableEq, Repr

/-- A plot commit prepared on a member: version n + 1 and what it changes here (R354). -/
structure PlotPrepared where
  plot : Nat
  base : Nat
  /-- Rank of the committing member. -/
  rank : Nat
  inserted : List W128 := []
  deleted : List W128 := []
  deriving DecidableEq, Repr

/-- A member's record-count summary of a version (R355). -/
structure PlotSummary where
  plot : Nat
  version : Nat
  rank : Nat
  counts : List Nat := []
  deriving DecidableEq, Repr

/-- Fabric ports, plot and Woane (chapter 14). -/
structure Fabric where
  /-- Ports FP0–FP11, with the fabric telemetry of R360: packets received, sent, discarded, lane takeovers, port losses,
  CE-marked DATA, retransmissions, audits. -/
  ports : List Port := List.replicate 12 { lanes := List.replicate 5 {} }
  portStats : List (List W64) := List.replicate 12 (List.replicate 8 0)
  /-- Which port of each pair holds the spare (R333). -/
  spareOwner : List (Option Nat) := List.replicate 6 none
  /-- Plot settings held.  R336.  Persistent (config flash); none as shipped. -/
  plot : Option PlotSettings := none
  /-- Own rank epoch.  R338.  Persistent counter of config flash. -/
  epoch : Nat := 0
  peers : List Peer := []
  tx : List TxFlow := []
  rx : List RxFlow := []
  exchanges : List Exchange := []
  nextExchange : Nat := 0
  /-- Stale or discarded packets, epoch changes seen, peers marked DOWN, re-routes, exchange timeouts, late replies,
  LOAD_OVERRUNS.  R360.  Reset 0. -/
  stale : W64 := 0
  epochChanges : W64 := 0
  downs : W64 := 0
  reroutes : W64 := 0
  timeouts : W64 := 0
  lateReplies : W64 := 0
  loadOverruns : W64 := 0
  /-- Plot commits: committed, aborted.  R360.  Reset 0. -/
  plotCommitted : W64 := 0
  plotAborted : W64 := 0
  plotCommits : List PlotCommit := []
  prepared : List PlotPrepared := []
  summaries : List PlotSummary := []
  /-- Decisions recorded on flash as sequencer: (plot, version, commit?).  R354.  Persistent. -/
  plotDecisions : List (Nat × Nat × Bool) := []
  /-- Reports that a member's jobs on an old version are released: (plot, version, rank).  R355. -/
  plotFree : List (Nat × Nat × Nat) := []
  deriving DecidableEq, Repr

end Sys2Proof.Machine
end

