-- ==== Sys2Proof/Machine/StateFlash.lean ====
section
/-! DEFINITION. State of the flash media (chapter 10).  What the NAND holds survives a reset (R404); the map in HBM is
rebuilt (R250).  Defaults are the values of a sled as shipped, with nothing written. -/

namespace Sys2Proof.Machine

/-- An extent map entry (R237).  An entry that is not listed is unmapped. -/
structure MapEntry where
  obj : W64
  extent : Nat
  channel : Nat
  die : Nat := 0
  blockSet : Nat := 0
  page : Nat := 0
  pslc : Bool := true
  persist : Bool := false
  verified : Bool := false
  damaged : Bool := false
  stripePos : Nat := 0
  deriving DecidableEq, Repr

/-- One programmed page (four planes, one extent) with its page tag (R248). -/
structure PageRec where
  channel : Nat
  die : Nat
  blockSet : Nat
  page : Nat
  /-- Page tag: object ID, extent (0xFFFF_FFFF a trim record), WSEQ modulo 2³². -/
  obj : W64
  extent : Nat
  wseq : Nat
  /-- The bytes stored: a data extent as encrypted, a parity extent as the XOR of what its members store (R427). -/
  data : Buf := []
  /-- A trim record's list of unmapped extents (R249). -/
  trims : List (W64 × Nat) := []
  /-- It does not decode and could not be rebuilt (R243). -/
  bad : Bool := false
  deriving DecidableEq, Repr

/-- The 16 B page tag in the spare area (R248). -/
def PageRec.tag (p : PageRec) : Buf := leBytes 16 (p.obj.toNat * 2 ^ 64 + p.extent * 2 ^ 32 + p.wseq % 2 ^ 32)

/-- Mode of a block set between two erases (R231). -/
inductive BlockMode
  | erased | pslc | qlc
  deriving DecidableEq, Repr

/-- A block set (R231). -/
structure BlockSet where
  channel : Nat
  die : Nat
  index : Nat
  mode : BlockMode := .erased
  /-- Program/erase count (R245). -/
  pe : Nat := 0
  closed : Bool := false
  verified : Bool := false
  retired : Bool := false
  /-- Current read reference offset set (R238, R446). -/
  refs : Nat := 0
  deriving DecidableEq, Repr

/-- A host data object or an object of the sled in the object table (R233, R237). -/
structure FlashObj where
  id : W64
  persistent : Bool
  /-- Base of its entry array in the system region of HBM, and data entries allotted there (R237).  Reset none (HBM does not survive). -/
  base : Option Nat := none
  slots : Nat := 0
  /-- Event sequence number of a DELETE_OBJECT (R233). -/
  deletedAt : Option Nat := none
  deriving DecidableEq, Repr

/-- A program in flight (R236): one extent, one parity extent or one trim record. -/
structure Programming where
  /-- Submission that writes it (none: the sled's own work). -/
  sid : Option Nat
  /-- Programs of one group change their map entries in one step (R241). -/
  grp : Nat
  obj : W64
  /-- Extent; 0xFFFF_FFFF a trim record. -/
  extent : Nat
  wseq : Nat
  channel : Nat
  /-- The bytes that it stores (R427). -/
  data : Buf
  /-- Extents that a trim record unmaps on its channel (R249). -/
  trims : List (W64 × Nat) := []
  /-- Programs that have failed so far (R247). -/
  fails : Nat := 0
  /-- A relocation or rebuild: the entry's old location stays valid until it ends (R236). -/
  relocation : Bool := false
  /-- Where it has been programmed, once it has: die, block set, page, pSLC. -/
  done : Option (Nat × Nat × Nat × Bool) := none
  deriving DecidableEq, Repr

/-- A WRITE_EXTENT in progress: its units act in ascending extent number (R321). -/
structure WriteJob where
  sid : Nat
  obj : W64
  first : Nat
  count : Nat
  /-- Units that have taken effect. -/
  written : Nat := 0
  data : Buf := []
  /-- The next unit's programs have been started. -/
  started : Bool := false
  deriving DecidableEq, Repr

/-- An extent read that climbs the ladder (R238): who waits, the step it has reached, and the location it began on (R236). -/
structure Reading where
  sid : Option Nat
  obj : W64
  extent : Nat
  step : Nat := 0
  place : Option MapEntry := none
  offset : Nat := 0
  length : Nat := 65536
  deriving DecidableEq, Repr

/-- An open-block parity unit (R240). -/
structure ParityUnit where
  channel : Nat
  group : Nat
  page : Nat
  /-- Dies of the group that have programmed the page, with their block sets. -/
  members : List (Nat × Nat) := []
  /-- XOR of what its members store, in the hub's SRAM until it is written. -/
  parity : Buf := []
  /-- Where the parity extent has been programmed: die, block set, page. -/
  written : Option (Nat × Nat × Nat) := none
  deriving DecidableEq, Repr

/-- Per-channel figures (R257, R315, R465). -/
structure Channel where
  index : Nat
  /-- Next write sequence number (64-bit count; the page tag holds it modulo 2³²).  R236, R248. -/
  wseq : Nat := 0
  /-- Last number of the block of 65,536 allotted (R397). -/
  allotted : Nat := 65536
  /-- Cut of the last completed checkpoint, and bytes of extents written since.  R249. -/
  cut : Nat := 0
  sinceCut : Nat := 0
  /-- Cut of the running checkpoint.  R249. -/
  runningCut : Nat := 0
  sinceRunning : Nat := 0
  /-- Retirements of block sets.  R247. -/
  retirements : W64 := 0
  /-- Block sets taken out of the spare pool since shipment.  R232, R247.  Persistent; 0. -/
  spareTaken : Nat := 0
  /-- Ladder counts for steps 0–6 and uncorrectable reads.  R238, R315.  Reset 0. -/
  ladder : List W64 := List.replicate 8 0
  /-- Last patrol lap, seconds.  R246.  Reset 0. -/
  patrolLap : W64 := 0
  /-- Pages that the patrol has read in the period that runs (die, block set, page), the counter's value at its start, and whether it has
  read every programmed page once.  R246.  Reset none, 0, false. -/
  patrolled : List (Nat × Nat × Nat) := []
  lapStart : W64 := 0
  lapDone : Bool := false
  deriving DecidableEq, Repr

/-- Flash (chapter 10). -/
structure Flash where
  /-- The extent map.  R237.  Reset: empty until replay (R250). -/
  map : List MapEntry := []
  /-- The object table: host data objects, and the sled's own objects that have extents.  R237. -/
  objs : List FlashObj := []
  /-- Next assigned number of host data object IDs.  R233.  DESIGN CHOICE 0 (log 6). -/
  nextObj : Nat := 0
  /-- Programmed pages on the NAND.  R248.  Persistent; none. -/
  pages : List PageRec := []
  /-- Block sets that have been used.  R231.  Persistent; none listed (all erased, count 0). -/
  blocks : List BlockSet := []
  /-- Extents of each channel that the sled holds back for its map checkpoint objects.  R465.  The figure is not stated:
  the model's own field, DESIGN CHOICE 0 at reset (log 18); no statement rests on it. -/
  mapHeld : Nat := 0
  /-- The media keys K1 and K2 that each hub holds in volatile registers, by hub.  R427.  Reset none; START loads them. -/
  hubKeys : List (Nat × (Buf × Buf)) := []
  /-- The 128 channels. -/
  channels : List Channel := (List.range 128).map fun c => { index := c }
  /-- Programs in flight, reads on the ladder.  R236, R238.  Reset none. -/
  programs : List Programming := []
  /-- Number of the next group of programs.  The model's own name for a group.  DESIGN CHOICE 0 at reset (log 18). -/
  nextGrp : Nat := 0
  /-- WRITE_EXTENTs in progress.  R236, R321.  Reset none. -/
  writes : List WriteJob := []
  reads : List Reading := []
  /-- Open-block parity units whose parity has not been released.  R240.  Those written persist; the others are none at reset. -/
  units : List ParityUnit := []
  /-- Wear limit and patrol period in days.  R245, R246.  Default and reset 150 and 7. -/
  wearLimit : Nat := 150
  patrolDays : Nat := 7
  /-- A map checkpoint runs; the map as the last completed checkpoint holds it.  R249.  Persistent. -/
  checkpointing : Bool := false
  checkpoint : List MapEntry := []
  /-- Number of the map checkpoint object that holds it (kind 8).  R249.  Persistent; the model counts from 0 (log 24). -/
  checkpointNo : Nat := 0
  /-- Map granules of 4 KiB, by number from the start of the system region, that have changed since the last checkpoint.  R249.  Reset none. -/
  dirty : List Nat := []
  /-- Journal of the system region: WSEQ it covers, and how many were written.  R251.  Persistent; none. -/
  journalSeq : Nat := 0
  journals : Nat := 0
  /-- Sag record written; clean-shutdown record valid.  R252, R254.  Persistent; none. -/
  sagRecord : Bool := false
  cleanShutdown : Bool := false
  /-- The map has been rebuilt since the last reset.  R250, R252.  Reset false. -/
  replayed : Bool := false
  /-- Blocks queued for a verify read.  R244.  Reset none. -/
  verifyQueue : List (Nat × Nat × Nat) := []
  deriving DecidableEq, Repr

end Sys2Proof.Machine
end

