-- ==== Sys2Proof/Syntax.lean ====
section
/-! DEFINITION. The commands of the sled: one constructor for each row of spec/opcode_table.json, those with operands first.
A Sasel command names the accepted submission it carries out by `sid`, the event sequence number of its accept event,
and carries the bytes its RDMA READs deliver (`none`: a remote access error, R316).  An event carries what happened:
the unit concerned, the message, and the choices the manual leaves to the sled or to a hub (log entries 10 and 11). -/

namespace Sys2Proof

open Sys2Proof.Machine

/-- A model package as read (R133 to R136): header, section table, the bytes of each section at its offset; and the
content of the sections for which the manual gives no byte layout (TOKENISER, TEMPLATE, ENTRY). -/
structure Package where
  header : Buf := []
  table : Buf := []
  parts : List (Nat × Buf) := []
  /-- The bytes that stand between the table or a section and the next section, by the offset at which they start (R136). -/
  gaps : List (Nat × Buf) := []
  tokeniser : Option Tokeniser := none
  template : Option (List TemplateItem) := none
  entries : List EntryRange := []
  /-- ML-DSA-44 verification under an enrolled image-signing key (log 12): the key slot that verifies. -/
  signedBy : Option Nat := none
  deriving DecidableEq, Repr

/-- A firmware image as read (R409): its first 4,096 bytes (header, public key), code, signature, and whether the
signature verifies under the embedded key (log 12). -/
structure FwImage where
  head : Buf := []
  code : Buf := []
  sig : Buf := []
  sigOk : Bool := false
  deriving DecidableEq, Repr

/-- Where a pick descriptor comes from (R92, R142): a position of the image, with the batch's rows and the offset at which firmware has
built the row group table; or firmware itself. -/
inductive PickSource
  | image (pos rows rgAddr : Nat)
  | firmware (d : Pick)
  deriving DecidableEq, Repr

/-- What the staging engine reports (R169 to R171): block set n is written; a window of an object starts, with the DESC position of the
last pick that reads it; that window is written. -/
inductive Staging
  | blockSet (n : Nat)
  | windowStart (obj : W64) (pieces : List WindowPiece) (lastPick : Nat)
  | windowDone (obj : W64)
  deriving DecidableEq, Repr

/-- A location the hub chooses for an extent: die, block set, page, pSLC (R234). -/
structure FlashLoc where
  die : Nat
  blockSet : Nat
  page : Nat
  pslc : Bool := true
  deriving DecidableEq, Repr

/-- What the reads of a command meet on flash (R238): object, extent, and the step of the ladder at which all 16 codewords first decode, 7 for
none.  An extent that is not listed decodes at step 0. -/
abbrev Media := List (W64 × Nat × Nat)

/-- The tag of a graft message (R213): job, step, attempt; the sender's rank and its epoch.  A happening of the rank itself has no sender. -/
structure GraftTag where
  job : Nat
  step : Nat
  attempt : Nat
  rank : Nat := 0
  epoch : Nat := 0
  deriving DecidableEq, Repr

/-- The memory a read or a fill names (R361, R365). -/
inductive MemUnit
  | hbm | tile | cc
  deriving DecidableEq, Repr

/-- An error as it reaches the log engine (R371, R372). -/
structure ErrEvent where
  cls : ErrClass
  unitType : Nat
  unitIndex : Nat
  addr : W64 := 0
  lastAddr : W64 := 0
  source : Nat := 0
  layerId : W16 := 0
  context : Option Nat := none
  bit : Byte := 0xFF#8
  syndrome : Byte := 0
  deriving DecidableEq, Repr

/-- What a frame carries once the checks of R308 have passed. -/
inductive FramePayload
  /-- An RDMA WRITE into the FRONT window, and an RDMA READ of it (R311). -/
  | rdmaWrite (offset : Nat) (bytes : Buf)
  | rdmaRead (offset len : Nat)
  /-- An RDMA WRITE into the submission ring of a pair, from a byte offset of the ring (R275). -/
  | ringWrite (queue offset : Nat) (bytes : Buf)
  /-- An RC acknowledgement of the sled's packets up to a PSN (R307, R310). -/
  | rcAck (psn : BitVec 24)
  | icmpEcho
  /-- An ARP request, a Neighbor Solicitation, for an address (R288, R300). -/
  | arp (target : W32)
  | neighborSolicit (target : W128)
  /-- A router advertisement: managed flag, prefix; duplicate address detection found the address unique (R300). -/
  | routerAdvert (managed : Bool) (netPrefix : W64) (isUnique : Bool)
  /-- A DHCPv6 assignment (R300). -/
  | dhcpAssign (addr : W128) (isUnique : Bool)
  | other
  deriving DecidableEq, Repr

/-- A received frame, as the receive checks of R308 see it. -/
structure Frame where
  /-- 0 the host port, 1 + p for FPp. -/
  port : Nat := 0
  fcsOk : Bool := true
  length : Nat := 64
  dstOk : Bool := true
  /-- Tag: none untagged, or the VID of one C-tag; `badTag` an S-tag or stacked tags. -/
  tag : Option Nat := none
  badTag : Bool := false
  etherType : Nat := 0x86DD
  ipOk : Bool := true
  udpOk : Bool := true
  udpPort : Nat := 4791
  icrcOk : Bool := true
  pkeyQpnOk : Bool := true
  opcodeOk : Bool := true
  payloadLen : Nat := 0
  /-- PSN of an RC request packet. -/
  psn : Option (BitVec 24) := none
  rkeyOk : Bool := true
  /-- The packet is CE-marked (R304). -/
  ce : Bool := false
  /-- Connection of the destination QPN. -/
  conn : W32 := 0
  /-- Free bytes of the receive buffer once the frame is stored (R303). -/
  bufferFree : Nat := 16777216
  payload : FramePayload := .other
  deriving DecidableEq, Repr

/-- Acknowledgement payload (R342). -/
structure AckBody where
  ceTotal : W32 := 0
  returned : Nat := 0
  sack : W64 := 0
  cum : W32 := 0xFFFFFFFF#32
  deriving DecidableEq, Repr

/-- HELLO payload (R342). -/
structure HelloBody where
  plotId : W64
  listDigest : Buf
  portMask : BitVec 12
  dead : Bool := false
  load : Nat := 0
  deadEpoch : Nat := 0
  deriving DecidableEq, Repr

/-- A message of a plot search (R356). -/
inductive PlotMsg
  | scan (version : Nat) (sketch : BitVec 512) (filter : W32) (args : Buf) (nExact : Nat) (parts : List Nat)
  | exact (version : Nat) (q : List Int) (locators : List W128)
  | fetch (locators : List W128)
  deriving DecidableEq, Repr

/-- A member's reply (R356); that to a scan also carries the member's actual W_scan, in ns (R358). -/
inductive PlotReply
  | scan (list : List Cand) (scanned : Nat) (damaged : Bool) (waitNs : Nat)
  | exact (scores : List (W128 × W32))
  | fetch (passages : List (W128 × Option Buf))
  deriving DecidableEq, Repr

/-- A chain partial as a hop passes it on (R216, R217): bucket, group, hops, RESCALED, and a unit of 33 B for each scale block. -/
structure ChainMsg where
  bucket : Nat
  group : Nat
  hops : Nat
  rescaled : Bool := false
  units : List Buf := []
  deriving DecidableEq, Repr

/-- What an owner receives for its barrier (R221). -/
inductive OwnerMsg
  | partialSum (p : ChainMsg)
  | rawSample (r : RawSample)
  deriving DecidableEq, Repr

/-- What reaches a stub (R200): an update, or what the new home answers for a redirected sub-lookup: each row's bytes, none for a DAMAGED
block. -/
inductive StubMsg
  | update (rank sid version row : Nat) (replace : Bool) (payload : Buf)
  | rows (rank sid : Nat) (rows : List (Nat × Option Buf))
  deriving DecidableEq, Repr

/-- A message of another member that has no row of its own in the table: it arrives in DATA packets (R343). -/
inductive PeerMsg
  /-- A table created or deleted on another rank, of which this rank holds the map (R185, R190). -/
  | newTable (index gen creator : Nat) (desc : TableDesc)
  | dropTable (index : Nat)
  /-- Rows of a staged version for blocks that this rank keeps (R188, R202). -/
  | tableRows (table version first : Nat) (bytes : Buf)
  /-- Migration (R199): the copy of a block from its keeper; the keeper begins to fetch a block homed here; the destination has no room; the
  move is abandoned. -/
  | takeBlock (obj : W64) (bytes : Buf)
  | holdBlock (obj : W64)
  | refuseBlock (obj : W64)
  | leaveBlock (obj : W64)
  /-- An old home reads rows of a block homed here (R200); the keeper reads a block homed here for a checkpoint (R206, R229). -/
  | readRows (sid table version : Nat) (rows : List Nat)
  | readBlock (obj : W64)
  /-- The answer to a row update sent from here (R197). -/
  | updateDone (sid table row : Nat) (status : Status)
  /-- The query of R204, for a table or for a plot index (R354). -/
  | decisionQuery (plot : Bool) (id version : Nat)
  /-- A log created or deleted on another rank (R208). -/
  | newLog (index gen creator recordBytes : Nat)
  | dropLog (index : Nat)
  /-- A graft job created, deleted, started or stopped by its coordinator (R212, R213, R226, R230). -/
  | newGraft (index gen creator : Nat) (desc : GraftDesc)
  | dropGraft (index : Nat)
  | runGraft (index step : Nat) (restore : Bool)
  | stopGraft (index : Nat) (cause : StopCause)
  /-- An owner found a tuned block DAMAGED (R224); the query of R222; LAST_CKPT has been recorded (R229). -/
  | graftDamaged (index : Nat)
  | graftQuery (tag : GraftTag)
  | ckptRecorded (index step : Nat)
  /-- PIN_VERSION, UNPIN_VERSION and DELETE_INDEX of a plot index on another member (R67, R354). -/
  | plotPin (plot version : Nat) (pinned : Bool)
  | plotDelete (plot : Nat)
  deriving DecidableEq, Repr

/-- A Woane packet (R341, R342). -/
structure WPacket where
  /-- The fabric port it arrived on. -/
  port : Nat := 0
  plotTag : W32
  srcRank : Nat
  dstRank : Nat
  srcEpoch : Nat
  dstEpoch : Nat
  ver : Nat := 1
  kind : Nat := 1
  cls : Nat := 0
  psn : W32 := 0
  first : Bool := false
  last : Bool := false
  ce : Bool := false
  payload : Buf := []
  /-- What the messages that a DATA packet completes say. -/
  msgs : List PeerMsg := []
  deriving DecidableEq, Repr

/-- What an ageing monitor reports (R446). -/
inductive AgeReading
  | domain (n : Nat) (slackLow : Bool) (marginMv : Nat)
  | channel (c : Nat) (margin : Nat)
  | laser (n : Nat) (biasUa margin : Nat)
  | lane (slot : Nat) (eye : Nat) (adapted : Bool)
  deriving DecidableEq, Repr

/-- The commands, one for each row of the table: those with operands in the table's order, then those without. -/
inductive Instr
  | nop (sid : Nat)
  | createQueue (sid : Nat) (b : Option Buf)
  | destroyQueue (sid : Nat)
  | attachQueue (sid : Nat)
  | queryQueue (sid : Nat) (ok : Bool)
  | answer (sid : Nat)
  | answerBlockRead (sid : Nat) (block query : Option Buf)
  | batchClose (batch : Nat)
  | embedComplete (batch : Nat)
  | probeComplete (batch : Nat)
  | sievePassEnd (channel : Nat) (media : Media)
  | sievePassStart (channel : Nat)
  | mergeComplete (sid : Nat)
  | exactComplete (sid : Nat) (media : Media)
  | fetchComplete (sid : Nat) (media : Media)
  | rerankComplete (sid : Nat)
  | packComplete (sid : Nat)
  | prefillLayerComplete (sid layer : Nat)
  | handoffWriteAcked (sid : Nat)
  | decodeStep (sid : Nat)
  | resultWrite (sid : Nat)
  | cheaperPath (sid : Nat) (delivered : List W128)
  | deadlineExpiry (sid : Nat)
  | createIndex (sid : Nat) (b b2 b3 : Option Buf)
  | deleteIndex (sid : Nat)
  | openSegment (sid : Nat)
  | appendRecords (sid : Nat) (b : Option Buf)
  | sealSegment (sid : Nat)
  | commitIndex (sid : Nat) (b : Option Buf)
  | compactIndex (sid : Nat) (b : Option Buf) (media : Media)
  | pinVersion (sid : Nat)
  | unpinVersion (sid : Nat)
  | versionRetire (index : W32) (version : Nat)
  | loadImage (sid : Nat) (pkg : Option Package)
  | unloadImage (sid : Nat)
  | bindModel (sid : Nat)
  | unbindModel (sid : Nat)
  | loadFilter (sid : Nat) (b : Option Buf)
  | unloadFilter (sid : Nat)
  | pickIssue (ctx : Nat) (src : PickSource) (groups : List RowGroup)
  | gatherAddressFault (id row : Nat)
  | pickCheckComplete (id : Nat) (faults : List ArrayFault)
  | widerRunComplete (id : Nat)
  | stagingComplete (ctx : Nat) (what : Staging)
  | createTable (sid : Nat) (b : Option Buf)
  | deleteTable (sid : Nat)
  | tableLookup (sid : Nat) (b : Option Buf) (media : Media)
  | subLookup (rank sid table version mapVersion : Nat) (entries : List LookupEntry) (media : Media)
  | subLookupReply (sid : Nat) (p : Partials)
  | lookupResultWrite (sid : Nat) (ok : Bool)
  | updateRows (sid : Nat) (b : Option Buf)
  | rowUpdateMessage (rank sid table version row : Nat) (replace : Bool) (payload : Buf)
  | migrateBlock (sid : Nat)
  | migrationFlip (table block dest addr : Nat) (bytes : Buf)
  | stubForward (table block : Nat) (msg : StubMsg) (media : Media)
  | mapAcknowledge (rank table mapVersion : Nat)
  | loadTableRows (sid : Nat) (b : Option Buf) (failAt : Option Nat)
  | publishTable (sid : Nat)
  | tablePrepare (rank table version : Nat)
  | tableVote (rank table version : Nat) (yes : Bool)
  | tablePrepareTimeout (table : Nat)
  | tableDecision (table version : Nat) (commit : Bool)
  | decisionQueryTimer (plot : Bool) (id : Nat)
  | tableVersionFree (rank : Nat) (plot : Bool) (id version : Nat)
  | checkpointTable (sid : Nat) (ok : Bool) (peers : List (Nat × Buf))
  | tableRestore (table : Nat)
  | createLog (sid : Nat)
  | appendLog (sid : Nat) (b : Option Buf) (failAt : Option Nat)
  | trimLog (sid : Nat)
  | deleteLog (sid : Nat)
  | createGraft (sid : Nat) (b : Option Buf) (roomElsewhere : Bool)
  | runGraft (sid : Nat)
  | runGraftRestore (sid : Nat)
  | stopGraft (sid : Nat)
  | deleteGraft (sid : Nat)
  | queryGraft (sid : Nat) (ok : Bool)
  | gradientComplete (tag : GraftTag) (far : List (Nat × Buf)) (media : Media)
  | gradReady (tag : GraftTag)
  | reduce (tag : GraftTag)
  | announceReceived (tag : GraftTag) (a : Announce)
  | chainHop (tag : GraftTag) (p : ChainMsg)
  | groupPartial (tag : GraftTag) (msg : OwnerMsg)
  | graftBarrier (job : Nat)
  | graftVote (tag : GraftTag) (yes rescaled : Bool) (cause : StopCause)
  | graftDecision (tag : GraftTag) (commit : Bool) (cause : StopCause)
  | hopTimeout (tag : GraftTag)
  | stepTimeout (tag : GraftTag)
  | graftVoteQueryTimer (job : Nat)
  | graftCheckpoint (job rank : Nat) (peers : List (Nat × Buf))
  | createObject (sid : Nat)
  | deleteObject (sid : Nat)
  | writeExtent (sid : Nat) (b : Option Buf)
  | readExtent (sid : Nat)
  | trimExtent (sid : Nat)
  | programComplete (channel wseq : Nat) (loc : FlashLoc)
  | programFail (channel wseq : Nat) (loc : FlashLoc)
  | readLadderStep (obj : W64) (extent : Nat) (ok : Bool)
  | parityRebuild (obj : W64) (extent : Nat) (media : Media)
  | openBlockParityWrite (channel group page : Nat) (loc : FlashLoc)
  | blockSetClose (channel die blockSet : Nat)
  | blockSetVerify (channel die blockSet : Nat) (fails : List Nat) (media : Media)
  | wearLevel (channel die blockSet : Nat)
  | patrolRead (channel die blockSet page : Nat) (step : Option Nat) (media : Media)
  | mapCheckpointStart (channel : Nat)
  | shutdown (sid : Nat) (ok : Bool)
  | moveObject (sid : Nat)
  | moveFlip (obj : W64)
  | moveAbandon (obj : W64) (cause : Status)
  | pinRelease (obj : W64) (old : Bool)
  | extentFetchComplete (obj : W64) (extent : Nat) (media : Media)
  | queryHome (sid : Nat) (ok : Bool)
  | setPools (sid : Nat)
  | createContext (sid : Nat)
  | destroyContext (sid : Nat)
  | runEntry (sid : Nat) (input : Option Buf)
  | queryContext (sid : Nat) (ok : Bool)
  | contextSaveComplete (ctx : Nat)
  | contextRestoreComplete (ctx : Nat)
  | preemptionTimer (ctx : Nat)
  | yieldPoint (ctx : Nat)
  | contextTeardown (ctx : Nat) (cause : TearCause)
  | queryClient (sid : Nat) (ok : Bool)
  | enrolClient (sid : Nat)
  | doorbell (conn : W32) (offset : Nat) (data : Buf)
  | submissionFetch (queue : Nat)
  | completionWrite (sid : Nat)
  | quarantineExit (queue : Nat)
  | knotSignal (src : SignalSource) (n : W32) (knot : Nat)
  | knotReset (knot : Nat)
  | frameReceive (f : Frame)
  | frontWriteIgnored (offset : Nat) (bytes : Buf)
  | rdmaSendReceive (conn : W32)
  | connectionRequest (mtu responder initiator : Nat) (psn : BitVec 24)
  | rtuTimeout (conn : W32)
  | rcAckTimeout (conn : W32)
  | connectionError (conn : W32) (cause : Option Nat)
  | connectionRelease (conn : W32)
  | trainingFrame (port slot : Nat) (word : W64) (adapted : Bool)
  | lanesToData (port : Nat)
  | trainingTimeout (port slot : Nat)
  | laneFault (port logical : Nat)
  | laneSwap (port : Nat) (grant : Bool) (logical slot : Nat)
  | pcsAligned (port : Nat)
  | setHostport (sid : Nat) (b : Option Buf) (bad : Option (Nat × W32))
  | discoveryDatagram (source : W128) (first4 : Buf)
  | pfcFrame (priority : Nat) (pause : Bool)
  | cnpReceive (conn : W32)
  | rateIncreaseTimer (conn : W32)
  | mailboxControl (conn : W32) (slot : Nat) (control : W64)
  | sessionBegin (sid : Nat) (nonce : Buf) (ok : Bool)
  | sessionProve (sid : Nat) (signature : Option Buf) (verifies : Bool)
  | closeSession (sid : Nat)
  | readErrors (sid : Nat) (ok : Bool)
  | readErrorsHistory (sid : Nat) (ok : Bool)
  | attest (sid : Nat) (ok : Bool)
  | grant (sid : Nat)
  | revoke (sid : Nat)
  | enrolKey (sid : Nat) (b : Option Buf) (bad : Option (Nat × W32))
  | flashPolicy (sid : Nat)
  | resetSled (sid : Nat)
  | updateFirmware (sid : Nat) (img : Option FwImage) (bad : Option (Nat × W32))
  | updateFirmwareRecovery (sid : Nat) (img : Option FwImage) (bad : Option (Nat × W32))
  | retireGranule (sid : Nat)
  | retireBank (sid : Nat)
  | retireSramPage (sid : Nat)
  | setRake (sid : Nat)
  | setPlot (sid : Nat) (b : Option Buf) (bad : Option (Nat × W32))
  | woanePacketReceive (p : WPacket)
  | hello (rank srcEpoch : Nat) (body : HelloBody)
  | peerDownTimeout (rank : Nat)
  | openFlow (rank cls : Nat)
  | openOk (rank cls credits : Nat)
  | data (rank cls : Nat) (psn : W32) (first last ce : Bool) (payload : Buf) (msgs : List PeerMsg)
  | ack (rank cls : Nat) (body : AckBody)
  | ackTimer (rank cls : Nat)
  | bufferRelease (rank cls : Nat) (psn : W32)
  | retransmitTimer (rank cls : Nat)
  | woaneRateTimer (rank : Nat)
  | audit (rank cls : Nat) (nextPsn : W32)
  | auditReply (rank cls : Nat) (body : AckBody)
  | fabricPortLoss (port : Nat)
  | fabricPortReturn (port : Nat)
  | exchangeTimeout (id : Nat)
  | plotCommit (plot rank sid : Nat) (inserted deleted : List W128)
  | plotPrepare (rank plot base : Nat) (digest : Buf) (inserted deleted : List W128)
  | plotDecision (plot base : Nat) (commit : Bool)
  | plotSummary (y : PlotSummary)
  | plotSearchMessage (rank sid plot : Nat) (msg : PlotMsg) (media : Media)
  | plotSearchReply (rank sid : Nat) (reply : PlotReply)
  | memoryRead (unit : MemUnit) (addr : Nat) (flipped : List Nat) (merge : Option (Nat × Buf)) (raced : Option Buf)
  | rakeRead (sram : Bool) (flipped : List Nat) (raced : Option Buf)
  | rakeLapEnd (sram : Bool) (seconds : Nat)
  | fill (unit : MemUnit) (addr words : Nat) (pattern : W64)
  | checkerSelfTest (unitType index : Nat) (pass : Bool)
  | errorLogEvent (e : ErrEvent)
  | coreHeartbeatTimeout (core : Nat)
  | handoffEffect (thread : Nat) (receiver : Receiver) (n : W32)
  | hubHeartbeatTimeout (hub : Nat)
  | hubTakeoverComplete (hub : Nat)
  | hbmStackRetirement (stack : Nat)
  | laserModuleFault (module : Nat) (removed : Bool)
  | laserModuleInsert (module : Nat)
  | regulatorFault (module : Nat)
  | firmwareImageCheck (sigOk : Bool)
  | revokeFuseBlow (key : Nat)
  | readinessChange (bit : Nat)
  | configReadWord (addr : Nat)
  | configProgramWord (addr : Nat) (value : W32)
  | configEraseSector (sector : Nat)
  | configItemWrite (item : Nat) (payload : Buf) (bad : Option (Nat × W32))
  | counterIncrement (counter : Nat)
  | inputSample (mv : Nat)
  | resetLAssert (heldUs : Nat)
  | presentLChange (asserted : Bool) (pins : BitVec 6)
  | sensorRead (r : Readings)
  | demandLiftTimer (d : Demand)
  | ageingMonitor (r : AgeReading)
  | ageingCeiling (domain : Nat)
  | clockWake (unit : Nat)
  | rtuReceive (conn : W32)
  | tetherLinkLoss (hub : Nat)
  | hbmLinkLoss (stack : Nat)
  | eraseComplete (channel die blockSet : Nat)
  | plotVote (rank plot base : Nat) (yes : Bool) (live : List W128)
  | plotPrepareTimeout (plot : Nat)
  | commitConfirm (rank : Nat) (plot : Bool) (id version : Nat)
  | pickBoundary
  | columnTakeoverComplete
  | mapCheckpointComplete
  | sysregionJournal
  | mapReplay (lostTags : List (Nat × Nat))
  | automaticEviction
  | swapOut
  | hostportModeTimer
  | announceTimer
  | helloTimer
  | coreTakeoverComplete
  | start
  | rollbackFuseBlow
  | poweredHoursTimer
  | eraseFlagRepair
  | excursionEnd
  | sagWarn
  | sagFlushEnd
  | inputResetThreshold
  | overVoltageTrip
  | startCondition
  | pwrEnAssert
  | pwrEnDeassert
  | pwrgdAssert
  | resetLRelease
  | holdupBankCharged
  | thermalTrip
  | thermtripRelease
  | stepChange
  | stepLowerTimer
  | housekeepingPowerOn
  | recoveryReset
  | pfcPauseExpiry
  deriving DecidableEq, Repr

end Sys2Proof
end

