-- ==== Sys2Proof/Machine/Sha3.lean ====
section
/-! DEFINITION. SHA3-256 of FIPS 202, which the manual names for its digests (R56, R178, R313, R410, R418, R425). -/

namespace Sys2Proof.Machine

open Sys2Proof

/-- Round constants of Keccak-f[1600]. -/
def keccakRc : List W64 :=
  [0x0000000000000001#64, 0x0000000000008082#64, 0x800000000000808A#64, 0x8000000080008000#64,
   0x000000000000808B#64, 0x0000000080000001#64, 0x8000000080008081#64, 0x8000000000008009#64,
   0x000000000000008A#64, 0x0000000000000088#64, 0x0000000080008009#64, 0x000000008000000A#64]
  ++ [0x000000008000808B#64, 0x800000000000008B#64, 0x8000000000008089#64, 0x8000000000008003#64,
   0x8000000000008002#64, 0x8000000000000080#64, 0x000000000000800A#64, 0x800000008000000A#64,
   0x8000000080008081#64, 0x8000000000008080#64, 0x0000000080000001#64, 0x8000000080008008#64]

/-- Rotation of lane x + 5y. -/
def keccakRot : List Nat :=
  [0, 1, 62, 28, 27, 36, 44, 6, 55, 20, 3, 10, 43, 25, 39, 41, 45, 15, 21, 8, 18, 2, 61, 56, 14]

/-- One round over 25 lanes, lane x + 5y. -/
def keccakRound (a : List W64) (rc : W64) : List W64 :=
  let at' := fun (l : List W64) (i : Nat) => l.getD i 0
  let c := (List.range 5).map fun x =>
    at' a x ^^^ at' a (x + 5) ^^^ at' a (x + 10) ^^^ at' a (x + 15) ^^^ at' a (x + 20)
  let d := (List.range 5).map fun x => at' c ((x + 4) % 5) ^^^ (at' c ((x + 1) % 5)).rotateLeft 1
  let t := (List.range 25).map fun i => at' a i ^^^ at' d (i % 5)
  let b := (List.range 25).map fun i =>
    let x := i % 5
    let y := i / 5
    let j := (x + 3 * y) % 5 + 5 * x
    (at' t j).rotateLeft (keccakRot.getD j 0)
  let e := (List.range 25).map fun i =>
    let x := i % 5
    let r := 5 * (i / 5)
    at' b i ^^^ (~~~(at' b ((x + 1) % 5 + r)) &&& at' b ((x + 2) % 5 + r))
  match e with
  | [] => []
  | h :: rest => (h ^^^ rc) :: rest

/-- Keccak-f[1600]. -/
def keccakF (a : List W64) : List W64 := keccakRc.foldl keccakRound a

/-- Take a block of 136 bytes into the sponge. -/
def sha3Absorb (a : List W64) (block : Buf) : List W64 :=
  keccakF ((List.range 25).map fun i =>
    a.getD i 0 ^^^ (if i < 17 then BitVec.ofNat 64 (Buf.le block (8 * i) 8) else 0))

/-- The padded message: 0x06, zeros, 0x80 at the end of the last block. -/
def sha3Pad (m : Buf) : Buf :=
  let z := 135 - m.length % 136
  if z = 0 then m ++ [0x86] else m ++ [0x06] ++ List.replicate (z - 1) 0 ++ [0x80]

/-- SHA3-256. -/
def sha3 (m : Buf) : Buf :=
  let p := sha3Pad m
  let a := (List.range (p.length / 136)).foldl (fun a k => sha3Absorb a (Buf.slice p (136 * k) 136))
    (List.replicate 25 0)
  (a.take 4).flatMap fun w => leBytes 8 w.toNat

end Sys2Proof.Machine
end

