-- ==== Sys2Proof/Machine/MlDsa.lean ====
section
/-! DEFINITION. The public key of ML-DSA-44 key generation (FIPS 204), by which the boot ROM derives IDENTITY_KEY (R411), over the
extendable-output functions SHAKE128 and SHAKE256 of FIPS 202. -/

namespace Sys2Proof.Machine

open Sys2Proof

/-! ### SHAKE -/

/-- The padded message of an extendable-output function whose blocks have `rate` bytes. -/
def shakePad (rate : Nat) (m : Buf) : Buf :=
  let z := rate - 1 - m.length % rate
  if z = 0 then m ++ [0x9F] else m ++ [0x1F] ++ List.replicate (z - 1) 0 ++ [0x80]

/-- Take a block of `rate` bytes into the sponge. -/
def shakeAbsorb (rate : Nat) (a : List W64) (block : Buf) : List W64 :=
  keccakF ((List.range 25).map fun i => a.getD i 0 ^^^ (if 8 * i < rate then BitVec.ofNat 64 (Buf.le block (8 * i) 8) else 0))

/-- Blocks of output. -/
def squeeze (rate : Nat) : Nat → List W64 → Buf
  | 0, _ => []
  | n + 1, a => ((a.take (rate / 8)).flatMap fun w => leBytes 8 w.toNat) ++ squeeze rate n (keccakF a)

/-- The first `n` blocks of output for a message. -/
def shake (rate n : Nat) (m : Buf) : Buf :=
  let p := shakePad rate m
  squeeze rate n ((List.range (p.length / rate)).foldl (fun a k => shakeAbsorb rate a (Buf.slice p (rate * k) rate)) (List.replicate 25 0))

/-! ### Polynomials of 256 coefficients modulo q -/

def dsaQ : Nat := 8380417

/-- A power of the root of unity 1753, whose order is 512. -/
def zetaPow : Nat → Nat
  | 0 => 1
  | n + 1 => 1753 * zetaPow n % dsaQ

/-- The value of a polynomial. -/
def polyAt (p : List Nat) (x : Nat) : Nat := p.foldr (fun c v => (c + x * v) % dsaQ) 0

/-- The eight bits of an index, reversed. -/
def rev8 (i : Nat) : Nat := ((List.range 8).map fun b => if i.testBit b then 2 ^ (7 - b) else 0).sum

/-- The transform: element i is the value at the power 2·rev(i) + 1 of the root. -/
def ntt (p : List Nat) : List Nat := (List.range 256).map fun i => polyAt p (zetaPow (2 * rev8 i + 1))

/-- Its inverse. -/
def nttInv (t : List Nat) : List Nat :=
  let u := (List.range 256).map fun k => t.getD (rev8 k) 0
  (List.range 256).map fun j => 8347681 * (zetaPow (512 - j) * polyAt u (zetaPow (512 - 2 * j % 512)) % dsaQ) % dsaQ

/-! ### Sampling -/

/-- A transformed polynomial from a seed: candidates of 23 bits below q, at most 336 of them. -/
def sampleNtt (seed : Buf) : List Nat :=
  let b := shake 168 6 seed
  (((List.range 336).map fun i => Buf.le b (3 * i) 3 % 2 ^ 23).filter (decide <| · < dsaQ)).take 256

/-- A polynomial with coefficients from −2 to 2 from a seed: half bytes below 15, at most 1,088 of them. -/
def sampleSmall (seed : Buf) : List Nat :=
  let b := shake 136 4 seed
  (((b.flatMap fun x => [x.toNat % 16, x.toNat / 16]).filter (decide <| · < 15)).take 256).map fun h => (dsaQ + 2 - h % 5) % dsaQ

/-! ### Key generation -/

/-- The high part of a coefficient, by whose 13 low bits it is rounded. -/
def power2High (r : Nat) : Nat := (r + 4095) / 8192

/-- The 1,312 bytes of the public key that a seed of 32 bytes gives. -/
def mlDsaPublic (xi : Buf) : Buf :=
  let h := shake 136 1 (xi ++ [4, 4])
  let rho := Buf.slice h 0 32
  let rho' := Buf.slice h 32 64
  let s1 := (List.range 4).map fun r => ntt (sampleSmall (rho' ++ leBytes 2 r))
  let row := fun r =>
    let products := (List.range 4).map fun s => List.zipWith (fun a b => a * b % dsaQ) (sampleNtt (rho ++ [BitVec.ofNat 8 s, BitVec.ofNat 8 r])) (s1.getD s [])
    let sum := (List.range 256).map fun i => (products.map fun p => p.getD i 0).sum % dsaQ
    List.zipWith (fun a b => (a + b) % dsaQ) (nttInv sum) (sampleSmall (rho' ++ leBytes 2 (r + 4)))
  rho ++ (List.range 4).flatMap fun r => leBytes 320 ((row r).zipIdx.foldl (fun v x => v + power2High x.1 * 2 ^ (10 * x.2)) 0)

/-- The seed of the identity key pair from the fused SEED, and its public key (R411). -/
def identitySeed (seed : Buf) : Buf := sha3 (seed ++ [0x52, 0x4C, 0x58, 0x2D, 0x49, 0x44, 0x45, 0x4E])
def identityPublic (seed : Buf) : Buf := mlDsaPublic (identitySeed seed)

end Sys2Proof.Machine
end

