-- ==== Sys2Proof/Machine/Media.lean ====
section
/-! DEFINITION. Media encryption (R427): AES-256 (FIPS 197) and XTS-AES-256 (IEEE 1619) over data units of 4,096 B. -/

namespace Sys2Proof.Machine

open Sys2Proof

/-! ### AES-256 -/

/-- Twice an element of GF(2⁸). -/
def gfDouble (b : Byte) : Byte := (b <<< 1) ^^^ (if b.getLsbD 7 then 0x1B#8 else 0#8)

/-- The product of two elements of GF(2⁸). -/
def gfMul (a b : Byte) : Byte :=
  ((List.range 8).foldl (fun (x : Byte × Byte) i => (if b.getLsbD i then x.1 ^^^ x.2 else x.1, gfDouble x.2)) (0#8, a)).1

/-- The inverse of an element, 0 for 0: its 254th power. -/
def gfInv (b : Byte) : Byte :=
  ((List.range 7).foldl (fun (x : Byte × Byte) _ => let q := gfMul x.2 x.2; (gfMul x.1 q, q)) (1#8, b)).1

def subByte (b : Byte) : Byte :=
  let x := gfInv b
  x ^^^ x.rotateLeft 1 ^^^ x.rotateLeft 2 ^^^ x.rotateLeft 3 ^^^ x.rotateLeft 4 ^^^ 0x63#8

def subByteInv (b : Byte) : Byte := gfInv (b.rotateLeft 1 ^^^ b.rotateLeft 3 ^^^ b.rotateLeft 6 ^^^ 0x05#8)

/-- XOR of two runs of bytes, missing bytes counted as zeros. -/
def xorBuf : Buf → Buf → Buf
  | [], b => b
  | a, [] => a
  | x :: a, y :: b => (x ^^^ y) :: xorBuf a b

/-- Byte r of column c of a state stands at 4c + r. -/
def shiftRows (b : Buf) : Buf := (List.range 16).map fun i => Buf.at b (i % 4 + 4 * ((i / 4 + i % 4) % 4))
def shiftRowsInv (b : Buf) : Buf := (List.range 16).map fun i => Buf.at b (i % 4 + 4 * ((i / 4 + 4 - i % 4) % 4))

/-- Each column times a polynomial whose coefficients, from the diagonal rightwards, are `k`. -/
def mixColumns (k : List Byte) (b : Buf) : Buf :=
  (List.range 16).map fun i => (List.range 4).foldl (fun x j => x ^^^ gfMul (k.getD j 0) (Buf.at b (i / 4 * 4 + (i % 4 + j) % 4))) 0#8

def mixFwd : List Byte := [0x02, 0x03, 0x01, 0x01]
def mixInv : List Byte := [0x0E, 0x0B, 0x0D, 0x09]

/-- Words 8i to 8i + 7 of the key schedule from the eight before them. -/
def nextKeyWords (rcon : Byte) (k : Buf) : Buf :=
  let last := Buf.slice k 28 4
  let t := xorBuf ((Buf.slice last 1 3 ++ Buf.slice last 0 1).map subByte) [rcon, 0, 0, 0]
  let step := fun (acc prev : Buf) (i : Nat) => xorBuf prev (Buf.slice k (4 * i) 4) |> fun w => (acc ++ w, w)
  let half := (List.range 4).foldl (fun (x : Buf × Buf) i => step x.1 x.2 i) ([], t)
  ((List.range 4).foldl (fun (x : Buf × Buf) i => step x.1 x.2 (4 + i)) (half.1, half.2.map subByte)).1

/-- The 240 bytes of the key schedule. -/
def keySchedule (key : Buf) : Buf :=
  let r := (List.range 7).foldl (fun (x : Buf × Buf × Byte) _ =>
    let n := nextKeyWords x.2.2 x.2.1
    (x.1 ++ n, n, gfDouble x.2.2)) (Buf.slice key 0 32, Buf.slice key 0 32, 1#8)
  r.1.take 240

def roundKey (ks : Buf) (i : Nat) : Buf := Buf.slice ks (16 * i) 16

/-- Encrypt a block of 16 bytes under a key schedule. -/
def aesEncrypt (ks block : Buf) : Buf :=
  let s := (List.range 13).foldl (fun s i => xorBuf (mixColumns mixFwd (shiftRows (s.map subByte))) (roundKey ks (i + 1)))
    (xorBuf (Buf.slice block 0 16) (roundKey ks 0))
  xorBuf (shiftRows (s.map subByte)) (roundKey ks 14)

/-- Decrypt a block of 16 bytes under a key schedule. -/
def aesDecrypt (ks block : Buf) : Buf :=
  let s := (List.range 13).foldl (fun s i => mixColumns mixInv (xorBuf ((shiftRowsInv s).map subByteInv) (roundKey ks (13 - i))))
    (xorBuf (Buf.slice block 0 16) (roundKey ks 14))
  xorBuf ((shiftRowsInv s).map subByteInv) (roundKey ks 0)

/-! ### XTS -/

/-- A tweak times α in GF(2¹²⁸), as a little-endian integer. -/
def tweakDouble (t : Nat) : Nat := (2 * t) % 2 ^ 128 ^^^ (if 2 ^ 127 ≤ t then 0x87 else 0)

/-- The blocks of a data unit, each between two XORs with its tweak. -/
def xtsBlocks (f : Buf → Buf) (data : Buf) : Nat → Nat → Nat → Buf
  | 0, _, _ => []
  | n + 1, j, t =>
    let k := leBytes 16 t
    xorBuf (f (xorBuf (Buf.slice data (16 * j) 16) k)) k ++ xtsBlocks f data n (j + 1) (tweakDouble t)

/-- One data unit of 4,096 B under the tweak of its number. -/
def xtsUnit (f : Buf → Buf) (ks2 : Buf) (number : Nat) (data : Buf) : Buf :=
  xtsBlocks f data 256 0 (Buf.le (aesEncrypt ks2 (leBytes 16 number)) 0 16)

/-- The 16 data units of an extent of an object (R427). -/
def xtsExtent (f : Buf → Buf) (ks2 : Buf) (obj : W64) (e : Nat) (data : Buf) : Buf :=
  (List.range 16).flatMap fun u => xtsUnit f ks2 (obj.toNat * 2 ^ 64 + e * 2 ^ 4 + u) (Buf.slice data (4096 * u) 4096)

/-- The two media keys that a hub holds (R427). -/
abbrev MediaKeys := Buf × Buf

/-- What a hub stores for the data of an extent, and what it delivers for what is stored. -/
def encryptExtent (k : MediaKeys) (obj : W64) (e : Nat) (data : Buf) : Buf :=
  xtsExtent (aesEncrypt (keySchedule k.1)) (keySchedule k.2) obj e data
def decryptExtent (k : MediaKeys) (obj : W64) (e : Nat) (data : Buf) : Buf :=
  xtsExtent (aesDecrypt (keySchedule k.1)) (keySchedule k.2) obj e data

/-- K1 and K2 from the fused seed (R427). -/
def mediaKeys (seed : Buf) : MediaKeys :=
  (sha3 (seed ++ [0x52, 0x4C, 0x58, 0x2D, 0x4D, 0x45, 0x44, 0x31]), sha3 (seed ++ [0x52, 0x4C, 0x58, 0x2D, 0x4D, 0x45, 0x44, 0x32]))

end Sys2Proof.Machine
end

