-- ==== Sys2Proof/Config.lean ====
section
/-! DEFINITION. The free values: values the manual leaves open.  Each is a constant without a body, applied to a counter
the step reads and advances (`State.free`) or to the operands it depends on; no proof can learn a value of it. -/

namespace Sys2Proof

/-- A remote key the sled registers: of a submission ring (R275) or of the FRONT window (R306). -/
opaque Config.rkey : Nat → W32

/-- The RDMA address of a submission ring (R275). -/
opaque Config.ringAddr : Nat → W64

/-- Remote key and address of the FRONT window on a connection (R306, R311). -/
opaque Config.frontKey : W32 → W32
opaque Config.frontAddr : W32 → W64

/-- The SERVICE_ID of Sasel connections (R301, R306). -/
opaque Config.serviceId : W64

/-- The bytes of a report whose byte layout the manual does not give, by report and the numbers it reports:
QUERY_QUEUE, QUERY_CLIENT, QUERY_CONTEXT (R322). -/
opaque Config.report : Nat → List Nat → Buf

/-- Signature bytes of an attestation quote over the signed message (R426). -/
opaque Config.signature : Buf → Nat → Buf

/-- Output bytes that the work of a graded stage leaves to the image's arithmetic, by stage, request and offset. -/
opaque Config.output : Nat → Buf

/-- Bytes of a memory range that the manual calls undefined, by occasion and address (R153). -/
opaque Config.byte : Nat → Nat → Byte

/-- The bank, modulo 64, to which the controller of a stack maps a slot (R372). -/
opaque Config.bank : Nat → Nat → Nat

/-- What the picks of an image compute, by the image's digest and what the manual makes the result depend on (R54, R55): element i of
the embedding of input tokens; the score of a re-rank input; the code of element i of a key (false) or value (true) head of token t of
a layer over a sequence; the logit of a token after a sequence (log 91). -/
opaque Config.embedding : Buf → List Nat → Nat → W32
opaque Config.relevance : Buf → List Nat → W32
opaque Config.kvCode : Buf → List Nat → Nat → Nat → Bool → Nat → Nat → Nat
opaque Config.logit : Buf → List Nat → Nat → W32

/-- Gradient of a row of a table by the records of a step and the rows they read, by image (R213, R227, log 91). -/
opaque Config.gradient : Buf → List Buf → List (Nat × Buf) → Nat → Nat → W32

/-- A value of a report or a result that the manual does not state. -/
opaque Config.word : Nat → W64

end Sys2Proof
end

