-- ==== Sys2Proof/Machine/State.lean ====
section
/-! DEFINITION. The whole state of one sled: the parts of the State*.lean files, what has left the sled, the P-clock
counter, the counter of free values and the queue of waiting commands; faults, refusals, and the state right after reset. -/

namespace Sys2Proof.Machine

open Sys2Proof

/-- Why a step stops with a fault. -/
inductive Fault
  /-- Raised by MEMORY_READ and FILL for an HBM address at or above 1,104 GiB, which does not exist (R160).  Safe. -/
  | hbmAddress
  /-- Raised by MEMORY_READ and FILL for a tile SRAM address outside the 4,224 tiles' 1.5 MiB (R87).  Safe. -/
  | tileAddress
  /-- Raised by MEMORY_READ and FILL for a control cluster SRAM address at or above 64 MiB (R24).  Safe. -/
  | ccAddress
  deriving DecidableEq, Repr

/-- Why a step has no meaning. -/
inductive Refusal
  /-- Raised only by a command's arm of `exec` that has no meaning yet, with its mnemonic.  Safe. -/
  | notModelled (mnemonic : String)
  deriving DecidableEq, Repr

/-- Responses of the RC transport and of the connection manager (R306 to R310). -/
inductive Wire
  | ack | nakSequence | nakRemoteAccess | nakInvalidRequest | rnr | rep | rej | disconnectReply | retransmit | cnp
  | readRequest | xoff | xon | echoReply | arpReply | neighborAdvert | announce | discoveryAnswer
  deriving DecidableEq, Repr

/-- Kinds of messages to another sled of the plot whose bytes the manual does not lay out. -/
inductive Msg
  | subLookup | partials | rowUpdate | updateDone | mapUpdate | mapAck
  | newTable | dropTable | tableRows | takeBlock | holdBlock | refuseBlock | leaveBlock | readRows | rows | readBlock | block
  | newLog | dropLog | newGraft | dropGraft | runGraft | stopGraft | graftDamaged | ckptRecorded
  | tablePrepare | tableVote | tableDecision | tableConfirm | tableFree | decisionQuery
  | gradReady | reduce | announce | chain | groupPartial | rawSamples | ownedSums | graftVote | graftDecision | voteQuery | checkpointDone
  | plotCommit | plotPrepare | plotVote | plotDecision | plotConfirm | plotSummary
  | plotPin | plotDelete | plotFree
  | plotScan | plotExact | plotFetch | plotReply | hello
  deriving DecidableEq, Repr

/-- Something that has left the sled, or that one of its units has sent to another. -/
inductive Out
  /-- An RDMA WRITE to a buffer of the host (R316, R317). -/
  | write (conn : W32) (addr : W64) (rkey : W32) (bytes : Buf)
  /-- The response to an RDMA READ of the FRONT window (R311). -/
  | readResponse (conn : W32) (offset : Nat) (bytes : Buf)
  /-- A packet of the transport, the connection manager or the MAC, with its numbers. -/
  | wire (kind : Wire) (conn : W32) (values : List Nat)
  /-- A training frame of a lane slot (R292). -/
  | training (port slot : Nat) (word : W64)
  /-- A Woane packet: own port, peer, the peer's port, UDP payload (R341, R342, R349). -/
  | packet (srcPort rank dstPort : Nat) (bytes : Buf)
  /-- A message to another sled, with its numbers. -/
  | message (rank : Nat) (kind : Msg) (values : List Nat)
  /-- A knot signal of a source, with its number (R286). -/
  | signal (src : SignalSource) (n : W32) (knot : Nat)
  /-- A datagram to a host (R301). -/
  | datagram (dst : W128) (bytes : Buf)
  deriving DecidableEq, Repr

/-- An Ethernet frame as it leaves a port: 0 the host port, 1 + p FPp. -/
structure TxFrame where
  port : Nat
  /-- C-tag (R302): PCP, where the manual gives one, and VID. -/
  tag : Option (Option Nat × Nat) := none
  /-- DSCP, where the manual gives one, and ECT(0) rather than Not-ECT (R302, R304, R341). -/
  dscp : Option Nat := none
  ect0 : Bool := false
  /-- What it carries. -/
  body : Out
  deriving DecidableEq, Repr

/-- The state of one sled.  The default of each field is its reset value. -/
structure State where
  power : Power := {}
  boot : Boot := {}
  hp : HostPort := {}
  sasel : Sasel := {}
  /-- Queue pair indices that have been used; an unlisted one is FREE with generation 1.  R276, 11.  Reset none listed. -/
  queues : List Queue := []
  work : Work := {}
  idx : Indexes := {}
  ans : Answers := {}
  img : Images := {}
  loom : Loom := {}
  mems : Mems := {}
  tiers : Tiers := {}
  tables : Tables := {}
  grafts : Grafts := {}
  flash : Flash := {}
  fabric : Fabric := {}
  integ : Integrity := {}
  fail : Failover := {}
  /-- What the sled's units have sent, latest first.  The model's own record.  Reset none. -/
  out : List Out := []
  /-- The frames that have left a port, latest first.  The model's own record.  Reset none. -/
  frames : List TxFrame := []
  /-- RoCEv2 frames that wait in the host port for the end of a received pause, oldest first.  R303.  Reset none. -/
  txHeld : List Out := []
  /-- The control cluster's counter of P-clock cycles, 64 bits.  R438, 18.  Reset 0. -/
  pclk : W64 := 0
  /-- How many free values have been taken.  The model's own field.  DESIGN CHOICE 0 at reset (log 14). -/
  free : Nat := 0
  /-- Commands that wait, first in, first out.  The model's own queue.  Reset empty. -/
  pending : List Instr := []
  deriving DecidableEq, Repr

/-- The machine right after reset: the cold sled before its start, as the board's pull-ups and pull-downs leave it (R452);
the registers the manual gives no value for are as the log names them. -/
def State.reset : State := {}

/-- The outcome type of the sled. -/
abbrev Outcome := Host.Outcome State Fault Refusal

end Sys2Proof.Machine
end

