-- ==== Sys2Proof/Machine/Ops.lean ====
section
/-! DEFINITION. The shared operations over lists, counters, memories, handles, events, submissions and what leaves the
sled.  Every command is written over these. -/

namespace Sys2Proof.Machine

open Sys2Proof

/-! ### Lists and counters -/

/-- Change every element that satisfies `p`. -/
def updWhere {α : Type} (p : α → Bool) (f : α → α) (l : List α) : List α :=
  l.map fun x => if p x then f x else x

/-- Replace the elements that satisfy `p` by `x`, or append `x` when there is none. -/
def upsert {α : Type} (p : α → Bool) (x : α) (l : List α) : List α :=
  if l.any p then l.map fun y => if p y then x else y else l ++ [x]

/-- The value kept for a key. -/
def assocGet {κ ν : Type} [DecidableEq κ] (k : κ) : List (κ × ν) → Option ν
  | [] => none
  | (a, v) :: r => if a = k then some v else assocGet k r

/-- Set the value kept for a key. -/
def assocSet {κ ν : Type} [DecidableEq κ] (k : κ) (v : ν) (l : List (κ × ν)) : List (κ × ν) :=
  upsert (fun e => e.1 == k) (k, v) l

/-- A counter adds 1 and stops at its largest value (R315). -/
def satInc {w : Nat} (n : BitVec w) : BitVec w :=
  if n = BitVec.allOnes w then n else n + 1#w

/-- A counter adds `k` and stops at its largest value (R315). -/
def satAdd {w : Nat} (n : BitVec w) (k : Nat) : BitVec w :=
  if n.toNat + k < 2 ^ w then BitVec.ofNat w (n.toNat + k) else BitVec.allOnes w

/-- ⌈a / b⌉. -/
def ceilDiv (a b : Nat) : Nat := (a + b - 1) / b

/-- The largest of a list of numbers, 0 for none. -/
def maxOf (l : List Nat) : Nat := l.foldl max 0

/-- The sum of a list of numbers. -/
def sumOf (l : List Nat) : Nat := l.foldl (· + ·) 0

/-- Set or clear one bit. -/
def setBit {w : Nat} (v : BitVec w) (i : Nat) (b : Bool) : BitVec w :=
  if b then v ||| (1#w <<< i) else v &&& ~~~(1#w <<< i)

/-- Change element `i` of a list. -/
def modAt {α : Type} (l : List α) (i : Nat) (f : α → α) : List α :=
  match l, i with
  | [], _ => []
  | x :: r, 0 => f x :: r
  | x :: r, k + 1 => x :: modAt r k f

/-- Insert into a list kept in order, after the elements not greater. -/
def insertBy {α : Type} (le : α → α → Bool) (x : α) : List α → List α
  | [] => [x]
  | y :: r => if le y x then y :: insertBy le x r else x :: y :: r

/-- Sort, keeping the order of equal elements. -/
def sortBy {α : Type} (le : α → α → Bool) (l : List α) : List α :=
  l.foldl (fun acc x => insertBy le x acc) []

/-- The elements without repeats, first occurrences kept. -/
def nub {α : Type} [DecidableEq α] (l : List α) : List α :=
  l.foldl (fun acc x => if acc.contains x then acc else acc ++ [x]) []

/-! ### Addressed memories -/

/-- What an address that is not listed reads as (log 7). -/
def Memory.blank : Byte := 0

/-- The byte at an address. -/
def Memory.read (m : Memory) (a : Nat) : Byte :=
  match m with
  | [] => Memory.blank
  | (b, v) :: r => if b = a then v else Memory.read r a

/-- Write one byte, keeping the canonical form: addresses rising, nothing listed that reads as blank. -/
def Memory.write (m : Memory) (a : Nat) (v : Byte) : Memory :=
  match m with
  | [] => if v = Memory.blank then [] else [(a, v)]
  | (b, w) :: r =>
    if a < b then (if v = Memory.blank then (b, w) :: r else (a, v) :: (b, w) :: r)
    else if a = b then (if v = Memory.blank then r else (a, v) :: r)
    else (b, w) :: Memory.write r a v

/-- Write a run of bytes from an address. -/
def Memory.writeBytes (m : Memory) (a : Nat) (bs : Buf) : Memory :=
  match bs with
  | [] => m
  | v :: r => Memory.writeBytes (Memory.write m a v) (a + 1) r

/-- Read a run of bytes from an address. -/
def Memory.readBytes (m : Memory) (a n : Nat) : Buf :=
  (List.range n).map fun i => Memory.read m (a + i)

/-- Store cells, in order. -/
def Memory.place (m : Memory) (cells : List Host.Cell) : Memory := cells.foldl (fun m x => Memory.write m x.1 x.2) m

/-- Every listed address of `m` is at least `lo`, addresses rise strictly, and no listed byte is blank. -/
def Memory.wfFrom (lo : Nat) : Memory → Bool
  | [] => true
  | (a, v) :: r => decide (lo ≤ a) && decide (v ≠ Memory.blank) && Memory.wfFrom (a + 1) r

/-- The canonical form of a memory. -/
def Memory.wf (m : Memory) : Bool := Memory.wfFrom 0 m

/-! ### Time and events -/

/-- P-clock counts in `us` microseconds: 425 a microsecond (R435, R438). -/
def countsOfUs (us : Nat) : Nat := 425 * us

/-- P-clock counts in `ns` nanoseconds, rounded up (R438). -/
def countsOfNs (ns : Nat) : Nat := ceilDiv (425 * ns) 1000

/-- Counts since `since`. -/
def State.elapsed (s : State) (since : W64) : Nat := (s.pclk - since).toNat

/-- Take the next event sequence number (R63, R371). -/
def State.event (s : State) : Nat × State :=
  (s.sasel.eventSeq + 1, { s with sasel := { s.sasel with eventSeq := s.sasel.eventSeq + 1 } })

/-- Take a free value's number. -/
def State.fresh (s : State) : Nat × State := (s.free, { s with free := s.free + 1 })

/-! ### Readiness bits (R314) -/

def bitHostport : Nat := 0
def bitFront : Nat := 1
def bitMailbox : Nat := 2
def bitQmgr : Nat := 3
def bitCtrl : Nat := 4
def bitLoom : Nat := 5
def bitSysregion : Nat := 6
def bitFlashmap : Nat := 7
def bitIndex : Nat := 8
def bitTables : Nat := 9
def bitWoane : Nat := 10
def bitGraft : Nat := 11
def bitHbm (x : Nat) : Nat := 16 + x
def bitFh (h : Nat) : Nat := 40 + h
def bitFp (p : Nat) : Nat := 56 + p

/-- A readiness bit is set. -/
def State.isReady (s : State) (i : Nat) : Bool := s.boot.ready.getLsbD i

/-- Set or clear a readiness bit. -/
def State.setReady (s : State) (i : Nat) (b : Bool) : State :=
  { s with boot := { s.boot with ready := setBit s.boot.ready i b } }

/-! ### Handles (R155, R276) -/

def kindImage : Nat := 1
def kindModel : Nat := 2
def kindFilter : Nat := 3
def kindGraft : Nat := 4
def kindLog : Nat := 5
def kindContext : Nat := 6
def kindConn : Nat := 7
def kindIndex : Nat := 8
def kindSegment : Nat := 9
def kindTable : Nat := 10
def kindSession : Nat := 11

/-- A handle: generation [31:24], kind [23:20], index [11:0]. -/
def mkHandle (gen kind index : Nat) : W32 := BitVec.ofNat 32 (gen * 2 ^ 24 + kind * 2 ^ 20 + index)

def hGen (h : W32) : Nat := h.toNat / 2 ^ 24
def hKind (h : W32) : Nat := h.toNat / 2 ^ 20 % 16
def hIndex (h : W32) : Nat := h.toNat % 4096
def hRsv (h : W32) : Nat := h.toNat / 4096 % 256

/-- The generation after `g`: 1 to 255 and then back to 1. -/
def nextGen (g : Nat) : Nat := if g ≥ 255 then 1 else g + 1

/-- The generation with which an index is issued next. -/
def genFor (gens : List (Nat × Nat)) (i : Nat) : Nat := (assocGet i gens).getD 1

/-- An index has been released: it is reissued with the next generation. -/
def bumpGen (gens : List (Nat × Nat)) (i : Nat) : List (Nat × Nat) := assocSet i (nextGen (genFor gens i)) gens

/-- The lowest index below `limit` that is not used. -/
def lowestFree (used : List Nat) (limit : Nat) : Option Nat :=
  (List.range (min limit (used.length + 1))).find? fun i => !used.contains i

/-- A handle names the object of this kind, index and generation. -/
def names (h : W32) (kind gen index : Nat) : Bool := h == mkHandle gen kind index

/-- A queue handle: generation [31:24], index [17:0] (R276). -/
def mkQueueHandle (gen index : Nat) : W32 := BitVec.ofNat 32 (gen * 2 ^ 24 + index)
def qhGen (h : W32) : Nat := h.toNat / 2 ^ 24
def qhIndex (h : W32) : Nat := h.toNat % 2 ^ 18

/-! ### Status codes (R319, R320) -/

/-- The code of a status. -/
def Status.code : Status → Nat
  | .ok => 0x00 | .exhausted => 0x01 | .short => 0x02 | .degraded => 0x03 | .deadlineMissed => 0x04
  | .infeasible => 0x05 | .staleHandle => 0x06 | .badField => 0x07 | .notReady => 0x08 | .noResource => 0x09
  | .contextTorn => 0x0A | .mediaError => 0x0B | .damaged => 0x0C | .suspect => 0x0D | .readOnly => 0x0E
  | .denied => 0x0F | .versionGone => 0x10

/-- The place of a status in the order of R320, 0 the first. -/
def Status.rank : Status → Nat
  | .badField => 0 | .staleHandle => 1 | .versionGone => 2 | .denied => 3 | .notReady => 4 | .noResource => 5
  | .infeasible => 6 | .contextTorn => 7 | .readOnly => 8 | .damaged => 9 | .mediaError => 10 | .suspect => 11
  | .deadlineMissed => 12 | .degraded => 13 | .exhausted => 14 | .short => 15 | .ok => 16

/-- The status of R320 among those that apply: the first in its order, OK when none applies. -/
def firstStatus (l : List Status) : Status :=
  l.foldl (fun a b => if b.rank < a.rank then b else a) .ok

/-- A status that applies when a condition holds. -/
def when (c : Bool) (st : Status) : List Status := if c then [st] else []

/-- FLAGS of a completion (R318). -/
def Flags.word (f : Flags) : W32 :=
  BitVec.ofNat 32 (f.cpExact.toNat + 2 * f.cpFetch.toNat + 4 * f.cpRerank.toNat + 8 * f.cpGen.toNat
    + 16 * f.widened.toNat + 32 * f.rescaled.toNat + 64 * f.writeThrottled.toNat)

/-! ### CRC-16 and completion entries (R317) -/

/-- One bit of CRC-16, polynomial 0x1021. -/
def crcBit (c : W16) : W16 := if c.msb then (c <<< 1) ^^^ 0x1021#16 else c <<< 1

/-- One byte of CRC-16. -/
def crcByte (c : W16) (b : Byte) : W16 :=
  let c0 := c ^^^ (b.zeroExtend 16 <<< 8)
  crcBit (crcBit (crcBit (crcBit (crcBit (crcBit (crcBit (crcBit c0)))))))

/-- CRC-16, initial value 0xFFFF, no reflection, no final XOR (R317). -/
def crc16 (bs : Buf) : W16 := bs.foldl crcByte 0xFFFF#16

/-- Bytes 0–29 of a completion entry, lowest first. -/
def Completion.body (c : Completion) : Buf :=
  leBytes 4 c.cmdTag.toNat ++ leBytes 8 c.result0.toNat ++ leBytes 8 c.result1.toNat ++ leBytes 4 c.flags.toNat
    ++ [0, c.status] ++ leBytes 4 c.seq.toNat

/-- The 32 bytes of a completion entry (R317). -/
def Completion.bytes (c : Completion) : Buf := c.body ++ leBytes 2 c.check.toNat

/-- The completion entry of a result, with its SEQ and CHECK. -/
def mkCompletion (r : Result) (seq : W32) (tag : W32) : Completion :=
  let c : Completion :=
    { seq := seq, status := BitVec.ofNat 8 r.status.code, flags := r.flags.word, result0 := r.result0,
      result1 := r.result1, cmdTag := tag }
  { c with check := crc16 c.body }

/-! ### Submissions and their ends (R33, R316, R387) -/

def State.sub? (s : State) (sid : Nat) : Option Sub := s.sasel.subs.find? fun u => u.sid == sid

def State.modSub (s : State) (sid : Nat) (f : Sub → Sub) : State :=
  { s with sasel := { s.sasel with subs := updWhere (fun u => u.sid == sid) f s.sasel.subs } }

/-- A command's outcome is final.  A command that already has its outcome keeps it. -/
def State.finish (s : State) (sid : Nat) (r : Result) : State :=
  s.modSub sid fun u => if u.due.isNone then { u with due := some r, running := false } else u

/-- The flags of the completion of an answer request (R318). -/
def Req.flagSet (r : Req) : Flags :=
  { widened := r.widened, cpGen := r.cpGen, cpRerank := r.cpRerank, cpFetch := r.cpFetch, cpExact := r.cpExact }

/-- The flags that an answer request has taken so far, which are set whatever the status (R52); other commands have none. -/
def State.flagsOf (s : State) (sid : Nat) : Flags :=
  match s.sub? sid with
  | none => {}
  | some u =>
    if u.entry.opcode.toNat = 0x10 then
      match s.ans.reqs.find? fun r => r.sid == sid with
      | some r => r.flagSet
      | none => {}
    else {}

/-- A command ends with a status and nothing else to say. -/
def State.failWith (s : State) (sid : Nat) (st : Status) : State := s.finish sid { status := st, flags := s.flagsOf sid }

/-- A command has begun to act and ends with a later event. -/
def State.start (s : State) (sid : Nat) : State := s.modSub sid fun u => { u with running := true }

/-- The command still waits for its outcome. -/
def State.live (s : State) (sid : Nat) : Bool :=
  match s.sub? sid with
  | some u => u.due.isNone
  | none => false

/-- The queue pair of an index. -/
def State.queue (s : State) (i : Nat) : Queue := (s.queues.find? fun q => q.index == i).getD { index := i }

def State.setQueue (s : State) (q : Queue) : State :=
  { s with queues := upsert (fun p => p.index == q.index) q s.queues }

def State.modQueue (s : State) (i : Nat) (f : Queue → Queue) : State := s.setQueue (f (s.queue i))

/-- The connection of a handle. -/
def State.conn? (s : State) (h : W32) : Option Conn :=
  s.hp.conns.find? fun c => names h kindConn c.gen c.index

/-- The handle names a connection that is open and not in error. -/
def State.connOpen (s : State) (h : W32) : Bool :=
  match s.conn? h with
  | some c => decide (c.state = .opened)
  | none => false

def State.modConn (s : State) (h : W32) (f : Conn → Conn) : State :=
  { s with hp := { s.hp with conns := updWhere (fun c => names h kindConn c.gen c.index) f s.hp.conns } }

/-- Packets of a message of `n` bytes: at most 4,096 B of payload each, and at least one (R288). -/
def rcPackets (n : Nat) : Nat := max 1 (ceilDiv n 4096)

/-- What leaves as RoCEv2 packets, the frames of the lossless priority (R288, R302, R303). -/
def Out.roce : Out → Bool
  | .write _ _ _ _ | .readResponse _ _ _ => true
  | .wire k _ _ =>
    match k with
    | .ack | .nakSequence | .nakRemoteAccess | .nakInvalidRequest | .rnr | .rep | .rej | .disconnectReply | .retransmit | .cnp => true
    | .readRequest | .xoff | .xon | .echoReply | .arpReply | .neighborAdvert | .announce | .discoveryAnswer => false
  | _ => false

/-- The C-tag of the host port's frames: every frame carries one when a VID is set or PFC is on (R302). -/
def HpSettings.tag (h : HpSettings) (roce : Bool) : Option (Option Nat × Nat) :=
  if h.vidValid || h.pfcOn then some (if roce && h.pfcOn then some h.pfcPrio else none, if h.vidValid then h.vid.toNat else 0) else none

/-- The frame that carries what leaves the sled, if it leaves through a port as Ethernet frames: RoCEv2 data carries ECT(0) and the data
DSCP, a CNP its own DSCP (R302, R304); a Woane DATA packet ECT(0) and the data DSCP of the plot settings, every other packet the
control DSCP (R341). -/
def State.frameOf (s : State) (o : Out) : Option TxFrame :=
  let h := s.hp.settings
  let hp := fun (dscp : Option Nat) (ect0 : Bool) => some ({ port := 0, tag := h.tag o.roce, dscp := dscp, ect0 := ect0, body := o } : TxFrame)
  match o with
  | .write _ _ _ _ | .readResponse _ _ _ | .wire .retransmit _ _ => hp (some h.dataDscp) true
  | .wire .cnp _ _ => hp (some h.cnpDscp) false
  | .wire .readRequest _ _ => none
  | .wire .echoReply _ v | .wire .arpReply _ v | .wire .neighborAdvert _ v =>
    if v.headD 0 = 0 then hp none false else some { port := v.headD 0, body := o }
  | .wire _ _ _ | .datagram _ _ => hp none false
  | .packet p _ _ b =>
    let plot := s.fabric.plot.getD {}
    let data := Buf.at b 3 == 1
    some { port := 1 + p, dscp := some (if data then plot.dataDscp else plot.ctlDscp), ect0 := data, body := o }
  | _ => none

/-- A frame leaves its port. -/
def State.putFrame (s : State) (o : Out) : State :=
  match s.frameOf o with
  | some f => { s with frames := f :: s.frames }
  | none => s

/-- What leaves goes to its port, where a received pause holds the frames of the lossless priority (R303). -/
def State.toPort (s : State) (o : Out) : State :=
  if o.roce && s.hp.settings.pfcOn && s.hp.paused then { s with txHeld := s.txHeld ++ [o] } else s.putFrame o

/-- The pause has ended: the frames that waited leave in order (R303). -/
def State.resume (s : State) : State :=
  s.txHeld.foldl State.putFrame { s with hp := { s.hp with paused := false }, txHeld := [] }

/-- Something leaves the sled; an RDMA WRITE takes the next PSNs of its connection. -/
def State.emit (s : State) (o : Out) : State :=
  let s : State := ({ s with out := o :: s.out } : State).toPort o
  match o with
  | .write c _ _ b => s.modConn c fun x => { x with sendPsn := x.sendPsn + BitVec.ofNat 24 (rcPackets b.length) }
  | _ => s

/-- Several things leave the sled, in order. -/
def State.emits (s : State) (os : List Out) : State := os.foldl State.emit s

/-- The connection a submission's completions and buffers use: the queue pair's, or the one that wrote CONTROL (R326). -/
def State.connOf (s : State) (u : Sub) : W32 :=
  match u.origin with
  | .queue i => (s.queue i).conn
  | .mailbox _ _ => u.conn

/-- B of a mailbox command with RKEY 0 lies in the slot's data area (R316). -/
def Sub.inSlot (u : Sub) : Bool :=
  match u.origin with
  | .mailbox _ _ => u.entry.rkey == 0
  | .queue _ => false

/-- The bounds of a buffer placed in the data area, 0x080 to 0xFF7 of the slot (R324). -/
def Sub.slotRangeOk (u : Sub) : Bool :=
  decide (0x80 ≤ u.entry.addr.toNat ∧ u.entry.addr.toNat + u.entry.length.toNat ≤ 0xFF8)

/-- The bytes of B as the command reads them: from the copied data area, or as the RDMA READ delivered them.
`none` is a remote access error, or a range outside the data area. -/
def Sub.readB (u : Sub) (delivered : Option Buf) : Option Buf :=
  if u.inSlot then
    if u.slotRangeOk then some (Buf.slice u.copied (u.entry.addr.toNat - 0x80) u.entry.length.toNat) else none
  else delivered.map fun b => Buf.slice b 0 u.entry.length.toNat

/-- Write result bytes into B: into the slot's data area, or by RDMA WRITE (R316). -/
def State.writeB (s : State) (u : Sub) (bytes : Buf) : State :=
  match u.origin with
  | .mailbox m _ =>
    if u.entry.rkey == 0 then
      let off := u.entry.addr.toNat - 0x80
      { s with sasel := { s.sasel with slots := modAt s.sasel.slots m fun x =>
          { x with data := (List.range 3960).map fun i =>
              if off ≤ i ∧ i < off + bytes.length then Buf.at bytes (i - off) else Buf.at x.data i } } }
    else s.emit (.write u.conn u.entry.addr u.entry.rkey bytes)
  | .queue _ => s.emit (.write (s.connOf u) u.entry.addr u.entry.rkey bytes)

/-- B2 of an entry: address, remote key, length (R316). -/
def Entry.b2Addr (e : Entry) : W64 := e.arg0
def Entry.b2Rkey (e : Entry) : W32 := e.arg1.truncate 32
def Entry.b2Len (e : Entry) : Nat := e.arg1.toNat / 2 ^ 32
def Entry.b3Rkey (e : Entry) : W32 := e.arg3.truncate 32
def Entry.b3Len (e : Entry) : Nat := e.arg3.toNat / 2 ^ 32

/-- Write result bytes into B2. -/
def State.writeB2 (s : State) (u : Sub) (bytes : Buf) : State :=
  s.emit (.write (s.connOf u) u.entry.b2Addr u.entry.b2Rkey bytes)

end Sys2Proof.Machine
end

