-- ==== Sys2Proof/Machine/Operands.lean ====
section
/-! DEFINITION. The operands of a submission: the entry's layout (R316), each command's class and the fields it uses
(table *Commands*, R322), and the objects its handles name (R155). -/

namespace Sys2Proof.Machine

open Sys2Proof

/-- A submission entry from its 64 bytes (R316, table *Submission entry*). -/
def Entry.parse (b : Buf) : Entry :=
  { opcode := Buf.at b 0
    rsv := BitVec.ofNat 16 (Buf.le b 1 2)
    gen := Buf.at b 3
    cmdTag := BitVec.ofNat 32 (Buf.le b 4 4)
    addr := BitVec.ofNat 64 (Buf.le b 8 8)
    rkey := BitVec.ofNat 32 (Buf.le b 16 4)
    length := BitVec.ofNat 32 (Buf.le b 20 4)
    handleA := BitVec.ofNat 32 (Buf.le b 24 4)
    handleB := BitVec.ofNat 32 (Buf.le b 28 4)
    arg0 := BitVec.ofNat 64 (Buf.le b 32 8)
    arg1 := BitVec.ofNat 64 (Buf.le b 40 8)
    arg2 := BitVec.ofNat 64 (Buf.le b 48 8)
    arg3 := BitVec.ofNat 64 (Buf.le b 56 8) }

/-- Classes of the table *Commands*. -/
inductive CmdClass
  | query | queue | answer | index | model | table | graft | flash | tier | context | admin | session
  deriving DecidableEq, Repr

/-- The class of an opcode; none for an opcode that is not in the table (R322). -/
def classOf (op : Nat) : Option CmdClass :=
  if op = 0x00 then some .query
  else if 0x01 ≤ op ∧ op ≤ 0x03 then some .queue
  else if op = 0x04 then some .query
  else if op = 0x10 then some .answer
  else if 0x11 ≤ op ∧ op ≤ 0x19 then some .index
  else if 0x20 ≤ op ∧ op ≤ 0x25 then some .model
  else if 0x30 ≤ op ∧ op ≤ 0x37 then some .table
  else if 0x40 ≤ op ∧ op ≤ 0x47 then some .graft
  else if op = 0x48 then some .query
  else if 0x50 ≤ op ∧ op ≤ 0x54 then some .flash
  else if op = 0x60 then some .tier
  else if op = 0x61 then some .query
  else if 0x68 ≤ op ∧ op ≤ 0x6A then some .context
  else if 0x6B = op then some .query
  else if 0x70 ≤ op ∧ op ≤ 0x72 then some .query
  else if 0xE0 ≤ op ∧ op ≤ 0xEB then some .admin
  else if 0xF0 ≤ op ∧ op ≤ 0xF2 then some .session
  else none

/-- The fields a command uses: B, HANDLE_A, HANDLE_B, and for ARG0–ARG3 the bits it uses. -/
structure Uses where
  b : Bool := false
  ha : Bool := false
  hb : Bool := false
  a0 : Nat := 0
  a1 : Nat := 0
  a2 : Nat := 0
  a3 : Nat := 0
  deriving DecidableEq, Repr

/-- All 64 bits of an operand. -/
def allBits : Nat := 2 ^ 64 - 1

/-- The operand columns of the table *Commands* (R322). -/
def usesOf (op : Nat) : Uses :=
  match op with
  | 0x01 => { b := true }
  | 0x02 => { ha := true }
  | 0x03 => { ha := true, hb := true }
  | 0x04 => { ha := true, b := true }
  | 0x10 => { b := true }
  | 0x11 => { b := true, a0 := allBits, a1 := allBits, a2 := allBits, a3 := allBits }
  | 0x12 => { ha := true }
  | 0x13 => { ha := true }
  | 0x14 => { ha := true, hb := true, b := true }
  | 0x15 => { ha := true, hb := true }
  | 0x16 => { ha := true, b := true }
  | 0x17 => { ha := true, b := true }
  | 0x18 => { ha := true, a0 := 2 ^ 32 - 1 }
  | 0x19 => { ha := true, a0 := 2 ^ 32 - 1 }
  | 0x20 => { b := true }
  | 0x21 => { ha := true }
  | 0x22 => { ha := true, a0 := 2 ^ 32 - 1 }
  | 0x23 => { ha := true }
  | 0x24 => { b := true }
  | 0x25 => { ha := true }
  | 0x30 => { b := true }
  | 0x31 => { ha := true }
  | 0x32 => { ha := true, b := true, a0 := allBits, a1 := allBits, a2 := 2 ^ 44 - 1 }
  | 0x33 => { ha := true, b := true, a2 := 2 ^ 32 - 1 }
  | 0x34 => { ha := true, a0 := allBits, a1 := 2 ^ 16 - 1 }
  | 0x35 => { ha := true, b := true, a2 := 2 ^ 32 - 1, a3 := allBits }
  | 0x36 => { ha := true }
  | 0x37 => { ha := true }
  | 0x40 => { a0 := 2 ^ 16 - 1 }
  | 0x41 => { ha := true, b := true }
  | 0x42 => { ha := true, a0 := allBits }
  | 0x43 => { ha := true }
  | 0x44 => { b := true }
  | 0x45 => { ha := true, a0 := 1 }
  | 0x46 => { ha := true }
  | 0x47 => { ha := true }
  | 0x48 => { ha := true, b := true }
  | 0x50 => { a0 := 1 }
  | 0x51 => { a0 := allBits }
  | 0x52 => { b := true, a0 := allBits, a1 := allBits }
  | 0x53 => { b := true, a0 := allBits, a1 := allBits }
  | 0x54 => { a0 := allBits, a1 := allBits }
  | 0x60 => { a0 := allBits, a1 := 3 }
  | 0x61 => { b := true, a0 := allBits }
  | 0x68 => { ha := true, a0 := 2 ^ 9 - 1 }
  | 0x69 => { ha := true }
  | 0x6A => { ha := true, b := true, a0 := allBits, a1 := allBits, a2 := 2 ^ 16 - 1 }
  | 0x6B => { ha := true, b := true }
  | 0x70 => { b := true, a0 := 2 ^ 12 - 1 }
  | 0x71 => { b := true, a0 := allBits }
  | 0x72 => { b := true, a0 := allBits, a1 := allBits, a2 := allBits, a3 := allBits }
  | 0xE0 => { a0 := 2 ^ 12 - 1, a1 := 2 ^ 32 - 1 }
  | 0xE1 => { ha := true, a0 := 2 ^ 12 - 1, a1 := 1 }
  | 0xE2 => { b := true, a0 := 0x103 }
  | 0xE3 => { b := true }
  | 0xE4 => { a0 := allBits }
  | 0xE6 => { a0 := 2 ^ 24 - 1 }
  | 0xE8 => { b := true, a0 := 1 }
  | 0xE9 => { a0 := 0xFF, a1 := allBits }
  | 0xEA => { a0 := 2 ^ 32 - 1, a1 := 2 ^ 32 - 1 }
  | 0xEB => { b := true }
  | 0xF0 => { b := true, a0 := 3 }
  | 0xF1 => { b := true, a0 := 3 }
  | 0xF2 => { ha := true }
  | _ => {}

/-- An operand has no bit outside the ones the command uses. -/
def withinMask (v : W64) (mask : Nat) : Bool := v &&& ~~~(BitVec.ofNat 64 mask) == 0

/-- HANDLE_A of the command is a queue handle, whose layout is R276. -/
def takesQueue (op : Nat) : Bool := op == 0x02 || op == 0x03 || op == 0x04

/-- The reserved bits [19:12] of a handle of R155 are 0 (R18, R155). -/
def handleRsvOk (h : W32) : Bool := hRsv h == 0

/-- The entry is well formed: its opcode is in the table, RSV and the reserved bits of its handles are 0, and the fields the
command does not use are 0 (R18, R155, R316, R322). -/
def Entry.formOk (e : Entry) : Bool :=
  let u := usesOf e.opcode.toNat
  (classOf e.opcode.toNat).isSome && e.rsv == 0
    && (takesQueue e.opcode.toNat || handleRsvOk e.handleA) && handleRsvOk e.handleB && (u.b || (e.addr == 0 && e.rkey == 0 && e.length == 0))
    && (u.ha || e.handleA == 0) && (u.hb || e.handleB == 0)
    && withinMask e.arg0 u.a0 && withinMask e.arg1 u.a1 && withinMask e.arg2 u.a2 && withinMask e.arg3 u.a3

/-! ### Objects that handles name.  A stale handle names none (R155). -/

def State.index? (s : State) (h : W32) : Option Index :=
  s.idx.list.find? fun x => names h kindIndex x.gen x.index
def State.image? (s : State) (h : W32) : Option Image :=
  s.img.images.find? fun x => names h kindImage x.gen x.index
def State.model? (s : State) (h : W32) : Option Model :=
  s.img.models.find? fun x => names h kindModel x.gen x.index
def State.filter? (s : State) (h : W32) : Option Filter :=
  s.img.filters.find? fun x => names h kindFilter x.gen x.index
def State.ctx? (s : State) (h : W32) : Option Ctx :=
  s.work.ctxs.find? fun x => names h kindContext x.gen x.index
def State.table? (s : State) (h : W32) : Option Table :=
  s.tables.list.find? fun x => names h kindTable x.gen x.index
def State.log? (s : State) (h : W32) : Option Log :=
  s.grafts.logs.find? fun x => names h kindLog x.gen x.index
def State.graft? (s : State) (h : W32) : Option Graft :=
  s.grafts.list.find? fun x => names h kindGraft x.gen x.index
def State.session? (s : State) (h : W32) : Option Session :=
  s.sasel.sessions.find? fun x => names h kindSession x.gen x.index

/-- The bytes of a section of an image, and of its beater programs and its element blocks (R135). -/
def Image.part (im : Image) (kind : Nat) : Buf := (assocGet kind im.raw).getD []
def Image.epi (im : Image) : Buf := im.part 0x02
def Image.weights (im : Image) : Buf := im.part 0x04

/-- The segment of an index whose handle it is, while the handle is current (R62). -/
def Index.segment? (x : Index) (h : W32) : Option Segment :=
  x.segments.find? fun g => g.handle == h && !g.committed

/-- A queue handle names a pair that is ACTIVE (R276, R282). -/
def State.activeQueue? (s : State) (h : W32) : Option Queue :=
  let q := s.queue (qhIndex h)
  if h == mkQueueHandle q.gen q.index && q.state = .active then some q else none

/-- A queue handle names the current generation of an index in use. -/
def State.queueOf? (s : State) (h : W32) : Option Queue :=
  let q := s.queue (qhIndex h)
  if h == mkQueueHandle q.gen q.index && q.state ≠ .free then some q else none

/-- The handles of an entry name objects that are there and have not been released (R155, R47, R67, R309).
A command without a handle passes. -/
def State.handlesLive (s : State) (e : Entry) : Bool :=
  let op := e.opcode.toNat
  let a := e.handleA
  let indexLive := match s.index? a with | some x => x.releasedAt.isNone | none => false
  if op = 0x02 ∨ op = 0x03 then (s.activeQueue? a).isSome && (op = 0x02 || s.connOpen e.handleB)
  else if op = 0x04 then (s.queueOf? a).isSome
  else if op = 0x14 ∨ op = 0x15 then
    indexLive && s.idx.list.any fun x => (x.segment? e.handleB).isSome
  else if 0x12 ≤ op ∧ op ≤ 0x19 then indexLive
  else if op = 0x21 ∨ op = 0x22 then (match s.image? a with | some x => x.releasedAt.isNone | none => false)
  else if op = 0x23 ∨ op = 0x68 then (match s.model? a with | some x => x.releasedAt.isNone | none => false)
  else if op = 0x25 then (match s.filter? a with | some x => x.releasedAt.isNone | none => false)
  else if 0x31 ≤ op ∧ op ≤ 0x37 then (s.table? a).isSome
  else if 0x41 ≤ op ∧ op ≤ 0x43 then (s.log? a).isSome
  else if 0x45 ≤ op ∧ op ≤ 0x48 then (s.graft? a).isSome
  else if op = 0x69 ∨ op = 0x6A ∨ op = 0x6B then (s.ctx? a).isSome
  else if op = 0xE1 then
    (s.table? a).isSome || (s.log? a).isSome || indexLive
  else if op = 0xF2 then (s.session? a).isSome
  else true

/-- A client has access to an object: it created it, or it has been granted access (R322). -/
def State.hasAccess (s : State) (client creator : Nat) (h : W32) : Bool :=
  client == creator || s.sasel.grants.contains (h, client)

/-- The object named in HANDLE_A gives the client access; commands that name no such object pass (R322). -/
def State.accessOk (s : State) (client : Nat) (e : Entry) : Bool :=
  let op := e.opcode.toNat
  if 0x12 ≤ op ∧ op ≤ 0x19 then
    (match s.index? e.handleA with | some x => s.hasAccess client x.creator e.handleA | none => true)
  else if 0x31 ≤ op ∧ op ≤ 0x37 then
    (match s.table? e.handleA with | some x => s.hasAccess client x.creator e.handleA | none => true)
  else if 0x41 ≤ op ∧ op ≤ 0x43 then
    (match s.log? e.handleA with | some x => s.hasAccess client x.creator e.handleA | none => true)
  else true

/-- What a command acts on, for R322: commands that act on the same object take effect in accept order. -/
def Entry.target (e : Entry) : Option (Nat × Nat) :=
  let op := e.opcode.toNat
  if op = 0xE2 then some (2, e.arg0.toNat % 4)
  else if op = 0xF1 then some (2, e.arg0.toNat % 4)
  else if op = 0xE0 ∨ op = 0x70 then some (3, e.arg0.toNat)
  else if op = 0xE3 then some (4, 0)
  else if op = 0xE4 then some (5, 0)
  else if op = 0xEB then some (6, 0)
  else if (0x51 ≤ op ∧ op ≤ 0x54) ∨ op = 0x60 ∨ op = 0x61 then some (1, e.arg0.toNat)
  else if (usesOf op).ha then some (0, e.handleA.toNat)
  else none

end Sys2Proof.Machine
end

