-- ==== Sys2Proof/Machine/Flags.lean ====
section
/-! DEFINITION. The error log (R371 to R379) and the conditions that the sled shows as levels: ALERT_L (R376, R448),
acceptance of submissions (R28, R254), end-of-life state (R257, R258). -/

namespace Sys2Proof.Machine

open Sys2Proof

/-! ### Error log -/

def unitTile : Nat := 0x01
def unitHbm : Nat := 0x02
def unitCc : Nat := 0x03
def unitColumn : Nat := 0x04
def unitHub : Nat := 0x05
def unitExtent : Nat := 0x06
def unitLane : Nat := 0x07
def unitPort : Nat := 0x08
def unitCore : Nat := 0x09
def unitLoom : Nat := 0x0A
def unitLaser : Nat := 0x0B
def unitRegulator : Nat := 0x0C
def unitKnot : Nat := 0x0D
def unitGraft : Nat := 0x0E

end Sys2Proof.Machine

namespace Sys2Proof

/-- The record key of R372, beyond UNIT_TYPE. -/
def ErrEvent.key (e : ErrEvent) : List Nat :=
  if e.unitType = Machine.unitTile then [e.unitIndex, e.addr.toNat / 4096]
  else if e.unitType = Machine.unitExtent then [e.unitIndex, e.addr.toNat, e.lastAddr.toNat % 2 ^ 32]
  else if e.unitType = Machine.unitGraft then [e.unitIndex, e.addr.toNat]
  else [e.unitIndex]

/-- LAST_ADDR of the error (table *Error units*). -/
def ErrEvent.last (e : ErrEvent) : W64 :=
  if e.unitType = Machine.unitExtent ∨ e.unitType = Machine.unitGraft then e.lastAddr else e.addr

end Sys2Proof

namespace Sys2Proof.Machine

open Sys2Proof

/-- The code of a class, which is also its rank (R371). -/
def ErrClass.code : ErrClass → Nat
  | .ce => 0 | .ue => 1 | .unitFail => 2 | .deviceFatal => 3

/-- A record in handling is of the same unit of coalescing as the error. -/
def ErrRec.sameKey (r : ErrRec) (e : ErrEvent) : Bool := r.unitType == e.unitType && r.key == e.key

/-- The error can coalesce into the record (R374). -/
def ErrRec.takes (r : ErrRec) (e : ErrEvent) : Bool :=
  r.sameKey e && r.cls == e.cls && decide (r.count < 0xFFFFFFFF)

/-- There is room for a record of the class (R375). -/
def logRoom (c : ErrClass) (inHandling : Nat) : Bool :=
  match c with
  | .ce | .ue => decide (inHandling < 65520)
  | .unitFail | .deviceFatal => decide (inHandling < 65536)

/-- SEQ of the lower-class record of the same key that a new record escalates: the highest (R374). -/
def escalates (log : List ErrRec) (e : ErrEvent) : Option Nat :=
  (log.filter fun r => r.sameKey e && decide (r.cls.code < e.cls.code)).foldl
    (fun m r => match m with
      | none => some r.seq
      | some k => some (max k r.seq)) none

/-- The record that opens for an error (R371). -/
def newRecord (log : List ErrRec) (seq event : Nat) (e : ErrEvent) : ErrRec :=
  { seq := seq, firstEvent := event, lastEvent := event, addr := e.addr, lastAddr := e.last, layerId := e.layerId
    context := BitVec.ofNat 12 (e.context.getD 0), ctxValid := e.context.isSome
    prior := (match escalates log e with
      | some k => BitVec.ofNat 64 k
      | none => 0xFFFFFFFFFFFFFFFF#64)
    bit := if e.cls = .ce then e.bit else 0xFF#8
    syndrome := e.syndrome, source := e.source, cls := e.cls, unitIndex := e.unitIndex, unitType := e.unitType
    key := e.key }

/-- The history keeps the 1,024 latest UNIT_FAIL and DEVICE_FATAL records, oldest first (R378). -/
def addHistory (h : List ErrRec) (r : ErrRec) : List ErrRec :=
  if r.cls = .unitFail ∨ r.cls = .deviceFatal then (h ++ [r]).drop (h.length + 1 - 1024) else h

/-- One error reaches the log engine: it counts into a record, opens one, or counts as unlogged (R374, R375, R378). -/
def State.logError (s : State) (e : ErrEvent) : State :=
  let n := s.event.1
  let s := s.event.2
  let g := s.integ
  let g := { g with fatal := g.fatal || decide (e.cls = ErrClass.deviceFatal) }
  if g.log.any fun r => r.takes e then
    let log := updWhere (fun r => r.takes e)
      (fun r => { r with count := r.count + 1, lastAddr := e.last, lastEvent := n }) g.log
    { s with integ := { g with log := log } }
  else if logRoom e.cls g.log.length then
    let r := newRecord g.log g.nextSeq n e
    let marked := match escalates g.log e with
      | some k => updWhere (fun r => r.seq == k) (fun r => { r with escalated := true }) g.log
      | none => g.log
    { s with integ := { g with log := marked ++ [r], nextSeq := g.nextSeq + 1, history := addHistory g.history r } }
  else
    { s with integ := { g with unlogged := modAt g.unlogged e.cls.code satInc, unloggedSince := true } }

/-- A UNIT_FAIL of a unit without an address. -/
def State.unitFail (s : State) (unitType unitIndex source : Nat) : State :=
  s.logError { cls := .unitFail, unitType := unitType, unitIndex := unitIndex, source := source }

/-! ### Conditions -/

/-- End-of-life state of a spare percentage given in hundredths (R258). -/
def eolOf (sparePct : Nat) : Nat :=
  if sparePct ≤ 25 then 3 else if sparePct ≤ 100 then 2 else if sparePct ≤ 300 then 1 else 0

/-- Block sets of a channel counted at shipment (R232). -/
def State.shippedBlocks (s : State) : Nat := if s.boot.half then 14400 else 28800

/-- Spare pool of a channel at shipment (R2, R232). -/
def State.shippedSpare (s : State) : Nat := if s.boot.half then 1216 else 2440

/-- Spare pool of a channel now: what was shipped but for the block sets taken out of it (R232, R247). -/
def State.spare (s : State) (c : Channel) : Nat := s.shippedSpare - c.spareTaken

/-- SPARE_PCT of a channel in hundredths of a percent (R257). -/
def State.sparePct (s : State) (c : Channel) : Nat := s.spare c * 10000 / s.shippedBlocks

/-- The sled's SPARE_PCT: that of the channel with the smallest (R257). -/
def State.sledSparePct (s : State) : Nat :=
  s.flash.channels.foldl (fun m c => min m (s.sparePct c)) 10000

/-- The sled's end-of-life state (R258), decided on the exact fraction. -/
def State.eol (s : State) : Nat :=
  let worst := s.flash.channels.foldl (fun m c => min m (s.spare c)) s.shippedBlocks
  let t := s.shippedBlocks
  if worst * 400 ≤ t then 3 else if worst * 100 ≤ t then 2 else if worst * 100 ≤ 3 * t then 1 else 0

/-- A shed and flush runs (R254). -/
def State.flushing (s : State) : Bool := s.power.flush.isSome

/-- The sled accepts submissions: firmware runs, no DEVICE_FATAL, no flush (R28, R254). -/
def State.accepts (s : State) : Bool := !s.integ.fatal && !s.flushing

/-- A record of class UNIT_FAIL or DEVICE_FATAL is in handling. -/
def State.failInHandling (s : State) : Bool :=
  s.integ.log.any fun r => decide (r.cls = .unitFail) || decide (r.cls = .deviceFatal)

/-- Some margin of the table *Ageing monitors* is at or below its warning level (R446, R448). -/
def Power.marginWarning (p : Power) : Bool :=
  p.domains.any (fun d => decide (d.marginMv ≤ 15)) || p.chanMargin.any (fun m => decide (m ≤ 2000))
    || p.laserAge.any (fun l => decide (l.margin ≤ 1000)) || p.laneEye.any (fun e => decide (e ≤ 20))

/-- ALERT_L is asserted (R376, R448, R456). -/
def State.alertL (s : State) : Bool :=
  decide ((s.fail).lasersPresent ≠ 0xF#4)
    || (s.power.housekeeping && s.power.pwrEn && !s.power.pwrgd && decide (s.power.inputMv < 46000))
    || s.failInHandling || s.integ.unloggedSince || s.integ.fatal || s.power.excursion || s.power.coolant
    || decide (s.power.step ≠ 0) || s.power.marginWarning || s.power.thermtrip

end Sys2Proof.Machine
end

