-- ==== Sys2Proof/Machine/Objects.lean ====
section
/-! DEFINITION. The ranks of a plot (R337), the IDs of tiered objects (R164, R187, R212) and the geometry of a table (R186, R188 to R190,
R337). -/

namespace Sys2Proof.Machine

open Sys2Proof

/-! ### Ranks (R337) -/

/-- First 16 bytes of SHA3-256 over IDENTITY_KEY (R313). -/
def State.idDigest (s : State) : Buf := (sha3 s.boot.identityKey).take 16

/-- The sled's own rank: the position of its digest (R337). -/
def State.ownRank? (s : State) : Option Nat :=
  match s.fabric.plot with
  | none => none
  | some p => (List.range p.members.length).find? fun i =>
      match p.members[i]? with
      | some m => m.digest == s.idDigest
      | none => false

def State.ownRank (s : State) : Nat := s.ownRank?.getD 0

/-- The ranks of the plot that are not empty, ascending; a sled that belongs to no plot is rank 0 of a plot of one. -/
def State.ranks (s : State) : List Nat :=
  match s.fabric.plot with
  | none => [0]
  | some p => (List.range p.members.length).filter fun i =>
      match p.members[i]? with
      | some m => m.digest != []
      | none => false

/-! ### Object IDs (R164) -/

/-- An object ID of a kind and a number of its subsystem (log 24). -/
def mkObj (kind n : Nat) : W64 := BitVec.ofNat 64 (kind * 2 ^ 60 + n % 2 ^ 60)
def objKind (id : W64) : Nat := id.toNat / 2 ^ 60

/-- R206: a checkpoint of a table version, one object for each block.  R249: a map checkpoint.  R222, R248, R378: journals and records of
the system region (R164; log 24). -/
def tableCkptObj (table version block : Nat) : W64 := mkObj 9 (table % 256 * 2 ^ 52 + version % 256 * 2 ^ 44 + block % 2 ^ 44)
def mapCkptObj (n : Nat) : W64 := mkObj 8 n
def systemObj (n : Nat) : W64 := mkObj 11 n
/-- R187: table index [59:52], low 8 bits of the version [51:44], block [43:0]. -/
def rowBlockObj (table version block : Nat) : W64 := mkObj 5 (table % 256 * 2 ^ 52 + version % 256 * 2 ^ 44 + block % 2 ^ 44)
/-- R212: job index [59:48], bucket [47:16]. -/
def residualObj (job bucket : Nat) : W64 := mkObj 6 (job % 2 ^ 12 * 2 ^ 48 + bucket % 2 ^ 32 * 2 ^ 16)

/-- Object ID of this rank's part of a log (R208; log 24). -/
def logObj (index : Nat) : W64 := mkObj 7 index
/-- Object ID of a job checkpoint of one tuned block (R229; log 24). -/
def graftCkptObj (job block : Nat) : W64 := mkObj 10 (job % 8 * 2 ^ 48 + block % 2 ^ 44)
/-- The block that a kind-5 ID names. -/
def blockOfObj (id : W64) : Nat := id.toNat % 2 ^ 44

/-! ### Geometry and placement of a table (R186, R188 to R190, R337) -/

/-- Bytes of an element of a table format. -/
def elemBytes (fmt : Nat) : Nat := if fmt = 0x0 ∨ fmt = 0x2 then 1 else if fmt = 0xC then 4 else 2

/-- INT8 and FP8 rows end with an FP32 scale. -/
def rowScaled (fmt : Nat) : Bool := fmt == 0x0 || fmt == 0x2

/-- ROW_BYTES. -/
def rowBytes (fmt dim : Nat) : Nat := ceilDiv (dim * elemBytes fmt + (if rowScaled fmt then 4 else 0)) 8 * 8

def Table.version? (t : Table) (n : Nat) : Option TableVersion := t.versions.find? fun v => v.number == n
def TableDesc.rowBytes (d : TableDesc) : Nat := Machine.rowBytes d.fmt d.dim
def TableDesc.perBlock (d : TableDesc) : Nat := 65536 / d.rowBytes
def TableDesc.blocks (d : TableDesc) : Nat := ceilDiv d.rows d.perBlock
def TableDesc.blockOf (d : TableDesc) (row : Nat) : Nat := row / d.perBlock
def TableDesc.byteOf (d : TableDesc) (row : Nat) : Nat := row % d.perBlock * d.rowBytes

/-- The keeper of a block: that of its shard. -/
def Table.keeper (t : Table) (block : Nat) : Nat := t.keepers.getD (block % t.desc.shards % t.keepers.length) 0

/-- The server of a block under the map held here. -/
def Table.server (t : Table) (block : Nat) : Nat := (assocGet block t.exceptions).getD (t.keeper block)

/-- The blocks a rank keeps: of its shards, or all of a replicated table. -/
def Table.keeps (t : Table) (rank block : Nat) : Bool := !t.desc.sharded || t.keeper block == rank


end Sys2Proof.Machine
end

