-- ==== Sys2Proof/Machine/Place.lean ====
section
/-! DEFINITION. The addresses of HBM and the slot parity of its system region (R160, R162); where flash extents lie and the user
capacity they take: placement (R178, R231 to R234), the extent map (R237), the user capacity of a channel and what accepted commands
reserve of it (R465). -/

namespace Sys2Proof.Machine

open Sys2Proof

/-! ### The HBM address space (R160) -/

def hbmBytes : Nat := 1104 * 2 ^ 30
def systemBytes : Nat := 144 * 2 ^ 30
def granuleBytes : Nat := 4096
def slotsPerStack : Nat := 12058624

/-- The stack and slot of a logical HBM address while all 24 stacks are in service (R160). -/
def stackOf (a : Nat) : Nat := a / granuleBytes % 24
def slotOf (a : Nat) : Nat := a / granuleBytes / 24

/-- The stack byte of a logical HBM address (R160). -/
def stackByte (a : Nat) : Nat := slotOf a * granuleBytes + a % granuleBytes

/-! ### Slot parity of the system region (R162) -/

/-- The parity granule of a slot: on HBM(k mod 24). -/
def parityGranule (k : Nat) : Nat := 24 * k + k % 24

/-- A byte of the system region from the other 23 granules of its slot. -/
def State.slotXor (s : State) (a : Nat) : Byte :=
  let k := slotOf a
  ((List.range 24).filter fun i => 24 * k + i != a / granuleBytes).foldl (fun b i =>
    b ^^^ Buf.at (s.mems.hbm.readBytes ((24 * k + i) * granuleBytes + a % granuleBytes) 1) 0) 0

/-- One byte of system data is written, and the parity of its slot with it (R162). -/
def State.writeSystemByte (s : State) (a : Nat) (v : Byte) : State :=
  let old := Buf.at (s.mems.hbm.readBytes a 1) 0
  let p := parityGranule (slotOf a) * granuleBytes + a % granuleBytes
  let hbm := s.mems.hbm.writeBytes a [v]
  let hbm := if p = a then hbm else hbm.writeBytes p [Buf.at (hbm.readBytes p 1) 0 ^^^ old ^^^ v]
  { s with mems := { s.mems with hbm := hbm } }

/-- Firmware writes system data (R162). -/
def State.writeSystem (s : State) (a : Nat) (b : Buf) : State :=
  b.zipIdx.foldl (fun s x => s.writeSystemByte (a + x.2) x.1) s

/-! ### Geometry and placement (R231 to R234, R178) -/

def extentBytes : Nat := 65536
def parityBase : Nat := 0x80000000
def trimMark : Nat := 0xFFFFFFFF

/-- Populated dies of a channel (R313). -/
def State.dies (s : State) : Nat := if s.boot.half then 12 else 24

/-- c0 of an object: the first byte of SHA3-256 over its ID, modulo 128 (R178). -/
def c0Of (obj : W64) : Nat := ((sha3 (leBytes 8 obj.toNat)).headD 0).toNat % 128

/-- The channel of an extent (R178, R234): parity extents follow their stripe.  The slice runs of a segment lie where R60 puts them: extent
e of their object on channel e mod 128 (log 37). -/
def channelOf (obj : W64) (persistent : Bool) (e : Nat) : Nat :=
  if obj.toNat / 2 ^ 60 = 3 then e % 128
  else if persistent ∧ parityBase ≤ e then (c0Of obj + 15 * (e - parityBase) + 15) % 128 else (c0Of obj + e) % 128

/-- What a block set is committed to (table *Block sets of one die*).  Which numbers go to which use is not stated: the counts of the table
in its order (DESIGN CHOICE, log 64). -/
inductive BlockUse
  | user | write | collect | system | spare
  deriving DecidableEq, Repr

def blockUse (die bs : Nat) : BlockUse :=
  if bs < 994 then .user else if bs < 1018 then .write else if bs < 1098 then .collect
  else if bs < 1102 ∧ die < 2 then .system else .spare

/-- The mode that a use allows: a spare block set takes either (R232). -/
def BlockUse.allows (u : BlockUse) (pslc : Bool) : Bool :=
  match u with
  | .user | .collect => !pslc
  | .write | .system => pslc
  | .spare => true

/-- Extents of user capacity of a channel: 994 QLC block sets a die, 3,200 extents each (R231, R232). -/
def State.channelCapacity (s : State) : Nat := 994 * s.dies * 3200

def State.modFlash (s : State) (f : Flash → Flash) : State := { s with flash := f s.flash }

def State.channel (s : State) (c : Nat) : Channel := (s.flash.channels[c]?).getD { index := c }

def State.modChannel (s : State) (c : Nat) (f : Channel → Channel) : State :=
  s.modFlash fun fl => { fl with channels := modAt fl.channels c f }

/-- A channel is out of service (R399). -/
def State.channelOut (s : State) (c : Nat) : Bool := (s.fail).channelsOut.getLsbD c

/-- The hub of a channel has failed and its takeover runs (R397). -/
def State.channelPaused (s : State) (c : Nat) : Bool := (s.fail).hubTakeovers.contains (c / 8)

/-- The map entry of an extent; none when it is unmapped. -/
def State.entry? (s : State) (obj : W64) (e : Nat) : Option MapEntry :=
  s.flash.map.find? fun m => m.obj == obj && m.extent == e

/-- Extents that an accepted command has reserved on a channel and that are not yet written (R465). -/
def State.heldBy (s : State) (u : Sub) (c : Nat) : Nat :=
  if u.due.isSome then 0 else (u.held.filter fun h => h.1 == c && (s.entry? h.2.1 h.2.2).isNone).length

/-- Extents reserved on a channel by every accepted command (R465). -/
def State.reservedOn (s : State) (c : Nat) : Nat := (s.sasel.subs.map fun u => s.heldBy u c).sum

/-- Free extents of a channel (R465). -/
def State.freeExtents (s : State) (c : Nat) : Nat :=
  let used := (s.flash.map.filter fun m => m.channel == c && decide (m.obj.toNat / 2 ^ 60 ≠ 11)).length + s.reservedOn c + s.flash.mapHeld
  s.channelCapacity - used

/-- Free extents of a channel for a command, its own reservation among them. -/
def State.freeFor (s : State) (sid : Option Nat) (c : Nat) : Nat :=
  s.freeExtents c + match s.sasel.subs.find? fun u => some u.sid == sid with | some u => s.heldBy u c | none => 0

/-- Every channel has room for the extents a command would newly map on it, listed by channel (R465).  A channel out of
service is judged by R399. -/
def State.capacityFor (s : State) (sid : Option Nat) (chans : List Nat) : Bool :=
  (nub chans).all fun c => s.channelOut c || decide ((chans.filter (· == c)).length ≤ s.freeFor sid c)
def State.capacityOk (s : State) (chans : List Nat) : Bool := s.capacityFor none chans

/-- Extents, data and parity, of a sled object of `n` data extents, by channel (R239, R241). -/
def objectChannels (obj : W64) (persistent : Bool) (n : Nat) : List Nat :=
  (List.range n).map (channelOf obj persistent)
    ++ (if persistent then (List.range (ceilDiv n 15)).map fun k => channelOf obj persistent (parityBase + k) else [])

/-- Extents that `n` bytes take. -/
def extentsOf (n : Nat) : Nat := ceilDiv n extentBytes

/-! ### The object table and the extent map (R237) -/

/-- An entry as it lies in HBM (table *Extent map entry*). -/
def MapEntry.bytes (m : MapEntry) : Buf :=
  leBytes 8 (2 ^ 63 + m.channel * 2 ^ 56 + m.die * 2 ^ 51 + m.blockSet * 2 ^ 40 + m.page * 2 ^ 28 + m.pslc.toNat * 2 ^ 27
    + m.persist.toNat * 2 ^ 26 + m.verified.toNat * 2 ^ 25 + m.damaged.toNat * 2 ^ 24 + m.stripePos * 2 ^ 20)

/-- The part of the system region that holds entry arrays (DESIGN CHOICE, log 64). -/
def mapRegion : Nat := 128 * 2 ^ 30

/-- The runs of an entry array of `n` data entries from a base: those of the data extents and those of the parity extents. -/
def arraySpans (persistent : Bool) (base n : Nat) : List (Nat × Nat) :=
  (base, 8 * n) :: if persistent then [(base + 8 * parityBase, 4096 * ceilDiv (ceilDiv n 15) 512)] else []

/-- The runs of every other object's array. -/
def State.arraysBut (s : State) (id : W64) : List (Nat × Nat) :=
  (s.flash.objs.filter fun o => !(o.id == id)).flatMap fun o =>
    match o.base with | some b => arraySpans o.persistent b o.slots | none => []

/-- The lowest base from which an array of `n` data entries lies clear of the others (DESIGN CHOICE, log 64). -/
def State.arrayBase (s : State) (id : W64) (persistent : Bool) (n : Nat) : Option Nat :=
  let used := s.arraysBut id
  let ends := used.map fun u => u.1 + u.2
  let clear := fun b => (arraySpans persistent b n).all fun a =>
    decide (a.1 + a.2 ≤ mapRegion) && used.all fun u => decide (a.1 + a.2 ≤ u.1) || decide (u.1 + u.2 ≤ a.1)
  (sortBy (fun a b => decide (a ≤ b)) (0 :: ends ++ ends.map (· - 8 * parityBase))).find? clear

/-- The 8 B of an entry are written: its map granule has changed since the last checkpoint (R249). -/
def State.putEntry (s : State) (a : Nat) (b : Buf) : State :=
  (s.modFlash fun f => { f with dirty := if f.dirty.contains (a / 4096) then f.dirty else f.dirty ++ [a / 4096] }).writeSystem a b

/-- Write the entry of an extent where it lies, or zeros for an unmapped one. -/
def State.writeEntry (s : State) (o : FlashObj) (e : Nat) : State :=
  match o.base with
  | none => s
  | some b => s.putEntry (b + 8 * e) (match s.entry? o.id e with | some m => m.bytes | none => List.replicate 8 0)

/-- Data entries that an array needs to hold the entry of an extent, in whole map granules of 4 KiB. -/
def slotsFor (persistent : Bool) (e : Nat) : Nat :=
  512 * ((if persistent ∧ parityBase ≤ e then 15 * (e - parityBase) else e) / 512 + 1)

/-- The array of an object grows to hold an extent: it moves to a base where it fits, with its entries. -/
def State.growArray (s : State) (o : FlashObj) (e : Nat) : State :=
  let n := slotsFor o.persistent e
  if n ≤ o.slots then s
  else
    let mine := (s.flash.map.filter fun m => m.obj == o.id).map (·.extent)
    let s := mine.foldl (fun s e => match o.base with | some b => s.putEntry (b + 8 * e) (List.replicate 8 0) | none => s) s
    let o' := { o with base := s.arrayBase o.id o.persistent n, slots := n }
    let s := s.modFlash fun f => { f with objs := updWhere (fun x => x.id == o.id) (fun _ => o') f.objs }
    mine.foldl (fun s e => s.writeEntry o' e) s

/-- The object of an ID. -/
def State.obj? (s : State) (id : W64) : Option FlashObj := s.flash.objs.find? fun o => o.id == id

/-- The entry of an extent is as the map now holds it. -/
def State.syncEntry (s : State) (obj : W64) (e : Nat) : State :=
  match s.obj? obj with
  | none => s
  | some o =>
    let s := s.growArray o e
    match s.obj? obj with
    | some o => s.writeEntry o e
    | none => s

/-- Set an entry of the map. -/
def State.mapPut (s : State) (m : MapEntry) : State :=
  (s.modFlash fun f => { f with map := upsert (fun x => x.obj == m.obj && x.extent == m.extent) m f.map }).syncEntry m.obj m.extent

/-- Unmap an extent. -/
def State.mapDrop (s : State) (obj : W64) (e : Nat) : State :=
  if (s.entry? obj e).isNone then s
  else (s.modFlash fun f => { f with map := f.map.filter fun m => !(m.obj == obj && m.extent == e) }).syncEntry obj e

/-! ### Host data objects (R233) -/

/-- An object ID of the host: bits [63:60] are 0xF. -/
def hostId (id : W64) : Bool := id.toNat / 2 ^ 60 == 15

/-- First and count of extents of a command: ARG1 (R322). -/
def Entry.extFirst (e : Entry) : Nat := e.arg1.toNat % 2 ^ 32
def Entry.extCount (e : Entry) : Nat := e.arg1.toNat / 2 ^ 32

/-- The extents lie within those the object may use (R233). -/
def FlashObj.spanOk (o : FlashObj) (first count : Nat) : Bool :=
  decide (first + count ≤ (if o.persistent then parityBase else trimMark))

/-- Extents of an object that a write newly maps, parity extents included, each with its channel (R465). -/
def State.freshExtents (s : State) (id : W64) (persistent : Bool) (es : List Nat) : List (Nat × W64 × Nat) :=
  let ps := if persistent then nub (es.map fun e => parityBase + e / 15) else []
  ((es ++ ps).filter fun e => (s.entry? id e).isNone).map fun e => (channelOf id persistent e, id, e)

/-- Those of a write of `count` extents. -/
def State.newExtents (s : State) (o : FlashObj) (first count : Nat) : List (Nat × W64 × Nat) :=
  s.freshExtents o.id o.persistent ((List.range count).map (first + ·))

/-- Those of row blocks of a table's version: one object for each block of a sharded table, one persistent object for a replicated version
(R187, R188). -/
def State.blockExtents (s : State) (t : Table) (version : Nat) (blocks : List Nat) : List (Nat × W64 × Nat) :=
  if t.desc.sharded then blocks.flatMap fun b => s.freshExtents (rowBlockObj t.index version b) false [0]
  else s.freshExtents (rowBlockObj t.index version 0) true blocks

/-- The blocks of a run of rows that this rank keeps. -/
def State.blocksHere (s : State) (t : Table) (first count : Nat) : List Nat :=
  if count = 0 then []
  else ((List.range (t.desc.blockOf (first + count - 1) + 1 - t.desc.blockOf first)).map (t.desc.blockOf first + ·)).filter (t.keeps s.ownRank)

/-- The row blocks of this rank's shards of a version whose home is in HBM, here or on a peer (R206). -/
def State.hbmBlocks (s : State) (t : Table) (version : Nat) : List Home :=
  if !t.desc.sharded then []
  else s.tiers.homes.filter fun h =>
    !h.gone && !h.guest && !h.damaged && h.objId == rowBlockObj t.index version (blockOfObj h.objId) && decide (h.tier ≠ .flash)

/-- Extents of records of this rank's part of a log: `count` bytes from byte `first` of the part. -/
def logExtents (first count : Nat) : List Nat :=
  if count = 0 then [] else (List.range ((first + count - 1) / extentBytes + 1 - first / extentBytes)).map (first / extentBytes + ·)

/-- Bytes that APPEND_LOGs accepted earlier and not yet carried out append to a log. -/
def State.appending (s : State) (log : W32) : Nat :=
  sumOf ((s.sasel.subs.filter fun u => decide (u.entry.opcode.toNat = 0x41) && u.due.isNone && u.entry.handleA == log).map (·.entry.length.toNat))

/-- What a command reserves at its accept event: the extents that its entry says it would newly map (R465).  Those whose extents depend on
what they read reserve them when they have read it (log 86). -/
def State.wanted (s : State) (e : Entry) : List (Nat × W64 × Nat) :=
  match e.opcode.toNat with
  | 0x52 =>
    match s.obj? e.arg0 with
    | some o => if e.length.toNat = e.extCount * extentBytes ∧ o.spanOk e.extFirst e.extCount = true then s.newExtents o e.extFirst e.extCount else []
    | none => []
  | 0x35 =>
    match s.table? e.handleA with
    | some t =>
      let count := e.length.toNat / t.desc.rowBytes
      if e.arg3.toNat + count ≤ t.desc.rows then s.blockExtents t e.arg2.toNat (s.blocksHere t e.arg3.toNat count) else []
    | none => []
  | 0x37 =>
    match s.table? e.handleA with
    | some t => (s.hbmBlocks t t.current).flatMap fun h => s.freshExtents (tableCkptObj t.index t.current (blockOfObj h.objId)) true [0]
    | none => []
  | 0x41 =>
    match s.log? e.handleA with
    | some l => s.freshExtents (logObj l.index) false
        (logExtents ((l.first + l.records.length) * l.recordBytes + s.appending e.handleA) e.length.toNat)
    | none => []
  | 0x60 => if e.arg1.toNat = 2 ∧ objKind e.arg0 = 5 then s.freshExtents e.arg0 false [0] else []
  | _ => []

/-- There is room for what it reserves. -/
def State.wantedOk (s : State) (e : Entry) : Bool := s.capacityOk ((s.wanted e).map (·.1))

end Sys2Proof.Machine
end

