-- ==== Sys2Proof/Machine/Submit.lean ====
section
/-! DEFINITION. Accepting a submission and ending it: the accept event (R33, R273, R320, R322, R327), the status a command
ends with (R320), its completion (R317, R387, R309), connections in error (R309) and sessions (R328, R329). -/

namespace Sys2Proof.Machine

open Sys2Proof

/-! ### Clients and job counts (R273) -/

def State.client? (s : State) (i : Nat) : Option Client := s.sasel.clients.find? fun c => c.index == i

def State.modClient (s : State) (i : Nat) (f : Client → Client) : State :=
  { s with sasel := { s.sasel with clients := updWhere (fun c => c.index == i) f s.sasel.clients } }

/-- The client is at its job limit (R273). -/
def State.atLimit (s : State) (i : Nat) : Bool :=
  match s.client? i with
  | some c => decide (c.limit ≤ c.current)
  | none => true

/-- A submission is counted: as a job, or at the limit as admitted and finished in one step (R273). -/
def Client.accepted (atLimit : Bool) (c : Client) : Client :=
  if atLimit then { c with admitted := c.admitted + 1, finished := c.finished + 1 }
  else { c with admitted := c.admitted + 1, current := c.current + 1 }

/-- A job's completion has been written. -/
def Client.finishJob (c : Client) : Client := { c with current := c.current - 1, finished := c.finished + 1 }

/-! ### Buffer descriptors (R25, R387) -/

/-- The lowest free descriptor. -/
def State.freeDesc (s : State) : Option Nat := lowestFree (s.sasel.descs.map (·.1)) s.sasel.descCount

/-- A descriptor moves to a holder, or becomes free. -/
def State.moveDesc (s : State) (n : Nat) (h : Option DescHolder) : State :=
  let rest := s.sasel.descs.filter fun d => !(d.1 == n)
  { s with sasel := { s.sasel with descs := rest ++ (h.map fun x => (n, x)).toList } }

/-- Descriptors that a failed unit owns pass to the unit that takes over, or return to free where none does (R387). -/
def State.handOverDescs (s : State) (failed : DescUnit) (heir : Option DescUnit) : State :=
  (s.sasel.descs.filter fun d => d.2 == .owned failed).foldl (fun s d => s.moveDesc d.1 (heir.map .owned)) s

/-! ### Takeovers in progress (R43, R384, R388) -/

/-- Takeover bound in P-clock counts, by kind in the order of R403. -/
def takeoverCounts (kind : Nat) : Nat := countsOfUs ([2500000, 2000000, 1200000, 3000000, 8000000, 500000].getD kind 0)

/-- Takeovers with the same key compete for one spare. -/
def takeoverKey (kind unit : Nat) : Nat × Nat :=
  if kind ≤ 1 then (kind, 0)
  else if kind = 2 then (2, if unit / 64 = 0 then 0 else 1 + (unit / 64 - 1) / 2)
  else if kind = 3 then (3, unit / 2)
  else (kind, unit)

/-- Counts that each takeover in progress still has to run: a later one of a competing pair waits for the first. -/
def takeoverLeft (now : W64) : List ((Nat × Nat) × Nat) → List (Nat × Nat × W64) → List Nat
  | _, [] => []
  | ends, (k, u, c) :: r =>
    let start := max c.toNat ((assocGet (takeoverKey k u) ends).getD 0)
    let fin := start + takeoverCounts k
    (fin - now.toNat) :: takeoverLeft now (assocSet (takeoverKey k u) fin ends) r

/-- Their sum in ps, rounded up: what the bound of a request accepted now includes of them (R43). -/
def State.takeoverPs (s : State) : Nat := ceilDiv (sumOf (takeoverLeft s.pclk [] (s.fail).declared) * 1000000) 425

/-- Work of `ps` after `counts` already spent ends by a deadline. -/
def inTime (counts ps us : Nat) : Bool := decide (us = 0) || decide (counts * 1000000 + ps * 425 ≤ us * 425000000)

/-! ### The accept event -/

/-- Commands that write flash at the user's request and that READ_ONLY refuses (R258; column *Further statuses*). -/
def isHostWrite (e : Entry) : Bool :=
  let op := e.opcode.toNat
  [0x11, 0x14, 0x15, 0x16, 0x17, 0x20, 0x35, 0x37, 0x41, 0x50, 0x52].contains op
    || (op == 0x60 && e.arg1.toNat % 4 == 2)

/-- Commands whose writes are paced at end of life and complete with WRITE_THROTTLED (R258): host writes. -/
def isThrottled (e : Entry) : Bool :=
  let op := e.opcode.toNat
  [0x14, 0x20, 0x35, 0x37, 0x41, 0x52].contains op || (op == 0x60 && e.arg1.toNat % 4 == 2)

/-- Commands that SHUTDOWN refuses from its accept event on (R253). -/
def refusedByShutdown (e : Entry) : Bool :=
  let op := e.opcode.toNat
  match classOf op with
  | some .index | some .model | some .graft | some .tier => true
  | some .table => op ≠ 0x32
  | some .flash => op ≠ 0x53
  | some .admin => [0xE2, 0xE3, 0xE8, 0xE9, 0xEB].contains op
  | _ => false

/-- Commands that need the extent map (R252). -/
def needsFlashMap (e : Entry) : Bool :=
  let op := e.opcode.toNat
  match classOf op with
  | some .flash | some .index | some .model | some .table | some .graft | some .tier | some .answer => true
  | _ => op = 0xE5

/-- The connection holds an open admin session (R327). -/
def State.hasSession (s : State) (conn : W32) : Bool := s.sasel.sessions.any fun x => x.conn == conn

/-- A host data object that a command names exists and has not been deleted (R233). -/
def State.objectNamed (s : State) (e : Entry) : Bool :=
  let op := e.opcode.toNat
  if 0x51 ≤ op ∧ op ≤ 0x54 then
    decide (e.arg0.toNat / 2 ^ 60 = 15) && s.flash.objs.any fun o => o.id == e.arg0 && o.deletedAt.isNone
  else true

/-- The statuses that apply to a submission at its accept event (R273, R316, R322, R327, R253, R258, R252, R465);
in network recovery no session is needed (R424). -/
def State.presets (s : State) (origin : Origin) (conn : W32) (client : Nat) (e : Entry) : List Status :=
  let isMailbox := match origin with | .mailbox _ _ => true | .queue _ => false
  when (!e.formOk || (isMailbox && e.gen ≠ 0) || !s.objectNamed e) .badField
    ++ when (!s.handlesLive e) .staleHandle
    ++ when (!s.accessOk client e) .denied
    ++ when (decide (classOf e.opcode.toNat = some .admin) && decide (s.boot.phase ≠ .recovery) && !s.hasSession conn)
        .denied
    ++ when (needsFlashMap e && !s.isReady bitFlashmap) .notReady
    ++ when (s.sasel.shutdown && refusedByShutdown e) .notReady
    ++ when (s.atLimit client) .noResource
    ++ when (isHostWrite e && decide (2 ≤ s.eol)) .readOnly
    ++ when (!s.wantedOk e) .noResource

/-- The accept event of a DESTROY_QUEUE moves its pair from ACTIVE to DRAINING and fixes the abandoned count (R280). -/
def State.acceptDestroy (s : State) (u : Sub) : State :=
  match s.activeQueue? u.entry.handleA with
  | some q =>
    (s.setQueue { q with state := .draining, destroyer := some u.sid }).modSub u.sid fun v =>
      { v with abandoned := q.tail - q.fetched }
  | none => s

/-- An object has been released: from the accept event on, its handle is stale (R158, R67). -/
def State.acceptRelease (s : State) (u : Sub) : State :=
  let h := u.entry.handleA
  let op := u.entry.opcode.toNat
  if op = 0x12 then
    { s with idx := { s.idx with
        list := updWhere (fun x => names h kindIndex x.gen x.index) (fun x => { x with releasedAt := some u.sid }) s.idx.list } }
  else if op = 0x21 then
    { s with img := { s.img with
        images := updWhere (fun x => names h kindImage x.gen x.index) (fun x => { x with releasedAt := some u.sid }) s.img.images } }
  else if op = 0x23 then
    { s with img := { s.img with
        models := updWhere (fun x => names h kindModel x.gen x.index) (fun x => { x with releasedAt := some u.sid }) s.img.models } }
  else
    { s with img := { s.img with
        filters := updWhere (fun x => names h kindFilter x.gen x.index) (fun x => { x with releasedAt := some u.sid }) s.img.filters } }

/-! ### The end of a graft job's run (R224, R226, R228, R253) -/

def StopCause.status : StopCause → Status
  | .done | .stopGraft => .ok
  | .suspect => .suspect
  | .damaged => .damaged
  | .deadline => .deadlineMissed
  | .notReady => .notReady

/-- What an attempt has staged and received goes. -/
def Graft.clearAttempt (g : Graft) : Graft :=
  { g with contribs := [], announces := [], waiting := [], passed := [], groups := [], samples := [], sums := [], voted := false
           votedYes := false, votesYes := [], rescaledStep := false }

/-- A stopped job. -/
def Graft.idle (g : Graft) (c : StopCause) : Graft :=
  { g.clearAttempt with phase := .stopped, cause := some c, runSid := none, stopSids := [], stopAsked := false, attempt := 0
                        gradReady := [], gradient := [], gradDone := false }

def State.modGraft (s : State) (i : Nat) (f : Graft → Graft) : State :=
  { s with grafts := { s.grafts with list := updWhere (fun g => g.index == i) f s.grafts.list } }

def State.graftAt (s : State) (i : Nat) : Option Graft := s.grafts.list.find? fun g => g.index == i

/-- The job stops: its RUN_GRAFT and the STOP_GRAFTs that wait complete.  RESULT0 of a run without a committed step is not
stated (log 46). -/
def State.endGraft (s : State) (i : Nat) (c : StopCause) : State :=
  match s.graftAt i with
  | none => s
  | some g =>
    if g.phase = .stopped then s
    else
      let last := match g.lastCommit with | some k => BitVec.ofNat 64 k | none => Config.word s.free
      let s := if g.lastCommit.isNone then s.fresh.2 else s
      let s := match g.runSid with
        | some k => s.finish k { status := c.status, flags := { rescaled := g.rescaledRun }, result0 := last }
        | none => s
      let s := g.stopSids.foldl (fun s k => s.finish k {}) s
      s.modGraft i fun g => g.idle c

/-- The records of the job's current step exist in this rank's part of the log (R213). -/
def State.recordsThere (s : State) (g : Graft) : Bool :=
  let a := g.startRecord + g.desc.batch * g.step
  match s.log? g.desc.log with
  | some l => decide (l.first ≤ a ∧ a + g.desc.batch ≤ l.first + l.records.length)
  | none => false

/-- A job is asked to stop: the step in progress ends first.  A step whose records do not exist yet has not begun, so the job
stops at once (R226, log 47). -/
def State.askStop (s : State) (i : Nat) (sid : Option Nat) : State :=
  match s.graftAt i with
  | none => s
  | some g =>
    if g.phase = .stopped then s
    else
      let s := s.modGraft i fun g => { g with stopAsked := true, stopSids := g.stopSids ++ sid.toList }
      if g.phase = .gradient ∧ g.gradDone = false ∧ s.recordsThere g = false then s.endGraft i .stopGraft else s

/-- The version a lookup without a version binds to: the latest published below its accept event (R192). -/
def Table.published (t : Table) (sid : Nat) : Option TableVersion :=
  (t.versions.filter fun v => match v.pubSeq with | some p => decide (p < sid) | none => false).foldl
    (fun (m : Option TableVersion) v => match m with
      | none => some v
      | some w => if w.number < v.number then some v else some w) none

/-- The version a lookup names: 0 for the current one. -/
def Table.named (t : Table) (sid n : Nat) : Option TableVersion :=
  if n = 0 then t.published sid else (t.version? n).filter fun v => v.pubSeq.isSome

/-- What a TABLE_LOOKUP binds to at its accept event (R192). -/
def State.bindLookup (s : State) (sid : Nat) (e : Entry) : Option LookupBound :=
  (s.table? e.handleA).bind fun t => (t.named sid (e.arg2.toNat % 2 ^ 32)).map fun v =>
    { version := v.number, mapVersion := if t.desc.sharded then t.mapVersion else 0, exceptions := if t.desc.sharded then t.exceptions else [] }

/-- What an accept event itself does, when no status applies to it: DESTROY_QUEUE (R280), the releases of R158 and R67, the binding of a
lookup (R192), DELETE_OBJECT, whose ID every later command finds deleted (R233), and SHUTDOWN, which stops every graft job (R252, R253). -/
def State.acceptEffect (s : State) (u : Sub) : State :=
  let op := u.entry.opcode.toNat
  if u.preset ≠ [] then s
  else if op = 0x02 then s.acceptDestroy u
  else if op = 0x12 ∨ op = 0x21 ∨ op = 0x23 ∨ op = 0x25 then s.acceptRelease u
  else if op = 0x32 then
    s.modSub u.sid fun v => { v with bound := s.bindLookup u.sid u.entry }
  else if op = 0x51 then
    { s with flash := { s.flash with
        objs := updWhere (fun o => o.id == u.entry.arg0) (fun o => { o with deletedAt := some u.sid }) s.flash.objs } }
  else if op = 0xE5 then
    let s := { s with sasel := { s.sasel with shutdown := true } }
    (s.grafts.list.map (·.index)).foldl (fun s i => s.askStop i none) s
  else s

/-- The accept event: an event sequence number, a record of the submission, its job, and the extents a WRITE_EXTENT reserves
(R33, R273, R387, R465).  Answers the number, which names the submission. -/
def State.accept (s : State) (origin : Origin) (conn : W32) (client : Nat) (e : Entry) (copied : Buf) : Nat × State :=
  let limited := s.atLimit client
  let pre := s.presets origin conn client e
  let n := s.event.1
  let s := s.event.2
  let u : Sub :=
    { sid := n, origin := origin, conn := conn, client := client, entry := e, copied := copied, count := s.pclk
      afterShutdown := s.sasel.shutdown, preset := pre, jobless := limited
      throttled := decide (s.eol = 1) && isThrottled e
      held := if pre = [] then s.wanted e else [], desc := s.freeDesc, takeoverPs := s.takeoverPs }
  let s := { s with sasel := { s.sasel with subs := s.sasel.subs ++ [u] } }
  let s := match u.desc with | some d => s.moveDesc d (some (.owned .queueManager)) | none => s
  (n, (s.modClient client (Client.accepted limited)).acceptEffect u)

/-! ### Running a command and its status -/

/-- Every submission accepted earlier that acts on the same object has begun or ended (R322). -/
def State.inOrder (s : State) (u : Sub) : Bool :=
  s.sasel.subs.all fun v =>
    decide (u.sid ≤ v.sid) || v.due.isSome || v.running || decide (u.entry.target = none)
      || decide (v.entry.target ≠ u.entry.target)

/-- The command may begin: those accepted earlier on its object have, and no flush runs, in which nothing that writes flash begins
(R254, R322). -/
def State.mayRun (s : State) (u : Sub) : Bool := s.inOrder u && !(s.flushing && refusedByShutdown u.entry)

/-- Run `body` on the accepted submission `sid` when it carries the opcode and has not begun; otherwise the event names
nothing to act on and changes nothing (log 10). -/
def State.run (s : State) (sid opcode : Nat) (body : Sub → State → State) : State :=
  match s.sub? sid with
  | some u => if u.entry.opcode.toNat = opcode ∧ u.due = none ∧ u.running = false ∧ s.mayRun u then body u s else s
  | none => s

/-- Run `body` at once, whatever was accepted earlier on the same object (R67). -/
def State.runNow (s : State) (sid opcode : Nat) (body : Sub → State → State) : State :=
  match s.sub? sid with
  | some u =>
    if u.entry.opcode.toNat = opcode ∧ u.due = none ∧ u.running = false ∧ !(s.flushing && refusedByShutdown u.entry) then body u s else s
  | none => s

/-- End the command with the first status that applies (R320), or, when none applies, let it take effect. -/
def State.settle (s : State) (u : Sub) (errs : List Status) (effect : State → State) : State :=
  match u.preset ++ errs with
  | [] => effect s
  | l => s.failWith u.sid (firstStatus l)

/-- The command completes OK with its results. -/
def State.complete (s : State) (u : Sub) (result0 result1 : W64) : State :=
  s.finish u.sid { status := .ok, flags := { writeThrottled := u.throttled }, result0 := result0, result1 := result1 }

/-- The command completes OK without a result. -/
def State.completeOk (s : State) (u : Sub) : State := s.complete u 0 0

/-! ### Sessions (R328, R329) -/

/-- Close the sessions that satisfy `p`. -/
def State.closeSessions (s : State) (p : Session → Bool) : State :=
  let gone := s.sasel.sessions.filter p
  { s with sasel := { s.sasel with
      sessions := s.sasel.sessions.filter (fun x => !p x)
      sessionGens := gone.foldl (fun g x => bumpGen g x.index) s.sasel.sessionGens } }

/-! ### Connection errors (R309, R310, R316, R326) -/

/-- The submission arrived on a queue pair bound to the connection, or is a mailbox command of it. -/
def State.onConn (s : State) (conn : W32) (u : Sub) : Bool :=
  match u.origin with
  | .queue i => (s.queue i).conn == conn
  | .mailbox _ _ => u.conn == conn

/-- A connection enters error: nothing further starts on it, its submissions without an outcome end with NOT_READY, the
one whose own remote access error caused it with BAD_FIELD, unless a status that applies to them comes first (R52, R320); its sessions
close (R309, R326, R329). -/
def State.connError (s : State) (conn : W32) (own : Option Nat) : State :=
  match s.conn? conn with
  | none => s
  | some c =>
    if c.state = .error ∨ c.state = .closed then s
    else
      let s := s.modConn conn fun c => { c with state := .error, nonce := none }
      let s := s.closeSessions fun x => x.conn == conn
      let ended := updWhere (fun u => u.due.isNone && s.onConn conn u)
        (fun u => { u with due := some { status := firstStatus (u.preset ++ [if own = some u.sid then .badField else .notReady])
                                         flags := s.flagsOf u.sid }
                           running := false })
        s.sasel.subs
      { s with sasel := { s.sasel with subs := ended } }

/-- A remote access error on a command's own buffer: BAD_FIELD, and the connection enters error (R316). -/
def State.accessError (s : State) (u : Sub) : State :=
  (s.connError (s.connOf u) (some u.sid)).failWith u.sid .badField

/-- Run a command that reads B: a remote access error ends it, a range outside the mailbox slot is BAD_FIELD. -/
def State.withB (s : State) (u : Sub) (delivered : Option Buf) (k : Buf → State) : State :=
  if firstStatus u.preset = .badField then s.failWith u.sid .badField
  else
    match u.readB delivered with
    | some b => k b
    | none => if u.inSlot then s.failWith u.sid .badField else s.accessError u

/-- A command whose result goes into B: `ok` is false when the RDMA WRITE meets a remote access error. -/
def State.report (s : State) (u : Sub) (ok : Bool) (bytes : Buf) (r : State → State) : State :=
  if u.inSlot then
    (if 0x80 ≤ u.entry.addr.toNat ∧ u.entry.addr.toNat + bytes.length ≤ 0xFF8 then r (s.writeB u bytes)
     else s.failWith u.sid .badField)
  else if ok then r (s.writeB u bytes) else s.accessError u

/-- A connection is released: its handle is stale, its sessions close, and the pairs that it bound are flushed
(R281, R310, R329). -/
def State.releaseConn (s : State) (conn : W32) : State :=
  match s.conn? conn with
  | none => s
  | some c =>
    let s := (s.connError conn none).closeSessions fun x => x.conn == conn
    { s with
      hp := { s.hp with conns := s.hp.conns.filter (fun x => !(x.index == c.index)),
                        connGens := bumpGen s.hp.connGens c.index }
      queues := updWhere (fun q => q.conn == conn && decide (q.state = .quarantine))
                  (fun q => { q with flushed := true }) s.queues }

/-! ### Completions (R278, R280, R309, R317, R324, R387) -/

/-- A pair's connection is not open, so its completions are held (R309). -/
def State.mustHold (s : State) (q : Queue) : Bool := !s.connOpen q.conn

/-- The host address of completion ring slot j mod DEPTH (R278). -/
def Queue.cqSlot (q : Queue) (j : Nat) : W64 := q.cqAddr + BitVec.ofNat 64 (32 * (j % 2 ^ q.log2Depth))

/-- The next completion of a pair is written on its connection, or held in order (R278, R309). -/
def State.pushCompletion (s : State) (i : Nat) (r : Result) (tag : W32) : State :=
  let q := s.queue i
  let c := mkCompletion r (BitVec.ofNat 32 (q.completions + 1)) tag
  let q' := { q with completions := q.completions + 1 }
  if s.mustHold q then s.setQueue { q' with held := q.held ++ [c] }
  else (s.setQueue q').emit (.write q.conn (q.cqSlot q.completions) q.cqRkey c.bytes)

/-- Every accepted submission of a pair but the DESTROY_QUEUE itself has had its completion written. -/
def State.drained (s : State) (i d : Nat) : Bool :=
  s.sasel.subs.all fun u => decide (u.origin ≠ .queue i) || u.sid == d || u.finished

/-- A DESTROY_QUEUE that has begun completes once its pair has drained.  On a connection in error the held completions
count as undelivered (R280, R309). -/
def State.settleDestroy (s : State) (i : Nat) : State :=
  let q := s.queue i
  match q.destroyer with
  | none => s
  | some d =>
    match s.sub? d with
    | none => s
    | some u =>
      if u.running ∧ u.due = none ∧ s.drained i d then
        let lost := if s.mustHold q then q.held.length else 0
        let undelivered := satAdd q.undelivered lost
        let s := if lost = 0 then s else s.setQueue { q with held := [], undelivered := undelivered }
        s.complete u (BitVec.ofNat 64 (u.abandoned.toNat + 2 ^ 32 * undelivered.toNat)) 0
      else s

/-- The pair that a DESTROY_QUEUE destroys is in QUARANTINE once its completion is written (R280).  A completion still
held, which is the DESTROY_QUEUE's own on a connection in error, counts as undelivered (R309). -/
def State.enterQuarantine (s : State) (u : Sub) : State :=
  if u.entry.opcode = 0x02 then
    let q := s.queue (qhIndex u.entry.handleA)
    if q.destroyer = some u.sid then
      s.setQueue { q with state := .quarantine, flushed := !(s.conn? q.conn).isSome, held := []
                          undelivered := satAdd q.undelivered q.held.length }
    else s
  else s

/-- The outcome of an answer request whose deadline has passed by the time its completion is written: DEADLINE_MISSED applies too
(R51, R52). -/
def State.lateResult (s : State) (u : Sub) (r : Result) : Result :=
  match s.ans.reqs.find? fun q => q.sid == u.sid with
  | some q =>
    if inTime (s.elapsed u.count) 0 q.block.deadlineUs then r else { r with status := firstStatus [r.status, .deadlineMissed] }
  | none => r

/-- Write the completion of a submission whose outcome is final, through the once-only gate (R387): on the pair, held, or
into the mailbox slot, whose STATE becomes DONE (R325).  The job ends (R273). -/
def State.writeCompletion (s : State) (sid : Nat) : State :=
  match s.sub? sid with
  | none => s
  | some u =>
    if u.finished then { s with integ := { s.integ with dropped := satInc s.integ.dropped } }
    else
      match u.due with
      | none => s
      | some r =>
        let r := s.lateResult u r
        let s := s.modSub sid fun u => { u with finished := true }
        let s := if u.jobless then s else s.modClient u.client Client.finishJob
        let s := match u.desc with | some d => s.moveDesc d none | none => s
        match u.origin with
        | .queue i => ((s.pushCompletion i r u.entry.cmdTag).enterQuarantine u).settleDestroy i
        | .mailbox m seq =>
          let s := { s with sasel := { s.sasel with slots := modAt s.sasel.slots m fun x =>
            { x with completion := mkCompletion r seq u.entry.cmdTag, state := .done } } }
          s.enterQuarantine u

end Sys2Proof.Machine
end

