-- ==== Sys2Proof/Machine/ConfigFlash.lean ====
section
/-! DEFINITION. Config flash (R414 to R419): words, sectors, counters, items, and the settings the items hold (R302, R323,
R336). -/

namespace Sys2Proof.Machine

open Sys2Proof

/-! ### Words and sectors (R415) -/

def sectorWords : Nat := 1024
def erasedWord : W32 := 0xFFFFFFFF#32

/-- Read a word: an unlisted word is erased. -/
def State.cfgRead (s : State) (a : Nat) : W32 := (assocGet a s.boot.cfgWords).getD erasedWord

/-- The cells take the AND of their contents and the value written, whatever they held (R415). -/
def State.cfgProgram (s : State) (a : Nat) (v : W32) : State :=
  let w := s.cfgRead a &&& v
  let rest := s.boot.cfgWords.filter fun e => !(e.1 == a)
  if w = s.cfgRead a then s else { s with boot := { s.boot with cfgWords := rest ++ [(a, w)] } }

/-- Erase a sector: every word 0xFFFF_FFFF; its flag cell ends erased. -/
def State.cfgErase (s : State) (sector : Nat) : State :=
  { s with boot := { s.boot with
      cfgWords := s.boot.cfgWords.filter fun e => !(e.1 / sectorWords == sector)
      cfgFlags := s.boot.cfgFlags.filter fun x => !(x == sector) } }

/-- Erase a run of sectors. -/
def State.cfgEraseAll (s : State) (sectors : List Nat) : State := sectors.foldl State.cfgErase s

/-- Bytes of config flash, four to a word, lowest byte first (R13). -/
def State.cfgBytes (s : State) (wordAddr nbytes : Nat) : Buf :=
  (((List.range (ceilDiv nbytes 4)).flatMap fun i => leBytes 4 (s.cfgRead (wordAddr + i)).toNat)).take nbytes

/-- Bytes as words, the last padded with erased bytes. -/
def wordsOf (b : Buf) : List W32 :=
  (List.range (ceilDiv b.length 4)).map fun i =>
    BitVec.ofNat 32 (Buf.le (b ++ List.replicate 3 0xFF#8) (4 * i) 4)

/-! ### Counters (R414, R419) -/

def ctrResets : Nat := 0
def ctrSupply : Nat := 1
def ctrCoolant : Nat := 2
def ctrEpoch : Nat := 3
def ctrHours : Nat := 4

/-- First of a counter's two sectors. -/
def ctrSector (c : Nat) : Nat := 4096 + 2 * c

/-- Words 0 and 1 of a sector are complements. -/
def State.ctrValid (s : State) (sector : Nat) : Bool :=
  s.cfgRead (sector * sectorWords) == ~~~(s.cfgRead (sector * sectorWords + 1))

/-- The active sector: valid, with the larger base. -/
def State.ctrActive (s : State) (c : Nat) : Nat :=
  let a := ctrSector c
  if s.ctrValid a ∧ (¬ s.ctrValid (a + 1) ∨ (s.cfgRead ((a + 1) * sectorWords)).toNat ≤ (s.cfgRead (a * sectorWords)).toNat)
  then a else if s.ctrValid (a + 1) then a + 1 else a

/-- Increment words of the active sector that are not erased. -/
def State.ctrUsed (s : State) (c : Nat) : Nat :=
  let base := s.ctrActive c * sectorWords
  ((List.range 1022).filter fun i => s.cfgRead (base + 2 + i) != erasedWord).length

/-- A counter's value: base plus the words used, at most 0xFFFF_FFFF. -/
def State.counter (s : State) (c : Nat) : Nat :=
  min 0xFFFFFFFF ((s.cfgRead (s.ctrActive c * sectorWords)).toNat + s.ctrUsed c)

/-- The first erased increment word of the active sector. -/
def State.ctrNext (s : State) (c : Nat) : Option Nat :=
  (List.range 1022).find? fun i => s.cfgRead (s.ctrActive c * sectorWords + 2 + i) == erasedWord

/-- Increment a counter: the next erased word takes 0; when all 1,022 are used, the other sector takes the new base and
the full sector is erased (R419). -/
def State.ctrIncrement (s : State) (c : Nat) : State :=
  if 0xFFFFFFFF ≤ s.counter c then s
  else
    let act := s.ctrActive c
    let other := if act = ctrSector c then act + 1 else act - 1
    match s.ctrNext c with
    | none => s
    | some i =>
      let s1 := s.cfgProgram (act * sectorWords + 2 + i) 0
      if (s1.ctrNext c).isSome then s1
      else
        let b := BitVec.ofNat 32 ((s.cfgRead (act * sectorWords)).toNat + 1022)
        let s2 := s1.cfgErase other
        let s3 := (s2.cfgProgram (other * sectorWords) b).cfgProgram (other * sectorWords + 1) (~~~b)
        s3.cfgErase act

/-! ### Items (R418) -/

def itemHost : Nat := 1
def itemPlot : Nat := 2
def itemKeys : Nat := 3

/-- First sectors of copies A and B, and sectors of a copy (R414). -/
def itemCopies (item : Nat) : Nat × Nat × Nat :=
  if item = itemHost then (4106, 4107, 1) else if item = itemPlot then (4108, 4117, 9) else (4126, 4129, 3)

/-- A record header's COMMIT, LENGTH and GENERATION, and the payload, of the copy at a sector. -/
def State.itemGen (s : State) (sector : Nat) : Nat := (s.cfgRead (sector * sectorWords + 1)).toNat
def State.itemPayload (s : State) (sector : Nat) : Buf :=
  s.cfgBytes (sector * sectorWords + 8) (min (s.cfgRead (sector * sectorWords + 2)).toNat (9 * 4096))

/-- A copy is valid: COMMIT is there and DIGEST matches the payload. -/
def State.itemValid (s : State) (sector : Nat) : Bool :=
  s.cfgRead (sector * sectorWords + 7) == 0x434F4D54#32
    && s.cfgBytes (sector * sectorWords + 3) 16 == (sha3 (s.itemPayload sector)).take 16

/-- The payload in force: the valid copy with the higher GENERATION; none when neither is valid. -/
def State.item (s : State) (item : Nat) : Option Buf :=
  let a := (itemCopies item).1
  let b := (itemCopies item).2.1
  match s.itemValid a, s.itemValid b with
  | true, true => some (s.itemPayload (if s.itemGen a < s.itemGen b then b else a))
  | true, false => some (s.itemPayload a)
  | false, true => some (s.itemPayload b)
  | false, false => none

/-- The copy an item write uses: that with the lower GENERATION, an invalid one counting lowest, or copy A. -/
def State.itemTarget (s : State) (item : Nat) : Nat :=
  let a := (itemCopies item).1
  let b := (itemCopies item).2.1
  match s.itemValid a, s.itemValid b with
  | true, true => if s.itemGen a ≤ s.itemGen b then a else b
  | true, false => b
  | false, _ => a

/-- One above the other copy's GENERATION. -/
def State.itemNextGen (s : State) (item : Nat) : Nat :=
  let a := (itemCopies item).1
  let b := (itemCopies item).2.1
  let other := if s.itemTarget item = a then b else a
  if s.itemValid other then s.itemGen other + 1 else 1

/-- Consecutive words from an address. -/
def wordRun (a : Nat) (ws : List W32) : List (Nat × W32) := ws.zipIdx.map fun w => (a + w.2, w.1)

/-- The words of an item's copy in the order programmed: payload, header without COMMIT, COMMIT (R418). -/
def itemWords (item gen sec : Nat) (payload : Buf) : List (Nat × W32) :=
  let header : List W32 :=
    [BitVec.ofNat 32 item, BitVec.ofNat 32 gen, BitVec.ofNat 32 payload.length] ++ wordsOf ((sha3 payload).take 16)
  wordRun (sec * sectorWords + 8) (wordsOf payload) ++ wordRun (sec * sectorWords) header ++ [(sec * sectorWords + 7, 0x434F4D54#32)]

/-- Program words in order up to one that reads back wrong, if one does: its place and what it reads (R416). -/
def State.cfgProgramList (s : State) (ws : List (Nat × W32)) (bad : Option (Nat × W32)) : State :=
  match bad with
  | none => ws.foldl (fun s w => s.cfgProgram w.1 w.2) s
  | some (k, v) => (((ws.drop k).take 1).map fun w => (w.1, v)).foldl (fun s w => s.cfgProgram w.1 w.2) ((ws.take k).foldl (fun s w => s.cfgProgram w.1 w.2) s)

/-- Write an item: erase the copy, then program its words; one that reads back wrong ends the write, without COMMIT (R416,
R418). -/
def State.itemWriteBad (s : State) (item : Nat) (payload : Buf) (bad : Option (Nat × W32)) : State :=
  let sec := s.itemTarget item
  let gen := s.itemNextGen item
  let s := s.cfgEraseAll ((List.range (itemCopies item).2.2).map fun i => sec + i)
  s.cfgProgramList (itemWords item gen sec payload) bad

/-- Write an item whose words all read back right. -/
def State.itemWrite (s : State) (item : Nat) (payload : Buf) : State := s.itemWriteBad item payload none

/-! ### Host port settings (R302, R323) -/

/-- An integer in network order. -/
def beNat (b : Buf) : Nat := b.foldl (fun n x => 256 * n + x.toNat) 0

/-- Host port settings from their 32 bytes. -/
def parseHp (b : Buf) : HpSettings :=
  let f := (Buf.at b 0).toNat
  { wideNext := bitsOf f 0 1 = 1, ipv4On := bitsOf f 1 1 = 1, vidValid := bitsOf f 2 1 = 1, pfcOn := bitsOf f 3 1 = 1
    pfcPrio := (Buf.at b 1).toNat, dataDscp := (Buf.at b 2).toNat, cnpDscp := (Buf.at b 3).toNat
    vid := BitVec.ofNat 16 (Buf.le b 4 2), ipv4Addr := BitVec.ofNat 32 (beNat (Buf.slice b 8 4))
    prefixLen := (Buf.at b 12).toNat, gateway := BitVec.ofNat 32 (beNat (Buf.slice b 16 4)) }

/-- The reserved bytes and bits of the settings are 0, and each field lies in its range (R302, R323). -/
def hpOk (b : Buf) : Bool :=
  let h := parseHp b
  decide ((Buf.at b 0).toNat < 16) && [6, 7, 13, 14, 15].all (fun i => Buf.at b i == 0)
    && (Buf.slice b 20 12).all (· == 0)
    && decide (h.pfcPrio ≤ 7) && decide (h.dataDscp ≤ 63) && decide (h.cnpDscp ≤ 63) && decide (h.vid.toNat ≤ 4095)
    && decide (h.prefixLen ≤ 32)

/-- The host port item as shipped: DR8, PFC on at priority 3, DSCP 26 and 48 (R299, R302). -/
def hpShipped : Buf := [0x08, 3, 26, 48] ++ List.replicate 28 0

/-! ### Plot settings (R336) -/

def plotMembers (b : Buf) : Nat := Buf.le b 12 2
def plotEntries (b : Buf) : Nat := Buf.le b 14 2

/-- One member entry: an all-zero digest is an empty rank. -/
def parseMember (b : Buf) : Member :=
  let d := Buf.slice b 0 16
  { digest := if d.all (· == 0) then [] else d, leaf := Buf.le b 16 2 }

/-- Plot settings from their bytes, defaults put in for 0. -/
def parsePlot (b : Buf) : PlotSettings :=
  let m := plotMembers b
  let dflt := fun (v d : Nat) => if v = 0 then d else v
  { plotId := BitVec.ofNat 64 (Buf.le b 4 8)
    members := (List.range m).map fun i => parseMember (Buf.slice b (64 + 32 * i) 32)
    plotIndexes := (List.range (plotEntries b)).map fun i =>
      (BitVec.ofNat 32 (Buf.le b (64 + 32 * m + 8 * i) 4), (Buf.at b (64 + 32 * m + 8 * i + 4)).toNat)
    credits := dflt (Buf.at b 16).toNat 32, dataDscp := dflt (Buf.at b 17).toNat 26
    ctlDscp := dflt (Buf.at b 18).toNat 48 }

/-- MAGIC, ranges and reserved bytes of the plot settings (R336). -/
def plotFormOk (b : Buf) (len : Nat) : Bool :=
  let m := plotMembers b
  let x := plotEntries b
  let c := (Buf.at b 16).toNat
  Buf.le b 0 4 == 0x544F4C50 && decide (1 ≤ m) && decide (m ≤ 1024) && decide (x ≤ 64)
    && decide (len = 64 + 32 * m + 8 * x) && (c == 0 || (decide (8 ≤ c) && decide (c ≤ 64)))
    && decide ((Buf.at b 17).toNat ≤ 63) && decide ((Buf.at b 18).toNat ≤ 63) && (Buf.slice b 19 45).all (· == 0)
    && (List.range m).all (fun i => decide (Buf.le b (64 + 32 * i + 16) 2 ≤ 1023)
        && (Buf.slice b (64 + 32 * i + 18) 14).all (· == 0))
    && (List.range x).all (fun i => decide ((Buf.at b (64 + 32 * m + 8 * i + 4)).toNat ≤ 63)
        && (Buf.slice b (64 + 32 * m + 8 * i + 5) 3).all (· == 0))

/-! ### Key slots (R418, R420) -/

def keyBytes : Nat := 1312

/-- A slot's 1,312 bytes; an empty slot is zeros. -/
def slotBytes (k : Buf) : Buf := Buf.slice k 0 keyBytes

/-- The key slots item payload. -/
def keysPayload (keys : List Buf) : Buf := keys.flatMap slotBytes

/-- The slots of a payload: a slot of zeros is empty. -/
def parseKeys (b : Buf) : List Buf :=
  (List.range 8).map fun i =>
    let k := Buf.slice b (keyBytes * i) keyBytes
    if k.all (· == 0) then [] else k

/-- The payloads in force, each as shipped when no copy is valid. -/
def State.hpPayload (s : State) : Buf := (s.item itemHost).getD hpShipped
def State.plotPayload (s : State) : Buf := (s.item itemPlot).getD []
def State.keyPayload (s : State) : Buf := (s.item itemKeys).getD (keysPayload ({} : Sasel).keys)

/-- An extension of a measurement register (R425). -/
def extend (m d : Buf) : Buf := sha3 (m ++ d)

end Sys2Proof.Machine
end

