-- ==== Sys2Proof/Machine/Reset.lean ====
section
/-! DEFINITION. A reset of the sled (R29, R404): every unit returns to its state at power-on, but for what lies on config
flash, in fuses, on the NAND and at the slot, and for the retirements the system region keeps (R385). -/

namespace Sys2Proof.Machine

open Sys2Proof

/-! ### Light (R393, R394) -/

def popCount {w : Nat} (v : BitVec w) : Nat := ((List.range w).filter fun i => v.getLsbD i).length

/-- Own lanes of fabric port p are lit with n laser modules in service (table *Lanes lit by module count*). -/
def portLit (n p : Nat) : Bool := if 3 ≤ n then true else if n = 2 then decide (p ≤ 8) else if n = 1 then decide (p ≤ 2) else false

/-- Spare lane Sk is lit. -/
def spareLit (n k : Nat) : Bool := if 3 ≤ n then true else if n = 1 then decide (k ≤ 1) else false

/-- Lanes lit (table *Lanes lit by module count*). -/
def lanesLit (n : Nat) : Nat := if 3 ≤ n then 62 else if n = 2 then 44 else if n = 1 then 22 else 0

/-- A dark lane neither trains nor carries data. -/
def Lane.setLit (on : Bool) (l : Lane) : Lane := if on then { l with lit := true } else { lit := false }

/-- Light the lanes that the laser modules in service can light. -/
def State.light (s : State) : State :=
  let n := popCount (s.fail).lasersIn
  let host := s.hp.port.lanes.map (Lane.setLit (decide (1 ≤ n)))
  let ports := s.fabric.ports.zipIdx.map fun (pt, p) =>
    { pt with lanes := pt.lanes.zipIdx.map fun (l, i) => l.setLit (if i = 4 then spareLit n (p / 2) else portLit n p) }
  { s with hp := { s.hp with port := { s.hp.port with lanes := host } }, fabric := { s.fabric with ports := ports } }

/-! ### What is kept on flash -/

/-- An index as flash keeps it: committed segments and retained versions (log 16). -/
def Index.afterReset (x : Index) : Index :=
  { x with segments := x.segments.filter (·.committed), versions := x.versions.map fun v => { v with pubSeq := 0 }
           releasedAt := x.releasedAt.map fun _ => 0, carried := [] }

/-- A table as flash keeps it: descriptor, shard map, versions, decisions and checkpoint (R206). -/
def Table.afterReset (t : Table) : Table :=
  { t with
    versions := t.versions.map fun v => { v with pubSeq := v.pubSeq.map fun _ => 0, freeReports := [], hbmCopy := false, hbmAddr := 0 }
    stubs := [], arrivals := [], held := [], hot := [], owedAcks := [], publish := none }

/-- A graft job's record as flash keeps it: stopped, with its checkpoints and its decision (R229, R230). -/
def Graft.afterReset (g : Graft) : Graft :=
  { index := g.index, gen := g.gen, desc := g.desc, creator := g.creator, coordinator := g.coordinator
    startRecord := g.startRecord, lastCommit := g.lastCommit, lastCkpt := g.lastCkpt, plane := g.plane
    decision := g.decision, checkpoints := g.checkpoints, cause := g.cause, step := g.step }

/-- Slice-run objects of segments that no commit names: they do not survive a reset (log 16). -/
def State.openRuns (s : State) : List W64 :=
  s.idx.list.flatMap fun x => (x.segments.filter fun g => !g.committed).map (·.runs)

/-- Flash as the NAND and the system region keep it (R249 to R252), but for the objects `gone`: the map is rebuilt by replay. -/
def Flash.afterReset (f : Flash) (gone : List W64) : Flash :=
  { f with
    wearLimit := 150, patrolDays := 7, map := [], replayed := false, programs := [], writes := [], reads := [], units := f.units.filter fun u => u.written.isSome
    checkpointing := false, verifyQueue := [], hubKeys := [], dirty := []
    objs := (f.objs.filter fun o => o.deletedAt.isNone && !gone.contains o.id).map fun o => { o with base := none, slots := 0 }
    channels := f.channels.map fun c =>
      { c with ladder := List.replicate 8 0, patrolLap := 0, patrolled := [], lapStart := 0, lapDone := false, retirements := 0
               sinceRunning := 0, runningCut := 0 } }

/-- Homes after a reset: those in HBM are gone, those on flash stand as last flipped (R177); the index pool holds the members'
summaries again (log 16). -/
def Tiers.afterReset (t : Tiers) (gone : List W64) (summaries : Nat) : Tiers :=
  let homes := (t.homes.filter fun h => decide (h.tier = .flash) && !gone.contains h.objId).map fun h =>
    { h with pins := 0, oldPins := 0, waiters := 0, inMotion := false, evictPending := false, isExplicit := false, hbmCopy := false }
  { homes := homes, bytes := t.bytes.filter fun b => homes.any fun h => h.objId == b.1
    retiredStacks := t.retiredStacks, held := { model := 0, index := summaries, table := 0, graft := 0 } }

/-- Failover after a reset: retirements stand, with the end state of their takeovers set up (R385). -/
def Failover.afterReset (f : Failover) : Failover :=
  let started := f.coreTakeovers.foldl (fun m t => m ||| (1#32 <<< t.2)) 0#32
  { coresIn := f.coresIn ||| started, coresSpare := f.coresSpare &&& ~~~started, coresRetired := f.coresRetired
    hubsRetired := f.hubsRetired
    hubsServing := (List.range 16).foldl (fun m h =>
      setBit m h (f.hubsRetired.getLsbD (h ^^^ 1) && !f.hubsRetired.getLsbD h)) 0#16
    channelsOut := f.channelsOut, lasersPresent := f.lasersPresent, lasersIn := f.lasersIn }

/-- What the board keeps across a reset: input monitor, slot signals, regulators (R429, R452, R463, R464).
DESIGN CHOICE (log 87): an input excursion in progress goes on; a coolant excursion in progress does not survive, so coolant that
is still outside its requirement at the next SENSOR_READ begins a new one. -/
def Power.afterReset (p : Power) : Power :=
  { inputMv := p.inputMv, lowMv := p.inputMv, highMv := p.inputMv
    housekeeping := p.housekeeping, bankCharged := p.bankCharged, presentL := p.presentL, pwrEn := p.pwrEn
    resetL := p.resetL, slotPins := p.slotPins, slotId := p.slotId
    runReset := p.runReset, runOver := p.runOver, runSag := p.runSag, runStart := p.runStart, runRange := p.runRange
    runBelowOver := p.runBelowOver, startMet := p.startMet, startSeen := p.startSeen, excursion := p.excursion
    overTripped := p.overTripped, regulatorsOn := p.regulatorsOn, pwrgd := p.pwrgd, thermtrip := p.thermtrip
    tripLatched := p.tripLatched, regulators := p.regulators, readings := p.readings }

/-- The sector of the image region that a cut-off update leaves flagged: which one is not stated (R423, log 17). -/
def cutSector (n : Nat) : Nat := (Config.word n).toNat % 4096

/-- What the board of trust keeps: config flash, fuses, the identity fixed at manufacture (R404, R408), and the increments of
counters that waited for an update (R27, R31, R419: none is lost; log 17). -/
def Boot.afterReset (b : Boot) (n : Nat) : Boot :=
  { cfgWords := b.cfgWords
    cfgWaiting := b.cfgWaiting.filter fun w => w.2.isNone
    cfgFlags := if b.update.isSome then b.cfgFlags ++ [cutSector n] else b.cfgFlags
    seed := b.seed, fwKey0 := b.fwKey0, fwKey1 := b.fwKey1, revoke := b.revoke, rollback := b.rollback
    serial := b.serial, mac := b.mac, identityKey := b.identityKey, half := b.half }

/-- A reset of the sled, whatever its cause.  The model's own records `out` and `frames`, its counter `free` and the waiting commands
stay.  DESIGN CHOICE (log 87): the generations of segment handles, as of every handle whose objects do not survive a reset, start at 1
again. -/
def State.resetNow (s : State) : State :=
  State.light
    { power := s.power.afterReset
      boot := s.boot.afterReset s.free
      hp := {}
      sasel := { keys := s.sasel.keys }
      idx := { list := s.idx.list.map Index.afterReset, indexGens := s.idx.indexGens }
      img := { images := s.img.images.map fun i => { i with releasedAt := i.releasedAt.map fun _ => 0 }
               imageGens := s.img.imageGens
               filters := s.img.filters.map fun i => { i with releasedAt := i.releasedAt.map fun _ => 0 }
               filterGens := s.img.filterGens }
      loom := { retired := s.loom.retired ++ s.loom.takeover.filter (fun c => !s.loom.retired.contains c), out := s.loom.out }
      tiers := s.tiers.afterReset s.openRuns (s.fabric.summaries.foldl (fun n y => n + 4 * y.counts.length) 0)
      tables := { list := s.tables.list.map Table.afterReset, gens := s.tables.gens, toRestore := s.tables.list.map (·.index) }
      grafts := { list := s.grafts.list.map Graft.afterReset, gens := s.grafts.gens, logs := s.grafts.logs
                  logGens := s.grafts.logGens }
      flash := s.flash.afterReset s.openRuns
      fabric := { plot := s.fabric.plot, plotDecisions := s.fabric.plotDecisions, summaries := s.fabric.summaries }
      integ := { history := s.integ.history, granules := s.integ.granules, banks := s.integ.banks, pages := s.integ.pages }
      fail := (s.fail).afterReset
      out := s.out
      frames := s.frames
      free := if s.boot.update.isSome then s.free + 1 else s.free
      pending := s.pending }

end Sys2Proof.Machine
end

