-- ==== Sys2Proof/Machine/Boot.lean ====
section
/-! DEFINITION. Bring-up, config flash, fuses, firmware image, recovery, readiness and attestation (chapter 17). -/

namespace Sys2Proof.Machine

open Sys2Proof

/-! ### Firmware image (R409, R410) -/

/-- The firmware image header's fields. -/
structure FwHeader where
  magic : Nat
  saselRev : Nat
  fwVersion : Nat
  svn : Nat
  keySel : Nat
  codeLength : Nat
  entry : Nat
  revokeReq : Nat
  codeDigest : Buf
  rsv : Bool
  deriving DecidableEq, Repr

/-- The header from the first 128 bytes (table *Firmware image header*). -/
def parseFwHeader (b : Buf) : FwHeader :=
  { magic := Buf.le b 0 4, saselRev := Buf.le b 4 2, fwVersion := Buf.le b 8 4, svn := Buf.le b 13 1
    keySel := Buf.le b 14 1, codeLength := Buf.le b 16 4, entry := Buf.le b 20 4, revokeReq := Buf.le b 24 1 % 4
    codeDigest := Buf.slice b 32 32
    rsv := decide (Buf.le b 6 2 ≠ 0) || decide (Buf.le b 12 1 ≠ 0) || decide (Buf.le b 15 1 ≠ 0)
      || decide (Buf.le b 24 1 / 4 ≠ 0) || (Buf.slice b 25 7).any (· ≠ 0) || (Buf.slice b 64 64).any (· ≠ 0) }

/-- MAGIC, reserved fields, CODE_LENGTH, CODE_DIGEST and the signing key's own revocation request (R410, R413). -/
def fwFormOk (h : FwHeader) (code : Buf) : Bool :=
  h.magic == 0x4D524946 && !h.rsv && h.codeLength % 4096 == 0 && decide (h.codeLength ≤ 16760832)
    && code.length == h.codeLength && sha3 code == h.codeDigest && decide (h.svn ≤ 64)
    && (h.revokeReq / 2 ^ h.keySel) % 2 == 0

/-- The fused digest that KEY_SEL names. -/
def Boot.fwKey (b : Boot) (k : Nat) : Option Buf := if k = 0 then some b.fwKey0 else if k = 1 then some b.fwKey1 else none

/-- Key, signature and SVN checks (R410). -/
def fwTrusted (b : Boot) (h : FwHeader) (key : Buf) (sigOk : Bool) : Bool :=
  (match b.fwKey h.keySel with
    | some d => !b.revoke.getLsbD h.keySel && sha3 key == d
    | none => false)
    && sigOk && decide (b.rollback ≤ h.svn)

/-- Bytes signed, whose digest is the image digest (R409). -/
def fwSigned (head code : Buf) : Buf := Buf.slice head 0 4096 ++ code

/-- The image in the image region. -/
def State.regionHead (s : State) : Buf := s.cfgBytes 0 4096
def State.regionCode (s : State) (len : Nat) : Buf := s.cfgBytes 1024 (min len 16760832)

/-! ### Readiness (R314, R405, R407) -/

/-- The condition of a readiness bit (tables *Start timeline* and *Dependent readiness*). -/
def State.bitCond (s : State) (i : Nat) : Bool :=
  let fw := decide (s.boot.phase = .firmware)
  let rec' := decide (s.boot.phase = .recovery)
  if i = bitHostport then s.hp.port.up && (fw || rec')
  else if i = bitFront then fw || rec'
  else if i = bitMailbox then rec' || (fw && s.boot.flagged.all fun x => decide (x < 4096))
  else if i = bitQmgr ∨ i = bitCtrl ∨ i = bitSysregion then fw
  else if i = bitLoom then fw && !s.loom.out
  else if i = bitFlashmap then fw && s.flash.replayed
  else if i = bitIndex then
    let ofIndex := fun (id : W64) => decide (id.toNat / 2 ^ 60 = 1) || decide (id.toNat / 2 ^ 60 = 2)
    s.isReady bitFlashmap && s.isReady bitLoom && s.tiers.homes.all (fun h => !ofIndex h.objId || h.hbmCopy || h.damaged)
      && s.tiers.fetches.all fun f => !ofIndex f.objId
  else if i = bitTables then s.isReady bitFlashmap && s.tables.toRestore.isEmpty
  else if i = bitWoane then fw && s.fabric.plot.isSome && s.fabric.ports.any (·.up)
  else if i = bitGraft then s.isReady bitFlashmap && s.isReady bitWoane
  else if 16 ≤ i ∧ i < 40 then fw && !s.tiers.retiredStacks.contains (i - 16)
  else if 40 ≤ i ∧ i < 56 then fw && !(s.fail).hubsRetired.getLsbD (i - 40)
  else if 56 ≤ i ∧ i < 68 then
    fw && (match s.fabric.ports[i - 56]? with | some p => p.up | none => false)
  else false

/-- Clear the bits whose condition no longer holds (R407): GRAFT and INDEX follow those they depend on. -/
def State.dropBits (s : State) : State :=
  let drop := fun (s : State) (i : Nat) => if s.isReady i && !s.bitCond i then s.setReady i false else s
  [bitHostport, bitLoom, bitFlashmap, bitWoane, bitIndex, bitTables, bitGraft].foldl drop
    ((List.range 12).foldl (fun s p => drop s (bitFp p)) s)

/-- A readiness bit sets or clears as its conditions stand (R407). -/
def State.changeReady (s : State) (bit : Nat) : State := (if bit < 68 then s.setReady bit (s.bitCond bit) else s).dropBits

/-! ### Start (R404 to R406, R417) -/

/-- PWRGD, RESET_L and the Start condition all hold and the sled has not started since its last reset (R404, R464). -/
def State.canStart (s : State) : Bool :=
  s.power.pwrgd && !s.power.resetL && s.power.startMet && decide (s.boot.phase = .off)

/-- The writes that waited for the update, in order. -/
def State.applyWaiting (s : State) : State :=
  s.boot.cfgWaiting.foldl
    (fun s w => match w with
      | (c, none) => s.ctrIncrement c
      | (i, some p) => s.itemWrite i p)
    { s with boot := { s.boot with update := none, cfgWaiting := [] } }

/-- The start of R404: SLOT_ID is sampled, the boot ROM runs, RESETS increments, and after it the counters whose increments an
update that the reset cut off had kept waiting (log 17), flag cells are read, the identity key pair and the media keys are derived from
SEED, and these loaded into every hub (R411, R427), the host port takes its configured mode. -/
def State.startNow (s : State) : State :=
  let s := (s.ctrIncrement ctrResets).applyWaiting
  { s with
    power := { s.power with slotId := s.power.slotPins, startedSince := true }
    boot := { s.boot with phase := .bootRom, eraseFlags := BitVec.ofNat 32 s.boot.cfgFlags.length
                          flagged := s.boot.cfgFlags, identityKey := identityPublic s.boot.seed }
    flash := { s.flash with hubKeys := (List.range 16).map fun h => (h, mediaKeys s.boot.seed) }
    hp := { s.hp with wide := (parseHp s.hpPayload).wideNext } }

/-- START (R404). -/
def execStart (s : State) : Outcome := .next (if s.canStart then s.startNow else s)

/-- An accepted image runs: M0 takes its digest; firmware reads the config region, extends M1 and M3 and increments the
rank epoch (R405, R410, R425, R338). -/
def State.runFirmware (s : State) (h : FwHeader) (digest : Buf) : State :=
  let hpP := s.hpPayload
  let plP := s.plotPayload
  let keyP := s.keyPayload
  let s := s.ctrIncrement ctrEpoch
  { s with
    boot := { s.boot with
      phase := .firmware, fwVersion := BitVec.ofNat 32 h.fwVersion, svn := h.svn, revokeReq := BitVec.ofNat 2 h.revokeReq
      saselRev := BitVec.ofNat 16 h.saselRev
      m0 := extend s.boot.m0 digest, m1 := extend s.boot.m1 (sha3 keyP)
      m3 := extend (extend s.boot.m3 (sha3 hpP)) (sha3 plP) }
    hp := { s.hp with settings := parseHp hpP }
    sasel := { s.sasel with keys := parseKeys keyP }
    fabric := { s.fabric with epoch := s.counter ctrEpoch
                              plot := if plP = [] then none else some (parsePlot plP) } }

/-- FIRMWARE_IMAGE_CHECK: the boot ROM checks the image region under R410 and starts it, or enters network recovery
(R424).  `sigOk` says whether the signature verifies under the embedded key (log 12). -/
def execFirmwareImageCheck (sigOk : Bool) (s : State) : Outcome :=
  .next (if s.boot.phase = .bootRom then
      let head := s.regionHead
      let h := parseFwHeader head
      let code := s.regionCode h.codeLength
      if fwFormOk h code && fwTrusted s.boot h (Buf.slice head 0x80 1312) sigOk
          && s.boot.cfgFlags.all (fun x => decide (4096 ≤ x)) then
        s.runFirmware h (sha3 (fwSigned head code))
      else { s with boot := { s.boot with phase := .recovery } }
    else s)

/-- A ROLLBACK fuse is blown when MAILBOX is set and the running SVN is above the value (R412). -/
def execRollbackFuseBlow (s : State) : Outcome :=
  .next (if s.boot.phase = .firmware ∧ s.isReady bitMailbox = true ∧ s.boot.rollback < s.boot.svn then
      { s with boot := { s.boot with rollback := s.boot.rollback + 1 } }
    else s)

/-- A REVOKE fuse that the running image requests is blown (R413). -/
def execRevokeFuseBlow (key : Nat) (s : State) : Outcome :=
  .next (if s.boot.phase = .firmware ∧ s.isReady bitMailbox = true ∧ key < 2 ∧ s.boot.revokeReq.getLsbD key = true then
      { s with boot := { s.boot with revoke := setBit s.boot.revoke key true } }
    else s)

/-! ### Config flash operations (R415 to R419, R423) -/

def configWords : Nat := 16384 * sectorWords

/-- CONFIG_READ_WORD returns the word and changes nothing. -/
def execConfigReadWord (addr : Nat) (s : State) : Outcome :=
  .next (if addr < configWords then s.emit (.wire .readRequest 0 [addr, (s.cfgRead addr).toNat]) else s)

/-- CONFIG_PROGRAM_WORD: the word takes the AND of old and new. -/
def execConfigProgramWord (addr : Nat) (value : W32) (s : State) : Outcome :=
  .next (if addr < configWords then s.cfgProgram addr value else s)

/-- CONFIG_ERASE_SECTOR: every word 0xFFFF_FFFF, the flag cell erased last. -/
def execConfigEraseSector (sector : Nat) (s : State) : Outcome :=
  .next (if sector < 16384 then s.cfgErase sector else s)

/-- A counter counts, or waits while an update writes the image region (R423). -/
def State.count (s : State) (c : Nat) : State :=
  if s.boot.update.isSome then { s with boot := { s.boot with cfgWaiting := s.boot.cfgWaiting ++ [(c, none)] } }
  else s.ctrIncrement c

/-- An item is written, or waits while an update writes the image region (R423). -/
def State.writeItem (s : State) (item : Nat) (payload : Buf) (bad : Option (Nat × W32)) : State :=
  if s.boot.update.isSome then
    { s with boot := { s.boot with cfgWaiting := s.boot.cfgWaiting ++ [(item, some payload)] } }
  else s.itemWriteBad item payload bad

/-- CONFIG_ITEM_WRITE (R418). -/
def execConfigItemWrite (item : Nat) (payload : Buf) (bad : Option (Nat × W32)) (s : State) : Outcome :=
  .next (if 1 ≤ item ∧ item ≤ 3 ∧ payload.length ≤ (itemCopies item).2.2 * 4096 - 32 then s.writeItem item payload bad else s)

/-- COUNTER_INCREMENT (R419): counters 0–4 in the order of the table *Config flash map*. -/
def execCounterIncrement (counter : Nat) (s : State) : Outcome :=
  .next (if counter < 5 then
      let s := s.count counter
      if counter = ctrEpoch then { s with fabric := { s.fabric with epoch := s.counter ctrEpoch } } else s
    else s)

/-- POWERED_HOURS_TIMER: every 3,600 s of the control cluster's counter (R419). -/
def execPoweredHoursTimer (s : State) : Outcome := .next (s.count ctrHours)

/-- ERASE_FLAG_REPAIR: firmware erases each flagged sector of 4,096–16,383 again and lists it (R417). -/
def execEraseFlagRepair (s : State) : Outcome :=
  .next (if s.boot.phase = .firmware then
      let again := s.boot.flagged.filter fun x => decide (4096 ≤ x)
      let s := s.cfgEraseAll again
      { s with boot := { s.boot with flagged := s.boot.flagged.filter (fun x => decide (x < 4096))
                                     erasedAgain := s.boot.erasedAgain ++ again } }
    else s)

/-! ### Update and recovery (R422 to R424) -/

/-- The statuses of an image's checks: BAD_FIELD for form, DENIED for key, signature and SVN (R422). -/
def State.updateErrs (s : State) (img : FwImage) (len : Nat) : List Status :=
  let h := parseFwHeader img.head
  when (!fwFormOk h img.code || decide (len ≠ 4096 + h.codeLength + 2420)) .badField
    ++ when (!fwTrusted s.boot h (Buf.slice img.head 0x80 1312) img.sigOk) .denied
    ++ when s.boot.update.isSome .noResource

/-- Sectors an image occupies (R422). -/
def updateSectors (codeLength : Nat) : Nat := ceilDiv (0x1000 + codeLength + 2420) 4096

/-- Erase `n` sectors from sector 0 and program the image; the update writes the region until its completion (log 17). -/
def State.programImage (s : State) (u : Sub) (img : FwImage) (n : Nat) (recovery : Bool) (bad : Option (Nat × W32)) : State :=
  let s := s.cfgEraseAll (List.range n)
  let s := s.cfgProgramList (wordRun 0 (wordsOf (fwSigned img.head img.code ++ Buf.slice img.sig 0 2420))) bad
  { s with boot := { s.boot with update := some { sid := u.sid, recovery := recovery }
                                 flagged := s.boot.flagged.filter fun x => decide (n ≤ x) } }

/-- A command whose config flash write has a word that reads back wrong completes with MEDIA_ERROR (R416). -/
def State.endProgram (s : State) (u : Sub) (bad : Option (Nat × W32)) : State :=
  if bad.isSome then s.failWith u.sid .mediaError else s.completeOk u

/-- UPDATE_FIRMWARE (R422): also the major revision must be the running one unless ARG0[0] permits a change (R330). -/
def execUpdateFirmware (sid : Nat) (img : Option FwImage) (bad : Option (Nat × W32)) (s : State) : Outcome :=
  .next (s.run sid 0xE8 fun u s =>
    if s.boot.phase = .firmware then
      match img with
      | none => s.accessError u
      | some img =>
        let h := parseFwHeader img.head
        let major := when (decide (h.saselRev / 256 ≠ s.boot.saselRev.toNat / 256) && decide (u.entry.arg0 ≠ 1)) .badField
        s.settle u (s.updateErrs img u.entry.length.toNat ++ major) fun s =>
          (s.programImage u img (updateSectors h.codeLength) false bad).endProgram u bad
    else s)

/-- UPDATE_FIRMWARE in network recovery: without the check of R330, over the whole image region (R424). -/
def execUpdateFirmwareRecovery (sid : Nat) (img : Option FwImage) (bad : Option (Nat × W32)) (s : State) : Outcome :=
  .next (s.run sid 0xE8 fun u s =>
    if s.boot.phase = .recovery then
      match img with
      | none => s.accessError u
      | some img =>
        s.settle u (s.updateErrs img u.entry.length.toNat) fun s => (s.programImage u img 4096 true bad).endProgram u bad
    else s)

/-- RECOVERY_RESET: 1 s after the completion of an update in recovery, the sled resets (R424). -/
def execRecoveryReset (s : State) : Outcome := .next (if s.boot.recoveryDone then s.resetNow else s)

/-! ### Attestation (R425, R426) -/

/-- The body of a quote (table *Quote body*). -/
def State.quoteBody (s : State) (nonce : Buf) : Buf :=
  leBytes 4 0x544F5551 ++ leBytes 4 (if s.boot.phase = .recovery then 0 else s.boot.fwVersion.toNat)
    ++ leBytes 4 s.boot.rollback ++ leBytes 4 (s.counter ctrResets) ++ leBytes 8 s.boot.serial.toNat
    ++ leBytes 8 s.sasel.eventSeq ++ Buf.slice nonce 0 32 ++ s.boot.m0 ++ s.boot.m1 ++ s.boot.m2 ++ s.boot.m3

/-- The nonce of an ATTEST: ARG0–ARG3, ARG0 giving bytes 0–7. -/
def Entry.nonce (e : Entry) : Buf :=
  leBytes 8 e.arg0.toNat ++ leBytes 8 e.arg1.toNat ++ leBytes 8 e.arg2.toNat ++ leBytes 8 e.arg3.toNat

/-- ATTEST writes the quote: body, then 2,420 bytes of signature; RESULT0 is 2,612. -/
def execAttest (sid : Nat) (ok : Bool) (s : State) : Outcome :=
  .next (s.run sid 0x72 fun u s => s.settle u (when (decide (u.entry.length.toNat < 2612)) .badField) fun s =>
    let body := s.quoteBody u.entry.nonce
    let n := s.fresh.1
    let s := s.fresh.2
    s.report u ok (body ++ Buf.slice (Config.signature body n) 0 2420) fun s => s.complete u 2612 0)

end Sys2Proof.Machine
end

