-- ==== Sys2Proof/Machine/Admin.lean ====
section
/-! DEFINITION. Bootstrap mailboxes, admin sessions, access, keys and the settings an admin session changes (R324 to R329,
R322, R421, R302, R245, R29). -/

namespace Sys2Proof.Machine

open Sys2Proof

/-! ### Mailboxes (R324 to R326) -/

def controlMagic : Nat := 0x474F474F

/-- Opcodes a mailbox accepts: classes QUEUE, QUERY, ADMIN and SESSION; in network recovery NOP, ATTEST and
UPDATE_FIRMWARE (R326, R424). -/
def State.mailboxAllows (s : State) (op : Nat) : Bool :=
  if s.boot.phase = .recovery then [0x00, 0x72, 0xE8].contains op
  else match classOf op with
    | some .queue | some .query | some .admin | some .session => true
    | _ => false

def State.modSlot (s : State) (m : Nat) (f : Mailbox → Mailbox) : State :=
  { s with sasel := { s.sasel with slots := modAt s.sasel.slots m f } }

def State.collide (s : State) : State := { s with hp := { s.hp with mailboxCollision := satInc s.hp.mailboxCollision } }

/-- A CONTROL write to a slot that is ready to take one (R325): malformed, a repeat, not permitted, or accepted. -/
def State.control (s : State) (conn : W32) (m : Nat) (control : W64) : State :=
  match s.sasel.slots[m]? with
  | none => s
  | some x =>
    let seq : W32 := BitVec.ofNat 32 (control.toNat / 2 ^ 32)
    if x.state = .accepted then s.collide
    else if control.toNat % 2 ^ 32 ≠ controlMagic ∨ seq = 0 then
      s.modSlot m fun x => { x with state := .rejected, reason := 2, control := control }
    else if seq = x.seq then s.collide
    else
      let e := Entry.parse x.entry
      if s.mailboxAllows e.opcode.toNat then
        (((s.modSlot m fun x => { x with state := .accepted, reason := 0, seq := seq, control := control }).accept
          (.mailbox m seq) conn 0 e x.data)).2
      else s.modSlot m fun x => { x with state := .rejected, reason := 1, seq := seq, control := control }

/-- MAILBOX_CONTROL: a CONTROL word arrives on a connection.  It is acted on while MAILBOX is set and the sled accepts
submissions (R28, R254, R314). -/
def execMailboxControl (conn : W32) (slot : Nat) (control : W64) (s : State) : Outcome :=
  .next (if s.connOpen conn && s.accepts && s.isReady bitMailbox then s.control conn slot control else s)

/-! ### Sessions (R327 to R329) -/

/-- P-clock counts of 10 s (R328). -/
def tenSeconds : Nat := countsOfUs 10000000

/-- SESSION_BEGIN writes a fresh nonce into B; the connection holds it in place of any other. -/
def execSessionBegin (sid : Nat) (nonce : Buf) (ok : Bool) (s : State) : Outcome :=
  .next (s.run sid 0xF0 fun u s => s.settle u (when (decide (u.entry.length.toNat < 32)) .badField) fun s =>
    let bytes := Buf.slice nonce 0 32
    s.report u ok bytes fun s =>
      (s.modConn u.conn fun c =>
        { c with nonce := some { bytes := bytes, keySlot := u.entry.arg0.toNat, since := s.pclk } }).completeOk u)

/-- The reasons a SESSION_PROVE is denied: no nonce, another slot, more than 10 s, an empty key slot, a signature that
does not verify (R328). -/
def State.proveDenied (s : State) (u : Sub) (verifies : Bool) : Bool :=
  match (s.conn? u.conn).bind (·.nonce) with
  | none => true
  | some n => decide (n.keySlot ≠ u.entry.arg0.toNat) || decide (tenSeconds < s.elapsed n.since) || !verifies
      || decide (s.sasel.keys[4 + u.entry.arg0.toNat]? = some [])

/-- Open a session on the connection. -/
def State.openSession (s : State) (u : Sub) : State :=
  match lowestFree (s.sasel.sessions.map (·.index)) 4096 with
  | none => s
  | some i =>
    let g := genFor s.sasel.sessionGens i
    let x : Session := { index := i, gen := g, conn := u.conn, keySlot := u.entry.arg0.toNat }
    let s := { s with sasel := { s.sasel with sessions := s.sasel.sessions ++ [x] } }
    s.complete u (BitVec.ofNat 64 (mkHandle g kindSession i).toNat) 0

/-- SESSION_PROVE consumes the nonce whatever its outcome.  `verifies` is the verdict of ML-DSA-44 on the message of R328
under the slot's owner key (log 12). -/
def execSessionProve (sid : Nat) (signature : Option Buf) (verifies : Bool) (s : State) : Outcome :=
  .next (s.run sid 0xF1 fun u s =>
    let denied := s.proveDenied u verifies
    (s.modConn u.conn fun c => { c with nonce := none }).withB u signature fun _ =>
      let s := s.modConn u.conn fun c => { c with nonce := none }
      s.settle u
        (when (decide (u.entry.length.toNat ≠ 2420)) .badField ++ when denied .denied
          ++ when (decide (8 ≤ s.sasel.sessions.length)) .noResource)
        fun s => s.openSession u)

/-- CLOSE_SESSION (R329). -/
def execCloseSession (sid : Nat) (s : State) : Outcome :=
  .next (s.run sid 0xF2 fun u s =>
    s.settle u (when (s.session? u.entry.handleA).isNone .staleHandle) fun s =>
      (s.closeSessions fun x => names u.entry.handleA kindSession x.gen x.index).completeOk u)

/-! ### Access (R322) -/

/-- GRANT with ARG1[0] 1 gives a client access to an index, table or log. -/
def execGrant (sid : Nat) (s : State) : Outcome :=
  .next (s.run sid 0xE1 fun u s =>
    if u.entry.arg1 = 1 then
      s.settle u [] fun s =>
        let g := (u.entry.handleA, u.entry.arg0.toNat)
        let gs := if s.sasel.grants.contains g then s.sasel.grants else s.sasel.grants ++ [g]
        ({ s with sasel := { s.sasel with grants := gs } } : State).completeOk u
    else s)

/-- GRANT with ARG1[0] 0 removes it. -/
def execRevoke (sid : Nat) (s : State) : Outcome :=
  .next (s.run sid 0xE1 fun u s =>
    if u.entry.arg1 = 1 then s
    else s.settle u [] fun s =>
      let gs := s.sasel.grants.filter fun g => !(g == (u.entry.handleA, u.entry.arg0.toNat))
      ({ s with sasel := { s.sasel with grants := gs } } : State).completeOk u)

/-! ### Keys and settings (R302, R421, R425) -/

/-- The slot of an ENROL_KEY: 0–3 image signing, 4–7 owner (R418). -/
def enrolSlot (e : Entry) : Nat := e.arg0.toNat % 4 + (if e.arg0.toNat / 256 % 2 = 1 then 4 else 0)

/-- The key slots after an ENROL_KEY. -/
def State.enrolled (s : State) (slot : Nat) (key : Buf) : List Buf :=
  modAt s.sasel.keys slot fun _ => if key.all (· == 0) then [] else key

/-- ENROL_KEY writes the key into its slot, extends M1, and closes the sessions of a replaced owner key.  It waits while
an update writes the image region (R423, R428). -/
def execEnrolKey (sid : Nat) (b : Option Buf) (bad : Option (Nat × W32)) (s : State) : Outcome :=
  .next (if s.boot.update.isSome then s else
    s.run sid 0xE2 fun u s => s.withB u b fun key =>
      let slot := enrolSlot u.entry
      let keys := s.enrolled slot key
      s.settle u
        (when (decide (u.entry.length.toNat ≠ keyBytes) || (keys.drop 4).all (fun k => k == [])) .badField)
        fun s =>
          let s := s.itemWriteBad itemKeys (keysPayload keys) bad
          if bad.isSome then s.failWith u.sid .mediaError else
          let s : State := { s with
            sasel := { s.sasel with keys := keys }
            boot := { s.boot with m1 := extend s.boot.m1 (sha3 (keysPayload keys)) } }
          let s := if 4 ≤ slot then s.closeSessions fun x => x.keySlot + 4 == slot else s
          s.completeOk u)

/-- New settings of the host port are in force; a pause that was for another lossless priority holds nothing any more (R302, R303). -/
def State.applyHp (s : State) (h : HpSettings) : State :=
  let same := h.pfcOn && h.pfcPrio == s.hp.settings.pfcPrio
  let s : State := { s with hp := { s.hp with settings := h } }
  if s.hp.paused && !same then s.resume else s

/-- SET_HOSTPORT stores the settings, applies them and extends M3; the mode applies at the next reset (R299, R302). -/
def execSetHostport (sid : Nat) (b : Option Buf) (bad : Option (Nat × W32)) (s : State) : Outcome :=
  .next (if s.boot.update.isSome then s else
    s.run sid 0xE3 fun u s => s.withB u b fun buf =>
      s.settle u (when (decide (u.entry.length.toNat ≠ 32) || !hpOk buf) .badField) fun s =>
        let s := s.itemWriteBad itemHost buf bad
        if bad.isSome then s.failWith u.sid .mediaError else
        let s : State := { s with boot := { s.boot with m3 := extend s.boot.m3 (sha3 buf) } }
        (s.applyHp (parseHp buf)).completeOk u)

/-- FLASH_POLICY sets the wear limit, 50–1,000, and the patrol period, 1–30 days (R245, R246). -/
def execFlashPolicy (sid : Nat) (s : State) : Outcome :=
  .next (s.run sid 0xE6 fun u s =>
    let wear := u.entry.arg0.toNat % 2 ^ 16
    let days := u.entry.arg0.toNat / 2 ^ 16 % 256
    s.settle u (when (decide (wear < 50) || decide (1000 < wear) || decide (days < 1) || decide (30 < days)) .badField)
      fun s => ({ s with flash := { s.flash with wearLimit := wear, patrolDays := days } } : State).completeOk u)

/-- RESET_SLED completes, and the reset follows its completion; refused while an update runs (R423). -/
def execResetSled (sid : Nat) (s : State) : Outcome :=
  .next (s.run sid 0xE7 fun u s => s.settle u (when s.boot.update.isSome .noResource) fun s =>
    ({ s with sasel := { s.sasel with resetAfter := some u.sid } } : State).completeOk u)

end Sys2Proof.Machine
end

