-- ==== Sys2Proof/Machine/Formats.lean ====
section
/-! DEFINITION. Number formats and the FP32 arithmetic of the beaters (chapter 5): exact dyadic values, one rounding to
nearest even, the element formats of R111, the conversions of R124 and the functions of R126. -/

namespace Sys2Proof.Machine

open Sys2Proof

/-! ### Exact values -/

/-- Floor of log₂, 0 for 0. -/
def log2Floor (n : Nat) : Nat := Nat.log2 n

/-- Round `m × 2^(-s)` to an integer, nearest, ties to even. -/
def rneShift (m s : Nat) : Nat :=
  let q := m / 2 ^ s
  let r := m % 2 ^ s
  if 2 * r < 2 ^ s then q else if 2 ^ s < 2 * r then q + 1 else q + q % 2

/-- An exact value: a NaN, an infinity, or (−1)^s × m × 2^e. -/
inductive Num
  | nan
  | inf (neg : Bool)
  | fin (neg : Bool) (m : Nat) (e : Int)
  deriving DecidableEq, Repr

/-- A dyadic number as an integer multiple of 2^e. -/
structure Dyad where
  m : Int
  e : Int
  deriving DecidableEq, Repr

/-- The integer that counts a dyadic in units of 2^e0, for e0 at most its exponent. -/
def Dyad.units (d : Dyad) (e0 : Int) : Int := d.m * 2 ^ (d.e - e0).toNat

/-- Exact sum. -/
def Dyad.add (a b : Dyad) : Dyad := let e := min a.e b.e; { m := a.units e + b.units e, e := e }

/-- Exact product. -/
def Dyad.mul (a b : Dyad) : Dyad := { m := a.m * b.m, e := a.e + b.e }

/-- The dyadic as a value; zero is positive. -/
def Dyad.num (d : Dyad) : Num := .fin (decide (d.m < 0)) d.m.natAbs d.e

/-- A finite value as a dyadic. -/
def Num.dyad : Num → Dyad
  | .fin s m e => { m := if s then -(m : Int) else m, e := e }
  | _ => { m := 0, e := 0 }

def Num.isZero : Num → Bool
  | .fin _ m _ => m == 0
  | _ => false

def Num.isNan : Num → Bool
  | .nan => true
  | _ => false

def Num.isInf : Num → Bool
  | .inf _ => true
  | _ => false

/-! ### Formats with a sign, an exponent and a mantissa (R111) -/

/-- A floating-point format: mantissa bits, exponent of the smallest unit, code of the largest finite value, width. -/
structure FFmt where
  man : Nat
  emin : Int
  maxFinite : Nat
  width : Nat
  deriving DecidableEq, Repr

def fp32 : FFmt := { man := 23, emin := -149, maxFinite := 0x7F7FFFFF, width := 32 }
def fp16 : FFmt := { man := 10, emin := -24, maxFinite := 0x7BFF, width := 16 }
def bf16 : FFmt := { man := 7, emin := -133, maxFinite := 0x7F7F, width := 16 }
def e4m3 : FFmt := { man := 3, emin := -9, maxFinite := 0x7E, width := 8 }
def e5m2 : FFmt := { man := 2, emin := -16, maxFinite := 0x7B, width := 8 }
def e2m1 : FFmt := { man := 1, emin := -1, maxFinite := 0x7, width := 4 }

/-- The code of the value nearest to m × 2^e, ties to even, without an upper limit. -/
def FFmt.code (f : FFmt) (m : Nat) (e : Int) : Nat :=
  if m = 0 then 0
  else
    let top : Int := (log2Floor m : Int) + e
    let ulp := max f.emin (top - f.man)
    let q := if ulp ≤ e then m * 2 ^ (e - ulp).toNat else rneShift m (ulp - e).toNat
    (ulp - f.emin).toNat * 2 ^ f.man + q

/-- The magnitude of a code: mantissa and exponent (R111). -/
def FFmt.mag (f : FFmt) (c : Nat) : Nat × Int :=
  let ex := c / 2 ^ f.man
  let m := c % 2 ^ f.man
  if ex = 0 then (m, f.emin) else (2 ^ f.man + m, f.emin + (ex - 1 : Nat))

/-- The sign bit of a code. -/
def FFmt.neg (f : FFmt) (c : Nat) : Bool := decide (2 ^ (f.width - 1) ≤ c)

/-- The value of a finite code. -/
def FFmt.fin (f : FFmt) (c : Nat) : Num :=
  let p := f.mag (c % 2 ^ (f.width - 1))
  .fin (f.neg c) p.1 p.2

/-- Put the sign on a magnitude code. -/
def FFmt.sign (f : FFmt) (s : Bool) (c : Nat) : Nat := if s then 2 ^ (f.width - 1) + c else c

/-- The value of an IEEE code: exponent all ones is an infinity or a NaN. -/
def FFmt.ieee (f : FFmt) (c : Nat) : Num :=
  let a := c % 2 ^ (f.width - 1)
  if a ≤ f.maxFinite then f.fin c else if a = f.maxFinite + 1 then .inf (f.neg c) else .nan

/-! ### FP32 (R103, R124, R126) -/

/-- The canonical NaN (R113). -/
def nan32 : W32 := 0x7FC00000#32

def fpNum (v : W32) : Num := fp32.ieee v.toNat

def inf32 (s : Bool) : W32 := if s then 0xFF800000#32 else 0x7F800000#32

/-- Round (−1)^s × m × 2^e to FP32; beyond the range it is an infinity. -/
def roundFp (s : Bool) (m : Nat) (e : Int) : W32 :=
  let c := fp32.code m e
  if c ≤ fp32.maxFinite then BitVec.ofNat 32 (fp32.sign s c) else inf32 s

/-- Round a value to FP32. -/
def Num.toFp : Num → W32
  | .nan => nan32
  | .inf s => inf32 s
  | .fin s m e => roundFp s m e

/-- FP32 of an exact integer (CVT). -/
def fpOfInt (v : Int) : W32 := roundFp (decide (v < 0)) v.natAbs 0

def fpIsNan (v : W32) : Bool := (fpNum v).isNan
def fpIsInf (v : W32) : Bool := (fpNum v).isInf
def fpFinite (v : W32) : Bool := !fpIsNan v && !fpIsInf v

/-- Exact sum of two values; equal and opposite zeros give +0. -/
def Num.add : Num → Num → Num
  | .nan, _ => .nan
  | _, .nan => .nan
  | .inf a, .inf b => if a = b then .inf a else .nan
  | .inf a, _ => .inf a
  | _, .inf b => .inf b
  | .fin a m e, .fin b n f =>
    if m = 0 ∧ n = 0 then .fin (a && b) 0 0
    else ((Num.fin a m e).dyad.add (Num.fin b n f).dyad).num

/-- Exact product. -/
def Num.mul : Num → Num → Num
  | .nan, _ => .nan
  | _, .nan => .nan
  | .inf a, .inf b => .inf (a != b)
  | .inf a, .fin b m _ => if m = 0 then .nan else .inf (a != b)
  | .fin a m _, .inf b => if m = 0 then .nan else .inf (a != b)
  | .fin a m e, .fin b n f => .fin (a != b) (m * n) (e + f)

def Num.negate : Num → Num
  | .nan => .nan
  | .inf a => .inf (!a)
  | .fin a m e => .fin (!a) m e

def fpAdd (a b : W32) : W32 := ((fpNum a).add (fpNum b)).toFp
def fpSub (a b : W32) : W32 := ((fpNum a).add (fpNum b).negate).toFp
def fpMul (a b : W32) : W32 := ((fpNum a).mul (fpNum b)).toFp

/-- Quotient m / n as a dyadic with a sticky last bit, enough for one rounding. -/
def divSticky (m : Nat) (e : Int) (n : Nat) (f : Int) : Nat × Int :=
  let k := 64 + log2Floor n
  let q := m * 2 ^ k / n
  (2 * q + (if m * 2 ^ k % n = 0 then 0 else 1), e - f - k - 1)

/-- Division (R126). -/
def fpDiv (a b : W32) : W32 :=
  match fpNum a, fpNum b with
  | .nan, _ => nan32
  | _, .nan => nan32
  | .inf _, .inf _ => nan32
  | .inf s, .fin t _ _ => inf32 (s != t)
  | .fin s _ _, .inf t => roundFp (s != t) 0 0
  | .fin s m e, .fin t n f =>
    if n = 0 then (if m = 0 then nan32 else inf32 (s != t))
    else let q := divSticky m e n f; roundFp (s != t) q.1 q.2

/-- Integer square root by bits, from bit `i` − 1 down. -/
def isqrtFrom (n : Nat) : Nat → Nat → Nat
  | 0, r => r
  | i + 1, r => let t := r + 2 ^ i; isqrtFrom n i (if t * t ≤ n then t else r)

/-- Integer square root. -/
def isqrt (n : Nat) : Nat := isqrtFrom n (log2Floor n / 2 + 1) 0

/-- Square root of m × 2^e as a dyadic with a sticky last bit. -/
def sqrtSticky (m : Nat) (e : Int) : Nat × Int :=
  let odd := e % 2 ≠ 0
  let m2 := (if odd then 2 * m else m) * 2 ^ 128
  let e2 := ((if odd then e - 1 else e) - 128) / 2
  let r := isqrt m2
  (2 * r + (if r * r = m2 then 0 else 1), e2 - 1)

/-- Square root (R126). -/
def fpSqrt (a : W32) : W32 :=
  match fpNum a with
  | .nan => nan32
  | .inf s => if s then nan32 else inf32 false
  | .fin s m e =>
    if m = 0 then a else if s then nan32 else let q := sqrtSticky m e; roundFp false q.1 q.2

/-- Compare two values that are not NaN. -/
def Num.lt : Num → Num → Bool
  | .nan, _ => false
  | _, .nan => false
  | .inf a, .inf b => a && !b
  | .inf a, _ => a
  | _, .inf b => !b
  | a, b => let x := a.dyad; let y := b.dyad; let e := min x.e y.e; decide (x.units e < y.units e)

def fpLt (a b : W32) : Bool := (fpNum a).lt (fpNum b)

/-- The larger of two values; a NaN gives the canonical NaN (R126). -/
def fpMax (a b : W32) : W32 := if fpIsNan a || fpIsNan b then nan32 else if fpLt a b then b else a

/-- |v|. -/
def fpAbs (a : W32) : W32 := if fpIsNan a then nan32 else a &&& 0x7FFFFFFF#32

/-- An FP32 step with these finite arguments overflowed to an infinity (R106). -/
def fpOver (args : List W32) (r : W32) : Bool := fpIsInf r && args.all fpFinite

/-! ### The tree of R104 -/

/-- One level: pairs from the start, an odd last one carried. -/
def treeLevel {α : Type} (f : α → α → α) : List α → List α
  | a :: b :: r => f a b :: treeLevel f r
  | l => l

/-- Levels until one value remains. -/
def treeFuel {α : Type} (f : α → α → α) : Nat → List α → List α
  | 0, l => l
  | n + 1, l => if l.length ≤ 1 then l else treeFuel f n (treeLevel f l)

/-- Reduce by the tree; `z` for no value. -/
def treeOf {α : Type} (f : α → α → α) (z : α) (l : List α) : α := (treeFuel f 64 l).headD z

def fpTreeSum (l : List W32) : W32 := treeOf fpAdd 0#32 l
def fpTreeMax (l : List W32) : W32 := treeOf fpMax 0#32 l

/-! ### exp, tanh, sigmoid, erf: nearest to the exact result (R126).  Fixed point of 1,024 fraction bits. -/

def fx : Nat := 2 ^ 1024

/-- Σ x^k / k! from term k on, in fixed point. -/
def expSeries (x : Nat) : Nat → Nat → Nat → Nat → Nat
  | 0, _, _, acc => acc
  | n + 1, k, t, acc => let t' := t * x / fx / k; expSeries x n (k + 1) t' (acc + t')

/-- Square `n` times. -/
def squareFx : Nat → Nat → Nat
  | 0, v => v
  | n + 1, v => squareFx n (v * v / fx)

/-- exp of a fixed-point value of at most 256. -/
def expFx (x : Nat) : Nat := squareFx 9 (expSeries (x / 512) 160 1 fx fx)

/-- m × 2^e in fixed point. -/
def toFx (m : Nat) (e : Int) : Nat := if 0 ≤ e + 1024 then m * 2 ^ (e + 1024).toNat else m / 2 ^ (-(e + 1024)).toNat

/-- Round a fixed-point value that is not exact. -/
def fxToFp (s : Bool) (v : Nat) : W32 := roundFp s (2 * v + 1) (-1025)

/-- |v| is at least `k`. -/
def atLeast (m : Nat) (e : Int) (k : Nat) : Bool := decide (toFx k 0 ≤ toFx m e) || decide (0 ≤ e ∧ k ≤ m * 2 ^ (min e 64).toNat)

/-- exp. -/
def fpExp (a : W32) : W32 :=
  match fpNum a with
  | .nan => nan32
  | .inf s => if s then 0#32 else inf32 false
  | .fin s m e =>
    if m = 0 then 0x3F800000#32
    else if atLeast m e 128 then (if s then 0#32 else inf32 false)
    else
      let v := expFx (toFx m e)
      fxToFp false (if s then fx * fx / v else v)

/-- tanh. -/
def fpTanh (a : W32) : W32 :=
  match fpNum a with
  | .nan => nan32
  | .inf s => if s then 0xBF800000#32 else 0x3F800000#32
  | .fin s m e =>
    if m = 0 then a
    else if atLeast m e 32 then (if s then 0xBF800000#32 else 0x3F800000#32)
    else let v := expFx (2 * toFx m e); fxToFp s ((v - fx) * fx / (v + fx))

/-- sigmoid. -/
def fpSigmoid (a : W32) : W32 :=
  match fpNum a with
  | .nan => nan32
  | .inf s => if s then 0#32 else 0x3F800000#32
  | .fin s m e =>
    if m = 0 then 0x3F000000#32
    else if atLeast m e 128 then (if s then 0#32 else 0x3F800000#32)
    else
      let v := expFx (toFx m e)
      fxToFp false (if s then fx * fx / (v + fx) else v * fx / (v + fx))

/-- arctan(1/k) in fixed point: alternating series, positive and negative parts. -/
def atanParts (k : Nat) : Nat → Nat → Nat → Nat × Nat
  | 0, _, _ => (0, 0)
  | n + 1, j, t =>
    let r := atanParts k n (j + 1) (t / (k * k))
    if j % 2 = 0 then (r.1 + t / (2 * j + 1), r.2) else (r.1, r.2 + t / (2 * j + 1))

def atanInv (k n : Nat) : Nat := let r := atanParts k n 0 (fx / k); r.1 - r.2

/-- π in fixed point (Machin's formula). -/
def piFx : Nat := 4 * (4 * atanInv 5 230 - atanInv 239 70)

/-- Σ (−1)^n x^(2n+1) / (n! (2n+1)), positive and negative parts; `t` is x^(2n+1) / n!. -/
def erfParts (x2 : Nat) : Nat → Nat → Nat → Nat × Nat
  | 0, _, _ => (0, 0)
  | n + 1, j, t =>
    let r := erfParts x2 n (j + 1) (t * x2 / fx / (j + 1))
    if j % 2 = 0 then (r.1 + t / (2 * j + 1), r.2) else (r.1, r.2 + t / (2 * j + 1))

/-- erf. -/
def fpErf (a : W32) : W32 :=
  match fpNum a with
  | .nan => nan32
  | .inf s => if s then 0xBF800000#32 else 0x3F800000#32
  | .fin s m e =>
    if m = 0 then a
    else if atLeast m e 6 then (if s then 0xBF800000#32 else 0x3F800000#32)
    else
      let x := toFx m e
      let r := erfParts (x * x / fx) 420 0 x
      fxToFp s (2 * (r.1 - r.2) * fx / isqrt (piFx * fx))

/-- c₀, c₁, c₂ of the table *Composite operations*. -/
def cGelu0 : W32 := 0x3F4C422A#32
def cGelu1 : W32 := 0x3D372713#32
def cGelu2 : W32 := 0x3F3504F3#32

def fpHalf : W32 := 0x3F000000#32
def fpOne : W32 := 0x3F800000#32

/-! ### Element formats by Loom code (R90, R111, R112) -/

def codeInt8 : Nat := 0x0
def codeInt4 : Nat := 0x1
def codeBq4 : Nat := 0x8
def codeInt32 : Nat := 0xB
def codeFp32 : Nat := 0xC

/-- Class of a code: 0 integer, 1 block-float, 2 half, 3 accumulator, 4 reserved. -/
def fmtClass (c : Nat) : Nat :=
  if c ≤ 1 then 0 else if c ≤ 8 then 1 else if c ≤ 0xA then 2 else if c ≤ 0xC then 3 else 4

def fmtIs4 (c : Nat) : Bool := c == 0x1 || c == 0x6 || c == 0x8

/-- Bits of an element. -/
def fmtBits (c : Nat) : Nat := if fmtIs4 c then 4 else if fmtClass c = 2 then 16 else if fmtClass c = 3 then 32 else 8

/-- The format carries block scales (R114). -/
def fmtScaled (c : Nat) : Bool := decide (4 ≤ c ∧ c ≤ 8)

/-- E4M3: 0x7F and 0xFF are NaN, there are no infinities. -/
def e4m3Num (c : Nat) : Num := if c % 128 = 0x7F then .nan else e4m3.fin c

/-- Two's complement. -/
def signedOf (w c : Nat) : Int := if 2 ^ (w - 1) ≤ c then (c : Int) - 2 ^ w else c

/-- The value of an element code, before block scales. -/
def elemNum (fmt c : Nat) : Num :=
  match fmt with
  | 0x0 => (Dyad.mk (signedOf 8 c) 0).num
  | 0x1 => (Dyad.mk (signedOf 4 c) 0).num
  | 0x2 | 0x4 => e4m3Num c
  | 0x3 | 0x5 => e5m2.ieee c
  | 0x6 | 0x8 => e2m1.fin c
  | 0x7 => (Dyad.mk (signedOf 8 c) (-6)).num
  | 0x9 => bf16.ieee c
  | 0xA => fp16.ieee c
  | 0xB => (Dyad.mk (signedOf 32 c) 0).num
  | _ => fp32.ieee c

/-- E8M0 block scale. -/
def e8m0Num (c : Nat) : Num := if c = 0xFF then .nan else .fin false 1 ((c : Int) - 127)

/-- BQ4 block scale: E4M3, non-negative (R114). -/
def bq4Scale (c : Nat) : Num := if 0x80 ≤ c ∨ c = 0x7F then .nan else e4m3.fin c

/-- BQ4 group scale: positive, finite and normal, else every element is NaN (R114). -/
def bq4Group (g : W32) : Num := if 0x00800000 ≤ g.toNat ∧ g.toNat ≤ 0x7F7FFFFF then fpNum g else .nan

/-! ### Conversions from FP32 (R124) -/

/-- Convert to a float format: saturated or not. -/
def toFloatFmt (f : FFmt) (nanCode : Nat) (infCode : Option Nat) (v : Num) : Nat × Bool :=
  match v with
  | .nan => (nanCode, false)
  | .inf s => (f.sign s (infCode.getD f.maxFinite), false)
  | .fin s m e =>
    let c := f.code m e
    if c ≤ f.maxFinite then (f.sign s c, false) else (f.sign s f.maxFinite, true)

/-- Convert a value to an unscaled output format: code and whether it saturated (table *Conversions*). -/
def convertTo (fmt : Nat) (v : Num) : Nat × Bool :=
  match fmt with
  | 0x2 | 0x4 => toFloatFmt e4m3 0x7F none v
  | 0x3 | 0x5 => toFloatFmt e5m2 0x7E (some 0x7C) v
  | 0x9 => toFloatFmt bf16 0x7FC0 (some 0x7F80) v
  | 0xA => toFloatFmt fp16 0x7E00 (some 0x7C00) v
  | _ => toFloatFmt e2m1 0 none v

/-- RNE of a dyadic to an integer. -/
def dyadRne (d : Dyad) : Int :=
  if 0 ≤ d.e then d.m * 2 ^ d.e.toNat
  else if d.m < 0 then -(rneShift d.m.natAbs (-d.e).toNat : Int) else rneShift d.m.natAbs (-d.e).toNat

/-- REQUANT to a `w`-bit integer with zero point `z`: integer and whether it saturated. -/
def requantInt (w : Nat) (v : Num) (z : Int) : Int × Bool :=
  let lo : Int := -(2 ^ (w - 1) : Nat)
  let hi : Int := (2 ^ (w - 1) : Nat) - 1
  match v with
  | .nan => (z, true)
  | .inf s => (if s then lo else hi, true)
  | .fin s m e =>
    let r := dyadRne (Num.fin s m e).dyad + z
    if r < lo then (lo, true) else if hi < r then (hi, true) else (r, false)

/-- The two's complement code of an integer. -/
def intCode (w : Nat) (v : Int) : Nat := (v % (2 ^ w : Nat)).toNat

/-- ⌊log₂⌋ of a positive finite FP32 value. -/
def fpLog2 (v : W32) : Int :=
  match fpNum v with
  | .fin _ m e => (log2Floor m : Int) + e
  | _ => 0

/-- ⌈log₂⌉ of a positive finite FP32 value. -/
def fpLog2Ceil (v : W32) : Int :=
  match fpNum v with
  | .fin _ m e => (log2Floor m : Int) + e + (if 2 ^ log2Floor m = m then 0 else 1)
  | _ => 0

/-- E8M0 scale of a block from its largest magnitude: X + 127 (R125). -/
def mxScale (fmt : Nat) (amax : W32) : Nat :=
  let emax : Int := match fmt with | 0x4 => 8 | 0x5 => 15 | 0x6 => 2 | _ => 0
  if amax = 0 then 0 else (max 0 (min 254 (fpLog2 amax - emax + 127))).toNat

/-- One MX element of the block with scale byte `x`: code and whether its clamp counts as a saturation. -/
def mxElem (fmt x : Nat) (v : W32) : Nat × Bool :=
  match fpNum v with
  | .fin s m e =>
    let e' := e - ((x : Int) - 127)
    if fmt = 0x7 then
      let r := requantInt 8 (.fin s m (e' + 6)) 0
      let r' := if r.1 < -127 then (-127, true) else r
      (intCode 8 r'.1, r'.2 && x == 254)
    else
      let f := if fmt = 0x4 then e4m3 else if fmt = 0x5 then e5m2 else e2m1
      let c := f.code m e'
      if c ≤ f.maxFinite then (f.sign s c, false) else (f.sign s f.maxFinite, x == 254)
  | _ => (0, false)

/-- The BQ4 group scale of a pane row (R125). -/
def bq4G (amaxRow : W32) : W32 :=
  if amaxRow = 0 then fpOne else roundFp false 1 (max (fpLog2Ceil amaxRow - 11) (-126))

/-- The BQ4 scale of a block: E4M3 of amax / FP32(6 × G). -/
def bq4BlockScale (g amax : W32) : Nat := (convertTo 0x2 (fpNum (fpDiv amax (fpMul 0x40C00000#32 g)))).1

/-- One BQ4 element. -/
def bq4Elem (g : W32) (sb : Nat) (v : W32) : Nat :=
  if sb = 0 then 0
  else
    match fpNum v, fpNum (fpMul g (e4m3Num sb).toFp) with
    | .fin s m e, .fin _ n f =>
      if n = 0 then 0
      else
        let q := divSticky m e n f
        let c := e2m1.code q.1 q.2
        e2m1.sign s (min c e2m1.maxFinite)
    | _, _ => 0

end Sys2Proof.Machine
end

