-- ==== Sys2Proof/Machine/Contexts.lean ====
section
/-! DEFINITION. Contexts, resident slots, save areas, teardown and knots (R141, R151 to R153, R259 to R272, R283 to R287). -/

namespace Sys2Proof.Machine

open Sys2Proof

/-! ### Knots (R283 to R287) -/

/-- Knots 0–4,095 are firmware's, counters from reset (log 19). -/
def firmwareKnots : Nat := 4096

/-- The knot of an index, if it is allocated. -/
def State.knot? (s : State) (k : Nat) : Option Knot :=
  match s.work.knots.find? fun x => x.index == k with
  | some x => some x
  | none => if k < firmwareKnots then some { index := k, kind := .counter } else none

def State.setKnot (s : State) (x : Knot) : State :=
  { s with work := { s.work with knots := upsert (fun y => y.index == x.index) x s.work.knots } }

/-- The value a wait compares with (R285). -/
def Knot.waitValue (x : Knot) : Nat :=
  match x.kind with
  | .unallocated => 0
  | .counter => x.count.toNat
  | .barrier => x.fires.toNat
  | .event => x.set.toNat

/-- The signal would carry COUNT or FIRES past 0xFFFF_FFFF (R287). -/
def Knot.overflows (x : Knot) : Bool :=
  match x.kind with
  | .barrier => decide (x.count + 1 = x.target) && decide (x.fires = 0xFFFFFFFF#32)
  | _ => decide (x.count = 0xFFFFFFFF#32)

/-- A signal adds 1 to COUNT; on a barrier the one that reaches TARGET adds 1 to FIRES and sets COUNT to 0 (R285). -/
def Knot.signal (x : Knot) : Knot :=
  match x.kind with
  | .barrier => if x.count + 1 = x.target then { x with fires := x.fires + 1, count := 0 } else { x with count := x.count + 1 }
  | .event => { x with count := x.count + 1, set := true }
  | _ => { x with count := x.count + 1 }

/-- A reset by the owner (R285). -/
def Knot.clear (x : Knot) : Knot := { x with count := 0, fires := 0, set := false }

/-- A knot has at least the value waited for. -/
def State.knotReached (s : State) (k n : Nat) : Bool :=
  match s.knot? k with
  | some x => decide (n ≤ x.waitValue)
  | none => false

/-! ### Contexts -/

def State.ctxAt (s : State) (i : Nat) : Option Ctx := s.work.ctxs.find? fun c => c.index == i && decide (c.state ≠ .torn)

def State.modCtx (s : State) (i : Nat) (f : Ctx → Ctx) : State :=
  { s with work := { s.work with ctxs := updWhere (fun c => c.index == i) f s.work.ctxs } }

/-- The image a context runs. -/
def State.ctxImage (s : State) (c : Ctx) : Option Image :=
  (s.model? c.model).bind fun m => s.image? m.image

/-- The context holds a slot (R262). -/
def Ctx.resident (c : Ctx) : Bool := c.slot.isSome && decide (c.state ≠ .torn)

/-- The knot that the next pick of a context waits on, while it has not reached its count (R262, R285). -/
def State.waitsOn (s : State) (c : Ctx) : Option Nat :=
  match c.runs with
  | [] => none
  | r :: _ =>
    match (s.ctxImage c).bind fun im => if r.last < r.next then none else im.desc[r.next]? with
    | some p => if p.waitEn && !s.knotReached (c.firstKnot + p.waitKnot) p.waitCount then some (c.firstKnot + p.waitKnot) else none
    | none => none

/-- WAITERS of a knot (R284): the picks that wait on it, of the contexts' runs and of those the Loom holds. -/
def State.knotWaiters (s : State) (k : Nat) : Nat :=
  (s.work.ctxs.filter fun c => decide (c.state ≠ .torn) && s.waitsOn c == some k).length
    + (s.loom.issued.filter fun i => decide (i.phase = .pending) && i.pick.waitEn && i.pick.waitKnot == k
        && !s.knotReached k i.pick.waitCount).length

def KnotKind.code : KnotKind → Nat
  | .unallocated => 0 | .counter => 1 | .barrier => 2 | .event => 3

/-- The 128-bit state of a knot (table *Knot state*, R284). -/
def State.knotState (s : State) (k : Nat) : Nat :=
  match s.knot? k with
  | none => 0
  | some x => x.target.toNat * 2 ^ 96 + x.fires.toNat * 2 ^ 64 + x.count.toNat * 2 ^ 32 + x.owner.toNat * 2 ^ 20
      + s.knotWaiters k % 4096 * 2 ^ 4 + x.set.toNat * 2 ^ 3 + x.kind.code

/-- An entry of the wait conditions of R262: no work, or the next pick waits on a knot that has not reached its count, or
a window of the context is not staged. -/
def State.ctxWaits (s : State) (c : Ctx) : Bool :=
  c.runs.isEmpty || (s.waitsOn c).isSome || s.tiers.windows.any fun w => w.ctx == c.index && !w.staged

/-- A context whose wait is satisfied: BLOCKED becomes RUNNING, OUT_BLOCKED becomes OUT_READY (R262). -/
def Ctx.wake (now : Nat) (c : Ctx) : Ctx :=
  match c.state with
  | .blocked => { c with state := .running }
  | .outBlocked => { c with state := .outReady, sinceReady := now }
  | _ => c

/-- Every waiting context whose wait is satisfied goes on. -/
def State.wakeAll (s : State) : State :=
  { s with work := { s.work with
      ctxs := updWhere (fun c => c.cause.isNone && !s.ctxWaits c) (Ctx.wake s.pclk.toNat) s.work.ctxs } }

/-! ### Ranges and slots (R141, R263, R270) -/

/-- Bytes of tile SRAM in a tile, and of control cluster SRAM (R92). -/
def tileBytes : Nat := 0x180000
def ccBytes : Nat := 0x4000000

/-- The lowest base at which a range of `len` fits between the ranges in use, listed by rising base. -/
def firstFit (limit len : Nat) : Nat → List (Nat × Nat) → Option Nat
  | cur, [] => if cur + len ≤ limit then some cur else none
  | cur, (b, l) :: r => if cur + len ≤ b then some cur else firstFit limit len (max cur (b + l)) r

/-- Ranges by rising base. -/
def sortRanges (l : List (Nat × Nat)) : List (Nat × Nat) := sortBy (fun a b => decide (a.1 ≤ b.1)) l

/-- Tile SRAM ranges in use: those of resident contexts, and retired pages (R141, R381). -/
def State.tileRanges (s : State) : List (Nat × Nat) :=
  sortRanges ((s.work.ctxs.filter Ctx.resident).filterMap (fun c => (s.ctxImage c).map fun im => (c.tb, im.header.sramFootprint))
    ++ s.integ.pages.map fun p => (4096 * p, 4096))

/-- Control cluster SRAM ranges in use. -/
def State.ccRanges (s : State) : List (Nat × Nat) :=
  sortRanges ((s.work.ctxs.filter Ctx.resident).filterMap fun c => (s.ctxImage c).map fun im => (c.cb, im.header.csFootprint))

/-- Bases TB and CB for a context of an image: the lowest that fit (log 20). -/
def State.placeFor (s : State) (im : Image) : Option (Nat × Nat) :=
  match firstFit tileBytes im.header.sramFootprint 0 s.tileRanges, firstFit ccBytes im.header.csFootprint 0 s.ccRanges with
  | some t, some c => some (t, c)
  | _, _ => none

/-- The lowest free slot of 0–15. -/
def State.freeSlot (s : State) : Option Nat :=
  (List.range 16).find? fun n => !(s.work.ctxs.any fun c => c.resident && c.slot == some n)

/-- Slots that hold no context. -/
def State.freeSlots (s : State) : Nat :=
  ((List.range 16).filter fun n => !(s.work.ctxs.any fun c => c.resident && c.slot == some n)).length

/-- BIND_MODELs of answer classes that have not completed, for which a slot is kept (R263). -/
def State.bindsWaiting (s : State) : Nat :=
  (s.img.models.filter fun m => m.binder.isSome && (match s.image? m.image with
    | some im => decide (im.header.cls ≠ 4)
    | none => false)).length

/-- OUT_READY contexts in the order of R270: those passed over first, then the earliest, then the lower index. -/
def State.readyOrder (s : State) : List Ctx :=
  sortBy (fun a b => decide ((!a.passedOver).toNat < (!b.passedOver).toNat)
      || (a.passedOver == b.passedOver && (decide (a.sinceReady < b.sinceReady)
            || (a.sinceReady == b.sinceReady && decide (a.index ≤ b.index)))))
    (s.work.ctxs.filter fun c => decide (c.state = .outReady) && c.cause.isNone)

/-- Give a slot and ranges to a context. -/
def State.seat (s : State) (i slot tb cb : Nat) (st : CtxState) : State :=
  s.modCtx i fun c => { c with state := st, slot := some slot, tb := tb, cb := cb, passedOver := false, sinceRun := s.pclk.toNat }

/-- The first context of the list that fits takes the slot; those before it are passed over. -/
def State.seatFirst (s : State) (slot : Nat) : List Ctx → State
  | [] => s
  | c :: r =>
    match (s.ctxImage c).bind s.placeFor with
    | some (tb, cb) => s.seat c.index slot tb cb .restoring
    | none => (s.modCtx c.index fun c => { c with passedOver := true }).seatFirst slot r

/-- Free slots go to OUT_READY contexts, after the BIND_MODELs that wait for one (R263, R270). -/
def State.fillSlotsN : Nat → State → State
  | 0, s => s
  | n + 1, s =>
    match s.freeSlot with
    | none => s
    | some k =>
      if s.readyOrder = [] ∨ s.freeSlots ≤ s.bindsWaiting then s
      else State.fillSlotsN n (s.seatFirst k s.readyOrder)

def State.fillSlots (s : State) : State := State.fillSlotsN 16 s

/-! ### The end of a BIND_MODEL (R156, R158, R260, R263, R264) -/

/-- Physical column of a logical column (R84). -/
def State.physCol (s : State) (c : Nat) : Nat :=
  (((List.range 66).filter fun p => !s.loom.retired.contains p)[c]?).getD 66

/-- Address in `mems.tile` of an offset in the tile at a tile row and logical column. -/
def State.tileAddr (s : State) (row col off : Nat) : Nat := (66 * row + s.physCol col) * tileBytes + off

/-- Bytes the manual leaves undefined. -/
def freeBytes (n a len : Nat) : Buf := (List.range len).map fun i => Config.byte n (a + i)

/-- A context's ranges hold undefined bytes after it becomes resident (R153, R364). -/
def State.scramble (s : State) (c : Ctx) : State :=
  match s.ctxImage c with
  | none => s
  | some im =>
    let n := s.fresh.1
    let s := s.fresh.2
    let tile := (List.range 4096).foldl (fun m t =>
      let a := s.tileAddr (t / 64) (t % 64) c.tb
      Memory.writeBytes m a (freeBytes n a im.header.sramFootprint)) s.mems.tile
    { s with mems := { s.mems with
        tile := tile, cc := s.mems.cc.writeBytes c.cb (freeBytes n (2 ^ 40 + c.cb) im.header.csFootprint) } }

/-- A context that becomes resident for the first time finds its image's beater programs at CB (log 22). -/
def State.loadEpi (s : State) (c : Ctx) : State :=
  match s.ctxImage c with
  | some im => { s with mems := { s.mems with cc := s.mems.cc.writeBytes c.cb (im.epi.take im.header.csFootprint) } }
  | none => s

/-- The lowest range of `n` knots from 4,096 up that no context holds (R264). -/
def State.freeKnots (s : State) (n : Nat) : Option Nat :=
  firstFit 32768 n firmwareKnots
    (sortRanges ((s.work.ctxs.filter fun c => decide (c.state ≠ .torn)).map fun c => (c.firstKnot, c.knots)))

/-- Allocate knots to a context: counters (R92, R283). -/
def State.allotKnots (s : State) (first n ctx : Nat) : State :=
  { s with work := { s.work with
      knots := s.work.knots ++ (List.range n).map fun i =>
        { index := first + i, kind := .counter, owner := BitVec.ofNat 12 ctx } } }

/-- The sealed copy that a BIND_MODEL waits on is whole in HBM. -/
def State.copyPresent (s : State) (im : Image) (sid : Nat) : Bool :=
  s.tiers.fetches.all fun f => !(f.objId == im.objId && f.waiters.contains sid)

/-- A BIND_MODEL completes with the model's handle and its service context's. -/
def State.bound (s : State) (m : Model) (u : Sub) (ctx : W32) : State :=
  let s := { s with img := { s.img with
    models := updWhere (fun x => x.index == m.index) (fun x => { x with binder := none, ctx := ctx }) s.img.models } }
  s.complete u (BitVec.ofNat 64 ((mkHandle m.gen kindModel m.index).toNat + 2 ^ 32 * ctx.toNat)) 0

/-- The service context of a binding becomes resident (R260). -/
def State.seatService (s : State) (m : Model) (i slot tb cb knot : Nat) : State :=
  let c : Ctx := { index := i, gen := genFor s.work.ctxGens i, service := true, model := mkHandle m.gen kindModel m.index,
                   state := .blocked, slot := some slot, tb := tb, cb := cb, firstKnot := knot, knots := 256 }
  let s := { s with work := { s.work with ctxs := s.work.ctxs ++ [c] } }
  ((s.allotKnots knot 256 i).scramble c).loadEpi c

/-- A BIND_MODEL whose copy is present completes: at once for AUX, else with a slot, ranges, a context index and knots. -/
def State.settleBind (s : State) (m : Model) : State :=
  match m.binder, s.image? m.image with
  | some sid, some im =>
    match s.sub? sid with
    | none => s
    | some u =>
      if s.copyPresent im sid = false then s
      else if im.header.cls = 4 then s.bound m u 0
      else
        match s.freeSlot, s.placeFor im, lowestFree (s.work.ctxs.map (·.index)) 4096, s.freeKnots 256 with
        | some k, some (tb, cb), some i, some kn =>
          (s.seatService m i k tb cb kn).bound m u (mkHandle (genFor s.work.ctxGens i) kindContext i)
        | _, _, _, _ => s
  | _, _ => s

/-- BIND_MODELs end in the order in which they came. -/
def State.settleBinds (s : State) : State := (s.img.models.filter fun m => m.binder.isSome).foldl State.settleBind s

/-- What follows every change of knots, work or slots. -/
def State.schedule (s : State) : State := s.wakeAll.settleBinds.fillSlots

/-! ### Save and restore (R151 to R153, R266, R267) -/

/-- Live ranges of the yield point after pick `yp`. -/
def Image.liveAt (im : Image) (yp : Nat) : List LiveRange := im.live.filter fun l => l.yieldPick == yp

/-- The yield point a context stands at: after the pick before its next one. -/
def State.ctxLive (s : State) (c : Ctx) : List LiveRange :=
  match s.ctxImage c with
  | none => []
  | some im => if c.pick = 0 then [] else im.liveAt (c.pick - 1)

/-- Bytes of a save: tile SRAM ranges in each of the 4,096 tiles, control cluster SRAM ranges once. -/
def saveBytes (l : List LiveRange) : Nat :=
  sumOf (l.map fun r => if r.kind = 0 then 4096 * r.length else r.length)

/-- Free bytes of the 32 GiB of save areas (R162, R267). -/
def State.saveFree (s : State) : Nat := 32 * 2 ^ 30 - sumOf (s.work.ctxs.map (·.saved))

/-- The bytes of one live range. -/
def State.saveRange (s : State) (c : Ctx) (r : LiveRange) : List (Nat × Nat × Buf) :=
  if r.kind = 0 then
    (List.range 4096).map fun t =>
      (0, t * tileBytes + r.offset, s.mems.tile.readBytes (s.tileAddr (t / 64) (t % 64) (c.tb + r.offset)) r.length)
  else [(1, r.offset, s.mems.cc.readBytes (c.cb + r.offset) r.length)]

/-- Write one saved piece at the context's bases. -/
def State.restorePiece (s : State) (c : Ctx) (p : Nat × Nat × Buf) : State :=
  if p.1 = 0 then
    let t := p.2.1 / tileBytes
    { s with mems := { s.mems with
        tile := s.mems.tile.writeBytes (s.tileAddr (t / 64) (t % 64) (c.tb + p.2.1 % tileBytes)) p.2.2 } }
  else { s with mems := { s.mems with cc := s.mems.cc.writeBytes (c.cb + p.2.1) p.2.2 } }

/-- A save starts: the save area is taken (R267). -/
def State.startSave (s : State) (c : Ctx) (toBlocked : Bool) : State :=
  s.modCtx c.index fun c =>
    { c with state := .saving, toBlocked := toBlocked, preempt := false, saved := saveBytes (s.ctxLive c), hasSaved := true }

/-- The save fits in the free save space. -/
def State.saveFits (s : State) (c : Ctx) : Bool := decide (saveBytes (s.ctxLive c) ≤ s.saveFree)

/-! ### Faults and teardown (R271, R272) -/

/-- Contexts a fault or a DESTROY_CONTEXT ends.  The first cause stands. -/
def State.faultCtx (s : State) (i : Nat) (cause : TearCause) (layer : W16) : State :=
  s.modCtx i fun c =>
    if c.cause.isNone ∧ c.state ≠ .torn then { c with cause := some cause, layerId := layer } else c

/-- The stage a request is at runs on a context of the model (R271, log 21). -/
def Req.onModel (r : Req) (m : W32) : Bool :=
  match r.stage with
  | .embed | .probe => r.block.embedModel == m
  | .rerank => r.block.rerankModel == m
  | .prefill | .decode => r.block.genModel == m
  | _ => false

/-- Submissions of a context: its runs, and for a service context the requests its batches carry. -/
def State.ctxSids (s : State) (c : Ctx) : List Nat :=
  c.runs.map (·.sid) ++ (if c.service then (s.ans.reqs.filter fun r => r.onModel c.model).map (·.sid) else [])

/-- A column or core takeover is in progress, for which a teardown waits (R272). -/
def State.takeoverRuns (s : State) : Bool := !s.loom.takeover.isEmpty || !(s.fail).coreTakeovers.isEmpty

/-- Free a context's knots. -/
def State.freeKnotsOf (s : State) (c : Ctx) : State :=
  { s with work := { s.work with
      knots := s.work.knots.filter fun k => !(decide (c.firstKnot ≤ k.index) && decide (k.index < c.firstKnot + c.knots)) } }

/-- Signals of the context's picks in progress, which are discarded. -/
def State.lostSignals (s : State) (i : Nat) : Nat :=
  (s.loom.issued.filter fun p => p.ctx == i && p.pick.sigEn && decide (p.phase ≠ .pending)).length

/-- Picks end without effect; windows, knots, ranges and slot are freed; the context is TORN (R271). -/
def State.clearCtx (s : State) (c : Ctx) : State :=
  let lost := s.lostSignals c.index
  let s := s.freeKnotsOf c
  let loom := { s.loom with issued := s.loom.issued.filter fun p => !(p.ctx == c.index) }
  let work := { s.work with teardowns := satInc s.work.teardowns, sigFreed := satAdd s.work.sigFreed lost }
  let tiers := { s.tiers with windows := s.tiers.windows.filter (fun w => !(w.ctx == c.index))
                              staged := s.tiers.staged.filter (fun p => !(p.1 == c.index)) }
  ({ s with loom := loom, work := work, tiers := tiers } : State).modCtx c.index fun c =>
    { c with state := .torn, slot := none, saved := 0, hasSaved := false, saveData := [], runs := [], preempt := false, knots := 0 }

/-- A fresh service context for the binding of a torn one (R271). -/
def State.freshService (s : State) (c : Ctx) : State :=
  match lowestFree (s.work.ctxs.map (·.index)) 4096, s.freeKnots 256 with
  | some i, some k =>
    let g := genFor s.work.ctxGens i
    let n : Ctx := { index := i, gen := g, service := true, model := c.model, client := c.client, state := .blocked,
                     slot := c.slot, tb := c.tb, cb := c.cb, firstKnot := k, knots := 256 }
    let s := { s with work := { s.work with ctxs := s.work.ctxs ++ [n] } }
    let s := s.allotKnots k 256 i
    { s with img := { s.img with
        models := updWhere (fun m => m.ctx == mkHandle c.gen kindContext c.index)
                    (fun m => { m with ctx := mkHandle g kindContext i }) s.img.models } }
  | _, _ => s

/-- End every request of the list at its stage with CONTEXT_TORN. -/
def State.tornReqs (s : State) (sids : List Nat) : State :=
  { s with ans := { s.ans with
      reqs := updWhere (fun r => sids.contains r.sid) (fun r => { r with stage := .done }) s.ans.reqs
      reservations := s.ans.reservations.filter fun x => !sids.contains x.sid } }

/-- A context destroyed is removed once the completions of its submissions have been written (R272). -/
def State.removeCtx (s : State) (i : Nat) : State :=
  { s with work := { s.work with ctxs := s.work.ctxs.filter (fun c => !(c.index == i)), ctxGens := bumpGen s.work.ctxGens i } }

/-- Submissions of the context still without a written completion. -/
def State.settleCtxDestroy (s : State) (i : Nat) : State :=
  match s.work.ctxs.find? fun c => c.index == i with
  | some c =>
    match c.destroyer with
    | some d =>
      if c.state = .torn ∧ (s.sasel.subs.all fun u => u.finished || !(u.entry.opcode == 0x6A) || !(u.entry.handleA == mkHandle c.gen kindContext i)) then
        match s.sub? d with
        | some u => (s.removeCtx i).completeOk u
        | none => s.removeCtx i
      else s
    | none => s
  | none => s

/-! ### The commands -/

/-- CONTEXT_SAVE_COMPLETE: the live ranges are in the save area and the context leaves its slot (R153, R266, R268, R269). -/
def execContextSaveComplete (ctx : Nat) (s : State) : Outcome :=
  .next (match s.ctxAt ctx with
    | some c =>
      if c.state = .saving ∧ c.cause = none then
        let data := (s.ctxLive c).flatMap (s.saveRange c)
        let st : CtxState := if c.toBlocked then .outBlocked else .outReady
        (s.modCtx ctx fun c =>
          { c with state := st, slot := none, saveData := data, sinceReady := s.pclk.toNat, toBlocked := false }).schedule
      else s
    | none => s)

/-- CREATE_CONTEXT defines a general context of an AUX binding with a range of knots; it waits for work (R261, R264). -/
def execCreateContext (sid : Nat) (s : State) : Outcome :=
  .next (s.run sid 0x68 fun u s =>
    let n := u.entry.arg0.toNat
    let aux := match (s.model? u.entry.handleA).bind fun m => s.image? m.image with
      | some im => decide (im.header.cls = 4)
      | none => false
    let place := (lowestFree (s.work.ctxs.map (·.index)) 4096, s.freeKnots n)
    s.settle u
      (when (decide (n < 1) || decide (256 < n) || !aux) .badField
        ++ when (place.1.isNone || place.2.isNone) .noResource
        ++ when s.loom.out .notReady)
      fun s =>
        match place with
        | (some i, some k) =>
          let g := genFor s.work.ctxGens i
          let c : Ctx := { index := i, gen := g, service := false, model := u.entry.handleA, client := u.client,
                           state := .outBlocked, firstKnot := k, knots := n }
          let s := { s with work := { s.work with ctxs := s.work.ctxs ++ [c] } }
          (s.allotKnots k n i).complete u (BitVec.ofNat 64 (mkHandle g kindContext i).toNat) 0
        | _ => s)

/-- DESTROY_CONTEXT removes a TORN context, or tears a general one down with the cause DESTROYED (R272). -/
def execDestroyContext (sid : Nat) (s : State) : Outcome :=
  .next (s.run sid 0x69 fun u s =>
    match s.ctx? u.entry.handleA with
    | none => s.settle u [.staleHandle] fun s => s
    | some c => s.settle u (when c.service .badField) fun s =>
        if c.state = .torn then (s.removeCtx c.index).completeOk u
        else ((s.start u.sid).modCtx c.index fun c => { c with destroyer := some u.sid }).faultCtx c.index .destroyed 0)

/-- Codes of a report of QUERY_CONTEXT, whose layout is not stated (log 15). -/
def CtxState.code : CtxState → Nat
  | .running => 0 | .blocked => 1 | .saving => 2 | .outReady => 3 | .outBlocked => 4 | .restoring => 5 | .torn => 6

def TearCause.code : TearCause → Nat
  | .pickFault => 1 | .gatherFault => 2 | .knotOverflow => 3 | .csRange => 4 | .destroyed => 5 | .loomOut => 6

def State.ctxReport (s : State) (c : Ctx) : Buf :=
  Buf.slice (Config.report 0x6B ([c.state.code, (c.cause.map TearCause.code).getD 0, c.layerId.toNat]
    ++ (List.range c.knots).map fun k => s.knotState (c.firstKnot + k))) 0 64

/-- QUERY_CONTEXT reports state, fault cause and LAYER_ID, and the knots of the context (R284). -/
def execQueryContext (sid : Nat) (ok : Bool) (s : State) : Outcome :=
  .next (s.run sid 0x6B fun u s => s.settle u (when (decide (u.entry.length.toNat < 64)) .badField) fun s =>
    match s.ctx? u.entry.handleA with
    | none => s.failWith u.sid .staleHandle
    | some c => s.report u ok (s.ctxReport c) fun s => s.completeOk u)

/-- The statuses of a RUN_ENTRY. -/
def State.runEntryErrs (s : State) (u : Sub) (c : Ctx) (im : Option Image) : List Status :=
  let range := im.bind fun im => im.entries.find? fun e => e.index == u.entry.arg2.toNat
  when (c.service || (range.isNone && decide (c.state ≠ .torn))) .badField
    ++ when (!s.isReady bitLoom && decide (c.state ≠ .torn)) .notReady
    ++ when (decide (c.state = .torn) || c.cause.isSome) .contextTorn
    ++ when (match im with | some im => im.damaged | none => false) .damaged

/-- Give a context a run of a range; it is new work (R262, R322). -/
def Ctx.addRun (c : Ctx) (sid : Nat) (e : EntryRange) : Ctx :=
  let r : EntryRun := { sid := sid, range := e.index, next := e.first, last := e.first + e.count - 1 }
  { c with runs := c.runs ++ [r], pick := if c.runs = [] then e.first else c.pick }

/-- RUN_ENTRY gives a general context one run of an ENTRY range; it completes when the last pick has signalled.  Where
the input and the output lie in the context is not stated (log 22). -/
def execRunEntry (sid : Nat) (input : Option Buf) (s : State) : Outcome :=
  .next (s.run sid 0x6A fun u s => s.withB u input fun _ =>
    match s.ctx? u.entry.handleA with
    | none => s.settle u [.staleHandle] fun s => s
    | some c =>
      let im := s.ctxImage c
      s.settle u (s.runEntryErrs u c im) fun s =>
        match im.bind fun im => im.entries.find? fun e => e.index == u.entry.arg2.toNat with
        | none => s
        | some e =>
          let s := s.start u.sid
          if e.count = 0 then (s.writeB2 u (Buf.slice (Config.output s.free) 0 u.entry.b2Len)).completeOk u
          else (s.modCtx c.index fun c => c.addRun u.sid e).schedule)

/-- CONTEXT_RESTORE_COMPLETE: the live ranges are back at the new bases, the rest is undefined, and the context runs
(R153, R266). -/
def execContextRestoreComplete (ctx : Nat) (s : State) : Outcome :=
  .next (match s.ctxAt ctx with
    | some c =>
      if c.state = .restoring ∧ c.cause = none then
        let s := if !c.hasSaved then (s.scramble c).loadEpi c else c.saveData.foldl (fun s p => s.restorePiece c p) (s.scramble c)
        (s.modCtx ctx fun c => { c with state := .running, saved := 0, hasSaved := false, saveData := [], sinceRun := s.pclk.toNat }).fillSlots
      else s
    | none => s)

/-- PREEMPTION_TIMER: a general context has run 20 ms while an OUT_READY context exists (R268). -/
def execPreemptionTimer (ctx : Nat) (s : State) : Outcome :=
  .next (match s.ctxAt ctx with
    | some c =>
      if c.service = false ∧ c.state = .running ∧ s.readyOrder ≠ [] then s.modCtx ctx fun c => { c with preempt := true } else s
    | none => s)

/-- The context stands between picks at a yield point of its image (R151, R262, R266). -/
def State.atYield (s : State) (c : Ctx) : Bool :=
  let im := s.ctxImage c
  let next := match c.runs with
    | [] => none
    | r :: _ => im.bind fun im => im.desc[r.next]?
  let prevYields := match im with
    | some im => decide (0 < c.pick) && (match im.desc[c.pick - 1]? with | some p => p.yieldPt | none => false)
    | none => false
  (s.loom.issued.all fun p => !(p.ctx == c.index))
    && (s.ctxWaits c || prevYields || (match next with | some p => p.waitEn | none => true))
    && !(match next with | some p => p.wReuse | none => false)

/-- YIELD_POINT: with pre-emption pending and room for the save, the context is saved (R266 to R268); at a wait it is
BLOCKED (R262). -/
def execYieldPoint (ctx : Nat) (s : State) : Outcome :=
  .next (match s.ctxAt ctx with
    | some c =>
      if c.state = .running ∧ c.cause = none ∧ s.atYield c = true then
        if c.service = false ∧ c.preempt = true ∧ s.saveFits c = true then s.startSave c false
        else if s.ctxWaits c then s.modCtx ctx fun c => { c with state := .blocked, sinceBlocked := s.pclk.toNat }
        else s
      else s
    | none => s)

/-- Resident general contexts. -/
def State.residentGeneral (s : State) : List Ctx := s.work.ctxs.filter fun c => c.resident && !c.service

/-- The context to swap out: the longest BLOCKED whose live ranges fit, ties to the lower index (R267, R269). -/
def State.swapCandidate (s : State) : Option Ctx :=
  (sortBy (fun a b => decide (a.sinceBlocked < b.sinceBlocked) || (a.sinceBlocked == b.sinceBlocked && decide (a.index ≤ b.index)))
    (s.residentGeneral.filter fun c => decide (c.state = .blocked) && c.cause.isNone && s.saveFits c)).head?

/-- SWAP_OUT: every slot is held, every resident general context is BLOCKED and an OUT_READY context exists (R269). -/
def execSwapOut (s : State) : Outcome :=
  .next (if s.freeSlot = none ∧ s.residentGeneral ≠ [] ∧ (s.residentGeneral.all fun c => decide (c.state = .blocked)) = true
        ∧ s.readyOrder ≠ [] then
      match s.swapCandidate with
      | some c => s.startSave c true
      | none => s
    else s)

/-! ### Signals -/

/-- The last number applied from a source (R286). -/
def State.lastFrom (s : State) (src : SignalSource) : W32 := (assocGet src s.work.lastSignal).getD 0

/-- The signal's number is taken. -/
def State.noteSignal (s : State) (src : SignalSource) (n : W32) : State :=
  { s with work := { s.work with lastSignal := assocSet src n s.work.lastSignal } }

/-- An overflow: the owner of a context's knot faults, a firmware knot is DEVICE_FATAL (R287, R379). -/
def State.knotOverflow (s : State) (k : Nat) : State :=
  let s := { s with work := { s.work with sigOverflow := satInc s.work.sigOverflow } }
  if k < firmwareKnots then
    s.logError { cls := .deviceFatal, unitType := unitKnot, unitIndex := k, source := 6 }
  else
    match s.knot? k with
    | some x => s.faultCtx x.owner.toNat .knotOverflow 0
    | none => s

/-- An in-order signal takes effect on its knot. -/
def State.signalKnot (s : State) (k : Nat) : State :=
  match s.knot? k with
  | none => { s with work := { s.work with sigFreed := satInc s.work.sigFreed } }
  | some x => if x.overflows then s.knotOverflow k else (s.setKnot x.signal).schedule

/-- A signal reaches the array: applied when its number is next, else discarded by its cause (R286, R287). -/
def State.arriveSignal (s : State) (src : SignalSource) (n : W32) (k : Nat) : State :=
  let d := (n - s.lastFrom src).toNat
  if d = 1 then (s.noteSignal src n).signalKnot k
  else if d = 0 ∨ 2 ^ 31 ≤ d then { s with work := { s.work with sigDuplicate := satInc s.work.sigDuplicate } }
  else { s with work := { s.work with sigOutOfOrder := satInc s.work.sigOutOfOrder } }

/-- A source of the sled sends its next signal. -/
def State.sendSignal (s : State) (src : SignalSource) (k : Nat) : State :=
  let n := s.lastFrom src + 1
  (s.emit (.signal src n k)).arriveSignal src n k

/-- KNOT_SIGNAL (R285 to R287). -/
def execKnotSignal (src : SignalSource) (n : W32) (knot : Nat) (s : State) : Outcome :=
  .next (if knot < 32768 then s.arriveSignal src n knot else s)

/-- KNOT_RESET by the owner (R285). -/
def execKnotReset (knot : Nat) (s : State) : Outcome :=
  .next (match s.knot? knot with
    | some x => s.setKnot x.clear
    | none => s)

end Sys2Proof.Machine
end

