-- ==== Sys2Proof/Machine/Flash.lean ====
section
/-! DEFINITION. Flash media management (chapter 10): writes, reads, parity, verify, wear, patrol,
retirement, checkpoints, replay and shutdown. -/

namespace Sys2Proof.Machine

open Sys2Proof

/-! ### Hubs (R386, R397) -/

/-- What a failed hub delivers is discarded and counted (R386). -/
def State.isolate (s : State) : State := { s with integ := { s.integ with isolated := satInc s.integ.isolated } }

/-- An event of the hub that serves a channel takes effect unless that hub has failed. -/
def State.fromHub (s : State) (c : Nat) (k : State → State) : State :=
  if s.channelPaused c || s.channelOut c then s.isolate else k s

/-! ### Host data objects (R233) -/

/-- CREATE_OBJECT assigns an ID and fixes the parity class (R233). -/
def execCreateObject (sid : Nat) (s : State) : Outcome :=
  .next (s.run sid 0x50 fun u s => s.settle u [] fun s =>
    let id := BitVec.ofNat 64 (15 * 2 ^ 60 + s.flash.nextObj)
    let o : FlashObj := { id := id, persistent := u.entry.arg0 == 1 }
    (s.modFlash fun f => { f with objs := f.objs ++ [o], nextObj := f.nextObj + 1 }).complete u id 0)

/-! ### Starting programs (R236, R241, R249) -/

/-- Take the channel's next write sequence number (R236); firmware allots the hub blocks of 65,536 (R397). -/
def State.takeWseq (s : State) (c : Nat) : Nat × State :=
  ((s.channel c).wseq, s.modChannel c fun ch =>
    { ch with wseq := ch.wseq + 1, allotted := if ch.allotted ≤ ch.wseq + 1 then ch.allotted + 65536 else ch.allotted })

/-- Start one program. -/
def State.program (s : State) (p : Programming) : State :=
  let w := s.takeWseq p.channel
  w.2.modFlash fun f => { f with programs := f.programs ++ [{ p with wseq := w.1 }] }

/-- A number for a group of programs that change their entries together. -/
def State.newGroup (s : State) : Nat × State :=
  (s.flash.nextGrp, s.modFlash fun f => { f with nextGrp := f.nextGrp + 1 })

/-! ### What a page stores (R427) -/

/-- The keys of the hub that serves a channel. -/
def State.keysFor (s : State) (c : Nat) : MediaKeys :=
  let hub := if (s.fail).hubsRetired.getLsbD (c / 8) then c / 8 ^^^ 1 else c / 8
  (assocGet hub s.flash.hubKeys).getD ([], [])

/-- What the hub stores for the data of an extent. -/
def State.encrypted (s : State) (c : Nat) (obj : W64) (e : Nat) (data : Buf) : Buf := encryptExtent (s.keysFor c) obj e data

/-- The page a map entry names. -/
def State.page? (s : State) (m : MapEntry) : Option PageRec :=
  s.flash.pages.find? fun p => p.channel == m.channel && p.die == m.die && p.blockSet == m.blockSet && p.page == m.page

/-- The bytes stored in the page a map entry names. -/
def State.pageStored (s : State) (m : MapEntry) : Buf := match s.page? m with | some p => p.data | none => []

/-- A parity extent of a persistent object, whose bytes are stored as they are: the XOR of what its stripe stores. -/
def MapEntry.isParity (m : MapEntry) : Bool := m.persist && decide (parityBase ≤ m.extent)

/-- The data of an extent from what its page stores. -/
def State.decrypted (s : State) (m : MapEntry) (stored : Buf) : Buf :=
  if m.isParity then stored else decryptExtent (s.keysFor m.channel) m.obj m.extent stored

/-- The data of the page a map entry names. -/
def State.pageData (s : State) (m : MapEntry) : Buf := s.decrypted m (s.pageStored m)

/-- The 64 KiB of an extent as mapped: zeros when unmapped (R236). -/
def State.extentData (s : State) (obj : W64) (e : Nat) : Buf :=
  match s.entry? obj e with
  | some m => s.pageData m
  | none => []

/-- What an extent stores; an unmapped one counts as zeros (R241, R427). -/
def State.extentStored (s : State) (obj : W64) (e : Nat) : Buf :=
  match s.entry? obj e with
  | some m => s.pageStored m
  | none => []

/-- The XOR of what a stripe's data extents store, those in `fresh` with the bytes given there (R241, R427). -/
def State.stripeXor (s : State) (obj : W64) (stripe : Nat) (fresh : List (Nat × Buf)) : Buf :=
  (List.range 15).foldl (fun x i =>
    let k := 15 * stripe + i
    xorBuf x ((assocGet k fresh).getD (s.extentStored obj k))) []

/-- A channel's writes wait: 32 GiB of extents since the last completed cut (R249). -/
def State.stalled (s : State) (c : Nat) : Bool := decide (524288 ≤ (s.channel c).sinceCut)

/-- Start the programs of one data extent: the extent and, in the persistent class, its stripe's parity (R241). -/
def State.programExtent (s : State) (sid : Option Nat) (o : FlashObj) (e : Nat) (data : Buf) : State :=
  let g := s.newGroup
  let c := channelOf o.id o.persistent e
  let stored := s.encrypted c o.id e data
  let s1 := g.2.program { sid := sid, grp := g.1, obj := o.id, extent := e, wseq := 0, channel := c, data := stored }
  if o.persistent then
    let pe := parityBase + e / 15
    s1.program { sid := sid, grp := g.1, obj := o.id, extent := pe, wseq := 0, channel := channelOf o.id true pe
                 data := s.stripeXor o.id (e / 15) [(e, stored)] }
  else s1

/-- A command's program or trim record is under way on the extent. -/
def State.writing (s : State) (obj : W64) (e : Nat) : Bool :=
  s.flash.programs.any fun p => !p.relocation && ((p.obj == obj && p.extent == e) || p.trims.contains (obj, e))

/-- Start a program of stored bytes of a mapped extent to a fresh location on its channel (R236, R242).  An extent that a command is
writing or unmapping is left to that command: a copy of it would follow the command's program in WSEQ order (log 85). -/
def State.relocateWith (s : State) (m : MapEntry) (stored : Buf) : State :=
  if s.writing m.obj m.extent then s
  else
    let g := s.newGroup
    g.2.program { sid := none, grp := g.1, obj := m.obj, extent := m.extent, wseq := 0, channel := m.channel
                  data := stored, relocation := true }

/-- Start a relocation of a mapped extent (R236). -/
def State.relocate (s : State) (m : MapEntry) : State := s.relocateWith m (s.pageStored m)

/-- A write or trim in the extent's stripe is under way (R241): its parity is not yet that of the map. -/
def State.stripeBusy (s : State) (o : FlashObj) (e : Nat) : Bool :=
  o.persistent && (s.writing o.id (parityBase + e / 15) || (List.range 15).any fun i => s.writing o.id (15 * (e / 15) + i))

/-- The next write of an extent waits: a flush runs (R254), a channel of it has reached its bound (R249), or its stripe is being
written (log 85). -/
def State.mustWait (s : State) (o : FlashObj) (e : Nat) : Bool :=
  s.flushing || s.stalled (channelOf o.id o.persistent e) || (o.persistent && s.stalled (channelOf o.id true (parityBase + e / 15)))
    || s.stripeBusy o e

/-! ### Block sets and locations (R231, R232, R236) -/

def State.block (s : State) (c die bs : Nat) : BlockSet :=
  (s.flash.blocks.find? fun b => b.channel == c && b.die == die && b.index == bs).getD { channel := c, die := die, index := bs }

def State.setBlock (s : State) (b : BlockSet) : State :=
  s.modFlash fun f => { f with blocks := upsert (fun x => x.channel == b.channel && x.die == b.die && x.index == b.index) b f.blocks }

/-- Pages of a block set in a mode (R231). -/
def pagesIn (pslc : Bool) : Nat := if pslc then 800 else 3200

/-- A block set may take programs in a mode: its use allows the mode, it is open, and it has not been in the other mode since its last
erase (R231, R232, R247). -/
def State.setOpen (s : State) (c die bs : Nat) (pslc : Bool) : Bool :=
  let b := s.block c die bs
  (blockUse die bs).allows pslc && !b.retired && !b.closed && (decide (b.mode = .erased) || decide (b.mode = if pslc then .pslc else .qlc))

/-- Nothing has been programmed at a location since its block set was erased. -/
def State.pageFree (s : State) (c die bs page : Nat) : Bool :=
  !(s.flash.pages.any fun p => p.channel == c && p.die == die && p.blockSet == bs && p.page == page)
    && !s.flash.programs.any fun p => p.channel == c && match p.done with
      | some l => l.1 == die && l.2.1 == bs && l.2.2.1 == page
      | none => false

/-- A fresh location that a program of a channel may end at: on a populated die, outside the system region (R3, R231, R232, R236). -/
def State.locOk (s : State) (c : Nat) (l : FlashLoc) : Bool :=
  decide (l.die < s.dies) && decide (l.blockSet < 1200) && decide (l.page < pagesIn l.pslc) && decide (blockUse l.die l.blockSet ≠ .system)
    && s.setOpen c l.die l.blockSet l.pslc && s.pageFree c l.die l.blockSet l.page

/-- A location takes a program: its block set is in that mode until its next erase (R231). -/
def State.takeLoc (s : State) (c : Nat) (l : FlashLoc) : State :=
  s.setBlock { s.block c l.die l.blockSet with mode := if l.pslc then .pslc else .qlc }

/-- STRIPE_POS of an extent (R237). -/
def stripePos (persistent : Bool) (e : Nat) : Nat :=
  if persistent then (if parityBase ≤ e then 15 else e % 15) else 0

/-! ### The read ladder and the rebuild (R238, R242, R243, R446) -/

/-- A read that has reached a step counts in the channel's ladder; 7 counts it uncorrectable (R238). -/
def State.countStep (s : State) (c step : Nat) : State :=
  s.modChannel c fun ch => { ch with ladder := modAt ch.ladder step satInc }

/-- The step at which a read of an extent first decodes, as the hub finds it; 7: at none. -/
def ladderStep (media : Media) (obj : W64) (e : Nat) : Nat := ((media.find? fun x => x.1 == obj && x.2.1 == e).map (·.2.2)).getD 0

/-- A read climbs the ladder to the step at which it decodes, or past the last; after a decode at step 1 or later the block set's current
references are those of the step (R238, R446). -/
def State.climb (s : State) (m : MapEntry) (step : Nat) : State :=
  let s := (List.range (min step 7 + 1)).foldl (fun s i => s.countStep m.channel i) s
  if 1 ≤ step ∧ step ≤ 6 then s.setBlock { s.block m.channel m.die m.blockSet with refs := step } else s

/-- A failed rebuild: the entry is DAMAGED, its page is known not to decode, and a UE record names the object and extent (R243). -/
def State.damageExtent (s : State) (obj : W64) (e : Nat) : State :=
  match s.entry? obj e with
  | none => s
  | some m =>
    let here : PageRec → Bool := fun p => p.channel == m.channel && p.die == m.die && p.blockSet == m.blockSet && p.page == m.page
    let s := s.mapPut { m with damaged := true }
    (s.modFlash fun f => { f with pages := updWhere here (fun p => { p with bad := true }) f.pages }).logError
      { cls := .ue, unitType := unitExtent, unitIndex := m.channel, addr := obj, lastAddr := BitVec.ofNat 64 e, source := 4 }

/-- The other members of an extent's stripe; none without its parity extent.  A missing data extent counts as zeros (R241, R242). -/
def State.stripeMembers (s : State) (m : MapEntry) : Option (List MapEntry) :=
  let k := if parityBase ≤ m.extent then m.extent - parityBase else m.extent / 15
  if (s.entry? m.obj (parityBase + k)).isNone then none
  else some (((((List.range 15).map fun i => 15 * k + i) ++ [parityBase + k]).filter (· != m.extent)).filterMap (s.entry? m.obj))

/-- The object ID that the page tag of an open-block parity extent carries: it belongs to no object (DESIGN CHOICE, log 64). -/
def unitObj : W64 := BitVec.ofNat 64 (11 * 2 ^ 60 + 2 ^ 59)

/-- A page as the map would name it. -/
def PageRec.place (p : PageRec) (pslc : Bool) : MapEntry :=
  { obj := p.obj, extent := p.extent, channel := p.channel, die := p.die, blockSet := p.blockSet, page := p.page, pslc := pslc, damaged := p.bad }

/-- The page of a location. -/
def State.pageAt (s : State) (c die bs page : Nat) : Option PageRec :=
  s.flash.pages.find? fun p => p.channel == c && p.die == die && p.blockSet == bs && p.page == page

/-- The open-block parity unit of a QLC page, while its parity has not been released (R240). -/
def State.unitOf (s : State) (m : MapEntry) : Option ParityUnit :=
  if m.pslc then none
  else s.flash.units.find? fun x => x.channel == m.channel && x.page == m.page && x.members.contains (m.die, m.blockSet)

/-- The other members of the unit, its parity extent among them once that is written; none when one of them is not there any more. -/
def State.unitMembers (s : State) (m : MapEntry) (x : ParityUnit) : Option (List MapEntry) :=
  let pages := (x.members.filter (· != (m.die, m.blockSet))).map fun d => (s.pageAt x.channel d.1 d.2 x.page).map (PageRec.place · false)
  let all := pages ++ match x.written with
    | some l => [(s.pageAt x.channel l.1 l.2.1 l.2.2).map (PageRec.place · true)]
    | none => []
  if all.all (·.isSome) then some (all.filterMap id) else none

/-- What a rebuild of an extent reads, and the XOR that the hub's SRAM adds to it; none when it has nothing to rebuild from (R242). -/
def State.rebuildFrom (s : State) (m : MapEntry) : Option (List MapEntry × Buf) :=
  if m.persist then (s.stripeMembers m).map fun l => (l, [])
  else
    match s.unitOf m with
    | none => none
    | some x => (s.unitMembers m x).map fun l => (l, if x.written.isSome then [] else x.parity)

/-- The sled may relocate: not after SHUTDOWN, not in a flush, not at the last end-of-life state (R253, R254, R258). -/
def State.mayRelocate (s : State) : Bool := !s.sasel.shutdown && !s.flushing && decide (s.eol < 3)

/-- An extent is rebuilt from the other members of its unit or stripe, each read by the ladder; one that cannot be read fails the rebuild,
and the extent is DAMAGED.  The rebuilt bytes are handed on, and written to a fresh location (R242, R243, R253). -/
def State.rebuildExtent (s : State) (media : Media) (m : MapEntry) : Option Buf × State :=
  match s.rebuildFrom m with
  | none => (none, s.damageExtent m.obj m.extent)
  | some (members, sram) =>
    let s := (members.filter fun x => !s.channelOut x.channel).foldl (fun s x => s.climb x (ladderStep media x.obj x.extent)) s
    if members.all fun x => !x.damaged && !s.channelOut x.channel && decide (ladderStep media x.obj x.extent ≤ 6) then
      let stored := members.foldl (fun b x => xorBuf b (s.pageStored x)) sram
      (some stored, if s.mayRelocate ∧ ¬ s.channelOut m.channel then s.relocateWith m stored else s)
    else (none, s.damageExtent m.obj m.extent)

/-- One extent is read: zeros when it is unmapped; nothing when it is DAMAGED, or becomes so.  On a channel out of service it starts at its
rebuild (R236, R238, R242, R243, R399). -/
def State.readExtent (s : State) (media : Media) (obj : W64) (e : Nat) : Option Buf × State :=
  match s.entry? obj e with
  | none => (some [], s)
  | some m =>
    if m.damaged then (none, s)
    else
      let step := if s.channelOut m.channel then 7 else ladderStep media obj e
      let s := if s.channelOut m.channel then s.countStep m.channel 7 else s.climb m step
      if step ≤ 6 then (some (s.pageData m), s)
      else
        let r := s.rebuildExtent media m
        (r.1.map (s.decrypted m), r.2)

/-- Several extents of an object are read; those that cannot be delivered. -/
def State.readExtents (s : State) (media : Media) (l : List (W64 × Nat)) : List (W64 × Nat) × State :=
  l.foldl (fun x k =>
    let r := x.2.readExtent media k.1 k.2
    (if r.1.isNone then x.1 ++ [k] else x.1, r.2)) ([], s)

/-- Relocate every extent mapped in a block set, rebuilding those whose pages do not decode; `fails` names them (R244, R246). -/
def State.relocateBlock (s : State) (media : Media) (c die bs : Nat) (fails : List Nat) : State :=
  if s.mayRelocate then
    (s.flash.map.filter fun m => m.channel == c && m.die == die && m.blockSet == bs).foldl (fun s m =>
      if fails.contains m.page ∧ m.damaged = false then (s.rebuildExtent media m).2 else s.relocate m) s
  else s

/-! ### The sled's own objects (R164, R178, R234, R239, R241) -/

/-- The first location of the channel that meets a condition, among the write region and then the user block sets. -/
def State.findLoc (s : State) (c : Nat) (p : FlashLoc → Bool) : Option FlashLoc :=
  let look := fun (lo n : Nat) (pslc : Bool) => (List.range s.dies).findSome? fun die => (List.range n).findSome? fun i =>
    if s.setOpen c die (lo + i) pslc then
      (List.range (pagesIn pslc)).findSome? fun page =>
        let l : FlashLoc := { die := die, blockSet := lo + i, page := page, pslc := pslc }
        if p l then some l else none
    else none
  match look 994 24 true with
  | some l => some l
  | none => look 0 994 false

/-- Where the hub programs an extent of an object of the sled: the lowest fresh page, or without one the lowest page that no entry names,
erased for it.  The hub chooses; this is the model's choice (DESIGN CHOICE, log 64). -/
def State.freshLoc (s : State) (c : Nat) : FlashLoc :=
  match s.findLoc c fun l => s.pageFree c l.die l.blockSet l.page with
  | some l => l
  | none => (s.findLoc c fun l => !s.flash.map.any fun m =>
      m.channel == c && m.die == l.die && m.blockSet == l.blockSet && m.page == l.page).getD { die := 0, blockSet := 994, page := 0 }

/-- A page of a channel is programmed at a location, with the next write sequence number in its tag (R236, R248). -/
def State.putPage (s : State) (l : FlashLoc) (p : PageRec) : State :=
  let w := (s.takeLoc p.channel l).takeWseq p.channel
  let p := { p with die := l.die, blockSet := l.blockSet, page := l.page, wseq := w.1 }
  let there : PageRec → Bool := fun x => x.channel == p.channel && x.die == p.die && x.blockSet == p.blockSet && x.page == p.page
  (w.2.modFlash fun f => { f with pages := f.pages.filter (fun x => !there x) ++ [p], cleanShutdown := false }).modChannel p.channel fun c =>
    { c with sinceCut := c.sinceCut + 1, sinceRunning := c.sinceRunning + 1 }

/-- Stored bytes of an extent are programmed and mapped. -/
def State.putExtent (s : State) (o : FlashObj) (e : Nat) (stored : Buf) : State :=
  let c := channelOf o.id o.persistent e
  let l := s.freshLoc c
  (s.putPage l { channel := c, die := 0, blockSet := 0, page := 0, obj := o.id, extent := e, wseq := 0, data := stored }).mapPut
    { obj := o.id, extent := e, channel := c, die := l.die, blockSet := l.blockSet, page := l.page, pslc := l.pslc, persist := o.persistent
      stripePos := stripePos o.persistent e }

/-- Extents of an object of the sled are written, and the parity of their stripes in the persistent class (R239, R241).  The programs end
with the command that makes them (DESIGN CHOICE, log 64). -/
def State.storeExtents (s : State) (id : W64) (persistent : Bool) (l : List (Nat × Buf)) : State :=
  let o : FlashObj := (s.obj? id).getD { id := id, persistent := persistent }
  let s := if (s.obj? id).isSome then s else s.modFlash fun f => { f with objs := f.objs ++ [o] }
  let s := l.foldl (fun s x => s.putExtent o x.1 (s.encrypted (channelOf id persistent x.1) id x.1 x.2)) s
  if persistent then (nub (l.map fun x => x.1 / 15)).foldl (fun s k => s.putExtent o (parityBase + k) (s.stripeXor id k [])) s else s

/-- The extents of a run of bytes. -/
def extentsOfData (data : Buf) (n : Nat) : List (Nat × Buf) := (List.range n).map fun e => (e, Buf.slice data (65536 * e) (min 65536 (data.length - 65536 * e)))

/-- An object of the sled is written: `n` extents of its bytes. -/
def State.storeObj (s : State) (id : W64) (persistent : Bool) (n : Nat) (data : Buf) : State :=
  s.storeExtents id persistent (extentsOfData data n)

/-- Extents of an object of the sled are unmapped: one trim record on each channel that holds one (R249). -/
def State.eraseExtents (s : State) (id : W64) (extents : List Nat) : State :=
  let mine := s.flash.map.filter fun m => m.obj == id && extents.contains m.extent
  let s := (nub (mine.map (·.channel))).foldl (fun s c =>
    s.putPage (s.freshLoc c)
      { channel := c, die := 0, blockSet := 0, page := 0, obj := id, extent := trimMark, wseq := 0
        trims := (mine.filter fun m => m.channel == c).map fun m => (id, m.extent) }) s
  mine.foldl (fun s m => s.mapDrop id m.extent) s

/-- An object of the sled goes with its extents. -/
def State.eraseObj (s : State) (id : W64) : State :=
  (s.eraseExtents id ((s.flash.map.filter fun m => m.obj == id).map (·.extent))).modFlash fun f =>
    { f with objs := f.objs.filter fun o => !(o.id == id) }

/-! ### WRITE_EXTENT (R236, R321, R399) -/

/-- A write to the extent cannot be made: its channel, or its parity's, is out of service (R399). -/
def State.unitOut (s : State) (o : FlashObj) (e : Nat) : Bool :=
  s.channelOut (channelOf o.id o.persistent e)
    || (o.persistent && s.channelOut (channelOf o.id true (parityBase + e / 15)))

/-- A write job ends: it leaves the list, its programs go, and the command ends with the units that took effect (R321). -/
def State.endWrite (s : State) (j : WriteJob) (st : Status) : State :=
  let throttled := match s.sub? j.sid with | some u => u.throttled | none => false
  let s := s.modFlash fun f =>
    { f with writes := f.writes.filter (fun x => !(x.sid == j.sid))
             programs := f.programs.filter fun p => !(p.sid == some j.sid) }
  s.finish j.sid { status := st, flags := { writeThrottled := throttled }, result0 := BitVec.ofNat 64 j.written }

/-- Start the next unit of a write job, or end it: all units done, the command has ended at this boundary (R309), or the unit
lies on a channel out of service. -/
def State.nextUnit (s : State) (j : WriteJob) : State :=
  if j.count ≤ j.written ∨ s.live j.sid = false then s.endWrite j .ok
  else
    match s.obj? j.obj with
    | none => s.endWrite j .mediaError
    | some o =>
      let e := j.first + j.written
      if s.unitOut o e then s.endWrite j .mediaError
      else if s.mustWait o e then s
      else
        let s := s.modFlash fun f =>
          { f with writes := updWhere (fun x => x.sid == j.sid) (fun x => { x with started := true }) f.writes }
        s.programExtent (some j.sid) o e (Buf.slice j.data (65536 * j.written) (min 65536 (j.data.length - 65536 * j.written)))

/-- No write accepted earlier still has one of these extents to write (R322). -/
def State.extentsClear (s : State) (obj : W64) (first count : Nat) : Bool :=
  s.flash.writes.all fun j => j.obj != obj || decide (first + count ≤ j.first + j.written) || decide (j.first + j.count ≤ first)

/-- Statuses of a command that names extents of a host data object (R233). -/
def State.spanErrs (s : State) (e : Entry) (first count : Nat) : List Status :=
  match s.obj? e.arg0 with
  | some o => when (!hostId e.arg0 || !o.spanOk first count) .badField
  | none => [.badField]

/-- WRITE_EXTENT: whole extents, in ascending order, each to a fresh location (R236, R321).  Its room was reserved, or found
lacking, at its accept event (R465). -/
def execWriteExtent (sid : Nat) (b : Option Buf) (s : State) : Outcome :=
  .next (s.run sid 0x52 fun u s => s.withB u b fun data =>
    let first := u.entry.extFirst
    let n := u.entry.extCount
    s.settle u (s.spanErrs u.entry first n ++ when (decide (u.entry.length.toNat ≠ n * extentBytes)) .badField)
      fun s =>
        let j : WriteJob := { sid := u.sid, obj := u.entry.arg0, first := first, count := n, data := data }
        if s.extentsClear u.entry.arg0 first n then
          ((s.start u.sid).modFlash fun f => { f with writes := f.writes ++ [j] }).nextUnit j
        else s)

/-! ### TRIM_EXTENT and DELETE_OBJECT (R233, R249) -/

/-- Start one trim record on each channel that holds an extent to unmap; the parity of a stripe that keeps data is
written again, one that keeps none is unmapped with it. -/
def State.startTrim (s : State) (sid : Nat) (o : FlashObj) (extents : List Nat) : State :=
  let mapped := extents.filter fun e => (s.entry? o.id e).isSome
  let stripes := if o.persistent then nub (mapped.map (· / 15)) else []
  let keeps := fun k => (List.range 15).any fun i =>
    !mapped.contains (15 * k + i) && (s.entry? o.id (15 * k + i)).isSome
  let gone := mapped ++ (stripes.filter fun k => !keeps k).map (parityBase + ·)
  let chans := nub (gone.map (channelOf o.id o.persistent))
  let g := s.newGroup
  let s1 := chans.foldl (fun s c =>
    s.program { sid := some sid, grp := g.1, obj := o.id, extent := trimMark, wseq := 0, channel := c, data := []
                trims := (gone.filter fun e => channelOf o.id o.persistent e == c).map fun e => (o.id, e) }) g.2
  (stripes.filter keeps).foldl (fun t k =>
    t.program { sid := some sid, grp := g.1, obj := o.id, extent := parityBase + k, wseq := 0
                channel := channelOf o.id true (parityBase + k), data := s.stripeXor o.id k (mapped.map fun e => (e, [])) }) s1

/-- A trim or delete completes when each of its records is programmed; a delete then removes the object (R233, R249). -/
def State.settleTrim (s : State) (sid : Nat) : State :=
  match s.sub? sid with
  | none => s
  | some u =>
    if u.running ∧ u.due = none ∧ (u.entry.opcode = 0x51 ∨ u.entry.opcode = 0x54)
        ∧ s.flash.programs.all (fun p => !(p.sid == some sid)) then
      let s := if u.entry.opcode = 0x51 then
          s.modFlash fun f => { f with objs := f.objs.filter fun o => !(o.id == u.entry.arg0) }
        else s
      s.completeOk u
    else s

/-- A trim record would fall on a channel out of service (R399). -/
def State.trimOut (s : State) (obj : W64) (first n : Nat) : Bool :=
  s.flash.map.any fun m => m.obj == obj && decide (first ≤ m.extent) && decide (m.extent < first + n) && s.channelOut m.channel

/-- TRIM_EXTENT unmaps extents (R236, R249), once the writes accepted before it have been through them (R322). -/
def execTrimExtent (sid : Nat) (s : State) : Outcome :=
  .next (s.run sid 0x54 fun u s =>
    let first := u.entry.extFirst
    let n := u.entry.extCount
    s.settle u (s.spanErrs u.entry first n ++ when (s.trimOut u.entry.arg0 first n) .mediaError) fun s =>
      match s.obj? u.entry.arg0 with
      | none => s
      | some o =>
        let es := (s.flash.map.filter fun m => m.obj == o.id && decide (first ≤ m.extent) && decide (m.extent < first + n)).map
          (·.extent)
        if !s.flushing && s.extentsClear u.entry.arg0 first n && !es.any (s.stripeBusy o) then
          ((s.start u.sid).startTrim u.sid o es).settleTrim u.sid
        else s)

/-- Every command accepted earlier that names the object has completed (R233). -/
def State.objectIdle (s : State) (u : Sub) : Bool :=
  s.sasel.subs.all fun v => decide (u.sid ≤ v.sid) || v.due.isSome || decide (v.entry.target ≠ u.entry.target)

/-- A DELETE_OBJECT that fails changes nothing: its object is there again (R320). -/
def State.undelete (s : State) (sid : Nat) : State :=
  s.modFlash fun f => { f with objs := f.objs.map fun o => if o.deletedAt = some sid then { o with deletedAt := none } else o }

/-- A command whose program cannot be made ends with MEDIA_ERROR: a write with the units written so far, a trim or delete with
nothing changed (R247, R320, R321). -/
def State.failProgram (s : State) (sid : Nat) : State :=
  match s.flash.writes.find? fun j => j.sid == sid with
  | some j => s.endWrite j .mediaError
  | none => (s.undelete sid).failWith sid .mediaError

/-- DELETE_OBJECT takes effect after every earlier command on the object has completed (R233). -/
def execDeleteObject (sid : Nat) (s : State) : Outcome :=
  .next (s.run sid 0x51 fun u s =>
    if s.objectIdle u ∧ s.flushing = false then
      let bad := (s.obj? u.entry.arg0).isNone
      let out := s.trimOut u.entry.arg0 0 trimMark
      let s := if out then s.undelete u.sid else s
      s.settle u (when bad .badField ++ when out .mediaError) fun s =>
        match s.obj? u.entry.arg0 with
        | none => s
        | some o =>
          let es := (s.flash.map.filter fun m => m.obj == o.id && (!o.persistent || decide (m.extent < parityBase))).map
            (·.extent)
          ((s.start u.sid).startTrim u.sid o es).settleTrim u.sid
    else s)

/-! ### The end of a program (R236, R240, R247) -/

/-- The latest WSEQ that has taken effect on an extent: of its page or of a trim record that lists it. -/
def State.lastWseq (s : State) (c : Nat) (obj : W64) (e : Nat) : Option Nat :=
  (s.flash.pages.filter fun p => p.channel == c && ((p.obj == obj && p.extent == e) || p.trims.contains (obj, e))).foldl
    (fun m p => match m with | none => some p.wseq | some k => some (max k p.wseq)) none

/-- Writes of one extent take effect in WSEQ order (R236). -/
def newest (last : Option Nat) (w : Nat) : Bool := match last with | none => true | some k => decide (k ≤ w)

/-- The map entry that an ended program gives (R237). -/
def entryOf (persistent : Bool) (p : Programming) (l : Nat × Nat × Nat × Bool) : MapEntry :=
  { obj := p.obj, extent := p.extent, channel := p.channel, die := l.1, blockSet := l.2.1, page := l.2.2.1, pslc := l.2.2.2
    persist := persistent, stripePos := stripePos persistent p.extent }

/-- Apply one ended program to the map: a trim record unmaps, a write maps, a relocation replaces the location it
replaces, each only if nothing later on the extent has taken effect.  A DAMAGED extent stays so until it is rewritten (R243). -/
def State.applyProgram (s : State) (p : Programming) : State :=
  match p.done with
  | none => s
  | some l =>
    if p.extent = trimMark then
      (p.trims.filter fun t => newest (s.lastWseq p.channel t.1 t.2) p.wseq).foldl (fun s t => s.mapDrop t.1 t.2) s
    else if newest (s.lastWseq p.channel p.obj p.extent) p.wseq then
      let persistent := match s.obj? p.obj with | some o => o.persistent | none => false
      let m := entryOf persistent p l
      if p.relocation then
        match s.entry? p.obj p.extent with
        | some old => s.mapPut { m with damaged := old.damaged }
        | none => s
      else s.mapPut m
    else s

/-- The page that a program leaves, with its tag (R248). -/
def pageOf (p : Programming) (l : FlashLoc) : PageRec :=
  { channel := p.channel, die := l.die, blockSet := l.blockSet, page := l.page, obj := p.obj, extent := p.extent
    wseq := p.wseq, data := p.data, trims := p.trims }

/-- The unit that a QLC page of a die joins: the open one of its group and page number in which the die has no page yet, or a new one, of
which a group's hub accumulates at most 8 at a time (R240). -/
def State.unitFor (s : State) (c : Nat) (l : FlashLoc) : Option ParityUnit :=
  let open' := s.flash.units.filter fun x => x.channel == c && x.group == l.die / 6 && x.written.isNone
  match open'.find? fun x => x.page == l.page && !x.members.any fun d => d.1 == l.die with
  | some x => some x
  | none => if open'.length < 8 then some { channel := c, group := l.die / 6, page := l.page } else none

/-- A page that programs stored bytes in a QLC block set joins its unit (R240). -/
def State.joinUnit (s : State) (c : Nat) (l : FlashLoc) (stored : Buf) : State :=
  if l.pslc then s
  else
    match s.unitFor c l with
    | none => s
    | some x =>
      s.modFlash fun f => { f with units := upsert (· == x) { x with members := x.members ++ [(l.die, l.blockSet)], parity := xorBuf x.parity stored } f.units }

/-- Where a program may end: a command's in the pSLC write region (R236), a relocation also in QLC, when its unit can be accumulated. -/
def State.endsAt (s : State) (p : Programming) (l : FlashLoc) : Bool :=
  s.locOk p.channel l && if l.pslc then true else p.relocation && (s.unitFor p.channel l).isSome

/-- A write job's unit has taken effect: go on to the next. -/
def State.advance (s : State) (sid : Nat) : State :=
  match s.flash.writes.find? fun j => j.sid == sid with
  | none => s.settleTrim sid
  | some j =>
    let j' := { j with written := j.written + 1, started := false }
    (s.modFlash fun f => { f with writes := updWhere (fun x => x.sid == sid) (fun _ => j') f.writes }).nextUnit j'

/-- Write jobs whose next unit has not been started go on (R249, R241). -/
def State.kickWrites (s : State) : State :=
  (s.flash.writes.filter fun j => !j.started).foldl State.nextUnit s

/-- PROGRAM_COMPLETE: the program of a WSEQ ends at a location the hub chose; when the last of its group ends, the map
entries change in one step (R236, R241), and writes that waited for the stripe go on. -/
def execProgramComplete (channel wseq : Nat) (loc : FlashLoc) (s : State) : Outcome :=
  .next (s.fromHub channel fun s =>
    match s.flash.programs.find? fun p => p.channel == channel && p.wseq == wseq && p.done.isNone with
    | none => s
    | some p =>
      if s.endsAt p loc then
        let l := (loc.die, loc.blockSet, loc.page, loc.pslc)
        let s := ((s.takeLoc channel loc).joinUnit channel loc p.data).modFlash fun f =>
          { f with programs := updWhere (fun x => x.channel == channel && x.wseq == wseq) (fun x => { x with done := some l })
                     f.programs }
        let s := s.modChannel channel fun c => { c with sinceCut := c.sinceCut + 1, sinceRunning := c.sinceRunning + 1 }
        let grp := s.flash.programs.filter fun x => x.grp == p.grp
        if grp.all fun x => x.done.isSome then
          let s := grp.foldl State.applyProgram s
          let s := s.modFlash fun f =>
            { f with programs := f.programs.filter (fun x => !(x.grp == p.grp))
                     pages := f.pages ++ grp.map fun x =>
                       pageOf x (match x.done with
                         | some d => { die := d.1, blockSet := d.2.1, page := d.2.2.1, pslc := d.2.2.2 }
                         | none => loc)
                     cleanShutdown := false }
          (match p.sid with
          | some sid => s.advance sid
          | none => s).kickWrites
        else s
      else s)

/-- A block set retires: the channel counts one block set fewer (R247). -/
def State.retireBlock (s : State) (c die bs : Nat) : State :=
  let b := s.block c die bs
  if b.retired then s
  else
    (s.setBlock { b with retired := true }).modChannel c fun ch =>
      { ch with retirements := satInc ch.retirements, spareTaken := ch.spareTaken + 1 }

/-- PROGRAM_FAIL: the block set retires; the extent is programmed again, or at its second failure its write completes
with MEDIA_ERROR and its earlier contents stay (R247).  With no such program it is an erase that failed. -/
def execProgramFail (channel wseq : Nat) (loc : FlashLoc) (s : State) : Outcome :=
  .next (s.fromHub channel fun s =>
    match s.flash.programs.find? fun p => p.channel == channel && p.wseq == wseq && p.done.isNone with
    | none => if loc.die < s.dies ∧ loc.blockSet < 1200 then s.retireBlock channel loc.die loc.blockSet else s
    | some p =>
      if s.endsAt p loc then
        let s := s.retireBlock channel loc.die loc.blockSet
        if p.fails = 0 then
          s.modFlash fun f =>
            { f with programs := updWhere (fun x => x.channel == channel && x.wseq == wseq) (fun x => { x with fails := 1 })
                       f.programs }
        else
          let s := s.modFlash fun f => { f with programs := f.programs.filter fun x => !(x.grp == p.grp) }
          match p.sid with
          | none => s
          | some sid => (s.failProgram sid).kickWrites
      else s)

/-! ### Reads (R236, R238, R242, R243, R446) -/

/-- The bytes of a READ_EXTENT of `len` bytes at `off`. -/
def readBytes (data : Buf) (off len : Nat) : Buf := Buf.slice data off len

/-- Length a READ_EXTENT names: 0 is 65,536. -/
def Entry.readLen (e : Entry) : Nat := let n := e.arg1.toNat / 2 ^ 48; if n = 0 then 65536 else n
def Entry.readOff (e : Entry) : Nat := e.arg1.toNat / 2 ^ 32 % 65536

/-- Deliver a read and complete the command that waits. -/
def State.deliverRead (s : State) (r : Reading) (data : Buf) : State :=
  let s := s.modFlash fun f => { f with reads := f.reads.filter fun x => !(x == r) }
  match r.sid with
  | none => s
  | some sid =>
    match s.sub? sid with
    | some u => if u.due.isNone then (s.writeB u (readBytes data r.offset r.length)).completeOk u else s
    | none => s

/-- READ_EXTENT: zeros for an unmapped extent, MEDIA_ERROR for a DAMAGED one, else a read by the ladder; an extent on a
channel out of service starts at its rebuild (R236, R238, R243, R399). -/
def execReadExtent (sid : Nat) (s : State) : Outcome :=
  .next (s.run sid 0x53 fun u s =>
    let e := u.entry.arg1.toNat % 2 ^ 32
    let off := u.entry.readOff
    let len := u.entry.readLen
    s.settle u
      (s.spanErrs u.entry e 1
        ++ when (decide (65536 < off + len) || decide (u.entry.length.toNat < len)
            || (u.inSlot && !(decide (0x80 ≤ u.entry.addr.toNat) && decide (u.entry.addr.toNat + len ≤ 0xFF8)))) .badField)
      fun s =>
        let r : Reading := { sid := some u.sid, obj := u.entry.arg0, extent := e, offset := off, length := len }
        match s.entry? u.entry.arg0 e with
        | none => (s.writeB u (List.replicate len 0)).completeOk u
        | some m =>
          if m.damaged then s.failWith u.sid .mediaError
          else
            let r := { r with step := if s.channelOut m.channel then 7 else 0, place := some m }
            ((s.start u.sid).countStep m.channel r.step).modFlash fun f => { f with reads := f.reads ++ [r] })

/-- READ_LADDER_STEP: one step decodes all 16 codewords or not, at the location on which the read began.  After a decode at step 1 or later
the block set's current references are those of the step; after step 6 the extent is uncorrectable (R236, R238, R446). -/
def execReadLadderStep (obj : W64) (extent : Nat) (ok : Bool) (s : State) : Outcome :=
  .next (match s.flash.reads.find? fun r => r.obj == obj && r.extent == extent && decide (r.step ≤ 6) with
    | none => s
    | some r =>
      match r.place with
      | none => s.deliverRead r []
      | some m =>
        if s.channelPaused m.channel then s.isolate
        else if ok then
          let b := s.block m.channel m.die m.blockSet
          let s := if 1 ≤ r.step then s.setBlock { b with refs := r.step } else s
          s.deliverRead r (s.pageData m)
        else
          (s.modFlash fun f => { f with reads := updWhere (· == r) (fun x => { x with step := x.step + 1 }) f.reads }).countStep
            m.channel (r.step + 1))

/-- Two entries name one location. -/
def MapEntry.sameLoc (a b : MapEntry) : Bool :=
  a.channel == b.channel && a.die == b.die && a.blockSet == b.blockSet && a.page == b.page

/-- The rebuild that a read waits for: the extent is rebuilt and handed on, or declared DAMAGED.  When the extent has been rewritten or
trimmed since the read began, its members are those of the new contents: the read starts again on them (R236, R242, R243; log 85). -/
def State.rebuildFor (s : State) (r : Reading) (media : Media) : State :=
  match s.entry? r.obj r.extent, r.place with
  | some m, some p =>
    if s.channelPaused m.channel then s.isolate
    else if m.sameLoc p then
      let q := s.rebuildExtent media m
      match q.1 with
      | some stored => q.2.deliverRead r (s.decrypted m stored)
      | none =>
        let s := q.2.modFlash fun f => { f with reads := f.reads.filter fun x => !(x == r) }
        match r.sid with
        | some sid => s.failWith sid .mediaError
        | none => s
    else s.modFlash fun f => { f with reads := updWhere (· == r) (fun x => { x with step := 0, place := some m }) f.reads }
  | _, _ => s.deliverRead r []

/-! ### Open-block parity, close, verify (R240, R244) -/

/-- Dies of a group on this sled (R240). -/
def State.groupOk (s : State) (g : Nat) : Bool := decide (6 * g + 6 ≤ s.dies)

/-- The group whose pSLC region takes a group's parity: 0 with 1, 2 with 3 (R240). -/
def pairedGroup (g : Nat) : Nat := g ^^^ 1

/-- The XOR of a unit is written as an extent to the pSLC write region of a die of the paired group (R240). -/
def State.writeUnit (s : State) (x : ParityUnit) (l : FlashLoc) : State :=
  (s.putPage l { channel := x.channel, die := 0, blockSet := 0, page := 0, obj := unitObj, extent := x.page, wseq := 0, data := x.parity }).modFlash
    fun f => { f with units := updWhere (· == x) (fun x => { x with written := some (l.die, l.blockSet, l.page) }) f.units }

/-- Every accumulator is written to pSLC on the paired group, as an incomplete unit where it is one (table *Sag flush*); the location is the
model's choice (log 64). -/
def State.flushUnits (s : State) : State :=
  (s.flash.units.filter fun x => x.written.isNone).foldl (fun s x =>
    match s.findLoc x.channel fun l => l.pslc && l.die / 6 == pairedGroup x.group && s.pageFree x.channel l.die l.blockSet l.page with
    | some l => s.writeUnit x l
    | none => s) s

/-- OPEN_BLOCK_PARITY_WRITE: every die of the group has programmed the page, and the unit's XOR is written to pSLC on a die
of the paired group (R240), but not after a SHUTDOWN has completed (R253). -/
def execOpenBlockParityWrite (channel group page : Nat) (loc : FlashLoc) (s : State) : Outcome :=
  .next (s.fromHub channel fun s =>
    match s.flash.units.find? fun x => x.channel == channel && x.group == group && x.page == page && x.written.isNone && decide (x.members.length = 6) with
    | none => s
    | some x =>
      if s.groupOk group ∧ s.locOk channel loc ∧ loc.pslc ∧ loc.die / 6 = pairedGroup group ∧ ¬ s.sasel.shutdownDone then s.writeUnit x loc else s)

/-- Every block set that is open for a mode has been used up on the channel: none of the use is erased (R245). -/
def State.noneErased (s : State) (c : Nat) (pslc : Bool) : Bool :=
  let lo := if pslc then 994 else 0
  (List.range s.dies).all fun die => (List.range (if pslc then 24 else 994)).all fun i =>
    let b := s.block c die (lo + i)
    b.retired || decide (b.mode ≠ .erased)

/-- Extents mapped in a block set. -/
def State.mappedIn (s : State) (b : BlockSet) : Nat :=
  (s.flash.map.filter fun m => m.channel == b.channel && m.die == b.die && m.blockSet == b.index).length

/-- Garbage collection: with no erased block set left for a mode, the extents of the closed block set of that mode that has the fewest are
relocated, so that it can be erased.  When the hub collects, and what, is not stated (DESIGN CHOICE, log 64; R245). -/
def State.collect (s : State) (c : Nat) (pslc : Bool) : State :=
  if s.noneErased c pslc then
    let sets := s.flash.blocks.filter fun b => b.channel == c && b.closed && !b.retired && decide (b.mode = if pslc then .pslc else .qlc)
    match sortBy (fun a b => decide (s.mappedIn a ≤ s.mappedIn b)) sets with
    | b :: _ => s.relocateBlock [] c b.die b.index []
    | [] => s
  else s

/-- BLOCK_SET_CLOSE: the last page has been programmed; the verify read is queued (R244). -/
def execBlockSetClose (channel die blockSet : Nat) (s : State) : Outcome :=
  .next (s.fromHub channel fun s =>
    let b := s.block channel die blockSet
    let pslc := decide (b.mode = .pslc)
    if b.closed ∨ b.retired ∨ b.mode = .erased ∨ (s.pageAt channel die blockSet (pagesIn pslc - 1)).isNone then s
    else
      ((s.setBlock { b with closed := true }).modFlash fun f =>
        { f with verifyQueue := f.verifyQueue ++ [(channel, die, blockSet)] }).collect channel pslc)

/-- The parity of each written unit whose members have all passed their verify read is released: nothing of the unit stays (R240). -/
def State.releaseUnits (s : State) : State :=
  s.modFlash fun f =>
    let ready : ParityUnit → Bool := fun x => x.written.isSome && x.members.all fun m =>
      f.blocks.any fun b => b.channel == x.channel && b.die == m.1 && b.index == m.2 && b.verified
    { f with units := f.units.filter fun x => !ready x }

/-- The entries of the extents in a block set get VERIFIED (R244). -/
def State.setVerified (s : State) (c die bs : Nat) : State :=
  (s.flash.map.filter fun m => m.channel == c && m.die == die && m.blockSet == bs).foldl (fun s m => s.mapPut { m with verified := true }) s

/-- BLOCK_SET_VERIFY: every page of a closed block set is read at step 0, and `fails` names those that do not decode.  With none, VERIFIED is
set in its entries; else its extents are relocated, those pages rebuilt, and it retires (R244); it stays queued while nothing may be
relocated, in a flush or after a SHUTDOWN (R253, R254).  `media` is what the rebuilds meet. -/
def execBlockSetVerify (channel die blockSet : Nat) (fails : List Nat) (media : Media) (s : State) : Outcome :=
  .next (s.fromHub channel fun s =>
    if s.flash.verifyQueue.contains (channel, die, blockSet) then
      let pages := s.flash.pages.filter fun p => p.channel == channel && p.die == die && p.blockSet == blockSet
      let decodes := pages.all fun p => !fails.contains p.page
      if !decodes && (s.sasel.shutdown || s.flushing) then s
      else
      let s := s.modFlash fun f => { f with verifyQueue := f.verifyQueue.filter fun q => !(q == (channel, die, blockSet)) }
      let s := pages.foldl (fun s _ => s.countStep channel 0) s
      if decodes then
        ((s.setBlock { s.block channel die blockSet with verified := true }).setVerified channel die blockSet).releaseUnits
      else (s.relocateBlock media channel die blockSet fails).retireBlock channel die blockSet
    else s)

/-! ### Wear and erase (R245) -/

/-- QLC block sets of a channel that are in use. -/
def State.wearSet (s : State) (c : Nat) : List BlockSet :=
  s.flash.blocks.filter fun b => b.channel == c && decide (b.mode = .qlc) && !b.retired

/-- The spread between the largest and the smallest program/erase counts of a channel's QLC block sets. -/
def State.wearSpread (s : State) (c : Nat) : Nat :=
  let pes := (s.wearSet c).map (·.pe)
  maxOf pes - pes.foldl min (maxOf pes)

/-- WEAR_LEVEL: the spread of a channel's QLC counts exceeds the limit; the least-worn closed block set's extents are
relocated, and ERASE_COMPLETE follows once no entry names it (R245). -/
def execWearLevel (channel die blockSet : Nat) (s : State) : Outcome :=
  .next (s.fromHub channel fun s =>
    let b := s.block channel die blockSet
    if s.flash.wearLimit < s.wearSpread channel ∧ b.mode = .qlc ∧ b.closed = true ∧ b.retired = false
        ∧ (s.wearSet channel).all (fun x => !x.closed || decide (b.pe ≤ x.pe)) then
      s.relocateBlock [] channel die blockSet []
    else s)

/-- Something still needs what a block set holds: an entry names an extent in it, a program in it has not changed its entry yet, a read
began on it and has not delivered its last byte, or the parity of an open unit lies in it (R236, R240). -/
def State.setNeeded (s : State) (c die bs : Nat) : Bool :=
  (s.flash.map.any fun m => m.channel == c && m.die == die && m.blockSet == bs)
    || (s.flash.programs.any fun p => p.channel == c && match p.done with | some l => l.1 == die && l.2.1 == bs | none => false)
    || (s.flash.reads.any fun r => match r.place with | some m => m.channel == c && m.die == die && m.blockSet == bs | none => false)
    || s.flash.units.any fun x => x.channel == c && match x.written with | some l => l.1 == die && l.2.1 == bs | none => false

/-- ERASE_COMPLETE: a block set that nothing needs any more is erased and available for new writes (R231, R236, R245). -/
def execEraseComplete (channel die blockSet : Nat) (s : State) : Outcome :=
  .next (s.fromHub channel fun s =>
    let b := s.block channel die blockSet
    if s.setNeeded channel die blockSet ∨ b.retired ∨ s.dies ≤ die ∨ 1200 ≤ blockSet ∨ s.flushing ∨ s.sasel.shutdownDone then s
    else
      ((s.setBlock { b with mode := .erased, pe := b.pe + 1, closed := false, verified := false, refs := 0 }).modFlash
        fun f => { f with pages := f.pages.filter fun p => !(p.channel == channel && p.die == die && p.blockSet == blockSet) }).modChannel
        channel fun c => { c with patrolled := c.patrolled.filter fun x => !(x.1 == die && x.2.1 == blockSet) })

/-! ### Patrol (R246, R253, R446) -/

/-- A patrol period, in counts of the counter (R246). -/
def State.patrolPeriod (s : State) : Nat := countsOfUs (s.flash.patrolDays * 86400 * 1000000)

/-- The patrol period of a channel has run out. -/
def State.periodOver (s : State) (c : Nat) : Bool := decide (s.patrolPeriod ≤ s.elapsed (s.channel c).lapStart)

/-- A programmed page that the patrol has not read in the period that runs. -/
def State.patrolDue (s : State) (c die bs page : Nat) : Bool :=
  (s.pageAt c die bs page).isSome && (s.periodOver c || !(s.channel c).patrolled.contains (die, bs, page))

/-- The patrol has read a page, the first one of a period that begins when the one before it has run out; once it has read every programmed
page of the channel, the lap's time stands (R246). -/
def State.patrol (s : State) (c die bs page : Nat) : State :=
  let s := if s.periodOver c then s.modChannel c fun ch => { ch with patrolled := [], lapStart := s.pclk, lapDone := false } else s
  let s := s.modChannel c fun ch => { ch with patrolled := ch.patrolled ++ [(die, bs, page)] }
  let ch := s.channel c
  if !ch.lapDone && s.flash.pages.all fun p => p.channel != c || ch.patrolled.contains (p.die, p.blockSet, p.page) then
    s.modChannel c fun ch => { ch with lapDone := true, patrolLap := BitVec.ofNat 64 (s.elapsed ch.lapStart / countsOfUs 1000000) }
  else s

/-- PATROL_READ: a page is read at step 0, once in a period, and needs a step (`none`: it does not decode).  From step 2 its block set's extents
are relocated, one that does not decode rebuilt (R246); from step 1 the references move (R446).  `media` is what the rebuild meets. -/
def execPatrolRead (channel die blockSet page : Nat) (step : Option Nat) (media : Media) (s : State) : Outcome :=
  .next (s.fromHub channel fun s =>
    if !s.patrolDue channel die blockSet page then s
    else
      let s := s.patrol channel die blockSet page
      match step with
      | none => ((List.range 8).foldl (fun s i => s.countStep channel i) s).relocateBlock media channel die blockSet [page]
      | some k =>
        let s := (List.range (min k 6 + 1)).foldl (fun s i => s.countStep channel i) s
        let s := if 1 ≤ k ∧ k ≤ 6 then s.setBlock { s.block channel die blockSet with refs := k } else s
        if 2 ≤ k then s.relocateBlock media channel die blockSet [] else s)

/-! ### Checkpoints, journal, replay, shutdown (R249 to R253) -/

/-- MAP_CHECKPOINT_START: a channel has written 16 GiB of extents since its cut and a checkpoint starts; each channel's cut is its WSEQ now
(R249, R253). -/
def execMapCheckpointStart (channel : Nat) (s : State) : Outcome :=
  .next (if s.flash.checkpointing ∨ s.sasel.shutdown = true ∨ s.flushing = true ∨ 128 ≤ channel ∨ (s.channel channel).sinceCut < 262144 then s
    else s.modFlash fun f =>
      { f with checkpointing := true
               channels := f.channels.map fun c => { c with runningCut := c.wseq, sinceRunning := 0 } })

/-- The map object (R164, R249): extent e holds the map granules 16e to 16e + 15. -/
def mapObj : W64 := mapCkptObj 0

/-- Every map granule that has changed since the last checkpoint is written into the map object (R249). -/
def State.storeMap (s : State) : State :=
  match nub (s.flash.dirty.map (· / 16)) with
  | [] => s
  | es =>
    (s.modFlash fun f => { f with dirty := [] }).storeExtents mapObj true (es.map fun e => (e, s.mems.hbm.readBytes (65536 * e) 65536))

/-- MAP_CHECKPOINT_COMPLETE: the changed granules and the record are written; the map as it stands is the checkpoint, and writes that waited go on
(R249). -/
def execMapCheckpointComplete (s : State) : Outcome :=
  .next (if s.flash.checkpointing then
      (s.storeMap.modFlash fun f =>
        { f with checkpointing := false, checkpoint := f.map, checkpointNo := f.checkpointNo + 1
                 channels := f.channels.map fun c => { c with cut := c.runningCut, sinceCut := c.sinceRunning } }).kickWrites
    else s)

/-- SYSREGION_JOURNAL: the journal of the system region is written (R251, R253). -/
def execSysregionJournal (s : State) : Outcome :=
  .next (if s.sasel.shutdownDone then s
    else s.modFlash fun f => { f with journalSeq := s.sasel.eventSeq, journals := f.journals + 1 })

/-- Apply one page's tag in replay (R250).  A page that was found not to decode leaves its extent DAMAGED (R243). -/
def replayPage (persistent : W64 → Bool) (map : List MapEntry) (p : PageRec) : List MapEntry :=
  if p.extent = trimMark then map.filter fun m => !p.trims.contains (m.obj, m.extent)
  else
    let m : MapEntry :=
      { obj := p.obj, extent := p.extent, channel := p.channel, die := p.die, blockSet := p.blockSet, page := p.page
        persist := persistent p.obj, stripePos := stripePos (persistent p.obj) p.extent, damaged := p.bad }
    upsert (fun x => x.obj == p.obj && x.extent == p.extent) m map

/-- The pages written at or after a channel's cut whose tags decode, in WSEQ order; `lost` names, by channel and WSEQ, the
pages whose tags do not (R250). -/
def State.replayPages (s : State) (lost : List (Nat × Nat)) (c : Nat) : List PageRec :=
  sortBy (fun a b => decide (a.wseq ≤ b.wseq))
    (s.flash.pages.filter fun p => p.channel == c && decide ((s.channel c).cut ≤ p.wseq) && !lost.contains (c, p.wseq))

/-- Block-set facts put back into an entry: its mode and verification; DAMAGED when its location has been erased. -/
def State.settleEntry (s : State) (m : MapEntry) : MapEntry :=
  let b := s.block m.channel m.die m.blockSet
  let lost := match s.page? m with | some p => p.bad || !(p.obj == m.obj && p.extent == m.extent) | none => true
  { m with pslc := decide (b.mode = .pslc), verified := b.verified, damaged := m.damaged || lost }

/-- The map that replay rebuilds: the checkpoint, then each channel's pages in WSEQ order (R250). -/
def State.replayed (s : State) (lost : List (Nat × Nat)) : List MapEntry :=
  let persistent := fun id => match s.obj? id with | some o => o.persistent | none => false
  (((List.range 128).foldl (fun m c => (s.replayPages lost c).foldl (replayPage persistent) m) s.flash.checkpoint).filter
    fun m => (s.obj? m.obj).isSome).map s.settleEntry

/-- The map is as given, and its entries lie in HBM again (R237, R250). -/
def State.loadMap (s : State) (l : List MapEntry) : State :=
  l.foldl State.mapPut (s.modFlash fun f => { f with map := [], objs := f.objs.map fun o => { o with base := none, slots := 0 } })

/-- The flash extents of row blocks whose home is not on flash: those of moves that had not flipped (R177, R252). -/
def State.freeUnflipped (s : State) : State :=
  ((s.flash.objs.filter fun o => decide (o.id.toNat / 2 ^ 60 = 5)
      && !s.tiers.homes.any fun h => h.objId == o.id && decide (h.tier = .flash)).map (·.id)).foldl State.eraseObj s

/-- The map is rebuilt; after a clean shutdown no replay is needed; after any other reset every block set that was open is
closed and queued for its verify, and the extents of moves that had not flipped are freed (R250, R252). -/
def State.replayMap (s : State) (lost : List (Nat × Nat)) : State :=
  if s.flash.cleanShutdown then
    ((s.loadMap (s.flash.checkpoint.filter fun m => (s.obj? m.obj).isSome)).modFlash fun f => { f with replayed := true }).freeUnflipped
  else
    let opened := s.flash.blocks.filter fun b => !b.closed && decide (b.mode ≠ .erased) && !b.retired
    ((s.loadMap (s.replayed lost)).modFlash fun f =>
      { f with replayed := true, sagRecord := false
               blocks := updWhere (fun b => opened.contains b) (fun b => { b with closed := true }) f.blocks
               verifyQueue := f.verifyQueue ++ opened.map fun b => (b.channel, b.die, b.index) }).freeUnflipped

/-- Commands that write flash and were accepted before the SHUTDOWN have ended (R252). -/
def State.writersIdle (s : State) (u : Sub) : Bool :=
  s.sasel.subs.all fun v => decide (u.sid ≤ v.sid) || v.due.isSome || !refusedByShutdown v.entry

/-- The checkpoint whose cut follows every completed write, and the clean-shutdown record (R252).  A relocation that has not ended is given
up: its extent stays where it is, since nothing is written to flash from then on (R253). -/
def Flash.cleanClose (f : Flash) : Flash :=
  { f with checkpointing := false, programs := [], checkpoint := f.map, checkpointNo := f.checkpointNo + 1, cleanShutdown := true
           channels := f.channels.map fun c => { c with cut := c.wseq, sinceCut := 0 } }

/-- SHUTDOWN: once every earlier writer has ended and every graft job has stopped, the checkpoint and the clean-shutdown
record are written; `ok` is false when they cannot be.  A second SHUTDOWN completes OK at once (R252, R253). -/
def execShutdown (sid : Nat) (ok : Bool) (s : State) : Outcome :=
  .next (s.run sid 0xE5 fun u s => s.settle u [] fun s =>
    if u.afterShutdown then s.completeOk u
    else if s.writersIdle u ∧ s.grafts.list.all (fun g => decide (g.phase = .stopped)) then
      if ok then
        let s := s.storeMap.modFlash Flash.cleanClose
        ({ s with sasel := { s.sasel with shutdownDone := true } } : State).completeOk u
      else s.failWith u.sid .mediaError
    else s)

end Sys2Proof.Machine
end

