-- ==== Sys2Proof/Machine/Send.lean ====
section
/-! DEFINITION. What leaves a sled on its fabric ports: Woane packets, paths, flows as sender, and messages to other members (R338,
R341 to R344, R347, R349). -/

namespace Sys2Proof.Machine

open Sys2Proof

/-! ### Peers and paths (R338, R349) -/

def State.modFabric (s : State) (f : Fabric → Fabric) : State := { s with fabric := f s.fabric }

def State.peer (s : State) (r : Nat) : Peer := (s.fabric.peers.find? fun p => p.rank == r).getD { rank := r }

def State.modPeer (s : State) (r : Nat) (f : Peer → Peer) : State :=
  s.modFabric fun x => { x with peers := upsert (fun p => p.rank == r) (f (s.peer r)) x.peers }

/-- Every member but the sled itself. -/
def State.others (s : State) : List Nat := if s.fabric.plot.isNone then [] else s.ranks.filter fun r => r != s.ownRank

def maskPorts (m : BitVec 12) : List Nat := (List.range 12).filter fun p => m.getLsbD p

/-- Own ports in service, ascending. -/
def State.portsUp (s : State) : List Nat :=
  (List.range 12).filter fun p => match s.fabric.ports[p]? with | some x => x.up | none => false

/-- PORT_MASK. -/
def State.ownMask (s : State) : BitVec 12 := s.portsUp.foldl (fun m p => setBit m p true) 0#12

/-- The element at a position modulo the length of a list. -/
def cyclic (l : List Nat) (i : Nat) : Option Nat := if l.length = 0 then none else l[i % l.length]?

/-- Own port and the peer's port of a flow of class `c` between the sled and a peer; the same pair both ways (R349). -/
def State.path (s : State) (b c : Nat) : Option (Nat × Nat) :=
  match cyclic s.portsUp (4 * b + c), cyclic (maskPorts (s.peer b).portMask) (4 * s.ownRank + c) with
  | some x, some y => some (x, y)
  | _, _ => none

/-! ### Packets (R341, R342) -/

def pktData : Nat := 1
def pktAck : Nat := 2
def pktHello : Nat := 3
def pktOpen : Nat := 4
def pktOpenOk : Nat := 5
def pktAudit : Nat := 6
def pktAuditReply : Nat := 7

/-- The 32 bytes of a Woane header (table *Woane header*). -/
def woaneHeader (tag srcRank dstRank srcEpoch dstEpoch kind cls : Nat) (psn : W32) (first last : Bool) (len : Nat) : Buf :=
  leBytes 2 0x574E ++ [1, BitVec.ofNat 8 kind, BitVec.ofNat 8 (first.toNat + 2 * last.toNat), BitVec.ofNat 8 cls, 0, 0]
    ++ leBytes 4 tag ++ leBytes 2 srcRank ++ leBytes 2 dstRank ++ leBytes 4 srcEpoch ++ leBytes 4 dstEpoch
    ++ leBytes 4 psn.toNat ++ [0, 0] ++ leBytes 2 len

def State.plotId (s : State) : W64 := match s.fabric.plot with | some p => p.plotId | none => 0

/-- Add to a counter of a fabric port (table *Fabric telemetry*). -/
def State.bumpPort (s : State) (p k : Nat) : State :=
  s.modFabric fun f => { f with portStats := modAt f.portStats p fun l => modAt l k satInc }

/-- Send a packet to a peer; a sender with no port in service sends nothing (R349). -/
def State.sendPacket (s : State) (b kind cls : Nat) (psn : W32) (first last : Bool) (payload : Buf) : State :=
  match s.path b cls with
  | none => s
  | some (x, y) =>
    let dst := if kind = pktHello ∨ kind = pktOpen then 0 else (s.peer b).knownEpoch
    (s.bumpPort x 1).emit
      (.packet x b y (woaneHeader (s.plotId.toNat % 2 ^ 32) s.ownRank b s.fabric.epoch dst kind cls psn first last payload.length ++ payload))

/-! ### Flows as sender (R343, R344, R347) -/

def State.tx (s : State) (b c : Nat) : TxFlow :=
  (s.fabric.tx.find? fun f => f.rank == b && f.cls == c).getD { rank := b, cls := c }

def State.setTx (s : State) (f : TxFlow) : State :=
  s.modFabric fun x => { x with tx := upsert (fun g => g.rank == f.rank && g.cls == f.cls) f x.tx }

/-- Credits the sender holds: G − ((NEXT_PSN − RETURNED_SEEN) mod 2³²) (R344). -/
def TxFlow.credits (f : TxFlow) : Nat := f.grant - (f.nextPsn - BitVec.ofNat 32 f.returnedSeen).toNat

/-- Send waiting packets while credits are held: each takes the next PSN. -/
def State.pumpN : Nat → State → Nat → Nat → State
  | 0, s, _, _ => s
  | n + 1, s, b, c =>
    let f := s.tx b c
    match f.queue with
    | [] => s
    | (fst, lst, bytes) :: rest =>
      if f.opened ∧ 0 < f.credits then
        let f' := { f with nextPsn := f.nextPsn + 1, queue := rest, unacked := f.unacked ++ [(f.nextPsn, fst, lst, bytes)] }
        State.pumpN n ((s.setTx f').sendPacket b pktData c f.nextPsn fst lst bytes) b c
      else s

def State.pump (s : State) (b c : Nat) : State := State.pumpN 64 s b c

/-- The packets of a message: 8,192 B each, FIRST on the first, LAST on the last (R343). -/
def packetsFrom : Nat → Bool → Buf → List (Bool × Bool × Buf)
  | 0, first, b => [(first, true, b)]
  | n + 1, first, b => if b.length ≤ 8192 then [(first, true, b)] else (first, false, b.take 8192) :: packetsFrom n false (b.drop 8192)

/-- The class of a message (table *Woane flows*). -/
def Msg.cls : Msg → Nat
  | .plotScan | .plotExact | .plotFetch | .plotReply => 1
  | .subLookup | .partials | .rowUpdate | .updateDone | .mapUpdate | .mapAck | .tableRows | .takeBlock | .holdBlock | .refuseBlock
  | .leaveBlock | .readRows | .rows | .readBlock | .block => 2
  | .announce | .chain | .groupPartial | .rawSamples | .ownedSums => 3
  | _ => 0

/-- A message to another member: recorded with its numbers, and queued on its flow; its bytes are not stated (log 29). -/
def State.sendMsg (s : State) (b : Nat) (kind : Msg) (values : List Nat) : State :=
  let f := s.tx b kind.cls
  let bytes := (Config.report (0x1000 + kind.cls) values).take (16 * 2 ^ 20)
  ((s.emit (.message b kind values)).setTx { f with queue := f.queue ++ packetsFrom 2048 true bytes }).pump b kind.cls

/-- Send the same message to every other member. -/
def State.sendAll (s : State) (kind : Msg) (values : List Nat) : State := s.others.foldl (fun s b => s.sendMsg b kind values) s

end Sys2Proof.Machine
end

