-- ==== Sys2Proof/Machine/Tiers.lean ====
section
/-! DEFINITION. Memory tiers and homes (chapter 7): the HBM address space, pools, object IDs, the home directory, pins,
moves, sealed copies and errors in the tiers. -/

namespace Sys2Proof.Machine

open Sys2Proof

/-! ### The HBM address space (R160, R161) -/

/-- The other 23 stacks in ascending order: stack at position p of the list without HBMx. -/
def otherStack (x p : Nat) : Nat := if p < x then p else p + 1

/-- Where a granule of retired HBMx in slot k goes: stack and stack byte (R161). -/
def relocated (x k : Nat) : Nat × Nat := (otherStack x (k % 23), 46 * 2 ^ 30 + k / 23 * granuleBytes)

/-- Stack and stack byte of a logical address with the stacks retired so far (R160, R161). -/
def State.hbmPlace (s : State) (a : Nat) : Nat × Nat :=
  match s.tiers.retiredStacks with
  | [] => (stackOf a, stackByte a)
  | x :: _ =>
    if stackOf a = x then ((relocated x (slotOf a)).1, (relocated x (slotOf a)).2 + a % granuleBytes)
    else (stackOf a, stackByte a)

/-- The address is served by no stack: its stack, or the stack it was relocated onto, is the second retired (R161). -/
def State.hbmLost (s : State) (a : Nat) : Bool := (s.tiers.retiredStacks.drop 1).contains (s.hbmPlace a).1

/-- A retired bank holds the granule: the slot lies beyond the system region and the stack's controller maps it there (R381). -/
def bankHolds (b : Nat × Nat) (g : Nat) : Bool :=
  g % 24 == b.1 && decide (1572864 ≤ g / 24) && Config.bank b.1 (g / 24) % 64 == b.2

/-- The granules retired one by one or with their bank (R381), that a stack in service could serve. -/
def State.retiredGranules (s : State) : List Nat :=
  (nub (s.integ.granules ++ s.integ.banks.flatMap fun b =>
    ((List.range 10485760).map fun k => (1572864 + k) * 24 + b.1).filter (bankHolds b))).filter fun g => !s.hbmLost (g * granuleBytes)

/-- Unusable granules, each counted once: those no stack serves, 12,058,624 of each further stack's own slots and 524,288 relocated onto it,
and those retired one by one or with their bank (R161, R381). -/
def State.unusable (s : State) : Nat := 12582912 * (s.tiers.retiredStacks.length - 1) + s.retiredGranules.length

/-- The granules that no later allocation uses (R161, R381). -/
def State.unusableGranules (s : State) : List Nat :=
  (if s.tiers.retiredStacks.length ≤ 1 then []
    else (List.range (hbmBytes / granuleBytes)).filter fun g => s.hbmLost (g * granuleBytes)) ++ s.retiredGranules

/-! ### Slot parity of the system region (R162) -/

/-- A word of the system region is rebuilt from its slot's parity (R162, R184). -/
def State.rebuildWord (s : State) (a : Nat) : State :=
  { s with mems := { s.mems with hbm := s.mems.hbm.writeBytes a ((List.range 8).map fun i => s.slotXor (a + i)) } }

/-! ### Pools (R162, R163) -/

def poolModel : Nat := 0
def poolIndex : Nat := 1
def poolTable : Nat := 2
def poolGraft : Nat := 3

def Pools.get (p : Pools) (i : Nat) : Nat := match i with | 0 => p.model | 1 => p.index | 2 => p.table | _ => p.graft

def Pools.set (p : Pools) (i v : Nat) : Pools :=
  match i with
  | 0 => { p with model := v }
  | 1 => { p with index := v }
  | 2 => { p with table := v }
  | _ => { p with graft := v }

def State.modTiers (s : State) (f : Tiers → Tiers) : State := { s with tiers := f s.tiers }

/-- Whole granules. -/
def granules (len : Nat) : Nat := ceilDiv len granuleBytes * granuleBytes

/-- Sealed sections that lie in the HBM copy: all but TOKENISER, TEMPLATE and SIGNATURE (R157). -/
def sealedKind (k : Nat) : Bool := decide (1 ≤ k ∧ k ≤ 7) || k == 0x0A

/-- Places of the sealed sections in the object of an image: in the order of their offsets, each from a 4 KiB boundary
(R164; log 31). -/
def sealedPlaces : List SectionEntry → Nat → List (SectionEntry × Nat)
  | [], _ => []
  | e :: r, a => if sealedKind e.kind then (e, a) :: sealedPlaces r (a + granules e.length) else sealedPlaces r a

/-- Bytes of the object of an image. -/
def Image.span (im : Image) : Nat := sumOf ((sealedPlaces im.sections 0).map fun p => granules p.1.length)

/-- Place of the section of a kind. -/
def Image.placeOf (im : Image) (kind : Nat) : Option (SectionEntry × Nat) := (sealedPlaces im.sections 0).find? fun p => p.1.kind == kind

/-- The pool has room. -/
def State.poolRoom (s : State) (pool len : Nat) : Bool :=
  decide (s.tiers.held.get pool + granules len ≤ s.tiers.budget.get pool)

/-- Addresses in use or unusable, by rising base. -/
def State.hbmRanges (s : State) : List (Nat × Nat) :=
  sortRanges (s.tiers.allocs.map (fun a => (a.1, a.2.1)) ++ s.unusableGranules.map fun g => (g * granuleBytes, granuleBytes))

/-- Charge bytes to a pool, or give them back. -/
def State.chargePool (s : State) (pool n : Nat) : State :=
  s.modTiers fun t => { t with held := t.held.set pool (t.held.get pool + n) }
def State.refundPool (s : State) (pool n : Nat) : State :=
  s.modTiers fun t => { t with held := t.held.set pool (t.held.get pool - n) }

/-- Place granules for an object: the lowest address that fits (R162, log 23). -/
def State.placeHbm (s : State) (len : Nat) (obj : W64) : Option (Nat × State) :=
  (firstFit hbmBytes (granules len) systemBytes s.hbmRanges).map fun a =>
    (a, s.modTiers fun t => { t with allocs := t.allocs ++ [(a, granules len, obj)] })

/-- Allocate granules for an object and charge its pool; none without room (R162). -/
def State.allocHbm (s : State) (pool len : Nat) (obj : W64) : Option (Nat × State) :=
  if s.poolRoom pool len then (s.placeHbm len obj).map fun r => (r.1, r.2.chargePool pool (granules len)) else none

/-- Free an object's place at a base. -/
def State.unplaceHbm (s : State) (base : Nat) (obj : W64) : State :=
  s.modTiers fun t => { t with allocs := t.allocs.filter fun x => !(x.1 == base && x.2.2 == obj) }

/-- Free an object's allocation at a base. -/
def State.freeHbm (s : State) (pool base : Nat) (obj : W64) : State :=
  match s.tiers.allocs.find? fun a => a.1 == base && a.2.2 == obj with
  | none => s
  | some a => (s.unplaceHbm base obj).refundPool pool a.2.1

/-- Budgets of a SET_POOLS in bytes. -/
def poolsOf (arg : W64) : Pools :=
  { model := bitsOf arg.toNat 0 16 * 2 ^ 30, index := bitsOf arg.toNat 16 16 * 2 ^ 30
    table := bitsOf arg.toNat 32 16 * 2 ^ 30, graft := bitsOf arg.toNat 48 16 * 2 ^ 30 }

/-- SET_POOLS (R163). -/
def execSetPools (sid : Nat) (s : State) : Outcome :=
  .next (s.run sid 0xE4 fun u s =>
    let p := poolsOf u.entry.arg0
    s.settle u
      (when (decide (p.model + p.index + p.table + p.graft ≠ 960 * 2 ^ 30)) .badField
        ++ when ((List.range 4).any fun i => decide (p.get i < s.tiers.held.get i)) .noResource)
      fun s => (s.modTiers fun t => { t with budget := p }).completeOk u)

/-! ### Objects (R164) -/

/-- The pool an object's HBM bytes are charged to. -/
def poolOf (id : W64) : Nat :=
  match objKind id with
  | 0 | 4 => poolModel
  | 1 | 2 => poolIndex
  | 5 => poolTable
  | _ => poolGraft

def State.home? (s : State) (id : W64) : Option Home := s.tiers.homes.find? fun h => h.objId == id && !h.gone

def State.modHome (s : State) (id : W64) (f : Home → Home) : State :=
  s.modTiers fun t => { t with homes := updWhere (fun h => h.objId == id && !h.gone) f t.homes }

/-- Length in bytes. -/
def Home.bytes (h : Home) : Nat := 64 * (h.lengthM1.toNat + 1)

/-- There is room for entries in the directory (R166). -/
def State.dirRoom (s : State) (n : Nat) : Bool := decide (s.tiers.homes.length + n ≤ 268435456)

def State.addHome (s : State) (h : Home) : State := s.modTiers fun t => { t with homes := t.homes ++ [h] }

/-- Every submission of the list completes with a status. -/
def State.finishAll (s : State) (sids : List (Option Nat)) (st : Status) : State :=
  sids.foldl (fun s o =>
    match o with
    | some sid =>
      let throttled := match s.sub? sid with | some u => u.throttled && decide (st = .ok) | none => false
      s.finish sid { status := st, flags := { writeThrottled := throttled } }
    | none => s) s

/-- The bytes of an entry are freed: a mutable object's home and the place of its move, or a sealed object's copy in HBM (R162, R167). -/
def State.freeHome (s : State) (h : Home) : State :=
  if h.sealedObj then
    (if h.hbmCopy then (s.unplaceHbm h.addr.toNat h.objId).refundPool (poolOf h.objId) h.charged else s)
  else
    let s := if h.tier = .hbm then s.freeHbm (poolOf h.objId) h.addr.toNat h.objId else s
    let s := if h.destTier = .hbm ∧ h.tier ≠ .hbm then s.freeHbm (poolOf h.objId) h.dest.toNat h.objId else s
    if h.tier = .flash ∨ h.destTier = .flash then s.eraseObj h.objId else s

/-- An entry that has been removed goes with the last pin that covers its bytes (R167). -/
def State.sweepHome (s : State) (h : Home) : State :=
  if h.gone ∧ h.pins = 0 ∧ h.oldPins = 0 then
    (s.freeHome h).modTiers fun t => { t with homes := t.homes.filter fun x => !(x == h) }
  else s

/-- Remove an object: its entry and its bytes, and its HBM space once no pin covers it.  Moves of it that run or wait end with BAD_FIELD,
as a MOVE_OBJECT that names no object does (DESIGN CHOICE, log 93). -/
def State.dropHome (s : State) (id : W64) : State :=
  match s.home? id with
  | none => s
  | some h =>
    let asked := ((s.tiers.moves ++ s.tiers.running).filter fun m => m.objId == id).map (·.sid)
    let s := if h.sealedObj then s.eraseObj id else s
    let s := s.modHome id fun h => { h with gone := true }
    let s := s.sweepHome { h with gone := true }
    let s := s.modTiers fun t =>
      { t with bytes := t.bytes.filter (fun b => !(b.1 == id)), moves := t.moves.filter (fun m => !(m.objId == id))
               running := t.running.filter (fun m => !(m.objId == id))
               fetches := t.fetches.filter (fun f => !(f.objId == id)), writes := t.writes.filter (fun w => !(w.objId == id)) }
    s.finishAll asked .badField

def Tier.code : Tier → Nat
  | .hbm => 1 | .flash => 2 | .peer => 3

/-- The 64 bytes of a directory entry (table *Home directory entry*). -/
def Home.entry (h : Home) : Buf :=
  let low : Nat := 1 + (if h.damaged then 4 else 0) + (if h.referenced then 8 else 0) + (if h.evictPending then 16 else 0)
    + (if h.inMotion then 32 else 0) + (if h.hbmCopy then 64 else 0) + (if h.sealedObj then 128 else 0)
    + (if h.isExplicit then 256 else 0) + h.destTier.code * 2 ^ 12 + h.tier.code * 2 ^ 14 + objKind h.objId * 2 ^ 16
    + h.waiters % 16 * 2 ^ 20
  leBytes 24 low ++ leBytes 4 h.owner.toNat ++ leBytes 4 h.version.toNat ++ leBytes 2 h.oldPins ++ leBytes 2 h.pins
    ++ leBytes 4 h.lengthM1.toNat ++ leBytes 8 h.dest.toNat ++ leBytes 8 h.addr.toNat ++ leBytes 8 h.objId.toNat

/-- QUERY_HOME copies the entry; an object without one is BAD_FIELD (log 25). -/
def execQueryHome (sid : Nat) (ok : Bool) (s : State) : Outcome :=
  .next (s.run sid 0x61 fun u s =>
    match s.home? u.entry.arg0 with
    | none => s.settle u [.badField] fun s => s
    | some h => s.settle u (when (decide (u.entry.length.toNat < 64)) .badField) fun s =>
        s.report u ok h.entry fun s => s.completeOk u)

/-! ### Bytes of mutable objects (R165, R168, R172) -/

/-- The bytes at an object's home. -/
def State.homeBytes (s : State) (id : W64) : Buf := (assocGet id s.tiers.bytes).getD []

/-- Overwrite a run of bytes. -/
def overlay (old : Buf) (off : Nat) (new : Buf) : Buf :=
  (List.range (max old.length (off + new.length))).map fun i =>
    if off ≤ i ∧ i < off + new.length then Buf.at new (i - off) else Buf.at old i

/-! ### Rows of a table as bytes (R186, R197) -/

/-- The scale of a row. -/
def rowScale (fmt dim : Nat) (row : Buf) : W32 := BitVec.ofNat 32 (Buf.le row (dim * elemBytes fmt) 4)

/-- The stored value of element i. -/
def rowValue (fmt dim : Nat) (row : Buf) (i : Nat) : W32 :=
  let v := elemNum fmt (Buf.le row (i * elemBytes fmt) (elemBytes fmt))
  if rowScaled fmt then (v.mul (fpNum (rowScale fmt dim row))).toFp else v.toFp

/-- The stored values of a row. -/
def rowValues (fmt dim : Nat) (row : Buf) : List W32 := (List.range dim).map (rowValue fmt dim row)

/-- An exact quotient, sticky enough for one rounding. -/
def Num.over (a b : Num) : Num :=
  match a, b with
  | .nan, _ | _, .nan => .nan
  | .inf _, .inf _ => .nan
  | .inf s, .fin t _ _ => .inf (s != t)
  | .fin s _ _, .inf t => .fin (s != t) 0 0
  | .fin s m e, .fin t n f => if n = 0 then (if m = 0 then .nan else .inf (s != t)) else let q := divSticky m e n f; .fin (s != t) q.1 q.2

/-- An infinity becomes the largest finite FP32 value of its sign. -/
def fpSaturate (v : W32) : W32 := if v = 0x7F800000#32 then 0x7F7FFFFF#32 else if v = 0xFF800000#32 then 0xFF7FFFFF#32 else v

/-- Encode a value of a row in its format with the row's scale. -/
def rowCode (fmt : Nat) (scale y : W32) : Nat :=
  let v := fpNum (fpSaturate y)
  match fmt with
  | 0xC => (fpSaturate y).toNat
  | 0x0 => intCode 8 (requantInt 8 (v.over (fpNum scale)) 0).1
  | 0x2 => (convertTo 0x2 (v.over (fpNum scale))).1
  | f => (convertTo f v).1

/-- ADD: each stored value plus its delta, re-encoded with the row's scale. -/
def addRow (fmt dim : Nat) (row deltas : Buf) : Buf :=
  let n := dim * elemBytes fmt
  let codes := (List.range dim).flatMap fun i =>
    leBytes (elemBytes fmt) (rowCode fmt (rowScale fmt dim row) (fpAdd (rowValue fmt dim row i) (BitVec.ofNat 32 (Buf.le deltas (4 * i) 4))))
  codes ++ Buf.slice row n (rowBytes fmt dim - n)

/-! ### Writes (R168, R172, R197) -/

/-- An UPDATE_ROWS that waits for nothing more completes (R197). -/
def State.closeUpdates (s : State) (sid : Nat) : State :=
  match s.tables.updates.find? fun r => r.sid == sid with
  | some r =>
    if r.awaiting = 0 ∧ r.away = [] then
      let st := firstStatus (when r.gone .versionGone ++ when r.damaged .damaged ++ when r.lost .notReady)
      let s := { s with tables := { s.tables with updates := s.tables.updates.filter fun x => !(x.sid == sid) } }
      s.finish sid { status := st, result0 := BitVec.ofNat 64 r.applied }
    else s
  | none => s

/-- One update of an UPDATE_ROWS has been applied, or found its block DAMAGED. -/
def State.noteUpdate (s : State) (sid : Nat) (ok : Bool) : State :=
  let f := fun (r : RowUpdates) =>
    { r with awaiting := r.awaiting - 1, applied := r.applied + ok.toNat, damaged := r.damaged || !ok }
  ({ s with tables := { s.tables with updates := updWhere (fun r => r.sid == sid) f s.tables.updates } } : State).closeUpdates sid

/-- Another rank has answered an update sent to it (R197). -/
def State.noteAnswer (s : State) (sid row : Nat) (st : Status) : State :=
  let f := fun (r : RowUpdates) =>
    match r.away.find? fun x => x.1 == row with
    | some x => { r with away := r.away.erase x, applied := r.applied + (decide (st = .ok)).toNat, gone := r.gone || decide (st = .versionGone)
                         damaged := r.damaged || decide (st = .damaged) }
    | none => r
  ({ s with tables := { s.tables with updates := updWhere (fun r => r.sid == sid) f s.tables.updates } } : State).closeUpdates sid

/-- Updates sent to a rank whose epoch has changed are lost (log 45). -/
def State.loseUpdates (s : State) (rank : Nat) : State :=
  let hit := fun (r : RowUpdates) => r.away.any fun x => x.2 == rank
  let sids := (s.tables.updates.filter hit).map (·.sid)
  let f := fun (r : RowUpdates) => { r with away := r.away.filter (fun x => !(x.2 == rank)), lost := true }
  sids.foldl State.closeUpdates { s with tables := { s.tables with updates := updWhere hit f s.tables.updates } }

/-- An update that another rank sent, or that came back to the rank it began on, is answered. -/
def State.answerUpdate (s : State) (own rank sid table row : Nat) (st : Status) : State :=
  if rank = own then s.noteAnswer sid row st else s.sendMsg rank .updateDone [sid, table, row, st.code]

/-- A write has been applied, or found its block DAMAGED: an UPDATE_ROWS of this sled is noted, that of another rank is answered. -/
def State.noteWrite (s : State) (w : WaitingWrite) (own : Nat) (ok : Bool) : State :=
  match w.origin with
  | some (r, sid) =>
    let row := w.key.getD 2 0
    let away := s.tables.updates.any fun x => x.sid == sid && x.away.any fun a => a.1 == row
    if r = own ∧ away = false then s.noteUpdate sid ok
    else s.answerUpdate own r sid (w.key.getD 1 0) row (if ok then .ok else .damaged)
  | none => s

/-- What a write puts there, from the bytes at the home. -/
def WaitingWrite.value (w : WaitingWrite) (old : Buf) : Buf :=
  match w.add with
  | none => w.bytes
  | some (fmt, dim) => addRow fmt dim (Buf.slice old w.offset (rowBytes fmt dim)) w.bytes

/-- The extents of a flash home that a run of bytes touches are written again (R165, R168). -/
def State.syncFlash (s : State) (id : W64) (off len : Nat) : State :=
  let b := s.homeBytes id
  s.storeExtents id false (((List.range ((off + len + 65535) / 65536 - off / 65536)).map (off / 65536 + ·)).map fun e => (e, Buf.slice b (65536 * e) (min 65536 (b.length - 65536 * e))))

/-- Apply a write at the home; a DAMAGED object takes none (R183). -/
def State.applyWrite (s : State) (w : WaitingWrite) (own : Nat) : State :=
  match s.home? w.objId with
  | some h =>
    if h.damaged then s.noteWrite w own false
    else
      let old := (assocGet w.objId s.tiers.bytes).getD []
      let new := w.value old
      let s := s.modTiers fun t => { t with bytes := assocSet w.objId (overlay old w.offset new) t.bytes }
      (if h.tier = .flash then s.syncFlash w.objId w.offset new.length else s).noteWrite w own true
  | none => s.noteWrite w own false

/-- A write reaches the engine: while a move copies, it waits for the flip (R172). -/
def State.writeHome (s : State) (w : WaitingWrite) (own : Nat) : State :=
  match s.home? w.objId with
  | some h => if h.inMotion then s.modTiers fun t => { t with writes := t.writes ++ [w] } else s.applyWrite w own
  | none => s.applyWrite w own

/-- The waiting writes of an object are applied in arrival order. -/
def State.applyWaitingWrites (s : State) (id : W64) : State :=
  let ws := s.tiers.writes.filter fun w => w.objId == id
  let s := s.modTiers fun t => { t with writes := t.writes.filter fun w => !(w.objId == id) }
  ws.foldl (fun s w => s.applyWrite w s.ownRank) s

/-- A pin can be granted: the field has room, and no explicit eviction, deferred or copying, holds new readers until its flip (R167, R174,
R175). -/
def Home.pinnable (h : Home) : Bool := decide (h.pins < 65535) && !(h.isExplicit && (h.evictPending || h.inMotion))

def State.pinnable (s : State) (id : W64) : Bool := match s.home? id with | some h => h.pinnable | none => true

/-- A pin is granted to a reader (R167, R174, R175). -/
def State.pin (s : State) (id : W64) : State :=
  if s.pinnable id then
    (s.modHome id fun h => { h with pins := h.pins + 1, referenced := h.referenced || h.evictPending }).modTiers fun t =>
      { t with pinOrder := t.pinOrder.filter (fun x => !(x == id)) ++ [id] }
  else s

/-! ### Moves (R172 to R176) -/

/-- Submissions that asked for the move that runs on the object. -/
def State.movers (s : State) (id : W64) : List (Option Nat) := (s.tiers.running.filter fun m => m.objId == id).map (·.sid)

/-- The move that runs on an object ends. -/
def State.endMove (s : State) (id : W64) (st : Status) : State :=
  (s.finishAll (s.movers id) st).modTiers fun t => { t with running := t.running.filter fun m => !(m.objId == id) }

/-- The rank that a peer's home address, or a peer destination, names (R189). -/
def homeRank (a : W64) : Nat := a.toNat / 2 ^ 48

/-- A move that cannot start ends; no eviction is pending any more (R176). -/
def State.refuseMove (s : State) (id : W64) (st : Status) : State :=
  (s.modHome id fun h => { h with evictPending := false, referenced := false, isExplicit := false, destTier := h.tier }).endMove id st

/-- The copy of a move starts: the destination is allocated (R172). -/
def State.startCopy (s : State) (h : Home) (tier : Tier) : State :=
  match tier with
  | .hbm =>
    match s.allocHbm (poolOf h.objId) h.bytes h.objId with
    | none => s.refuseMove h.objId .noResource
    | some (a, s) =>
      let s := if h.tier = .peer then s.sendMsg (homeRank h.addr) .holdBlock [h.objId.toNat] else s
      s.modHome h.objId fun h =>
        { h with dest := BitVec.ofNat 64 a, destTier := .hbm, inMotion := true, evictPending := false, referenced := false }
  | .peer =>
    let d := ((s.tiers.running.find? fun m => m.objId == h.objId).map (·.peer)).getD 0
    (s.sendMsg d .takeBlock (h.objId.toNat :: (s.homeBytes h.objId).map (·.toNat))).modHome h.objId fun h =>
      { h with dest := BitVec.ofNat 64 (d * 2 ^ 48), destTier := .peer, inMotion := true, evictPending := false, referenced := false }
  | .flash =>
    if 2 ≤ s.eol then s.refuseMove h.objId .readOnly
    else if (objectChannels h.objId false (extentsOf h.bytes)).any s.channelOut then s.refuseMove h.objId .mediaError
    else if !s.capacityFor ((s.movers h.objId).find? (·.isSome)).join (objectChannels h.objId false (extentsOf h.bytes)) then
      s.refuseMove h.objId .noResource
    else (s.storeObj h.objId false (extentsOf h.bytes) (s.homeBytes h.objId)).modHome h.objId fun h =>
      { h with dest := 0, destTier := tier, inMotion := true, evictPending := false, referenced := false }

/-- The move ends where the home is: at its tier, and on its rank for a peer. -/
def Home.isAt (h : Home) (tier : Tier) (peer : Nat) : Bool := decide (h.tier = tier) && (decide (tier ≠ .peer) || homeRank h.addr == peer)

/-- start_move: nothing to do at the same place; an eviction of a pinned home waits for its pins; else the copy starts. -/
def State.startMove (s : State) (id : W64) (tier : Tier) (peer : Nat) (explicit : Bool) : State :=
  match s.home? id with
  | none => s.endMove id .damaged
  | some h =>
    if h.damaged then s.endMove id .damaged
    else if h.isAt tier peer then s.endMove id .ok
    else if tier = .flash ∧ 0 < h.pins then
      s.modHome id fun h => { h with evictPending := true, isExplicit := explicit, referenced := false, destTier := tier }
    else s.startCopy h tier

/-- Two requests have the same destination: the tier, and for a peer its rank (R173). -/
def MoveReq.sameDest (a b : MoveReq) : Bool := decide (a.tier = b.tier) && a.peer == b.peer

/-- Distinct requests among those that wait on an object. -/
def distinctMoves (l : List MoveReq) : Nat := (nub (l.map fun x => (x.tier.code, x.peer))).length

/-- The first waiting move of an object and those that joined it start together (R173). -/
def State.nextMoveN : Nat → State → W64 → State
  | 0, s, _ => s
  | n + 1, s, id =>
    match s.home? id, s.tiers.moves.find? fun m => m.objId == id with
    | some h, some m =>
      if h.inMotion ∨ 0 < h.oldPins ∨ h.evictPending then s
      else
        let joined := s.tiers.moves.filter fun x => x.objId == id && x.sameDest m
        let rest := s.tiers.moves.filter fun x => !(x.objId == id && x.sameDest m)
        let s := s.modTiers fun t => { t with moves := rest, running := t.running ++ joined }
        let s := s.modHome id fun h => { h with waiters := distinctMoves (rest.filter fun x => x.objId == id) }
        State.nextMoveN n (s.startMove id m.tier m.peer (joined.any fun x => x.sid.isSome)) id
    | _, _ => s

def State.nextMove (s : State) (id : W64) : State := State.nextMoveN 16 s id

/-- A move request: it starts, waits, joins one that waits, or finds 15 waiting (R172, R173). -/
def State.requestMove (s : State) (id : W64) (tier : Tier) (peer : Nat) (sid : Option Nat) : State :=
  match s.home? id with
  | none => s
  | some h =>
    let m : MoveReq := { objId := id, tier := tier, peer := peer, sid := sid }
    if h.inMotion ∨ 0 < h.oldPins ∨ h.evictPending then
      let mine := s.tiers.moves.filter fun x => x.objId == id
      if mine.any m.sameDest ∨ h.waiters < 15 then
        let s := s.modTiers fun t => { t with moves := t.moves ++ [m] }
        s.modHome id fun h => { h with waiters := distinctMoves (m :: mine) }
      else
        match sid with
        | some k => s.failWith k .noResource
        | none => s
    else
      ((s.modTiers fun t => { t with running := t.running ++ [m] }).startMove id tier peer sid.isSome).nextMove id

/-- MOVE_OBJECT names a row block and HBM or flash; any other object is BAD_FIELD (R165, R172). -/
def execMoveObject (sid : Nat) (s : State) : Outcome :=
  .next (s.run sid 0x60 fun u s =>
    let id := u.entry.arg0
    let code := u.entry.arg1.toNat
    let dam := match s.home? id with | some h => h.damaged | none => false
    s.settle u
      (when (decide (objKind id ≠ 5) || (s.home? id).isNone || (decide (code ≠ 1) && decide (code ≠ 2))) .badField
        ++ when dam .damaged)
      fun s => (s.start u.sid).requestMove id (if code = 1 then .hbm else .flash) 0 (some u.sid))

/-- Free the old home of an object that has flipped and lost its last old pin; start the first waiting move. -/
def State.freeOld (s : State) (id : W64) : State :=
  match s.home? id with
  | none => s
  | some h =>
    if h.oldPins = 0 ∧ h.inMotion = false then
      let s := if h.destTier = .hbm then s.freeHbm (poolOf id) h.dest.toNat id
        else if h.destTier = .flash then s.eraseObj id else s
      (s.modHome id fun h => { h with dest := 0, destTier := h.tier }).nextMove id
    else s

/-- The flip of an object whose copy is complete: one write of the entry, then the waiting writes (R172). -/
def State.flip (s : State) (id : W64) : State :=
  let s := s.modHome id fun h =>
    { h with addr := h.dest, dest := h.addr, tier := h.destTier, destTier := h.tier, oldPins := h.pins, pins := 0
             version := h.version + 1, inMotion := false, isExplicit := false }
  ((s.applyWaitingWrites id).endMove id .ok).freeOld id

/-- MOVE_FLIP (R172). -/
def execMoveFlip (obj : W64) (s : State) : Outcome :=
  .next (match s.home? obj with
    | some h => if h.inMotion = true ∧ h.destTier ≠ .peer ∧ h.tier ≠ .peer then s.flip obj else s
    | none => s)

/-- The destination of a move that has not flipped is freed; a peer at its other end is told (R176, R199). -/
def State.freeDest (s : State) (h : Home) : State :=
  if h.inMotion = false then s
  else
    let s := if h.destTier = .peer then s.sendMsg (homeRank h.dest) .leaveBlock [h.objId.toNat]
      else if h.tier = .peer then s.sendMsg (homeRank h.addr) .leaveBlock [h.objId.toNat] else s
    if h.destTier = .hbm then s.freeHbm (poolOf h.objId) h.dest.toNat h.objId
    else if h.destTier = .flash then s.eraseObj h.objId else s

/-- A move is abandoned: the destination is freed, the home stays, the waiting writes are applied there (R176). -/
def State.abandonMove (s : State) (id : W64) (cause : Status) : State :=
  match s.home? id with
  | some h =>
    if h.inMotion then
      let s := (s.freeDest h).modHome id fun h => { h with inMotion := false, isExplicit := false, dest := 0, destTier := h.tier }
      ((s.applyWaitingWrites id).endMove id cause).nextMove id
    else s
  | none => s

/-- MOVE_ABANDON: a copy fails (R176, R199).  A block that its keeper fetches from here is moved by the keeper. -/
def execMoveAbandon (obj : W64) (cause : Status) (s : State) : Outcome :=
  .next (if (match s.home? obj with | some h => !h.guest | none => false) = true ∧ cause ∈ [.noResource, .readOnly, .mediaError, .damaged] then
      s.abandonMove obj cause
    else s)

/-- The HBM copy of a sealed object is released, at once or when its pins have reached 0 (R174). -/
def State.releaseCopy (s : State) (id : W64) : State :=
  match s.home? id with
  | none => s
  | some h =>
    if h.hbmCopy = false then s
    else if 0 < h.pins then s.modHome id fun h => { h with evictPending := true }
    else (s.freeHome h).modHome id fun h => { h with evictPending := false, hbmCopy := false, addr := 0, charged := 0 }

/-- The release of a sealed object's HBM copy, or an eviction, that waited for its pins (R174). -/
def State.resumeEviction (s : State) (h : Home) : State :=
  if h.sealedObj then s.releaseCopy h.objId
  else if h.referenced ∧ ¬ h.isExplicit then
    ((s.modHome h.objId fun h => { h with evictPending := false, referenced := false, destTier := h.tier }).endMove h.objId .ok).nextMove
      h.objId
  else (s.startCopy h .flash).nextMove h.objId

/-- A reader of the home releases its pin (R167, R174). -/
def State.unpin (s : State) (id : W64) : State :=
  match s.home? id with
  | none =>
    match s.tiers.homes.find? fun h => h.objId == id && decide (0 < h.pins) with
    | some h => (s.modTiers fun t => { t with homes := updWhere (fun x => x == h) (fun h => { h with pins := h.pins - 1 }) t.homes }).sweepHome
        { h with pins := h.pins - 1 }
    | none => s
  | some h =>
    if h.pins = 0 then s
    else
      let s := s.modHome id fun h => { h with pins := h.pins - 1 }
      if h.pins = 1 ∧ h.evictPending = true then s.resumeEviction { h with pins := 0 } else s

/-- A reader of the old home releases its pin (R167, R172). -/
def State.unpinOld (s : State) (id : W64) : State :=
  match s.home? id with
  | none =>
    match s.tiers.homes.find? fun h => h.objId == id && decide (0 < h.oldPins) with
    | some h => (s.modTiers fun t => { t with homes := updWhere (fun x => x == h) (fun h => { h with oldPins := h.oldPins - 1 }) t.homes }).sweepHome
        { h with oldPins := h.oldPins - 1 }
    | none => s
  | some h =>
    if h.oldPins = 0 then s
    else
      let s := s.modHome id fun h => { h with oldPins := h.oldPins - 1 }
      if h.oldPins = 1 then s.freeOld id else s

/-- PIN_RELEASE: a reader of the home, or of the old home, has delivered its last byte (R167, R172, R174). -/
def execPinRelease (obj : W64) (old : Bool) (s : State) : Outcome := .next (if old then s.unpinOld obj else s.unpin obj)

/-- A read that starts and ends within one event: it takes the pin and releases it; without a pin the reader waits, and nothing happens yet
(R167). -/
def State.pinned (s : State) (id : W64) (read : State → State) : State :=
  if s.pinnable id then (read (s.pin id)).unpin id else s

/-- Row blocks that may be evicted, least recently pinned first; a block never pinned comes first (R175).  A block whose keeper is another
rank is not evicted here (R189). -/
def State.evictable (s : State) : List Home :=
  let cands := s.tiers.homes.filter fun h =>
    objKind h.objId == 5 && !h.gone && !h.guest && decide (h.tier = .hbm) && h.pins == 0 && !h.inMotion && !h.evictPending && !h.damaged && h.oldPins == 0
  (cands.filter fun h => !s.tiers.pinOrder.contains h.objId)
    ++ s.tiers.pinOrder.filterMap fun id => cands.find? fun h => h.objId == id

/-- Blocks from the list until `need` bytes are covered. -/
def takeBytes : Nat → List Home → List Home
  | _, [] => []
  | need, h :: r => if need = 0 then [] else h :: takeBytes (need - granules h.bytes) r

/-- AUTOMATIC_EVICTION: above 95 % of the table pool's budget, until use falls to 90 % (R175); not after SHUTDOWN (R253). -/
def execAutomaticEviction (s : State) : Outcome :=
  .next (let held := s.tiers.held.table
    let budget := s.tiers.budget.table
    if 95 * budget < 100 * held ∧ s.sasel.shutdown = false ∧ s.flushing = false then
      (takeBytes (held - 90 * budget / 100) s.evictable).foldl (fun s h => s.requestMove h.objId .flash 0 none) s
    else s)

/-- An automatic promotion of a block whose home is on flash, when the table pool has room (R175). -/
def State.promote (s : State) (id : W64) : State :=
  match s.home? id with
  | some h => if h.tier = .flash ∧ h.damaged = false ∧ s.poolRoom poolTable h.bytes = true then s.requestMove id .hbm 0 none else s
  | none => s

/-! ### Sealed copies and errors in the tiers (R179 to R183) -/

/-- Requests that a DAMAGED centroid table or version directory ends: those on the index, or bound to the version (R182). -/
def Req.reads (r : Req) (x : Index) (ver : Option Nat) : Bool :=
  names r.block.indexHandle kindIndex x.gen x.index && (match ver with | some n => r.version == n | none => true)

/-- Mark an object DAMAGED and what follows for its owner: an image, a centroid table, a version directory with the requests that read it
(R182, R183). -/
def State.markDamaged (s : State) (id : W64) : State :=
  let s := s.modHome id fun h => { h with damaged := true }
  let img := { s.img with images := updWhere (fun i => i.objId == id) (fun i => { i with damaged := true }) s.img.images }
  let dirOf := fun (x : Index) (v : Version) => mkObj 2 (x.index + 64 * (x.gen + 256 * v.number))
  let idx := { s.idx with list := s.idx.list.map fun x =>
    { x with tableDamaged := x.tableDamaged || mkObj 1 (x.index + 64 * x.gen) == id
             versions := x.versions.map fun v => { v with dirDamaged := v.dirDamaged || dirOf x v == id } } }
  let hit := fun (r : Req) => s.idx.list.any fun x =>
    (mkObj 1 (x.index + 64 * x.gen) == id && r.reads x none) || x.versions.any fun v => dirOf x v == id && r.reads x (some v.number)
  let ans := { s.ans with reqs := updWhere (fun r => r.status.isNone && decide (r.stage ≠ .done) && hit r)
                                     (fun r => { r with status := some .damaged }) s.ans.reqs }
  { s with img := img, idx := idx, ans := ans }

/-- An extent of a sealed object stays uncorrectable after its rebuild: its HBM copy rewrites it, or the object is DAMAGED
and every waiting fetch ends so (R182). -/
def State.sealedLost (s : State) (id : W64) (copyIntact : Bool) : State :=
  match s.home? id with
  | some h => if h.hbmCopy && copyIntact then s else s.markDamaged id
  | none => s.markDamaged id

/-- Object ID of page n of the key-value pool of a binding (R147; log 24). -/
def kvObj (m : Model) (n : Nat) : W64 := mkObj 4 ((m.index + 64 * m.gen) * 2 ^ 40 + n)

/-- Bytes of a page: 16 tokens of one layer (R147). -/
def Image.pageBytes (im : Image) : Nat := 16 * im.header.kvBytes

/-- The pages of a binding's pool that a request holds are in the directory, one object each (R147, R166). -/
def State.addPages (s : State) (m : Model) (im : Image) (pages : List Nat) : State :=
  pages.foldl (fun s n => s.addHome
    { objId := kvObj m n, addr := BitVec.ofNat 64 (m.kvBase + n * im.pageBytes), lengthM1 := BitVec.ofNat 32 (ceilDiv im.pageBytes 64 - 1)
      tier := .hbm, destTier := .hbm, owner := mkHandle m.gen kindModel m.index }) s

/-- Pages of a binding's pool that no object holds, an object removed but still pinned among them (R148, R167). -/
def State.freePages (s : State) (m : Model) : List Nat :=
  (List.range m.kvPages).filter fun n => !s.tiers.homes.any fun h => h.objId == kvObj m n

/-- The binding and the page of a key-value object. -/
def State.pageOf (s : State) (id : W64) : Option (Model × Nat) :=
  (s.img.models.find? fun m => objKind id == 4 && id.toNat % 2 ^ 60 / 2 ^ 40 == m.index + 64 * m.gen).map fun m => (m, id.toNat % 2 ^ 40)

/-- The request holds the page. -/
def Req.holdsPage (r : Req) (m : Model) (n : Nat) : Bool := names r.block.genModel kindModel m.gen m.index && r.pages.contains n

/-- What a DAMAGED mutable object means to its owner (R183, R196, R224). -/
def State.ownerDamaged (s : State) (id : W64) : State :=
  if objKind id = 4 then
    match s.pageOf id with
    | some (m, n) =>
      { s with ans := { s.ans with reqs := updWhere (fun r => r.holdsPage m n) (fun r => { r with kvDamaged := true }) s.ans.reqs } }
    | none => s
  else if objKind id = 5 then
    let block := id.toNat % 2 ^ 44
    let hit := fun (t : Table) (v : TableVersion) => rowBlockObj t.index v.number block == id && !v.damaged.contains block
    let mark := fun (t : Table) => { t with versions := updWhere (hit t) (fun v => { v with damaged := v.damaged ++ [block] }) t.versions }
    { s with tables := { s.tables with list := s.tables.list.map mark } }
  else s

/-- A mutable object's home bytes cannot be read: DAMAGED; a move of it ends with that status, its destination freed, and so do the requests
that wait (R176, R183). -/
def State.mutableLost (s : State) (id : W64) : State :=
  let s := s.ownerDamaged id
  match s.home? id with
  | none => s
  | some h =>
    let s := (s.freeDest h).modHome id fun h =>
      { h with damaged := true, inMotion := false, evictPending := false, isExplicit := false
               dest := if h.inMotion then 0 else h.dest, destTier := if h.inMotion then h.tier else h.destTier }
    ((s.applyWaitingWrites id).endMove id .damaged).nextMove id

/-- A fetch of the object is in progress, or waits. -/
def State.staging (s : State) (id : W64) : Bool := s.tiers.fetches.any fun f => f.objId == id

/-- Fetches outstanding at a time; the rest of the list waits its turn (R180). -/
def fetchLimit : Nat := 1024

/-- A fetch of an extent of an object is in progress, or waits: a reader that needs one waits (R179, R181). -/
def State.fetching (s : State) (id : W64) (extents : List Nat) : Bool :=
  s.tiers.fetches.any fun f => f.objId == id && extents.contains f.extent

/-- A fetch of an extent of a sealed object, with more waiters (R179); a DAMAGED object is never fetched again (R182). -/
def State.fetchExtent (s : State) (id : W64) (e : Nat) (waiters : List Nat) : State :=
  if (match s.home? id with | some h => h.damaged | none => false) then s
  else if s.tiers.fetches.any fun f => f.objId == id && f.extent == e then
    s.modTiers fun t => { t with fetches := updWhere (fun f => f.objId == id && f.extent == e)
                                  (fun f => { f with waiters := f.waiters ++ waiters }) t.fetches }
  else s.modTiers fun t => { t with fetches := t.fetches ++ [{ objId := id, extent := e, waiters := waiters }] }

/-- Granules of an allocation, each by its first address. -/
def granulesOf (base len : Nat) : List Nat := (List.range (ceilDiv len granuleBytes)).map fun i => base + granuleBytes * i

/-- Extents of an allocation that have a granule for which `p` holds. -/
def extentsWhere (p : Nat → Bool) (base len : Nat) : List Nat :=
  (List.range (extentsOf len)).filter fun e => (granulesOf (base + 65536 * e) (min 65536 (len - 65536 * e))).any p

end Sys2Proof.Machine
end

