-- ==== Sys2Proof/Machine/Picks.lean ====
section
/-! DEFINITION. Picks as data (chapters 4 and 5): the descriptor, its checks, the shuttle, tile partials, the beater
program, outputs, the range monitor's counts, and pick times. -/

namespace Sys2Proof.Machine

open Sys2Proof

/-! ### The descriptor (R92) -/

/-- A pick descriptor from 128 bytes (table *Pick descriptor*). -/
def parsePick (b : Buf) : Pick :=
  let v := Buf.le b 0 128
  let f := fun lo n => bitsOf v lo n
  let mode := f 8 2
  let window := f 284 1 + f 285 7 + f 277 7 + f 292 4 + f 296 4 + f 300 3 + f 303 3 + f 306 3 + f 309 3 + f 312 4 + f 316 4
    + f 192 64
  { sRStride := f 808 24, sHbm := f 704 64, epiAddr := f 678 26, pBase := f 654 24, oTcol := f 648 6, oBstep := f 642 6
    waitKnot := f 625 15, waitEn := f 624 1 == 1, sigKnot := f 609 15, sigEn := f 608 1 == 1, waitCount := f 576 32
    rmThresh := f 544 32, rgAddr := f 518 26, rgCount := f 512 6 + 1, wideAddr := f 455 57 * 128, wideN := f 448 4 + 1
    oHbm := f 384 64, oBase := f 360 24, oRStride := f 336 24, oTier := f 334 2, oFmt := f 330 4
    kh := f 316 4 + 1, kw := f 312 4 + 1, sh := f 309 3 + 1, sw := f 306 3 + 1, dh := f 303 3 + 1, dw := f 300 3 + 1
    pt := f 296 4, pl := f 292 4, cbCount := f 285 7 + 1, padZp := BitVec.ofNat 8 (f 277 8)
    inH := f 240 16, inW := f 224 16, outH := f 208 16, outW := f 192 16, aRStride := f 168 24, idxAddr := f 142 26
    wAddr := f 104 24, aBase := f 80 24, layerId := BitVec.ofNat 16 (f 64 16), rows := f 32 32 + 1, epiCount := f 27 5
    yieldPt := f 23 1 == 1, wTranspose := f 22 1 == 1, wReuse := f 21 1 == 1, rowBcast := f 20 1 == 1
    paneNt := f 17 3, paneKt := f 14 3, ctxSlot := f 10 4, aMode := mode, fmtW := f 4 4, fmtA := f 0 4
    rsv := decide (f 832 192 ≠ 0) || decide (f 768 40 ≠ 0) || decide (f 640 2 ≠ 0) || decide (f 452 3 ≠ 0)
      || decide (f 320 10 ≠ 0) || decide (f 256 21 ≠ 0) || decide (f 128 14 ≠ 0) || decide (f 24 3 ≠ 0)
      || (decide (mode ≠ 1) && decide (window ≠ 0)) || (decide (mode ≠ 2) && decide (f 142 26 ≠ 0)) }

def Pick.kt (p : Pick) : Nat := 2 ^ p.paneKt
def Pick.nt (p : Pick) : Nat := 2 ^ p.paneNt
def Pick.bands (p : Pick) : Nat := 64 / p.kt
def Pick.paneCols (p : Pick) : Nat := 64 / p.nt
def Pick.panes (p : Pick) : Nat := p.bands * p.paneCols
/-- Pane width in columns (R84). -/
def Pick.width (p : Pick) : Nat := 32 * p.nt

/-- Both operands are 4-bit: a tile row covers 64 elements of K (R91). -/
def Pick.dense (p : Pick) : Bool := fmtIs4 p.fmtA && fmtIs4 p.fmtW
def Pick.perRow (p : Pick) : Nat := if p.dense then 64 else 32
/-- Reduction depth K_p. -/
def Pick.depth (p : Pick) : Nat := p.perRow * p.kt
def Pick.integer (p : Pick) : Bool := decide (fmtClass p.fmtA = 0)

/-- Bytes of one input slice: elements, and the scale unit of a block-scaled format (R91, R116). -/
def Pick.sliceBytes (p : Pick) : Nat := if fmtClass p.fmtA = 2 then 64 else 32
def Pick.slotBytes (p : Pick) : Nat := p.sliceBytes + (if fmtScaled p.fmtA then 32 else 0)

/-- Blocks of one weight column within a tile row, and scale-block bytes (R117). -/
def Pick.wBlocks (p : Pick) : Nat :=
  if p.fmtW = codeBq4 then (if p.dense then 4 else 2) else if fmtScaled p.fmtW then (if p.dense then 2 else 1) else 0
def Pick.wScaleBytes (p : Pick) : Nat := 32 * p.wBlocks + (if p.fmtW = codeBq4 then 128 else 0)

/-- Bytes of a weight block, elements and scales (R95, R117). -/
def Pick.weightBytes (p : Pick) : Nat :=
  if fmtClass p.fmtW = 2 then 2048 else if fmtScaled p.fmtW then 0x400 + p.wScaleBytes else 1024

/-- A unit of a block set: padded to a multiple of 64 B (R170). -/
def Pick.unitBytes (p : Pick) : Nat := ceilDiv p.weightBytes 64 * 64

/-! ### The beater program (R102, R103) -/

/-- A beater operation. -/
structure BOp where
  op : Nat
  poff : Nat
  imm : W32
  deriving DecidableEq, Repr

def parseBOp (b : Buf) : BOp :=
  { op := Buf.le b 7 1, poff := Buf.le b 4 3, imm := BitVec.ofNat 32 (Buf.le b 0 4) }

/-- The operations at an offset of control cluster SRAM. -/
def parseProgram (bytes : Buf) (n : Nat) : List BOp := (List.range n).map fun i => parseBOp (Buf.slice bytes (8 * i) 8)

/-- What the value is before an operation: an integer, or FP32; `none` for an invalid program (R103).  DESIGN CHOICE (log 92): a
REQUANT before the last operation is invalid, and so is an INT32 S stream on an FP32 y. -/
def stepKind (oFmt : Nat) (isLast : Bool) (k : Option Bool) (o : BOp) : Option Bool :=
  match k with
  | none => none
  | some int =>
    let fp := if int then none else some false
    match o.op with
    | 0x01 => if int then some true else none
    | 0x02 => some false
    | 0x03 | 0x04 | 0x09 | 0x0B | 0x0C | 0x0D | 0x08 => fp
    | 0x05 => if o.imm.toNat % 256 ≤ 6 then fp else none
    | 0x06 =>
      let sf := o.imm.toNat % 16
      if sf = codeInt32 then (if int then some true else none) else if sf = codeFp32 then fp else none
    | 0x07 => if o.imm.toNat % 16 = codeFp32 then fp else none
    | 0x0A => if isLast then fp else none
    | 0x0E =>
      if isLast ∧ fmtClass oFmt < 3 ∧ (oFmt = codeInt8 ∨ oFmt = codeInt4 ∨ o.poff % 256 = 0) then some int else none
    | 0x0F => if isLast ∧ 1 ≤ o.imm.toNat ∧ o.imm.toNat ≤ 1024 then some int else none
    | _ => none

def progKind (oFmt : Nat) : Option Bool → List BOp → Option Bool
  | k, [] => k
  | k, o :: r => progKind oFmt (stepKind oFmt r.isEmpty k o) r

/-- The last operation's code; 0 for an empty program. -/
def lastOp (ops : List BOp) : Nat := (ops.getLast?.map (·.op)).getD 0

/-- The program is valid for the class of the pair and the output format (R103, R124). -/
def progOk (integer : Bool) (oFmt : Nat) (ops : List BOp) : Bool :=
  match progKind oFmt (some integer) ops with
  | none => false
  | some int =>
    if lastOp ops = 0x0E ∨ lastOp ops = 0x0A ∨ lastOp ops = 0x0F then true
    else if int then decide (oFmt = codeInt32) else decide (oFmt = codeFp32)

/-- The program reads the S stream: ADDS, MULS or SMAPPLY (R92). -/
def readsS (ops : List BOp) : Bool := ops.any fun o => o.op == 0x06 || o.op == 0x07 || o.op == 0x0B

/-- The last operation writes 4-byte values in place of O_FMT: SMSTAT two of them, SELECT a value and a column for each of L
(R103). -/
def writesWords (ops : List BOp) : Bool := lastOp ops == 0x0A || lastOp ops == 0x0F

/-- Output element size in bits (R103, R105). -/
def Pick.outBits (p : Pick) (ops : List BOp) : Nat := if writesWords ops then 32 else fmtBits p.oFmt

/-- Output elements of a pane row. -/
def Pick.outLen (p : Pick) (ops : List BOp) : Nat :=
  if lastOp ops = 0x0A then 2
  else if lastOp ops = 0x0F then 2 * (((ops.getLast?).map fun o => o.imm.toNat).getD 0)
  else p.width

/-- Latency of an operation in cycles (table *Beater operations*). -/
def opLatency (op : Nat) : Nat :=
  match op with
  | 0x01 | 0x03 | 0x06 | 0x07 | 0x0E => 2
  | 0x02 | 0x04 | 0x08 => 1
  | 0x05 => 3
  | 0x09 | 0x0D => 24
  | 0x0A | 0x0F => 16
  | 0x0B => 6
  | 0x0C => 20
  | _ => 0

/-! ### Pick times (R91, R101, R107, R116) -/

/-- Cycles per row p_eff. -/
def Pick.pEff (p : Pick) (ops : List BOp) : Nat :=
  let base := if fmtClass p.fmtA = 2 then 4 else 1
  let b := p.slotBytes
  let psh := if p.aMode = 1 then ceilDiv (p.kh * p.sw * b) 64 else ceilDiv b 64
  let e := ceilDiv (p.outBits ops) 8
  let pout := if p.oTier = 0 then max 1 e else 1
  max (max base (ceilDiv 8 p.kt)) (max psh pout)

/-- ΣL_line: the line penalty each time ow is 0. -/
def Pick.lines (p : Pick) : Nat :=
  if p.aMode = 1 ∧ 0 < p.outW then
    ceilDiv (((p.kw - 1) * p.dw + 1) * p.kh * p.slotBytes) 64 * ceilDiv p.rows p.outW
  else 0

/-- T of R107 in A-clock cycles. -/
def Pick.cycles (p : Pick) (ops : List BOp) : Nat :=
  (p.rows - 1) * p.pEff ops + p.kt + p.nt + 72 + (6 + sumOf (ops.map fun o => opLatency o.op)) + p.lines

/-! ### Checks (R91, R93, R94, R115, R116, R117, R128) -/

/-- Format codes and pairing. -/
def Pick.formatsOk (p : Pick) : Bool :=
  decide (fmtClass p.fmtA < 3) && decide (fmtClass p.fmtW = fmtClass p.fmtA) && decide (p.oFmt ≤ 0xC)
    && (!fmtIs4 p.fmtA || fmtIs4 p.fmtW) && (!p.wTranspose || !fmtScaled p.fmtW)
    && (!fmtScaled p.fmtA || decide (64 ≤ p.aRStride))
    && (p.integer || p.padZp == 0) && (decide (fmtClass p.fmtA ≠ 2) || p.wideAddr == 0)

/-- Codes, alignments and the window's tile rows. -/
def Pick.shapeOk (p : Pick) : Bool :=
  !p.rsv && decide (p.aMode ≤ 2) && decide (p.oTier ≤ 2) && decide (p.paneKt ≤ 6) && decide (p.paneNt ≤ 6)
    && decide (1 ≤ p.rows) && decide (p.epiCount ≤ 16) && decide (p.aRStride % 32 = 0) && decide (p.aBase % 32 = 0)
    && decide (p.wAddr % 64 = 0) && decide (p.epiAddr % 8 = 0) && decide (p.rgAddr % 16 = 0) && decide (p.idxAddr % 4 = 0)
    && (decide (p.aMode ≠ 1) || (decide (p.cbCount * p.kh * p.kw ≤ p.kt) && decide (1 ≤ p.inH) && decide (1 ≤ p.inW)
          && decide (1 ≤ p.outH) && decide (1 ≤ p.outW)))

/-- Output tile columns of the bands are distinct (R105). -/
def Pick.columnsOk (p : Pick) : Bool :=
  decide (p.oTier ≠ 0) || decide ((List.range p.bands).map (fun g => (p.oTcol + g * p.oBstep) % 64)).Nodup

/-- Images of a WINDOW2D pick. -/
def Pick.imgs (p : Pick) : Nat := ceilDiv p.rows (max 1 (p.outH * p.outW))

/-- First byte after the input region; a GATHER row is checked as the shuttle reaches it (R99). -/
def Pick.inputEnd (p : Pick) : Nat :=
  match p.aMode with
  | 0 => p.aBase + (p.rows - 1) * p.aRStride + p.slotBytes
  | 1 => p.aBase + (p.imgs * p.inH * p.inW - 1) * p.aRStride + p.slotBytes
  | _ => p.aBase + p.slotBytes

/-- Bytes of one output row in a tile: at most 32 elements, or the element unit and the scale unit of a block-scaled format
(R105, R116, R125). -/
def Pick.outRun (p : Pick) (ops : List BOp) : Nat :=
  if fmtScaled p.oFmt && !writesWords ops then 64 else ceilDiv (min 32 (p.outLen ops) * p.outBits ops) 8

def Pick.outputEnd (p : Pick) (ops : List BOp) : Nat :=
  if p.oTier = 0 then p.oBase + (p.rows - 1) * p.oRStride + p.outRun ops else 0

/-- First byte after the parameters of the program. -/
def Pick.paramEnd (p : Pick) (ops : List BOp) : Nat :=
  maxOf (ops.map fun o =>
    if o.op = 0x0E ∨ o.poff = 0xFFFFFF then 0
    else match o.op with
      | 0x01 | 0x03 | 0x04 | 0x0C => p.pBase + o.poff + 4 * p.width
      | 0x0D => p.pBase + o.poff + 8 * p.width
      | _ => 0)

/-- Every tile SRAM region ends at or below 0x18_0000. -/
def Pick.regionsOk (p : Pick) (ops : List BOp) : Bool :=
  decide (p.inputEnd ≤ tileBytes) && decide (p.wAddr + p.weightBytes ≤ tileBytes) && decide (p.outputEnd ops ≤ tileBytes)
    && decide (p.paramEnd ops ≤ tileBytes)

/-- Two row groups share a row and a pane. -/
def RowGroup.meets (a b : RowGroup) : Bool :=
  decide (a.firstRow < b.firstRow + b.rowCount) && decide (b.firstRow < a.firstRow + a.rowCount)
    && decide (a.firstPane < b.firstPane + b.paneCount) && decide (b.firstPane < a.firstPane + a.paneCount)

def pairwiseApart : List RowGroup → Bool
  | [] => true
  | g :: r => r.all (fun h => !g.meets h) && pairwiseApart r

/-- A row group entry from 16 bytes, and its bytes (table *Row group entry*). -/
def parseGroup (b : Buf) : RowGroup :=
  let v := Buf.le b 0 16
  { firstRow := bitsOf v 96 32, rowCount := bitsOf v 64 32, firstPane := bitsOf v 48 16, paneCount := bitsOf v 32 16, tag := bitsOf v 0 8
    rsv := decide (bitsOf v 8 24 ≠ 0) }

def RowGroup.bytes (g : RowGroup) : Buf :=
  leBytes 16 (bitsOf g.firstRow 0 32 * 2 ^ 96 + bitsOf g.rowCount 0 32 * 2 ^ 64 + bitsOf g.firstPane 0 16 * 2 ^ 48
    + bitsOf g.paneCount 0 16 * 2 ^ 32 + g.rsv.toNat * 2 ^ 8 + bitsOf g.tag 0 8)

/-- The row group table of a pick, in control cluster SRAM at RG_ADDR (R94). -/
def State.rowGroups (s : State) (p : Pick) : List RowGroup :=
  (List.range p.rgCount).map fun i => parseGroup (s.mems.cc.readBytes (p.rgAddr + 16 * i) 16)

/-- The row group table is in order (R94). -/
def groupsOk (n : Nat) (l : List RowGroup) : Bool :=
  decide (l.length = n) && l.all (fun g => !g.rsv && decide (1 ≤ g.rowCount) && decide (1 ≤ g.paneCount)) && pairwiseApart l

/-- What R93 checks without the context: also what LOAD_IMAGE checks (R137). -/
def Pick.wellFormed (p : Pick) (ops : List BOp) : Bool :=
  p.formatsOk && p.shapeOk && p.columnsOk && p.regionsOk ops && progOk p.integer p.oFmt ops && (readsS ops || decide (p.sHbm = 0))

/-- The later pick keeps the shape of the earlier (R96). -/
def Pick.sameShape (p q : Pick) : Bool :=
  p.paneKt == q.paneKt && p.paneNt == q.paneNt && p.fmtA == q.fmtA && p.fmtW == q.fmtW

/-! ### The shuttle (R98 to R101, R112, R116) -/

/-- One activation or weight element with its scales applied or not: the value, and the scale of its block. -/
structure Scaled where
  v : Num
  scale : Num
  deriving DecidableEq, Repr

def numOne : Num := .fin false 1 0

def Scaled.value (x : Scaled) : Num := x.v.mul x.scale

/-- Element k's code in a run of packed elements (R112). -/
def packedCode (fmt : Nat) (b : Buf) (k : Nat) : Nat :=
  if fmtIs4 fmt then bitsOf (Buf.at b (k / 2)).toNat (4 * (k % 2)) 4
  else if fmtClass fmt = 2 then Buf.le b (2 * k) 2
  else (Buf.at b k).toNat

/-- The scale of element k of an activation slice from its scale unit (table *Scale unit*). -/
def actScale (fmt : Nat) (unit : Buf) (k : Nat) : Num :=
  if fmt = codeBq4 then (bq4Scale (Buf.at unit (k / 16)).toNat).mul (bq4Group (BitVec.ofNat 32 (Buf.le unit 4 4)))
  else if fmtScaled fmt then e8m0Num (Buf.at unit (k / 32)).toNat
  else numOne

/-- Where the shuttle reads tile row t's slice of row r: the offset and the tile row of the band that holds it; none for
padding (R98 to R100).  `idx` is the GATHER list. -/
def Pick.slice (p : Pick) (idx : Nat → Nat) (r t : Nat) : Option (Nat × Nat) :=
  match p.aMode with
  | 0 => some (p.aBase + r * p.aRStride, t)
  | 2 => some (p.aBase + idx r * p.aRStride, t)
  | _ =>
    let hw := p.outH * p.outW
    let img := r / hw
    let rr := r % hw
    let tau := t / p.cbCount
    let cb := t % p.cbCount
    let ih : Int := (rr / p.outW * p.sh + tau / p.kw * p.dh : Nat) - (p.pt : Int)
    let iw : Int := (rr % p.outW * p.sw + tau % p.kw * p.dw : Nat) - (p.pl : Int)
    if p.kh * p.kw ≤ tau ∨ ih < 0 ∨ (p.inH : Int) ≤ ih ∨ iw < 0 ∨ (p.inW : Int) ≤ iw then none
    else some (p.aBase + ((img * p.inH + ih.toNat) * p.inW + iw.toNat) * p.aRStride, cb)

/-- The padding element: PAD_ZP for integer pairs, +0 otherwise (R100). -/
def Pick.padElem (p : Pick) : Scaled :=
  if p.integer then { v := (Dyad.mk (signedOf 8 p.padZp.toNat) 0).num, scale := numOne } else { v := .fin false 0 0, scale := numOne }

/-- The GATHER list in control cluster SRAM. -/
def State.gatherIdx (s : State) (p : Pick) (r : Nat) : Nat := Buf.le (s.mems.cc.readBytes (p.idxAddr + 4 * r) 4) 0 4

/-- The row source column of a pane (R88). -/
def Pick.sourceCol (p : Pick) (q : Nat) : Nat := if p.rowBcast then 0 else q % p.paneCols * p.nt

/-- The input elements of tile row t of pane q's band for row r. -/
def State.inputs (s : State) (p : Pick) (q r t : Nat) : List Scaled :=
  let n := if p.dense then 64 else if fmtIs4 p.fmtA then 64 else 32
  match p.slice (s.gatherIdx p) r t with
  | none => List.replicate n p.padElem
  | some (off, t') =>
    let a := s.tileAddr (q / p.paneCols * p.kt + t') (p.sourceCol q) off
    let b := s.mems.tile.readBytes a p.sliceBytes
    let u := if fmtScaled p.fmtA then s.mems.tile.readBytes (a + p.sliceBytes) 32 else []
    (List.range n).map fun k => { v := elemNum p.fmtA (packedCode p.fmtA b k), scale := actScale p.fmtA u k }

/-! ### Weights (R95, R112, R117) -/

/-- The bytes of a weight block that carry elements (R95). -/
def Pick.elemBytes (p : Pick) : Nat := if fmtClass p.fmtW = 2 then 2048 else 1024

/-- Every tile loads its block at an offset of its SRAM, transposed or not: a weight set (R95). -/
def State.loadSet (s : State) (base len : Nat) (trans : Bool) : WeightSet :=
  { base := base, trans := trans
    cells := s.mems.tile.filter fun c => decide (base ≤ c.1 % tileBytes) && decide (c.1 % tileBytes < base + len) }

/-- The set that a pick loads from its own W_ADDR. -/
def State.ownSet (s : State) (p : Pick) : WeightSet := s.loadSet p.wAddr p.weightBytes p.wTranspose

/-- The code of weight (k, n) of a block; transposed, element (n, k) as stored.  A 4-bit pair's block is 64 × 32 as stored; transposed
it is taken as 32 rows of 64 elements (DESIGN CHOICE, log 92). -/
def Pick.weightCode (p : Pick) (trans : Bool) (b : Buf) (k n : Nat) : Nat :=
  let i := if trans then n else k
  let j := if trans then k else n
  let w := if trans ∧ p.dense then 64 else 32
  packedCode p.fmtW b (w * i + j)

/-- Its scale: the block scale of column n, and for BQ4 the column's G (R117). -/
def Pick.weightScale (p : Pick) (sb : Buf) (k n : Nat) : Num :=
  if p.fmtW = codeBq4 then
    (bq4Scale (Buf.at sb (n * p.wBlocks + k / 16)).toNat).mul (bq4Group (BitVec.ofNat 32 (Buf.le sb (32 * p.wBlocks + 4 * n) 4)))
  else if fmtScaled p.fmtW then e8m0Num (Buf.at sb (n * p.wBlocks + k / 32)).toNat
  else numOne

/-- Weight (k, n) of the tile at a tile row and logical column, from the tiles' active set. -/
def State.weight (s : State) (p : Pick) (w : WeightSet) (row col k n : Nat) : Scaled :=
  let a := s.tileAddr row col w.base
  let b := w.cells.readBytes a p.elemBytes
  let sb := if fmtScaled p.fmtW then w.cells.readBytes (a + 0x400) p.wScaleBytes else []
  { v := elemNum p.fmtW (p.weightCode w.trans b k n), scale := p.weightScale sb k n }

/-! ### Accumulators (R89, R118 to R120) -/

/-- A value in the beaters: an exact integer, or FP32; and whether a step of its element saturated (R127). -/
inductive Y
  | int (v : Int)
  | fp (v : W32)
  deriving DecidableEq, Repr

structure El where
  y : Y
  sat : Bool := false
  deriving DecidableEq, Repr

/-- Elements of a block of R119: 16 where an operand is BQ4, 32 where one has E8M0 scales, else the whole tile row. -/
def Pick.blockLen (p : Pick) : Nat :=
  if p.fmtA = codeBq4 ∨ p.fmtW = codeBq4 then 16 else if fmtScaled p.fmtA || fmtScaled p.fmtW then 32 else p.perRow

/-- Split into runs of `n`. -/
def chunksOf {α : Type} (n : Nat) : Nat → List α → List (List α)
  | 0, _ => []
  | k + 1, l => match l with
    | [] => []
    | _ => l.take n :: chunksOf n k (l.drop n)

/-- The exact sum of a block's element products, before scaling (R119); NaN and infinities as R120 gives. -/
def blockSum (b : List (Scaled × Scaled)) : Num := b.foldl (fun acc p => acc.add (p.1.v.mul p.2.v)) (.fin false 0 0)

/-- The smallest product unit that occurs in a block, as a power of two (R119). -/
def productUnit (b : List (Scaled × Scaled)) : Int :=
  match b.map fun p => p.1.v.dyad.e + p.2.v.dyad.e with
  | [] => 0
  | e :: r => r.foldl min e

/-- S_b: the block's sum as an integer count of the smallest product unit (R119). -/
def sumUnits (b : List (Scaled × Scaled)) : Int := (blockSum b).dyad.units (productUnit b)

/-- The residue modulo 7 of an integer. -/
def residue7 (v : Int) : Nat := (v % 7).toNat

/-- The mod-7 prediction: from the element significands as integers, and the power of two that aligns each product to the smallest
product unit (R121). -/
def predict7 (unit : Int) (b : List (Scaled × Scaled)) : Nat :=
  b.foldl (fun acc p =>
    let x := p.1.v.dyad
    let w := p.2.v.dyad
    (acc + residue7 x.m * residue7 w.m * 2 ^ (((x.e + w.e - unit) % 3).toNat)) % 7) 0

/-- The sum of a tile row, each block sum times the product of its scales, `bad` giving a block sum that left the tile in error; zero
is +0 (R119, R120). -/
def partialNum (len : Nat) (bad : Nat → Option Int) (xs ws : List Scaled) : Num :=
  let blocks := chunksOf len (xs.length + 1) (xs.zip ws)
  let t := blocks.zipIdx.foldl (fun acc b =>
    let s := match bad b.2 with | some v => ({ m := v, e := productUnit b.1 } : Dyad).num | none => blockSum b.1
    let scale := match b.1 with | p :: _ => p.1.scale.mul p.2.scale | [] => numOne
    acc.add (s.mul scale)) (.fin false 0 0)
  if t.isZero then .fin false 0 0 else t

/-- The INT32 accumulator of one output: tile partials added exactly (R118). -/
def accumulateInt (rows : List (List Scaled × List Scaled)) : Int :=
  rows.foldl (fun a r => (r.1.zip r.2).foldl (fun b p => b + p.1.v.dyad.m * p.2.v.dyad.m) a) 0

/-- The FP32 accumulator of one output: tile partials added from north to south (R89, R119, R120); `bad` as in `partialNum`, by tile
row. -/
def accumulateFp (len : Nat) (bad : Nat → Nat → Option Int) (rows : List (List Scaled × List Scaled)) : El :=
    rows.zipIdx.foldl (fun a r =>
      match a.y with
      | .fp v =>
        let x := partialNum len (bad r.2) r.1.1 r.1.2
        let f := x.toFp
        let v' := fpAdd v f
        let beyond := (!x.isInf && !x.isNan && fpIsInf f) || fpOver [v, f] v'
        { y := .fp v', sat := a.sat || beyond }
      | y => { y := y, sat := a.sat }) { y := .fp 0#32 }

/-- The operands of the accumulator of row r, column m of pane q, by tile row of the band. -/
def State.operands (s : State) (p : Pick) (w : WeightSet) (inp : Nat → Nat → Nat → List Scaled) (q r m : Nat) : List (List Scaled × List Scaled) :=
  let band := q / p.paneCols
  let col := q % p.paneCols * p.nt + m / 32
  (List.range p.kt).map fun t =>
    ((inp q r t).take p.perRow, (List.range p.perRow).map fun k => s.weight p w (band * p.kt + t) col k (m % 32))

/-- An input row as a pick sees it: by pane, row and tile row of the band. -/
abbrev InputFn := Nat → Nat → Nat → List Scaled

/-- The accumulator of row r, column m of pane q, as it leaves the array: a sum in error has the value the fault gives. -/
def State.accOf (s : State) (p : Pick) (w : WeightSet) (inp : InputFn) (faults : List ArrayFault) (q r m : Nat) : El :=
  let here := faults.filter fun x => x.pane == q && x.row == r && x.col == m
  let rows := s.operands p w inp q r m
  if p.integer then { y := .int (match here with | x :: _ => x.value | [] => accumulateInt rows) }
  else accumulateFp p.blockLen (fun t b => (here.find? fun x => x.tileRow == t && x.block == b).map (·.value)) rows

/-- The residue checker of the fault's column compares the residue of what left with its prediction: they differ (R109, R121).  A block
with a NaN or an infinity has no integer sum and is not compared. -/
def State.caught (s : State) (p : Pick) (w : WeightSet) (inp : InputFn) (x : ArrayFault) : Bool :=
  let rows := s.operands p w inp x.pane x.row x.col
  let blocks := if p.integer then rows.map fun r => r.1.zip r.2
    else match rows[x.tileRow]? with
      | some r => ((chunksOf p.blockLen (r.1.length + 1) (r.1.zip r.2))[x.block]?).toList
      | none => []
  let unit := match blocks with | [b] => if p.integer then 0 else productUnit b | _ => 0
  blocks.all (fun b => b.all fun e => !e.1.v.isNan && !e.1.v.isInf && !e.2.v.isNan && !e.2.v.isInf)
    && decide (sumOf (blocks.map (predict7 unit)) % 7 ≠ residue7 x.value)

/-- The logical columns on which a check finds a mismatch. -/
def State.mismatched (s : State) (p : Pick) (w : WeightSet) (inp : InputFn) (faults : List ArrayFault) : List Nat :=
  nub ((faults.filter fun x => decide (x.pane < p.panes ∧ x.row < p.rows ∧ x.col < p.width) && s.caught p w inp x).map fun x =>
    x.pane % p.paneCols * p.nt + x.col / 32)

/-- The shuttle's sum of the band's K_p input elements (R101). -/
def sumX (p : Pick) (inp : InputFn) (q r : Nat) : Int :=
  ((List.range p.kt).map fun t => ((inp q r t).take p.perRow).foldl (fun a x => a + dyadRne x.v.dyad) 0).foldl (· + ·) 0

/-! ### The beaters (R103, R104, R122, R126) -/

/-- What an operation reads besides the value: parameters by column, the S stream, sum(x), row and depth. -/
structure BEnv where
  param : Nat → Nat → W32
  sElem : Nat → W32
  sumx : Int
  row : Nat
  depth : Nat
  width : Nat

def El.fp (e : El) : W32 := match e.y with | .fp v => v | .int v => fpOfInt v
def El.int (e : El) : Int := match e.y with | .int v => v | .fp _ => 0

/-- One FP32 step: the result, and whether it overflowed. -/
def El.step (e : El) (args : List W32) (r : W32) : El := { y := .fp r, sat := e.sat || fpOver args r }

/-- A chain of binary steps y ← f(y, x). -/
def El.mulBy (e : El) (x : W32) : El := e.step [e.fp, x] (fpMul e.fp x)
def El.addBy (e : El) (x : W32) : El := e.step [e.fp, x] (fpAdd e.fp x)
def El.divBy (e : El) (x : W32) : El := if fpIsNan x || x &&& 0x7FFFFFFF#32 == 0 then { e with y := .fp (fpDiv e.fp x) } else e.step [e.fp, x] (fpDiv e.fp x)
def El.subBy (e : El) (x : W32) : El := e.step [e.fp, x] (fpSub e.fp x)

/-- GELU, tanh form, and the erf form (table *Composite operations*). -/
def El.geluTanh (e : El) : El :=
  let y := e.fp
  let u := ((((e.mulBy y).mulBy y).mulBy cGelu1).addBy y).mulBy cGelu0
  (((({ u with y := .fp (fpTanh u.fp) } : El).addBy fpOne).mulBy y).mulBy fpHalf)

def El.geluErf (e : El) : El :=
  let y := e.fp
  let u := e.mulBy cGelu2
  (((({ u with y := .fp (fpErf u.fp) } : El).addBy fpOne).mulBy y).mulBy fpHalf)

/-- ACT by its code. -/
def El.act (e : El) (code : Nat) : El :=
  let y := e.fp
  match code with
  | 0 => { e with y := .fp (if fpIsNan y then nan32 else if y.msb then 0#32 else y) }
  | 1 => e.geluTanh
  | 2 => e.geluErf
  | 3 => e.mulBy (fpSigmoid y)
  | 4 => { e with y := .fp (fpSigmoid y) }
  | 5 => { e with y := .fp (fpTanh y) }
  | _ => e.step [y] (fpExp y)

/-- The order key of a value for SELECT; where a NaN stands is not stated (log 26). -/
def selKey : Y → Num
  | .int v => (Dyad.mk v 0).num
  | .fp v => match fpNum v with | .nan => fpNum ((Config.word 1).truncate 32) | x => x

/-- The L largest of a pane row with their logical columns, ties by column ascending (SELECT). -/
def selectTop (n : Nat) (l : List (El × Nat)) : List (El × Nat) :=
  (sortBy (fun a b => !(selKey a.1.y).lt (selKey b.1.y)) l).take n

/-- N_p as FP32. -/
def fpNat (n : Nat) : W32 := fpOfInt n

/-- Operations over each element of a pane row, with its column m.  DESIGN CHOICE (log 92): BIAS, RMSNORM and LNORM without a parameter
(POFF 0xFF_FFFF) skip it, as SCALE does. -/
def elementOp (o : BOp) (v : BEnv) (m : Nat) (e : El) : El :=
  match o.op with
  | 0x01 =>
    let zx := signedOf 8 (bitsOf o.imm.toNat 8 8)
    let zw := signedOf 8 (bitsOf o.imm.toNat 0 8)
    let rowsum := signedOf 32 (v.param o.poff m).toNat
    { e with y := .int (e.int - zx * rowsum - zw * v.sumx + v.depth * zx * zw) }
  | 0x02 => { e with y := .fp e.fp }
  | 0x03 => (if o.poff = 0xFFFFFF then e else e.mulBy (v.param o.poff m)).mulBy o.imm
  | 0x04 => if o.poff = 0xFFFFFF then e else e.addBy (v.param o.poff m)
  | 0x05 => e.act (o.imm.toNat % 256)
  | 0x06 => (match e.y with
      | .int x => { e with y := .int (x + signedOf 32 (v.sElem m).toNat) }
      | .fp _ => e.addBy (v.sElem m))
  | 0x07 => e.mulBy (v.sElem m)
  | 0x08 => if (v.row : Int) + signedOf 32 o.imm.toNat < m then { e with y := .fp (inf32 true) } else e
  | _ =>
    let d := e.subBy (v.sElem 0)
    (d.step [d.fp] (fpExp d.fp)).divBy (v.sElem 1)

/-- A value of a tree sum: the sum, its first column, and the first columns of the additions below it that overflowed. -/
structure TreeSum where
  sum : W32
  first : Nat
  spills : List Nat := []
  deriving DecidableEq, Repr

def TreeSum.add (a b : TreeSum) : TreeSum :=
  let v := fpAdd a.sum b.sum
  { sum := v, first := a.first, spills := a.spills ++ b.spills ++ (if fpOver [a.sum, b.sum] v then [a.first] else []) }

/-- The tree sum of a pane row (R104), and the columns at which its additions overflowed: an addition counts at the first column it
covers (R127; DESIGN CHOICE, log 92). -/
def treeSumOver (l : List W32) : W32 × List Nat :=
  let t := treeOf TreeSum.add { sum := 0#32, first := 0 } (l.zipIdx.map fun x => { sum := x.1, first := x.2 })
  (t.sum, t.spills)

/-- Saturations at the listed columns. -/
def markCols (cols : List Nat) (row : List El) : List El := row.zipIdx.map fun x => { x.1 with sat := x.1.sat || cols.contains x.2 }

/-- The tree mean of a pane row plus ε, and the columns of its overflows (R104, R126); a step of the whole row counts at column 0. -/
def treeMeanPlus (l : List W32) (width : Nat) (eps : W32) : W32 × List Nat :=
  let t := treeSumOver l
  let m := fpDiv t.1 (fpNat width)
  (fpAdd m eps, t.2 ++ (if fpOver [m, eps] (fpAdd m eps) then [0] else []))

/-- d = y − μ and e = exp(d) over a pane row, with μ, and with σ and the columns at which its sum overflowed. -/
def softParts (row : List El) : W32 × List El × (W32 × List Nat) :=
  let mu := fpTreeMax (row.map El.fp)
  let es := row.map fun e => let d := e.subBy mu; d.step [d.fp] (fpExp d.fp)
  (mu, es, treeSumOver (es.map El.fp))

/-- Operations over a whole pane row. -/
def rowOp (o : BOp) (v : BEnv) (row : List El) : List El :=
  match o.op with
  | 0x09 =>
    let p := softParts row
    markCols p.2.2.2 (p.2.1.map fun e => e.divBy p.2.2.1)
  | 0x0C =>
    let us := row.map fun e => e.mulBy e.fp
    let m := treeMeanPlus (us.map El.fp) v.width o.imm
    let r := fpSqrt m.1
    markCols m.2 ((row.zip us).zipIdx.map fun (p, k) =>
      let t := if o.poff = 0xFFFFFF then p.1 else p.1.mulBy (v.param o.poff k)
      let d := t.divBy r
      { d with sat := d.sat || p.2.sat })
  | 0x0D =>
    let mu := treeSumOver (row.map El.fp)
    let mean := fpDiv mu.1 (fpNat v.width)
    let ds := row.map fun e => e.subBy mean
    let sq := ds.map fun d => d.mulBy d.fp
    let m := treeMeanPlus (sq.map El.fp) v.width o.imm
    let r := fpSqrt m.1
    markCols (mu.2 ++ m.2) ((ds.zip sq).zipIdx.map fun (p, k) =>
      let t := p.1.divBy r
      let t := if o.poff = 0xFFFFFF then t else (t.mulBy (v.param o.poff k)).addBy (v.param (o.poff + 4 * v.width) k)
      { t with sat := t.sat || p.2.sat })
  | _ => row.zipIdx.map fun (e, m) => elementOp o v m e

/-- Run the operations before a last REQUANT, SMSTAT or SELECT. -/
def runOps (v : BEnv) (ops : List BOp) (row : List El) : List El := ops.foldl (fun r o => rowOp o v r) row

/-! ### Output rows (R105, R112, R116, R124, R125) -/

/-- A pane row as it leaves the beaters: element codes with their bits, scale units by 32-element unit, saturated elements, and the
saturation that a row with a NaN or an infinity is, beside those of its elements (R125; log 92). -/
structure OutRow where
  bits : Nat
  codes : List Nat
  units : List Buf := []
  sats : List Bool
  rowSat : Nat := 0
  deriving DecidableEq, Repr

/-- FP32 v = y × IMM of a REQUANT to a block-scaled format: the exact product, rounded once (R124, R125). -/
def scaledIn (imm : W32) (e : El) : El :=
  match e.y with
  | .int x =>
    let v := ((Dyad.mk x 0).num.mul (fpNum imm)).toFp
    { y := .fp v, sat := e.sat || (fpFinite imm && fpIsInf v) }
  | .fp _ => e.mulBy imm

/-- A scale unit: SC0 to SC3 and G. -/
def scaleUnit (sc : List Nat) (g : W32) : Buf :=
  (List.range 4).map (fun i => BitVec.ofNat 8 (sc.getD i 0)) ++ leBytes 4 g.toNat ++ List.replicate 24 0

/-- REQUANT to an MX format: blocks of 32. -/
def outMx (fmt : Nat) (row : List El) : OutRow :=
  let bad := row.any fun e => !fpFinite e.fp
  let blocks := chunksOf 32 row.length row
  let sc := blocks.map fun b => if bad then 0xFF else mxScale fmt (fpTreeMax (b.map fun e => fpAbs e.fp))
  let els := (blocks.zip sc).map fun (b, x) => b.map fun e => (e, if bad then (0, false) else mxElem fmt x e.fp)
  let flat := els.flatten
  { bits := fmtBits fmt, codes := flat.map fun p => p.2.1
    units := sc.map fun x => scaleUnit [x] 0
    sats := flat.map fun p => p.1.sat || p.2.2, rowSat := bad.toNat }

/-- REQUANT to BQ4: blocks of 16, the pane row one group (R125). -/
def outBq4 (row : List El) : OutRow :=
  let bad := row.any fun e => !fpFinite e.fp
  let g := if bad then nan32 else bq4G (fpTreeMax (row.map fun e => fpAbs e.fp))
  let blocks := chunksOf 16 row.length row
  let sc := blocks.map fun b => if bad then 0x7F else bq4BlockScale g (fpTreeMax (b.map fun e => fpAbs e.fp))
  let flat := ((blocks.zip sc).map fun (b, x) => b.map fun e => (e, if bad then 0 else bq4Elem g x e.fp)).flatten
  { bits := 4, codes := flat.map (·.2), units := (chunksOf 2 sc.length sc).map fun l => scaleUnit l g
    sats := flat.map fun p => p.1.sat, rowSat := bad.toNat }

/-- REQUANT to an unscaled format: exact product, one rounding (R124). -/
def outPlain (fmt : Nat) (imm : W32) (z : Int) (row : List El) : OutRow :=
  let r := row.map fun e =>
    let v := (match e.y with | .int x => (Dyad.mk x 0).num | .fp x => fpNum x).mul (fpNum imm)
    if fmt = codeInt8 ∨ fmt = codeInt4 then
      let w := if fmt = codeInt8 then 8 else 4
      let q := requantInt w v z
      (intCode w q.1, e.sat || q.2)
    else
      let q := convertTo fmt v
      (q.1, e.sat || q.2)
  { bits := fmtBits fmt, codes := r.map (·.1), sats := r.map (·.2) }

/-- The 4-byte code of a value written without REQUANT.  An integer y beyond INT32 is written as its low 32 bits (DESIGN CHOICE, log
92). -/
def El.word (e : El) : Nat := match e.y with | .int x => intCode 32 x | .fp x => x.toNat

/-- Run a program on the accumulators of a pane row.  `col0` is the pane's first logical column. -/
def runProgram (oFmt : Nat) (v : BEnv) (ops : List BOp) (col0 : Nat) (acc : List El) : OutRow :=
  match ops.getLast? with
  | some o =>
    if o.op = 0x0E then
      let row := runOps v ops.dropLast acc
      if oFmt = codeBq4 then outBq4 (row.map (scaledIn o.imm))
      else if fmtScaled oFmt then outMx oFmt (row.map (scaledIn o.imm))
      else outPlain oFmt o.imm (signedOf 8 (o.poff % 256)) row
    else if o.op = 0x0A then
      let p := softParts (runOps v ops.dropLast acc)
      { bits := 32, codes := [p.1.toNat, p.2.2.1.toNat], sats := (markCols p.2.2.2 p.2.1).map (·.sat) }
    else if o.op = 0x0F then
      let row := runOps v ops.dropLast acc
      let top := selectTop o.imm.toNat (row.zipIdx.map fun (e, m) => (e, col0 + m))
      { bits := 32, codes := (top.map fun p => [p.1.word, p.2]).flatten, sats := row.map (·.sat) }
    else
      let row := runOps v ops acc
      { bits := 32, codes := row.map El.word, sats := row.map (·.sat) }
  | none => { bits := 32, codes := acc.map El.word, sats := acc.map (·.sat) }

/-- The bytes of a run of codes of `bits` bits (R112). -/
def packCodes (bits : Nat) (l : List Nat) : Buf :=
  if bits = 4 then (chunksOf 2 l.length l).map fun p => BitVec.ofNat 8 (p.getD 0 0 + 16 * p.getD 1 0)
  else (l.map fun c => leBytes (bits / 8) c).flatten

/-- The bytes of elements 32j to 32j + 31 of an output row, and the scale unit of a unit that ends there. -/
def OutRow.run (o : OutRow) (j : Nat) : Buf :=
  packCodes o.bits ((o.codes.drop (32 * j)).take 32)

end Sys2Proof.Machine
end

