-- ==== Sys2Proof/Machine/Loom.lean ====
section
/-! DEFINITION. The Loom's sequencer: issue, boundaries, residue checks, replay, widening, staging, and the takeover of a
tile column (R84 to R110, R121, R129, R130, R142, R169 to R171, R265, R389, R390). -/

namespace Sys2Proof.Machine

open Sys2Proof

def State.modLoom (s : State) (f : Loom → Loom) : State := { s with loom := f s.loom }

/-! ### Relocation (R142) -/

/-- The position that stands for a pick firmware made itself. -/
def firmwarePos : Nat := 2 ^ 32

/-- The HBM base of the binding a context runs. -/
def State.hbmBaseOf (s : State) (c : Ctx) : Nat := match s.model? c.model with | some m => m.hbmBase | none => 0

/-- An image value that is not 0 plus a base. -/
def rebase (v base : Nat) : Nat := if v = 0 then 0 else v + base

/-- The fields that are filled as a pick from an image is issued (table *Fields filled at issue*); firmware has built `groups` row groups
at `rgAddr`. -/
def relocatePick (p : Pick) (c : Ctx) (base rows rgAddr groups : Nat) : Pick :=
  { p with
    aBase := p.aBase + c.tb, wAddr := p.wAddr + c.tb, oBase := p.oBase + c.tb, pBase := p.pBase + c.tb
    epiAddr := p.epiAddr + c.cb, idxAddr := if p.aMode = 2 then p.idxAddr + c.cb else p.idxAddr
    sHbm := rebase p.sHbm base, oHbm := rebase p.oHbm base, wideAddr := rebase p.wideAddr base
    ctxSlot := c.slot.getD 0, rows := rows, rgAddr := rgAddr, rgCount := groups
    waitKnot := p.waitKnot + c.firstKnot, sigKnot := p.sigKnot + c.firstKnot }

/-- The beater program of a pick, in control cluster SRAM. -/
def State.program? (s : State) (p : Pick) : List BOp := parseProgram (s.mems.cc.readBytes p.epiAddr (8 * p.epiCount)) p.epiCount

/-- A region lies in a range. -/
def inRange (base len lo hi : Nat) : Bool := decide (base ≤ lo) && decide (hi ≤ base + len)

/-- The relocated regions stay within the context's ranges, its knots within its knots (R142, R264). -/
def rangesOk (p : Pick) (ops : List BOp) (c : Ctx) (im : Image) : Bool :=
  let t := im.header.sramFootprint
  inRange c.tb t p.aBase p.inputEnd && inRange c.tb t p.wAddr (p.wAddr + p.weightBytes)
    && (decide (p.oTier ≠ 0) || inRange c.tb t p.oBase (p.outputEnd ops))
    && (decide (p.paramEnd ops = 0) || inRange c.tb t p.pBase (p.paramEnd ops))
    && (decide (p.epiCount = 0) || inRange c.cb im.header.csFootprint p.epiAddr (p.epiAddr + 8 * p.epiCount))
    && (decide (p.aMode ≠ 2) || inRange c.cb im.header.csFootprint p.idxAddr (p.idxAddr + 4 * p.rows))
    && (!p.waitEn || decide (p.waitKnot < c.firstKnot + c.knots)) && (!p.sigEn || decide (p.sigKnot < c.firstKnot + c.knots))

/-- HBM addresses of a pick lie in the logical space (R160). -/
def Pick.hbmOk (p : Pick) : Bool :=
  decide (p.oTier ≠ 1) || decide (p.oHbm + p.panes * p.rows * p.oRStride ≤ hbmBytes)

/-- W_REUSE is allowed: the previous pick in issue order is of the same context and shape (R96). -/
def State.reuseOk (s : State) (p : Pick) (ctx : Nat) : Bool :=
  !p.wReuse || (match s.loom.lastPick with | some (c, q) => c == ctx && p.sameShape q | none => false)

/-- The checks before a pick starts (R93). -/
def State.pickOk (s : State) (c : Ctx) (p : Pick) (groups : List RowGroup) (fromImage : Bool) : Bool :=
  let ops := s.program? p
  p.wellFormed ops && groupsOk p.rgCount groups && decide (some p.ctxSlot = c.slot) && p.hbmOk && s.reuseOk p c.index
    && (!fromImage || (match s.ctxImage c with | some im => rangesOk p ops c im | none => false))

/-! ### Block sets (R170, R171) -/

/-- The pick at a position takes a block set of its own. -/
def Image.takesSet (im : Image) (pos : Nat) : Bool :=
  (match im.desc[pos]? with | some p => !p.wReuse | none => false) && !im.entries.any fun e => e.kvWeights.contains pos

/-- The number of the block set of a position. -/
def Image.setOf (im : Image) (pos : Nat) : Nat := ((List.range pos).filter im.takesSet).length

/-- The position whose block set is number n. -/
def Image.posOfSet (im : Image) (n : Nat) : Option Nat :=
  (List.range im.desc.length).find? fun i => im.takesSet i && im.setOf i == n

/-- Where a position's block set starts in the WEIGHTS section. -/
def Image.setOffset (im : Image) (pos : Nat) : Nat :=
  sumOf (((List.range pos).filter im.takesSet).map fun i => 4096 * ((im.desc[i]?).getD {}).unitBytes)

/-- The range of ENTRY positions that holds a position. -/
def Image.rangeOf (im : Image) (pos : Nat) : Option EntryRange :=
  im.entries.find? fun e => decide (e.first ≤ pos) && decide (pos < e.first + e.count)

/-- Positions the context still issues before a position: from its next pick, within the range or round to its start. -/
def Image.before (im : Image) (next pos : Nat) : List Nat :=
  if next ≤ pos then (List.range (pos - next)).map (next + ·)
  else match im.rangeOf pos with
    | some e => (List.range (e.first + e.count - next)).map (next + ·) ++ (List.range (pos - e.first)).map (e.first + ·)
    | none => []

/-- The staging of the block set before number n has started: it is staged or its pick has been issued, or n is the first of its range
(R171). -/
def State.priorStaged (s : State) (c : Ctx) (im : Image) (n pos : Nat) : Bool :=
  match n with
  | 0 => true
  | k + 1 =>
    s.tiers.staged.contains (c.index, k)
      || (match im.posOfSet k with
          | some q => decide (q < c.pick) || (match im.rangeOf pos with | some e => decide (q < e.first) | none => false)
          | none => true)

/-- Everything a pick at a position reads is written: its block set, and every window of the context (R171). -/
def State.stagedFor (s : State) (c : Ctx) (im : Image) (pos : Nat) : Bool :=
  (!im.takesSet pos || s.tiers.staged.contains (c.index, im.setOf pos))
    && s.tiers.windows.all fun w => !(w.ctx == c.index) || w.staged

/-- The engine writes unit (t, c) of a block set in the tile that carries it. -/
def State.stageSet (s : State) (c : Ctx) (im : Image) (pos : Nat) : State :=
  let p := (im.desc[pos]?).getD {}
  let off := im.setOffset pos
  let tile := (List.range 4096).foldl (fun m u =>
    Memory.writeBytes m (s.tileAddr (u / 64) (u % 64) (p.wAddr + c.tb)) (Buf.slice im.weights (off + u * p.unitBytes) p.unitBytes))
    s.mems.tile
  { s with mems := { s.mems with tile := tile }
           tiers := { s.tiers with staged := s.tiers.staged.filter (fun x => !(x == (c.index, im.setOf pos))) ++ [(c.index, im.setOf pos)] } }

/-- Weight regions overlap. -/
def weightsMeet (a al b bl : Nat) : Bool := decide (a < b + bl) && decide (b < a + al)

/-- The bytes of an object that a window shows: those at a mutable object's home, or those of a sealed object's HBM copy (R169). -/
def State.sourceBytes (s : State) (h : Home) : Buf :=
  if h.sealedObj then s.mems.hbm.readBytes h.addr.toNat h.bytes else s.homeBytes h.objId

/-- Write the pieces of a window into the context's tile SRAM range (R169). -/
def State.writeWindow (s : State) (c : Ctx) (w : Window) : State :=
  { s with mems := { s.mems with tile := w.pieces.foldl (fun m p =>
      Memory.writeBytes m (s.tileAddr p.row p.col (c.tb + p.off)) (Buf.slice w.data p.objOff p.len)) s.mems.tile } }

/-- A piece lies in the context's range. -/
def WindowPiece.ok (footprint : Nat) (p : WindowPiece) : Bool :=
  decide (p.row < 64) && decide (p.col < 64) && decide (p.off + p.len ≤ footprint)

/-- The pages of a sequence are staged in token order: a page of a layer after the page before it (R149). -/
def State.windowBefore (s : State) (c : Ctx) (id : W64) : Bool :=
  match s.pageOf id with
  | none => true
  | some (m, n) =>
    match s.ans.reqs.find? fun r => r.holdsPage m n, s.ctxImage c with
    | some r, some im =>
      let k := r.pages.idxOf n
      k % (r.pages.length / im.header.layers) == 0 || s.tiers.windows.any fun w => w.ctx == c.index && w.objId == kvObj m (r.pages.getD (k - 1) 0)
    | _, _ => true

/-- A window starts: it pins its source, whose bytes it takes as they stand now; without a pin it waits (R167, R169). -/
def State.startWindow (s : State) (c : Ctx) (im : Image) (id : W64) (pieces : List WindowPiece) (lastPick : Nat) : State :=
  match s.home? id with
  | none => s
  | some h =>
    if h.damaged ∨ h.pinnable = false ∨ s.windowBefore c id = false ∨ (h.sealedObj ∧ h.hbmCopy = false) ∨ pieces.all (WindowPiece.ok im.header.sramFootprint) = false then s
    else (s.pin id).modTiers fun t =>
      { t with windows := t.windows ++ [{ ctx := c.index, objId := id, pieces := pieces, data := s.sourceBytes h, lastPick := lastPick, staged := false }] }

/-- The started windows of an object in a context are written. -/
def State.finishWindows (s : State) (c : Ctx) (id : W64) : State :=
  let mine : Window → Bool := fun w => w.ctx == c.index && w.objId == id && !w.staged
  ((s.tiers.windows.filter mine).foldl (fun s w => s.writeWindow c w) s).modTiers fun t =>
    { t with windows := updWhere mine (fun w => { w with staged := true }) t.windows }

/-- Extents of the image's copy that hold the block set of a position. -/
def Image.setExtents (im : Image) (pos : Nat) : List Nat :=
  match im.placeOf 0x04 with
  | some w =>
    let lo := w.2 + im.setOffset pos
    (List.range ((lo + 4096 * ((im.desc[pos]?).getD {}).unitBytes - 1) / 65536 - lo / 65536 + 1)).map (lo / 65536 + ·)
  | none => []

/-- Block set n of a position may be staged: every earlier pick of the context whose weight region overlaps it has signalled, issued or not;
the staging of set n − 1 has started; and no extent of it is being fetched (R171, R180, R181). -/
def State.maySet (s : State) (c : Ctx) (im : Image) (n pos : Nat) : Bool :=
  let p := (im.desc[pos]?).getD {}
  let meets := fun (q : Pick) (base : Nat) => weightsMeet q.wAddr q.weightBytes (p.wAddr + base) p.weightBytes
  !(s.loom.issued.any fun i => i.ctx == c.index && meets i.pick c.tb)
    && !((im.before c.pick pos).any fun k => match im.desc[k]? with | some q => meets q 0 | none => false)
    && s.priorStaged c im n pos && !s.fetching im.objId (im.setExtents pos)

/-- STAGING_COMPLETE: the engine has written block set n of a resident context from the pinned copy; or a window starts, which pins its source;
or a window is written (R149, R167, R169 to R171; which pieces make a window is the image's, log 27). -/
def execStagingComplete (ctx : Nat) (what : Staging) (s : State) : Outcome :=
  .next (match s.ctxAt ctx with
    | none => s
    | some c =>
      match s.ctxImage c with
      | none => s
      | some im =>
        if c.slot = none then s
        else
          match what with
          | .windowStart obj pieces lastPick => s.startWindow c im obj pieces lastPick
          | .windowDone obj => (s.finishWindows c obj).schedule
          | .blockSet n =>
            match im.posOfSet n with
            | none => s
            | some pos => if s.maySet c im n pos then s.pinned im.objId fun s => (s.stageSet c im pos).schedule else s)

/-! ### Issue (R93, R142, R171) -/

/-- The pick that an issue gives: position, descriptor, whether it comes from the image. -/
def State.issuePick (s : State) (c : Ctx) (src : PickSource) (groups : Nat) : Option (Nat × Pick) :=
  match src with
  | .firmware d => some (firmwarePos, d)
  | .image pos rows rgAddr =>
    match s.ctxImage c with
    | none => none
    | some im =>
      match im.desc[pos]? with
      | none => none
      | some p =>
        let perBatch := im.entries.any fun e => e.perBatch.contains pos
        some (pos, relocatePick p c (s.hbmBaseOf c) (if perBatch then rows else p.rows) rgAddr (max 1 (min 64 groups)))

/-- Firmware builds the row group table of a pick in control cluster SRAM (R94). -/
def State.buildGroups (s : State) (p : Pick) (groups : List RowGroup) : State :=
  { s with mems := { s.mems with cc := s.mems.cc.writeBytes p.rgAddr ((groups.take 64).flatMap RowGroup.bytes) } }

/-- A general context issues the picks of its first run in order; a service context those of the stages (R261). -/
def State.mayIssue (s : State) (c : Ctx) (src : PickSource) : Bool :=
  decide (c.state = .running ∨ (c.service ∧ c.state = .blocked)) && c.cause.isNone && !s.loom.out && s.loom.takeover.isEmpty
    && (match src with
        | .firmware _ => true
        | .image pos _ _ =>
          (c.service || (match c.runs with | r :: _ => r.next == pos && decide (r.next ≤ r.last) | [] => false))
            && (match s.ctxImage c with | some im => s.stagedFor c im pos | none => false))

/-- The context's place after it has issued the pick at a position. -/
def Ctx.issued (pos : Nat) (c : Ctx) : Ctx :=
  if pos = firmwarePos then c
  else
    { c with pick := pos + 1
             runs := match c.runs with
               | r :: rest => if c.service then c.runs else { r with next := r.next + 1 } :: rest
               | [] => [] }

/-- Issue a pick that has passed its checks. -/
def State.issueNow (s : State) (c : Ctx) (pos : Nat) (p : Pick) (groups : List RowGroup) : State :=
  let i : Issued := { id := s.loom.nextId, ctx := c.index, pos := pos, pick := p, groups := groups }
  (s.modLoom fun l => { l with issued := l.issued ++ [i], nextId := l.nextId + 1, lastPick := some (c.index, p) }).modCtx c.index (Ctx.issued pos)

/-- PICK_ISSUE: firmware builds the row group table and issues a pick; the sequencer reads the table; one that breaks a rule does not run and
is a pick fault (R93, R94). -/
def execPickIssue (ctx : Nat) (src : PickSource) (groups : List RowGroup) (s : State) : Outcome :=
  .next (match s.ctxAt ctx with
    | none => s
    | some c =>
      if s.mayIssue c src then
        match s.issuePick c src groups.length with
        | none => s
        | some (pos, p) =>
          let s := s.buildGroups p groups
          let table := s.rowGroups p
          if s.pickOk c p table (decide (pos ≠ firmwarePos)) then s.issueNow c pos p table
          else s.faultCtx ctx .pickFault p.layerId
      else s)

/-! ### The work of a pick (R88, R89, R98 to R105, R129) -/

/-- The input function of a pick. -/
def State.inputFn (s : State) (p : Pick) : InputFn := fun q r t => s.inputs p q r t

/-- An element widened into the variant's activation format (table *Wider variants*). -/
def widenElem (fmt : Nat) (x : Scaled) : Scaled :=
  if fmt = 0x9 then
    let v := match x.value with
      | .fin n m e =>
        let c := bf16.code m e
        if c ≤ bf16.maxFinite then bf16.fin (bf16.sign n c) else .inf n
      | v => v
    { v := v, scale := numOne }
  else x

/-- The input function of descriptor `h` of the wider variant `v` of `p`. -/
def State.wideFn (s : State) (p v : Pick) (h : Nat) : InputFn := fun q r t =>
  let xs := (s.inputs p q r t).map (widenElem v.fmtA)
  if p.dense && !v.dense then (xs.drop (32 * h)).take 32 else xs

/-- The beaters' environment for row r of pane q. -/
def State.benv (s : State) (p : Pick) (inp : InputFn) (q r : Nat) : BEnv :=
  { param := fun poff m => BitVec.ofNat 32 (Buf.le (s.mems.tile.readBytes
      (s.tileAddr 63 (q % p.paneCols * p.nt + m / 32) (p.pBase + poff + 4 * m)) 4) 0 4)
    sElem := fun m => BitVec.ofNat 32 (Buf.le (s.mems.hbm.readBytes (p.sHbm + (q * p.rows + r) * p.sRStride + 4 * m) 4) 0 4)
    sumx := sumX p inp q r, row := r, depth := p.depth, width := p.width }

/-- One output row of one pane. -/
def State.outRow (s : State) (p : Pick) (w : WeightSet) (inp : InputFn) (faults : List ArrayFault) (q r : Nat) : OutRow :=
  runProgram p.oFmt (s.benv p inp q r) (s.program? p) (q % p.paneCols * p.width)
    ((List.range p.width).map fun m => s.accOf p w inp faults q r m)

/-- The pieces of 32-element unit j, by offset: the elements, and after the 32 B element unit the scale unit (R116, R125).  Bytes 16 to
31 of a unit of 4-bit elements are not written (DESIGN CHOICE, log 92). -/
def OutRow.pieces (o : OutRow) (j : Nat) : List (Nat × Buf) :=
  (0, o.run j) :: (match o.units[j]? with | some u => [(32, u)] | none => [])

/-- Write the pieces of unit j at an address. -/
def OutRow.writeUnit (o : OutRow) (j a : Nat) (m : Memory) : Memory := (o.pieces j).foldl (fun m p => m.writeBytes (a + p.1) p.2) m

/-- Bytes from one 32-element unit of a row to the next. -/
def OutRow.unitStride (o : OutRow) : Nat := if o.units = [] then 4 * o.bits else 64

/-- Write an output row (R105).  Under O_TIER 0 the values of SMSTAT and SELECT lie 32 to a tile row, from the pane's first on, and
those past tile row 63 are dropped (DESIGN CHOICE, log 92). -/
def State.writeRow (s : State) (p : Pick) (q r : Nat) (o : OutRow) : State :=
  let n := ceilDiv o.codes.length 32
  if p.oTier = 1 then
    let a := p.oHbm + (q * p.rows + r) * p.oRStride
    { s with mems := { s.mems with hbm := (List.range n).foldl (fun m j => o.writeUnit j (a + j * o.unitStride) m) s.mems.hbm } }
  else if p.oTier = 0 then
    let col := (p.oTcol + q / p.paneCols * p.oBstep) % 64
    let tile := (List.range n).foldl (fun m j =>
      let row := q % p.paneCols * p.nt + j
      if row < 64 then o.writeUnit j (s.tileAddr row col (p.oBase + r * p.oRStride)) m else m) s.mems.tile
    { s with mems := { s.mems with tile := tile } }
  else s

/-- The row and pane belong to a group. -/
def RowGroup.covers (g : RowGroup) (q r : Nat) : Bool :=
  decide (g.firstRow ≤ r) && decide (r < g.firstRow + g.rowCount) && decide (g.firstPane ≤ q) && decide (q < g.firstPane + g.paneCount)

/-- Every (pane, row) of a pick. -/
def Pick.cells (p : Pick) : List (Nat × Nat) :=
  (List.range p.rows).flatMap fun r => (List.range p.panes).map fun q => (q, r)

/-- Run a pick over the cells that satisfy `sel`: outputs written, saturations of each group counted (R105, R127). -/
def State.runPick (s : State) (p : Pick) (w : WeightSet) (inp : InputFn) (faults : List ArrayFault) (groups : List RowGroup)
    (sel : Nat → Nat → Bool) : State × List Nat :=
  let rows := (p.cells.filter fun c => sel c.1 c.2).map fun c => (c.1, c.2, s.outRow p w inp faults c.1 c.2)
  let s' := rows.foldl (fun t x => t.writeRow p x.1 x.2.1 x.2.2) s
  let counts := groups.map fun g =>
    min 0xFFFFFFFF (sumOf (rows.map fun x => if g.covers x.1 x.2.1 then (x.2.2.sats.filter id).length + x.2.2.rowSat else 0))
  (s', counts)

/-! ### End of a pick: signal, widening (R106, R109, R130) -/

/-- A run whose last pick has signalled is complete: RUN_ENTRY writes its output (R322). -/
def State.endRun (s : State) (c : Ctx) (pos : Nat) : State :=
  match c.runs with
  | [] => s
  | r :: rest =>
    if c.service = false ∧ r.last = pos ∧ r.last < r.next then
      let s := s.modCtx c.index fun c => { c with runs := rest, pick := match rest with | x :: _ => x.next | [] => c.pick }
      match s.sub? r.sid with
      | some u =>
        if u.entry.opcode = 0x6A ∧ u.due = none then
          let n := s.fresh.1
          (s.fresh.2.writeB2 u (Buf.slice (Config.output n) 0 u.entry.b2Len)).completeOk u
        else s
      | none => s
    else s

/-- Windows go, and release their pins (R169). -/
def State.releaseWindows (s : State) (p : Window → Bool) : State :=
  let gone := s.tiers.windows.filter p
  let s := s.modTiers fun t => { t with windows := t.windows.filter fun w => !(p w) }
  gone.foldl (fun s w => s.unpin w.objId) s

/-- Windows whose last reader has signalled are released (R169). -/
def State.dropWindows (s : State) (ctx pos : Nat) : State :=
  s.releaseWindows fun w => w.ctx == ctx && decide (w.lastPick ≤ pos) && decide (pos < firmwarePos)

/-- Tear a context down (R271). -/
def State.tearDown (s : State) (c : Ctx) : State :=
  let sids := s.ctxSids c
  let s := sids.foldl (fun s k => s.failWith k .contextTorn) s
  let s := ((s.tornReqs sids).releaseWindows fun w => w.ctx == c.index).clearCtx c
  if c.service then s.freshService c else s

/-- CONTEXT_TEARDOWN: a context with a fault or a DESTROY_CONTEXT is torn down, after any takeover that R272 names.  A
control cluster step outside a general context's ranges faults here (R271). -/
def execContextTeardown (ctx : Nat) (cause : TearCause) (s : State) : Outcome :=
  .next (match s.ctxAt ctx with
    | some c =>
      let s := if cause = .csRange ∧ c.service = false then s.faultCtx ctx .csRange 0 else s
      match s.ctxAt ctx with
      | some c => if c.cause.isSome ∧ s.takeoverRuns = false then ((s.tearDown c).settleCtxDestroy ctx).schedule else s
      | none => s
    | none => s)

/-- The Loom time of a request that a pick of its stage has used, in ps at P0 (R44). -/
def Req.spend (ps : Nat) (r : Req) : Req :=
  let l := r.loom
  match r.stage with
  | .embed => { r with loom := { l with embed := l.embed - ps } }
  | .probe => { r with loom := { l with probe := l.probe - ps } }
  | .rerank => { r with loom := { l with rerank := l.rerank - ps } }
  | .prefill | .decode => { r with loom := { l with gen := l.gen - ps } }
  | _ => r

/-- The requests whose row groups a pick of a service context carries: those whose slot is a TAG (R94). -/
def State.owners (s : State) (i : Issued) (tags : List Nat) : List Nat :=
  match s.ctxAt i.ctx with
  | some c => if c.service then (s.ans.reqs.filter fun r => r.onModel c.model && tags.contains r.slot).map (·.sid) else []
  | none => []

/-- The reserved Loom time of a pick's requests shrinks by its time (R44). -/
def State.spendLoom (s : State) (i : Issued) : State :=
  let ps := i.pick.cycles (s.program? i.pick) * 20000 / 17
  let own := s.owners i (i.groups.map (·.tag))
  { s with ans := { s.ans with reqs := updWhere (fun r => own.contains r.sid) (Req.spend ps) s.ans.reqs } }

/-- The pick leaves the sequencer and signals SIG_KNOT once (R109). -/
def State.signalPick (s : State) (i : Issued) : State :=
  let s := s.spendLoom i
  let s := s.modLoom fun l => { l with issued := l.issued.filter fun x => !(x.id == i.id) }
  match s.ctxAt i.ctx with
  | none => s
  | some c =>
    let used := match s.ctxImage c with | some im => if i.pos < firmwarePos ∧ im.takesSet i.pos then some (im.setOf i.pos) else none | none => none
    let s := match used with
      | some n => s.modTiers fun t => { t with staged := t.staged.filter fun x => !(x == (c.index, n)) }
      | none => s
    let s := s.dropWindows i.ctx i.pos
    let s := if i.pick.sigEn then s.sendSignal (.slot i.pick.ctxSlot) i.pick.sigKnot else s
    (s.endRun c i.pos).schedule

/-- Groups whose count exceeds RM_THRESH are marked, when there is a wider variant (R106). -/
def markGroups (p : Pick) (groups : List RowGroup) (counts : List Nat) : List RowGroup :=
  (groups.zip counts).map fun (g, n) =>
    { g with count := n, marked := p.wideAddr ≠ 0 && decide (p.rmThresh < n) }

/-- The range-monitor table: the last 256 widenings (R130). -/
def State.noteWidenings (s : State) (p : Pick) (groups : List RowGroup) : State :=
  (groups.filter (·.marked)).foldl (fun s g => s.modLoom fun l =>
    let w : Widening := { layerId := p.layerId, ctxSlot := p.ctxSlot, tag := g.tag, count := g.count, threshold := p.rmThresh, seq := l.nextWidening }
    { l with widenings := (l.widenings ++ [w]).drop (l.widenings.length + 1 - 256), nextWidening := l.nextWidening + 1 }) s

/-- The check has passed: outputs are written and counted; marked groups make a wider run due, else the pick signals.  `faults` are the
sums that left in error unseen. -/
def State.passPick (s : State) (i : Issued) (faults : List ArrayFault) : State :=
  let r := s.runPick i.pick i.weights (s.inputFn i.pick) faults i.groups fun _ _ => true
  let groups := markGroups i.pick i.groups r.2
  if groups.any (·.marked) then
    (r.1.noteWidenings i.pick groups).modLoom fun l =>
      { l with issued := updWhere (fun x => x.id == i.id) (fun x => { x with phase := .wideDue, groups := groups, replays := 0 }) l.issued }
  else r.1.signalPick i

/-! ### Wider runs (R106, R128 to R130, R170) -/

/-- Where the WIDE section starts in the binding's HBM space, and its descriptors' offsets in it, rising. -/
def Image.wideOffsets (im : Image) : Nat × List Nat :=
  match im.placeOf 0x05 with
  | none => (0, [])
  | some (_, a) => (a, sortBy (fun x y => decide (x ≤ y))
      (nub ((im.desc.filter fun p => decide (p.wideAddr ≠ 0)).flatMap fun p => (List.range p.wideN).map fun h => p.wideAddr - a + 128 * h)))

/-- The block set of the wider descriptor at an offset of the WIDE section starts there: sets are taken in the order of the descriptors
without W_REUSE and follow the last descriptor, on a 64 B boundary (R170; DESIGN CHOICE, log 92). -/
def Image.wideSetOffset (im : Image) (off : Nat) : Nat :=
  let descs := im.wideOffsets.2.map fun o => (o, parsePick (Buf.slice (im.part 0x05) o 128))
  64 * ceilDiv (maxOf (descs.map fun d => d.1 + 128)) 64
    + sumOf ((descs.filter fun d => decide (d.1 < off) && !d.2.wReuse).map fun d => 4096 * d.2.unitBytes)

/-- Descriptor `h` of the wider variant, read at WIDE_ADDR and relocated; its own monitor and WIDE_ADDR are disabled (R106, R128, R142). -/
def State.wideDesc (s : State) (c : Ctx) (i : Issued) (h : Nat) : Pick :=
  let p := parsePick (s.mems.hbm.readBytes (i.pick.wideAddr + 128 * h) 128)
  let v := if i.pos = firmwarePos then p else relocatePick p c (s.hbmBaseOf c) i.pick.rows i.pick.rgAddr i.pick.rgCount
  { v with wideAddr := 0, rmThresh := 0xFFFFFFFF }

/-- The engine stages the block set of a wider descriptor of an image (R170). -/
def State.stageWide (s : State) (c : Ctx) (i : Issued) (h : Nat) : State :=
  match s.ctxImage c with
  | none => s
  | some im =>
    let v := s.wideDesc c i h
    if i.pos = firmwarePos ∨ v.wReuse = true then s
    else
      let off := im.wideSetOffset (i.pick.wideAddr + 128 * h - s.hbmBaseOf c - im.wideOffsets.1)
      { s with mems := { s.mems with tile := (List.range 4096).foldl (fun m u =>
          Memory.writeBytes m (s.tileAddr (u / 64) (u % 64) v.wAddr) (Buf.slice (im.part 0x05) (off + u * v.unitBytes) v.unitBytes)) s.mems.tile } }

/-- The wider descriptors pass the checks of R93 and stay in the context's ranges (R142). -/
def State.widePickOk (s : State) (c : Ctx) (i : Issued) : Bool :=
  (List.range i.pick.wideN).all fun h =>
    let v := s.wideDesc c i h
    let ops := s.program? v
    v.wellFormed ops && decide (some v.ctxSlot = c.slot) && v.hbmOk
      && (decide (i.pos = firmwarePos) || (match s.ctxImage c with | some im => rangesOk v ops c im | none => false))

/-- One descriptor of a wider run over the rows and panes of the marked groups (R106, R129). -/
def State.runWide (s : State) (c : Ctx) (i : Issued) (h : Nat) : State :=
  let s := s.stageWide c i h
  let v := s.wideDesc c i h
  let sel := fun q r => i.groups.any fun g => g.marked && g.covers q r
  let r := s.runPick v (s.ownSet v) (s.wideFn i.pick v h) (i.faults.filter fun x => x.desc == h) (i.groups.filter (·.marked)) sel
  r.1.modLoom fun l => { l with wideSaturations := satAdd l.wideSaturations (sumOf r.2) }

/-- Firmware sets WIDENED on the requests that own the marked TAGs (R106). -/
def State.setWidened (s : State) (i : Issued) : State :=
  let own := s.owners i ((i.groups.filter (·.marked)).map (·.tag))
  { s with ans := { s.ans with reqs := updWhere (fun r => own.contains r.sid) (fun r => { r with widened := true }) s.ans.reqs } }

/-- WIDER_RUN_COMPLETE: the variant's outputs stand, and the original pick signals (R106, R129, R130). -/
def execWiderRunComplete (id : Nat) (s : State) : Outcome :=
  .next (match s.loom.issued.find? fun x => x.id == id && decide (x.phase = .widening) with
    | none => s
    | some i =>
      match s.ctxAt i.ctx with
      | none => s
      | some c =>
        if c.cause.isSome then s
        else (((List.range i.pick.wideN).foldl (fun s h => s.runWide c i h) s).setWidened i).signalPick i)

/-! ### Columns (R84 to R86, R110, R388 to R390) -/

/-- The 64 physical columns that carry logical columns once the given ones are retired. -/
def carrying (retired : List Nat) : List Nat := ((List.range 66).filter fun p => !retired.contains p).take 64

/-- A takeover of kind `k` (the order of R403) of a unit is declared at this count. -/
def State.declare (s : State) (k unit : Nat) : State :=
  { s with fail := { (s.fail) with declared := (s.fail).declared ++ [(k, unit, s.pclk)] } }

/-- The takeover has completed: it counts, and its duration in µs is kept (R386, R403). -/
def State.takeoverDone (s : State) (k unit : Nat) : State :=
  let f := s.fail
  let us := match f.declared.find? fun d => d.1 == k && d.2.1 == unit with
    | some d => s.elapsed d.2.2 / 425
    | none => 0
  { s with fail := { f with
      declared := f.declared.filter (fun d => !(d.1 == k && d.2.1 == unit))
      completed := modAt f.completed k satInc, lastUs := modAt f.lastUs k fun _ => BitVec.ofNat 64 us } }

/-- The Loom leaves service: UNIT_FAIL, LOOM clears, every context with picks is to be torn down (R86). -/
def State.loomOut (s : State) (source : Nat) : State :=
  let s := s.unitFail unitLoom 0 source
  let hit := nub (s.loom.issued.map (·.ctx)) ++ (s.work.ctxs.filter fun c => !(s.ctxSids c).isEmpty).map (·.index)
  let s := s.modLoom fun l => { l with out := true, takeover := [] }
  let s := { s with fail := { (s.fail) with declared := (s.fail).declared.filter fun d => decide (d.1 ≠ 0) } }
  hit.foldl (fun s i => s.faultCtx i .loomOut 0) ((s.setReady bitLoom false).setReady bitIndex false)

/-- The pick is abandoned, and runs again in its issue order, from its own weights (R110, R389). -/
def Issued.again (i : Issued) : Issued :=
  { i with phase := .pending, replays := 0, rerun := true, weights := {}, faults := []
           groups := i.groups.map fun g => { g with marked := false, count := 0 } }

/-- Picks that have not signalled are abandoned and will run again (R110, R389). -/
def State.abandonPicks (s : State) : State :=
  s.modLoom fun l => { l with issued := l.issued.map Issued.again, lastStart := none }

/-- A tile column fails: UNIT_FAIL, retirement; an unused spare needs no takeover; with no spare left the Loom is out
(R85, R86, R110, R372, R402). -/
def State.failColumn (s : State) (p source : Nat) : State :=
  let l := s.loom
  if 66 ≤ p ∨ l.out ∨ l.retired.contains p ∨ l.takeover.contains p then s
  else
    let s := s.unitFail unitColumn p source
    let before := carrying (l.retired ++ l.takeover)
    if !before.contains p then (s.modLoom fun l => { l with retired := l.retired ++ [p] }).takeoverDone 0 p
    else if 2 ≤ l.retired.length + l.takeover.length then s.loomOut source
    else ((s.modLoom fun l => { l with takeover := l.takeover ++ [p] }).abandonPicks).declare 0 p

/-- Tile row and physical column of an address of `mems.tile`. -/
def tileRow (a : Nat) : Nat := a / tileBytes / 66
def tileCol (a : Nat) : Nat := a / tileBytes % 66

/-- Tile SRAM after the move of the logical columns: what a logical column held stands at its new physical column; a physical
column that no logical column moves onto keeps its contents. -/
def shiftTiles (old new : List Nat) (m : Memory) : Memory :=
  let onto := fun (p : Nat) => (List.range 64).any fun c => new.getD c 0 == p && old.getD c 0 != p
  let cell := fun (x : Host.Cell) =>
    match (List.range 64).find? fun c => old.getD c 0 == tileCol x.1 with
    | some c => if tileRow x.1 < 64 ∧ new.getD c 0 ≠ tileCol x.1 then some ((66 * tileRow x.1 + new.getD c 0) * tileBytes + x.1 % tileBytes, x.2) else none
    | none => none
  Memory.place (m.filter fun x => !(decide (tileRow x.1 < 64) && onto (tileCol x.1))) (m.filterMap cell)

/-- Each tile of a logical column that moves copies its SRAM to the physical column that now carries it, easternmost first;
an uncorrectable word is uncorrectable at its destination (R390). -/
def State.shiftColumns (s : State) (old new : List Nat) : State :=
  let moved := fun (w : Nat × Nat × List Nat) =>
    let a := 8 * w.2.1 / tileBytes
    match (List.range 64).find? fun c => old.getD c 0 == a % 66 && new.getD c 0 != a % 66 with
    | some c => some (1, w.2.1 + (new.getD c 0 - a % 66) * (tileBytes / 8) - (a % 66 - new.getD c 0) * (tileBytes / 8), w.2.2)
    | none => none
  let taken := fun (w : Nat × Nat × List Nat) =>
    let a := 8 * w.2.1 / tileBytes
    (List.range 64).any fun c => new.getD c 0 == a % 66 && old.getD c 0 != a % 66
  let bad := (s.integ.flips.filter fun w => w.1 == 1 && decide (2 ≤ w.2.2.length)).filterMap moved
  let kept := s.integ.flips.filter fun w => !(w.1 == 1 && taken w)
  { s with mems := { s.mems with tile := shiftTiles old new s.mems.tile }
           integ := { s.integ with flips := kept ++ bad } }

/-- Complete the takeover of a column: a spare carries, the contents have moved. -/
def State.columnDone (s : State) (p : Nat) : State :=
  let old := carrying s.loom.retired
  let s := s.modLoom fun l => { l with retired := l.retired ++ [p], takeover := l.takeover.filter fun x => !(x == p) }
  (s.shiftColumns old (carrying s.loom.retired)).takeoverDone 0 p

/-- COLUMN_TAKEOVER_COMPLETE: the oldest takeover completes; with it that of a spare that failed during it (R389, R402).
Every unsignalled pick runs again in issue order (R110). -/
def execColumnTakeoverComplete (s : State) : Outcome :=
  .next (match s.loom.takeover with
    | [] => s
    | p :: rest =>
      let spares := rest.filter fun x => !(carrying s.loom.retired).contains x
      spares.foldl State.columnDone (s.columnDone p))

/-! ### Boundaries (R44, R45, R96, R106, R109, R265) -/

/-- A context's oldest pick that has not started. -/
def State.headOf (s : State) (ctx : Nat) : Option Issued :=
  s.loom.issued.find? fun i => i.ctx == ctx && decide (i.phase = .pending)

/-- The pick may start: its knot has its count, and its context has no pick running that it may not overlap (R96, R265). -/
def State.startable (s : State) (i : Issued) : Bool :=
  (!i.pick.waitEn || s.knotReached i.pick.waitKnot i.pick.waitCount)
    && (s.loom.issued.all fun j => !(j.ctx == i.ctx) || decide (j.phase = .pending) || j.pick.sameShape i.pick)
    && (match s.ctxAt i.ctx with | some c => c.cause.isNone | none => false)

/-- The key of R44 of a service context: the earliest deadline of a request it carries, then the accept order. -/
def State.serviceKey (s : State) (c : Ctx) : Nat × Nat :=
  let far := 2 ^ 128
  let keys := (s.ans.reqs.filter fun r => r.onModel c.model).map fun r =>
    (if r.block.deadlineUs = 0 then far else r.count.toNat + countsOfUs r.block.deadlineUs, r.sid)
  keys.foldl (fun m k => if k.1 < m.1 ∨ (k.1 = m.1 ∧ k.2 < m.2) then k else m) (far, far)

/-- Answer-path picks that may start, in the order of R44. -/
def State.answerPicks (s : State) : List Issued :=
  let cs := sortBy (fun a b => let x := s.serviceKey a; let y := s.serviceKey b; decide (x.1 < y.1) || (x.1 == y.1 && decide (x.2 ≤ y.2)))
    (s.work.ctxs.filter fun c => c.service && c.resident)
  (cs.filterMap fun c => s.headOf c.index).filter s.startable

/-- The run of picks joined by W_REUSE that starts with a pick, in cycles (R45). -/
def State.joinedCycles (s : State) (i : Issued) : Nat :=
  let rest := (s.loom.issued.filter fun j => j.ctx == i.ctx && decide (i.id < j.id)).takeWhile fun j => j.pick.wReuse
  sumOf ((i :: rest).map fun j => j.pick.cycles (s.program? j.pick))

/-- Answer requests are served: no longer run of non-answer picks than 0.05 ms at P0, 42,500 cycles, whatever the step (R45). -/
def State.runFits (s : State) (cycles : Nat) : Bool := s.ans.reqs.isEmpty || decide (cycles ≤ 42500)

/-- The pick of a general context in a slot, if it may start (R45, R265). -/
def State.generalPick (s : State) (slot : Nat) : Option Issued :=
  match s.work.ctxs.find? fun c => c.resident && !c.service && c.slot == some slot && decide (c.state = .running) with
  | none => none
  | some c => (s.headOf c.index).filter fun i => s.startable i && s.runFits (s.joinedCycles i)

/-- The context of a pick is a service context. -/
def State.serves (s : State) (i : Issued) : Bool := match s.ctxAt i.ctx with | some c => c.service | none => false

/-- The pick that W_REUSE joins to the last pick started: there is no boundary before it (R96).  A run that would become too long while
answer requests are served ends before it (R45; log 92). -/
def State.joinedPick (s : State) : Option Issued :=
  match s.loom.lastStart with
  | none => none
  | some k => s.loom.issued.find? fun i =>
      i.id == k + 1 && i.pick.wReuse && decide (i.phase = .pending) && !i.rerun
        && (match s.ctxAt i.ctx with | some c => c.cause.isNone | none => false)
        && (s.serves i || s.runFits (s.loom.runCycles + i.pick.cycles (s.program? i.pick)))

/-- The next pick: one that runs again after a takeover, in issue order (R110); else an answer-path pick; else the general contexts in
turn. -/
def State.nextPick (s : State) : Option Issued :=
  match s.loom.issued.find? fun i => i.rerun && decide (i.phase = .pending) && s.startable i with
  | some i => some i
  | none =>
    match s.answerPicks with
    | i :: _ => some i
    | [] => ((List.range 16).map fun k => (s.work.lastSlot + 1 + k) % 16).findSome? s.generalPick

def State.modIssued (s : State) (id : Nat) (f : Issued → Issued) : State :=
  s.modLoom fun l => { l with issued := updWhere (fun x => x.id == id) f l.issued }

/-- A pick runs with a weight set, which the tiles have loaded into their shadow sets and make active (R95); one that keeps the active
set loads none (R96).  The load and the change stand for one event, since R97 keeps the block unwritten from the issue on. -/
def State.runWith (s : State) (i : Issued) (keep : Bool) : State :=
  let w := if keep then s.loom.active else s.ownSet i.pick
  (s.modLoom fun l => { l with shadow := if keep then l.shadow else w, active := w, lastStart := some i.id }).modIssued i.id fun x =>
    { x with phase := .running, weights := w }

/-- Start a pick; the round-robin of R265 goes on from its slot when its context is general. -/
def State.startPick (s : State) (i : Issued) (joined : Bool) : State :=
  let n := i.pick.cycles (s.program? i.pick)
  let s := (s.runWith i joined).modLoom fun l => { l with runCycles := if joined then l.runCycles + n else n }
  match s.ctxAt i.ctx with
  | some c => if c.service then s.modCtx i.ctx (fun c => { c with state := .running }) else { s with work := { s.work with lastSlot := c.slot.getD s.work.lastSlot } }
  | none => s

/-- A wider run starts, or runs again: its descriptors have passed their checks, else it is a pick fault (R106, R142). -/
def State.startWide (s : State) (i : Issued) : State :=
  match s.ctxAt i.ctx with
  | none => s
  | some c =>
    if s.widePickOk c i then (s.modLoom fun l => { l with lastStart := none }).modIssued i.id fun x => { x with phase := .widening, faults := [] }
    else s.faultCtx i.ctx .pickFault i.pick.layerId

/-- PICK_BOUNDARY: the first replay due in issue order, else the first wider run due, else the next pick (R106, R109, R130).  None while a
column takeover runs; and before a pick that W_REUSE joins to the last there is no boundary: it alone may start (R96). -/
def execPickBoundary (s : State) : Outcome :=
  .next (if s.loom.out ∨ s.loom.takeover ≠ [] ∨ s.isReady bitLoom = false then s
    else
      match s.joinedPick with
      | some i => if s.startable i then s.startPick i true else s
      | none =>
        match s.loom.issued.find? fun i => decide (i.phase = .replayDue ∨ i.phase = .wideReplayDue) with
        | some i => if i.phase = .replayDue then s.runWith i false else s.startWide i
        | none =>
          match s.loom.issued.find? fun i => decide (i.phase = .wideDue) with
          | some i => s.startWide i
          | none =>
            match s.nextPick with
            | some i => s.startPick i false
            | none => s)

/-! ### Checks (R99, R109, R110) -/

/-- A GATHER row's address ends above the tile SRAM (R99). -/
def State.gatherBad (s : State) (p : Pick) (r : Nat) : Bool :=
  decide (p.aMode = 2) && decide (tileBytes < p.aBase + s.gatherIdx p r * p.aRStride + p.slotBytes)

/-- GATHER_ADDRESS_FAULT: the shuttle reaches such a row of a running pick (R99, R271). -/
def execGatherAddressFault (id row : Nat) (s : State) : Outcome :=
  .next (match s.loom.issued.find? fun x => x.id == id && decide (x.phase = .running) with
    | none => s
    | some i => if row < i.pick.rows ∧ s.gatherBad i.pick row = true then s.faultCtx i.ctx .gatherFault i.pick.layerId else s)

/-- Distinct picks on which a column has mismatched among the last 1,048,576 checked. -/
def State.mismatchCount (s : State) (p : Nat) : Nat :=
  (nub ((s.loom.mismatches.filter fun m => m.1 == p && decide (s.loom.checked < m.2.2 + 1048576)).map fun m => m.2.1)).length

/-- One logical column mismatched in a check: a CE record, and a failure in a replay or at the fourth pick (R109, R110). -/
def State.mismatch (s : State) (i : Issued) (col : Nat) : State :=
  let p := s.physCol col
  let s := s.logError { cls := .ce, unitType := unitColumn, unitIndex := p, source := 3, layerId := i.pick.layerId, context := some i.ctx }
  let s := s.modLoom fun l => { l with mismatches := l.mismatches ++ [(p, i.id, l.checked)] }
  if 0 < i.replays ∨ 4 ≤ s.mismatchCount p then s.failColumn p 3 else s

/-- The context is to be torn down, or is gone. -/
def State.doomed (s : State) (ctx : Nat) : Bool := match s.ctxAt ctx with | some c => c.cause.isSome | none => true

/-- A pick of a context that is torn down ends; its outputs and its signal are discarded (R271). -/
def State.discardPick (s : State) (i : Issued) : State :=
  let s := s.modLoom fun l => { l with issued := l.issued.filter fun x => !(x.id == i.id) }
  if i.pick.sigEn then { s with work := { s.work with sigFreed := satInc s.work.sigFreed } } else s

/-- The columns that the check of a pick, or of the descriptors of its wider run, finds to mismatch. -/
def State.checkColumns (s : State) (i : Issued) (faults : List ArrayFault) : List Nat :=
  if i.phase = .running then s.mismatched i.pick i.weights (s.inputFn i.pick) faults
  else match s.ctxAt i.ctx with
    | none => []
    | some c => nub ((List.range i.pick.wideN).flatMap fun h =>
        let t := s.stageWide c i h
        let v := t.wideDesc c i h
        t.mismatched v (t.ownSet v) (t.wideFn i.pick v h) (faults.filter fun x => x.desc == h))

/-- Count a pick among those checked, once. -/
def State.countCheck (s : State) (i : Issued) : State :=
  if i.counted then s else (s.modLoom fun l => { l with checked := l.checked + 1 }).modIssued i.id fun x => { x with counted := true }

/-- PICK_CHECK_COMPLETE: the residues of what left the array agree with their prediction and the check passes, or the columns that mismatch
are recorded and the pick is replayed, unless a column has failed, when it runs again after the takeover (R109, R110, R121).  `faults` are
the sums that left the array in error.  A GATHER fault comes before it. -/
def execPickCheckComplete (id : Nat) (faults : List ArrayFault) (s : State) : Outcome :=
  .next (match s.loom.issued.find? fun x => x.id == id && decide (x.phase = .running ∨ x.phase = .widening) with
    | none => s
    | some i =>
      if s.doomed i.ctx then s.discardPick i
      else if ((List.range i.pick.rows).any fun r => s.gatherBad i.pick r) then s.faultCtx i.ctx .gatherFault i.pick.layerId
      else
        let cols := s.checkColumns i faults
        let s := s.countCheck i
        if cols = [] then
          (if i.phase = .running then s.passPick i faults else s.modIssued id fun x => { x with faults := faults })
        else
          let again : Issued → Issued := fun x =>
            { x with phase := if i.phase = .running then .replayDue else .wideReplayDue, replays := x.replays + 1 }
          cols.foldl (fun s c => s.mismatch i c) (s.modIssued id again))

end Sys2Proof.Machine
end

