-- ==== Sys2Proof/Machine/Bindings.lean ====
section
/-! DEFINITION. What the bindings of an image hold in the tiers, and how they go (R156 to R158, R174, R179): shared by the loss of a stack
(chapter 16) and the commands of chapter 6. -/

namespace Sys2Proof.Machine

open Sys2Proof

def State.modImg (s : State) (f : Images → Images) : State := { s with img := f s.img }

/-- Bytes of all sections as stored. -/
def Image.stored (im : Image) : Nat := sumOf (im.sections.map fun e => granules e.length)

/-- Bindings that count on the image's copy, releasing ones too (R157, R158). -/
def State.bindings (s : State) (im : Image) : List Model :=
  s.img.models.filter fun m => m.image == mkHandle im.gen kindImage im.index

/-- An image that has been unloaded and has no binding is freed: its flash, its object, its index (R156). -/
def State.freeImage (s : State) (im : Image) : State :=
  if im.releasedAt.isSome ∧ s.bindings im = [] then
    (s.dropHome im.objId).modImg fun g =>
      { g with images := g.images.filter (fun x => !(x.index == im.index)), imageGens := bumpGen g.imageGens im.index }
  else s

/-- Bytes of a pool of key-value pages of 16 tokens. -/
def kvPoolBytes (pages : Nat) (im : Image) : Nat := granules (16 * im.header.kvBytes * pages)

/-- Object ID of the key-value pool of a binding (log 24). -/
def poolObj (m : Model) : W64 := mkObj 4 (2 ^ 59 + m.index + 64 * m.gen)

/-- The image's entry names the first of its bindings as the owner (R166). -/
def State.ownCopy (s : State) (im : Image) : State :=
  s.modHome im.objId fun h => { h with owner := match s.bindings im with | m :: _ => mkHandle m.gen kindModel m.index | [] => 0 }

/-- The binding goes: its service context with its windows, its pages and their pool, and with the last binding the copy, once no pin covers
it, and an unloaded image (R157, R158, R174). -/
def State.dropModel (s : State) (m : Model) : State :=
  let h := mkHandle m.gen kindModel m.index
  let ctxs := s.work.ctxs.filter fun c => c.model == h && c.service
  let s := ctxs.foldl (fun s c => ((s.releaseWindows fun w => w.ctx == c.index).freeKnotsOf c).removeCtx c.index) s
  let s := ((s.tiers.homes.filter fun x => decide (objKind x.objId = 4) && x.owner == h).map (·.objId)).foldl State.dropHome s
  let s := s.freeHbm poolModel m.kvBase (poolObj m)
  let s := s.modImg fun g =>
    { g with models := g.models.filter (fun x => !(x.index == m.index)), modelGens := bumpGen g.modelGens m.index }
  match s.image? m.image with
  | none => s
  | some im =>
    if s.bindings im = [] then
      (((s.releaseCopy im.objId).ownCopy im).modTiers fun t => { t with fetches := t.fetches.filter fun f => !(f.objId == im.objId) }).freeImage im
    else s.ownCopy im

/-- A BIND_MODEL whose copy is DAMAGED ends so (R179). -/
def State.failBinds (s : State) (sids : List Nat) : State :=
  (s.img.models.filter fun m => match m.binder with | some k => sids.contains k | none => false).foldl (fun s m =>
    (match m.binder with | some k => s.failWith k .damaged | none => s).dropModel m) s

/-- Every waiting fetch of a DAMAGED object ends with DAMAGED. -/
def State.endFetches (s : State) (id : W64) : State :=
  let waiters := (s.tiers.fetches.filter fun f => f.objId == id).flatMap (·.waiters)
  (s.modTiers fun t => { t with fetches := t.fetches.filter fun f => !(f.objId == id) }).failBinds waiters

end Sys2Proof.Machine
end

