-- ==== Sys2Proof/Machine/Link.lean ====
section
/-! DEFINITION. Optical lanes and ports: training, lane faults and spares (R289 to R299, R331 to R334), HELLO, AUDIT and the loss of
a port (R340 to R351). -/

namespace Sys2Proof.Machine

open Sys2Proof

/-- An AUDIT on a flow (R351). -/
def State.audit (s : State) (b c : Nat) : State :=
  let f := s.tx b c
  if f.opened then
    match s.path b c with
    | none => s
    | some (x, _) =>
      ((s.setTx { f with auditing := true }).bumpPort x 7).sendPacket b pktAudit c 0 false false (leBytes 4 f.nextPsn.toNat)
  else s

/-! ### HELLO (R340, R342, R358) -/

/-- LIST_DIGEST: first 8 bytes of SHA3-256 over the member entries (R340). -/
def memberBytes (m : Member) : Buf := Buf.slice m.digest 0 16 ++ leBytes 2 m.leaf ++ List.replicate 14 0

def State.listDigest (s : State) : Buf :=
  match s.fabric.plot with
  | some p => (sha3 (p.members.flatMap memberBytes)).take 8
  | none => List.replicate 8 0

/-- What a request's passes are joined with: its batch, or itself. -/
def State.batchKey (s : State) (sid : Nat) : Nat :=
  match s.ans.batches.find? fun b => b.members.contains sid with
  | some b => 2 * b.id
  | none => 2 * sid + 1

/-- Reservations of a channel in order, each batch's pass at its earliest member's; the other members' are released (R75). -/
def State.headsOn (s : State) (c : Nat) : List Reservation :=
  (s.ans.reservations.filter fun r => r.channels.contains c).foldl
    (fun l r => if l.any fun x => s.batchKey x.sid == s.batchKey r.sid && x.pass == r.pass then l else l ++ [r]) []

/-- Sieve-pass time queued on a channel, in ns (R43, R358). -/
def State.queuedNs (s : State) (c : Nat) : Nat := sumOf ((s.headsOn c).map (·.ns))

/-- LOAD: the largest over the channels (R358). -/
def State.loadNs (s : State) : Nat := maxOf ((List.range 128).map s.queuedNs)

/-- Payload of a HELLO. -/
def State.helloBody (s : State) (dead : Bool) (deadEpoch : Nat) : Buf :=
  leBytes 8 s.plotId.toNat ++ s.listDigest ++ leBytes 2 s.ownMask.toNat ++ [BitVec.ofNat 8 dead.toNat] ++ leBytes 4 s.loadNs
    ++ leBytes 4 (if dead then deadEpoch else 0)

def State.sendHello (s : State) (b : Nat) (dead : Bool) (deadEpoch : Nat) : State :=
  s.sendPacket b pktHello 0 0 false false (s.helloBody dead deadEpoch)

def State.helloAll (s : State) : State := s.others.foldl (fun s b => s.sendHello b false 0) s

/-! ### Ports -/

/-- Port 0 is the host port, port 1 + p is FPp. -/
def State.portAt (s : State) (n : Nat) : Option Port := if n = 0 then some s.hp.port else s.fabric.ports[n - 1]?

def State.modPort (s : State) (n : Nat) (f : Port → Port) : State :=
  if n = 0 then { s with hp := { s.hp with port := f s.hp.port } }
  else s.modFabric fun x => { x with ports := modAt x.ports (n - 1) f }

def State.modLane (s : State) (n slot : Nat) (f : Lane → Lane) : State :=
  s.modPort n fun p => { p with lanes := modAt p.lanes slot f }

def State.lane? (s : State) (n slot : Nat) : Option Lane := (s.portAt n).bind fun p => p.lanes[slot]?

/-- Lane slot number of the error log (R458). -/
def slotNumber (n slot : Nat) : Nat := if n = 0 then slot else if slot = 4 then 56 + (n - 1) / 2 else 8 + 4 * (n - 1) + slot

/-- The port runs in wide-lane mode (R299, R331). -/
def State.portWide (s : State) (n : Nat) : Bool := decide (n ≠ 0) || s.hp.wide

/-- The port may use a slot: slot 4 of a fabric port unless the other port of the pair holds the spare (R333). -/
def State.slotMine (s : State) (n slot : Nat) : Bool :=
  n == 0 || slot != 4 || (match (s.fabric.spareOwner[(n - 1) / 2]?).join with | some o => o == n - 1 | none => true)

/-- A slot has finished training in both directions (R291, R293). -/
def Lane.trained (l : Lane) : Bool := l.rxReady && l.partnerReady && l.lit

/-- Slots of a port that have finished training and that it may use, ascending. -/
def State.trainedSlots (s : State) (n : Nat) : List Nat :=
  match s.portAt n with
  | none => []
  | some p => (List.range p.lanes.length).filter fun i => s.slotMine n i && (match p.lanes[i]? with | some l => l.trained | none => false)

/-- Spares: trained slots that carry no data (R291). -/
def State.spares (s : State) (n : Nat) : List Nat :=
  (s.trainedSlots n).filter fun i => match s.lane? n i with | some l => l.logical.isNone | none => false

/-- The readiness bit of a port clears with it. -/
def State.portDown (s : State) (n : Nat) : State := (s.modPort n fun p => { p with up := false }).dropBits

/-- Flows whose path differs from the one before: audit them (R350). -/
def State.auditChanged (s : State) (old : Nat → Nat → Option (Nat × Nat)) : State :=
  (s.fabric.tx.filter fun f => f.opened && decide (old f.rank f.cls ≠ s.path f.rank f.cls)).foldl (fun s f => s.audit f.rank f.cls) s

/-- The re-routes declared have ended: no audit is without its reply (R350, R403). -/
def State.settleReroute (s : State) : State :=
  if s.fabric.tx.any (·.auditing) then s
  else (((s.fail).declared.filter fun d => d.1 == 5).map (·.2.1)).foldl (fun s u => s.takeoverDone 5 u) s

/-- Loss of FPp: UNIT_FAIL, HELLO on the remaining ports, audits of the flows whose path changed (R334, R350). -/
def State.portLoss (s : State) (p : Nat) : State :=
  match s.fabric.ports[p]? with
  | none => s
  | some x =>
    if x.up then
      let old := s.path
      let s := ((s.unitFail unitPort (1 + p) 5).bumpPort p 4).portDown (1 + p)
      let s := s.modFabric fun f => { f with reroutes := satInc f.reroutes }
      (((s.declare 5 p).helloAll).auditChanged old).settleReroute
    else s

/-- FPp is in service again: it rejoins the list (R334, R350). -/
def State.portReturn (s : State) (p : Nat) : State :=
  match s.fabric.ports[p]? with
  | none => s
  | some x =>
    if x.up then s
    else
      let old := s.path
      let s := s.modPort (1 + p) fun x => { x with up := true }
      let s := if s.boot.phase = .firmware then s.setReady (bitFp p) true else s
      ((s.helloAll).auditChanged old).settleReroute

/-- FABRIC_PORT_LOSS. -/
def execFabricPortLoss (port : Nat) (s : State) : Outcome := .next (s.portLoss port)

/-- The four logical lanes of a port have their slots and no move waits. -/
def Port.mapped (p : Port) (lanes : Nat) : Bool :=
  p.swaps.isEmpty && (List.range lanes).all fun l => p.lanes.any fun x => x.logical == some l

/-- Lane takeovers of a port that end with its alignment (R295, R403). -/
def State.lanesDone (s : State) (n : Nat) : State :=
  (((s.fail).declared.filter fun d => d.1 == 2 && d.2.1 / 64 == n).map (·.2.1)).foldl
    (fun s u => (if n = 0 then s else s.bumpPort (n - 1) 3).takeoverDone 2 u) s

/-- The PCS of a port has aligned on all its lanes. -/
def State.aligned (s : State) (n : Nat) : State :=
  match s.portAt n with
  | none => s
  | some p =>
    if p.mapped (if s.portWide n then 4 else 8) then
      if n = 0 then
        let s := s.modPort 0 fun p => { p with up := true }
        (s.setReady bitHostport (s.bitCond bitHostport)).lanesDone 0
      else (s.portReturn (n - 1)).lanesDone n
    else s

/-- PCS_ALIGNED (R295, R334). -/
def execPcsAligned (port : Nat) (s : State) : Outcome := .next (s.aligned port)

/-- FABRIC_PORT_RETURN (R334). -/
def execFabricPortReturn (port : Nat) (s : State) : Outcome := .next (if port < 12 then s.aligned (1 + port) else s)

/-! ### Training (R292, R293) -/

/-- The training word's fields (table *Training word*). -/
structure TrainWord where
  slot : Nat := 0
  rxReady : Bool := false
  precode : Bool := false
  tap : Nat := 0
  req : Nat := 0
  sts : Nat := 0
  swapOp : Nat := 0
  swapLogical : Nat := 0
  swapSlot : Nat := 0
  seq : Nat := 0
  deriving DecidableEq, Repr

/-- Bits [63:16] of a training word. -/
def TrainWord.body (w : TrainWord) : Nat :=
  w.seq % 2 ^ 16 * 2 ^ 16 + w.swapSlot % 8 * 2 ^ 45 + w.swapLogical % 4 * 2 ^ 48 + w.swapOp % 4 * 2 ^ 50 + w.sts % 4 * 2 ^ 52
    + w.req % 4 * 2 ^ 54 + w.tap % 8 * 2 ^ 56 + w.precode.toNat * 2 ^ 59 + w.rxReady.toNat * 2 ^ 60 + w.slot % 8 * 2 ^ 61

/-- CRC-16 over bits [63:16], taken from bit 63 down (log 30). -/
def trainCrc (v : Nat) : W16 := crc16 ((List.range 6).map fun i => BitVec.ofNat 8 (v / 2 ^ (56 - 8 * i)))

def TrainWord.encode (w : TrainWord) : W64 := BitVec.ofNat 64 (w.body + (trainCrc w.body).toNat)

/-- The fields of a word whose CRC holds. -/
def parseTrain (v : W64) : Option TrainWord :=
  let n := v.toNat
  if trainCrc n = v.truncate 16 then
    some { slot := bitsOf n 61 3, rxReady := v.getLsbD 60, precode := v.getLsbD 59, tap := bitsOf n 56 3, req := bitsOf n 54 2
           sts := bitsOf n 52 2, swapOp := bitsOf n 50 2, swapLogical := bitsOf n 48 2, swapSlot := bitsOf n 45 3
           seq := bitsOf n 16 16 }
  else none

/-- The partner's tap request: the tap moves, and STS answers; where a tap's limit lies is not stated (log 4). -/
def Lane.request (l : Lane) (w : TrainWord) : Lane :=
  if w.req = 0 then { l with sts := 0 }
  else if 5 ≤ w.tap then { l with sts := 3 }
  else
    let move := fun (t : Int) => if w.req = 1 then t + 1 else if w.req = 2 then t - 1 else 0
    { l with taps := modAt l.taps w.tap move, sts := 1 }

/-- The sled's next training frame on a slot, with a swap message.  What its receiver asks of the partner's equaliser, and whether it asks
for precoding, is not stated: free values (R293, log 4).  A frame counts once four slots have finished training (R293). -/
def State.sendTraining (s : State) (n slot op logical target : Nat) : State :=
  match s.lane? n slot with
  | none => s
  | some l =>
    let w : TrainWord :=
      { slot := slot, rxReady := l.rxReady, precode := (Config.word s.free).getLsbD 0, tap := (Config.word s.free).toNat / 2 % 5
        req := (Config.word s.free).toNat / 16 % 4, sts := l.sts.toNat, swapOp := op, swapLogical := logical, swapSlot := target
        seq := l.seq.toNat + 1 }
    let counts := l.trained && decide (4 ≤ (s.trainedSlots n).length)
    ((s.fresh.2).modLane n slot fun l => { l with seq := l.seq + 1, further := if counts then l.further + 1 else 0 }).emit
      (.training n slot w.encode)

/-! ### Moves of a logical lane (R294, R295, R333) -/

/-- A swap message on every spare. -/
def State.sendSwap (s : State) (n op logical target : Nat) : State :=
  (s.spares n).foldl (fun s i => s.sendTraining n i op logical target) s

/-- The slot that a move names: the lowest-numbered spare that no other move names. -/
def State.swapTarget (s : State) (n : Nat) : Option Nat :=
  match s.portAt n with
  | none => none
  | some p => (s.spares n).find? fun i => !(p.swaps.any fun w => w.slot == i)

/-- The moves of a port are kept in ascending logical order. -/
def insertSwap (w : Swap) (l : List Swap) : List Swap := insertBy (fun a b => decide (a.logical ≤ b.logical)) w l

/-- The logical lane moves to its spare (R295); the port that takes the pair's spare holds it (R333). -/
def State.moveLane (s : State) (n : Nat) (w : Swap) : State :=
  let s := s.modPort n fun p =>
    { p with swaps := p.swaps.filter (fun x => x.logical != w.logical)
             lanes := modAt (p.lanes.map fun l => if l.logical == some w.logical then { l with logical := none } else l) w.slot
               fun l => { l with logical := some w.logical } }
  if n ≠ 0 ∧ w.slot = 4 then s.modFabric fun f => { f with spareOwner := modAt f.spareOwner ((n - 1) / 2) fun _ => some (n - 1) } else s

/-- The request for the first move of a port that has sent none. -/
def State.requestSwap (s : State) (n : Nat) : State :=
  match (s.portAt n).bind fun p => p.swaps.head? with
  | some w =>
    if w.sentRequest ∨ w.sentGrant then s
    else (s.modPort n fun p => { p with swaps := p.swaps.map fun x => if x.logical == w.logical then { x with sentRequest := true } else x }).sendSwap
      n 1 w.logical w.slot
  | none => s

/-- The lane that carries a logical lane stops: the MAC stops and the port is down. -/
def State.stopLane (s : State) (n logical : Nat) (faulty : Bool) : State :=
  let stop := fun (l : Lane) =>
    if l.logical == some logical then
      (if faulty then { l with logical := none, faulty := true, rxReady := false, partnerReady := false, further := 0 } else { l with logical := none })
    else l
  let s := s.modPort n fun p => { p with lanes := p.lanes.map stop }
  if n = 0 then s.portDown 0 else s.portLoss (n - 1)

/-- LANE_FAULT: a working lane is declared faulty; with a spare ready the logical lane moves to it (R294 to R296, R298, R333). -/
def execLaneFault (port logical : Nat) (s : State) : Outcome :=
  .next (match s.portAt port with
    | none => s
    | some p =>
      match (List.range p.lanes.length).find? fun i => (match p.lanes[i]? with | some l => l.logical == some logical | none => false) with
      | none => s
      | some slot =>
        if s.portWide port then
          let s := (s.unitFail unitLane (slotNumber port slot) 5).stopLane port logical true
          match s.swapTarget port with
          | none => s
          | some t =>
            let w : Swap := { logical := logical, slot := t, sentRequest := false, sentGrant := false, received := false }
            ((s.modPort port fun p => { p with swaps := insertSwap w p.swaps }).declare 2 (64 * port + logical)).requestSwap port
        else s.stopLane port logical true)

/-- A swap request or grant of the partner reaches the sled on a spare (R295). -/
def State.receiveSwap (s : State) (n : Nat) (grant : Bool) (logical slot : Nat) : State :=
  match s.portAt n with
  | none => s
  | some p =>
    match p.swaps.find? fun w => w.logical == logical with
    | some w =>
      if p.swaps.head? ≠ some w then s
      else
        let target := if grant then w.slot else min w.slot slot
        ((s.moveLane n { w with slot := target, received := true }).requestSwap n)
    | none =>
      if grant ∨ ¬ (s.spares n).contains slot then s
      else
        let w : Swap := { logical := logical, slot := slot, sentRequest := false, sentGrant := true, received := true }
        (((s.stopLane n logical false).declare 2 (64 * n + logical)).sendSwap n 2 logical slot).moveLane n w

/-- LANE_SWAP (R295). -/
def execLaneSwap (port : Nat) (grant : Bool) (logical slot : Nat) (s : State) : Outcome :=
  .next (if s.portWide port then s.receiveSwap port grant logical slot else s)

/-- TRAINING_FRAME: a word whose CRC holds acts on a slot in training; the sled answers with its own frame (R292, R293).
`adapted` says whether the sled's receiver is adapted. -/
def execTrainingFrame (port slot : Nat) (word : W64) (adapted : Bool) (s : State) : Outcome :=
  .next (match s.lane? port slot with
    | none => s
    | some l =>
      if l.lit = false ∨ l.logical.isSome = true ∨ s.portWide port = false then s
      else
        let s := s.modLane port slot fun l =>
          { l with rxReady := adapted, faulty := l.faulty && !adapted, further := if adapted then l.further else 0 }
        match parseTrain word with
        | none => s
        | some w =>
          let s := s.modLane port slot fun l => 
            { l.request w with partnerReady := w.rxReady, precode := w.precode, further := if w.rxReady then l.further else 0 }
          let s := if w.swapOp = 1 ∨ w.swapOp = 2 then s.receiveSwap port (decide (w.swapOp = 2)) w.swapLogical w.swapSlot else s
          match s.lane? port slot with
          | some l => if l.logical.isNone then s.sendTraining port slot 0 0 0 else s
          | none => s)

/-- Slots that start to carry data: the four lowest trained slots, once 64 further frames have been sent on each, or the eight lanes of DR8 (R291, R293, R298, R333). -/
def State.dataSlots (s : State) (n : Nat) : Option (List Nat) :=
  if s.portWide n then
    (let slots := (s.trainedSlots n).take 4
    if slots.length = 4 ∧ slots.all (fun i => match s.lane? n i with | some l => decide (64 ≤ l.further) | none => false) then some slots else none)
  else
    (match s.portAt n with
      | some p => if p.lanes.all (·.lit) then some (List.range 8) else none
      | none => none)

/-- LANES_TO_DATA: both ends switch to data in logical order (R293). -/
def execLanesToData (port : Nat) (s : State) : Outcome :=
  .next (match s.portAt port, s.dataSlots port with
    | some p, some slots =>
      if p.up ∨ p.swaps ≠ [] then s
      else
        let s := s.modPort port fun p =>
          { p with lanes := p.lanes.zipIdx.map fun (l, i) => { l with logical := (List.range slots.length).find? fun k => slots[k]? == some i } }
        if port ≠ 0 ∧ slots.contains 4 = true then
          s.modFabric fun f => { f with spareOwner := modAt f.spareOwner ((port - 1) / 2) fun _ => some (port - 1) }
        else s
    | _, _ => s)

/-- TRAINING_TIMEOUT: a slot without RX_READY 2.0 s after its training started is counted and keeps training (R293).  The
telemetry block has one such counter, the host port's. -/
def execTrainingTimeout (port slot : Nat) (s : State) : Outcome :=
  .next (match s.lane? port slot with
    | some l =>
      if port = 0 ∧ l.rxReady = false ∧ l.logical = none then { s with hp := { s.hp with trainingLate := satInc s.hp.trainingLate } } else s
    | none => s)

/-- HOSTPORT_MODE_TIMER: no link for 10 s; the sled tries the other mode, and every slot trains afresh (R299). -/
def execHostportModeTimer (s : State) : Outcome :=
  .next (if s.hp.port.up then s
    else
      let s := s.modPort 0 fun p => { p with swaps := [], lanes := p.lanes.map fun l => { lit := l.lit, seq := l.seq } }
      { s with hp := { s.hp with wide := !s.hp.wide } })

end Sys2Proof.Machine
end

