-- ==== Sys2Proof/Machine/Failover.lean ====
section
/-! DEFINITION. Failover (chapter 16): control cores, hand-offs, hubs, HBM stacks and laser sources. -/

namespace Sys2Proof.Machine

open Sys2Proof

def State.modFail (s : State) (f : Failover → Failover) : State := { s with fail := f s.fail }

/-- A DEVICE_FATAL event of a unit (R379). -/
def State.deviceFatal (s : State) (unitType unitIndex : Nat) (addr : W64) (source : Nat) : State :=
  s.logError { cls := .deviceFatal, unitType := unitType, unitIndex := unitIndex, addr := addr, source := source }

/-! ### Control cores (R391, R392, R402) -/

/-- The lowest-numbered spare core in service. -/
def Failover.spareCore (f : Failover) : Option Nat := (List.range 32).find? fun c => f.coresSpare.getLsbD c

/-- A core is working, or starting in a takeover, or a spare. -/
def Failover.coreKnown (f : Failover) (c : Nat) : Bool :=
  f.coresIn.getLsbD c || f.coresSpare.getLsbD c || f.coreTakeovers.any fun t => t.2 == c

/-- The spare leaves the spares and starts in place of a core. -/
def State.startSpare (s : State) (core spare : Nat) (declared : Bool) : State :=
  let s := s.modFail fun f =>
    { f with coresSpare := setBit f.coresSpare spare false
             coreTakeovers := f.coreTakeovers.filter (fun t => t.1 != core) ++ [(core, spare)] }
  if declared then s else s.declare 1 core

/-- A control core fails: UNIT_FAIL, retirement, and the next spare starts for a core that worked or was starting; an unused
spare needs no takeover; with no spare left DEVICE_FATAL. -/
def State.failCore (s : State) (core source : Nat) : State :=
  let f := s.fail
  if f.coreKnown core = false then s
  else
    let s := s.unitFail unitCore core source
    let s := s.modFail fun f =>
      { f with coresIn := setBit f.coresIn core false, coresSpare := setBit f.coresSpare core false
               coresRetired := setBit f.coresRetired core true }
    match f.coreTakeovers.find? fun t => t.2 == core with
    | some t =>
      (match (s.fail).spareCore with
        | some k => s.startSpare t.1 k true
        | none => (s.modFail fun f => { f with coreTakeovers := f.coreTakeovers.filter fun x => x.1 != t.1 }).deviceFatal unitCore core 0 source)
    | none =>
      if f.coresSpare.getLsbD core then s.takeoverDone 1 core
      else
        match (s.fail).spareCore with
        | some k => s.startSpare core k false
        | none => (s.handOverDescs (.core core) none).deviceFatal unitCore core 0 source

/-- CORE_HEARTBEAT_TIMEOUT: a core's heartbeat is absent 10 ms (R391). -/
def execCoreHeartbeatTimeout (core : Nat) (s : State) : Outcome :=
  .next (if core < 32 ∧ (s.fail).coresIn.getLsbD core = true then s.failCore core 7 else s)

/-- CORE_TAKEOVER_COMPLETE: the oldest core takeover ends; every thread of the failed core has resumed on the spare (R392). -/
def execCoreTakeoverComplete (s : State) : Outcome :=
  .next (match (s.fail).coreTakeovers with
    | [] => s
    | (core, spare) :: rest =>
      (((s.handOverDescs (.core core) (some (.core spare))).modFail) fun f =>
        { f with coreTakeovers := rest, coresIn := setBit f.coresIn spare true
                 threads := updWhere (fun t => t.core == core) (fun t => { t with core := spare }) f.threads }).takeoverDone 1 core)

/-- Cores in service, ascending. -/
def Failover.coreList (f : Failover) : List Nat := (List.range 32).filter fun c => f.coresIn.getLsbD c

/-- The thread of an index; its home core is not stated when it is first met: a core in service (log 32). -/
def State.threadFor (s : State) (i : Nat) : Thread × State :=
  match (s.fail).threads.find? fun t => t.index == i with
  | some t => (t, s)
  | none =>
    let n := s.fresh.1
    let t : Thread := { index := i, core := (cyclic (s.fail).coreList (Config.word n).toNat).getD 0 }
    (t, s.fresh.2.modFail fun f => { f with threads := f.threads ++ [t] })

/-- HANDOFF_EFFECT: a receiver applies a hand-off only when its number is one above the last it applied from the thread; a
repeat is dropped and counted; what a failed core delivers is discarded and counted (R386, R387, R391).  A hub's answer
goes into the thread's reply queue. -/
def execHandoffEffect (thread : Nat) (receiver : Receiver) (n : W32) (s : State) : Outcome :=
  .next (if 1024 ≤ thread then s
    else
      let t := s.threadFor thread
      let s := t.2
      if (s.fail).coreTakeovers.any fun x => x.1 == t.1.core then s.isolate
      else
        let key := fun (e : Nat × Receiver × W32) => e.1 == thread && decide (e.2.1 = receiver)
        let last := (((s.fail).effects.find? key).map (·.2.2)).getD 0
        if n = last + 1 then
          let isHub := match receiver with | .hub _ => true | _ => false
          s.modFail fun f =>
            { f with effects := upsert key (thread, receiver, n) f.effects
                     threads := updWhere (fun x => x.index == thread)
                       (fun x => { x with journal := x.journal + 1, replies := if isHub then x.replies ++ [n.toNat] else x.replies }) f.threads }
        else { s with integ := { s.integ with dropped := satInc s.integ.dropped } })

/-! ### Furrow hubs (R80, R396, R397, R399, R402) -/

/-- Channels of a hub. -/
def hubChannels (h : Nat) : List Nat := (List.range 8).map (8 * h + ·)

/-- Sieve passes that run on the channels end without a contribution; they are read again (R80). -/
def State.dropSieves (s : State) (chans : List Nat) : State :=
  { s with ans := { s.ans with sieves := s.ans.sieves.filter fun v => !chans.contains v.channel } }

/-- A submission writes through programs on channels that have left service: MEDIA_ERROR (R321, R399). -/
def State.failWrites (s : State) (chans : List Nat) : State :=
  let hit := s.flash.programs.filter fun p => chans.contains p.channel
  let s := (nub (hit.filterMap (·.sid))).foldl State.failProgram s
  (s.modFlash fun f => { f with programs := f.programs.filter fun p => !(hit.any fun x => x.grp == p.grp) }).kickWrites

/-- Both hubs of a pair are retired: sixteen channels leave service; reads on them go to their rebuild (R399). -/
def State.pairOut (s : State) (h : Nat) : State :=
  let chans := hubChannels h ++ hubChannels (h ^^^ 1)
  let s := s.modFail fun f =>
    { f with channelsOut := chans.foldl (fun m c => setBit m c true) f.channelsOut
             hubTakeovers := f.hubTakeovers.filter (fun x => x != h ^^^ 1)
             hubsServing := setBit (setBit f.hubsServing h false) (h ^^^ 1) false
             declared := f.declared.filter fun d => !(d.1 == 3 && d.2.1 == h ^^^ 1) }
  let onPair := fun (r : Reading) => match s.entry? r.obj r.extent with | some m => chans.contains m.channel | none => false
  ((s.dropSieves chans).failWrites chans).modFlash fun f =>
    { f with reads := updWhere onPair (fun r => { r with step := 7 }) f.reads }

/-- A hub fails: UNIT_FAIL, FHh clears, retirement, isolation; its buddy takes over (R396, R397), unless it is retired. -/
def State.failHub (s : State) (h source : Nat) : State :=
  if 16 ≤ h ∨ (s.fail).hubsRetired.getLsbD h then s
  else
    let s := (s.unitFail unitHub h source).setReady (bitFh h) false
    let s := s.modFail fun f => { f with hubsRetired := setBit f.hubsRetired h true }
    if (s.fail).hubsRetired.getLsbD (h ^^^ 1) then s.pairOut h
    else ((s.modFail fun f => { f with hubTakeovers := f.hubTakeovers ++ [h] }).dropSieves (hubChannels h)).declare 3 h

/-- HUB_HEARTBEAT_TIMEOUT (R396). -/
def execHubHeartbeatTimeout (hub : Nat) (s : State) : Outcome := .next (s.failHub hub 7)

/-- TETHER_LINK_LOSS (R396). -/
def execTetherLinkLoss (hub : Nat) (s : State) : Outcome := .next (s.failHub hub 5)

/-- The open block sets of the channels are closed and queued for their verify read (R397). -/
def State.closeOpen (s : State) (chans : List Nat) : State :=
  let opened := s.flash.blocks.filter fun b => chans.contains b.channel && !b.closed && decide (b.mode ≠ .erased) && !b.retired
  s.modFlash fun f =>
    { f with blocks := updWhere (fun b => opened.contains b) (fun b => { b with closed := true }) f.blocks
             verifyQueue := f.verifyQueue ++ opened.map fun b => (b.channel, b.die, b.index) }

/-- A program of the failed hub is issued again, with a fresh number of its channel. -/
def State.reprogram (s : State) (p : Programming) : State :=
  let w := s.takeWseq p.channel
  w.2.modFlash fun f =>
    { f with programs := updWhere (fun x => x.channel == p.channel && x.wseq == p.wseq) (fun x => { x with wseq := w.1, done := none }) f.programs }

/-- HUB_TAKEOVER_COMPLETE: the buddy serves the eight channels; each channel's WSEQ resumes after its last allotted block;
programs and reads start again; open block sets are closed (R397). -/
def execHubTakeoverComplete (hub : Nat) (s : State) : Outcome :=
  .next (if (s.fail).hubTakeovers.contains hub then
      let chans := hubChannels hub
      let s := s.modFail fun f =>
        { f with hubTakeovers := f.hubTakeovers.filter (fun x => x != hub), hubsServing := setBit f.hubsServing (hub ^^^ 1) true }
      let s := chans.foldl (fun s c => s.modChannel c fun ch => { ch with wseq := ch.allotted, allotted := ch.allotted + 65536 }) s
      let s := (s.flash.programs.filter fun p => chans.contains p.channel).foldl State.reprogram s
      let mine := fun (r : Reading) => match s.entry? r.obj r.extent with | some m => chans.contains m.channel | none => false
      let s := s.modFlash fun f => { f with reads := updWhere (fun r => mine r && decide (r.step ≤ 6)) (fun r => { r with step := 0 }) f.reads }
      (s.closeOpen chans).takeoverDone 3 hub
    else s)

/-! ### HBM stacks (R161, R180, R184, R400) -/

/-- Extents of a run of bytes. -/
def extentRun (a len : Nat) : List Nat := if len = 0 then [] else (List.range ((a + len - 1) / 65536 - a / 65536 + 1)).map (a / 65536 + ·)

/-- The order in which the extents of an image are fetched (R180): first those of ENTRY, LIVE, EPI, PARAM, KVSCALE and
DESC; then those of WEIGHTS and WIDE by the index of the first pick that reads, or names, them. -/
def Image.fetchOrder (im : Image) : List Nat :=
  let first := ([0x06, 0x07, 0x02, 0x03, 0x0A, 0x01].filterMap im.placeOf).flatMap fun p => extentRun p.2 p.1.length
  let byPick := (List.range im.desc.length).flatMap fun i =>
    let p := (im.desc[i]?).getD {}
    (match im.placeOf 0x04 with
      | some w => if im.takesSet i then extentRun (w.2 + im.setOffset i) (4096 * p.unitBytes) else []
      | none => [])
    ++ (if p.wideAddr = 0 then [] else extentRun p.wideAddr (128 * p.wideN) ++ (List.range p.wideN).flatMap fun h =>
        let off := p.wideAddr - im.wideOffsets.1 + 128 * h
        extentRun (im.wideOffsets.1 + im.wideSetOffset off) (4096 * (parsePick (Buf.slice (im.part 0x05) off 128)).unitBytes))
  nub (first ++ byPick ++ List.range (extentsOf im.span))

/-- The order in which the extents of a sealed object are fetched. -/
def State.sealedOrder (s : State) (h : Home) : List Nat :=
  match s.img.images.find? fun i => i.objId == h.objId with
  | some im => im.fetchOrder
  | none => List.range (extentsOf h.bytes)

/-- Sealed copies fetch the extents that hold a granule of a stack (R184). -/
def State.refetch (s : State) (x : Nat) : State :=
  (s.tiers.homes.filter fun h => h.sealedObj && h.hbmCopy).foldl (fun s h =>
    let hit := extentsWhere (fun a => stackOf a == x) h.addr.toNat h.bytes
    ((s.sealedOrder h).filter fun e => hit.contains e).foldl (fun s e => s.fetchExtent h.objId e []) s) s

/-- The homes, and the copies of sealed objects, that have a granule for which `p` holds. -/
def State.homesWhere (s : State) (p : Nat → Bool) : List Home :=
  s.tiers.homes.filter fun h => !h.gone && (if h.sealedObj then h.hbmCopy else decide (h.tier = .hbm)) && (granulesOf h.addr.toNat h.bytes).any p

/-- A sealed object is DAMAGED, with the fetches that wait on it, or a mutable object is (R182, R183). -/
def State.objLost (s : State) (h : Home) : State :=
  if h.sealedObj then (s.markDamaged h.objId).endFetches h.objId else s.mutableLost h.objId

/-- Every object with a granule that no stack serves is DAMAGED (R161). -/
def State.damageLost (s : State) : State := (s.homesWhere s.hbmLost).foldl State.objLost s

/-- An HBM stack fails: UNIT_FAIL, HBMx clears, retirement; the first one's granules are filled on the other 23, and a dead stack no longer
reads its mutable granules; a further one has no relocation space (R161, R184, R400). -/
def State.failStack (s : State) (x source : Nat) (dead : Bool) : State :=
  if 24 ≤ x ∨ s.tiers.retiredStacks.contains x then s
  else
    let first := s.tiers.retiredStacks.isEmpty
    let s := (s.unitFail unitHbm (64 * x) source).setReady (bitHbm x) false
    let s := s.modTiers fun t => { t with retiredStacks := t.retiredStacks ++ [x] }
    if first then
      let s := if dead then ((s.homesWhere fun a => stackOf a == x).filter fun h => !h.sealedObj).foldl State.objLost s else s
      ((s.modTiers fun t => { t with refilling := some x }).refetch x).declare 4 x
    else s.damageLost

/-- HBM_LINK_LOSS: the PHY fails to train or loses its link, and the stack reads nothing more (R184, R400). -/
def execHbmLinkLoss (stack : Nat) (s : State) : Outcome := .next (s.failStack stack 7 true)

/-- Mutable objects whose home has a word that the failed stack no longer reads without error (R184). -/
def State.unreadable (s : State) (x : Nat) : List Home :=
  s.tiers.homes.filter fun h => !h.gone && !h.sealedObj && decide (h.tier = .hbm) && s.integ.flips.any fun w =>
    w.1 == 0 && decide (2 ≤ w.2.2.length) && stackOf (8 * w.2.1) == x && decide (h.addr.toNat ≤ 8 * w.2.1) && decide (8 * w.2.1 < h.addr.toNat + h.bytes)

/-- System-region words in error on the failed stack are rebuilt from their slots' parity (R162, R184). -/
def State.rebuildSystem (s : State) (x : Nat) : State :=
  (s.integ.flips.filter fun w => w.1 == 0 && decide (8 * w.2.1 < systemBytes) && stackOf (8 * w.2.1) == x).foldl (fun s w => s.rebuildWord (8 * w.2.1)) s

/-! ### Laser sources (R393 to R395) -/

/-- Light what the modules in service can light; ports that lose a working lane so are lost (R394). -/
def State.relight (s : State) : State :=
  let up := s.portsUp
  let t := s.light
  let t := up.foldl (fun t p =>
    match t.fabric.ports[p]? with
    | some x => if x.mapped 4 then t else t.portLoss p
    | none => t) t
  if popCount (t.fail).lasersIn = 0 then t.portDown 0 else t

/-- A module faults or is removed; one in service opens its UNIT_FAIL record, and the rest take up its load (R393). -/
def State.laserFault (s : State) (module : Nat) (removed : Bool) : State :=
  if 4 ≤ module then s
  else
    let was := (s.fail).lasersIn.getLsbD module
    let s := s.modFail fun f =>
      { f with lasersIn := setBit f.lasersIn module false
               lasersPresent := if removed then setBit f.lasersPresent module false else f.lasersPresent }
    if was then ((s.unitFail unitLaser module 7).relight).takeoverDone 6 module else s

/-- LASER_MODULE_FAULT. -/
def execLaserModuleFault (module : Nat) (removed : Bool) (s : State) : Outcome := .next (s.laserFault module removed)

/-- LASER_MODULE_INSERT: a module in an empty bay is tested and in service; dark lanes are lit and train (R395). -/
def execLaserModuleInsert (module : Nat) (s : State) : Outcome :=
  .next (if 4 ≤ module ∨ (s.fail).lasersPresent.getLsbD module = true then s
    else (s.modFail fun f =>
      { f with lasersIn := setBit f.lasersIn module true, lasersPresent := setBit f.lasersPresent module true }).light)

end Sys2Proof.Machine
end

