-- ==== Sys2Proof/Machine/Power.lean ====
section
/-! DEFINITION. Input power, slot signals, regulators, shed and flush, performance steps, thermal limits, ageing and clocks
(chapters 18 and 19, R254 to R256, R26 to R31). -/

namespace Sys2Proof.Machine

open Sys2Proof

def State.modPower (s : State) (f : Power → Power) : State := { s with power := f s.power }

/-! ### Shed and flush (R254 to R256, R402, R432, R434) -/

/-- Takeovers in progress are abandoned; the retirements stand, and their end state is set up at the next start (R385, R402). -/
def State.abandonTakeovers (s : State) : State :=
  let s := s.modLoom fun l => { l with retired := l.retired ++ l.takeover.filter (fun c => !l.retired.contains c), takeover := [] }
  let s := s.modTiers fun t => { t with refilling := none }
  s.modFail fun f =>
    { f with coresIn := f.coresIn ||| f.coreTakeovers.foldl (fun m t => m ||| (1#32 <<< t.2)) 0#32, coreTakeovers := []
             hubTakeovers := [], declared := [] }

/-- The Loom, the optics and Woane are off; the map checkpoint and rebuilds are abandoned (tables *Sag flush*, *Sag
overlaps*). -/
def State.shed (s : State) : State :=
  let s := s.abandonTakeovers
  let s := s.modLoom fun l => { l with issued := [] }
  let dark := fun (p : Port) => { p with up := false, swaps := [], lanes := p.lanes.map fun l => { l with logical := none } }
  let s := { s with hp := { s.hp with port := dark s.hp.port }, fabric := { s.fabric with ports := s.fabric.ports.map dark } }
  let s := s.modFlash fun f => { f with checkpointing := false, reads := f.reads.filter fun r => decide (r.step < 7) }
  ((s.setReady bitLoom false).setReady bitIndex false).dropBits

/-- The shed and flush starts, or the event joins the one that runs (R432).  `off`: the regulators turn off after it. -/
def State.flush (s : State) (cause : FlushCause) (off : Bool) : State :=
  match s.power.flush with
  | some _ => s.modPower fun p => { p with offAfterFlush := p.offAfterFlush || off }
  | none => (s.modPower fun p => { p with flush := some cause, offAfterFlush := off }).shed

/-- Regulators off, PWRGD deasserted (R464). -/
def State.powerOff (s : State) : State := s.modPower fun p => { p with regulatorsOn := false, pwrgd := false, startedSince := false }

/-- What turns the regulators off: through a flush once the sled has started, at once before (R463). -/
def State.flushOff (s : State) (cause : FlushCause) : State := if s.power.startedSince then s.flush cause true else s.powerOff

/-- What the flush leaves on flash: incomplete parity units, the journal, the sag record (R251, R254); nothing once a SHUTDOWN has
completed, so that its record stays valid (R253). -/
def State.writeSag (s : State) : State :=
  if s.sasel.shutdownDone then s
  else
  s.flushUnits.modFlash fun f =>
    { f with journalSeq := s.sasel.eventSeq, journals := f.journals + 1
             sagRecord := true, cleanShutdown := false }

/-- The flush has ended and the sled resets; the regulators turn off where the cause says so (R254, R430, R431, R441,
R445, R464).  But for an over-voltage trip, the 10 ms of the Start condition count from then on (R455). -/
def State.flushEnd (s : State) : State :=
  match s.power.flush with
  | none => s
  | some c =>
    let off := s.power.offAfterFlush
    let started := s.power.startedSince
    let s := s.writeSag.resetNow
    if off then s.powerOff.modPower fun p => { p with runStart := if c = .overVoltage then p.runStart else 0 }
    else s.modPower fun p => { p with startedSince := started }

/-- SAG_FLUSH_END. -/
def execSagFlushEnd (s : State) : Outcome := .next s.flushEnd

/-! ### The input (R26, R27, R429, R430, R463) -/

/-- The SAG_WARN event: nothing before the start (R463); during a flush it joins (R432). -/
def State.sagWarn (s : State) : State :=
  if s.power.startedSince = false then s
  else if s.power.flush = some .sagWarn then s
  else (s.modPower fun p => { p with sagEvents := satInc p.sagEvents }).flush .sagWarn false

/-- SAG_WARN: the input falls to 44.0 V. -/
def execSagWarn (s : State) : Outcome := .next s.sagWarn

/-- Over-voltage trip: once until the input has been at most 58.0 V for 10 ms (R430, R463). -/
def State.overTrip (s : State) : State :=
  if s.power.overTripped then s
  else (s.modPower fun p => { p with overTripped := true, runBelowOver := 0, overTrips := satInc p.overTrips }).flushOff .overVoltage

/-- OVER_VOLTAGE_TRIP. -/
def execOverVoltageTrip (s : State) : Outcome := .next s.overTrip

/-- The input falls to 37.0 V: regulators off, PWRGD deasserted, and a reset once the sled has started (R430, R463). -/
def State.inputReset (s : State) : State :=
  let started := s.power.startedSince
  let s := s.powerOff.modPower fun p => { p with flush := none, offAfterFlush := false }
  if started then s.resetNow.powerOff else s

/-- INPUT_RESET_THRESHOLD. -/
def execInputResetThreshold (s : State) : Outcome := .next s.inputReset

/-- Regulator modules in service. -/
def State.regulatorCount (s : State) : Nat := popCount s.power.regulators

/-- The regulators may run: PWR_EN asserted, the bank charged, no trip that holds them off, enough modules, no flush that ends
with them off (R430, R431, R441, R445, R454, R455). -/
def State.mayPower (s : State) : Bool :=
  s.power.pwrEn && s.power.bankCharged && !s.power.overTripped && !s.power.tripLatched && decide (10 ≤ s.regulatorCount)
    && !s.power.offAfterFlush

/-- The Start condition is met: the regulators start (R430, R431). -/
def State.startCondition (s : State) : State :=
  if s.mayPower then
    s.modPower fun p =>
      { p with startMet := true, startSeen := true, regulatorsOn := true
               startedSince := if p.regulatorsOn then p.startedSince else false }
  else s

/-- START_CONDITION: the input has held at least 46.0 V for 10 ms with PWR_EN asserted. -/
def execStartCondition (s : State) : Outcome := .next s.startCondition

/-- EXCURSION_END: the input has stayed within 46.0–58.0 V for 10 ms (R430). -/
def State.excursionEnd (s : State) : State := s.modPower fun p => { p with excursion := false, runRange := 0 }
def execExcursionEnd (s : State) : Outcome := .next s.excursionEnd

/-- Consecutive samples that meet a condition. -/
def consecutive (met : Bool) (n : Nat) : Nat := if met then n + 1 else 0

/-- The monitor's counts after a sample (R429, R430). -/
def Power.sampled (mv : Nat) (p : Power) : Power :=
  let inRange := decide (46000 ≤ mv) && decide (mv ≤ 58000)
  { p with
    inputMv := mv, lowMv := min p.lowMv mv, highMv := max p.highMv mv
    runReset := consecutive (decide (mv ≤ 37000)) p.runReset, runOver := consecutive (decide (60000 ≤ mv)) p.runOver
    runSag := consecutive (decide (mv ≤ 44000)) p.runSag, runRange := consecutive inRange p.runRange
    runStart := consecutive (decide (46000 ≤ mv) && p.pwrEn && p.bankCharged) p.runStart
    runBelowOver := consecutive (decide (mv ≤ 58000)) p.runBelowOver
    startMet := p.startMet && decide (46000 ≤ mv)
    housekeeping := decide (30000 ≤ mv), bankCharged := p.bankCharged && decide (30000 ≤ mv) }

/-- The Excursion condition is evaluated on every sample by itself, while PWR_EN is asserted and the Start condition has
been met since (R27, R429). -/
def State.noteExcursion (s : State) : State :=
  let p := s.power
  if p.pwrEn && p.startSeen && (decide (p.inputMv < 46000) || decide (58000 < p.inputMv)) then
    let s := s.modPower fun p => { p with leftRange := true }
    if p.excursion then s else (s.modPower fun p => { p with excursion := true }).count ctrSupply
  else s

/-- The conditions of the table *Input thresholds* but the Excursion, in its order; only the first acts (R429). -/
def State.thresholds (s : State) : State :=
  let p := s.power
  if p.runReset = 3 then s.inputReset
  else if p.runOver = 3 then s.overTrip
  else if p.runReset < 3 ∧ p.runSag = 3 then s.sagWarn
  else if 10000 ≤ p.runStart then s.startCondition
  else s

/-- The 10 ms in range that end an excursion, and the 10 ms at most 58.0 V that end an over-voltage trip (R430). -/
def State.windows (s : State) : State :=
  let s := if s.power.excursion ∧ 10000 ≤ s.power.runRange then s.excursionEnd else s
  if s.power.overTripped ∧ 10000 ≤ s.power.runBelowOver then s.modPower fun p => { p with overTripped := false } else s

/-- INPUT_SAMPLE: the monitor, which the housekeeping supply powers, takes one sample and evaluates the thresholds (R429). -/
def execInputSample (mv : Nat) (s : State) : Outcome :=
  .next (if s.power.housekeeping then (((s.modPower (Power.sampled mv)).noteExcursion).thresholds).windows else s)

/-! ### Slot signals (R431, R451 to R455) -/

/-- HOUSEKEEPING_POWER_ON: the input reaches 30 V (R452). -/
def execHousekeepingPowerOn (s : State) : Outcome := .next (s.modPower fun p => { p with housekeeping := true })

/-- HOLDUP_BANK_CHARGED (R454). -/
def execHoldupBankCharged (s : State) : Outcome :=
  .next (if s.power.housekeeping then s.modPower fun p => { p with bankCharged := true } else s)

/-- PRESENT_L_CHANGE: at mating the slot sets SLOT_ID; unmated, the pull-ups do (R451, R452, R454). -/
def execPresentLChange (asserted : Bool) (pins : BitVec 6) (s : State) : Outcome :=
  .next (s.modPower fun p => { p with presentL := asserted, slotPins := if asserted then pins else 0x3F#6 })

/-- PWR_EN_ASSERT: the start may follow; a thermal trip whose THERMTRIP_L has released is over (R431, R445). -/
def execPwrEnAssert (s : State) : Outcome :=
  .next (if s.power.pwrEn then s
    else s.modPower fun p =>
      { p with pwrEn := true, runStart := 0, startSeen := false, tripLatched := p.tripLatched && p.thermtrip })

/-- PWR_EN_DEASSERT: shed and flush, then regulators off (R431, R432, R463). -/
def execPwrEnDeassert (s : State) : Outcome :=
  .next (if s.power.pwrEn then
      (s.modPower fun p => { p with pwrEn := false, startMet := false, startSeen := false, runStart := 0 }).flushOff .pwrEnOff
    else s)

/-- PWRGD_ASSERT: the Start condition holds and every regulator module in service is in regulation (R431). -/
def execPwrgdAssert (s : State) : Outcome :=
  .next (if s.power.startMet ∧ s.power.regulatorsOn then s.modPower fun p => { p with pwrgd := true } else s)

/-- RESET_L_ASSERT: held for 10 µs it is a reset, after a flush that runs; shorter it has no effect (R432, R453, R455). -/
def execResetLAssert (heldUs : Nat) (s : State) : Outcome :=
  .next (if heldUs < 10 then s
    else
      let s := s.modPower fun p => { p with resetL := true }
      if s.flushing then s
      else
        let started := s.power.startedSince
        s.resetNow.modPower fun p => { p with startedSince := started })

/-- RESET_L_RELEASE (R404). -/
def execResetLRelease (s : State) : Outcome := .next (s.modPower fun p => { p with resetL := false })

/-! ### Regulators (R401, R440, R441) -/

/-- A regulator module fails: UNIT_FAIL, retirement; the rest carry its load at once; with fewer than 10 the sled flushes and
powers off. -/
def State.failRegulator (s : State) (m source : Nat) : State :=
  if m < 16 ∧ s.power.regulators.getLsbD m = true then
    let s := ((s.modPower fun p => { p with regulators := setBit p.regulators m false }).unitFail unitRegulator m source).takeoverDone 7 m
    if s.regulatorCount < 10 then s.flushOff .underCount else s
  else s

/-- REGULATOR_FAULT. -/
def execRegulatorFault (module : Nat) (s : State) : Outcome := .next (s.failRegulator module 7)

/-- Input power cap in W with the modules in service (R401). -/
def capW (n : Nat) : Nat := if 15 ≤ n then 2750 else 2750 * n / 15

/-- The lowest-numbered step whose maximum input power does not exceed the cap (R440, table *Performance steps*). -/
def capStep (n : Nat) : Nat :=
  let c := capW n
  if 2750 ≤ c then 0 else if 2400 ≤ c then 1 else if 2100 ≤ c then 2 else 3

/-! ### Performance steps (R439, R440, R442) -/

/-- The step that a demand asks for (table *Thermal limits*). -/
def Demand.step : Demand → Nat
  | .dieP1 | .inletP1 | .flowP1 => 1
  | .dieP2 | .hbmP2 => 2
  | .dieP3 | .hbmP3 | .inletP3 | .flowP3 | .outletP3 => 3

/-- The step that the demands, the regulator cap and the ageing ceiling allow (R440). -/
def State.requiredStep (s : State) : Nat :=
  max (maxOf (s.power.demands.map Demand.step)) (max (capStep s.regulatorCount) s.power.ageingCeiling)

/-- F of a step, in hundredths (table *Performance steps*). -/
def stepFactor (n : Nat) : Nat := if n = 0 then 100 else if n = 1 then 125 else if n = 2 then 150 else 200

def State.setStep (s : State) (n : Nat) : State := s.modPower fun p => { p with step := n, stepChanges := satInc p.stepChanges }

/-- STEP_CHANGE: a higher-numbered step that is demanded takes effect (R440, R442). -/
def execStepChange (s : State) : Outcome := .next (if s.power.step < s.requiredStep then s.setStep s.requiredStep else s)

/-- STEP_LOWER_TIMER: every demand has allowed a lower step for 1 s (R440). -/
def execStepLowerTimer (s : State) : Outcome := .next (if s.requiredStep < s.power.step then s.setStep s.requiredStep else s)

/-! ### Thermal limits (R30, R31, R444, R445) -/

/-- The hottest of a list of readings. -/
def hottest (l : List Int) : Int := l.foldl max (-100000)

/-- A reading has reached the threshold of a demand. -/
def Demand.arises (r : Readings) : Demand → Bool
  | .dieP1 => decide (9500 ≤ hottest r.die)
  | .dieP2 => decide (10000 ≤ hottest r.die)
  | .dieP3 => decide (10500 ≤ hottest r.die)
  | .hbmP2 => decide (9000 ≤ hottest r.hbm)
  | .hbmP3 => decide (9500 ≤ hottest r.hbm)
  | .inletP1 => decide (4000 < r.inlet)
  | .inletP3 => decide (4500 < r.inlet)
  | .flowP1 => decide (r.flow < 450)
  | .flowP3 => decide (r.flow < 300)
  | .outletP3 => decide (6500 < r.outlet)

/-- A reading lies beyond the threshold and its hysteresis. -/
def Demand.lifts (r : Readings) : Demand → Bool
  | .dieP1 => decide (hottest r.die < 9000)
  | .dieP2 => decide (hottest r.die < 9500)
  | .dieP3 => decide (hottest r.die < 10000)
  | .hbmP2 => decide (hottest r.hbm < 8500)
  | .hbmP3 => decide (hottest r.hbm < 9000)
  | .inletP1 => decide (r.inlet < 3800)
  | .inletP3 => decide (r.inlet < 4300)
  | .flowP1 => decide (480 ≤ r.flow)
  | .flowP3 => decide (330 ≤ r.flow)
  | .outletP3 => decide (r.outlet < 6200)

def allDemands : List Demand := [.dieP1, .dieP2, .dieP3, .hbmP2, .hbmP3, .inletP1, .inletP3, .flowP1, .flowP3, .outletP3]

/-- The coolant requirement: inlet at most 40 °C, flow at least 4.5 L/min (R444). -/
def Readings.coolantOk (r : Readings) : Bool := decide (r.inlet ≤ 4000) && decide (450 ≤ r.flow)

/-- A coolant excursion begins as a reading leaves the requirement and ends after 10 s within both (R444). -/
def State.coolant (s : State) (r : Readings) : State :=
  if r.coolantOk then
    let n := s.power.runCoolant + 1
    s.modPower fun p => { p with runCoolant := n, coolant := p.coolant && decide (n < 10000) }
  else
    let t := s.modPower fun p => { p with runCoolant := 0, coolant := true }
    if s.power.coolant then t else t.count ctrCoolant

/-- Channels paused: at least 85 °C pauses, at most 80 °C resumes. -/
def pauseNand (m : BitVec 128) (temps : List Int) : BitVec 128 :=
  temps.zipIdx.foldl (fun m t => if 8500 ≤ t.1 then setBit m t.2 true else if t.1 ≤ 8000 then setBit m t.2 false else m) m

/-- A trip: THERMTRIP_L, shed and flush, regulators off (R445, R463). -/
def State.thermalTrip (s : State) : State :=
  if s.power.thermtrip then s
  else (s.modPower fun p => { p with thermtrip := true, tripLatched := true }).flushOff .thermal

/-- THERMAL_TRIP. -/
def execThermalTrip (s : State) : Outcome := .next s.thermalTrip

/-- SENSOR_READ: demands, coolant, hub and laser faults, NAND pauses, trips (R444). -/
def execSensorRead (r : Readings) (s : State) : Outcome :=
  .next (let s := s.modPower fun p =>
      { p with readings := r, nandPaused := pauseNand p.nandPaused r.nand
               demands := allDemands.filter fun d => p.demands.contains d || d.arises r }
    let s := s.coolant r
    let s := r.hub.zipIdx.foldl (fun s t => if 10000 ≤ t.1 then s.failHub t.2 7 else s) s
    let s := r.laser.zipIdx.foldl (fun s t => if 7000 ≤ t.1 then s.laserFault t.2 false else s) s
    if 11500 ≤ hottest r.die ∨ 10500 ≤ hottest r.hbm then s.thermalTrip else s)

/-- DEMAND_LIFT_TIMER: the reading has lain beyond the hysteresis for 1 s (R444). -/
def execDemandLiftTimer (d : Demand) (s : State) : Outcome :=
  .next (if d.lifts s.power.readings then s.modPower fun p => { p with demands := p.demands.filter fun x => x != d } else s)

/-- THERMTRIP_RELEASE: PWR_EN has been deasserted for 1 s (R445). -/
def execThermtripRelease (s : State) : Outcome :=
  .next (if s.power.pwrEn then s else s.modPower fun p => { p with thermtrip := false })

/-! ### Ageing (R446, R447) -/

/-- A domain's reading, its voltage `marginMv` below its maximum: with too little slack the guard band rises by 5 mV, never beyond the
maximum, and what is left is the margin (R446; DESIGN CHOICE, log 1). -/
def VDomain.replan (slackLow : Bool) (marginMv : Nat) (d : VDomain) : VDomain :=
  let rise := if slackLow then min 5 marginMv else 0
  { d with guardMv := d.guardMv + rise, marginMv := marginMv - rise }

/-- AGEING_MONITOR: a reading is taken and its part re-planned. -/
def execAgeingMonitor (r : AgeReading) (s : State) : Outcome :=
  .next (match r with
    | .domain n slackLow marginMv =>
      s.modPower fun p => { p with domains := modAt p.domains n (VDomain.replan slackLow marginMv) }
    | .channel c margin => s.modPower fun p => { p with chanMargin := modAt p.chanMargin c fun _ => margin }
    | .laser n biasUa margin =>
      let s := s.modPower fun p => { p with laserAge := modAt p.laserAge n fun _ => { biasUa := biasUa, margin := margin } }
      if margin = 0 then s.laserFault n false else s
    | .lane slot eye adapted =>
      s.modPower fun p =>
        { p with laneEye := modAt p.laneEye slot (fun _ => eye)
                 laneAdapt := if adapted then modAt p.laneAdapt slot satInc else p.laneAdapt })

/-- AGEING_CEILING: a domain at 0 mV whose monitors still report too little slack lowers the ceiling by one step; at P3 its
tile columns, all 66 of them, fail (R447). -/
def execAgeingCeiling (domain : Nat) (s : State) : Outcome :=
  .next (match s.power.domains[domain]? with
    | none => s
    | some d =>
      if d.marginMv ≠ 0 then s
      else if s.power.ageingCeiling < 3 then s.modPower fun p => { p with ageingCeiling := p.ageingCeiling + 1 }
      else (List.range 66).foldl (fun s c => s.failColumn c 7) s)

/-- CLOCK_WAKE: a request to a stopped unit raises a wake request, and its clock runs again (R437). -/
def execClockWake (unit : Nat) (s : State) : Outcome :=
  .next (s.modPower fun p => { p with stoppedClocks := p.stoppedClocks.filter fun u => u != unit })

/-! ### Time (R438, R449) -/

/-- P-clock counts of 1 ms. -/
def countsPerMs : Nat := 425000

/-- One cycle of the P-clock: the counter of the control cluster counts, and each full millisecond of a started sled adds to the
time at the step in force (R449). -/
def State.tick (s : State) : State :=
  let n := s.pclk + 1#64
  if n.toNat % countsPerMs = 0 ∧ s.boot.phase ≠ .off then
    { s with pclk := n, power := { s.power with stepMs := modAt s.power.stepMs s.power.step satInc } }
  else { s with pclk := n }

end Sys2Proof.Machine
end

