-- ==== Sys2Proof/Machine/Integrity.lean ====
section
/-! DEFINITION. Memory integrity (chapter 15): reads of protected words, the Rake, FILL, self-tests, the error log as host
software reads it, and the retirement of memory. -/

namespace Sys2Proof.Machine

open Sys2Proof

def State.modInteg (s : State) (f : Integrity → Integrity) : State := { s with integ := f s.integ }

/-! ### Words in error (R361) -/

def memCode : MemUnit → Nat
  | .hbm => 0 | .tile => 1 | .cc => 2

/-- Bytes of a memory: 1,104 GiB, 4,224 tiles of 1.5 MiB, 64 MiB. -/
def memBytes : MemUnit → Nat
  | .hbm => hbmBytes | .tile => 4224 * tileBytes | .cc => ccBytes

def memFault : MemUnit → Fault
  | .hbm => .hbmAddress | .tile => .tileAddress | .cc => .ccAddress

/-- Flipped positions of a word. -/
def State.flipsOf (s : State) (m w : Nat) : List Nat := ((s.integ.flips.find? fun x => x.1 == m && x.2.1 == w).map (·.2.2)).getD []

def State.setFlips (s : State) (m w : Nat) (l : List Nat) : State :=
  s.modInteg fun g =>
    { g with flips := if l = [] then g.flips.filter (fun x => !(x.1 == m && x.2.1 == w)) else upsert (fun x => x.1 == m && x.2.1 == w) (m, w, l) g.flips }

/-- Positions that flip again are right again. -/
def flipMore (old new : List Nat) : List Nat :=
  new.foldl (fun l p => if 72 ≤ p then l else if l.contains p then l.filter (· != p) else l ++ [p]) old

/-- Unit type, unit index and ADDR of a word (table *Error units*). -/
def State.wordUnit (s : State) (u : MemUnit) (a : Nat) : Nat × Nat × Nat :=
  match u with
  | .hbm =>
    let p := s.hbmPlace a
    (unitHbm, 64 * p.1 + Config.bank p.1 (p.2 / granuleBytes) % 64, a)
  | .tile => (unitTile, a / tileBytes, a % tileBytes)
  | .cc => (unitCc, a / 2 ^ 20, a)

/-! ### Failures that UE records bring about (R380) -/

/-- The counter of distinct keys of a tile or stack, and the key. -/
def ueCounter (e : ErrEvent) : Option (Nat × Nat) :=
  if e.cls ≠ .ue then none
  else if e.unitType = unitTile then some (e.unitIndex, e.addr.toNat / 4096)
  else if e.unitType = unitHbm then some (2 ^ 20 + e.unitIndex / 64, e.unitIndex % 64)
  else none

/-- Two distinct pages of one tile, eight distinct banks of one stack: the column, or the stack, fails (R380). -/
def State.countUe (s : State) (e : ErrEvent) : State :=
  match ueCounter e with
  | none => s
  | some (i, k) =>
    let old := (assocGet i s.integ.ueKeys).getD []
    let keys := if old.contains k then old else old ++ [k]
    let s := s.modInteg fun g => { g with ueKeys := assocSet i keys g.ueKeys }
    if i < 2 ^ 20 then (if 2 ≤ keys.length then s.failColumn (i % 66) e.source else s)
    else if 8 ≤ keys.length then s.failStack (i - 2 ^ 20) e.source false else s

/-- An error is logged; a UE record that opens counts for R380. -/
def State.logCounted (s : State) (e : ErrEvent) : State :=
  let t := s.logError e
  if s.integ.nextSeq < t.integ.nextSeq then t.countUe e else t

/-! ### Handling of a UE (R367) -/

/-- Write a word, with its check bits. -/
def State.storeWord (s : State) (u : MemUnit) (a : Nat) (v : Nat) : State :=
  let bytes := leBytes 8 v
  let s := s.setFlips (memCode u) (a / 8) []
  match u with
  | .hbm => { s with mems := { s.mems with hbm := s.mems.hbm.writeBytes a bytes } }
  | .tile => { s with mems := { s.mems with tile := s.mems.tile.writeBytes a bytes } }
  | .cc => { s with mems := { s.mems with cc := s.mems.cc.writeBytes a bytes } }

/-- The word is rewritten with what it held: from parity, from flash, or by the staging engine. -/
def State.rewritten (s : State) (u : MemUnit) (a : Nat) : State := s.setFlips (memCode u) (a / 8) []

/-- Another granule of the slot of the system region is uncorrectable as well (R367). -/
def State.secondInSlot (s : State) (a : Nat) : Bool :=
  s.integ.flips.any fun x => x.1 == 0 && decide (2 ≤ x.2.2.length) && slotOf (8 * x.2.1) == slotOf a
    && 8 * x.2.1 / granuleBytes != a / granuleBytes

/-- The resident context whose range holds an offset of tile SRAM, in a tile that carries a logical column. -/
def State.ctxOfTile (s : State) (a : Nat) : Option Ctx :=
  if (carrying s.loom.retired).contains (a / tileBytes % 66) then
    s.work.ctxs.find? fun c => c.resident && (match s.ctxImage c with
      | some im => inRange c.tb im.header.sramFootprint (a % tileBytes) (a % tileBytes + 8)
      | none => false)
  else none

def State.ctxOfCc (s : State) (a : Nat) : Option Ctx :=
  s.work.ctxs.find? fun c => c.resident && (match s.ctxImage c with
    | some im => inRange c.cb im.header.csFootprint a (a + 8)
    | none => false)

/-- The pick that a context runs. -/
def State.runningOf (s : State) (ctx : Nat) : Option Issued :=
  s.loom.issued.find? fun i => i.ctx == ctx && decide (i.phase = .running ∨ i.phase = .widening)

/-- The pick that read a word of a window is replayed (R109, R367). -/
def State.replayPick (s : State) (i : Issued) : State :=
  let again := fun (x : Issued) =>
    { x with phase := if x.phase = .running then .replayDue else .wideReplayDue, replays := x.replays + 1 }
  s.modLoom fun l => { l with issued := updWhere (fun x => x.id == i.id) again l.issued }

/-- The staged windows of a context that hold the word at an address of tile SRAM (R169). -/
def State.windowsAt (s : State) (c : Ctx) (a : Nat) : List Window :=
  s.tiers.windows.filter fun w => w.ctx == c.index && w.staged && w.pieces.any fun p =>
    let lo := s.tileAddr p.row p.col (c.tb + p.off)
    decide (lo < a / 8 * 8 + 8) && decide (a / 8 * 8 < lo + p.len)

/-- A word in the pools: that of a sealed copy is fetched afresh, a mutable object with its home there is DAMAGED, the HBM copy of a replicated
version is written again from flash, and so is the destination or the old home of a move; an unallocated word is filled (R181, R183, R367). -/
def State.poolUe (s : State) (a : Nat) : State :=
  match s.tiers.homes.find? fun h => !h.gone && (if h.sealedObj then h.hbmCopy else decide (h.tier = .hbm))
      && decide (h.addr.toNat ≤ a) && decide (a < h.addr.toNat + h.bytes) with
  | some h => if h.sealedObj then s.fetchExtent h.objId ((a - h.addr.toNat) / 65536) [] else s.mutableLost h.objId
  | none => if s.tiers.allocs.any fun x => decide (x.1 ≤ a) && decide (a < x.1 + x.2.1) && objKind x.2.2 != 4 then s.rewritten .hbm a else s.storeWord .hbm a 0

/-- What holds the word decides (table *Handling of a UE*).  `demand` is false for the Rake, which is no pick. -/
def State.handleUe (s : State) (u : MemUnit) (a : Nat) (demand : Bool) (source : Nat) : State :=
  match u with
  | .hbm =>
    if a < systemBytes then
      (if s.secondInSlot a then
        let w := s.wordUnit .hbm a
        s.deviceFatal w.1 w.2.1 (BitVec.ofNat 64 w.2.2) source
      else (s.rebuildWord (a / 8 * 8)).rewritten .hbm a)
    else s.poolUe a
  | .tile =>
    (match s.ctxOfTile a with
    | none => s.storeWord .tile a 0
    | some c =>
      match s.windowsAt c a with
      | w :: _ =>
        let s := (s.writeWindow c w).rewritten .tile a
        (match s.runningOf c.index with
        | some i => if demand then s.replayPick i else s
        | none => s)
      | [] =>
        if demand then s.faultCtx c.index .pickFault ((s.runningOf c.index).map (·.pick.layerId) |>.getD 0)
        else s)
  | .cc =>
    (match s.ctxOfCc a with
    | none =>
      let w := s.wordUnit .cc a
      s.deviceFatal w.1 w.2.1 (BitVec.ofNat 64 w.2.2) source
    | some c => if demand then s.faultCtx c.index .pickFault ((s.runningOf c.index).map (·.pick.layerId) |>.getD 0) else s)

/-- The context concerned by an error in a word. -/
def State.wordCtx (s : State) (u : MemUnit) (a : Nat) : Option Nat :=
  match u with
  | .hbm => none
  | .tile => (s.ctxOfTile a).map (·.index)
  | .cc => (s.ctxOfCc a).map (·.index)

/-- One error of a word, as it reaches the log. -/
def State.wordError (s : State) (u : MemUnit) (a source : Nat) (cls : ErrClass) (bit syn : Byte) : ErrEvent :=
  let w := s.wordUnit u a
  { cls := cls, unitType := w.1, unitIndex := w.2.1, addr := BitVec.ofNat 64 w.2.2, source := source, context := s.wordCtx u a
    bit := bit, syndrome := syn }

/-- A corrected word: a CE, and the write-back, which is withheld where a write of other traffic (`raced`, its 8 B) reached the word after the
read: that write stands (R361, R363).  The syndrome is internal to the sled (R361). -/
def State.correct (s : State) (u : MemUnit) (a source pos : Nat) (raced : Option Buf) : State :=
  let syn : Byte := (Config.word s.free).truncate 8
  let s := s.fresh.2
  let s := s.logError (s.wordError u a source .ce (BitVec.ofNat 8 pos) syn)
  match raced with
  | none => (s.setFlips (memCode u) (a / 8) []).modInteg fun g => { g with writeBacks := satInc g.writeBacks }
  | some b => (s.storeWord u a (Buf.le b 0 8)).modInteg fun g => { g with withheld := satInc g.withheld }

/-- An uncorrectable word: a UE record, and its handling. -/
def State.uncorrectable (s : State) (u : MemUnit) (a source : Nat) (demand : Bool) : State :=
  let syn : Byte := (Config.word s.free).truncate 8
  let s := s.fresh.2
  (s.logCounted (s.wordError u a source .ue 0xFF#8 syn)).handleUe u a demand source

/-- A read of a word, and whether it met a UE: no error; one bit, corrected; two, uncorrectable; of three or more the manual says nothing,
and the outcome is free (R361). -/
def State.lookWord (s : State) (u : MemUnit) (a source : Nat) (demand : Bool) (raced : Option Buf) : State × Bool :=
  match s.flipsOf (memCode u) (a / 8) with
  | [] => (s, false)
  | [p] => (s.correct u a source p raced, false)
  | [_, _] => (s.uncorrectable u a source demand, true)
  | _ =>
    let k := (Config.word s.free).toNat % 3
    let s := s.fresh.2
    if k = 0 then (s, false) else if k = 1 then (s.correct u a source ((Config.word s.free).toNat % 72) raced, false)
    else (s.uncorrectable u a source demand, true)

def State.readWord (s : State) (u : MemUnit) (a source : Nat) (demand : Bool) (raced : Option Buf) : State := (s.lookWord u a source demand raced).1

/-- The bytes of a memory. -/
def State.memOf (s : State) (u : MemUnit) : Memory := match u with | .hbm => s.mems.hbm | .tile => s.mems.tile | .cc => s.mems.cc

/-- A write of less than 8 B: the word is read, the new bytes are merged and the result is written; when the read meets a UE, nothing is
written, and the UE is handled as for a reader (R362). -/
def State.mergeWord (s : State) (u : MemUnit) (a off : Nat) (b : Buf) : State :=
  let r := s.lookWord u a 0 true none
  if r.2 then r.1
  else
    let old := (r.1.memOf u).readBytes a 8
    r.1.storeWord u a (Buf.le (overlay old (off % 8) (b.take (8 - off % 8))) 0 8)

/-- A granule of a retired stack that is not yet filled (R184). -/
def State.unfilled (s : State) (a : Nat) : Bool := s.tiers.refilling == some (stackOf a)

/-- MEMORY_READ: a demand read of the word at an address; `flipped` are the positions that have flipped since it was last looked at (R361);
`merge` gives offset and bytes of the write of less than 8 B that makes the read (R362).  A read of a granule that a stack's takeover has not
filled yet waits for it (R184); the write that makes it waits as the reader does.  `raced` is the write that reaches the word between a read
that corrects it and the write-back (R363). -/
def execMemoryRead (unit : MemUnit) (addr : Nat) (flipped : List Nat) (merge : Option (Nat × Buf)) (raced : Option Buf) (s : State) : Outcome :=
  if memBytes unit ≤ addr then .fault (memFault unit)
  else
    let a := addr / 8 * 8
    let s := s.setFlips (memCode unit) (addr / 8) (flipMore (s.flipsOf (memCode unit) (addr / 8)) flipped)
    .next (if unit = .hbm ∧ s.unfilled a = true then s.modTiers fun t => { t with heldReads := t.heldReads ++ [(a, merge)] }
      else match merge with
        | some (off, b) => s.mergeWord unit a off b
        | none => s.readWord unit a 0 true raced)

/-- HBM_STACK_RETIREMENT: the relocation areas are filled, when every fetch for the stack has ended: the system region from parity, mutable
granules from the stack where it reads them, else their objects are DAMAGED; the reads that waited are made (R184). -/
def execHbmStackRetirement (stack : Nat) (s : State) : Outcome :=
  .next (if s.tiers.refilling = some stack ∧ s.tiers.fetches.all (fun f =>
        match s.home? f.objId with
        | some h => !(extentsWhere (fun a => stackOf a == stack) h.addr.toNat h.bytes).contains f.extent
        | none => true) = true then
      let lost := s.unreadable stack
      let held := s.tiers.heldReads
      let s := (lost.foldl State.objLost s).rebuildSystem stack
      let s : State := { s with integ := { s.integ with flips := s.integ.flips.filter fun w => !(w.1 == 0 && stackOf (8 * w.2.1) == stack) } }
      let s := (s.modTiers fun t => { t with refilling := none, heldReads := [] }).takeoverDone 4 stack
      held.foldl (fun s r => match r.2 with | some (off, b) => s.mergeWord .hbm r.1 off b | none => s.readWord .hbm r.1 0 true none) s
    else s)

/-! ### The Rake (R365, R368 to R370) -/

/-- FILL writes a pattern, with its check bits, to every word of a range (R365). -/
def State.fillWords (s : State) (u : MemUnit) (a : Nat) (v : Nat) : Nat → State
  | 0 => s
  | n + 1 => (s.storeWord u a v).fillWords u (a + 8) v n

/-- FILL. -/
def execFill (unit : MemUnit) (addr words : Nat) (pattern : W64) (s : State) : Outcome :=
  if memBytes unit < addr / 8 * 8 + 8 * words then .fault (memFault unit)
  else .next (s.fillWords unit (addr / 8 * 8) pattern.toNat words)

/-- The first word at or after `w` whose piece, of `per` words, is not retired, searching `n` pieces. -/
def skipRetired (retired : Nat → Bool) (per : Nat) : Nat → Nat → Nat
  | 0, w => w
  | n + 1, w => if retired (w / per) then skipRetired retired per n ((w / per + 1) * per) else w

/-- A granule is retired by itself or with its bank (R381). -/
def State.granuleRetired (s : State) (g : Nat) : Bool :=
  s.integ.granules.contains g || s.integ.banks.any fun b =>
    let p := s.hbmPlace (g * granuleBytes)
    b.1 == p.1 && Config.bank p.1 (p.2 / granuleBytes) % 64 == b.2

/-- A page of tile SRAM is retired in every tile. -/
def State.pageRetired (s : State) (p : Nat) : Bool := s.integ.pages.contains (p % 384)

/-- The next word of the HBM walk, by word address. -/
def State.hbmWord (s : State) : Nat :=
  let w := skipRetired s.granuleRetired 512 (s.integ.granules.length + 1) (s.integ.hbmNext % (hbmBytes / 8))
  w % (hbmBytes / 8)

/-- Words of tile SRAM, and of both memories of the SRAM walk. -/
def tileWords : Nat := 4224 * tileBytes / 8
def sramWords : Nat := tileWords + ccBytes / 8

/-- The next word of the SRAM walk. -/
def State.sramWord (s : State) : Nat :=
  let w := s.integ.sramNext % sramWords
  if w < tileWords then skipRetired s.pageRetired 512 (s.integ.pages.length + 1) w else w

/-- RAKE_READ: the Rake reads the next word of a walk and goes on; after the last word it starts again (R368). -/
def execRakeRead (sram : Bool) (flipped : List Nat) (raced : Option Buf) (s : State) : Outcome :=
  .next (if sram then
      let w := s.sramWord
      let s := s.modInteg fun g => { g with sramNext := (w + 1) % sramWords }
      let u : MemUnit := if w < tileWords then .tile else .cc
      let a := if w < tileWords then 8 * w else 8 * (w - tileWords)
      (s.setFlips (memCode u) (a / 8) (flipMore (s.flipsOf (memCode u) (a / 8)) flipped)).readWord u a 1 false raced
    else
      let w := s.hbmWord
      let s := s.modInteg fun g => { g with hbmNext := (w + 1) % (hbmBytes / 8) }
      (s.setFlips 0 w (flipMore (s.flipsOf 0 w) flipped)).readWord .hbm (8 * w) 1 false raced)

/-- RAKE_LAP_END: the lap's duration in seconds, and one lap more (R370). -/
def execRakeLapEnd (sram : Bool) (seconds : Nat) (s : State) : Outcome :=
  .next (s.modInteg fun g =>
    if sram then { g with sramLast := BitVec.ofNat 64 seconds, sramLaps := satInc g.sramLaps, sramNext := 0 }
    else { g with hbmLast := BitVec.ofNat 64 seconds, hbmLaps := satInc g.hbmLaps, hbmNext := 0 })

/-- A lap time named by SET_RAKE: 0, or in range (R369). -/
def lapOk (v lo hi : Nat) : Bool := decide (v = 0) || (decide (lo ≤ v) && decide (v ≤ hi))

/-- SET_RAKE (R369). -/
def execSetRake (sid : Nat) (s : State) : Outcome :=
  .next (s.run sid 0xEA fun u s =>
    let h := u.entry.arg0.toNat
    let r := u.entry.arg1.toNat
    s.settle u (when (!lapOk h 3600 2592000 || !lapOk r 60 86400) .badField) fun s =>
      (s.modInteg fun g => { g with hbmLap := if h = 0 then g.hbmLap else h, sramLap := if r = 0 then g.sramLap else r }).completeOk u)

/-! ### Self-tests and errors of other units (R366, R374, R380) -/

/-- The unit that a checker serves has been retired, and is not tested (R385). -/
def State.checkerRetired (s : State) (unitType index : Nat) : Bool :=
  if unitType = unitTile then s.loom.retired.contains (index % 66) || decide (4224 ≤ index)
  else if unitType = unitColumn then s.loom.retired.contains index || decide (66 ≤ index)
  else if unitType = unitHbm then s.tiers.retiredStacks.contains (index / 64) || decide (24 ≤ index / 64)
  else if unitType = unitHub then (s.fail).hubsRetired.getLsbD index || decide (16 ≤ index)
  else if unitType = unitCore then (s.fail).coresRetired.getLsbD index || decide (32 ≤ index)
  else if unitType = unitCc then decide (64 ≤ index)
  else true

/-- CHECKER_SELF_TEST: a failure adds 1 to the counter and fails the unit, or is DEVICE_FATAL (R366). -/
def execCheckerSelfTest (unitType index : Nat) (pass : Bool) (s : State) : Outcome :=
  .next (if pass ∨ s.checkerRetired unitType index then s
    else
      let s := s.modInteg fun g => { g with selfTest := satInc g.selfTest }
      if unitType = unitTile then s.failColumn (index % 66) 2
      else if unitType = unitColumn then s.failColumn index 2
      else if unitType = unitHbm then s.failStack (index / 64) 2 false
      else if unitType = unitHub then s.failHub index 2
      else if unitType = unitCore then s.failCore index 2
      else s.deviceFatal unitCc index 0 2)

/-- The units that have events of class DEVICE_FATAL (table *DEVICE_FATAL events*). -/
def fatalUnit (t : Nat) : Bool := t == unitHbm || t == unitCc || t == unitCore || t == unitKnot

/-- ERROR_LOG_EVENT: an error reaches the log engine (R374, R375).  A UNIT_FAIL of a unit with a takeover declares its
failure; a UE record may fail a column or a stack (R380). -/
def execErrorLogEvent (e : ErrEvent) (s : State) : Outcome :=
  .next (match e.cls with
    | .ce => s.logError e
    | .ue => s.logCounted e
    | .deviceFatal => if fatalUnit e.unitType then s.logError e else s
    | .unitFail =>
      if e.unitType = unitColumn then s.failColumn e.unitIndex e.source
      else if e.unitType = unitHub then s.failHub e.unitIndex e.source
      else if e.unitType = unitHbm then s.failStack (e.unitIndex / 64) e.source false
      else if e.unitType = unitCore then s.failCore e.unitIndex e.source
      else if e.unitType = unitRegulator then s.failRegulator e.unitIndex e.source
      else s.logError e)

/-! ### READ_ERRORS (R371, R373, R376, R378) -/

/-- The 64 bytes of a record (table *Error record*). -/
def ErrRec.bytes (r : ErrRec) : Buf :=
  [0] ++ leBytes 1 r.unitType ++ leBytes 2 r.unitIndex ++ leBytes 1 (r.cls.code + 8 * r.escalated.toNat) ++ leBytes 1 r.source
    ++ [r.syndrome, r.bit] ++ leBytes 8 r.prior.toNat ++ leBytes 2 (8 * r.ctxValid.toNat + 16 * r.context.toNat)
    ++ leBytes 2 r.layerId.toNat ++ leBytes 4 r.count ++ leBytes 8 r.lastAddr.toNat ++ leBytes 8 r.addr.toNat
    ++ leBytes 8 r.lastEvent ++ leBytes 8 r.firstEvent ++ leBytes 8 r.seq

/-- Release every record with a lower SEQ; a release ends the count of unlogged errors for ALERT_L (R373, R376). -/
def State.releaseRecords (s : State) (first : Nat) : State :=
  s.modInteg fun g =>
    { g with log := g.log.filter (fun r => decide (first ≤ r.seq))
             unloggedSince := g.unloggedSince && !(g.log.any fun r => decide (r.seq < first)) }

/-- Records that are copied: in SEQ order, as many as the buffer holds. -/
def copyRecords (l : List ErrRec) (len : Nat) : List ErrRec := l.take (len / 64)

/-- B of a report of `n` bytes lies in the data area when it lies in the slot. -/
def Sub.reportFits (u : Sub) (n : Nat) : Bool := !u.inSlot || decide (0x80 ≤ u.entry.addr.toNat ∧ u.entry.addr.toNat + n ≤ 0xFF8)

/-- READ_ERRORS with ARG0[63] 0 (R373). -/
def execReadErrors (sid : Nat) (ok : Bool) (s : State) : Outcome :=
  .next (s.run sid 0x71 fun u s =>
    if u.entry.arg0.getLsbD 63 then s
    else
      let first := u.entry.arg0.toNat
      let kept := s.integ.log.filter fun r => decide (first ≤ r.seq)
      let recs := copyRecords kept u.entry.length.toNat
      s.settle u (when (decide (s.integ.nextSeq < first) || !u.reportFits (64 * recs.length)) .badField) fun s =>
        s.report u ok (recs.flatMap ErrRec.bytes) fun s => (s.releaseRecords first).complete u (BitVec.ofNat 64 recs.length) 0)

/-- READ_ERRORS with ARG0[63] 1: history entries from an index, once SYSREGION is ready (R378). -/
def execReadErrorsHistory (sid : Nat) (ok : Bool) (s : State) : Outcome :=
  .next (s.run sid 0x71 fun u s =>
    if u.entry.arg0.getLsbD 63 then
      let recs := copyRecords (s.integ.history.drop (u.entry.arg0.toNat % 2 ^ 63)) u.entry.length.toNat
      s.settle u (when (!s.isReady bitSysregion) .notReady ++ when (!u.reportFits (64 * recs.length)) .badField) fun s =>
        s.report u ok (recs.flatMap ErrRec.bytes) fun s => s.complete u (BitVec.ofNat 64 recs.length) 0
    else s)

/-! ### RETIRE_MEMORY (R381) -/

/-- Its kind names a piece of memory. -/
def retireKind (u : Sub) : Nat := u.entry.arg0.toNat

/-- RETIRE_MEMORY kind 0: one HBM granule outside the system region.  Any other kind that is not 1 or 2 is BAD_FIELD. -/
def execRetireGranule (sid : Nat) (s : State) : Outcome :=
  .next (s.run sid 0xE9 fun u s =>
    if retireKind u = 1 ∨ retireKind u = 2 then s
    else
      let a := u.entry.arg1.toNat
      let g := a / granuleBytes
      let again := s.granuleRetired g
      s.settle u
        (when (decide (retireKind u ≠ 0) || decide (a < systemBytes) || decide (hbmBytes ≤ a)) .badField
          ++ when (!again && decide (65536 ≤ s.integ.granules.length)) .noResource)
        fun s => (if again then s else s.modInteg fun x => { x with granules := x.granules ++ [g] }).completeOk u)

/-- RETIRE_MEMORY kind 1: bank ARG1[5:0] of stack ARG1[12:8]. -/
def execRetireBank (sid : Nat) (s : State) : Outcome :=
  .next (s.run sid 0xE9 fun u s =>
    if retireKind u = 1 then
      let v := u.entry.arg1.toNat
      let b := (v / 256 % 32, v % 64)
      let again := s.integ.banks.contains b
      s.settle u
        (when (decide (v ≠ b.1 * 256 + b.2) || decide (24 ≤ b.1)) .badField
          ++ when (!again && decide (8 ≤ s.integ.banks.length)) .noResource)
        fun s => (if again then s else s.modInteg fun x => { x with banks := x.banks ++ [b] }).completeOk u
    else s)

/-- RETIRE_MEMORY kind 2: the 4 KiB page at offset ARG1 × 4,096 in every tile. -/
def execRetireSramPage (sid : Nat) (s : State) : Outcome :=
  .next (s.run sid 0xE9 fun u s =>
    if retireKind u = 2 then
      let p := u.entry.arg1.toNat
      let again := s.integ.pages.contains p
      s.settle u
        (when (decide (384 ≤ p)) .badField ++ when (!again && decide (32 ≤ s.integ.pages.length)) .noResource)
        fun s => (if again then s else s.modInteg fun x => { x with pages := x.pages ++ [p] }).completeOk u
    else s)

end Sys2Proof.Machine
end

