-- ==== Sys2Proof/Machine/Images.lean ====
section
/-! DEFINITION. Model and filter images (chapter 6): packages and their checks, loading, binding, release, the fetch of the
sealed copy, and filter programs as data (R76 to R78). -/

namespace Sys2Proof.Machine

open Sys2Proof

/-! ### The package header and section table (R131 to R135) -/

def clsEmbed : Nat := 1
def clsRerank : Nat := 2
def clsGen : Nat := 3
def clsAux : Nat := 4

/-- The header's fields (table *Image header*). -/
def parseImageHeader (b : Buf) : ImageHeader :=
  let v := Buf.le b 0 128
  let f := fun lo n => bitsOf v lo n
  { yieldGapNs := f 544 32, maxInput := f 512 32, maxSeq := f 480 32, vocab := f 448 32, outDim := f 416 32
    boundB := f 384 32, boundA := f 352 32, picks := f 320 32, csFootprint := f 288 32, sramFootprint := f 256 32
    hbmBytes := f 192 64, kvBytes := f 160 32, kvFmt := f 128 4, headDim := f 112 16, kvHeads := f 96 16, layers := f 80 16
    sections := f 64 16, cls := f 48 8, pkgRev := f 32 16, magic := BitVec.ofNat 32 (f 0 32)
    rsv := decide (f 576 448 ≠ 0) || decide (f 132 28 ≠ 0) || decide (f 56 8 ≠ 0) }

/-- Bytes of a key-value element; none for a code that KV_FMT may not hold (R133, R134). -/
def kvElemBytes (fmt : Nat) : Option Nat :=
  if fmt = 0x0 ∨ fmt = 0x2 ∨ fmt = 0x3 then some 1 else if fmt = 0x9 ∨ fmt = 0xA then some 2 else none

/-- The header is in order: R131 (the longest pick of an AUX image is at most 0.05 ms), the limits of R132, the fields of R133 that are 0 for
a class, reserved format codes (R19), and R134. -/
def ImageHeader.ok (h : ImageHeader) : Bool :=
  decide (h.magic = 0x4A535449#32) && decide (h.pkgRev = 1) && !h.rsv && decide (1 ≤ h.cls ∧ h.cls ≤ 4)
    && decide (h.hbmBytes ≤ 256 * 2 ^ 30) && decide (1 ≤ h.layers ∧ h.layers ≤ 256) && decide (h.picks ≤ 16777216)
    && decide (h.vocab ≤ 262144) && decide (h.sramFootprint % 4096 = 0 ∧ h.sramFootprint ≤ tileBytes)
    && decide (h.csFootprint % 4096 = 0 ∧ h.csFootprint ≤ 8388608) && decide (h.yieldGapNs ≤ 1000000) && decide (h.kvFmt ≤ 0xC)
    && (decide (h.cls ≠ clsAux) || decide (h.boundA ≤ 50000000))
    && (if h.cls = clsGen then decide (h.maxSeq ≤ 131072) else decide (h.maxSeq = 0 ∧ h.boundB = 0 ∧ h.kvBytes = 0))
    && (if h.cls = clsEmbed ∨ h.cls = clsRerank then decide (h.maxInput ≤ 8192) else decide (h.maxInput = 0))
    && (decide (h.cls = clsEmbed) || decide (h.outDim = 0))
    && (decide (h.cls ≠ clsGen) || (match kvElemBytes h.kvFmt with
        | some e => decide (h.kvBytes = 2 * h.kvHeads * h.headDim * e)
        | none => false))

def parseSection (b : Buf) : SectionEntry :=
  let v := Buf.le b 0 32
  { kind := bitsOf v 192 8, length := bitsOf v 128 64, offset := bitsOf v 64 64
    rsv := decide (bitsOf v 200 56 ≠ 0) || decide (bitsOf v 0 64 ≠ 0) }

def parseSections (b : Buf) (n : Nat) : List SectionEntry := (List.range n).map fun i => parseSection (Buf.slice b (32 * i) 32)

/-- Sections start on 4 KiB boundaries, in the order of their offsets, none before `lo`, none overlapping (R135). -/
def placed (lo : Nat) : List SectionEntry → Bool
  | [] => true
  | e :: r => decide (e.offset % 4096 = 0) && decide (lo ≤ e.offset) && placed (e.offset + e.length) r

/-- The required sections of a class (table *Section types*); WIDE is required by its use. -/
def requiredSections (cls : Nat) : List Nat :=
  [1, 2, 3, 4, 6, 7, 0x0B] ++ (if cls = clsAux then [] else [8]) ++ (if cls = clsRerank ∨ cls = clsGen then [9] else [])
    ++ (if cls = clsGen then [0x0A] else [])

/-- The section table is in order for a package of `len` bytes (R135). -/
def tableOk (cls len : Nat) (t : List SectionEntry) : Bool :=
  placed (128 + 32 * t.length) t && t.all (fun e => !e.rsv && decide (1 ≤ e.kind ∧ e.kind ≤ 0x0B) && decide (e.offset + e.length ≤ len))
    && decide ((t.map (·.kind)).Nodup) && (requiredSections cls).all (fun k => t.any fun e => e.kind == k)
    && (match t.getLast? with | some e => decide (e.kind = 0x0B) | none => false)

/-- The bytes of a section. -/
def pkgSection (p : Package) (t : List SectionEntry) (kind : Nat) : Buf :=
  match t.find? fun e => e.kind == kind with
  | some e => Buf.slice ((assocGet e.offset p.parts).getD []) 0 e.length
  | none => []

/-- The bytes of a package from `lo` up to `hi`, between its sections. -/
def packageGap (p : Package) (lo hi : Nat) : Buf := Buf.slice ((assocGet lo p.gaps).getD []) 0 (hi - lo)

/-- Every package byte that precedes the SIGNATURE section (R136). -/
def pkgSigned (p : Package) (t : List SectionEntry) : Buf :=
  let head := Buf.slice p.header 0 128 ++ Buf.slice p.table 0 (32 * t.length)
  let body := (t.filter fun e => e.kind != 0x0B).foldl (fun b e =>
    b ++ packageGap p b.length e.offset ++ Buf.slice ((assocGet e.offset p.parts).getD []) 0 e.length) head
  match t.getLast? with
  | some e => body ++ packageGap p body.length e.offset
  | none => body

/-! ### Live ranges, tokeniser, template (R143, R144, R152) -/

def parseLive (b : Buf) : LiveRange :=
  let v := Buf.le b 0 16
  { kind := bitsOf v 120 8, length := bitsOf v 64 32, offset := bitsOf v 32 32, yieldPick := bitsOf v 0 32
    rsv := decide (bitsOf v 96 24 ≠ 0) }

def parseLives (b : Buf) : List LiveRange := (List.range (b.length / 16)).map fun i => parseLive (Buf.slice b (16 * i) 16)

/-- Sorted by YIELD_PICK. -/
def livesSorted : List LiveRange → Bool
  | a :: b :: r => decide (a.yieldPick ≤ b.yieldPick) && livesSorted (b :: r)
  | _ => true

/-- The live-range table is in order (R152). -/
def livesOk (picks : Nat) (l : List LiveRange) : Bool :=
  livesSorted l
    && l.all (fun r => !r.rsv && decide (r.kind ≤ 1) && decide (r.length % 64 = 0) && decide (r.offset % 64 = 0) && decide (r.yieldPick < picks))
    && l.all fun r =>
      let here := l.filter fun x => x.yieldPick == r.yieldPick
      decide (sumOf ((here.filter fun x => x.kind == 0).map (·.length)) ≤ 262144)
        && decide (sumOf ((here.filter fun x => x.kind == 1).map (·.length)) ≤ 1048576)

/-- The tokeniser of the class's sections is in order (R143). -/
def tokOk (vocab : Nat) (t : Tokeniser) : Bool := decide (t.vocab.length = vocab) && decide (t.merges.length ≤ vocab - 1)

/-- A template holds one QUERY slot and at most one PASSAGES slot, a prompt template exactly one (R144). -/
def templateOk (cls : Nat) (t : List TemplateItem) : Bool :=
  let q := (t.filter fun i => match i with | .query => true | _ => false).length
  let p := (t.filter fun i => match i with | .passages _ _ => true | _ => false).length
  decide (q = 1) && decide (p ≤ 1) && (decide (cls = clsEmbed ∨ cls = clsAux) || decide (p = 1))

/-! ### Descriptors (R137, R128, R129) -/

/-- The beater program of a pick of an image: EPI_ADDR is an offset of its EPI section. -/
def Image.ops (im : Image) (p : Pick) : List BOp := parseProgram (Buf.slice im.epi p.epiAddr (8 * p.epiCount)) p.epiCount

/-- The wider format pairs of a layer's pair, and how many descriptors (table *Wider variants*). -/
def wideFormats (a w : Nat) : List (Nat × Nat) × Nat :=
  if a = 0x1 ∧ w = 0x1 then ([(0x0, 0x0)], 2)
  else if a = 0x6 ∧ w = 0x6 then ([(0x4, 0x4)], 2)
  else if a = 0x8 ∧ w = 0x8 then ([(0x9, 0x9)], 2)
  else if fmtIs4 w ∧ ¬ fmtIs4 a then (if a = 0x0 then ([(a, 0x0)], 1) else ([(a, 0x2), (a, 0x4), (a, 0x5)], 1))
  else if fmtClass a ≤ 1 ∧ ¬ fmtIs4 a ∧ ¬ fmtIs4 w then ([(0x9, 0x9)], 1)
  else ([], 0)

/-- The shape, rows and groups a wider descriptor keeps (R128). -/
def Pick.keeps (p v : Pick) : Bool :=
  v.rows == p.rows && v.paneKt == p.paneKt && v.paneNt == p.paneNt && v.rowBcast == p.rowBcast && v.rgAddr == p.rgAddr
    && v.rgCount == p.rgCount && v.aMode == p.aMode

/-- The output placement a wider descriptor keeps (R128). -/
def Pick.samePlace (p v : Pick) : Bool :=
  v.oTier == p.oTier && v.oFmt == p.oFmt && v.oBase == p.oBase && v.oRStride == p.oRStride && v.oHbm == p.oHbm
    && v.oTcol == p.oTcol && v.oBstep == p.oBstep

/-- The run of descriptors that WIDE_ADDR names. -/
def Image.wideRun (im : Image) (p : Pick) : List Pick :=
  match im.placeOf 0x05 with
  | some (_, a) => (List.range p.wideN).map fun h => parsePick (Buf.slice (im.part 0x05) (p.wideAddr - a + 128 * h) 128)
  | none => []

/-- The programs of two wider descriptors: the first holds only ZPC for an integer pair and nothing otherwise, and writes its partials to HBM as
INT32 or FP32; the second reads them through its S stream: ZPC for an integer pair, then ADDS of the partial, then the rest (R129). -/
def splitOk (v0 v1 : Pick) (ops0 ops1 : List BOp) : Bool :=
  let fmt := if v0.integer then codeInt32 else codeFp32
  let zpc : List Nat := if v0.integer then [0x01] else []
  v0.oTier == 1 && v0.oFmt == fmt && ops0.map (·.op) == zpc
    && (ops1.take (zpc.length + 1)).map (·.op) == zpc ++ [0x06]
    && (match ops1[zpc.length]? with | some o => o.imm.toNat % 16 == fmt | none => false)
    && v1.sHbm == v0.oHbm && v1.sRStride == v0.oRStride

/-- WIDE_ADDR of a pick is 0 or names a descriptor run in the WIDE section that R128 and R129 allow. -/
def Image.wideOk (im : Image) (p : Pick) : Bool :=
  if p.wideAddr = 0 then true
  else
    match im.placeOf 0x05 with
    | none => false
    | some (e, a) =>
      let f := wideFormats p.fmtA p.fmtW
      let vs := im.wideRun p
      decide (a ≤ p.wideAddr) && decide (p.wideAddr + 128 * p.wideN ≤ a + e.length) && decide (p.wideN = f.2)
        && vs.all (fun v => p.keeps v && f.1.contains (v.fmtA, v.fmtW) && v.wellFormed (im.ops v) && !v.sigEn && !v.waitEn)
        && (match vs with
          | [v] => p.samePlace v
          | [v0, v1] => splitOk v0 v1 (im.ops v0) (im.ops v1) && p.samePlace v1
          | _ => false)

/-- A pick with W_REUSE that does not begin an ENTRY range keeps the shape of the pick before it (R96). -/
def Image.reuseShapes (im : Image) : Bool :=
  (im.desc.zip im.desc.tail).zipIdx.all fun x => !x.1.2.wReuse || (im.entries.any fun e => e.first == x.2 + 1) || x.1.2.sameShape x.1.1

/-- Every descriptor passes what can be decided without a binding (R137); ENTRY ranges lie in the DESC section. -/
def Image.descOk (im : Image) : Bool :=
  im.desc.all (fun p => p.wellFormed (im.ops p) && im.wideOk p) && im.reuseShapes
    && im.entries.all fun e => decide (e.first + e.count ≤ im.desc.length)

/-- The image of a package. -/
def pkgImage (p : Package) (h : ImageHeader) (t : List SectionEntry) : Image :=
  let desc := pkgSection p t 0x01
  { index := 0, gen := 1, digest := sha3 (pkgSigned p t), header := h, sections := t
    desc := (List.range (desc.length / 128)).map fun i => parsePick (Buf.slice desc (128 * i) 128)
    live := parseLives (pkgSection p t 0x07), entries := p.entries, tokeniser := p.tokeniser, template := p.template
    raw := t.map fun e => (e.kind, pkgSection p t e.kind) }

/-- The package passes R131 to R137, R143, R144 and R152. -/
def pkgOk (p : Package) (len : Nat) : Bool :=
  let h := parseImageHeader p.header
  let t := parseSections p.table h.sections
  let im := pkgImage p h t
  h.ok && tableOk h.cls len t && decide (im.desc.length = h.picks) && livesOk h.picks im.live
    && (match p.tokeniser with | some k => tokOk h.vocab k | none => decide (h.cls = clsAux))
    && (match p.template with | some k => templateOk h.cls k | none => decide (h.cls = clsEmbed ∨ h.cls = clsAux))
    && im.descOk

/-! ### LOAD_IMAGE and UNLOAD_IMAGE (R136, R138, R156, R158) -/

/-- The signature verifies under an enrolled image-signing key (R136; the verdict is an operand, log 12). -/
def State.imageSigned (s : State) (p : Package) : Bool :=
  match p.signedBy with
  | some k => decide (k < 4) && decide ((s.sasel.keys[k]?).getD [] ≠ [])
  | none => false

/-- Object ID of the sealed sections of an image (log 24). -/
def imageObj (index gen : Nat) : W64 := mkObj 0 (index + 256 * gen)

/-- A section as the object of its image holds it: whole granules. -/
def Image.sectionBytes (im : Image) (e : SectionEntry) : Buf := Buf.slice (im.part e.kind) 0 (granules e.length)

/-- Extents of the flash object of an image: those of its sealed sections, in their places, then those of the others (R164; log 31). -/
def Image.sealedExtents (im : Image) : Nat := extentsOf im.span
def Image.extents (im : Image) : Nat := im.sealedExtents + extentsOf (im.stored - im.span)

/-- The bytes of that object. -/
def Image.objBytes (im : Image) : Buf :=
  Buf.slice ((im.sections.filter fun e => sealedKind e.kind).flatMap im.sectionBytes) 0 (65536 * im.sealedExtents)
    ++ (im.sections.filter fun e => !sealedKind e.kind).flatMap im.sectionBytes

/-- LOAD_IMAGE checks a package, stores it on flash and answers a handle. -/
def execLoadImage (sid : Nat) (pkg : Option Package) (s : State) : Outcome :=
  .next (s.run sid 0x20 fun u s => s.withB u (pkg.map (·.header)) fun _ =>
    let p := pkg.getD {}
    let h := parseImageHeader p.header
    let im := pkgImage p h (parseSections p.table h.sections)
    let slot := lowestFree (s.img.images.map (·.index)) 256
    let i := slot.getD 0
    let id := imageObj i (genFor s.img.imageGens i)
    let chans := objectChannels id true im.extents
    s.settle u
      (when (!pkgOk p u.entry.length.toNat) .badField ++ when (!s.imageSigned p) .denied
        ++ when (slot.isNone || !s.dirRoom 1 || !s.capacityOk chans) .noResource
        ++ when (chans.any s.channelOut) .mediaError)
      fun s =>
        let im := { im with index := i, gen := genFor s.img.imageGens i, objId := id }
        let home : Home := { objId := id, lengthM1 := BitVec.ofNat 32 (ceilDiv im.span 64 - 1), sealedObj := true }
        let handle : W64 := BitVec.ofNat 64 (mkHandle im.gen kindImage i).toNat
        (((s.storeObj id true im.extents im.objBytes).addHome home).modImg fun g => { g with images := g.images ++ [im] }).complete u handle 0)

/-- UNLOAD_IMAGE completes at once; the image goes with its last binding. -/
def execUnloadImage (sid : Nat) (s : State) : Outcome :=
  .next (s.run sid 0x21 fun u s => s.settle u [] fun s =>
    match s.image? u.entry.handleA with
    | some im => (s.completeOk u).freeImage im
    | none => s.completeOk u)

/-! ### Bounds (R139, R140).  A cycle of the A-clock is 20,000 / 17 ps (850 MHz, R435). -/

/-- Twice the time of a pick plus that of its wider run, in cycles, with `rows` rows where the count is per batch. -/
def Image.floorOf (im : Image) (rows : Nat) (e : EntryRange) (i : Nat) : Nat :=
  match im.desc[i]? with
  | none => 0
  | some p =>
    let r := if e.perBatch.contains i then rows else p.rows
    let p' := { p with rows := r }
    2 * p'.cycles (im.ops p) + (if p.wideAddr = 0 then 0
      else sumOf ((im.wideRun p).map fun v => ({ v with rows := r }).cycles (im.ops v)))

/-- The floor of an ENTRY range in cycles (R139). -/
def Image.rangeFloor (im : Image) (rows : Nat) (e : EntryRange) : Nat :=
  sumOf ((List.range e.count).map fun k => im.floorOf rows e (e.first + k))

/-- A declared bound of `ps` for each of `n` tokens is not below a floor in cycles. -/
def boundOk (ps n cycles : Nat) : Bool := decide (cycles * 20000 ≤ ps * n * 17)

/-- The floors of R139.  Range 0 of a class is its stage, ranges 0 and 1 of a GENERATOR its prefill and its decode; a prefill
batch is one prompt of MAX_SEQ tokens (log 33).  The bound of an AUX image is its longest pick (R131). -/
def Image.boundsOk (im : Image) : Bool :=
  let h := im.header
  let at0 := fun rows k => match im.entries.find? fun e => e.index == k with | some e => im.rangeFloor rows e | none => 0
  if h.cls = clsEmbed then boundOk h.boundA 1 (at0 (64 * h.maxInput) 0)
  else if h.cls = clsRerank then boundOk h.boundA (64 * h.maxInput) (at0 (64 * h.maxInput) 0)
  else if h.cls = clsGen then boundOk h.boundA h.maxSeq (at0 h.maxSeq 0) && boundOk h.boundB 1 (at0 64 1)
  else boundOk h.boundA 1 (maxOf (im.desc.map fun p => p.cycles (im.ops p)))

/-- Lengths in cycles of the runs of picks that a predicate joins to the pick before. -/
def joinRuns (joined : Pick → Pick → Bool) (cost : Pick → Nat) : Option (Pick × Nat) → List Pick → List Nat
  | none, [] => []
  | some (_, n), [] => [n]
  | none, p :: r => joinRuns joined cost (some (p, cost p)) r
  | some (q, n), p :: r =>
    if joined q p then joinRuns joined cost (some (p, n + cost p)) r else n :: joinRuns joined cost (some (p, cost p)) r

/-- Every run of picks of an AUX image joined by W_REUSE, with one replay each, runs within 0.05 ms: 42,500 cycles (R140). -/
def Image.auxOk (im : Image) : Bool :=
  decide (im.header.cls ≠ clsAux) || (joinRuns (fun _ p => p.wReuse) (fun p => 2 * p.cycles (im.ops p)) none im.desc).all fun n => decide (n ≤ 42500)

/-- YIELD_GAP covers the greatest time between consecutive yield points (R140, R151). -/
def Image.gapOk (im : Image) : Bool :=
  (joinRuns (fun q p => !q.yieldPt && !p.waitEn) (fun p => p.cycles (im.ops p)) none im.desc).all fun n =>
    decide (n * 20 ≤ im.header.yieldGapNs * 17)

/-! ### BIND_MODEL and UNBIND_MODEL (R156 to R158, R260, R263) -/

/-- Bindings of the answer classes. -/
def State.serviceBindings (s : State) : Nat :=
  (s.img.models.filter fun m => match s.image? m.image with | some im => decide (im.header.cls ≠ clsAux) | none => false).length

/-- The image's copy has its place in HBM: for a binding, or until the last pin on it is released (R157, R174). -/
def State.copyHeld (s : State) (im : Image) : Bool := match s.home? im.objId with | some h => h.hbmCopy | none => false

/-- The statuses of a BIND_MODEL. -/
def State.bindErrs (s : State) (im : Image) (pages : Nat) : List Status :=
  let first := !s.copyHeld im
  let need := kvPoolBytes pages im + (if first then granules im.header.hbmBytes else 0)
  when (!im.boundsOk || !im.auxOk || !im.gapOk) .badField
    ++ when (decide (64 ≤ s.img.models.length) || (decide (im.header.cls ≠ clsAux) && decide (12 ≤ s.serviceBindings))
        || (decide (im.header.cls ≠ clsAux) && ((s.freeKnots 256).isNone || decide (4096 ≤ s.work.ctxs.length)))
        || !s.poolRoom poolModel need) .noResource
    ++ when im.damaged .damaged

/-- The sealed copy of an image gets its place in HBM, and the fetch of every extent starts or waits its turn (R157, R180). -/
def State.stageCopy (s : State) (im : Image) (sid : Nat) : Option (Nat × State) :=
  (s.placeHbm im.span im.objId).map fun r =>
    let n := granules im.header.hbmBytes
    let s := (r.2.chargePool poolModel n).modHome im.objId fun h => { h with hbmCopy := true, addr := BitVec.ofNat 64 r.1, charged := n }
    (r.1, im.fetchOrder.foldl (fun s e => s.fetchExtent im.objId e [sid]) s)

/-- A binding of an image whose copy has its place waits on the fetches that run; a release that waited for pins is cancelled (R158, R174). -/
def State.joinCopy (s : State) (im : Image) (sid : Nat) : Nat × State :=
  let base := match s.home? im.objId with | some h => h.addr.toNat | none => 0
  (base, (s.modHome im.objId fun h => { h with evictPending := false }).modTiers fun t =>
    { t with fetches := updWhere (fun f => f.objId == im.objId) (fun f => { f with waiters := f.waiters ++ [sid] }) t.fetches })

/-- Without a free slot, a general context is swapped out: the longest blocked, else the one running longest at its next yield
point (R263). -/
def State.makeSlot (s : State) : State :=
  if s.freeSlot.isSome then s
  else
    match s.swapCandidate with
    | some c => s.startSave c true
    | none =>
      match sortBy (fun a b => decide (a.sinceRun ≤ b.sinceRun)) (s.residentGeneral.filter fun c => decide (c.state = .running)) with
      | c :: _ => s.modCtx c.index fun c => { c with preempt := true }
      | [] => s

/-- The binding's places in HBM: the copy, and its key-value pool. -/
def State.placeBinding (s : State) (im : Image) (m : Model) (sid : Nat) : Option (Model × State) :=
  match (if s.copyHeld im then some (s.joinCopy im sid) else s.stageCopy im sid) with
  | none => none
  | some (base, s1) =>
    if m.kvPages = 0 ∨ im.header.kvBytes = 0 then some ({ m with hbmBase := base }, s1)
    else (s1.allocHbm poolModel (kvPoolBytes m.kvPages im) (poolObj m)).map fun r => ({ m with hbmBase := base, kvBase := r.1 }, r.2)

/-- BIND_MODEL. -/
def execBindModel (sid : Nat) (s : State) : Outcome :=
  .next (s.run sid 0x22 fun u s =>
    match s.image? u.entry.handleA with
    | none => s.settle u [.staleHandle] fun s => s
    | some im =>
      let pages := u.entry.arg0.toNat
      let i := (lowestFree (s.img.models.map (·.index)) 64).getD 0
      let m : Model := { index := i, gen := genFor s.img.modelGens i, image := u.entry.handleA, kvPages := pages
                         binder := some u.sid }
      let placed := s.placeBinding im m u.sid
      s.settle u (s.bindErrs im pages ++ when placed.isNone .noResource) fun s =>
        match placed with
        | none => s
        | some (m, t) =>
          let t := ((t.start u.sid).modImg fun g => { g with models := g.models ++ [m] }).ownCopy im
          (if im.header.cls = clsAux then t else t.makeSlot).schedule)

/-- A job is held on a model, a filter or an index version released at `rel` (R47): a request names it, or an ANSWER accepted
before the release has not been read yet. -/
def State.jobOn (s : State) (h : W32) (rel : Nat) : Bool :=
  s.ans.reqs.any (fun r => r.holds.contains h)
    || s.sasel.subs.any fun u => u.entry.opcode == 0x10 && decide (u.sid < rel) && !u.finished && !s.ans.reqs.any fun r => r.sid == u.sid

/-- General contexts that are defined on a binding keep it (log 34). -/
def State.ctxOnModel (s : State) (m : Model) : Bool :=
  s.work.ctxs.any fun c => !c.service && c.model == mkHandle m.gen kindModel m.index && decide (c.state ≠ .torn)

/-- Models, images and filters that have been released and on which no job is held any more are freed (R47, R154, R158). -/
def State.sweepImages (s : State) : State :=
  let s := (s.img.models.filter fun m =>
    match m.releasedAt with
    | some r => m.binder.isNone && !s.jobOn (mkHandle m.gen kindModel m.index) r && !s.ctxOnModel m
    | none => false).foldl State.dropModel s
  let s := (s.img.images.filter fun im => im.releasedAt.isSome).foldl State.freeImage s
  let gone := s.img.filters.filter fun f =>
    match f.releasedAt with
    | some r => !s.jobOn (mkHandle f.gen kindFilter f.index) r
    | none => false
  (s.modImg fun g =>
    { g with filters := g.filters.filter (fun f => !gone.contains f), filterGens := gone.foldl (fun x f => bumpGen x f.index) g.filterGens }).schedule

/-- UNBIND_MODEL completes at once; the binding goes with its last job. -/
def execUnbindModel (sid : Nat) (s : State) : Outcome :=
  .next (s.run sid 0x23 fun u s => s.settle u [] fun s => (s.completeOk u).sweepImages)

/-! ### The fetch of an extent (R179 to R182) -/

/-- Write extent `e` of a sealed object, as read from flash, into its copy. -/
def State.writeExtentCopy (s : State) (h : Home) (e : Nat) (data : Buf) : State :=
  let bytes := Buf.slice data 0 (min 65536 (h.bytes - 65536 * e))
  { s with mems := { s.mems with hbm := s.mems.hbm.writeBytes (h.addr.toNat + 65536 * e) bytes } }

/-- Bits in error in a run of HBM go as it is rewritten. -/
def State.clearFlips (s : State) (lo len : Nat) : State :=
  { s with integ := { s.integ with flips := s.integ.flips.filter fun w => !(w.1 == 0 && decide (lo ≤ 8 * w.2.1) && decide (8 * w.2.1 < lo + len)) } }

/-- The words of an extent's place in HBM read without error. -/
def State.copyReads (s : State) (lo len : Nat) : Bool :=
  s.integ.flips.all fun w => !(w.1 == 0 && decide (2 ≤ w.2.2.length) && decide (lo ≤ 8 * w.2.1) && decide (8 * w.2.1 < lo + len))

/-- A BIND_MODEL still builds the copy of an object. -/
def State.building (s : State) (obj : W64) : Bool :=
  s.img.models.any fun m => m.binder.isSome && (match s.image? m.image with | some im => im.objId == obj | none => false)

/-- An extent of a sealed object stays uncorrectable after its rebuild: its HBM copy rewrites it to flash, or the object is
DAMAGED and every waiting fetch ends so (R182). -/
def State.extentLost (s : State) (h : Home) (extent : Nat) : State :=
  let lo := h.addr.toNat + 65536 * extent
  let len := min 65536 (h.bytes - 65536 * extent)
  if h.hbmCopy ∧ 0 < len ∧ s.building h.objId = false ∧ s.copyReads lo len = true then
    (s.storeExtents h.objId true [(extent, s.mems.hbm.readBytes lo len)]).modTiers fun t =>
      { t with fetches := t.fetches.filter fun f => !(f.objId == h.objId && f.extent == extent) }
  else ((s.markDamaged h.objId).endFetches h.objId).schedule

/-- EXTENT_FETCH_COMPLETE: one of the outstanding fetches ends: the extent is read by the ladder and written to the HBM copy, or it is lost
(R179 to R182, R238). -/
def execExtentFetchComplete (obj : W64) (extent : Nat) (media : Media) (s : State) : Outcome :=
  .next (if (s.tiers.fetches.take fetchLimit).any fun f => f.objId == obj && f.extent == extent then
      match s.home? obj with
      | none => s.endFetches obj
      | some h =>
        let r := s.readExtent media obj extent
        match r.1 with
        | some data =>
          let s := r.2.modTiers fun t => { t with fetches := t.fetches.filter fun f => !(f.objId == obj && f.extent == extent) }
          ((s.writeExtentCopy h extent data).clearFlips (h.addr.toNat + 65536 * extent) (min 65536 (h.bytes - 65536 * extent))).schedule
        | none => r.2.extentLost h extent
    else s)

/-! ### Filters (R76 to R78, R154) -/

def FilterWord.op (w : FilterWord) : Nat := w.toNat / 2 ^ 24
def FilterWord.bits (w : FilterWord) (lo n : Nat) : Nat := bitsOf w.toNat lo n

/-- Operand bits an opcode uses (table *Filter opcodes*); none for a reserved opcode. -/
def filterMask (op : Nat) : Option Nat :=
  match op with
  | 0x01 | 0x30 => some (2 ^ 14 - 1)
  | 0x02 | 0x31 | 0x32 => some (2 ^ 10 - 1)
  | 0x03 => some (2 ^ 24 - 1)
  | 0x04 | 0x05 | 0x06 | 0x10 | 0x11 | 0x12 | 0x13 | 0x14 | 0x15 | 0x20 | 0x21 | 0x22 | 0x23 | 0x24 | 0x25 | 0x28 | 0x29 | 0x2A
  | 0x3F => some 0
  | 0x16 | 0x17 => some (2 ^ 6 - 1)
  | 0x33 | 0x34 => some (2 ^ 8 - 1)
  | _ => none

/-- Values an instruction reads and pushes (R78). -/
def filterStack (op : Nat) : Nat × Nat :=
  match op with
  | 0x01 | 0x02 | 0x03 => (0, 1)
  | 0x04 => (1, 2)
  | 0x05 | 0x3F => (1, 0)
  | 0x06 => (2, 2)
  | 0x15 | 0x16 | 0x17 | 0x28 | 0x30 | 0x31 | 0x32 | 0x33 | 0x34 => (1, 1)
  | _ => (2, 1)

/-- Bytes of a width code. -/
def widthBytes (c : Nat) : Nat := 2 ^ c

/-- The first byte after the arguments an instruction reads. -/
def FilterWord.argEnd (w : FilterWord) : Nat :=
  match w.op with
  | 0x02 => w.bits 0 8 + widthBytes (w.bits 8 2)
  | 0x30 => w.bits 0 8 + (w.bits 8 4 + 1) * widthBytes (w.bits 12 2)
  | 0x31 | 0x32 => w.bits 0 8 + 2 * widthBytes (w.bits 8 2)
  | 0x33 | 0x34 => w.bits 0 8 + 8
  | _ => 0

/-- One instruction is in order by itself: opcode, RSV bits, LDF's bound, its arguments (R78). -/
def FilterWord.ok (argLen : Nat) (w : FilterWord) : Bool :=
  (match filterMask w.op with
    | some m => decide (w.toNat % 2 ^ 24 ≤ m)
    | none => false)
    && (decide (w.op ≠ 0x01) || decide (w.bits 0 7 + w.bits 7 6 + 1 ≤ 128)) && decide (w.argEnd ≤ argLen)

/-- The walk of the stack: no instruction reads more than there is, the depth stays within 8, RET is last and finds one. -/
def filterWalk : Nat → List FilterWord → Bool
  | _, [] => false
  | d, w :: r =>
    let k := filterStack w.op
    if w.op = 0x3F then r.isEmpty && decide (d = 1)
    else decide (k.1 ≤ d) && decide (d - k.1 + k.2 ≤ 8) && filterWalk (d - k.1 + k.2) r

/-- A filter image is valid (R78). -/
def filterValid (argLen : Nat) (l : List FilterWord) : Bool :=
  decide (1 ≤ l.length ∧ l.length ≤ 256) && decide (argLen ≤ 256) && l.all (FilterWord.ok argLen) && filterWalk 0 l

/-- A filter package: instruction count, argument length, instructions, and whether header, length and digest agree (R154). -/
def parseFilter (b : Buf) (len : Nat) : Nat × List FilterWord × Bool :=
  let n := Buf.le b 4 2
  let words := (List.range n).map fun i => BitVec.ofNat 32 (Buf.le b (32 + 4 * i) 4)
  (Buf.le b 6 2, words, decide (Buf.le b 0 4 = 0x54464C46) && (Buf.slice b 8 24).all (· == 0) && decide (len = 64 + 4 * n)
    && decide (Buf.slice b (32 + 4 * n) 32 = sha3 (Buf.slice b 0 (32 + 4 * n))))

/-- LOAD_FILTER checks a filter package, stores it and answers a handle. -/
def execLoadFilter (sid : Nat) (b : Option Buf) (s : State) : Outcome :=
  .next (s.run sid 0x24 fun u s => s.withB u b fun buf =>
    let f := parseFilter buf u.entry.length.toNat
    let slot := lowestFree (s.img.filters.map (·.index)) 1024
    let i := slot.getD 0
    s.settle u (when (!f.2.2 || !filterValid f.1 f.2.1) .badField ++ when slot.isNone .noResource) fun s =>
      let x : Filter := { index := i, gen := genFor s.img.filterGens i, words := f.2.1, argLen := f.1 }
      (s.modImg fun g => { g with filters := g.filters ++ [x] }).complete u (BitVec.ofNat 64 (mkHandle x.gen kindFilter i).toNat) 0)

/-- UNLOAD_FILTER completes at once; the filter goes with its last job. -/
def execUnloadFilter (sid : Nat) (s : State) : Outcome :=
  .next (s.run sid 0x25 fun u s => s.settle u [] fun s => (s.completeOk u).sweepImages)

/-! ### Running a filter (R77) -/

/-- An argument, zero-extended. -/
def filterArg (args : Buf) (off w : Nat) : W64 := BitVec.ofNat 64 (Buf.le args off w)

/-- An argument, sign-extended. -/
def filterArgS (args : Buf) (off w : Nat) : Int := signedOf (8 * w) (Buf.le args off w)

def ofBool64 (b : Bool) : W64 := if b then 1 else 0

/-- Operations that name a and b. -/
def filterBin (op : Nat) (a b : W64) : W64 :=
  match op with
  | 0x10 => a + b
  | 0x11 => a - b
  | 0x12 => a &&& b
  | 0x13 => a ||| b
  | 0x14 => a ^^^ b
  | 0x20 => ofBool64 (a == b)
  | 0x21 => ofBool64 (a != b)
  | 0x22 => ofBool64 (decide (a.toNat < b.toNat))
  | 0x23 => ofBool64 (decide (a.toNat ≤ b.toNat))
  | 0x24 => ofBool64 (decide (a.toInt < b.toInt))
  | 0x25 => ofBool64 (decide (a.toInt ≤ b.toInt))
  | 0x29 => ofBool64 (a != 0 && b != 0)
  | _ => ofBool64 (a != 0 || b != 0)

/-- Operations that pop x. -/
def filterUn (w : FilterWord) (args : Buf) (x : W64) : W64 :=
  match w.op with
  | 0x15 => ~~~x
  | 0x16 => x <<< w.bits 0 6
  | 0x17 => x >>> w.bits 0 6
  | 0x28 => ofBool64 (x == 0)
  | 0x30 =>
    let n := widthBytes (w.bits 12 2)
    ofBool64 ((List.range (w.bits 8 4 + 1)).any fun i => x == filterArg args (w.bits 0 8 + i * n) n)
  | 0x31 =>
    let n := widthBytes (w.bits 8 2)
    ofBool64 (decide ((filterArg args (w.bits 0 8) n).toNat ≤ x.toNat) && decide (x.toNat ≤ (filterArg args (w.bits 0 8 + n) n).toNat))
  | 0x32 =>
    let n := widthBytes (w.bits 8 2)
    ofBool64 (decide (filterArgS args (w.bits 0 8) n ≤ x.toInt) && decide (x.toInt ≤ filterArgS args (w.bits 0 8 + n) n))
  | 0x33 => ofBool64 (x &&& filterArg args (w.bits 0 8) 8 != 0)
  | _ => ofBool64 (x &&& filterArg args (w.bits 0 8) 8 == filterArg args (w.bits 0 8) 8)

/-- What an LDF, an LDA or an LDI pushes. -/
def filterLoad (w : FilterWord) (md : W128) (args : Buf) : W64 :=
  match w.op with
  | 0x01 =>
    let len := w.bits 7 6 + 1
    let v := bitsOf md.toNat (w.bits 0 7) len
    if w.bits 13 1 = 1 then BitVec.ofInt 64 (signedOf len v) else BitVec.ofNat 64 v
  | 0x02 => filterArg args (w.bits 0 8) (widthBytes (w.bits 8 2))
  | _ => BitVec.ofInt 64 (signedOf 24 (w.bits 0 24))

/-- Run a filter on a record's META and the arguments; the stack's top is first.  A program without RET passes nothing. -/
def runFilter (md : W128) (args : Buf) : List W64 → List FilterWord → Bool
  | _, [] => false
  | st, w :: r =>
    match filterStack w.op, st with
    | (0, _), _ => runFilter md args (filterLoad w md args :: st) r
    | (1, _), x :: t =>
      if w.op = 0x3F then x != 0
      else if w.op = 0x04 then runFilter md args (x :: x :: t) r
      else if w.op = 0x05 then runFilter md args t r
      else runFilter md args (filterUn w args x :: t) r
    | _, b :: a :: t => if w.op = 0x06 then runFilter md args (a :: b :: t) r else runFilter md args (filterBin w.op a b :: t) r
    | _, _ => false

end Sys2Proof.Machine
end

