-- ==== Sys2Proof/Machine/Indexes.lean ====
section
/-! DEFINITION. Sketch indexes (chapter 3): parameters, segments, records, versions, commits and compactions, pins,
retirement, DAMAGED slices, and the probe's and the sieve's arithmetic (R57 to R73, R81, R83, R323). -/

namespace Sys2Proof.Machine

open Sys2Proof

def State.modIdx (s : State) (f : Indexes → Indexes) : State := { s with idx := f s.idx }

/-- Change the index of a handle. -/
def State.modIndex (s : State) (h : W32) (f : Index → Index) : State :=
  s.modIdx fun i => { i with list := updWhere (fun x => names h kindIndex x.gen x.index) f i.list }

def Index.handle (x : Index) : W32 := mkHandle x.gen kindIndex x.index

/-! ### Integer sums (R69, R70, R83) -/

/-- The INT8 value of a byte. -/
def int8 (b : Byte) : Int := signedOf 8 b.toNat

/-- Σ a_i × b_i over `n` bytes at two offsets. -/
def dotAt (a : Buf) (i : Nat) (b : Buf) (j n : Nat) : Int :=
  (List.range n).foldl (fun x k => x + int8 (Buf.at a (i + k)) * int8 (Buf.at b (j + k))) 0

/-- Σ q_i × c_i for a query vector of integers. -/
def dotInts (q : List Int) (b : Buf) (j : Nat) : Int := (q.zipIdx).foldl (fun x e => x + e.1 * int8 (Buf.at b (j + e.2))) 0

def sumSquares (b : Buf) (j n : Nat) : Int := dotAt b j b j n

def bufInts (b : Buf) (n : Nat) : List Int := (List.range n).map fun i => int8 (Buf.at b i)

/-! ### The probe (R69) and the sketch (R70) -/

/-- The key of partition p for a vector, turned so that a smaller one ranks first. -/
def Index.probeKey (x : Index) (q : List Int) (p : Nat) : Num :=
  let d := x.params.dim
  let dot := dotInts q x.centroids (p * d)
  let n := x.norms.getD p 0
  match x.params.metric with
  | .inner => (Dyad.mk (-dot) 0).num
  | .l2 => (Dyad.mk (n - 2 * dot) 0).num
  | .cosine => if n = 0 then .fin false 0 0 else (fpNum (fpDiv (fpOfInt dot) (fpSqrt (fpOfInt n)))).negate

/-- Partition p ranks before partition r. -/
def Index.probeBefore (x : Index) (q : List Int) (p r : Nat) : Bool :=
  let a := x.probeKey q p
  let b := x.probeKey q r
  a.lt b || (!b.lt a && decide (p < r))

/-- The probe list: every partition in rank order. -/
def Index.probeList (x : Index) (q : List Int) : List Nat := sortBy (x.probeBefore q) (List.range x.params.partitions)

/-- The partition that ranks first. -/
def Index.bestPartition (x : Index) (q : List Int) : Nat :=
  (List.range x.params.partitions).foldl (fun best p => if x.probeBefore q p best then p else best) 0

/-- The sketch of a vector: bit j is 1 when row j of the projection gives a positive sum. -/
def Index.sketchOf (x : Index) (q : List Int) : BitVec 512 :=
  (List.range 512).foldl (fun b j => setBit b j (decide (0 < dotInts q x.projection (j * x.params.dim)))) 0

/-- Sketch distance. -/
def sketchDist (a b : BitVec 512) : Nat := popCount (a ^^^ b)

/-! ### Records, slices, ordinals (R60, R61) -/

/-- Channel of a locator: first byte of SHA3-256 over its 16 bytes, modulo 128. -/
def locatorChannel (l : W128) : Nat := ((sha3 (leBytes 16 l.toNat)).headD 0).toNat % 128

/-- Records of a segment with their slice and ordinal. -/
def ordinals (seg : Nat) : List Rec → List Rec → List (SliceId × Nat × Rec)
  | _, [] => []
  | before, r :: rest =>
    ({ segment := seg, partition := r.partition, channel := r.channel },
      (before.filter fun b => b.partition == r.partition && b.channel == r.channel).length, r) :: ordinals seg (before ++ [r]) rest

def Segment.placedRecs (g : Segment) : List (SliceId × Nat × Rec) := ordinals (g.number.getD 0) [] g.recs

/-- Records of a version, tombstoned or not. -/
def Index.allRecs (x : Index) (v : Version) : List (SliceId × Nat × Rec) :=
  (x.segments.filter fun g => match g.number with | some n => v.segments.contains n | none => false).flatMap Segment.placedRecs

/-- Live records of a version. -/
def Index.liveRecs (x : Index) (v : Version) : List (SliceId × Nat × Rec) :=
  (x.allRecs v).filter fun r => !v.tombs.contains (r.1, r.2.1)

def Index.version? (x : Index) (n : Nat) : Option Version := x.versions.find? fun v => v.number == n
def Index.currentVersion (x : Index) : Version := (x.version? x.current).getD { number := x.current }

/-- A slice is DAMAGED, or lies on a channel out of service (R81, R399). -/
def State.sliceDamaged (s : State) (x : Index) (d : SliceId) : Bool := x.damaged.contains d || s.channelOut d.channel

/-- Records that pass 0 … of a request would read on a channel: record counts of the version (R43, R63). -/
def Index.countOn (x : Index) (v : Version) (parts : List Nat) (c : Nat) : Nat :=
  ((x.allRecs v).filter fun r => r.1.channel == c && parts.contains r.1.partition).length

/-- Extents of the slice runs of a segment on a channel: sieve records of 96 B and vectors, ⌊4,096 / D⌋ to 4 KiB (R60). -/
def runExtents (dim n : Nat) : Nat := ceilDiv (96 * n) 65536 + ceilDiv (ceilDiv n (4096 / dim)) 16

/-- Extents that a segment takes, listed by channel.  DESIGN CHOICE (log 37): the slices of one segment on one channel are packed
one behind the other, so a channel's extents are counted once for all of them. -/
def segmentChannels (dim : Nat) (recs : List Rec) : List Nat :=
  (List.range 128).flatMap fun c => List.replicate (runExtents dim (recs.filter fun r => r.channel == c).length) c

/-! ### Slice runs (R60, R71, R235) -/

/-- A sieve record (table *Sieve record*). -/
def Rec.sieve (r : Rec) : Buf := leBytes 96 (r.locator.toNat * 2 ^ 640 + r.metaBytes.toNat * 2 ^ 512 + r.sketch.toNat)

/-- The records of a segment on a channel, slice by slice, each in the order of its ordinals. -/
def Segment.onChannel (g : Segment) (c : Nat) : List Rec :=
  sortBy (fun a b => decide (a.partition ≤ b.partition)) (g.recs.filter fun r => r.channel == c)

/-- Extents of the sieve records of `n` records. -/
def sieveRunExtents (n : Nat) : Nat := ceilDiv (96 * n) 65536

/-- The extents of a channel's runs: the sieve records without gaps, then the vectors, ⌊4,096 / D⌋ to a codeword (R60). -/
def Segment.runsOn (dim : Nat) (g : Segment) (c : Nat) : List (Nat × Buf) :=
  let l := g.onChannel c
  let ns := sieveRunExtents l.length
  let sieves := l.flatMap Rec.sieve
  let vectors := (chunksOf (4096 / dim) l.length l).flatMap fun w => Buf.slice (w.flatMap (·.vector)) 0 4096
  (List.range (runExtents dim l.length)).map fun k =>
    (128 * k + c, if k < ns then Buf.slice sieves (65536 * k) 65536 else Buf.slice vectors (65536 * (k - ns)) 65536)

/-- The records of a segment on the channel of an extent, with whether the extent holds part of their sieve record or their vector. -/
def Segment.recsIn (dim : Nat) (g : Segment) (e : Nat) : List Rec :=
  let l := g.onChannel (e % 128)
  let ns := sieveRunExtents l.length
  let k := e / 128
  (l.zipIdx.filter fun x =>
    if k < ns then decide (65536 * k < 96 * (x.2 + 1)) && decide (96 * x.2 < 65536 * (k + 1)) else x.2 / (4096 / dim) / 16 == k - ns).map (·.1)

/-- The slices that an extent of a segment's runs holds part of. -/
def Segment.slicesIn (dim : Nat) (g : Segment) (e : Nat) : List SliceId :=
  nub ((g.recsIn dim e).map fun r => { segment := g.number.getD 0, partition := r.partition, channel := r.channel })

/-- Extents of a segment's sieve runs (or, with `vectors`, of its vector runs) on a channel that hold part of a record for which `p` holds. -/
def Segment.extentsWith (dim : Nat) (g : Segment) (c : Nat) (vectors : Bool) (p : Rec → Bool) : List (W64 × Nat) :=
  let n := (g.onChannel c).length
  ((List.range (runExtents dim n)).filter fun k =>
    (vectors == decide (sieveRunExtents n ≤ k)) && (g.recsIn dim (128 * k + c)).any p).map fun k => (g.runs, 128 * k + c)

/-- The runs of a segment on some channels are written. -/
def State.writeRuns (s : State) (dim : Nat) (g : Segment) (chans : List Nat) : State :=
  s.storeExtents g.runs false (chans.flatMap (g.runsOn dim))

/-- The runs of a segment go, with their entry. -/
def State.dropRuns (s : State) (g : Segment) : State := (s.eraseObj g.runs).dropHome g.runs

/-- A slice whose codeword stays uncorrectable is DAMAGED in every retained version: each slice of which the extent holds part (R81). -/
def State.sliceLost (s : State) (obj : W64) (extent : Nat) : State :=
  s.modIdx fun i => { i with list := i.list.map fun x =>
    let hit := ((x.segments.filter fun g => g.runs == obj && g.number.isSome).flatMap fun g => g.slicesIn x.params.dim extent).filter fun d =>
      !x.damaged.contains d
    { x with damaged := x.damaged ++ hit } }

/-- Extents of slice runs are read by the ladder; slices of those that cannot be delivered are DAMAGED (R81, R238, R243). -/
def State.readRuns (s : State) (media : Media) (l : List (W64 × Nat)) : State :=
  let r := s.readExtents media l
  r.1.foldl (fun s k => s.sliceLost k.1 k.2) r.2

/-! ### Sealed objects of an index (kinds 1 and 2) -/

/-- Object of the slice runs of the segment opened as number `n` (log 24). -/
def Index.runsObj (x : Index) (n : Nat) : W64 := mkObj 3 (x.index + 64 * (x.gen + 256 * n))

def Index.tableObj (x : Index) : W64 := mkObj 1 (x.index + 64 * x.gen)
def Index.dirObj (x : Index) (version : Nat) : W64 := mkObj 2 (x.index + 64 * (x.gen + 256 * version))

/-- Bytes of the centroid table with its n_p. -/
def IndexParams.tableBytes (p : IndexParams) : Nat := p.partitions * p.dim + 4 * p.partitions

/-- Bytes of a version directory: its layout is not stated; 16 B a slice and one bit a record (log 35). -/
def Index.dirBytes (x : Index) (v : Version) : Nat :=
  let recs := x.allRecs v
  max 64 (16 * (nub (recs.map (·.1))).length + ceilDiv recs.length 8)

/-- What a version directory holds: its layout is not stated (log 35). -/
def Index.dirData (x : Index) (v : Version) : Buf := Buf.slice (Config.report 0x16 [x.index, x.gen, v.number]) 0 (x.dirBytes v)

/-- A sealed object of the index: on flash with stripe parity, with an HBM copy charged to the index pool (R162, R164, R166). -/
def State.addSealed (s : State) (owner : W32) (id : W64) (len : Nat) (data : Buf) : State :=
  let s := s.storeObj id true (extentsOf len) data
  let h : Home := { objId := id, lengthM1 := BitVec.ofNat 32 (ceilDiv len 64 - 1), sealedObj := true, owner := owner }
  match s.allocHbm poolIndex len id with
  | some (a, s) =>
    let s := { s with mems := { s.mems with hbm := s.mems.hbm.writeBytes a (Buf.slice data 0 len) } }
    s.addHome { h with hbmCopy := true, addr := BitVec.ofNat 64 a, charged := granules len }
  | none => s.addHome h

/-- There is room for a sealed object: directory, index pool, user capacity. -/
def State.sealedRoom (s : State) (id : W64) (len : Nat) : Bool :=
  s.dirRoom 1 && s.poolRoom poolIndex len && s.capacityOk (objectChannels id true (extentsOf len))

/-- Its extents would lie on a channel out of service (R399). -/
def State.sealedOut (s : State) (id : W64) (len : Nat) : Bool := (objectChannels id true (extentsOf len)).any s.channelOut

/-- The parameter block with the values that the index holds. -/
def IndexParams.block (p : IndexParams) : Buf :=
  [BitVec.ofNat 8 (match p.metric with | .inner => 0 | .cosine => 1 | .l2 => 2), 0] ++ leBytes 2 p.dim ++ leBytes 4 p.partitions ++ leBytes 4 p.scale.toNat
    ++ leBytes 4 p.holdNs ++ Buf.slice p.embedDigest 0 32 ++ List.replicate 16 0

/-- INDEX_DIGEST (R353). -/
def Index.digest (x : Index) : Buf := sha3 (x.params.block ++ x.centroids ++ x.norms.flatMap (fun n => leBytes 4 (intCode 32 n)) ++ x.projection)

/-! ### CREATE_INDEX (R57) -/

def metricOf (n : Nat) : Option Metric := match n with | 0 => some .inner | 1 => some .cosine | 2 => some .l2 | _ => none

/-- The index parameter block, defaults put in (table *Operand buffers*); whether it is in order. -/
def parseIndexParams (b : Buf) : IndexParams × Bool :=
  let metric := metricOf (Buf.at b 0).toNat
  let dim := if Buf.le b 2 2 = 0 then 1024 else Buf.le b 2 2
  let parts := if Buf.le b 4 4 = 0 then 1048576 else Buf.le b 4 4
  let hold := if Buf.le b 12 4 = 0xFFFFFFFF then 50000 else Buf.le b 12 4
  let scale := BitVec.ofNat 32 (Buf.le b 8 4)
  ({ metric := metric.getD .inner, dim := dim, scale := scale, partitions := parts, holdNs := hold, embedDigest := Buf.slice b 16 32 },
    metric.isSome && Buf.at b 1 == 0 && (Buf.slice b 48 16).all (· == 0) && decide (128 ≤ dim ∧ dim ≤ 4096) && decide (dim % 64 = 0)
      && decide (1024 ≤ parts ∧ parts ≤ 4194304) && decide (hold ≤ 500000) && fpLt 0 scale && fpFinite scale)

/-- The n_p of a centroid table as written, and whether each is right (R323). -/
def parseNorms (p : IndexParams) (b2 : Buf) : List Int :=
  (List.range p.partitions).map fun k => signedOf 32 (Buf.le b2 (p.partitions * p.dim + 4 * k) 4)
def normsOk (p : IndexParams) (b2 : Buf) : Bool :=
  (parseNorms p b2).zipIdx.all fun (n, k) => decide (n = sumSquares b2 (k * p.dim) p.dim)

/-- CREATE_INDEX. -/
def execCreateIndex (sid : Nat) (b b2 b3 : Option Buf) (s : State) : Outcome :=
  .next (s.run sid 0x11 fun u s => s.withB u b fun buf =>
    match b2, b3 with
    | some b2, some b3 =>
      let p := parseIndexParams buf
      let params := p.1
      let slot := lowestFree (s.idx.list.map (·.index)) 64
      let i := slot.getD 0
      let x : Index := { index := i, gen := genFor s.idx.indexGens i, params := params, centroids := b2.take (params.partitions * params.dim)
                         projection := b3, creator := u.client }
      s.settle u
        (when (!p.2 || decide (u.entry.length.toNat ≠ 64) || decide (u.entry.b2Len ≠ params.tableBytes)
            || decide (u.entry.b3Len ≠ 512 * params.dim) || !normsOk params b2) .badField
          ++ when (slot.isNone || !s.sealedRoom x.tableObj params.tableBytes) .noResource
          ++ when (s.sealedOut x.tableObj params.tableBytes) .mediaError)
        fun s =>
          let x := { x with norms := parseNorms params b2 }
          ((s.addSealed x.handle x.tableObj params.tableBytes b2).modIdx fun g => { g with list := g.list ++ [x] }).complete u
            (BitVec.ofNat 64 x.handle.toNat) 0
    | _, _ => s.accessError u)

/-! ### Retention and release (R65 to R67) -/

/-- A job is held on a version: a request bound to it, or an ANSWER that has not been read yet (R47). -/
def State.jobOnVersion (s : State) (x : Index) (n : Nat) : Bool :=
  s.ans.reqs.any (fun r => r.holds.contains x.handle && r.version == n)
    || s.sasel.subs.any fun u => u.entry.opcode == 0x10 && !u.finished && !s.ans.reqs.any fun r => r.sid == u.sid

/-- The version is retained (R66). -/
def State.retained (s : State) (x : Index) (v : Version) : Bool := v.number == x.current || v.pinned || s.jobOnVersion x v.number

/-- Segments that a commit has added and that no retained version contains are freed with their extents. -/
def State.freeSegments (s : State) (h : W32) : State :=
  match s.index? h with
  | none => s
  | some x =>
    let dead := fun (g : Segment) => g.committed && !x.versions.any fun v => match g.number with | some n => v.segments.contains n | none => false
    let gone := (x.segments.filter dead).filterMap (·.number)
    ((x.segments.filter dead).foldl State.dropRuns s).modIndex h fun x =>
      { x with segments := x.segments.filter (fun g => !dead g), damaged := x.damaged.filter fun d => !gone.contains d.segment }

/-- One version is retired: its directory goes, and the segments that only it held. -/
def State.retireVersion (s : State) (h : W32) (n : Nat) : State :=
  match s.index? h with
  | none => s
  | some x =>
    ((s.dropHome (x.dirObj n)).modIndex h fun x => { x with versions := x.versions.filter fun v => !(v.number == n) }).freeSegments h

/-- A plot member keeps an old version until every member has reported that it holds no job on it (R355). -/
def State.plotHolds (s : State) (x : Index) (n : Nat) : Bool :=
  match x.plot with
  | none => false
  | some p => !s.ranks.all fun r => s.fabric.plotFree.contains (p, n, r)

/-- This member reports an old version on which it holds no job. -/
def State.reportFree (s : State) (x : Index) (n : Nat) : State :=
  match x.plot with
  | none => s
  | some p =>
    let own := s.ownRank
    if s.fabric.plotFree.contains (p, n, own) then s
    else (s.modFabric fun f => { f with plotFree := f.plotFree ++ [(p, n, own)] }).sendAll .plotFree [p, n]

/-- What a plot member holds of a version beside the version itself: summaries, 4 B a partition of the index pool, and reports. -/
def State.dropPlotVersion (s : State) (x : Index) (n : Nat) : State :=
  match x.plot with
  | none => s
  | some p =>
    let old := s.fabric.summaries.filter fun y => y.plot == p && y.version == n
    (s.refundPool poolIndex (sumOf (old.map fun y => 4 * y.counts.length))).modFabric fun f =>
      { f with summaries := f.summaries.filter fun y => !(y.plot == p && y.version == n)
               plotFree := f.plotFree.filter fun y => !(y.1 == p && y.2.1 == n) }

/-- Retire every version of an index that is not retained. -/
def State.sweepVersions (s : State) (h : W32) : State :=
  match s.index? h with
  | none => s
  | some x => ((x.versions.filter fun v => !s.retained x v).map (·.number)).foldl (fun s n =>
      let s := s.reportFree x n
      if s.plotHolds x n then s else (s.dropPlotVersion x n).retireVersion h n) s

/-- VERSION_RETIRE (R66). -/
def execVersionRetire (index : W32) (version : Nat) (s : State) : Outcome :=
  .next (match s.index? index with
    | none => s
    | some x =>
      match x.version? version with
      | some v => if s.retained x v || s.plotHolds x version then s else (s.dropPlotVersion x version).retireVersion index version
      | none => s)

/-- A commit or compaction of the index accepted before `r` has not completed (R67). -/
def State.commitBefore (s : State) (h : W32) (r : Nat) : Bool :=
  s.sasel.subs.any fun u => (u.entry.opcode == 0x16 || u.entry.opcode == 0x17) && u.entry.handleA == h && decide (u.sid < r) && u.due.isNone

/-- Segments not committed are freed, and their handle indices may be reissued (R62, R67). -/
def State.dropOpenSegments (s : State) (h : W32) : State :=
  match s.index? h with
  | none => s
  | some x =>
    let gone := x.segments.filter fun g => !g.committed
    (((gone.foldl State.dropRuns s).modIndex h fun x => { x with segments := x.segments.filter (·.committed) })).modIdx fun i =>
      { i with segGens := gone.foldl (fun y g => bumpGen y (hIndex g.handle)) i.segGens }

/-- An index that no job holds goes with everything it has. -/
def State.dropIndex (s : State) (h : W32) : State :=
  match s.index? h with
  | none => s
  | some x =>
    let s := (x.versions.map fun v => x.dirObj v.number).foldl State.dropHome (s.dropHome x.tableObj)
    let s := (x.segments.foldl State.dropRuns s).modIdx fun i =>
      { i with list := i.list.filter (fun y => !(y.index == x.index)), indexGens := bumpGen i.indexGens x.index }
    { s with sasel := { s.sasel with grants := s.sasel.grants.filter fun g => !(g.1 == h) } }

/-- A DELETE_INDEX takes effect after the commits accepted before it; the index is freed with its last job (R67). -/
def State.sweepIndex (s : State) (x : Index) : State :=
  match x.releasedAt with
  | none => s.sweepVersions x.handle
  | some r =>
    if s.commitBefore x.handle r then s
    else
      let s := s.dropOpenSegments x.handle
      if x.versions.any (fun v => s.jobOnVersion x v.number) then s else s.dropIndex x.handle

/-- What follows the release of a job. -/
def State.sweepIndexes (s : State) : State := s.idx.list.foldl State.sweepIndex s

/-- The members of a plot index are every rank of the plot; the sequencer is the lowest (R353, log 36). -/
def State.sequencer (s : State) : Nat := s.ranks.headD 0

/-- DELETE_INDEX completes at once, whatever commits still wait; of a plot member it is carried to the sequencer, for every member (R67). -/
def execDeleteIndex (sid : Nat) (s : State) : Outcome :=
  .next (s.runNow sid 0x12 fun u s => s.settle u [] fun s =>
    match s.index? u.entry.handleA with
    | none => s.completeOk u
    | some x =>
      let s := s.completeOk u
      let s := match x.plot with
        | some p => if s.ownRank = s.sequencer then s.sendAll .plotDelete [p] else s.sendMsg s.sequencer .plotDelete [p]
        | none => s
      match s.index? u.entry.handleA with
      | some x => s.sweepIndex x
      | none => s)

/-! ### Segments (R60 to R62) -/

/-- OPEN_SEGMENT. -/
def execOpenSegment (sid : Nat) (s : State) : Outcome :=
  .next (s.run sid 0x13 fun u s =>
    match s.index? u.entry.handleA with
    | none => s.settle u [.staleHandle] fun s => s
    | some x =>
      let pending := x.segments.filter fun g => !g.committed
      let used := (s.idx.list.flatMap (·.segments)).filterMap fun g => if g.committed then none else some (hIndex g.handle)
      let slot := lowestFree used 4096
      s.settle u (when (decide (64 ≤ pending.length) || decide (16 ≤ (pending.filter fun g => g.number.isNone).length) || slot.isNone) .noResource)
        fun s =>
          let i := slot.getD 0
          let h := mkHandle (genFor s.idx.segGens i) kindSegment i
          (s.modIndex u.entry.handleA fun x =>
            { x with segments := x.segments ++ [{ handle := h, runs := x.runsObj x.opened }], opened := x.opened + 1 }).complete u (BitVec.ofNat 64 h.toNat) 0)

/-- OFFSET and LENGTH of a locator (R235). -/
def locLength (l : W128) : Nat := l.toNat % 65536
def locOffset (l : W128) : Nat := l.toNat / 65536 % 65536
def locExtent (l : W128) : Nat := l.toNat / 2 ^ 32 % 2 ^ 32
def locObject (l : W128) : W64 := BitVec.ofNat 64 (l.toNat / 2 ^ 64)

def locatorOk (l : W128) : Bool := decide (1 ≤ locLength l) && decide (locOffset l + locLength l ≤ 65536)

/-- The record of an insert record (R60, R70, R71). -/
def Index.insertRec (x : Index) (b : Buf) : Rec :=
  let l : W128 := BitVec.ofNat 128 (Buf.le b 0 16)
  let v := Buf.slice b 32 x.params.dim
  let q := bufInts v x.params.dim
  { locator := l, metaBytes := BitVec.ofNat 128 (Buf.le b 16 16), vector := v, partition := x.bestPartition q
    channel := locatorChannel l, sketch := x.sketchOf q }

def Index.insertRecs (x : Index) (b : Buf) (len : Nat) : List Rec :=
  let w := 32 + x.params.dim
  (List.range (len / w)).map fun i => x.insertRec (Buf.slice b (w * i) w)

/-- The statuses of an APPEND_RECORDS. -/
def State.appendErrs (s : State) (x : Index) (g : Option Segment) (recs : List Rec) (len : Nat) (more : List Nat) : List Status :=
  let old := match g with | some g => g.recs | none => []
  let locs := recs.map (·.locator)
  when (g.isNone || decide (len % (32 + x.params.dim) ≠ 0) || (match g with | some g => g.number.isSome | none => false)
      || !locs.all locatorOk || !decide locs.Nodup || old.any (fun r => locs.contains r.locator)
      || (x.plot.isSome && !locs.all fun l => hostId (locObject l) && (s.obj? (locObject l)).isSome)) .badField
    ++ when (decide (4294967295 < old.length + recs.length) || !s.capacityOk more) .noResource
    ++ when (recs.any fun r => s.channelOut r.channel) .mediaError

/-- Elements of a list that remain once each of another has been taken away once. -/
def takeAway {α : Type} [DecidableEq α] : List α → List α → List α
  | l, [] => l
  | l, x :: r => takeAway (l.erase x) r

/-- APPEND_RECORDS. -/
def execAppendRecords (sid : Nat) (b : Option Buf) (s : State) : Outcome :=
  .next (s.run sid 0x14 fun u s => s.withB u b fun buf =>
    match s.index? u.entry.handleA with
    | none => s.settle u [.staleHandle] fun s => s
    | some x =>
      let len := u.entry.length.toNat
      let g := x.segment? u.entry.handleB
      let recs := x.insertRecs buf len
      let old := match g with | some g => g.recs | none => []
      let more := takeAway (segmentChannels x.params.dim (old ++ recs)) (segmentChannels x.params.dim old)
      s.settle u (s.appendErrs x g recs len more) fun s =>
        let s := match g with
          | some g => s.writeRuns x.params.dim { g with recs := old ++ recs } (nub (recs.map Rec.channel))
          | none => s
        (s.modIndex u.entry.handleA fun x =>
          { x with segments := updWhere (fun g => g.handle == u.entry.handleB && !g.committed) (fun g => { g with recs := g.recs ++ recs }) x.segments }).complete
          u (BitVec.ofNat 64 recs.length) 0)

/-- SEAL_SEGMENT gives the next segment number, and the slice runs their directory entry (R166); it fails with MEDIA_ERROR when its slice runs lie on a channel out of service
(R62, R399). -/
def execSealSegment (sid : Nat) (s : State) : Outcome :=
  .next (s.run sid 0x15 fun u s =>
    match s.index? u.entry.handleA with
    | none => s.settle u [.staleHandle] fun s => s
    | some x =>
      let g := x.segment? u.entry.handleB
      s.settle u
        (when (match g with | some g => g.number.isSome | none => true) .badField
          ++ when (decide (4294967296 ≤ x.segCount) || !s.dirRoom 1) .noResource
          ++ when (match g with | some g => g.recs.any fun r => s.channelOut r.channel | none => false) .mediaError)
        fun s =>
          let s := match g with
            | some g => s.addHome
                { objId := g.runs, sealedObj := true, owner := x.handle
                  lengthM1 := BitVec.ofNat 32 (1024 * (segmentChannels x.params.dim g.recs).length - 1) }
            | none => s
          (s.modIndex u.entry.handleA fun x =>
            { x with segCount := x.segCount + 1
                     segments := updWhere (fun g => g.handle == u.entry.handleB && !g.committed) (fun g => { g with number := some x.segCount }) x.segments }).complete
            u (BitVec.ofNat 64 x.segCount) 0)

/-! ### Commits (R61, R63, R68) -/

/-- A commit list of `len` bytes; none when it does not fit (table *Operand buffers*).  DESIGN CHOICE (log 87): bytes beyond what the
counts need are ignored. -/
def parseCommit (b : Buf) (len : Nat) : Option CommitList :=
  let a := Buf.le b 0 4
  let l := Buf.le b 4 4
  let c := Buf.le b 8 4
  let locs := ceilDiv (16 + 4 * a + 4 * c) 16 * 16
  if len < 16 ∨ len < (if l = 0 then 16 + 4 * a + 4 * c else locs + 16 * l) then none
  else
    some { added := (List.range a).map fun i => BitVec.ofNat 32 (Buf.le b (16 + 4 * i) 4)
           replaced := (List.range c).map fun i => Buf.le b (16 + 4 * a + 4 * i) 4
           deleted := (List.range l).map fun i => BitVec.ofNat 128 (Buf.le b (locs + 16 * i) 16)
           rsv := decide (Buf.le b 12 4 ≠ 0) }

/-- Segments that a list adds. -/
def Index.addedSegs (x : Index) (c : CommitList) : List Segment := c.added.filterMap x.segment?

/-- A segment handle is of another index, and so is no stale one (R62). -/
def State.foreignSegment (s : State) (x : Index) (h : W32) : Bool :=
  s.idx.list.any fun y => y.index != x.index && (y.segment? h).isSome

/-- Locators the list inserts. -/
def Index.inserted (x : Index) (c : CommitList) : List W128 := (x.addedSegs c).flatMap fun g => g.recs.map (·.locator)

/-- The statuses that a commit list and a compaction list share. -/
def State.listErrs (s : State) (x : Index) (c : CommitList) : List Status :=
  when (c.rsv || !c.added.all handleRsvOk || !decide c.added.Nodup || !decide c.replaced.Nodup || c.added.any (s.foreignSegment x)
      || (x.addedSegs c).any (fun g => g.number.isNone)) .badField
    ++ when (c.added.any fun h => (x.segment? h).isNone && !s.foreignSegment x h) .staleHandle

/-- The version that follows the current one: segments replaced and added, records tombstoned by their locators. -/
def Index.nextVersion (x : Index) (c : CommitList) (hidden : List W128) : Version :=
  let v := x.currentVersion
  let keep := v.segments.filter fun n => !c.replaced.contains n
  let kept : Version := { v with segments := keep, tombs := v.tombs.filter fun t => !c.replaced.contains t.1.segment }
  let hide := ((x.liveRecs kept).filter fun r => hidden.contains r.2.2.locator).map fun r => (r.1, r.2.1)
  { number := x.current + 1, segments := keep ++ (x.addedSegs c).filterMap (·.number), tombs := kept.tombs ++ hide }

/-- Limits of a commit: number of versions, segments, and room for the new directory (R61, R63). -/
def State.versionErrs (s : State) (x : Index) (v : Version) : List Status :=
  when (decide (0xFFFFFFFF ≤ x.current) || decide (65536 < v.segments.length) || !s.sealedRoom (x.dirObj v.number) (x.dirBytes v)) .noResource
    ++ when (s.sealedOut (x.dirObj v.number) (x.dirBytes v)) .mediaError

/-- The statuses of a COMMIT_INDEX. -/
def State.commitErrs (s : State) (x : Index) (c : CommitList) : List Status :=
  let ins := x.inserted c
  s.listErrs x c ++ when (decide (c.replaced ≠ []) || !decide ins.Nodup || ins.any (fun l => c.deleted.contains l)) .badField
    ++ s.versionErrs x (x.nextVersion c (ins ++ c.deleted))

/-- What R68 compares of a record. -/
def Rec.content (r : Rec) : W128 × W128 × Buf := (r.locator, r.metaBytes, r.vector)

/-- The new segments hold exactly the live records of the replaced ones' undamaged slices; further records only in place of a
damaged slice's, each with a locator live nowhere else (R68). -/
def State.compactOk (s : State) (x : Index) (c : CommitList) : Bool :=
  let v := x.currentVersion
  let live := (x.liveRecs v).filter fun r => c.replaced.contains r.1.segment
  let good := (live.filter fun r => !s.sliceDamaged x r.1).map fun r => r.2.2.content
  let news : List (W128 × W128 × Buf) := (x.addedSegs c).flatMap fun g => g.recs.map Rec.content
  let rest := takeAway news good
  let anyDamage := (x.allRecs v).any fun r => c.replaced.contains r.1.segment && s.sliceDamaged x r.1
  let elsewhere := ((x.liveRecs v).filter fun r => !c.replaced.contains r.1.segment).map fun r => r.2.2.locator
  (takeAway good news).isEmpty && (rest.isEmpty || (anyDamage && rest.all (fun r => !elsewhere.contains r.1)))
    && decide ((news.map Prod.fst).Nodup)

/-- The statuses of a COMPACT_INDEX; `fails` are slices whose reads fail their rebuild. -/
def State.compactErrs (s : State) (x : Index) (c : CommitList) (fails : List SliceId) : List Status :=
  s.listErrs x c
    ++ when (decide (c.deleted ≠ []) || c.replaced.any (fun n => !x.currentVersion.segments.contains n)
        || (fails.isEmpty && !s.compactOk x c)) .badField
    ++ s.versionErrs x (x.nextVersion c []) ++ when (!fails.isEmpty) .damaged

/-- The segments that a compaction reads: those that it replaces and those that it adds. -/
def Index.readSegs (x : Index) (c : CommitList) : List Segment :=
  x.segments.filter fun g => c.added.contains g.handle || (match g.number with | some n => c.replaced.contains n | none => false)

/-- The extents that the check of a compaction reads: those of the undamaged slices of these segments. -/
def State.compactReads (s : State) (x : Index) (c : CommitList) : List (W64 × Nat) :=
  (x.readSegs c).flatMap fun g => (List.range 128).flatMap fun ch =>
    let ok : Rec → Bool := fun r => !s.sliceDamaged x { segment := g.number.getD 0, partition := r.partition, channel := r.channel }
    g.extentsWith x.params.dim ch false ok ++ g.extentsWith x.params.dim ch true ok

/-- Slices of the segments that a compaction adds: one that is DAMAGED already cannot be read either (R68, R81). -/
def Index.newSlices (x : Index) (c : CommitList) : List SliceId :=
  ((x.segments.filter fun g => c.added.contains g.handle).flatMap Segment.placedRecs).map (·.1)

/-- Publish a version: its directory, its number, its event; added segments lose their handles; what is not retained goes
(R62, R63, R66). -/
def State.publish (s : State) (h : W32) (c : CommitList) (v : Version) : State :=
  match s.index? h with
  | none => s
  | some x =>
    let s := s.addSealed x.handle (x.dirObj v.number) (x.dirBytes v) (x.dirData v)
    let n := s.event.1
    let s := s.event.2
    let s := s.modIndex h fun x =>
      { x with current := v.number, versions := x.versions ++ [{ v with pubSeq := n }]
               segments := updWhere (fun g => c.added.contains g.handle && !g.committed) (fun g => { g with committed := true }) x.segments }
    (s.modIdx fun i => { i with segGens := c.added.foldl (fun y k => bumpGen y (hIndex k)) i.segGens }).sweepVersions h

/-- The inserted locators of a carried list: of a compaction, those not live here already. -/
def Index.carriedInserts (x : Index) (c : CommitList) : List W128 :=
  if c.replaced = [] then x.inserted c
  else let live := (x.liveRecs x.currentVersion).map fun r => r.2.2.locator; (x.inserted c).filter fun l => !live.contains l

/-- A commit of a plot member is carried to the sequencer, which may be this sled itself (R354). -/
def State.carry (s : State) (u : Sub) (plot : Nat) (c : CommitList) : State :=
  let ins := match s.index? u.entry.handleA with | some x => x.carriedInserts c | none => []
  let s := (s.start u.sid).modIndex u.entry.handleA fun x => { x with carried := x.carried ++ [(u.sid, c)] }
  let m := [plot, u.sid, ins.length] ++ (ins ++ c.deleted).map (·.toNat)
  if s.ownRank = s.sequencer then s.emit (.message s.ownRank .plotCommit m) else s.sendMsg s.sequencer .plotCommit m

/-- Commits on one index are applied one at a time (R63). -/
def State.commitRuns (s : State) (u : Sub) : Bool :=
  s.sasel.subs.any fun v => decide (v.sid < u.sid) && (v.entry.opcode == 0x16 || v.entry.opcode == 0x17)
    && v.entry.handleA == u.entry.handleA && v.due.isNone

/-- COMMIT_INDEX. -/
def execCommitIndex (sid : Nat) (b : Option Buf) (s : State) : Outcome :=
  .next (s.run sid 0x16 fun u s => s.withB u b fun buf =>
    match s.index? u.entry.handleA, parseCommit buf u.entry.length.toNat with
    | some x, some c =>
      if s.commitRuns u then s
      else
        s.settle u (s.commitErrs x c) fun s =>
          match x.plot with
          | some p => s.carry u p c
          | none =>
            let v := x.nextVersion c (x.inserted c ++ c.deleted)
            let s := (s.publish u.entry.handleA c v).complete u (BitVec.ofNat 64 v.number) 0
            (match s.index? u.entry.handleA with | some x => s.sweepIndex x | none => s)
    | none, _ => s.settle u [.staleHandle] fun s => s
    | _, none => s.settle u [.badField] fun s => s)

/-- COMPACT_INDEX: the check reads the segments by the ladder; slices whose reads fail their rebuild are DAMAGED (R68, R81, R238). -/
def execCompactIndex (sid : Nat) (b : Option Buf) (media : Media) (s : State) : Outcome :=
  .next (s.run sid 0x17 fun u s => s.withB u b fun buf =>
    match s.index? u.entry.handleA, parseCommit buf u.entry.length.toNat with
    | some x, some c =>
      if s.commitRuns u then s
      else
        let unread := (x.newSlices c).filter (s.sliceDamaged x)
        let t := if u.preset = [] then s.readRuns media (s.compactReads x c) else s
        let fails := match t.index? u.entry.handleA with | some y => y.damaged.filter fun d => !x.damaged.contains d | none => []
        t.settle u (t.compactErrs x c (fails ++ unread)) fun s =>
          match x.plot with
          | some p => s.carry u p c
          | none =>
            let v := x.nextVersion c []
            let s := (s.publish u.entry.handleA c v).complete u (BitVec.ofNat 64 v.number) 0
            (match s.index? u.entry.handleA with | some x => s.sweepIndex x | none => s)
    | none, _ => s.settle u [.staleHandle] fun s => s
    | _, none => s.settle u [.badField] fun s => s)

/-! ### Pins (R67, R355) -/

/-- On a plot member a pin acts on every member. -/
def State.pinMembers (s : State) (x : Index) (n : Nat) (on : Bool) : State :=
  match x.plot with
  | some p => s.sendAll .plotPin [p, n, on.toNat]
  | none => s

/-- The statuses that PIN_VERSION and UNPIN_VERSION share. -/
def Index.pinErrs (x : Index) (n : Nat) : List Status :=
  when (decide (n = 0) || decide (x.current < n)) .badField ++ when (decide (1 ≤ n ∧ n ≤ x.current) && (x.version? n).isNone) .versionGone

/-- PIN_VERSION. -/
def execPinVersion (sid : Nat) (s : State) : Outcome :=
  .next (s.run sid 0x18 fun u s =>
    match s.index? u.entry.handleA with
    | none => s.settle u [.staleHandle] fun s => s
    | some x =>
      let n := u.entry.arg0.toNat
      let pinned := match x.version? n with | some v => v.pinned | none => false
      s.settle u (x.pinErrs n ++ when (!pinned && decide (16 ≤ (x.versions.filter (·.pinned)).length)) .noResource) fun s =>
        ((s.modIndex u.entry.handleA fun x =>
          { x with versions := updWhere (fun v => v.number == n) (fun v => { v with pinned := true, retiredAt := none }) x.versions }).pinMembers x n true).completeOk u)

/-- A version is unpinned.  When it is not the current one this retires it: later requests find it gone, and it goes when its last job
is released (R47, R66). -/
def Version.unpin (current sid : Nat) (v : Version) : Version :=
  { v with pinned := false, retiredAt := if v.pinned ∧ v.number ≠ current then some sid else v.retiredAt }

/-- UNPIN_VERSION. -/
def execUnpinVersion (sid : Nat) (s : State) : Outcome :=
  .next (s.run sid 0x19 fun u s =>
    match s.index? u.entry.handleA with
    | none => s.settle u [.staleHandle] fun s => s
    | some x =>
      let n := u.entry.arg0.toNat
      s.settle u (x.pinErrs n) fun s =>
        (((s.modIndex u.entry.handleA fun x =>
          { x with versions := updWhere (fun v => v.number == n) (Version.unpin x.current u.sid) x.versions }).pinMembers x n false).completeOk
          u).sweepVersions u.entry.handleA)

/-! ### Extents and copies that are lost (R81, R182, R243, R250) -/

/-- What follows for the owner when an extent cannot be rebuilt (R81, R182, R183, R243). -/
def State.mediaLost (s : State) (obj : W64) (extent : Nat) : State :=
  if objKind obj = 3 then s.sliceLost obj extent
  else
    match s.home? obj with
    | some h => if h.sealedObj then s.extentLost h extent else if h.tier = .flash then s.mutableLost obj else s
    | none => s

/-- PARITY_REBUILD: of the extent a READ_EXTENT waits for; or of another extent that a hub has found uncorrectable (R81, R182, R183, R242,
R243).  `media` is what the reads of the other members meet. -/
def execParityRebuild (obj : W64) (extent : Nat) (media : Media) (s : State) : Outcome :=
  .next (match s.flash.reads.find? fun r => r.obj == obj && r.extent == extent && decide (7 ≤ r.step) with
    | some r => s.rebuildFor r media
    | none =>
      match s.entry? obj extent with
      | none => s
      | some m =>
        if m.damaged ∨ s.channelPaused m.channel = true then s
        else
          let r := (s.countStep m.channel 7).rebuildExtent media m
          if r.1.isSome then r.2 else r.2.mediaLost obj extent)

/-- The HBM copies of centroid tables and version directories are fetched again after a reset (R164, R177). -/
def State.stageIndexes (s : State) : State :=
  (s.tiers.homes.filter fun h => h.sealedObj && !h.hbmCopy && !h.damaged && decide (objKind h.objId = 1 ∨ objKind h.objId = 2)).foldl
    (fun s h =>
      match s.allocHbm poolIndex h.bytes h.objId with
      | none => s
      | some (a, s) => (List.range (extentsOf h.bytes)).foldl (fun s e => s.fetchExtent h.objId e [])
          (s.modHome h.objId fun h => { h with hbmCopy := true, addr := BitVec.ofNat 64 a, charged := granules h.bytes })) s

/-- MAP_REPLAY: the map is rebuilt, and the index copies are staged; `lost` names the pages whose tags do not decode
(R250, R252). -/
def execMapReplay (lost : List (Nat × Nat)) (s : State) : Outcome :=
  .next (if s.boot.phase = .firmware ∧ s.isReady bitSysregion = true ∧ s.flash.replayed = false then (s.replayMap lost).stageIndexes else s)

end Sys2Proof.Machine
end

