-- ==== Sys2Proof/Machine/UnicodeData.lean ====
section
/-! DEFINITION. The Unicode 15.1 character data that normalisation form C reads (R143): canonical combining classes, canonical
decompositions, and which of these compose.  PRESUMED (log 89): the manual names the data and does not print it; the tables are
those of the Unicode Character Database, whose canonical decompositions and combining classes are the same in 15.0 and 15.1. -/

namespace Sys2Proof.Machine

/-- Part 0 of the combining classes. -/
def cccPart0 : List (Nat × Nat × Nat) :=
  [(768, 788, 230), (789, 789, 232), (790, 793, 220), (794, 794, 232), (795, 795, 216), (796, 800, 220), (801, 802, 202),
   (803, 806, 220), (807, 808, 202), (809, 819, 220), (820, 824, 1), (825, 828, 220), (829, 836, 230), (837, 837, 240),
   (838, 838, 230), (839, 841, 220), (842, 844, 230), (845, 846, 220), (848, 850, 230), (851, 854, 220), (855, 855, 230),
   (856, 856, 232), (857, 858, 220), (859, 859, 230), (860, 860, 233), (861, 862, 234), (863, 863, 233), (864, 865, 234),
   (866, 866, 233), (867, 879, 230), (1155, 1159, 230), (1425, 1425, 220), (1426, 1429, 230), (1430, 1430, 220),
   (1431, 1433, 230), (1434, 1434, 222), (1435, 1435, 220), (1436, 1441, 230), (1442, 1447, 220), (1448, 1449, 230)]
/-- Part 1 of the combining classes. -/
def cccPart1 : List (Nat × Nat × Nat) :=
  [(1450, 1450, 220), (1451, 1452, 230), (1453, 1453, 222), (1454, 1454, 228), (1455, 1455, 230), (1456, 1456, 10),
   (1457, 1457, 11), (1458, 1458, 12), (1459, 1459, 13), (1460, 1460, 14), (1461, 1461, 15), (1462, 1462, 16),
   (1463, 1463, 17), (1464, 1464, 18), (1465, 1466, 19), (1467, 1467, 20), (1468, 1468, 21), (1469, 1469, 22),
   (1471, 1471, 23), (1473, 1473, 24), (1474, 1474, 25), (1476, 1476, 230), (1477, 1477, 220), (1479, 1479, 18),
   (1552, 1559, 230), (1560, 1560, 30), (1561, 1561, 31), (1562, 1562, 32), (1611, 1611, 27), (1612, 1612, 28),
   (1613, 1613, 29), (1614, 1614, 30), (1615, 1615, 31), (1616, 1616, 32), (1617, 1617, 33), (1618, 1618, 34),
   (1619, 1620, 230), (1621, 1622, 220), (1623, 1627, 230), (1628, 1628, 220)]
/-- Part 2 of the combining classes. -/
def cccPart2 : List (Nat × Nat × Nat) :=
  [(1629, 1630, 230), (1631, 1631, 220), (1648, 1648, 35), (1750, 1756, 230), (1759, 1762, 230), (1763, 1763, 220),
   (1764, 1764, 230), (1767, 1768, 230), (1770, 1770, 220), (1771, 1772, 230), (1773, 1773, 220), (1809, 1809, 36),
   (1840, 1840, 230), (1841, 1841, 220), (1842, 1843, 230), (1844, 1844, 220), (1845, 1846, 230), (1847, 1849, 220),
   (1850, 1850, 230), (1851, 1852, 220), (1853, 1853, 230), (1854, 1854, 220), (1855, 1857, 230), (1858, 1858, 220),
   (1859, 1859, 230), (1860, 1860, 220), (1861, 1861, 230), (1862, 1862, 220), (1863, 1863, 230), (1864, 1864, 220),
   (1865, 1866, 230), (2027, 2033, 230), (2034, 2034, 220), (2035, 2035, 230), (2045, 2045, 220), (2070, 2073, 230),
   (2075, 2083, 230), (2085, 2087, 230), (2089, 2093, 230), (2137, 2139, 220)]
/-- Part 3 of the combining classes. -/
def cccPart3 : List (Nat × Nat × Nat) :=
  [(2200, 2200, 230), (2201, 2203, 220), (2204, 2207, 230), (2250, 2254, 230), (2255, 2259, 220), (2260, 2273, 230),
   (2275, 2275, 220), (2276, 2277, 230), (2278, 2278, 220), (2279, 2280, 230), (2281, 2281, 220), (2282, 2284, 230),
   (2285, 2287, 220), (2288, 2288, 27), (2289, 2289, 28), (2290, 2290, 29), (2291, 2293, 230), (2294, 2294, 220),
   (2295, 2296, 230), (2297, 2298, 220), (2299, 2303, 230), (2364, 2364, 7), (2381, 2381, 9), (2385, 2385, 230),
   (2386, 2386, 220), (2387, 2388, 230), (2492, 2492, 7), (2509, 2509, 9), (2558, 2558, 230), (2620, 2620, 7),
   (2637, 2637, 9), (2748, 2748, 7), (2765, 2765, 9), (2876, 2876, 7), (2893, 2893, 9), (3021, 3021, 9), (3132, 3132, 7),
   (3149, 3149, 9), (3157, 3157, 84), (3158, 3158, 91)]
/-- Part 4 of the combining classes. -/
def cccPart4 : List (Nat × Nat × Nat) :=
  [(3260, 3260, 7), (3277, 3277, 9), (3387, 3388, 9), (3405, 3405, 9), (3530, 3530, 9), (3640, 3641, 103), (3642, 3642, 9),
   (3656, 3659, 107), (3768, 3769, 118), (3770, 3770, 9), (3784, 3787, 122), (3864, 3865, 220), (3893, 3893, 220),
   (3895, 3895, 220), (3897, 3897, 216), (3953, 3953, 129), (3954, 3954, 130), (3956, 3956, 132), (3962, 3965, 130),
   (3968, 3968, 130), (3970, 3971, 230), (3972, 3972, 9), (3974, 3975, 230), (4038, 4038, 220), (4151, 4151, 7),
   (4153, 4154, 9), (4237, 4237, 220), (4957, 4959, 230), (5908, 5909, 9), (5940, 5940, 9), (6098, 6098, 9),
   (6109, 6109, 230), (6313, 6313, 228), (6457, 6457, 222), (6458, 6458, 230), (6459, 6459, 220), (6679, 6679, 230),
   (6680, 6680, 220), (6752, 6752, 9), (6773, 6780, 230)]
/-- Part 5 of the combining classes. -/
def cccPart5 : List (Nat × Nat × Nat) :=
  [(6783, 6783, 220), (6832, 6836, 230), (6837, 6842, 220), (6843, 6844, 230), (6845, 6845, 220), (6847, 6848, 220),
   (6849, 6850, 230), (6851, 6852, 220), (6853, 6857, 230), (6858, 6858, 220), (6859, 6862, 230), (6964, 6964, 7),
   (6980, 6980, 9), (7019, 7019, 230), (7020, 7020, 220), (7021, 7027, 230), (7082, 7083, 9), (7142, 7142, 7),
   (7154, 7155, 9), (7223, 7223, 7), (7376, 7378, 230), (7380, 7380, 1), (7381, 7385, 220), (7386, 7387, 230),
   (7388, 7391, 220), (7392, 7392, 230), (7394, 7400, 1), (7405, 7405, 220), (7412, 7412, 230), (7416, 7417, 230),
   (7616, 7617, 230), (7618, 7618, 220), (7619, 7625, 230), (7626, 7626, 220), (7627, 7628, 230), (7629, 7629, 234),
   (7630, 7630, 214), (7631, 7631, 220), (7632, 7632, 202), (7633, 7669, 230)]
/-- Part 6 of the combining classes. -/
def cccPart6 : List (Nat × Nat × Nat) :=
  [(7670, 7670, 232), (7671, 7672, 228), (7673, 7673, 220), (7674, 7674, 218), (7675, 7675, 230), (7676, 7676, 233),
   (7677, 7677, 220), (7678, 7678, 230), (7679, 7679, 220), (8400, 8401, 230), (8402, 8403, 1), (8404, 8407, 230),
   (8408, 8410, 1), (8411, 8412, 230), (8417, 8417, 230), (8421, 8422, 1), (8423, 8423, 230), (8424, 8424, 220),
   (8425, 8425, 230), (8426, 8427, 1), (8428, 8431, 220), (8432, 8432, 230), (11503, 11505, 230), (11647, 11647, 9),
   (11744, 11775, 230), (12330, 12330, 218), (12331, 12331, 228), (12332, 12332, 232), (12333, 12333, 222),
   (12334, 12335, 224), (12441, 12442, 8), (42607, 42607, 230), (42612, 42621, 230), (42654, 42655, 230),
   (42736, 42737, 230), (43014, 43014, 9), (43052, 43052, 9), (43204, 43204, 9), (43232, 43249, 230), (43307, 43309, 220)]
/-- Part 7 of the combining classes. -/
def cccPart7 : List (Nat × Nat × Nat) :=
  [(43347, 43347, 9), (43443, 43443, 7), (43456, 43456, 9), (43696, 43696, 230), (43698, 43699, 230), (43700, 43700, 220),
   (43703, 43704, 230), (43710, 43711, 230), (43713, 43713, 230), (43766, 43766, 9), (44013, 44013, 9), (64286, 64286, 26),
   (65056, 65062, 230), (65063, 65069, 220), (65070, 65071, 230), (66045, 66045, 220), (66272, 66272, 220),
   (66422, 66426, 230), (68109, 68109, 220), (68111, 68111, 230), (68152, 68152, 230), (68153, 68153, 1),
   (68154, 68154, 220), (68159, 68159, 9), (68325, 68325, 230), (68326, 68326, 220), (68900, 68903, 230),
   (69291, 69292, 230), (69373, 69375, 220), (69446, 69447, 220), (69448, 69450, 230), (69451, 69451, 220),
   (69452, 69452, 230), (69453, 69456, 220), (69506, 69506, 230), (69507, 69507, 220), (69508, 69508, 230),
   (69509, 69509, 220), (69702, 69702, 9), (69744, 69744, 9)]
/-- Part 8 of the combining classes. -/
def cccPart8 : List (Nat × Nat × Nat) :=
  [(69759, 69759, 9), (69817, 69817, 9), (69818, 69818, 7), (69888, 69890, 230), (69939, 69940, 9), (70003, 70003, 7),
   (70080, 70080, 9), (70090, 70090, 7), (70197, 70197, 9), (70198, 70198, 7), (70377, 70377, 7), (70378, 70378, 9),
   (70459, 70460, 7), (70477, 70477, 9), (70502, 70508, 230), (70512, 70516, 230), (70722, 70722, 9), (70726, 70726, 7),
   (70750, 70750, 230), (70850, 70850, 9), (70851, 70851, 7), (71103, 71103, 9), (71104, 71104, 7), (71231, 71231, 9),
   (71350, 71350, 9), (71351, 71351, 7), (71467, 71467, 9), (71737, 71737, 9), (71738, 71738, 7), (71997, 71998, 9),
   (72003, 72003, 7), (72160, 72160, 9), (72244, 72244, 9), (72263, 72263, 9), (72345, 72345, 9), (72767, 72767, 9),
   (73026, 73026, 7), (73028, 73029, 9), (73111, 73111, 9), (73537, 73538, 9)]
/-- Part 9 of the combining classes. -/
def cccPart9 : List (Nat × Nat × Nat) :=
  [(92912, 92916, 1), (92976, 92982, 230), (94192, 94193, 6), (113822, 113822, 1), (119141, 119142, 216),
   (119143, 119145, 1), (119149, 119149, 226), (119150, 119154, 216), (119163, 119170, 220), (119173, 119177, 230),
   (119178, 119179, 220), (119210, 119213, 230), (119362, 119364, 230), (122880, 122886, 230), (122888, 122904, 230),
   (122907, 122913, 230), (122915, 122916, 230), (122918, 122922, 230), (123023, 123023, 230), (123184, 123190, 230),
   (123566, 123566, 230), (123628, 123631, 230), (124140, 124141, 232), (124142, 124142, 220), (124143, 124143, 230),
   (125136, 125142, 220), (125252, 125257, 230), (125258, 125258, 7)]

/-- Runs of code points with one canonical combining class that is not 0: first, last, class. -/
def cccTable : List (Nat × Nat × Nat) :=
  cccPart0 ++ cccPart1 ++ cccPart2 ++ cccPart3 ++ cccPart4 ++ cccPart5 ++ cccPart6 ++ cccPart7 ++ cccPart8 ++ cccPart9

/-- Part 0 of the canonical decompositions. -/
def decompPart0 : List (Nat × Nat × Nat × Bool) :=
  [(192, 65, 768, true), (193, 65, 769, true), (194, 65, 770, true), (195, 65, 771, true), (196, 65, 776, true),
   (197, 65, 778, true), (199, 67, 807, true), (200, 69, 768, true), (201, 69, 769, true), (202, 69, 770, true),
   (203, 69, 776, true), (204, 73, 768, true), (205, 73, 769, true), (206, 73, 770, true), (207, 73, 776, true),
   (209, 78, 771, true), (210, 79, 768, true), (211, 79, 769, true), (212, 79, 770, true), (213, 79, 771, true),
   (214, 79, 776, true), (217, 85, 768, true), (218, 85, 769, true), (219, 85, 770, true), (220, 85, 776, true),
   (221, 89, 769, true), (224, 97, 768, true), (225, 97, 769, true), (226, 97, 770, true), (227, 97, 771, true),
   (228, 97, 776, true), (229, 97, 778, true), (231, 99, 807, true), (232, 101, 768, true), (233, 101, 769, true),
   (234, 101, 770, true), (235, 101, 776, true), (236, 105, 768, true), (237, 105, 769, true), (238, 105, 770, true)]
/-- Part 1 of the canonical decompositions. -/
def decompPart1 : List (Nat × Nat × Nat × Bool) :=
  [(239, 105, 776, true), (241, 110, 771, true), (242, 111, 768, true), (243, 111, 769, true), (244, 111, 770, true),
   (245, 111, 771, true), (246, 111, 776, true), (249, 117, 768, true), (250, 117, 769, true), (251, 117, 770, true),
   (252, 117, 776, true), (253, 121, 769, true), (255, 121, 776, true), (256, 65, 772, true), (257, 97, 772, true),
   (258, 65, 774, true), (259, 97, 774, true), (260, 65, 808, true), (261, 97, 808, true), (262, 67, 769, true),
   (263, 99, 769, true), (264, 67, 770, true), (265, 99, 770, true), (266, 67, 775, true), (267, 99, 775, true),
   (268, 67, 780, true), (269, 99, 780, true), (270, 68, 780, true), (271, 100, 780, true), (274, 69, 772, true),
   (275, 101, 772, true), (276, 69, 774, true), (277, 101, 774, true), (278, 69, 775, true), (279, 101, 775, true),
   (280, 69, 808, true), (281, 101, 808, true), (282, 69, 780, true), (283, 101, 780, true), (284, 71, 770, true)]
/-- Part 2 of the canonical decompositions. -/
def decompPart2 : List (Nat × Nat × Nat × Bool) :=
  [(285, 103, 770, true), (286, 71, 774, true), (287, 103, 774, true), (288, 71, 775, true), (289, 103, 775, true),
   (290, 71, 807, true), (291, 103, 807, true), (292, 72, 770, true), (293, 104, 770, true), (296, 73, 771, true),
   (297, 105, 771, true), (298, 73, 772, true), (299, 105, 772, true), (300, 73, 774, true), (301, 105, 774, true),
   (302, 73, 808, true), (303, 105, 808, true), (304, 73, 775, true), (308, 74, 770, true), (309, 106, 770, true),
   (310, 75, 807, true), (311, 107, 807, true), (313, 76, 769, true), (314, 108, 769, true), (315, 76, 807, true),
   (316, 108, 807, true), (317, 76, 780, true), (318, 108, 780, true), (323, 78, 769, true), (324, 110, 769, true),
   (325, 78, 807, true), (326, 110, 807, true), (327, 78, 780, true), (328, 110, 780, true), (332, 79, 772, true),
   (333, 111, 772, true), (334, 79, 774, true), (335, 111, 774, true), (336, 79, 779, true), (337, 111, 779, true)]
/-- Part 3 of the canonical decompositions. -/
def decompPart3 : List (Nat × Nat × Nat × Bool) :=
  [(340, 82, 769, true), (341, 114, 769, true), (342, 82, 807, true), (343, 114, 807, true), (344, 82, 780, true),
   (345, 114, 780, true), (346, 83, 769, true), (347, 115, 769, true), (348, 83, 770, true), (349, 115, 770, true),
   (350, 83, 807, true), (351, 115, 807, true), (352, 83, 780, true), (353, 115, 780, true), (354, 84, 807, true),
   (355, 116, 807, true), (356, 84, 780, true), (357, 116, 780, true), (360, 85, 771, true), (361, 117, 771, true),
   (362, 85, 772, true), (363, 117, 772, true), (364, 85, 774, true), (365, 117, 774, true), (366, 85, 778, true),
   (367, 117, 778, true), (368, 85, 779, true), (369, 117, 779, true), (370, 85, 808, true), (371, 117, 808, true),
   (372, 87, 770, true), (373, 119, 770, true), (374, 89, 770, true), (375, 121, 770, true), (376, 89, 776, true),
   (377, 90, 769, true), (378, 122, 769, true), (379, 90, 775, true), (380, 122, 775, true), (381, 90, 780, true)]
/-- Part 4 of the canonical decompositions. -/
def decompPart4 : List (Nat × Nat × Nat × Bool) :=
  [(382, 122, 780, true), (416, 79, 795, true), (417, 111, 795, true), (431, 85, 795, true), (432, 117, 795, true),
   (461, 65, 780, true), (462, 97, 780, true), (463, 73, 780, true), (464, 105, 780, true), (465, 79, 780, true),
   (466, 111, 780, true), (467, 85, 780, true), (468, 117, 780, true), (469, 220, 772, true), (470, 252, 772, true),
   (471, 220, 769, true), (472, 252, 769, true), (473, 220, 780, true), (474, 252, 780, true), (475, 220, 768, true),
   (476, 252, 768, true), (478, 196, 772, true), (479, 228, 772, true), (480, 550, 772, true), (481, 551, 772, true),
   (482, 198, 772, true), (483, 230, 772, true), (486, 71, 780, true), (487, 103, 780, true), (488, 75, 780, true),
   (489, 107, 780, true), (490, 79, 808, true), (491, 111, 808, true), (492, 490, 772, true), (493, 491, 772, true),
   (494, 439, 780, true), (495, 658, 780, true), (496, 106, 780, true), (500, 71, 769, true), (501, 103, 769, true)]
/-- Part 5 of the canonical decompositions. -/
def decompPart5 : List (Nat × Nat × Nat × Bool) :=
  [(504, 78, 768, true), (505, 110, 768, true), (506, 197, 769, true), (507, 229, 769, true), (508, 198, 769, true),
   (509, 230, 769, true), (510, 216, 769, true), (511, 248, 769, true), (512, 65, 783, true), (513, 97, 783, true),
   (514, 65, 785, true), (515, 97, 785, true), (516, 69, 783, true), (517, 101, 783, true), (518, 69, 785, true),
   (519, 101, 785, true), (520, 73, 783, true), (521, 105, 783, true), (522, 73, 785, true), (523, 105, 785, true),
   (524, 79, 783, true), (525, 111, 783, true), (526, 79, 785, true), (527, 111, 785, true), (528, 82, 783, true),
   (529, 114, 783, true), (530, 82, 785, true), (531, 114, 785, true), (532, 85, 783, true), (533, 117, 783, true),
   (534, 85, 785, true), (535, 117, 785, true), (536, 83, 806, true), (537, 115, 806, true), (538, 84, 806, true),
   (539, 116, 806, true), (542, 72, 780, true), (543, 104, 780, true), (550, 65, 775, true), (551, 97, 775, true)]
/-- Part 6 of the canonical decompositions. -/
def decompPart6 : List (Nat × Nat × Nat × Bool) :=
  [(552, 69, 807, true), (553, 101, 807, true), (554, 214, 772, true), (555, 246, 772, true), (556, 213, 772, true),
   (557, 245, 772, true), (558, 79, 775, true), (559, 111, 775, true), (560, 558, 772, true), (561, 559, 772, true),
   (562, 89, 772, true), (563, 121, 772, true), (832, 768, 0, false), (833, 769, 0, false), (835, 787, 0, false),
   (836, 776, 769, false), (884, 697, 0, false), (894, 59, 0, false), (901, 168, 769, true), (902, 913, 769, true),
   (903, 183, 0, false), (904, 917, 769, true), (905, 919, 769, true), (906, 921, 769, true), (908, 927, 769, true),
   (910, 933, 769, true), (911, 937, 769, true), (912, 970, 769, true), (938, 921, 776, true), (939, 933, 776, true),
   (940, 945, 769, true), (941, 949, 769, true), (942, 951, 769, true), (943, 953, 769, true), (944, 971, 769, true),
   (970, 953, 776, true), (971, 965, 776, true), (972, 959, 769, true), (973, 965, 769, true), (974, 969, 769, true)]
/-- Part 7 of the canonical decompositions. -/
def decompPart7 : List (Nat × Nat × Nat × Bool) :=
  [(979, 978, 769, true), (980, 978, 776, true), (1024, 1045, 768, true), (1025, 1045, 776, true), (1027, 1043, 769, true),
   (1031, 1030, 776, true), (1036, 1050, 769, true), (1037, 1048, 768, true), (1038, 1059, 774, true),
   (1049, 1048, 774, true), (1081, 1080, 774, true), (1104, 1077, 768, true), (1105, 1077, 776, true),
   (1107, 1075, 769, true), (1111, 1110, 776, true), (1116, 1082, 769, true), (1117, 1080, 768, true),
   (1118, 1091, 774, true), (1142, 1140, 783, true), (1143, 1141, 783, true), (1217, 1046, 774, true),
   (1218, 1078, 774, true), (1232, 1040, 774, true), (1233, 1072, 774, true), (1234, 1040, 776, true),
   (1235, 1072, 776, true), (1238, 1045, 774, true), (1239, 1077, 774, true), (1242, 1240, 776, true),
   (1243, 1241, 776, true), (1244, 1046, 776, true), (1245, 1078, 776, true), (1246, 1047, 776, true),
   (1247, 1079, 776, true), (1250, 1048, 772, true), (1251, 1080, 772, true), (1252, 1048, 776, true),
   (1253, 1080, 776, true), (1254, 1054, 776, true), (1255, 1086, 776, true)]
/-- Part 8 of the canonical decompositions. -/
def decompPart8 : List (Nat × Nat × Nat × Bool) :=
  [(1258, 1256, 776, true), (1259, 1257, 776, true), (1260, 1069, 776, true), (1261, 1101, 776, true),
   (1262, 1059, 772, true), (1263, 1091, 772, true), (1264, 1059, 776, true), (1265, 1091, 776, true),
   (1266, 1059, 779, true), (1267, 1091, 779, true), (1268, 1063, 776, true), (1269, 1095, 776, true),
   (1272, 1067, 776, true), (1273, 1099, 776, true), (1570, 1575, 1619, true), (1571, 1575, 1620, true),
   (1572, 1608, 1620, true), (1573, 1575, 1621, true), (1574, 1610, 1620, true), (1728, 1749, 1620, true),
   (1730, 1729, 1620, true), (1747, 1746, 1620, true), (2345, 2344, 2364, true), (2353, 2352, 2364, true),
   (2356, 2355, 2364, true), (2392, 2325, 2364, false), (2393, 2326, 2364, false), (2394, 2327, 2364, false),
   (2395, 2332, 2364, false), (2396, 2337, 2364, false), (2397, 2338, 2364, false), (2398, 2347, 2364, false),
   (2399, 2351, 2364, false), (2507, 2503, 2494, true), (2508, 2503, 2519, true), (2524, 2465, 2492, false),
   (2525, 2466, 2492, false), (2527, 2479, 2492, false), (2611, 2610, 2620, false), (2614, 2616, 2620, false)]
/-- Part 9 of the canonical decompositions. -/
def decompPart9 : List (Nat × Nat × Nat × Bool) :=
  [(2649, 2582, 2620, false), (2650, 2583, 2620, false), (2651, 2588, 2620, false), (2654, 2603, 2620, false),
   (2888, 2887, 2902, true), (2891, 2887, 2878, true), (2892, 2887, 2903, true), (2908, 2849, 2876, false),
   (2909, 2850, 2876, false), (2964, 2962, 3031, true), (3018, 3014, 3006, true), (3019, 3015, 3006, true),
   (3020, 3014, 3031, true), (3144, 3142, 3158, true), (3264, 3263, 3285, true), (3271, 3270, 3285, true),
   (3272, 3270, 3286, true), (3274, 3270, 3266, true), (3275, 3274, 3285, true), (3402, 3398, 3390, true),
   (3403, 3399, 3390, true), (3404, 3398, 3415, true), (3546, 3545, 3530, true), (3548, 3545, 3535, true),
   (3549, 3548, 3530, true), (3550, 3545, 3551, true), (3907, 3906, 4023, false), (3917, 3916, 4023, false),
   (3922, 3921, 4023, false), (3927, 3926, 4023, false), (3932, 3931, 4023, false), (3945, 3904, 4021, false),
   (3955, 3953, 3954, false), (3957, 3953, 3956, false), (3958, 4018, 3968, false), (3960, 4019, 3968, false),
   (3969, 3953, 3968, false), (3987, 3986, 4023, false), (3997, 3996, 4023, false), (4002, 4001, 4023, false)]
/-- Part 10 of the canonical decompositions. -/
def decompPart10 : List (Nat × Nat × Nat × Bool) :=
  [(4007, 4006, 4023, false), (4012, 4011, 4023, false), (4025, 3984, 4021, false), (4134, 4133, 4142, true),
   (6918, 6917, 6965, true), (6920, 6919, 6965, true), (6922, 6921, 6965, true), (6924, 6923, 6965, true),
   (6926, 6925, 6965, true), (6930, 6929, 6965, true), (6971, 6970, 6965, true), (6973, 6972, 6965, true),
   (6976, 6974, 6965, true), (6977, 6975, 6965, true), (6979, 6978, 6965, true), (7680, 65, 805, true),
   (7681, 97, 805, true), (7682, 66, 775, true), (7683, 98, 775, true), (7684, 66, 803, true), (7685, 98, 803, true),
   (7686, 66, 817, true), (7687, 98, 817, true), (7688, 199, 769, true), (7689, 231, 769, true), (7690, 68, 775, true),
   (7691, 100, 775, true), (7692, 68, 803, true), (7693, 100, 803, true), (7694, 68, 817, true), (7695, 100, 817, true),
   (7696, 68, 807, true), (7697, 100, 807, true), (7698, 68, 813, true), (7699, 100, 813, true), (7700, 274, 768, true),
   (7701, 275, 768, true), (7702, 274, 769, true), (7703, 275, 769, true), (7704, 69, 813, true)]
/-- Part 11 of the canonical decompositions. -/
def decompPart11 : List (Nat × Nat × Nat × Bool) :=
  [(7705, 101, 813, true), (7706, 69, 816, true), (7707, 101, 816, true), (7708, 552, 774, true), (7709, 553, 774, true),
   (7710, 70, 775, true), (7711, 102, 775, true), (7712, 71, 772, true), (7713, 103, 772, true), (7714, 72, 775, true),
   (7715, 104, 775, true), (7716, 72, 803, true), (7717, 104, 803, true), (7718, 72, 776, true), (7719, 104, 776, true),
   (7720, 72, 807, true), (7721, 104, 807, true), (7722, 72, 814, true), (7723, 104, 814, true), (7724, 73, 816, true),
   (7725, 105, 816, true), (7726, 207, 769, true), (7727, 239, 769, true), (7728, 75, 769, true), (7729, 107, 769, true),
   (7730, 75, 803, true), (7731, 107, 803, true), (7732, 75, 817, true), (7733, 107, 817, true), (7734, 76, 803, true),
   (7735, 108, 803, true), (7736, 7734, 772, true), (7737, 7735, 772, true), (7738, 76, 817, true), (7739, 108, 817, true),
   (7740, 76, 813, true), (7741, 108, 813, true), (7742, 77, 769, true), (7743, 109, 769, true), (7744, 77, 775, true)]
/-- Part 12 of the canonical decompositions. -/
def decompPart12 : List (Nat × Nat × Nat × Bool) :=
  [(7745, 109, 775, true), (7746, 77, 803, true), (7747, 109, 803, true), (7748, 78, 775, true), (7749, 110, 775, true),
   (7750, 78, 803, true), (7751, 110, 803, true), (7752, 78, 817, true), (7753, 110, 817, true), (7754, 78, 813, true),
   (7755, 110, 813, true), (7756, 213, 769, true), (7757, 245, 769, true), (7758, 213, 776, true), (7759, 245, 776, true),
   (7760, 332, 768, true), (7761, 333, 768, true), (7762, 332, 769, true), (7763, 333, 769, true), (7764, 80, 769, true),
   (7765, 112, 769, true), (7766, 80, 775, true), (7767, 112, 775, true), (7768, 82, 775, true), (7769, 114, 775, true),
   (7770, 82, 803, true), (7771, 114, 803, true), (7772, 7770, 772, true), (7773, 7771, 772, true), (7774, 82, 817, true),
   (7775, 114, 817, true), (7776, 83, 775, true), (7777, 115, 775, true), (7778, 83, 803, true), (7779, 115, 803, true),
   (7780, 346, 775, true), (7781, 347, 775, true), (7782, 352, 775, true), (7783, 353, 775, true), (7784, 7778, 775, true)]
/-- Part 13 of the canonical decompositions. -/
def decompPart13 : List (Nat × Nat × Nat × Bool) :=
  [(7785, 7779, 775, true), (7786, 84, 775, true), (7787, 116, 775, true), (7788, 84, 803, true), (7789, 116, 803, true),
   (7790, 84, 817, true), (7791, 116, 817, true), (7792, 84, 813, true), (7793, 116, 813, true), (7794, 85, 804, true),
   (7795, 117, 804, true), (7796, 85, 816, true), (7797, 117, 816, true), (7798, 85, 813, true), (7799, 117, 813, true),
   (7800, 360, 769, true), (7801, 361, 769, true), (7802, 362, 776, true), (7803, 363, 776, true), (7804, 86, 771, true),
   (7805, 118, 771, true), (7806, 86, 803, true), (7807, 118, 803, true), (7808, 87, 768, true), (7809, 119, 768, true),
   (7810, 87, 769, true), (7811, 119, 769, true), (7812, 87, 776, true), (7813, 119, 776, true), (7814, 87, 775, true),
   (7815, 119, 775, true), (7816, 87, 803, true), (7817, 119, 803, true), (7818, 88, 775, true), (7819, 120, 775, true),
   (7820, 88, 776, true), (7821, 120, 776, true), (7822, 89, 775, true), (7823, 121, 775, true), (7824, 90, 770, true)]
/-- Part 14 of the canonical decompositions. -/
def decompPart14 : List (Nat × Nat × Nat × Bool) :=
  [(7825, 122, 770, true), (7826, 90, 803, true), (7827, 122, 803, true), (7828, 90, 817, true), (7829, 122, 817, true),
   (7830, 104, 817, true), (7831, 116, 776, true), (7832, 119, 778, true), (7833, 121, 778, true), (7835, 383, 775, true),
   (7840, 65, 803, true), (7841, 97, 803, true), (7842, 65, 777, true), (7843, 97, 777, true), (7844, 194, 769, true),
   (7845, 226, 769, true), (7846, 194, 768, true), (7847, 226, 768, true), (7848, 194, 777, true), (7849, 226, 777, true),
   (7850, 194, 771, true), (7851, 226, 771, true), (7852, 7840, 770, true), (7853, 7841, 770, true), (7854, 258, 769, true),
   (7855, 259, 769, true), (7856, 258, 768, true), (7857, 259, 768, true), (7858, 258, 777, true), (7859, 259, 777, true),
   (7860, 258, 771, true), (7861, 259, 771, true), (7862, 7840, 774, true), (7863, 7841, 774, true), (7864, 69, 803, true),
   (7865, 101, 803, true), (7866, 69, 777, true), (7867, 101, 777, true), (7868, 69, 771, true), (7869, 101, 771, true)]
/-- Part 15 of the canonical decompositions. -/
def decompPart15 : List (Nat × Nat × Nat × Bool) :=
  [(7870, 202, 769, true), (7871, 234, 769, true), (7872, 202, 768, true), (7873, 234, 768, true), (7874, 202, 777, true),
   (7875, 234, 777, true), (7876, 202, 771, true), (7877, 234, 771, true), (7878, 7864, 770, true), (7879, 7865, 770, true),
   (7880, 73, 777, true), (7881, 105, 777, true), (7882, 73, 803, true), (7883, 105, 803, true), (7884, 79, 803, true),
   (7885, 111, 803, true), (7886, 79, 777, true), (7887, 111, 777, true), (7888, 212, 769, true), (7889, 244, 769, true),
   (7890, 212, 768, true), (7891, 244, 768, true), (7892, 212, 777, true), (7893, 244, 777, true), (7894, 212, 771, true),
   (7895, 244, 771, true), (7896, 7884, 770, true), (7897, 7885, 770, true), (7898, 416, 769, true), (7899, 417, 769, true),
   (7900, 416, 768, true), (7901, 417, 768, true), (7902, 416, 777, true), (7903, 417, 777, true), (7904, 416, 771, true),
   (7905, 417, 771, true), (7906, 416, 803, true), (7907, 417, 803, true), (7908, 85, 803, true), (7909, 117, 803, true)]
/-- Part 16 of the canonical decompositions. -/
def decompPart16 : List (Nat × Nat × Nat × Bool) :=
  [(7910, 85, 777, true), (7911, 117, 777, true), (7912, 431, 769, true), (7913, 432, 769, true), (7914, 431, 768, true),
   (7915, 432, 768, true), (7916, 431, 777, true), (7917, 432, 777, true), (7918, 431, 771, true), (7919, 432, 771, true),
   (7920, 431, 803, true), (7921, 432, 803, true), (7922, 89, 768, true), (7923, 121, 768, true), (7924, 89, 803, true),
   (7925, 121, 803, true), (7926, 89, 777, true), (7927, 121, 777, true), (7928, 89, 771, true), (7929, 121, 771, true),
   (7936, 945, 787, true), (7937, 945, 788, true), (7938, 7936, 768, true), (7939, 7937, 768, true),
   (7940, 7936, 769, true), (7941, 7937, 769, true), (7942, 7936, 834, true), (7943, 7937, 834, true),
   (7944, 913, 787, true), (7945, 913, 788, true), (7946, 7944, 768, true), (7947, 7945, 768, true),
   (7948, 7944, 769, true), (7949, 7945, 769, true), (7950, 7944, 834, true), (7951, 7945, 834, true),
   (7952, 949, 787, true), (7953, 949, 788, true), (7954, 7952, 768, true), (7955, 7953, 768, true)]
/-- Part 17 of the canonical decompositions. -/
def decompPart17 : List (Nat × Nat × Nat × Bool) :=
  [(7956, 7952, 769, true), (7957, 7953, 769, true), (7960, 917, 787, true), (7961, 917, 788, true),
   (7962, 7960, 768, true), (7963, 7961, 768, true), (7964, 7960, 769, true), (7965, 7961, 769, true),
   (7968, 951, 787, true), (7969, 951, 788, true), (7970, 7968, 768, true), (7971, 7969, 768, true),
   (7972, 7968, 769, true), (7973, 7969, 769, true), (7974, 7968, 834, true), (7975, 7969, 834, true),
   (7976, 919, 787, true), (7977, 919, 788, true), (7978, 7976, 768, true), (7979, 7977, 768, true),
   (7980, 7976, 769, true), (7981, 7977, 769, true), (7982, 7976, 834, true), (7983, 7977, 834, true),
   (7984, 953, 787, true), (7985, 953, 788, true), (7986, 7984, 768, true), (7987, 7985, 768, true),
   (7988, 7984, 769, true), (7989, 7985, 769, true), (7990, 7984, 834, true), (7991, 7985, 834, true),
   (7992, 921, 787, true), (7993, 921, 788, true), (7994, 7992, 768, true), (7995, 7993, 768, true),
   (7996, 7992, 769, true), (7997, 7993, 769, true), (7998, 7992, 834, true), (7999, 7993, 834, true)]
/-- Part 18 of the canonical decompositions. -/
def decompPart18 : List (Nat × Nat × Nat × Bool) :=
  [(8000, 959, 787, true), (8001, 959, 788, true), (8002, 8000, 768, true), (8003, 8001, 768, true),
   (8004, 8000, 769, true), (8005, 8001, 769, true), (8008, 927, 787, true), (8009, 927, 788, true),
   (8010, 8008, 768, true), (8011, 8009, 768, true), (8012, 8008, 769, true), (8013, 8009, 769, true),
   (8016, 965, 787, true), (8017, 965, 788, true), (8018, 8016, 768, true), (8019, 8017, 768, true),
   (8020, 8016, 769, true), (8021, 8017, 769, true), (8022, 8016, 834, true), (8023, 8017, 834, true),
   (8025, 933, 788, true), (8027, 8025, 768, true), (8029, 8025, 769, true), (8031, 8025, 834, true),
   (8032, 969, 787, true), (8033, 969, 788, true), (8034, 8032, 768, true), (8035, 8033, 768, true),
   (8036, 8032, 769, true), (8037, 8033, 769, true), (8038, 8032, 834, true), (8039, 8033, 834, true),
   (8040, 937, 787, true), (8041, 937, 788, true), (8042, 8040, 768, true), (8043, 8041, 768, true),
   (8044, 8040, 769, true), (8045, 8041, 769, true), (8046, 8040, 834, true), (8047, 8041, 834, true)]
/-- Part 19 of the canonical decompositions. -/
def decompPart19 : List (Nat × Nat × Nat × Bool) :=
  [(8048, 945, 768, true), (8049, 940, 0, false), (8050, 949, 768, true), (8051, 941, 0, false), (8052, 951, 768, true),
   (8053, 942, 0, false), (8054, 953, 768, true), (8055, 943, 0, false), (8056, 959, 768, true), (8057, 972, 0, false),
   (8058, 965, 768, true), (8059, 973, 0, false), (8060, 969, 768, true), (8061, 974, 0, false), (8064, 7936, 837, true),
   (8065, 7937, 837, true), (8066, 7938, 837, true), (8067, 7939, 837, true), (8068, 7940, 837, true),
   (8069, 7941, 837, true), (8070, 7942, 837, true), (8071, 7943, 837, true), (8072, 7944, 837, true),
   (8073, 7945, 837, true), (8074, 7946, 837, true), (8075, 7947, 837, true), (8076, 7948, 837, true),
   (8077, 7949, 837, true), (8078, 7950, 837, true), (8079, 7951, 837, true), (8080, 7968, 837, true),
   (8081, 7969, 837, true), (8082, 7970, 837, true), (8083, 7971, 837, true), (8084, 7972, 837, true),
   (8085, 7973, 837, true), (8086, 7974, 837, true), (8087, 7975, 837, true), (8088, 7976, 837, true),
   (8089, 7977, 837, true)]
/-- Part 20 of the canonical decompositions. -/
def decompPart20 : List (Nat × Nat × Nat × Bool) :=
  [(8090, 7978, 837, true), (8091, 7979, 837, true), (8092, 7980, 837, true), (8093, 7981, 837, true),
   (8094, 7982, 837, true), (8095, 7983, 837, true), (8096, 8032, 837, true), (8097, 8033, 837, true),
   (8098, 8034, 837, true), (8099, 8035, 837, true), (8100, 8036, 837, true), (8101, 8037, 837, true),
   (8102, 8038, 837, true), (8103, 8039, 837, true), (8104, 8040, 837, true), (8105, 8041, 837, true),
   (8106, 8042, 837, true), (8107, 8043, 837, true), (8108, 8044, 837, true), (8109, 8045, 837, true),
   (8110, 8046, 837, true), (8111, 8047, 837, true), (8112, 945, 774, true), (8113, 945, 772, true),
   (8114, 8048, 837, true), (8115, 945, 837, true), (8116, 940, 837, true), (8118, 945, 834, true), (8119, 8118, 837, true),
   (8120, 913, 774, true), (8121, 913, 772, true), (8122, 913, 768, true), (8123, 902, 0, false), (8124, 913, 837, true),
   (8126, 953, 0, false), (8129, 168, 834, true), (8130, 8052, 837, true), (8131, 951, 837, true), (8132, 942, 837, true),
   (8134, 951, 834, true)]
/-- Part 21 of the canonical decompositions. -/
def decompPart21 : List (Nat × Nat × Nat × Bool) :=
  [(8135, 8134, 837, true), (8136, 917, 768, true), (8137, 904, 0, false), (8138, 919, 768, true), (8139, 905, 0, false),
   (8140, 919, 837, true), (8141, 8127, 768, true), (8142, 8127, 769, true), (8143, 8127, 834, true),
   (8144, 953, 774, true), (8145, 953, 772, true), (8146, 970, 768, true), (8147, 912, 0, false), (8150, 953, 834, true),
   (8151, 970, 834, true), (8152, 921, 774, true), (8153, 921, 772, true), (8154, 921, 768, true), (8155, 906, 0, false),
   (8157, 8190, 768, true), (8158, 8190, 769, true), (8159, 8190, 834, true), (8160, 965, 774, true),
   (8161, 965, 772, true), (8162, 971, 768, true), (8163, 944, 0, false), (8164, 961, 787, true), (8165, 961, 788, true),
   (8166, 965, 834, true), (8167, 971, 834, true), (8168, 933, 774, true), (8169, 933, 772, true), (8170, 933, 768, true),
   (8171, 910, 0, false), (8172, 929, 788, true), (8173, 168, 768, true), (8174, 901, 0, false), (8175, 96, 0, false),
   (8178, 8060, 837, true), (8179, 969, 837, true)]
/-- Part 22 of the canonical decompositions. -/
def decompPart22 : List (Nat × Nat × Nat × Bool) :=
  [(8180, 974, 837, true), (8182, 969, 834, true), (8183, 8182, 837, true), (8184, 927, 768, true), (8185, 908, 0, false),
   (8186, 937, 768, true), (8187, 911, 0, false), (8188, 937, 837, true), (8189, 180, 0, false), (8192, 8194, 0, false),
   (8193, 8195, 0, false), (8486, 937, 0, false), (8490, 75, 0, false), (8491, 197, 0, false), (8602, 8592, 824, true),
   (8603, 8594, 824, true), (8622, 8596, 824, true), (8653, 8656, 824, true), (8654, 8660, 824, true),
   (8655, 8658, 824, true), (8708, 8707, 824, true), (8713, 8712, 824, true), (8716, 8715, 824, true),
   (8740, 8739, 824, true), (8742, 8741, 824, true), (8769, 8764, 824, true), (8772, 8771, 824, true),
   (8775, 8773, 824, true), (8777, 8776, 824, true), (8800, 61, 824, true), (8802, 8801, 824, true),
   (8813, 8781, 824, true), (8814, 60, 824, true), (8815, 62, 824, true), (8816, 8804, 824, true), (8817, 8805, 824, true),
   (8820, 8818, 824, true), (8821, 8819, 824, true), (8824, 8822, 824, true), (8825, 8823, 824, true)]
/-- Part 23 of the canonical decompositions. -/
def decompPart23 : List (Nat × Nat × Nat × Bool) :=
  [(8832, 8826, 824, true), (8833, 8827, 824, true), (8836, 8834, 824, true), (8837, 8835, 824, true),
   (8840, 8838, 824, true), (8841, 8839, 824, true), (8876, 8866, 824, true), (8877, 8872, 824, true),
   (8878, 8873, 824, true), (8879, 8875, 824, true), (8928, 8828, 824, true), (8929, 8829, 824, true),
   (8930, 8849, 824, true), (8931, 8850, 824, true), (8938, 8882, 824, true), (8939, 8883, 824, true),
   (8940, 8884, 824, true), (8941, 8885, 824, true), (9001, 12296, 0, false), (9002, 12297, 0, false),
   (10972, 10973, 824, false), (12364, 12363, 12441, true), (12366, 12365, 12441, true), (12368, 12367, 12441, true),
   (12370, 12369, 12441, true), (12372, 12371, 12441, true), (12374, 12373, 12441, true), (12376, 12375, 12441, true),
   (12378, 12377, 12441, true), (12380, 12379, 12441, true), (12382, 12381, 12441, true), (12384, 12383, 12441, true),
   (12386, 12385, 12441, true), (12389, 12388, 12441, true), (12391, 12390, 12441, true), (12393, 12392, 12441, true),
   (12400, 12399, 12441, true), (12401, 12399, 12442, true), (12403, 12402, 12441, true), (12404, 12402, 12442, true)]
/-- Part 24 of the canonical decompositions. -/
def decompPart24 : List (Nat × Nat × Nat × Bool) :=
  [(12406, 12405, 12441, true), (12407, 12405, 12442, true), (12409, 12408, 12441, true), (12410, 12408, 12442, true),
   (12412, 12411, 12441, true), (12413, 12411, 12442, true), (12436, 12358, 12441, true), (12446, 12445, 12441, true),
   (12460, 12459, 12441, true), (12462, 12461, 12441, true), (12464, 12463, 12441, true), (12466, 12465, 12441, true),
   (12468, 12467, 12441, true), (12470, 12469, 12441, true), (12472, 12471, 12441, true), (12474, 12473, 12441, true),
   (12476, 12475, 12441, true), (12478, 12477, 12441, true), (12480, 12479, 12441, true), (12482, 12481, 12441, true),
   (12485, 12484, 12441, true), (12487, 12486, 12441, true), (12489, 12488, 12441, true), (12496, 12495, 12441, true),
   (12497, 12495, 12442, true), (12499, 12498, 12441, true), (12500, 12498, 12442, true), (12502, 12501, 12441, true),
   (12503, 12501, 12442, true), (12505, 12504, 12441, true), (12506, 12504, 12442, true), (12508, 12507, 12441, true),
   (12509, 12507, 12442, true), (12532, 12454, 12441, true), (12535, 12527, 12441, true), (12536, 12528, 12441, true),
   (12537, 12529, 12441, true), (12538, 12530, 12441, true), (12542, 12541, 12441, true), (63744, 35912, 0, false)]
/-- Part 25 of the canonical decompositions. -/
def decompPart25 : List (Nat × Nat × Nat × Bool) :=
  [(63745, 26356, 0, false), (63746, 36554, 0, false), (63747, 36040, 0, false), (63748, 28369, 0, false),
   (63749, 20018, 0, false), (63750, 21477, 0, false), (63751, 40860, 0, false), (63752, 40860, 0, false),
   (63753, 22865, 0, false), (63754, 37329, 0, false), (63755, 21895, 0, false), (63756, 22856, 0, false),
   (63757, 25078, 0, false), (63758, 30313, 0, false), (63759, 32645, 0, false), (63760, 34367, 0, false),
   (63761, 34746, 0, false), (63762, 35064, 0, false), (63763, 37007, 0, false), (63764, 27138, 0, false),
   (63765, 27931, 0, false), (63766, 28889, 0, false), (63767, 29662, 0, false), (63768, 33853, 0, false),
   (63769, 37226, 0, false), (63770, 39409, 0, false), (63771, 20098, 0, false), (63772, 21365, 0, false),
   (63773, 27396, 0, false), (63774, 29211, 0, false), (63775, 34349, 0, false), (63776, 40478, 0, false),
   (63777, 23888, 0, false), (63778, 28651, 0, false), (63779, 34253, 0, false), (63780, 35172, 0, false),
   (63781, 25289, 0, false), (63782, 33240, 0, false), (63783, 34847, 0, false), (63784, 24266, 0, false)]
/-- Part 26 of the canonical decompositions. -/
def decompPart26 : List (Nat × Nat × Nat × Bool) :=
  [(63785, 26391, 0, false), (63786, 28010, 0, false), (63787, 29436, 0, false), (63788, 37070, 0, false),
   (63789, 20358, 0, false), (63790, 20919, 0, false), (63791, 21214, 0, false), (63792, 25796, 0, false),
   (63793, 27347, 0, false), (63794, 29200, 0, false), (63795, 30439, 0, false), (63796, 32769, 0, false),
   (63797, 34310, 0, false), (63798, 34396, 0, false), (63799, 36335, 0, false), (63800, 38706, 0, false),
   (63801, 39791, 0, false), (63802, 40442, 0, false), (63803, 30860, 0, false), (63804, 31103, 0, false),
   (63805, 32160, 0, false), (63806, 33737, 0, false), (63807, 37636, 0, false), (63808, 40575, 0, false),
   (63809, 35542, 0, false), (63810, 22751, 0, false), (63811, 24324, 0, false), (63812, 31840, 0, false),
   (63813, 32894, 0, false), (63814, 29282, 0, false), (63815, 30922, 0, false), (63816, 36034, 0, false),
   (63817, 38647, 0, false), (63818, 22744, 0, false), (63819, 23650, 0, false), (63820, 27155, 0, false),
   (63821, 28122, 0, false), (63822, 28431, 0, false), (63823, 32047, 0, false), (63824, 32311, 0, false)]
/-- Part 27 of the canonical decompositions. -/
def decompPart27 : List (Nat × Nat × Nat × Bool) :=
  [(63825, 38475, 0, false), (63826, 21202, 0, false), (63827, 32907, 0, false), (63828, 20956, 0, false),
   (63829, 20940, 0, false), (63830, 31260, 0, false), (63831, 32190, 0, false), (63832, 33777, 0, false),
   (63833, 38517, 0, false), (63834, 35712, 0, false), (63835, 25295, 0, false), (63836, 27138, 0, false),
   (63837, 35582, 0, false), (63838, 20025, 0, false), (63839, 23527, 0, false), (63840, 24594, 0, false),
   (63841, 29575, 0, false), (63842, 30064, 0, false), (63843, 21271, 0, false), (63844, 30971, 0, false),
   (63845, 20415, 0, false), (63846, 24489, 0, false), (63847, 19981, 0, false), (63848, 27852, 0, false),
   (63849, 25976, 0, false), (63850, 32034, 0, false), (63851, 21443, 0, false), (63852, 22622, 0, false),
   (63853, 30465, 0, false), (63854, 33865, 0, false), (63855, 35498, 0, false), (63856, 27578, 0, false),
   (63857, 36784, 0, false), (63858, 27784, 0, false), (63859, 25342, 0, false), (63860, 33509, 0, false),
   (63861, 25504, 0, false), (63862, 30053, 0, false), (63863, 20142, 0, false), (63864, 20841, 0, false)]
/-- Part 28 of the canonical decompositions. -/
def decompPart28 : List (Nat × Nat × Nat × Bool) :=
  [(63865, 20937, 0, false), (63866, 26753, 0, false), (63867, 31975, 0, false), (63868, 33391, 0, false),
   (63869, 35538, 0, false), (63870, 37327, 0, false), (63871, 21237, 0, false), (63872, 21570, 0, false),
   (63873, 22899, 0, false), (63874, 24300, 0, false), (63875, 26053, 0, false), (63876, 28670, 0, false),
   (63877, 31018, 0, false), (63878, 38317, 0, false), (63879, 39530, 0, false), (63880, 40599, 0, false),
   (63881, 40654, 0, false), (63882, 21147, 0, false), (63883, 26310, 0, false), (63884, 27511, 0, false),
   (63885, 36706, 0, false), (63886, 24180, 0, false), (63887, 24976, 0, false), (63888, 25088, 0, false),
   (63889, 25754, 0, false), (63890, 28451, 0, false), (63891, 29001, 0, false), (63892, 29833, 0, false),
   (63893, 31178, 0, false), (63894, 32244, 0, false), (63895, 32879, 0, false), (63896, 36646, 0, false),
   (63897, 34030, 0, false), (63898, 36899, 0, false), (63899, 37706, 0, false), (63900, 21015, 0, false),
   (63901, 21155, 0, false), (63902, 21693, 0, false), (63903, 28872, 0, false), (63904, 35010, 0, false)]
/-- Part 29 of the canonical decompositions. -/
def decompPart29 : List (Nat × Nat × Nat × Bool) :=
  [(63905, 35498, 0, false), (63906, 24265, 0, false), (63907, 24565, 0, false), (63908, 25467, 0, false),
   (63909, 27566, 0, false), (63910, 31806, 0, false), (63911, 29557, 0, false), (63912, 20196, 0, false),
   (63913, 22265, 0, false), (63914, 23527, 0, false), (63915, 23994, 0, false), (63916, 24604, 0, false),
   (63917, 29618, 0, false), (63918, 29801, 0, false), (63919, 32666, 0, false), (63920, 32838, 0, false),
   (63921, 37428, 0, false), (63922, 38646, 0, false), (63923, 38728, 0, false), (63924, 38936, 0, false),
   (63925, 20363, 0, false), (63926, 31150, 0, false), (63927, 37300, 0, false), (63928, 38584, 0, false),
   (63929, 24801, 0, false), (63930, 20102, 0, false), (63931, 20698, 0, false), (63932, 23534, 0, false),
   (63933, 23615, 0, false), (63934, 26009, 0, false), (63935, 27138, 0, false), (63936, 29134, 0, false),
   (63937, 30274, 0, false), (63938, 34044, 0, false), (63939, 36988, 0, false), (63940, 40845, 0, false),
   (63941, 26248, 0, false), (63942, 38446, 0, false), (63943, 21129, 0, false), (63944, 26491, 0, false)]
/-- Part 30 of the canonical decompositions. -/
def decompPart30 : List (Nat × Nat × Nat × Bool) :=
  [(63945, 26611, 0, false), (63946, 27969, 0, false), (63947, 28316, 0, false), (63948, 29705, 0, false),
   (63949, 30041, 0, false), (63950, 30827, 0, false), (63951, 32016, 0, false), (63952, 39006, 0, false),
   (63953, 20845, 0, false), (63954, 25134, 0, false), (63955, 38520, 0, false), (63956, 20523, 0, false),
   (63957, 23833, 0, false), (63958, 28138, 0, false), (63959, 36650, 0, false), (63960, 24459, 0, false),
   (63961, 24900, 0, false), (63962, 26647, 0, false), (63963, 29575, 0, false), (63964, 38534, 0, false),
   (63965, 21033, 0, false), (63966, 21519, 0, false), (63967, 23653, 0, false), (63968, 26131, 0, false),
   (63969, 26446, 0, false), (63970, 26792, 0, false), (63971, 27877, 0, false), (63972, 29702, 0, false),
   (63973, 30178, 0, false), (63974, 32633, 0, false), (63975, 35023, 0, false), (63976, 35041, 0, false),
   (63977, 37324, 0, false), (63978, 38626, 0, false), (63979, 21311, 0, false), (63980, 28346, 0, false),
   (63981, 21533, 0, false), (63982, 29136, 0, false), (63983, 29848, 0, false), (63984, 34298, 0, false)]
/-- Part 31 of the canonical decompositions. -/
def decompPart31 : List (Nat × Nat × Nat × Bool) :=
  [(63985, 38563, 0, false), (63986, 40023, 0, false), (63987, 40607, 0, false), (63988, 26519, 0, false),
   (63989, 28107, 0, false), (63990, 33256, 0, false), (63991, 31435, 0, false), (63992, 31520, 0, false),
   (63993, 31890, 0, false), (63994, 29376, 0, false), (63995, 28825, 0, false), (63996, 35672, 0, false),
   (63997, 20160, 0, false), (63998, 33590, 0, false), (63999, 21050, 0, false), (64000, 20999, 0, false),
   (64001, 24230, 0, false), (64002, 25299, 0, false), (64003, 31958, 0, false), (64004, 23429, 0, false),
   (64005, 27934, 0, false), (64006, 26292, 0, false), (64007, 36667, 0, false), (64008, 34892, 0, false),
   (64009, 38477, 0, false), (64010, 35211, 0, false), (64011, 24275, 0, false), (64012, 20800, 0, false),
   (64013, 21952, 0, false), (64016, 22618, 0, false), (64018, 26228, 0, false), (64021, 20958, 0, false),
   (64022, 29482, 0, false), (64023, 30410, 0, false), (64024, 31036, 0, false), (64025, 31070, 0, false),
   (64026, 31077, 0, false), (64027, 31119, 0, false), (64028, 38742, 0, false), (64029, 31934, 0, false)]
/-- Part 32 of the canonical decompositions. -/
def decompPart32 : List (Nat × Nat × Nat × Bool) :=
  [(64030, 32701, 0, false), (64032, 34322, 0, false), (64034, 35576, 0, false), (64037, 36920, 0, false),
   (64038, 37117, 0, false), (64042, 39151, 0, false), (64043, 39164, 0, false), (64044, 39208, 0, false),
   (64045, 40372, 0, false), (64046, 37086, 0, false), (64047, 38583, 0, false), (64048, 20398, 0, false),
   (64049, 20711, 0, false), (64050, 20813, 0, false), (64051, 21193, 0, false), (64052, 21220, 0, false),
   (64053, 21329, 0, false), (64054, 21917, 0, false), (64055, 22022, 0, false), (64056, 22120, 0, false),
   (64057, 22592, 0, false), (64058, 22696, 0, false), (64059, 23652, 0, false), (64060, 23662, 0, false),
   (64061, 24724, 0, false), (64062, 24936, 0, false), (64063, 24974, 0, false), (64064, 25074, 0, false),
   (64065, 25935, 0, false), (64066, 26082, 0, false), (64067, 26257, 0, false), (64068, 26757, 0, false),
   (64069, 28023, 0, false), (64070, 28186, 0, false), (64071, 28450, 0, false), (64072, 29038, 0, false),
   (64073, 29227, 0, false), (64074, 29730, 0, false), (64075, 30865, 0, false), (64076, 31038, 0, false)]
/-- Part 33 of the canonical decompositions. -/
def decompPart33 : List (Nat × Nat × Nat × Bool) :=
  [(64077, 31049, 0, false), (64078, 31048, 0, false), (64079, 31056, 0, false), (64080, 31062, 0, false),
   (64081, 31069, 0, false), (64082, 31117, 0, false), (64083, 31118, 0, false), (64084, 31296, 0, false),
   (64085, 31361, 0, false), (64086, 31680, 0, false), (64087, 32244, 0, false), (64088, 32265, 0, false),
   (64089, 32321, 0, false), (64090, 32626, 0, false), (64091, 32773, 0, false), (64092, 33261, 0, false),
   (64093, 33401, 0, false), (64094, 33401, 0, false), (64095, 33879, 0, false), (64096, 35088, 0, false),
   (64097, 35222, 0, false), (64098, 35585, 0, false), (64099, 35641, 0, false), (64100, 36051, 0, false),
   (64101, 36104, 0, false), (64102, 36790, 0, false), (64103, 36920, 0, false), (64104, 38627, 0, false),
   (64105, 38911, 0, false), (64106, 38971, 0, false), (64107, 24693, 0, false), (64108, 148206, 0, false),
   (64109, 33304, 0, false), (64112, 20006, 0, false), (64113, 20917, 0, false), (64114, 20840, 0, false),
   (64115, 20352, 0, false), (64116, 20805, 0, false), (64117, 20864, 0, false), (64118, 21191, 0, false)]
/-- Part 34 of the canonical decompositions. -/
def decompPart34 : List (Nat × Nat × Nat × Bool) :=
  [(64119, 21242, 0, false), (64120, 21917, 0, false), (64121, 21845, 0, false), (64122, 21913, 0, false),
   (64123, 21986, 0, false), (64124, 22618, 0, false), (64125, 22707, 0, false), (64126, 22852, 0, false),
   (64127, 22868, 0, false), (64128, 23138, 0, false), (64129, 23336, 0, false), (64130, 24274, 0, false),
   (64131, 24281, 0, false), (64132, 24425, 0, false), (64133, 24493, 0, false), (64134, 24792, 0, false),
   (64135, 24910, 0, false), (64136, 24840, 0, false), (64137, 24974, 0, false), (64138, 24928, 0, false),
   (64139, 25074, 0, false), (64140, 25140, 0, false), (64141, 25540, 0, false), (64142, 25628, 0, false),
   (64143, 25682, 0, false), (64144, 25942, 0, false), (64145, 26228, 0, false), (64146, 26391, 0, false),
   (64147, 26395, 0, false), (64148, 26454, 0, false), (64149, 27513, 0, false), (64150, 27578, 0, false),
   (64151, 27969, 0, false), (64152, 28379, 0, false), (64153, 28363, 0, false), (64154, 28450, 0, false),
   (64155, 28702, 0, false), (64156, 29038, 0, false), (64157, 30631, 0, false), (64158, 29237, 0, false)]
/-- Part 35 of the canonical decompositions. -/
def decompPart35 : List (Nat × Nat × Nat × Bool) :=
  [(64159, 29359, 0, false), (64160, 29482, 0, false), (64161, 29809, 0, false), (64162, 29958, 0, false),
   (64163, 30011, 0, false), (64164, 30237, 0, false), (64165, 30239, 0, false), (64166, 30410, 0, false),
   (64167, 30427, 0, false), (64168, 30452, 0, false), (64169, 30538, 0, false), (64170, 30528, 0, false),
   (64171, 30924, 0, false), (64172, 31409, 0, false), (64173, 31680, 0, false), (64174, 31867, 0, false),
   (64175, 32091, 0, false), (64176, 32244, 0, false), (64177, 32574, 0, false), (64178, 32773, 0, false),
   (64179, 33618, 0, false), (64180, 33775, 0, false), (64181, 34681, 0, false), (64182, 35137, 0, false),
   (64183, 35206, 0, false), (64184, 35222, 0, false), (64185, 35519, 0, false), (64186, 35576, 0, false),
   (64187, 35531, 0, false), (64188, 35585, 0, false), (64189, 35582, 0, false), (64190, 35565, 0, false),
   (64191, 35641, 0, false), (64192, 35722, 0, false), (64193, 36104, 0, false), (64194, 36664, 0, false),
   (64195, 36978, 0, false), (64196, 37273, 0, false), (64197, 37494, 0, false), (64198, 38524, 0, false)]
/-- Part 36 of the canonical decompositions. -/
def decompPart36 : List (Nat × Nat × Nat × Bool) :=
  [(64199, 38627, 0, false), (64200, 38742, 0, false), (64201, 38875, 0, false), (64202, 38911, 0, false),
   (64203, 38923, 0, false), (64204, 38971, 0, false), (64205, 39698, 0, false), (64206, 40860, 0, false),
   (64207, 141386, 0, false), (64208, 141380, 0, false), (64209, 144341, 0, false), (64210, 15261, 0, false),
   (64211, 16408, 0, false), (64212, 16441, 0, false), (64213, 152137, 0, false), (64214, 154832, 0, false),
   (64215, 163539, 0, false), (64216, 40771, 0, false), (64217, 40846, 0, false), (64285, 1497, 1460, false),
   (64287, 1522, 1463, false), (64298, 1513, 1473, false), (64299, 1513, 1474, false), (64300, 64329, 1473, false),
   (64301, 64329, 1474, false), (64302, 1488, 1463, false), (64303, 1488, 1464, false), (64304, 1488, 1468, false),
   (64305, 1489, 1468, false), (64306, 1490, 1468, false), (64307, 1491, 1468, false), (64308, 1492, 1468, false),
   (64309, 1493, 1468, false), (64310, 1494, 1468, false), (64312, 1496, 1468, false), (64313, 1497, 1468, false),
   (64314, 1498, 1468, false), (64315, 1499, 1468, false), (64316, 1500, 1468, false), (64318, 1502, 1468, false)]
/-- Part 37 of the canonical decompositions. -/
def decompPart37 : List (Nat × Nat × Nat × Bool) :=
  [(64320, 1504, 1468, false), (64321, 1505, 1468, false), (64323, 1507, 1468, false), (64324, 1508, 1468, false),
   (64326, 1510, 1468, false), (64327, 1511, 1468, false), (64328, 1512, 1468, false), (64329, 1513, 1468, false),
   (64330, 1514, 1468, false), (64331, 1493, 1465, false), (64332, 1489, 1471, false), (64333, 1499, 1471, false),
   (64334, 1508, 1471, false), (69786, 69785, 69818, true), (69788, 69787, 69818, true), (69803, 69797, 69818, true),
   (69934, 69937, 69927, true), (69935, 69938, 69927, true), (70475, 70471, 70462, true), (70476, 70471, 70487, true),
   (70843, 70841, 70842, true), (70844, 70841, 70832, true), (70846, 70841, 70845, true), (71098, 71096, 71087, true),
   (71099, 71097, 71087, true), (71992, 71989, 71984, true), (119134, 119127, 119141, false),
   (119135, 119128, 119141, false), (119136, 119135, 119150, false), (119137, 119135, 119151, false),
   (119138, 119135, 119152, false), (119139, 119135, 119153, false), (119140, 119135, 119154, false),
   (119227, 119225, 119141, false), (119228, 119226, 119141, false), (119229, 119227, 119150, false),
   (119230, 119228, 119150, false), (119231, 119227, 119151, false), (119232, 119228, 119151, false),
   (194560, 20029, 0, false)]
/-- Part 38 of the canonical decompositions. -/
def decompPart38 : List (Nat × Nat × Nat × Bool) :=
  [(194561, 20024, 0, false), (194562, 20033, 0, false), (194563, 131362, 0, false), (194564, 20320, 0, false),
   (194565, 20398, 0, false), (194566, 20411, 0, false), (194567, 20482, 0, false), (194568, 20602, 0, false),
   (194569, 20633, 0, false), (194570, 20711, 0, false), (194571, 20687, 0, false), (194572, 13470, 0, false),
   (194573, 132666, 0, false), (194574, 20813, 0, false), (194575, 20820, 0, false), (194576, 20836, 0, false),
   (194577, 20855, 0, false), (194578, 132380, 0, false), (194579, 13497, 0, false), (194580, 20839, 0, false),
   (194581, 20877, 0, false), (194582, 132427, 0, false), (194583, 20887, 0, false), (194584, 20900, 0, false),
   (194585, 20172, 0, false), (194586, 20908, 0, false), (194587, 20917, 0, false), (194588, 168415, 0, false),
   (194589, 20981, 0, false), (194590, 20995, 0, false), (194591, 13535, 0, false), (194592, 21051, 0, false),
   (194593, 21062, 0, false), (194594, 21106, 0, false), (194595, 21111, 0, false), (194596, 13589, 0, false),
   (194597, 21191, 0, false), (194598, 21193, 0, false), (194599, 21220, 0, false), (194600, 21242, 0, false)]
/-- Part 39 of the canonical decompositions. -/
def decompPart39 : List (Nat × Nat × Nat × Bool) :=
  [(194601, 21253, 0, false), (194602, 21254, 0, false), (194603, 21271, 0, false), (194604, 21321, 0, false),
   (194605, 21329, 0, false), (194606, 21338, 0, false), (194607, 21363, 0, false), (194608, 21373, 0, false),
   (194609, 21375, 0, false), (194610, 21375, 0, false), (194611, 21375, 0, false), (194612, 133676, 0, false),
   (194613, 28784, 0, false), (194614, 21450, 0, false), (194615, 21471, 0, false), (194616, 133987, 0, false),
   (194617, 21483, 0, false), (194618, 21489, 0, false), (194619, 21510, 0, false), (194620, 21662, 0, false),
   (194621, 21560, 0, false), (194622, 21576, 0, false), (194623, 21608, 0, false), (194624, 21666, 0, false),
   (194625, 21750, 0, false), (194626, 21776, 0, false), (194627, 21843, 0, false), (194628, 21859, 0, false),
   (194629, 21892, 0, false), (194630, 21892, 0, false), (194631, 21913, 0, false), (194632, 21931, 0, false),
   (194633, 21939, 0, false), (194634, 21954, 0, false), (194635, 22294, 0, false), (194636, 22022, 0, false),
   (194637, 22295, 0, false), (194638, 22097, 0, false), (194639, 22132, 0, false), (194640, 20999, 0, false)]
/-- Part 40 of the canonical decompositions. -/
def decompPart40 : List (Nat × Nat × Nat × Bool) :=
  [(194641, 22766, 0, false), (194642, 22478, 0, false), (194643, 22516, 0, false), (194644, 22541, 0, false),
   (194645, 22411, 0, false), (194646, 22578, 0, false), (194647, 22577, 0, false), (194648, 22700, 0, false),
   (194649, 136420, 0, false), (194650, 22770, 0, false), (194651, 22775, 0, false), (194652, 22790, 0, false),
   (194653, 22810, 0, false), (194654, 22818, 0, false), (194655, 22882, 0, false), (194656, 136872, 0, false),
   (194657, 136938, 0, false), (194658, 23020, 0, false), (194659, 23067, 0, false), (194660, 23079, 0, false),
   (194661, 23000, 0, false), (194662, 23142, 0, false), (194663, 14062, 0, false), (194664, 14076, 0, false),
   (194665, 23304, 0, false), (194666, 23358, 0, false), (194667, 23358, 0, false), (194668, 137672, 0, false),
   (194669, 23491, 0, false), (194670, 23512, 0, false), (194671, 23527, 0, false), (194672, 23539, 0, false),
   (194673, 138008, 0, false), (194674, 23551, 0, false), (194675, 23558, 0, false), (194676, 24403, 0, false),
   (194677, 23586, 0, false), (194678, 14209, 0, false), (194679, 23648, 0, false), (194680, 23662, 0, false)]
/-- Part 41 of the canonical decompositions. -/
def decompPart41 : List (Nat × Nat × Nat × Bool) :=
  [(194681, 23744, 0, false), (194682, 23693, 0, false), (194683, 138724, 0, false), (194684, 23875, 0, false),
   (194685, 138726, 0, false), (194686, 23918, 0, false), (194687, 23915, 0, false), (194688, 23932, 0, false),
   (194689, 24033, 0, false), (194690, 24034, 0, false), (194691, 14383, 0, false), (194692, 24061, 0, false),
   (194693, 24104, 0, false), (194694, 24125, 0, false), (194695, 24169, 0, false), (194696, 14434, 0, false),
   (194697, 139651, 0, false), (194698, 14460, 0, false), (194699, 24240, 0, false), (194700, 24243, 0, false),
   (194701, 24246, 0, false), (194702, 24266, 0, false), (194703, 172946, 0, false), (194704, 24318, 0, false),
   (194705, 140081, 0, false), (194706, 140081, 0, false), (194707, 33281, 0, false), (194708, 24354, 0, false),
   (194709, 24354, 0, false), (194710, 14535, 0, false), (194711, 144056, 0, false), (194712, 156122, 0, false),
   (194713, 24418, 0, false), (194714, 24427, 0, false), (194715, 14563, 0, false), (194716, 24474, 0, false),
   (194717, 24525, 0, false), (194718, 24535, 0, false), (194719, 24569, 0, false), (194720, 24705, 0, false)]
/-- Part 42 of the canonical decompositions. -/
def decompPart42 : List (Nat × Nat × Nat × Bool) :=
  [(194721, 14650, 0, false), (194722, 14620, 0, false), (194723, 24724, 0, false), (194724, 141012, 0, false),
   (194725, 24775, 0, false), (194726, 24904, 0, false), (194727, 24908, 0, false), (194728, 24910, 0, false),
   (194729, 24908, 0, false), (194730, 24954, 0, false), (194731, 24974, 0, false), (194732, 25010, 0, false),
   (194733, 24996, 0, false), (194734, 25007, 0, false), (194735, 25054, 0, false), (194736, 25074, 0, false),
   (194737, 25078, 0, false), (194738, 25104, 0, false), (194739, 25115, 0, false), (194740, 25181, 0, false),
   (194741, 25265, 0, false), (194742, 25300, 0, false), (194743, 25424, 0, false), (194744, 142092, 0, false),
   (194745, 25405, 0, false), (194746, 25340, 0, false), (194747, 25448, 0, false), (194748, 25475, 0, false),
   (194749, 25572, 0, false), (194750, 142321, 0, false), (194751, 25634, 0, false), (194752, 25541, 0, false),
   (194753, 25513, 0, false), (194754, 14894, 0, false), (194755, 25705, 0, false), (194756, 25726, 0, false),
   (194757, 25757, 0, false), (194758, 25719, 0, false), (194759, 14956, 0, false), (194760, 25935, 0, false)]
/-- Part 43 of the canonical decompositions. -/
def decompPart43 : List (Nat × Nat × Nat × Bool) :=
  [(194761, 25964, 0, false), (194762, 143370, 0, false), (194763, 26083, 0, false), (194764, 26360, 0, false),
   (194765, 26185, 0, false), (194766, 15129, 0, false), (194767, 26257, 0, false), (194768, 15112, 0, false),
   (194769, 15076, 0, false), (194770, 20882, 0, false), (194771, 20885, 0, false), (194772, 26368, 0, false),
   (194773, 26268, 0, false), (194774, 32941, 0, false), (194775, 17369, 0, false), (194776, 26391, 0, false),
   (194777, 26395, 0, false), (194778, 26401, 0, false), (194779, 26462, 0, false), (194780, 26451, 0, false),
   (194781, 144323, 0, false), (194782, 15177, 0, false), (194783, 26618, 0, false), (194784, 26501, 0, false),
   (194785, 26706, 0, false), (194786, 26757, 0, false), (194787, 144493, 0, false), (194788, 26766, 0, false),
   (194789, 26655, 0, false), (194790, 26900, 0, false), (194791, 15261, 0, false), (194792, 26946, 0, false),
   (194793, 27043, 0, false), (194794, 27114, 0, false), (194795, 27304, 0, false), (194796, 145059, 0, false),
   (194797, 27355, 0, false), (194798, 15384, 0, false), (194799, 27425, 0, false), (194800, 145575, 0, false)]
/-- Part 44 of the canonical decompositions. -/
def decompPart44 : List (Nat × Nat × Nat × Bool) :=
  [(194801, 27476, 0, false), (194802, 15438, 0, false), (194803, 27506, 0, false), (194804, 27551, 0, false),
   (194805, 27578, 0, false), (194806, 27579, 0, false), (194807, 146061, 0, false), (194808, 138507, 0, false),
   (194809, 146170, 0, false), (194810, 27726, 0, false), (194811, 146620, 0, false), (194812, 27839, 0, false),
   (194813, 27853, 0, false), (194814, 27751, 0, false), (194815, 27926, 0, false), (194816, 27966, 0, false),
   (194817, 28023, 0, false), (194818, 27969, 0, false), (194819, 28009, 0, false), (194820, 28024, 0, false),
   (194821, 28037, 0, false), (194822, 146718, 0, false), (194823, 27956, 0, false), (194824, 28207, 0, false),
   (194825, 28270, 0, false), (194826, 15667, 0, false), (194827, 28363, 0, false), (194828, 28359, 0, false),
   (194829, 147153, 0, false), (194830, 28153, 0, false), (194831, 28526, 0, false), (194832, 147294, 0, false),
   (194833, 147342, 0, false), (194834, 28614, 0, false), (194835, 28729, 0, false), (194836, 28702, 0, false),
   (194837, 28699, 0, false), (194838, 15766, 0, false), (194839, 28746, 0, false), (194840, 28797, 0, false)]
/-- Part 45 of the canonical decompositions. -/
def decompPart45 : List (Nat × Nat × Nat × Bool) :=
  [(194841, 28791, 0, false), (194842, 28845, 0, false), (194843, 132389, 0, false), (194844, 28997, 0, false),
   (194845, 148067, 0, false), (194846, 29084, 0, false), (194847, 148395, 0, false), (194848, 29224, 0, false),
   (194849, 29237, 0, false), (194850, 29264, 0, false), (194851, 149000, 0, false), (194852, 29312, 0, false),
   (194853, 29333, 0, false), (194854, 149301, 0, false), (194855, 149524, 0, false), (194856, 29562, 0, false),
   (194857, 29579, 0, false), (194858, 16044, 0, false), (194859, 29605, 0, false), (194860, 16056, 0, false),
   (194861, 16056, 0, false), (194862, 29767, 0, false), (194863, 29788, 0, false), (194864, 29809, 0, false),
   (194865, 29829, 0, false), (194866, 29898, 0, false), (194867, 16155, 0, false), (194868, 29988, 0, false),
   (194869, 150582, 0, false), (194870, 30014, 0, false), (194871, 150674, 0, false), (194872, 30064, 0, false),
   (194873, 139679, 0, false), (194874, 30224, 0, false), (194875, 151457, 0, false), (194876, 151480, 0, false),
   (194877, 151620, 0, false), (194878, 16380, 0, false), (194879, 16392, 0, false), (194880, 30452, 0, false)]
/-- Part 46 of the canonical decompositions. -/
def decompPart46 : List (Nat × Nat × Nat × Bool) :=
  [(194881, 151795, 0, false), (194882, 151794, 0, false), (194883, 151833, 0, false), (194884, 151859, 0, false),
   (194885, 30494, 0, false), (194886, 30495, 0, false), (194887, 30495, 0, false), (194888, 30538, 0, false),
   (194889, 16441, 0, false), (194890, 30603, 0, false), (194891, 16454, 0, false), (194892, 16534, 0, false),
   (194893, 152605, 0, false), (194894, 30798, 0, false), (194895, 30860, 0, false), (194896, 30924, 0, false),
   (194897, 16611, 0, false), (194898, 153126, 0, false), (194899, 31062, 0, false), (194900, 153242, 0, false),
   (194901, 153285, 0, false), (194902, 31119, 0, false), (194903, 31211, 0, false), (194904, 16687, 0, false),
   (194905, 31296, 0, false), (194906, 31306, 0, false), (194907, 31311, 0, false), (194908, 153980, 0, false),
   (194909, 154279, 0, false), (194910, 154279, 0, false), (194911, 31470, 0, false), (194912, 16898, 0, false),
   (194913, 154539, 0, false), (194914, 31686, 0, false), (194915, 31689, 0, false), (194916, 16935, 0, false),
   (194917, 154752, 0, false), (194918, 31954, 0, false), (194919, 17056, 0, false), (194920, 31976, 0, false)]
/-- Part 47 of the canonical decompositions. -/
def decompPart47 : List (Nat × Nat × Nat × Bool) :=
  [(194921, 31971, 0, false), (194922, 32000, 0, false), (194923, 155526, 0, false), (194924, 32099, 0, false),
   (194925, 17153, 0, false), (194926, 32199, 0, false), (194927, 32258, 0, false), (194928, 32325, 0, false),
   (194929, 17204, 0, false), (194930, 156200, 0, false), (194931, 156231, 0, false), (194932, 17241, 0, false),
   (194933, 156377, 0, false), (194934, 32634, 0, false), (194935, 156478, 0, false), (194936, 32661, 0, false),
   (194937, 32762, 0, false), (194938, 32773, 0, false), (194939, 156890, 0, false), (194940, 156963, 0, false),
   (194941, 32864, 0, false), (194942, 157096, 0, false), (194943, 32880, 0, false), (194944, 144223, 0, false),
   (194945, 17365, 0, false), (194946, 32946, 0, false), (194947, 33027, 0, false), (194948, 17419, 0, false),
   (194949, 33086, 0, false), (194950, 23221, 0, false), (194951, 157607, 0, false), (194952, 157621, 0, false),
   (194953, 144275, 0, false), (194954, 144284, 0, false), (194955, 33281, 0, false), (194956, 33284, 0, false),
   (194957, 36766, 0, false), (194958, 17515, 0, false), (194959, 33425, 0, false), (194960, 33419, 0, false)]
/-- Part 48 of the canonical decompositions. -/
def decompPart48 : List (Nat × Nat × Nat × Bool) :=
  [(194961, 33437, 0, false), (194962, 21171, 0, false), (194963, 33457, 0, false), (194964, 33459, 0, false),
   (194965, 33469, 0, false), (194966, 33510, 0, false), (194967, 158524, 0, false), (194968, 33509, 0, false),
   (194969, 33565, 0, false), (194970, 33635, 0, false), (194971, 33709, 0, false), (194972, 33571, 0, false),
   (194973, 33725, 0, false), (194974, 33767, 0, false), (194975, 33879, 0, false), (194976, 33619, 0, false),
   (194977, 33738, 0, false), (194978, 33740, 0, false), (194979, 33756, 0, false), (194980, 158774, 0, false),
   (194981, 159083, 0, false), (194982, 158933, 0, false), (194983, 17707, 0, false), (194984, 34033, 0, false),
   (194985, 34035, 0, false), (194986, 34070, 0, false), (194987, 160714, 0, false), (194988, 34148, 0, false),
   (194989, 159532, 0, false), (194990, 17757, 0, false), (194991, 17761, 0, false), (194992, 159665, 0, false),
   (194993, 159954, 0, false), (194994, 17771, 0, false), (194995, 34384, 0, false), (194996, 34396, 0, false),
   (194997, 34407, 0, false), (194998, 34409, 0, false), (194999, 34473, 0, false), (195000, 34440, 0, false)]
/-- Part 49 of the canonical decompositions. -/
def decompPart49 : List (Nat × Nat × Nat × Bool) :=
  [(195001, 34574, 0, false), (195002, 34530, 0, false), (195003, 34681, 0, false), (195004, 34600, 0, false),
   (195005, 34667, 0, false), (195006, 34694, 0, false), (195007, 17879, 0, false), (195008, 34785, 0, false),
   (195009, 34817, 0, false), (195010, 17913, 0, false), (195011, 34912, 0, false), (195012, 34915, 0, false),
   (195013, 161383, 0, false), (195014, 35031, 0, false), (195015, 35038, 0, false), (195016, 17973, 0, false),
   (195017, 35066, 0, false), (195018, 13499, 0, false), (195019, 161966, 0, false), (195020, 162150, 0, false),
   (195021, 18110, 0, false), (195022, 18119, 0, false), (195023, 35488, 0, false), (195024, 35565, 0, false),
   (195025, 35722, 0, false), (195026, 35925, 0, false), (195027, 162984, 0, false), (195028, 36011, 0, false),
   (195029, 36033, 0, false), (195030, 36123, 0, false), (195031, 36215, 0, false), (195032, 163631, 0, false),
   (195033, 133124, 0, false), (195034, 36299, 0, false), (195035, 36284, 0, false), (195036, 36336, 0, false),
   (195037, 133342, 0, false), (195038, 36564, 0, false), (195039, 36664, 0, false), (195040, 165330, 0, false)]
/-- Part 50 of the canonical decompositions. -/
def decompPart50 : List (Nat × Nat × Nat × Bool) :=
  [(195041, 165357, 0, false), (195042, 37012, 0, false), (195043, 37105, 0, false), (195044, 37137, 0, false),
   (195045, 165678, 0, false), (195046, 37147, 0, false), (195047, 37432, 0, false), (195048, 37591, 0, false),
   (195049, 37592, 0, false), (195050, 37500, 0, false), (195051, 37881, 0, false), (195052, 37909, 0, false),
   (195053, 166906, 0, false), (195054, 38283, 0, false), (195055, 18837, 0, false), (195056, 38327, 0, false),
   (195057, 167287, 0, false), (195058, 18918, 0, false), (195059, 38595, 0, false), (195060, 23986, 0, false),
   (195061, 38691, 0, false), (195062, 168261, 0, false), (195063, 168474, 0, false), (195064, 19054, 0, false),
   (195065, 19062, 0, false), (195066, 38880, 0, false), (195067, 168970, 0, false), (195068, 19122, 0, false),
   (195069, 169110, 0, false), (195070, 38923, 0, false), (195071, 38923, 0, false), (195072, 38953, 0, false),
   (195073, 169398, 0, false), (195074, 39138, 0, false), (195075, 19251, 0, false), (195076, 39209, 0, false),
   (195077, 39335, 0, false), (195078, 39362, 0, false), (195079, 39422, 0, false), (195080, 19406, 0, false)]
/-- Part 51 of the canonical decompositions. -/
def decompPart51 : List (Nat × Nat × Nat × Bool) :=
  [(195081, 170800, 0, false), (195082, 39698, 0, false), (195083, 40000, 0, false), (195084, 40189, 0, false),
   (195085, 19662, 0, false), (195086, 19693, 0, false), (195087, 40295, 0, false), (195088, 172238, 0, false),
   (195089, 19704, 0, false), (195090, 172293, 0, false), (195091, 172558, 0, false), (195092, 172689, 0, false),
   (195093, 40635, 0, false), (195094, 19798, 0, false), (195095, 40697, 0, false), (195096, 40702, 0, false),
   (195097, 40709, 0, false), (195098, 40719, 0, false), (195099, 40726, 0, false), (195100, 40763, 0, false),
   (195101, 173568, 0, false)]

/-- Canonical decompositions but Hangul: code point, first part, second part (0 for none), and whether the pair composes. -/
def decompTable : List (Nat × Nat × Nat × Bool) :=
  decompPart0 ++ decompPart1 ++ decompPart2 ++ decompPart3 ++ decompPart4 ++ decompPart5 ++ decompPart6 ++ decompPart7
    ++ decompPart8 ++ decompPart9 ++ decompPart10 ++ decompPart11 ++ decompPart12 ++ decompPart13 ++ decompPart14 ++ decompPart15
    ++ decompPart16 ++ decompPart17 ++ decompPart18 ++ decompPart19 ++ decompPart20 ++ decompPart21 ++ decompPart22 ++ decompPart23
    ++ decompPart24 ++ decompPart25 ++ decompPart26 ++ decompPart27 ++ decompPart28 ++ decompPart29 ++ decompPart30 ++ decompPart31
    ++ decompPart32 ++ decompPart33 ++ decompPart34 ++ decompPart35 ++ decompPart36 ++ decompPart37 ++ decompPart38 ++ decompPart39
    ++ decompPart40 ++ decompPart41 ++ decompPart42 ++ decompPart43 ++ decompPart44 ++ decompPart45 ++ decompPart46 ++ decompPart47
    ++ decompPart48 ++ decompPart49 ++ decompPart50 ++ decompPart51

end Sys2Proof.Machine
end

