-- ==== Sys2Proof/Machine/Unicode.lean ====
section
/-! DEFINITION. Normalisation form C under the data of Unicode 15.1 (R143): canonical decomposition, canonical order,
canonical composition, over code points and over UTF-8 bytes. -/

namespace Sys2Proof.Machine

open Sys2Proof

/-! ### Properties of code points.  A code point that the data does not list has class 0 and no decomposition (R143). -/

/-- Canonical combining class. -/
def cccOf (c : Nat) : Nat :=
  match cccTable.find? fun r => decide (r.1 ≤ c ∧ c ≤ r.2.1) with
  | some r => r.2.2
  | none => 0

/-- The canonical decomposition of one code point in one step; Hangul syllables decompose by arithmetic. -/
def decompOf (c : Nat) : Option (List Nat) :=
  if 0xAC00 ≤ c ∧ c ≤ 0xD7A3 then
    let i := c - 0xAC00
    let l := 0x1100 + i / 588
    let v := 0x1161 + i % 588 / 28
    some (if i % 28 = 0 then [l, v] else [l, v, 0x11A7 + i % 28])
  else (decompTable.find? fun r => r.1 == c).map fun r => if r.2.2.1 = 0 then [r.2.1] else [r.2.1, r.2.2.1]

/-- The primary composite of two code points. -/
def composeOf (a b : Nat) : Option Nat :=
  if 0x1100 ≤ a ∧ a < 0x1113 ∧ 0x1161 ≤ b ∧ b < 0x1176 then some (0xAC00 + ((a - 0x1100) * 21 + (b - 0x1161)) * 28)
  else if 0xAC00 ≤ a ∧ a ≤ 0xD7A3 ∧ (a - 0xAC00) % 28 = 0 ∧ 0x11A7 < b ∧ b < 0x11C3 then some (a + (b - 0x11A7))
  else (decompTable.find? fun r => r.2.1 == a && r.2.2.1 == b && r.2.2.2).map (·.1)

/-! ### The three steps -/

/-- Full canonical decomposition; a mapping nests at most three deep. -/
def decompose : Nat → Nat → List Nat
  | 0, c => [c]
  | k + 1, c =>
    match decompOf c with
    | none => [c]
    | some l => l.flatMap (decompose k)

/-- Put a code point in canonical order behind those before it: it passes the ones of a higher class, down to a starter. -/
def orderInto (c : Nat) (back : List Nat) : List Nat :=
  match back with
  | [] => [c]
  | b :: r => if cccOf c ≠ 0 ∧ cccOf c < cccOf b then b :: orderInto c r else c :: b :: r

/-- Canonical order of a text. -/
def canonicalOrder (l : List Nat) : List Nat := (l.foldl (fun back c => orderInto c back) []).reverse

/-- Composition: the last starter, what follows it so far (latest first), and the rest.  A code point composes with the last
starter when nothing between them blocks it. -/
def composeFrom : Option Nat → List Nat → List Nat → List Nat
  | st, back, [] => st.toList ++ back.reverse
  | none, back, c :: r => if cccOf c = 0 then back.reverse ++ composeFrom (some c) [] r else composeFrom none (c :: back) r
  | some s, back, c :: r =>
    let open' := match back with | [] => true | b :: _ => decide (cccOf b < cccOf c)
    match if open' then composeOf s c else none with
    | some p => composeFrom (some p) back r
    | none => if cccOf c = 0 then s :: (back.reverse ++ composeFrom (some c) [] r) else composeFrom (some s) (c :: back) r

/-- Normalisation form C of a list of code points. -/
def nfcPoints (l : List Nat) : List Nat := composeFrom none [] (canonicalOrder (l.flatMap (decompose 4)))

/-! ### UTF-8 -/

/-- The code points of well-formed UTF-8; the first argument bounds their number. -/
def utf8Points : Nat → Buf → List Nat
  | _, [] => []
  | 0, _ => []
  | k + 1, a :: r =>
    let c := fun i => (Buf.at r i).toNat % 64
    let n := a.toNat
    if n < 0x80 then n :: utf8Points k r
    else if n < 0xE0 then ((n % 32) * 64 + c 0) :: utf8Points k (r.drop 1)
    else if n < 0xF0 then ((n % 16) * 4096 + c 0 * 64 + c 1) :: utf8Points k (r.drop 2)
    else ((n % 8) * 262144 + c 0 * 4096 + c 1 * 64 + c 2) :: utf8Points k (r.drop 3)

/-- The UTF-8 bytes of a code point. -/
def utf8Bytes (c : Nat) : Buf :=
  let t := fun k => BitVec.ofNat 8 (0x80 + c / 2 ^ k % 64)
  if c < 0x80 then [BitVec.ofNat 8 c]
  else if c < 0x800 then [BitVec.ofNat 8 (0xC0 + c / 64), t 0]
  else if c < 0x10000 then [BitVec.ofNat 8 (0xE0 + c / 4096), t 6, t 0]
  else [BitVec.ofNat 8 (0xF0 + c / 262144), t 12, t 6, t 0]

/-- Normalisation form C of a well-formed UTF-8 text. -/
def nfc (b : Buf) : Buf := (nfcPoints (utf8Points b.length b)).flatMap utf8Bytes

end Sys2Proof.Machine
end

