-- ==== Sys2Proof/Machine/Text.lean ====
section
/-! DEFINITION. Text and numbers of the answer path: UTF-8, tokenising (R143), templates and packing (R38, R39, R144, R145),
quantisation (R59), exact scores (R83) and the sampling of a token (R56). -/

namespace Sys2Proof.Machine

open Sys2Proof

/-! ### UTF-8 and tokens (R143) -/

def isCont (b : Byte) : Bool := decide (0x80 ≤ b.toNat ∧ b.toNat ≤ 0xBF)

/-- The second byte of a sequence of three or four bytes lies in the range its first byte allows. -/
def secondOk (a b : Byte) : Bool :=
  let n := b.toNat
  match a.toNat with
  | 0xE0 => decide (0xA0 ≤ n ∧ n ≤ 0xBF)
  | 0xED => decide (0x80 ≤ n ∧ n ≤ 0x9F)
  | 0xF0 => decide (0x90 ≤ n ∧ n ≤ 0xBF)
  | 0xF4 => decide (0x80 ≤ n ∧ n ≤ 0x8F)
  | _ => isCont b

/-- Well-formed UTF-8; the first argument bounds the number of characters. -/
def utf8From : Nat → Buf → Bool
  | _, [] => true
  | 0, _ => false
  | k + 1, a :: r =>
    let n := a.toNat
    if n < 0x80 then utf8From k r
    else if 0xC2 ≤ n ∧ n ≤ 0xDF then isCont (Buf.at r 0) && utf8From k (r.drop 1)
    else if 0xE0 ≤ n ∧ n ≤ 0xEF then secondOk a (Buf.at r 0) && isCont (Buf.at r 1) && utf8From k (r.drop 2)
    else if 0xF0 ≤ n ∧ n ≤ 0xF4 then
      secondOk a (Buf.at r 0) && isCont (Buf.at r 1) && isCont (Buf.at r 2) && utf8From k (r.drop 3)
    else false

def utf8Ok (b : Buf) : Bool := utf8From b.length b

/-- The token of one byte; a byte without a token of its own has a token the manual does not state (log 40). -/
def Tokeniser.byteToken (t : Tokeniser) (b : Byte) : Nat :=
  if t.vocab.contains [b] then t.vocab.idxOf [b] else (Config.word (0x2000 + b.toNat)).toNat % t.vocab.length

/-- The token a merge makes: the one whose bytes are those of its two parts. -/
def Tokeniser.merged (t : Tokeniser) (a b : Nat) : Nat := t.vocab.idxOf (t.vocab.getD a [] ++ t.vocab.getD b [])

/-- Rank of the best pair of a sequence, lower first. -/
def bestRank (merges : List (Nat × Nat)) : List Nat → Option Nat
  | a :: b :: r =>
    let here := if merges.contains (a, b) then some (merges.idxOf (a, b)) else none
    match here, bestRank merges (b :: r) with
    | some x, some y => some (min x y)
    | some x, none => some x
    | none, y => y
  | _ => none

/-- Merge the leftmost occurrence of a pair. -/
def mergeFirst (a b m : Nat) : List Nat → List Nat
  | x :: y :: r => if x = a ∧ y = b then m :: r else x :: mergeFirst a b m (y :: r)
  | l => l

/-- Apply merges in rank order, the leftmost pair first, until none applies. -/
def Tokeniser.mergeN (t : Tokeniser) : Nat → List Nat → List Nat
  | 0, l => l
  | n + 1, l =>
    match bestRank t.merges l with
    | none => l
    | some k =>
      let p := t.merges.getD k (0, 0)
      t.mergeN n (mergeFirst p.1 p.2 (t.merged p.1 p.2) l)

/-- The tokens of a byte string. -/
def Tokeniser.encode (t : Tokeniser) (b : Buf) : List Nat :=
  let b := if t.nfc then Machine.nfc b else b
  t.mergeN b.length (b.map t.byteToken)

/-- The bytes of a token. -/
def Tokeniser.bytes (t : Tokeniser) (id : Nat) : Buf := t.vocab.getD id []

/-! ### Packing (R38, R39, R144, R145) -/

/-- The plain template. -/
def plainTemplate : List TemplateItem := [.query, .passages [] []]

def hasPassages (t : List TemplateItem) : Bool := t.any fun i => match i with | .passages _ _ => true | _ => false

/-- Literal tokens of a template. -/
def literals (t : List TemplateItem) : Nat := sumOf (t.map fun i => match i with | .literal l => l.length | _ => 0)

/-- Prefix and suffix of the PASSAGES slot. -/
def passageRuns (t : List TemplateItem) : List Nat × List Nat :=
  (t.findSome? fun i => match i with | .passages a b => some (a, b) | _ => none).getD ([], [])

/-- Place passages in rank order; answers what each takes, and the tokens placed. -/
def placePassages (pre suf : List Nat) : Nat → List (Cand × List Nat) → List Cand × List Nat
  | _, [] => ([], [])
  | left, (c, toks) :: r =>
    let n := pre.length + toks.length + suf.length
    if !c.lost && decide (n ≤ left) then
      let rest := placePassages pre suf (left - n) r
      ({ c with packed := true, tokens := n } :: rest.1, pre ++ toks ++ suf ++ rest.2)
    else
      let rest := placePassages pre suf left r
      ({ c with packed := false, tokens := 0 } :: rest.1, rest.2)

/-- The prompt of a template, and the candidates as packed. -/
def packPrompt (t : List TemplateItem) (budget : Nat) (query : List Nat) (cands : List (Cand × List Nat)) : List Nat × List Cand :=
  let lits := literals t
  let beyond := budget < lits + query.length
  let q := if beyond then query.take (budget - lits) else query
  let runs := passageRuns t
  let placed := if beyond ∨ ¬ hasPassages t then (cands.map (·.1), []) else placePassages runs.1 runs.2 (budget - lits - q.length) cands
  (t.flatMap fun i => match i with | .literal l => l | .query => q | .passages _ _ => placed.2, placed.1)

/-! ### Quantisation (R59) and exact scores (R83) -/

/-- Round num / den to the nearest integer, ties to even. -/
def ratRne (num den : Nat) : Nat :=
  let q := num / den
  let r := 2 * (num % den)
  if r < den then q else if den < r then q + 1 else q + q % 2

def clamp8 (v : Int) : Int := max (-128) (min 127 v)

/-- The exact quotient e / s, rounded once and saturated; NaN gives 0 and an infinity its limit. -/
def quantise (e s : W32) : Int :=
  match fpNum e, fpNum s with
  | .nan, _ => 0
  | .inf neg, _ => if neg then -128 else 127
  | .fin neg m a, .fin _ n b =>
    let v : Int := ratRne (m * 2 ^ (a - b).toNat) (n * 2 ^ (b - a).toNat)
    clamp8 (if neg then -v else v)
  | .fin _ _ _, _ => 0

def sumSq (l : List Int) : Int := l.foldl (fun a x => a + x * x) 0

/-- The exact score of a vector. -/
def Index.score (x : Index) (q : List Int) (v : Buf) : W32 :=
  let dot := dotInts q v 0
  let nq := sumSq q
  let nv := sumSquares v 0 x.params.dim
  let s2 := fpMul x.params.scale x.params.scale
  match x.params.metric with
  | .inner => fpMul s2 (fpOfInt dot)
  | .l2 => fpMul s2 (fpOfInt (nq + nv - 2 * dot))
  | .cosine => if nq = 0 ∨ nv = 0 then 0 else fpDiv (fpOfInt dot) (fpSqrt (fpMul (fpOfInt nq) (fpOfInt nv)))

/-- A score as a number to rank by.  Where a NaN ranks is not stated: a free place (log 26). -/
def rankNum (v : W32) : Num :=
  match fpNum v with
  | .nan => fpNum ((Config.word 1).truncate 32)
  | x => x

/-- Rank by score, larger first or smaller first, ties by locator. -/
def scoreBefore (smaller : Bool) (a b : W32 × W128) : Bool :=
  let x := rankNum a.1
  let y := rankNum b.1
  (if smaller then x.lt y else y.lt x) || (!x.lt y && !y.lt x && decide (a.2.toNat ≤ b.2.toNat))

def Cand.before (smaller : Bool) (a b : Cand) : Bool := scoreBefore smaller (a.final, a.locator) (b.final, b.locator)

/-- Order of the sieves and of the merge: sketch distance, then locator (R73, R79). -/
def Cand.nearer (a b : Cand) : Bool := decide (a.dist < b.dist) || (a.dist == b.dist && decide (a.locator.toNat ≤ b.locator.toNat))

/-! ### Sampling (R56) -/

/-- The token with the largest value, the lowest ID on ties. -/
def argmax (l : List W32) : Nat :=
  (l.zipIdx.foldl (fun best e =>
    match best with
    | none => some e
    | some b => if (rankNum b.1).lt (rankNum e.1) then some e else some b) none).elim 0 (·.2)

/-- FP32 running sums. -/
def runningSums : W32 → List W32 → List W32
  | _, [] => []
  | a, x :: r => let y := fpAdd a x; y :: runningSums y r

/-- The first elements up to the first running sum that reaches the limit. -/
def cutAfter (limit : W32) : List ((Nat × W32) × W32) → List (Nat × W32)
  | [] => []
  | (e, run) :: r => if fpLt run limit then e :: cutAfter limit r else [e]

/-- u: the first 8 bytes of SHA3-256 over SEED and the step, over 2⁶⁴. -/
def drawU (seed : W64) (step : Nat) : Dyad := { m := (Buf.le (sha3 (leBytes 8 seed.toNat ++ leBytes 8 step)) 0 8 : Nat), e := -64 }

/-- Probabilities in FP32. -/
def softmaxOver (temp : W32) (logits : List W32) : List W32 :=
  let z := logits.map fun v => fpDiv v temp
  let mu := fpTreeMax z
  let es := z.map fun v => fpExp (fpSub v mu)
  let sigma := fpTreeSum es
  es.map fun e => fpDiv e sigma

/-- Choose a token from the logits of one step.  DESIGN CHOICE (log 87): the kept total is the running FP32 sum of the kept list, and
TOP_P times it is rounded to FP32 before the comparison. -/
def sampleToken (b : AnswerBlock) (step : Nat) (logits : List W32) : Nat :=
  if b.temperature &&& 0x7FFFFFFF#32 = 0 then argmax logits
  else
    let p := softmaxOver b.temperature logits
    let sorted := sortBy (fun x y => !(rankNum x.2).lt (rankNum y.2)) (p.zipIdx.map fun e => (e.2, e.1))
    let kept := if b.sampleTopK = 0 then sorted else sorted.take b.sampleTopK
    let sums := runningSums 0 (kept.map (·.2))
    let cut := cutAfter (fpMul b.topP (sums.getLastD 0)) (kept.zip sums)
    let cutSums := runningSums 0 (cut.map (·.2))
    let target := (drawU b.seed step).num.mul (fpNum (cutSums.getLastD 0))
    match (cut.zip cutSums).find? fun e => target.lt (fpNum e.2) with
    | some e => e.1.1
    | none => (cut.getLastD (0, 0)).1

end Sys2Proof.Machine
end

