-- ==== Sys2Proof/Machine/Ask.lean ====
section
/-! DEFINITION. Accepting an answer request (chapter 2): the request block, its validation, the bound and admission, the
batch it joins, its reservations, and what a stage's start decides (R34 to R36, R43 to R49, R53, R75, R148, R355, R357). -/

namespace Sys2Proof.Machine

open Sys2Proof

/-! ### The request block (R34, R35) -/

/-- A value of 0 stands for the default. -/
def orDefault (v d : Nat) : Nat := if v = 0 then d else v

/-- The block's fields, with defaults put in. -/
def parseAnswer (buf : Buf) : AnswerBlock :=
  let v := Buf.le buf 0 128
  let f := fun lo n => bitsOf v lo n
  let w32 := fun lo => BitVec.ofNat 32 (f lo 32)
  let w64 := fun lo => BitVec.ofNat 64 (f lo 64)
  { filterArgLen := f 960 16, topP := w32 928, temperature := w32 896, seed := w64 832, sampleTopK := f 800 16, maxNew := f 784 16
    rerankTokens := orDefault (f 774 10) 384, strict := decide (f 773 1 = 1), widenMax := f 770 3, mode := f 768 2
    queryLen := f 752 16, tokenBudget := f 736 16, k := f 720 16, nRerank := orDefault (f 704 16) 100
    nExact := orDefault (f 688 16) 2000, nprobe := orDefault (f 672 16) 1024, deadlineUs := f 640 32, filterImage := w32 608
    genModel := w32 576, rerankModel := w32 544, embedModel := w32 512, indexVersion := f 480 32, indexHandle := w32 448
    handoffLen := f 416 32, resultLen := f 384 32, handoffConn := w32 352, handoffRkey := w32 320, resultRkey := w32 288
    queryRkey := w32 256, handoffAddr := w64 192, resultAddr := w64 128, queryAddr := w64 64, reqTag := w64 0
    rsv := decide (f 976 48 ≠ 0) || decide (f 816 16 ≠ 0) }

def modeRetrieve : Nat := 0
def modePack : Nat := 1
def modeHandoff : Nat := 2
def modeAnswer : Nat := 3

/-- The request fetches passages (table *Stages run by each mode*). -/
def AnswerBlock.fetches (b : AnswerBlock) : Bool := decide (b.mode ≠ modeRetrieve) || decide (b.rerankModel ≠ 0)
def AnswerBlock.packs (b : AnswerBlock) : Bool := decide (b.mode ≠ modeRetrieve)
def AnswerBlock.generates (b : AnswerBlock) : Bool := decide (b.mode = modeHandoff ∨ b.mode = modeAnswer)

/-! ### Validation (R36, R47, R58, R78, R143, R145, R146) -/

/-- Bytes of the records and the prompt section before the answer section (table *Result buffer layout*). -/
def AnswerBlock.recordsEnd (b : AnswerBlock) : Nat := 64 + 32 * b.k
def AnswerBlock.minResult (b : AnswerBlock) : Nat := b.recordsEnd + (if b.packs then 4 * b.tokenBudget else 0)
def AnswerBlock.answerOff (b : AnswerBlock) : Nat := ceilDiv (b.recordsEnd + 4 * b.tokenBudget) 8 * 8

/-- Every field lies in its stated range. -/
def AnswerBlock.rangesOk (b : AnswerBlock) : Bool :=
  !b.rsv && decide (b.filterArgLen ≤ 256) && (b.filterImage != 0 || b.filterArgLen == 0)
    && decide (1 ≤ b.rerankTokens ∧ b.rerankTokens ≤ 512) && decide (b.widenMax ≤ 4) && decide (1 ≤ b.queryLen ∧ b.queryLen ≤ 8192)
    && (!b.packs || decide (1 ≤ b.tokenBudget)) && decide (1 ≤ b.k) && (!b.fetches || decide (b.nRerank ≤ 1024))
    && decide (b.nExact ≤ 16384) && decide (b.nprobe ≤ 16384) && decide (b.resultAddr.toNat % 8 = 0)
    && (decide (b.mode ≠ modeAnswer) || (decide (1 ≤ b.maxNew ∧ b.maxNew ≤ 8192) && fpFinite b.temperature && !fpLt b.temperature 0
        && fpLt 0 b.topP && !fpLt fpOne b.topP && fpFinite b.topP))
    && (b.generates == decide (b.genModel ≠ 0))

/-- The fields agree with each other. -/
def AnswerBlock.sizesOk (b : AnswerBlock) : Bool :=
  decide (b.nprobe * 2 ^ b.widenMax ≤ 65536)
    && (if b.fetches then decide (b.k ≤ b.nRerank) && decide (b.nRerank ≤ b.nExact) else decide (b.k ≤ b.nExact))
    && decide (b.minResult ≤ b.resultLen)

/-- A handle of an object released before the request's accept event is stale (R47). -/
def heldAt (sid : Nat) (rel : Option Nat) : Bool := match rel with | none => true | some r => decide (sid < r)

/-- The index, the bound models and the filter a request names, where its handles are not stale. -/
def State.reqIndex (s : State) (sid : Nat) (h : W32) : Option Index := (s.index? h).filter fun x => heldAt sid x.releasedAt
def State.reqModel (s : State) (sid : Nat) (h : W32) : Option Model :=
  (s.model? h).filter fun m => heldAt sid m.releasedAt && m.binder.isNone
def State.reqFilter (s : State) (sid : Nat) (h : W32) : Option Filter := (s.filter? h).filter fun f => heldAt sid f.releasedAt

/-- The image of a model handle. -/
def State.modelImage (s : State) (h : W32) : Option Image := (s.model? h).bind fun m => s.image? m.image

/-- The image of a bound model has the class (R131). -/
def State.classIs (s : State) (h : W32) (cls : Nat) : Bool := match s.modelImage h with | some im => im.header.cls == cls | none => true

/-- The template of R38 and its tokeniser. -/
def State.templateOf (s : State) (b : AnswerBlock) : List TemplateItem × Option Tokeniser :=
  let of := fun h => (s.modelImage h).bind fun im => im.template.map fun t => (t, im.tokeniser)
  let emb := s.modelImage b.embedModel
  if b.genModel ≠ 0 then (of b.genModel).getD (plainTemplate, none)
  else if b.rerankModel ≠ 0 then (of b.rerankModel).getD (plainTemplate, none)
  else
    match emb.bind fun im => im.template.map fun t => (t, im.tokeniser) with
    | some p => if hasPassages p.1 then p else (plainTemplate, emb.bind (·.tokeniser))
    | none => (plainTemplate, emb.bind (·.tokeniser))

/-- What the generator's image asks of a request (R36, R146). -/
def State.genOk (s : State) (b : AnswerBlock) : Bool :=
  match s.modelImage b.genModel with
  | none => true
  | some im =>
    let h := im.header
    if b.mode = modeHandoff then decide (b.tokenBudget ≤ h.maxSeq) && decide (h.layers * b.tokenBudget * h.kvBytes ≤ b.handoffLen)
    else decide (b.tokenBudget + b.maxNew ≤ h.maxSeq)

/-- The version a request binds to (R64, R65, R355); on a plot member every member's summary must be held. -/
def State.boundVersion (s : State) (x : Index) (sid : Nat) : Nat :=
  let seen := fun (v : Version) => match x.plot with
    | none => true
    | some p => decide (v.number = 0) || s.ranks.all fun r => s.fabric.summaries.any fun y => y.plot == p && y.version == v.number && y.rank == r
  let best := (x.versions.filter fun v => decide (v.pubSeq < sid) && seen v).foldl
    (fun (m : Option Version) v => match m with | none => some v | some w => if w.pubSeq < v.pubSeq ∨ (w.pubSeq = v.pubSeq ∧ w.number < v.number) then some v else some w) none
  match best with | some v => v.number | none => 0

def State.reqVersion (s : State) (x : Index) (sid : Nat) (b : AnswerBlock) : Nat :=
  if b.indexVersion = 0 then s.boundVersion x sid else b.indexVersion

/-- The reserved bits of the handles of a block are 0 (R18, R155). -/
def AnswerBlock.handlesOk (b : AnswerBlock) : Bool :=
  [b.indexHandle, b.embedModel, b.rerankModel, b.genModel, b.filterImage, b.handoffConn].all handleRsvOk

/-- BAD_FIELD of an answer request (R36 and the rules it gathers). -/
def State.answerBad (s : State) (u : Sub) (b : AnswerBlock) (query : Buf) : Bool :=
  let x := s.reqIndex u.sid b.indexHandle
  !b.rangesOk || !b.sizesOk || !b.handlesOk || decide (u.entry.length.toNat ≠ 128) || !s.genOk b
    || (match x with
        | some x => decide (x.params.partitions < b.nprobe * 2 ^ b.widenMax) || decide (x.current < b.indexVersion)
            || (match s.modelImage b.embedModel with | some im => im.digest != x.params.embedDigest | none => false)
        | none => false)
    || !s.classIs b.embedModel clsEmbed || !s.classIs b.rerankModel clsRerank || !s.classIs b.genModel clsGen
    || (match s.reqFilter u.sid b.filterImage with | some f => decide (b.filterArgLen < f.argLen) | none => false)
    || !utf8Ok (query.take b.queryLen) || (b.packs && decide (b.tokenBudget < literals (s.templateOf b).1))

/-- STALE_HANDLE of an answer request. -/
def State.answerStale (s : State) (u : Sub) (b : AnswerBlock) : Bool :=
  (s.reqIndex u.sid b.indexHandle).isNone || (s.reqModel u.sid b.embedModel).isNone
    || (b.rerankModel != 0 && (s.reqModel u.sid b.rerankModel).isNone) || (b.genModel != 0 && (s.reqModel u.sid b.genModel).isNone)
    || (b.filterImage != 0 && (s.reqFilter u.sid b.filterImage).isNone)
    || (decide (b.mode = modeHandoff) && !s.connOpen b.handoffConn)

/-- Pages of the key-value pool a request reserves (R148). -/
def State.kvNeed (s : State) (b : AnswerBlock) : Nat :=
  match s.modelImage b.genModel with
  | none => 0
  | some im => if b.mode = modeHandoff then im.header.layers * ceilDiv b.tokenBudget 16
      else if b.mode = modeAnswer then im.header.layers * ceilDiv (b.tokenBudget + b.maxNew) 16 else 0

/-- The model image of a handle is DAMAGED. -/
def State.modelDamaged (s : State) (h : W32) : Bool := match s.modelImage h with | some im => im.damaged | none => false

/-- A version is retained, and no retirement of it was accepted before the request (R47, R66). -/
def Index.versionOpen (x : Index) (sid n : Nat) : Bool :=
  match x.version? n with
  | some v => heldAt sid v.retiredAt
  | none => false

/-- Statuses of an answer request that do not depend on time (R36, R46, R50, R148, R182). -/
def State.answerErrs (s : State) (u : Sub) (b : AnswerBlock) (query : Buf) : List Status :=
  let x := s.reqIndex u.sid b.indexHandle
  when (s.answerBad u b query) .badField ++ when (s.answerStale u b) .staleHandle
    ++ (match x with
        | none => []
        | some x =>
          let n := s.reqVersion x u.sid b
          when (decide (1 ≤ b.indexVersion ∧ b.indexVersion ≤ x.current) && !x.versionOpen u.sid b.indexVersion) .versionGone
            ++ when (!s.hasAccess u.client x.creator b.indexHandle) .denied
            ++ when (x.tableDamaged || (match x.version? n with | some v => v.dirDamaged | none => false)) .damaged)
    ++ when (!s.isReady bitIndex || !s.isReady bitLoom || !s.isReady bitFlashmap) .notReady
    ++ when (decide (b.mode = modeHandoff) && decide (8 ≤ s.hp.exports.length)) .noResource
    ++ when (match s.model? b.genModel with
        | some m => decide ((s.freePages m).length < s.kvNeed b) || !s.dirRoom (s.kvNeed b)
        | none => false) .noResource
    ++ when (s.modelDamaged b.embedModel) .damaged

/-! ### Terms of the bound, in picoseconds (R43, R443, R357) -/

/-- F of the step in force times a term, rounded up (log 39). -/
def State.scaled (s : State) (ps : Nat) : Nat := ceilDiv (ps * stepFactor s.power.step) 100

/-- Partitions read by pass i. -/
def passCount (nprobe i : Nat) : Nat := if i = 0 then nprobe else nprobe * 2 ^ (i - 1)

/-- The partitions of pass i of a probe list. -/
def passSlice (nprobe i : Nat) (probes : List Nat) : List Nat :=
  if i = 0 then probes.take nprobe else (probes.drop (nprobe * 2 ^ (i - 1))).take (nprobe * 2 ^ (i - 1))

/-- Record counts of a channel by partition. -/
def partCounts (recs : List (SliceId × Nat × Rec)) (c : Nat) : List Nat :=
  let here := (recs.filter fun r => r.1.channel == c).map fun r => r.1.partition
  (nub here).map fun p => (here.filter (· == p)).length

/-- The sum of the n largest. -/
def sumTop (n : Nat) (l : List Nat) : Nat := sumOf ((sortBy (fun a b => decide (b ≤ a)) l).take n)

/-- Channels that hold records. -/
def holding (recs : List (SliceId × Nat × Rec)) : List Nat := (List.range 128).filter fun c => recs.any fun r => r.1.channel == c

/-- R_i of a version for n partitions. -/
def admissionFigure (recs : List (SliceId × Nat × Rec)) (n : Nat) : Nat := maxOf ((holding recs).map fun c => sumTop n (partCounts recs c))

/-- A pass term in ns: 1.4 ms + 20 ns × R. -/
def passNs (r : Nat) : Nat := 1400000 + 20 * r

/-- B_rr in ps of an exchange of n bytes: 0.3 ms + n / 12.5 GB/s (R352). -/
def exchangePs (n : Nat) : Nat := 300000000 + 80 * n

/-- Sieve-pass time reserved ahead on the channels that hold records of the version (W_scan), in ns. -/
def State.waitNs (s : State) (recs : List (SliceId × Nat × Rec)) : Nat := maxOf ((holding recs).map s.queuedNs)

/-- A member's pass term and its W_scan, in ns, from its summary and its LOAD (R357). -/
def State.memberNs (s : State) (recs : List (SliceId × Nat × Rec)) (plot version n rank : Nat) : Nat :=
  if rank = s.ownRank then passNs (admissionFigure recs n) + s.waitNs recs
  else
    match s.fabric.summaries.find? fun y => y.plot == plot && y.version == version && y.rank == rank with
    | some y => passNs (sumTop n y.counts) + (s.peer rank).load
    | none => 0

/-- The term of one pass over n partitions, in ps. -/
def State.passPs (s : State) (x : Index) (v : Version) (b : AnswerBlock) (n : Nat) : Nat :=
  let recs := x.allRecs v
  match x.plot with
  | none => 1000 * passNs (admissionFigure recs n)
  | some p => 1000 * maxOf (s.ranks.map (s.memberNs recs p v.number n)) + exchangePs (96 + 4 * n + b.filterArgLen + 18 * b.nExact)

/-- The terms of a request's bound, but W_loom. -/
def State.termsOf (s : State) (x : Index) (v : Version) (b : AnswerBlock) : Terms :=
  let hdr := fun h => match s.modelImage h with | some im => im.header | none => {}
  let d := x.params.dim
  let plotted := x.plot.isSome
  let extra := fun n => if plotted then exchangePs n else 0
  let g := hdr b.genModel
  { acc := 50000000, hold := 1000 * x.params.holdNs, pw := s.scaled 50000000
    embed := s.scaled (hdr b.embedModel).boundA
    probe := s.scaled (100000000 + ceilDiv (300000000 * x.params.partitions * d) (2 ^ 30))
    wscan := if plotted then 0 else 1000 * s.waitNs (x.allRecs v)
    scans := (List.range (b.widenMax + 1)).map fun i => s.passPs x v b (passCount b.nprobe i)
    exact := 1200000000 + 150000 * b.nExact + extra (d + 28 * b.nExact)
    fetch := if b.fetches then 1800000000 + extra (65552 * b.nRerank) else 0
    rerank := if b.rerankModel = 0 then 0 else s.scaled ((hdr b.rerankModel).boundA * b.nRerank * b.rerankTokens)
    pack := if b.packs then 400000000 + 100000 * b.tokenBudget else 0
    gen := if b.mode = modeHandoff then s.scaled (g.boundA * b.tokenBudget + 80 * b.tokenBudget * g.kvBytes)
      else if b.mode = modeAnswer then s.scaled (g.boundA * b.tokenBudget + b.maxNew * g.boundB) else 0
    dec := if b.mode = modeAnswer then s.scaled (b.maxNew * g.boundB) else 0
    ret := 50000000 }

/-- The Loom time a request reserves: T_embed + T_probe + T_rerank + T_gen (R44), before the factor of R443. -/
def State.loomOf (s : State) (t : Terms) : LoomTime :=
  let p0 := fun ps => ps * 100 / stepFactor s.power.step
  { embed := p0 t.embed, probe := p0 t.probe, rerank := p0 t.rerank, gen := p0 t.gen }

def LoomTime.total (l : LoomTime) : Nat := l.embed + l.probe + l.rerank + l.gen

def Terms.list (t : Terms) : List Nat :=
  [t.acc, t.hold + t.pw + t.embed, t.probe, t.wscan + sumOf t.scans, t.exact, t.fetch, t.rerank, t.pack, t.gen, t.ret]

/-- A stage's place in the order of the path. -/
def Stage.place : Stage → Nat
  | .accept => 0 | .embed => 1 | .probe => 2 | .scan => 3 | .exact => 4 | .fetch => 5 | .rerank => 6 | .pack => 7
  | .prefill => 8 | .decode => 8 | .ret => 9 | .done => 10

/-- The full terms of the stages after `st`. -/
def Terms.after (t : Terms) (st : Stage) : Nat := sumOf (t.list.drop (st.place + 1))

/-- The full term of a stage; prefill's takes in the decode or export that follows it. -/
def Terms.own (t : Terms) (st : Stage) : Nat := if st = .decode then t.dec else t.list.getD st.place 0

/-- The terms of the stages a request has not completed, each in full (R44). -/
def Req.remaining (r : Req) : Nat := r.terms.own r.stage + r.terms.after r.stage

/-! ### Admission (R43, R44, R46) -/

/-- A request's place in the Loom order of R44: deadline, then accept order. -/
def loomKey (count : W64) (us sid : Nat) : Nat × Nat := (if us = 0 then 2 ^ 128 else count.toNat + countsOfUs us, sid)
def Req.key (r : Req) : Nat × Nat := loomKey r.count r.block.deadlineUs r.sid
def keyBefore (a b : Nat × Nat) : Bool := decide (a.1 < b.1) || (a.1 == b.1 && decide (a.2 < b.2))

/-- Requests admitted and not completed. -/
def State.admitted (s : State) : List Req := s.ans.reqs.filter fun r => decide (r.stage ≠ .done) && s.live r.sid

/-- Loom time still reserved by admitted requests with a deadline no later than the key (W_loom). -/
def State.loomAhead (s : State) (key : Nat × Nat) (rs : List Req) : Nat :=
  s.scaled (sumOf ((rs.filter fun r => keyBefore r.key key).map fun r => r.loom.total))

/-- A request's recomputed bound keeps its deadline. -/
def State.keepsDeadline (s : State) (rs : List Req) (extra : Nat) (r : Req) : Bool :=
  inTime (s.elapsed r.count) (s.loomAhead r.key rs + r.remaining + extra) r.block.deadlineUs

/-- The new request, and those it would be served before, keep their deadlines.  `late` is what the takeovers in progress at its
accept event still had to run (R43). -/
def State.feasible (s : State) (r : Req) (late : Nat) : Bool :=
  let rs := s.admitted
  inTime 0 (sumOf r.terms.list + r.terms.wloom + late) r.block.deadlineUs
    && (rs.filter fun q => keyBefore r.key q.key && decide (r.key.1 < q.key.1)).all (s.keepsDeadline (rs ++ [r]) 0)

/-! ### Batches (R53) -/

/-- The index and version of a request. -/
def State.reqData (s : State) (r : Req) : Option (Index × Version) :=
  (s.index? r.block.indexHandle).bind fun x => (x.version? r.version).map fun v => (x, v)

/-- The members of a batch. -/
def State.batchReqs (s : State) (b : Batch) : List Req := s.ans.reqs.filter fun r => b.members.contains r.sid

/-- The pass terms of a batch: partition counts of the members summed, capped at the index's partitions. -/
def State.unionTerms (s : State) (x : Index) (v : Version) (rs : List Req) : List Nat :=
  (List.range (maxOf (rs.map fun r => r.block.widenMax) + 1)).map fun i =>
    let n := sumOf ((rs.filter fun r => decide (i ≤ r.block.widenMax)).map fun r => passCount r.block.nprobe i)
    match rs with
    | r :: _ => s.passPs x v r.block (min n x.params.partitions)
    | [] => 0

/-- A request has a pass reserved behind one of the batch's on a channel the batch reads. -/
def State.behind (s : State) (b : Batch) (q : Req) : Bool :=
  let rec walk : List Nat → List Reservation → Bool
    | _, [] => false
    | chans, v :: r =>
      if b.members.contains v.sid then walk (chans ++ v.channels) r
      else if v.sid = q.sid ∧ v.channels.any chans.contains then true else walk chans r
  walk [] s.ans.reservations

/-- The test of R53 for an admitted request and an open batch. -/
def State.mayJoin (s : State) (r : Req) (b : Batch) : Bool :=
  match s.reqData r with
  | none => false
  | some (x, v) =>
    let old := (s.batchReqs b).filter fun q => q.sid != r.sid
    let all := old ++ [r]
    let terms := s.unionTerms x v all
    let grow := sumOf terms - sumOf (s.unionTerms x v old)
    let rs := s.admitted
    let memberOk := fun (m : Req) => s.keepsDeadline rs 0 { m with terms := { m.terms with scans := terms.take (m.block.widenMax + 1) } }
    b.isOpen && b.index == r.block.indexHandle && b.version == r.version && b.embed == r.block.embedModel
      && decide (old.length < 64) && all.all memberOk && (s.admitted.filter (s.behind b)).all (s.keepsDeadline rs grow)

/-- Set the reservation figures of a batch's passes to the union's. -/
def State.setPassNs (s : State) (members : List Nat) (terms : List Nat) : State :=
  { s with ans := { s.ans with
      reservations := updWhere (fun v => members.contains v.sid) (fun v => { v with ns := terms.getD v.pass 0 / 1000 }) s.ans.reservations } }

/-- The scan terms of the members of a batch become those of its union (R53). -/
def State.setScanTerms (s : State) (members : List Nat) (terms : List Nat) : State :=
  { s with ans := { s.ans with
      reqs := updWhere (fun r => members.contains r.sid)
        (fun r => { r with terms := { r.terms with scans := terms.take (r.block.widenMax + 1) } }) s.ans.reqs } }

/-- The request joins the first open batch that takes it, or opens one; a batch of 64 closes. -/
def State.joinBatch (s : State) (r : Req) : State :=
  match s.ans.batches.find? (s.mayJoin r) with
  | some b =>
    let members := b.members ++ [r.sid]
    let terms := match s.reqData r with | some (x, v) => s.unionTerms x v (s.batchReqs b ++ [r]) | none => []
    let s := { s with ans := { s.ans with
      batches := updWhere (fun y => y.id == b.id) (fun y => { y with members := members, isOpen := decide (members.length < 64) }) s.ans.batches } }
    (s.setPassNs members terms).setScanTerms members terms
  | none =>
    let b : Batch := { id := s.ans.nextBatch, index := r.block.indexHandle, version := r.version, embed := r.block.embedModel, members := [r.sid] }
    { s with ans := { s.ans with batches := s.ans.batches ++ [b], nextBatch := s.ans.nextBatch + 1 } }

/-- Reservations of every pass on every channel that holds records of the bound version (R75). -/
def reservationsFor (r : Req) (chans : List Nat) : List Reservation :=
  (List.range (r.block.widenMax + 1)).map fun i =>
    { sid := r.sid, pass := i, channels := chans, ns := r.terms.scans.getD i 0 / 1000 }

/-- Admit a request: it takes its pages, its export reservation, its passes and its place in a batch. -/
def State.admitReq (s : State) (r : Req) (chans : List Nat) : State :=
  let b := r.block
  let s := match s.model? b.genModel, s.modelImage b.genModel with
    | some m, some im => s.addPages m im r.pages
    | _, _ => s
  let s := if b.mode = modeHandoff then
      ({ s with hp := { s.hp with exports := s.hp.exports ++ [r.sid] } } : State).modConn b.handoffConn fun c => { c with reservations := c.reservations + 1 }
    else s
  let s := { s with ans := { s.ans with reservations := s.ans.reservations ++ reservationsFor r chans } }
  ({ s with ans := { s.ans with reqs := s.ans.reqs ++ [r] } } : State).joinBatch r

/-- ANSWER: the accepted submission starts; its job, version and deadline count from its accept event (R33). -/
def execAnswer (sid : Nat) (s : State) : Outcome := .next (s.run sid 0x10 fun _ s => s.start sid)

/-- The number of firmware's request slot that a request takes, by which row groups name it (R94): the lowest free of 256
(DESIGN CHOICE, log 90). -/
def State.freeReqSlot (s : State) (sid : Nat) : Nat := (lowestFree (s.admitted.map (·.slot)) 256).getD (sid % 256)

/-- The request as admission makes it. -/
def State.newReq (s : State) (u : Sub) (b : AnswerBlock) (query : Buf) (x : Index) (v : Version) : Req :=
  let terms := s.termsOf x v b
  let toks := match s.modelImage b.embedModel with
    | some im => (match im.tokeniser with | some t => (t.encode (query.take b.queryLen)).take im.header.maxInput | none => [])
    | none => []
  let r : Req :=
    { sid := u.sid, count := u.count, block := b, stage := .embed, version := v.number, query := query.take b.queryLen
      loads := if x.plot.isSome then s.others.map fun r => (r, (s.peer r).load) else []
      queryTokens := toks, filterArgs := Buf.slice query (ceilDiv b.queryLen 8 * 8) b.filterArgLen, terms := terms
      loom := s.loomOf terms, slot := s.freeReqSlot u.sid
      pages := match s.model? b.genModel with | some m => (s.freePages m).take (s.kvNeed b) | none => []
      holds := [b.indexHandle, b.embedModel, b.rerankModel, b.genModel, b.filterImage].filter (· ≠ 0) }
  { r with terms := { terms with wloom := s.loomAhead ((loomKey u.count b.deadlineUs u.sid).1, 2 ^ 128) s.admitted } }

/-- ANSWER_BLOCK_READ: the block and the query are there; the request is validated and admitted, or ends (R34 to R36, R43). -/
def execAnswerBlockRead (sid : Nat) (block query : Option Buf) (s : State) : Outcome :=
  .next (match s.sub? sid with
    | none => s
    | some u =>
      if u.entry.opcode = 0x10 ∧ u.due = none ∧ u.running = true ∧ s.ans.reqs.any (fun r => r.sid == sid) = false then
        s.withB u block fun buf =>
          match query with
          | none => s.accessError u
          | some q =>
            let b := parseAnswer buf
            match u.preset ++ s.answerErrs u b q with
            | [] =>
              (match s.reqIndex sid b.indexHandle with
                | none => s.failWith sid .staleHandle
                | some x =>
                  let v := (x.version? (s.reqVersion x sid b)).getD { number := 0 }
                  let r := s.newReq u b q x v
                  if s.feasible r u.takeoverPs then s.admitReq r (holding (x.allRecs v)) else s.failWith sid .infeasible)
            | l => s.failWith sid (firstStatus l)
      else s)

/-- BATCH_CLOSE: the oldest member has waited T_hold (R53). -/
def execBatchClose (batch : Nat) (s : State) : Outcome :=
  .next { s with ans := { s.ans with batches := updWhere (fun b => b.id == batch) (fun b => { b with isOpen := false }) s.ans.batches } }

end Sys2Proof.Machine
end

