-- ==== Sys2Proof/Machine/Answer.lean ====
section
/-! DEFINITION. The stages of an answer request (chapter 2): embed, probe, sieve passes, merge and widening, exact, fetch,
re-rank, pack, prefill and export, decode, result; cheaper paths and deadlines (R37 to R42, R48 to R56, R73 to R83, R150, R356). -/

namespace Sys2Proof.Machine

open Sys2Proof

/-! ### Requests in place -/

def State.modAns (s : State) (f : Answers → Answers) : State := { s with ans := f s.ans }

/-- Put a request back. -/
def State.setReq (s : State) (r : Req) : State := s.modAns fun a => { a with reqs := updWhere (fun x => x.sid == r.sid) (fun _ => r) a.reqs }

/-- A request that still has its outcome before it. -/
def State.req? (s : State) (sid : Nat) : Option Req := (s.ans.reqs.find? fun r => r.sid == sid).filter fun _ => s.live sid

/-- Act on a request that stands at a stage. -/
def State.atStage (s : State) (sid : Nat) (st : Stage) (body : Req → State) : State :=
  match s.req? sid with
  | some r => if r.stage = st then body r else s
  | none => s

/-- Release a request's reservations (R75). -/
def State.releasePasses (s : State) (p : Reservation → Bool) : State :=
  s.modAns fun a => { a with reservations := a.reservations.filter fun v => !p v }

/-! ### Cheaper paths at a stage's start (R49, R50) -/

/-- The deadline has passed and no further stage runs (R51). -/
def Req.stopped (r : Req) : Bool := (r.missed && !r.block.strict) || r.status.isSome

/-- The stage's full term and those of all later stages exceed the time left, in a request with STRICT 0 (R49). -/
def State.tooLate (s : State) (r : Req) (st : Stage) : Bool :=
  !r.block.strict && !inTime (s.elapsed r.count) (r.terms.own st + r.terms.after st) r.block.deadlineUs

/-- An exchange of class 1 with a member for a request (R352, R356). -/
def State.askMember (s : State) (r : Req) (rank : Nat) (kind : Msg) (values : List Nat) : State :=
  let id := s.fabric.nextExchange
  (s.modFabric fun f => { f with exchanges := f.exchanges ++ [{ id := id, rank := rank, kind := 1, sid := r.sid }], nextExchange := id + 1 }).sendMsg
    rank kind (r.sid :: values)

/-- Send a message to each of several members and await their replies. -/
def State.askAll (s : State) (r : Req) (ranks : List Nat) (kind : Msg) (values : Nat → List Nat) : State :=
  ranks.foldl (fun s m => s.askMember r m kind (values m)) (s.setReq { r with awaiting := ranks })

/-- The version a request reads contains a DAMAGED slice (R81). -/
def State.meetsDamage (s : State) (r : Req) : Bool :=
  match s.reqData r with
  | none => false
  | some (x, v) => (x.allRecs v).any fun y => s.sliceDamaged x y.1

/-- The result is written next; what remains of the Loom time is released.  A request that a status ends has no results (R50, R356). -/
def State.toRet (s : State) (r : Req) : State :=
  (s.releasePasses fun v => v.sid == r.sid).setReq
    { r with stage := .ret, loom := {}, awaiting := [], sawDamaged := r.sawDamaged || s.meetsDamage r
             merged := if r.status.isSome then [] else r.merged }

/-- Generation, which HANDOFF and ANSWER run (R37, R50, R183). -/
def State.toGen (s : State) (r : Req) : State :=
  if r.stopped ∨ ¬ r.block.generates then s.toRet r
  else if s.modelDamaged r.block.genModel ∨ r.kvDamaged = true ∨ s.tooLate r .prefill = true then s.toRet { r with cpGen := true }
  else s.setReq { r with stage := .prefill }

/-- Pack, outside RETRIEVE. -/
def State.toPack (s : State) (r : Req) : State :=
  let r := { r with loom := { r.loom with rerank := 0 } }
  if r.stopped ∨ ¬ r.block.packs then s.toRet r else s.setReq { r with stage := .pack }

/-- Re-rank, when RERANK_MODEL is not 0. -/
def State.toRerank (s : State) (r : Req) : State :=
  if r.stopped then s.toRet r
  else if r.block.rerankModel = 0 then s.toPack r
  else if s.modelDamaged r.block.rerankModel ∨ s.tooLate r .rerank = true then s.toPack { r with cpRerank := true }
  else s.setReq { r with stage := .rerank }

/-- Members that hold candidates, other than this sled. -/
def State.candMembers (s : State) (r : Req) : List Nat := (nub (r.merged.map (·.member))).filter fun m => m != s.ownRank

/-- The index of a request is a member of a plot index. -/
def State.isPlotReq (s : State) (r : Req) : Bool := match s.index? r.block.indexHandle with | some x => x.plot.isSome | none => false

/-- Fetch of the best N_RERANK. -/
def State.toFetch (s : State) (r : Req) : State :=
  if r.stopped ∨ ¬ r.block.fetches then s.toRet r
  else
    let r := { r with merged := r.merged.take r.block.nRerank }
    if s.tooLate r .fetch then s.toRerank { r with cpFetch := true, merged := r.merged.map fun c => { c with lost := true } }
    else
      let r := { r with stage := .fetch }
      if s.isPlotReq r then
        s.askAll r (s.candMembers r) .plotFetch fun m => (r.merged.filter fun c => c.member == m).map (·.locator.toNat)
      else s.setReq r

/-- Exact scoring of the merged list. -/
def State.toExact (s : State) (r : Req) : State :=
  if r.stopped then s.toRet (if r.missed then { r with merged := [] } else r)
  else if s.tooLate r .exact then s.toFetch { r with cpExact := true }
  else
    let r := { r with stage := .exact }
    if s.isPlotReq r then
      s.askAll r (s.candMembers r) .plotExact fun m => (r.merged.filter fun c => c.member == m).map (·.locator.toNat)
    else s.setReq r

/-- A request that ends before the merge has no results (R50, R51, R356). -/
def State.endEarly (s : State) (r : Req) : State := s.toRet { r with merged := [] }

/-! ### Embed (R53, R59, R70) -/

/-- The input of an EMBED image: its template with the query's tokens, no passage placed (R143, R144). -/
def Image.embedInput (im : Image) (query : List Nat) : List Nat :=
  (im.template.getD [.query]).flatMap fun i => match i with | .literal l => l | .query => query | .passages _ _ => []

/-- The embedding that the image computes from the query's tokens: the image's own function of them (R54, R55, log 91). -/
def Image.embedding (im : Image) (query : List Nat) (dim : Nat) : List W32 :=
  (List.range dim).map (Config.embedding im.digest (im.embedInput query))

/-- The embedding of one member is there. -/
def State.embedded (s : State) (r : Req) : State :=
  match s.index? r.block.indexHandle, s.modelImage r.block.embedModel with
  | none, _ | _, none => s
  | some x, some im =>
    let q := (im.embedding r.queryTokens x.params.dim).map fun v => quantise v x.params.scale
    let r := { r with q := q, sketch := x.sketchOf q, loom := { r.loom with embed := 0 } }
    if s.modelDamaged r.block.embedModel then s.endEarly { r with status := some .damaged }
    else if r.stopped then s.endEarly r
    else s.setReq { r with stage := .probe }

/-- EMBED_COMPLETE: the embed picks of a closed batch have finished, for each of its members. -/
def execEmbedComplete (batch : Nat) (s : State) : Outcome :=
  .next (match s.ans.batches.find? fun b => b.id == batch && !b.isOpen with
    | none => s
    | some b => b.members.foldl (fun s sid => s.atStage sid .embed s.embedded) s)

/-! ### Probe and passes (R69, R75, R356) -/

/-- Channels that hold records of the partitions of a pass and serve them. -/
def State.passChannels (s : State) (r : Req) (i : Nat) : List Nat :=
  match s.reqData r with
  | none => []
  | some (x, v) =>
    let parts := passSlice r.block.nprobe i r.probes
    (holding ((x.allRecs v).filter fun y => parts.contains y.1.partition)).filter fun c => !s.channelOut c

/-- Members of the plot that hold records of the pass's partitions, by their summaries. -/
def State.passMembers (s : State) (r : Req) (i : Nat) : List Nat :=
  match s.index? r.block.indexHandle with
  | none => []
  | some x =>
    let parts := passSlice r.block.nprobe i r.probes
    (s.others.filter fun m => s.fabric.summaries.any fun y =>
      some y.plot == x.plot && y.version == r.version && y.rank == m && parts.any fun p => decide (0 < y.counts.getD p 0))

/-- Pass i begins: on a plot, the members concerned are asked (R356). -/
def State.startPass (s : State) (r : Req) (i : Nat) : State :=
  let r := { r with stage := .scan, pass := i }
  if s.isPlotReq r then
    s.askAll r (s.passMembers r i) .plotScan fun _ => [r.version, r.sketch.toNat, r.block.filterImage.toNat, r.block.nExact, i]
  else s.setReq r

/-- Reservations stand where the pass has records; the rest are released (R75). -/
def State.narrowPasses (s : State) (r : Req) : State :=
  s.modAns fun a => { a with
    reservations := (updWhere (fun v => v.sid == r.sid)
      (fun v => { v with channels := v.channels.filter (s.passChannels r v.pass).contains }) a.reservations).filter fun v => v.channels != [] }

/-- The probe list of one member is fixed. -/
def State.probed (s : State) (r : Req) : State :=
  match s.index? r.block.indexHandle with
  | none => s
  | some x =>
    let r := { r with probes := (x.probeList r.q).take (r.block.nprobe * 2 ^ r.block.widenMax), loom := { r.loom with probe := 0 } }
    if x.tableDamaged then s.endEarly { r with status := some .damaged }
    else if r.stopped then s.endEarly r
    else ((s.setReq r).narrowPasses r).startPass r 0

/-- The probe reads the centroid table and the version directory in HBM: it waits on a fetch of either, and pins both (R167, R179, R181). -/
def State.probe (s : State) (r : Req) : State :=
  match s.index? r.block.indexHandle with
  | none => s
  | some x =>
    if s.staging x.tableObj || s.staging (x.dirObj r.version) then s
    else s.pinned x.tableObj fun s => s.pinned (x.dirObj r.version) fun s => s.probed r

/-- PROBE_COMPLETE. -/
def execProbeComplete (batch : Nat) (s : State) : Outcome :=
  .next (match s.ans.batches.find? fun b => b.id == batch with
    | none => s
    | some b => b.members.foldl (fun s sid => s.atStage sid .probe s.probe) s)

/-! ### Sieve passes (R73, R75, R77) -/

/-- The members of a reservation's batch, or its request alone. -/
def State.passGroup (s : State) (v : Reservation) : List Req :=
  s.ans.reqs.filter fun r => s.batchKey r.sid == s.batchKey v.sid && s.live r.sid

/-- A pass is ready: every member of its batch is past the probe, and none is still in an earlier pass. -/
def State.passReady (s : State) (v : Reservation) : Bool :=
  let g := s.passGroup v
  g.all (fun r => decide (Stage.scan.place ≤ r.stage.place) && (decide (r.stage ≠ .scan) || decide (v.pass ≤ r.pass)))
    && g.any fun r => decide (r.stage = .scan ∧ r.pass = v.pass)

/-- A later pass ends no later than the bound of a pass not ready places its start (R75). -/
def State.fitsBefore (s : State) (ns : Nat) (e : Reservation) : Bool :=
  match s.ans.reqs.find? fun r => r.sid == e.sid with
  | none => true
  | some r =>
    let t := r.terms
    let start := t.acc + t.hold + t.pw + t.wloom + t.embed + t.probe + t.wscan + sumOf (t.scans.take e.pass)
    decide (s.elapsed r.count * 1000000 + ns * 1000 * 425 ≤ start * 425)

/-- The pass a channel's sieve runs next: the first ready one, when it ends before each earlier one, none of which is ready, is due
to start (R75). -/
def State.pickPass (s : State) : List Reservation → List Reservation → Option Reservation
  | _, [] => none
  | earlier, v :: r =>
    if s.passReady v then (if earlier.all (s.fitsBefore v.ns) then some v else none) else s.pickPass (earlier ++ [v]) r

/-- The hub of a channel serves it: itself or its buddy. -/
def State.channelServed (s : State) (c : Nat) : Bool :=
  !s.channelOut c && (!(s.fail).hubsRetired.getLsbD (c / 8) || (s.fail).hubsServing.getLsbD (c / 8 ^^^ 1))

/-- SIEVE_PASS_START. -/
def execSievePassStart (channel : Nat) (s : State) : Outcome :=
  .next (if s.channelServed channel = false ∨ s.ans.sieves.any (fun v => v.channel == channel) = true then s
    else
      match s.pickPass [] (s.headsOn channel) with
      | none => s
      | some v =>
        let members := ((s.passGroup v).filter fun r => decide (r.stage = .scan ∧ r.pass = v.pass)).map (·.sid)
        s.modAns fun a => { a with sieves := a.sieves ++ [{ channel := channel, pass := v.pass, members := members }] })

/-- The record passes the request's filter. -/
def State.passesFilter (s : State) (r : Req) (m : W128) : Bool :=
  match s.filter? r.block.filterImage with
  | some f => runFilter m r.filterArgs [] f.words
  | none => true

/-- What a channel contributes to a pass of a request (R73, R81). -/
def State.contribution (s : State) (r : Req) (i c : Nat) : Contribution :=
  match s.reqData r with
  | none => { pass := i, source := c, hub := c / 8 }
  | some (x, v) =>
    let parts := passSlice r.block.nprobe i r.probes
    let recs := (x.allRecs v).filter fun y => y.1.channel == c && parts.contains y.1.partition && !s.sliceDamaged x y.1
    let hits := recs.filter fun y => !v.tombs.contains (y.1, y.2.1) && s.passesFilter r y.2.2.metaBytes
    let cands : List Cand := hits.map fun y =>
      { locator := y.2.2.locator, slice := y.1, ordinal := y.2.1, dist := sketchDist r.sketch y.2.2.sketch, member := s.ownRank }
    { pass := i, source := c, hub := c / 8, list := (sortBy Cand.nearer cands).take (min r.block.nExact 1024), scanned := recs.length }

/-- The extents of sieve records that a pass of a request reads on a channel. -/
def State.sieveReads (s : State) (r : Req) (i c : Nat) : List (W64 × Nat) :=
  match s.reqData r with
  | none => []
  | some (x, v) =>
    let parts := passSlice r.block.nprobe i r.probes
    (x.segments.filter fun g => match g.number with | some n => v.segments.contains n | none => false).flatMap fun g =>
      g.extentsWith x.params.dim c false fun y =>
        parts.contains y.partition && !s.sliceDamaged x { segment := g.number.getD 0, partition := y.partition, channel := c }

/-- SIEVE_PASS_END: the records have been read by the ladder, and slices that cannot be read are DAMAGED (R81, R238); the top lists go to
the merge with their marker; the reservation ends. -/
def execSievePassEnd (channel : Nat) (media : Media) (s : State) : Outcome :=
  .next (match s.ans.sieves.find? fun v => v.channel == channel with
    | none => s
    | some v =>
      let mine := s.ans.reqs.filter fun r => v.members.contains r.sid && decide (r.stage = .scan) && r.pass == v.pass
      let s := s.readRuns media (nub (mine.flatMap fun r => s.sieveReads r v.pass channel))
      let s := s.modAns fun a => { a with
        sieves := a.sieves.filter (fun y => !(y.channel == channel))
        reservations := (updWhere (fun y => v.members.contains y.sid && y.pass == v.pass)
          (fun y => { y with channels := y.channels.filter (· != channel) }) a.reservations).filter fun y => y.channels != [] }
      v.members.foldl (fun s sid => s.atStage sid .scan fun r =>
        if r.pass = v.pass then
          s.setReq { r with contribs := r.contribs ++ [s.contribution r v.pass channel] }
        else s) s)

/-! ### Merge and widening (R79, R82) -/

/-- One channel's list over the passes so far, cut at C; a member's is already cut at N_EXACT. -/
def sourceList (r : Req) (src : Nat) : List Cand :=
  (sortBy Cand.nearer ((r.contribs.filter fun c => c.source == src).flatMap (·.list))).take (if 1000 ≤ src then r.block.nExact else min r.block.nExact 1024)

/-- The merged list. -/
def Req.merge (r : Req) : List Cand :=
  (sortBy Cand.nearer ((nub (r.contribs.map (·.source))).flatMap (sourceList r))).take r.block.nExact

/-- With a DAMAGED slice in the version, this sled's contributions are what they would be if the slice held no records, and its
candidates leave the list (R81). -/
def State.dropDamaged (s : State) (r : Req) : Req :=
  match s.reqData r with
  | none => r
  | some (x, _) =>
    if s.meetsDamage r then
      { r with contribs := r.contribs.map (fun k => if k.source < 1000 then s.contribution r k.pass k.source else k)
               merged := r.merged.filter fun c => !(c.member == s.ownRank && s.sliceDamaged x c.slice) }
    else r

/-- The markers of every channel, and of every member, concerned have arrived. -/
def State.markersIn (s : State) (r : Req) : Bool :=
  r.awaiting.isEmpty && (s.passChannels r r.pass).all fun c => r.contribs.any fun k => k.pass == r.pass && k.source == c

def Req.probesUsed (r : Req) : Nat := r.block.nprobe * 2 ^ r.pass

/-- What the scan does after the merge of a pass. -/
def State.afterMerge (s : State) (r : Req) (partitions : Nat) : State :=
  let n := r.merged.length
  let fin := fun k => (s.releasePasses fun v => v.sid == r.sid).toExact { r with countState := k, scanDone := true }
  if r.status.isSome then s.endEarly r
  else if r.block.k ≤ n then fin 0
  else if r.probesUsed = partitions then fin 1
  else if r.pass = r.block.widenMax then fin 2
  else (s.releasePasses fun v => v.sid == r.sid && v.pass == r.pass).startPass r (r.pass + 1)

/-- MERGE_COMPLETE. -/
def execMergeComplete (sid : Nat) (s : State) : Outcome :=
  .next (s.atStage sid .scan fun r =>
    match s.index? r.block.indexHandle with
    | none => s
    | some x =>
      if s.markersIn r then
        let r := s.dropDamaged r
        let merged := r.merge.map fun c => { c with final := fpOfInt c.dist, scoreStage := 0 }
        s.afterMerge { r with merged := merged } x.params.partitions
      else s)

/-! ### Exact, fetch, re-rank (R50, R83, R145) -/

/-- The vector of a candidate held here. -/
def State.vectorOf (s : State) (r : Req) (c : Cand) : Option (Index × Rec) :=
  (s.reqData r).bind fun d => ((d.1.allRecs d.2).find? fun y => y.1 == c.slice && y.2.1 == c.ordinal).map fun y => (d.1, y.2.2)

/-- The exact score of a candidate; a member's is in the candidate already. -/
def State.scoreOf (s : State) (r : Req) (c : Cand) : W32 :=
  if c.member = s.ownRank then
    match s.vectorOf r c with
    | some (x, y) => x.score r.q y.vector
    | none => c.exact
  else c.exact

/-- The extents of vectors that the exact stage of a request reads on this sled. -/
def State.vectorReads (s : State) (r : Req) (l : List Cand) : List (W64 × Nat) :=
  match s.reqData r with
  | none => []
  | some (x, _) =>
    nub ((l.filter fun c => c.member == s.ownRank && !s.sliceDamaged x c.slice).flatMap fun c =>
      (x.segments.filter fun g => g.number == some c.slice.segment).flatMap fun g =>
        g.extentsWith x.params.dim c.slice.channel true fun y => y.locator == c.locator)

/-- EXACT_COMPLETE: the vectors have been read by the ladder (R238), and candidates are ranked by exact score. -/
def execExactComplete (sid : Nat) (media : Media) (s : State) : Outcome :=
  .next (s.atStage sid .exact fun r =>
    if r.awaiting ≠ [] then s
    else
      let s := s.readRuns media (s.vectorReads r r.merged)
      let r := s.dropDamaged r
      let smaller := match s.index? r.block.indexHandle with | some x => decide (x.params.metric = .l2) | none => false
      let scored := r.merged.map fun c => let v := s.scoreOf r c; { c with exact := v, final := v, scoreStage := 1 }
      s.toFetch { r with merged := sortBy (Cand.before smaller) scored })

/-- The bytes a locator names, unless its extent is DAMAGED or its object was deleted before the request (R50, R243). -/
def State.passageAt (s : State) (sid : Nat) (l : W128) : Option Buf :=
  match s.obj? (locObject l) with
  | none => none
  | some o =>
    if heldAt sid o.deletedAt = false ∨ hostId o.id = false then none
    else
      match s.entry? o.id (locExtent l) with
      | none => some (List.replicate (locLength l) 0)
      | some m => if m.damaged then none else some (Buf.slice (s.pageData m) (locOffset l) (locLength l))

/-- A passage is read by the ladder; none when it cannot be delivered (R50, R238, R243). -/
def State.readPassage (s : State) (media : Media) (sid : Nat) (l : W128) : Option Buf × State :=
  if (s.passageAt sid l).isNone then (none, s)
  else
    let r := s.readExtent media (locObject l) (locExtent l)
    (r.1.map fun b => Buf.slice b (locOffset l) (locLength l), r.2)

/-- Passages are read one after the other. -/
def State.readPassages (s : State) (media : Media) (sid : Nat) (ls : List W128) : List (Option Buf) × State :=
  ls.foldl (fun x l => let r := x.2.readPassage media sid l; (x.1 ++ [r.1], r.2)) ([], s)

/-- FETCH_COMPLETE: the passages have been read by the ladder; what could not be delivered is lost (R50, R238). -/
def execFetchComplete (sid : Nat) (media : Media) (s : State) : Outcome :=
  .next (s.atStage sid .fetch fun r =>
    if r.awaiting ≠ [] then s
    else
      let mine := r.merged.filter fun c => c.member == s.ownRank
      let q := s.readPassages media sid (mine.map (·.locator))
      let take := fun (c : Cand) =>
        if c.member ≠ s.ownRank then c
        else
          match (q.1[mine.idxOf c]?).join with
          | some b => { c with passage := b }
          | none => { c with lost := true }
      let got := r.merged.map take
      q.2.toRerank { r with merged := got, cpFetch := r.cpFetch || got.any (·.lost) })

/-- The input of a RERANK image for one pair: the passage cut to its first RERANK_TOKENS tokens, and the query to its first tokens so
that literals, query and RERANK_TOKENS passage tokens do not exceed MAX_INPUT (R37, R144, R145). -/
def Image.rerankInput (im : Image) (rerankTokens : Nat) (query passage : List Nat) : List Nat :=
  let t := im.template.getD plainTemplate
  let q := query.take (im.header.maxInput - literals t - rerankTokens)
  t.flatMap fun i => match i with | .literal l => l | .query => q | .passages pre suf => pre ++ passage.take rerankTokens ++ suf

/-- The tokens of a text under an image's tokeniser. -/
def Image.tokens (im : Image) (text : Buf) : List Nat := match im.tokeniser with | some k => k.encode text | none => []

/-- The re-rank score of a passage: the image's own function of its input (R54, R55, log 91). -/
def Image.relevance (im : Image) (rerankTokens : Nat) (query passage : Buf) : W32 :=
  Config.relevance im.digest (im.rerankInput rerankTokens (im.tokens query) (im.tokens passage))

/-- RERANK_COMPLETE: re-rank scores become final; lost passages come after (table *Cheaper paths*). -/
def execRerankComplete (sid : Nat) (s : State) : Outcome :=
  .next (s.atStage sid .rerank fun r =>
    match s.modelImage r.block.rerankModel with
    | none => s
    | some im =>
      if im.damaged then s.toPack { r with cpRerank := true }
      else
        let give := fun (c : Cand) =>
          { c with final := im.relevance r.block.rerankTokens r.query c.passage, scoreStage := 2 }
        let kept := sortBy (Cand.before false) ((r.merged.filter fun c => !c.lost).map give)
        s.toPack { r with merged := kept ++ r.merged.filter (·.lost) })

/-! ### Pack (R38, R39, R144) -/

/-- PACK_COMPLETE. -/
def execPackComplete (sid : Nat) (s : State) : Outcome :=
  .next (s.atStage sid .pack fun r =>
    let t := s.templateOf r.block
    let enc := fun b => match t.2 with | some k => k.encode b | none => []
    let p := packPrompt t.1 r.block.tokenBudget (enc r.query) (r.merged.map fun c => (c, if c.lost then [] else enc c.passage))
    s.toGen { r with prompt := p.1, merged := p.2 })

/-! ### Prefill, export, decode (R40, R56, R150) -/

/-- The key-value row of token t of a layer over a sequence: the keys of heads 0 to KV_HEADS − 1, then their values, in KV_FMT (R147).
A code is the image's own function of the tokens up to t, its key after the positional rotation (R54, R55, log 91). -/
def Image.kvRow (im : Image) (seq : List Nat) (layer t : Nat) : Buf :=
  let h := im.header
  let bits := fmtBits h.kvFmt
  let head := fun (isValue : Bool) (n : Nat) =>
    (List.range h.headDim).map fun e => Config.kvCode im.digest (seq.take (t + 1)) layer t isValue n e % 2 ^ bits
  packCodes bits ((List.range h.kvHeads).flatMap (head false) ++ (List.range h.kvHeads).flatMap (head true))

/-- The page of a request that holds token t of a layer: the pages of a layer follow each other (R148). -/
def Req.page (r : Req) (im : Image) (layer t : Nat) : Nat := r.pages.getD (layer * (r.pages.length / im.header.layers) + t / 16) 0

/-- Firmware writes the row of token t of a layer into the page that holds the token (R147, R149, R168). -/
def State.putRow (s : State) (r : Req) (m : Model) (im : Image) (seq : List Nat) (layer t : Nat) : State :=
  s.writeHome { objId := kvObj m (r.page im layer t), offset := t % 16 * im.header.kvBytes, bytes := im.kvRow seq layer t } s.ownRank

/-- The key-value bytes of tokens of a layer, as the pages hold them. -/
def State.rowsHeld (s : State) (r : Req) (m : Model) (im : Image) (layer lo n : Nat) : Buf :=
  (List.range n).flatMap fun i => Buf.slice (s.homeBytes (kvObj m (r.page im layer (lo + i)))) ((lo + i) % 16 * im.header.kvBytes) im.header.kvBytes

/-- The RDMA WRITEs of one layer's blocks of 16 tokens (R150). -/
def State.exportBlocks (s : State) (r : Req) (m : Model) (im : Image) (layer : Nat) : List Out :=
  let b := r.block
  let h := im.header
  let tokens := r.prompt.length
  (List.range (ceilDiv tokens 16)).map fun j =>
    let off := layer * b.tokenBudget * h.kvBytes + 16 * j * h.kvBytes
    .write b.handoffConn (b.handoffAddr + BitVec.ofNat 64 off) b.handoffRkey (s.rowsHeld r m im layer (16 * j) (min 16 (tokens - 16 * j)))

/-- Prefill has ended: HANDOFF goes to its result, ANSWER to decode. -/
def State.prefillDone (s : State) (r : Req) (h : ImageHeader) : State :=
  if r.block.mode = modeHandoff then
    s.toRet { r with handoffBlocks := h.layers * ceilDiv r.prompt.length 16, handoffBytes := h.layers * r.prompt.length * h.kvBytes }
  else if r.stopped ∨ s.tooLate r .decode = true then s.toRet { r with cpGen := true }
  else s.setReq { r with stage := .decode }

/-- PREFILL_LAYER_COMPLETE: the next layer has signalled; in HANDOFF mode its blocks are exported.  A HANDOFF_CONN that is no
longer open ends the request with NOT_READY (log 41). -/
def execPrefillLayerComplete (sid layer : Nat) (s : State) : Outcome :=
  .next (s.atStage sid .prefill fun r =>
    match s.model? r.block.genModel, s.modelImage r.block.genModel with
    | some m, some im =>
      if layer ≠ r.layersDone then s
      else if im.damaged ∨ r.kvDamaged = true then s.toRet { r with cpGen := true }
      else if r.block.mode = modeHandoff ∧ s.connOpen r.block.handoffConn = false then s.endEarly { r with status := some .notReady }
      else
        let s := (List.range r.prompt.length).foldl (fun s t => s.putRow r m im r.prompt layer t) s
        let outs := if r.block.mode = modeHandoff then s.exportBlocks r m im layer else []
        let r := { r with layersDone := layer + 1, unacked := r.unacked + outs.length }
        let s := s.emits outs
        if r.layersDone = im.header.layers then s.prefillDone r im.header else s.setReq r
    | _, _ => s)

/-- HANDOFF_WRITE_ACKED. -/
def execHandoffWriteAcked (sid : Nat) (s : State) : Outcome :=
  .next (match s.req? sid with
    | some r => s.setReq { r with unacked := r.unacked - 1 }
    | none => s)

/-- The appending picks that the decode range of a GENERATOR, range 1 (log 33), names: one for each layer (R149). -/
def Image.appends (im : Image) : List Nat := match im.entries.find? fun e => e.index == 1 with | some e => e.appends | none => []

/-- A sequence grows by a token: the row of each layer whose appending pick the decode range names goes into the token's page (R149). -/
def State.appendRows (s : State) (r : Req) (m : Model) (im : Image) (seq : List Nat) : State :=
  (List.range im.appends.length).foldl (fun s l => s.putRow r m im seq l (seq.length - 1)) s

/-- DECODE_STEP: one token is sampled from the image's logits, its own function of the sequence (R55, log 91); the end token, MAX_NEW or
the end of the result buffer ends the stage (R56).  The end token is not part of the answer, nor is a token that does not fit (log 42). -/
def execDecodeStep (sid : Nat) (s : State) : Outcome :=
  .next (s.atStage sid .decode fun r =>
    match s.model? r.block.genModel, s.modelImage r.block.genModel with
    | some m, some im =>
      if im.damaged ∨ r.kvDamaged = true then s.toRet { r with cpGen := true }
      else
        match im.tokeniser with
        | none => s
        | some tk =>
          let seq := r.prompt ++ r.genTokens
          let t := sampleToken r.block r.genTokens.length ((List.range im.header.vocab).map (Config.logit im.digest seq))
          let text := r.genText ++ tk.bytes t
          if t = tk.endToken ∨ r.block.resultLen < r.block.answerOff + text.length then s.toRet r
          else
            let r := { r with genTokens := r.genTokens ++ [t], genText := text }
            let s := s.appendRows r m im (seq ++ [t])
            if r.block.maxNew ≤ r.genTokens.length then s.toRet r else s.setReq r
    | _, _ => s)

/-! ### Results (R40 to R42, R52) -/

/-- The records a request writes. -/
def Req.results (r : Req) : List Cand := r.merged.take r.block.k

/-- A result record. -/
def Cand.record (c : Cand) (rank : Nat) : Buf :=
  leBytes 32 (c.locator.toNat * 2 ^ 128 + c.final.toNat * 2 ^ 96 + c.exact.toNat * 2 ^ 64 + c.dist * 2 ^ 48 + rank * 2 ^ 32
    + c.tokens * 2 ^ 16 + c.packed.toNat * 8 + c.lost.toNat * 4 + c.scoreStage)

/-- The result header.  COUNT_STATE of a request that ends before any scan of it has ended is not stated: 0 (DESIGN CHOICE, log 87). -/
def Req.header (r : Req) : Buf :=
  let gen := !r.cpGen
  let v := fun (n lo : Nat) => n * 2 ^ lo
  leBytes 64 (v (if gen then r.handoffBlocks else 0) 416 + v (if gen then r.handoffBytes else 0) 384
    + v (sumOf (r.contribs.map (·.scanned))) 320 + v r.queryTokens.length 272 + v r.countState 259 + v r.pass 256 + v (if r.contribs.isEmpty ∧ r.scanDone = false then 0 else r.probesUsed) 224
    + v (if gen then r.genText.length else 0) 192 + v (if gen then r.genTokens.length else 0) 160 + v r.prompt.length 128
    + v r.version 96 + v r.results.length 64 + r.block.reqTag.toNat)

/-- The statuses that apply at the end (R52). -/
def Req.statuses (r : Req) (late : Bool) : List Status :=
  r.status.toList ++ when r.sawDamaged .damaged ++ when (r.missed || late) .deadlineMissed
    ++ when (r.cpExact || r.cpFetch || r.cpRerank || r.cpGen) .degraded ++ when (r.countState == 1) .exhausted ++ when (r.countState == 2) .short

/-- Records, prompt and answer sections, then the header (R40). -/
def State.writeResults (s : State) (u : Sub) (r : Req) : State :=
  let b := r.block
  let put := fun (off : Nat) (bytes : Buf) => if bytes = [] then [] else [Out.write (s.connOf u) (b.resultAddr + BitVec.ofNat 64 off) b.resultRkey bytes]
  s.emits (put 64 (r.results.zipIdx.flatMap fun c => c.1.record c.2) ++ put b.recordsEnd (if b.packs then r.prompt.flatMap (leBytes 4) else [])
    ++ put b.answerOff (if r.cpGen then [] else r.genText) ++ put 0 r.header)

/-- RESULT_WRITE: in HANDOFF mode once every key-value write has been acknowledged; the completion is then due.  When HANDOFF_CONN is no
longer open, the acknowledgements that are missing never come: nothing is written and the request ends with NOT_READY (R40, log 41). -/
def execResultWrite (sid : Nat) (s : State) : Outcome :=
  .next (s.atStage sid .ret fun r =>
    match s.sub? sid with
    | none => s
    | some u =>
      let dead := r.block.mode = modeHandoff ∧ s.connOpen r.block.handoffConn = false
      if r.unacked ≠ 0 then
        (if dead then (s.setReq { r with stage := .done, status := some .notReady, merged := [] }).failWith sid .notReady else s)
      else
        let late := !inTime (s.elapsed r.count) 0 r.block.deadlineUs
        ((s.writeResults u r).setReq { r with stage := .done }).finish sid
          { status := firstStatus (r.statuses late), flags := r.flagSet
            result0 := BitVec.ofNat 64 (r.results.length + 2 ^ 32 * r.version) })

/-! ### Time running short (R49, R51) -/

/-- A candidate of a fetch that is cut short: one of this sled is held when it has been delivered, one of a member when the member
has replied; any other is lost (R49, R50). -/
def State.cutFetch (s : State) (r : Req) (delivered : List W128) (c : Cand) : Cand :=
  if c.member = s.ownRank then
    match if delivered.contains c.locator then s.passageAt r.sid c.locator else none with
    | some b => { c with passage := b }
    | none => { c with lost := true }
  else if r.awaiting.contains c.member then { c with lost := true } else c

/-- The stage in progress takes its cheaper path: its own term of time has run out.  A fetch ends at once with the passages it
holds (log 43). -/
def State.cheaper (s : State) (r : Req) (delivered : List W128) : State :=
  match r.stage with
  | .exact => s.toFetch { r with cpExact := true, awaiting := [], merged := r.merged.map fun c => { c with exact := 0 } }
  | .fetch => s.toRerank { r with cpFetch := true, awaiting := [], merged := r.merged.map (s.cutFetch r delivered) }
  | .rerank => s.toPack { r with cpRerank := true }
  | .prefill | .decode => s.toRet { r with cpGen := true }
  | _ => s

/-- CHEAPER_PATH: the time left has fallen to the terms of the later stages, in a request with STRICT 0 and a deadline (R49);
or the model image the stage waits on has become DAMAGED (R50). -/
def execCheaperPath (sid : Nat) (delivered : List W128) (s : State) : Outcome :=
  .next (match s.req? sid with
    | none => s
    | some r =>
      let damaged := match r.stage with
        | .rerank => s.modelDamaged r.block.rerankModel
        | .prefill | .decode => s.modelDamaged r.block.genModel || r.kvDamaged
        | _ => false
      if (r.block.strict = false ∧ r.block.deadlineUs ≠ 0) ∨ damaged = true then s.cheaper r delivered else s)

/-- DEADLINE_EXPIRY: the stage runs to its end and no further stage runs; with STRICT 1 every stage runs (R51).  A stage with a
cheaper path has taken it by then. -/
def execDeadlineExpiry (sid : Nat) (s : State) : Outcome :=
  .next (match s.req? sid with
    | none => s
    | some r =>
      if r.block.deadlineUs = 0 then s
      else
        let r := { r with missed := true }
        if r.block.strict then s.setReq r else (s.setReq r).cheaper r [])

end Sys2Proof.Machine
end

