-- ==== Sys2Proof/Machine/Tables.lean ====
section
/-! DEFINITION. Embedding tables (chapter 8): geometry, placement, lookups, row updates, hot-row migration, replacement by a
two-phase commit, checkpoints and restoration (R185 to R206). -/

namespace Sys2Proof.Machine

open Sys2Proof

def State.modTables (s : State) (f : Tables → Tables) : State := { s with tables := f s.tables }

/-- Change the table of an index. -/
def State.modTable (s : State) (i : Nat) (f : Table → Table) : State :=
  s.modTables fun t => { t with list := updWhere (fun x => x.index == i) f t.list }

def State.tableAt (s : State) (i : Nat) : Option Table := s.tables.list.find? fun t => t.index == i

def Table.handle (t : Table) : W32 := mkHandle t.gen kindTable t.index
def Table.modVersion (t : Table) (n : Nat) (f : TableVersion → TableVersion) : Table :=
  { t with versions := updWhere (fun v => v.number == n) f t.versions }

/-! ### CREATE_TABLE and DELETE_TABLE (R185) -/

/-- The descriptor's fields (table *Table descriptor*). -/
def parseTableDesc (b : Buf) : TableDesc :=
  let v := Buf.le b 0 64
  let f := fun lo n => bitsOf v lo n
  { hotWindow := f 160 32, hotShare := f 152 8, fmt := f 144 4, dim := f 128 16, shards := f 112 16, sharded := decide (f 96 2 = 1)
    rows := f 24 40
    rsv := decide (f 192 320 ≠ 0) || decide (f 148 4 ≠ 0) || decide (f 98 14 ≠ 0) || decide (f 64 32 ≠ 0) || decide (f 0 24 ≠ 0)
      || decide (2 ≤ f 96 2) }

/-- The descriptor is in order; a replicated version is at most 4 GiB (R187). -/
def TableDesc.ok (d : TableDesc) : Bool :=
  !d.rsv && (d.hotWindow == 0 || (decide (1024 ≤ d.hotWindow) && decide (51 ≤ d.hotShare ∧ d.hotShare ≤ 100)))
    && [0x0, 0x2, 0x9, 0xA, 0xC].contains d.fmt && decide (1 ≤ d.dim ∧ d.dim ≤ 4096) && decide (1 ≤ d.shards ∧ d.shards ≤ 1024)
    && (d.sharded || d.shards == 1) && decide (1 ≤ d.rows) && (d.sharded || decide (65536 * d.blocks ≤ 2 ^ 32))

/-- The next map version: 32 bits (R190). -/
def nextMap (v : Nat) : Nat := (v + 1) % 2 ^ 32

/-- The table enters this rank's list; its keepers are fixed by the ranks of the plot (R190, R337). -/
def State.addTable (s : State) (index gen creator : Nat) (d : TableDesc) : State :=
  let ranks := s.ranks
  s.modTables fun x => { x with list := x.list ++ [{ index := index, gen := gen, desc := d, creator := creator, keepers := ranks }] }

/-- CREATE_TABLE; the other ranks of the plot are told. -/
def execCreateTable (sid : Nat) (b : Option Buf) (s : State) : Outcome :=
  .next (s.run sid 0x30 fun u s => s.withB u b fun buf =>
    let d := parseTableDesc buf
    let slot := lowestFree (s.tables.list.map (·.index)) 256
    let i := slot.getD 0
    s.settle u (when (!d.ok || decide (u.entry.length.toNat ≠ 64)) .badField ++ when slot.isNone .noResource) fun s =>
      let gen := genFor s.tables.gens i
      ((s.addTable i gen u.client d).sendAll .newTable ([i, gen, u.client] ++ buf.map (·.toNat))).complete u
        (BitVec.ofNat 64 (mkHandle gen kindTable i).toNat) 0)

/-- A graft job of the plot tunes the table (R203, R207). -/
def State.graftOn (s : State) (h : W32) : Bool := s.grafts.list.any fun g => g.desc.table == h

/-- A version goes with its blocks, its homes, its checkpoint and its HBM copy. -/
def State.dropTableVersion (s : State) (i n : Nat) : State :=
  match s.tableAt i with
  | none => s
  | some t =>
    match t.version? n with
    | none => s
    | some v =>
      let ids := (s.tiers.homes.filter fun h => !h.gone && h.objId == rowBlockObj i n (blockOfObj h.objId)).map (·.objId)
      let s := ids.foldl State.dropHome s
      let s := if v.hbmCopy then s.freeHbm poolTable v.hbmAddr (rowBlockObj i n 0) else s
      let s := v.checkpoint.foldl (fun s c => s.eraseObj (tableCkptObj i n c.1)) s
      let s := if t.desc.sharded then s else s.eraseObj (rowBlockObj i n 0)
      let s := (t.arrivals.filter fun a => a.version == n).foldl (fun s a => s.freeHbm poolTable a.addr (rowBlockObj i n a.block)) s
      s.modTable i fun t =>
        { t with versions := t.versions.filter (fun v => !(v.number == n)), freedTo := max t.freedTo n
                 arrivals := t.arrivals.filter (fun a => !(a.version == n)), stubs := t.stubs.filter fun x => !(x.version == n) }

/-- A job is held here on a version of a table: by an accepted lookup, a redirected sub-lookup, or a running graft job (R192, R228). -/
def State.tableJob (s : State) (t : Table) (n : Nat) : Bool :=
  t.held.any (fun q => q.version == n)
    || s.sasel.subs.any (fun u => u.due.isNone && names u.entry.handleA kindTable t.gen t.index && (match u.bound with | some b => b.version == n | none => false))
    || s.grafts.list.any (fun g => g.desc.table == t.handle && g.desc.tableVersion == n
        && (decide (g.phase ≠ .stopped) || s.sasel.subs.any fun u => u.due.isNone && decide (u.entry.opcode.toNat = 0x45) && names u.entry.handleA kindGraft g.gen g.index))

/-- A table goes from this rank with its versions and its grants. -/
def State.removeTable (s : State) (t : Table) : State :=
  let s := (t.versions.map (·.number)).foldl (fun s n => s.dropTableVersion t.index n) s
  let s := s.modTables fun x => { x with list := x.list.filter (fun y => !(y.index == t.index)), gens := bumpGen x.gens t.index
                                         toRestore := x.toRestore.filter (· != t.index) }
  { s with sasel := { s.sasel with grants := s.sasel.grants.filter fun g => !(g.1 == t.handle) } }

/-- DELETE_TABLE: refused while a graft job or a lookup holds it. -/
def execDeleteTable (sid : Nat) (s : State) : Outcome :=
  .next (s.run sid 0x31 fun u s =>
    match s.table? u.entry.handleA with
    | none => s.settle u [.staleHandle] fun s => s
    | some t =>
      s.settle u (when (s.graftOn t.handle || t.versions.any (fun v => s.tableJob t v.number)) .noResource) fun s =>
        ((s.removeTable t).sendAll .dropTable [t.index]).completeOk u)

/-! ### Reading rows (R168, R175, R193) -/

/-- The bytes of a block held here: at its home, or as loaded for a replicated version. -/
def State.blockBytes (s : State) (t : Table) (version block : Nat) : Buf :=
  if t.desc.sharded then s.homeBytes (rowBlockObj t.index version block)
  else match t.version? version with | some v => (assocGet block v.loaded).getD [] | none => []

/-- The stored values of a row. -/
def State.rowOf (s : State) (t : Table) (version row : Nat) : List W32 :=
  rowValues t.desc.fmt t.desc.dim (Buf.slice (s.blockBytes t version (t.desc.blockOf row)) (t.desc.byteOf row) t.desc.rowBytes)

/-- acc + weight × x, product then sum, each in FP32. -/
def mulAdd (w : W32) (acc x : List W32) : List W32 := (acc.zip x).map fun p => fpAdd p.1 (fpMul w p.2)

def zeroRow (dim : Nat) : List W32 := List.replicate dim 0

/-- The partial of one bag. -/
def partialOf (dim : Nat) (row : Nat → List W32) (es : List LookupEntry) : List W32 :=
  es.foldl (fun acc e => mulAdd e.weight acc (row e.row)) (zeroRow dim)

/-- Where a block has gone from here: to the peer that its entry names, or a stub (R189, R200). -/
def State.movedTo (s : State) (t : Table) (version block : Nat) : Option Nat :=
  match s.home? (rowBlockObj t.index version block) with
  | some h => if h.tier = .peer then some (homeRank h.addr) else none
  | none => (t.stubs.find? fun x => x.version == version && x.block == block).map (·.rank)

/-- A block cannot be read: DAMAGED, or without a home here. -/
def State.blockBad (s : State) (t : Table) (version block : Nat) : Bool :=
  (match t.version? version with | some v => v.damaged.contains block | none => true)
    || (t.desc.sharded && (match s.home? (rowBlockObj t.index version block) with | some h => h.damaged | none => true))

/-- A server's partials, one for each bag with entries; `far` are rows as a new home answered them, none where their block is DAMAGED
(R193, R196, R200). -/
def State.partialsFor (s : State) (t : Table) (version rank : Nat) (es : List LookupEntry) (far : List (Nat × Option Buf)) : Partials :=
  let bad := fun (e : LookupEntry) => match assocGet e.row far with | some b => b.isNone | none => s.blockBad t version (t.desc.blockOf e.row)
  let row := fun r => match assocGet r far with | some (some b) => rowValues t.desc.fmt t.desc.dim b | _ => s.rowOf t version r
  { rank := rank, failed := nub ((es.filter bad).map (·.bag))
    bags := (nub (es.map (·.bag))).map fun b => (b, partialOf t.desc.dim row (es.filter fun e => e.bag == b)) }

/-- The objects that a server reads here for entries: row blocks of a sharded table homed here and not DAMAGED. -/
def State.homesRead (s : State) (t : Table) (version : Nat) (es : List LookupEntry) : List W64 :=
  if t.desc.sharded then
    ((nub (es.map fun e => t.desc.blockOf e.row)).filter fun b => (s.movedTo t version b).isNone && !s.blockBad t version b).map
      (rowBlockObj t.index version)
  else []

/-- Row blocks are read at their flash homes; one that cannot be read is DAMAGED (R183, R238). -/
def State.readBlocks (s : State) (media : Media) (ids : List W64) : State :=
  let onFlash := ids.filter fun id => match s.home? id with | some h => decide (h.tier = .flash) | none => false
  let r := s.readExtents media (onFlash.map fun id => (id, 0))
  r.1.foldl (fun s x => s.mutableLost x.1) r.2

/-! ### Migrations (R198 to R201) -/

/-- Stubs that this rank holds as keeper. -/
def State.stubCount (s : State) : Nat :=
  let own := s.ownRank
  sumOf (s.tables.list.map fun t => (t.stubs.filter fun x => t.keeper x.block == own).length)

/-- A migration may start: exceptions, stubs, and the table pool of a destination here; a peer answers for its own (R198). -/
def State.migrateErrs (s : State) (t : Table) (dest : Nat) : List Status :=
  when (decide (65536 ≤ t.exceptions.length) || decide (4096 ≤ s.stubCount) || (dest == s.ownRank && !s.poolRoom poolTable 65536)) .noResource

/-- The keeper starts a migration, or it waits as a move does (R173, R199).  From one peer to another is two (R189). -/
def State.startMigration (s : State) (t : Table) (block dest : Nat) (sid : Option Nat) : State :=
  let id := rowBlockObj t.index t.current block
  let own := s.ownRank
  if dest = own then s.requestMove id .hbm 0 sid
  else if t.server block ≠ own then (s.requestMove id .hbm 0 none).requestMove id .peer dest sid
  else s.requestMove id .peer dest sid

/-- Rows a rank sent are counted at the keeper; a full window with one dominant rank starts a migration (R198). -/
def State.countHot (s : State) (i rank : Nat) (e : LookupEntry) : State :=
  match s.tableAt i with
  | none => s
  | some t =>
    let b := t.desc.blockOf e.row
    if !t.desc.sharded || t.desc.hotWindow == 0 || t.keeper b != s.ownRank then s
    else
      let h := (t.hot.find? fun h => h.block == b).getD { block := b }
      let per := assocSet rank ((assocGet rank h.perRank).getD 0 + 1) h.perRank
      let total := sumOf (per.map (·.2))
      if total < t.desc.hotWindow then s.modTable i fun t => { t with hot := upsert (fun x => x.block == b) { block := b, perRank := per } t.hot }
      else
        let s := s.modTable i fun t => { t with hot := t.hot.filter fun x => !(x.block == b) }
        match per.find? fun p => decide (t.desc.hotShare * total ≤ 100 * p.2) with
        | none => s
        | some p => if p.1 = t.server b ∨ s.migrateErrs t p.1 ≠ [] then s else s.startMigration t b p.1 none

/-- The rows of a sub-lookup of the current version are counted, by the rank that sent them. -/
def State.countRows (s : State) (t : Table) (version rank : Nat) (es : List LookupEntry) : State :=
  if version = t.current then es.foldl (fun s e => s.countHot t.index rank e) s else s

/-- MIGRATE_BLOCK: to a peer, or back to the keeper (R189, R198); DAMAGED blocks do not move (R176). -/
def execMigrateBlock (sid : Nat) (s : State) : Outcome :=
  .next (s.run sid 0x34 fun u s =>
    match s.table? u.entry.handleA with
    | none => s.settle u [.staleHandle] fun s => s
    | some t =>
      let b := u.entry.arg0.toNat
      let d := u.entry.arg1.toNat
      let home := s.home? (rowBlockObj t.index t.current b)
      s.settle u
        (when (!t.desc.sharded || decide (t.desc.blocks ≤ b) || !s.ranks.contains d || t.keeper b != s.ownRank || home.isNone) .badField
          ++ s.migrateErrs t d ++ when (match home with | some h => h.damaged | none => false) .damaged)
        fun s => if t.server b = d then s.completeOk u else (s.start u.sid).startMigration t b d (some u.sid))

/-- A rank has acknowledged a map version: stubs that every rank has acknowledged go. -/
def State.acknowledge (s : State) (i rank v : Nat) : State :=
  let ranks := s.ranks
  s.modTable i fun t =>
    let stubs := t.stubs.map fun b => if b.mapVersion ≤ v ∧ ¬ b.acked.contains rank then { b with acked := b.acked ++ [rank] } else b
    { t with stubs := stubs.filter fun b => !ranks.all b.acked.contains }

/-- Acknowledge adopted map versions once no lookup bound to an older one, and no update sent under one, is outstanding (R201). -/
def State.settleAcks (s : State) (i : Nat) : State :=
  match s.tableAt i with
  | none => s
  | some t =>
    let bound := s.sasel.subs.filterMap fun u => if u.due.isNone && names u.entry.handleA kindTable t.gen i then u.bound.map (·.mapVersion) else none
    let sent := (s.tables.updates.filter fun r => r.table == i && r.away != []).map (·.mapVersion)
    let ready := t.owedAcks.filter fun v => !(bound ++ sent).any fun o => decide (o < v)
    let s := s.modTable i fun t => { t with owedAcks := t.owedAcks.filter fun v => !ready.contains v }
    let own := s.ownRank
    ready.foldl (fun s v => (s.sendAll .mapAck [i, v]).acknowledge i own v) s

/-- The message that carries a row update of a rank to a server: rank, submission, table, version, row, REPLACE, payload. -/
def State.sendUpdate (s : State) (dest rank sid table version row : Nat) (replace : Bool) (payload : Buf) : State :=
  s.sendMsg dest .rowUpdate ([rank, sid, table, version, row, replace.toNat] ++ payload.map (·.toNat))

/-- Waiting updates of a block are forwarded to its new home, in arrival order; it answers them (R199). -/
def State.forwardWrites (s : State) (t : Table) (id : W64) (rank : Nat) : State :=
  let ws := s.tiers.writes.filter fun w => w.objId == id
  let s := s.modTiers fun x => { x with writes := x.writes.filter fun w => !(w.objId == id) }
  let own := s.ownRank
  ws.foldl (fun s w =>
    let row := w.key.getD 2 0
    let o := w.origin.getD (own, 0)
    let moved := fun (r : RowUpdates) => { r with awaiting := r.awaiting - 1, away := r.away ++ [(row, rank)] }
    let s := if o.1 = own then s.modTables fun x => { x with updates := updWhere (fun r => r.sid == o.2) moved x.updates } else s
    s.sendUpdate rank o.1 o.2 t.index t.current row w.add.isNone w.bytes) s

/-- The copy of a block that has arrived becomes its home here: the entry is valid from the flip on (R189, R199). -/
def State.settleArrival (s : State) (t : Table) (block : Nat) : State :=
  match t.arrivals.find? fun a => a.version == t.current && a.block == block with
  | none => s
  | some a =>
    let id := rowBlockObj t.index t.current block
    let s := s.modTable t.index fun t => { t with arrivals := t.arrivals.filter fun x => !(x == a) }
    let s := s.addHome { objId := id, addr := BitVec.ofNat 64 a.addr, lengthM1 := 1023, owner := t.handle, tier := .hbm, destTier := .hbm, guest := true }
    (s.modTiers fun x => { x with bytes := assocSet id a.bytes x.bytes }).applyWaitingWrites id

/-! ### Sub-lookups (R192, R193, R200) -/

def State.modLookup (s : State) (sid : Nat) (f : Lookup → Lookup) : State :=
  s.modTables fun t => { t with lookups := updWhere (fun l => l.sid == sid) f t.lookups }

/-- The exchange of a rank for a submission has ended. -/
def State.endExchange (s : State) (rank kind sid : Nat) : State :=
  s.modFabric fun f => { f with exchanges := f.exchanges.filter fun x => !(x.rank == rank && x.kind == kind && x.sid == sid) }

/-- A server's partials reach the lookup that awaits them; a reply that nothing awaits is discarded and counted (R352). -/
def State.takePartials (s : State) (sid : Nat) (p : Partials) : State :=
  match s.tables.lookups.find? fun l => l.sid == sid && l.awaiting.contains p.rank with
  | none => s.modFabric fun f => { f with lateReplies := satInc f.lateReplies }
  | some _ =>
    (s.endExchange p.rank 0 sid).modLookup sid fun l =>
      { l with awaiting := l.awaiting.filter (· != p.rank), partials := l.partials ++ [p], damagedBags := l.damagedBags ++ p.failed }

/-- A server's partials go to the accepting rank: submission, each bag with its vector, and the bags that failed. -/
def State.sendPartials (s : State) (rank sid : Nat) (p : Partials) : State :=
  s.sendMsg rank .partials (sid :: p.bags.length :: (p.bags.flatMap fun b => b.1 :: b.2.map (·.toNat)) ++ p.failed)

/-- Serve a sub-lookup: its homes here are pinned, those on flash read by the ladder and asked for in HBM, rows counted and summed, and the
partials go to the accepting rank (R167, R175, R193, R198). -/
def State.serveSub (s : State) (t : Table) (q : SubLookup) (far : List (Nat × Option Buf)) (media : Media) : State :=
  let ids := s.homesRead t q.version q.entries
  let s := ((ids.foldl State.pin s).readBlocks media ids).countRows t q.version q.rank q.entries
  let p := s.partialsFor ((s.tableAt t.index).getD t) q.version s.ownRank q.entries far
  let s := ids.foldl State.promote s
  if q.rank = s.ownRank then s.takePartials q.sid p else s.sendPartials q.rank q.sid p

/-- Every home that a sub-lookup reads here can be pinned; else it waits (R167). -/
def State.canServe (s : State) (t : Table) (q : SubLookup) : Bool := (s.homesRead t q.version q.entries).all s.pinnable

/-- A sub-lookup is taken: blocks that have moved away are read at their new home first, the job on the version held until then (R200);
else it is served. -/
def State.takeSub (s : State) (t : Table) (q : SubLookup) (media : Media) : State :=
  let gone := q.entries.filterMap fun e => (s.movedTo t q.version (t.desc.blockOf e.row)).map fun r => (r, e.row)
  if t.desc.sharded ∧ gone ≠ [] then
    (nub (gone.map (·.1))).foldl
      (fun s r => s.sendMsg r .readRows ([q.sid, t.index, q.version] ++ (gone.filter fun x => x.1 == r).map (·.2)))
      (s.modTable t.index fun t => { t with held := t.held ++ [q] })
  else if s.canServe t q then s.serveSub t q [] media else s

/-- The rows of a redirected sub-lookup are there, or their blocks are home again: it is served (R200). -/
def State.serveHeld (s : State) (t : Table) (q : SubLookup) (rows : List (Nat × Option Buf)) (media : Media) : State :=
  if q.entries.all (fun e => (assocGet e.row rows).isSome || (s.movedTo t q.version (t.desc.blockOf e.row)).isNone) && s.canServe t q then
    (s.modTable t.index fun t => { t with held := t.held.filter (· != q) }).serveSub t q rows media
  else s

def State.settleHeld (s : State) (i : Nat) : State :=
  match s.tableAt i with
  | none => s
  | some t => t.held.foldl (fun s q => s.serveHeld t q [] []) s

/-! ### The flip of a migration (R199, R200) -/

/-- The flip at the keeper: its entry, the map, a stub, the new map to every rank. -/
def State.flipMigration (s : State) (t : Table) (block dest addr : Nat) (bytes : Buf) : State :=
  let id := rowBlockObj t.index t.current block
  let own := s.ownRank
  let out := dest != own
  let v := nextMap t.mapVersion
  let s := s.modTable t.index fun t =>
    { t with mapVersion := v
             exceptions := if out then insertBy (fun a b => decide (a.1 ≤ b.1)) (block, dest) (t.exceptions.filter fun x => !(x.1 == block))
               else t.exceptions.filter fun x => !(x.1 == block)
             stubs := if out then t.stubs ++ [{ version := t.current, block := block, rank := dest, mapVersion := v }] else t.stubs
             owedAcks := t.owedAcks ++ [v] }
  let s := if out then (s.forwardWrites t id dest).modHome id fun h => { h with dest := BitVec.ofNat 64 (dest * 2 ^ 48 + addr) }
    else s.modTiers fun x => { x with bytes := assocSet id bytes x.bytes }
  let s := s.flip id
  let s := if out then s.modTiers fun x => { x with bytes := x.bytes.filter fun y => !(y.1 == id) } else s
  ((s.sendAll .mapUpdate [t.index, v, block, dest, addr]).settleAcks t.index).settleHeld t.index

/-- On a rank that is not the keeper the new map is adopted: an old home forwards what waits there and opens a stub, its bytes going with
their pins; the destination's entry becomes valid (R199, R200). -/
def State.adoptMap (s : State) (t : Table) (block dest : Nat) : State :=
  let id := rowBlockObj t.index t.current block
  let own := s.ownRank
  let old := (s.home? id).isSome && dest != own
  let v := nextMap t.mapVersion
  let s := s.modTable t.index fun t =>
    { t with mapVersion := v, owedAcks := t.owedAcks ++ [v]
             exceptions := if dest = t.keeper block then t.exceptions.filter (fun x => !(x.1 == block))
               else insertBy (fun a b => decide (a.1 ≤ b.1)) (block, dest) (t.exceptions.filter fun x => !(x.1 == block))
             stubs := if old then t.stubs ++ [{ version := t.current, block := block, rank := dest, mapVersion := v }] else t.stubs }
  let s := if old then (s.forwardWrites t id dest).dropHome id else if dest = own then s.settleArrival t block else s
  s.settleAcks t.index

/-- The keeper's entry is in motion to a destination that a flip names. -/
def Home.movesTo (h : Home) (own dest : Nat) : Bool :=
  h.inMotion && ((decide (h.destTier = .peer) && homeRank h.dest == dest) || (decide (h.tier = .peer) && dest == own))

/-- MIGRATION_FLIP: at the keeper, the copy of a migration in motion is complete, at the address the destination gave it, or with its bytes
when the block returns; elsewhere, the new map arrives. -/
def execMigrationFlip (table block dest addr : Nat) (bytes : Buf) (s : State) : Outcome :=
  .next (match s.tableAt table with
    | none => s
    | some t =>
      if t.desc.sharded = false ∨ t.desc.blocks ≤ block then s
      else if t.keeper block = s.ownRank then
        match s.home? (rowBlockObj table t.current block) with
        | some h => if h.movesTo s.ownRank dest then s.flipMigration t block dest addr bytes else s
        | none => s
      else if t.server block ≠ dest then s.adoptMap t block dest else s)

/-- MAP_ACKNOWLEDGE (R201). -/
def execMapAcknowledge (rank table mapVersion : Nat) (s : State) : Outcome := .next (s.acknowledge table rank mapVersion)

/-! ### What the two ends of a migration tell one another (R199, R200) -/

/-- The table whose current version an object's row block belongs to. -/
def State.tableOfObj (s : State) (id : W64) : Option Table :=
  s.tables.list.find? fun t => rowBlockObj t.index t.current (blockOfObj id) == id

/-- The keeper's copy of a block arrives: the destination allocates it in its table pool, or refuses it (R198, R199). -/
def State.takeBlock (s : State) (rank : Nat) (id : W64) (bytes : Buf) : State :=
  match s.tableOfObj id with
  | none => s.sendMsg rank .refuseBlock [id.toNat]
  | some t =>
    if s.dirRoom 1 then
      match s.allocHbm poolTable 65536 id with
      | some (a, s) => s.modTable t.index fun t => { t with arrivals := t.arrivals ++ [{ version := t.current, block := blockOfObj id, addr := a, bytes := bytes }] }
      | none => s.sendMsg rank .refuseBlock [id.toNat]
    else s.sendMsg rank .refuseBlock [id.toNat]

/-- The bytes of a block homed here go to a rank that reads it (R199, R206); its pin is released when they have been delivered. -/
def State.sendBlock (s : State) (rank : Nat) (id : W64) : State :=
  match s.home? id with
  | some h => if h.damaged then s else (s.pin id).sendMsg rank .block (id.toNat :: (s.homeBytes id).map (·.toNat))
  | none => s

/-- The keeper fetches a block homed here: updates wait from now on (R199). -/
def State.holdBlock (s : State) (rank : Nat) (id : W64) : State :=
  (s.modHome id fun h => { h with inMotion := true, destTier := .peer, dest := BitVec.ofNat 64 (rank * 2 ^ 48) }).sendBlock rank id

/-- The keeper has abandoned the move: what it copied here is freed, what waited is applied here (R176, R199). -/
def State.leaveBlock (s : State) (id : W64) : State :=
  match s.tableOfObj id with
  | none => s
  | some t =>
    let gone := t.arrivals.filter fun a => a.version == t.current && a.block == blockOfObj id
    let s := gone.foldl (fun s a => s.freeHbm poolTable a.addr id) s
    let s := s.modTable t.index fun t => { t with arrivals := t.arrivals.filter fun a => !gone.contains a }
    match s.home? id with
    | some h =>
      if h.guest ∧ h.inMotion = true then
        (s.modHome id fun h => { h with inMotion := false, destTier := h.tier, dest := 0 }).applyWaitingWrites id
      else s
    | none => s

/-- Rows of blocks homed here are read for an old home: pinned, and answered each with its bytes, or as DAMAGED (R200). -/
def State.readRows (s : State) (rank sid table version : Nat) (rows : List Nat) : State :=
  match s.tableAt table with
  | none => s
  | some t =>
    let ids := nub (rows.map fun r => rowBlockObj table version (t.desc.blockOf r))
    if ids.all fun id => (s.home? id).isSome then
      let one := fun r => if s.blockBad t version (t.desc.blockOf r) then [r, 0]
        else [r, 1] ++ (Buf.slice (s.blockBytes t version (t.desc.blockOf r)) (t.desc.byteOf r) t.desc.rowBytes).map (·.toNat)
      (ids.foldl State.pin s).sendMsg rank .rows ([sid, table] ++ rows.flatMap one)
    else s

/-! ### Lookups (R191 to R196) -/

/-- A lookup entry (table *Lookup entry*). -/
def parseLookup (b : Buf) : LookupEntry :=
  let v := Buf.le b 0 16
  { weight := BitVec.ofNat 32 (bitsOf v 96 32), bag := bitsOf v 84 12, row := bitsOf v 0 40, rsv := decide (bitsOf v 40 44 ≠ 0) }

def parseLookups (b : Buf) (len : Nat) : List LookupEntry := (List.range (len / 16)).map fun i => parseLookup (Buf.slice b (16 * i) 16)

/-- The statuses of a TABLE_LOOKUP.  A table without a published version has nothing to look up (log 9). -/
def State.lookupErrs (s : State) (u : Sub) (t : Table) (es : List LookupEntry) (bags n : Nat) : List Status :=
  let len := u.entry.length.toNat
  when (decide (len % 16 ≠ 0) || decide (es.length < 1) || decide (262144 < es.length) || decide (u.entry.b2Len < 32 + 4 * bags * t.desc.dim)
      || es.any (fun e => e.rsv || decide (t.desc.rows ≤ e.row) || !fpFinite e.weight || decide (bags ≤ e.bag))
      || (u.bound.isNone && !decide (1 ≤ n ∧ n ≤ t.freedTo))) .badField
    ++ when (decide (1 ≤ n ∧ n ≤ t.freedTo) && u.bound.isNone) .versionGone ++ when (!s.isReady bitTables) .notReady

/-- A sub-lookup is sent to another rank with its entries in list order (R192; R352: an exchange of kind 0). -/
def State.askServer (s : State) (l : Lookup) (rank : Nat) (es : List LookupEntry) : State :=
  let id := s.fabric.nextExchange
  (s.modFabric fun f => { f with exchanges := f.exchanges ++ [{ id := id, rank := rank, kind := 0, sid := l.sid }], nextExchange := id + 1 }).sendMsg
    rank .subLookup ([l.sid, l.table, l.version, l.mapVersion] ++ es.flatMap fun e => [e.row, e.bag, e.weight.toNat])

/-- The server of a row under the map a lookup is bound to (R192). -/
def LookupBound.server (k : LookupBound) (t : Table) (own row : Nat) : Nat :=
  let b := t.desc.blockOf row
  if t.desc.sharded then (assocGet b k.exceptions).getD (t.keeper b) else own

/-- A bound lookup begins: each server gets its entries, this rank takes its own (R192). -/
def State.beginLookup (s : State) (u : Sub) (t : Table) (k : LookupBound) (es : List LookupEntry) (bags : Nat) (media : Media) : State :=
  let own := s.ownRank
  let of := fun r => es.filter fun e => k.server t own e.row == r
  let ranks := nub (es.map fun e => k.server t own e.row)
  let far := ranks.filter (· != own)
  let q : SubLookup := { rank := own, sid := u.sid, version := k.version, mapVersion := k.mapVersion, entries := of own }
  if !s.canServe t q then s
  else
    let l : Lookup :=
      { sid := u.sid, table := t.index, version := k.version, mapVersion := k.mapVersion, bags := bags, entries := es, awaiting := ranks
        sent := ranks.map fun r => (r, nub ((of r).map (·.bag))) }
    let s := (s.start u.sid).modTables fun x => { x with lookups := x.lookups ++ [l] }
    let s := far.foldl (fun s r => s.askServer l r (of r)) s
    let s := s.countRows t k.version own (es.filter fun e => k.server t own e.row != own)
    if ranks.contains own then s.takeSub t q media else s

/-- TABLE_LOOKUP: bound at its accept event (R192). -/
def execTableLookup (sid : Nat) (b : Option Buf) (media : Media) (s : State) : Outcome :=
  .next (s.run sid 0x32 fun u s => s.withB u b fun buf =>
    match s.table? u.entry.handleA with
    | none => s.settle u [.staleHandle] fun s => s
    | some t =>
      let es := parseLookups buf u.entry.length.toNat
      let bags := u.entry.arg2.toNat / 2 ^ 32 + 1
      s.settle u (s.lookupErrs u t es bags (u.entry.arg2.toNat % 2 ^ 32)) fun s =>
        match u.bound with
        | none => s.failWith u.sid .badField
        | some k => s.beginLookup u t k es bags media)

/-- A version is served here: published, or voted YES for (R203). -/
def Table.serves (t : Table) (n : Nat) : Bool := match t.version? n with | some v => v.servable || v.pubSeq.isSome | none => false

/-- SUB_LOOKUP: the server forms one partial for each bag (R193).  Under a map that has not arrived here yet it waits. -/
def execSubLookup (rank sid table version mapVersion : Nat) (entries : List LookupEntry) (media : Media) (s : State) : Outcome :=
  .next (match s.tableAt table with
    | none => s
    | some t =>
      if t.serves version = false ∨ (t.desc.sharded = true ∧ t.mapVersion < mapVersion) then s
      else s.takeSub t { rank := rank, sid := sid, version := version, mapVersion := mapVersion, entries := entries } media)

/-- SUB_LOOKUP_REPLY. -/
def execSubLookupReply (sid : Nat) (p : Partials) (s : State) : Outcome := .next (s.takePartials sid p)

/-- Bags that a lost server would have served (R196). -/
def State.loseServer (s : State) (sid rank : Nat) : State :=
  match s.tables.lookups.find? fun l => l.sid == sid && l.awaiting.contains rank with
  | none => s
  | some _ => (s.endExchange rank 0 sid).modLookup sid fun l =>
      { l with awaiting := l.awaiting.filter (· != rank), lostBags := l.lostBags ++ (assocGet rank l.sent).getD [] }

/-- The result of a bag: partials added in ascending order of the serving rank (R193). -/
def Lookup.bag (l : Lookup) (dim b : Nat) : List W32 :=
  if l.damagedBags.contains b ∨ l.lostBags.contains b then List.replicate dim nan32
  else (sortBy (fun (x y : Partials) => decide (x.rank ≤ y.rank)) l.partials).foldl (fun acc p =>
    match assocGet b p.bags with
    | some v => (acc.zip v).map fun e => fpAdd e.1 e.2
    | none => acc) (zeroRow dim)

def Lookup.failed (l : Lookup) : Nat := (nub (l.damagedBags ++ l.lostBags)).length

/-- The 32-byte header (table *Lookup result header*). -/
def Lookup.header (l : Lookup) : Buf :=
  leBytes 32 (l.failed * 2 ^ 96 + l.entries.length * 2 ^ 64 + l.mapVersion * 2 ^ 32 + l.version)

/-! ### Versions that are no longer held (R205) -/

/-- An old version without jobs here is reported; one that every rank has reported is freed. -/
def State.settleOld (s : State) (i : Nat) : State :=
  match s.tableAt i with
  | none => s
  | some t =>
    let own := s.ownRank
    let ranks := s.ranks
    let old := t.versions.filter fun v => decide (v.number < t.current) && !s.tableJob t v.number
    let s := (old.filter fun v => !v.freeReports.contains own).foldl (fun s v =>
      (s.modTable i fun t => t.modVersion v.number fun v => { v with freeReports := v.freeReports ++ [own] }).sendAll .tableFree [i, v.number]) s
    match s.tableAt i with
    | none => s
    | some t => ((t.versions.filter fun v => decide (v.number < t.current) && !s.tableJob t v.number && ranks.all v.freeReports.contains).map (·.number)).foldl
        (fun s n => s.dropTableVersion i n) s

/-- LOOKUP_RESULT_WRITE: bags, header, and the completion's content (R194, R196). -/
def execLookupResultWrite (sid : Nat) (ok : Bool) (s : State) : Outcome :=
  .next (match s.tables.lookups.find? fun l => l.sid == sid, s.sub? sid with
    | some l, some u =>
      (match s.tableAt l.table with
        | none => s
        | some t =>
          if l.awaiting ≠ [] then s
          else
            let s := s.modTables fun x => { x with lookups := x.lookups.filter fun y => !(y.sid == sid) }
            let s := if u.due.isSome then s
              else if !ok then s.accessError u
              else
                let put := fun (s : State) (off : Nat) (bytes : Buf) =>
                  s.emit (.write (s.connOf u) (u.entry.b2Addr + BitVec.ofNat 64 off) u.entry.b2Rkey bytes)
                let body := (List.range l.bags).flatMap fun b => (l.bag t.desc.dim b).flatMap fun v => leBytes 4 v.toNat
                let st := firstStatus (when (l.lostBags != []) .notReady ++ when (l.damagedBags != []) .damaged)
                (put (put s 32 body) 0 l.header).finish sid { status := st, result0 := BitVec.ofNat 64 l.failed }
            (s.settleOld l.table).settleAcks l.table)
    | _, _ => s)

/-! ### Row updates (R197) -/

/-- A row update: row, REPLACE or ADD, payload. -/
structure RowUpd where
  row : Nat
  replace : Bool
  payload : Buf
  deriving DecidableEq, Repr

/-- The list of updates; none when it is malformed (table *Operand buffers*).  The first argument bounds their number. -/
def parseUpdates (d : TableDesc) : Nat → Buf → Option (List RowUpd)
  | _, [] => some []
  | 0, _ => none
  | n + 1, b =>
    let op := (Buf.at b 5).toNat
    let len := if op = 0 then d.rowBytes else ceilDiv (4 * d.dim) 8 * 8
    if b.length < 16 + len ∨ 1 < op ∨ d.rows ≤ Buf.le b 0 5 ∨ (Buf.slice b 6 10).any (· ≠ 0) then none
    else (parseUpdates d n (b.drop (16 + len))).map fun r =>
      { row := Buf.le b 0 5, replace := decide (op = 0), payload := Buf.slice b 16 (if op = 0 then d.rowBytes else 4 * d.dim) } :: r

/-- An update as a write at the block's home, for a submission of a rank; its answer names submission, table and row. -/
def Table.write (t : Table) (version : Nat) (x : RowUpd) (rank sid : Nat) : WaitingWrite :=
  { objId := rowBlockObj t.index version (t.desc.blockOf x.row), offset := t.desc.byteOf x.row, bytes := x.payload
    add := if x.replace then none else some (t.desc.fmt, t.desc.dim), origin := some (rank, sid), key := [sid, t.index, x.row] }

/-- UPDATE_ROWS: each update goes to its block's server under this rank's map (R197). -/
def execUpdateRows (sid : Nat) (b : Option Buf) (s : State) : Outcome :=
  .next (s.run sid 0x33 fun u s => s.withB u b fun buf =>
    match s.table? u.entry.handleA with
    | none => s.settle u [.staleHandle] fun s => s
    | some t =>
      let n := u.entry.arg2.toNat
      let ups := parseUpdates t.desc u.entry.length.toNat buf
      s.settle u (when (!t.desc.sharded || ups.isNone || decide (t.current < n) || decide (n = 0)) .badField
          ++ when (decide (1 ≤ n ∧ n < t.current)) .versionGone ++ when (!s.isReady bitTables) .notReady) fun s =>
        let l := ups.getD []
        let own := s.ownRank
        let server := fun (x : RowUpd) => t.server (t.desc.blockOf x.row)
        let far := l.filter fun x => server x != own
        let mine := l.filter fun x => server x == own
        let r : RowUpdates := { sid := u.sid, table := t.index, mapVersion := t.mapVersion, awaiting := mine.length
                                away := far.map fun x => (x.row, server x) }
        let s := (s.start u.sid).modTables fun x => { x with updates := x.updates ++ [r] }
        let s := far.foldl (fun s x => s.sendUpdate (server x) own u.sid t.index n x.row x.replace x.payload) s
        let s := mine.foldl (fun s x => s.writeHome (t.write n x own u.sid) own) s
        s.closeUpdates u.sid)

/-- An update reaches a server: applied at the home here, kept until the copy of its block here is valid, forwarded where the block has
gone, or refused for its version or a DAMAGED block (R197, R199, R200). -/
def State.takeUpdate (s : State) (t : Table) (rank sid version row : Nat) (replace : Bool) (payload : Buf) : State :=
  let b := t.desc.blockOf row
  let own := s.ownRank
  let w := t.write version { row := row, replace := replace, payload := payload } rank sid
  if version ≠ t.current then s.answerUpdate own rank sid t.index row .versionGone
  else if t.arrivals.any fun a => a.version == version && a.block == b then s.modTiers fun x => { x with writes := x.writes ++ [w] }
  else
    match s.movedTo t version b with
    | some r => s.sendUpdate r rank sid t.index version row replace payload
    | none =>
      if (s.home? w.objId).isSome then s.writeHome w own
      else if t.server b ≠ own then s.sendUpdate (t.server b) rank sid t.index version row replace payload
      else s.answerUpdate own rank sid t.index row .damaged

/-- ROW_UPDATE_MESSAGE (R197, R200). -/
def execRowUpdateMessage (rank sid table version row : Nat) (replace : Bool) (payload : Buf) (s : State) : Outcome :=
  .next (match s.tableAt table with
    | none => s
    | some t => if t.desc.sharded = false ∨ t.desc.rows ≤ row then s else s.takeUpdate t rank sid version row replace payload)

/-- STUB_FORWARD: a stub, or the keeper's entry, forwards an update, or answers a redirected sub-lookup with the rows it read at
the new home pooled into its own partial (R200). -/
def execStubForward (table block : Nat) (msg : StubMsg) (media : Media) (s : State) : Outcome :=
  .next (match s.tableAt table with
    | none => s
    | some t =>
      match msg with
      | .update rank sid version row replace payload =>
        (match s.movedTo t version block with
          | some r => if t.desc.blockOf row = block ∧ version = t.current then s.sendUpdate r rank sid table version row replace payload else s
          | none => s)
      | .rows rank sid rows =>
        match t.held.find? fun q => q.rank == rank && q.sid == sid with
        | some q => (s.serveHeld t q rows media).settleOld table
        | none => s)

/-! ### Replacing a table (R202 to R205) -/

/-- Rows of one block that a run of rows covers: block, first row, bytes. -/
def TableDesc.runs (d : TableDesc) (first count : Nat) (buf : Buf) : List (Nat × Nat × Buf) :=
  if count = 0 then []
  else (List.range (d.blockOf (first + count - 1) + 1 - d.blockOf first)).map fun k =>
    let b := d.blockOf first + k
    let lo := max first (b * d.perBlock)
    let hi := min (first + count) ((b + 1) * d.perBlock)
    (b, lo, Buf.slice buf ((lo - first) * d.rowBytes) ((hi - lo) * d.rowBytes))

/-- Rows are put into a block of a staged version: on flash, of a sharded table as the block's home, of a replicated one with persistent
stripe parity (R175, R187, R188, R202). -/
def State.loadRun (s : State) (i n : Nat) (run : Nat × Nat × Buf) : State :=
  match s.tableAt i with
  | none => s
  | some t =>
    match t.version? n with
    | none => s
    | some v =>
      let b := run.1
      let id := rowBlockObj i n b
      let block := overlay ((assocGet b v.loaded).getD []) (t.desc.byteOf run.2.1) run.2.2
      let s := s.modTable i fun t => t.modVersion n fun v => { v with loaded := assocSet b block v.loaded }
      if t.desc.sharded then
        let s := if (s.home? id).isSome then s else s.addHome { objId := id, lengthM1 := 1023, owner := t.handle }
        (s.storeExtents id false [(0, block)]).modTiers fun x => { x with bytes := assocSet id block x.bytes }
      else s.storeExtents (rowBlockObj i n 0) true [(b, block)]

/-- The staged version is there for rows to go into. -/
def State.stageVersion (s : State) (t : Table) (n : Nat) : State :=
  if (t.version? n).isSome then s else s.modTable t.index fun t => { t with versions := t.versions ++ [{ number := n }] }

/-- A version, or the room on flash and in the directory, is lacking for rows of a staged version here (R166, R205, R465). -/
def State.noStage (s : State) (t : Table) (n : Nat) (sid : Option Nat) (blocks : List Nat) : Bool :=
  ((t.version? n).isNone && decide (4 ≤ t.versions.length)) || !s.capacityFor sid ((s.blockExtents t n blocks).map (·.1))
    || (t.desc.sharded && !s.dirRoom (blocks.filter fun b => (s.home? (rowBlockObj t.index n b)).isNone).length)

/-- LOAD_TABLE_ROWS: rows in ascending order, each to its keeper, of a replicated table to every rank; the first that fails ends it with
MEDIA_ERROR (R188, R202, R321). -/
def execLoadTableRows (sid : Nat) (b : Option Buf) (failAt : Option Nat) (s : State) : Outcome :=
  .next (s.run sid 0x35 fun u s => s.withB u b fun buf =>
    match s.table? u.entry.handleA with
    | none => s.settle u [.staleHandle] fun s => s
    | some t =>
      let n := u.entry.arg2.toNat
      let first := u.entry.arg3.toNat
      let w := t.desc.rowBytes
      let count := u.entry.length.toNat / w
      let own := s.ownRank
      let blocks := s.blocksHere t first count
      s.settle u
        (when (decide (u.entry.length.toNat % w ≠ 0) || decide (t.desc.rows < first + count) || decide (n ≠ t.current + 1)) .badField
          ++ when (s.noStage t n (some u.sid) blocks) .noResource
          ++ when (failAt.isNone && (s.blockExtents t n blocks).any fun x => s.channelOut x.1) .mediaError)
        fun s =>
          let s := s.stageVersion t n
          let done := match failAt with | some k => min k count | none => count
          let runs := t.desc.runs first done buf
          let s := (runs.filter fun r => t.keeps own r.1).foldl (fun s r => s.loadRun t.index n r) s
          let send := fun (s : State) (r : Nat × Nat × Buf) =>
            let m := [t.index, n, r.2.1] ++ r.2.2.map (·.toNat)
            if !t.desc.sharded then s.sendAll .tableRows m
            else if t.keeper r.1 = own then s else s.sendMsg (t.keeper r.1) .tableRows m
          let s := runs.foldl send s
          if done < count then s.finish u.sid { status := .mediaError, flags := { writeThrottled := u.throttled }, result0 := BitVec.ofNat 64 done }
          else s.complete u (BitVec.ofNat 64 count) 0)

/-- Rows of a staged version arrive from the rank that accepted them, for blocks that this rank keeps (R188, R202).  Without room they are
not taken, and this rank votes NO on the version. -/
def State.takeRows (s : State) (table n first : Nat) (buf : Buf) : State :=
  match s.tableAt table with
  | none => s
  | some t =>
    let count := buf.length / t.desc.rowBytes
    let own := s.ownRank
    let runs := (t.desc.runs first count buf).filter fun r => t.keeps own r.1
    if n ≠ t.current + 1 ∨ t.desc.rows < first + count ∨ s.noStage t n none (runs.map (·.1)) = true then s
    else runs.foldl (fun s r => s.loadRun table n r) (s.stageVersion t n)

/-- Every block this rank keeps of a version is written and verified here. -/
def Table.complete (t : Table) (own : Nat) (v : TableVersion) : Bool :=
  (List.range t.desc.blocks).all fun b => !t.keeps own b || ((assocGet b v.loaded).isSome && !v.damaged.contains b)

/-- The HBM copy of a replicated version (R188). -/
def State.copyTable (s : State) (i n : Nat) : State :=
  match s.tableAt i with
  | none => s
  | some t =>
    if t.desc.sharded ∨ (match t.version? n with | some v => v.hbmCopy | none => true) = true then s
    else
      match s.allocHbm poolTable (65536 * t.desc.blocks) (rowBlockObj i n 0) with
      | some (a, s) => s.modTable i fun t => t.modVersion n fun v => { v with hbmCopy := true, hbmAddr := a }
      | none => s

/-- The vote on a version (R203). -/
def State.votesYes (s : State) (i n : Nat) : Bool :=
  match s.tableAt i with
  | none => false
  | some t =>
    match t.version? n with
    | none => false
    | some v => decide (n = t.current + 1) && t.complete s.ownRank v && (t.desc.sharded || v.hbmCopy) && !s.graftOn t.handle

/-- Vote: a YES makes the version servable here. -/
def State.castVote (s : State) (i n coordinator : Nat) : Bool × State :=
  let s := s.copyTable i n
  if s.votesYes i n then
    (true, s.modTable i fun t => t.modVersion n fun v => { v with servable := true, votedFor := some coordinator })
  else (false, s)

/-- Migrations of a table's blocks that have not flipped, here as keeper, end with a status (R176). -/
def State.endMigrations (s : State) (t : Table) (p : Home → Bool) (st : Status) : State :=
  (s.tiers.homes.filter fun h => !h.gone && !h.guest && h.inMotion && h.objId == rowBlockObj t.index t.current (blockOfObj h.objId)
      && (decide (h.destTier = .peer) || decide (h.tier = .peer)) && p h).foldl (fun s h => s.abandonMove h.objId st) s

/-- A commit makes the version current here, an abort discards it (R203).  The exceptions name homes of blocks of the old version; the new
one has none (R202): they go, MAP_VERSION rising by 1 where there were any, and migrations that have not flipped end (log 94). -/
def State.applyTable (s : State) (i n : Nat) (commit : Bool) : State :=
  match s.tableAt i with
  | none => s
  | some t =>
    if commit then
      let s := s.endMigrations t (fun _ => true) .versionGone
      let e := s.event.1
      let s := s.event.2
      (s.modTable i fun t => { (t.modVersion n fun v => { v with pubSeq := some e, servable := true, votedFor := none }) with
                                 current := n, hot := [], exceptions := []
                                 mapVersion := if t.exceptions = [] then t.mapVersion else nextMap t.mapVersion }).settleOld i
    else (s.dropTableVersion i n).modTable i fun x => { x with freedTo := t.freedTo }

/-- Every rank has confirmed: PUBLISH_TABLE completes (R203). -/
def State.settlePublish (s : State) (i : Nat) : State :=
  match (s.tableAt i).bind (·.publish) with
  | none => s
  | some p =>
    if p.phase = .committed ∧ s.ranks.all p.confirmed.contains = true then
      (s.modTable i fun t => { t with publish := none }).finish p.sid { result0 := BitVec.ofNat 64 p.version }
    else s

/-- The coordinator decides, records the decision on flash and sends it. -/
def State.decideTable (s : State) (i : Nat) (commit : Bool) : State :=
  match (s.tableAt i).bind (·.publish) with
  | none => s
  | some p =>
    let own := s.ownRank
    let s := s.modTable i fun t =>
      { t with decisions := t.decisions ++ [(p.version, commit)]
               publish := if commit then some { p with phase := .committed, confirmed := [own] } else none }
    let s := (s.sendAll .tableDecision [i, p.version, commit.toNat]).applyTable i p.version commit
    if commit then s.settlePublish i else s.failWith p.sid .noResource

/-- A vote counts; all YES is COMMIT, one NO is ABORT. -/
def State.countVote (s : State) (i n rank : Nat) (yes : Bool) : State :=
  match (s.tableAt i).bind (·.publish) with
  | none => s
  | some p =>
    if p.version ≠ n ∨ p.phase ≠ .preparing then s
    else if !yes then s.decideTable i false
    else
      let p := { p with yes := if p.yes.contains rank then p.yes else p.yes ++ [rank] }
      let s := s.modTable i fun t => { t with publish := some p }
      if s.ranks.all p.yes.contains then s.decideTable i true else s

/-- PUBLISH_TABLE: this sled coordinates; it prepares every rank and votes itself (R203). -/
def execPublishTable (sid : Nat) (s : State) : Outcome :=
  .next (s.run sid 0x36 fun u s =>
    match s.table? u.entry.handleA with
    | none => s.settle u [.staleHandle] fun s => s
    | some t =>
      let n := t.current + 1
      s.settle u (when (t.version? n).isNone .badField ++ when t.publish.isSome .noResource) fun s =>
        let own := s.ownRank
        let s := (s.start u.sid).modTable t.index fun t => { t with publish := some { sid := u.sid, version := n } }
        let r := (s.sendAll .tablePrepare [t.index, n]).castVote t.index n own
        r.2.countVote t.index n own r.1)

/-- TABLE_PREPARE. -/
def execTablePrepare (rank table version : Nat) (s : State) : Outcome :=
  .next (if (s.tableAt table).isSome ∧ rank ≠ s.ownRank then
      let r := s.castVote table version rank
      r.2.sendMsg rank .tableVote [table, version, r.1.toNat]
    else s)

/-- TABLE_VOTE. -/
def execTableVote (rank table version : Nat) (yes : Bool) (s : State) : Outcome := .next (s.countVote table version rank yes)

/-- TABLE_PREPARE_TIMEOUT: ABORT (R203). -/
def execTablePrepareTimeout (table : Nat) (s : State) : Outcome :=
  .next (match (s.tableAt table).bind (·.publish) with
    | some p => if p.phase = .preparing then s.decideTable table false else s
    | none => s)

/-- TABLE_DECISION: a rank that voted, or that still holds the version, applies it and confirms a commit (R203, R204). -/
def execTableDecision (table version : Nat) (commit : Bool) (s : State) : Outcome :=
  .next (match s.tableAt table with
    | none => s
    | some t =>
      match t.version? version with
      | none => s
      | some v =>
        if v.pubSeq.isSome ∨ version ≠ t.current + 1 ∨ t.publish.isSome then s
        else
          let s := s.applyTable table version commit
          match v.votedFor with
          | some r => if commit then s.sendMsg r .tableConfirm [table, version] else s
          | none => s)

/-- A rank that voted YES on a version without a decision asks the coordinator (R204). -/
def State.queryTable (s : State) (table : Nat) : State :=
  match s.tableAt table with
  | none => s
  | some t =>
    match t.versions.find? fun v => v.votedFor.isSome && v.votedFor != some s.ownRank with
    | some v => s.sendMsg (v.votedFor.getD 0) .decisionQuery [0, table, v.number]
    | none => s

/-- A rank asks for the decision on a version: the one recorded; a publish that this rank no longer prepares has not committed, and its
decision is ABORT (R203, R204; log 94). -/
def State.answerQuery (s : State) (rank table version : Nat) : State :=
  match s.tableAt table with
  | none => s
  | some t =>
    let preparing : Bool := match t.publish with | some p => p.version == version && decide (p.phase = PublishPhase.preparing) | none => false
    if preparing then s
    else
      let commit : Option Bool := (t.decisions.find? fun d => d.1 == version).map (·.2)
      let s := if commit.isSome then s else s.modTable table fun t => { t with decisions := t.decisions ++ [(version, false)] }
      s.sendMsg rank .tableDecision [table, version, (commit.getD false).toNat]

/-- A rank's report that it holds no job on an old version of a table; one that arrives before this rank has heard the commit counts
(R205). -/
def State.tableFree (s : State) (rank table version : Nat) : State :=
  match s.tableAt table with
  | none => s
  | some t =>
    if version ≤ t.current then
      (s.modTable table fun t => t.modVersion version fun v =>
        { v with freeReports := if v.freeReports.contains rank then v.freeReports else v.freeReports ++ [rank] }).settleOld table
    else s

/-- A member's report of the same for an old version of a plot index (R355). -/
def State.plotFreed (s : State) (rank plot version : Nat) : State :=
  match s.idx.list.find? fun x => x.plot == some plot with
  | none => s
  | some x =>
    if version < x.current then
      (s.modFabric fun f => { f with plotFree := if f.plotFree.contains (plot, version, rank) then f.plotFree else f.plotFree ++ [(plot, version, rank)] }).sweepVersions
        x.handle
    else s

/-- TABLE_VERSION_FREE: a rank reports that it holds no job on an old version, of a table or, with `plot`, of a plot index
(R205, R355). -/
def execTableVersionFree (rank : Nat) (plot : Bool) (id version : Nat) (s : State) : Outcome :=
  .next (if plot then s.plotFreed rank id version else s.tableFree rank id version)

/-- A block of this rank's shards is written to its checkpoint, an object of its own with persistent stripe parity (R206, R234, R239). -/
def State.checkpointBlock (s : State) (i n block : Nat) (bytes : Buf) : State :=
  (s.storeObj (tableCkptObj i n block) true 1 bytes).modTable i fun t =>
    t.modVersion n fun v => { v with checkpoint := assocSet block bytes v.checkpoint }

/-- The bytes of row blocks for a checkpoint, each as one read of its home: here, or on a peer as it was read there (R168, R206). -/
def State.ckptReads (s : State) (homes : List Home) (peers : List (Nat × Buf)) : List (Nat × Buf) :=
  homes.filterMap fun h =>
    let b := blockOfObj h.objId
    if h.tier = .peer then (assocGet b peers).map fun x => (b, x) else some (b, s.homeBytes h.objId)

/-- Ask the peers for the blocks whose bytes are not there yet. -/
def State.askBlocks (s : State) (homes : List Home) (peers : List (Nat × Buf)) : State :=
  (homes.filter fun h => decide (h.tier = .peer) && (assocGet (blockOfObj h.objId) peers).isNone).foldl
    (fun s h => s.sendMsg (homeRank h.addr) .readBlock [h.objId.toNat]) s

/-- CHECKPOINT_TABLE: blocks of this rank's shards homed in HBM here, and those homed on peers, whose bytes it asks for and awaits. -/
def execCheckpointTable (sid : Nat) (ok : Bool) (peers : List (Nat × Buf)) (s : State) : Outcome :=
  .next (s.run sid 0x37 fun u s =>
    match s.table? u.entry.handleA with
    | none => s.settle u [.staleHandle] fun s => s
    | some t =>
      let homes := s.hbmBlocks t t.current
      let fresh := homes.flatMap fun h => s.freshExtents (tableCkptObj t.index t.current (blockOfObj h.objId)) true [0]
      let chans := homes.flatMap fun h => objectChannels (tableCkptObj t.index t.current (blockOfObj h.objId)) true 1
      s.settle u (when (!s.capacityFor (some u.sid) (fresh.map (·.1))) .noResource ++ when (!ok || chans.any s.channelOut) .mediaError) fun s =>
        let blocks := s.ckptReads homes peers
        if blocks.length < homes.length then s.askBlocks homes peers
        else if homes.all Home.pinnable then (blocks.foldl (fun s b => s.checkpointBlock t.index t.current b.1 b.2) s).completeOk u
        else s)

/-- A block of a keeper's shard gets a flash home with its last checkpointed bytes, or its loaded bytes. -/
def State.restoreBlock (s : State) (i n block : Nat) : State :=
  match s.tableAt i with
  | none => s
  | some t =>
    match t.version? n with
    | none => s
    | some v =>
      let id := rowBlockObj i n block
      let bytes := (assocGet block v.checkpoint).getD ((assocGet block v.loaded).getD [])
      let s := (s.modTiers fun x => { x with homes := x.homes.filter fun h => !(h.objId == id) }).addHome
        { objId := id, lengthM1 := 1023, owner := t.handle, damaged := v.damaged.contains block }
      (s.storeObj id false 1 bytes).modTiers fun x => { x with bytes := assocSet id bytes x.bytes }

/-- Exceptions of this rank's shards that name a peer are cleared, MAP_VERSION rising by 1 for each; the blocks return, and those of a
peer whose epoch has changed are counted (R206). -/
def State.clearExceptions (s : State) (i : Nat) (away : Nat → Bool) (counted : Bool) : State :=
  match s.tableAt i with
  | none => s
  | some t =>
    let own := s.ownRank
    let gone := t.exceptions.filter fun x => t.keeper x.1 == own && away x.2
    gone.foldl (fun s x =>
      let s := s.modTable i fun t => { t with mapVersion := nextMap t.mapVersion, exceptions := t.exceptions.filter fun y => !(y == x) }
      let s := (s.restoreBlock i t.current x.1).modTables fun y => { y with restored := if counted then satInc y.restored else y.restored }
      match s.tableAt i with
      | some t => s.sendAll .mapUpdate [i, t.mapVersion, x.1, own, 0]
      | none => s) s

/-- Blocks of older versions of this rank's shards that were homed on a peer return too (R206). -/
def State.restoreOld (s : State) (t : Table) (away : Nat → Bool) : State :=
  (t.versions.filter fun v => decide (v.number ≠ t.current)).foldl (fun s v =>
    (s.tiers.homes.filter fun h => !h.gone && !h.guest && decide (h.tier = .peer) && away (homeRank h.addr)
        && h.objId == rowBlockObj t.index v.number (blockOfObj h.objId)).foldl
      (fun s h => s.restoreBlock t.index v.number (blockOfObj h.objId)) s) s

/-- What a keeper of a rank was copying here, or fetching from here, is left (R199). -/
def State.leaveKeeper (s : State) (t : Table) (rank : Nat) : State :=
  let ids := (t.arrivals.map fun a => rowBlockObj t.index a.version a.block)
    ++ (s.tiers.homes.filter fun h => h.guest && h.inMotion && h.objId == rowBlockObj t.index t.current (blockOfObj h.objId)).map (·.objId)
  (ids.filter fun id => t.keeper (blockOfObj id) == rank).foldl State.leaveBlock s

/-- A peer's epoch has changed: migrations to it or from it end, the blocks migrated to it are restored, redirected sub-lookups that waited
for it are served, updates sent to it are lost, it hears again which old versions have no job here, and it counts as having acknowledged
every map (R199, R201, R205, R206). -/
def State.peerTables (s : State) (rank : Nat) : State :=
  (s.tables.list.map (·.index)).foldl (fun s i =>
    match s.tableAt i with
    | none => s
    | some t =>
      let s := s.endMigrations t (fun h => homeRank (if h.tier = .peer then h.addr else h.dest) == rank) .notReady
      let s := ((s.leaveKeeper t rank).restoreOld t (· == rank)).clearExceptions i (· == rank) true
      let own := s.ownRank
      let told := t.versions.filter fun v => decide (v.number < t.current) && v.freeReports.contains own
      let s := told.foldl (fun s v => s.sendMsg rank .tableFree [i, v.number]) s
      ((s.acknowledge i rank (2 ^ 32)).settleHeld i).settleAcks i) (s.loseUpdates rank)

/-- This rank's own epoch has risen without a reset: the blocks that had migrated in are lost, and moves between it and its peers end
(R199, R206, R338). -/
def State.ownTables (s : State) : State :=
  let guests := (s.tiers.homes.filter fun h => h.guest && !h.gone).map (·.objId)
  let s := guests.foldl State.dropHome s
  (s.tables.list.map (·.index)).foldl (fun s i =>
    match s.tableAt i with
    | none => s
    | some t =>
      let s := (s.endMigrations t (fun _ => true) .notReady)
      let own := s.ownRank
      let s := t.arrivals.foldl (fun s a => s.freeHbm poolTable a.addr (rowBlockObj i a.version a.block)) s
      s.modTable i fun t => { t with arrivals := [], stubs := t.stubs.filter fun x => t.keeper x.block == own }) s

/-- TABLE_RESTORE: after a reset, once FLASHMAP is set (R206); the decisions recorded as coordinator are sent again (R204). -/
def execTableRestore (table : Nat) (s : State) : Outcome :=
  .next (if s.isReady bitFlashmap = true ∧ s.tables.toRestore.contains table = true then
      match s.tableAt table with
      | none => s.modTables fun x => { x with toRestore := x.toRestore.filter (· != table) }
      | some t =>
        let own := s.ownRank
        let lost := if t.desc.sharded then t.versions.flatMap fun v => ((v.loaded.filter fun b =>
          t.keeper b.1 == own && (s.home? (rowBlockObj table v.number b.1)).isNone).map fun b => (v.number, b.1)) else []
        let s := lost.foldl (fun s b => s.restoreBlock table b.1 b.2) s
        let s := s.clearExceptions table (fun _ => true) false
        let s := (t.versions.map (·.number)).foldl (fun s n => s.copyTable table n) s
        let s := t.decisions.foldl (fun s d => s.sendAll .tableDecision [table, d.1, d.2.toNat]) s
        (s.modTables fun x => { x with toRestore := x.toRestore.filter (· != table) }).settleOld table
    else s)

end Sys2Proof.Machine
end

