-- ==== Sys2Proof/Machine/Graft.lean ====
section
/-! DEFINITION. Graft jobs, feedback logs and the reduction (chapter 9): logs, the job descriptor, buckets and owners, the
phases of a step, compression, the warp chain, the cross-check, commit, timeouts and job checkpoints (R207 to R230). -/

namespace Sys2Proof.Machine

open Sys2Proof

def State.modGrafts (s : State) (f : Grafts → Grafts) : State := { s with grafts := f s.grafts }

/-! ### Feedback logs (R208, R321) -/

def Log.handle (l : Log) : W32 := mkHandle l.gen kindLog l.index

def State.modLog (s : State) (i : Nat) (f : Log → Log) : State :=
  s.modGrafts fun g => { g with logs := updWhere (fun l => l.index == i) f g.logs }

/-- This rank's part of a log (R208). -/
def State.addLog (s : State) (index gen creator recordBytes : Nat) : State :=
  s.modGrafts fun g => { g with logs := g.logs ++ [{ index := index, gen := gen, recordBytes := recordBytes, creator := creator }] }

/-- This rank's part of a log goes with its extents and its grants. -/
def State.removeLog (s : State) (l : Log) : State :=
  let s := (s.eraseObj (logObj l.index)).modGrafts fun g =>
    { g with logs := g.logs.filter (fun x => !(x.index == l.index)), logGens := bumpGen g.logGens l.index }
  { s with sasel := { s.sasel with grants := s.sasel.grants.filter fun g => !(g.1 == l.handle) } }

/-- The bytes of an extent of a log: record n lies at byte n × RECORD_BYTES of the part. -/
def Log.extent (l : Log) (e : Nat) : Buf :=
  let a := l.first * l.recordBytes
  let lo := max a (65536 * e)
  let hi := min (a + l.records.length * l.recordBytes) (65536 * (e + 1))
  List.replicate (lo - 65536 * e) 0 ++ Buf.slice (l.records.flatMap id) (lo - a) (hi - lo)

/-- Records are appended: the extents they touch are written as ordinary data (R208). -/
def State.appendLog (s : State) (l : Log) (recs : List Buf) : State :=
  let l' := { l with records := l.records ++ recs }
  let es := logExtents ((l.first + l.records.length) * l.recordBytes) (recs.length * l.recordBytes)
  (s.storeExtents (logObj l.index) false (es.map fun e => (e, l'.extent e))).modLog l.index fun l => { l with records := l.records ++ recs }

/-- CREATE_LOG: a record size and a part on every rank. -/
def execCreateLog (sid : Nat) (s : State) : Outcome :=
  .next (s.run sid 0x40 fun u s =>
    let n := u.entry.arg0.toNat
    let slot := lowestFree (s.grafts.logs.map (·.index)) 4096
    let i := slot.getD 0
    s.settle u (when (decide (n < 64) || decide (4096 < n) || decide (n % 64 ≠ 0)) .badField ++ when slot.isNone .noResource) fun s =>
      let gen := genFor s.grafts.logGens i
      ((s.addLog i gen u.client n).sendAll .newLog [i, gen, u.client, n]).complete u (BitVec.ofNat 64 (mkHandle gen kindLog i).toNat) 0)

/-- APPEND_LOG: records in order; the first that fails ends it with MEDIA_ERROR (R321). -/
def execAppendLog (sid : Nat) (b : Option Buf) (failAt : Option Nat) (s : State) : Outcome :=
  .next (s.run sid 0x41 fun u s => s.withB u b fun buf =>
    match s.log? u.entry.handleA with
    | none => s.settle u [.staleHandle] fun s => s
    | some l =>
      let w := l.recordBytes
      let n := u.entry.length.toNat / w
      let at_ := l.first + l.records.length
      let es := logExtents (at_ * w) (n * w)
      s.settle u (when (decide (u.entry.length.toNat % w ≠ 0)) .badField
          ++ when (!s.capacityFor (some u.sid) ((s.freshExtents (logObj l.index) false es).map (·.1))) .noResource
          ++ when (failAt.isNone && es.any fun e => s.channelOut (channelOf (logObj l.index) false e)) .mediaError) fun s =>
        let k := match failAt with | some k => min k n | none => n
        let recs := (List.range k).map fun i => Buf.slice buf (w * i) w
        let s := s.appendLog l recs
        let r : Result := { status := if k < n then .mediaError else .ok, flags := { writeThrottled := u.throttled }
                            result0 := BitVec.ofNat 64 at_, result1 := BitVec.ofNat 64 k }
        s.finish u.sid r)

/-- The oldest record that a job may still read: of its next step, or of the one after the last checkpoint that is written or being
written. -/
def Graft.keepFrom (g : Graft) : Nat :=
  let next := fun (o : Option Nat) => match o with | some k => k + 1 | none => 0
  let ckpt := match g.lastCkpt, g.ckptStep with | some k, _ => some k | none, o => o
  g.startRecord + g.desc.batch * (if ckpt.isSome then min (next ckpt) (next g.lastCommit) else next g.lastCommit)

/-- TRIM_LOG discards records below a number, and none that a job may still read; extents that hold no record any more go. -/
def execTrimLog (sid : Nat) (s : State) : Outcome :=
  .next (s.run sid 0x42 fun u s =>
    match s.log? u.entry.handleA with
    | none => s.settle u [.staleHandle] fun s => s
    | some l => s.settle u [] fun s =>
      let users := s.grafts.list.filter fun g => g.desc.log == l.handle
      let upTo := users.foldl (fun m g => min m g.keepFrom) (min u.entry.arg0.toNat (l.first + l.records.length))
      let k := upTo - l.first
      let left := logExtents ((l.first + k) * l.recordBytes) ((l.records.length - k) * l.recordBytes)
      let all := logExtents (l.first * l.recordBytes) (l.records.length * l.recordBytes)
      let s := (s.eraseExtents (logObj l.index) (all.filter fun e => !left.contains e)).modLog l.index fun l =>
        { l with first := l.first + k, records := l.records.drop k }
      s.complete u (BitVec.ofNat 64 k) 0)

/-- DELETE_LOG: refused while a job names it. -/
def execDeleteLog (sid : Nat) (s : State) : Outcome :=
  .next (s.run sid 0x43 fun u s =>
    match s.log? u.entry.handleA with
    | none => s.settle u [.staleHandle] fun s => s
    | some l => s.settle u (when (s.grafts.list.any fun g => g.desc.log == l.handle) .noResource) fun s =>
      ((s.removeLog l).sendAll .dropLog [l.index]).completeOk u)

/-! ### The job descriptor, buckets and owners (R207, R210 to R212) -/

/-- The descriptor's fields (table *Graft job descriptor*). -/
def parseGraft (b : Buf) : GraftDesc :=
  let v := Buf.le b 0 64
  let f := fun lo n => bitsOf v lo n
  { retry := f 400 3, ckptSteps := f 384 16, bucketBlocks := f 378 6 + 1, hopTimeoutMs := f 368 10, stepTimeoutMs := f 352 16
    stepScale := BitVec.ofNat 32 (f 320 32), steps := f 288 32, batch := f 256 32, log := BitVec.ofNat 32 (f 224 32)
    image := BitVec.ofNat 32 (f 192 32), tableVersion := f 160 32, table := BitVec.ofNat 32 (f 128 32), rowCount := f 64 40, firstRow := f 0 40
    rsv := decide (f 403 109 ≠ 0) || decide (f 104 24 ≠ 0) || decide (f 40 24 ≠ 0) }

/-- The fields are within their ranges. -/
def GraftDesc.fieldsOk (d : GraftDesc) : Bool :=
  !d.rsv && decide (1 ≤ d.hopTimeoutMs ∧ d.hopTimeoutMs ≤ 1000) && decide (10 ≤ d.stepTimeoutMs) && fpFinite d.stepScale
    && !(fpNum d.stepScale).isZero && decide (1 ≤ d.batch ∧ d.batch ≤ 1048576) && decide (1 ≤ d.rowCount)

/-- The tuned blocks, ascending. -/
def GraftDesc.tuned (d : GraftDesc) (t : TableDesc) : List Nat :=
  let a := t.blockOf d.firstRow
  (List.range (t.blockOf (d.firstRow + d.rowCount - 1) + 1 - a)).map (a + ·)

/-- Consecutive runs of `n` elements; the first argument bounds their number. -/
def chunks {α : Type} (n : Nat) : Nat → List α → List (List α)
  | 0, _ => []
  | k + 1, l => if l.isEmpty then [] else l.take n :: chunks n k (l.drop n)

/-- The blocks of each bucket, by bucket number. -/
def GraftDesc.buckets (d : GraftDesc) (t : TableDesc) : List (List Nat) :=
  (List.range t.shards).flatMap fun k =>
    let bs := (d.tuned t).filter fun b => b % t.shards == k
    chunks d.bucketBlocks bs.length bs

/-- The tuned rows of a block. -/
def GraftDesc.rowsOf (d : GraftDesc) (t : TableDesc) (block : Nat) : List Nat :=
  ((List.range t.perBlock).map (block * t.perBlock + ·)).filter fun r => decide (d.firstRow ≤ r ∧ r < d.firstRow + d.rowCount)

/-- Elements of a bucket's vector, padded to whole magnitude blocks. -/
def GraftDesc.elements (d : GraftDesc) (t : TableDesc) (blocks : List Nat) : Nat :=
  256 * ceilDiv ((blocks.flatMap (d.rowsOf t)).length * t.dim) 256

/-- The table a job tunes. -/
def State.tableOf (s : State) (g : Graft) : Option Table := s.table? g.desc.table

/-- The buckets of a job with their numbers. -/
def State.bucketsOf (s : State) (g : Graft) : List (List Nat × Nat) :=
  match s.tableOf g with
  | some t => (g.desc.buckets t.desc).zipIdx
  | none => []

/-- The owner of a bucket: the keeper of its shard. -/
def Table.owner (t : Table) (blocks : List Nat) : Nat := t.keeper (blocks.headD 0)

/-- The owner of bucket number `k` of a job. -/
def State.ownerOf (s : State) (g : Graft) (k : Nat) : Nat :=
  match s.tableOf g with
  | some t => t.owner ((g.desc.buckets t.desc).getD k [])
  | none => 0

/-- The buckets this rank owns. -/
def State.ownBuckets (s : State) (g : Graft) : List (List Nat × Nat) :=
  match s.tableOf g with
  | some t => (s.bucketsOf g).filter fun b => t.owner b.1 == s.ownRank
  | none => []

/-- Every owner of a bucket of a job. -/
def State.graftOwners (s : State) (g : Graft) : List Nat :=
  match s.tableOf g with
  | some t => nub ((s.bucketsOf g).map fun b => t.owner b.1)
  | none => []

/-! ### Ranks and leaf groups (R336) -/

def State.leafOf (s : State) (r : Nat) : Nat :=
  match s.fabric.plot with
  | some p => match p.members[r]? with
    | some m => m.leaf
    | none => 0
  | none => 0

/-- The groups in ascending LEAF order, each with its ranks ascending. -/
def State.leafGroups (s : State) : List (List Nat) :=
  let leaves := sortBy (fun (a b : Nat) => decide (a ≤ b)) (nub (s.ranks.map s.leafOf))
  leaves.map fun l => s.ranks.filter fun r => s.leafOf r == l

/-- The group of this rank: its place, and its ranks. -/
def State.ownGroup (s : State) : Nat × List Nat :=
  match (s.leafGroups.zipIdx).find? fun g => g.1.contains s.ownRank with
  | some g => (g.2, g.1)
  | none => (0, [s.ownRank])

/-! ### CREATE_GRAFT and DELETE_GRAFT (R207, R210, R212, R226) -/

def Graft.handle (g : Graft) : W32 := mkHandle g.gen kindGraft g.index

/-- Object numbers of the gradient buffer and of the owner's sums beside the residual blocks (log 48). -/
def gradientObj (job : Nat) : W64 := residualObj job 0 + 1
def sumsObj (job : Nat) : W64 := residualObj job 0 + 2

/-- Bytes that a job takes from this rank's graft pool, by object. -/
def State.graftSpace (s : State) (g : Graft) : List (W64 × Nat) :=
  match s.tableOf g with
  | none => []
  | some t =>
    let res := (s.bucketsOf g).map fun b => (residualObj g.index b.2, 4 * g.desc.elements t.desc b.1)
    let own := sumOf ((s.ownBuckets g).map fun b => 4 * g.desc.elements t.desc b.1)
    res ++ [(gradientObj g.index, 4 * g.desc.rowCount * t.desc.dim)] ++ (if own = 0 then [] else [(sumsObj g.index, own)])

/-- Place an object of a job in the graft pool; a residual block has an entry in the directory.  None without room. -/
def State.placeObj (s : State) (g : Graft) (x : W64 × Nat) : Option State :=
  if s.tiers.allocs.any fun a => a.2.2 == x.1 then some s
  else (s.allocHbm poolGraft x.2 x.1).map fun r =>
    if x.1.toNat % 2 ^ 16 = 0 then
      r.2.addHome { objId := x.1, addr := BitVec.ofNat 64 r.1, lengthM1 := BitVec.ofNat 32 (ceilDiv x.2 64 - 1), owner := g.handle
                    tier := .hbm, destTier := .hbm }
    else r.2

/-- A job's residual blocks and buffers are placed, all of them or none; those that stand already stay. -/
def State.placeGraft (s : State) (g : Graft) : Option State :=
  if s.dirRoom (s.bucketsOf g).length then (s.graftSpace g).foldl (fun o x => o.bind fun s => s.placeObj g x) (some s) else none

/-- There is room for the job on this rank (R212). -/
def State.graftRoom (s : State) (g : Graft) : Bool := (s.placeGraft g).isSome

/-- Every residual of a job is +0 (R212, R230). -/
def State.zeroResiduals (s : State) (g : Graft) : State :=
  let n := fun (b : List Nat) => match s.tableOf g with | some t => g.desc.elements t.desc b | none => 0
  let zeros := fun (b : List Nat × Nat) => ({ bucket := b.2, plane0 := List.replicate (n b.1) 0, plane1 := List.replicate (n b.1) 0 } : Residual)
  let rs := (s.bucketsOf g).map zeros
  s.modGraft g.index fun g => { g with residuals := rs }

/-- The job enters this rank's list, with its residual blocks and buffers (R207, R212). -/
def State.addGraft (s : State) (g : Graft) : State :=
  let s := (s.placeGraft g).getD s
  (s.modGrafts fun x => { x with list := x.list ++ [g] }).zeroResiduals g

/-- The job goes from this rank with its residual blocks, buffers and checkpoints (R226). -/
def State.removeGraft (s : State) (g : Graft) : State :=
  let free := fun (s : State) (id : W64) =>
    if (s.home? id).isSome then s.dropHome id
    else match s.tiers.allocs.find? fun a => a.2.2 == id with
      | some a => s.freeHbm poolGraft a.1 id
      | none => s
  let s := ((s.graftSpace g).map (·.1)).foldl free s
  let blocks := nub (g.checkpoints.flatMap fun c => c.2.map (·.1))
  let s := blocks.foldl (fun s b => s.eraseObj (graftCkptObj g.index b)) s
  s.modGrafts fun x => { x with list := x.list.filter (fun y => !(y.index == g.index)), gens := bumpGen x.gens g.index }

/-- Statuses of a CREATE_GRAFT. -/
def State.createGraftErrs (s : State) (u : Sub) (d : GraftDesc) (g : Graft) : List Status :=
  let t := s.table? d.table
  let l := s.log? d.log
  let m := (s.model? d.image).filter fun m => heldAt u.sid m.releasedAt
  let grad := match m.bind fun m => s.image? m.image with
    | some im => decide (im.header.cls = clsAux) && im.entries.any (·.grad)
    | none => false
  when (!d.fieldsOk || !(([d.table, d.log, d.image] : List W32).all handleRsvOk) || decide (u.entry.length.toNat ≠ 64) || (m.isSome && !grad)
      || (match t with
          | some t => !t.desc.sharded || decide (d.tableVersion ≠ t.current) || decide (t.desc.rows < d.firstRow + d.rowCount)
                        || decide (2 ^ 30 < d.rowCount * t.desc.dim)
          | none => false)
      || (match l with | some l => decide (2 ^ 30 < d.batch * l.recordBytes) | none => false)) .badField
    ++ when (t.isNone || l.isNone || m.isNone) .staleHandle
    ++ when ((match t with | some t => !s.hasAccess u.client t.creator d.table | none => false)
        || (match l with | some l => !s.hasAccess u.client l.creator d.log | none => false)) .denied
    ++ when (!s.isReady bitGraft) .notReady
    ++ when (decide (8 ≤ s.grafts.list.length) || s.graftOn d.table || !s.graftRoom g) .noResource

/-- CREATE_GRAFT: this sled becomes the coordinator; `roomElsewhere` says whether every other rank finds room. -/
def execCreateGraft (sid : Nat) (b : Option Buf) (roomElsewhere : Bool) (s : State) : Outcome :=
  .next (s.run sid 0x44 fun u s => s.withB u b fun buf =>
    let d := parseGraft buf
    let i := (lowestFree (s.grafts.list.map (·.index)) 8).getD 0
    let g : Graft := { index := i, gen := genFor s.grafts.gens i, desc := d, creator := u.client, coordinator := s.ownRank }
    s.settle u (s.createGraftErrs u d g ++ when (!roomElsewhere) .noResource) fun s =>
      ((s.addGraft g).sendAll .newGraft ([i, g.gen, u.client] ++ buf.map (·.toNat))).complete u (BitVec.ofNat 64 g.handle.toNat) 0)

/-- DELETE_GRAFT: refused while the job runs; else its residual blocks, buffers and checkpoints go. -/
def execDeleteGraft (sid : Nat) (s : State) : Outcome :=
  .next (s.run sid 0x47 fun u s =>
    match s.graft? u.entry.handleA with
    | none => s.settle u [.staleHandle] fun s => s
    | some g => s.settle u (when (decide (g.coordinator ≠ s.ownRank)) .staleHandle ++ when (decide (g.phase ≠ .stopped)) .noResource) fun s =>
      ((s.removeGraft g).sendAll .dropGraft [g.index]).completeOk u)

/-- QUERY_GRAFT writes 64 B; the byte layout is not stated (R228, log 15). -/
def graftReport (g : Graft) : Buf :=
  let n := fun (o : Option Nat) => match o with | some k => k + 1 | none => 0
  Buf.slice (Config.report 0x48 [(match g.phase with | .stopped => 0 | .gradient => 1 | .reduce => 2), n g.lastCommit, n g.lastCkpt,
    g.aborted.toNat, g.rescaledSteps.toNat, g.suspects.toNat, g.staleCount.toNat, g.saturations.toNat]) 0 64

/-- QUERY_GRAFT; after a reset the job record is there again when FLASHMAP sets (R230). -/
def execQueryGraft (sid : Nat) (ok : Bool) (s : State) : Outcome :=
  .next (s.run sid 0x48 fun u s =>
    match s.graft? u.entry.handleA with
    | none => s.settle u [.staleHandle] fun s => s
    | some g => s.settle u (when (decide (u.entry.length.toNat < 64)) .badField ++ when (!s.isReady bitFlashmap) .notReady) fun s =>
        s.report u ok (graftReport g) fun s => s.completeOk u)

/-! ### RUN_GRAFT and STOP_GRAFT (R213, R226, R228, R230) -/

/-- This rank enters a run at a step with every residual +0; a checkpoint that an earlier run left unfinished is given up (R213, R230). -/
def State.enterRun (s : State) (g : Graft) (step : Nat) : State :=
  let s := ((s.placeGraft g).getD s).zeroResiduals g
  s.modGraft g.index fun g =>
    { g.clearAttempt with phase := .gradient, cause := none, stopAsked := false, stopSids := [], step := step, attempt := 0
                          committedRun := 0, rescaledRun := false, gradReady := [], gradient := [], gradDone := false, inDoubt := false
                          ckptStep := none, ckptDone := [], lastCommit := if step = 0 then none else some (step - 1) }

/-- RUN_GRAFT starts the run here and on every other rank. -/
def State.beginRun (s : State) (g : Graft) (u : Sub) (step : Nat) (restore : Bool) : State :=
  (((s.start u.sid).enterRun g step).modGraft g.index fun g => { g with runSid := some u.sid }).sendAll .runGraft [g.index, step, restore.toNat]

/-- Statuses of a RUN_GRAFT. -/
def State.runErrs (s : State) (g : Graft) : List Status :=
  when (decide (g.coordinator ≠ s.ownRank)) .staleHandle ++ when (!s.isReady bitGraft) .notReady
    ++ when (decide (g.phase ≠ .stopped) || !s.graftRoom g) .noResource

/-- RUN_GRAFT with RESTORE clear: step 0, or the step after the last one committed (log 49). -/
def execRunGraft (sid : Nat) (s : State) : Outcome :=
  .next (s.run sid 0x45 fun u s =>
    if u.entry.arg0.getLsbD 0 then s
    else
      match s.graft? u.entry.handleA with
      | none => s.settle u [.staleHandle] fun s => s
      | some g => s.settle u (s.runErrs g) fun s => s.beginRun g u (match g.lastCommit with | some k => k + 1 | none => 0) false)

/-- An update of a row goes to the block's server under the keeper's map (R197, R223). -/
def State.sendRow (s : State) (t : Table) (row : Nat) (replace : Bool) (payload : Buf) : State :=
  let b := t.desc.blockOf row
  let own := s.ownRank
  if t.server b = own then
    s.writeHome { t.write t.current { row := row, replace := replace, payload := payload } own 0 with origin := none } own
  else s.sendUpdate (t.server b) own 0 t.index t.current row replace payload

/-- The tuned rows of one block of a checkpoint. -/
def State.restoreRows (s : State) (g : Graft) (t : Table) (c : Nat × Buf) : State :=
  (g.desc.rowsOf t.desc c.1).foldl (fun s r => s.sendRow t r true (Buf.slice c.2 (t.desc.byteOf r) t.desc.rowBytes)) s

/-- This owner rewrites its tuned rows from its part of the checkpoint of a step (R230). -/
def State.restoreCkpt (s : State) (g : Graft) (step : Nat) : State :=
  match s.tableOf g, assocGet step g.checkpoints with
  | some t, some blocks => blocks.foldl (fun s c => s.restoreRows g t c) s
  | _, _ => s

/-- RUN_GRAFT with RESTORE set: rows from the job checkpoint, residuals +0, and the step after it. -/
def execRunGraftRestore (sid : Nat) (s : State) : Outcome :=
  .next (s.run sid 0x45 fun u s =>
    if u.entry.arg0.getLsbD 0 = false then s
    else
      match s.graft? u.entry.handleA with
      | none => s.settle u [.staleHandle] fun s => s
      | some g => s.settle u (when g.lastCkpt.isNone .badField ++ s.runErrs g) fun s =>
          let k := g.lastCkpt.getD 0
          (s.restoreCkpt g k).beginRun g u (k + 1) true)

/-- The coordinator's RUN_GRAFT reaches another rank (R213, R230). -/
def State.takeRun (s : State) (index step : Nat) (restore : Bool) : State :=
  match s.graftAt index with
  | none => s
  | some g => (if restore then s.restoreCkpt g (step - 1) else s).enterRun g step

def StopCause.code : StopCause → Nat
  | .done => 0 | .stopGraft => 1 | .suspect => 2 | .damaged => 3 | .deadline => 4 | .notReady => 5

/-- STOP_GRAFT: completes OK when the job has stopped. -/
def execStopGraft (sid : Nat) (s : State) : Outcome :=
  .next (s.run sid 0x46 fun u s =>
    match s.graft? u.entry.handleA with
    | none => s.settle u [.staleHandle] fun s => s
    | some g => s.settle u (when (decide (g.coordinator ≠ s.ownRank)) .staleHandle) fun s =>
        if g.phase = .stopped then s.completeOk u
        else
          let s := (s.start u.sid).askStop g.index (some u.sid)
          match s.graftAt g.index with
          | some h => if h.phase = .stopped then s.sendAll .stopGraft [g.index, StopCause.code .stopGraft] else s
          | none => s)

/-! ### Compression (R214) -/

/-- FP16 of an FP32 value, saturated to ±65,504, and whether it saturated. -/
def toHalf (v : W32) : W16 × Bool :=
  let r := convertTo 0xA (fpNum (fpSaturate v))
  (BitVec.ofNat 16 r.1, r.2 || fpIsInf v)

def halfNum (h : W16) : Num := fp16.ieee h.toNat
def halfFp (h : W16) : W32 := (halfNum h).toFp

/-- The sign bit of a contribution: 1 when the value is negative, 0 for −0. -/
def negative (v : W32) : Bool :=
  match fpNum v with
  | .fin s m _ => s && decide (m ≠ 0)
  | .inf s => s
  | .nan => false

/-- c_k: the magnitude with the sign, in FP32. -/
def signedMag (neg : Bool) (m : W16) : W32 := if neg then halfFp m ||| 0x80000000#32 else halfFp m

/-- One magnitude block, compressed. -/
structure Compressed where
  signs : List Bool
  mag : W16
  staged : List W16
  saturated : Nat
  bad : Bool
  deriving DecidableEq, Repr

/-- One magnitude block: gradient and residual to signs, magnitude and staged residual. -/
def compressBlock (g : List W32) (e : List W16) : Compressed :=
  let v := (g.zip e).map fun p => fpAdd p.1 (halfFp p.2)
  let mean := fpMul (fpTreeSum (v.map fpAbs)) 0x3B800000#32
  let m := toHalf mean
  let signs := v.map negative
  let staged := (v.zip signs).map fun p => toHalf (fpSub p.1 (signedMag p.2 m.1))
  { signs := signs, mag := m.1, staged := staged.map (·.1), saturated := m.2.toNat + (staged.filter (·.2)).length
    bad := !fpFinite mean || !(g.all fpFinite) }

/-- A vector in magnitude blocks of 256, padded with a last value. -/
def magBlocks {α : Type} (l : List α) : List (List α) := chunks 256 (l.length / 256 + 1) l

/-- One bucket of a rank: its contribution, its staged residual, saturations, and whether something is NaN or infinite. -/
def compressBucket (grad : List W32) (residual : List W16) : List Compressed :=
  ((magBlocks grad).zip (magBlocks residual)).map fun p => compressBlock p.1 p.2

def Residual.current (r : Residual) (plane : Bool) : List W16 := if plane then r.plane1 else r.plane0
def Residual.stage (r : Residual) (plane : Bool) (e : List W16) : Residual := if plane then { r with plane0 := e } else { r with plane1 := e }

/-! ### The warp chain (R215 to R218) -/

/-- E of a magnitude block from the announced magnitudes. -/
def headExp (mags : List W16) : Int :=
  let m := BitVec.ofNat 16 (maxOf (mags.map (·.toNat)))
  if (halfNum m).isZero then -30 else fpLog2Ceil (halfFp m) - 6

/-- c_k as an exact number. -/
def contribution (neg : Bool) (m : W16) : Dyad := let d := (halfNum m).dyad; if neg then { d with m := -d.m } else d

/-- The mantissas of exact sums at an exponent. -/
def mantissas (t : List Dyad) (e : Int) : List Int := t.map fun d => dyadRne { d with e := d.e - e }

/-- The smallest d for which every mantissa is at most 127; the first argument bounds the search. -/
def rescaleFrom (t : List Dyad) (e : Int) : Nat → Nat → Nat
  | 0, d => d
  | k + 1, d => if (mantissas t (e + d)).all fun q => decide (q.natAbs ≤ 127) then d else rescaleFrom t e k (d + 1)

/-- A hop on one scale block: the exact sum, rounded once; with its exponent, and whether it rescaled. -/
def hopBlock (q : List Int) (e : Int) (signs : List Bool) (m : W16) : List Int × Int × Bool :=
  let t := (q.zip signs).map fun p => (⟨p.1, e⟩ : Dyad).add (contribution p.2 m)
  let d := rescaleFrom t e 512 0
  (mantissas t (e + d), e + d, decide (d ≠ 0))

/-- The signs of scale block j and the magnitude of the enclosing magnitude block. -/
def scaleBlock (c : List Bool × List W16) (j : Nat) : List Bool × W16 := ((c.1.drop (32 * j)).take 32, c.2.getD (j / 8) 0)

/-- A hop on a whole partial. -/
def ChainPartial.hop (p : ChainPartial) (c : List Bool × List W16) : ChainPartial :=
  let r := p.blocks.zipIdx.map fun b => let x := scaleBlock c b.2; hopBlock b.1.1 b.1.2 x.1 x.2
  { p with blocks := r.map fun x => (x.1, x.2.1), rescaled := p.rescaled || r.any (·.2.2), hops := p.hops + 1 }

/-- The partial before the head's hop: mantissas 0, exponents from the announcements. -/
def headPartial (bucket group n : Nat) (mags : List (List W16)) : ChainPartial :=
  { bucket := bucket, group := group
    blocks := (List.range (n / 32)).map fun j => (List.replicate 32 0, headExp (mags.map fun m => m.getD (j / 8) 0)) }

/-- A scale block as its 33 bytes (table *Chain block unit*). -/
def chainUnit (b : List Int × Int) : Buf := b.1.map (fun q => BitVec.ofInt 8 q) ++ [BitVec.ofInt 8 b.2]

/-- A scale block from its 33 bytes; none for a mantissa of −128 or an exponent outside −30 to 127, which is never written. -/
def readUnit (b : Buf) : Option (List Int × Int) :=
  let q := (b.take 32).map BitVec.toInt
  let e := (Buf.at b 32).toInt
  if b.length = 33 ∧ q.all (fun x => decide (x ≠ -128)) = true ∧ -30 ≤ e then some (q, e) else none

/-- A partial as it travels, and as it is read (R217). -/
def ChainPartial.message (p : ChainPartial) : ChainMsg :=
  { bucket := p.bucket, group := p.group, hops := p.hops, rescaled := p.rescaled, units := p.blocks.map chainUnit }
def readPartial (m : ChainMsg) : Option ChainPartial :=
  (m.units.mapM readUnit).map fun b => { bucket := m.bucket, group := m.group, hops := m.hops, rescaled := m.rescaled, blocks := b }

/-- Element k of a group partial as a number. -/
def ChainPartial.value (p : ChainPartial) (k : Nat) : W32 :=
  match p.blocks[k / 32]? with
  | some b => let q := b.1.getD (k % 32) 0; roundFp (decide (q < 0)) q.natAbs b.2
  | none => 0

def byGroup (l : List ChainPartial) : List ChainPartial := sortBy (fun (a b : ChainPartial) => decide (a.group ≤ b.group)) l

/-- S_k: from +0, the group partials in ascending group order, each addition in FP32. -/
def sumElement (parts : List ChainPartial) (k : Nat) : W32 := (byGroup parts).foldl (fun acc p => fpAdd acc (p.value k)) 0

/-! ### The cross-check (R219, R220) -/

/-- h of a step and a bucket. -/
def sampleHash (step bucket : Nat) : Nat := Buf.le (sha3 (leBytes 8 step ++ leBytes 8 bucket)) 0 4 % 4096

/-- The sampled scale blocks of a bucket with n elements. -/
def sampledBlocks (step bucket n : Nat) : List Nat :=
  let h := sampleHash step bucket
  (List.range (n / 32)).filter fun j => (j + h) % 4096 == 0

def byRank (l : List RawSample) : List RawSample := sortBy (fun (a b : RawSample) => decide (a.rank ≤ b.rank)) l

/-- FP64, for the bound of the cross-check. -/
def fp64 : FFmt := { man := 52, emin := -1074, maxFinite := 0x7FEFFFFFFFFFFFFF, width := 64 }

/-- Round to FP64, ties to even. -/
def round64 : Num → Num
  | .fin s m e => let c := fp64.code m e; if c ≤ fp64.maxFinite then fp64.fin (fp64.sign s c) else .inf s
  | x => x

/-- A sum in FP64, in the order of the list. -/
def sum64 (l : List Num) : Num := l.foldl (fun a b => round64 (a.add b)) (.fin false 0 0)

/-- B_k: one rounding per hop at the group's final exponent, and the FP32 additions of both paths. -/
def crossBound (parts : List ChainPartial) (j n : Nat) (mags : List W16) : Num :=
  let hops := (byGroup parts).map fun p => Num.fin false p.hops ((match p.blocks[j]? with | some b => b.2 | none => 0) - 1)
  let adds := round64 ((Num.fin false n (-23)).mul (sum64 (mags.map halfNum)))
  round64 ((sum64 hops).add adds)

/-- R_k: from +0, the contributions in ascending rank order, each addition in FP32. -/
def sampleElement (samples : List RawSample) (j k : Nat) : W32 :=
  (byRank samples).foldl (fun acc r =>
    match r.blocks.find? fun b => b.1 == j with
    | some b => fpAdd acc (signedMag (b.2.1.getD k false) b.2.2)
    | none => acc) 0

/-- |S − R| exceeds the bound; a value that is not finite mismatches. -/
def exceeds (sum raw : W32) (bound : Num) : Bool :=
  match fpNum sum, fpNum raw, bound with
  | .fin s m e, .fin t n f, .fin _ b g =>
    let d := (Num.fin s m e).dyad.add (Num.fin (!t) n f).dyad
    let r := d.add { m := -b, e := g }
    let l := Dyad.add { d with m := -d.m } { m := -b, e := g }
    decide (0 < r.m) || decide (0 < l.m)
  | _, _, .inf _ => false
  | _, _, _ => true

/-- Scale block j of a bucket mismatches. -/
def blockMismatch (sums : List W32) (parts : List ChainPartial) (samples : List RawSample) (n j : Nat) : Bool :=
  let mags := (byRank samples).map fun r => match r.blocks.find? fun b => b.1 == j with | some b => b.2.2 | none => 0
  let bound := crossBound parts j n mags
  (List.range 32).any fun k => exceeds (sums.getD (32 * j + k) 0) (sampleElement samples j k) bound

/-! ### The decision (R222 to R224) -/

/-- The homes of the tuned blocks that this rank owns. -/
def State.tunedHomes (s : State) (g : Graft) (t : Table) : List Home :=
  ((s.ownBuckets g).flatMap (·.1)).filterMap fun b => s.home? (rowBlockObj t.index t.current b)

/-- Where the checkpoint of a step lies in each block's object: two extents take turns, so that an interrupted write leaves the earlier one
whole (R229). -/
def GraftDesc.ckptSlot (d : GraftDesc) (step : Nat) : Nat := (step + 1) / d.ckptSteps % 2

/-- The extents a part of a checkpoint takes. -/
def State.ckptExtents (s : State) (i slot : Nat) (blocks : List (Nat × Buf)) : List (Nat × W64 × Nat) :=
  blocks.flatMap fun b => s.freshExtents (graftCkptObj i b.1) true [slot]

/-- This owner's part of the checkpoint in progress is written to its flash with persistent stripe parity, each block as one read of its home;
the last two are kept (R229).  While the bytes of a block on a peer are not there, or without room, it is not written yet. -/
def State.writeCkpt (s : State) (i : Nat) (peers : List (Nat × Buf)) : State :=
  match s.graftAt i with
  | none => s
  | some g =>
    match g.ckptStep, s.tableOf g with
    | some k, some t =>
      let own := s.ownRank
      let homes := s.tunedHomes g t
      let blocks := s.ckptReads homes peers
      let slot := g.desc.ckptSlot k
      let chans := blocks.flatMap fun b => objectChannels (graftCkptObj i b.1) true (slot + 1)
      if s.ownBuckets g = [] ∨ g.ckptDone.contains own = true then s
      else if blocks.length < homes.length then s.askBlocks homes peers
      else if homes.any (fun h => h.damaged || !h.pinnable) = true ∨ s.capacityOk ((s.ckptExtents i slot blocks).map (·.1)) = false
          ∨ chans.any s.channelOut = true then s
      else
        let s := blocks.foldl (fun s b => s.storeExtents (graftCkptObj i b.1) true [(slot, b.2)]) s
        let all := g.checkpoints ++ [(k, blocks)]
        let s := s.modGraft i fun g => { g with checkpoints := all.drop (all.length - 2), ckptDone := g.ckptDone ++ [own] }
        if g.coordinator = own then s else s.sendMsg g.coordinator .checkpointDone [i, k]
    | _, _ => s

/-- LAST_CKPT is recorded when every owner has finished, and every rank is told. -/
def State.settleCkpt (s : State) (i : Nat) : State :=
  match s.graftAt i with
  | none => s
  | some g =>
    match g.ckptStep with
    | none => s
    | some k =>
      if g.coordinator = s.ownRank ∧ (s.graftOwners g).all g.ckptDone.contains = true then
        (s.modGraft i fun g => { g with lastCkpt := some k, ckptStep := none, ckptDone := [] }).sendAll .ckptRecorded [i, k]
      else s

/-- LAST_CKPT of a job reaches another rank. -/
def State.takeCkpt (s : State) (i k : Nat) : State :=
  s.modGraft i fun g => { g with lastCkpt := some k, ckptStep := if g.ckptStep = some k then none else g.ckptStep, ckptDone := [] }

/-- The deltas of one bucket: STEP_SCALE × S_k as one ADD for each tuned row. -/
def State.applyBucket (s : State) (g : Graft) (t : Table) (b : List Nat × Nat) : State :=
  let sums := (assocGet b.2 g.sums).getD []
  let rows := b.1.flatMap (g.desc.rowsOf t.desc)
  rows.zipIdx.foldl (fun s r =>
    let deltas := (List.range t.desc.dim).map fun k => fpMul g.desc.stepScale (sums.getD (r.2 * t.desc.dim + k) 0)
    s.sendRow t r.1 false (deltas.flatMap fun v => leBytes 4 v.toNat)) s

/-- A tuned block of an owned bucket cannot be written. -/
def State.tunedDamaged (s : State) (g : Graft) : Bool :=
  match s.tableOf g with
  | some t => (s.ownBuckets g).any fun b => b.1.any fun x => s.blockBad t t.current x
  | none => true

/-- COMMIT on a rank: deltas, planes, LAST_COMMIT, and the next step or the stop. -/
def State.commitStep (s : State) (i : Nat) : State :=
  match s.graftAt i with
  | none => s
  | some g =>
    let own := s.ownRank
    let damaged := s.tunedDamaged g
    let s := match s.tableOf g with
      | some t => (s.ownBuckets g).foldl (fun (s : State) b => s.applyBucket g t b) s
      | none => s
    let n := g.committedRun + 1
    let ckpt := decide (g.desc.ckptSteps ≠ 0) && decide ((g.step + 1) % g.desc.ckptSteps = 0)
    let s := s.modGraft i fun g =>
      { g.clearAttempt with
        plane := !g.plane, lastCommit := some g.step, committedRun := n, step := g.step + 1, attempt := 0, phase := .gradient
        rescaledRun := g.rescaledRun || g.rescaledStep
        rescaledSteps := if g.rescaledStep then satInc g.rescaledSteps else g.rescaledSteps
        gradReady := [], gradient := [], gradDone := false
        ckptStep := if ckpt then some g.step else g.ckptStep, ckptDone := if ckpt then [] else g.ckptDone }
    let stop : Option StopCause :=
      if g.inDoubt then some .notReady else if damaged then some .damaged
      else if g.desc.steps ≠ 0 ∧ g.desc.steps ≤ n then some .done else if g.stopAsked then some .stopGraft else none
    match stop with
    | none => s
    | some c =>
      let s := if g.coordinator = own then s.sendAll .stopGraft [i, c.code]
        else if c = .damaged then s.sendMsg g.coordinator .graftDamaged [i] else s
      s.endGraft i c

/-- The coordinator stops a running job after the step that has ended, with a cause, and tells every rank (R224, R226). -/
def State.stopJob (s : State) (i : Nat) (c : StopCause) : State :=
  match s.graftAt i with
  | none => s
  | some g => if g.coordinator = s.ownRank ∧ g.phase ≠ .stopped then (s.sendAll .stopGraft [i, c.code]).endGraft i c else s

/-- The coordinator's word that a job has stopped. -/
def State.takeStop (s : State) (i : Nat) (c : StopCause) : State :=
  match s.graftAt i with
  | none => s
  | some g => if g.coordinator = s.ownRank then s else s.endGraft i c

/-- An ADD found its block DAMAGED at a home on another rank: the jobs that tune the row stop (R224). -/
def State.tunedHurt (s : State) (table row : Nat) : State :=
  let hit := fun (g : Graft) => decide (g.phase ≠ .stopped) && decide (g.desc.firstRow ≤ row ∧ row < g.desc.firstRow + g.desc.rowCount)
    && (match s.tableOf g with | some t => t.index == table | none => false)
  (s.grafts.list.filter hit).foldl (fun s g =>
    if g.coordinator = s.ownRank then s.stopJob g.index .damaged else s.sendMsg g.coordinator .graftDamaged [g.index]) s

/-- ABORT on a rank: staged state goes; a timeout's attempt runs again while RETRY and no STOP_GRAFT allow it.  True: it runs again. -/
def State.abortStep (s : State) (i : Nat) (c : StopCause) : State × Bool :=
  match s.graftAt i with
  | none => (s, false)
  | some g =>
    let s := s.modGraft i fun g =>
      { g.clearAttempt with aborted := satInc g.aborted, suspects := if c = .suspect then satInc g.suspects else g.suspects, phase := .gradient }
    if c = .deadline ∧ g.attempt < g.desc.retry ∧ g.stopAsked = false then
      (s.modGraft i fun g => { g with attempt := g.attempt + 1 }, true)
    else (s.endGraft i (if g.inDoubt then .notReady else c), false)

/-- The coordinator records a decision, sends it and carries it out.  True: REDUCE of a new attempt is due. -/
def State.decideStep (s : State) (i : Nat) (commit : Bool) (c : StopCause) : State × Bool :=
  match s.graftAt i with
  | none => (s, false)
  | some g =>
    let c := if c = .deadline ∧ g.stopAsked = true then .stopGraft else c
    let s := s.modGraft i fun g => { g with decision := some (g.step, g.attempt, commit) }
    let s := s.sendAll .graftDecision [i, g.step, g.attempt, commit.toNat, c.code]
    if commit then (s.commitStep i, false) else s.abortStep i c

/-- Every owner has voted YES on the attempt. -/
def State.allYes (s : State) (g : Graft) : Bool := decide (g.phase = .reduce) && (s.graftOwners g).all g.votesYes.contains

/-- A vote reaches the coordinator: COMMIT when every owner has voted YES, and the checkpoint of an earlier step is written (R229); ABORT at
once on a NO or a timeout. -/
def State.takeVote (s : State) (i rank : Nat) (yes rescaled : Bool) (c : StopCause) : State × Bool :=
  match s.graftAt i with
  | none => (s, false)
  | some g =>
    if g.coordinator ≠ s.ownRank ∨ g.phase = .stopped then (s, false)
    else if !yes then s.decideStep i false c
    else
      let votes := if g.votesYes.contains rank then g.votesYes else g.votesYes ++ [rank]
      let s := s.modGraft i fun g => { g with votesYes := votes, rescaledStep := g.rescaledStep || rescaled }
      if (s.graftOwners g).all votes.contains ∧ g.ckptStep.isNone = true then s.decideStep i true .done else (s, false)

/-- A rank sends a vote, an ABORT for a timeout among them; its own coordinator takes it at once. -/
def State.sendVote (s : State) (i : Nat) (yes rescaled : Bool) (c : StopCause) : State × Bool :=
  match s.graftAt i with
  | none => (s, false)
  | some g =>
    if g.coordinator = s.ownRank then s.takeVote i s.ownRank yes rescaled c
    else (s.sendMsg g.coordinator .graftVote [i, g.step, g.attempt, yes.toNat, rescaled.toNat, c.code], false)

/-! ### The chain's messages (R215 to R217, R219, R221) -/

/-- A group partial or a raw sample reaches this owner: one signal of the step's knot for each bucket and sender. -/
def State.takeOwnerMsg (s : State) (i : Nat) (m : OwnerMsg) : State :=
  match m with
  | .partialSum m =>
    match readPartial m with
    | none => s
    | some p => s.modGraft i fun g =>
        if g.groups.any fun x => x.bucket == p.bucket && x.group == p.group then g else { g with groups := g.groups ++ [p] }
  | .rawSample r => s.modGraft i fun g =>
      if g.samples.any fun x => x.bucket == r.bucket && x.rank == r.rank then g else { g with samples := g.samples ++ [r] }

/-- A hop's result goes to the next rank of the group, or from the tail to the bucket's owner. -/
def State.passPartial (s : State) (i : Nat) (p : ChainPartial) : State :=
  match s.graftAt i with
  | none => s
  | some g =>
    let own := s.ownRank
    let s := s.modGraft i fun g => { g with passed := g.passed ++ [p.bucket] }
    let units := (p.message.units.flatMap id).map (·.toNat)
    let head := [i, g.step, g.attempt, p.bucket, p.group, p.hops, p.rescaled.toNat]
    match (s.ownGroup.2).find? fun r => decide (own < r) with
    | some r => s.sendMsg r .chain (head ++ units)
    | none =>
      let o := s.ownerOf g p.bucket
      if o = own then s.takeOwnerMsg i (.partialSum p.message) else s.sendMsg o .groupPartial (head ++ units)

/-- This rank's hop on a partial, once its own contribution is there; until then the partial waits. -/
def State.runHop (s : State) (i : Nat) (p : ChainPartial) : State :=
  match s.graftAt i with
  | none => s
  | some g =>
    if g.passed.contains p.bucket then s
    else
      match g.contribs.find? fun c => c.1 == p.bucket with
      | some c => s.passPartial i (p.hop c.2)
      | none => s.modGraft i fun g => { g with waiting := g.waiting ++ [p] }

/-- A head starts a bucket's chain once every member of its group has announced it. -/
def State.startChain (s : State) (i bucket : Nat) : State :=
  match s.graftAt i with
  | none => s
  | some g =>
    let grp := s.ownGroup
    let got := fun r => g.announces.find? fun a => a.bucket == bucket && a.rank == r
    match g.contribs.find? fun c => c.1 == bucket with
    | none => s
    | some c =>
      if grp.2.headD s.ownRank = s.ownRank ∧ g.passed.contains bucket = false ∧ grp.2.all (fun r => (got r).isSome) = true then
        let mags := grp.2.filterMap fun r => (got r).map (·.mags)
        s.runHop i (headPartial bucket grp.1 c.2.1.length mags)
      else s

/-- An announcement reaches this head. -/
def State.takeAnnounce (s : State) (i : Nat) (a : Announce) : State :=
  (s.modGraft i fun g =>
    if g.announces.any fun x => x.bucket == a.bucket && x.rank == a.rank then g else { g with announces := g.announces ++ [a] }).startChain i a.bucket

/-- This rank's announcement and raw samples of one bucket go out (R215, R219). -/
def State.sendBucket (s : State) (i : Nat) (c : Nat × List Bool × List W16) : State :=
  match s.graftAt i with
  | none => s
  | some g =>
    let own := s.ownRank
    let head := (s.ownGroup.2).headD own
    let o := s.ownerOf g c.1
    let sample : RawSample :=
      { bucket := c.1, rank := own, blocks := (sampledBlocks g.step c.1 c.2.1.length).map fun j => (j, scaleBlock c.2 j) }
    let tag := [i, g.step, g.attempt, c.1]
    let s := if o = own then s.takeOwnerMsg i (.rawSample sample)
      else s.sendMsg o .rawSamples (tag ++ sample.blocks.flatMap fun b => b.1 :: b.2.2.toNat :: b.2.1.map (·.toNat))
    if head = own then s.takeAnnounce i { bucket := c.1, rank := own, mags := c.2.2 }
    else s.sendMsg head .announce (tag ++ c.2.2.map (·.toNat))

/-! ### The phases of a step (R213, R221) -/

/-- Compress every bucket: contributions, staged residuals, the counter of saturations; then whether something is NaN or infinite. -/
def State.compress (s : State) (g : Graft) : State × Bool :=
  let work := g.residuals.map fun r => (r, compressBucket ((assocGet r.bucket g.gradient).getD []) (r.current g.plane))
  let contribs := work.map fun w => (w.1.bucket, w.2.flatMap (·.signs), w.2.map (·.mag))
  let staged := work.map fun w => w.1.stage g.plane (w.2.flatMap (·.staged))
  let sat := sumOf (work.map fun w => sumOf (w.2.map (·.saturated)))
  (s.modGraft g.index fun g => { g with phase := .reduce, contribs := contribs, residuals := staged, saturations := satAdd g.saturations sat },
    work.any fun w => w.2.any (·.bad))

/-- REDUCE on this rank: compress, then announce and sample, and run the hops that wait.  A NaN or an infinity votes NO. -/
def State.reduceHere (s : State) (i : Nat) : State × Bool :=
  match s.graftAt i with
  | none => (s, false)
  | some g =>
    if g.phase ≠ .gradient ∨ g.gradDone = false then (s, false)
    else
      let r := s.compress g
      if r.2 then r.1.sendVote i false false .suspect
      else
        let s := match r.1.graftAt i with
          | some g => g.contribs.foldl (fun (s : State) c => s.sendBucket i c) r.1
          | none => r.1
        match s.graftAt i with
        | none => (s, false)
        | some g =>
          let s := s.modGraft i fun g => { g with waiting := [] }
          ((g.waiting.foldl (fun s p => s.runHop i p) s), false)

/-- The coordinator sends REDUCE for the attempt to every rank, itself among them. -/
def State.sendReduce (s : State) (i : Nat) : State :=
  match s.graftAt i with
  | none => s
  | some g => ((s.sendAll .reduce [i, g.step, g.attempt]).reduceHere i).1

/-- Follow a decision with the REDUCE it makes due. -/
def State.follow (i : Nat) (r : State × Bool) : State := if r.2 then r.1.sendReduce i else r.1

/-- GRAD_READY of a rank reaches the coordinator. -/
def State.takeReady (s : State) (i rank : Nat) : State :=
  match s.graftAt i with
  | none => s
  | some g =>
    if g.coordinator ≠ s.ownRank ∨ g.phase ≠ .gradient then s
    else
      let l := if g.gradReady.contains rank then g.gradReady else g.gradReady ++ [rank]
      let s := s.modGraft i fun g => { g with gradReady := l }
      if s.ranks.all l.contains then s.sendReduce i else s

/-- A happening of this rank's own for the attempt that a tag names. -/
def State.atTag (s : State) (tag : GraftTag) (k : Graft → State → State) : State :=
  match s.graftAt tag.job with
  | none => s
  | some g => if g.phase ≠ .stopped ∧ g.step = tag.step ∧ g.attempt = tag.attempt then k g s else s

/-- A message of a job: of another step or attempt, or of a stale epoch of its sender, it is discarded and counted (R213). -/
def State.graftMsg (s : State) (tag : GraftTag) (k : Graft → State → State) : State :=
  match s.graftAt tag.job with
  | none => s
  | some g =>
    if g.phase ≠ .stopped ∧ g.step = tag.step ∧ g.attempt = tag.attempt ∧ tag.epoch = (s.peer tag.rank).knownEpoch then k g s
    else s.modGraft tag.job fun g => { g with staleCount := satInc g.staleCount }

/-- The records of a step in this rank's part of the log, and the extents that hold them. -/
def State.stepRecords (s : State) (g : Graft) : List Buf × List (W64 × Nat) :=
  match s.log? g.desc.log with
  | none => ([], [])
  | some l =>
    let a := g.startRecord + g.desc.batch * g.step
    ((l.records.drop (a - l.first)).take g.desc.batch, (logExtents (a * l.recordBytes) (g.desc.batch * l.recordBytes)).map fun e => (logObj l.index, e))

/-- The tuned rows as the gradient phase reads them: those homed here, and `far` those read on other ranks (R213, R227). -/
def State.gradRows (s : State) (g : Graft) (t : Table) (far : List (Nat × Buf)) : List (Nat × Buf) :=
  let here := (g.desc.tuned t.desc).filter fun b => (s.movedTo t t.current b).isNone && !s.blockBad t t.current b
  (here.flatMap (g.desc.rowsOf t.desc)).map (fun r => (r, Buf.slice (s.blockBytes t t.current (t.desc.blockOf r)) (t.desc.byteOf r) t.desc.rowBytes))
    ++ far.filter fun x => !here.contains (t.desc.blockOf x.1)

/-- The gradient of a bucket: what the image's GRAD range computes for each element of its tuned rows, padded with zeros (R211, R213; log 91). -/
def State.bucketGradient (s : State) (g : Graft) (t : Table) (rows : List (Nat × Buf)) (b : List Nat × Nat) : Nat × List W32 :=
  let digest := match (s.model? g.desc.image).bind fun m => s.image? m.image with | some im => im.digest | none => []
  let recs := (s.stepRecords g).1
  let v := (b.1.flatMap (g.desc.rowsOf t.desc)).flatMap fun r => (List.range t.desc.dim).map (Config.gradient digest recs rows r)
  (b.2, v ++ List.replicate (g.desc.elements t.desc b.1 - v.length) 0)

/-- GRADIENT_COMPLETE: the GRAD range has run over the step's records, read from flash, and has written g into the gradient buffer.  A record
that flash cannot deliver makes the rank vote NO (log 95). -/
def execGradientComplete (tag : GraftTag) (far : List (Nat × Buf)) (media : Media) (s : State) : Outcome :=
  .next (s.atTag tag fun j s =>
    if j.phase ≠ .gradient ∨ j.gradDone = true ∨ s.recordsThere j = false then s
    else
      match s.tableOf j with
      | none => s
      | some t =>
        let r := s.readExtents media (s.stepRecords j).2
        if r.1 ≠ [] then State.follow tag.job (r.2.sendVote tag.job false false .damaged)
        else
          let rows := r.2.gradRows j t far
          let g := (r.2.bucketsOf j).map (r.2.bucketGradient j t rows)
          let s := r.2.modGraft tag.job fun j => { j with gradient := g, gradDone := true }
          if j.coordinator = s.ownRank then s.takeReady tag.job s.ownRank
          else s.sendMsg j.coordinator .gradReady [tag.job, tag.step, tag.attempt, s.fabric.epoch])

/-- GRAD_READY at the coordinator. -/
def execGradReady (tag : GraftTag) (s : State) : Outcome :=
  .next (s.graftMsg tag fun _ s => if s.others.contains tag.rank then s.takeReady tag.job tag.rank else s)

/-- REDUCE from the coordinator. -/
def execReduce (tag : GraftTag) (s : State) : Outcome :=
  .next (s.graftMsg tag fun g s => if g.coordinator = s.ownRank then s else (s.reduceHere tag.job).1)

/-- A member's announcement at a head. -/
def execAnnounceReceived (tag : GraftTag) (a : Announce) (s : State) : Outcome :=
  .next (s.graftMsg tag fun _ s => if (s.ownGroup.2).contains a.rank then s.takeAnnounce tag.job a else s)

/-- A predecessor's partial at a chain member. -/
def execChainHop (tag : GraftTag) (p : ChainMsg) (s : State) : Outcome :=
  .next (s.graftMsg tag fun _ s =>
    match readPartial p with
    | some p => if p.group = s.ownGroup.1 ∧ (s.ownGroup.2).headD s.ownRank ≠ s.ownRank then s.runHop tag.job p else s
    | none => s)

/-- A group partial or a raw sample at an owner. -/
def execGroupPartial (tag : GraftTag) (msg : OwnerMsg) (s : State) : Outcome :=
  .next (s.graftMsg tag fun g s =>
    let k := match msg with | .partialSum p => p.bucket | .rawSample r => r.bucket
    if (s.ownBuckets g).any fun b => b.2 == k then s.takeOwnerMsg tag.job msg else s)

/-- The count of the step's knot, and the count it waits for. -/
def Graft.signals (g : Graft) : Nat := g.groups.length + g.samples.length
def State.barrierTarget (s : State) (g : Graft) : Nat := (s.ownBuckets g).length * (s.leafGroups.length + s.ranks.length)

/-- The first scale block of the owned buckets that mismatches: bucket, block. -/
def State.firstMismatch (s : State) (g : Graft) (sums : List (Nat × List W32)) : Option (Nat × Nat) :=
  sums.findSome? fun b =>
    let parts := g.groups.filter fun p => p.bucket == b.1
    let raws := g.samples.filter fun r => r.bucket == b.1
    ((sampledBlocks g.step b.1 b.2.length).find? fun j => blockMismatch b.2 parts raws s.ranks.length j).map fun j => (b.1, j)

/-- GRAFT_BARRIER: the owner sums, checks and votes. -/
def execGraftBarrier (job : Nat) (s : State) : Outcome :=
  .next (match s.graftAt job, (s.graftAt job).bind s.tableOf with
    | some g, some t =>
      if g.phase ≠ .reduce ∨ g.voted = true ∨ s.ownBuckets g = [] ∨ g.signals ≠ s.barrierTarget g then s
      else
        let sums := (s.ownBuckets g).map fun b =>
          let parts := g.groups.filter fun p => p.bucket == b.2
          (b.2, (List.range (g.desc.elements t.desc b.1)).map (sumElement parts))
        let miss := s.firstMismatch g sums
        let nan := sums.any fun b => !(b.2.all fpFinite)
        let res := (s.bucketsOf g).any fun b => match s.home? (residualObj job b.2) with | some h => h.damaged | none => true
        let damaged := s.tunedDamaged g || res
        let yes := !damaged && miss.isNone && !nan
        let s := match miss with
          | some m => s.logCounted { cls := .ue, unitType := unitGraft, unitIndex := job, addr := BitVec.ofNat 64 g.step
                                     lastAddr := BitVec.ofNat 64 (m.1 * 2 ^ 32 + m.2), source := 3 }
          | none => s
        let s := s.modGraft job fun g => { g with sums := sums, voted := true, votedYes := yes }
        State.follow job (s.sendVote job yes (g.groups.any (·.rescaled)) (if damaged then .damaged else if yes then .done else .suspect))
    | _, _ => s)

/-- GRAFT_VOTE at the coordinator: a vote of an owner, or the ABORT of a rank's timeout. -/
def execGraftVote (tag : GraftTag) (yes rescaled : Bool) (cause : StopCause) (s : State) : Outcome :=
  .next (s.graftMsg tag fun g s =>
    if s.others.contains tag.rank = false ∨ (yes = true ∧ (g.phase ≠ .reduce ∨ (s.graftOwners g).contains tag.rank = false)) then s
    else State.follow tag.job (s.takeVote tag.job tag.rank yes rescaled cause))

/-- GRAFT_DECISION from the coordinator. -/
def execGraftDecision (tag : GraftTag) (commit : Bool) (cause : StopCause) (s : State) : Outcome :=
  .next (s.graftMsg tag fun g s =>
    if g.coordinator = s.ownRank ∨ (commit = true ∧ (g.phase ≠ .reduce ∨ (s.ownBuckets g ≠ [] ∧ g.votedYes = false))) then s
    else if commit then s.commitStep tag.job else (s.abortStep tag.job cause).1)

/-! ### Timeouts (R225) and the query (R222) -/

/-- HOP_TIMEOUT: some bucket has not been passed on. -/
def execHopTimeout (tag : GraftTag) (s : State) : Outcome :=
  .next (s.atTag tag fun g s =>
    if g.phase = .reduce ∧ (s.bucketsOf g).any (fun b => !g.passed.contains b.2) = true then
      State.follow tag.job (s.sendVote tag.job false false .deadline)
    else s)

/-- STEP_TIMEOUT: at an owner before its barrier, or at the coordinator before its last vote. -/
def execStepTimeout (tag : GraftTag) (s : State) : Outcome :=
  .next (s.atTag tag fun g s =>
    if g.phase = .reduce ∧ ((g.coordinator = s.ownRank ∧ s.allYes g = false) ∨ (s.ownBuckets g ≠ [] ∧ g.voted = false)) then
      State.follow tag.job (s.sendVote tag.job false false .deadline)
    else s)

/-- GRAFT_VOTE_QUERY_TIMER: an owner that voted YES without a decision queries the coordinator. -/
def execGraftVoteQueryTimer (job : Nat) (s : State) : Outcome :=
  .next (match s.graftAt job with
    | none => s
    | some g =>
      if g.phase = .reduce ∧ g.votedYes = true ∧ g.coordinator ≠ s.ownRank then
        s.sendMsg g.coordinator .voteQuery [job, g.step, g.attempt]
      else s)

/-- The coordinator goes on with a COMMIT that waited for a checkpoint (R229). -/
def State.resumeCommit (s : State) (i : Nat) : State :=
  match s.graftAt i with
  | none => s
  | some g => if g.coordinator = s.ownRank ∧ g.ckptStep.isNone = true ∧ s.allYes g = true then State.follow i (s.decideStep i true .done) else s

/-- GRAFT_CHECKPOINT: this owner's part is written, or another owner reports its own. -/
def execGraftCheckpoint (job rank : Nat) (peers : List (Nat × Buf)) (s : State) : Outcome :=
  .next (match s.graftAt job with
    | none => s
    | some g =>
      if g.ckptStep.isNone then s
      else if rank = s.ownRank then ((s.writeCkpt job peers).settleCkpt job).resumeCommit job
      else if g.coordinator = s.ownRank ∧ (s.graftOwners g).contains rank = true ∧ g.ckptDone.contains rank = false then
        ((s.modGraft job fun g => { g with ckptDone := g.ckptDone ++ [rank] }).settleCkpt job).resumeCommit job
      else s)

/-- An owner asks for the decision on an attempt (R222): the one recorded for it; for an attempt that is not in progress here any more, and
whose COMMIT is not recorded, ABORT. -/
def State.answerVote (s : State) (rank : Nat) (tag : GraftTag) : State :=
  match s.graftAt tag.job with
  | none => s
  | some g =>
    let known : Option Bool := match g.decision with | some (k, a, c) => if k = tag.step ∧ a = tag.attempt then some c else none | none => none
    if known.isNone && decide (g.phase ≠ .stopped) && g.step == tag.step && g.attempt == tag.attempt then s
    else s.sendMsg rank .graftDecision [tag.job, tag.step, tag.attempt, (known.getD false).toNat, StopCause.code .notReady]

/-- A coordinator that has been reset sends the decisions it reads from flash again (R204, R222). -/
def State.resendDecisions (s : State) : State :=
  s.grafts.list.foldl (fun s g =>
    match g.decision with
    | some (k, a, c) => if g.coordinator = s.ownRank then s.sendAll .graftDecision [g.index, k, a, c.toNat, StopCause.code .notReady] else s
    | none => s) s

/-- The epoch of a rank has changed: every running job's attempt aborts and the job stops; an owner that has voted YES first learns the
decision (R222, R224, R226). -/
def State.graftEpoch (s : State) : State :=
  (s.grafts.list.filter fun g => decide (g.phase ≠ .stopped)).foldl (fun s g =>
    let s := s.modGraft g.index fun g => { g with ckptStep := none, ckptDone := [] }
    if g.coordinator = s.ownRank then (s.decideStep g.index false .notReady).1
    else if g.votedYes then s.modGraft g.index fun g => { g with inDoubt := true }
    else (s.abortStep g.index .notReady).1) s

end Sys2Proof.Machine
end

