-- ==== Sys2Proof/Machine/Woane.lean ====
section
/-! DEFINITION. Woane (chapter 14): what a received packet passes, epochs and DOWN peers, HELLO, flows as sender and receiver,
credits, acknowledgements, retransmission, rates, audits and exchanges (R336 to R352, R356). -/

namespace Sys2Proof.Machine

open Sys2Proof

/-! ### What is held with a peer's epoch (R339, R340) -/

/-- The flows with a peer close; their buffers and credits end with them. -/
def State.closeFlows (s : State) (rank : Nat) : State :=
  (s.modFabric fun f => { f with tx := f.tx.filter (fun x => !(x.rank == rank)), rx := f.rx.filter (fun x => !(x.rank == rank)) }).modPeer rank
    fun p => { p with ceSeen := [] }

/-- A plot search in progress that a member leaves ends at its stage's boundary with NOT_READY (R356). -/
def State.plotLost (s : State) (rank : Nat) : State :=
  let hit := fun (r : Req) => s.isPlotReq r && (decide (r.stage = .scan) || decide (r.stage = .exact) || decide (r.stage = .fetch))
  s.modAns fun a => { a with reqs := updWhere hit (fun r => { r with status := some .notReady, awaiting := r.awaiting.filter (· != rank) }) a.reqs }

/-- The votes of a peer in commits not yet decided. -/
def State.dropVotes (s : State) (rank : Nat) : State :=
  let s := s.modTables fun t => { t with list := t.list.map fun x =>
    { x with publish := x.publish.map fun p => if p.phase = .preparing then { p with yes := p.yes.filter (· != rank) } else p } }
  s.modFabric fun f => { f with
    plotCommits := f.plotCommits.map fun c => if c.phase = .preparing then { c with yes := c.yes.filter (· != rank) } else c }

/-- Everything held with a peer's old epoch ends (R196, R201, R222, R356). -/
def State.endPeer (s : State) (rank : Nat) : State :=
  let gone := s.fabric.exchanges.filter fun x => x.rank == rank
  let s := s.closeFlows rank
  let s := (gone.filter fun x => x.kind == 0).foldl (fun s x => s.loseServer x.sid rank) s
  let s := (s.plotLost rank).modFabric fun f => { f with exchanges := f.exchanges.filter fun x => !(x.rank == rank) }
  (((s.peerTables rank).dropVotes rank)).graftEpoch

/-- OPEN on every flow to a peer that is not open (R340, R343). -/
def State.openFlows (s : State) (rank : Nat) : State :=
  (List.range 4).foldl (fun s c => if (s.tx rank c).opened then s else s.sendPacket rank pktOpen c 0 false false [BitVec.ofNat 8 c]) s

/-- A packet shows a higher epoch of a peer (R339, R343). -/
def State.peerEpoch (s : State) (rank srcEpoch : Nat) : State :=
  let s := (s.endPeer rank).modFabric fun f => { f with epochChanges := satInc f.epochChanges }
  (s.modPeer rank fun p => { p with knownEpoch := srcEpoch, down := false }).openFlows rank

/-- The sled's own epoch rises without a reset: every flow ends, and so does a graft attempt (R222, R338, R343).  The sled is itself
a member of each plot search that it runs, so those end at their stages' boundaries (R356). -/
def State.raiseEpoch (s : State) : State :=
  let s := (s.count ctrEpoch).plotLost s.ownRank
  let s := s.modAns fun a => { a with reqs := updWhere s.isPlotReq (fun r => { r with awaiting := [] }) a.reqs }
  let s := s.modFabric fun f => { f with epoch := f.epoch + 1, tx := [], rx := [], exchanges := f.exchanges.filter fun x => x.kind == 0 }
  s.ownTables.graftEpoch

/-- PEER_DOWN_TIMEOUT: no packet from a peer for 1.0 s (R340). -/
def execPeerDownTimeout (rank : Nat) (s : State) : Outcome :=
  .next (if s.others.contains rank ∧ (s.peer rank).down = false then
      let s := (s.modPeer rank fun p => { p with down := true, deadEpoch := p.knownEpoch }).modFabric fun f => { f with downs := satInc f.downs }
      s.endPeer rank
    else s)

/-! ### A received packet (R339, R342) -/

def State.woaneStale (s : State) : State := s.modFabric fun f => { f with stale := satInc f.stale }

/-- The rules of R339 in order.  `dst` is DST_EPOCH, none for HELLO and OPEN, to which the third does not apply. -/
def State.woaneCheck (s : State) (rank srcEpoch : Nat) (tagOk : Bool) (dst : Option Nat) : Bool × State :=
  let p := s.peer rank
  if !tagOk || !s.others.contains rank || p.foreign then (false, s.woaneStale)
  else if srcEpoch ≤ p.deadEpoch then (false, s.woaneStale.sendHello rank true srcEpoch)
  else if (match dst with | some d => decide (srcEpoch < p.knownEpoch) || decide (d ≠ s.fabric.epoch) | none => false) then (false, s.woaneStale)
  else if p.knownEpoch < srcEpoch then (true, s.peerEpoch rank srcEpoch)
  else (true, s)

/-! ### HELLO (R340, R350, R358) -/

/-- HELLO_TIMER: a HELLO to every member each 10 ms. -/
def execHelloTimer (s : State) : Outcome := .next s.helloAll

/-- What a HELLO that passed the checks says.  After one that raises the sled's epoch, the next HELLO reopens the flows (R340). -/
def State.takeHello (s : State) (rank : Nat) (b : HelloBody) : State :=
  if b.dead ∧ b.deadEpoch < s.fabric.epoch then s
  else
    let raised := decide (b.dead ∧ b.deadEpoch = s.fabric.epoch)
    let s := if raised then s.raiseEpoch else s
    let old := s.path
    let s := s.modPeer rank fun p => { p with portMask := b.portMask, load := b.load }
    let s := s.auditChanged old
    (if raised then s else s.openFlows rank).settleReroute

/-- A HELLO from a sled: other settings make it a non-member; else the rules of R339, and what it says. -/
def State.receiveHello (s : State) (rank srcEpoch : Nat) (tagOk : Bool) (b : HelloBody) : State :=
  if !s.others.contains rank then s.woaneStale
  else if b.plotId ≠ s.plotId ∨ b.listDigest ≠ s.listDigest then (s.modPeer rank fun p => { p with foreign := true }).woaneStale
  else
    let r := (s.modPeer rank fun p => { p with foreign := false }).woaneCheck rank srcEpoch tagOk none
    if r.1 then r.2.takeHello rank b else r.2

/-- HELLO. -/
def execHello (rank srcEpoch : Nat) (body : HelloBody) (s : State) : Outcome := .next (s.receiveHello rank srcEpoch true body)

/-! ### Flows as receiver (R343 to R346, R351) -/

def State.rx? (s : State) (b c : Nat) : Option RxFlow := s.fabric.rx.find? fun f => f.rank == b && f.cls == c

def State.setRx (s : State) (f : RxFlow) : State :=
  s.modFabric fun x => { x with rx := upsert (fun g => g.rank == f.rank && g.cls == f.cls) f x.rx }

/-- CREDITS of the settings. -/
def State.credits (s : State) : Nat := match s.fabric.plot with | some p => p.credits | none => 0

/-- SACK: bit i for PSN CUM_PSN + 1 + i. -/
def RxFlow.sack (f : RxFlow) : W64 :=
  (List.range 64).foldl (fun v i => setBit v i (f.buffered.any fun b => b.1 == f.cumPsn + 1 + BitVec.ofNat 32 i)) 0

/-- The 32 bytes of an acknowledgement (table *Acknowledgement payload*). -/
def RxFlow.ackBytes (f : RxFlow) : Buf :=
  List.replicate 8 0 ++ leBytes 4 f.cumPsn.toNat ++ leBytes 8 f.sack.toNat ++ leBytes 8 f.returned ++ leBytes 4 f.ceTotal.toNat

/-- Send an acknowledgement of a kind: what has arrived and been released is reported. -/
def State.sendAck (s : State) (b c kind : Nat) : State :=
  match s.rx? b c with
  | none => s
  | some f => (s.setRx { f with sinceAck := 0, unreported := false }).sendPacket b kind c 0 false false f.ackBytes

/-- OPEN is answered with OPEN_OK; a repeated OPEN finds its flow. -/
def State.takeOpen (s : State) (b c : Nat) : State :=
  if 4 ≤ c then s
  else
    let s := if (s.rx? b c).isSome then s else s.setRx { rank := b, cls := c, grant := s.credits }
    let g := match s.rx? b c with | some f => f.grant | none => 0
    s.sendPacket b pktOpenOk c 0 false false [BitVec.ofNat 8 c, BitVec.ofNat 8 g]

/-- OPEN (R343). -/
def execOpenFlow (rank cls : Nat) (s : State) : Outcome := .next (if s.others.contains rank then s.takeOpen rank cls else s)

/-- CUM_PSN advances over what is buffered. -/
def advanceCum (have_ : W32 → Bool) : Nat → W32 → W32
  | 0, c => c
  | n + 1, c => if have_ (c + 1) then advanceCum have_ n (c + 1) else c

/-- A DATA packet: accepted in the window of 64 after CUM_PSN, buffered on its first receipt (R344, R345). -/
def State.takeData (s : State) (b c : Nat) (psn : W32) (first last ce : Bool) (payload : Buf) : State :=
  match s.rx? b c with
  | none => s.woaneStale
  | some f =>
    let d := (psn - f.cumPsn).toNat
    let f := { f with ceTotal := if ce then f.ceTotal + 1 else f.ceTotal, unreported := true }
    if d < 1 ∨ 64 < d then (s.setRx f).woaneStale
    else
      let dup := f.buffered.any fun x => x.1 == psn
      let buffered := if dup then f.buffered else f.buffered ++ [(psn, first, last, payload)]
      let inOrder := decide (d = 1) && !dup
      let cum := advanceCum (fun p => buffered.any fun x => x.1 == p) 64 f.cumPsn
      let n := if inOrder then f.sinceAck + 1 else f.sinceAck
      let s := s.setRx { f with buffered := buffered, cumPsn := cum, sinceAck := n }
      if !inOrder || decide (8 ≤ n) then s.sendAck b c pktAck else s

/-- A DATA packet of a flow would be accepted: in the window, and not yet buffered (R345). -/
def State.fresh? (s : State) (b c : Nat) (psn : W32) : Bool :=
  match s.rx? b c with
  | some f => decide (1 ≤ (psn - f.cumPsn).toNat) && decide ((psn - f.cumPsn).toNat ≤ 64) && !f.buffered.any fun x => x.1 == psn
  | none => false

/-- ACK_TIMER: 20 µs after an arrival or a release that no ACK reports (R345). -/
def execAckTimer (rank cls : Nat) (s : State) : Outcome :=
  .next (match s.rx? rank cls with
    | some f => if f.unreported then s.sendAck rank cls pktAck else s
    | none => s)

/-- The packets of the message that begins at a PSN, when the whole message is there; the first argument bounds their number. -/
def messagePsns (buffered : List (W32 × Bool × Bool × Buf)) : Nat → W32 → Option (List W32)
  | 0, _ => none
  | n + 1, p =>
    match buffered.find? fun x => x.1 == p with
    | none => none
    | some (_, _, last, _) => if last then some [p] else (messagePsns buffered n (p + 1)).map fun l => p :: l

/-- BUFFER_RELEASE: the consumer has taken the oldest message, which begins at `psn` and is whole (R343, R344). -/
def execBufferRelease (rank cls : Nat) (psn : W32) (s : State) : Outcome :=
  .next (match s.rx? rank cls with
    | none => s
    | some f =>
      match f.buffered.find? fun x => x.1 == psn, messagePsns f.buffered 2049 psn with
      | some (_, first, _), some l =>
        let place := fun (p : W32) => (p - f.cumPsn + 0x80000000#32).toNat
        let oldest := f.buffered.all fun x => decide (place psn ≤ place x.1)
        if first = true ∧ oldest = true ∧ l.all (fun p => decide (place p ≤ 2 ^ 31)) = true then
          s.setRx { f with buffered := f.buffered.filter (fun x => !l.contains x.1), returned := f.returned + l.length, unreported := true }
        else s
      | _, _ => s)

/-- AUDIT is answered at once (R351). -/
def execAudit (rank cls : Nat) (_nextPsn : W32) (s : State) : Outcome := .next (s.sendAck rank cls pktAuditReply)

/-! ### Flows as sender (R343, R344, R346 to R348, R351) -/

/-- OPEN_OK opens a flow at PSN 0 with the grant. -/
def State.takeOpenOk (s : State) (b c credits : Nat) : State :=
  if 4 ≤ c ∨ (s.tx b c).opened = true then s
  else (s.setTx { (s.tx b c) with opened := true, grant := credits, nextPsn := 0, returnedSeen := 0, unacked := []
                                  cumSeen := 0xFFFFFFFF#32, timerUs := 200, expiries := 0, auditing := false }).pump b c

/-- OPEN_OK. -/
def execOpenOk (rank cls credits : Nat) (s : State) : Outcome :=
  .next (if s.others.contains rank then s.takeOpenOk rank cls credits else s)

/-- PSN a is b or lies before b, modulo 2³². -/
def psnAtMost (a b : W32) : Bool := decide ((b - a).toNat < 2 ^ 31)

/-- An acknowledgement shows a PSN as received. -/
def AckBodyShows (k : AckBody) (p : W32) : Bool :=
  psnAtMost p k.cum || (List.range 64).any fun i => k.sack.getLsbD i && p == k.cum + 1 + BitVec.ofNat 32 i

/-- A PSN after which another has been acknowledged: a gap. -/
def AckBodyGap (k : AckBody) (p : W32) : Bool :=
  (List.range 64).any fun i => k.sack.getLsbD i && p != k.cum + 1 + BitVec.ofNat 32 i && psnAtMost p (k.cum + 1 + BitVec.ofNat 32 i)

/-- The cumulative counts of an acknowledgement: they only grow. -/
def TxFlow.take (f : TxFlow) (k : AckBody) : TxFlow :=
  let moved := decide (k.cum ≠ f.cumSeen) && psnAtMost f.cumSeen k.cum
  { f with returnedSeen := max f.returnedSeen k.returned, unacked := f.unacked.filter fun x => !AckBodyShows k x.1
           cumSeen := if moved then k.cum else f.cumSeen, timerUs := if moved then 200 else f.timerUs, expiries := if moved then 0 else f.expiries }

/-- Send PSNs again, each counted on its port. -/
def State.resend (s : State) (b c : Nat) (l : List (W32 × Bool × Bool × Buf)) : State :=
  l.foldl (fun s x =>
    let s := match s.path b c with | some (p, _) => s.bumpPort p 6 | none => s
    s.sendPacket b pktData c x.1 x.2.1 x.2.2.1 x.2.2.2) s

/-- The rate falls when CE_TOTAL of a flow has risen, at most once in 50 µs (R346, R348). -/
def State.takeCe (s : State) (b c : Nat) (total : W32) : State :=
  let p := s.peer b
  let seen := (assocGet c p.ceSeen).getD 0
  if total.toNat = seen then s
  else
    let may := match p.lowered with | some t => decide (countsOfUs 50 ≤ s.elapsed t) | none => true
    let now := s.pclk
    s.modPeer b fun p =>
      let p := { p with ceSeen := assocSet c total.toNat p.ceSeen }
      if may then { p with rate := max (3 * p.rate / 4) 5000, lowered := some now } else p

/-- ACK: counts, gaps, rate, and what the credits allow (R344, R347, R348). -/
def State.takeAck (s : State) (b c : Nat) (k : AckBody) : State :=
  let f := s.tx b c
  if f.opened then
    let f' := f.take k
    let s := (s.setTx f').takeCe b c k.ceTotal
    (s.resend b c (f'.unacked.filter fun x => AckBodyGap k x.1)).pump b c
  else s

/-- ACK. -/
def execAck (rank cls : Nat) (body : AckBody) (s : State) : Outcome := .next (s.takeAck rank cls body)

/-- RETRANSMIT_TIMER: every unacknowledged PSN again; the timer doubles up to 12.8 ms; from the third expiry on, and for an
audit without its reply, an AUDIT (R347, R351). -/
def execRetransmitTimer (rank cls : Nat) (s : State) : Outcome :=
  .next (
    let f := s.tx rank cls
    if f.opened = true ∧ (f.unacked ≠ [] ∨ f.auditing = true) then
      let f' := { f with timerUs := min (2 * f.timerUs) 12800, expiries := f.expiries + 1 }
      let s := (s.setTx f').resend rank cls f.unacked
      if 3 ≤ f'.expiries ∨ f.auditing = true then s.audit rank cls else s
    else s)

/-- WOANE_RATE_TIMER: 55 µs without a rise of CE_TOTAL (R348). -/
def execWoaneRateTimer (rank : Nat) (s : State) : Outcome :=
  .next (if s.others.contains rank then s.modPeer rank fun p => { p with rate := min (p.rate + 10000) 1600000 } else s)

/-- AUDIT_REPLY: RETURNED_SEEN rises, and every PSN the reply does not show is sent again (R351). -/
def State.takeAuditReply (s : State) (b c : Nat) (k : AckBody) : State :=
  let f := s.tx b c
  if f.opened then
    let f' := { (f.take k) with auditing := false }
    (((s.setTx f').resend b c f'.unacked).pump b c).settleReroute
  else s

/-- AUDIT_REPLY. -/
def execAuditReply (rank cls : Nat) (body : AckBody) (s : State) : Outcome := .next (s.takeAuditReply rank cls body)

/-! ### WOANE_PACKET_RECEIVE -/

def parseHello (b : Buf) : HelloBody :=
  { plotId := BitVec.ofNat 64 (Buf.le b 0 8), listDigest := Buf.slice b 8 8, portMask := BitVec.ofNat 12 (Buf.le b 16 2)
    dead := decide (Buf.at b 18 = 1), load := Buf.le b 19 4, deadEpoch := Buf.le b 23 4 }

def parseAck (b : Buf) : AckBody :=
  { cum := BitVec.ofNat 32 (Buf.le b 8 4), sack := BitVec.ofNat 64 (Buf.le b 12 8), returned := Buf.le b 20 8, ceTotal := BitVec.ofNat 32 (Buf.le b 28 4) }

/-! ### Exchanges (R352, R359) -/

/-- EXCHANGE_TIMEOUT: a sub-lookup is lost (R196); no chapter gives a plot search a timeout, so its exchange stays (R359). -/
def execExchangeTimeout (id : Nat) (s : State) : Outcome :=
  .next (match s.fabric.exchanges.find? fun x => x.id == id && x.kind == 0 with
    | none => s
    | some x => ((s.modFabric fun f => { f with timeouts := satInc f.timeouts, exchanges := f.exchanges.filter fun y => !(y.id == id) }).loseServer x.sid x.rank))

end Sys2Proof.Machine
end

