-- ==== Sys2Proof/Machine/Plot.lean ====
section
/-! DEFINITION. Plots (chapter 14): SET_PLOT (R336 to R338), commits of a plot index as two-phase commits run by the sequencer,
record-count summaries, and plot searches on a member and on the accepting sled (R353 to R356). -/

namespace Sys2Proof.Machine

open Sys2Proof

/-! ### SET_PLOT (R336, R337, R338, R353) -/

/-- Digests of the members that are not empty. -/
def PlotSettings.digests (p : PlotSettings) : List Buf := (p.members.map (·.digest)).filter (· != [])

/-- The list of members is in order for this sled (R337). -/
def State.membersOk (s : State) (p : PlotSettings) : Bool :=
  let old := match s.fabric.plot with | some q => q.members | none => []
  p.digests.contains s.idDigest && decide p.digests.Nodup
    && p.members.all (fun m => decide (((p.members.filter fun x => x.digest != []).filter fun x => x.leaf == m.leaf).length ≤ 32))
    && (List.range p.members.length).all fun i =>
        match p.members[i]? with
        | some m => m.digest == [] || !(old.zipIdx.any fun x => x.1.digest == m.digest && x.2 != i)
        | none => true

/-- Ranks whose member the new list no longer has. -/
def State.emptied (s : State) (p : PlotSettings) : List Nat :=
  s.others.filter fun r => match s.fabric.plot with
    | some q => (q.members[r]?.map (·.digest)) != (p.members[r]?.map (·.digest))
    | none => false

/-- A rank keeps a shard of a table, or a member of a plot index that has not been deleted (R67, log 36). -/
def State.rankHolds (s : State) (r : Nat) : Bool :=
  (s.tables.list.any fun t => t.desc.sharded && (t.keepers.take t.desc.shards).contains r)
    || match s.fabric.plot with
      | some q => q.plotIndexes.any fun e => match s.index? e.1 with | some x => x.releasedAt.isNone | none => false
      | none => false

/-- The plot index entries are in order: current handles, each once, each number once, new ones without a committed version. -/
def State.entriesOk (s : State) (p : PlotSettings) : Bool :=
  (p.plotIndexes.map (·.1)).all handleRsvOk && decide ((p.plotIndexes.map (·.1)).Nodup) && decide ((p.plotIndexes.map (·.2)).Nodup)
    && p.plotIndexes.all fun e => match s.index? e.1 with
        | some x => x.plot == some e.2 || x.current == 0
        | none => true

/-- SET_PLOT stores the settings, puts them in force, extends M3 and increments the epoch. -/
def execSetPlot (sid : Nat) (b : Option Buf) (bad : Option (Nat × W32)) (s : State) : Outcome :=
  .next (if s.boot.update.isSome then s else
    s.run sid 0xEB fun u s => s.withB u b fun buf =>
      let p := parsePlot buf
      s.settle u
        (when (!plotFormOk buf u.entry.length.toNat || !s.membersOk p || !s.entriesOk p) .badField
          ++ when (p.plotIndexes.any fun e => (s.index? e.1).isNone) .staleHandle
          ++ when ((s.emptied p).any s.rankHolds) .noResource)
        fun s =>
          let s := s.itemWriteBad itemPlot buf bad
          if bad.isSome then s.failWith u.sid .mediaError else
          let named := fun (x : Index) => (p.plotIndexes.find? fun e => e.1 == x.handle).map (·.2)
          let s : State := { s with boot := { s.boot with m3 := extend s.boot.m3 (sha3 buf) } }
          let s := (s.modFabric fun f => { f with plot := some p }).modIdx fun i => { i with list := i.list.map fun x => { x with plot := named x } }
          ((s.raiseEpoch).dropBits).completeOk u)

/-! ### Commits of a plot index (R354) -/

def State.plotIndex? (s : State) (plot : Nat) : Option Index := s.idx.list.find? fun x => x.plot == some plot

/-- The list a member commits itself: the one it carried, when it is the committing member. -/
def State.ownList (s : State) (x : Index) (p : PlotPrepared) : CommitList :=
  if p.rank = s.ownRank then match x.carried with | e :: _ => e.2 | [] => {} else {}

/-- Version n + 1 of a member: its own segments, and tombstones for what the commit deletes or inserts elsewhere. -/
def State.preparedVersion (s : State) (x : Index) (p : PlotPrepared) : Version := x.nextVersion (s.ownList x p) (p.inserted ++ p.deleted)

/-- The commit prepared for a plot index here. -/
def State.prepared? (s : State) (plot : Nat) : Option PlotPrepared := s.fabric.prepared.find? fun p => p.plot == plot

/-- A member prepares: its vote, and the inserted locators that are live on it. -/
def State.plotVote (s : State) (p : PlotPrepared) (digest : Buf) : Bool × List W128 × State :=
  match s.plotIndex? p.plot with
  | none => (false, [], s)
  | some x =>
    let mine := p.rank = s.ownRank
    let sealedOk := match x.carried with
      | e :: _ => (x.addedSegs e.2).all (·.number.isSome) && e.2.added.all fun h => (x.segment? h).isSome
      | [] => false
    if x.current = p.base ∧ x.digest = digest ∧ (s.prepared? p.plot).isNone ∧ (mine → sealedOk = true) then
      let live := ((x.liveRecs x.currentVersion).map fun r => r.2.2.locator).filter p.inserted.contains
      (true, live, s.modFabric fun f => { f with prepared := f.prepared ++ [p] })
    else (false, [], s)

/-- This member's record-count summary of a version (R355). -/
def Index.counts (x : Index) (v : Version) : List Nat :=
  let recs := x.allRecs v
  (List.range x.params.partitions).map fun p =>
    maxOf ((List.range 128).map fun c => (recs.filter fun r => r.1.partition == p && r.1.channel == c).length)

/-- A summary is held: 4 B a partition of the index pool. -/
def State.keepSummary (s : State) (y : PlotSummary) : State :=
  if s.fabric.summaries.any fun z => z.plot == y.plot && z.version == y.version && z.rank == y.rank then s
  else (s.chargePool poolIndex (4 * y.counts.length)).modFabric fun f => { f with summaries := f.summaries ++ [y] }

/-- A decision reaches a member: on COMMIT it publishes n + 1 and sends its summary; on ABORT n stays current. -/
def State.applyPlot (s : State) (plot : Nat) (commit : Bool) : State :=
  match s.prepared? plot, s.plotIndex? plot with
  | some p, some x =>
    let s := s.modFabric fun f => { f with prepared := f.prepared.filter fun q => !(q.plot == plot) }
    if commit then
      let v := s.preparedVersion x p
      let own := s.ownRank
      let y : PlotSummary := { plot := plot, version := v.number, rank := own, counts := x.counts v }
      (((s.publish x.handle (s.ownList x p) v).keepSummary y).sendAll .plotSummary ([plot, v.number] ++ y.counts))
    else s
  | _, _ => s

/-- The carried command of the committing member, here, ends. -/
def State.endCarried (s : State) (plot : Nat) (sid : Nat) (r : Result) : State :=
  match s.plotIndex? plot with
  | none => s
  | some x =>
    if x.carried.any fun e => e.1 == sid then
      let s := (s.modIndex x.handle fun x => { x with carried := x.carried.filter fun e => !(e.1 == sid) }).finish sid r
      match s.plotIndex? plot with
      | some x => s.sweepIndex x
      | none => s
    else s

/-- PREPARE of the first commit that waits for a plot index. -/
def State.startPlotCommit (s : State) (plot : Nat) : State × Option PlotCommit :=
  match s.fabric.plotCommits.find? fun c => c.plot == plot, s.plotIndex? plot with
  | some c, some x =>
    if c.phase = .preparing ∧ c.yes = [] then
      let c := { c with base := x.current }
      let s := s.modFabric fun f => { f with plotCommits := updWhere (fun y => y.plot == plot && y.sid == c.sid && y.rank == c.rank) (fun _ => c) f.plotCommits }
      (s.sendAll .plotPrepare ([plot, c.base, c.rank, c.inserted.length] ++ (c.inserted ++ c.deleted).map (·.toNat) ++ x.digest.map (·.toNat)), some c)
    else (s, none)
  | _, _ => (s, none)

/-- Change the commit in progress of a plot index. -/
def State.modCommit (s : State) (c : PlotCommit) (f : PlotCommit → PlotCommit) : State :=
  s.modFabric fun x => { x with plotCommits := updWhere (fun y => y.plot == c.plot && y.sid == c.sid && y.rank == c.rank) f x.plotCommits }

def State.dropCommit (s : State) (c : PlotCommit) : State :=
  s.modFabric fun x => { x with plotCommits := x.plotCommits.filter fun y => !(y.plot == c.plot && y.sid == c.sid && y.rank == c.rank) }

/-- Every member has confirmed: the command completes where it was accepted. -/
def State.closeCommit (s : State) (c : PlotCommit) : State :=
  let s := s.dropCommit c
  if c.rank = s.ownRank then s.endCarried c.plot c.sid { result0 := BitVec.ofNat 64 (c.base + 1) }
  else s.sendMsg c.rank .plotConfirm [c.plot, c.base + 1]

/-- The sequencer decides, records the decision on flash, sends it and carries it out. -/
def State.decidePlot (s : State) (c : PlotCommit) (commit : Bool) : State :=
  let own := s.ownRank
  let s := s.modFabric fun f =>
    { f with plotDecisions := f.plotDecisions ++ [(c.plot, c.base, commit)]
             plotCommitted := if commit then satInc f.plotCommitted else f.plotCommitted
             plotAborted := if commit then f.plotAborted else satInc f.plotAborted }
  let s := (s.sendAll .plotDecision [c.plot, c.base, commit.toNat]).applyPlot c.plot commit
  if commit then
    let s := s.modCommit c fun c => { c with phase := .committed, confirmed := [own] }
    if s.others = [] then s.closeCommit c else s
  else
    let s := s.dropCommit c
    if c.rank = own then s.endCarried c.plot c.sid { status := .noResource } else s

/-- A vote counts at the sequencer: all YES is COMMIT, one NO is ABORT. -/
def State.countPlotVote (s : State) (plot rank base : Nat) (yes : Bool) (live : List W128) : State :=
  match s.fabric.plotCommits.find? fun c => c.plot == plot with
  | none => s
  | some c =>
    if c.phase ≠ .preparing ∨ c.base ≠ base then s
    else if !yes then s.decidePlot c false
    else
      let l := if c.yes.contains rank then c.yes else c.yes ++ [rank]
      let c := { c with yes := l, live := c.live ++ live }
      let s := s.modCommit c fun _ => c
      if s.ranks.all l.contains then s.decidePlot c true else s

/-- The sequencer's own vote on a commit it has started. -/
def State.voteSelf (s : State) (o : Option PlotCommit) : State :=
  match o with
  | none => s
  | some c =>
    let own := s.ownRank
    let digest := match s.plotIndex? c.plot with | some x => x.digest | none => []
    let r := s.plotVote { plot := c.plot, base := c.base, rank := c.rank, inserted := c.inserted, deleted := c.deleted } digest
    r.2.2.countPlotVote c.plot own c.base r.1 r.2.1

/-- Run the commits that wait, one at a time; the first argument bounds how many a call starts. -/
def State.runCommits : Nat → State → Nat → State
  | 0, s, _ => s
  | n + 1, s, plot =>
    let r := s.startPlotCommit plot
    if r.2.isNone then s
    else State.runCommits n (r.1.voteSelf r.2) plot

/-- PLOT_COMMIT at the sequencer: a member's COMMIT_INDEX or COMPACT_INDEX, its own among them, in order of arrival. -/
def execPlotCommit (plot rank sid : Nat) (inserted deleted : List W128) (s : State) : Outcome :=
  .next (match s.plotIndex? plot with
    | none => s
    | some x =>
      let own := s.ownRank
      let known := s.fabric.plotCommits.any fun c => c.plot == plot && c.rank == rank && c.sid == sid
      if s.sequencer ≠ own ∨ known = true then s
      else
        let job : Option (List W128 × List W128) :=
          if rank = own then (x.carried.find? fun e => e.1 == sid).map fun e => (x.carriedInserts e.2, e.2.deleted)
          else if s.others.contains rank then some (inserted, deleted) else none
        match job with
        | none => s
        | some (ins, del) =>
          State.runCommits 2 (s.modFabric fun f =>
            { f with plotCommits := f.plotCommits ++ [{ plot := plot, base := x.current, rank := rank, sid := sid, inserted := ins, deleted := del }] }) plot)

/-- PLOT_PREPARE at a member: `rank` is the committing member. -/
def execPlotPrepare (rank plot base : Nat) (digest : Buf) (inserted deleted : List W128) (s : State) : Outcome :=
  .next (if (s.plotIndex? plot).isNone ∨ s.sequencer = s.ownRank then s
    else
      let r := s.plotVote { plot := plot, base := base, rank := rank, inserted := inserted, deleted := deleted } digest
      r.2.2.sendMsg s.sequencer .plotVote ([plot, base, r.1.toNat] ++ r.2.1.map (·.toNat)))

/-- PLOT_VOTE at the sequencer. -/
def execPlotVote (rank plot base : Nat) (yes : Bool) (live : List W128) (s : State) : Outcome :=
  .next (if s.sequencer = s.ownRank ∧ s.others.contains rank = true then State.runCommits 2 (s.countPlotVote plot rank base yes live) plot else s)

/-- PLOT_PREPARE_TIMEOUT: 2.0 s without every YES is ABORT. -/
def execPlotPrepareTimeout (plot : Nat) (s : State) : Outcome :=
  .next (match s.fabric.plotCommits.find? fun c => c.plot == plot with
    | some c => if c.phase = .preparing then State.runCommits 2 (s.decidePlot c false) plot else s
    | none => s)

/-- PLOT_DECISION at a member: COMMIT is confirmed to the sequencer; ABORT ends its own command with NO_RESOURCE. -/
def execPlotDecision (plot base : Nat) (commit : Bool) (s : State) : Outcome :=
  .next (match s.prepared? plot with
    | none => s
    | some p =>
      if p.base ≠ base ∨ s.sequencer = s.ownRank then s
      else
        let mine := p.rank = s.ownRank
        let s := s.applyPlot plot commit
        if commit then s.sendMsg s.sequencer .plotConfirm [plot, base + 1]
        else if mine then
          match (s.plotIndex? plot).bind fun x => x.carried.head? with
          | some e => s.endCarried plot e.1 { status := .noResource }
          | none => s
        else s)

/-- A confirmation of a plot commit: of a member at the sequencer, or of the sequencer at the committing member. -/
def State.plotConfirmed (s : State) (rank plot version : Nat) : State :=
  if s.sequencer = s.ownRank then
    match s.fabric.plotCommits.find? fun c => c.plot == plot with
    | none => s
    | some c =>
      if c.phase = .committed ∧ c.base + 1 = version ∧ s.others.contains rank = true then
        let l := if c.confirmed.contains rank then c.confirmed else c.confirmed ++ [rank]
        let s := s.modCommit c fun c => { c with confirmed := l }
        if s.ranks.all l.contains then State.runCommits 2 (s.closeCommit c) plot else s
      else s
  else if rank = s.sequencer then
    match s.plotIndex? plot with
    | none => s
    | some x =>
      match x.carried with
      | e :: _ => if version = x.current ∧ (s.prepared? plot).isNone then s.endCarried plot e.1 { result0 := BitVec.ofNat 64 version } else s
      | [] => s
  else s

/-- COMMIT_CONFIRM: of a table at its coordinator (R203), or of a plot index (R354). -/
def execCommitConfirm (rank : Nat) (plot : Bool) (id version : Nat) (s : State) : Outcome :=
  .next (if plot then s.plotConfirmed rank id version
    else
      match (s.tableAt id).bind (·.publish) with
      | none => s
      | some p =>
        if p.version = version ∧ p.phase = .committed then
          (s.modTable id fun t => { t with publish := some { p with confirmed := if p.confirmed.contains rank then p.confirmed else p.confirmed ++ [rank] } }).settlePublish
            id
        else s)

/-! ### What members tell one another (R67, R204, R354, R355) -/

/-- PIN_VERSION or UNPIN_VERSION on another member acts here too (R355). -/
def State.takePlotPin (s : State) (plot version : Nat) (pinned : Bool) : State :=
  match s.plotIndex? plot with
  | none => s
  | some x =>
    let n := s.event.1
    let s := s.event.2
    let f := fun (v : Version) => if pinned then { v with pinned := true, retiredAt := none } else v.unpin x.current n
    (s.modIndex x.handle fun x => { x with versions := updWhere (fun v => v.number == version) f x.versions }).sweepVersions x.handle

/-- DELETE_INDEX of another member: the sequencer carries it on to every member, and the member here is deleted in the same way (R67). -/
def State.takePlotDelete (s : State) (rank plot : Nat) : State :=
  match s.plotIndex? plot with
  | none => s
  | some x =>
    let n := s.event.1
    let s := s.event.2
    let s := if s.ownRank = s.sequencer then (s.others.filter (· != rank)).foldl (fun s r => s.sendMsg r .plotDelete [plot]) s else s
    let s := if x.releasedAt.isSome then s else s.modIndex x.handle fun x => { x with releasedAt := some n }
    match s.index? x.handle with
    | some x => s.sweepIndex x
    | none => s

/-- A member asks for the decision on a commit (R204, R354): the one recorded; for a commit that is not in progress any more, ABORT. -/
def State.answerPlotQuery (s : State) (rank plot base : Nat) : State :=
  let running : Bool := s.fabric.plotCommits.any fun c => c.plot == plot && c.base == base && decide (c.phase = PublishPhase.preparing)
  if s.sequencer ≠ s.ownRank ∨ running = true then s
  else
    let commit : Option Bool := (s.fabric.plotDecisions.find? fun d => d.1 == plot && d.2.1 == base && d.2.2).map (·.2.2)
    s.sendMsg rank .plotDecision [plot, base, (commit.getD false).toNat]

/-- DECISION_QUERY_TIMER: a rank that voted YES on a version of a table, or on a commit of a plot index, and has heard no decision asks for it
(R204, R354). -/
def execDecisionQueryTimer (plot : Bool) (id : Nat) (s : State) : Outcome :=
  .next (if plot then
      match s.prepared? id with
      | some p => if s.sequencer = s.ownRank then s else s.sendMsg s.sequencer .decisionQuery [1, id, p.base]
      | none => s
    else s.queryTable id)

/-- The sequencer after a reset sends the decisions it reads from flash again (R204, R354). -/
def State.resendPlots (s : State) : State :=
  if s.sequencer = s.ownRank then s.fabric.plotDecisions.foldl (fun s d => s.sendAll .plotDecision [d.1, d.2.1, d.2.2.toNat]) s else s

/-- READINESS_CHANGE: a readiness bit sets or clears as its conditions stand (R407).  When FLASHMAP sets, the decisions recorded on flash as
coordinator are sent again (R204, R222, R354). -/
def execReadinessChange (bit : Nat) (s : State) : Outcome :=
  .next (
    let t := s.changeReady bit
    if !s.isReady bitFlashmap && t.isReady bitFlashmap then t.resendDecisions.resendPlots else t)

/-- A message of another member that no row of the table names takes effect (R343). -/
def State.deliver (s : State) (rank : Nat) (m : PeerMsg) : State :=
  match m with
  | .newTable i gen creator d => if (s.tableAt i).isSome then s else s.addTable i gen creator d
  | .dropTable i => (match s.tableAt i with | some t => s.removeTable t | none => s)
  | .tableRows t n first b => s.takeRows t n first b
  | .takeBlock id b => s.takeBlock rank id b
  | .holdBlock id => s.holdBlock rank id
  | .refuseBlock id => s.abandonMove id .noResource
  | .leaveBlock id => s.leaveBlock id
  | .readRows sid t n rows => s.readRows rank sid t n rows
  | .readBlock id => s.sendBlock rank id
  | .updateDone sid t row st =>
    let s := (s.noteAnswer sid row st).settleAcks t
    if sid = 0 ∧ st = .damaged then s.tunedHurt t row else s
  | .decisionQuery plot id n => if plot then s.answerPlotQuery rank id n else s.answerQuery rank id n
  | .newLog i gen creator n => if s.grafts.logs.any fun l => l.index == i then s else s.addLog i gen creator n
  | .dropLog i => (match s.grafts.logs.find? fun l => l.index == i with | some l => s.removeLog l | none => s)
  | .newGraft i gen creator d => if (s.graftAt i).isSome then s
    else s.addGraft { index := i, gen := gen, desc := d, creator := creator, coordinator := rank }
  | .dropGraft i => (match s.graftAt i with | some g => s.removeGraft g | none => s)
  | .runGraft i step restore => s.takeRun i step restore
  | .stopGraft i c => s.takeStop i c
  | .graftDamaged i => s.stopJob i .damaged
  | .graftQuery tag => s.answerVote rank tag
  | .ckptRecorded i k => s.takeCkpt i k
  | .plotPin p n on => s.takePlotPin p n on
  | .plotDelete p => s.takePlotDelete rank p

/-- A DATA packet with its checks passed: what the messages that it completes say takes effect when it is accepted (R343 to R345). -/
def State.takeMessages (s : State) (rank cls : Nat) (psn : W32) (first last ce : Bool) (payload : Buf) (msgs : List PeerMsg) : State :=
  let t := s.takeData rank cls psn first last ce payload
  if s.fresh? rank cls psn then msgs.foldl (fun s m => s.deliver rank m) t else t

/-- DATA. -/
def execData (rank cls : Nat) (psn : W32) (first last ce : Bool) (payload : Buf) (msgs : List PeerMsg) (s : State) : Outcome :=
  .next (s.takeMessages rank cls psn first last ce payload msgs)

/-- What a packet of a known type does once it has passed. -/
def State.takePacket (s : State) (p : WPacket) : State :=
  let r := p.srcRank
  if p.kind = pktData then s.takeMessages r p.cls p.psn p.first p.last p.ce p.payload p.msgs
  else if p.kind = pktAck then s.takeAck r p.cls (parseAck p.payload)
  else if p.kind = pktOpen then s.takeOpen r (Buf.at p.payload 0).toNat
  else if p.kind = pktOpenOk then s.takeOpenOk r (Buf.at p.payload 0).toNat (Buf.at p.payload 1).toNat
  else if p.kind = pktAudit then s.sendAck r p.cls pktAuditReply
  else s.takeAuditReply r p.cls (parseAck p.payload)

/-- WOANE_PACKET_RECEIVE: counted on its port, checked, and handled or discarded. -/
def execWoanePacketReceive (p : WPacket) (s : State) : Outcome :=
  .next (
    let s := s.bumpPort p.port 0
    let s := if p.kind = pktData ∧ p.ce then s.bumpPort p.port 5 else s
    let tagOk := s.fabric.plot.isSome && p.plotTag == s.plotId.truncate 32
    if p.ver ≠ 1 ∨ p.kind < pktData ∨ pktAuditReply < p.kind then s.woaneStale
    else if p.kind = pktHello then
      (if tagOk then s.receiveHello p.srcRank p.srcEpoch true (parseHello p.payload) else s.woaneStale)
    else
      let r := s.woaneCheck p.srcRank p.srcEpoch tagOk (if p.kind = pktOpen then none else some p.dstEpoch)
      if r.1 then r.2.takePacket p else r.2)

/-- PLOT_SUMMARY of another member (R355). -/
def execPlotSummary (y : PlotSummary) (s : State) : Outcome :=
  .next (if (s.plotIndex? y.plot).isSome ∧ s.others.contains y.rank = true then s.keepSummary y else s)

/-! ### Plot searches (R356) -/

/-- The content of a version as a member serves it: published, or voted YES for (R354). -/
def State.servedVersion (s : State) (x : Index) (n : Nat) : Option Version :=
  match x.version? n with
  | some v => some v
  | none =>
    match x.plot.bind s.prepared? with
    | some p => if p.base + 1 = n then some (s.preparedVersion x p) else none
    | none => none

/-- The extents that a member's scan of partitions reads, or its exact stage for locators (R60, R83). -/
def State.memberReads (s : State) (x : Index) (v : Version) (vectors : Bool) (p : Rec → Bool) : List (W64 × Nat) :=
  nub ((x.segments.filter fun g => match g.number with | some n => v.segments.contains n | none => false).flatMap fun g =>
    (List.range 128).flatMap fun c => g.extentsWith x.params.dim c vectors fun y =>
      p y && !s.sliceDamaged x { segment := g.number.getD 0, partition := y.partition, channel := c })

/-- A member's merged list of a pass, the records it compared, and its DAMAGED mark (R73, R79, R81). -/
def State.memberScan (s : State) (x : Index) (v : Version) (sketch : BitVec 512) (filter : W32) (args : Buf) (nExact : Nat) (parts : List Nat) :
    List Cand × Nat × Bool :=
  let mine := (x.allRecs v).filter fun y => parts.contains y.1.partition
  let recs := mine.filter fun y => !s.sliceDamaged x y.1
  let keep := fun (m : W128) => match s.filter? filter with | some f => runFilter m args [] f.words | none => true
  let hits := recs.filter fun y => !v.tombs.contains (y.1, y.2.1) && keep y.2.2.metaBytes
  let cands : List Cand := hits.map fun y =>
    { locator := y.2.2.locator, slice := y.1, ordinal := y.2.1, dist := sketchDist sketch y.2.2.sketch, member := s.ownRank }
  let perChannel := (List.range 128).flatMap fun c => (sortBy Cand.nearer (cands.filter fun y => y.slice.channel == c)).take (min nExact 1024)
  ((sortBy Cand.nearer perChannel).take nExact, recs.length, (x.allRecs v).any fun y => s.sliceDamaged x y.1)

/-- A member's part of one stage, on what the ladder has delivered: the values of its reply (R50, R83, R238, R356). -/
def State.memberPart (s : State) (x : Index) (msg : PlotMsg) (media : Media) : Option (List Nat) × State :=
  match msg with
  | .scan version sketch filter args nExact parts =>
    (match s.servedVersion x version with
      | none => (none, s)
      | some v =>
        let s := s.readRuns media (s.memberReads x v false fun y => parts.contains y.partition)
        let r := s.memberScan ((s.index? x.handle).getD x) v sketch filter args nExact parts
        (some ([0, r.2.1, r.2.2.toNat, s.waitNs (x.allRecs v)] ++ r.1.flatMap fun c => [c.locator.toNat, c.dist]), s))
  | .exact version q locs =>
    (match s.servedVersion x version with
      | none => (none, s)
      | some v =>
        let s := s.readRuns media (s.memberReads x v true fun y => locs.contains y.locator)
        let x := (s.index? x.handle).getD x
        let score := fun (l : W128) => match (x.liveRecs v).find? fun y => y.2.2.locator == l && !s.sliceDamaged x y.1 with
          | some y => [l.toNat, (x.score q y.2.2.vector).toNat]
          | none => []
        (some (1 :: locs.flatMap score), s))
  | .fetch locs =>
    let r := s.readPassages media (s.sasel.eventSeq + 1) locs
    let text := fun (y : W128 × Option Buf) => match y.2 with | some b => y.1.toNat :: 1 :: b.length :: b.map (·.toNat) | none => [y.1.toNat, 0]
    (some (2 :: (locs.zip r.1).flatMap text), r.2)

/-- PLOT_SEARCH_MESSAGE: a member carries out its part and replies. -/
def execPlotSearchMessage (rank sid plot : Nat) (msg : PlotMsg) (media : Media) (s : State) : Outcome :=
  .next (match s.plotIndex? plot with
    | none => s
    | some x =>
      if s.others.contains rank = false then s
      else
        let r := s.memberPart x msg media
        match r.1 with
        | some l => r.2.sendMsg rank .plotReply (sid :: l)
        | none => r.2)

/-- What a member's reply adds to a request. -/
def Req.reply (r : Req) (rank : Nat) (k : PlotReply) : Option Req :=
  let r := { r with awaiting := r.awaiting.filter (· != rank) }
  match k, r.stage with
  | .scan l n damaged _, .scan =>
    let l := (sortBy Cand.nearer (l.map fun c => { c with member := rank })).take r.block.nExact
    some { r with contribs := r.contribs ++ [{ pass := r.pass, source := 1000 + rank, hub := 0, list := l, scanned := n }]
                  sawDamaged := r.sawDamaged || damaged }
  | .exact scores, .exact =>
    some { r with merged := r.merged.map fun c => if c.member = rank then { c with exact := (assocGet c.locator scores).getD c.exact } else c }
  | .fetch l, .fetch =>
    let put := fun (c : Cand) =>
      if c.member = rank then
        match assocGet c.locator l with
        | some (some b) => { c with passage := b }
        | _ => { c with lost := true }
      else c
    some { r with merged := r.merged.map put }
  | _, _ => none

/-- A member's actual W_scan exceeds the LOAD used at the request's admission, for the first time in this request (R358). -/
def Req.overruns (r : Req) (rank : Nat) : PlotReply → Bool
  | .scan _ _ _ waitNs => !r.overran && decide ((assocGet rank r.loads).getD 0 < waitNs)
  | _ => false

/-- PLOT_SEARCH_REPLY: a whole reply that the request awaits; any other is discarded and counted (R352).  A request whose bound a member's
W_scan exceeds is counted in LOAD_OVERRUNS (R358). -/
def execPlotSearchReply (rank sid : Nat) (reply : PlotReply) (s : State) : Outcome :=
  .next (
    let r := (s.req? sid).bind fun r => if r.awaiting.contains rank then r.reply rank reply else none
    match r with
    | some r =>
      if r.overruns rank reply then
        (s.modFabric fun f => { f with loadOverruns := satInc f.loadOverruns }).endExchange rank 1 sid |>.setReq { r with overran := true }
      else (s.endExchange rank 1 sid).setReq r
    | none => s.modFabric fun f => { f with lateReplies := satInc f.lateReplies })

end Sys2Proof.Machine
end

