-- ==== Sys2Proof/Machine/Queues.lean ====
section
/-! DEFINITION. NOP, queue pairs and clients: creation, doorbells, fetch, completion of DESTROY_QUEUE, quarantine, reports
(R273 to R282, R309, R312). -/

namespace Sys2Proof.Machine

open Sys2Proof

/-- NOP does nothing and completes OK (R322). -/
def execNop (sid : Nat) (s : State) : Outcome :=
  .next (s.run sid 0x00 fun u s => s.settle u [] fun s => s.completeOk u)

/-! ### CREATE_QUEUE (R274 to R276) -/

/-- A queue pair descriptor (R275). -/
structure QueueDesc where
  cqAddr : W64
  cqRkey : W32
  conn : W32
  client : Nat
  log2Depth : Nat
  rsv : Bool
  deriving DecidableEq, Repr

/-- The descriptor's fields (table *Queue pair descriptor*). -/
def parseQueueDesc (b : Buf) : QueueDesc :=
  let w := Buf.le b 44 4
  { cqAddr := BitVec.ofNat 64 (Buf.le b 56 8), cqRkey := BitVec.ofNat 32 (Buf.le b 52 4)
    conn := BitVec.ofNat 32 (Buf.le b 48 4), client := bitsOf w 5 12, log2Depth := bitsOf w 0 5
    rsv := bitsOf w 17 15 ≠ 0 || (Buf.slice b 0 44).any (· ≠ 0) }

/-- Entries of the submission rings of the pairs that hold one (R274). -/
def State.ringEntries (s : State) : Nat :=
  sumOf ((s.queues.filter fun q => decide (q.state ≠ .free)).map fun q => 2 ^ q.log2Depth)

/-- The lowest FREE index (R276). -/
def State.freeQueue (s : State) : Option Nat :=
  lowestFree ((s.queues.filter fun q => decide (q.state ≠ .free)).map (·.index)) 262144

/-- The statuses of a CREATE_QUEUE. -/
def State.createQueueErrs (s : State) (len : Nat) (d : QueueDesc) : List Status :=
  when (d.rsv || !handleRsvOk d.conn || decide (len ≠ 64) || decide (d.cqAddr.toNat % 32 ≠ 0) || decide (d.log2Depth < 1)
      || decide (16 < d.log2Depth) || (s.client? d.client).isNone) .badField
    ++ when (!s.connOpen d.conn) .staleHandle
    ++ when (!s.isReady bitQmgr) .notReady
    ++ when (decide (67108864 < s.ringEntries + 2 ^ d.log2Depth) || s.freeQueue.isNone) .noResource

/-- CREATE_QUEUE takes the lowest FREE index; the completion carries the handle and the ring's key and address. -/
def execCreateQueue (sid : Nat) (b : Option Buf) (s : State) : Outcome :=
  .next (s.run sid 0x01 fun u s => s.withB u b fun buf =>
    let d := parseQueueDesc buf
    s.settle u (s.createQueueErrs u.entry.length.toNat d) fun s =>
      match s.freeQueue with
      | none => s
      | some i =>
        let old := s.queue i
        let n := s.fresh.1
        let s := s.fresh.2
        let q : Queue :=
          { index := i, gen := old.gen, state := .active, conn := d.conn, client := d.client, log2Depth := d.log2Depth
            cqAddr := d.cqAddr, cqRkey := d.cqRkey, stale := old.stale }
        (s.setQueue q).complete u
          (BitVec.ofNat 64 ((mkQueueHandle q.gen i).toNat + 2 ^ 32 * (Config.rkey n).toNat)) (Config.ringAddr n))

/-- DESTROY_QUEUE: its pair has been DRAINING since its accept event; it completes when every other completion of the
pair has been written (R280). -/
def execDestroyQueue (sid : Nat) (s : State) : Outcome :=
  .next (s.run sid 0x02 fun u s => s.settle u [] fun s =>
    (s.start u.sid).settleDestroy (qhIndex u.entry.handleA))

/-- The statuses of an ATTACH_QUEUE (R309). -/
def State.attachErrs (s : State) (e : Entry) : List Status :=
  match s.activeQueue? e.handleA with
  | none => [.staleHandle]
  | some q =>
    when (s.connOpen q.conn) .badField
      ++ when (!s.connOpen e.handleB) .staleHandle
      ++ when (s.queues.any fun p => decide (p.state ≠ .free) && p.conn == e.handleB && p.client != q.client) .denied

/-- The held completions of a pair are written in order on its new connection, each once (R309). -/
def State.deliverHeld (s : State) (q : Queue) : State :=
  q.held.foldl (fun s c => s.emit (.write q.conn (q.cqSlot (c.seq - 1#32).toNat) q.cqRkey c.bytes))
    (s.setQueue { q with held := [] })

/-- ATTACH_QUEUE binds a pair whose connection is in error to another open connection of the same client (R309). -/
def execAttachQueue (sid : Nat) (s : State) : Outcome :=
  .next (s.run sid 0x03 fun u s => s.settle u (s.attachErrs u.entry) fun s =>
    let q := s.queue (qhIndex u.entry.handleA)
    (s.deliverHeld { q with conn := u.entry.handleB }).completeOk u)

/-- The code of a queue state in a report, in the order of the table *Queue states*. -/
def QState.code : QState → Nat
  | .free => 0 | .active => 1 | .draining => 2 | .quarantine => 3

/-- QUERY_QUEUE writes 64 B: state, F, T_last and counters; the byte layout is not stated (R322, log 15). -/
def queueReport (q : Queue) : Buf :=
  Buf.slice (Config.report 0x04 [q.state.code, q.fetched.toNat, q.tail.toNat, q.stale.toNat, q.badDoorbell.toNat,
    q.undelivered.toNat]) 0 64

/-- QUERY_QUEUE reports the pair and changes nothing. -/
def execQueryQueue (sid : Nat) (ok : Bool) (s : State) : Outcome :=
  .next (s.run sid 0x04 fun u s => s.settle u (when (decide (u.entry.length.toNat < 64)) .badField) fun s =>
    match s.queueOf? u.entry.handleA with
    | none => s.failWith u.sid .staleHandle
    | some q => s.report u ok (queueReport q) fun s => s.completeOk u)

/-! ### Doorbells (R277, R282, R312) -/

def frontDoorbells : Nat := 0x100000

/-- What the checks of R277 make of a doorbell. -/
inductive DoorbellOutcome
  | stale | bad | taken
  deriving DecidableEq, Repr

/-- The checks of R277, stale before bad. -/
def judgeDoorbell (q : Queue) (conn : W32) (index : Nat) (d : W64) : DoorbellOutcome :=
  let t : W32 := d.truncate 32
  let gen := d.toNat / 2 ^ 56
  let idx := bitsOf d.toNat 38 18
  if idx ≠ index ∨ gen ≠ q.gen ∨ q.state ≠ .active then .stale
  else if conn ≠ q.conn ∨ bitsOf d.toNat 32 6 ≠ 0 ∨ 2 ^ q.log2Depth < (t - q.fetched).toNat
      ∨ (t - q.fetched).toNat < (q.tail - q.fetched).toNat then .bad
  else .taken

/-- A write into the doorbell region (R312). -/
def State.doorbellWrite (s : State) (conn : W32) (offset : Nat) (data : Buf) : State :=
  if data.length ≠ 8 ∨ offset % 8 ≠ 0 then { s with hp := { s.hp with frontBadWrite := satInc s.hp.frontBadWrite } }
  else
    let i := (offset - frontDoorbells) / 8
    let d := BitVec.ofNat 64 (Buf.le data 0 8)
    let q := s.queue i
    match judgeDoorbell q conn i d with
    | .stale => s.setQueue { q with stale := satInc q.stale }
    | .bad => s.setQueue { q with badDoorbell := satInc q.badDoorbell }
    | .taken => s.setQueue { q with tail := d.truncate 32 }

/-- A doorbell write arrives on a connection at an offset of the doorbell region. -/
def execDoorbell (conn : W32) (offset : Nat) (data : Buf) (s : State) : Outcome :=
  .next (if s.connOpen conn ∧ frontDoorbells ≤ offset ∧ offset < 0x300000 then s.doorbellWrite conn offset data else s)

/-! ### Fetch (R277, R279) -/

/-- The queue manager may fetch from a pair: it is ready and accepting, the pair is ACTIVE on an open connection and
has an entry that a doorbell announced. -/
def State.canFetch (s : State) (q : Queue) : Bool :=
  s.accepts && s.isReady bitQmgr && decide (q.state = .active) && s.connOpen q.conn && decide (q.fetched ≠ q.tail)

/-- The next entry of a pair's ring. -/
def Queue.nextEntry (q : Queue) : Entry := Entry.parse ((assocGet (q.fetched.toNat % 2 ^ q.log2Depth) q.ring).getD [])

/-- Fetch one entry: F advances; an entry of another generation is discarded and counted stale, any other is accepted. -/
def State.fetch (s : State) (i : Nat) : State :=
  let q := s.queue i
  if s.canFetch q then
    let e := q.nextEntry
    let q' := { q with fetched := q.fetched + 1 }
    if e.gen.toNat = q.gen then ((s.setQueue q').accept (.queue i) q.conn q.client e []).2
    else s.setQueue { q' with stale := satInc q.stale }
  else s

/-- The queue manager fetches the next entry of a pair. -/
def execSubmissionFetch (queue : Nat) (s : State) : Outcome := .next (s.fetch queue)

/-- A pair leaves QUARANTINE once its connection has been flushed: the ring is released, the generation increments and
the index is FREE (R281). -/
def execQuarantineExit (queue : Nat) (s : State) : Outcome :=
  let q := s.queue queue
  .next (if q.state = .quarantine ∧ q.flushed = true then
      s.setQueue { index := queue, gen := nextGen q.gen, stale := q.stale }
    else s)

/-! ### Clients (R273) -/

/-- QUERY_CLIENT writes 32 B of the counts of R273; the byte layout is not stated (log 15). -/
def clientReport (c : Client) : Buf := Buf.slice (Config.report 0x70 [c.current, c.admitted, c.finished, c.limit]) 0 32

/-- QUERY_CLIENT reports an enrolled client's counts. -/
def execQueryClient (sid : Nat) (ok : Bool) (s : State) : Outcome :=
  .next (s.run sid 0x70 fun u s =>
    match s.client? u.entry.arg0.toNat with
    | none => s.settle u [.badField] fun s => s
    | some c => s.settle u (when (decide (u.entry.length.toNat < 32)) .badField) fun s =>
        s.report u ok (clientReport c) fun s => s.completeOk u)

/-- A client has a queue pair. -/
def State.clientHasQueue (s : State) (c : Nat) : Bool :=
  s.queues.any fun q => decide (q.state ≠ .free) && q.client == c

/-- Set a client's limit, enrolling it if it is not; limit 0 removes it (R273). -/
def State.enrol (s : State) (c limit : Nat) : State :=
  let cs := s.sasel.clients
  let cs' := if limit = 0 then cs.filter (fun x => !(x.index == c))
    else if (s.client? c).isSome then updWhere (fun x => x.index == c) (fun x => { x with limit := limit }) cs
    else cs ++ [{ index := c, limit := limit }]
  { s with sasel := { s.sasel with clients := cs' } }

/-- ENROL_CLIENT (R273). -/
def execEnrolClient (sid : Nat) (s : State) : Outcome :=
  .next (s.run sid 0xE0 fun u s =>
    let c := u.entry.arg0.toNat
    let limit := u.entry.arg1.toNat
    s.settle u
      (when (decide (1048576 < limit) || (decide (limit = 0) && decide (c = 0))) .badField
        ++ when (decide (limit = 0) && s.clientHasQueue c) .noResource)
      fun s => (s.enrol c limit).completeOk u)

end Sys2Proof.Machine
end

