-- ==== Sys2Proof/Machine/Front.lean ====
section
/-! DEFINITION. The FRONT window as it reads (R311 to R315): identity block, readiness block, mailbox slots, doorbells,
telemetry block (R27, R29, R31, R86, R130, R157, R161, R163, R257, R308, R360, R383, R403, R449, R465); and as it is written. -/

namespace Sys2Proof.Machine

open Sys2Proof

def frontBytes : Nat := 0x1000000
def mailboxBase : Nat := 0x10000

/-! ### Identity block (R313) -/

/-- The ordering number in ASCII (table *Ordering numbers*). -/
def orderingNumber (half : Bool) : Buf :=
  (if half then [0x52, 0x4C, 0x58, 0x2D, 0x33, 0x32, 0x30, 0x2D, 0x4C, 0x51, 0x2D, 0x53]
   else [0x52, 0x4C, 0x58, 0x2D, 0x36, 0x34, 0x30, 0x2D, 0x4C, 0x51, 0x2D, 0x53]).map (BitVec.ofNat 8)

/-- An integer's bytes in network order. -/
def beBytes (n v : Nat) : Buf := (leBytes n v).reverse

/-- The first 64 bytes of the identity block (table *Identity block*). -/
def State.identityHead (s : State) : Buf :=
  leBytes 4 0x464E4F52 ++ leBytes 2 s.boot.saselRev.toNat
    ++ [if s.boot.half then 1 else 0, if s.boot.half then 12 else 24] ++ List.replicate 8 0
    ++ Buf.slice s.idDigest 0 16 ++ List.replicate 4 0 ++ leBytes 4 (if s.boot.half then 320000 else 640000)
    ++ [BitVec.ofNat 8 s.hp.wide.toNat, s.power.slotId.zeroExtend 8] ++ beBytes 6 s.boot.mac.toNat ++ leBytes 4 s.boot.rollback
    ++ leBytes 4 s.boot.fwVersion.toNat ++ leBytes 8 s.boot.serial.toNat

/-- The identity block. -/
def State.identityBlock (s : State) : Buf :=
  s.identityHead ++ Buf.slice (orderingNumber s.boot.half) 0 16 ++ List.replicate 176 0 ++ Buf.slice s.boot.identityKey 0 1312

/-! ### Readiness block (R314, R417) -/

/-- The readiness block: bits, ERASE_FLAGS, sectors erased again, flag bitmap. -/
def State.readinessBlock (s : State) : Buf :=
  let again := s.boot.erasedAgain
  leBytes 16 s.boot.ready.toNat ++ leBytes 4 s.boot.eraseFlags.toNat ++ leBytes 4 again.length ++ List.replicate 8 0
    ++ Buf.slice (again.flatMap (leBytes 2)) 0 2016
    ++ (List.range 2048).map fun i => BitVec.ofNat 8 (sumOf ((List.range 8).map fun k => if s.boot.flagged.contains (8 * i + k) then 2 ^ k else 0))

/-! ### Mailbox slots (R324) -/

def SlotState.code : SlotState → Nat
  | .idle => 0 | .accepted => 1 | .rejected => 2 | .done => 3

/-- A slot's 4 KiB (table *Mailbox slot*). -/
def Mailbox.bytes (m : Mailbox) : Buf :=
  Buf.slice m.entry 0 64 ++ m.completion.bytes ++ leBytes 8 (m.state.code + 256 * m.reason + 2 ^ 32 * m.seq.toNat)
    ++ List.replicate 24 0 ++ Buf.slice m.data 0 3960 ++ leBytes 8 m.control.toNat

/-! ### Telemetry block (R315)

A field is its offset in the block, its width in bytes and its value.  A field whose width the tables do not give is 8 B wide
(log 51). -/

abbrev Field := Nat × Nat × Nat

/-- Consecutive 8 B fields. -/
def words8 (off : Nat) (l : List Nat) : List Field := l.zipIdx.map fun p => (off + 8 * p.2, 8, p.1)

/-- A signed figure in 64 bits, two's complement (log 51). -/
def signed64 (x : Int) : Nat := (x % (2 ^ 64 : Int)).toNat

def State.teleHead (s : State) : List Field :=
  [(0x0, 4, s.counter ctrResets), (0x4, 4, s.counter ctrSupply), (0x8, 4, s.counter ctrCoolant)]
    ++ words8 0x10 [s.sasel.eventSeq, s.counter ctrHours]

/-- Spare columns remaining (R86). -/
def State.spareColumns (s : State) : Nat := if s.loom.out then 0 else 2 - (s.loom.retired.length + s.loom.takeover.length)

def State.teleLoom (s : State) : List Field :=
  words8 0x20 [s.spareColumns, s.work.teardowns.toNat, s.work.sigDuplicate.toNat, s.work.sigOutOfOrder.toNat, s.work.sigOverflow.toNat,
    s.work.sigFreed.toNat, s.loom.wideSaturations.toNat]

/-- Free bytes of a pool. -/
def State.poolFree (s : State) (p : Nat) : Nat := s.tiers.budget.get p - s.tiers.held.get p

def State.teleHbm (s : State) : List Field :=
  words8 0x100 ([s.tiers.retiredStacks.foldl (fun m x => m ||| 2 ^ x) 0, s.unusable] ++ (List.range 4).map s.tiers.budget.get
    ++ (List.range 4).map s.poolFree ++ [s.tiers.budget.model, s.poolFree poolModel])

def State.teleHost (s : State) : List Field :=
  words8 0x200 (s.hp.port.rx.map (·.toNat) ++ [s.hp.port.rxIcmp.toNat, s.hp.pfcDiscarded.toNat, s.hp.trainingLate.toNat, s.hp.frontBadWrite.toNat,
    s.hp.mailboxCollision.toNat])

/-- The range-monitor table: the n-th widening in entry n modulo 256, so that the oldest is overwritten first (R130). -/
def State.teleRange (s : State) : List Field :=
  s.loom.widenings.flatMap fun w =>
    let o := 0x400 + 16 * (w.seq % 256)
    [(o, 2, w.layerId.toNat), (o + 2, 1, w.ctxSlot), (o + 3, 1, w.tag), (o + 4, 4, w.count), (o + 8, 4, w.threshold), (o + 12, 4, w.seq)]

/-- Mean program/erase count of a channel's block sets in a mode, in hundredths of a percent of the rated count (R257, log 52). -/
def State.meanLife (s : State) (c : Nat) (mode : BlockMode) (rated : Nat) : Nat :=
  let l := s.flash.blocks.filter fun b => b.channel == c && decide (b.mode = mode)
  if l.length = 0 then 0 else sumOf (l.map (·.pe)) * 10000 / (l.length * rated)

/-- LIFE_USED of a channel. -/
def State.lifeUsed (s : State) (c : Nat) : Nat := max (s.meanLife c .qlc 1500) (s.meanLife c .pslc 30000)

/-- Free user bytes of a channel (R465). -/
def State.freeUser (s : State) (c : Nat) : Nat := extentBytes * s.freeExtents c

def State.teleChannel (s : State) (c : Nat) : List Field :=
  let ch := s.channel c
  let o := 0x1400 + 128 * c
  words8 o (ch.ladder.map (·.toNat)) ++ [(o + 64, 4, s.lifeUsed c), (o + 68, 4, s.sparePct ch)]
    ++ words8 (o + 72) [ch.patrolLap.toNat, ch.retirements.toNat, s.freeUser c]

/-- The sled flash summary (R206, R257, R258, R465). -/
def State.teleFlash (s : State) : List Field :=
  (List.range 128).flatMap s.teleChannel
    ++ words8 0x5400 [maxOf ((List.range 128).map s.lifeUsed), s.sledSparePct, s.eol, sumOf ((List.range 128).map s.freeUser), s.tables.restored.toNat]

/-- Memory integrity (table *Memory integrity telemetry*).  With no record in handling the oldest SEQ is the next to be opened
(log 51). -/
def State.teleIntegrity (s : State) : List Field :=
  let g := s.integ
  words8 0x5800 ([g.nextSeq, (g.log.map (·.seq)).foldl min g.nextSeq, g.log.length] ++ g.unlogged.map (·.toNat)
    ++ [g.writeBacks.toNat, g.withheld.toNat, g.hbmLap, g.hbmLast.toNat, g.hbmLaps.toNat, g.sramLap, g.sramLast.toNat, g.sramLaps.toNat,
        g.selfTest.toNat, g.granules.length, g.banks.length, g.pages.length, g.history.length, g.isolated.toNat, g.dropped.toNat])

/-- What a sensor measures that no rule of the sled acts on: free (log 53). -/
def measured (n k : Nat) : Nat := (Config.word (n + k)).toNat

/-- The row of the table *Thermal limits* that a demand belongs to. -/
def Demand.row : Demand → Nat
  | .dieP1 | .dieP2 | .dieP3 => 0
  | .hbmP2 | .hbmP3 => 1
  | .inletP1 | .inletP3 => 2
  | .flowP1 | .flowP3 => 3
  | .outletP3 => 4

/-- A bitmap of the positions of a list that satisfy `p`. -/
def bitmapOf {α : Type} (p : α → Bool) (l : List α) : Nat := sumOf (l.zipIdx.map fun x => if p x.1 then 2 ^ x.2 else 0)

/-- The hottest of a list of sensors; none has been read before the first reading (0, log 51). -/
def hottestOf (l : List Int) : Nat := if l.isEmpty then 0 else signed64 (hottest l)

/-- Power and ageing (table *Power and ageing telemetry*). -/
def State.telePower (s : State) : List Field :=
  let p := s.power
  let r := p.readings
  let n := s.free
  words8 0x6000 [p.inputMv, measured n 0, measured n 1, p.lowMv, p.highMv, p.sagEvents.toNat, p.overTrips.toNat]
    ++ words8 0x6040 ([p.step, p.ageingCeiling, p.stepChanges.toNat] ++ p.stepMs.map (·.toNat))
    ++ words8 0x6100 ([signed64 r.inlet, signed64 r.outlet, signed64 r.flow, hottestOf r.die, hottestOf r.hbm, hottestOf r.hub, hottestOf r.nand]
        ++ (List.range 4).map fun i => signed64 (r.laser.getD i 0))
    ++ words8 0x6180 [(List.range 5).foldl (fun m k => if p.demands.any (fun d => d.row == k) then m ||| 2 ^ k else m) 0]
    ++ [(0x6188, 16, p.nandPaused.toNat)]
    ++ words8 0x6200 ((List.range 7).map fun k => measured n (2 + k))
    ++ words8 0x6300 (p.domains.map fun d => d.guardMv % 2 ^ 16 + 2 ^ 16 * (d.marginMv % 2 ^ 16))
    ++ words8 0x6400 (p.laserAge.map fun l => l.biasUa % 2 ^ 32 + 2 ^ 32 * (l.margin % 2 ^ 16))
    ++ words8 0x6500 (p.laneEye.zipIdx.map fun e => e.1 % 2 ^ 16 + 2 ^ 32 * (p.laneAdapt.getD e.2 0).toNat)
    ++ p.chanMargin.zipIdx.map (fun m => (0x6700 + 4 * m.2, 4, m.1))
    ++ words8 0x6900 [bitmapOf (fun (d : VDomain) => decide (d.marginMv ≤ 15)) p.domains
        + 2 ^ 16 * bitmapOf (fun (l : LaserAge) => decide (l.margin ≤ 1000)) p.laserAge, bitmapOf (fun e => decide (e ≤ 20)) p.laneEye]
    ++ [(0x6910, 16, bitmapOf (fun m => decide (m ≤ 2000)) p.chanMargin)]

/-- Redundancy (table *Redundancy telemetry*). -/
def State.teleRedundancy (s : State) : List Field :=
  let f := s.fail
  words8 0x6F00 [f.coresIn.toNat + 2 ^ 32 * popCount f.coresSpare, f.hubsRetired.toNat + 2 ^ 16 * f.hubsServing.toNat]
    ++ [(0x6F10, 16, f.channelsOut.toNat)]
    ++ words8 0x6F20 ([f.lasersPresent.toNat + 2 ^ 8 * f.lasersIn.toNat + 2 ^ 16 * lanesLit (popCount f.lasersIn),
        s.power.regulators.toNat + 2 ^ 32 * capW s.regulatorCount] ++ f.completed.map (·.toNat) ++ f.lastUs.map (·.toNat))

/-- Fabric and Woane (table *Fabric telemetry*). -/
def State.teleFabric (s : State) : List Field :=
  let f := s.fabric
  (List.range 12).flatMap (fun p => words8 (0x7000 + 64 * p) ((f.portStats.getD p []).map (·.toNat)))
    ++ words8 0x7300 ([s.ownRank, f.epoch, (s.ranks.filter fun r => !(s.peer r).down).length]
        ++ [f.stale, f.epochChanges, f.downs, f.reroutes, f.timeouts, f.lateReplies, f.loadOverruns].map (·.toNat))
    ++ words8 0x7400 [f.plotCommitted.toNat, f.plotAborted.toNat]

/-- Every field of the telemetry block. -/
def State.telemetry (s : State) : List Field :=
  s.teleHead ++ s.teleLoom ++ s.teleHbm ++ s.teleHost ++ s.teleRange ++ s.teleFlash ++ s.teleIntegrity ++ s.telePower ++ s.teleRedundancy
    ++ s.teleFabric

/-- A byte of a block of fields; what no field covers reads 0 (R19). -/
def fieldByte (fs : List Field) (a : Nat) : Byte :=
  match fs.find? fun f => decide (f.1 ≤ a ∧ a < f.1 + f.2.1) with
  | some f => BitVec.ofNat 8 (f.2.2 / 2 ^ (8 * (a - f.1)))
  | none => 0

/-! ### Reading the window (R311) -/

/-- A byte of the FRONT window: reserved regions and doorbells read 0 (R17, R19, R312). -/
def State.frontByte (s : State) (a : Nat) : Byte :=
  if a < 0x1000 then Buf.at s.identityBlock a
  else if a < 0x2000 then Buf.at s.readinessBlock (a - 0x1000)
  else if mailboxBase ≤ a ∧ a < 0x20000 then
    (match s.sasel.slots[(a - mailboxBase) / 0x1000]? with
     | some m => Buf.at m.bytes (a % 0x1000)
     | none => 0)
  else if 0x400000 ≤ a ∧ a < 0x410000 then fieldByte s.telemetry (a - 0x400000)
  else 0

def State.frontRead (s : State) (off len : Nat) : Buf := (List.range len).map fun i => s.frontByte (off + i)

/-! ### Writing the window (R311, R312, R324) -/

/-- A run of bytes written into part `[lo, hi)` of a slot; `off` is the run's place in the slot. -/
def writePart (old : Buf) (lo hi off : Nat) (bytes : Buf) : Buf :=
  (List.range (hi - lo)).map fun i =>
    if off ≤ lo + i ∧ lo + i < off + bytes.length then Buf.at bytes (lo + i - off) else Buf.at old i

/-- A write into a slot stores into the entry, the data area and CONTROL; what the sled writes itself is ignored (R17, R324). -/
def Mailbox.write (m : Mailbox) (off : Nat) (bytes : Buf) : Mailbox :=
  { m with entry := writePart m.entry 0 64 off bytes, data := writePart m.data 0x80 0xFF8 off bytes
           control := BitVec.ofNat 64 (Buf.le (writePart (leBytes 8 m.control.toNat) 0xFF8 0x1000 off bytes) 0 8) }

/-- A write into the mailbox region.  CONTROL is acted on when it is written as one aligned 8 B write (R324). -/
def State.mailboxWrite (s : State) (conn : W32) (off : Nat) (bytes : Buf) : State :=
  let rel := off - mailboxBase
  if bytes.length = 8 ∧ rel % 0x1000 = 0xFF8 ∧ mailboxBase ≤ off then
    (if s.accepts && s.isReady bitMailbox then s.control conn (rel / 0x1000) (BitVec.ofNat 64 (Buf.le bytes 0 8)) else s)
  else
    (List.range 16).foldl (fun s m =>
      let base := mailboxBase + 0x1000 * m
      if off < base + 0x1000 ∧ base < off + bytes.length then
        s.modSlot m fun x => if base ≤ off then x.write (off - base) bytes else x.write 0 (bytes.drop (base - off))
      else s) s

/-- An RDMA WRITE into the FRONT window on an open connection. -/
def State.frontWrite (s : State) (conn : W32) (off : Nat) (bytes : Buf) : State :=
  if off < 0x300000 ∧ frontDoorbells < off + bytes.length then s.doorbellWrite conn off bytes
  else if off < 0x20000 ∧ mailboxBase < off + bytes.length then s.mailboxWrite conn off bytes
  else s

/-- FRONT_WRITE_IGNORED: a write to a region that has no behaviour of its own changes nothing (R17, R19, R311). -/
def execFrontWriteIgnored (_offset : Nat) (_bytes : Buf) (s : State) : Outcome := .next s

end Sys2Proof.Machine
end

