-- ==== Sys2Proof/Machine/HostPort.lean ====
section
/-! DEFINITION. The host port's traffic: receive checks (R288, R308, R331), the RC transport and connections (R306, R307, R309,
R310), announces and discovery (R301), priority flow control (R303), congestion (R304). -/

namespace Sys2Proof.Machine

open Sys2Proof

/-! ### Addresses (R300, R335) -/

/-- MAC of a port: the host port's, and that plus 1 + p for FPp. -/
def State.portMac (s : State) (n : Nat) : Nat := (s.boot.mac.toNat + n) % 2 ^ 48

/-- Modified EUI-64 of a MAC: FFFE in the middle, the universal bit inverted. -/
def eui64 (mac : Nat) : Nat := (mac / 2 ^ 24 * 2 ^ 40 + 0xFFFE * 2 ^ 24 + mac % 2 ^ 24) ^^^ 2 ^ 57

/-- Link-local address of a port. -/
def State.linkLocal (s : State) (n : Nat) : W128 := BitVec.ofNat 128 (0xFE80 * 2 ^ 112 + eui64 (s.portMac n))

/-! ### Announce and discovery (R301) -/

/-- RESETS, SEQ and the rest of the 64 B announce (table *Announce datagram*). -/
def State.announceBytes (s : State) : Buf :=
  let recovery := decide (s.boot.phase = .recovery)
  leBytes 4 0x53414E4E ++ leBytes 2 s.boot.saselRev.toNat ++ [if s.boot.half then 1 else 0]
    ++ [BitVec.ofNat 8 (recovery.toNat + 2 * (s.isReady bitMailbox).toNat + 4 * (s.isReady bitFlashmap).toNat + 8 * s.hp.wide.toNat)]
    ++ leBytes 8 Config.serviceId.toNat ++ Buf.slice s.idDigest 0 16 ++ beBytes 16 s.hp.port.globalAddr.toNat
    ++ leBytes 4 (s.counter ctrResets) ++ List.replicate 4 0 ++ leBytes 8 s.hp.announceSeq.toNat

/-- [ff02::1], to which announces go. -/
def allNodes : W128 := BitVec.ofNat 128 (0xFF02 * 2 ^ 112 + 1)

/-- ANNOUNCE_TIMER: while HOSTPORT is set, an announce leaves; SEQ counts it (R301, log 54). -/
def execAnnounceTimer (s : State) : Outcome :=
  .next (if s.isReady bitHostport then
      let s := { s with hp := { s.hp with announceSeq := s.hp.announceSeq + 1 } }
      s.emit (.datagram allNodes s.announceBytes)
    else s)

/-- DISCOVERY_DATAGRAM: one with the four bytes of R301 is answered, at most once per source in 10 ms. -/
def execDiscoveryDatagram (source : W128) (first4 : Buf) (s : State) : Outcome :=
  .next (
    let recent := match assocGet source s.hp.answered with | some n => decide (s.elapsed n < countsOfUs 10000) | none => false
    if s.isReady bitHostport && Buf.slice first4 0 4 == [0x5E, 0x11, 0xB0, 0x5A] && !recent then
      let s := { s with hp := { s.hp with answered := assocSet source s.pclk s.hp.answered } }
      s.emit (.datagram source s.announceBytes)
    else s)

/-! ### Priority flow control (R303) -/

/-- A PFC frame that is for another priority, or a global PAUSE, is discarded and counted. -/
def State.pfcDiscard (s : State) : State := { s with hp := { s.hp with pfcDiscarded := satInc s.hp.pfcDiscarded } }

/-- PFC_FRAME: with PFC on, a frame for the configured priority pauses or resumes sending. -/
def execPfcFrame (priority : Nat) (pause : Bool) (s : State) : Outcome :=
  .next (if s.hp.settings.pfcOn = true ∧ priority = s.hp.settings.pfcPrio then
      (if pause then { s with hp := { s.hp with paused := true } } else s.resume)
    else s.pfcDiscard)

/-- PFC_PAUSE_EXPIRY: the pause has run out. -/
def execPfcPauseExpiry (s : State) : Outcome := .next s.resume

/-- The receive buffer after a frame: XOFF below 4 MiB free, XON above 8 MiB (R303). -/
def State.buffered (s : State) (free : Nat) : State :=
  let s := { s with hp := { s.hp with rxFree := free } }
  if s.hp.settings.pfcOn then
    if free < 4194304 ∧ s.hp.xoffSent = false then
      ({ s with hp := { s.hp with xoffSent := true } } : State).emit (.wire .xoff 0 [s.hp.settings.pfcPrio])
    else if 8388608 < free ∧ s.hp.xoffSent = true then
      ({ s with hp := { s.hp with xoffSent := false } } : State).emit (.wire .xon 0 [s.hp.settings.pfcPrio])
    else s
  else s

/-! ### Congestion (R304) -/

/-- Line rate in Mb/s. -/
def lineRate : Nat := 1600000

/-- The floor F in Mb/s: 10 Gb/s, and 100 Gb/s for each export reservation. -/
def Conn.floor (c : Conn) : Nat := 10000 + 100000 * c.reservations

/-- CNP_RECEIVE: R becomes max(0.75 × R, F). -/
def execCnpReceive (conn : W32) (s : State) : Outcome :=
  .next (s.modConn conn fun c => { c with rate := max (c.rate * 3 / 4) c.floor })

/-- RATE_INCREASE_TIMER: 55 µs without a CNP; R becomes min(R + 5 Gb/s, line rate). -/
def execRateIncreaseTimer (conn : W32) (s : State) : Outcome :=
  .next (s.modConn conn fun c => { c with rate := min (c.rate + 5000) lineRate })

/-- A CE-marked packet on a connection is answered by a CNP, at most one in 50 µs. -/
def State.noteCe (s : State) (conn : W32) : State :=
  match s.conn? conn with
  | none => s
  | some c =>
    let recent := match c.lastCnp with | some n => decide (s.elapsed n < countsOfUs 50) | none => false
    if recent then s else (s.modConn conn fun c => { c with lastCnp := some s.pclk }).emit (.wire .cnp conn [])

/-! ### Connections (R306, R307, R309, R310) -/

/-- The REP's private data: connection handle, FRONT key and FRONT address, little-endian. -/
def repData (h : W32) : Buf := leBytes 4 h.toNat ++ leBytes 4 (Config.frontKey h).toNat ++ leBytes 8 (Config.frontAddr h).toNat

/-- CONNECTION_REQUEST: rejected before FRONT is set (R311), for a full table, another path MTU than 4,096, more than 16
responder resources or initiator depth; else a REP answers it.  The PSN the sled starts with is its own choice: free. -/
def execConnectionRequest (mtu responder initiator : Nat) (psn : BitVec 24) (s : State) : Outcome :=
  .next (
    let free := lowestFree (s.hp.conns.map (·.index)) 4096
    if s.isReady bitFront && decide (mtu = 4096) && decide (responder ≤ 16) && decide (initiator ≤ 16) then
      match free with
      | none => s.emit (.wire .rej 0 [])
      | some i =>
        let first : BitVec 24 := (Config.word s.free).truncate 24
        let s := s.fresh.2
        let c : Conn := { index := i, gen := genFor s.hp.connGens i, expectedPsn := psn, sendPsn := first, ackedPsn := first }
        let h := mkHandle c.gen kindConn i
        ({ s with hp := { s.hp with conns := s.hp.conns ++ [c] } } : State).emit (.wire .rep h ((repData h).map (·.toNat)))
    else s.emit (.wire .rej 0 []))

/-- RTU_RECEIVE: the connection is established. -/
def execRtuReceive (conn : W32) (s : State) : Outcome :=
  .next (match s.conn? conn with
    | some c =>
      if c.state = .repSent then
        let s := s.modConn conn fun c => { c with state := .opened }
        { s with hp := { s.hp with everConnected := true } }
      else s
    | none => s)

/-- RTU_TIMEOUT: no RTU within 2.0 s; the connection is released. -/
def execRtuTimeout (conn : W32) (s : State) : Outcome :=
  .next (match s.conn? conn with
    | some c => if c.state = .repSent then s.releaseConn conn else s
    | none => s)

/-- RC_ACK_TIMEOUT: with something unacknowledged, the sled retransmits, at most 7 times; then the connection enters error. -/
def execRcAckTimeout (conn : W32) (s : State) : Outcome :=
  .next (match s.conn? conn with
    | some c =>
      if c.state ≠ .opened ∨ c.sendPsn = c.ackedPsn then s
      else if c.retries < 7 then
        (s.modConn conn fun c => { c with retries := c.retries + 1 }).emit (.wire .retransmit conn [c.ackedPsn.toNat])
      else s.connError conn none
    | none => s)

/-- CONNECTION_ERROR: a fatal NAK or connection management puts the connection in error; `cause` is the submission whose own
remote access error did (R309, R316). -/
def execConnectionError (conn : W32) (cause : Option Nat) (s : State) : Outcome := .next (s.connError conn cause)

/-- CONNECTION_RELEASE: every PSN sent on a connection in error is retired; its handle is stale from here (R310). -/
def execConnectionRelease (conn : W32) (s : State) : Outcome :=
  .next (match s.conn? conn with
    | some c => if c.state = .error then s.releaseConn conn else s
    | none => s)

/-- RDMA_SEND_RECEIVE: a SEND is acknowledged, its payload discarded, and it flushes the connection for the pairs in
QUARANTINE (R281, R307). -/
def execRdmaSendReceive (conn : W32) (s : State) : Outcome :=
  .next (if s.connOpen conn then
      let s := { s with queues := updWhere (fun (q : Queue) => q.conn == conn && decide (q.state = QState.quarantine)) (fun q => { q with flushed := true }) s.queues }
      (s.modConn conn fun c => { c with expectedPsn := c.expectedPsn + 1 }).emit (.wire .ack conn [])
    else s)

/-! ### Receive checks (R308, R331) -/

def rxNotMine : Nat := 2
def rxPort : Nat := 7
def rxQpn : Nat := 9
def rxOpcode : Nat := 10
def rxPsn : Nat := 11
def rxDup : Nat := 12
def rxAccess : Nat := 13

/-- The tag is allowed: none, VID 0, or the configured VID (R288, R302); a fabric port has no VID. -/
def State.tagOk (s : State) (f : Frame) : Bool :=
  !f.badTag && (match f.tag with
    | none => true
    | some v => decide (v = 0) || (f.port == 0 && s.hp.settings.vidValid && decide (v = s.hp.settings.vid.toNat)))

/-- EtherTypes accepted: IPv6 and MAC control; IPv4 and ARP on the host port with IPv4 on. -/
def State.etherOk (s : State) (f : Frame) : Bool :=
  f.etherType == 0x86DD || f.etherType == 0x8808
    || (f.port == 0 && s.hp.settings.ipv4On && (f.etherType == 0x0800 || f.etherType == 0x0806))

def frameIp (f : Frame) : Bool := f.etherType == 0x86DD || f.etherType == 0x0800

/-- The datagram is UDP; DHCPv6 is taken before the port check, which would refuse it (R288, R300, log 55). -/
def frameUdp (f : Frame) : Bool :=
  (frameIp f) && (match f.payload with
    | .icmpEcho | .arp _ | .neighborSolicit _ | .routerAdvert _ _ _ | .dhcpAssign _ _ => false
    | _ => true)

def framePortOk (f : Frame) : Bool := if f.port = 0 then f.udpPort == 4791 || f.udpPort == 48111 else f.udpPort == 48112

def frameRoce (f : Frame) : Bool := (frameUdp f) && f.port == 0 && f.udpPort == 4791

/-- The bytes an RDMA READ or WRITE names lie in the region of its key. -/
def State.rangeOk (s : State) (f : Frame) : Bool :=
  match f.payload with
  | .rdmaWrite off b => decide (off + b.length ≤ frontBytes)
  | .rdmaRead off n => decide (off + n ≤ frontBytes)
  | .ringWrite q off b => decide ((s.queue q).state ≠ .free) && decide (off + b.length ≤ 64 * 2 ^ (s.queue q).log2Depth)
  | _ => true

/-- PSN distance from the expected one: ahead below 2²³, else a duplicate. -/
def psnAhead (d : BitVec 24) : Bool := d != 0 && decide (d.toNat < 2 ^ 23)
def psnBehind (d : BitVec 24) : Bool := decide (2 ^ 23 ≤ d.toNat)

/-- Each check of the table *Receive checks*, in its order: true when the frame fails it.  Connection 0 stands for QP1. -/
def State.rxChecks (s : State) (f : Frame) : List Bool :=
  let d := match f.psn, s.conn? f.conn with
    | some p, some c => p - c.expectedPsn
    | _, _ => 0
  let roce := (frameRoce f)
  [ !f.fcsOk, decide (f.length < 64) || decide (9216 < f.length), !f.dstOk, !s.tagOk f, !s.etherOk f, (frameIp f) && !f.ipOk
  , (frameUdp f) && !f.udpOk, (frameUdp f) && !(framePortOk f), roce && !f.icrcOk, roce && (!f.pkeyQpnOk || (f.conn != 0 && (s.conn? f.conn).isNone))
  , roce && (!f.opcodeOk || decide (4096 < f.payloadLen)), roce && psnAhead d, roce && psnBehind d, roce && (!f.rkeyOk || !s.rangeOk f) ]

/-- The first check a frame fails. -/
def State.rxFails (s : State) (f : Frame) : Option Nat := (List.range 14).find? fun i => (s.rxChecks f).getD i false

/-- Count a frame under the first check it fails, on its port. -/
def State.countRx (s : State) (port i : Nat) : State := s.modPort port fun p => { p with rx := modAt p.rx i satInc }

/-- A write into a submission ring, from a byte offset: the entries it touches change (R275, R281). -/
def Queue.ringWrite (q : Queue) (off : Nat) (bytes : Buf) : Queue :=
  if bytes.length = 0 then q
  else
    let first := off / 64
    let count := (off + bytes.length - 1) / 64 + 1 - first
    { q with ring := (List.range count).foldl (fun r k =>
        let slot := first + k
        let old := (assocGet slot r).getD []
        let new := (List.range 64).map fun i =>
          if off ≤ 64 * slot + i ∧ 64 * slot + i < off + bytes.length then Buf.at bytes (64 * slot + i - off) else Buf.at old i
        assocSet slot new r) q.ring }

/-- Packets that a request takes of the responder's PSNs: those of a write, or of a READ's response. -/
def payloadPsns (p : FramePayload) : Nat :=
  match p with
  | .rdmaWrite _ b => rcPackets b.length
  | .rdmaRead _ n => rcPackets n
  | .ringWrite _ _ b => rcPackets b.length
  | .rcAck _ => 0
  | _ => 1

/-- A RoCEv2 packet that has passed acts on an open connection; a connection in error starts nothing (R309, log 56). -/
def State.roceAct (s : State) (f : Frame) : State :=
  if s.connOpen f.conn then
    let s := s.modConn f.conn fun c => { c with expectedPsn := c.expectedPsn + BitVec.ofNat 24 (payloadPsns f.payload) }
    match f.payload with
    | .rdmaWrite off b => (s.emit (.wire .ack f.conn [])).frontWrite f.conn off b
    | .ringWrite q off b => (s.emit (.wire .ack f.conn [])).modQueue q fun x => x.ringWrite off b
    | .rdmaRead off n =>
      let bytes := s.frontRead off n
      ({ s with free := s.free + 16 } : State).emit (.readResponse f.conn off bytes)
    | .rcAck p => s.modConn f.conn fun c => { c with ackedPsn := p + 1, retries := 0 }
    | _ => s
  else s

/-- An ICMP echo is answered at most 100 times in each second; the rest are counted in RX_ICMP (R308, log 57). -/
def State.echo (s : State) (n : Nat) : State :=
  match s.portAt n with
  | none => s
  | some p =>
    let recent := p.icmpTimes.filter fun t => decide (s.elapsed t < countsOfUs 1000000)
    if recent.length < 100 then
      (s.modPort n fun p => { p with icmpTimes := recent ++ [s.pclk] }).emit (.wire .echoReply 0 [n])
    else s.modPort n fun p => { p with icmpTimes := recent, rxIcmp := satInc p.rxIcmp }

/-- The port takes a global address that duplicate address detection has found unique (R300, R335). -/
def State.takeAddress (s : State) (n : Nat) (addr : W128) (isUnique : Bool) : State :=
  if isUnique then s.modPort n fun p => { p with globalAddr := addr } else s

/-- What a frame does that has passed every check. -/
def State.frameAct (s : State) (f : Frame) : State :=
  if f.etherType = 0x8808 then (if f.port = 0 then s.pfcDiscard else s)
  else if (frameRoce f) then s.roceAct f
  else
    match f.payload with
    | .icmpEcho => s.echo f.port
    | .arp a =>
      if f.etherType = 0x0806 ∧ a = s.hp.settings.ipv4Addr then s.emit (.wire .arpReply 0 [f.port, a.toNat, s.portMac f.port]) else s
    | .neighborSolicit a =>
      (match s.portAt f.port with
       | some p =>
         if a = s.linkLocal f.port ∨ (a = p.globalAddr ∧ a ≠ 0) then s.emit (.wire .neighborAdvert 0 [f.port, a.toNat, s.portMac f.port]) else s
       | none => s)
    | .routerAdvert managed pre u =>
      if managed = true ∧ f.port = 0 then s
      else s.takeAddress f.port (BitVec.ofNat 128 (pre.toNat * 2 ^ 64 + eui64 (s.portMac f.port))) u
    | .dhcpAssign a u => if f.port = 0 then s.takeAddress 0 a u else s
    | _ => s

/-- What a failed check does beside its counter: a NAK and an error, a sequence NAK, or the resent response (R308).
A connection in error starts nothing (R309). -/
def State.frameFail (s : State) (f : Frame) (i : Nat) : State :=
  if s.connOpen f.conn = false then s
  else if i = rxOpcode then (s.emit (.wire .nakInvalidRequest f.conn [])).connError f.conn none
  else if i = rxPsn then s.emit (.wire .nakSequence f.conn [])
  else if i = rxDup then
    (match f.payload with
     | .rdmaRead off n =>
       let bytes := s.frontRead off n
       ({ s with free := s.free + 16 } : State).emit (.readResponse f.conn off bytes)
     | _ => s.emit (.wire .ack f.conn []))
  else if i = rxAccess then (s.emit (.wire .nakRemoteAccess f.conn [])).connError f.conn none
  else s

/-- FRAME_RECEIVE: the receive checks in their order; a frame that fails one is counted once and handled as the table gives,
one that passes acts (R308, R331). -/
def execFrameReceive (f : Frame) (s : State) : Outcome :=
  .next (
    let s := if f.port = 0 then s.buffered f.bufferFree else s
    let fails := s.rxFails f
    let onConn := (frameRoce f) && (s.conn? f.conn).isSome && (match fails with | some i => decide (rxQpn < i) | none => true)
    let s := if f.ce && onConn then s.noteCe f.conn else s
    match fails with
    | some i =>
      let s := s.countRx f.port i
      let s := if f.port = 0 then s else s.bumpPort (f.port - 1) 2
      s.frameFail f i
    | none => s.frameAct f)

end Sys2Proof.Machine
end

