-- ==== Sys2Proof/Machine/Finish.lean ====
section
/-! DEFINITION. The completion of a submission and what follows it: the once-only gate (R387), the completion entry (R317), the
release of what the submission held (R44, R46, R47, R75, R148), destroyed queues and contexts (R272, R280), the end of a firmware
update (R423, R424) and a reset (R322). -/

namespace Sys2Proof.Machine

open Sys2Proof

/-- An answer request goes: its key-value pages, export reservation, passes and batch place are free again (R46, R47, R75, R148). -/
def State.releaseReq (s : State) (r : Req) : State :=
  let b := r.block
  let s := match s.model? b.genModel with | some m => r.pages.foldl (fun (s : State) n => s.dropHome (kvObj m n)) s | none => s
  let s := if s.hp.exports.contains r.sid then
      ({ s with hp := { s.hp with exports := s.hp.exports.filter fun x => x != r.sid } } : State).modConn b.handoffConn fun c =>
        { c with reservations := c.reservations - 1 }
    else s
  s.modAns fun a =>
    let reqs := a.reqs.filter fun (x : Req) => x.sid != r.sid
    { a with
      reqs := reqs, reservations := a.reservations.filter fun v => v.sid != r.sid
      batches := a.batches.filter fun y => y.members.any fun m => reqs.any fun x => x.sid == m }

/-- What a submission held is released once its completion is written. -/
def State.releaseHeld (s : State) (sid : Nat) : State :=
  let s := match s.ans.reqs.find? fun r => r.sid == sid with
    | some r => s.releaseReq r
    | none => s
  let s := s.modTables fun t =>
    { t with lookups := t.lookups.filter (fun l => l.sid != sid), updates := t.updates.filter fun l => l.sid != sid }
  s.sweepImages.sweepIndexes

/-- Contexts whose DESTROY_CONTEXT waits for completions (R272). -/
def State.settleCtxs (s : State) : State := ((s.work.ctxs.filter fun c => c.destroyer.isSome).map (·.index)).foldl State.settleCtxDestroy s

/-- A firmware update has ended with its completion: the config writes that waited follow, and in recovery a reset (R423, R424). -/
def State.endUpdate (s : State) (sid : Nat) : State :=
  match s.boot.update with
  | some v =>
    if v.sid = sid then
      let s := s.applyWaiting
      if v.recovery then { s with boot := { s.boot with recoveryDone := true } } else s
    else s
  | none => s

/-- What follows a completion. -/
def State.afterCompletion (s : State) (sid : Nat) : State :=
  let s := ((s.releaseHeld sid).settleCtxs).endUpdate sid
  if s.sasel.resetAfter = some sid then s.resetNow else s

/-- COMPLETION_WRITE: the completion of a submission whose outcome is final is written once; a second one is dropped and counted
(R317, R387). -/
def execCompletionWrite (sid : Nat) (s : State) : Outcome :=
  .next (match s.sub? sid with
    | none => s
    | some u => if u.due.isSome ∧ u.finished = false then (s.writeCompletion sid).afterCompletion sid else s.writeCompletion sid)

end Sys2Proof.Machine
end

