-- ==== Sys2Proof/Machine/Dispatch.lean ====
section
/-! DEFINITION. The dispatch: one arm for each command, one direct call of its meaning. -/

namespace Sys2Proof.Machine

open Sys2Proof

/-- The effect of a command on everything but the queue of waiting commands. -/
def exec (i : Instr) (s : State) : Host.Outcome State Fault Refusal :=
  match i with
  | .nop sid => Sys2Proof.Machine.execNop sid s
  | .createQueue sid b => Sys2Proof.Machine.execCreateQueue sid b s
  | .destroyQueue sid => Sys2Proof.Machine.execDestroyQueue sid s
  | .attachQueue sid => Sys2Proof.Machine.execAttachQueue sid s
  | .queryQueue sid ok => Sys2Proof.Machine.execQueryQueue sid ok s
  | .answer sid => Sys2Proof.Machine.execAnswer sid s
  | .answerBlockRead sid block query => Sys2Proof.Machine.execAnswerBlockRead sid block query s
  | .batchClose batch => Sys2Proof.Machine.execBatchClose batch s
  | .embedComplete batch => Sys2Proof.Machine.execEmbedComplete batch s
  | .probeComplete batch => Sys2Proof.Machine.execProbeComplete batch s
  | .sievePassEnd channel media => Sys2Proof.Machine.execSievePassEnd channel media s
  | .sievePassStart channel => Sys2Proof.Machine.execSievePassStart channel s
  | .mergeComplete sid => Sys2Proof.Machine.execMergeComplete sid s
  | .exactComplete sid media => Sys2Proof.Machine.execExactComplete sid media s
  | .fetchComplete sid media => Sys2Proof.Machine.execFetchComplete sid media s
  | .rerankComplete sid => Sys2Proof.Machine.execRerankComplete sid s
  | .packComplete sid => Sys2Proof.Machine.execPackComplete sid s
  | .prefillLayerComplete sid layer => Sys2Proof.Machine.execPrefillLayerComplete sid layer s
  | .handoffWriteAcked sid => Sys2Proof.Machine.execHandoffWriteAcked sid s
  | .decodeStep sid => Sys2Proof.Machine.execDecodeStep sid s
  | .resultWrite sid => Sys2Proof.Machine.execResultWrite sid s
  | .cheaperPath sid delivered => Sys2Proof.Machine.execCheaperPath sid delivered s
  | .deadlineExpiry sid => Sys2Proof.Machine.execDeadlineExpiry sid s
  | .createIndex sid b b2 b3 => Sys2Proof.Machine.execCreateIndex sid b b2 b3 s
  | .deleteIndex sid => Sys2Proof.Machine.execDeleteIndex sid s
  | .openSegment sid => Sys2Proof.Machine.execOpenSegment sid s
  | .appendRecords sid b => Sys2Proof.Machine.execAppendRecords sid b s
  | .sealSegment sid => Sys2Proof.Machine.execSealSegment sid s
  | .commitIndex sid b => Sys2Proof.Machine.execCommitIndex sid b s
  | .compactIndex sid b media => Sys2Proof.Machine.execCompactIndex sid b media s
  | .pinVersion sid => Sys2Proof.Machine.execPinVersion sid s
  | .unpinVersion sid => Sys2Proof.Machine.execUnpinVersion sid s
  | .versionRetire index version => Sys2Proof.Machine.execVersionRetire index version s
  | .loadImage sid pkg => Sys2Proof.Machine.execLoadImage sid pkg s
  | .unloadImage sid => Sys2Proof.Machine.execUnloadImage sid s
  | .bindModel sid => Sys2Proof.Machine.execBindModel sid s
  | .unbindModel sid => Sys2Proof.Machine.execUnbindModel sid s
  | .loadFilter sid b => Sys2Proof.Machine.execLoadFilter sid b s
  | .unloadFilter sid => Sys2Proof.Machine.execUnloadFilter sid s
  | .pickIssue ctx src groups => Sys2Proof.Machine.execPickIssue ctx src groups s
  | .gatherAddressFault id row => Sys2Proof.Machine.execGatherAddressFault id row s
  | .pickCheckComplete id faults => Sys2Proof.Machine.execPickCheckComplete id faults s
  | .widerRunComplete id => Sys2Proof.Machine.execWiderRunComplete id s
  | .stagingComplete ctx what => Sys2Proof.Machine.execStagingComplete ctx what s
  | .createTable sid b => Sys2Proof.Machine.execCreateTable sid b s
  | .deleteTable sid => Sys2Proof.Machine.execDeleteTable sid s
  | .tableLookup sid b media => Sys2Proof.Machine.execTableLookup sid b media s
  | .subLookup rank sid table version mapVersion entries media => Sys2Proof.Machine.execSubLookup rank sid table version mapVersion entries media s
  | .subLookupReply sid p => Sys2Proof.Machine.execSubLookupReply sid p s
  | .lookupResultWrite sid ok => Sys2Proof.Machine.execLookupResultWrite sid ok s
  | .updateRows sid b => Sys2Proof.Machine.execUpdateRows sid b s
  | .rowUpdateMessage rank sid table version row replace payload => Sys2Proof.Machine.execRowUpdateMessage rank sid table version row replace payload s
  | .migrateBlock sid => Sys2Proof.Machine.execMigrateBlock sid s
  | .migrationFlip table block dest addr bytes => Sys2Proof.Machine.execMigrationFlip table block dest addr bytes s
  | .stubForward table block msg media => Sys2Proof.Machine.execStubForward table block msg media s
  | .mapAcknowledge rank table mapVersion => Sys2Proof.Machine.execMapAcknowledge rank table mapVersion s
  | .loadTableRows sid b failAt => Sys2Proof.Machine.execLoadTableRows sid b failAt s
  | .publishTable sid => Sys2Proof.Machine.execPublishTable sid s
  | .tablePrepare rank table version => Sys2Proof.Machine.execTablePrepare rank table version s
  | .tableVote rank table version yes => Sys2Proof.Machine.execTableVote rank table version yes s
  | .tablePrepareTimeout table => Sys2Proof.Machine.execTablePrepareTimeout table s
  | .tableDecision table version commit => Sys2Proof.Machine.execTableDecision table version commit s
  | .decisionQueryTimer plot id => Sys2Proof.Machine.execDecisionQueryTimer plot id s
  | .tableVersionFree rank plot id version => Sys2Proof.Machine.execTableVersionFree rank plot id version s
  | .checkpointTable sid ok peers => Sys2Proof.Machine.execCheckpointTable sid ok peers s
  | .tableRestore table => Sys2Proof.Machine.execTableRestore table s
  | .createLog sid => Sys2Proof.Machine.execCreateLog sid s
  | .appendLog sid b failAt => Sys2Proof.Machine.execAppendLog sid b failAt s
  | .trimLog sid => Sys2Proof.Machine.execTrimLog sid s
  | .deleteLog sid => Sys2Proof.Machine.execDeleteLog sid s
  | .createGraft sid b roomElsewhere => Sys2Proof.Machine.execCreateGraft sid b roomElsewhere s
  | .runGraft sid => Sys2Proof.Machine.execRunGraft sid s
  | .runGraftRestore sid => Sys2Proof.Machine.execRunGraftRestore sid s
  | .stopGraft sid => Sys2Proof.Machine.execStopGraft sid s
  | .deleteGraft sid => Sys2Proof.Machine.execDeleteGraft sid s
  | .queryGraft sid ok => Sys2Proof.Machine.execQueryGraft sid ok s
  | .gradientComplete tag far media => Sys2Proof.Machine.execGradientComplete tag far media s
  | .gradReady tag => Sys2Proof.Machine.execGradReady tag s
  | .reduce tag => Sys2Proof.Machine.execReduce tag s
  | .announceReceived tag a => Sys2Proof.Machine.execAnnounceReceived tag a s
  | .chainHop tag p => Sys2Proof.Machine.execChainHop tag p s
  | .groupPartial tag msg => Sys2Proof.Machine.execGroupPartial tag msg s
  | .graftBarrier job => Sys2Proof.Machine.execGraftBarrier job s
  | .graftVote tag yes rescaled cause => Sys2Proof.Machine.execGraftVote tag yes rescaled cause s
  | .graftDecision tag commit cause => Sys2Proof.Machine.execGraftDecision tag commit cause s
  | .hopTimeout tag => Sys2Proof.Machine.execHopTimeout tag s
  | .stepTimeout tag => Sys2Proof.Machine.execStepTimeout tag s
  | .graftVoteQueryTimer job => Sys2Proof.Machine.execGraftVoteQueryTimer job s
  | .graftCheckpoint job rank peers => Sys2Proof.Machine.execGraftCheckpoint job rank peers s
  | .createObject sid => Sys2Proof.Machine.execCreateObject sid s
  | .deleteObject sid => Sys2Proof.Machine.execDeleteObject sid s
  | .writeExtent sid b => Sys2Proof.Machine.execWriteExtent sid b s
  | .readExtent sid => Sys2Proof.Machine.execReadExtent sid s
  | .trimExtent sid => Sys2Proof.Machine.execTrimExtent sid s
  | .programComplete channel wseq loc => Sys2Proof.Machine.execProgramComplete channel wseq loc s
  | .programFail channel wseq loc => Sys2Proof.Machine.execProgramFail channel wseq loc s
  | .readLadderStep obj extent ok => Sys2Proof.Machine.execReadLadderStep obj extent ok s
  | .parityRebuild obj extent media => Sys2Proof.Machine.execParityRebuild obj extent media s
  | .openBlockParityWrite channel group page loc => Sys2Proof.Machine.execOpenBlockParityWrite channel group page loc s
  | .blockSetClose channel die blockSet => Sys2Proof.Machine.execBlockSetClose channel die blockSet s
  | .blockSetVerify channel die blockSet fails media => Sys2Proof.Machine.execBlockSetVerify channel die blockSet fails media s
  | .wearLevel channel die blockSet => Sys2Proof.Machine.execWearLevel channel die blockSet s
  | .patrolRead channel die blockSet page step media => Sys2Proof.Machine.execPatrolRead channel die blockSet page step media s
  | .mapCheckpointStart channel => Sys2Proof.Machine.execMapCheckpointStart channel s
  | .shutdown sid ok => Sys2Proof.Machine.execShutdown sid ok s
  | .moveObject sid => Sys2Proof.Machine.execMoveObject sid s
  | .moveFlip obj => Sys2Proof.Machine.execMoveFlip obj s
  | .moveAbandon obj cause => Sys2Proof.Machine.execMoveAbandon obj cause s
  | .pinRelease obj old => Sys2Proof.Machine.execPinRelease obj old s
  | .extentFetchComplete obj extent media => Sys2Proof.Machine.execExtentFetchComplete obj extent media s
  | .queryHome sid ok => Sys2Proof.Machine.execQueryHome sid ok s
  | .setPools sid => Sys2Proof.Machine.execSetPools sid s
  | .createContext sid => Sys2Proof.Machine.execCreateContext sid s
  | .destroyContext sid => Sys2Proof.Machine.execDestroyContext sid s
  | .runEntry sid input => Sys2Proof.Machine.execRunEntry sid input s
  | .queryContext sid ok => Sys2Proof.Machine.execQueryContext sid ok s
  | .contextSaveComplete ctx => Sys2Proof.Machine.execContextSaveComplete ctx s
  | .contextRestoreComplete ctx => Sys2Proof.Machine.execContextRestoreComplete ctx s
  | .preemptionTimer ctx => Sys2Proof.Machine.execPreemptionTimer ctx s
  | .yieldPoint ctx => Sys2Proof.Machine.execYieldPoint ctx s
  | .contextTeardown ctx cause => Sys2Proof.Machine.execContextTeardown ctx cause s
  | .queryClient sid ok => Sys2Proof.Machine.execQueryClient sid ok s
  | .enrolClient sid => Sys2Proof.Machine.execEnrolClient sid s
  | .doorbell conn offset data => Sys2Proof.Machine.execDoorbell conn offset data s
  | .submissionFetch queue => Sys2Proof.Machine.execSubmissionFetch queue s
  | .completionWrite sid => Sys2Proof.Machine.execCompletionWrite sid s
  | .quarantineExit queue => Sys2Proof.Machine.execQuarantineExit queue s
  | .knotSignal src n knot => Sys2Proof.Machine.execKnotSignal src n knot s
  | .knotReset knot => Sys2Proof.Machine.execKnotReset knot s
  | .frameReceive f => Sys2Proof.Machine.execFrameReceive f s
  | .frontWriteIgnored offset bytes => Sys2Proof.Machine.execFrontWriteIgnored offset bytes s
  | .rdmaSendReceive conn => Sys2Proof.Machine.execRdmaSendReceive conn s
  | .connectionRequest mtu responder initiator psn => Sys2Proof.Machine.execConnectionRequest mtu responder initiator psn s
  | .rtuTimeout conn => Sys2Proof.Machine.execRtuTimeout conn s
  | .rcAckTimeout conn => Sys2Proof.Machine.execRcAckTimeout conn s
  | .connectionError conn cause => Sys2Proof.Machine.execConnectionError conn cause s
  | .connectionRelease conn => Sys2Proof.Machine.execConnectionRelease conn s
  | .trainingFrame port slot word adapted => Sys2Proof.Machine.execTrainingFrame port slot word adapted s
  | .lanesToData port => Sys2Proof.Machine.execLanesToData port s
  | .trainingTimeout port slot => Sys2Proof.Machine.execTrainingTimeout port slot s
  | .laneFault port logical => Sys2Proof.Machine.execLaneFault port logical s
  | .laneSwap port grant logical slot => Sys2Proof.Machine.execLaneSwap port grant logical slot s
  | .pcsAligned port => Sys2Proof.Machine.execPcsAligned port s
  | .setHostport sid b bad => Sys2Proof.Machine.execSetHostport sid b bad s
  | .discoveryDatagram source first4 => Sys2Proof.Machine.execDiscoveryDatagram source first4 s
  | .pfcFrame priority pause => Sys2Proof.Machine.execPfcFrame priority pause s
  | .cnpReceive conn => Sys2Proof.Machine.execCnpReceive conn s
  | .rateIncreaseTimer conn => Sys2Proof.Machine.execRateIncreaseTimer conn s
  | .mailboxControl conn slot control => Sys2Proof.Machine.execMailboxControl conn slot control s
  | .sessionBegin sid nonce ok => Sys2Proof.Machine.execSessionBegin sid nonce ok s
  | .sessionProve sid signature verifies => Sys2Proof.Machine.execSessionProve sid signature verifies s
  | .closeSession sid => Sys2Proof.Machine.execCloseSession sid s
  | .readErrors sid ok => Sys2Proof.Machine.execReadErrors sid ok s
  | .readErrorsHistory sid ok => Sys2Proof.Machine.execReadErrorsHistory sid ok s
  | .attest sid ok => Sys2Proof.Machine.execAttest sid ok s
  | .grant sid => Sys2Proof.Machine.execGrant sid s
  | .revoke sid => Sys2Proof.Machine.execRevoke sid s
  | .enrolKey sid b bad => Sys2Proof.Machine.execEnrolKey sid b bad s
  | .flashPolicy sid => Sys2Proof.Machine.execFlashPolicy sid s
  | .resetSled sid => Sys2Proof.Machine.execResetSled sid s
  | .updateFirmware sid img bad => Sys2Proof.Machine.execUpdateFirmware sid img bad s
  | .updateFirmwareRecovery sid img bad => Sys2Proof.Machine.execUpdateFirmwareRecovery sid img bad s
  | .retireGranule sid => Sys2Proof.Machine.execRetireGranule sid s
  | .retireBank sid => Sys2Proof.Machine.execRetireBank sid s
  | .retireSramPage sid => Sys2Proof.Machine.execRetireSramPage sid s
  | .setRake sid => Sys2Proof.Machine.execSetRake sid s
  | .setPlot sid b bad => Sys2Proof.Machine.execSetPlot sid b bad s
  | .woanePacketReceive p => Sys2Proof.Machine.execWoanePacketReceive p s
  | .hello rank srcEpoch body => Sys2Proof.Machine.execHello rank srcEpoch body s
  | .peerDownTimeout rank => Sys2Proof.Machine.execPeerDownTimeout rank s
  | .openFlow rank cls => Sys2Proof.Machine.execOpenFlow rank cls s
  | .openOk rank cls credits => Sys2Proof.Machine.execOpenOk rank cls credits s
  | .data rank cls psn first last ce payload msgs => Sys2Proof.Machine.execData rank cls psn first last ce payload msgs s
  | .ack rank cls body => Sys2Proof.Machine.execAck rank cls body s
  | .ackTimer rank cls => Sys2Proof.Machine.execAckTimer rank cls s
  | .bufferRelease rank cls psn => Sys2Proof.Machine.execBufferRelease rank cls psn s
  | .retransmitTimer rank cls => Sys2Proof.Machine.execRetransmitTimer rank cls s
  | .woaneRateTimer rank => Sys2Proof.Machine.execWoaneRateTimer rank s
  | .audit rank cls nextPsn => Sys2Proof.Machine.execAudit rank cls nextPsn s
  | .auditReply rank cls body => Sys2Proof.Machine.execAuditReply rank cls body s
  | .fabricPortLoss port => Sys2Proof.Machine.execFabricPortLoss port s
  | .fabricPortReturn port => Sys2Proof.Machine.execFabricPortReturn port s
  | .exchangeTimeout id => Sys2Proof.Machine.execExchangeTimeout id s
  | .plotCommit plot rank sid inserted deleted => Sys2Proof.Machine.execPlotCommit plot rank sid inserted deleted s
  | .plotPrepare rank plot base digest inserted deleted => Sys2Proof.Machine.execPlotPrepare rank plot base digest inserted deleted s
  | .plotDecision plot base commit => Sys2Proof.Machine.execPlotDecision plot base commit s
  | .plotSummary y => Sys2Proof.Machine.execPlotSummary y s
  | .plotSearchMessage rank sid plot msg media => Sys2Proof.Machine.execPlotSearchMessage rank sid plot msg media s
  | .plotSearchReply rank sid reply => Sys2Proof.Machine.execPlotSearchReply rank sid reply s
  | .memoryRead unit addr flipped merge raced => Sys2Proof.Machine.execMemoryRead unit addr flipped merge raced s
  | .rakeRead sram flipped raced => Sys2Proof.Machine.execRakeRead sram flipped raced s
  | .rakeLapEnd sram seconds => Sys2Proof.Machine.execRakeLapEnd sram seconds s
  | .fill unit addr words pattern => Sys2Proof.Machine.execFill unit addr words pattern s
  | .checkerSelfTest unitType index pass => Sys2Proof.Machine.execCheckerSelfTest unitType index pass s
  | .errorLogEvent e => Sys2Proof.Machine.execErrorLogEvent e s
  | .coreHeartbeatTimeout core => Sys2Proof.Machine.execCoreHeartbeatTimeout core s
  | .handoffEffect thread receiver n => Sys2Proof.Machine.execHandoffEffect thread receiver n s
  | .hubHeartbeatTimeout hub => Sys2Proof.Machine.execHubHeartbeatTimeout hub s
  | .hubTakeoverComplete hub => Sys2Proof.Machine.execHubTakeoverComplete hub s
  | .hbmStackRetirement stack => Sys2Proof.Machine.execHbmStackRetirement stack s
  | .laserModuleFault module removed => Sys2Proof.Machine.execLaserModuleFault module removed s
  | .laserModuleInsert module => Sys2Proof.Machine.execLaserModuleInsert module s
  | .regulatorFault module => Sys2Proof.Machine.execRegulatorFault module s
  | .firmwareImageCheck sigOk => Sys2Proof.Machine.execFirmwareImageCheck sigOk s
  | .revokeFuseBlow key => Sys2Proof.Machine.execRevokeFuseBlow key s
  | .readinessChange bit => Sys2Proof.Machine.execReadinessChange bit s
  | .configReadWord addr => Sys2Proof.Machine.execConfigReadWord addr s
  | .configProgramWord addr value => Sys2Proof.Machine.execConfigProgramWord addr value s
  | .configEraseSector sector => Sys2Proof.Machine.execConfigEraseSector sector s
  | .configItemWrite item payload bad => Sys2Proof.Machine.execConfigItemWrite item payload bad s
  | .counterIncrement counter => Sys2Proof.Machine.execCounterIncrement counter s
  | .inputSample mv => Sys2Proof.Machine.execInputSample mv s
  | .resetLAssert heldUs => Sys2Proof.Machine.execResetLAssert heldUs s
  | .presentLChange asserted pins => Sys2Proof.Machine.execPresentLChange asserted pins s
  | .sensorRead r => Sys2Proof.Machine.execSensorRead r s
  | .demandLiftTimer d => Sys2Proof.Machine.execDemandLiftTimer d s
  | .ageingMonitor r => Sys2Proof.Machine.execAgeingMonitor r s
  | .ageingCeiling domain => Sys2Proof.Machine.execAgeingCeiling domain s
  | .clockWake unit => Sys2Proof.Machine.execClockWake unit s
  | .rtuReceive conn => Sys2Proof.Machine.execRtuReceive conn s
  | .tetherLinkLoss hub => Sys2Proof.Machine.execTetherLinkLoss hub s
  | .hbmLinkLoss stack => Sys2Proof.Machine.execHbmLinkLoss stack s
  | .eraseComplete channel die blockSet => Sys2Proof.Machine.execEraseComplete channel die blockSet s
  | .plotVote rank plot base yes live => Sys2Proof.Machine.execPlotVote rank plot base yes live s
  | .plotPrepareTimeout plot => Sys2Proof.Machine.execPlotPrepareTimeout plot s
  | .commitConfirm rank plot id version => Sys2Proof.Machine.execCommitConfirm rank plot id version s
  | .pickBoundary => Sys2Proof.Machine.execPickBoundary s
  | .columnTakeoverComplete => Sys2Proof.Machine.execColumnTakeoverComplete s
  | .mapCheckpointComplete => Sys2Proof.Machine.execMapCheckpointComplete s
  | .sysregionJournal => Sys2Proof.Machine.execSysregionJournal s
  | .mapReplay lostTags => Sys2Proof.Machine.execMapReplay lostTags s
  | .automaticEviction => Sys2Proof.Machine.execAutomaticEviction s
  | .swapOut => Sys2Proof.Machine.execSwapOut s
  | .hostportModeTimer => Sys2Proof.Machine.execHostportModeTimer s
  | .announceTimer => Sys2Proof.Machine.execAnnounceTimer s
  | .helloTimer => Sys2Proof.Machine.execHelloTimer s
  | .coreTakeoverComplete => Sys2Proof.Machine.execCoreTakeoverComplete s
  | .start => Sys2Proof.Machine.execStart s
  | .rollbackFuseBlow => Sys2Proof.Machine.execRollbackFuseBlow s
  | .poweredHoursTimer => Sys2Proof.Machine.execPoweredHoursTimer s
  | .eraseFlagRepair => Sys2Proof.Machine.execEraseFlagRepair s
  | .excursionEnd => Sys2Proof.Machine.execExcursionEnd s
  | .sagWarn => Sys2Proof.Machine.execSagWarn s
  | .sagFlushEnd => Sys2Proof.Machine.execSagFlushEnd s
  | .inputResetThreshold => Sys2Proof.Machine.execInputResetThreshold s
  | .overVoltageTrip => Sys2Proof.Machine.execOverVoltageTrip s
  | .startCondition => Sys2Proof.Machine.execStartCondition s
  | .pwrEnAssert => Sys2Proof.Machine.execPwrEnAssert s
  | .pwrEnDeassert => Sys2Proof.Machine.execPwrEnDeassert s
  | .pwrgdAssert => Sys2Proof.Machine.execPwrgdAssert s
  | .resetLRelease => Sys2Proof.Machine.execResetLRelease s
  | .holdupBankCharged => Sys2Proof.Machine.execHoldupBankCharged s
  | .thermalTrip => Sys2Proof.Machine.execThermalTrip s
  | .thermtripRelease => Sys2Proof.Machine.execThermtripRelease s
  | .stepChange => Sys2Proof.Machine.execStepChange s
  | .stepLowerTimer => Sys2Proof.Machine.execStepLowerTimer s
  | .housekeepingPowerOn => Sys2Proof.Machine.execHousekeepingPowerOn s
  | .recoveryReset => Sys2Proof.Machine.execRecoveryReset s
  | .pfcPauseExpiry => Sys2Proof.Machine.execPfcPauseExpiry s

end Sys2Proof.Machine
end

