-- ==== Sys2Proof/Safety.lean ====
section
/-! DEFINITION. The words in which statements about the sled are made: what a command answers, a submission that may begin,
buffers that are in reach, the canonical form of the memories, what nothing but a stated command changes. -/

namespace Sys2Proof.Machine

open Sys2Proof

/-- The command answers a next state, and `P` holds of it. -/
abbrev Gives (c : Instr) (s : State) (P : State → Prop) : Prop := ∃ t, exec c s = .next t ∧ P t

/-- The command changes nothing. -/
abbrev Ignores (c : Instr) (s : State) : Prop := exec c s = .next s

/-- `u` is the accepted submission that `sid` names; it carries the opcode, has no outcome yet and has not begun, and every
submission accepted earlier on the same object has begun or ended (R322). -/
abbrev Waits (s : State) (sid op : Nat) (u : Sub) : Prop :=
  s.sub? sid = some u ∧ u.entry.opcode.toNat = op ∧ u.due = none ∧ u.running = false ∧ s.mayRun u = true

/-- `Waits`, and no status has applied to the submission since its accept event (R320). -/
abbrev Begins (s : State) (sid op : Nat) (u : Sub) : Prop := Waits s sid op u ∧ u.preset = []

/-- A result of `n` bytes reaches B: the RDMA WRITE meets no remote access error, or B lies in the data area of the mailbox
slot (R316, R324). -/
abbrev Reaches (u : Sub) (n : Nat) (ok : Bool) : Prop :=
  (u.inSlot = true ∧ 0x80 ≤ u.entry.addr.toNat ∧ u.entry.addr.toNat + n ≤ 0xFF8) ∨ (u.inSlot = false ∧ ok = true)

/-- The result of a command that completes OK with RESULT0 and RESULT1 (R258, R317, R318). -/
def okResult (u : Sub) (r0 r1 : W64) : Result :=
  { status := .ok, flags := { writeThrottled := u.throttled }, result0 := r0, result1 := r1 }

/-- The submission `sid`, which is `u`, has this result and is not running. -/
abbrev EndsWith (t : State) (sid : Nat) (u : Sub) (r : Result) : Prop :=
  t.sub? sid = some { u with due := some r, running := false }

/-- Every memory of the main package is in its canonical form. -/
abbrev MemoriesCanonical (s : State) : Prop :=
  s.mems.hbm.wf = true ∧ s.mems.tile.wf = true ∧ s.mems.cc.wf = true

/-- What manufacture fixes: SEED, FWKEY0, FWKEY1, SERIAL, MAC and the variant, with IDENTITY_KEY, which stays or is derived from SEED again
(R408, R411, R313). -/
abbrev SameIdentity (s t : State) : Prop :=
  t.boot.seed = s.boot.seed ∧ t.boot.fwKey0 = s.boot.fwKey0 ∧ t.boot.fwKey1 = s.boot.fwKey1 ∧ t.boot.serial = s.boot.serial
    ∧ t.boot.mac = s.boot.mac ∧ (t.boot.identityKey = s.boot.identityKey ∨ t.boot.identityKey = identityPublic s.boot.seed) ∧ t.boot.half = s.boot.half

/-- The bits that one value has set, another has set. -/
abbrev BitsStay (v w : BitVec 2) : Prop := ∀ i, v.getLsbD i = true → w.getLsbD i = true

end Sys2Proof.Machine
end

