-- ==== Sys2Proof/Certificates/Slice0/Obligations.lean ====
section
/-! DEFINITION. The statements about the sled, one definition each; OBLIGATIONS.json lists them.  Each docstring names the
rules of the specification it rests on.  A statement of several parts is their conjunction. -/

open Sys2Proof Sys2Proof.Machine

/-- A step runs the command at the front of the queue on the state with the queue's rest; on an empty queue the block only
counts one P-clock cycle (R438; the idle cycle is the model's choice, log 13). -/
def Obligations.StepRunsFront : Prop :=
  (∀ (c : Instr) (rest : List Instr) (s : State), s.pending = c :: rest → step s = exec c { s with pending := rest })
  ∧ (∀ s : State, s.pending = [] →
      ∃ t, step s = .next t ∧ t.pclk = s.pclk + 1 ∧ t = { s with pclk := t.pclk, power := { s.power with stepMs := t.power.stepMs } })

/-- Every command on every state answers a next state, but MEMORY_READ and FILL where an address does not exist (R24, R87,
R160): no command is refused. -/
def Obligations.ExecTotal : Prop :=
  ∀ (c : Instr) (s : State), (∃ t, exec c s = .next t)
    ∨ (∃ f, exec c s = .fault f ∧ ((∃ m a l h r, c = .memoryRead m a l h r) ∨ (∃ m a n p, c = .fill m a n p)))

/-- No command touches the queue of waiting commands (the model's own queue).
What has left the sled stays recorded as sent, whatever the command, a reset included: the record only grows, and so does
that of the frames that have left a port (the model's own records `out` and `frames`). -/
def Obligations.QueueKeptAndSent : Prop :=
  (∀ (c : Instr) (s t : State), exec c s = .next t → t.pending = s.pending)
  ∧ (∀ (c : Instr) (s t : State), exec c s = .next t → (∃ l, t.out = l ++ s.out) ∧ ∃ l, t.frames = l ++ s.frames)

/-- The memories keep their canonical form, from every state that has it. -/
def Obligations.MemoriesStayCanonical : Prop :=
  ∀ s t : State, MemoriesCanonical s → step s = .next t → MemoriesCanonical t

/-- The sled right after reset, cold: no readiness bit, no queue pair, connection, session or submission, sixteen idle mailbox
slots, RESET_L asserted and PWR_EN not, client 0 with the default limit (R273, R314, R325); memories in canonical form, no
command waiting. That reset is cold, and the levels of the slot signals before any event, are the model's choice (log 1);
the empty memories are log 7's. -/
def Obligations.ResetValues : Prop :=
  State.reset.boot.ready = 0 ∧ State.reset.boot.phase = .off ∧ State.reset.queues = [] ∧ State.reset.hp.conns = []
  ∧ State.reset.sasel.sessions = [] ∧ State.reset.sasel.subs = [] ∧ State.reset.sasel.slots = List.replicate 16 {}
  ∧ State.reset.power.resetL = true ∧ State.reset.power.pwrEn = false ∧ State.reset.power.pwrgd = false
  ∧ State.reset.power.slotPins = 0x3F#6 ∧ State.reset.sasel.clients = [{ index := 0, limit := 4096 }]
  ∧ State.reset.pclk = 0 ∧ MemoriesCanonical State.reset ∧ State.reset.pending = []

/-- What is fixed at manufacture never changes, fuses are only ever blown (R408, R412, R413, R411, R313). -/
def Obligations.FusesOnlyBlow : Prop :=
  ∀ s t : State, step s = .next t →
    SameIdentity s t ∧ s.boot.rollback ≤ t.boot.rollback ∧ BitsStay s.boot.revoke t.boot.revoke

/-- The outcome of a command is set once: the first result stays, and nothing but its record changes.
An event for a submission that does not exist, that carries another opcode, or that has its outcome, changes nothing (the
model's reading, log 10).
A command to which a status has applied since its accept event ends with the first in the order of R320 of those and the
ones found when it is carried out, and has no effect. -/
def Obligations.OutcomesAndStatuses : Prop :=
  (∀ (s : State) (sid : Nat) (u : Sub) (r : Result), s.sub? sid = some u →
     (u.due = none → (s.finish sid r).sub? sid = some { u with due := some r, running := false })
     ∧ (u.due ≠ none → (s.finish sid r).sub? sid = some u)
     ∧ (∀ k, k ≠ sid → (s.finish sid r).sub? k = s.sub? k)
     ∧ s.finish sid r = { s with sasel := { s.sasel with subs := (s.finish sid r).sasel.subs } })
  ∧ (∀ (s : State) (sid op : Nat) (body : Sub → State → State),
       (∀ u, s.sub? sid = some u → u.entry.opcode.toNat ≠ op ∨ u.due ≠ none ∨ u.running = true) → s.run sid op body = s)
  ∧ ((∀ (s : State) (sid : Nat) (u : Sub), Waits s sid 0x00 u → u.preset ≠ [] →
         exec (.nop sid) s = .next (s.failWith sid (firstStatus u.preset)))
     ∧ (∀ (s : State) (sid : Nat) (u : Sub), Waits s sid 0x02 u → u.preset ≠ [] →
         exec (.destroyQueue sid) s = .next (s.failWith sid (firstStatus u.preset)))
     ∧ (∀ (s : State) (sid : Nat) (u : Sub), Waits s sid 0x03 u → u.preset ++ s.attachErrs u.entry ≠ [] →
         exec (.attachQueue sid) s = .next (s.failWith sid (firstStatus (u.preset ++ s.attachErrs u.entry))))
     ∧ (∀ (s : State) (sid : Nat) (u : Sub), Waits s sid 0xE7 u → u.preset ≠ [] → s.boot.update = none →
         exec (.resetSled sid) s = .next (s.failWith sid (firstStatus u.preset)))
     ∧ (∀ (l : List Status) (st : Status), st ∈ l → (firstStatus l).rank ≤ st.rank ∧ firstStatus l ∈ .ok :: l))

/-- The once-only gate of R387: COMPLETION_WRITE of a submission whose completion is written is dropped and counted; with its
outcome final and not written, exactly that completion is written.
Where a completion goes (R278, R317, R309, R325): the next slot of the pair's completion ring with the next SEQ, held while
the pair's connection is not open, or the mailbox slot, whose STATE becomes DONE (`lateResult` adds DEADLINE_MISSED to an
answer request that is late by then, R51). -/
def Obligations.Completions : Prop :=
  (∀ (s : State) (sid : Nat) (u : Sub), s.sub? sid = some u →
     (u.finished = true →
       exec (.completionWrite sid) s = .next { s with integ := { s.integ with dropped := satInc s.integ.dropped } })
     ∧ (u.finished = false → u.due = none → Ignores (.completionWrite sid) s)
     ∧ (u.finished = false → ∀ r, u.due = some r →
         exec (.completionWrite sid) s = .next ((s.writeCompletion sid).afterCompletion sid)
         ∧ (s.writeCompletion sid).sub? sid = some { u with finished := true }))
  ∧ ((∀ (s : State) (i : Nat) (r : Result) (tag : W32),
       let q := s.queue i
       let c := mkCompletion r (BitVec.ofNat 32 (q.completions + 1)) tag
       (s.connOpen q.conn = true →
         s.pushCompletion i r tag = (s.setQueue { q with completions := q.completions + 1 }).emit
           (.write q.conn (q.cqAddr + BitVec.ofNat 64 (32 * (q.completions % 2 ^ q.log2Depth))) q.cqRkey c.bytes))
       ∧ (s.connOpen q.conn = false →
         s.pushCompletion i r tag = s.setQueue { q with completions := q.completions + 1, held := q.held ++ [c] }))
     ∧ (∀ (s : State) (sid : Nat) (u : Sub) (r : Result) (m : Nat) (seq : W32) (x : Mailbox),
         s.sub? sid = some u → u.finished = false → u.due = some r → u.origin = .mailbox m seq → s.sasel.slots[m]? = some x →
         (s.writeCompletion sid).sasel.slots[m]? = some { x with completion := mkCompletion (s.lateResult u r) seq u.entry.cmdTag, state := .done }))

/-- NOP completes OK and does nothing else.
CREATE_QUEUE: a well-formed descriptor of an enrolled client on an open connection takes the lowest FREE index, in ACTIVE,
with an empty ring and its generation; RESULT0 is the handle and the ring's key, RESULT1 the ring's address (key and address
are free values, log 14).
DESTROY_QUEUE, with its pair DRAINING since its accept event: it completes when every other completion of the pair has been
written, with the abandoned count; until then it has begun and waits; its pair is then in QUARANTINE.
The accept event of a DESTROY_QUEUE: the pair is DRAINING, and the abandoned count is T_last − F modulo 2³² (R280).
QUARANTINE_EXIT: a pair in QUARANTINE whose connection has been flushed is FREE, with the next generation and the index's
stale counter; any other pair stays (R281, R282).
ATTACH_QUEUE binds a pair whose connection is in error to an open connection of the same client, and the completions held
are written there in order, each once.
The four outcomes of a doorbell write (R277, R282, R312): an access that is not one aligned 8 B write is counted and
ignored; a doorbell for another generation, index or state counts as stale, one from another connection or out of range as
bad; any other moves T_last. -/
def Obligations.QueueLife : Prop :=
  (∀ (s : State) (sid : Nat) (u : Sub), Begins s sid 0x00 u → exec (.nop sid) s = .next (s.finish sid (okResult u 0 0)))
  ∧ (∀ (s : State) (sid i : Nat) (u : Sub) (b : Option Buf) (buf : Buf),
       Begins s sid 0x01 u → u.readB b = some buf →
       let d := parseQueueDesc buf
       d.rsv = false → handleRsvOk d.conn = true → u.entry.length.toNat = 64 → d.cqAddr.toNat % 32 = 0 → 1 ≤ d.log2Depth → d.log2Depth ≤ 16 →
       (s.client? d.client).isSome = true → s.connOpen d.conn = true → s.isReady bitQmgr = true →
       s.ringEntries + 2 ^ d.log2Depth ≤ 67108864 → s.freeQueue = some i →
       exec (.createQueue sid b) s = .next
         ((({ s with free := s.free + 1 } : State).setQueue
             { index := i, gen := (s.queue i).gen, state := .active, conn := d.conn, client := d.client, log2Depth := d.log2Depth
               cqAddr := d.cqAddr, cqRkey := d.cqRkey, stale := (s.queue i).stale }).finish sid
           (okResult u (BitVec.ofNat 64 ((mkQueueHandle (s.queue i).gen i).toNat + 2 ^ 32 * (Config.rkey s.free).toNat))
             (Config.ringAddr s.free))))
  ∧ (∀ (s : State) (sid : Nat) (u : Sub), Begins s sid 0x02 u →
       let i := qhIndex u.entry.handleA
       (s.queue i).destroyer = some sid → s.connOpen (s.queue i).conn = true →
       (s.drained i sid = true → exec (.destroyQueue sid) s = .next
           ((s.start sid).finish sid (okResult u (BitVec.ofNat 64 (u.abandoned.toNat + 2 ^ 32 * (s.queue i).undelivered.toNat)) 0)))
       ∧ (s.drained i sid = false → exec (.destroyQueue sid) s = .next (s.start sid))
       ∧ (s.enterQuarantine u).queue i = { s.queue i with state := .quarantine, flushed := !(s.conn? (s.queue i).conn).isSome, held := []
                                                          undelivered := satAdd (s.queue i).undelivered (s.queue i).held.length })
  ∧ (∀ (s : State) (u : Sub) (q : Queue), s.activeQueue? u.entry.handleA = some q → u.entry.opcode = 0x02 → u.preset = [] →
       s.sub? u.sid = some u →
       (s.acceptEffect u).queue q.index = { q with state := .draining, destroyer := some u.sid }
       ∧ (s.acceptEffect u).sub? u.sid = some { u with abandoned := q.tail - q.fetched })
  ∧ (∀ (s : State) (i : Nat),
       ((s.queue i).state = .quarantine → (s.queue i).flushed = true →
         exec (.quarantineExit i) s = .next (s.setQueue { index := i, gen := nextGen (s.queue i).gen, stale := (s.queue i).stale }))
       ∧ ((s.queue i).state ≠ .quarantine ∨ (s.queue i).flushed = false → Ignores (.quarantineExit i) s))
  ∧ (∀ (s : State) (sid : Nat) (u : Sub) (q : Queue), Begins s sid 0x03 u → s.activeQueue? u.entry.handleA = some q →
       s.connOpen q.conn = false → s.connOpen u.entry.handleB = true →
       (∀ p ∈ s.queues, p.state ≠ .free → p.conn = u.entry.handleB → p.client = q.client) →
       Gives (.attachQueue sid) s fun t =>
         t.out = (q.held.map fun c => Out.write u.entry.handleB (q.cqSlot (c.seq - 1#32).toNat) q.cqRkey c.bytes).reverse ++ s.out
         ∧ t.queue q.index = { q with conn := u.entry.handleB, held := [] }
         ∧ (∀ k, k ≠ q.index → t.queue k = s.queue k)
         ∧ EndsWith t sid u (okResult u 0 0)
         ∧ t = { s with queues := t.queues, out := t.out, frames := t.frames, txHeld := t.txHeld, hp := { s.hp with conns := t.hp.conns }
                        sasel := { s.sasel with subs := t.sasel.subs } })
  ∧ (∀ (s : State) (conn : W32) (offset : Nat) (data : Buf),
       s.connOpen conn = true → 0x100000 ≤ offset → offset < 0x300000 →
       let i := (offset - 0x100000) / 8
       let d := BitVec.ofNat 64 (Buf.le data 0 8)
       let t : W32 := d.truncate 32
       let q := s.queue i
       let isStale := bitsOf d.toNat 38 18 ≠ i ∨ d.toNat / 2 ^ 56 ≠ q.gen ∨ q.state ≠ .active
       let isBad := conn ≠ q.conn ∨ bitsOf d.toNat 32 6 ≠ 0 ∨ 2 ^ q.log2Depth < (t - q.fetched).toNat
         ∨ (t - q.fetched).toNat < (q.tail - q.fetched).toNat
       (data.length ≠ 8 ∨ offset % 8 ≠ 0 →
         exec (.doorbell conn offset data) s = .next { s with hp := { s.hp with frontBadWrite := satInc s.hp.frontBadWrite } })
       ∧ (data.length = 8 → offset % 8 = 0 → isStale →
           exec (.doorbell conn offset data) s = .next (s.setQueue { q with stale := satInc q.stale }))
       ∧ (data.length = 8 → offset % 8 = 0 → ¬ isStale → isBad →
           exec (.doorbell conn offset data) s = .next (s.setQueue { q with badDoorbell := satInc q.badDoorbell }))
       ∧ (data.length = 8 → offset % 8 = 0 → ¬ isStale → ¬ isBad →
           exec (.doorbell conn offset data) s = .next (s.setQueue { q with tail := t })))

/-- SUBMISSION_FETCH takes the next announced entry of an ACTIVE pair on an open connection: F advances; an entry of the pair's
generation is accepted, another counts as stale and yields nothing; with nothing to fetch nothing changes (R277, R282). -/
def Obligations.EntriesFetched : Prop :=
  ∀ (s : State) (i : Nat),
    let q := s.queue i
    let e := Entry.parse ((assocGet (q.fetched.toNat % 2 ^ q.log2Depth) q.ring).getD [])
    let may := s.accepts = true ∧ s.isReady bitQmgr = true ∧ q.state = .active ∧ s.connOpen q.conn = true ∧ q.fetched ≠ q.tail
    (may → e.gen.toNat = q.gen →
      exec (.submissionFetch i) s = .next ((s.setQueue { q with fetched := q.fetched + 1 }).accept (.queue i) q.conn q.client e []).2)
    ∧ (may → e.gen.toNat ≠ q.gen →
      exec (.submissionFetch i) s = .next (s.setQueue { q with fetched := q.fetched + 1, stale := satInc q.stale }))
    ∧ (¬ may → Ignores (.submissionFetch i) s)

/-- Queue handles (R276): generation in [31:24], zeros in [23:18], index in [17:0]; a generation runs from 1 to 255 and back to
1; at reset every index is FREE with generation 1; the index CREATE_QUEUE takes is the lowest FREE one. -/
def Obligations.QueueHandles : Prop :=
  (∀ gen i, gen < 256 → i < 2 ^ 18 → (mkQueueHandle gen i).toNat / 2 ^ 24 = gen ∧ (mkQueueHandle gen i).toNat / 2 ^ 18 % 2 ^ 6 = 0
      ∧ (mkQueueHandle gen i).toNat % 2 ^ 18 = i)
  ∧ (∀ g, 1 ≤ g → g ≤ 255 → 1 ≤ nextGen g ∧ nextGen g ≤ 255 ∧ (g < 255 → nextGen g = g + 1) ∧ (g = 255 → nextGen g = 1))
  ∧ (∀ i, (State.reset.queue i).state = .free ∧ (State.reset.queue i).gen = 1)
  ∧ (∀ (s : State) (i : Nat), (s.queues.map (·.index)).Nodup → s.freeQueue = some i →
      i < 262144 ∧ (s.queue i).state = .free ∧ ∀ j, j < i → (s.queue j).state ≠ .free)

/-- The accept event of a submission of a client below its job limit (R33, R63, R273, R387): the next event number names its
record, a free buffer descriptor serves it (R25), the client has one job more; at the limit it counts as admitted and
finished, and NO_RESOURCE applies.
ENROL_CLIENT sets a client's limit, enrols a client that is not, and with limit 0 removes one that has no queue pair; client
0 and limits above 1,048,576 are refused (R273). -/
def Obligations.ClientsAndAccept : Prop :=
  (∀ (s : State) (o : Origin) (conn : W32) (cl : Nat) (e : Entry) (b : Buf),
     classOf e.opcode.toNat = some .query →
     let t := (s.accept o conn cl e b).2
     (s.accept o conn cl e b).1 = s.sasel.eventSeq + 1 ∧ t.sasel.eventSeq = s.sasel.eventSeq + 1
     ∧ t.sasel.subs = s.sasel.subs ++ [{ sid := s.sasel.eventSeq + 1, origin := o, conn := conn, client := cl, entry := e, copied := b
                                         count := s.pclk, afterShutdown := s.sasel.shutdown
                                         preset := s.presets o conn cl e, jobless := s.atLimit cl
                                         desc := s.freeDesc, takeoverPs := s.takeoverPs }]
     ∧ t.sasel.clients = s.sasel.clients.map (fun c => if c.index = cl then
         (if s.atLimit cl = true then { c with admitted := c.admitted + 1, finished := c.finished + 1 }
          else { c with admitted := c.admitted + 1, current := c.current + 1 }) else c)
     ∧ (∀ d, s.freeDesc = some d →
         t.sasel.descs = (s.sasel.descs.filter fun x => !(x.1 == d)) ++ [(d, .owned .queueManager)])
     ∧ t = { s with sasel := { s.sasel with eventSeq := t.sasel.eventSeq, subs := t.sasel.subs, clients := t.sasel.clients
                                            descs := t.sasel.descs } }
     ∧ (s.atLimit cl = true → Status.noResource ∈ s.presets o conn cl e))
  ∧ (∀ (s : State) (sid : Nat) (u : Sub), Begins s sid 0xE0 u →
       let c := u.entry.arg0.toNat
       let limit := u.entry.arg1.toNat
       (1 ≤ limit → limit ≤ 1048576 → (s.client? c).isSome = true →
         exec (.enrolClient sid) s = .next ((s.modClient c fun x => { x with limit := limit }).finish sid (okResult u 0 0)))
       ∧ (1 ≤ limit → limit ≤ 1048576 → s.client? c = none →
         exec (.enrolClient sid) s = .next
           (({ s with sasel := { s.sasel with clients := s.sasel.clients ++ [{ index := c, limit := limit }] } } : State).finish sid (okResult u 0 0)))
       ∧ (limit = 0 → c ≠ 0 → s.clientHasQueue c = false →
         exec (.enrolClient sid) s = .next
           (({ s with sasel := { s.sasel with clients := s.sasel.clients.filter fun x => !(x.index == c) } } : State).finish sid (okResult u 0 0)))
       ∧ (limit = 0 → c ≠ 0 → s.clientHasQueue c = true →
         exec (.enrolClient sid) s = .next (s.finish sid { status := .noResource }))
       ∧ (1048576 < limit ∨ (limit = 0 ∧ c = 0) → exec (.enrolClient sid) s = .next (s.finish sid { status := .badField })))

/-- The outcomes of a CONTROL write on an open connection while MAILBOX is set and the sled accepts submissions (R325, R326): a
slot in ACCEPTED and a repeated SEQ count as a collision; a wrong magic or SEQ 0 is rejected with reason 2, an opcode a
mailbox does not take with reason 1; any other is accepted from the slot.
SESSION_BEGIN writes 32 nonce bytes into B and the connection holds them, with the key slot and the time, in place of any
other nonce (R328).
SESSION_PROVE (R328) consumes the nonce, whatever comes of it. With the nonce of this key slot at most 10 s old, an owner
key in the slot, a signature that verifies and fewer than eight sessions, it opens a session and RESULT0 is its handle.
CLOSE_SESSION closes the session it names and no other; its index is reissued with the next generation (R329, R155). -/
def Obligations.MailboxAndSessions : Prop :=
  (∀ (s : State) (conn : W32) (m : Nat) (w : W64) (x : Mailbox),
     s.connOpen conn = true → s.accepts = true → s.isReady bitMailbox = true → s.sasel.slots[m]? = some x →
     let seq : W32 := BitVec.ofNat 32 (w.toNat / 2 ^ 32)
     let e := Entry.parse x.entry
     let wrong := w.toNat % 2 ^ 32 ≠ 0x474F474F ∨ seq = 0
     (x.state = .accepted ∨ (¬ wrong ∧ seq = x.seq) →
       exec (.mailboxControl conn m w) s = .next { s with hp := { s.hp with mailboxCollision := satInc s.hp.mailboxCollision } })
     ∧ (x.state ≠ .accepted → wrong → exec (.mailboxControl conn m w) s =
         .next (s.modSlot m fun x => { x with state := .rejected, reason := 2, control := w }))
     ∧ (x.state ≠ .accepted → ¬ wrong → seq ≠ x.seq → s.mailboxAllows e.opcode.toNat = false →
         exec (.mailboxControl conn m w) s =
         .next (s.modSlot m fun x => { x with state := .rejected, reason := 1, seq := seq, control := w }))
     ∧ (x.state ≠ .accepted → ¬ wrong → seq ≠ x.seq → s.mailboxAllows e.opcode.toNat = true →
         exec (.mailboxControl conn m w) s =
         .next ((s.modSlot m fun x => { x with state := .accepted, reason := 0, seq := seq, control := w }).accept
           (.mailbox m seq) conn 0 e x.data).2))
  ∧ (∀ (s : State) (sid : Nat) (u : Sub) (nonce : Buf) (ok : Bool), Begins s sid 0xF0 u → 32 ≤ u.entry.length.toNat → Reaches u 32 ok →
       exec (.sessionBegin sid nonce ok) s = .next
         (((s.writeB u (Buf.slice nonce 0 32)).modConn u.conn fun c =>
           { c with nonce := some { bytes := Buf.slice nonce 0 32, keySlot := u.entry.arg0.toNat, since := s.pclk } }).finish sid (okResult u 0 0)))
  ∧ (∀ (s : State) (sid : Nat) (u : Sub) (b : Option Buf) (sig : Buf) (n : Nonce) (c : Conn) (i : Nat),
       Begins s sid 0xF1 u → u.readB b = some sig → u.entry.length.toNat = 2420 → s.conn? u.conn = some c → c.nonce = some n →
       n.keySlot = u.entry.arg0.toNat → s.elapsed n.since ≤ 4250000000 → s.sasel.keys[4 + u.entry.arg0.toNat]? ≠ some [] →
       s.sasel.sessions.length < 8 → lowestFree (s.sasel.sessions.map (·.index)) 4096 = some i →
       (let g := genFor s.sasel.sessionGens i
        Gives (.sessionProve sid b true) s fun t =>
         t.sasel.sessions = s.sasel.sessions ++ [{ index := i, gen := g, conn := u.conn, keySlot := u.entry.arg0.toNat }]
         ∧ EndsWith t sid u (okResult u (BitVec.ofNat 64 (mkHandle g kindSession i).toNat) 0)
         ∧ (∀ d, t.conn? u.conn = some d → d.nonce = none)
         ∧ t = { s with hp := { s.hp with conns := t.hp.conns }, sasel := { s.sasel with sessions := t.sasel.sessions, subs := t.sasel.subs } })
       ∧ Gives (.sessionProve sid b false) s fun t =>
         t.sasel.sessions = s.sasel.sessions ∧ EndsWith t sid u { status := .denied } ∧ (∀ d, t.conn? u.conn = some d → d.nonce = none))
  ∧ (∀ (s : State) (sid : Nat) (u : Sub) (x : Session), Begins s sid 0xF2 u → s.session? u.entry.handleA = some x →
       (∀ y ∈ s.sasel.sessions, names u.entry.handleA kindSession y.gen y.index = true → y = x) →
       Gives (.closeSession sid) s fun t =>
         (∀ y, y ∈ t.sasel.sessions ↔ y ∈ s.sasel.sessions ∧ y ≠ x)
         ∧ EndsWith t sid u (okResult u 0 0)
         ∧ t = { s with sasel := { s.sasel with sessions := t.sasel.sessions, sessionGens := t.sasel.sessionGens, subs := t.sasel.subs } })

/-- GRANT with ARG1 1 gives the client of ARG0 access to the object, and with ARG1 0 removes it; nothing else changes (R322).
ENROL_KEY and SET_HOSTPORT, with no update running and a program that reads back right: the key is in its slot (a key of
zeros empties it) and M1 is extended; the settings are in force, a pause for another lossless priority holds nothing any
more, and M3 is extended; the sessions of a replaced owner key close (R299, R302, R421, R425, R329).
FLASH_POLICY sets the wear limit (50 to 1,000) and the patrol period (1 to 30 days) and refuses other values (R245, R246);
RESET_SLED completes, and the sled resets once its completion is written, but not while an update writes (R322, R423). -/
def Obligations.GrantsAndSettings : Prop :=
  (∀ (s : State) (sid : Nat) (u : Sub), Begins s sid 0xE1 u →
     let g := (u.entry.handleA, u.entry.arg0.toNat)
     (u.entry.arg1 = 1 → Gives (.grant sid) s fun t =>
       (∀ x, x ∈ t.sasel.grants ↔ x ∈ s.sasel.grants ∨ x = g) ∧ EndsWith t sid u (okResult u 0 0)
       ∧ t = { s with sasel := { s.sasel with grants := t.sasel.grants, subs := t.sasel.subs } })
     ∧ (u.entry.arg1 = 0 → Gives (.revoke sid) s fun t =>
       (∀ x, x ∈ t.sasel.grants ↔ x ∈ s.sasel.grants ∧ x ≠ g) ∧ EndsWith t sid u (okResult u 0 0)
       ∧ t = { s with sasel := { s.sasel with grants := t.sasel.grants, subs := t.sasel.subs } }))
  ∧ ((∀ (s : State) (sid : Nat) (u : Sub) (b : Option Buf) (key : Buf), Begins s sid 0xE2 u → s.boot.update = none → u.readB b = some key →
       u.entry.length.toNat = keyBytes →
       let slot := u.entry.arg0.toNat % 4 + (if u.entry.arg0.toNat / 256 % 2 = 1 then 4 else 0)
       let keys := modAt s.sasel.keys slot fun _ => if key.all (· == 0) then [] else key
       (keys.drop 4).any (fun k => k != []) = true →
       Gives (.enrolKey sid b none) s fun t =>
         t.sasel.keys = keys ∧ t.boot.m1 = sha3 (s.boot.m1 ++ sha3 (keysPayload keys)) ∧ EndsWith t sid u (okResult u 0 0)
         ∧ (∀ x, x ∈ t.sasel.sessions ↔ x ∈ s.sasel.sessions ∧ (slot < 4 ∨ x.keySlot + 4 ≠ slot))
         ∧ t = { s with boot := { s.boot with m1 := t.boot.m1, cfgWords := t.boot.cfgWords, cfgFlags := t.boot.cfgFlags }
                        sasel := { s.sasel with keys := t.sasel.keys, sessions := t.sasel.sessions, sessionGens := t.sasel.sessionGens
                                                subs := t.sasel.subs } })
     ∧ (∀ (s : State) (sid : Nat) (u : Sub) (b : Option Buf) (buf : Buf), Begins s sid 0xE3 u → s.boot.update = none → u.readB b = some buf →
       u.entry.length.toNat = 32 → hpOk buf = true →
       Gives (.setHostport sid b none) s fun t =>
         let h := parseHp buf
         let goesOn := s.hp.paused = false ∨ (h.pfcOn = true ∧ h.pfcPrio = s.hp.settings.pfcPrio)
         (goesOn → t.hp = { s.hp with settings := h } ∧ t.txHeld = s.txHeld ∧ t.frames = s.frames)
         ∧ (¬ goesOn → t.hp = { s.hp with settings := h, paused := false } ∧ t.txHeld = []) ∧ t.boot.m3 = sha3 (s.boot.m3 ++ sha3 buf) ∧ EndsWith t sid u (okResult u 0 0)
         ∧ t = { s with hp := t.hp, frames := t.frames, txHeld := t.txHeld
                        boot := { s.boot with m3 := t.boot.m3, cfgWords := t.boot.cfgWords, cfgFlags := t.boot.cfgFlags }
                        sasel := { s.sasel with subs := t.sasel.subs } }))
  ∧ ((∀ (s : State) (sid : Nat) (u : Sub), Begins s sid 0xE6 u →
       let wear := u.entry.arg0.toNat % 65536
       let days := u.entry.arg0.toNat / 65536 % 256
       (50 ≤ wear ∧ wear ≤ 1000 ∧ 1 ≤ days ∧ days ≤ 30 → exec (.flashPolicy sid) s = .next
         (({ s with flash := { s.flash with wearLimit := wear, patrolDays := days } } : State).finish sid (okResult u 0 0)))
       ∧ (¬ (50 ≤ wear ∧ wear ≤ 1000 ∧ 1 ≤ days ∧ days ≤ 30) → exec (.flashPolicy sid) s = .next (s.finish sid { status := .badField })))
     ∧ (∀ (s : State) (sid : Nat) (u : Sub), Begins s sid 0xE7 u →
       (s.boot.update = none → exec (.resetSled sid) s = .next
         (({ s with sasel := { s.sasel with resetAfter := some sid } } : State).finish sid (okResult u 0 0)))
       ∧ (s.boot.update ≠ none → exec (.resetSled sid) s = .next (s.finish sid { status := .noResource }))))

/-- Rate rules of R304: a CNP sets R to max(0.75 × R, F), each 55 µs without one to min(R + 5 Gb/s, line rate), with F 10 Gb/s
and 100 Gb/s more for each export reservation; in Mb/s.
PFC and the heads of frames (R302, R303, R304, R341): with PFC on, a frame for the lossless priority pauses or resumes
sending until the pause runs out; frames for other priorities are discarded and counted; while the pause lasts RoCEv2 frames
wait, and they leave in order when it ends; every frame of the host port carries a C-tag when a VID is set or PFC is on,
RoCEv2 frames with the PFC priority, and none otherwise; RoCEv2 data carries ECT(0) and the data DSCP, a CNP Not-ECT and its
DSCP, a Woane DATA packet ECT(0) and the data DSCP, every other Woane packet Not-ECT and the control DSCP.
XOFF goes out when less than 4 MiB of the receive buffer is free, XON when more than 8 MiB is, each once (R303).
A frame of the host port that fails a receive check is counted once, under the first check it fails in the order of the
table, and one that fails none is counted nowhere; a frame that fails one of the checks before RX_OPCODE does nothing more
(R308). -/
def Obligations.HostTraffic : Prop :=
  (∀ (s : State) (h : W32),
     exec (.cnpReceive h) s = .next (s.modConn h fun c => { c with rate := max (c.rate * 3 / 4) (10000 + 100000 * c.reservations) })
     ∧ exec (.rateIncreaseTimer h) s = .next (s.modConn h fun c => { c with rate := min (c.rate + 5000) 1600000 }))
  ∧ ((∀ (s : State) (o : Out),
       (o.roce = true → s.hp.settings.pfcOn = true → s.hp.paused = true → (s.emit o).frames = s.frames ∧ (s.emit o).txHeld = s.txHeld ++ [o])
       ∧ (o.roce = false ∨ s.hp.settings.pfcOn = false ∨ s.hp.paused = false →
           (s.emit o).frames = (s.frameOf o).toList ++ s.frames ∧ (s.emit o).txHeld = s.txHeld)
       ∧ (∀ f, s.frameOf o = some f → f.body = o ∧
           (f.port = 0 → (f.tag.isSome = true ↔ s.hp.settings.vidValid = true ∨ s.hp.settings.pfcOn = true)
             ∧ (∀ x, f.tag = some x → x.2 = (if s.hp.settings.vidValid then s.hp.settings.vid.toNat else 0)
                 ∧ (o.roce = true → s.hp.settings.pfcOn = true → x.1 = some s.hp.settings.pfcPrio))))
       ∧ (∀ c a k b, o = .write c a k b ∨ o = .readResponse c k.toNat b → ∃ f, s.frameOf o = some f ∧ f.port = 0 ∧ f.ect0 = true
           ∧ f.dscp = some s.hp.settings.dataDscp)
       ∧ (∀ c v, o = .wire .cnp c v → ∃ f, s.frameOf o = some f ∧ f.ect0 = false ∧ f.dscp = some s.hp.settings.cnpDscp)
       ∧ (∀ x b y bytes q, o = .packet x b y bytes → s.fabric.plot = some q → ∃ f, s.frameOf o = some f ∧ f.port = 1 + x
           ∧ (f.ect0 = true ↔ Buf.at bytes 3 = 1) ∧ f.dscp = some (if Buf.at bytes 3 = 1 then q.dataDscp else q.ctlDscp)))
     ∧ (∀ (s : State) (p : Nat),
       let resumed : State := { s with hp := { s.hp with paused := false }, txHeld := [], frames := (s.txHeld.filterMap s.frameOf).reverse ++ s.frames }
       (s.hp.settings.pfcOn = true → p = s.hp.settings.pfcPrio →
         exec (.pfcFrame p true) s = .next { s with hp := { s.hp with paused := true } } ∧ exec (.pfcFrame p false) s = .next resumed)
       ∧ exec .pfcPauseExpiry s = .next resumed)
     ∧ ∀ (s : State) (p : Nat) (pause : Bool),
       (s.hp.settings.pfcOn = false ∨ p ≠ s.hp.settings.pfcPrio →
         exec (.pfcFrame p pause) s = .next { s with hp := { s.hp with pfcDiscarded := satInc s.hp.pfcDiscarded } }))
  ∧ (∀ (s : State) (free : Nat), s.hp.settings.pfcOn = true →
       (free < 4 * 2 ^ 20 → s.hp.xoffSent = false → s.buffered free =
         ({ s with hp := { s.hp with rxFree := free, xoffSent := true } } : State).emit (.wire .xoff 0 [s.hp.settings.pfcPrio]))
       ∧ (8 * 2 ^ 20 < free → s.hp.xoffSent = true → s.buffered free =
         ({ s with hp := { s.hp with rxFree := free, xoffSent := false } } : State).emit (.wire .xon 0 [s.hp.settings.pfcPrio]))
       ∧ (4 * 2 ^ 20 ≤ free → free ≤ 8 * 2 ^ 20 → s.buffered free = { s with hp := { s.hp with rxFree := free } }))
  ∧ (∀ (s : State) (f : Frame), f.port = 0 → f.ce = false → s.hp.settings.pfcOn = false →
       let s1 : State := { s with hp := { s.hp with rxFree := f.bufferFree } }
       (∀ i, s1.rxFails f = some i → i < 10 →
         exec (.frameReceive f) s = .next { s1 with hp := { s1.hp with port := { s.hp.port with rx := modAt s.hp.port.rx i satInc } } })
       ∧ (∀ i, s1.rxFails f = some i →
         Gives (.frameReceive f) s fun t => t.hp.port.rx = modAt s.hp.port.rx i satInc)
       ∧ (s1.rxFails f = none → exec (.frameReceive f) s = .next (s1.frameAct f))
       ∧ (∀ i, s1.rxFails f = some i → (s1.rxChecks f).getD i false = true ∧ ∀ k, k < i → (s1.rxChecks f).getD k false = false))

/-- CONNECTION_REQUEST and RTU (R306, R311): with FRONT set, path MTU 4,096, at most 16 responder resources and initiator depth
and an index free, the lowest free one takes the connection and a REP answers; otherwise a REJ; the RTU opens it, and 2.0 s
without one releases it. The sled's own first PSN is free.
The ACK timeout (R307): the sled retransmits at most seven times; then the connection enters error.
A connection in error (R309, R316, R328, R329): it starts nothing more, its submissions without an outcome end with
NOT_READY, the one whose own buffer caused it with BAD_FIELD, unless a status that applies to them since their accept event
comes first, and with the flags that an answer request has taken (R52); its nonce and its sessions go; released, its handle
is stale and its index is reissued with the next generation (R310, R155).
A SEND on an open connection is acknowledged, its payload discarded, and it flushes the connection for the pairs in
QUARANTINE (R281, R307).
A write to a region of the window without a behaviour of its own changes nothing, and reserved regions and doorbells read 0
(R17, R19, R311, R312).
Announce and discovery (R301): while HOSTPORT is set an announce goes to all nodes, and a datagram that begins with the four
bytes is answered to its source, at most once in 10 ms; before HOSTPORT neither leaves. -/
def Obligations.HostConnections : Prop :=
  ((∀ (s : State) (r i n : Nat) (psn : BitVec 24), s.isReady bitFront = true → r ≤ 16 → i ≤ 16 →
     lowestFree (s.hp.conns.map (·.index)) 4096 = some n →
     Gives (.connectionRequest 4096 r i psn) s fun t =>
       ∃ first : BitVec 24,
         t.hp = { s.hp with conns := s.hp.conns ++ [{ index := n, gen := genFor s.hp.connGens n, expectedPsn := psn, sendPsn := first, ackedPsn := first }] }
         ∧ (∃ v, t.out = .wire .rep (mkHandle (genFor s.hp.connGens n) kindConn n) v :: s.out)
         ∧ t = { s with hp := t.hp, out := t.out, frames := t.frames, txHeld := t.txHeld, free := s.free + 1 })
   ∧ (∀ (s : State) (m r i : Nat) (psn : BitVec 24),
       s.isReady bitFront = false ∨ m ≠ 4096 ∨ 16 < r ∨ 16 < i ∨ lowestFree (s.hp.conns.map (·.index)) 4096 = none →
       exec (.connectionRequest m r i psn) s = .next (s.emit (.wire .rej 0 [])))
   ∧ (∀ (s : State) (h : W32) (c : Conn), s.conn? h = some c → c.state = .repSent →
       exec (.rtuReceive h) s = .next
         { s with hp := { s.hp with everConnected := true
                                    conns := updWhere (fun c => names h kindConn c.gen c.index) (fun c => { c with state := .opened }) s.hp.conns } }
       ∧ exec (.rtuTimeout h) s = .next (s.releaseConn h)))
  ∧ (∀ (s : State) (h : W32) (c : Conn), s.conn? h = some c → c.state = .opened → c.sendPsn ≠ c.ackedPsn →
       (c.retries < 7 → Gives (.rcAckTimeout h) s fun t =>
         t = { s with hp := { s.hp with conns := t.hp.conns }, out := .wire .retransmit h [c.ackedPsn.toNat] :: s.out, frames := t.frames, txHeld := t.txHeld }
         ∧ t.hp.conns = s.hp.conns.map fun x => if names h kindConn x.gen x.index = true then { x with retries := x.retries + 1 } else x)
       ∧ (7 ≤ c.retries → exec (.rcAckTimeout h) s = .next (s.connError h none)))
  ∧ ((∀ (s : State) (h : W32) (own : Option Nat) (c : Conn), s.conn? h = some c → c.state = .opened ∨ c.state = .repSent →
       Gives (.connectionError h own) s fun t =>
         t.hp.conns = s.hp.conns.map (fun x => if names h kindConn x.gen x.index = true then { x with state := .error, nonce := none } else x)
         ∧ t.sasel.sessions = s.sasel.sessions.filter (fun x => !(x.conn == h))
         ∧ t.sasel.subs = s.sasel.subs.map (fun u => if (u.due.isNone && s.onConn h u) = true then
             { u with due := some { status := firstStatus (u.preset ++ [if own = some u.sid then .badField else .notReady])
                                    flags := s.flagsOf u.sid }
                      running := false } else u)
         ∧ t = { s with hp := { s.hp with conns := t.hp.conns }
                        sasel := { s.sasel with sessions := t.sasel.sessions, sessionGens := t.sasel.sessionGens, subs := t.sasel.subs } })
     ∧ (∀ (s : State) (h : W32) (c : Conn), s.conn? h = some c → c.state = .error →
         (∀ y ∈ s.hp.conns, names h kindConn y.gen y.index = true → y = c) →
         Gives (.connectionRelease h) s fun t =>
           t.conn? h = none ∧ t.hp.connGens = bumpGen s.hp.connGens c.index
           ∧ (∀ x, x ∈ t.hp.conns ↔ x ∈ s.hp.conns ∧ x.index ≠ c.index)
           ∧ t.queues = s.queues.map fun q => if (q.conn == h && decide (q.state = QState.quarantine)) = true then { q with flushed := true } else q))
  ∧ (∀ (s : State) (h : W32), s.connOpen h = true → Gives (.rdmaSendReceive h) s fun t =>
       t.queues = s.queues.map (fun q => if (q.conn == h && decide (q.state = QState.quarantine)) = true then { q with flushed := true } else q)
       ∧ t.out = .wire .ack h [] :: s.out
       ∧ t.hp.conns = s.hp.conns.map (fun c => if names h kindConn c.gen c.index = true then { c with expectedPsn := c.expectedPsn + 1 } else c)
       ∧ t = { s with queues := t.queues, out := t.out, frames := t.frames, txHeld := t.txHeld, hp := { s.hp with conns := t.hp.conns } })
  ∧ ((∀ (s : State) (off : Nat) (b : Buf), exec (.frontWriteIgnored off b) s = .next s)
     ∧ (∀ (s : State) (a : Nat), (0x2000 ≤ a ∧ a < 0x10000) ∨ (0x20000 ≤ a ∧ a < 0x400000) ∨ 0x410000 ≤ a → s.frontByte a = 0))
  ∧ ((∀ s : State, s.isReady bitHostport = true →
       let s1 : State := { s with hp := { s.hp with announceSeq := s.hp.announceSeq + 1 } }
       exec .announceTimer s = .next (s1.emit (.datagram allNodes s1.announceBytes)))
     ∧ (∀ s : State, s.isReady bitHostport = false → Ignores .announceTimer s)
     ∧ (∀ (s : State) (src : W128) (b : Buf), s.isReady bitHostport = true → Buf.slice b 0 4 = [0x5E, 0x11, 0xB0, 0x5A] →
         (∀ n, assocGet src s.hp.answered = some n → 4250000 ≤ s.elapsed n) →
         Gives (.discoveryDatagram src b) s fun t =>
           t = { s with hp := { s.hp with answered := assocSet src s.pclk s.hp.answered }, out := t.out, frames := t.frames }
           ∧ t.out = .datagram src s.announceBytes :: s.out)
     ∧ (∀ (s : State) (src : W128) (b : Buf), Buf.slice b 0 4 ≠ [0x5E, 0x11, 0xB0, 0x5A] → Ignores (.discoveryDatagram src b) s)
     ∧ (∀ (s : State) (src : W128) (b : Buf) (n : W64), assocGet src s.hp.answered = some n → s.elapsed n < 4250000 →
         Ignores (.discoveryDatagram src b) s))

/-- Training (R292, R293): a frame with a bad CRC only records whether the sled's receiver is adapted; with a good one the slot
takes the partner's RX_READY and precoding request, and the sled answers with its next frame.
A slot of the host port without RX_READY after 2.0 s of training is counted and keeps training (R293).
Data starts on the trained slots in logical order: logical lane k on the k-th of the slots the port uses, the four lowest
trained ones of a wide port, once 64 further frames have been sent on each (R291, R293, R298, R333). -/
def Obligations.LinkTraining : Prop :=
  (∀ (s : State) (n slot : Nat) (word : W64) (adapted : Bool) (l : Lane),
     s.lane? n slot = some l → l.lit = true → l.logical = none → s.portWide n = true →
     (parseTrain word = none → exec (.trainingFrame n slot word adapted) s =
       .next (s.modLane n slot fun l =>
         { l with rxReady := adapted, faulty := l.faulty && !adapted, further := if adapted then l.further else 0 }))
     ∧ (∀ w, parseTrain word = some w → w.swapOp ≠ 1 → w.swapOp ≠ 2 → Gives (.trainingFrame n slot word adapted) s fun t =>
         ∃ l', t.lane? n slot = some l' ∧ l'.rxReady = adapted ∧ l'.partnerReady = w.rxReady ∧ l'.precode = w.precode ∧ l'.seq = l.seq + 1 ∧ l'.taps = (l.request w).taps
           ∧ (adapted = true → w.rxReady = true → 4 ≤ (t.trainedSlots n).length → l'.further = l.further + 1)
           ∧ ∃ v, t.out = .training n slot v :: s.out))
  ∧ (∀ (s : State) (slot : Nat) (l : Lane), s.lane? 0 slot = some l →
       (l.rxReady = false → l.logical = none →
         exec (.trainingTimeout 0 slot) s = .next { s with hp := { s.hp with trainingLate := satInc s.hp.trainingLate } })
       ∧ (l.rxReady = true ∨ l.logical ≠ none → Ignores (.trainingTimeout 0 slot) s))
  ∧ (∀ (s : State) (n : Nat) (p : Port) (slots : List Nat), s.portAt n = some p → p.up = false → p.swaps = [] →
       s.dataSlots n = some slots → Gives (.lanesToData n) s fun t =>
         (∀ k i, slots[k]? = some i → (s.lane? n i).isSome = true → (t.lane? n i).bind (·.logical) = some k)
         ∧ (∀ i, i ∉ slots → (s.lane? n i).isSome = true → (t.lane? n i).bind (·.logical) = none)
         ∧ (s.portWide n = true → slots = (s.trainedSlots n).take 4 ∧ 4 ≤ (s.trainedSlots n).length
             ∧ ∀ i ∈ slots, ∃ l, s.lane? n i = some l ∧ 64 ≤ l.further))

/-- A faulty lane of the host port in wide mode (R294 to R298): it stops and trains afresh, the port is down, its UNIT_FAIL
record opens, and its logical lane is to move to the lowest-numbered spare that no other move names, when there is one; in
DR8 mode it only stops.
A grant for the first move of a port moves the logical lane to the slot the move names, and the move is over (R295).
Alignment brings a port up once every logical lane has its slot and no move waits; the host port's HOSTPORT bit and a fabric
port's FPp bit stand with it; a lost fabric port is out, recorded and counted (R295, R314, R334, R350).
Laser modules (R393 to R395): a module that faults leaves service, one that is removed also its bay; one put into an empty
bay is in service. -/
def Obligations.LanesAndLasers : Prop :=
  (∀ (s : State) (logical slot : Nat) (l : Lane), s.lane? 0 slot = some l → l.logical = some logical →
     (∀ i x, s.lane? 0 i = some x → x.logical = some logical → i = slot) →
     Gives (.laneFault 0 logical) s fun t =>
       t.hp.port.up = false
       ∧ (∃ x, t.lane? 0 slot = some x ∧ x.logical = none ∧ x.faulty = true ∧ x.rxReady = false ∧ x.partnerReady = false)
       ∧ (s.hp.wide = true → t.integ = (s.unitFail unitLane slot 5).integ
           ∧ ∀ k, ((s.unitFail unitLane slot 5).stopLane 0 logical true).swapTarget 0 = some k → ∃ w ∈ t.hp.port.swaps, w.logical = logical ∧ w.slot = k)
       ∧ (s.hp.wide = false → t.integ = s.integ))
  ∧ (∀ (s : State) (n slot : Nat) (p : Port) (w : Swap), s.portWide n = true → s.portAt n = some p → p.swaps.head? = some w →
       (s.lane? n w.slot).isSome = true → Gives (.laneSwap n true w.logical slot) s fun t =>
         (t.lane? n w.slot).bind (·.logical) = some w.logical
         ∧ (∀ q, t.portAt n = some q → ∀ x ∈ q.swaps, x.logical ≠ w.logical))
  ∧ ((∀ (s : State), s.hp.port.mapped (if s.hp.wide = true then 4 else 8) = true → s.boot.phase = .firmware ∨ s.boot.phase = .recovery →
       Gives (.pcsAligned 0) s fun t => t.hp.port.up = true ∧ t.isReady bitHostport = true)
     ∧ (∀ (s : State) (p : Nat) (x : Port), p < 12 → s.fabric.ports[p]? = some x → x.mapped 4 = true → x.up = false → s.boot.phase = .firmware →
       (Gives (.pcsAligned (1 + p)) s fun t => (t.fabric.ports[p]?).map (·.up) = some true ∧ t.isReady (bitFp p) = true)
       ∧ (Gives (.fabricPortReturn p) s fun t => (t.fabric.ports[p]?).map (·.up) = some true ∧ t.isReady (bitFp p) = true))
     ∧ (∀ (s : State) (p : Nat) (x : Port), p < 12 → s.fabric.ports[p]? = some x →
       (x.up = true → Gives (.fabricPortLoss p) s fun t =>
         (t.fabric.ports[p]?).map (·.up) = some false ∧ t.isReady (bitFp p) = false ∧ t.integ = (s.unitFail unitPort (1 + p) 5).integ
         ∧ t.fabric.reroutes = satInc s.fabric.reroutes)
       ∧ (x.up = false → Ignores (.fabricPortLoss p) s)))
  ∧ (∀ (s : State) (m : Nat), m < 4 →
       (∀ removed, Gives (.laserModuleFault m removed) s fun t =>
         (t.fail).lasersIn = setBit (s.fail).lasersIn m false
         ∧ (t.fail).lasersPresent = if removed then setBit (s.fail).lasersPresent m false else (s.fail).lasersPresent)
       ∧ ((s.fail).lasersPresent.getLsbD m = false → Gives (.laserModuleInsert m) s fun t =>
         (t.fail).lasersIn = setBit (s.fail).lasersIn m true ∧ (t.fail).lasersPresent = setBit (s.fail).lasersPresent m true
         ∧ t = { s with fail := { (s.fail) with lasersIn := (t.fail).lasersIn, lasersPresent := (t.fail).lasersPresent }
                        hp := { s.hp with port := { s.hp.port with lanes := t.hp.port.lanes } }, fabric := { s.fabric with ports := t.fabric.ports } })
       ∧ ((s.fail).lasersPresent.getLsbD m = true → Ignores (.laserModuleInsert m) s))

/-- START (R404, R417, R453, R299): with PWRGD, the Start condition and RESET_L released, the boot ROM runs; SLOT_ID is sampled,
the flag cells are read, the configured mode is taken, IDENTITY_KEY is the public key that SEED gives (R411), every hub
holds the media keys that SEED gives (R427), and RESETS counts, with the increments that an update cut off had kept waiting
(R419; log 17); otherwise nothing starts.
The boot ROM's check (R405, R409, R410, R424, R425): an image that passes runs, M0 takes its digest, and the settings in
force are those of config flash; one that does not leads to network recovery.
ROLLBACK and REVOKE fuses (R412, R413): blown one at a time, once MAILBOX is set under running firmware, while the running
SVN is above the value; the fuse of a key that the running image revokes.
Without a link for 10 s the sled tries the other mode, and every slot trains afresh; with a link it keeps the mode (R299). -/
def Obligations.BringUp : Prop :=
  (∀ s : State,
     (s.power.pwrgd = true → s.power.resetL = false → s.power.startMet = true → s.boot.phase = .off → Gives .start s fun t =>
       t.boot.phase = .bootRom ∧ t.power = { s.power with slotId := s.power.slotPins, startedSince := true }
       ∧ (s.boot.cfgWaiting = [] →
           t.boot.eraseFlags = BitVec.ofNat 32 (s.ctrIncrement ctrResets).boot.cfgFlags.length
           ∧ t.boot.flagged = (s.ctrIncrement ctrResets).boot.cfgFlags
           ∧ t.hp = { s.hp with wide := (parseHp (s.ctrIncrement ctrResets).hpPayload).wideNext }
           ∧ t.boot.cfgWords = (s.ctrIncrement ctrResets).boot.cfgWords
           ∧ t = { s with boot := t.boot, power := t.power, hp := t.hp, flash := t.flash })
       ∧ t.boot.seed = s.boot.seed ∧ t.boot.identityKey = identityPublic s.boot.seed ∧ t.boot.eraseFlags = BitVec.ofNat 32 t.boot.flagged.length ∧ t.boot.cfgWaiting = []
       ∧ t.flash = { s.flash with hubKeys := (List.range 16).map fun h => (h, mediaKeys t.boot.seed) })
     ∧ (s.power.pwrgd = false ∨ s.power.resetL = true ∨ s.power.startMet = false ∨ s.boot.phase ≠ .off → Ignores .start s))
  ∧ (∀ (s : State) (sigOk : Bool), s.boot.phase = .bootRom →
       let head := s.regionHead
       let h := parseFwHeader head
       let code := s.regionCode h.codeLength
       let passes := fwFormOk h code = true ∧ fwTrusted s.boot h (Buf.slice head 0x80 1312) sigOk = true ∧ ∀ x ∈ s.boot.cfgFlags, 4096 ≤ x
       (passes → Gives (.firmwareImageCheck sigOk) s fun t =>
         t.boot.phase = .firmware ∧ t.boot.m0 = sha3 (s.boot.m0 ++ sha3 (fwSigned head code)) ∧ t.boot.svn = h.svn
         ∧ t.boot.rollback = s.boot.rollback ∧ t.boot.revoke = s.boot.revoke ∧ t.hp = { s.hp with settings := parseHp s.hpPayload }
         ∧ t.sasel = { s.sasel with keys := parseKeys s.keyPayload }
         ∧ t = { s with boot := t.boot, hp := t.hp, sasel := t.sasel, fabric := { s.fabric with epoch := t.fabric.epoch, plot := t.fabric.plot } })
       ∧ (¬ passes → exec (.firmwareImageCheck sigOk) s = .next { s with boot := { s.boot with phase := .recovery } })
       ∧ (sigOk = false ∨ h.svn < s.boot.rollback → ¬ passes))
  ∧ (∀ (s : State), s.boot.phase = .firmware → s.isReady bitMailbox = true →
       (s.boot.rollback < s.boot.svn → exec .rollbackFuseBlow s = .next { s with boot := { s.boot with rollback := s.boot.rollback + 1 } })
       ∧ (s.boot.svn ≤ s.boot.rollback → Ignores .rollbackFuseBlow s)
       ∧ (∀ k, k < 2 → s.boot.revokeReq.getLsbD k = true → Gives (.revokeFuseBlow k) s fun t =>
           t = { s with boot := { s.boot with revoke := t.boot.revoke } } ∧ t.boot.revoke.getLsbD k = true
           ∧ ∀ j, j ≠ k → t.boot.revoke.getLsbD j = s.boot.revoke.getLsbD j)
       ∧ (∀ k, s.boot.revokeReq.getLsbD k = false → Ignores (.revokeFuseBlow k) s))
  ∧ (∀ s : State,
       (s.hp.port.up = false → exec .hostportModeTimer s = .next { s with hp := { s.hp with
           wide := !s.hp.wide, port := { s.hp.port with swaps := [], lanes := s.hp.port.lanes.map fun l => { lit := l.lit, seq := l.seq } } } })
       ∧ (s.hp.port.up = true → Ignores .hostportModeTimer s))

/-- A readiness bit stands as its conditions do, and no bit stands after the change whose own conditions no longer hold (R314,
R407); when FLASHMAP sets, the decisions recorded on flash are sent again (R204, R222), and otherwise nothing else changes.
Slot signals (R431, R451 to R455): what each event sets, and that a RESET_L assertion shorter than 10 µs has no effect.
The Start condition turns the regulators on, only with PWR_EN asserted, the bank charged, no trip that holds them off and at
least 10 regulator modules (R430, R431, R441, R445, R454). -/
def Obligations.ReadinessAndSlots : Prop :=
  (∀ (s : State) (b : Nat), b < 68 → Gives (.readinessChange b) s fun t =>
     ((b ≠ bitFlashmap ∨ s.isReady bitFlashmap = true ∨ s.bitCond bitFlashmap = false) →
       t = { s with boot := { s.boot with ready := t.boot.ready } })
     ∧ (∃ sent, t = { s with boot := { s.boot with ready := t.boot.ready }
                             fabric := { s.fabric with tx := t.fabric.tx, portStats := t.fabric.portStats }
                             out := sent ++ s.out, frames := t.frames })
     ∧ (b ≠ bitIndex → b ≠ bitTables → b ≠ bitGraft → t.isReady b = s.bitCond b)
     ∧ ∀ i ∈ [bitHostport, bitLoom, bitFlashmap, bitWoane, bitIndex, bitTables, bitGraft], t.isReady i = true → t.bitCond i = true)
  ∧ (∀ (s : State),
       exec .housekeepingPowerOn s = .next { s with power := { s.power with housekeeping := true } }
       ∧ (s.power.housekeeping = true → exec .holdupBankCharged s = .next { s with power := { s.power with bankCharged := true } })
       ∧ (s.power.housekeeping = false → Ignores .holdupBankCharged s)
       ∧ (∀ pins, exec (.presentLChange true pins) s = .next { s with power := { s.power with presentL := true, slotPins := pins } })
       ∧ (∀ pins, exec (.presentLChange false pins) s = .next { s with power := { s.power with presentL := false, slotPins := 0x3F#6 } })
       ∧ (s.power.pwrEn = false → exec .pwrEnAssert s = .next { s with power := { s.power with
           pwrEn := true, runStart := 0, startSeen := false, tripLatched := s.power.tripLatched && s.power.thermtrip } })
       ∧ (s.power.startMet = true → s.power.regulatorsOn = true → exec .pwrgdAssert s = .next { s with power := { s.power with pwrgd := true } })
       ∧ (s.power.startMet = false ∨ s.power.regulatorsOn = false → Ignores .pwrgdAssert s)
       ∧ exec .resetLRelease s = .next { s with power := { s.power with resetL := false } }
       ∧ (∀ us, us < 10 → Ignores (.resetLAssert us) s)
       ∧ (∀ us, 10 ≤ us → s.power.flush = none → Gives (.resetLAssert us) s fun t =>
           t.power.resetL = true ∧ t.boot.phase = .off ∧ t.sasel.subs = [] ∧ t.power.startedSince = s.power.startedSince))
  ∧ (∀ s : State,
       let may := s.power.pwrEn = true ∧ s.power.bankCharged = true ∧ s.power.overTripped = false ∧ s.power.tripLatched = false
         ∧ 10 ≤ popCount s.power.regulators ∧ s.power.offAfterFlush = false
       (may → exec .startCondition s = .next { s with power := { s.power with
           startMet := true, startSeen := true, regulatorsOn := true, startedSince := (if s.power.regulatorsOn = true then s.power.startedSince else false) } })
       ∧ (¬ may → Ignores .startCondition s)
       ∧ exec .excursionEnd s = .next { s with power := { s.power with excursion := false, runRange := 0 } })

/-- The three operations of the config flash controller (R415): a read returns the word, a program leaves the AND of old and new
in that word, an erase leaves every word of the sector 0xFFFF_FFFF and its flag cell erased; nothing else changes.
A counter of config flash counts by 1, whichever of its sectors is in use, and no other counter changes; while an update
writes the image region the count waits (R419, R423). The rank epoch in use follows its counter.
ERASE_FLAG_REPAIR erases every flagged sector outside the image region again, lists it and clears its bit (R417). -/
def Obligations.ConfigFlashKeeps : Prop :=
  (∀ (s : State),
     (∀ a, a < 16777216 → exec (.configReadWord a) s = .next { s with out := .wire .readRequest 0 [a, (s.cfgRead a).toNat] :: s.out, frames := s.frames })
     ∧ (∀ a v, a < 16777216 → Gives (.configProgramWord a v) s fun t =>
         t.cfgRead a = s.cfgRead a &&& v ∧ (∀ b, b ≠ a → t.cfgRead b = s.cfgRead b)
         ∧ t = { s with boot := { s.boot with cfgWords := t.boot.cfgWords } })
     ∧ (∀ n, n < 16384 → Gives (.configEraseSector n) s fun t =>
         (∀ a, a / 1024 = n → t.cfgRead a = 0xFFFFFFFF#32) ∧ (∀ a, a / 1024 ≠ n → t.cfgRead a = s.cfgRead a) ∧ n ∉ t.boot.cfgFlags
         ∧ t = { s with boot := { s.boot with cfgWords := t.boot.cfgWords, cfgFlags := t.boot.cfgFlags } }))
  ∧ ((∀ (s : State) (c : Nat), c < 5 → s.boot.update = none → (s.ctrNext c).isSome = true → s.counter c < 0xFFFFFFFF →
       (Gives (.counterIncrement c) s fun t =>
         t.counter c = s.counter c + 1 ∧ (∀ k, k < 5 → k ≠ c → t.counter k = s.counter k) ∧ (c = ctrEpoch → t.fabric.epoch = s.counter c + 1)))
     ∧ (∀ (s : State), s.boot.update = none → (s.ctrNext ctrHours).isSome = true → s.counter ctrHours < 0xFFFFFFFF →
         Gives .poweredHoursTimer s fun t => t.counter ctrHours = s.counter ctrHours + 1)
     ∧ (∀ (s : State) (c : Nat), c < 5 → c ≠ ctrEpoch → s.boot.update ≠ none →
         exec (.counterIncrement c) s = .next { s with boot := { s.boot with cfgWaiting := s.boot.cfgWaiting ++ [(c, none)] } }))
  ∧ (∀ s : State, s.boot.phase = .firmware → Gives .eraseFlagRepair s fun t =>
       (∀ x, x ∈ t.boot.flagged ↔ x ∈ s.boot.flagged ∧ x < 4096)
       ∧ t.boot.erasedAgain = s.boot.erasedAgain ++ s.boot.flagged.filter (fun x => decide (4096 ≤ x))
       ∧ (∀ a, a / 1024 ∈ s.boot.flagged → 4096 ≤ a / 1024 → t.cfgRead a = 0xFFFFFFFF#32)
       ∧ (∀ a, a / 1024 < 4096 → t.cfgRead a = s.cfgRead a)
       ∧ t = { s with boot := { s.boot with cfgWords := t.boot.cfgWords, cfgFlags := t.boot.cfgFlags, flagged := t.boot.flagged
                                            erasedAgain := t.boot.erasedAgain } })

/-- An item that is written is the item in force, whichever copy it went to (R418); while an update writes the image region it
waits (R423). -/
def Obligations.ItemWrittenIsInForce : Prop :=
  ∀ (s : State) (item : Nat) (payload : Buf), 1 ≤ item → item ≤ 3 → payload.length ≤ (itemCopies item).2.2 * 4096 - 32 →
    (s.boot.update = none → s.itemNextGen item < 2 ^ 32 → Gives (.configItemWrite item payload none) s fun t =>
      t.item item = some payload ∧ t = { s with boot := { s.boot with cfgWords := t.boot.cfgWords, cfgFlags := t.boot.cfgFlags } })
    ∧ (s.boot.update ≠ none → exec (.configItemWrite item payload none) s =
        .next { s with boot := { s.boot with cfgWaiting := s.boot.cfgWaiting ++ [(item, some payload)] } })

/-- An update whose image passes every check (R422, R424, R330): it completes OK and is in progress, as one of recovery where
the sled is in recovery, and only config flash and the flags of the sectors it writes change; an image that fails a check
leaves config flash as it was.
ATTEST (R425, R426): the body with the four registers and the nonce, then 2,420 B of signature (free), go to B, and RESULT0
is 2,612. -/
def Obligations.UpdateAndAttest : Prop :=
  (∀ (s : State) (sid : Nat) (u : Sub) (img : FwImage), Begins s sid 0xE8 u →
     (s.updateErrs img u.entry.length.toNat = [] →
       (s.boot.phase = .firmware → ((parseFwHeader img.head).saselRev / 256 = s.boot.saselRev.toNat / 256 ∨ u.entry.arg0 = 1) →
         Gives (.updateFirmware sid (some img) none) s fun t =>
           t.boot.update = some { sid := sid, recovery := false } ∧ EndsWith t sid u (okResult u 0 0)
           ∧ t = { s with boot := { s.boot with cfgWords := t.boot.cfgWords, cfgFlags := t.boot.cfgFlags, update := t.boot.update, flagged := t.boot.flagged }
                          sasel := { s.sasel with subs := t.sasel.subs } })
       ∧ (s.boot.phase = .recovery → Gives (.updateFirmwareRecovery sid (some img) none) s fun t =>
           t.boot.update = some { sid := sid, recovery := true } ∧ EndsWith t sid u (okResult u 0 0)
           ∧ (∀ x ∈ t.boot.flagged, 4096 ≤ x)
           ∧ t = { s with boot := { s.boot with cfgWords := t.boot.cfgWords, cfgFlags := t.boot.cfgFlags, update := t.boot.update, flagged := t.boot.flagged }
                          sasel := { s.sasel with subs := t.sasel.subs } }))
     ∧ (s.updateErrs img u.entry.length.toNat ≠ [] → s.boot.phase = .recovery →
         exec (.updateFirmwareRecovery sid (some img) none) s = .next (s.finish sid { status := firstStatus (s.updateErrs img u.entry.length.toNat) }))
     ∧ (s.updateErrs img u.entry.length.toNat ≠ [] → s.boot.phase = .firmware → Gives (.updateFirmware sid (some img) none) s fun t =>
         ∃ st : Status, st ≠ .ok ∧ t = s.finish sid { status := st }))
  ∧ (∀ (s : State) (sid : Nat) (u : Sub) (ok : Bool), Begins s sid 0x72 u → 2612 ≤ u.entry.length.toNat → Reaches u (s.quoteBody u.entry.nonce ++ Buf.slice (Config.signature (s.quoteBody u.entry.nonce) s.free) 0 2420).length ok →
       exec (.attest sid ok) s = .next
         ((({ s with free := s.free + 1 } : State).writeB u (s.quoteBody u.entry.nonce ++ Buf.slice (Config.signature (s.quoteBody u.entry.nonce) s.free) 0 2420)).finish
           sid (okResult u 2612 0)))

/-- A reset of the sled (R29, R385, R404, R408): every queue pair, connection, session, submission, context, binding and HBM
byte goes, and the readiness bits clear; config flash, fuses, identity, key slots, the media and the retirements stay. In
recovery a completed update is followed by one (R424). -/
def Obligations.ResetKeepsWhatPersists : Prop :=
  ∀ s : State, s.boot.recoveryDone = true → Gives .recoveryReset s fun t =>
    t.queues = [] ∧ t.hp.conns = [] ∧ t.sasel.sessions = [] ∧ t.sasel.subs = [] ∧ t.sasel.clients = [{ index := 0 }] ∧ t.work = {}
    ∧ t.img.models = [] ∧ t.mems = {} ∧ t.ans = {} ∧ t.boot.ready = 0 ∧ t.boot.phase = .off ∧ t.pclk = 0
    ∧ t.boot.cfgWords = s.boot.cfgWords ∧ SameIdentity s t ∧ t.boot.rollback = s.boot.rollback ∧ t.boot.revoke = s.boot.revoke
    ∧ t.sasel.keys = s.sasel.keys ∧ t.flash.pages = s.flash.pages ∧ t.flash.blocks = s.flash.blocks
    ∧ t.tiers.retiredStacks = s.tiers.retiredStacks ∧ (t.fail).coresRetired = (s.fail).coresRetired
    ∧ (t.fail).hubsRetired = (s.fail).hubsRetired ∧ t.power.regulators = s.power.regulators ∧ t.loom.out = s.loom.out
    ∧ (∀ c ∈ s.loom.retired, c ∈ t.loom.retired) ∧ t.integ.history = s.integ.history ∧ t.integ.granules = s.integ.granules
    ∧ t.integ.banks = s.integ.banks ∧ t.integ.pages = s.integ.pages ∧ t.out = s.out ∧ t.pending = s.pending

/-- What starts a shed and flush once the sled has started (R254, R430, R431, R432, R445, R463): SAG_WARN, an over-voltage trip,
a thermal trip and the deassertion of PWR_EN; no submission is accepted during it, the Loom and the optics are off, and all
but SAG_WARN turn the regulators off after it.
A flush ends with the journal and the sag record on flash and a reset; the regulators turn off where its cause says so. The
input at 37.0 V turns them off at once, and resets a started sled; after a SHUTDOWN has completed nothing is written, so
that its record stays (R251, R253, R254, R430, R463, R464). -/
def Obligations.ShedAndFlush : Prop :=
  (∀ (s : State), s.power.startedSince = true → s.power.flush = none →
     let shed := fun (t : State) => t.accepts = false ∧ t.isReady bitLoom = false ∧ t.isReady bitIndex = false ∧ t.hp.port.up = false
       ∧ (∀ x ∈ t.fabric.ports, x.up = false) ∧ t.loom.issued = [] ∧ (t.fail).coreTakeovers = [] ∧ (t.fail).hubTakeovers = []
     (Gives .sagWarn s fun t => shed t ∧ t.power.flush = some .sagWarn ∧ t.power.offAfterFlush = false ∧ t.power.sagEvents = satInc s.power.sagEvents)
     ∧ (s.power.overTripped = false → Gives .overVoltageTrip s fun t =>
         shed t ∧ t.power.flush = some .overVoltage ∧ t.power.offAfterFlush = true ∧ t.power.overTripped = true ∧ t.power.overTrips = satInc s.power.overTrips)
     ∧ (s.power.thermtrip = false → Gives .thermalTrip s fun t =>
         shed t ∧ t.power.flush = some .thermal ∧ t.power.offAfterFlush = true ∧ t.power.thermtrip = true ∧ t.power.tripLatched = true)
     ∧ (s.power.pwrEn = true → Gives .pwrEnDeassert s fun t =>
         shed t ∧ t.power.flush = some .pwrEnOff ∧ t.power.offAfterFlush = true ∧ t.power.pwrEn = false ∧ t.power.startMet = false))
  ∧ ((∀ (s : State) (c : FlushCause), s.power.flush = some c → Gives .sagFlushEnd s fun t =>
       t.power.flush = none ∧ t.boot.phase = .off ∧ t.sasel.subs = []
       ∧ (s.sasel.shutdownDone = false → t.flash.sagRecord = true ∧ t.flash.journalSeq = s.sasel.eventSeq ∧ t.flash.cleanShutdown = false)
       ∧ (s.sasel.shutdownDone = true → t.flash.pages = s.flash.pages ∧ t.flash.journalSeq = s.flash.journalSeq ∧ t.flash.cleanShutdown = s.flash.cleanShutdown)
       ∧ (s.power.offAfterFlush = true → t.power.regulatorsOn = false ∧ t.power.pwrgd = false)
       ∧ (s.power.offAfterFlush = false → t.power.regulatorsOn = s.power.regulatorsOn ∧ t.power.pwrgd = s.power.pwrgd))
     ∧ (∀ s : State, s.power.flush = none → Ignores .sagFlushEnd s)
     ∧ (∀ s : State, Gives .inputResetThreshold s fun t =>
         t.power.regulatorsOn = false ∧ t.power.pwrgd = false ∧ t.power.flush = none ∧ (s.power.startedSince = true → t.boot.phase = .off ∧ t.sasel.subs = [])))

/-- The input monitor (R27, R429): a sample outside 46.0–58.0 V, with PWR_EN asserted and the Start condition met since, begins
an excursion by itself, counted once; each other threshold acts on the third consecutive sample only.
The performance step (R439, R440, R441, R444, R447): a higher-numbered step that the demands, the regulator cap or the
ageing ceiling require takes effect, a lower one after its second; each change is counted; a demand that has lain beyond its
hysteresis is lifted.
A reading of the sensors (R30, R31, R444, R445): it is kept, a demand holds that held or that the reading raises, and 115 °C
on the die or 105 °C in an HBM stack trips; THERMTRIP_L stays until PWR_EN is deasserted.
Ageing and clocks (R437, R446, R447): a monitor's reading re-plans its part and no other; a domain at 0 mV lowers the ageing
ceiling by one step; a stopped clock runs again on a request.
A regulator module that fails is retired with its record (R401, R441); with at least 10 left nothing else changes, with
fewer the sled turns off: through a flush once it has started, at once before. -/
def Obligations.PowerSamples : Prop :=
  (∀ (s : State) (mv : Nat), s.power.housekeeping = true → s.power.pwrEn = true → s.power.startSeen = true → s.power.excursion = false →
     s.boot.update = none → 37000 < mv → mv < 60000 → s.power.runSag ≠ 2 ∨ 44000 < mv → s.power.overTripped = false →
     (mv < 46000 ∨ 58000 < mv → s.power.runStart < 9999 → Gives (.inputSample mv) s fun t =>
       t.power.excursion = true ∧ t.power.leftRange = true ∧ t.power.inputMv = mv ∧ t.boot.cfgWords = (s.ctrIncrement ctrSupply).boot.cfgWords
       ∧ t.power.flush = s.power.flush ∧ t.power.regulatorsOn = s.power.regulatorsOn)
     ∧ (46000 ≤ mv → mv ≤ 58000 → s.power.runStart < 9999 → Gives (.inputSample mv) s fun t =>
       t = { s with power := t.power } ∧ t.power.excursion = false ∧ t.power.inputMv = mv ∧ t.power.lowMv = min s.power.lowMv mv
       ∧ t.power.highMv = max s.power.highMv mv))
  ∧ (∀ s : State,
       let req := max (maxOf (s.power.demands.map Demand.step)) (max (capStep (popCount s.power.regulators)) s.power.ageingCeiling)
       (s.power.step < req → exec .stepChange s = .next { s with power := { s.power with step := req, stepChanges := satInc s.power.stepChanges } })
       ∧ (req ≤ s.power.step → Ignores .stepChange s)
       ∧ (req < s.power.step → exec .stepLowerTimer s = .next { s with power := { s.power with step := req, stepChanges := satInc s.power.stepChanges } })
       ∧ (s.power.step ≤ req → Ignores .stepLowerTimer s)
       ∧ (∀ d, d.lifts s.power.readings = true → Gives (.demandLiftTimer d) s fun t =>
           t = { s with power := { s.power with demands := t.power.demands } } ∧ ∀ x, x ∈ t.power.demands ↔ x ∈ s.power.demands ∧ x ≠ d)
       ∧ (∀ d, d.lifts s.power.readings = false → Ignores (.demandLiftTimer d) s))
  ∧ ((∀ (s : State) (r : Readings), Gives (.sensorRead r) s fun t =>
       t.power.readings = r ∧ (∀ d, d ∈ t.power.demands ↔ d ∈ allDemands ∧ (d ∈ s.power.demands ∨ d.arises r = true))
       ∧ (11500 ≤ hottest r.die ∨ 10500 ≤ hottest r.hbm → t.power.thermtrip = true)
       ∧ (t.power.coolant = true ↔ r.coolantOk = false ∨ (s.power.coolant = true ∧ s.power.runCoolant + 1 < 10000)))
     ∧ (∀ s : State, s.power.pwrEn = false → exec .thermtripRelease s = .next { s with power := { s.power with thermtrip := false } })
     ∧ (∀ s : State, s.power.pwrEn = true → Ignores .thermtripRelease s))
  ∧ (∀ s : State,
       (∀ n slow mv, exec (.ageingMonitor (.domain n slow mv)) s = .next { s with power := { s.power with
           domains := modAt s.power.domains n fun d =>
             if slow then { d with guardMv := d.guardMv + min 5 mv, marginMv := mv - 5 } else { d with marginMv := mv } } })
       ∧ (∀ c m, exec (.ageingMonitor (.channel c m)) s = .next { s with power := { s.power with chanMargin := modAt s.power.chanMargin c fun _ => m } })
       ∧ (∀ n b m, m ≠ 0 → exec (.ageingMonitor (.laser n b m)) s = .next { s with power := { s.power with
           laserAge := modAt s.power.laserAge n fun _ => { biasUa := b, margin := m } } })
       ∧ (∀ n b, n < 4 → (s.fail).lasersIn.getLsbD n = true → Gives (.ageingMonitor (.laser n b 0)) s fun t => (t.fail).lasersIn = setBit (s.fail).lasersIn n false)
       ∧ (∀ n e adapted, exec (.ageingMonitor (.lane n e adapted)) s = .next { s with power := { s.power with
           laneEye := modAt s.power.laneEye n (fun _ => e), laneAdapt := if adapted then modAt s.power.laneAdapt n satInc else s.power.laneAdapt } })
       ∧ (∀ n d, s.power.domains[n]? = some d → d.marginMv = 0 → s.power.ageingCeiling < 3 →
           exec (.ageingCeiling n) s = .next { s with power := { s.power with ageingCeiling := s.power.ageingCeiling + 1 } })
       ∧ (∀ n d, s.power.domains[n]? = some d → d.marginMv ≠ 0 → Ignores (.ageingCeiling n) s)
       ∧ (∀ k, Gives (.clockWake k) s fun t =>
           t = { s with power := { s.power with stoppedClocks := t.power.stoppedClocks } } ∧ ∀ x, x ∈ t.power.stoppedClocks ↔ x ∈ s.power.stoppedClocks ∧ x ≠ k))
  ∧ (∀ (s : State) (m : Nat), m < 16 → s.power.regulators.getLsbD m = true →
       let regs := setBit s.power.regulators m false
       (10 ≤ popCount regs → exec (.regulatorFault m) s = .next
         ((({ s with power := { s.power with regulators := regs } } : State).unitFail unitRegulator m 7).takeoverDone 7 m))
       ∧ (popCount regs < 10 → s.power.startedSince = true → s.power.flush = none → Gives (.regulatorFault m) s fun t =>
         t.power.regulators = regs ∧ t.power.flush = some .underCount ∧ t.power.offAfterFlush = true ∧ t.accepts = false)
       ∧ (popCount regs < 10 → s.power.startedSince = false → Gives (.regulatorFault m) s fun t =>
         t.power.regulators = regs ∧ t.power.regulatorsOn = false ∧ t.power.pwrgd = false))

/-- A control core whose heartbeat is absent (R391, R392, R379): it is retired with a UNIT_FAIL record, and the lowest-numbered
spare starts in its place; with no spare left the failure is DEVICE_FATAL. The takeover ends with its threads on the spare.
The once-only gate of hand-offs (R386, R387, R391): the number one above the last applied from the thread is applied, any
other is dropped and counted, and what a failed core delivers is discarded and counted.
A hub that fails (R396, R397, R399, R80), by its heartbeat or its link: it is retired, its FHh bit clears, passes on its
channels end without a contribution, and its buddy takes over; with both of a pair retired sixteen channels leave service.
The buddy serves the eight channels once the takeover is complete (R397).
An HBM stack that loses its link is retired and its HBMx bit clears; the first one's granules are filled on the others, and
with every fetch for it ended the refill is over (R161, R184, R400). -/
def Obligations.Takeovers : Prop :=
  ((∀ (s : State) (c k : Nat), c < 32 → (s.fail).coresIn.getLsbD c = true → (s.fail).coresSpare.getLsbD c = false →
     (∀ x ∈ (s.fail).coreTakeovers, x.2 ≠ c ∧ x.1 ≠ c) → (s.fail).spareCore = some k →
     Gives (.coreHeartbeatTimeout c) s fun t =>
       (t.fail).coresRetired.getLsbD c = true ∧ (t.fail).coresIn.getLsbD c = false ∧ (t.fail).coresSpare.getLsbD k = false
       ∧ (t.fail).coreTakeovers = (s.fail).coreTakeovers ++ [(c, k)] ∧ t.integ = (s.unitFail unitCore c 7).integ)
   ∧ (∀ (s : State) (c : Nat), c < 32 → (s.fail).coresIn.getLsbD c = true → (s.fail).coresSpare = 0 → (s.fail).coreTakeovers = [] →
     Gives (.coreHeartbeatTimeout c) s fun t => t.integ.fatal = true ∧ t.accepts = false)
   ∧ (∀ (s : State) (c k : Nat) (rest : List (Nat × Nat)), k < 32 → (s.fail).coreTakeovers = (c, k) :: rest →
     Gives .coreTakeoverComplete s fun t =>
       (t.fail).coreTakeovers = rest ∧ (t.fail).coresIn.getLsbD k = true
       ∧ (t.fail).threads = (s.fail).threads.map fun x => if (x.core == c) = true then { x with core := k } else x))
  ∧ (∀ (s : State) (th : Nat) (r : Receiver) (n : W32) (x : Thread), th < 1024 → (s.fail).threads.find? (fun t => t.index == th) = some x →
       let last := (((s.fail).effects.find? fun e => e.1 == th && decide (e.2.1 = r)).map (·.2.2)).getD 0
       let failed := (s.fail).coreTakeovers.any fun t => t.1 == x.core
       (failed = true → exec (.handoffEffect th r n) s = .next { s with integ := { s.integ with isolated := satInc s.integ.isolated } })
       ∧ (failed = false → n ≠ last + 1 → exec (.handoffEffect th r n) s = .next { s with integ := { s.integ with dropped := satInc s.integ.dropped } })
       ∧ (failed = false → n = last + 1 → Gives (.handoffEffect th r n) s fun t =>
           ((t.fail).effects.find? fun e => e.1 == th && decide (e.2.1 = r)).map (·.2.2) = some n
           ∧ t = { s with fail := { (s.fail) with effects := (t.fail).effects, threads := (t.fail).threads } }))
  ∧ (∀ (s : State) (h : Nat), h < 16 → (s.fail).hubsRetired.getLsbD h = false →
       let after := fun (t : State) => (t.fail).hubsRetired.getLsbD h = true ∧ t.isReady (bitFh h) = false ∧ ∀ v ∈ t.ans.sieves, v.channel / 8 ≠ h
       let buddy := (s.fail).hubsRetired.getLsbD (h ^^^ 1)
       (buddy = false → (Gives (.hubHeartbeatTimeout h) s fun t => after t ∧ (t.fail).hubTakeovers = (s.fail).hubTakeovers ++ [h] ∧ (t.fail).channelsOut = (s.fail).channelsOut)
         ∧ Gives (.tetherLinkLoss h) s fun t => after t ∧ (t.fail).hubTakeovers = (s.fail).hubTakeovers ++ [h] ∧ (t.fail).channelsOut = (s.fail).channelsOut)
       ∧ (buddy = true → (Gives (.hubHeartbeatTimeout h) s fun t => after t ∧ ∀ c, c < 128 → (c / 8 = h ∨ c / 8 = h ^^^ 1) → (t.fail).channelsOut.getLsbD c = true)
         ∧ Gives (.tetherLinkLoss h) s fun t => after t ∧ ∀ c, c < 128 → (c / 8 = h ∨ c / 8 = h ^^^ 1) → (t.fail).channelsOut.getLsbD c = true))
  ∧ (∀ (s : State) (h : Nat), h < 16 →
       ((s.fail).hubTakeovers.contains h = true → Gives (.hubTakeoverComplete h) s fun t =>
         (∀ x, x ∈ (t.fail).hubTakeovers ↔ x ∈ (s.fail).hubTakeovers ∧ x ≠ h) ∧ (t.fail).hubsServing.getLsbD (h ^^^ 1) = true
         ∧ t.flash.map = s.flash.map ∧ t.flash.pages = s.flash.pages)
       ∧ ((s.fail).hubTakeovers.contains h = false → Ignores (.hubTakeoverComplete h) s))
  ∧ ((∀ (s : State) (x : Nat), x < 24 → x ∉ s.tiers.retiredStacks → Gives (.hbmLinkLoss x) s fun t =>
       t.tiers.retiredStacks = s.tiers.retiredStacks ++ [x] ∧ t.isReady (bitHbm x) = false
       ∧ (s.tiers.retiredStacks = [] → t.tiers.refilling = some x))
     ∧ (∀ (s : State) (x : Nat), s.tiers.refilling = some x → s.tiers.fetches = [] → Gives (.hbmStackRetirement x) s fun t => t.tiers.refilling = none))

/-- CREATE_OBJECT assigns the next host data object ID, whose bits [63:60] are 0xF, with the parity class of ARG0[0] (R233).
What a command reserves (R465): the accept event of a WRITE_EXTENT with no status against it reserves the extents that it
newly maps, and they count as used on their channels until they are written; without room for them on a channel in service,
NO_RESOURCE applies.
WRITE_EXTENT (R236, R321): its first extent's program starts with the next write sequence number of the extent's channel and
the bytes of its first 64 KiB as the hub stores them (R427), and the command waits (the room was reserved at its accept
event, R465; writes of its extents accepted earlier have ended, R322); the map stays as it is until a program ends. A write
of no extent completes with RESULT0 0.
A program that ends maps its extent where the hub programmed it, in the same step as its page with its tag is there; the
object's other extents stay (R236, R237, R241, R248). A command's program ends in the pSLC write region, at a fresh page of
an open block set on a populated die (R3, R231, R236). Stated for a program that is alone in its group and the newest on its
extent.
A program that fails retires its block set (R247): the first failure programs the extent again, the second ends its write
with MEDIA_ERROR and the count of units written, its earlier contents staying. -/
def Obligations.FlashWrites : Prop :=
  (∀ (s : State) (sid : Nat) (u : Sub), Begins s sid 0x50 u →
     let id := BitVec.ofNat 64 (15 * 2 ^ 60 + s.flash.nextObj)
     exec (.createObject sid) s = .next
       (({ s with flash := { s.flash with objs := s.flash.objs ++ [{ id := id, persistent := u.entry.arg0 == 1 }]
                                          nextObj := s.flash.nextObj + 1 } } : State).finish sid (okResult u id 0)))
  ∧ (∀ (s : State) (o : Origin) (conn : W32) (cl : Nat) (e : Entry) (b : Buf) (ob : FlashObj), e.opcode.toNat = 0x52 → s.obj? e.arg0 = some ob →
       ob.spanOk e.extFirst e.extCount = true → e.length.toNat = e.extCount * 65536 →
       let new := s.newExtents ob e.extFirst e.extCount
       let t := (s.accept o conn cl e b).2
       (s.presets o conn cl e = [] → t.sasel.subs.getLast?.map (·.held) = some new
         ∧ ∀ c, t.reservedOn c = s.reservedOn c + (new.filter fun x => x.1 == c).length)
       ∧ ((∃ c, s.channelOut c = false ∧ s.freeExtents c < (new.filter fun x => x.1 == c).length) → Status.noResource ∈ s.presets o conn cl e))
  ∧ (∀ (s : State) (sid : Nat) (u : Sub) (b : Option Buf) (data : Buf) (o : FlashObj), Begins s sid 0x52 u → u.readB b = some data →
       s.obj? u.entry.arg0 = some o → hostId u.entry.arg0 = true → o.spanOk u.entry.extFirst u.entry.extCount = true →
       u.entry.length.toNat = u.entry.extCount * 65536 → s.extentsClear u.entry.arg0 u.entry.extFirst u.entry.extCount = true →
       (u.entry.extCount = 0 → Gives (.writeExtent sid b) s fun t =>
         EndsWith t sid u (okResult u 0 0) ∧ t.flash.map = s.flash.map)
       ∧ (1 ≤ u.entry.extCount → s.unitOut o u.entry.extFirst = false →
           s.mustWait o u.entry.extFirst = false → Gives (.writeExtent sid b) s fun t =>
         (t.sub? sid).map (fun v => (v.running, v.due)) = some (true, none) ∧ t.flash.map = s.flash.map ∧ t.flash.pages = s.flash.pages
         ∧ (∃ p ∈ t.flash.programs, p.sid = some sid ∧ p.obj = o.id ∧ p.extent = u.entry.extFirst
             ∧ p.channel = channelOf o.id o.persistent u.entry.extFirst ∧ p.wseq = (s.channel p.channel).wseq
             ∧ p.data = s.encrypted p.channel o.id u.entry.extFirst (Buf.slice data 0 (min 65536 data.length)))
         ∧ t = { s with flash := t.flash, sasel := { s.sasel with subs := t.sasel.subs } }))
  ∧ (∀ (s : State) (c w : Nat) (loc : FlashLoc) (p : Programming), s.channelPaused c = false → s.channelOut c = false →
       s.flash.programs.find? (fun x => x.channel == c && x.wseq == w && x.done.isNone) = some p → s.endsAt p loc = true →
       s.flash.programs.filter (fun x => x.grp == p.grp) = [p] → p.extent ≠ trimMark → p.relocation = false →
       newest (s.lastWseq c p.obj p.extent) w = true → Gives (.programComplete c w loc) s fun t =>
         (∃ m, t.entry? p.obj p.extent = some m ∧ m.channel = c ∧ m.die = loc.die ∧ m.blockSet = loc.blockSet ∧ m.page = loc.page ∧ m.pslc = loc.pslc
           ∧ m.damaged = false)
         ∧ (loc.pslc = true ∧ loc.die < s.dies ∧ s.pageFree c loc.die loc.blockSet loc.page = true)
         ∧ (∀ obj e, (obj, e) ≠ (p.obj, p.extent) → t.entry? obj e = s.entry? obj e)
         ∧ t.flash.pages = s.flash.pages ++ [pageOf p loc])
  ∧ (∀ (s : State) (c w : Nat) (loc : FlashLoc) (p : Programming) (j : WriteJob) (sid : Nat) (u : Sub),
       s.channelPaused c = false → s.channelOut c = false → c < s.flash.channels.length →
       s.flash.programs.find? (fun x => x.channel == c && x.wseq == w && x.done.isNone) = some p → s.endsAt p loc = true → p.sid = some sid →
       s.flash.writes.find? (fun x => x.sid == sid) = some j → s.sub? sid = some u → u.due = none →
       (p.fails = 0 → Gives (.programFail c w loc) s fun t =>
         (t.block c loc.die loc.blockSet).retired = true ∧ t.flash.map = s.flash.map ∧ t.sub? sid = some u
         ∧ (∃ q ∈ t.flash.programs, q.channel = c ∧ q.wseq = w ∧ q.fails = 1))
       ∧ (1 ≤ p.fails → Gives (.programFail c w loc) s fun t =>
         (t.block c loc.die loc.blockSet).retired = true ∧ t.flash.map = s.flash.map
         ∧ EndsWith t sid u { status := .mediaError, flags := { writeThrottled := u.throttled }, result0 := BitVec.ofNat 64 j.written }))

/-- READ_EXTENT (R236, R238, R243): zeros for an unmapped extent, MEDIA_ERROR for a DAMAGED one, else its read starts at step 0
of the ladder, or at its rebuild on a channel out of service.
The read ladder and the rebuild (R236, R238, R242, R243, R446): a step that decodes delivers the data of the page on which
the read began, and the read is over, and from step 1 on the block set takes that step's references; one that does not goes
to the next step; a rebuild delivers the XOR of the other members of the unit or stripe; with nothing to rebuild from, the
extent is DAMAGED and its reader gets MEDIA_ERROR. -/
def Obligations.FlashReads : Prop :=
  (∀ (s : State) (sid : Nat) (u : Sub) (o : FlashObj), Begins s sid 0x53 u → s.obj? u.entry.arg0 = some o → hostId u.entry.arg0 = true →
     o.spanOk (u.entry.arg1.toNat % 2 ^ 32) 1 = true → u.entry.readOff + u.entry.readLen ≤ 65536 → u.entry.readLen ≤ u.entry.length.toNat →
     (u.inSlot = true → 0x80 ≤ u.entry.addr.toNat ∧ u.entry.addr.toNat + u.entry.readLen ≤ 0xFF8) →
     let e := u.entry.arg1.toNat % 2 ^ 32
     (s.entry? u.entry.arg0 e = none → exec (.readExtent sid) s = .next
       ((s.writeB u (List.replicate u.entry.readLen 0)).finish sid (okResult u 0 0)))
     ∧ (∀ m, s.entry? u.entry.arg0 e = some m → m.damaged = true → exec (.readExtent sid) s = .next (s.finish sid { status := .mediaError }))
     ∧ (∀ m, s.entry? u.entry.arg0 e = some m → m.damaged = false → Gives (.readExtent sid) s fun t =>
         t.flash.reads = s.flash.reads ++ [{ sid := some sid, obj := u.entry.arg0, extent := e, offset := u.entry.readOff, length := u.entry.readLen
                                             step := if s.channelOut m.channel then 7 else 0, place := some m }]
         ∧ (t.sub? sid).map (fun v => (v.running, v.due)) = some (true, none) ∧ t.flash.map = s.flash.map))
  ∧ (∀ (s : State) (obj : W64) (e : Nat) (r : Reading) (m : MapEntry) (sid : Nat) (u : Sub),
       s.entry? obj e = some m → r.place = some m → s.channelPaused m.channel = false → r.sid = some sid → s.sub? sid = some u → u.due = none →
       (s.flash.reads.find? (fun x => x.obj == obj && x.extent == e && decide (x.step ≤ 6)) = some r →
         (Gives (.readLadderStep obj e true) s fun t =>
           EndsWith t sid u (okResult u 0 0) ∧ r ∉ t.flash.reads ∧ (1 ≤ r.step → (t.block m.channel m.die m.blockSet).refs = r.step)
           ∧ (u.inSlot = false → t.out = .write (s.connOf u) u.entry.addr u.entry.rkey (Buf.slice (s.pageData m) r.offset r.length) :: s.out))
         ∧ (Gives (.readLadderStep obj e false) s fun t =>
           t.sub? sid = some u ∧ { r with step := r.step + 1 } ∈ t.flash.reads ∧ t.out = s.out))
       ∧ (s.flash.reads.find? (fun x => x.obj == obj && x.extent == e && decide (7 ≤ x.step)) = some r →
         (∀ (media : Media) (l : List MapEntry) (x : Buf), s.rebuildFrom m = some (l, x) →
           (∀ y ∈ l, y.damaged = false ∧ s.channelOut y.channel = false ∧ ladderStep media y.obj y.extent ≤ 6) →
           Gives (.parityRebuild obj e media) s fun t =>
             EndsWith t sid u (okResult u 0 0) ∧ r ∉ t.flash.reads ∧ t.flash.map = s.flash.map
             ∧ (u.inSlot = false → t.out = .write (s.connOf u) u.entry.addr u.entry.rkey
                 (Buf.slice (s.decrypted m (l.foldl (fun b y => xorBuf b (s.pageStored y)) x)) r.offset r.length) :: s.out))
         ∧ ∀ media : Media, s.rebuildFrom m = none → u.entry.opcode.toNat = 0x53 → Gives (.parityRebuild obj e media) s fun t =>
           EndsWith t sid u { status := .mediaError } ∧ (t.entry? obj e).map (·.damaged) = some true ∧ r ∉ t.flash.reads
           ∧ t.integ = (s.logError { cls := .ue, unitType := unitExtent, unitIndex := m.channel, addr := obj, lastAddr := BitVec.ofNat 64 e, source := 4 }).integ))

/-- TRIM_EXTENT and DELETE_OBJECT (R233, R249): with nothing mapped in their range they complete at once, a delete removing the
object; with an extent mapped they wait for their trim records, and the map stays as it is until those are programmed.
Block sets (R231, R236, R240, R244, R245): the close of one whose last page is programmed queues a verify read; one in which
every page decodes marks the block set and its entries verified, one in which a page does not retires the block set, and no
entry moves before its program ends; an erase of a block set that nothing needs leaves it erased with one more count; an
open-block parity unit with all six members is written to the paired group's pSLC; events of a failed hub are discarded and
counted (R386).
What relocates (R245, R246, R253, R446): a patrol read that needs step 2 or more, or does not decode, and wear levelling of
the least-worn closed QLC block set, once the spread of the channel's counts exceeds the limit, program every extent of the
block set again that no command is writing (log 85) and whose page decodes, none of them moving until its program ends; a
patrol read at step 1 moves the references only; the patrol reads a page once in a period, and its lap ends with the last
programmed page of the channel. -/
def Obligations.FlashUpkeep : Prop :=
  (∀ (s : State) (sid : Nat) (u : Sub) (o : FlashObj), s.obj? u.entry.arg0 = some o → hostId u.entry.arg0 = true →
     (∀ p ∈ s.flash.programs, p.sid ≠ some sid) → s.power.flush = none →
     (Begins s sid 0x54 u → o.spanOk u.entry.extFirst u.entry.extCount = true → s.trimOut u.entry.arg0 u.entry.extFirst u.entry.extCount = false →
       s.extentsClear u.entry.arg0 u.entry.extFirst u.entry.extCount = true →
       ((∀ m ∈ s.flash.map, m.obj = o.id → ¬ (u.entry.extFirst ≤ m.extent ∧ m.extent < u.entry.extFirst + u.entry.extCount)) →
         Gives (.trimExtent sid) s fun t => EndsWith t sid u (okResult u 0 0) ∧ t.flash.map = s.flash.map ∧ t.flash.objs = s.flash.objs)
       ∧ ((∃ m ∈ s.flash.map, m.obj = o.id ∧ u.entry.extFirst ≤ m.extent ∧ m.extent < u.entry.extFirst + u.entry.extCount) → (∀ m ∈ s.flash.map, s.stripeBusy o m.extent = false) →
         Gives (.trimExtent sid) s fun t => (t.sub? sid).map (fun v => (v.running, v.due)) = some (true, none) ∧ t.flash.map = s.flash.map
           ∧ ∃ p ∈ t.flash.programs, p.sid = some sid ∧ p.extent = trimMark))
     ∧ (Begins s sid 0x51 u → s.objectIdle u = true → s.trimOut u.entry.arg0 0 trimMark = false →
       ((∀ m ∈ s.flash.map, m.obj ≠ o.id) →
         Gives (.deleteObject sid) s fun t => EndsWith t sid u (okResult u 0 0) ∧ t.obj? u.entry.arg0 = none ∧ t.flash.map = s.flash.map)
       ∧ ((∃ m ∈ s.flash.map, m.obj = o.id ∧ m.extent < parityBase) →
         Gives (.deleteObject sid) s fun t => (t.sub? sid).map (fun v => (v.running, v.due)) = some (true, none) ∧ t.flash.map = s.flash.map
           ∧ t.flash.objs = s.flash.objs)))
  ∧ (∀ (s : State) (c d b : Nat), c < s.flash.channels.length →
       let here := s.channelPaused c = false ∧ s.channelOut c = false
       let bs := s.block c d b
       let place := fun (m : MapEntry) => (m.channel, m.die, m.blockSet, m.page)
       (here → bs.closed = false → bs.retired = false → bs.mode ≠ .erased →
         (s.pageAt c d b ((if bs.mode = .pslc then 800 else 3200) - 1)).isSome = true → Gives (.blockSetClose c d b) s fun t =>
         (t.block c d b).closed = true ∧ t.flash.verifyQueue = s.flash.verifyQueue ++ [(c, d, b)] ∧ t.flash.map = s.flash.map)
       ∧ (∀ (fails : List Nat) (media : Media), here → (c, d, b) ∈ s.flash.verifyQueue →
         (∀ p ∈ s.flash.pages, p.channel = c → p.die = d → p.blockSet = b → p.page ∉ fails) → Gives (.blockSetVerify c d b fails media) s fun t =>
         (t.block c d b).verified = true ∧ (c, d, b) ∉ t.flash.verifyQueue
         ∧ (∀ m ∈ s.flash.map, m.channel = c → m.die = d → m.blockSet = b → (t.entry? m.obj m.extent).map (·.verified) = some true)
         ∧ (∀ obj e, (∀ m ∈ s.flash.map, m.obj = obj → m.extent = e → ¬ (m.channel = c ∧ m.die = d ∧ m.blockSet = b)) → t.entry? obj e = s.entry? obj e))
       ∧ (∀ (fails : List Nat) (media : Media), here → (c, d, b) ∈ s.flash.verifyQueue →
         (∃ p ∈ s.flash.pages, p.channel = c ∧ p.die = d ∧ p.blockSet = b ∧ p.page ∈ fails) → s.sasel.shutdown = false → s.power.flush = none → Gives (.blockSetVerify c d b fails media) s fun t =>
         (t.block c d b).retired = true ∧ (c, d, b) ∉ t.flash.verifyQueue ∧ ∀ obj e, (t.entry? obj e).map place = (s.entry? obj e).map place)
       ∧ (here → s.setNeeded c d b = false → bs.retired = false → d < s.dies → b < 1200 → s.power.flush = none → s.sasel.shutdownDone = false → Gives (.eraseComplete c d b) s fun t =>
         (t.block c d b).mode = .erased ∧ (t.block c d b).pe = bs.pe + 1 ∧ (∀ p ∈ t.flash.pages, ¬ (p.channel = c ∧ p.die = d ∧ p.blockSet = b))
         ∧ t.flash.map = s.flash.map)
       ∧ (here → s.dies ≤ d ∨ s.setNeeded c d b = true → Ignores (.eraseComplete c d b) s)
       ∧ (∀ (g page : Nat) (loc : FlashLoc) (x : ParityUnit), here →
         s.flash.units.find? (fun x => x.channel == c && x.group == g && x.page == page && x.written.isNone && decide (x.members.length = 6)) = some x →
         s.groupOk g = true → s.locOk c loc = true → loc.pslc = true → loc.die / 6 = g ^^^ 1 → s.sasel.shutdownDone = false →
         Gives (.openBlockParityWrite c g page loc) s fun t =>
           { x with written := some (loc.die, loc.blockSet, loc.page) } ∈ t.flash.units ∧ t.flash.map = s.flash.map
           ∧ (t.pageAt c loc.die loc.blockSet loc.page).map (·.data) = some x.parity)
       ∧ (s.channelPaused c = true → exec (.blockSetClose c d b) s = .next { s with integ := { s.integ with isolated := satInc s.integ.isolated } }))
  ∧ (∀ (s : State) (c d b page : Nat) (media : Media), s.channelPaused c = false → s.channelOut c = false → s.mayRelocate = true →
       let again := fun (skip : MapEntry → Prop) (t : State) =>
         (∀ obj e, (t.entry? obj e).map (fun m => (m.channel, m.die, m.blockSet, m.page)) = (s.entry? obj e).map fun m => (m.channel, m.die, m.blockSet, m.page))
         ∧ ∀ m ∈ s.flash.map, m.channel = c → m.die = d → m.blockSet = b → s.writing m.obj m.extent = false → ¬ skip m →
             ∃ p ∈ t.flash.programs, p.relocation = true ∧ p.obj = m.obj ∧ p.extent = m.extent
       (s.patrolDue c d b page = true →
         (∀ k, 2 ≤ k → Gives (.patrolRead c d b page (some k) media) s fun t => again (fun _ => False) t ∧ t.flash.map = s.flash.map)
         ∧ (Gives (.patrolRead c d b page none media) s fun t => again (fun m => m.page = page ∧ m.damaged = false) t)
         ∧ (Gives (.patrolRead c d b page (some 1) media) s fun t => t.flash.programs = s.flash.programs ∧ (t.block c d b).refs = 1)
         ∧ (c < s.flash.channels.length → s.periodOver c = false → (s.channel c).lapDone = false → Gives (.patrolRead c d b page (some 0) media) s fun t =>
             (t.channel c).patrolled = (s.channel c).patrolled ++ [(d, b, page)]
             ∧ ((∀ p ∈ s.flash.pages, p.channel = c → (p.die, p.blockSet, p.page) ∈ (s.channel c).patrolled ++ [(d, b, page)]) →
                 (t.channel c).lapDone = true ∧ (t.channel c).patrolLap = BitVec.ofNat 64 (s.elapsed (s.channel c).lapStart / 425000000))))
       ∧ (s.patrolDue c d b page = false → ∀ step, Ignores (.patrolRead c d b page step media) s)
       ∧ ((s.block c d b).mode = .qlc → (s.block c d b).closed = true → (s.block c d b).retired = false → s.flash.wearLimit < s.wearSpread c →
         (∀ x ∈ s.wearSet c, x.closed = true → (s.block c d b).pe ≤ x.pe) →
         Gives (.wearLevel c d b) s fun t => again (fun _ => False) t ∧ t.flash.map = s.flash.map)
       ∧ (s.wearSpread c ≤ s.flash.wearLimit → Ignores (.wearLevel c d b) s))

/-- Checkpoints, journal and SHUTDOWN (R249 to R253): once a channel has written 16 GiB since its cut a checkpoint starts, whose
cut is each channel's write sequence number then; it writes the map granules that have changed into the map object, and its
record is the map as it stands; SHUTDOWN with every earlier writer ended and every graft job stopped leaves the
clean-shutdown record, and a second one completes at once.
After a clean shutdown the map is the checkpoint; after any other reset it is what replay of each channel's pages whose tags
decode, in the order of their write sequence numbers, makes of it, and every block set that was open is closed and queued
for its verify read; the extents of row blocks whose move to flash had not flipped are unmapped (R177, R250, R252). An entry
is stated where no second one names its extent. -/
def Obligations.FlashCheckpoints : Prop :=
  ((∀ (s : State) (c : Nat), c < 128 → s.flash.checkpointing = false → s.sasel.shutdown = false → s.power.flush = none →
     262144 ≤ (s.channel c).sinceCut → exec (.mapCheckpointStart c) s = .next { s with flash := { s.flash with
       checkpointing := true, channels := s.flash.channels.map fun c => { c with runningCut := c.wseq, sinceRunning := 0 } } })
   ∧ (∀ s : State, s.flash.checkpointing = true → s.flash.writes = [] → s.flash.dirty = [] → exec .mapCheckpointComplete s = .next { s with flash := { s.flash with
       checkpointing := false, checkpoint := s.flash.map, checkpointNo := s.flash.checkpointNo + 1
       channels := s.flash.channels.map fun c => { c with cut := c.runningCut, sinceCut := c.sinceRunning } } })
   ∧ (∀ s : State, s.flash.checkpointing = true → s.flash.writes = [] → Gives .mapCheckpointComplete s fun t =>
       t.flash.checkpoint = t.flash.map ∧ t.flash.checkpointing = false ∧ (∀ obj e, obj ≠ mapObj → t.entry? obj e = s.entry? obj e)
       ∧ ∀ g ∈ s.flash.dirty, (t.entry? mapObj (g / 16)).isSome = true)
   ∧ (∀ s : State, s.sasel.shutdownDone = false → exec .sysregionJournal s = .next { s with flash := { s.flash with
       journalSeq := s.sasel.eventSeq, journals := s.flash.journals + 1 } })
   ∧ (∀ (s : State) (sid : Nat) (u : Sub) (ok : Bool), Begins s sid 0xE5 u → u.afterShutdown = true →
       exec (.shutdown sid ok) s = .next (s.finish sid (okResult u 0 0)))
   ∧ (∀ (s : State) (sid : Nat) (u : Sub), Begins s sid 0xE5 u → u.afterShutdown = false → s.writersIdle u = true → (∀ g ∈ s.grafts.list, g.phase = .stopped) →
       Gives (.shutdown sid true) s fun t => t.flash.cleanShutdown = true ∧ t.flash.checkpoint = t.flash.map ∧ (∀ obj e, obj ≠ mapObj → t.entry? obj e = s.entry? obj e)
         ∧ t.flash.programs = [] ∧ t.sasel.shutdownDone = true
         ∧ EndsWith t sid u (okResult u 0 0)))
  ∧ (∀ (s : State) (lost : List (Nat × Nat)), s.boot.phase = .firmware → s.isReady bitSysregion = true → s.flash.replayed = false →
       let from' := if s.flash.cleanShutdown then s.flash.checkpoint.filter (fun m => (s.obj? m.obj).isSome) else s.replayed lost
       let flipped := ∀ o ∈ s.flash.objs, objKind o.id = 5 → ∃ h ∈ s.tiers.homes, h.objId = o.id ∧ h.tier = .flash
       Gives (.mapReplay lost) s fun t =>
         t.flash.replayed = true
         ∧ (flipped → ∀ m ∈ from', (∀ x ∈ from', x.obj = m.obj → x.extent = m.extent → x = m) → t.entry? m.obj m.extent = some m)
         ∧ (flipped → ∀ obj e, (∀ m ∈ from', ¬ (m.obj = obj ∧ m.extent = e)) → t.entry? obj e = none)
         ∧ (∀ o ∈ s.flash.objs, objKind o.id = 5 → (∀ h ∈ s.tiers.homes, h.objId = o.id → h.tier ≠ .flash) → ∀ e, t.entry? o.id e = none)
         ∧ (flipped → s.flash.cleanShutdown = true → t.flash.blocks = s.flash.blocks)
         ∧ (flipped → s.flash.cleanShutdown = false → ∀ b ∈ t.flash.blocks, b.mode ≠ .erased → b.retired = false → b.closed = true))

/-- SET_POOLS (R163): four budgets that make 960 GiB together and hold what each pool holds already are in force; others are
refused.
MOVE_OBJECT of a row block (R165, R172, R173): at its tier already it completes OK; a move to HBM allocates its place and
copies; one to flash with pins waits for them; during a move it waits, at most fifteen destinations.
The flip (R172): one change of the entry makes the destination the home, with its readers' pins counted on the old home and
the version one higher; an abandoned move leaves the home where it is (R176).
A pin that a reader releases is one fewer; the last one lets a pending eviction of an explicit move go on (R167, R172,
R174).
Automatic eviction runs above 95 % of the table pool's budget only, and not after SHUTDOWN (R175, R253). -/
def Obligations.TierMoves : Prop :=
  (∀ (s : State) (sid : Nat) (u : Sub), Begins s sid 0xE4 u →
     let p := poolsOf u.entry.arg0
     (p.model + p.index + p.table + p.graft = 960 * 2 ^ 30 → s.tiers.held.model ≤ p.model → s.tiers.held.index ≤ p.index → s.tiers.held.table ≤ p.table →
       s.tiers.held.graft ≤ p.graft → exec (.setPools sid) s = .next (({ s with tiers := { s.tiers with budget := p } } : State).finish sid (okResult u 0 0)))
     ∧ (p.model + p.index + p.table + p.graft ≠ 960 * 2 ^ 30 → exec (.setPools sid) s = .next (s.finish sid { status := .badField }))
     ∧ (p.model + p.index + p.table + p.graft = 960 * 2 ^ 30 → p.table < s.tiers.held.table → exec (.setPools sid) s = .next (s.finish sid { status := .noResource })))
  ∧ (∀ (s : State) (sid : Nat) (u : Sub) (h : Home), Begins s sid 0x60 u → objKind u.entry.arg0 = 5 → s.home? u.entry.arg0 = some h → h.damaged = false →
       (∀ m ∈ s.tiers.moves, m.objId ≠ u.entry.arg0) → (∀ m ∈ s.tiers.running, m.objId ≠ u.entry.arg0) →
       let still := h.inMotion = false ∧ h.oldPins = 0 ∧ h.evictPending = false
       (u.entry.arg1 = 1 → still → h.tier = .hbm → Gives (.moveObject sid) s fun t => EndsWith t sid u (okResult u 0 0))
       ∧ (u.entry.arg1 = 1 → still → h.tier = .flash → ∀ a s', s.allocHbm (poolOf u.entry.arg0) h.bytes u.entry.arg0 = some (a, s') →
           Gives (.moveObject sid) s fun t => (t.home? u.entry.arg0).map (fun x => (x.inMotion, x.destTier, x.dest, x.tier)) = some (true, .hbm, BitVec.ofNat 64 a, .flash)
             ∧ (t.sub? sid).map (fun v => (v.running, v.due)) = some (true, none))
       ∧ (u.entry.arg1 = 2 → still → h.tier = .hbm → 0 < h.pins → Gives (.moveObject sid) s fun t =>
           (t.home? u.entry.arg0).map (fun x => (x.evictPending, x.isExplicit, x.inMotion)) = some (true, true, false))
       ∧ (u.entry.arg1 = 2 → h.inMotion = true → h.waiters < 15 → Gives (.moveObject sid) s fun t =>
           t.tiers.moves = s.tiers.moves ++ [{ objId := u.entry.arg0, tier := .flash, sid := some sid }]))
  ∧ (∀ (s : State) (obj : W64) (h : Home), s.home? obj = some h → h.inMotion = true → h.damaged = false → h.tier = .flash → h.destTier = .hbm → h.evictPending = false → h.guest = false →
       (∀ w ∈ s.tiers.writes, w.objId ≠ obj) →
       (0 < h.pins → Gives (.moveFlip obj) s fun t =>
         t.home? obj = some { h with addr := h.dest, dest := h.addr, tier := .hbm, destTier := .flash, oldPins := h.pins, pins := 0, version := h.version + 1, inMotion := false, isExplicit := false }
         ∧ (∀ m ∈ t.tiers.running, m.objId ≠ obj))
       ∧ ((∀ m ∈ s.tiers.moves, m.objId ≠ obj) → Gives (.moveAbandon obj .mediaError) s fun t =>
         t.home? obj = some { h with inMotion := false, isExplicit := false, dest := 0, destTier := .flash } ∧ (∀ m ∈ t.tiers.running, m.objId ≠ obj)))
  ∧ (∀ (s : State) (obj : W64) (h : Home), s.home? obj = some h →
       (1 < h.pins ∨ (h.pins = 1 ∧ h.evictPending = false) → Gives (.pinRelease obj false) s fun t =>
         t.home? obj = some { h with pins := h.pins - 1 } ∧ t = { s with tiers := { s.tiers with homes := t.tiers.homes } })
       ∧ (1 < h.oldPins → Gives (.pinRelease obj true) s fun t =>
         t.home? obj = some { h with oldPins := h.oldPins - 1 } ∧ t = { s with tiers := { s.tiers with homes := t.tiers.homes } })
       ∧ (h.pins = 1 → h.evictPending = true → h.sealedObj = true → h.hbmCopy = true → Gives (.pinRelease obj false) s fun t =>
         (t.home? obj).map (fun x => (x.hbmCopy, x.evictPending, x.pins)) = some (false, false, 0)))
  ∧ (∀ s : State,
       (100 * s.tiers.held.table ≤ 95 * s.tiers.budget.table ∨ s.sasel.shutdown = true → Ignores .automaticEviction s)
       ∧ (∀ h : Home, 95 * s.tiers.budget.table < 100 * s.tiers.held.table → s.sasel.shutdown = false → s.power.flush = none → s.eol < 2 →
           s.evictable = [h] → s.home? h.objId = some h → (∀ m ∈ s.tiers.moves, m.objId ≠ h.objId) → (∀ m ∈ s.tiers.running, m.objId ≠ h.objId) →
           (∀ c ∈ objectChannels h.objId false (extentsOf h.bytes), s.channelOut c = false) → s.capacityOk (objectChannels h.objId false (extentsOf h.bytes)) = true →
           Gives .automaticEviction s fun t => (t.home? h.objId).map (fun x => (x.inMotion, x.destTier)) = some (true, .flash)))

/-- A knot signal (R285 to R287): the number one above the last applied from its source takes effect, adding 1 to COUNT, and on
a barrier the one that reaches TARGET adds 1 to FIRES and clears COUNT; a repeat, a number out of order and a signal to a
freed knot are discarded and counted by cause.
A signal that would carry a knot past its largest value (R287, R379): a firmware knot's is DEVICE_FATAL, a context's faults
its owner.
A reset of a knot clears COUNT, FIRES and the set mark, and only those (R285). -/
def Obligations.Knots : Prop :=
  (∀ (s : State) (src : SignalSource) (n : W32) (k : Nat), k < 32768 →
     let d := (n - s.lastFrom src).toNat
     (∀ x, d = 1 → s.knot? k = some x → x.overflows = false → Gives (.knotSignal src n k) s fun t =>
       t.lastFrom src = n
       ∧ t.knot? k = some (if x.kind = .barrier ∧ x.count + 1 = x.target then { x with fires := x.fires + 1, count := 0 }
           else { x with count := x.count + 1, set := x.set || decide (x.kind = .event) }))
     ∧ (d = 1 → s.knot? k = none → exec (.knotSignal src n k) s = .next { s with work := { s.work with
         lastSignal := assocSet src n s.work.lastSignal, sigFreed := satInc s.work.sigFreed } })
     ∧ (d = 0 ∨ 2 ^ 31 ≤ d → exec (.knotSignal src n k) s = .next { s with work := { s.work with sigDuplicate := satInc s.work.sigDuplicate } })
     ∧ (2 ≤ d → d < 2 ^ 31 → exec (.knotSignal src n k) s = .next { s with work := { s.work with sigOutOfOrder := satInc s.work.sigOutOfOrder } }))
  ∧ (∀ (s : State) (src : SignalSource) (n : W32) (k : Nat) (x : Knot), k < 32768 → n = s.lastFrom src + 1 → s.knot? k = some x → x.overflows = true →
       (k < 4096 → Gives (.knotSignal src n k) s fun t => t.integ.fatal = true ∧ t.work.sigOverflow = satInc s.work.sigOverflow ∧ t.knot? k = some x)
       ∧ (4096 ≤ k → Gives (.knotSignal src n k) s fun t => t.integ = s.integ ∧ t.knot? k = some x
           ∧ ∀ c ∈ t.work.ctxs, c.index = x.owner.toNat → c.state ≠ .torn → c.cause.isSome = true))
  ∧ (∀ (s : State) (k : Nat),
       (∀ x, s.knot? k = some x → exec (.knotReset k) s = .next (s.setKnot { x with count := 0, fires := 0, set := false }))
       ∧ (s.knot? k = none → Ignores (.knotReset k) s))

/-- CREATE_CONTEXT (R261, R264): of an AUX binding, with 1 to 256 knots and the Loom in service, it defines a general context
that waits for work, with the lowest free index and range of knots, and RESULT0 is its handle.
DESTROY_CONTEXT (R272): a TORN general context is removed at once; any other general context is to be torn down, with the
cause DESTROYED unless it has one, and the command waits; a service context is refused.
RUN_ENTRY gives a general context one run of an ENTRY range, from the range's first pick to its last, and waits for it; on a
torn context it ends with CONTEXT_TORN (R261, R262, R271, R322).
Saves and restores (R153, R262, R266 to R269): a save that ends takes the context out of its slot with its live ranges; a
restore that ends leaves it RUNNING with nothing saved.
When a context leaves its slot (R262, R266 to R269): pre-emption pending after 20 ms while another waits for a slot, a save
at the next yield point if it fits, BLOCKED at a wait; the longest BLOCKED one is saved when every slot is held by general
contexts that are BLOCKED and one waits.
SWAP_OUT saves the candidate of R269, and changes nothing while a slot is free or nothing waits for one.
A teardown (R271, R272), with a cause and no takeover to wait for: the context is TORN and holds no slot, its picks end
without effect, and the commands that run on it end with CONTEXT_TORN; during a takeover it waits. -/
def Obligations.Contexts : Prop :=
  (∀ (s : State) (sid i k : Nat) (u : Sub) (m : Model) (im : Image), Begins s sid 0x68 u → s.model? u.entry.handleA = some m → s.image? m.image = some im →
     im.header.cls = 4 → 1 ≤ u.entry.arg0.toNat → u.entry.arg0.toNat ≤ 256 → s.loom.out = false →
     lowestFree (s.work.ctxs.map (·.index)) 4096 = some i → s.freeKnots u.entry.arg0.toNat = some k →
     let g := genFor s.work.ctxGens i
     exec (.createContext sid) s = .next
       (({ s with work := { s.work with
           ctxs := s.work.ctxs ++ [{ index := i, gen := g, service := false, model := u.entry.handleA, client := u.client, state := .outBlocked
                                     firstKnot := k, knots := u.entry.arg0.toNat }]
           knots := s.work.knots ++ (List.range u.entry.arg0.toNat).map fun j => { index := k + j, kind := .counter, owner := BitVec.ofNat 12 i } } } : State).finish
         sid (okResult u (BitVec.ofNat 64 (mkHandle g kindContext i).toNat) 0)))
  ∧ (∀ (s : State) (sid : Nat) (u : Sub) (c : Ctx), Begins s sid 0x69 u → s.ctx? u.entry.handleA = some c →
       s.work.ctxs.filter (fun x => x.index == c.index) = [c] →
       (c.service = false → c.state = .torn → exec (.destroyContext sid) s = .next ((s.removeCtx c.index).finish sid (okResult u 0 0)))
       ∧ (c.service = false → c.state ≠ .torn → Gives (.destroyContext sid) s fun t =>
           t.ctxAt c.index = some { c with destroyer := some sid, cause := if c.cause.isNone then some .destroyed else c.cause
                                           layerId := if c.cause.isNone then 0 else c.layerId }
           ∧ (t.sub? sid).map (fun v => (v.running, v.due)) = some (true, none))
       ∧ (c.service = true → exec (.destroyContext sid) s = .next (s.finish sid { status := .badField })))
  ∧ (∀ (s : State) (sid : Nat) (u : Sub) (b : Option Buf) (buf : Buf) (c : Ctx) (im : Image) (e : EntryRange), Begins s sid 0x6A u → u.readB b = some buf →
       s.ctx? u.entry.handleA = some c → c.service = false →
       (c.state ≠ .torn → c.cause = none → s.isReady bitLoom = true → s.ctxImage c = some im → im.damaged = false →
         im.entries.find? (fun e => e.index == u.entry.arg2.toNat) = some e → 1 ≤ e.count → (∀ m ∈ s.img.models, m.binder = none) →
         Gives (.runEntry sid b) s fun t =>
           (∃ x ∈ t.work.ctxs, x.index = c.index ∧ x.runs = c.runs ++ [{ sid := sid, range := e.index, next := e.first, last := e.first + e.count - 1 }])
           ∧ (t.sub? sid).map (fun v => (v.running, v.due)) = some (true, none))
       ∧ (c.state = .torn → (∀ im, s.ctxImage c = some im → im.damaged = false) → exec (.runEntry sid b) s = .next (s.finish sid { status := .contextTorn })))
  ∧ (∀ (s : State) (i : Nat) (c : Ctx), s.work.ctxs.filter (fun x => x.index == i) = [c] → c.cause = none →
       (c.state = .saving → Gives (.contextSaveComplete i) s fun t =>
         ∃ x ∈ t.work.ctxs, x.index = i ∧ x.saveData = (s.ctxLive c).flatMap (s.saveRange c) ∧ (x.state = .outBlocked ∨ x.state = .outReady ∨ x.state = .restoring)
           ∧ x.runs = c.runs ∧ x.pick = c.pick)
       ∧ (c.state = .restoring → Gives (.contextRestoreComplete i) s fun t =>
         ∃ x ∈ t.work.ctxs, x.index = i ∧ x.state = .running ∧ x.saved = 0 ∧ x.hasSaved = false ∧ x.saveData = [] ∧ x.slot = c.slot ∧ x.runs = c.runs ∧ x.pick = c.pick))
  ∧ (∀ (s : State) (i : Nat) (c : Ctx), s.work.ctxs.filter (fun x => x.index == i) = [c] → c.state = .running → c.cause = none →
       (c.service = false → s.readyOrder ≠ [] → exec (.preemptionTimer i) s = .next (s.modCtx i fun c => { c with preempt := true }))
       ∧ (c.service = true ∨ s.readyOrder = [] → Ignores (.preemptionTimer i) s)
       ∧ (s.atYield c = true → c.service = false → c.preempt = true → s.saveFits c = true → exec (.yieldPoint i) s = .next (s.modCtx i fun x =>
           { x with state := .saving, toBlocked := false, preempt := false, saved := saveBytes (s.ctxLive x), hasSaved := true }))
       ∧ (s.atYield c = true → c.preempt = false → s.ctxWaits c = true → exec (.yieldPoint i) s = .next (s.modCtx i fun x =>
           { x with state := .blocked, sinceBlocked := s.pclk.toNat }))
       ∧ (s.atYield c = true → c.preempt = false → s.ctxWaits c = false → Ignores (.yieldPoint i) s))
  ∧ (∀ s : State,
       (∀ c, s.freeSlot = none → (∀ x ∈ s.residentGeneral, x.state = .blocked) → s.residentGeneral ≠ [] → s.readyOrder ≠ [] → s.swapCandidate = some c →
         exec .swapOut s = .next (s.modCtx c.index fun x => { x with state := .saving, toBlocked := true, preempt := false, saved := saveBytes (s.ctxLive x), hasSaved := true }))
       ∧ (s.freeSlot ≠ none ∨ s.readyOrder = [] → Ignores .swapOut s))
  ∧ (∀ (s : State) (i : Nat) (c : Ctx) (cause : TearCause), s.work.ctxs.filter (fun x => x.index == i) = [c] → c.state ≠ .torn → c.destroyer = none →
       let torn := fun (k : Option TearCause) (t : State) =>
         (∃ x ∈ t.work.ctxs, x.index = i ∧ x.state = .torn ∧ x.slot = none ∧ x.runs = [] ∧ x.cause = k)
         ∧ (∀ p ∈ t.loom.issued, p.ctx ≠ i) ∧ t.work.teardowns = satInc s.work.teardowns
         ∧ ∀ r ∈ c.runs, ∀ u, s.sub? r.sid = some u → u.due = none → EndsWith t r.sid u { status := .contextTorn, flags := s.flagsOf r.sid }
       (s.takeoverRuns = false → c.cause ≠ none → Gives (.contextTeardown i cause) s (torn c.cause))
       ∧ (s.takeoverRuns = false → c.cause = none → c.service = false → Gives (.contextTeardown i .csRange) s (torn (some .csRange)))
       ∧ (c.cause = none → cause ≠ .csRange ∨ c.service = true → Ignores (.contextTeardown i cause) s)
       ∧ (s.takeoverRuns = true → c.cause ≠ none → Ignores (.contextTeardown i cause) s))

/-- PICK_ISSUE (R93, R94, R96): firmware writes the row group table, 16 B a group, to control cluster SRAM and the sequencer
reads it from there; a pick that may issue and breaks no rule enters the sequencer in issue order, before any signal of it;
one that breaks a rule does not run and faults its context; one that may not issue changes nothing.
What starts at a boundary (R95, R96, R106, R109, R130, R389): the pick that W_REUSE joins to the last one, with the weights
that are active, and until its knot allows it nothing; else the first replay due, of a pick or of a wider run, in issue
order; else the first wider run due; else the next pick, with its own weights loaded into the shadow set and made active;
nothing while a column takeover runs or the Loom is out of service.
The check of a pick (R99, R109, R110, R121, R271): when no column's residue differs from its prediction, a pick without a
wider variant signals once and leaves; a first mismatch opens a CE record and makes the pick's replay due; a pick of a
context that is to be torn down is discarded; a GATHER row that ends above the tile SRAM is a fault of the context.
A wider run that completes lets its pick signal and leave the sequencer; for a context that is to be torn down it does
nothing (R106, R129, R271).
STAGING_COMPLETE (R149, R167, R169 to R171): a block set of a resident context that may be staged is staged, and one that
the weights of a pick that has not signalled overlap is not; a window that starts pins its source and takes its bytes; one
that is done is written. -/
def Obligations.PicksOfTheLoom : Prop :=
  (∀ (s : State) (ctx : Nat) (src : PickSource) (groups : List RowGroup) (c : Ctx), s.ctxAt ctx = some c →
     (∀ pos p, s.mayIssue c src = true → s.issuePick c src groups.length = some (pos, p) →
       let s1 : State := { s with mems := { s.mems with cc := s.mems.cc.writeBytes p.rgAddr ((groups.take 64).flatMap RowGroup.bytes) } }
       (s1.pickOk c p (s1.rowGroups p) (decide (pos ≠ firmwarePos)) = true →
         Gives (.pickIssue ctx src groups) s fun t =>
           (∃ i, t.loom.issued = s.loom.issued ++ [i] ∧ i.id = s.loom.nextId ∧ i.ctx = c.index ∧ i.pick = p ∧ i.groups = s1.rowGroups p ∧ i.phase = .pending)
           ∧ t.loom.nextId = s.loom.nextId + 1 ∧ t.mems = s1.mems ∧ t.out = s.out)
       ∧ (s1.pickOk c p (s1.rowGroups p) (decide (pos ≠ firmwarePos)) = false →
         exec (.pickIssue ctx src groups) s = .next (s1.faultCtx ctx .pickFault p.layerId)))
     ∧ (s.mayIssue c src = false → Ignores (.pickIssue ctx src groups) s))
  ∧ (∀ s : State,
       let with' := fun (i : Issued) (f : Issued → Issued) => s.loom.issued.map fun x => if (x.id == i.id) = true then f x else x
       let runs := fun (i : Issued) (w : WeightSet) (t : State) =>
         t.loom.issued = with' i (fun x => { x with phase := .running, weights := w }) ∧ t.loom.active = w ∧ t.mems = s.mems
       let widens := fun (i : Issued) =>
         (∀ c, s.ctxAt i.ctx = some c → s.widePickOk c i = true → Gives .pickBoundary s fun t =>
           t = { s with loom := { s.loom with issued := with' i (fun x => { x with phase := .widening, faults := [] }), lastStart := none } })
         ∧ (∀ c, s.ctxAt i.ctx = some c → s.widePickOk c i = false → exec .pickBoundary s = .next (s.faultCtx i.ctx .pickFault i.pick.layerId))
       let replay := s.loom.issued.find? fun i => decide (i.phase = .replayDue ∨ i.phase = .wideReplayDue)
       let wide := s.loom.issued.find? fun i => decide (i.phase = .wideDue)
       let open' := s.loom.out = false ∧ s.loom.takeover = [] ∧ s.isReady bitLoom = true
       (∀ i, open' → s.joinedPick = some i → s.startable i = true → Gives .pickBoundary s (runs i s.loom.active))
       ∧ (∀ i, open' → s.joinedPick = some i → s.startable i = false → Ignores .pickBoundary s)
       ∧ (∀ i, open' → s.joinedPick = none → replay = some i → i.phase = .replayDue → Gives .pickBoundary s fun t =>
           runs i (s.ownSet i.pick) t ∧ t.loom.shadow = s.ownSet i.pick)
       ∧ (∀ i, open' → s.joinedPick = none → replay = some i → i.phase = .wideReplayDue → widens i)
       ∧ (∀ i, open' → s.joinedPick = none → replay = none → wide = some i → widens i)
       ∧ (∀ i, open' → s.joinedPick = none → replay = none → wide = none → s.nextPick = some i → Gives .pickBoundary s fun t =>
           runs i (s.ownSet i.pick) t ∧ t.loom.shadow = s.ownSet i.pick)
       ∧ (¬ open' → Ignores .pickBoundary s))
  ∧ (∀ (s : State) (id : Nat) (i : Issued), s.loom.issued.find? (fun x => x.id == id && decide (x.phase = .running ∨ x.phase = .widening)) = some i →
       i.phase = .running →
       let clean := s.doomed i.ctx = false ∧ ∀ r, r < i.pick.rows → s.gatherBad i.pick r = false
       let k := if i.counted = true then s.loom.checked else s.loom.checked + 1
       (∀ faults, clean → i.pick.wideAddr = 0 → s.mismatched i.pick i.weights (s.inputFn i.pick) faults = [] → Gives (.pickCheckComplete id faults) s fun t =>
         (∀ x ∈ t.loom.issued, x.id ≠ id) ∧ t.loom.checked = k
         ∧ (i.pick.sigEn = true → .signal (.slot i.pick.ctxSlot) (s.lastFrom (.slot i.pick.ctxSlot) + 1) i.pick.sigKnot ∈ t.out))
       ∧ (∀ c faults, c < 64 → clean → i.replays = 0 → s.mismatched i.pick i.weights (s.inputFn i.pick) faults = [c] →
         (nub ((s.loom.mismatches.filter fun m => m.1 == s.physCol c && decide (k < m.2.2 + 1048576)).map fun m => m.2.1)).length < 3 →
         Gives (.pickCheckComplete id faults) s fun t =>
           { i with phase := .replayDue, replays := 1, counted := true } ∈ t.loom.issued
           ∧ t.loom.mismatches = s.loom.mismatches ++ [(s.physCol c, i.id, k)] ∧ t.mems = s.mems
           ∧ t.integ = (s.logError { cls := .ce, unitType := unitColumn, unitIndex := s.physCol c, source := 3, layerId := i.pick.layerId, context := some i.ctx }).integ)
       ∧ (∀ l, s.doomed i.ctx = true → Gives (.pickCheckComplete id l) s fun t =>
           (∀ x ∈ t.loom.issued, x.id ≠ id) ∧ t.mems = s.mems ∧ t.out = s.out ∧ t.work.sigFreed = if i.pick.sigEn = true then satInc s.work.sigFreed else s.work.sigFreed)
       ∧ (∀ row, row < i.pick.rows → s.gatherBad i.pick row = true → exec (.gatherAddressFault id row) s = .next (s.faultCtx i.ctx .gatherFault i.pick.layerId))
       ∧ (∀ row, row < i.pick.rows → s.gatherBad i.pick row = false → Ignores (.gatherAddressFault id row) s))
  ∧ (∀ (s : State) (id : Nat) (i : Issued) (c : Ctx), s.loom.issued.find? (fun x => x.id == id && decide (x.phase = .widening)) = some i → s.ctxAt i.ctx = some c →
       (c.cause = none → Gives (.widerRunComplete id) s fun t => ∀ x ∈ t.loom.issued, x.id ≠ id)
       ∧ (c.cause ≠ none → Ignores (.widerRunComplete id) s))
  ∧ (∀ (s : State) (ctx : Nat) (c : Ctx) (im : Image), s.ctxAt ctx = some c → s.ctxImage c = some im → c.slot ≠ none →
       (∀ n pos, im.posOfSet n = some pos → s.maySet c im n pos = true → s.pinnable im.objId = true →
         (∀ h, s.home? im.objId = some h → h.sealedObj = true) →
         Gives (.stagingComplete ctx (.blockSet n)) s fun t => (c.index, im.setOf pos) ∈ t.tiers.staged ∧ t.mems.hbm = s.mems.hbm)
       ∧ (∀ n pos j, im.posOfSet n = some pos → j ∈ s.loom.issued → j.ctx = ctx →
           weightsMeet j.pick.wAddr j.pick.weightBytes (((im.desc[pos]?).getD {}).wAddr + c.tb) ((im.desc[pos]?).getD {}).weightBytes = true →
           Ignores (.stagingComplete ctx (.blockSet n)) s)
       ∧ (∀ obj pieces last h, s.home? obj = some h → h.damaged = false → h.pinnable = true → s.windowBefore c obj = true → (h.sealedObj = true → h.hbmCopy = true) →
           (∀ p ∈ pieces, p.row < 64 ∧ p.col < 64 ∧ p.off + p.len ≤ im.header.sramFootprint) → Gives (.stagingComplete ctx (.windowStart obj pieces last)) s fun t =>
             t.tiers.windows = s.tiers.windows ++ [{ ctx := ctx, objId := obj, pieces := pieces, data := s.sourceBytes h, lastPick := last, staged := false }]
             ∧ (t.home? obj).map (·.pins) = some (h.pins + 1) ∧ t.mems = s.mems)
       ∧ (∀ obj, Gives (.stagingComplete ctx (.windowDone obj)) s fun t => ∀ w ∈ t.tiers.windows, w.ctx = ctx → w.objId = obj → w.staged = true))

/-- A column takeover keeps the contents of every logical column: each reads, at its new physical column, what it read before
(R388 to R390). -/
def Obligations.ColumnTakeoverKeepsContents : Prop :=
  ∀ (s : State) (p : Nat), s.loom.takeover = [p] → s.loom.retired.length ≤ 1 → p < 66 → p ∉ s.loom.retired → s.mems.tile.wf = true →
    Gives .columnTakeoverComplete s fun t =>
      t.loom.retired = s.loom.retired ++ [p] ∧ t.loom.takeover = []
      ∧ (∀ r c off, r < 64 → c < 64 → off < 0x180000 → t.mems.tile.read (t.tileAddr r c off) = s.mems.tile.read (s.tileAddr r c off))
      ∧ t.mems.hbm = s.mems.hbm ∧ t.mems.cc = s.mems.cc

/-- The reports QUERY_QUEUE, QUERY_CLIENT, QUERY_CONTEXT, QUERY_HOME and QUERY_GRAFT go into B and change nothing else; their
command completes OK. The layouts the manual does not state are free values (log 15).
A remote access error on a buffer that a command reads or writes completes it with BAD_FIELD and puts its connection in
error; every other submission on that connection without an outcome ends with NOT_READY (R309, R316); a status that has
applied to one of them since its accept event comes first, and an answer request keeps the flags it has taken (R52, R320). -/
def Obligations.ReportsAndErrors : Prop :=
  ((∀ (s : State) (sid : Nat) (u : Sub) (q : Queue) (ok : Bool), Begins s sid 0x04 u → 64 ≤ u.entry.length.toNat →
       s.queueOf? u.entry.handleA = some q → Reaches u 64 ok →
       exec (.queryQueue sid ok) s = .next ((s.writeB u (queueReport q)).finish sid (okResult u 0 0)))
   ∧ (∀ (s : State) (sid : Nat) (u : Sub) (c : Client) (ok : Bool), Begins s sid 0x70 u → 32 ≤ u.entry.length.toNat →
       s.client? u.entry.arg0.toNat = some c → Reaches u 32 ok →
       exec (.queryClient sid ok) s = .next ((s.writeB u (clientReport c)).finish sid (okResult u 0 0)))
   ∧ (∀ (s : State) (sid : Nat) (u : Sub) (c : Ctx) (ok : Bool), Begins s sid 0x6B u → 64 ≤ u.entry.length.toNat →
       s.ctx? u.entry.handleA = some c → Reaches u 64 ok →
       exec (.queryContext sid ok) s = .next ((s.writeB u (s.ctxReport c)).finish sid (okResult u 0 0)))
   ∧ (∀ (s : State) (sid : Nat) (u : Sub) (h : Home) (ok : Bool), Begins s sid 0x61 u → 64 ≤ u.entry.length.toNat →
       s.home? u.entry.arg0 = some h → Reaches u h.entry.length ok →
       exec (.queryHome sid ok) s = .next ((s.writeB u h.entry).finish sid (okResult u 0 0)))
   ∧ (∀ (s : State) (sid : Nat) (u : Sub) (g : Graft) (ok : Bool), Begins s sid 0x48 u → 64 ≤ u.entry.length.toNat →
       s.graft? u.entry.handleA = some g → s.isReady bitFlashmap = true → Reaches u 64 ok →
       exec (.queryGraft sid ok) s = .next ((s.writeB u (graftReport g)).finish sid (okResult u 0 0)))
   ∧ (∀ (s : State) (q : Queue) (c : Client) (x : Ctx) (h : Home) (g : Graft), (queueReport q).length = 64 ∧ (clientReport c).length = 32
       ∧ (s.ctxReport x).length = 64 ∧ h.entry.length = 64 ∧ (graftReport g).length = 64))
  ∧ ((∀ (s : State) (sid : Nat) (u : Sub), u.inSlot = false →
       (Begins s sid 0x01 u → exec (.createQueue sid none) s = .next (s.accessError u))
       ∧ (Begins s sid 0x11 u → exec (.createIndex sid none none none) s = .next (s.accessError u))
       ∧ (Begins s sid 0x14 u → exec (.appendRecords sid none) s = .next (s.accessError u))
       ∧ (Begins s sid 0x20 u → exec (.loadImage sid none) s = .next (s.accessError u))
       ∧ (Begins s sid 0x24 u → exec (.loadFilter sid none) s = .next (s.accessError u))
       ∧ (Begins s sid 0x30 u → exec (.createTable sid none) s = .next (s.accessError u))
       ∧ (Begins s sid 0x44 u → exec (.createGraft sid none true) s = .next (s.accessError u))
       ∧ (∀ q, Begins s sid 0x04 u → 64 ≤ u.entry.length.toNat → s.queueOf? u.entry.handleA = some q →
           exec (.queryQueue sid false) s = .next (s.accessError u)))
     ∧ (∀ (s : State) (sid : Nat) (u : Sub) (c : Conn), s.sub? sid = some u → u.due = none → s.conn? (s.connOf u) = some c →
         c.state = .opened →
         EndsWith (s.accessError u) sid u { status := firstStatus (u.preset ++ [.badField]), flags := s.flagsOf sid }
         ∧ (∀ k v, k ≠ sid → s.sub? k = some v → v.due = none → s.onConn (s.connOf u) v = true →
             EndsWith (s.accessError u) k v { status := firstStatus (v.preset ++ [.notReady]), flags := s.flagsOf k })
         ∧ (∀ k v, k ≠ sid → s.sub? k = some v → (v.due ≠ none ∨ s.onConn (s.connOf u) v = false) → (s.accessError u).sub? k = some v)
         ∧ (s.accessError u).connOpen (s.connOf u) = false))

/-- Reads, small writes and fills of protected words (R24, R184, R361, R362, R365, R367): a read without error changes nothing
but what has flipped; one bit in error is corrected, written back and counted as a CE, and where another write reached the
word first (R363) the write-back is withheld and that write stands; two are logged as a UE and handled by what holds the
word; a write of less than 8 B merges its bytes into the word it reads, and when that read meets a UE it writes nothing; a
read of a granule that a stack's takeover has not filled waits; FILL writes its pattern, right again, to every word of the
range and to no other byte; an address that does not exist is a fault. -/
def Obligations.ProtectedWords : Prop :=
  (∀ (s : State) (unit : MemUnit) (addr : Nat) (flipped : List Nat) (merge : Option (Nat × Buf)) (raced : Option Buf),
    let a := addr / 8 * 8
    let l := flipMore (s.flipsOf (memCode unit) (addr / 8)) flipped
    let w := s.setFlips (memCode unit) (addr / 8) l
    let reads := addr < memBytes unit ∧ ¬ (unit = .hbm ∧ s.unfilled a = true)
    (memBytes unit ≤ addr → exec (.memoryRead unit addr flipped merge raced) s = .fault (memFault unit))
    ∧ (addr < memBytes unit → unit = .hbm → s.unfilled a = true → exec (.memoryRead unit addr flipped merge raced) s = .next
        { w with tiers := { w.tiers with heldReads := w.tiers.heldReads ++ [(a, merge)] } })
    ∧ (reads → l = [] → merge = none → exec (.memoryRead unit addr flipped merge raced) s = .next w)
    ∧ (∀ p, reads → l = [p] → merge = none → raced = none → Gives (.memoryRead unit addr flipped merge raced) s fun t =>
        t.flipsOf (memCode unit) (addr / 8) = [] ∧ t.integ.writeBacks = satInc s.integ.writeBacks ∧ t.mems = s.mems
        ∧ (t.integ.log ≠ s.integ.log ∨ t.integ.unlogged = modAt s.integ.unlogged 0 satInc)
        ∧ t = { s with integ := t.integ, free := s.free + 1, sasel := { s.sasel with eventSeq := s.sasel.eventSeq + 1 } })
    ∧ (∀ p b, reads → l = [p] → merge = none → raced = some b → MemoriesCanonical s → Gives (.memoryRead unit addr flipped merge raced) s fun t =>
        let at_ := fun (x : State) (k : Nat) => match unit with
          | .hbm => x.mems.hbm.read k | .tile => x.mems.tile.read k | .cc => x.mems.cc.read k
        (∀ i, i < 8 → at_ t (a + i) = Buf.at b i) ∧ (∀ k, k < a ∨ a + 8 ≤ k → at_ t k = at_ s k)
        ∧ t.flipsOf (memCode unit) (addr / 8) = [] ∧ t.integ.withheld = satInc s.integ.withheld ∧ t.integ.writeBacks = s.integ.writeBacks)
    ∧ (∀ p q, reads → l = [p, q] → exec (.memoryRead unit addr flipped merge raced) s = .next
        (((w.fresh.2).logCounted (w.fresh.2.wordError unit a 0 .ue 0xFF#8 ((Config.word s.free).truncate 8))).handleUe unit a true 0))
    ∧ (∀ off b, reads → l = [] → merge = some (off, b) → off + b.length ≤ 8 → MemoriesCanonical s → Gives (.memoryRead unit addr flipped merge raced) s fun t =>
        let at_ := fun (x : State) (k : Nat) => match unit with
          | .hbm => x.mems.hbm.read k | .tile => x.mems.tile.read k | .cc => x.mems.cc.read k
        (∀ i, i < b.length → at_ t (a + off + i) = Buf.at b i) ∧ (∀ k, k < a + off ∨ a + off + b.length ≤ k → at_ t k = at_ s k)
        ∧ t.flipsOf (memCode unit) (addr / 8) = [] ∧ t.out = s.out))
  ∧ (∀ (s : State) (unit : MemUnit) (addr words : Nat) (pattern : W64), MemoriesCanonical s →
    let at_ := fun (x : State) (a : Nat) => match unit with
      | .hbm => x.mems.hbm.read a | .tile => x.mems.tile.read a | .cc => x.mems.cc.read a
    let base := addr / 8 * 8
    (memBytes unit < base + 8 * words → exec (.fill unit addr words pattern) s = .fault (memFault unit))
    ∧ (base + 8 * words ≤ memBytes unit → Gives (.fill unit addr words pattern) s fun t =>
        (∀ i, i < 8 * words → at_ t (base + i) = BitVec.ofNat 8 (pattern.toNat / 256 ^ (i % 8)))
        ∧ (∀ a, a < base ∨ base + 8 * words ≤ a → at_ t a = at_ s a)
        ∧ (∀ i, i < words → t.flipsOf (memCode unit) (addr / 8 + i) = [])
        ∧ t = { s with integ := { s.integ with flips := t.integ.flips }, mems := t.mems }
        ∧ (unit ≠ .hbm → t.mems.hbm = s.mems.hbm) ∧ (unit ≠ .tile → t.mems.tile = s.mems.tile)
        ∧ (unit ≠ .cc → t.mems.cc = s.mems.cc)))

/-- The Rake (R368 to R370) and the self-tests of the checkers (R366): a lap's end records its duration and counts the lap;
SET_RAKE sets the laps it names in range; a word read without error moves the walk on by one word; a self-test that fails
counts, and of a part of the control cluster is DEVICE_FATAL. -/
def Obligations.RakeAndSelfTests : Prop :=
  (∀ (s : State) (n : Nat),
      exec (.rakeLapEnd false n) s = .next { s with integ := { s.integ with
        hbmLast := BitVec.ofNat 64 n, hbmLaps := satInc s.integ.hbmLaps, hbmNext := 0 } }
      ∧ exec (.rakeLapEnd true n) s = .next { s with integ := { s.integ with
          sramLast := BitVec.ofNat 64 n, sramLaps := satInc s.integ.sramLaps, sramNext := 0 } })
  ∧ (∀ (s : State) (sid : Nat) (u : Sub), Begins s sid 0xEA u →
      let h := u.entry.arg0.toNat
      let r := u.entry.arg1.toNat
      ((h = 0 ∨ 3600 ≤ h ∧ h ≤ 2592000) → (r = 0 ∨ 60 ≤ r ∧ r ≤ 86400) →
        exec (.setRake sid) s = .next (({ s with integ := { s.integ with
          hbmLap := if h = 0 then s.integ.hbmLap else h, sramLap := if r = 0 then s.integ.sramLap else r } } : State).finish sid
            (okResult u 0 0)))
      ∧ (¬ (h = 0 ∨ 3600 ≤ h ∧ h ≤ 2592000) ∨ ¬ (r = 0 ∨ 60 ≤ r ∧ r ≤ 86400) →
          exec (.setRake sid) s = .next (s.finish sid { status := .badField })))
  ∧ (∀ s : State, s.integ.granules = [] → s.integ.banks = [] → s.integ.hbmNext < hbmBytes / 8 →
      s.flipsOf 0 s.integ.hbmNext = [] →
      Gives (.rakeRead false [] none) s fun t => t.integ.hbmNext = (s.integ.hbmNext + 1) % (hbmBytes / 8)
        ∧ (∀ m w, t.flipsOf m w = s.flipsOf m w)
        ∧ t = { s with integ := { s.integ with hbmNext := t.integ.hbmNext, flips := t.integ.flips } })
  ∧ (∀ (s : State) (ty i : Nat), Ignores (.checkerSelfTest ty i true) s)
  ∧ (∀ (s : State) (i : Nat), i < 64 → Gives (.checkerSelfTest unitCc i false) s fun t =>
      t.integ.selfTest = satInc s.integ.selfTest ∧ t.integ.fatal = true ∧ t.accepts = false)

/-- The error log (R373 to R376, R378): an error adds to the record in handling of its key and class, or opens one, or counts as
unlogged; a UNIT_FAIL or DEVICE_FATAL in handling, and an error that counts as unlogged, assert ALERT_L; READ_ERRORS
releases the records below its first SEQ and copies from it on, or copies the history and releases nothing. -/
def Obligations.ErrorLog : Prop :=
  (∀ (s : State) (e : ErrEvent), e.cls = .ce →
    ((∃ r ∈ s.integ.log, r.takes e = true) → Gives (.errorLogEvent e) s fun t =>
      t.integ.log = s.integ.log.map (fun r => if r.takes e then
          { r with count := r.count + 1, lastAddr := e.last, lastEvent := s.sasel.eventSeq + 1 } else r)
      ∧ t = { s with integ := { s.integ with log := t.integ.log }, sasel := { s.sasel with eventSeq := s.sasel.eventSeq + 1 } })
    ∧ ((∀ r ∈ s.integ.log, r.takes e = false) → s.integ.log.length < 65520 → Gives (.errorLogEvent e) s fun t =>
      t.integ.log = s.integ.log ++ [newRecord s.integ.log s.integ.nextSeq (s.sasel.eventSeq + 1) e]
      ∧ t = { s with integ := { s.integ with log := t.integ.log, nextSeq := s.integ.nextSeq + 1 }
                     sasel := { s.sasel with eventSeq := s.sasel.eventSeq + 1 } })
    ∧ ((∀ r ∈ s.integ.log, r.takes e = false) → 65520 ≤ s.integ.log.length → Gives (.errorLogEvent e) s fun t =>
      t.integ.unlogged = modAt s.integ.unlogged 0 satInc ∧ t.alertL = true
      ∧ t = { s with integ := { s.integ with unlogged := t.integ.unlogged, unloggedSince := true }
                     sasel := { s.sasel with eventSeq := s.sasel.eventSeq + 1 } }))
  ∧ (∀ (s : State) (e : ErrEvent), e.cls = .unitFail → e.unitType = unitLane → (∀ r ∈ s.integ.log, r.takes e = false) →
      s.integ.log.length < 65536 → Gives (.errorLogEvent e) s fun t => t.alertL = true ∧ t.integ.nextSeq = s.integ.nextSeq + 1)
  ∧ (∀ (s : State) (e : ErrEvent), e.cls = .deviceFatal → fatalUnit e.unitType = true →
      Gives (.errorLogEvent e) s fun t => t.alertL = true ∧ t.accepts = false)
  ∧ (∀ (s : State) (sid : Nat) (u : Sub) (ok : Bool), Begins s sid 0x71 u →
      let first := u.entry.arg0.toNat
      let recs := (s.integ.log.filter fun r => decide (first ≤ r.seq)).take (u.entry.length.toNat / 64)
      (first < 2 ^ 63 → first ≤ s.integ.nextSeq → Reaches u (64 * recs.length) ok →
        exec (.readErrors sid ok) s = .next (((s.writeB u (recs.flatMap ErrRec.bytes)).releaseRecords first).finish sid
          (okResult u (BitVec.ofNat 64 recs.length) 0))
        ∧ (s.releaseRecords first).integ.log = s.integ.log.filter fun r => decide (first ≤ r.seq))
      ∧ (first < 2 ^ 63 → s.integ.nextSeq < first →
        exec (.readErrors sid ok) s = .next (s.finish sid { status := .badField })))
  ∧ (∀ (s : State) (sid : Nat) (u : Sub) (ok : Bool), Begins s sid 0x71 u → 2 ^ 63 ≤ u.entry.arg0.toNat →
      s.isReady bitSysregion = true →
      let recs := (s.integ.history.drop (u.entry.arg0.toNat - 2 ^ 63)).take (u.entry.length.toNat / 64)
      Reaches u (64 * recs.length) ok →
      exec (.readErrorsHistory sid ok) s = .next ((s.writeB u (recs.flatMap ErrRec.bytes)).finish sid
        (okResult u (BitVec.ofNat 64 recs.length) 0)))

/-- Every error is counted exactly once, in one record's COUNT or in one unlogged counter (R375): CE and UE records open only
below 65,520 records in handling, UNIT_FAIL and DEVICE_FATAL records below 65,536; an error that neither coalesces nor opens
a record adds 1 to the unlogged counter of its class; the unlogged counters fall only by a reset of the sled, which clears
them. -/
def Obligations.ErrorsCountedOnce : Prop :=
  (∀ (s : State) (e : ErrEvent), s.integ.unlogged.length = 4 → (s.integ.log.filter fun r => r.takes e).length ≤ 1 →
    (∀ c ∈ s.integ.unlogged, c.toNat < 2 ^ 64 - 1) →
    let room := match e.cls with | .ce | .ue => 65520 | .unitFail | .deviceFatal => 65536
    let total := fun (x : State) => sumOf (x.integ.log.map (·.count)) + sumOf (x.integ.unlogged.map (·.toNat))
    total (s.logError e) = total s + 1
    ∧ ((∀ r ∈ s.integ.log, r.takes e = false) → s.integ.log.length < room →
        (s.logError e).integ.log.length = s.integ.log.length + 1 ∧ (s.logError e).integ.unlogged = s.integ.unlogged)
    ∧ ((∀ r ∈ s.integ.log, r.takes e = false) → room ≤ s.integ.log.length →
        (s.logError e).integ.log = s.integ.log ∧ (s.logError e).integ.unlogged = modAt s.integ.unlogged e.cls.code satInc))
  ∧ (∀ (c : Instr) (s t : State), exec c s = .next t →
      (t.boot.phase = .off ∧ t.integ.unlogged = [0, 0, 0, 0]) ∨ ∀ k, (s.integ.unlogged.getD k 0).toNat ≤ (t.integ.unlogged.getD k 0).toNat)

/-- RETIRE_MEMORY (R381): a granule outside the system region, a bank of a stack, or a page of every tile is retired, within the
limits; one already retired completes OK and changes nothing; a granule of the system region is BAD_FIELD. -/
def Obligations.RetireMemory : Prop :=
  ∀ (s : State) (sid : Nat) (u : Sub), Begins s sid 0xE9 u →
    let k := u.entry.arg0.toNat
    let a := u.entry.arg1.toNat
    let g := a / granuleBytes
    (k = 0 → systemBytes ≤ a → a < hbmBytes → s.granuleRetired g = false →
      (s.integ.granules.length < 65536 → exec (.retireGranule sid) s = .next
        (({ s with integ := { s.integ with granules := s.integ.granules ++ [g] } } : State).finish sid (okResult u 0 0)))
      ∧ (65536 ≤ s.integ.granules.length → exec (.retireGranule sid) s = .next (s.finish sid { status := .noResource })))
    ∧ (k = 0 → systemBytes ≤ a → a < hbmBytes → s.granuleRetired g = true →
        exec (.retireGranule sid) s = .next (s.finish sid (okResult u 0 0)))
    ∧ (k = 0 → a < systemBytes → exec (.retireGranule sid) s = .next (s.finish sid { status := .badField }))
    ∧ (∀ x b, k = 1 → a = 256 * x + b → x < 24 → b < 64 →
        (s.integ.banks.contains (x, b) = true → exec (.retireBank sid) s = .next (s.finish sid (okResult u 0 0)))
        ∧ (s.integ.banks.contains (x, b) = false → s.integ.banks.length < 8 → exec (.retireBank sid) s = .next
            (({ s with integ := { s.integ with banks := s.integ.banks ++ [(x, b)] } } : State).finish sid (okResult u 0 0)))
        ∧ (s.integ.banks.contains (x, b) = false → 8 ≤ s.integ.banks.length →
            exec (.retireBank sid) s = .next (s.finish sid { status := .noResource })))
    ∧ (k = 2 → a < 384 →
        (s.integ.pages.contains a = true → exec (.retireSramPage sid) s = .next (s.finish sid (okResult u 0 0)))
        ∧ (s.integ.pages.contains a = false → s.integ.pages.length < 32 → exec (.retireSramPage sid) s = .next
            (({ s with integ := { s.integ with pages := s.integ.pages ++ [a] } } : State).finish sid (okResult u 0 0)))
        ∧ (s.integ.pages.contains a = false → 32 ≤ s.integ.pages.length →
            exec (.retireSramPage sid) s = .next (s.finish sid { status := .noResource })))

/-- LOAD_IMAGE: a package in order and signed under an enrolled key takes the lowest free index; its sections are written to
flash as one persistent object, and get a directory entry; RESULT0 is the handle. A package that fails its checks is
BAD_FIELD, one that is not signed DENIED.
UNLOAD_IMAGE completes at once; the image goes when it has no binding, and its index is reissued with the next generation;
while a binding has it, it stays (R155, R156).
BIND_MODEL (R156 to R158, R263): the lowest free binding index; the copy's place and its fetches, or the fetches that run;
the key-value pool; a slot. With no room it is NO_RESOURCE, of a DAMAGED image DAMAGED. UNBIND_MODEL completes and what no
job holds goes. -/
def Obligations.ImagesAndBindings : Prop :=
  (∀ (s : State) (sid i : Nat) (u : Sub) (p : Package), Begins s sid 0x20 u → (u.readB (some p.header)).isSome = true →
     let im := pkgImage p (parseImageHeader p.header) (parseSections p.table (parseImageHeader p.header).sections)
     let gen := genFor s.img.imageGens i
     let chans := objectChannels (imageObj i gen) true im.extents
     let home : Home := { objId := imageObj i gen, lengthM1 := BitVec.ofNat 32 (ceilDiv im.span 64 - 1), sealedObj := true }
     (pkgOk p u.entry.length.toNat = true → s.imageSigned p = true → lowestFree (s.img.images.map (·.index)) 256 = some i →
       s.dirRoom 1 = true → s.capacityOk chans = true → chans.any s.channelOut = false →
       exec (.loadImage sid (some p)) s = .next ((((s.storeObj (imageObj i gen) true im.extents im.objBytes).addHome home).modImg fun g =>
         { g with images := g.images ++ [{ im with index := i, gen := gen, objId := imageObj i gen }] }).finish sid
           (okResult u (BitVec.ofNat 64 (mkHandle gen kindImage i).toNat) 0)))
     ∧ (pkgOk p u.entry.length.toNat = false → exec (.loadImage sid (some p)) s = .next (s.finish sid { status := .badField }))
     ∧ (pkgOk p u.entry.length.toNat = true → s.imageSigned p = false →
         exec (.loadImage sid (some p)) s = .next (s.finish sid { status := .denied })))
  ∧ (∀ (s : State) (sid : Nat) (u : Sub) (im : Image), Begins s sid 0x21 u → s.image? u.entry.handleA = some im → im.releasedAt.isSome = true →
       (s.bindings im ≠ [] → exec (.unloadImage sid) s = .next (s.finish sid (okResult u 0 0)))
       ∧ (s.bindings im = [] → Gives (.unloadImage sid) s fun t =>
           EndsWith t sid u (okResult u 0 0)
           ∧ t.img = { s.img with images := s.img.images.filter (fun x => !(x.index == im.index)), imageGens := bumpGen s.img.imageGens im.index }
           ∧ t.home? im.objId = none ∧ t.work = s.work ∧ t.queues = s.queues ∧ t.out = s.out))
  ∧ (∀ (s : State) (sid : Nat) (u : Sub),
       (∀ im, Begins s sid 0x22 u → s.image? u.entry.handleA = some im →
         let pages := u.entry.arg0.toNat
         let i := (lowestFree (s.img.models.map (·.index)) 64).getD 0
         let m : Model := { index := i, gen := genFor s.img.modelGens i, image := u.entry.handleA, kvPages := pages, binder := some sid }
         (∀ m' t, s.bindErrs im pages = [] → s.placeBinding im m sid = some (m', t) →
           let t' := ((t.start sid).modImg fun g => { g with models := g.models ++ [m'] }).ownCopy im
           exec (.bindModel sid) s = .next (if im.header.cls = clsAux then t' else t'.makeSlot).schedule)
         ∧ (im.boundsOk = true → im.auxOk = true → im.gapOk = true → 64 ≤ s.img.models.length →
             exec (.bindModel sid) s = .next (s.finish sid { status := .noResource }))
         ∧ (∀ m' t, s.bindErrs im pages = [.damaged] → s.placeBinding im m sid = some (m', t) →
             exec (.bindModel sid) s = .next (s.finish sid { status := .damaged })))
       ∧ (Begins s sid 0x23 u → exec (.unbindModel sid) s = .next (s.finish sid (okResult u 0 0)).sweepImages))

/-- LOAD_FILTER: a package in order whose program passes the checks of R78 takes the lowest free index; otherwise BAD_FIELD.
UNLOAD_FILTER completes, and the filter goes when no job is held on it.
EXTENT_FETCH_COMPLETE (R179 to R182, R238): one of the 1,024 oldest fetches reads its extent by the ladder, writes its bytes
into the HBM copy and ends; one that is not outstanding changes nothing; an extent that is lost, of an object without a copy
to rewrite it from, makes the object DAMAGED. -/
def Obligations.FiltersAndFetches : Prop :=
  ((∀ (s : State) (sid i : Nat) (u : Sub) (b : Option Buf) (buf : Buf), Begins s sid 0x24 u → u.readB b = some buf →
     let f := parseFilter buf u.entry.length.toNat
     let gen := genFor s.img.filterGens i
     (f.2.2 = true → filterValid f.1 f.2.1 = true → lowestFree (s.img.filters.map (·.index)) 1024 = some i →
       exec (.loadFilter sid b) s = .next ((s.modImg fun g => { g with filters := g.filters ++ [{ index := i, gen := gen, words := f.2.1, argLen := f.1 }] }).finish
         sid (okResult u (BitVec.ofNat 64 (mkHandle gen kindFilter i).toNat) 0)))
     ∧ (f.2.2 = false ∨ filterValid f.1 f.2.1 = false → exec (.loadFilter sid b) s = .next (s.finish sid { status := .badField })))
   ∧ (∀ (s : State) (sid : Nat) (u : Sub), Begins s sid 0x25 u → (∀ m ∈ s.img.models, m.releasedAt = none) →
     (∀ im ∈ s.img.images, im.releasedAt = none) → Gives (.unloadFilter sid) s fun t =>
       (∀ f ∈ s.img.filters, (f ∈ t.img.filters ↔
         ¬ ∃ r, f.releasedAt = some r ∧ s.jobOn (mkHandle f.gen kindFilter f.index) r = false)))
   ∧ (∀ (n : Nat) (l : List FilterWord), filterValid n l = true → 1 ≤ l.length ∧ l.length ≤ 256 ∧ n ≤ 256
       ∧ (∀ w ∈ l, w.argEnd ≤ n) ∧ (∃ r, l = r ++ [l.getLastD 0]) ∧ (l.getLastD 0).op = 0x3F))
  ∧ (∀ (s : State) (obj : W64) (e : Nat) (media : Media) (h : Home), s.home? obj = some h →
       let outstanding := ∃ f ∈ s.tiers.fetches.take 1024, f.objId = obj ∧ f.extent = e
       (∀ data s', outstanding → s.readExtent media obj e = (some data, s') →
         exec (.extentFetchComplete obj e media) s = .next
           (((s'.modTiers fun t => { t with fetches := t.fetches.filter fun f => !(f.objId == obj && f.extent == e) }).writeExtentCopy h e data).clearFlips
             (h.addr.toNat + 65536 * e) (min 65536 (h.bytes - 65536 * e))).schedule)
       ∧ (∀ m, s.entry? obj e = some m → m.damaged = false → s.channelOut m.channel = false → ladderStep media obj e ≤ 6 →
           (s.readExtent media obj e).1 = some (s.pageData m))
       ∧ (∀ s', outstanding → s.readExtent media obj e = (none, s') → h.hbmCopy = false →
         exec (.extentFetchComplete obj e media) s = .next ((s'.markDamaged obj).endFetches obj).schedule)
       ∧ (¬ outstanding → Ignores (.extentFetchComplete obj e media) s))

/-- CREATE_INDEX: parameters in order, with tables of their lengths and each n_p right, take the lowest free index in version 0;
RESULT0 is the handle. A wrong n_p, or a length that is not the table's, is BAD_FIELD.
OPEN_SEGMENT, APPEND_RECORDS and SEAL_SEGMENT (R60 to R62): a segment without records under the lowest free handle; the
records placed, at the end of the segment's, and its slice runs written; and the next segment number, given once, with the
runs' entry (R166). -/
def Obligations.IndexesAndSegments : Prop :=
  (∀ (s : State) (sid i : Nat) (u : Sub) (b : Option Buf) (buf b2 b3 : Buf), Begins s sid 0x11 u → u.readB b = some buf →
     let p := (parseIndexParams buf).1
     let x : Index := { index := i, gen := genFor s.idx.indexGens i, params := p, centroids := b2.take (p.partitions * p.dim), norms := parseNorms p b2
                        projection := b3, creator := u.client }
     let sized := (parseIndexParams buf).2 = true ∧ u.entry.length.toNat = 64 ∧ u.entry.b2Len = p.tableBytes ∧ u.entry.b3Len = 512 * p.dim
     (sized → normsOk p b2 = true → lowestFree (s.idx.list.map (·.index)) 64 = some i → s.sealedRoom x.tableObj p.tableBytes = true →
       s.sealedOut x.tableObj p.tableBytes = false →
       exec (.createIndex sid b (some b2) (some b3)) s = .next
         (((s.addSealed x.handle x.tableObj p.tableBytes b2).modIdx fun g => { g with list := g.list ++ [x] }).finish sid
           (okResult u (BitVec.ofNat 64 x.handle.toNat) 0)))
     ∧ (¬ sized ∨ normsOk p b2 = false →
         exec (.createIndex sid b (some b2) (some b3)) s = .next (s.finish sid { status := .badField })))
  ∧ (∀ (s : State) (sid : Nat) (u : Sub) (x : Index), s.index? u.entry.handleA = some x →
       (∀ i, Begins s sid 0x13 u → (x.segments.filter fun g => !g.committed).length < 64 →
         ((x.segments.filter fun g => !g.committed).filter fun g => g.number.isNone).length < 16 →
         lowestFree ((s.idx.list.flatMap (·.segments)).filterMap fun g => if g.committed then none else some (hIndex g.handle)) 4096 = some i →
         let h := mkHandle (genFor s.idx.segGens i) kindSegment i
         exec (.openSegment sid) s = .next ((s.modIndex u.entry.handleA fun x => { x with
           segments := x.segments ++ [{ handle := h, runs := x.runsObj x.opened }], opened := x.opened + 1 }).finish sid
           (okResult u (BitVec.ofNat 64 h.toNat) 0)))
       ∧ (∀ b buf g, Begins s sid 0x14 u → u.readB b = some buf → x.segment? u.entry.handleB = some g →
         let recs := x.insertRecs buf u.entry.length.toNat
         let more := takeAway (segmentChannels x.params.dim (g.recs ++ recs)) (segmentChannels x.params.dim g.recs)
         (s.appendErrs x (some g) recs u.entry.length.toNat more = [] →
           exec (.appendRecords sid b) s = .next (((s.writeRuns x.params.dim { g with recs := g.recs ++ recs } (nub (recs.map Rec.channel))).modIndex u.entry.handleA fun x =>
             { x with segments := updWhere (fun g => g.handle == u.entry.handleB && !g.committed) (fun g => { g with recs := g.recs ++ recs }) x.segments }).finish
               sid (okResult u (BitVec.ofNat 64 recs.length) 0)))
         ∧ ((u.entry.length.toNat % (32 + x.params.dim) ≠ 0 ∨ g.number.isSome = true) →
           exec (.appendRecords sid b) s = .next (s.finish sid { status := .badField })))
       ∧ (∀ g, Begins s sid 0x15 u → x.segment? u.entry.handleB = some g →
         (g.number = none → x.segCount < 4294967296 → s.dirRoom 1 = true → (∀ r ∈ g.recs, s.channelOut r.channel = false) →
           exec (.sealSegment sid) s = .next (((s.addHome
             { objId := g.runs, sealedObj := true, owner := x.handle
               lengthM1 := BitVec.ofNat 32 (1024 * (segmentChannels x.params.dim g.recs).length - 1) }).modIndex u.entry.handleA fun x => { x with
             segCount := x.segCount + 1
             segments := updWhere (fun g => g.handle == u.entry.handleB && !g.committed) (fun g => { g with number := some x.segCount }) x.segments }).finish
               sid (okResult u (BitVec.ofNat 64 x.segCount) 0)))
         ∧ (g.number.isSome = true → exec (.sealSegment sid) s = .next (s.finish sid { status := .badField }))))

/-- A commit of an index that is no plot member makes the version after the current one the current one, and answers its number;
so does a compaction, once the slices that it reads by the ladder are all delivered; no version that is pinned goes (R63,
R66, R68, R238).
PIN_VERSION and UNPIN_VERSION (R67): a version that is there is pinned or unpinned, one that is gone is VERSION_GONE, one
never published BAD_FIELD; an unpinned version that is not the current one is retired from then on (R47, R66).
VERSION_RETIRE takes only a version that is not retained, and nothing that a retained version contains; DELETE_INDEX
completes at once, and the index goes when no job is held on a version of it (R66, R67). -/
def Obligations.IndexVersions : Prop :=
  (∀ (s : State) (sid : Nat) (u : Sub) (b : Option Buf) (buf : Buf) (x : Index) (c : CommitList) (media : Media), u.readB b = some buf →
     s.index? u.entry.handleA = some x → parseCommit buf u.entry.length.toNat = some c → x.plot = none → x.releasedAt = none →
     (∀ y ∈ s.idx.list, y.index = x.index ∨ y.handle = x.handle → y = x) → (x.versions.map (·.number)).Nodup → s.commitRuns u = false →
     let done := fun (t : State) => EndsWith t sid u (okResult u (BitVec.ofNat 64 (x.current + 1)) 0)
       ∧ ∃ y, t.index? u.entry.handleA = some y ∧ y.current = x.current + 1 ∧ (∀ v ∈ x.versions, v.pinned = true → v ∈ y.versions)
     let read := s.readRuns media (s.compactReads x c)
     (Begins s sid 0x16 u → s.commitErrs x c = [] → Gives (.commitIndex sid b) s done)
     ∧ (Begins s sid 0x17 u → read.idx = s.idx → (∀ d ∈ x.newSlices c, s.sliceDamaged x d = false) → read.compactErrs x c [] = [] →
         Gives (.compactIndex sid b media) s done)
     ∧ (Begins s sid 0x16 u → c.replaced ≠ [] → exec (.commitIndex sid b) s = .next (s.finish sid { status := .badField }))
     ∧ (Begins s sid 0x17 u → c.deleted ≠ [] → exec (.compactIndex sid b media) s = .next (read.finish sid { status := .badField })))
  ∧ (∀ (s : State) (sid : Nat) (u : Sub) (x : Index), s.index? u.entry.handleA = some x → x.plot = none →
       let n := u.entry.arg0.toNat
       let set := fun (f : Version → Version) => s.modIndex u.entry.handleA fun x =>
         { x with versions := updWhere (fun v => v.number == n) f x.versions }
       let off := fun (v : Version) => { v with pinned := false, retiredAt := if v.pinned = true ∧ v.number ≠ x.current then some sid else v.retiredAt }
       (∀ v, Begins s sid 0x18 u → 1 ≤ n → n ≤ x.current → x.version? n = some v → (v.pinned = true ∨ (x.versions.filter (·.pinned)).length < 16) →
         exec (.pinVersion sid) s = .next ((set fun v => { v with pinned := true, retiredAt := none }).finish sid (okResult u 0 0)))
       ∧ (∀ v, Begins s sid 0x18 u → 1 ≤ n → n ≤ x.current → x.version? n = some v → v.pinned = false → 16 ≤ (x.versions.filter (·.pinned)).length →
         exec (.pinVersion sid) s = .next (s.finish sid { status := .noResource }))
       ∧ (∀ v, Begins s sid 0x19 u → 1 ≤ n → n ≤ x.current → x.version? n = some v →
         exec (.unpinVersion sid) s = .next (((set off).finish sid (okResult u 0 0)).sweepVersions u.entry.handleA))
       ∧ (1 ≤ n → n ≤ x.current → x.version? n = none →
         (Begins s sid 0x18 u → exec (.pinVersion sid) s = .next (s.finish sid { status := .versionGone }))
         ∧ (Begins s sid 0x19 u → exec (.unpinVersion sid) s = .next (s.finish sid { status := .versionGone })))
       ∧ (n = 0 ∨ x.current < n →
         (Begins s sid 0x18 u → exec (.pinVersion sid) s = .next (s.finish sid { status := .badField }))
         ∧ (Begins s sid 0x19 u → exec (.unpinVersion sid) s = .next (s.finish sid { status := .badField }))))
  ∧ (∀ (s : State) (x : Index), s.index? x.handle = some x → x.plot = none → (∀ y ∈ s.idx.list, y.index = x.index ∨ y.handle = x.handle → y = x) →
       (∀ n v, x.version? n = some v → s.retained x v = true → Ignores (.versionRetire x.handle n) s)
       ∧ (∀ n v, x.version? n = some v → s.retained x v = false → Gives (.versionRetire x.handle n) s fun t =>
           ∃ y, t.index? x.handle = some y ∧ y.versions = x.versions.filter (fun v => !(v.number == n))
             ∧ (∀ g ∈ x.segments, (∃ k, g.number = some k ∧ ∃ v ∈ y.versions, v.segments.contains k = true) → g ∈ y.segments)
             ∧ (∀ g ∈ x.segments, g.committed = false → g ∈ y.segments))
       ∧ (∀ sid u r, Begins s sid 0x12 u → u.entry.handleA = x.handle → x.releasedAt = some r → s.commitBefore x.handle r = false →
           (∀ v ∈ x.versions, s.jobOnVersion x v.number = false) →
           Gives (.deleteIndex sid) s fun t => t.index? x.handle = none ∧ EndsWith t sid u (okResult u 0 0)
             ∧ (∀ h v, h ≠ x.handle → s.index? h = some v → t.index? h = some v)))

/-- A package of a GENERATOR whose KV_BYTES is not 2 × KV_HEADS × HEAD_DIM × the bytes of an element of KV_FMT fails to load
with BAD_FIELD (R134). -/
def Obligations.KvBytesMustMatch : Prop :=
  ∀ (s : State) (sid : Nat) (u : Sub) (p : Package), Waits s sid 0x20 u → (u.readB (some p.header)).isSome = true →
    (parseImageHeader p.header).cls = clsGen →
    (∀ n, kvElemBytes (parseImageHeader p.header).kvFmt = some n →
      (parseImageHeader p.header).kvBytes ≠ 2 * (parseImageHeader p.header).kvHeads * (parseImageHeader p.header).headDim * n) →
    exec (.loadImage sid (some p)) s = .next (s.finish sid { status := .badField })

/-- A HANDOFF request with TOKEN_BUDGET above the generator's MAX_SEQ completes with BAD_FIELD, and so does an ANSWER request
with TOKEN_BUDGET + MAX_NEW above it (R146). -/
def Obligations.TokenBudgets : Prop :=
  ∀ (s : State) (sid : Nat) (u : Sub) (block : Option Buf) (buf query : Buf) (im : Image), s.sub? sid = some u → u.entry.opcode = 0x10 →
    u.due = none → u.running = true → (∀ r ∈ s.ans.reqs, r.sid ≠ sid) → u.readB block = some buf →
    let b := parseAnswer buf
    s.modelImage b.genModel = some im →
    (b.mode = modeHandoff ∧ im.header.maxSeq < b.tokenBudget) ∨ (b.mode = modeAnswer ∧ im.header.maxSeq < b.tokenBudget + b.maxNew) →
    exec (.answerBlockRead sid block (some query)) s = .next (s.finish sid { status := .badField })

/-- ANSWER starts its request, and ANSWER_BLOCK_READ decides it: it ends with the first status of R320 that applies, or
INFEASIBLE when a deadline could not be kept, or is admitted: with its place in the list, its pages, its passes reserved on
every channel that holds records of its version. -/
def Obligations.AnswerAdmission : Prop :=
  (∀ (s : State) (sid : Nat) (u : Sub), Waits s sid 0x10 u → exec (.answer sid) s = .next (s.start sid))
  ∧ (∀ (s : State) (sid : Nat) (u : Sub) (block query : Buf) (x : Index), s.sub? sid = some u → u.entry.opcode = 0x10 →
    u.due = none → u.running = true → u.preset = [] → (∀ r ∈ s.ans.reqs, r.sid ≠ sid) → u.inSlot = false →
    let b := parseAnswer (Buf.slice block 0 u.entry.length.toNat)
    s.reqIndex sid b.indexHandle = some x →
    let v := (x.version? (s.reqVersion x sid b)).getD { number := 0 }
    let r := s.newReq u b query x v
    let done := exec (.answerBlockRead sid (some block) (some query)) s
    (∀ st l, s.answerErrs u b query = st :: l → done = .next (s.finish sid { status := firstStatus (st :: l) }))
    ∧ (s.answerErrs u b query = [] → s.feasible r u.takeoverPs = false → done = .next (s.finish sid { status := .infeasible }))
    ∧ (s.answerErrs u b query = [] → s.feasible r u.takeoverPs = true → Gives (.answerBlockRead sid (some block) (some query)) s fun t =>
        t.ans.reqs = s.ans.reqs ++ [r] ∧ t.sasel = s.sasel
        ∧ t.ans.reservations.map (fun e => (e.sid, e.pass, e.channels)) = s.ans.reservations.map (fun e => (e.sid, e.pass, e.channels))
            ++ (List.range (b.widenMax + 1)).map (fun i => (sid, i, holding (x.allRecs v)))
        ∧ (∀ m im, s.model? b.genModel = some m → s.modelImage b.genModel = some im →
          (∀ n ∈ (s.freePages m).take (s.kvNeed b), ∃ e ∈ t.tiers.homes, e.objId = kvObj m n) ∧ r.pages = (s.freePages m).take (s.kvNeed b))
        ∧ (∃ k ∈ t.ans.batches, sid ∈ k.members)
        ∧ (b.mode = modeHandoff → t.hp.exports = s.hp.exports ++ [sid])))
  ∧ (∀ (s : State) (id : Nat), exec (.batchClose id) s = .next { s with ans := { s.ans with
      batches := s.ans.batches.map fun k => if k.id = id then { k with isOpen := false } else k } })

/-- EMBED_COMPLETE quantises a member's vector, forms its sketch and leaves it at the probe; PROBE_COMPLETE fixes the probe list
of a member and begins pass 0, and pins the centroid table and the version directory while it reads them; while either is
being fetched, or cannot be pinned, nothing happens yet. Every quantised value is in −128 to 127 (R59, R69, R70, R167).
SIEVE_PASS_START runs on a served, idle channel the pass that comes next there, for the members that stand at it;
SIEVE_PASS_END reads the records by the ladder, adds the channel's contribution to each member and frees the channel. A
contribution holds at most min(N_EXACT, 1,024) entries, nearest first, each live, undamaged and passing the filter (R73,
R75, R79, R81, R238). -/
def Obligations.ScanPath : Prop :=
  ((∀ (s : State) (id sid : Nat) (b : Batch) (r : Req) (x : Index) (im : Image),
     s.ans.batches.find? (fun b => b.id == id && !b.isOpen) = some b → b.members = [sid] → s.req? sid = some r → r.stage = .embed →
     s.index? r.block.indexHandle = some x → s.modelImage r.block.embedModel = some im →
     let q := (im.embedding r.queryTokens x.params.dim).map fun v => quantise v x.params.scale
     let r' := { r with q := q, sketch := x.sketchOf q, loom := { r.loom with embed := 0 } }
     (im.damaged = false → r.stopped = false → exec (.embedComplete id) s = .next (s.setReq { r' with stage := .probe }))
     ∧ (im.damaged = true → exec (.embedComplete id) s = .next (s.toRet { r' with status := some .damaged, merged := [] })))
   ∧ (∀ (s : State) (id sid : Nat) (b : Batch) (r : Req) (x : Index),
     s.ans.batches.find? (fun b => b.id == id) = some b → b.members = [sid] → s.req? sid = some r → r.stage = .probe →
     s.index? r.block.indexHandle = some x →
     let s1 := s.pin x.tableObj
     let s2 := s1.pin (x.dirObj r.version)
     let r' := { r with probes := (x.probeList r.q).take (r.block.nprobe * 2 ^ r.block.widenMax), loom := { r.loom with probe := 0 } }
     (s.staging x.tableObj = false → s.staging (x.dirObj r.version) = false → s.pinnable x.tableObj = true →
       s1.pinnable (x.dirObj r.version) = true → s2.index? r.block.indexHandle = some x → x.tableDamaged = false → r.stopped = false →
       exec (.probeComplete id) s = .next (((((s2.setReq r').narrowPasses r').startPass r' 0).unpin (x.dirObj r.version)).unpin x.tableObj))
     ∧ (s.staging x.tableObj = true ∨ s.staging (x.dirObj r.version) = true ∨ s.pinnable x.tableObj = false →
       Ignores (.probeComplete id) s))
   ∧ (∀ e s : W32, -128 ≤ quantise e s ∧ quantise e s ≤ 127)
   ∧ (∀ (x : Index) (q : List Int), (x.probeList q).Perm (List.range x.params.partitions)))
  ∧ ((∀ (s : State) (c : Nat) (v : Reservation), s.channelServed c = true → (∀ k ∈ s.ans.sieves, k.channel ≠ c) →
       s.pickPass [] (s.headsOn c) = some v →
       let standing := ((s.passGroup v).filter fun r => decide (r.stage = .scan ∧ r.pass = v.pass)).map (·.sid)
       exec (.sievePassStart c) s = .next { s with ans := { s.ans with
         sieves := s.ans.sieves ++ [{ channel := c, pass := v.pass, members := standing }] } })
     ∧ (∀ (s : State) (c sid : Nat) (media : Media) (v : SieveRun) (r : Req), s.ans.sieves.find? (fun v => v.channel == c) = some v →
       v.members = [sid] →
       let reads := nub ((s.ans.reqs.filter fun q => v.members.contains q.sid && decide (q.stage = .scan) && q.pass == v.pass).flatMap
         fun q => s.sieveReads q v.pass c)
       let s1 := s.readRuns media reads
       s1.req? sid = some r → r.stage = .scan → r.pass = v.pass → Gives (.sievePassEnd c media) s fun t =>
         (∀ k ∈ t.ans.sieves, k.channel ≠ c)
         ∧ t.req? sid = some { r with contribs := r.contribs ++ [s1.contribution r v.pass c] }
         ∧ (∀ k ∈ t.ans.reservations, ¬ (k.sid = sid ∧ k.pass = v.pass ∧ c ∈ k.channels))
         ∧ t = { s1 with ans := { s1.ans with sieves := t.ans.sieves, reservations := t.ans.reservations, reqs := t.ans.reqs } })
     ∧ (∀ (s : State) (r : Req) (i c : Nat), (s.contribution r i c).list.length ≤ min r.block.nExact 1024
         ∧ (s.contribution r i c).list.Pairwise (fun a b => a.nearer b = true)
         ∧ ∀ x v, s.reqData r = some (x, v) → ∀ d ∈ (s.contribution r i c).list, s.sliceDamaged x d.slice = false
             ∧ v.tombs.contains (d.slice, d.ordinal) = false))

/-- MERGE_COMPLETE acts once every marker is there: with K matches the scan ends; with fewer it widens, until every partition is
used (EXHAUSTED) or WIDEN_MAX is reached (SHORT) (R79, R82).
EXACT_COMPLETE, FETCH_COMPLETE, RERANK_COMPLETE and PACK_COMPLETE: candidates are ranked by exact score; passages are read
one after the other, and those that cannot be delivered are lost and set CP_FETCH; re-rank scores become final, with lost
passages after; the prompt is packed (R38, R39, R50, R83, R238). -/
def Obligations.RankPath : Prop :=
  (∀ (s : State) (sid : Nat) (r : Req) (x : Index), s.req? sid = some r → r.stage = .scan → s.index? r.block.indexHandle = some x →
     let r1 := s.dropDamaged r
     let m := r1.merge.map fun c => { c with final := fpOfInt c.dist, scoreStage := 0 }
     let free := s.releasePasses fun v => v.sid == sid
     let ends := fun k => exec (.mergeComplete sid) s = .next (free.toExact { r1 with merged := m, countState := k, scanDone := true })
     (s.markersIn r = false → Ignores (.mergeComplete sid) s)
     ∧ (s.markersIn r = true → r.status = none →
         (r.block.k ≤ m.length → ends 0)
         ∧ (m.length < r.block.k → r.block.nprobe * 2 ^ r.pass = x.params.partitions → ends 1)
         ∧ (m.length < r.block.k → r.block.nprobe * 2 ^ r.pass ≠ x.params.partitions → r.pass = r.block.widenMax → ends 2)
         ∧ (m.length < r.block.k → r.block.nprobe * 2 ^ r.pass ≠ x.params.partitions → r.pass ≠ r.block.widenMax →
             exec (.mergeComplete sid) s = .next
               ((s.releasePasses fun v => v.sid == sid && v.pass == r.pass).startPass { r1 with merged := m } (r.pass + 1)))))
  ∧ (∀ (s : State) (sid : Nat) (r : Req) (media : Media), s.req? sid = some r →
       (∀ x, r.stage = .exact → r.awaiting = [] →
         let s1 := s.readRuns media (s.vectorReads r r.merged)
         s1.index? r.block.indexHandle = some x →
         let r1 := s1.dropDamaged r
         let scored := r1.merged.map fun c => { c with exact := s1.scoreOf r1 c, final := s1.scoreOf r1 c, scoreStage := 1 }
         exec (.exactComplete sid media) s = .next
           (s1.toFetch { r1 with merged := sortBy (Cand.before (decide (x.params.metric = .l2))) scored }))
       ∧ (r.stage = .fetch → r.awaiting = [] → (∀ c ∈ r.merged, c.member = s.ownRank) →
         let q := s.readPassages media sid (r.merged.map (·.locator))
         let got := r.merged.map fun c =>
           match (q.1[r.merged.idxOf c]?).join with | some b => { c with passage := b } | none => { c with lost := true }
         exec (.fetchComplete sid media) s = .next (q.2.toRerank { r with merged := got, cpFetch := r.cpFetch || got.any (·.lost) }))
       ∧ (∀ l ∈ r.merged.map (·.locator), s.passageAt sid l = none → (s.readPassage media sid l) = (none, s))
       ∧ (∀ im, r.stage = .rerank → s.modelImage r.block.rerankModel = some im → im.damaged = false →
         exec (.rerankComplete sid) s = .next (s.toPack
           (let kept := (r.merged.filter fun c => !c.lost).map fun c =>
               { c with final := im.relevance r.block.rerankTokens r.query c.passage, scoreStage := 2 }
            { r with merged := sortBy (Cand.before false) kept ++ r.merged.filter (·.lost) })))
       ∧ (r.stage = .pack →
         let t := s.templateOf r.block
         let enc := fun b => match t.2 with | some k => k.encode b | none => []
         let p := packPrompt t.1 r.block.tokenBudget (enc r.query) (r.merged.map fun c => (c, if c.lost = true then [] else enc c.passage))
         exec (.packComplete sid) s = .next (s.toGen { r with prompt := p.1, merged := p.2 })))

/-- PREFILL_LAYER_COMPLETE, HANDOFF_WRITE_ACKED and DECODE_STEP: the layer that is next counts, its rows go into the request's
pages, and in HANDOFF mode its blocks leave; a write acknowledged is one fewer; a token that is neither the end token nor
the last is added, and its row goes into the pages of the layers that append (R40, R56, R147, R149, R150).
RESULT_WRITE writes the results, the header last, and the completion is due with the first status that applies, its flags,
the number of records and the version; in HANDOFF mode not before every key-value write is acknowledged. CHEAPER_PATH takes
the stage's cheaper path only in a request with STRICT 0 and a deadline, or for a DAMAGED image; DEADLINE_EXPIRY marks the
deadline as passed (R40, R49 to R52). -/
def Obligations.GeneratePath : Prop :=
  (∀ (s : State) (sid : Nat) (r : Req) (m : Model) (im : Image), s.req? sid = some r → s.model? r.block.genModel = some m →
     s.modelImage r.block.genModel = some im → im.damaged = false → r.kvDamaged = false →
     (∀ layer, r.stage = .prefill → layer = r.layersDone → layer + 1 ≠ im.header.layers →
       let s1 := (List.range r.prompt.length).foldl (fun s t => s.putRow r m im r.prompt layer t) s
       (r.block.mode = modeHandoff → s.connOpen r.block.handoffConn = true →
         let outs := s1.exportBlocks r m im layer
         exec (.prefillLayerComplete sid layer) s = .next ((s1.emits outs).setReq
           { r with layersDone := layer + 1, unacked := r.unacked + outs.length }))
       ∧ (r.block.mode = modeHandoff → s.connOpen r.block.handoffConn = false →
         exec (.prefillLayerComplete sid layer) s = .next (s.toRet { r with status := some .notReady, merged := [] }))
       ∧ (r.block.mode ≠ modeHandoff → exec (.prefillLayerComplete sid layer) s = .next (s1.setReq { r with layersDone := layer + 1 })))
     ∧ (∀ layer, r.stage = .prefill → layer ≠ r.layersDone → Ignores (.prefillLayerComplete sid layer) s)
     ∧ exec (.handoffWriteAcked sid) s = .next (s.setReq { r with unacked := r.unacked - 1 })
     ∧ (∀ tk, r.stage = .decode → im.tokeniser = some tk →
       let seq := r.prompt ++ r.genTokens
       let t := sampleToken r.block r.genTokens.length ((List.range im.header.vocab).map (Config.logit im.digest seq))
       let text := r.genText ++ tk.bytes t
       let r' := { r with genTokens := r.genTokens ++ [t], genText := text }
       (t ≠ tk.endToken → r.block.answerOff + text.length ≤ r.block.resultLen → r.genTokens.length + 1 < r.block.maxNew →
         exec (.decodeStep sid) s = .next ((s.appendRows r' m im (seq ++ [t])).setReq r'))
       ∧ (t ≠ tk.endToken → r.block.answerOff + text.length ≤ r.block.resultLen → r.block.maxNew = r.genTokens.length + 1 →
         exec (.decodeStep sid) s = .next ((s.appendRows r' m im (seq ++ [t])).toRet r'))
       ∧ (t = tk.endToken ∨ r.block.resultLen < r.block.answerOff + text.length → exec (.decodeStep sid) s = .next (s.toRet r))))
  ∧ (∀ (s : State) (sid : Nat) (u : Sub) (r : Req), s.sub? sid = some u → s.req? sid = some r →
       (r.stage = .ret → r.unacked = 0 → Gives (.resultWrite sid) s fun t =>
         let late := !inTime (s.elapsed r.count) 0 r.block.deadlineUs
         EndsWith t sid u { status := firstStatus (r.statuses late), flags := r.flagSet
                            result0 := BitVec.ofNat 64 ((r.merged.take r.block.k).length + 2 ^ 32 * r.version) }
         ∧ t.out.head? = some (.write (s.connOf u) r.block.resultAddr r.block.resultRkey r.header)
         ∧ t.out = (s.writeResults u r).out ∧ (∃ l, t.out = l ++ s.out))
       ∧ (r.stage = .ret → r.unacked ≠ 0 → ¬ (r.block.mode = modeHandoff ∧ s.connOpen r.block.handoffConn = false) →
           Ignores (.resultWrite sid) s)
       ∧ (r.stage = .ret → r.unacked ≠ 0 → r.block.mode = modeHandoff → s.connOpen r.block.handoffConn = false →
           Gives (.resultWrite sid) s fun t => t.out = s.out ∧ ∃ fl, EndsWith t sid u { status := .notReady, flags := fl })
       ∧ (∀ delivered, r.block.strict = false → r.block.deadlineUs ≠ 0 →
           (r.stage = .exact → exec (.cheaperPath sid delivered) s = .next (s.toFetch
               { r with cpExact := true, awaiting := [], merged := r.merged.map fun c => { c with exact := 0 } }))
           ∧ (r.stage = .rerank → exec (.cheaperPath sid delivered) s = .next (s.toPack { r with cpRerank := true }))
           ∧ (r.stage = .prefill ∨ r.stage = .decode → exec (.cheaperPath sid delivered) s = .next (s.toRet { r with cpGen := true }))
           ∧ (r.stage = .fetch → r.block.rerankModel = 0 → r.stopped = false → exec (.cheaperPath sid delivered) s = .next (s.toPack
               { r with cpFetch := true, awaiting := [], merged := r.merged.map (s.cutFetch r delivered) }))
           ∧ (r.stage = .probe → exec (.deadlineExpiry sid) s = .next (s.setReq { r with missed := true })))
       ∧ (r.block.deadlineUs ≠ 0 → r.block.strict = true → exec (.deadlineExpiry sid) s = .next (s.setReq { r with missed := true }))
       ∧ (r.block.deadlineUs = 0 → Ignores (.deadlineExpiry sid) s)
       ∧ (∀ delivered, r.block.strict = true → r.stage = .exact ∨ r.stage = .fetch → Ignores (.cheaperPath sid delivered) s))

/-- CREATE_TABLE: a descriptor in order takes the lowest free index of 256, every other rank is told, RESULT0 is the handle;
with none free NO_RESOURCE. DELETE_TABLE: with a graft job on it NO_RESOURCE; with a job on one of its versions the same;
else it goes with its versions and grants, and its index is reissued with the next generation (R185).
A rank's report counts for an old version and for the current one, and is dropped for a later one; a checkpoint keeps the
bytes of the blocks of this rank's shards whose home is in HBM, asks peers for those homed there, and completes OK, or with
MEDIA_ERROR when a write of it fails; the restoration of a table runs once, after FLASHMAP is set (R205, R206).
LOAD_TABLE_ROWS loads only the version after the current one, with room and its channels in service, and answers the rows
loaded, with MEDIA_ERROR at the one that fails; the rows of a block go into its bytes; PUBLISH_TABLE and the votes: the
coordinator commits when every rank has voted YES and aborts on one NO or the timeout; a rank applies the decision, once, to
the version after its current one, and confirms a commit (R202 to R205). -/
def Obligations.TablesLife : Prop :=
  ((∀ (s : State) (sid i : Nat) (u : Sub) (b : Option Buf) (buf : Buf), Begins s sid 0x30 u → u.readB b = some buf →
     let t : Table := { index := i, gen := genFor s.tables.gens i, desc := parseTableDesc buf, creator := u.client, keepers := s.ranks }
     ((parseTableDesc buf).ok = true → u.entry.length.toNat = 64 → lowestFree (s.tables.list.map (·.index)) 256 = some i →
       exec (.createTable sid b) s = .next (((s.modTables fun x => { x with list := x.list ++ [t] }).sendAll .newTable ([i, t.gen, u.client] ++ buf.map (·.toNat))).finish sid
         (okResult u (BitVec.ofNat 64 t.handle.toNat) 0)))
     ∧ ((parseTableDesc buf).ok = false ∨ u.entry.length.toNat ≠ 64 → exec (.createTable sid b) s = .next (s.finish sid { status := .badField }))
     ∧ ((parseTableDesc buf).ok = true → u.entry.length.toNat = 64 → lowestFree (s.tables.list.map (·.index)) 256 = none →
         exec (.createTable sid b) s = .next (s.finish sid { status := .noResource })))
   ∧ (∀ (s : State) (sid : Nat) (u : Sub), s.table? u.entry.handleA = none →
       let stale : Host.Outcome State Fault Refusal := .next (s.finish sid { status := .staleHandle })
       (Begins s sid 0x31 u → exec (.deleteTable sid) s = stale) ∧ (Begins s sid 0x36 u → exec (.publishTable sid) s = stale)
       ∧ (∀ ok p, Begins s sid 0x37 u → exec (.checkpointTable sid ok p) s = stale)
       ∧ (∀ b f, Begins s sid 0x35 u → (u.readB b).isSome = true → exec (.loadTableRows sid b f) s = stale))
   ∧ (∀ (s : State) (sid : Nat) (u : Sub) (t : Table), Begins s sid 0x31 u → s.table? u.entry.handleA = some t →
     (s.graftOn t.handle = true → exec (.deleteTable sid) s = .next (s.finish sid { status := .noResource }))
     ∧ (∀ v ∈ t.versions, s.tableJob t v.number = true → exec (.deleteTable sid) s = .next (s.finish sid { status := .noResource }))
     ∧ (s.graftOn t.handle = false → (∀ v ∈ t.versions, s.tableJob t v.number = false) →
       exec (.deleteTable sid) s = .next (((s.removeTable t).sendAll .dropTable [t.index]).finish sid (okResult u 0 0))))
   ∧ (∀ (s : State) (t : Table), (s.removeTable t).tables.list = s.tables.list.filter (fun y => !(y.index == t.index))
       ∧ (s.removeTable t).tables.gens = bumpGen s.tables.gens t.index
       ∧ ∀ g ∈ (s.removeTable t).sasel.grants, g.1 ≠ t.handle))
  ∧ ((∀ (s : State) (rank i n : Nat) (t : Table), s.tableAt i = some t →
       (t.current < n → Ignores (.tableVersionFree rank false i n) s)
       ∧ (n ≤ t.current → exec (.tableVersionFree rank false i n) s = .next
           ((s.modTable i fun t => t.modVersion n fun v =>
             { v with freeReports := if v.freeReports.contains rank = true then v.freeReports else v.freeReports ++ [rank] }).settleOld i)))
     ∧ (∀ (s : State) (sid : Nat) (u : Sub) (t : Table) (peers : List (Nat × Buf)), Begins s sid 0x37 u → s.table? u.entry.handleA = some t →
       (t.desc.sharded = false → exec (.checkpointTable sid true peers) s = .next (s.finish sid (okResult u 0 0)))
       ∧ (let homes := s.hbmBlocks t t.current
          let obj := fun (h : Home) => tableCkptObj t.index t.current (blockOfObj h.objId)
          let room := s.capacityFor (some sid) ((homes.flatMap fun h => s.freshExtents (obj h) true [0]).map (·.1))
          (room = false → ∀ ok, exec (.checkpointTable sid ok peers) s = .next (s.finish sid { status := .noResource }))
          ∧ (room = true → exec (.checkpointTable sid false peers) s = .next (s.finish sid { status := .mediaError }))
          ∧ (room = true → (∃ h ∈ homes, ∃ c ∈ objectChannels (obj h) true 1, s.channelOut c = true) →
            exec (.checkpointTable sid true peers) s = .next (s.finish sid { status := .mediaError }))
          ∧ (room = true → (∀ h ∈ homes, ∀ c ∈ objectChannels (obj h) true 1, s.channelOut c = false) →
          ((∀ h ∈ homes, h.tier = .hbm ∧ h.pinnable = true) → exec (.checkpointTable sid true peers) s = .next
            ((homes.foldl (fun x h => x.checkpointBlock t.index t.current (blockOfObj h.objId) (s.homeBytes h.objId)) s).finish sid (okResult u 0 0)))
          ∧ (∀ h ∈ homes, h.tier = .peer → assocGet (blockOfObj h.objId) peers = none →
            exec (.checkpointTable sid true peers) s = .next (s.askBlocks homes peers)))))
     ∧ (∀ (s : State) (i : Nat), (s.isReady bitFlashmap = false ∨ i ∉ s.tables.toRestore → Ignores (.tableRestore i) s)
       ∧ (s.isReady bitFlashmap = true → i ∈ s.tables.toRestore → Gives (.tableRestore i) s fun x => i ∉ x.tables.toRestore
           ∧ ∀ t y, s.tableAt i = some t → x.tableAt i = some y → ∀ e ∈ y.exceptions, t.keeper e.1 ≠ s.ownRank))
     ∧ (∀ (s : State) (rank i n : Nat), s.tableAt i = none → Ignores (.tableVersionFree rank false i n) s))
  ∧ ((∀ (s : State) (sid : Nat) (u : Sub) (b : Option Buf) (buf : Buf) (t : Table), Begins s sid 0x35 u → u.readB b = some buf →
       s.table? u.entry.handleA = some t →
       let n := u.entry.arg2.toNat
       let first := u.entry.arg3.toNat
       let count := u.entry.length.toNat / t.desc.rowBytes
       let blocks := s.blocksHere t first count
       (n ≠ t.current + 1 ∨ u.entry.length.toNat % t.desc.rowBytes ≠ 0 ∨ t.desc.rows < first + count →
           ∀ f, exec (.loadTableRows sid b f) s = .next (s.finish sid { status := .badField }))
       ∧ (n = t.current + 1 → u.entry.length.toNat % t.desc.rowBytes = 0 → first + count ≤ t.desc.rows →
           (s.noStage t n (some sid) blocks = true → ∀ f, exec (.loadTableRows sid b f) s = .next (s.finish sid { status := .noResource }))
           ∧ (s.noStage t n (some sid) blocks = false →
             ((∃ x ∈ s.blockExtents t n blocks, s.channelOut x.1 = true) →
               exec (.loadTableRows sid b none) s = .next (s.finish sid { status := .mediaError }))
             ∧ ((∀ x ∈ s.blockExtents t n blocks, s.channelOut x.1 = false) →
               Gives (.loadTableRows sid b none) s fun x => EndsWith x sid u (okResult u (BitVec.ofNat 64 count) 0))
             ∧ (∀ k, k < count → Gives (.loadTableRows sid b (some k)) s fun x => EndsWith x sid u
                 { status := .mediaError, flags := { writeThrottled := u.throttled }, result0 := BitVec.ofNat 64 k }))))
     ∧ (∀ (s : State) (t : Table) (n : Nat) (v : TableVersion) (run : Nat × Nat × Buf), s.tableAt t.index = some t → t.version? n = some v →
         let block := overlay ((assocGet run.1 v.loaded).getD []) (t.desc.byteOf run.2.1) run.2.2
         (s.loadRun t.index n run).tableAt t.index = some (t.modVersion n fun v => { v with loaded := assocSet run.1 block v.loaded }))
     ∧ (∀ (s : State) (sid : Nat) (u : Sub) (t : Table), Begins s sid 0x36 u → s.table? u.entry.handleA = some t →
       let n := t.current + 1
       (t.version? n = none → exec (.publishTable sid) s = .next (s.finish sid { status := .badField }))
       ∧ ((t.version? n).isSome = true → t.publish.isSome = true → exec (.publishTable sid) s = .next (s.finish sid { status := .noResource }))
       ∧ ((t.version? n).isSome = true → t.publish = none →
           let r := (((s.start sid).modTable t.index fun t => { t with publish := some { sid := sid, version := n } }).sendAll .tablePrepare
             [t.index, n]).castVote t.index n s.ownRank
           exec (.publishTable sid) s = .next (r.2.countVote t.index n s.ownRank r.1)))
     ∧ (∀ (s : State) (rank i n : Nat), (∀ p, (s.tableAt i).bind (·.publish) = some p → p.version ≠ n ∨ p.phase ≠ .preparing) →
         ∀ y, Ignores (.tableVote rank i n y) s)
     ∧ (∀ (s : State) (i : Nat), (∀ p, (s.tableAt i).bind (·.publish) = some p → p.phase ≠ .preparing) → Ignores (.tablePrepareTimeout i) s)
     ∧ (∀ (s : State) (i : Nat) (t : Table) (p : Publish), s.tableAt i = some t → t.publish = some p → p.phase = .preparing →
       (∀ rank, exec (.tableVote rank i p.version false) s = .next (s.decideTable i false))
       ∧ exec (.tablePrepareTimeout i) s = .next (s.decideTable i false)
       ∧ (∀ rank, (∀ r ∈ s.ranks, r = rank ∨ r ∈ p.yes) → Gives (.tableVote rank i p.version true) s fun x =>
           ∃ y, x.tableAt i = some y ∧ y.current = p.version)
       ∧ (∀ rank r, r ∈ s.ranks → r ≠ rank → r ∉ p.yes → Gives (.tableVote rank i p.version true) s fun x =>
           ∃ y, x.tableAt i = some y ∧ y.current = t.current ∧ y.publish = some { p with yes := if p.yes.contains rank = true then p.yes else p.yes ++ [rank] }))
     ∧ (∀ (s : State) (rank i n : Nat), (s.tableAt i).isSome = true → rank ≠ s.ownRank →
         exec (.tablePrepare rank i n) s = .next ((s.castVote i n rank).2.sendMsg rank .tableVote [i, n, (s.castVote i n rank).1.toNat]))
     ∧ (∀ (s : State) (rank i n : Nat), s.tableAt i = none ∨ rank = s.ownRank → Ignores (.tablePrepare rank i n) s)
     ∧ (∀ (s : State) (i n rank : Nat), (s.castVote i n rank).1 = (s.copyTable i n).votesYes i n)
     ∧ (∀ (s : State) (i n : Nat), (s.tableAt i).bind (·.version? n) = none → ∀ c, Ignores (.tableDecision i n c) s)
     ∧ (∀ (s : State) (i n : Nat) (t : Table) (v : TableVersion), s.tableAt i = some t → t.version? n = some v →
       (v.pubSeq.isSome = true ∨ n ≠ t.current + 1 ∨ t.publish.isSome = true → ∀ c, Ignores (.tableDecision i n c) s)
       ∧ (∀ r, v.pubSeq = none → n = t.current + 1 → t.publish = none → v.votedFor = some r →
           exec (.tableDecision i n true) s = .next ((s.applyTable i n true).sendMsg r .tableConfirm [i, n])
           ∧ exec (.tableDecision i n false) s = .next (s.applyTable i n false))
       ∧ (v.pubSeq = none → n = t.current + 1 → t.publish = none → v.votedFor = none → ∀ c, exec (.tableDecision i n c) s = .next (s.applyTable i n c)))
     ∧ (∀ (s : State) (i : Nat) (t : Table) (v : TableVersion), s.tableAt i = some t → t.versions = [v] →
       (∀ r, v.votedFor = some r → r ≠ s.ownRank →
         exec (.decisionQueryTimer false i) s = .next (s.sendMsg r .decisionQuery [0, i, v.number]))
       ∧ (v.votedFor = none ∨ v.votedFor = some s.ownRank → Ignores (.decisionQueryTimer false i) s))
     ∧ (∀ (s : State) (rank i : Nat) (t : Table) (p : Publish), s.tableAt i = some t → t.publish = some p → p.phase = .committed →
       (∀ n, n ≠ p.version → Ignores (.commitConfirm rank false i n) s)
       ∧ exec (.commitConfirm rank false i p.version) s = .next
         ((s.modTable i fun t => { t with publish := some { p with confirmed := if p.confirmed.contains rank = true then p.confirmed else p.confirmed ++ [rank] } }).settlePublish i)))

/-- TABLE_LOOKUP begins on the version and map it was bound to at its accept event: rows served here are taken at once, those of
a server go to it as a sub-lookup; a sub-lookup of another rank is answered with its partials, or, where its blocks have
moved away, waits for their rows, and waits under a map that has not arrived; a reply adds its partials, one that nothing
awaits is counted; the result is written only when nothing is awaited, and the status names lost servers before DAMAGED
blocks (R191 to R196, R200). -/
def Obligations.TableLookups : Prop :=
  (∀ (s : State) (sid : Nat) (u : Sub) (b : Option Buf) (buf : Buf) (media : Media) (t : Table) (k : LookupBound), Begins s sid 0x32 u →
    u.readB b = some buf → s.table? u.entry.handleA = some t → s.tableAt t.index = some t → u.bound = some k →
    let es := parseLookups buf u.entry.length.toNat
    let bags := u.entry.arg2.toNat / 2 ^ 32 + 1
    let own := s.ownRank
    s.lookupErrs u t es bags (u.entry.arg2.toNat % 2 ^ 32) = [] →
    let q : SubLookup := { rank := own, sid := sid, version := k.version, mapVersion := k.mapVersion, entries := es }
    let l := fun (r : Nat) => ({ sid := sid, table := t.index, version := k.version, mapVersion := k.mapVersion, bags := bags, entries := es
                                 awaiting := [r], sent := [(r, nub (es.map (·.bag)))] } : Lookup)
    let begun := fun r => (s.start sid).modTables fun x => { x with lookups := x.lookups ++ [l r] }
    ((∀ e ∈ es, k.server t own e.row = own) → (∀ e ∈ es, s.movedTo t k.version (t.desc.blockOf e.row) = none) → s.canServe t q = true →
      exec (.tableLookup sid b media) s = .next ((begun own).serveSub t q [] media))
    ∧ (∀ r, r ≠ own → (∀ e ∈ es, k.server t own e.row = r) → t.desc.hotWindow = 0 →
      exec (.tableLookup sid b media) s = .next ((begun r).askServer (l r) r es))
    ∧ (t.desc.sharded = false → (∀ x ∈ s.tables.lookups, x.sid ≠ sid) →
      let p := s.partialsFor t k.version own es []
      Gives (.tableLookup sid b media) s fun x => x.tables.lookups = s.tables.lookups ++
        [{ l own with awaiting := [], partials := [p], damagedBags := p.failed }]))
  ∧ (∀ (s : State) (rank sid table version mapVersion : Nat) (es : List LookupEntry) (media : Media) (t : Table), s.tableAt table = some t →
    let q : SubLookup := { rank := rank, sid := sid, version := version, mapVersion := mapVersion, entries := es }
    let c := Instr.subLookup rank sid table version mapVersion es media
    (t.serves version = false ∨ (t.desc.sharded = true ∧ t.mapVersion < mapVersion) → Ignores c s)
    ∧ (t.serves version = true → t.desc.sharded = false ∨ mapVersion ≤ t.mapVersion →
      ((t.desc.sharded = false ∨ ∀ e ∈ es, s.movedTo t version (t.desc.blockOf e.row) = none) → s.canServe t q = true →
        exec c s = .next (s.serveSub t q [] media))
      ∧ (t.desc.sharded = false → rank ≠ s.ownRank → exec c s = .next (s.sendPartials rank sid (s.partialsFor t version s.ownRank es [])))
      ∧ (∀ r, t.desc.sharded = true → es ≠ [] → (∀ e ∈ es, s.movedTo t version (t.desc.blockOf e.row) = some r) →
        exec c s = .next ((s.modTable table fun t => { t with held := t.held ++ [q] }).sendMsg r .readRows
          ([sid, table, version] ++ es.map (·.row))))))
  ∧ (∀ (s : State) (sid : Nat) (p : Partials),
    ((∀ l ∈ s.tables.lookups, l.sid = sid → p.rank ∉ l.awaiting) →
      exec (.subLookupReply sid p) s = .next (s.modFabric fun f => { f with lateReplies := satInc f.lateReplies }))
    ∧ (∀ l, s.tables.lookups.find? (fun l => l.sid == sid && l.awaiting.contains p.rank) = some l → (∀ k ∈ s.tables.lookups, k.sid = sid → k = l) →
      Gives (.subLookupReply sid p) s fun x => x.tables.lookups.find? (fun l => l.sid == sid) = some
        { l with awaiting := l.awaiting.filter (· != p.rank), partials := l.partials ++ [p], damagedBags := l.damagedBags ++ p.failed }))
  ∧ (∀ (s : State) (sid : Nat) (u : Sub) (l : Lookup) (t : Table) (ok : Bool), s.tables.lookups.find? (fun l => l.sid == sid) = some l →
    s.sub? sid = some u → s.tableAt l.table = some t →
    (l.awaiting ≠ [] → Ignores (.lookupResultWrite sid ok) s)
    ∧ (l.awaiting = [] → u.due = none → Gives (.lookupResultWrite sid true) s fun x =>
        EndsWith x sid u { status := if l.lostBags ≠ [] then .notReady else if l.damagedBags ≠ [] then .damaged else .ok
                           result0 := BitVec.ofNat 64 l.failed }
        ∧ (∀ k ∈ x.tables.lookups, k.sid ≠ sid)))

/-- The result of a bag does not depend on the order in which the partials arrive: they are added in ascending order of the
serving rank (R193).
The sum of an element does not depend on the order in which the group partials arrive: it adds them in ascending group order
(R218); and a hop leaves every mantissa within ±127 (R216); a partial in range is read as it was written (R217). -/
def Obligations.OrderDoesNotMatter : Prop :=
  (∀ (l : Lookup) (ps : List Partials) (dim b : Nat), l.partials.Perm ps → (l.partials.map (·.rank)).Nodup →
     Lookup.bag { l with partials := ps } dim b = l.bag dim b)
  ∧ ((∀ (a b : List ChainPartial) (k : Nat), a.Perm b → (a.map (·.group)).Nodup → sumElement a k = sumElement b k)
     ∧ (∀ (q : List Int) (e : Int) (signs : List Bool) (m : W16), (∀ x ∈ q, x.natAbs ≤ 127) → -128 ≤ e → e ≤ 127 →
         ∀ x ∈ (hopBlock q e signs m).1, x.natAbs ≤ 127)
     ∧ (∀ (p : ChainPartial), (∀ b ∈ p.blocks, b.1.length = 32 ∧ (∀ q ∈ b.1, -127 ≤ q ∧ q ≤ 127) ∧ -30 ≤ b.2 ∧ b.2 ≤ 127) →
         readPartial p.message = some p))

/-- UPDATE_ROWS writes each row at its block's home, or sends it to its block's server; a row update of another rank is applied
and answered at the home, kept until the copy of its block is valid here, forwarded where the block has gone, or refused for
its version or a DAMAGED block; a stub forwards an update, and answers a redirected sub-lookup once the rows it lacks are
there (R197, R199, R200).
MIGRATE_BLOCK starts a migration, or completes at once where the block is served there already; a flip raises MAP_VERSION by
1 and moves the block's service; a stub goes when every rank has acknowledged its map (R189, R190, R198 to R201). -/
def Obligations.RowsMove : Prop :=
  ((∀ (s : State) (sid : Nat) (u : Sub) (b : Option Buf) (buf : Buf) (t : Table) (ups : List RowUpd), Begins s sid 0x33 u →
     u.readB b = some buf → s.table? u.entry.handleA = some t → t.desc.sharded = true →
     parseUpdates t.desc u.entry.length.toNat buf = some ups → s.isReady bitTables = true →
     let n := u.entry.arg2.toNat
     let own := s.ownRank
     let server := fun (x : RowUpd) => t.server (t.desc.blockOf x.row)
     let begun := fun (k : Nat) (away : List (Nat × Nat)) => (s.start sid).modTables fun x => { x with updates := x.updates ++
       [{ sid := sid, table := t.index, mapVersion := t.mapVersion, awaiting := k, away := away }] }
     (n ≠ 0 → n = t.current → (∀ x ∈ ups, server x = own) → exec (.updateRows sid b) s = .next
       ((ups.foldl (fun s x => s.writeHome (t.write n x own sid) own) (begun ups.length [])).closeUpdates sid))
     ∧ (n ≠ 0 → n = t.current → (∀ x ∈ ups, server x ≠ own) → exec (.updateRows sid b) s = .next
       ((ups.foldl (fun s x => s.sendUpdate (server x) own sid t.index n x.row x.replace x.payload)
         (begun 0 (ups.map fun x => (x.row, server x)))).closeUpdates sid))
     ∧ (n = 0 ∨ t.current < n → exec (.updateRows sid b) s = .next (s.finish sid { status := .badField }))
     ∧ (1 ≤ n → n < t.current → exec (.updateRows sid b) s = .next (s.finish sid { status := .versionGone })))
   ∧ (∀ (s : State) (rank sid table version row : Nat) (rep : Bool) (bytes : Buf) (t : Table), s.tableAt table = some t → t.desc.sharded = true →
     row < t.desc.rows →
     let b := t.desc.blockOf row
     let own := s.ownRank
     let w := t.write version { row := row, replace := rep, payload := bytes } rank sid
     let done := fun (x : State) (st : Status) => x.sendMsg rank .updateDone [sid, t.index, row, st.code]
     let arriving := t.arrivals.any fun a => a.version == version && a.block == b
     let c := Instr.rowUpdateMessage rank sid table version row rep bytes
     (version ≠ t.current → rank ≠ own → exec c s = .next (done s .versionGone))
     ∧ (version = t.current → arriving = true → exec c s = .next (s.modTiers fun x => { x with writes := x.writes ++ [w] }))
     ∧ (version = t.current → arriving = false → ∀ r, s.movedTo t version b = some r →
         exec c s = .next (s.sendUpdate r rank sid t.index version row rep bytes))
     ∧ (version = t.current → arriving = false → s.movedTo t version b = none →
         (∀ h, s.home? w.objId = some h → rank ≠ own →
           (h.inMotion = true → exec c s = .next (s.modTiers fun x => { x with writes := x.writes ++ [w] }))
           ∧ (h.inMotion = false → h.damaged = true → exec c s = .next (done s .damaged))
           ∧ (h.inMotion = false → h.damaged = false → h.tier = .hbm → exec c s = .next (done (s.modTiers fun x =>
               { x with bytes := assocSet w.objId (overlay (s.homeBytes w.objId) w.offset (w.value (s.homeBytes w.objId))) x.bytes }) .ok)))
         ∧ (s.home? w.objId = none → t.server b ≠ own → exec c s = .next (s.sendUpdate (t.server b) rank sid t.index version row rep bytes))
         ∧ (s.home? w.objId = none → t.server b = own → rank ≠ own → exec c s = .next (done s .damaged)))
     ∧ (∀ r media, s.movedTo t version b = some r → version = t.current →
         exec (.stubForward table b (.update rank sid version row rep bytes) media) s = .next (s.sendUpdate r rank sid table version row rep bytes)))
   ∧ (∀ (s : State) (table block rank sid : Nat) (rows : List (Nat × Option Buf)) (media : Media) (t : Table) (q : SubLookup),
     s.tableAt table = some t → t.held.find? (fun q => q.rank == rank && q.sid == sid) = some q →
     ((∀ e ∈ q.entries, (assocGet e.row rows).isSome = true) → s.canServe t q = true →
       exec (.stubForward table block (.rows rank sid rows) media) s = .next
         (((s.modTable t.index fun t => { t with held := t.held.filter (· != q) }).serveSub t q rows media).settleOld table))))
  ∧ ((∀ (s : State) (sid : Nat) (u : Sub) (t : Table) (h : Home), Begins s sid 0x34 u → s.table? u.entry.handleA = some t →
       let b := u.entry.arg0.toNat
       let d := u.entry.arg1.toNat
       t.desc.sharded = true → b < t.desc.blocks → s.ranks.contains d = true → t.keeper b = s.ownRank → s.home? (rowBlockObj t.index t.current b) = some h →
       h.damaged = false → s.migrateErrs t d = [] →
       (t.server b = d → exec (.migrateBlock sid) s = .next (s.finish sid (okResult u 0 0)))
       ∧ (t.server b ≠ d → exec (.migrateBlock sid) s = .next ((s.start sid).startMigration t b d (some sid))))
     ∧ (∀ (s : State) (table block dest addr : Nat) (bytes : Buf) (t : Table), s.tableAt table = some t → t.desc.sharded = true →
       block < t.desc.blocks →
       let moves := fun (x : State) => ∃ y, x.tableAt table = some y ∧ y.mapVersion = (t.mapVersion + 1) % 2 ^ 32 ∧ y.server block = dest
       (t.keeper block ≠ s.ownRank → t.server block ≠ dest → Gives (.migrationFlip table block dest addr bytes) s moves)
       ∧ (t.keeper block ≠ s.ownRank → t.server block = dest → Ignores (.migrationFlip table block dest addr bytes) s)
       ∧ (∀ h, t.keeper block = s.ownRank → s.home? (rowBlockObj table t.current block) = some h →
           (h.movesTo s.ownRank dest = false → Ignores (.migrationFlip table block dest addr bytes) s)
           ∧ (h.movesTo s.ownRank dest = true → Gives (.migrationFlip table block dest addr bytes) s moves)))
     ∧ (∀ (s : State) (rank table v : Nat) (t : Table), s.tableAt table = some t → Gives (.mapAcknowledge rank table v) s fun x =>
         ∃ y, x.tableAt table = some y ∧ y = { t with stubs := y.stubs }
           ∧ y.stubs = (t.stubs.map fun k => if k.mapVersion ≤ v ∧ rank ∉ k.acked then { k with acked := k.acked ++ [rank] } else k).filter
               fun k => decide (∃ r ∈ s.ranks, r ∉ k.acked)))

/-- Logs (R208, R321): CREATE_LOG takes the lowest free index; APPEND_LOG appends whole records and answers the number of the
first and how many, with MEDIA_ERROR at the one that fails, and takes none without room; TRIM_LOG discards nothing that a
job may still read; DELETE_LOG is refused while a job names the log.
Jobs (R207, R212, R213, R226, R230): CREATE_GRAFT adds a stopped job with its blocks placed and every residual +0; RUN_GRAFT
starts a stopped job at the next step, or with RESTORE at the one after its checkpoint; STOP_GRAFT of a stopped job
completes at once, of a running job waits, and stops one whose step has not begun; of a job that another rank coordinates,
STALE_HANDLE; DELETE_GRAFT is refused while the job runs, and else takes it out with its blocks. -/
def Obligations.LogsAndJobs : Prop :=
  ((∀ (s : State) (sid i : Nat) (u : Sub), Begins s sid 0x40 u →
     let n := u.entry.arg0.toNat
     let l : Log := { index := i, gen := genFor s.grafts.logGens i, recordBytes := n, creator := u.client }
     (64 ≤ n → n ≤ 4096 → n % 64 = 0 → lowestFree (s.grafts.logs.map (·.index)) 4096 = some i →
       exec (.createLog sid) s = .next (((s.modGrafts fun g => { g with logs := g.logs ++ [l] }).sendAll .newLog [i, l.gen, u.client, n]).finish sid
         (okResult u (BitVec.ofNat 64 l.handle.toNat) 0)))
     ∧ (n < 64 ∨ 4096 < n ∨ n % 64 ≠ 0 → exec (.createLog sid) s = .next (s.finish sid { status := .badField }))
     ∧ (64 ≤ n → n ≤ 4096 → n % 64 = 0 → lowestFree (s.grafts.logs.map (·.index)) 4096 = none →
       exec (.createLog sid) s = .next (s.finish sid { status := .noResource })))
   ∧ (∀ (s : State) (sid : Nat) (u : Sub), s.log? u.entry.handleA = none →
       let stale : Host.Outcome State Fault Refusal := .next (s.finish sid { status := .staleHandle })
       (∀ b f, Begins s sid 0x41 u → (u.readB b).isSome = true → exec (.appendLog sid b f) s = stale)
       ∧ (Begins s sid 0x42 u → exec (.trimLog sid) s = stale) ∧ (Begins s sid 0x43 u → exec (.deleteLog sid) s = stale))
   ∧ (∀ (s : State) (sid : Nat) (u : Sub) (l : Log), s.log? u.entry.handleA = some l → l ∈ s.grafts.logs →
     (∀ b f, Begins s sid 0x41 u → (u.readB b).isSome = true → u.entry.length.toNat % l.recordBytes ≠ 0 →
       exec (.appendLog sid b f) s = .next (s.finish sid { status := .badField }))
     ∧ (∀ b f, Begins s sid 0x41 u → (u.readB b).isSome = true → u.entry.length.toNat % l.recordBytes = 0 →
       let es := logExtents ((l.first + l.records.length) * l.recordBytes) (u.entry.length.toNat / l.recordBytes * l.recordBytes)
       let room := s.capacityFor (some sid) ((s.freshExtents (logObj l.index) false es).map (·.1))
       (room = false → exec (.appendLog sid b f) s = .next (s.finish sid { status := .noResource }))
       ∧ (room = true → f = none → (∃ e ∈ es, s.channelOut (channelOf (logObj l.index) false e) = true) →
         exec (.appendLog sid b f) s = .next (s.finish sid { status := .mediaError })))
     ∧ (∀ b buf f, Begins s sid 0x41 u → u.readB b = some buf → u.entry.length.toNat % l.recordBytes = 0 →
       let w := l.recordBytes
       let n := u.entry.length.toNat / w
       let k := match f with | some k => min k n | none => n
       let es := logExtents ((l.first + l.records.length) * w) (n * w)
       let recs := (List.range k).map fun i => Buf.slice buf (w * i) w
       s.capacityFor (some sid) ((s.freshExtents (logObj l.index) false es).map (·.1)) = true →
       f.isSome = true ∨ (∀ e ∈ es, s.channelOut (channelOf (logObj l.index) false e) = false) →
       exec (.appendLog sid b f) s = .next ((s.appendLog l recs).finish sid
           { status := if k < n then .mediaError else .ok, flags := { writeThrottled := u.throttled }
             result0 := BitVec.ofNat 64 (l.first + l.records.length), result1 := BitVec.ofNat 64 k })
       ∧ ∃ y ∈ (s.appendLog l recs).grafts.logs, y = { l with records := l.records ++ recs })
     ∧ (Begins s sid 0x42 u → (∀ k ∈ s.grafts.logs, k.index = l.index → k = l) → Gives (.trimLog sid) s fun t =>
         ∃ y, y.index = l.index ∧ y ∈ t.grafts.logs ∧ l.first ≤ y.first ∧ y.first ≤ max l.first (min u.entry.arg0.toNat (l.first + l.records.length))
           ∧ (∀ g ∈ s.grafts.list, g.desc.log = l.handle → y.first ≤ max l.first g.keepFrom)
           ∧ y.records = l.records.drop (y.first - l.first)
           ∧ EndsWith t sid u (okResult u (BitVec.ofNat 64 (y.first - l.first)) 0))
     ∧ (Begins s sid 0x43 u → (∃ g ∈ s.grafts.list, g.desc.log = l.handle) → exec (.deleteLog sid) s = .next (s.finish sid { status := .noResource }))
     ∧ (Begins s sid 0x43 u → (∀ g ∈ s.grafts.list, g.desc.log ≠ l.handle) → Gives (.deleteLog sid) s fun t =>
         t.grafts.logs = s.grafts.logs.filter (fun x => !(x.index == l.index)) ∧ t.grafts.logGens = bumpGen s.grafts.logGens l.index
         ∧ EndsWith t sid u (okResult u 0 0))))
  ∧ ((∀ (s : State) (sid : Nat) (u : Sub) (b : Option Buf) (buf : Buf), Begins s sid 0x44 u → u.readB b = some buf →
       let i := (lowestFree (s.grafts.list.map (·.index)) 8).getD 0
       let g : Graft := { index := i, gen := genFor s.grafts.gens i, desc := parseGraft buf, creator := u.client, coordinator := s.ownRank }
       s.createGraftErrs u (parseGraft buf) g = [] →
       exec (.createGraft sid b true) s = .next (((s.addGraft g).sendAll .newGraft ([i, g.gen, u.client] ++ buf.map (·.toNat))).finish
         sid (okResult u (BitVec.ofNat 64 g.handle.toNat) 0))
       ∧ exec (.createGraft sid b false) s = .next (s.finish sid { status := .noResource }))
     ∧ (∀ (s : State) (sid : Nat) (u : Sub) (b : Option Buf) (buf : Buf) (st : Status) (l : List Status) (room : Bool), Begins s sid 0x44 u →
       u.readB b = some buf →
       let i := (lowestFree (s.grafts.list.map (·.index)) 8).getD 0
       let g : Graft := { index := i, gen := genFor s.grafts.gens i, desc := parseGraft buf, creator := u.client, coordinator := s.ownRank }
       s.createGraftErrs u (parseGraft buf) g = st :: l →
       exec (.createGraft sid b room) s = .next (s.finish sid { status := firstStatus (st :: l ++ if room = true then [] else [.noResource]) }))
     ∧ (∀ (s : State) (sid : Nat) (u : Sub), (∀ g, s.graft? u.entry.handleA = some g → g.coordinator ≠ s.ownRank) →
         let stale : Host.Outcome State Fault Refusal := .next (s.finish sid { status := .staleHandle })
         (Begins s sid 0x45 u → u.entry.arg0.toNat % 2 = 0 → exec (.runGraft sid) s = stale)
         ∧ (Begins s sid 0x45 u → u.entry.arg0.toNat % 2 = 1 → (∀ g, s.graft? u.entry.handleA = some g → g.lastCkpt.isSome = true) →
           exec (.runGraftRestore sid) s = stale)
         ∧ (Begins s sid 0x46 u → exec (.stopGraft sid) s = stale) ∧ (Begins s sid 0x47 u → exec (.deleteGraft sid) s = stale))
     ∧ (∀ (s : State) (sid : Nat) (u : Sub), Waits s sid 0x45 u →
         (u.entry.arg0.toNat % 2 = 1 → Ignores (.runGraft sid) s) ∧ (u.entry.arg0.toNat % 2 = 0 → Ignores (.runGraftRestore sid) s))
     ∧ (∀ (s : State) (g : Graft), (∀ x ∈ s.grafts.list, x.index ≠ g.index) → ∃ y ∈ (s.addGraft g).grafts.list, y = { g with residuals := y.residuals }
         ∧ y.residuals.map (·.bucket) = (((s.placeGraft g).getD s).bucketsOf g).map (·.2)
         ∧ ∀ r ∈ y.residuals, (∀ v ∈ r.plane0, v = 0) ∧ ∀ v ∈ r.plane1, v = 0)
     ∧ (∀ (s : State) (sid : Nat) (u : Sub) (g : Graft), s.graft? u.entry.handleA = some g → g.coordinator = s.ownRank →
       (Begins s sid 0x45 u → s.isReady bitGraft = true →
         (g.phase ≠ .stopped → u.entry.arg0.toNat % 2 = 0 → exec (.runGraft sid) s = .next (s.finish sid { status := .noResource }))
         ∧ (s.runErrs g = [] → u.entry.arg0.toNat % 2 = 0 →
             exec (.runGraft sid) s = .next (s.beginRun g u (match g.lastCommit with | some k => k + 1 | none => 0) false))
         ∧ (u.entry.arg0.toNat % 2 = 1 → g.lastCkpt = none → exec (.runGraftRestore sid) s = .next (s.finish sid { status := .badField }))
         ∧ (∀ k, u.entry.arg0.toNat % 2 = 1 → g.lastCkpt = some k → s.runErrs g = [] →
             exec (.runGraftRestore sid) s = .next ((s.restoreCkpt g k).beginRun g u (k + 1) true)))
       ∧ (Begins s sid 0x46 u → g.phase = .stopped → exec (.stopGraft sid) s = .next (s.finish sid (okResult u 0 0)))
       ∧ (Begins s sid 0x46 u → g.phase = .reduce → s.graftAt g.index = some g → Gives (.stopGraft sid) s fun t =>
           t.graftAt g.index = some { g with stopAsked := true, stopSids := g.stopSids ++ [sid] } ∧ t.sub? sid = some { u with running := true })
       ∧ (Begins s sid 0x46 u → g.phase = .gradient → (g.gradDone = true ∨ s.recordsThere g = true) → s.graftAt g.index = some g →
           Gives (.stopGraft sid) s fun t =>
             t.graftAt g.index = some { g with stopAsked := true, stopSids := g.stopSids ++ [sid] } ∧ t.sub? sid = some { u with running := true })
       ∧ (Begins s sid 0x46 u → g.phase = .gradient → g.gradDone = false → s.recordsThere g = false → s.graftAt g.index = some g →
           g.runSid ≠ some sid → Gives (.stopGraft sid) s fun t => EndsWith t sid u {} ∧ ∃ h, t.graftAt g.index = some h ∧ h.phase = .stopped
             ∧ h.cause = some .stopGraft ∧ h.runSid = none)
       ∧ (Begins s sid 0x47 u → g.phase ≠ .stopped → exec (.deleteGraft sid) s = .next (s.finish sid { status := .noResource }))
       ∧ (Begins s sid 0x47 u → g.phase = .stopped →
           exec (.deleteGraft sid) s = .next (((s.removeGraft g).sendAll .dropGraft [g.index]).finish sid (okResult u 0 0))))
     ∧ (∀ (s : State) (g : Graft), (s.removeGraft g).grafts.list = s.grafts.list.filter (fun y => !(y.index == g.index))
         ∧ (s.removeGraft g).grafts.gens = bumpGen s.grafts.gens g.index))

/-- The messages of a step that is current (R213 to R217, R221): GRADIENT_COMPLETE fills the gradient buffer and reports, or
votes NO when flash cannot deliver a record (the model's choice, log 95); GRAD_READY of the last rank makes REDUCE go out;
REDUCE compresses here; an announcement and a partial are taken once, a partial that no sender could have written is not
taken; an owner takes one group partial and one raw sample of each sender.
A message of another step or attempt, of a stale epoch of its sender, or for a job that is stopped, is discarded and counted
(R213).
The end of a step (R219 to R226, R229): the barrier waits for every signal, then the owner votes once; the coordinator
commits when every owner has voted YES and aborts on one NO; a rank commits only a step that it voted YES for; a timeout of
an attempt is reported as an ABORT; an owner without a decision queries; checkpoints of every owner make LAST_CKPT, and a
COMMIT waits for them.
An attempt that times out runs again while RETRY allows it and no STOP_GRAFT waits, with its staged state gone; any other
ABORT stops the job; a COMMIT flips the plane, records its step and leaves the next one to be run (R222 to R224, R226). -/
def Obligations.GraftSteps : Prop :=
  (∀ (s : State) (tag : GraftTag) (g : Graft), s.graftAt tag.job = some g → g.phase ≠ .stopped → g.step = tag.step → g.attempt = tag.attempt →
     (∀ far media t, g.phase = .gradient → g.gradDone = false → s.recordsThere g = true → s.tableOf g = some t →
       let r := s.readExtents media (s.stepRecords g).2
       let c := Instr.gradientComplete tag far media
       (r.1 = [] → g.coordinator ≠ r.2.ownRank → exec c s = .next ((r.2.modGraft tag.job fun j =>
         { j with gradient := (r.2.bucketsOf g).map (r.2.bucketGradient g t (r.2.gradRows g t far))
                  gradDone := true }).sendMsg g.coordinator .gradReady [tag.job, tag.step, tag.attempt, r.2.fabric.epoch]))
       ∧ (r.1 ≠ [] → exec c s = .next (State.follow tag.job (r.2.sendVote tag.job false false .damaged))))
     ∧ (tag.epoch = (s.peer tag.rank).knownEpoch →
       (g.phase = .gradient → g.coordinator = s.ownRank → s.others.contains tag.rank = true →
         let l := if g.gradReady.contains tag.rank = true then g.gradReady else g.gradReady ++ [tag.rank]
         let s' := s.modGraft tag.job fun g => { g with gradReady := l }
         exec (.gradReady tag) s = .next (if s.ranks.all l.contains = true then s'.sendReduce tag.job else s'))
       ∧ (g.phase = .gradient → g.gradDone = true → g.coordinator ≠ s.ownRank → (s.compress g).2 = true →
         exec (.reduce tag) s = .next ((s.compress g).1.sendMsg g.coordinator .graftVote [tag.job, tag.step, tag.attempt, 0, 0, StopCause.code .suspect]))
       ∧ (g.phase ≠ .gradient ∨ g.gradDone = false ∨ g.coordinator = s.ownRank → Ignores (.reduce tag) s)
       ∧ (g.phase = .gradient → g.gradDone = true → g.coordinator ≠ s.ownRank → (s.compress g).2 = false →
         ∀ y, (s.compress g).1.graftAt tag.job = some y →
         let s1 := y.contribs.foldl (fun s c => s.sendBucket tag.job c) (s.compress g).1
         ∀ z, s1.graftAt tag.job = some z → exec (.reduce tag) s = .next
           (z.waiting.foldl (fun s p => s.runHop tag.job p) (s1.modGraft tag.job fun g => { g with waiting := [] })))
       ∧ (s.others.contains tag.rank = false ∨ g.coordinator ≠ s.ownRank ∨ g.phase ≠ .gradient → Ignores (.gradReady tag) s)
       ∧ (∀ a, (s.ownGroup.2).contains a.rank = false → Ignores (.announceReceived tag a) s)
       ∧ (∀ a, (s.ownGroup.2).contains a.rank = true → exec (.announceReceived tag a) s = .next (s.takeAnnounce tag.job a))
       ∧ (∀ m, readPartial m = none → Ignores (.chainHop tag m) s)
       ∧ (∀ m, m.group ≠ s.ownGroup.1 ∨ (s.ownGroup.2).headD s.ownRank = s.ownRank ∨ m.bucket ∈ g.passed → Ignores (.chainHop tag m) s)
       ∧ (∀ m p c, readPartial m = some p → p.group = s.ownGroup.1 → (s.ownGroup.2).headD s.ownRank ≠ s.ownRank → p.bucket ∉ g.passed →
         g.contribs.find? (fun c => c.1 == p.bucket) = some c → exec (.chainHop tag m) s = .next (s.passPartial tag.job (p.hop c.2)))
       ∧ (∀ m p, readPartial m = some p → p.group = s.ownGroup.1 → (s.ownGroup.2).headD s.ownRank ≠ s.ownRank → p.bucket ∉ g.passed →
         (∀ c ∈ g.contribs, c.1 ≠ p.bucket) →
         exec (.chainHop tag m) s = .next (s.modGraft tag.job fun g => { g with waiting := g.waiting ++ [p] }))
       ∧ (∀ m p, readPartial m = some p → (∃ b ∈ s.ownBuckets g, b.2 = m.bucket) → (∀ x ∈ g.groups, ¬ (x.bucket = p.bucket ∧ x.group = p.group)) →
         Gives (.groupPartial tag (.partialSum m)) s fun t => t.graftAt tag.job = some { g with groups := g.groups ++ [p] })
       ∧ (∀ m, readPartial m = none ∨ (∀ b ∈ s.ownBuckets g, b.2 ≠ m.bucket) → Ignores (.groupPartial tag (.partialSum m)) s)
       ∧ (∀ r, (∀ b ∈ s.ownBuckets g, b.2 ≠ r.bucket) → Ignores (.groupPartial tag (.rawSample r)) s)
       ∧ (∀ r, (∃ b ∈ s.ownBuckets g, b.2 = r.bucket) → (∀ x ∈ g.samples, ¬ (x.bucket = r.bucket ∧ x.rank = r.rank)) →
         Gives (.groupPartial tag (.rawSample r)) s fun t => t.graftAt tag.job = some { g with samples := g.samples ++ [r] })))
  ∧ (∀ (s : State) (tag : GraftTag) (g : Graft), s.graftAt tag.job = some g → (g.phase = .stopped ∨ g.step ≠ tag.step ∨ g.attempt ≠ tag.attempt
         ∨ tag.epoch ≠ (s.peer tag.rank).knownEpoch) →
       let counted : Host.Outcome State Fault Refusal := .next (s.modGraft tag.job fun g => { g with staleCount := satInc g.staleCount })
       exec (.gradReady tag) s = counted ∧ exec (.reduce tag) s = counted ∧ (∀ a, exec (.announceReceived tag a) s = counted)
       ∧ (∀ p, exec (.chainHop tag p) s = counted) ∧ (∀ m, exec (.groupPartial tag m) s = counted)
       ∧ (∀ y x c, exec (.graftVote tag y x c) s = counted) ∧ (∀ d c, exec (.graftDecision tag d c) s = counted))
  ∧ ((∀ (s : State) (job : Nat) (g : Graft), s.graftAt job = some g →
       (g.phase ≠ .reduce ∨ g.voted = true ∨ g.signals ≠ s.barrierTarget g → Ignores (.graftBarrier job) s)
       ∧ (∀ t, s.tableOf g = some t → g.phase = .reduce → g.voted = false → s.ownBuckets g ≠ [] → g.signals = s.barrierTarget g →
           let sums := (s.ownBuckets g).map fun b => (b.2, (List.range (g.desc.elements t.desc b.1)).map (sumElement (g.groups.filter fun p => p.bucket == b.2)))
           let finite := sums.all fun b => b.2.all fpFinite
           let held := (s.bucketsOf g).all fun b => match s.home? (residualObj job b.2) with | some h => !h.damaged | none => false
           let rescaled := g.groups.any (·.rescaled)
           let votes := fun (x : State) (yes : Bool) (c : StopCause) => State.follow job
             ((x.modGraft job fun g => { g with sums := sums, voted := true, votedYes := yes }).sendVote job yes rescaled c)
           let logged := match s.firstMismatch g sums with
             | some (k, j) => s.logCounted { cls := .ue, unitType := unitGraft, unitIndex := job, addr := BitVec.ofNat 64 g.step
                                             lastAddr := BitVec.ofNat 64 (k * 2 ^ 32 + j), source := 3 }
             | none => s
           (s.tunedDamaged g = true ∨ held = false → exec (.graftBarrier job) s = .next (votes logged false .damaged))
           ∧ (s.tunedDamaged g = false → held = true →
             (s.firstMismatch g sums = none → finite = true → exec (.graftBarrier job) s = .next (votes s true .done))
             ∧ ((s.firstMismatch g sums).isSome = true ∨ finite = false → exec (.graftBarrier job) s = .next (votes logged false .suspect)))
           ∧ (g.coordinator ≠ s.ownRank → ∀ yes c, votes s yes c =
             (s.modGraft job fun g => { g with sums := sums, voted := true, votedYes := yes }).sendMsg g.coordinator .graftVote
               [job, g.step, g.attempt, yes.toNat, rescaled.toNat, c.code]))
       ∧ (g.phase = .reduce → g.votedYes = true → g.coordinator ≠ s.ownRank →
           exec (.graftVoteQueryTimer job) s = .next (s.sendMsg g.coordinator .voteQuery [job, g.step, g.attempt]))
       ∧ (g.phase ≠ .reduce ∨ g.votedYes = false ∨ g.coordinator = s.ownRank → Ignores (.graftVoteQueryTimer job) s)
       ∧ (∀ r peers, g.ckptStep = none → Ignores (.graftCheckpoint job r peers) s)
       ∧ (∀ r peers, r ≠ s.ownRank → g.coordinator ≠ s.ownRank ∨ (s.graftOwners g).contains r = false ∨ r ∈ g.ckptDone →
           Ignores (.graftCheckpoint job r peers) s)
       ∧ (∀ peers, g.ckptStep.isSome = true → exec (.graftCheckpoint job s.ownRank peers) s = .next
           (((s.writeCkpt job peers).settleCkpt job).resumeCommit job))
       ∧ (∀ r peers k, g.ckptStep = some k → r ≠ s.ownRank → g.coordinator = s.ownRank → (s.graftOwners g).contains r = true → r ∉ g.ckptDone →
           (∀ o ∈ s.graftOwners g, o = r ∨ o ∈ g.ckptDone) →
           (s.allYes g = false → Gives (.graftCheckpoint job r peers) s fun t =>
             t.graftAt job = some { g with lastCkpt := some k, ckptStep := none, ckptDone := [] })
           ∧ (s.allYes g = true → exec (.graftCheckpoint job r peers) s = .next (State.follow job
             ((((s.modGraft job fun g => { g with ckptDone := g.ckptDone ++ [r] }).settleCkpt job).decideStep job true .done))))))
     ∧ (∀ (s : State) (tag : GraftTag) (g : Graft), s.graftAt tag.job = some g → g.phase = .reduce → g.step = tag.step → g.attempt = tag.attempt →
       (tag.epoch = (s.peer tag.rank).knownEpoch →
         (∀ x c, g.coordinator = s.ownRank → tag.rank ∈ s.others →
           exec (.graftVote tag false x c) s = .next (State.follow tag.job (s.decideStep tag.job false c)))
         ∧ (∀ x c, g.coordinator = s.ownRank → tag.rank ∈ s.others → tag.rank ∈ s.graftOwners g →
             let l := if g.votesYes.contains tag.rank = true then g.votesYes else g.votesYes ++ [tag.rank]
             let s' := s.modGraft tag.job fun g => { g with votesYes := l, rescaledStep := g.rescaledStep || x }
             ((∃ o ∈ s.graftOwners g, o ≠ tag.rank ∧ o ∉ g.votesYes) ∨ g.ckptStep.isSome = true → exec (.graftVote tag true x c) s = .next s')
             ∧ ((∀ o ∈ s.graftOwners g, o = tag.rank ∨ o ∈ g.votesYes) → g.ckptStep = none →
               exec (.graftVote tag true x c) s = .next (State.follow tag.job (s'.decideStep tag.job true .done))))
         ∧ (g.coordinator ≠ s.ownRank →
             (s.ownBuckets g ≠ [] → g.votedYes = false → ∀ c, Ignores (.graftDecision tag true c) s)
             ∧ (s.ownBuckets g = [] ∨ g.votedYes = true → ∀ c, exec (.graftDecision tag true c) s = .next (s.commitStep tag.job))
             ∧ (∀ c, exec (.graftDecision tag false c) s = .next (s.abortStep tag.job c).1))
         ∧ (g.coordinator = s.ownRank → ∀ d c, Ignores (.graftDecision tag d c) s)
         ∧ (g.coordinator ≠ s.ownRank ∨ tag.rank ∉ s.others → ∀ y x c, Ignores (.graftVote tag y x c) s))
       ∧ (g.coordinator = s.ownRank →
           ((∃ b ∈ s.bucketsOf g, b.2 ∉ g.passed) → exec (.hopTimeout tag) s = .next (State.follow tag.job (s.decideStep tag.job false .deadline)))
           ∧ (s.allYes g = false ∨ (s.ownBuckets g ≠ [] ∧ g.voted = false) →
               exec (.stepTimeout tag) s = .next (State.follow tag.job (s.decideStep tag.job false .deadline))))
       ∧ ((∀ b ∈ s.bucketsOf g, b.2 ∈ g.passed) → Ignores (.hopTimeout tag) s)
       ∧ ((g.coordinator ≠ s.ownRank ∨ s.allYes g = true) → (s.ownBuckets g = [] ∨ g.voted = true) → Ignores (.stepTimeout tag) s)
       ∧ (g.coordinator ≠ s.ownRank →
           ((∃ b ∈ s.bucketsOf g, b.2 ∉ g.passed) → exec (.hopTimeout tag) s = .next
               (s.sendMsg g.coordinator .graftVote [tag.job, g.step, g.attempt, 0, 0, StopCause.code .deadline]))
           ∧ (s.ownBuckets g ≠ [] → g.voted = false → exec (.stepTimeout tag) s = .next
               (s.sendMsg g.coordinator .graftVote [tag.job, g.step, g.attempt, 0, 0, StopCause.code .deadline])))))
  ∧ (∀ (s : State) (i : Nat) (g : Graft) (c : StopCause), s.graftAt i = some g → g.phase ≠ .stopped →
       (c = .deadline → g.attempt < g.desc.retry → g.stopAsked = false →
         (s.abortStep i c).2 = true ∧ (s.abortStep i c).1.graftAt i = some
           { g.clearAttempt with aborted := satInc g.aborted, phase := .gradient, attempt := g.attempt + 1 })
       ∧ (c ≠ .deadline ∨ g.desc.retry ≤ g.attempt ∨ g.stopAsked = true →
           (s.abortStep i c).2 = false ∧ ∃ h, (s.abortStep i c).1.graftAt i = some h ∧ h.phase = .stopped ∧ h.runSid = none
             ∧ h.cause = some (if g.inDoubt = true then .notReady else c) ∧ h.residuals = g.residuals
             ∧ h.lastCommit = g.lastCommit)
       ∧ (∃ h, (s.commitStep i).graftAt i = some h ∧ h.plane = !g.plane ∧ h.lastCommit = some g.step ∧ h.step = g.step + 1 ∧ h.attempt = 0
           ∧ h.residuals = g.residuals ∧ (h.phase = .gradient ∨ h.phase = .stopped)))

/-- A received packet that fails a check is counted as stale and answers nothing of what it carries; one that passes is handled;
one that shows a higher epoch ends what was held with the old one; a HELLO of other settings makes its sender a non-member,
one of a member is taken, and one that names an epoch the sled has left says nothing (R339, R340, R342).
A peer from which no packet has come for 1.0 s is DOWN, with DEAD_EPOCH its KNOWN_EPOCH, and its flows close (R340).
An exchange whose timeout expires ends, and its lookup loses the server; a search reply adds to the stage that awaits it,
and one that nothing awaits is discarded and counted; a request is counted once in LOAD_OVERRUNS when a member's W_scan
exceeds the LOAD used at its admission (R196, R352, R356, R358).
The receiver of a flow (R343 to R345, R351): OPEN is answered with the grant; only the 64 PSNs after CUM_PSN are accepted, a
duplicate takes no second buffer and says nothing twice; what has arrived is acknowledged on the timer; a release counts
each buffer once; an AUDIT is answered.
The sender of a flow (R343 to R348, R351): OPEN_OK opens it at PSN 0; it never holds more PSNs out than its grant; an
acknowledgement raises only counts; a timer that expires sends again every PSN not acknowledged and doubles, up to 12.8 ms,
and from the third expiry on asks for an AUDIT; the rate falls to the larger of three quarters and 5 Gb/s, and rises by 10
Gb/s up to 1.6 Tb/s. -/
def Obligations.Woane : Prop :=
  ((∀ (s : State) (p : WPacket),
     let s1 := s.bumpPort p.port 0
     let s2 := if p.kind = pktData ∧ p.ce = true then s1.bumpPort p.port 5 else s1
     let tagOk := s2.fabric.plot.isSome && p.plotTag == s2.plotId.truncate 32
     (p.ver ≠ 1 ∨ p.kind < pktData ∨ pktAuditReply < p.kind → exec (.woanePacketReceive p) s = .next s2.woaneStale)
     ∧ (p.ver = 1 → pktData ≤ p.kind → p.kind ≤ pktAuditReply → p.kind ≠ pktHello →
       (tagOk = false ∨ s2.others.contains p.srcRank = false ∨ (s2.peer p.srcRank).foreign = true →
         exec (.woanePacketReceive p) s = .next s2.woaneStale)
       ∧ (tagOk = true → s2.others.contains p.srcRank = true → (s2.peer p.srcRank).foreign = false →
           (p.srcEpoch ≤ (s2.peer p.srcRank).deadEpoch →
             exec (.woanePacketReceive p) s = .next (s2.woaneStale.sendHello p.srcRank true p.srcEpoch))
           ∧ ((s2.peer p.srcRank).deadEpoch < p.srcEpoch → p.kind ≠ pktOpen →
               p.srcEpoch < (s2.peer p.srcRank).knownEpoch ∨ p.dstEpoch ≠ s2.fabric.epoch →
               exec (.woanePacketReceive p) s = .next s2.woaneStale)
           ∧ ((s2.peer p.srcRank).deadEpoch < p.srcEpoch → p.kind = pktOpen ∨ ((s2.peer p.srcRank).knownEpoch ≤ p.srcEpoch ∧ p.dstEpoch = s2.fabric.epoch) →
               exec (.woanePacketReceive p) s = .next
                 ((if (s2.peer p.srcRank).knownEpoch < p.srcEpoch then s2.peerEpoch p.srcRank p.srcEpoch else s2).takePacket p))))
     ∧ (p.ver = 1 → p.kind = pktHello →
       (tagOk = false → exec (.woanePacketReceive p) s = .next s2.woaneStale)
       ∧ (tagOk = true → exec (.woanePacketReceive p) s = exec (.hello p.srcRank p.srcEpoch (parseHello p.payload)) s2)))
   ∧ (∀ (s : State) (rank e : Nat) (b : HelloBody), s.others.contains rank = true → (b.plotId ≠ s.plotId ∨ b.listDigest ≠ s.listDigest) →
       exec (.hello rank e b) s = .next (s.modPeer rank fun p => { p with foreign := true }).woaneStale)
   ∧ (∀ (s : State) (rank e : Nat) (b : HelloBody), s.others.contains rank = true → b.plotId = s.plotId → b.listDigest = s.listDigest →
       let s1 := s.modPeer rank fun p => { p with foreign := false }
       let p := s1.peer rank
       p.foreign = false → s1.others.contains rank = true →
       (e ≤ p.deadEpoch → exec (.hello rank e b) s = .next (s1.woaneStale.sendHello rank true e))
       ∧ (p.deadEpoch < e → exec (.hello rank e b) s = .next ((if p.knownEpoch < e then s1.peerEpoch rank e else s1).takeHello rank b)))
   ∧ (∀ (s : State) (rank : Nat) (b : HelloBody), b.dead = true → b.deadEpoch < s.fabric.epoch → s.takeHello rank b = s)
   ∧ (∀ (s : State) (rank e : Nat) (b : HelloBody), s.others.contains rank = false → exec (.hello rank e b) s = .next s.woaneStale))
  ∧ (∀ (s : State) (rank : Nat),
       (s.others.contains rank = true → (s.peer rank).down = false → Gives (.peerDownTimeout rank) s fun t =>
         (t.peer rank).down = true ∧ (t.peer rank).deadEpoch = (s.peer rank).knownEpoch ∧ t.fabric.downs = satInc s.fabric.downs
         ∧ (∀ f ∈ t.fabric.rx, f.rank ≠ rank))
       ∧ (s.others.contains rank = false ∨ (s.peer rank).down = true → Ignores (.peerDownTimeout rank) s)
       ∧ exec .helloTimer s = .next (s.others.foldl (fun s b => s.sendHello b false 0) s))
  ∧ ((∀ (s : State) (id : Nat),
       (∀ x, s.fabric.exchanges.find? (fun x => x.id == id && x.kind == 0) = some x → exec (.exchangeTimeout id) s = .next
         ((s.modFabric fun f => { f with timeouts := satInc f.timeouts, exchanges := f.exchanges.filter fun y => !(y.id == id) }).loseServer x.sid x.rank))
       ∧ ((∀ x ∈ s.fabric.exchanges, x.id = id → x.kind ≠ 0) → Ignores (.exchangeTimeout id) s))
     ∧ (∀ (s : State) (rank sid : Nat) (k : PlotReply),
       (s.req? sid = none → exec (.plotSearchReply rank sid k) s = .next (s.modFabric fun f => { f with lateReplies := satInc f.lateReplies }))
       ∧ (∀ r, s.req? sid = some r → rank ∉ r.awaiting →
           exec (.plotSearchReply rank sid k) s = .next (s.modFabric fun f => { f with lateReplies := satInc f.lateReplies }))
       ∧ (∀ r l n d w, s.req? sid = some r → rank ∈ r.awaiting → r.stage = .scan →
           let mine := l.map fun c => { c with member := rank }
           let r' : Req := { r with
             awaiting := r.awaiting.filter (· != rank)
             contribs := r.contribs ++ [{ pass := r.pass, source := 1000 + rank, hub := 0, list := (sortBy Cand.nearer mine).take r.block.nExact, scanned := n }]
             sawDamaged := r.sawDamaged || d }
           let load := (assocGet rank r.loads).getD 0
           (w ≤ load ∨ r.overran = true → exec (.plotSearchReply rank sid (.scan l n d w)) s = .next ((s.endExchange rank 1 sid).setReq r'))
           ∧ (load < w → r.overran = false → exec (.plotSearchReply rank sid (.scan l n d w)) s = .next
               (((s.modFabric fun f => { f with loadOverruns := satInc f.loadOverruns }).endExchange rank 1 sid).setReq { r' with overran := true })))
       ∧ (∀ r l, s.req? sid = some r → rank ∈ r.awaiting → r.stage = .exact →
           exec (.plotSearchReply rank sid (.exact l)) s = .next ((s.endExchange rank 1 sid).setReq { r with
             awaiting := r.awaiting.filter (· != rank)
             merged := r.merged.map fun c => if c.member = rank then { c with exact := (assocGet c.locator l).getD c.exact } else c }))
       ∧ (∀ r l, s.req? sid = some r → rank ∈ r.awaiting → r.stage = .fetch →
           exec (.plotSearchReply rank sid (.fetch l)) s = .next ((s.endExchange rank 1 sid).setReq { r with
             awaiting := r.awaiting.filter (· != rank)
             merged := r.merged.map fun c => if c.member = rank then
                 (match assocGet c.locator l with | some (some b) => { c with passage := b } | _ => { c with lost := true })
               else c }))
       ∧ (∀ r, s.req? sid = some r → rank ∈ r.awaiting → r.reply rank k = none →
           exec (.plotSearchReply rank sid k) s = .next (s.modFabric fun f => { f with lateReplies := satInc f.lateReplies }))))
  ∧ ((∀ (s : State) (b c : Nat), s.others.contains b = true → c < 4 → s.rx? b c = none →
         exec (.openFlow b c) s = .next ((s.setRx { rank := b, cls := c, grant := s.credits }).sendPacket b pktOpenOk c 0 false false
           [BitVec.ofNat 8 c, BitVec.ofNat 8 s.credits]))
     ∧ (∀ (s : State) (b c : Nat) (f : RxFlow), s.others.contains b = true → c < 4 → s.rx? b c = some f →
         exec (.openFlow b c) s = .next (s.sendPacket b pktOpenOk c 0 false false [BitVec.ofNat 8 c, BitVec.ofNat 8 f.grant]))
     ∧ (∀ (s : State) (b c : Nat), s.others.contains b = false ∨ 4 ≤ c → Ignores (.openFlow b c) s)
     ∧ (∀ (s : State) (b c : Nat) (psn : W32) (x y ce : Bool) (bytes : Buf) (ms : List PeerMsg) (f : RxFlow), s.rx? b c = some f →
       let d := (psn - f.cumPsn).toNat
       let g := { f with ceTotal := if ce = true then f.ceTotal + 1 else f.ceTotal, unreported := true }
       (d < 1 ∨ 64 < d → exec (.data b c psn x y ce bytes ms) s = .next (s.setRx g).woaneStale)
       ∧ (d = 1 → (∀ e ∈ f.buffered, e.1 ≠ psn ∧ e.1 ≠ psn + 1) → f.sinceAck < 7 → exec (.data b c psn x y ce bytes ms) s = .next
           (ms.foldl (fun s m => s.deliver b m)
             (s.setRx { g with buffered := f.buffered ++ [(psn, x, y, bytes)], cumPsn := psn, sinceAck := f.sinceAck + 1 })))
       ∧ (1 ≤ d → d ≤ 64 →
           let dup := f.buffered.any fun e => e.1 == psn
           let all := if dup = true then f.buffered else f.buffered ++ [(psn, x, y, bytes)]
           let next := decide (d = 1) && !dup
           let n := if next = true then f.sinceAck + 1 else f.sinceAck
           let s1 := s.setRx { g with buffered := all, cumPsn := advanceCum (fun p => all.any fun e => e.1 == p) 64 f.cumPsn, sinceAck := n }
           let s2 := if next = true ∧ n < 8 then s1 else s1.sendAck b c pktAck
           exec (.data b c psn x y ce bytes ms) s = .next (if dup = true then s2 else ms.foldl (fun s m => s.deliver b m) s2))
       ∧ (1 ≤ d → d ≤ 64 → (∃ e ∈ f.buffered, e.1 = psn) → ∃ t, exec (.data b c psn x y ce bytes ms) s = .next t
           ∧ ∃ h, t.rx? b c = some h ∧ h.buffered = f.buffered ∧ h.returned = f.returned))
     ∧ (∀ (s : State) (b c : Nat) (psn n : W32) (x y ce : Bool) (bytes : Buf) (ms : List PeerMsg), s.rx? b c = none →
         exec (.data b c psn x y ce bytes ms) s = .next s.woaneStale ∧ Ignores (.ackTimer b c) s ∧ Ignores (.bufferRelease b c psn) s
         ∧ Ignores (.audit b c n) s)
     ∧ (∀ (s : State) (b c : Nat) (n : W32) (f : RxFlow), s.rx? b c = some f →
       (f.unreported = true → exec (.ackTimer b c) s = .next
         ((s.setRx { f with sinceAck := 0, unreported := false }).sendPacket b pktAck c 0 false false f.ackBytes))
       ∧ (f.unreported = false → Ignores (.ackTimer b c) s)
       ∧ exec (.audit b c n) s = .next ((s.setRx { f with sinceAck := 0, unreported := false }).sendPacket b pktAuditReply c 0 false false f.ackBytes)
       ∧ (∀ p bytes, f.buffered = [(p, true, true, bytes)] → (p - f.cumPsn + 0x80000000#32).toNat ≤ 2 ^ 31 →
           exec (.bufferRelease b c p) s = .next (s.setRx { f with buffered := [], returned := f.returned + 1, unreported := true }))
       ∧ (let place := fun (p : W32) => (p - f.cumPsn + 0x80000000#32).toNat
          ∀ p l, messagePsns f.buffered 2049 p = some l → (∀ e ∈ f.buffered, place p ≤ place e.1) → (∀ q ∈ l, place q ≤ 2 ^ 31) →
           (∀ e, f.buffered.find? (fun e => e.1 == p) = some e → e.2.1 = true → exec (.bufferRelease b c p) s = .next
             (s.setRx { f with buffered := f.buffered.filter (fun e => !l.contains e.1), returned := f.returned + l.length, unreported := true }))
           ∧ (∀ e, f.buffered.find? (fun e => e.1 == p) = some e → e.2.1 = false → Ignores (.bufferRelease b c p) s))
       ∧ (∀ p, messagePsns f.buffered 2049 p = none → Ignores (.bufferRelease b c p) s)))
  ∧ ((∀ (s : State) (b c n : Nat), s.others.contains b = true → c < 4 → (s.tx b c).opened = false →
         exec (.openOk b c n) s = .next ((s.setTx { (s.tx b c) with
           opened := true, grant := n, nextPsn := 0, returnedSeen := 0, unacked := [], cumSeen := 0xFFFFFFFF#32, timerUs := 200, expiries := 0
           auditing := false }).pump b c))
     ∧ (∀ (s : State) (b c n : Nat), s.others.contains b = false ∨ 4 ≤ c ∨ (s.tx b c).opened = true → Ignores (.openOk b c n) s)
     ∧ (∀ (s : State) (b c : Nat) (k : AckBody), (s.tx b c).opened = false → Ignores (.ack b c k) s ∧ Ignores (.auditReply b c k) s)
     ∧ (∀ (s : State) (b c : Nat), (s.tx b c).grant < 2 ^ 31 →
         ((s.tx b c).nextPsn - BitVec.ofNat 32 (s.tx b c).returnedSeen).toNat ≤ (s.tx b c).grant →
         (((s.pump b c).tx b c).nextPsn - BitVec.ofNat 32 ((s.pump b c).tx b c).returnedSeen).toNat ≤ ((s.pump b c).tx b c).grant)
     ∧ (∀ (s : State) (b c : Nat) (k : AckBody), (s.tx b c).opened = true →
         exec (.ack b c k) s = .next (((((s.setTx ((s.tx b c).take k)).takeCe b c k.ceTotal).resend b c
           (((s.tx b c).take k).unacked.filter fun x => AckBodyGap k x.1))).pump b c)
         ∧ exec (.auditReply b c k) s = .next (((((s.setTx { ((s.tx b c).take k) with auditing := false }).resend b c ((s.tx b c).take k).unacked).pump
             b c)).settleReroute))
     ∧ (∀ (f : TxFlow) (k : AckBody), f.returnedSeen ≤ (f.take k).returnedSeen ∧ k.returned ≤ (f.take k).returnedSeen
         ∧ (f.take k).nextPsn = f.nextPsn ∧ (f.take k).grant = f.grant ∧ (f.take k).queue = f.queue
         ∧ (∀ x ∈ (f.take k).unacked, x ∈ f.unacked ∧ AckBodyShows k x.1 = false))
     ∧ (∀ (s : State) (b c : Nat),
       ((s.tx b c).opened = true → (s.tx b c).unacked ≠ [] → (s.tx b c).auditing = false → (s.tx b c).expiries < 2 →
         exec (.retransmitTimer b c) s = .next ((s.setTx { (s.tx b c) with
           timerUs := min (2 * (s.tx b c).timerUs) 12800, expiries := (s.tx b c).expiries + 1 }).resend b c (s.tx b c).unacked))
       ∧ ((s.tx b c).opened = true → ((s.tx b c).unacked ≠ [] ∨ (s.tx b c).auditing = true) → (2 ≤ (s.tx b c).expiries ∨ (s.tx b c).auditing = true) →
         exec (.retransmitTimer b c) s = .next (((s.setTx { (s.tx b c) with
           timerUs := min (2 * (s.tx b c).timerUs) 12800, expiries := (s.tx b c).expiries + 1 }).resend b c (s.tx b c).unacked).audit b c))
       ∧ ((s.tx b c).opened = false ∨ ((s.tx b c).unacked = [] ∧ (s.tx b c).auditing = false) → Ignores (.retransmitTimer b c) s))
     ∧ (∀ (s : State) (b : Nat), s.others.contains b = true →
         exec (.woaneRateTimer b) s = .next (s.modPeer b fun p => { p with rate := min (p.rate + 10000) 1600000 }))
     ∧ (∀ (s : State) (b : Nat), s.others.contains b = false → Ignores (.woaneRateTimer b) s)
     ∧ (∀ (s : State) (b c : Nat) (n : W32), n.toNat ≠ (assocGet c (s.peer b).ceSeen).getD 0 → (s.peer b).lowered = none →
         ((s.takeCe b c n).peer b).rate = max (3 * (s.peer b).rate / 4) 5000))

/-- SET_PLOT stores the settings on flash, puts them in force, extends M3 and raises the epoch; settings that are not in order
are BAD_FIELD; when config flash cannot hold them MEDIA_ERROR, and they are not in force; while an update runs it waits
(R337, R338, R423).
The commits of a plot index (R354): the sequencer counts a vote once, commits when every member has voted YES, and aborts on
one NO or the timeout; a member votes at once and applies the decision of the commit it prepared, and no other, and asks for
it while it has not come.
A member keeps a summary of another member once, notes what it reports of an old version, and carries out its part of a
search on the version named, answering the accepting sled (R355, R356). -/
def Obligations.Plots : Prop :=
  (∀ (s : State) (sid : Nat) (u : Sub) (b : Option Buf) (buf : Buf), Begins s sid 0xEB u → u.readB b = some buf →
     let p := parsePlot buf
     let bad := plotFormOk buf u.entry.length.toNat = false ∨ s.membersOk p = false ∨ s.entriesOk p = false
     (s.boot.update.isSome = true → Ignores (.setPlot sid b none) s)
     ∧ (s.boot.update = none → bad → exec (.setPlot sid b none) s = .next (s.finish sid { status := .badField }))
     ∧ (s.boot.update = none → ¬ bad → (∀ e ∈ p.plotIndexes, (s.index? e.1).isSome = true) → (∃ r ∈ s.emptied p, s.rankHolds r = true) →
         exec (.setPlot sid b none) s = .next (s.finish sid { status := .noResource }))
     ∧ (s.boot.update = none → ¬ bad → (∃ e ∈ p.plotIndexes, s.index? e.1 = none) →
         exec (.setPlot sid b none) s = .next (s.finish sid { status := .staleHandle }))
     ∧ (s.boot.update = none → ¬ bad → (∀ e ∈ p.plotIndexes, (s.index? e.1).isSome = true) → (∀ r ∈ s.emptied p, s.rankHolds r = false) →
         ∀ x, Gives (.setPlot sid b (some x)) s fun t => EndsWith t sid u { status := .mediaError } ∧ t.fabric = s.fabric ∧ t.boot.m3 = s.boot.m3)
     ∧ (s.boot.update = none → ¬ bad → (∀ e ∈ p.plotIndexes, (s.index? e.1).isSome = true) → (∀ r ∈ s.emptied p, s.rankHolds r = false) →
         Gives (.setPlot sid b none) s fun t => t.fabric.plot = some p ∧ t.boot.m3 = extend s.boot.m3 (sha3 buf)
           ∧ t.fabric.epoch = s.fabric.epoch + 1 ∧ t.fabric.rx = [] ∧ (∀ f ∈ t.fabric.tx, f.opened = false)
           ∧ ∃ x : State, t = x.finish sid (okResult u 0 0)))
  ∧ ((∀ (s : State) (plot rank sid : Nat) (i d : List W128), (s.sequencer ≠ s.ownRank ∨ s.plotIndex? plot = none) →
         Ignores (.plotCommit plot rank sid i d) s)
     ∧ (∀ (s : State) (plot rank sid : Nat) (i d : List W128) (x : Index), s.sequencer = s.ownRank → s.plotIndex? plot = some x →
         let known := ∃ y ∈ s.fabric.plotCommits, y.plot = plot ∧ y.rank = rank ∧ y.sid = sid
         let queued := fun (i d : List W128) => s.modFabric fun f => { f with
           plotCommits := f.plotCommits ++ [{ plot := plot, base := x.current, rank := rank, sid := sid, inserted := i, deleted := d }] }
         (known → Ignores (.plotCommit plot rank sid i d) s)
         ∧ (¬ known → rank ≠ s.ownRank → s.others.contains rank = true →
             exec (.plotCommit plot rank sid i d) s = .next (State.runCommits 2 (queued i d) plot))
         ∧ (¬ known → rank ≠ s.ownRank → s.others.contains rank = false → Ignores (.plotCommit plot rank sid i d) s)
         ∧ (∀ l, ¬ known → rank = s.ownRank → x.carried.find? (fun e => e.1 == sid) = some (sid, l) →
             exec (.plotCommit plot rank sid i d) s = .next (State.runCommits 2 (queued (x.carriedInserts l) l.deleted) plot)))
     ∧ (∀ (s : State) (plot rank sid : Nat) (i d : List W128) (x : Index) (c : PlotCommit), s.sequencer = s.ownRank → s.plotIndex? plot = some x →
         (∀ y ∈ s.fabric.plotCommits, ¬ (y.plot = plot ∧ y.rank = rank ∧ y.sid = sid)) → rank ≠ s.ownRank → s.others.contains rank = true →
         s.fabric.plotCommits.find? (fun y => y.plot == plot) = some c → c.phase ≠ .preparing ∨ c.yes ≠ [] →
         exec (.plotCommit plot rank sid i d) s = .next (s.modFabric fun f => { f with
           plotCommits := f.plotCommits ++ [{ plot := plot, base := x.current, rank := rank, sid := sid, inserted := i, deleted := d }] }))
     ∧ (∀ (s : State) (plot rank : Nat) (c : PlotCommit), s.fabric.plotCommits.find? (fun y => y.plot == plot) = some c → c.phase = .preparing →
       s.sequencer = s.ownRank → s.others.contains rank = true →
       (∀ l, exec (.plotVote rank plot c.base false l) s = .next (State.runCommits 2 (s.decidePlot c false) plot))
       ∧ exec (.plotPrepareTimeout plot) s = .next (State.runCommits 2 (s.decidePlot c false) plot)
       ∧ (∀ l, (∀ r ∈ s.ranks, r = rank ∨ r ∈ c.yes) →
           let c' := { c with yes := if c.yes.contains rank = true then c.yes else c.yes ++ [rank], live := c.live ++ l }
           exec (.plotVote rank plot c.base true l) s = .next (State.runCommits 2 ((s.modCommit c' fun _ => c').decidePlot c' true) plot))
       ∧ (∀ l r, r ∈ s.ranks → r ≠ rank → r ∉ c.yes → (∀ y ∈ s.fabric.plotCommits, y.plot = plot → y.sid = c.sid → y.rank = c.rank → y = c) →
           Gives (.plotVote rank plot c.base true l) s fun t =>
             t.fabric.plotCommits.find? (fun y => y.plot == plot) = some { c with yes := if c.yes.contains rank = true then c.yes else c.yes ++ [rank], live := c.live ++ l }
             ∧ t.fabric.plotCommitted = s.fabric.plotCommitted ∧ t.idx = s.idx))
     ∧ (∀ (s : State) (rank plot base : Nat) (l : List W128), s.sequencer ≠ s.ownRank ∨ s.others.contains rank = false →
         ∀ y, Ignores (.plotVote rank plot base y l) s)
     ∧ (∀ (s : State) (plot : Nat), (∀ c, s.fabric.plotCommits.find? (fun y => y.plot == plot) = some c → c.phase ≠ .preparing) →
         Ignores (.plotPrepareTimeout plot) s)
     ∧ (∀ (s : State) (rank plot base : Nat) (dg : Buf) (i d : List W128), s.plotIndex? plot = none ∨ s.sequencer = s.ownRank →
         Ignores (.plotPrepare rank plot base dg i d) s)
     ∧ (∀ (s : State) (rank plot base : Nat) (dg : Buf) (i d : List W128), (s.plotIndex? plot).isSome = true → s.sequencer ≠ s.ownRank →
         let v := s.plotVote { plot := plot, base := base, rank := rank, inserted := i, deleted := d } dg
         exec (.plotPrepare rank plot base dg i d) s = .next (v.2.2.sendMsg s.sequencer .plotVote ([plot, base, v.1.toNat] ++ v.2.1.map (·.toNat))))
     ∧ (∀ (s : State) (plot base : Nat), (s.prepared? plot = none → ∀ c, Ignores (.plotDecision plot base c) s)
       ∧ (∀ p, s.prepared? plot = some p → p.base ≠ base ∨ s.sequencer = s.ownRank → ∀ c, Ignores (.plotDecision plot base c) s)
       ∧ (∀ p x e l, s.prepared? plot = some p → p.base = base → s.sequencer ≠ s.ownRank → p.rank = s.ownRank →
           (s.applyPlot plot false).plotIndex? plot = some x → x.carried = e :: l →
           exec (.plotDecision plot base false) s = .next ((s.applyPlot plot false).endCarried plot e.1 { status := .noResource }))
       ∧ (∀ p, s.prepared? plot = some p → p.base = base → s.sequencer ≠ s.ownRank →
           exec (.plotDecision plot base true) s = .next ((s.applyPlot plot true).sendMsg (s.applyPlot plot true).sequencer .plotConfirm [plot, base + 1])
           ∧ (p.rank ≠ s.ownRank → exec (.plotDecision plot base false) s = .next (s.applyPlot plot false)))
       ∧ (∀ p, s.prepared? plot = some p → s.sequencer ≠ s.ownRank →
           exec (.decisionQueryTimer true plot) s = .next (s.sendMsg s.sequencer .decisionQuery [1, plot, p.base]))
       ∧ (s.prepared? plot = none ∨ s.sequencer = s.ownRank → Ignores (.decisionQueryTimer true plot) s))
     ∧ (∀ (s : State) (rank plot : Nat) (c : PlotCommit), s.fabric.plotCommits.find? (fun y => y.plot == plot) = some c → s.sequencer = s.ownRank →
       let l := if c.confirmed.contains rank = true then c.confirmed else c.confirmed ++ [rank]
       let s1 := s.modCommit c fun c => { c with confirmed := l }
       (c.phase = .committed → s.others.contains rank = true →
         ((∃ r ∈ s.ranks, r ∉ l) → exec (.commitConfirm rank true plot (c.base + 1)) s = .next s1)
         ∧ ((∀ r ∈ s.ranks, r ∈ l) → exec (.commitConfirm rank true plot (c.base + 1)) s = .next (State.runCommits 2 (s1.closeCommit c) plot)))
       ∧ (∀ n, c.phase ≠ .committed ∨ c.base + 1 ≠ n ∨ s.others.contains rank = false → Ignores (.commitConfirm rank true plot n) s))
     ∧ (∀ (s : State) (rank plot n : Nat) (x : Index), s.sequencer ≠ s.ownRank → s.plotIndex? plot = some x →
       (∀ e l, rank = s.sequencer → x.carried = e :: l → n = x.current → s.prepared? plot = none →
         exec (.commitConfirm rank true plot n) s = .next (s.endCarried plot e.1 { result0 := BitVec.ofNat 64 n }))
       ∧ (rank ≠ s.sequencer ∨ x.carried = [] ∨ n ≠ x.current ∨ (s.prepared? plot).isSome = true → Ignores (.commitConfirm rank true plot n) s)))
  ∧ ((∀ (s : State) (y : PlotSummary), (s.plotIndex? y.plot).isSome = true → s.others.contains y.rank = true →
       ((∃ z ∈ s.fabric.summaries, z.plot = y.plot ∧ z.version = y.version ∧ z.rank = y.rank) → Ignores (.plotSummary y) s)
       ∧ ((∀ z ∈ s.fabric.summaries, ¬ (z.plot = y.plot ∧ z.version = y.version ∧ z.rank = y.rank)) → exec (.plotSummary y) s = .next
           ((s.chargePool poolIndex (4 * y.counts.length)).modFabric fun f => { f with summaries := f.summaries ++ [y] })))
     ∧ (∀ (s : State) (y : PlotSummary), s.plotIndex? y.plot = none ∨ s.others.contains y.rank = false → Ignores (.plotSummary y) s)
     ∧ (∀ (s : State) (rank plot n : Nat) (x : Index), s.plotIndex? plot = some x →
       (x.current ≤ n → Ignores (.tableVersionFree rank true plot n) s)
       ∧ (n < x.current → exec (.tableVersionFree rank true plot n) s = .next ((s.modFabric fun f => { f with
           plotFree := if f.plotFree.contains (plot, n, rank) = true then f.plotFree else f.plotFree ++ [(plot, n, rank)] }).sweepVersions x.handle)))
     ∧ (∀ (s : State) (rank sid plot : Nat) (x : Index) (v : Version), s.plotIndex? plot = some x → s.others.contains rank = true →
       (∀ n sk f a ne ps media, s.servedVersion x n = some v →
         let s1 := s.readRuns media (s.memberReads x v false fun y => ps.contains y.partition)
         let r := s1.memberScan ((s1.index? x.handle).getD x) v sk f a ne ps
         exec (.plotSearchMessage rank sid plot (.scan n sk f a ne ps) media) s = .next
           (s1.sendMsg rank .plotReply ([sid, 0, r.2.1, r.2.2.toNat, s1.waitNs (x.allRecs v)] ++ r.1.flatMap fun c => [c.locator.toNat, c.dist]))
         ∧ r.1.length ≤ ne)
       ∧ (∀ n q l media, s.servedVersion x n = some v →
         let s1 := s.readRuns media (s.memberReads x v true fun y => l.contains y.locator)
         let x1 := (s1.index? x.handle).getD x
         exec (.plotSearchMessage rank sid plot (.exact n q l) media) s = .next
           (s1.sendMsg rank .plotReply ([sid, 1] ++ l.flatMap fun l =>
             match (x1.liveRecs v).find? fun y => y.2.2.locator == l && !s1.sliceDamaged x1 y.1 with
             | some y => [l.toNat, (x1.score q y.2.2.vector).toNat]
             | none => [])))
       ∧ (∀ n sk f a ne ps media, s.servedVersion x n = none → Ignores (.plotSearchMessage rank sid plot (.scan n sk f a ne ps) media) s)
       ∧ (∀ l media, let q := s.readPassages media (s.sasel.eventSeq + 1) l
         exec (.plotSearchMessage rank sid plot (.fetch l) media) s = .next (q.2.sendMsg rank .plotReply ([sid, 2] ++ (l.zip q.1).flatMap fun y =>
           match y.2 with | some b => y.1.toNat :: 1 :: b.length :: b.map (·.toNat) | none => [y.1.toNat, 0]))))
     ∧ (∀ (s : State) (rank sid plot : Nat) (m : PlotMsg) (media : Media), s.plotIndex? plot = none ∨ s.others.contains rank = false →
         Ignores (.plotSearchMessage rank sid plot m media) s))
end

