-- ==== Sys2Proof/Laws/Buffers.lean ====
section
/-! SUPPORT. Buffers: lengths, bytes of a part, and the 32 bytes of a SHA3-256 digest. -/

namespace Sys2Proof.Machine

open Sys2Proof

@[simp] theorem slice_length (b : Buf) (off n : Nat) : (Buf.slice b off n).length = n := by
  simp only [Buf.slice, List.length_map, List.length_range]

theorem at_append_left {a b : Buf} {i : Nat} (h : i < a.length) : Buf.at (a ++ b) i = Buf.at a i := by
  simp only [Buf.at, List.getD_eq_getElem?_getD, List.getElem?_append_left h]

theorem at_append_right (a b : Buf) (i : Nat) : Buf.at (a ++ b) (a.length + i) = Buf.at b i := by
  simp only [Buf.at, List.getD_eq_getElem?_getD, List.getElem?_append_right (Nat.le_add_right _ _), Nat.add_sub_cancel_left]

/-- The whole of a buffer. -/
theorem slice_all (b : Buf) : Buf.slice b 0 b.length = b := by
  apply List.ext_getElem (slice_length _ _ _)
  intro i h1 h2
  simp only [Buf.slice, List.getElem_map, List.getElem_range, Nat.zero_add, Buf.at, List.getD_eq_getElem?_getD, List.getElem?_eq_getElem h2,
    Option.getD_some]

/-- What follows a buffer. -/
theorem slice_append_right (a b : Buf) : Buf.slice (a ++ b) a.length b.length = b := by
  refine Eq.trans ?_ (slice_all b)
  simp only [Buf.slice, at_append_right, Nat.zero_add]

@[simp] theorem leBytes_length : ∀ (n v : Nat), (leBytes n v).length = n
  | 0, _ => rfl
  | n + 1, v => congrArg (· + 1) (leBytes_length n (v / 256))

/-- Bytes that are all 0 read as 0. -/
theorem le_zero {b : Buf} (h : ∀ i, Buf.at b i = 0) : ∀ (n off : Nat), Buf.le b off n = 0
  | 0, _ => rfl
  | n + 1, off => by simp only [Buf.le, h, le_zero h n, BitVec.toNat_zero, Nat.mul_zero, Nat.add_zero, BitVec.ofNat_eq_ofNat]

theorem keccakRound_length (a : List W64) (rc : W64) : (keccakRound a rc).length = 25 := by
  simp only [keccakRound]
  split
  · rename_i h
    exact absurd (congrArg List.length h) (by simp only [List.length_map, List.length_range, List.length_nil]; decide)
  · rename_i h
    have := congrArg List.length h
    simpa only [List.length_map, List.length_range, List.length_cons] using this.symm

theorem sha3Absorb_length (a : List W64) (b : Buf) : (sha3Absorb a b).length = 25 := by
  have h : ∀ (l : List W64) (x : List W64), x.length = 25 → (l.foldl keccakRound x).length = 25 := by
    intro l
    induction l with
    | nil => exact fun x hx => hx
    | cons c l ih => exact fun x _ => ih _ (keccakRound_length x c)
  exact h _ _ (by simp only [List.length_map, List.length_range])

/-- A digest is 32 bytes. -/
@[simp] theorem sha3_length (m : Buf) : (sha3 m).length = 32 := by
  have h : ∀ (l : List Nat) (p : Buf) (x : List W64), x.length = 25 →
      (l.foldl (fun a k => sha3Absorb a (Buf.slice p (136 * k) 136)) x).length = 25 := by
    intro l p
    induction l with
    | nil => exact fun x hx => hx
    | cons c l ih => exact fun x _ => ih _ (sha3Absorb_length x _)
  have h8 : ∀ l : List W64, (l.flatMap fun w => leBytes 8 w.toNat).length = 8 * l.length := by
    intro l
    induction l with
    | nil => rfl
    | cons c l ih => rw [List.flatMap_cons, List.length_append, ih, leBytes_length, List.length_cons]; omega
  rw [sha3, h8, List.length_take, h _ _ _ (List.length_replicate ..)]
  rfl

end Sys2Proof.Machine
end

