-- ==== Sys2Proof/Laws/Memory.lean ====
section
/-! SUPPORT. The canonical form of a memory: every operation keeps it, and a read gives what was last written. -/

namespace Sys2Proof.Machine

open Sys2Proof

theorem Memory.wfFrom_mono {lo lo' : Nat} (h : lo' ≤ lo) : ∀ m : Memory, Memory.wfFrom lo m = true → Memory.wfFrom lo' m = true
  | [], _ => rfl
  | (a, v) :: r, hm => by
    simp only [Memory.wfFrom, Bool.and_eq_true, decide_eq_true_eq] at hm ⊢
    exact ⟨⟨Nat.le_trans h hm.1.1, hm.1.2⟩, hm.2⟩

/-- An address below every listed one reads as blank. -/
theorem Memory.read_below {lo a : Nat} (h : a < lo) : ∀ m : Memory, Memory.wfFrom lo m = true → Memory.read m a = Memory.blank
  | [], _ => rfl
  | (b, v) :: r, hm => by
    simp only [Memory.wfFrom, Bool.and_eq_true, decide_eq_true_eq] at hm
    have hb : b ≠ a := by omega
    rw [Memory.read, if_neg hb]
    exact Memory.read_below (by omega) r hm.2

theorem Memory.wfFrom_write {lo a : Nat} (v : Byte) (h : lo ≤ a) : ∀ m : Memory, Memory.wfFrom lo m = true →
    Memory.wfFrom lo (Memory.write m a v) = true
  | [], _ => by
    rw [Memory.write]; split
    · rfl
    · rename_i hv; simp [Memory.wfFrom, h, hv]
  | (b, w) :: r, hm => by
    have hm' := hm
    simp only [Memory.wfFrom, Bool.and_eq_true, decide_eq_true_eq] at hm'
    rw [Memory.write]; split
    · rename_i hab
      split
      · exact hm
      · rename_i hv
        simp only [Memory.wfFrom, Bool.and_eq_true, decide_eq_true_eq]
        exact ⟨⟨h, hv⟩, ⟨by omega, hm'.1.2⟩, hm'.2⟩
    · split
      · rename_i hab hab'
        split
        · exact Memory.wfFrom_mono (by omega) r hm'.2
        · rename_i hv
          simp only [Memory.wfFrom, Bool.and_eq_true, decide_eq_true_eq]
          exact ⟨⟨h, hv⟩, hab' ▸ hm'.2⟩
      · simp only [Memory.wfFrom, Bool.and_eq_true, decide_eq_true_eq]
        exact ⟨hm'.1, Memory.wfFrom_write v (by omega) r hm'.2⟩

/-- A write of a byte keeps the canonical form. -/
theorem Memory.wf_write (m : Memory) (a : Nat) (v : Byte) (h : m.wf = true) : (Memory.write m a v).wf = true :=
  Memory.wfFrom_write v (Nat.zero_le a) m h

/-- A write of a run of bytes keeps the canonical form. -/
theorem Memory.wf_writeBytes : ∀ (bs : Buf) (m : Memory) (a : Nat), m.wf = true → (Memory.writeBytes m a bs).wf = true
  | [], _, _, h => h
  | v :: r, m, a, h => Memory.wf_writeBytes r _ _ (Memory.wf_write m a v h)

/-- Every memory is in its canonical form at reset. -/
theorem reset_mems_wf : State.reset.mems.hbm.wf = true ∧ State.reset.mems.tile.wf = true ∧ State.reset.mems.cc.wf = true :=
  ⟨rfl, rfl, rfl⟩

/-- The byte written is the byte read. -/
theorem Memory.read_write_same {lo : Nat} (a : Nat) (v : Byte) : ∀ m : Memory, Memory.wfFrom lo m = true →
    Memory.read (Memory.write m a v) a = v
  | [], _ => by
    rw [Memory.write]; split
    · rename_i hv; rw [hv]; rfl
    · simp [Memory.read]
  | (b, w) :: r, hm => by
    have hm' := hm
    simp only [Memory.wfFrom, Bool.and_eq_true, decide_eq_true_eq] at hm'
    rw [Memory.write]; split
    · rename_i hab
      split
      · rename_i hv
        have hb : b ≠ a := by omega
        rw [Memory.read, if_neg hb, hv]
        exact Memory.read_below (by omega) r hm'.2
      · simp [Memory.read]
    · split
      · rename_i hab hab'
        split
        · rename_i hv
          rw [hv]
          exact Memory.read_below (by omega) r hm'.2
        · simp [Memory.read]
      · rename_i hab hab'
        have hb : b ≠ a := fun e => hab' e.symm
        rw [Memory.read, if_neg hb]
        exact Memory.read_write_same a v r hm'.2

/-- A write of a byte leaves every other address alone. -/
theorem Memory.read_write_other (a c : Nat) (v : Byte) (h : c ≠ a) : ∀ m : Memory,
    Memory.read (Memory.write m a v) c = Memory.read m c
  | [] => by
    rw [Memory.write]; split
    · rfl
    · simp [Memory.read, Ne.symm h]
  | (b, w) :: r => by
    rw [Memory.write]; split
    · split
      · rfl
      · simp [Memory.read, Ne.symm h]
    · split
      · rename_i _ hab
        subst hab
        split
        · simp [Memory.read, Ne.symm h]
        · simp [Memory.read, Ne.symm h]
      · simp only [Memory.read]
        rw [Memory.read_write_other a c v h r]

/-- A write of a run of bytes leaves every address outside the run alone. -/
theorem Memory.read_writeBytes_outside (c : Nat) : ∀ (bs : Buf) (m : Memory) (a : Nat), c < a ∨ a + bs.length ≤ c →
    Memory.read (Memory.writeBytes m a bs) c = Memory.read m c
  | [], _, _, _ => rfl
  | v :: r, m, a, h => by
    simp only [List.length_cons] at h
    rw [Memory.writeBytes, Memory.read_writeBytes_outside c r _ _ (by omega), Memory.read_write_other _ _ _ (by omega)]

/-- The bytes of a run that is written are the bytes read. -/
theorem Memory.read_writeBytes_inside : ∀ (bs : Buf) (m : Memory) (a i : Nat), m.wf = true → i < bs.length →
    Memory.read (Memory.writeBytes m a bs) (a + i) = bs.getD i 0
  | [], _, _, _, _, h => absurd h (Nat.not_lt_zero _)
  | v :: r, m, a, 0, hm, _ => by
    show Memory.read (Memory.writeBytes (Memory.write m a v) (a + 1) r) a = v
    rw [Memory.read_writeBytes_outside a r _ (a + 1) (Or.inl (show a < a + 1 by omega))]
    exact Memory.read_write_same a v m hm
  | v :: r, m, a, i + 1, hm, h => by
    rw [Memory.writeBytes, show a + (i + 1) = a + 1 + i by omega]
    rw [Memory.read_writeBytes_inside r _ _ i (Memory.wf_write m a v hm) (by simpa using h)]
    rfl

/-- Storing cells keeps the canonical form. -/
theorem Memory.wf_place : ∀ (cells : List Host.Cell) (m : Memory), m.wf = true → (Memory.place m cells).wf = true
  | [], _, h => h
  | x :: r, m, h => Memory.wf_place r (Memory.write m x.1 x.2) (Memory.wf_write m x.1 x.2 h)

theorem Memory.wfFrom_filter (p : Host.Cell → Bool) : ∀ (m : Memory) (lo : Nat), Memory.wfFrom lo m = true → Memory.wfFrom lo (m.filter p) = true
  | [], _, h => h
  | (a, v) :: r, lo, h => by
    simp only [Memory.wfFrom, Bool.and_eq_true, decide_eq_true_eq] at h
    have hr := Memory.wfFrom_filter p r (a + 1) h.2
    cases hp : p (a, v)
    · simp only [List.filter_cons, hp, Bool.false_eq_true, if_false]
      exact Memory.wfFrom_mono (Nat.le_succ_of_le h.1.1) _ hr
    · simp only [List.filter_cons, hp, if_true, Memory.wfFrom, Bool.and_eq_true, decide_eq_true_eq]
      exact ⟨h.1, hr⟩

/-- Leaving cells out keeps the canonical form. -/
theorem Memory.wf_filter (p : Host.Cell → Bool) (m : Memory) (h : m.wf = true) : Memory.wf (m.filter p) = true :=
  Memory.wfFrom_filter p m 0 h

end Sys2Proof.Machine
end

