-- ==== Sys2Proof/Laws/State.lean ====
section
/-! SUPPORT. What the named updates of the state leave alone: one lemma per update and field, true by definition. -/

namespace Sys2Proof.Machine

open Sys2Proof

@[simp] theorem State.modSub_power (s : State) (sid : Nat) (f : Sub → Sub) : (s.modSub sid f).power = s.power := rfl
@[simp] theorem State.modSub_boot (s : State) (sid : Nat) (f : Sub → Sub) : (s.modSub sid f).boot = s.boot := rfl
@[simp] theorem State.modSub_hp (s : State) (sid : Nat) (f : Sub → Sub) : (s.modSub sid f).hp = s.hp := rfl
@[simp] theorem State.modSub_queues (s : State) (sid : Nat) (f : Sub → Sub) : (s.modSub sid f).queues = s.queues := rfl
@[simp] theorem State.modSub_work (s : State) (sid : Nat) (f : Sub → Sub) : (s.modSub sid f).work = s.work := rfl
@[simp] theorem State.modSub_idx (s : State) (sid : Nat) (f : Sub → Sub) : (s.modSub sid f).idx = s.idx := rfl
@[simp] theorem State.modSub_ans (s : State) (sid : Nat) (f : Sub → Sub) : (s.modSub sid f).ans = s.ans := rfl
@[simp] theorem State.modSub_img (s : State) (sid : Nat) (f : Sub → Sub) : (s.modSub sid f).img = s.img := rfl
@[simp] theorem State.modSub_loom (s : State) (sid : Nat) (f : Sub → Sub) : (s.modSub sid f).loom = s.loom := rfl
@[simp] theorem State.modSub_mems (s : State) (sid : Nat) (f : Sub → Sub) : (s.modSub sid f).mems = s.mems := rfl
@[simp] theorem State.modSub_tiers (s : State) (sid : Nat) (f : Sub → Sub) : (s.modSub sid f).tiers = s.tiers := rfl
@[simp] theorem State.modSub_tables (s : State) (sid : Nat) (f : Sub → Sub) : (s.modSub sid f).tables = s.tables := rfl
@[simp] theorem State.modSub_grafts (s : State) (sid : Nat) (f : Sub → Sub) : (s.modSub sid f).grafts = s.grafts := rfl
@[simp] theorem State.modSub_flash (s : State) (sid : Nat) (f : Sub → Sub) : (s.modSub sid f).flash = s.flash := rfl
@[simp] theorem State.modSub_fabric (s : State) (sid : Nat) (f : Sub → Sub) : (s.modSub sid f).fabric = s.fabric := rfl
@[simp] theorem State.modSub_integ (s : State) (sid : Nat) (f : Sub → Sub) : (s.modSub sid f).integ = s.integ := rfl
@[simp] theorem State.modSub_fail (s : State) (sid : Nat) (f : Sub → Sub) : (s.modSub sid f).fail = s.fail := rfl
@[simp] theorem State.modSub_out (s : State) (sid : Nat) (f : Sub → Sub) : (s.modSub sid f).out = s.out := rfl
@[simp] theorem State.modSub_frames (s : State) (sid : Nat) (f : Sub → Sub) : (s.modSub sid f).frames = s.frames := rfl
@[simp] theorem State.modSub_txHeld (s : State) (sid : Nat) (f : Sub → Sub) : (s.modSub sid f).txHeld = s.txHeld := rfl
@[simp] theorem State.modSub_pclk (s : State) (sid : Nat) (f : Sub → Sub) : (s.modSub sid f).pclk = s.pclk := rfl
@[simp] theorem State.modSub_free (s : State) (sid : Nat) (f : Sub → Sub) : (s.modSub sid f).free = s.free := rfl
@[simp] theorem State.modSub_pending (s : State) (sid : Nat) (f : Sub → Sub) : (s.modSub sid f).pending = s.pending := rfl

@[simp] theorem State.finish_power (s : State) (sid : Nat) (r : Result) : (s.finish sid r).power = s.power := rfl
@[simp] theorem State.finish_boot (s : State) (sid : Nat) (r : Result) : (s.finish sid r).boot = s.boot := rfl
@[simp] theorem State.finish_hp (s : State) (sid : Nat) (r : Result) : (s.finish sid r).hp = s.hp := rfl
@[simp] theorem State.finish_queues (s : State) (sid : Nat) (r : Result) : (s.finish sid r).queues = s.queues := rfl
@[simp] theorem State.finish_work (s : State) (sid : Nat) (r : Result) : (s.finish sid r).work = s.work := rfl
@[simp] theorem State.finish_idx (s : State) (sid : Nat) (r : Result) : (s.finish sid r).idx = s.idx := rfl
@[simp] theorem State.finish_ans (s : State) (sid : Nat) (r : Result) : (s.finish sid r).ans = s.ans := rfl
@[simp] theorem State.finish_img (s : State) (sid : Nat) (r : Result) : (s.finish sid r).img = s.img := rfl
@[simp] theorem State.finish_loom (s : State) (sid : Nat) (r : Result) : (s.finish sid r).loom = s.loom := rfl
@[simp] theorem State.finish_mems (s : State) (sid : Nat) (r : Result) : (s.finish sid r).mems = s.mems := rfl
@[simp] theorem State.finish_tiers (s : State) (sid : Nat) (r : Result) : (s.finish sid r).tiers = s.tiers := rfl
@[simp] theorem State.finish_tables (s : State) (sid : Nat) (r : Result) : (s.finish sid r).tables = s.tables := rfl
@[simp] theorem State.finish_grafts (s : State) (sid : Nat) (r : Result) : (s.finish sid r).grafts = s.grafts := rfl
@[simp] theorem State.finish_flash (s : State) (sid : Nat) (r : Result) : (s.finish sid r).flash = s.flash := rfl
@[simp] theorem State.finish_fabric (s : State) (sid : Nat) (r : Result) : (s.finish sid r).fabric = s.fabric := rfl
@[simp] theorem State.finish_integ (s : State) (sid : Nat) (r : Result) : (s.finish sid r).integ = s.integ := rfl
@[simp] theorem State.finish_fail (s : State) (sid : Nat) (r : Result) : (s.finish sid r).fail = s.fail := rfl
@[simp] theorem State.finish_out (s : State) (sid : Nat) (r : Result) : (s.finish sid r).out = s.out := rfl
@[simp] theorem State.finish_frames (s : State) (sid : Nat) (r : Result) : (s.finish sid r).frames = s.frames := rfl
@[simp] theorem State.finish_txHeld (s : State) (sid : Nat) (r : Result) : (s.finish sid r).txHeld = s.txHeld := rfl
@[simp] theorem State.finish_pclk (s : State) (sid : Nat) (r : Result) : (s.finish sid r).pclk = s.pclk := rfl
@[simp] theorem State.finish_free (s : State) (sid : Nat) (r : Result) : (s.finish sid r).free = s.free := rfl
@[simp] theorem State.finish_pending (s : State) (sid : Nat) (r : Result) : (s.finish sid r).pending = s.pending := rfl

@[simp] theorem State.failWith_power (s : State) (sid : Nat) (st : Status) : (s.failWith sid st).power = s.power := rfl
@[simp] theorem State.failWith_boot (s : State) (sid : Nat) (st : Status) : (s.failWith sid st).boot = s.boot := rfl
@[simp] theorem State.failWith_hp (s : State) (sid : Nat) (st : Status) : (s.failWith sid st).hp = s.hp := rfl
@[simp] theorem State.failWith_queues (s : State) (sid : Nat) (st : Status) : (s.failWith sid st).queues = s.queues := rfl
@[simp] theorem State.failWith_work (s : State) (sid : Nat) (st : Status) : (s.failWith sid st).work = s.work := rfl
@[simp] theorem State.failWith_idx (s : State) (sid : Nat) (st : Status) : (s.failWith sid st).idx = s.idx := rfl
@[simp] theorem State.failWith_ans (s : State) (sid : Nat) (st : Status) : (s.failWith sid st).ans = s.ans := rfl
@[simp] theorem State.failWith_img (s : State) (sid : Nat) (st : Status) : (s.failWith sid st).img = s.img := rfl
@[simp] theorem State.failWith_loom (s : State) (sid : Nat) (st : Status) : (s.failWith sid st).loom = s.loom := rfl
@[simp] theorem State.failWith_mems (s : State) (sid : Nat) (st : Status) : (s.failWith sid st).mems = s.mems := rfl
@[simp] theorem State.failWith_tiers (s : State) (sid : Nat) (st : Status) : (s.failWith sid st).tiers = s.tiers := rfl
@[simp] theorem State.failWith_tables (s : State) (sid : Nat) (st : Status) : (s.failWith sid st).tables = s.tables := rfl
@[simp] theorem State.failWith_grafts (s : State) (sid : Nat) (st : Status) : (s.failWith sid st).grafts = s.grafts := rfl
@[simp] theorem State.failWith_flash (s : State) (sid : Nat) (st : Status) : (s.failWith sid st).flash = s.flash := rfl
@[simp] theorem State.failWith_fabric (s : State) (sid : Nat) (st : Status) : (s.failWith sid st).fabric = s.fabric := rfl
@[simp] theorem State.failWith_integ (s : State) (sid : Nat) (st : Status) : (s.failWith sid st).integ = s.integ := rfl
@[simp] theorem State.failWith_fail (s : State) (sid : Nat) (st : Status) : (s.failWith sid st).fail = s.fail := rfl
@[simp] theorem State.failWith_out (s : State) (sid : Nat) (st : Status) : (s.failWith sid st).out = s.out := rfl
@[simp] theorem State.failWith_frames (s : State) (sid : Nat) (st : Status) : (s.failWith sid st).frames = s.frames := rfl
@[simp] theorem State.failWith_txHeld (s : State) (sid : Nat) (st : Status) : (s.failWith sid st).txHeld = s.txHeld := rfl
@[simp] theorem State.failWith_pclk (s : State) (sid : Nat) (st : Status) : (s.failWith sid st).pclk = s.pclk := rfl
@[simp] theorem State.failWith_free (s : State) (sid : Nat) (st : Status) : (s.failWith sid st).free = s.free := rfl
@[simp] theorem State.failWith_pending (s : State) (sid : Nat) (st : Status) : (s.failWith sid st).pending = s.pending := rfl

@[simp] theorem State.start_power (s : State) (sid : Nat) : (s.start sid).power = s.power := rfl
@[simp] theorem State.start_boot (s : State) (sid : Nat) : (s.start sid).boot = s.boot := rfl
@[simp] theorem State.start_hp (s : State) (sid : Nat) : (s.start sid).hp = s.hp := rfl
@[simp] theorem State.start_queues (s : State) (sid : Nat) : (s.start sid).queues = s.queues := rfl
@[simp] theorem State.start_work (s : State) (sid : Nat) : (s.start sid).work = s.work := rfl
@[simp] theorem State.start_idx (s : State) (sid : Nat) : (s.start sid).idx = s.idx := rfl
@[simp] theorem State.start_ans (s : State) (sid : Nat) : (s.start sid).ans = s.ans := rfl
@[simp] theorem State.start_img (s : State) (sid : Nat) : (s.start sid).img = s.img := rfl
@[simp] theorem State.start_loom (s : State) (sid : Nat) : (s.start sid).loom = s.loom := rfl
@[simp] theorem State.start_mems (s : State) (sid : Nat) : (s.start sid).mems = s.mems := rfl
@[simp] theorem State.start_tiers (s : State) (sid : Nat) : (s.start sid).tiers = s.tiers := rfl
@[simp] theorem State.start_tables (s : State) (sid : Nat) : (s.start sid).tables = s.tables := rfl
@[simp] theorem State.start_grafts (s : State) (sid : Nat) : (s.start sid).grafts = s.grafts := rfl
@[simp] theorem State.start_flash (s : State) (sid : Nat) : (s.start sid).flash = s.flash := rfl
@[simp] theorem State.start_fabric (s : State) (sid : Nat) : (s.start sid).fabric = s.fabric := rfl
@[simp] theorem State.start_integ (s : State) (sid : Nat) : (s.start sid).integ = s.integ := rfl
@[simp] theorem State.start_fail (s : State) (sid : Nat) : (s.start sid).fail = s.fail := rfl
@[simp] theorem State.start_out (s : State) (sid : Nat) : (s.start sid).out = s.out := rfl
@[simp] theorem State.start_frames (s : State) (sid : Nat) : (s.start sid).frames = s.frames := rfl
@[simp] theorem State.start_txHeld (s : State) (sid : Nat) : (s.start sid).txHeld = s.txHeld := rfl
@[simp] theorem State.start_pclk (s : State) (sid : Nat) : (s.start sid).pclk = s.pclk := rfl
@[simp] theorem State.start_free (s : State) (sid : Nat) : (s.start sid).free = s.free := rfl
@[simp] theorem State.start_pending (s : State) (sid : Nat) : (s.start sid).pending = s.pending := rfl

@[simp] theorem State.complete_power (s : State) (u : Sub) (result0 result1 : W64) : (s.complete u result0 result1).power = s.power := rfl
@[simp] theorem State.complete_boot (s : State) (u : Sub) (result0 result1 : W64) : (s.complete u result0 result1).boot = s.boot := rfl
@[simp] theorem State.complete_hp (s : State) (u : Sub) (result0 result1 : W64) : (s.complete u result0 result1).hp = s.hp := rfl
@[simp] theorem State.complete_queues (s : State) (u : Sub) (result0 result1 : W64) : (s.complete u result0 result1).queues = s.queues := rfl
@[simp] theorem State.complete_work (s : State) (u : Sub) (result0 result1 : W64) : (s.complete u result0 result1).work = s.work := rfl
@[simp] theorem State.complete_idx (s : State) (u : Sub) (result0 result1 : W64) : (s.complete u result0 result1).idx = s.idx := rfl
@[simp] theorem State.complete_ans (s : State) (u : Sub) (result0 result1 : W64) : (s.complete u result0 result1).ans = s.ans := rfl
@[simp] theorem State.complete_img (s : State) (u : Sub) (result0 result1 : W64) : (s.complete u result0 result1).img = s.img := rfl
@[simp] theorem State.complete_loom (s : State) (u : Sub) (result0 result1 : W64) : (s.complete u result0 result1).loom = s.loom := rfl
@[simp] theorem State.complete_mems (s : State) (u : Sub) (result0 result1 : W64) : (s.complete u result0 result1).mems = s.mems := rfl
@[simp] theorem State.complete_tiers (s : State) (u : Sub) (result0 result1 : W64) : (s.complete u result0 result1).tiers = s.tiers := rfl
@[simp] theorem State.complete_tables (s : State) (u : Sub) (result0 result1 : W64) : (s.complete u result0 result1).tables = s.tables := rfl
@[simp] theorem State.complete_grafts (s : State) (u : Sub) (result0 result1 : W64) : (s.complete u result0 result1).grafts = s.grafts := rfl
@[simp] theorem State.complete_flash (s : State) (u : Sub) (result0 result1 : W64) : (s.complete u result0 result1).flash = s.flash := rfl
@[simp] theorem State.complete_fabric (s : State) (u : Sub) (result0 result1 : W64) : (s.complete u result0 result1).fabric = s.fabric := rfl
@[simp] theorem State.complete_integ (s : State) (u : Sub) (result0 result1 : W64) : (s.complete u result0 result1).integ = s.integ := rfl
@[simp] theorem State.complete_fail (s : State) (u : Sub) (result0 result1 : W64) : (s.complete u result0 result1).fail = s.fail := rfl
@[simp] theorem State.complete_out (s : State) (u : Sub) (result0 result1 : W64) : (s.complete u result0 result1).out = s.out := rfl
@[simp] theorem State.complete_frames (s : State) (u : Sub) (result0 result1 : W64) : (s.complete u result0 result1).frames = s.frames := rfl
@[simp] theorem State.complete_txHeld (s : State) (u : Sub) (result0 result1 : W64) : (s.complete u result0 result1).txHeld = s.txHeld := rfl
@[simp] theorem State.complete_pclk (s : State) (u : Sub) (result0 result1 : W64) : (s.complete u result0 result1).pclk = s.pclk := rfl
@[simp] theorem State.complete_free (s : State) (u : Sub) (result0 result1 : W64) : (s.complete u result0 result1).free = s.free := rfl
@[simp] theorem State.complete_pending (s : State) (u : Sub) (result0 result1 : W64) : (s.complete u result0 result1).pending = s.pending := rfl

@[simp] theorem State.completeOk_power (s : State) (u : Sub) : (s.completeOk u).power = s.power := rfl
@[simp] theorem State.completeOk_boot (s : State) (u : Sub) : (s.completeOk u).boot = s.boot := rfl
@[simp] theorem State.completeOk_hp (s : State) (u : Sub) : (s.completeOk u).hp = s.hp := rfl
@[simp] theorem State.completeOk_queues (s : State) (u : Sub) : (s.completeOk u).queues = s.queues := rfl
@[simp] theorem State.completeOk_work (s : State) (u : Sub) : (s.completeOk u).work = s.work := rfl
@[simp] theorem State.completeOk_idx (s : State) (u : Sub) : (s.completeOk u).idx = s.idx := rfl
@[simp] theorem State.completeOk_ans (s : State) (u : Sub) : (s.completeOk u).ans = s.ans := rfl
@[simp] theorem State.completeOk_img (s : State) (u : Sub) : (s.completeOk u).img = s.img := rfl
@[simp] theorem State.completeOk_loom (s : State) (u : Sub) : (s.completeOk u).loom = s.loom := rfl
@[simp] theorem State.completeOk_mems (s : State) (u : Sub) : (s.completeOk u).mems = s.mems := rfl
@[simp] theorem State.completeOk_tiers (s : State) (u : Sub) : (s.completeOk u).tiers = s.tiers := rfl
@[simp] theorem State.completeOk_tables (s : State) (u : Sub) : (s.completeOk u).tables = s.tables := rfl
@[simp] theorem State.completeOk_grafts (s : State) (u : Sub) : (s.completeOk u).grafts = s.grafts := rfl
@[simp] theorem State.completeOk_flash (s : State) (u : Sub) : (s.completeOk u).flash = s.flash := rfl
@[simp] theorem State.completeOk_fabric (s : State) (u : Sub) : (s.completeOk u).fabric = s.fabric := rfl
@[simp] theorem State.completeOk_integ (s : State) (u : Sub) : (s.completeOk u).integ = s.integ := rfl
@[simp] theorem State.completeOk_fail (s : State) (u : Sub) : (s.completeOk u).fail = s.fail := rfl
@[simp] theorem State.completeOk_out (s : State) (u : Sub) : (s.completeOk u).out = s.out := rfl
@[simp] theorem State.completeOk_frames (s : State) (u : Sub) : (s.completeOk u).frames = s.frames := rfl
@[simp] theorem State.completeOk_txHeld (s : State) (u : Sub) : (s.completeOk u).txHeld = s.txHeld := rfl
@[simp] theorem State.completeOk_pclk (s : State) (u : Sub) : (s.completeOk u).pclk = s.pclk := rfl
@[simp] theorem State.completeOk_free (s : State) (u : Sub) : (s.completeOk u).free = s.free := rfl
@[simp] theorem State.completeOk_pending (s : State) (u : Sub) : (s.completeOk u).pending = s.pending := rfl

@[simp] theorem State.modClient_power (s : State) (i : Nat) (f : Client → Client) : (s.modClient i f).power = s.power := rfl
@[simp] theorem State.modClient_boot (s : State) (i : Nat) (f : Client → Client) : (s.modClient i f).boot = s.boot := rfl
@[simp] theorem State.modClient_hp (s : State) (i : Nat) (f : Client → Client) : (s.modClient i f).hp = s.hp := rfl
@[simp] theorem State.modClient_queues (s : State) (i : Nat) (f : Client → Client) : (s.modClient i f).queues = s.queues := rfl
@[simp] theorem State.modClient_work (s : State) (i : Nat) (f : Client → Client) : (s.modClient i f).work = s.work := rfl
@[simp] theorem State.modClient_idx (s : State) (i : Nat) (f : Client → Client) : (s.modClient i f).idx = s.idx := rfl
@[simp] theorem State.modClient_ans (s : State) (i : Nat) (f : Client → Client) : (s.modClient i f).ans = s.ans := rfl
@[simp] theorem State.modClient_img (s : State) (i : Nat) (f : Client → Client) : (s.modClient i f).img = s.img := rfl
@[simp] theorem State.modClient_loom (s : State) (i : Nat) (f : Client → Client) : (s.modClient i f).loom = s.loom := rfl
@[simp] theorem State.modClient_mems (s : State) (i : Nat) (f : Client → Client) : (s.modClient i f).mems = s.mems := rfl
@[simp] theorem State.modClient_tiers (s : State) (i : Nat) (f : Client → Client) : (s.modClient i f).tiers = s.tiers := rfl
@[simp] theorem State.modClient_tables (s : State) (i : Nat) (f : Client → Client) : (s.modClient i f).tables = s.tables := rfl
@[simp] theorem State.modClient_grafts (s : State) (i : Nat) (f : Client → Client) : (s.modClient i f).grafts = s.grafts := rfl
@[simp] theorem State.modClient_flash (s : State) (i : Nat) (f : Client → Client) : (s.modClient i f).flash = s.flash := rfl
@[simp] theorem State.modClient_fabric (s : State) (i : Nat) (f : Client → Client) : (s.modClient i f).fabric = s.fabric := rfl
@[simp] theorem State.modClient_integ (s : State) (i : Nat) (f : Client → Client) : (s.modClient i f).integ = s.integ := rfl
@[simp] theorem State.modClient_fail (s : State) (i : Nat) (f : Client → Client) : (s.modClient i f).fail = s.fail := rfl
@[simp] theorem State.modClient_out (s : State) (i : Nat) (f : Client → Client) : (s.modClient i f).out = s.out := rfl
@[simp] theorem State.modClient_frames (s : State) (i : Nat) (f : Client → Client) : (s.modClient i f).frames = s.frames := rfl
@[simp] theorem State.modClient_txHeld (s : State) (i : Nat) (f : Client → Client) : (s.modClient i f).txHeld = s.txHeld := rfl
@[simp] theorem State.modClient_pclk (s : State) (i : Nat) (f : Client → Client) : (s.modClient i f).pclk = s.pclk := rfl
@[simp] theorem State.modClient_free (s : State) (i : Nat) (f : Client → Client) : (s.modClient i f).free = s.free := rfl
@[simp] theorem State.modClient_pending (s : State) (i : Nat) (f : Client → Client) : (s.modClient i f).pending = s.pending := rfl

@[simp] theorem State.modSlot_power (s : State) (m : Nat) (f : Mailbox → Mailbox) : (s.modSlot m f).power = s.power := rfl
@[simp] theorem State.modSlot_boot (s : State) (m : Nat) (f : Mailbox → Mailbox) : (s.modSlot m f).boot = s.boot := rfl
@[simp] theorem State.modSlot_hp (s : State) (m : Nat) (f : Mailbox → Mailbox) : (s.modSlot m f).hp = s.hp := rfl
@[simp] theorem State.modSlot_queues (s : State) (m : Nat) (f : Mailbox → Mailbox) : (s.modSlot m f).queues = s.queues := rfl
@[simp] theorem State.modSlot_work (s : State) (m : Nat) (f : Mailbox → Mailbox) : (s.modSlot m f).work = s.work := rfl
@[simp] theorem State.modSlot_idx (s : State) (m : Nat) (f : Mailbox → Mailbox) : (s.modSlot m f).idx = s.idx := rfl
@[simp] theorem State.modSlot_ans (s : State) (m : Nat) (f : Mailbox → Mailbox) : (s.modSlot m f).ans = s.ans := rfl
@[simp] theorem State.modSlot_img (s : State) (m : Nat) (f : Mailbox → Mailbox) : (s.modSlot m f).img = s.img := rfl
@[simp] theorem State.modSlot_loom (s : State) (m : Nat) (f : Mailbox → Mailbox) : (s.modSlot m f).loom = s.loom := rfl
@[simp] theorem State.modSlot_mems (s : State) (m : Nat) (f : Mailbox → Mailbox) : (s.modSlot m f).mems = s.mems := rfl
@[simp] theorem State.modSlot_tiers (s : State) (m : Nat) (f : Mailbox → Mailbox) : (s.modSlot m f).tiers = s.tiers := rfl
@[simp] theorem State.modSlot_tables (s : State) (m : Nat) (f : Mailbox → Mailbox) : (s.modSlot m f).tables = s.tables := rfl
@[simp] theorem State.modSlot_grafts (s : State) (m : Nat) (f : Mailbox → Mailbox) : (s.modSlot m f).grafts = s.grafts := rfl
@[simp] theorem State.modSlot_flash (s : State) (m : Nat) (f : Mailbox → Mailbox) : (s.modSlot m f).flash = s.flash := rfl
@[simp] theorem State.modSlot_fabric (s : State) (m : Nat) (f : Mailbox → Mailbox) : (s.modSlot m f).fabric = s.fabric := rfl
@[simp] theorem State.modSlot_integ (s : State) (m : Nat) (f : Mailbox → Mailbox) : (s.modSlot m f).integ = s.integ := rfl
@[simp] theorem State.modSlot_fail (s : State) (m : Nat) (f : Mailbox → Mailbox) : (s.modSlot m f).fail = s.fail := rfl
@[simp] theorem State.modSlot_out (s : State) (m : Nat) (f : Mailbox → Mailbox) : (s.modSlot m f).out = s.out := rfl
@[simp] theorem State.modSlot_frames (s : State) (m : Nat) (f : Mailbox → Mailbox) : (s.modSlot m f).frames = s.frames := rfl
@[simp] theorem State.modSlot_txHeld (s : State) (m : Nat) (f : Mailbox → Mailbox) : (s.modSlot m f).txHeld = s.txHeld := rfl
@[simp] theorem State.modSlot_pclk (s : State) (m : Nat) (f : Mailbox → Mailbox) : (s.modSlot m f).pclk = s.pclk := rfl
@[simp] theorem State.modSlot_free (s : State) (m : Nat) (f : Mailbox → Mailbox) : (s.modSlot m f).free = s.free := rfl
@[simp] theorem State.modSlot_pending (s : State) (m : Nat) (f : Mailbox → Mailbox) : (s.modSlot m f).pending = s.pending := rfl

@[simp] theorem State.setQueue_power (s : State) (q : Queue) : (s.setQueue q).power = s.power := rfl
@[simp] theorem State.setQueue_boot (s : State) (q : Queue) : (s.setQueue q).boot = s.boot := rfl
@[simp] theorem State.setQueue_hp (s : State) (q : Queue) : (s.setQueue q).hp = s.hp := rfl
@[simp] theorem State.setQueue_sasel (s : State) (q : Queue) : (s.setQueue q).sasel = s.sasel := rfl
@[simp] theorem State.setQueue_work (s : State) (q : Queue) : (s.setQueue q).work = s.work := rfl
@[simp] theorem State.setQueue_idx (s : State) (q : Queue) : (s.setQueue q).idx = s.idx := rfl
@[simp] theorem State.setQueue_ans (s : State) (q : Queue) : (s.setQueue q).ans = s.ans := rfl
@[simp] theorem State.setQueue_img (s : State) (q : Queue) : (s.setQueue q).img = s.img := rfl
@[simp] theorem State.setQueue_loom (s : State) (q : Queue) : (s.setQueue q).loom = s.loom := rfl
@[simp] theorem State.setQueue_mems (s : State) (q : Queue) : (s.setQueue q).mems = s.mems := rfl
@[simp] theorem State.setQueue_tiers (s : State) (q : Queue) : (s.setQueue q).tiers = s.tiers := rfl
@[simp] theorem State.setQueue_tables (s : State) (q : Queue) : (s.setQueue q).tables = s.tables := rfl
@[simp] theorem State.setQueue_grafts (s : State) (q : Queue) : (s.setQueue q).grafts = s.grafts := rfl
@[simp] theorem State.setQueue_flash (s : State) (q : Queue) : (s.setQueue q).flash = s.flash := rfl
@[simp] theorem State.setQueue_fabric (s : State) (q : Queue) : (s.setQueue q).fabric = s.fabric := rfl
@[simp] theorem State.setQueue_integ (s : State) (q : Queue) : (s.setQueue q).integ = s.integ := rfl
@[simp] theorem State.setQueue_fail (s : State) (q : Queue) : (s.setQueue q).fail = s.fail := rfl
@[simp] theorem State.setQueue_out (s : State) (q : Queue) : (s.setQueue q).out = s.out := rfl
@[simp] theorem State.setQueue_frames (s : State) (q : Queue) : (s.setQueue q).frames = s.frames := rfl
@[simp] theorem State.setQueue_txHeld (s : State) (q : Queue) : (s.setQueue q).txHeld = s.txHeld := rfl
@[simp] theorem State.setQueue_pclk (s : State) (q : Queue) : (s.setQueue q).pclk = s.pclk := rfl
@[simp] theorem State.setQueue_free (s : State) (q : Queue) : (s.setQueue q).free = s.free := rfl
@[simp] theorem State.setQueue_pending (s : State) (q : Queue) : (s.setQueue q).pending = s.pending := rfl

@[simp] theorem State.modQueue_power (s : State) (i : Nat) (f : Queue → Queue) : (s.modQueue i f).power = s.power := rfl
@[simp] theorem State.modQueue_boot (s : State) (i : Nat) (f : Queue → Queue) : (s.modQueue i f).boot = s.boot := rfl
@[simp] theorem State.modQueue_hp (s : State) (i : Nat) (f : Queue → Queue) : (s.modQueue i f).hp = s.hp := rfl
@[simp] theorem State.modQueue_sasel (s : State) (i : Nat) (f : Queue → Queue) : (s.modQueue i f).sasel = s.sasel := rfl
@[simp] theorem State.modQueue_work (s : State) (i : Nat) (f : Queue → Queue) : (s.modQueue i f).work = s.work := rfl
@[simp] theorem State.modQueue_idx (s : State) (i : Nat) (f : Queue → Queue) : (s.modQueue i f).idx = s.idx := rfl
@[simp] theorem State.modQueue_ans (s : State) (i : Nat) (f : Queue → Queue) : (s.modQueue i f).ans = s.ans := rfl
@[simp] theorem State.modQueue_img (s : State) (i : Nat) (f : Queue → Queue) : (s.modQueue i f).img = s.img := rfl
@[simp] theorem State.modQueue_loom (s : State) (i : Nat) (f : Queue → Queue) : (s.modQueue i f).loom = s.loom := rfl
@[simp] theorem State.modQueue_mems (s : State) (i : Nat) (f : Queue → Queue) : (s.modQueue i f).mems = s.mems := rfl
@[simp] theorem State.modQueue_tiers (s : State) (i : Nat) (f : Queue → Queue) : (s.modQueue i f).tiers = s.tiers := rfl
@[simp] theorem State.modQueue_tables (s : State) (i : Nat) (f : Queue → Queue) : (s.modQueue i f).tables = s.tables := rfl
@[simp] theorem State.modQueue_grafts (s : State) (i : Nat) (f : Queue → Queue) : (s.modQueue i f).grafts = s.grafts := rfl
@[simp] theorem State.modQueue_flash (s : State) (i : Nat) (f : Queue → Queue) : (s.modQueue i f).flash = s.flash := rfl
@[simp] theorem State.modQueue_fabric (s : State) (i : Nat) (f : Queue → Queue) : (s.modQueue i f).fabric = s.fabric := rfl
@[simp] theorem State.modQueue_integ (s : State) (i : Nat) (f : Queue → Queue) : (s.modQueue i f).integ = s.integ := rfl
@[simp] theorem State.modQueue_fail (s : State) (i : Nat) (f : Queue → Queue) : (s.modQueue i f).fail = s.fail := rfl
@[simp] theorem State.modQueue_out (s : State) (i : Nat) (f : Queue → Queue) : (s.modQueue i f).out = s.out := rfl
@[simp] theorem State.modQueue_frames (s : State) (i : Nat) (f : Queue → Queue) : (s.modQueue i f).frames = s.frames := rfl
@[simp] theorem State.modQueue_txHeld (s : State) (i : Nat) (f : Queue → Queue) : (s.modQueue i f).txHeld = s.txHeld := rfl
@[simp] theorem State.modQueue_pclk (s : State) (i : Nat) (f : Queue → Queue) : (s.modQueue i f).pclk = s.pclk := rfl
@[simp] theorem State.modQueue_free (s : State) (i : Nat) (f : Queue → Queue) : (s.modQueue i f).free = s.free := rfl
@[simp] theorem State.modQueue_pending (s : State) (i : Nat) (f : Queue → Queue) : (s.modQueue i f).pending = s.pending := rfl

@[simp] theorem State.modConn_power (s : State) (h : W32) (f : Conn → Conn) : (s.modConn h f).power = s.power := rfl
@[simp] theorem State.modConn_boot (s : State) (h : W32) (f : Conn → Conn) : (s.modConn h f).boot = s.boot := rfl
@[simp] theorem State.modConn_sasel (s : State) (h : W32) (f : Conn → Conn) : (s.modConn h f).sasel = s.sasel := rfl
@[simp] theorem State.modConn_queues (s : State) (h : W32) (f : Conn → Conn) : (s.modConn h f).queues = s.queues := rfl
@[simp] theorem State.modConn_work (s : State) (h : W32) (f : Conn → Conn) : (s.modConn h f).work = s.work := rfl
@[simp] theorem State.modConn_idx (s : State) (h : W32) (f : Conn → Conn) : (s.modConn h f).idx = s.idx := rfl
@[simp] theorem State.modConn_ans (s : State) (h : W32) (f : Conn → Conn) : (s.modConn h f).ans = s.ans := rfl
@[simp] theorem State.modConn_img (s : State) (h : W32) (f : Conn → Conn) : (s.modConn h f).img = s.img := rfl
@[simp] theorem State.modConn_loom (s : State) (h : W32) (f : Conn → Conn) : (s.modConn h f).loom = s.loom := rfl
@[simp] theorem State.modConn_mems (s : State) (h : W32) (f : Conn → Conn) : (s.modConn h f).mems = s.mems := rfl
@[simp] theorem State.modConn_tiers (s : State) (h : W32) (f : Conn → Conn) : (s.modConn h f).tiers = s.tiers := rfl
@[simp] theorem State.modConn_tables (s : State) (h : W32) (f : Conn → Conn) : (s.modConn h f).tables = s.tables := rfl
@[simp] theorem State.modConn_grafts (s : State) (h : W32) (f : Conn → Conn) : (s.modConn h f).grafts = s.grafts := rfl
@[simp] theorem State.modConn_flash (s : State) (h : W32) (f : Conn → Conn) : (s.modConn h f).flash = s.flash := rfl
@[simp] theorem State.modConn_fabric (s : State) (h : W32) (f : Conn → Conn) : (s.modConn h f).fabric = s.fabric := rfl
@[simp] theorem State.modConn_integ (s : State) (h : W32) (f : Conn → Conn) : (s.modConn h f).integ = s.integ := rfl
@[simp] theorem State.modConn_fail (s : State) (h : W32) (f : Conn → Conn) : (s.modConn h f).fail = s.fail := rfl
@[simp] theorem State.modConn_out (s : State) (h : W32) (f : Conn → Conn) : (s.modConn h f).out = s.out := rfl
@[simp] theorem State.modConn_frames (s : State) (h : W32) (f : Conn → Conn) : (s.modConn h f).frames = s.frames := rfl
@[simp] theorem State.modConn_txHeld (s : State) (h : W32) (f : Conn → Conn) : (s.modConn h f).txHeld = s.txHeld := rfl
@[simp] theorem State.modConn_pclk (s : State) (h : W32) (f : Conn → Conn) : (s.modConn h f).pclk = s.pclk := rfl
@[simp] theorem State.modConn_free (s : State) (h : W32) (f : Conn → Conn) : (s.modConn h f).free = s.free := rfl
@[simp] theorem State.modConn_pending (s : State) (h : W32) (f : Conn → Conn) : (s.modConn h f).pending = s.pending := rfl

@[simp] theorem State.collide_power (s : State)  : (s.collide).power = s.power := rfl
@[simp] theorem State.collide_boot (s : State)  : (s.collide).boot = s.boot := rfl
@[simp] theorem State.collide_sasel (s : State)  : (s.collide).sasel = s.sasel := rfl
@[simp] theorem State.collide_queues (s : State)  : (s.collide).queues = s.queues := rfl
@[simp] theorem State.collide_work (s : State)  : (s.collide).work = s.work := rfl
@[simp] theorem State.collide_idx (s : State)  : (s.collide).idx = s.idx := rfl
@[simp] theorem State.collide_ans (s : State)  : (s.collide).ans = s.ans := rfl
@[simp] theorem State.collide_img (s : State)  : (s.collide).img = s.img := rfl
@[simp] theorem State.collide_loom (s : State)  : (s.collide).loom = s.loom := rfl
@[simp] theorem State.collide_mems (s : State)  : (s.collide).mems = s.mems := rfl
@[simp] theorem State.collide_tiers (s : State)  : (s.collide).tiers = s.tiers := rfl
@[simp] theorem State.collide_tables (s : State)  : (s.collide).tables = s.tables := rfl
@[simp] theorem State.collide_grafts (s : State)  : (s.collide).grafts = s.grafts := rfl
@[simp] theorem State.collide_flash (s : State)  : (s.collide).flash = s.flash := rfl
@[simp] theorem State.collide_fabric (s : State)  : (s.collide).fabric = s.fabric := rfl
@[simp] theorem State.collide_integ (s : State)  : (s.collide).integ = s.integ := rfl
@[simp] theorem State.collide_fail (s : State)  : (s.collide).fail = s.fail := rfl
@[simp] theorem State.collide_out (s : State)  : (s.collide).out = s.out := rfl
@[simp] theorem State.collide_frames (s : State)  : (s.collide).frames = s.frames := rfl
@[simp] theorem State.collide_txHeld (s : State)  : (s.collide).txHeld = s.txHeld := rfl
@[simp] theorem State.collide_pclk (s : State)  : (s.collide).pclk = s.pclk := rfl
@[simp] theorem State.collide_free (s : State)  : (s.collide).free = s.free := rfl
@[simp] theorem State.collide_pending (s : State)  : (s.collide).pending = s.pending := rfl

@[simp] theorem State.setReady_power (s : State) (i : Nat) (b : Bool) : (s.setReady i b).power = s.power := rfl
@[simp] theorem State.setReady_hp (s : State) (i : Nat) (b : Bool) : (s.setReady i b).hp = s.hp := rfl
@[simp] theorem State.setReady_sasel (s : State) (i : Nat) (b : Bool) : (s.setReady i b).sasel = s.sasel := rfl
@[simp] theorem State.setReady_queues (s : State) (i : Nat) (b : Bool) : (s.setReady i b).queues = s.queues := rfl
@[simp] theorem State.setReady_work (s : State) (i : Nat) (b : Bool) : (s.setReady i b).work = s.work := rfl
@[simp] theorem State.setReady_idx (s : State) (i : Nat) (b : Bool) : (s.setReady i b).idx = s.idx := rfl
@[simp] theorem State.setReady_ans (s : State) (i : Nat) (b : Bool) : (s.setReady i b).ans = s.ans := rfl
@[simp] theorem State.setReady_img (s : State) (i : Nat) (b : Bool) : (s.setReady i b).img = s.img := rfl
@[simp] theorem State.setReady_loom (s : State) (i : Nat) (b : Bool) : (s.setReady i b).loom = s.loom := rfl
@[simp] theorem State.setReady_mems (s : State) (i : Nat) (b : Bool) : (s.setReady i b).mems = s.mems := rfl
@[simp] theorem State.setReady_tiers (s : State) (i : Nat) (b : Bool) : (s.setReady i b).tiers = s.tiers := rfl
@[simp] theorem State.setReady_tables (s : State) (i : Nat) (b : Bool) : (s.setReady i b).tables = s.tables := rfl
@[simp] theorem State.setReady_grafts (s : State) (i : Nat) (b : Bool) : (s.setReady i b).grafts = s.grafts := rfl
@[simp] theorem State.setReady_flash (s : State) (i : Nat) (b : Bool) : (s.setReady i b).flash = s.flash := rfl
@[simp] theorem State.setReady_fabric (s : State) (i : Nat) (b : Bool) : (s.setReady i b).fabric = s.fabric := rfl
@[simp] theorem State.setReady_integ (s : State) (i : Nat) (b : Bool) : (s.setReady i b).integ = s.integ := rfl
@[simp] theorem State.setReady_fail (s : State) (i : Nat) (b : Bool) : (s.setReady i b).fail = s.fail := rfl
@[simp] theorem State.setReady_out (s : State) (i : Nat) (b : Bool) : (s.setReady i b).out = s.out := rfl
@[simp] theorem State.setReady_frames (s : State) (i : Nat) (b : Bool) : (s.setReady i b).frames = s.frames := rfl
@[simp] theorem State.setReady_txHeld (s : State) (i : Nat) (b : Bool) : (s.setReady i b).txHeld = s.txHeld := rfl
@[simp] theorem State.setReady_pclk (s : State) (i : Nat) (b : Bool) : (s.setReady i b).pclk = s.pclk := rfl
@[simp] theorem State.setReady_free (s : State) (i : Nat) (b : Bool) : (s.setReady i b).free = s.free := rfl
@[simp] theorem State.setReady_pending (s : State) (i : Nat) (b : Bool) : (s.setReady i b).pending = s.pending := rfl

@[simp] theorem State.modAns_power (s : State) (f : Answers → Answers) : (s.modAns f).power = s.power := rfl
@[simp] theorem State.modAns_boot (s : State) (f : Answers → Answers) : (s.modAns f).boot = s.boot := rfl
@[simp] theorem State.modAns_hp (s : State) (f : Answers → Answers) : (s.modAns f).hp = s.hp := rfl
@[simp] theorem State.modAns_sasel (s : State) (f : Answers → Answers) : (s.modAns f).sasel = s.sasel := rfl
@[simp] theorem State.modAns_queues (s : State) (f : Answers → Answers) : (s.modAns f).queues = s.queues := rfl
@[simp] theorem State.modAns_work (s : State) (f : Answers → Answers) : (s.modAns f).work = s.work := rfl
@[simp] theorem State.modAns_idx (s : State) (f : Answers → Answers) : (s.modAns f).idx = s.idx := rfl
@[simp] theorem State.modAns_img (s : State) (f : Answers → Answers) : (s.modAns f).img = s.img := rfl
@[simp] theorem State.modAns_loom (s : State) (f : Answers → Answers) : (s.modAns f).loom = s.loom := rfl
@[simp] theorem State.modAns_mems (s : State) (f : Answers → Answers) : (s.modAns f).mems = s.mems := rfl
@[simp] theorem State.modAns_tiers (s : State) (f : Answers → Answers) : (s.modAns f).tiers = s.tiers := rfl
@[simp] theorem State.modAns_tables (s : State) (f : Answers → Answers) : (s.modAns f).tables = s.tables := rfl
@[simp] theorem State.modAns_grafts (s : State) (f : Answers → Answers) : (s.modAns f).grafts = s.grafts := rfl
@[simp] theorem State.modAns_flash (s : State) (f : Answers → Answers) : (s.modAns f).flash = s.flash := rfl
@[simp] theorem State.modAns_fabric (s : State) (f : Answers → Answers) : (s.modAns f).fabric = s.fabric := rfl
@[simp] theorem State.modAns_integ (s : State) (f : Answers → Answers) : (s.modAns f).integ = s.integ := rfl
@[simp] theorem State.modAns_fail (s : State) (f : Answers → Answers) : (s.modAns f).fail = s.fail := rfl
@[simp] theorem State.modAns_out (s : State) (f : Answers → Answers) : (s.modAns f).out = s.out := rfl
@[simp] theorem State.modAns_frames (s : State) (f : Answers → Answers) : (s.modAns f).frames = s.frames := rfl
@[simp] theorem State.modAns_txHeld (s : State) (f : Answers → Answers) : (s.modAns f).txHeld = s.txHeld := rfl
@[simp] theorem State.modAns_pclk (s : State) (f : Answers → Answers) : (s.modAns f).pclk = s.pclk := rfl
@[simp] theorem State.modAns_free (s : State) (f : Answers → Answers) : (s.modAns f).free = s.free := rfl
@[simp] theorem State.modAns_pending (s : State) (f : Answers → Answers) : (s.modAns f).pending = s.pending := rfl

@[simp] theorem State.setReq_power (s : State) (r : Req) : (s.setReq r).power = s.power := rfl
@[simp] theorem State.setReq_boot (s : State) (r : Req) : (s.setReq r).boot = s.boot := rfl
@[simp] theorem State.setReq_hp (s : State) (r : Req) : (s.setReq r).hp = s.hp := rfl
@[simp] theorem State.setReq_sasel (s : State) (r : Req) : (s.setReq r).sasel = s.sasel := rfl
@[simp] theorem State.setReq_queues (s : State) (r : Req) : (s.setReq r).queues = s.queues := rfl
@[simp] theorem State.setReq_work (s : State) (r : Req) : (s.setReq r).work = s.work := rfl
@[simp] theorem State.setReq_idx (s : State) (r : Req) : (s.setReq r).idx = s.idx := rfl
@[simp] theorem State.setReq_img (s : State) (r : Req) : (s.setReq r).img = s.img := rfl
@[simp] theorem State.setReq_loom (s : State) (r : Req) : (s.setReq r).loom = s.loom := rfl
@[simp] theorem State.setReq_mems (s : State) (r : Req) : (s.setReq r).mems = s.mems := rfl
@[simp] theorem State.setReq_tiers (s : State) (r : Req) : (s.setReq r).tiers = s.tiers := rfl
@[simp] theorem State.setReq_tables (s : State) (r : Req) : (s.setReq r).tables = s.tables := rfl
@[simp] theorem State.setReq_grafts (s : State) (r : Req) : (s.setReq r).grafts = s.grafts := rfl
@[simp] theorem State.setReq_flash (s : State) (r : Req) : (s.setReq r).flash = s.flash := rfl
@[simp] theorem State.setReq_fabric (s : State) (r : Req) : (s.setReq r).fabric = s.fabric := rfl
@[simp] theorem State.setReq_integ (s : State) (r : Req) : (s.setReq r).integ = s.integ := rfl
@[simp] theorem State.setReq_fail (s : State) (r : Req) : (s.setReq r).fail = s.fail := rfl
@[simp] theorem State.setReq_out (s : State) (r : Req) : (s.setReq r).out = s.out := rfl
@[simp] theorem State.setReq_frames (s : State) (r : Req) : (s.setReq r).frames = s.frames := rfl
@[simp] theorem State.setReq_txHeld (s : State) (r : Req) : (s.setReq r).txHeld = s.txHeld := rfl
@[simp] theorem State.setReq_pclk (s : State) (r : Req) : (s.setReq r).pclk = s.pclk := rfl
@[simp] theorem State.setReq_free (s : State) (r : Req) : (s.setReq r).free = s.free := rfl
@[simp] theorem State.setReq_pending (s : State) (r : Req) : (s.setReq r).pending = s.pending := rfl

@[simp] theorem State.modFlash_power (s : State) (f : Flash → Flash) : (s.modFlash f).power = s.power := rfl
@[simp] theorem State.modFlash_boot (s : State) (f : Flash → Flash) : (s.modFlash f).boot = s.boot := rfl
@[simp] theorem State.modFlash_hp (s : State) (f : Flash → Flash) : (s.modFlash f).hp = s.hp := rfl
@[simp] theorem State.modFlash_sasel (s : State) (f : Flash → Flash) : (s.modFlash f).sasel = s.sasel := rfl
@[simp] theorem State.modFlash_queues (s : State) (f : Flash → Flash) : (s.modFlash f).queues = s.queues := rfl
@[simp] theorem State.modFlash_work (s : State) (f : Flash → Flash) : (s.modFlash f).work = s.work := rfl
@[simp] theorem State.modFlash_idx (s : State) (f : Flash → Flash) : (s.modFlash f).idx = s.idx := rfl
@[simp] theorem State.modFlash_ans (s : State) (f : Flash → Flash) : (s.modFlash f).ans = s.ans := rfl
@[simp] theorem State.modFlash_img (s : State) (f : Flash → Flash) : (s.modFlash f).img = s.img := rfl
@[simp] theorem State.modFlash_loom (s : State) (f : Flash → Flash) : (s.modFlash f).loom = s.loom := rfl
@[simp] theorem State.modFlash_mems (s : State) (f : Flash → Flash) : (s.modFlash f).mems = s.mems := rfl
@[simp] theorem State.modFlash_tiers (s : State) (f : Flash → Flash) : (s.modFlash f).tiers = s.tiers := rfl
@[simp] theorem State.modFlash_tables (s : State) (f : Flash → Flash) : (s.modFlash f).tables = s.tables := rfl
@[simp] theorem State.modFlash_grafts (s : State) (f : Flash → Flash) : (s.modFlash f).grafts = s.grafts := rfl
@[simp] theorem State.modFlash_fabric (s : State) (f : Flash → Flash) : (s.modFlash f).fabric = s.fabric := rfl
@[simp] theorem State.modFlash_integ (s : State) (f : Flash → Flash) : (s.modFlash f).integ = s.integ := rfl
@[simp] theorem State.modFlash_fail (s : State) (f : Flash → Flash) : (s.modFlash f).fail = s.fail := rfl
@[simp] theorem State.modFlash_out (s : State) (f : Flash → Flash) : (s.modFlash f).out = s.out := rfl
@[simp] theorem State.modFlash_frames (s : State) (f : Flash → Flash) : (s.modFlash f).frames = s.frames := rfl
@[simp] theorem State.modFlash_txHeld (s : State) (f : Flash → Flash) : (s.modFlash f).txHeld = s.txHeld := rfl
@[simp] theorem State.modFlash_pclk (s : State) (f : Flash → Flash) : (s.modFlash f).pclk = s.pclk := rfl
@[simp] theorem State.modFlash_free (s : State) (f : Flash → Flash) : (s.modFlash f).free = s.free := rfl
@[simp] theorem State.modFlash_pending (s : State) (f : Flash → Flash) : (s.modFlash f).pending = s.pending := rfl

@[simp] theorem State.modChannel_power (s : State) (c : Nat) (f : Channel → Channel) : (s.modChannel c f).power = s.power := rfl
@[simp] theorem State.modChannel_boot (s : State) (c : Nat) (f : Channel → Channel) : (s.modChannel c f).boot = s.boot := rfl
@[simp] theorem State.modChannel_hp (s : State) (c : Nat) (f : Channel → Channel) : (s.modChannel c f).hp = s.hp := rfl
@[simp] theorem State.modChannel_sasel (s : State) (c : Nat) (f : Channel → Channel) : (s.modChannel c f).sasel = s.sasel := rfl
@[simp] theorem State.modChannel_queues (s : State) (c : Nat) (f : Channel → Channel) : (s.modChannel c f).queues = s.queues := rfl
@[simp] theorem State.modChannel_work (s : State) (c : Nat) (f : Channel → Channel) : (s.modChannel c f).work = s.work := rfl
@[simp] theorem State.modChannel_idx (s : State) (c : Nat) (f : Channel → Channel) : (s.modChannel c f).idx = s.idx := rfl
@[simp] theorem State.modChannel_ans (s : State) (c : Nat) (f : Channel → Channel) : (s.modChannel c f).ans = s.ans := rfl
@[simp] theorem State.modChannel_img (s : State) (c : Nat) (f : Channel → Channel) : (s.modChannel c f).img = s.img := rfl
@[simp] theorem State.modChannel_loom (s : State) (c : Nat) (f : Channel → Channel) : (s.modChannel c f).loom = s.loom := rfl
@[simp] theorem State.modChannel_mems (s : State) (c : Nat) (f : Channel → Channel) : (s.modChannel c f).mems = s.mems := rfl
@[simp] theorem State.modChannel_tiers (s : State) (c : Nat) (f : Channel → Channel) : (s.modChannel c f).tiers = s.tiers := rfl
@[simp] theorem State.modChannel_tables (s : State) (c : Nat) (f : Channel → Channel) : (s.modChannel c f).tables = s.tables := rfl
@[simp] theorem State.modChannel_grafts (s : State) (c : Nat) (f : Channel → Channel) : (s.modChannel c f).grafts = s.grafts := rfl
@[simp] theorem State.modChannel_fabric (s : State) (c : Nat) (f : Channel → Channel) : (s.modChannel c f).fabric = s.fabric := rfl
@[simp] theorem State.modChannel_integ (s : State) (c : Nat) (f : Channel → Channel) : (s.modChannel c f).integ = s.integ := rfl
@[simp] theorem State.modChannel_fail (s : State) (c : Nat) (f : Channel → Channel) : (s.modChannel c f).fail = s.fail := rfl
@[simp] theorem State.modChannel_out (s : State) (c : Nat) (f : Channel → Channel) : (s.modChannel c f).out = s.out := rfl
@[simp] theorem State.modChannel_frames (s : State) (c : Nat) (f : Channel → Channel) : (s.modChannel c f).frames = s.frames := rfl
@[simp] theorem State.modChannel_txHeld (s : State) (c : Nat) (f : Channel → Channel) : (s.modChannel c f).txHeld = s.txHeld := rfl
@[simp] theorem State.modChannel_pclk (s : State) (c : Nat) (f : Channel → Channel) : (s.modChannel c f).pclk = s.pclk := rfl
@[simp] theorem State.modChannel_free (s : State) (c : Nat) (f : Channel → Channel) : (s.modChannel c f).free = s.free := rfl
@[simp] theorem State.modChannel_pending (s : State) (c : Nat) (f : Channel → Channel) : (s.modChannel c f).pending = s.pending := rfl

@[simp] theorem State.setBlock_power (s : State) (b : BlockSet) : (s.setBlock b).power = s.power := rfl
@[simp] theorem State.setBlock_boot (s : State) (b : BlockSet) : (s.setBlock b).boot = s.boot := rfl
@[simp] theorem State.setBlock_hp (s : State) (b : BlockSet) : (s.setBlock b).hp = s.hp := rfl
@[simp] theorem State.setBlock_sasel (s : State) (b : BlockSet) : (s.setBlock b).sasel = s.sasel := rfl
@[simp] theorem State.setBlock_queues (s : State) (b : BlockSet) : (s.setBlock b).queues = s.queues := rfl
@[simp] theorem State.setBlock_work (s : State) (b : BlockSet) : (s.setBlock b).work = s.work := rfl
@[simp] theorem State.setBlock_idx (s : State) (b : BlockSet) : (s.setBlock b).idx = s.idx := rfl
@[simp] theorem State.setBlock_ans (s : State) (b : BlockSet) : (s.setBlock b).ans = s.ans := rfl
@[simp] theorem State.setBlock_img (s : State) (b : BlockSet) : (s.setBlock b).img = s.img := rfl
@[simp] theorem State.setBlock_loom (s : State) (b : BlockSet) : (s.setBlock b).loom = s.loom := rfl
@[simp] theorem State.setBlock_mems (s : State) (b : BlockSet) : (s.setBlock b).mems = s.mems := rfl
@[simp] theorem State.setBlock_tiers (s : State) (b : BlockSet) : (s.setBlock b).tiers = s.tiers := rfl
@[simp] theorem State.setBlock_tables (s : State) (b : BlockSet) : (s.setBlock b).tables = s.tables := rfl
@[simp] theorem State.setBlock_grafts (s : State) (b : BlockSet) : (s.setBlock b).grafts = s.grafts := rfl
@[simp] theorem State.setBlock_fabric (s : State) (b : BlockSet) : (s.setBlock b).fabric = s.fabric := rfl
@[simp] theorem State.setBlock_integ (s : State) (b : BlockSet) : (s.setBlock b).integ = s.integ := rfl
@[simp] theorem State.setBlock_fail (s : State) (b : BlockSet) : (s.setBlock b).fail = s.fail := rfl
@[simp] theorem State.setBlock_out (s : State) (b : BlockSet) : (s.setBlock b).out = s.out := rfl
@[simp] theorem State.setBlock_frames (s : State) (b : BlockSet) : (s.setBlock b).frames = s.frames := rfl
@[simp] theorem State.setBlock_txHeld (s : State) (b : BlockSet) : (s.setBlock b).txHeld = s.txHeld := rfl
@[simp] theorem State.setBlock_pclk (s : State) (b : BlockSet) : (s.setBlock b).pclk = s.pclk := rfl
@[simp] theorem State.setBlock_free (s : State) (b : BlockSet) : (s.setBlock b).free = s.free := rfl
@[simp] theorem State.setBlock_pending (s : State) (b : BlockSet) : (s.setBlock b).pending = s.pending := rfl

@[simp] theorem State.isolate_power (s : State)  : (s.isolate).power = s.power := rfl
@[simp] theorem State.isolate_boot (s : State)  : (s.isolate).boot = s.boot := rfl
@[simp] theorem State.isolate_hp (s : State)  : (s.isolate).hp = s.hp := rfl
@[simp] theorem State.isolate_sasel (s : State)  : (s.isolate).sasel = s.sasel := rfl
@[simp] theorem State.isolate_queues (s : State)  : (s.isolate).queues = s.queues := rfl
@[simp] theorem State.isolate_work (s : State)  : (s.isolate).work = s.work := rfl
@[simp] theorem State.isolate_idx (s : State)  : (s.isolate).idx = s.idx := rfl
@[simp] theorem State.isolate_ans (s : State)  : (s.isolate).ans = s.ans := rfl
@[simp] theorem State.isolate_img (s : State)  : (s.isolate).img = s.img := rfl
@[simp] theorem State.isolate_loom (s : State)  : (s.isolate).loom = s.loom := rfl
@[simp] theorem State.isolate_mems (s : State)  : (s.isolate).mems = s.mems := rfl
@[simp] theorem State.isolate_tiers (s : State)  : (s.isolate).tiers = s.tiers := rfl
@[simp] theorem State.isolate_tables (s : State)  : (s.isolate).tables = s.tables := rfl
@[simp] theorem State.isolate_grafts (s : State)  : (s.isolate).grafts = s.grafts := rfl
@[simp] theorem State.isolate_flash (s : State)  : (s.isolate).flash = s.flash := rfl
@[simp] theorem State.isolate_fabric (s : State)  : (s.isolate).fabric = s.fabric := rfl
@[simp] theorem State.isolate_fail (s : State)  : (s.isolate).fail = s.fail := rfl
@[simp] theorem State.isolate_out (s : State)  : (s.isolate).out = s.out := rfl
@[simp] theorem State.isolate_frames (s : State)  : (s.isolate).frames = s.frames := rfl
@[simp] theorem State.isolate_txHeld (s : State)  : (s.isolate).txHeld = s.txHeld := rfl
@[simp] theorem State.isolate_pclk (s : State)  : (s.isolate).pclk = s.pclk := rfl
@[simp] theorem State.isolate_free (s : State)  : (s.isolate).free = s.free := rfl
@[simp] theorem State.isolate_pending (s : State)  : (s.isolate).pending = s.pending := rfl

@[simp] theorem State.modInteg_power (s : State) (f : Integrity → Integrity) : (s.modInteg f).power = s.power := rfl
@[simp] theorem State.modInteg_boot (s : State) (f : Integrity → Integrity) : (s.modInteg f).boot = s.boot := rfl
@[simp] theorem State.modInteg_hp (s : State) (f : Integrity → Integrity) : (s.modInteg f).hp = s.hp := rfl
@[simp] theorem State.modInteg_sasel (s : State) (f : Integrity → Integrity) : (s.modInteg f).sasel = s.sasel := rfl
@[simp] theorem State.modInteg_queues (s : State) (f : Integrity → Integrity) : (s.modInteg f).queues = s.queues := rfl
@[simp] theorem State.modInteg_work (s : State) (f : Integrity → Integrity) : (s.modInteg f).work = s.work := rfl
@[simp] theorem State.modInteg_idx (s : State) (f : Integrity → Integrity) : (s.modInteg f).idx = s.idx := rfl
@[simp] theorem State.modInteg_ans (s : State) (f : Integrity → Integrity) : (s.modInteg f).ans = s.ans := rfl
@[simp] theorem State.modInteg_img (s : State) (f : Integrity → Integrity) : (s.modInteg f).img = s.img := rfl
@[simp] theorem State.modInteg_loom (s : State) (f : Integrity → Integrity) : (s.modInteg f).loom = s.loom := rfl
@[simp] theorem State.modInteg_mems (s : State) (f : Integrity → Integrity) : (s.modInteg f).mems = s.mems := rfl
@[simp] theorem State.modInteg_tiers (s : State) (f : Integrity → Integrity) : (s.modInteg f).tiers = s.tiers := rfl
@[simp] theorem State.modInteg_tables (s : State) (f : Integrity → Integrity) : (s.modInteg f).tables = s.tables := rfl
@[simp] theorem State.modInteg_grafts (s : State) (f : Integrity → Integrity) : (s.modInteg f).grafts = s.grafts := rfl
@[simp] theorem State.modInteg_flash (s : State) (f : Integrity → Integrity) : (s.modInteg f).flash = s.flash := rfl
@[simp] theorem State.modInteg_fabric (s : State) (f : Integrity → Integrity) : (s.modInteg f).fabric = s.fabric := rfl
@[simp] theorem State.modInteg_fail (s : State) (f : Integrity → Integrity) : (s.modInteg f).fail = s.fail := rfl
@[simp] theorem State.modInteg_out (s : State) (f : Integrity → Integrity) : (s.modInteg f).out = s.out := rfl
@[simp] theorem State.modInteg_frames (s : State) (f : Integrity → Integrity) : (s.modInteg f).frames = s.frames := rfl
@[simp] theorem State.modInteg_txHeld (s : State) (f : Integrity → Integrity) : (s.modInteg f).txHeld = s.txHeld := rfl
@[simp] theorem State.modInteg_pclk (s : State) (f : Integrity → Integrity) : (s.modInteg f).pclk = s.pclk := rfl
@[simp] theorem State.modInteg_free (s : State) (f : Integrity → Integrity) : (s.modInteg f).free = s.free := rfl
@[simp] theorem State.modInteg_pending (s : State) (f : Integrity → Integrity) : (s.modInteg f).pending = s.pending := rfl

@[simp] theorem State.setFlips_power (s : State) (m w : Nat) (l : List Nat) : (s.setFlips m w l).power = s.power := rfl
@[simp] theorem State.setFlips_boot (s : State) (m w : Nat) (l : List Nat) : (s.setFlips m w l).boot = s.boot := rfl
@[simp] theorem State.setFlips_hp (s : State) (m w : Nat) (l : List Nat) : (s.setFlips m w l).hp = s.hp := rfl
@[simp] theorem State.setFlips_sasel (s : State) (m w : Nat) (l : List Nat) : (s.setFlips m w l).sasel = s.sasel := rfl
@[simp] theorem State.setFlips_queues (s : State) (m w : Nat) (l : List Nat) : (s.setFlips m w l).queues = s.queues := rfl
@[simp] theorem State.setFlips_work (s : State) (m w : Nat) (l : List Nat) : (s.setFlips m w l).work = s.work := rfl
@[simp] theorem State.setFlips_idx (s : State) (m w : Nat) (l : List Nat) : (s.setFlips m w l).idx = s.idx := rfl
@[simp] theorem State.setFlips_ans (s : State) (m w : Nat) (l : List Nat) : (s.setFlips m w l).ans = s.ans := rfl
@[simp] theorem State.setFlips_img (s : State) (m w : Nat) (l : List Nat) : (s.setFlips m w l).img = s.img := rfl
@[simp] theorem State.setFlips_loom (s : State) (m w : Nat) (l : List Nat) : (s.setFlips m w l).loom = s.loom := rfl
@[simp] theorem State.setFlips_mems (s : State) (m w : Nat) (l : List Nat) : (s.setFlips m w l).mems = s.mems := rfl
@[simp] theorem State.setFlips_tiers (s : State) (m w : Nat) (l : List Nat) : (s.setFlips m w l).tiers = s.tiers := rfl
@[simp] theorem State.setFlips_tables (s : State) (m w : Nat) (l : List Nat) : (s.setFlips m w l).tables = s.tables := rfl
@[simp] theorem State.setFlips_grafts (s : State) (m w : Nat) (l : List Nat) : (s.setFlips m w l).grafts = s.grafts := rfl
@[simp] theorem State.setFlips_flash (s : State) (m w : Nat) (l : List Nat) : (s.setFlips m w l).flash = s.flash := rfl
@[simp] theorem State.setFlips_fabric (s : State) (m w : Nat) (l : List Nat) : (s.setFlips m w l).fabric = s.fabric := rfl
@[simp] theorem State.setFlips_fail (s : State) (m w : Nat) (l : List Nat) : (s.setFlips m w l).fail = s.fail := rfl
@[simp] theorem State.setFlips_out (s : State) (m w : Nat) (l : List Nat) : (s.setFlips m w l).out = s.out := rfl
@[simp] theorem State.setFlips_frames (s : State) (m w : Nat) (l : List Nat) : (s.setFlips m w l).frames = s.frames := rfl
@[simp] theorem State.setFlips_txHeld (s : State) (m w : Nat) (l : List Nat) : (s.setFlips m w l).txHeld = s.txHeld := rfl
@[simp] theorem State.setFlips_pclk (s : State) (m w : Nat) (l : List Nat) : (s.setFlips m w l).pclk = s.pclk := rfl
@[simp] theorem State.setFlips_free (s : State) (m w : Nat) (l : List Nat) : (s.setFlips m w l).free = s.free := rfl
@[simp] theorem State.setFlips_pending (s : State) (m w : Nat) (l : List Nat) : (s.setFlips m w l).pending = s.pending := rfl

@[simp] theorem State.releaseRecords_power (s : State) (first : Nat) : (s.releaseRecords first).power = s.power := rfl
@[simp] theorem State.releaseRecords_boot (s : State) (first : Nat) : (s.releaseRecords first).boot = s.boot := rfl
@[simp] theorem State.releaseRecords_hp (s : State) (first : Nat) : (s.releaseRecords first).hp = s.hp := rfl
@[simp] theorem State.releaseRecords_sasel (s : State) (first : Nat) : (s.releaseRecords first).sasel = s.sasel := rfl
@[simp] theorem State.releaseRecords_queues (s : State) (first : Nat) : (s.releaseRecords first).queues = s.queues := rfl
@[simp] theorem State.releaseRecords_work (s : State) (first : Nat) : (s.releaseRecords first).work = s.work := rfl
@[simp] theorem State.releaseRecords_idx (s : State) (first : Nat) : (s.releaseRecords first).idx = s.idx := rfl
@[simp] theorem State.releaseRecords_ans (s : State) (first : Nat) : (s.releaseRecords first).ans = s.ans := rfl
@[simp] theorem State.releaseRecords_img (s : State) (first : Nat) : (s.releaseRecords first).img = s.img := rfl
@[simp] theorem State.releaseRecords_loom (s : State) (first : Nat) : (s.releaseRecords first).loom = s.loom := rfl
@[simp] theorem State.releaseRecords_mems (s : State) (first : Nat) : (s.releaseRecords first).mems = s.mems := rfl
@[simp] theorem State.releaseRecords_tiers (s : State) (first : Nat) : (s.releaseRecords first).tiers = s.tiers := rfl
@[simp] theorem State.releaseRecords_tables (s : State) (first : Nat) : (s.releaseRecords first).tables = s.tables := rfl
@[simp] theorem State.releaseRecords_grafts (s : State) (first : Nat) : (s.releaseRecords first).grafts = s.grafts := rfl
@[simp] theorem State.releaseRecords_flash (s : State) (first : Nat) : (s.releaseRecords first).flash = s.flash := rfl
@[simp] theorem State.releaseRecords_fabric (s : State) (first : Nat) : (s.releaseRecords first).fabric = s.fabric := rfl
@[simp] theorem State.releaseRecords_fail (s : State) (first : Nat) : (s.releaseRecords first).fail = s.fail := rfl
@[simp] theorem State.releaseRecords_out (s : State) (first : Nat) : (s.releaseRecords first).out = s.out := rfl
@[simp] theorem State.releaseRecords_frames (s : State) (first : Nat) : (s.releaseRecords first).frames = s.frames := rfl
@[simp] theorem State.releaseRecords_txHeld (s : State) (first : Nat) : (s.releaseRecords first).txHeld = s.txHeld := rfl
@[simp] theorem State.releaseRecords_pclk (s : State) (first : Nat) : (s.releaseRecords first).pclk = s.pclk := rfl
@[simp] theorem State.releaseRecords_free (s : State) (first : Nat) : (s.releaseRecords first).free = s.free := rfl
@[simp] theorem State.releaseRecords_pending (s : State) (first : Nat) : (s.releaseRecords first).pending = s.pending := rfl

@[simp] theorem State.modTiers_power (s : State) (f : Tiers → Tiers) : (s.modTiers f).power = s.power := rfl
@[simp] theorem State.modTiers_boot (s : State) (f : Tiers → Tiers) : (s.modTiers f).boot = s.boot := rfl
@[simp] theorem State.modTiers_hp (s : State) (f : Tiers → Tiers) : (s.modTiers f).hp = s.hp := rfl
@[simp] theorem State.modTiers_sasel (s : State) (f : Tiers → Tiers) : (s.modTiers f).sasel = s.sasel := rfl
@[simp] theorem State.modTiers_queues (s : State) (f : Tiers → Tiers) : (s.modTiers f).queues = s.queues := rfl
@[simp] theorem State.modTiers_work (s : State) (f : Tiers → Tiers) : (s.modTiers f).work = s.work := rfl
@[simp] theorem State.modTiers_idx (s : State) (f : Tiers → Tiers) : (s.modTiers f).idx = s.idx := rfl
@[simp] theorem State.modTiers_ans (s : State) (f : Tiers → Tiers) : (s.modTiers f).ans = s.ans := rfl
@[simp] theorem State.modTiers_img (s : State) (f : Tiers → Tiers) : (s.modTiers f).img = s.img := rfl
@[simp] theorem State.modTiers_loom (s : State) (f : Tiers → Tiers) : (s.modTiers f).loom = s.loom := rfl
@[simp] theorem State.modTiers_mems (s : State) (f : Tiers → Tiers) : (s.modTiers f).mems = s.mems := rfl
@[simp] theorem State.modTiers_tables (s : State) (f : Tiers → Tiers) : (s.modTiers f).tables = s.tables := rfl
@[simp] theorem State.modTiers_grafts (s : State) (f : Tiers → Tiers) : (s.modTiers f).grafts = s.grafts := rfl
@[simp] theorem State.modTiers_flash (s : State) (f : Tiers → Tiers) : (s.modTiers f).flash = s.flash := rfl
@[simp] theorem State.modTiers_fabric (s : State) (f : Tiers → Tiers) : (s.modTiers f).fabric = s.fabric := rfl
@[simp] theorem State.modTiers_integ (s : State) (f : Tiers → Tiers) : (s.modTiers f).integ = s.integ := rfl
@[simp] theorem State.modTiers_fail (s : State) (f : Tiers → Tiers) : (s.modTiers f).fail = s.fail := rfl
@[simp] theorem State.modTiers_out (s : State) (f : Tiers → Tiers) : (s.modTiers f).out = s.out := rfl
@[simp] theorem State.modTiers_frames (s : State) (f : Tiers → Tiers) : (s.modTiers f).frames = s.frames := rfl
@[simp] theorem State.modTiers_txHeld (s : State) (f : Tiers → Tiers) : (s.modTiers f).txHeld = s.txHeld := rfl
@[simp] theorem State.modTiers_pclk (s : State) (f : Tiers → Tiers) : (s.modTiers f).pclk = s.pclk := rfl
@[simp] theorem State.modTiers_free (s : State) (f : Tiers → Tiers) : (s.modTiers f).free = s.free := rfl
@[simp] theorem State.modTiers_pending (s : State) (f : Tiers → Tiers) : (s.modTiers f).pending = s.pending := rfl

@[simp] theorem State.modHome_power (s : State) (id : W64) (f : Home → Home) : (s.modHome id f).power = s.power := rfl
@[simp] theorem State.modHome_boot (s : State) (id : W64) (f : Home → Home) : (s.modHome id f).boot = s.boot := rfl
@[simp] theorem State.modHome_hp (s : State) (id : W64) (f : Home → Home) : (s.modHome id f).hp = s.hp := rfl
@[simp] theorem State.modHome_sasel (s : State) (id : W64) (f : Home → Home) : (s.modHome id f).sasel = s.sasel := rfl
@[simp] theorem State.modHome_queues (s : State) (id : W64) (f : Home → Home) : (s.modHome id f).queues = s.queues := rfl
@[simp] theorem State.modHome_work (s : State) (id : W64) (f : Home → Home) : (s.modHome id f).work = s.work := rfl
@[simp] theorem State.modHome_idx (s : State) (id : W64) (f : Home → Home) : (s.modHome id f).idx = s.idx := rfl
@[simp] theorem State.modHome_ans (s : State) (id : W64) (f : Home → Home) : (s.modHome id f).ans = s.ans := rfl
@[simp] theorem State.modHome_img (s : State) (id : W64) (f : Home → Home) : (s.modHome id f).img = s.img := rfl
@[simp] theorem State.modHome_loom (s : State) (id : W64) (f : Home → Home) : (s.modHome id f).loom = s.loom := rfl
@[simp] theorem State.modHome_mems (s : State) (id : W64) (f : Home → Home) : (s.modHome id f).mems = s.mems := rfl
@[simp] theorem State.modHome_tables (s : State) (id : W64) (f : Home → Home) : (s.modHome id f).tables = s.tables := rfl
@[simp] theorem State.modHome_grafts (s : State) (id : W64) (f : Home → Home) : (s.modHome id f).grafts = s.grafts := rfl
@[simp] theorem State.modHome_flash (s : State) (id : W64) (f : Home → Home) : (s.modHome id f).flash = s.flash := rfl
@[simp] theorem State.modHome_fabric (s : State) (id : W64) (f : Home → Home) : (s.modHome id f).fabric = s.fabric := rfl
@[simp] theorem State.modHome_integ (s : State) (id : W64) (f : Home → Home) : (s.modHome id f).integ = s.integ := rfl
@[simp] theorem State.modHome_fail (s : State) (id : W64) (f : Home → Home) : (s.modHome id f).fail = s.fail := rfl
@[simp] theorem State.modHome_out (s : State) (id : W64) (f : Home → Home) : (s.modHome id f).out = s.out := rfl
@[simp] theorem State.modHome_frames (s : State) (id : W64) (f : Home → Home) : (s.modHome id f).frames = s.frames := rfl
@[simp] theorem State.modHome_txHeld (s : State) (id : W64) (f : Home → Home) : (s.modHome id f).txHeld = s.txHeld := rfl
@[simp] theorem State.modHome_pclk (s : State) (id : W64) (f : Home → Home) : (s.modHome id f).pclk = s.pclk := rfl
@[simp] theorem State.modHome_free (s : State) (id : W64) (f : Home → Home) : (s.modHome id f).free = s.free := rfl
@[simp] theorem State.modHome_pending (s : State) (id : W64) (f : Home → Home) : (s.modHome id f).pending = s.pending := rfl

@[simp] theorem State.addHome_power (s : State) (h : Home) : (s.addHome h).power = s.power := rfl
@[simp] theorem State.addHome_boot (s : State) (h : Home) : (s.addHome h).boot = s.boot := rfl
@[simp] theorem State.addHome_hp (s : State) (h : Home) : (s.addHome h).hp = s.hp := rfl
@[simp] theorem State.addHome_sasel (s : State) (h : Home) : (s.addHome h).sasel = s.sasel := rfl
@[simp] theorem State.addHome_queues (s : State) (h : Home) : (s.addHome h).queues = s.queues := rfl
@[simp] theorem State.addHome_work (s : State) (h : Home) : (s.addHome h).work = s.work := rfl
@[simp] theorem State.addHome_idx (s : State) (h : Home) : (s.addHome h).idx = s.idx := rfl
@[simp] theorem State.addHome_ans (s : State) (h : Home) : (s.addHome h).ans = s.ans := rfl
@[simp] theorem State.addHome_img (s : State) (h : Home) : (s.addHome h).img = s.img := rfl
@[simp] theorem State.addHome_loom (s : State) (h : Home) : (s.addHome h).loom = s.loom := rfl
@[simp] theorem State.addHome_mems (s : State) (h : Home) : (s.addHome h).mems = s.mems := rfl
@[simp] theorem State.addHome_tables (s : State) (h : Home) : (s.addHome h).tables = s.tables := rfl
@[simp] theorem State.addHome_grafts (s : State) (h : Home) : (s.addHome h).grafts = s.grafts := rfl
@[simp] theorem State.addHome_flash (s : State) (h : Home) : (s.addHome h).flash = s.flash := rfl
@[simp] theorem State.addHome_fabric (s : State) (h : Home) : (s.addHome h).fabric = s.fabric := rfl
@[simp] theorem State.addHome_integ (s : State) (h : Home) : (s.addHome h).integ = s.integ := rfl
@[simp] theorem State.addHome_fail (s : State) (h : Home) : (s.addHome h).fail = s.fail := rfl
@[simp] theorem State.addHome_out (s : State) (h : Home) : (s.addHome h).out = s.out := rfl
@[simp] theorem State.addHome_frames (s : State) (h : Home) : (s.addHome h).frames = s.frames := rfl
@[simp] theorem State.addHome_txHeld (s : State) (h : Home) : (s.addHome h).txHeld = s.txHeld := rfl
@[simp] theorem State.addHome_pclk (s : State) (h : Home) : (s.addHome h).pclk = s.pclk := rfl
@[simp] theorem State.addHome_free (s : State) (h : Home) : (s.addHome h).free = s.free := rfl
@[simp] theorem State.addHome_pending (s : State) (h : Home) : (s.addHome h).pending = s.pending := rfl

@[simp] theorem State.modTables_power (s : State) (f : Tables → Tables) : (s.modTables f).power = s.power := rfl
@[simp] theorem State.modTables_boot (s : State) (f : Tables → Tables) : (s.modTables f).boot = s.boot := rfl
@[simp] theorem State.modTables_hp (s : State) (f : Tables → Tables) : (s.modTables f).hp = s.hp := rfl
@[simp] theorem State.modTables_sasel (s : State) (f : Tables → Tables) : (s.modTables f).sasel = s.sasel := rfl
@[simp] theorem State.modTables_queues (s : State) (f : Tables → Tables) : (s.modTables f).queues = s.queues := rfl
@[simp] theorem State.modTables_work (s : State) (f : Tables → Tables) : (s.modTables f).work = s.work := rfl
@[simp] theorem State.modTables_idx (s : State) (f : Tables → Tables) : (s.modTables f).idx = s.idx := rfl
@[simp] theorem State.modTables_ans (s : State) (f : Tables → Tables) : (s.modTables f).ans = s.ans := rfl
@[simp] theorem State.modTables_img (s : State) (f : Tables → Tables) : (s.modTables f).img = s.img := rfl
@[simp] theorem State.modTables_loom (s : State) (f : Tables → Tables) : (s.modTables f).loom = s.loom := rfl
@[simp] theorem State.modTables_mems (s : State) (f : Tables → Tables) : (s.modTables f).mems = s.mems := rfl
@[simp] theorem State.modTables_tiers (s : State) (f : Tables → Tables) : (s.modTables f).tiers = s.tiers := rfl
@[simp] theorem State.modTables_grafts (s : State) (f : Tables → Tables) : (s.modTables f).grafts = s.grafts := rfl
@[simp] theorem State.modTables_flash (s : State) (f : Tables → Tables) : (s.modTables f).flash = s.flash := rfl
@[simp] theorem State.modTables_fabric (s : State) (f : Tables → Tables) : (s.modTables f).fabric = s.fabric := rfl
@[simp] theorem State.modTables_integ (s : State) (f : Tables → Tables) : (s.modTables f).integ = s.integ := rfl
@[simp] theorem State.modTables_fail (s : State) (f : Tables → Tables) : (s.modTables f).fail = s.fail := rfl
@[simp] theorem State.modTables_out (s : State) (f : Tables → Tables) : (s.modTables f).out = s.out := rfl
@[simp] theorem State.modTables_frames (s : State) (f : Tables → Tables) : (s.modTables f).frames = s.frames := rfl
@[simp] theorem State.modTables_txHeld (s : State) (f : Tables → Tables) : (s.modTables f).txHeld = s.txHeld := rfl
@[simp] theorem State.modTables_pclk (s : State) (f : Tables → Tables) : (s.modTables f).pclk = s.pclk := rfl
@[simp] theorem State.modTables_free (s : State) (f : Tables → Tables) : (s.modTables f).free = s.free := rfl
@[simp] theorem State.modTables_pending (s : State) (f : Tables → Tables) : (s.modTables f).pending = s.pending := rfl

@[simp] theorem State.modTable_power (s : State) (i : Nat) (f : Table → Table) : (s.modTable i f).power = s.power := rfl
@[simp] theorem State.modTable_boot (s : State) (i : Nat) (f : Table → Table) : (s.modTable i f).boot = s.boot := rfl
@[simp] theorem State.modTable_hp (s : State) (i : Nat) (f : Table → Table) : (s.modTable i f).hp = s.hp := rfl
@[simp] theorem State.modTable_sasel (s : State) (i : Nat) (f : Table → Table) : (s.modTable i f).sasel = s.sasel := rfl
@[simp] theorem State.modTable_queues (s : State) (i : Nat) (f : Table → Table) : (s.modTable i f).queues = s.queues := rfl
@[simp] theorem State.modTable_work (s : State) (i : Nat) (f : Table → Table) : (s.modTable i f).work = s.work := rfl
@[simp] theorem State.modTable_idx (s : State) (i : Nat) (f : Table → Table) : (s.modTable i f).idx = s.idx := rfl
@[simp] theorem State.modTable_ans (s : State) (i : Nat) (f : Table → Table) : (s.modTable i f).ans = s.ans := rfl
@[simp] theorem State.modTable_img (s : State) (i : Nat) (f : Table → Table) : (s.modTable i f).img = s.img := rfl
@[simp] theorem State.modTable_loom (s : State) (i : Nat) (f : Table → Table) : (s.modTable i f).loom = s.loom := rfl
@[simp] theorem State.modTable_mems (s : State) (i : Nat) (f : Table → Table) : (s.modTable i f).mems = s.mems := rfl
@[simp] theorem State.modTable_tiers (s : State) (i : Nat) (f : Table → Table) : (s.modTable i f).tiers = s.tiers := rfl
@[simp] theorem State.modTable_grafts (s : State) (i : Nat) (f : Table → Table) : (s.modTable i f).grafts = s.grafts := rfl
@[simp] theorem State.modTable_flash (s : State) (i : Nat) (f : Table → Table) : (s.modTable i f).flash = s.flash := rfl
@[simp] theorem State.modTable_fabric (s : State) (i : Nat) (f : Table → Table) : (s.modTable i f).fabric = s.fabric := rfl
@[simp] theorem State.modTable_integ (s : State) (i : Nat) (f : Table → Table) : (s.modTable i f).integ = s.integ := rfl
@[simp] theorem State.modTable_fail (s : State) (i : Nat) (f : Table → Table) : (s.modTable i f).fail = s.fail := rfl
@[simp] theorem State.modTable_out (s : State) (i : Nat) (f : Table → Table) : (s.modTable i f).out = s.out := rfl
@[simp] theorem State.modTable_frames (s : State) (i : Nat) (f : Table → Table) : (s.modTable i f).frames = s.frames := rfl
@[simp] theorem State.modTable_txHeld (s : State) (i : Nat) (f : Table → Table) : (s.modTable i f).txHeld = s.txHeld := rfl
@[simp] theorem State.modTable_pclk (s : State) (i : Nat) (f : Table → Table) : (s.modTable i f).pclk = s.pclk := rfl
@[simp] theorem State.modTable_free (s : State) (i : Nat) (f : Table → Table) : (s.modTable i f).free = s.free := rfl
@[simp] theorem State.modTable_pending (s : State) (i : Nat) (f : Table → Table) : (s.modTable i f).pending = s.pending := rfl

@[simp] theorem State.modLookup_power (s : State) (sid : Nat) (f : Lookup → Lookup) : (s.modLookup sid f).power = s.power := rfl
@[simp] theorem State.modLookup_boot (s : State) (sid : Nat) (f : Lookup → Lookup) : (s.modLookup sid f).boot = s.boot := rfl
@[simp] theorem State.modLookup_hp (s : State) (sid : Nat) (f : Lookup → Lookup) : (s.modLookup sid f).hp = s.hp := rfl
@[simp] theorem State.modLookup_sasel (s : State) (sid : Nat) (f : Lookup → Lookup) : (s.modLookup sid f).sasel = s.sasel := rfl
@[simp] theorem State.modLookup_queues (s : State) (sid : Nat) (f : Lookup → Lookup) : (s.modLookup sid f).queues = s.queues := rfl
@[simp] theorem State.modLookup_work (s : State) (sid : Nat) (f : Lookup → Lookup) : (s.modLookup sid f).work = s.work := rfl
@[simp] theorem State.modLookup_idx (s : State) (sid : Nat) (f : Lookup → Lookup) : (s.modLookup sid f).idx = s.idx := rfl
@[simp] theorem State.modLookup_ans (s : State) (sid : Nat) (f : Lookup → Lookup) : (s.modLookup sid f).ans = s.ans := rfl
@[simp] theorem State.modLookup_img (s : State) (sid : Nat) (f : Lookup → Lookup) : (s.modLookup sid f).img = s.img := rfl
@[simp] theorem State.modLookup_loom (s : State) (sid : Nat) (f : Lookup → Lookup) : (s.modLookup sid f).loom = s.loom := rfl
@[simp] theorem State.modLookup_mems (s : State) (sid : Nat) (f : Lookup → Lookup) : (s.modLookup sid f).mems = s.mems := rfl
@[simp] theorem State.modLookup_tiers (s : State) (sid : Nat) (f : Lookup → Lookup) : (s.modLookup sid f).tiers = s.tiers := rfl
@[simp] theorem State.modLookup_grafts (s : State) (sid : Nat) (f : Lookup → Lookup) : (s.modLookup sid f).grafts = s.grafts := rfl
@[simp] theorem State.modLookup_flash (s : State) (sid : Nat) (f : Lookup → Lookup) : (s.modLookup sid f).flash = s.flash := rfl
@[simp] theorem State.modLookup_fabric (s : State) (sid : Nat) (f : Lookup → Lookup) : (s.modLookup sid f).fabric = s.fabric := rfl
@[simp] theorem State.modLookup_integ (s : State) (sid : Nat) (f : Lookup → Lookup) : (s.modLookup sid f).integ = s.integ := rfl
@[simp] theorem State.modLookup_fail (s : State) (sid : Nat) (f : Lookup → Lookup) : (s.modLookup sid f).fail = s.fail := rfl
@[simp] theorem State.modLookup_out (s : State) (sid : Nat) (f : Lookup → Lookup) : (s.modLookup sid f).out = s.out := rfl
@[simp] theorem State.modLookup_frames (s : State) (sid : Nat) (f : Lookup → Lookup) : (s.modLookup sid f).frames = s.frames := rfl
@[simp] theorem State.modLookup_txHeld (s : State) (sid : Nat) (f : Lookup → Lookup) : (s.modLookup sid f).txHeld = s.txHeld := rfl
@[simp] theorem State.modLookup_pclk (s : State) (sid : Nat) (f : Lookup → Lookup) : (s.modLookup sid f).pclk = s.pclk := rfl
@[simp] theorem State.modLookup_free (s : State) (sid : Nat) (f : Lookup → Lookup) : (s.modLookup sid f).free = s.free := rfl
@[simp] theorem State.modLookup_pending (s : State) (sid : Nat) (f : Lookup → Lookup) : (s.modLookup sid f).pending = s.pending := rfl

@[simp] theorem State.modGrafts_power (s : State) (f : Grafts → Grafts) : (s.modGrafts f).power = s.power := rfl
@[simp] theorem State.modGrafts_boot (s : State) (f : Grafts → Grafts) : (s.modGrafts f).boot = s.boot := rfl
@[simp] theorem State.modGrafts_hp (s : State) (f : Grafts → Grafts) : (s.modGrafts f).hp = s.hp := rfl
@[simp] theorem State.modGrafts_sasel (s : State) (f : Grafts → Grafts) : (s.modGrafts f).sasel = s.sasel := rfl
@[simp] theorem State.modGrafts_queues (s : State) (f : Grafts → Grafts) : (s.modGrafts f).queues = s.queues := rfl
@[simp] theorem State.modGrafts_work (s : State) (f : Grafts → Grafts) : (s.modGrafts f).work = s.work := rfl
@[simp] theorem State.modGrafts_idx (s : State) (f : Grafts → Grafts) : (s.modGrafts f).idx = s.idx := rfl
@[simp] theorem State.modGrafts_ans (s : State) (f : Grafts → Grafts) : (s.modGrafts f).ans = s.ans := rfl
@[simp] theorem State.modGrafts_img (s : State) (f : Grafts → Grafts) : (s.modGrafts f).img = s.img := rfl
@[simp] theorem State.modGrafts_loom (s : State) (f : Grafts → Grafts) : (s.modGrafts f).loom = s.loom := rfl
@[simp] theorem State.modGrafts_mems (s : State) (f : Grafts → Grafts) : (s.modGrafts f).mems = s.mems := rfl
@[simp] theorem State.modGrafts_tiers (s : State) (f : Grafts → Grafts) : (s.modGrafts f).tiers = s.tiers := rfl
@[simp] theorem State.modGrafts_tables (s : State) (f : Grafts → Grafts) : (s.modGrafts f).tables = s.tables := rfl
@[simp] theorem State.modGrafts_flash (s : State) (f : Grafts → Grafts) : (s.modGrafts f).flash = s.flash := rfl
@[simp] theorem State.modGrafts_fabric (s : State) (f : Grafts → Grafts) : (s.modGrafts f).fabric = s.fabric := rfl
@[simp] theorem State.modGrafts_integ (s : State) (f : Grafts → Grafts) : (s.modGrafts f).integ = s.integ := rfl
@[simp] theorem State.modGrafts_fail (s : State) (f : Grafts → Grafts) : (s.modGrafts f).fail = s.fail := rfl
@[simp] theorem State.modGrafts_out (s : State) (f : Grafts → Grafts) : (s.modGrafts f).out = s.out := rfl
@[simp] theorem State.modGrafts_frames (s : State) (f : Grafts → Grafts) : (s.modGrafts f).frames = s.frames := rfl
@[simp] theorem State.modGrafts_txHeld (s : State) (f : Grafts → Grafts) : (s.modGrafts f).txHeld = s.txHeld := rfl
@[simp] theorem State.modGrafts_pclk (s : State) (f : Grafts → Grafts) : (s.modGrafts f).pclk = s.pclk := rfl
@[simp] theorem State.modGrafts_free (s : State) (f : Grafts → Grafts) : (s.modGrafts f).free = s.free := rfl
@[simp] theorem State.modGrafts_pending (s : State) (f : Grafts → Grafts) : (s.modGrafts f).pending = s.pending := rfl

@[simp] theorem State.modGraft_power (s : State) (i : Nat) (f : Graft → Graft) : (s.modGraft i f).power = s.power := rfl
@[simp] theorem State.modGraft_boot (s : State) (i : Nat) (f : Graft → Graft) : (s.modGraft i f).boot = s.boot := rfl
@[simp] theorem State.modGraft_hp (s : State) (i : Nat) (f : Graft → Graft) : (s.modGraft i f).hp = s.hp := rfl
@[simp] theorem State.modGraft_sasel (s : State) (i : Nat) (f : Graft → Graft) : (s.modGraft i f).sasel = s.sasel := rfl
@[simp] theorem State.modGraft_queues (s : State) (i : Nat) (f : Graft → Graft) : (s.modGraft i f).queues = s.queues := rfl
@[simp] theorem State.modGraft_work (s : State) (i : Nat) (f : Graft → Graft) : (s.modGraft i f).work = s.work := rfl
@[simp] theorem State.modGraft_idx (s : State) (i : Nat) (f : Graft → Graft) : (s.modGraft i f).idx = s.idx := rfl
@[simp] theorem State.modGraft_ans (s : State) (i : Nat) (f : Graft → Graft) : (s.modGraft i f).ans = s.ans := rfl
@[simp] theorem State.modGraft_img (s : State) (i : Nat) (f : Graft → Graft) : (s.modGraft i f).img = s.img := rfl
@[simp] theorem State.modGraft_loom (s : State) (i : Nat) (f : Graft → Graft) : (s.modGraft i f).loom = s.loom := rfl
@[simp] theorem State.modGraft_mems (s : State) (i : Nat) (f : Graft → Graft) : (s.modGraft i f).mems = s.mems := rfl
@[simp] theorem State.modGraft_tiers (s : State) (i : Nat) (f : Graft → Graft) : (s.modGraft i f).tiers = s.tiers := rfl
@[simp] theorem State.modGraft_tables (s : State) (i : Nat) (f : Graft → Graft) : (s.modGraft i f).tables = s.tables := rfl
@[simp] theorem State.modGraft_flash (s : State) (i : Nat) (f : Graft → Graft) : (s.modGraft i f).flash = s.flash := rfl
@[simp] theorem State.modGraft_fabric (s : State) (i : Nat) (f : Graft → Graft) : (s.modGraft i f).fabric = s.fabric := rfl
@[simp] theorem State.modGraft_integ (s : State) (i : Nat) (f : Graft → Graft) : (s.modGraft i f).integ = s.integ := rfl
@[simp] theorem State.modGraft_fail (s : State) (i : Nat) (f : Graft → Graft) : (s.modGraft i f).fail = s.fail := rfl
@[simp] theorem State.modGraft_out (s : State) (i : Nat) (f : Graft → Graft) : (s.modGraft i f).out = s.out := rfl
@[simp] theorem State.modGraft_frames (s : State) (i : Nat) (f : Graft → Graft) : (s.modGraft i f).frames = s.frames := rfl
@[simp] theorem State.modGraft_txHeld (s : State) (i : Nat) (f : Graft → Graft) : (s.modGraft i f).txHeld = s.txHeld := rfl
@[simp] theorem State.modGraft_pclk (s : State) (i : Nat) (f : Graft → Graft) : (s.modGraft i f).pclk = s.pclk := rfl
@[simp] theorem State.modGraft_free (s : State) (i : Nat) (f : Graft → Graft) : (s.modGraft i f).free = s.free := rfl
@[simp] theorem State.modGraft_pending (s : State) (i : Nat) (f : Graft → Graft) : (s.modGraft i f).pending = s.pending := rfl

@[simp] theorem State.modLog_power (s : State) (i : Nat) (f : Log → Log) : (s.modLog i f).power = s.power := rfl
@[simp] theorem State.modLog_boot (s : State) (i : Nat) (f : Log → Log) : (s.modLog i f).boot = s.boot := rfl
@[simp] theorem State.modLog_hp (s : State) (i : Nat) (f : Log → Log) : (s.modLog i f).hp = s.hp := rfl
@[simp] theorem State.modLog_sasel (s : State) (i : Nat) (f : Log → Log) : (s.modLog i f).sasel = s.sasel := rfl
@[simp] theorem State.modLog_queues (s : State) (i : Nat) (f : Log → Log) : (s.modLog i f).queues = s.queues := rfl
@[simp] theorem State.modLog_work (s : State) (i : Nat) (f : Log → Log) : (s.modLog i f).work = s.work := rfl
@[simp] theorem State.modLog_idx (s : State) (i : Nat) (f : Log → Log) : (s.modLog i f).idx = s.idx := rfl
@[simp] theorem State.modLog_ans (s : State) (i : Nat) (f : Log → Log) : (s.modLog i f).ans = s.ans := rfl
@[simp] theorem State.modLog_img (s : State) (i : Nat) (f : Log → Log) : (s.modLog i f).img = s.img := rfl
@[simp] theorem State.modLog_loom (s : State) (i : Nat) (f : Log → Log) : (s.modLog i f).loom = s.loom := rfl
@[simp] theorem State.modLog_mems (s : State) (i : Nat) (f : Log → Log) : (s.modLog i f).mems = s.mems := rfl
@[simp] theorem State.modLog_tiers (s : State) (i : Nat) (f : Log → Log) : (s.modLog i f).tiers = s.tiers := rfl
@[simp] theorem State.modLog_tables (s : State) (i : Nat) (f : Log → Log) : (s.modLog i f).tables = s.tables := rfl
@[simp] theorem State.modLog_flash (s : State) (i : Nat) (f : Log → Log) : (s.modLog i f).flash = s.flash := rfl
@[simp] theorem State.modLog_fabric (s : State) (i : Nat) (f : Log → Log) : (s.modLog i f).fabric = s.fabric := rfl
@[simp] theorem State.modLog_integ (s : State) (i : Nat) (f : Log → Log) : (s.modLog i f).integ = s.integ := rfl
@[simp] theorem State.modLog_fail (s : State) (i : Nat) (f : Log → Log) : (s.modLog i f).fail = s.fail := rfl
@[simp] theorem State.modLog_out (s : State) (i : Nat) (f : Log → Log) : (s.modLog i f).out = s.out := rfl
@[simp] theorem State.modLog_frames (s : State) (i : Nat) (f : Log → Log) : (s.modLog i f).frames = s.frames := rfl
@[simp] theorem State.modLog_txHeld (s : State) (i : Nat) (f : Log → Log) : (s.modLog i f).txHeld = s.txHeld := rfl
@[simp] theorem State.modLog_pclk (s : State) (i : Nat) (f : Log → Log) : (s.modLog i f).pclk = s.pclk := rfl
@[simp] theorem State.modLog_free (s : State) (i : Nat) (f : Log → Log) : (s.modLog i f).free = s.free := rfl
@[simp] theorem State.modLog_pending (s : State) (i : Nat) (f : Log → Log) : (s.modLog i f).pending = s.pending := rfl

@[simp] theorem State.modLoom_power (s : State) (f : Loom → Loom) : (s.modLoom f).power = s.power := rfl
@[simp] theorem State.modLoom_boot (s : State) (f : Loom → Loom) : (s.modLoom f).boot = s.boot := rfl
@[simp] theorem State.modLoom_hp (s : State) (f : Loom → Loom) : (s.modLoom f).hp = s.hp := rfl
@[simp] theorem State.modLoom_sasel (s : State) (f : Loom → Loom) : (s.modLoom f).sasel = s.sasel := rfl
@[simp] theorem State.modLoom_queues (s : State) (f : Loom → Loom) : (s.modLoom f).queues = s.queues := rfl
@[simp] theorem State.modLoom_work (s : State) (f : Loom → Loom) : (s.modLoom f).work = s.work := rfl
@[simp] theorem State.modLoom_idx (s : State) (f : Loom → Loom) : (s.modLoom f).idx = s.idx := rfl
@[simp] theorem State.modLoom_ans (s : State) (f : Loom → Loom) : (s.modLoom f).ans = s.ans := rfl
@[simp] theorem State.modLoom_img (s : State) (f : Loom → Loom) : (s.modLoom f).img = s.img := rfl
@[simp] theorem State.modLoom_mems (s : State) (f : Loom → Loom) : (s.modLoom f).mems = s.mems := rfl
@[simp] theorem State.modLoom_tiers (s : State) (f : Loom → Loom) : (s.modLoom f).tiers = s.tiers := rfl
@[simp] theorem State.modLoom_tables (s : State) (f : Loom → Loom) : (s.modLoom f).tables = s.tables := rfl
@[simp] theorem State.modLoom_grafts (s : State) (f : Loom → Loom) : (s.modLoom f).grafts = s.grafts := rfl
@[simp] theorem State.modLoom_flash (s : State) (f : Loom → Loom) : (s.modLoom f).flash = s.flash := rfl
@[simp] theorem State.modLoom_fabric (s : State) (f : Loom → Loom) : (s.modLoom f).fabric = s.fabric := rfl
@[simp] theorem State.modLoom_integ (s : State) (f : Loom → Loom) : (s.modLoom f).integ = s.integ := rfl
@[simp] theorem State.modLoom_fail (s : State) (f : Loom → Loom) : (s.modLoom f).fail = s.fail := rfl
@[simp] theorem State.modLoom_out (s : State) (f : Loom → Loom) : (s.modLoom f).out = s.out := rfl
@[simp] theorem State.modLoom_frames (s : State) (f : Loom → Loom) : (s.modLoom f).frames = s.frames := rfl
@[simp] theorem State.modLoom_txHeld (s : State) (f : Loom → Loom) : (s.modLoom f).txHeld = s.txHeld := rfl
@[simp] theorem State.modLoom_pclk (s : State) (f : Loom → Loom) : (s.modLoom f).pclk = s.pclk := rfl
@[simp] theorem State.modLoom_free (s : State) (f : Loom → Loom) : (s.modLoom f).free = s.free := rfl
@[simp] theorem State.modLoom_pending (s : State) (f : Loom → Loom) : (s.modLoom f).pending = s.pending := rfl

@[simp] theorem State.modIssued_power (s : State) (id : Nat) (f : Issued → Issued) : (s.modIssued id f).power = s.power := rfl
@[simp] theorem State.modIssued_boot (s : State) (id : Nat) (f : Issued → Issued) : (s.modIssued id f).boot = s.boot := rfl
@[simp] theorem State.modIssued_hp (s : State) (id : Nat) (f : Issued → Issued) : (s.modIssued id f).hp = s.hp := rfl
@[simp] theorem State.modIssued_sasel (s : State) (id : Nat) (f : Issued → Issued) : (s.modIssued id f).sasel = s.sasel := rfl
@[simp] theorem State.modIssued_queues (s : State) (id : Nat) (f : Issued → Issued) : (s.modIssued id f).queues = s.queues := rfl
@[simp] theorem State.modIssued_work (s : State) (id : Nat) (f : Issued → Issued) : (s.modIssued id f).work = s.work := rfl
@[simp] theorem State.modIssued_idx (s : State) (id : Nat) (f : Issued → Issued) : (s.modIssued id f).idx = s.idx := rfl
@[simp] theorem State.modIssued_ans (s : State) (id : Nat) (f : Issued → Issued) : (s.modIssued id f).ans = s.ans := rfl
@[simp] theorem State.modIssued_img (s : State) (id : Nat) (f : Issued → Issued) : (s.modIssued id f).img = s.img := rfl
@[simp] theorem State.modIssued_mems (s : State) (id : Nat) (f : Issued → Issued) : (s.modIssued id f).mems = s.mems := rfl
@[simp] theorem State.modIssued_tiers (s : State) (id : Nat) (f : Issued → Issued) : (s.modIssued id f).tiers = s.tiers := rfl
@[simp] theorem State.modIssued_tables (s : State) (id : Nat) (f : Issued → Issued) : (s.modIssued id f).tables = s.tables := rfl
@[simp] theorem State.modIssued_grafts (s : State) (id : Nat) (f : Issued → Issued) : (s.modIssued id f).grafts = s.grafts := rfl
@[simp] theorem State.modIssued_flash (s : State) (id : Nat) (f : Issued → Issued) : (s.modIssued id f).flash = s.flash := rfl
@[simp] theorem State.modIssued_fabric (s : State) (id : Nat) (f : Issued → Issued) : (s.modIssued id f).fabric = s.fabric := rfl
@[simp] theorem State.modIssued_integ (s : State) (id : Nat) (f : Issued → Issued) : (s.modIssued id f).integ = s.integ := rfl
@[simp] theorem State.modIssued_fail (s : State) (id : Nat) (f : Issued → Issued) : (s.modIssued id f).fail = s.fail := rfl
@[simp] theorem State.modIssued_out (s : State) (id : Nat) (f : Issued → Issued) : (s.modIssued id f).out = s.out := rfl
@[simp] theorem State.modIssued_frames (s : State) (id : Nat) (f : Issued → Issued) : (s.modIssued id f).frames = s.frames := rfl
@[simp] theorem State.modIssued_txHeld (s : State) (id : Nat) (f : Issued → Issued) : (s.modIssued id f).txHeld = s.txHeld := rfl
@[simp] theorem State.modIssued_pclk (s : State) (id : Nat) (f : Issued → Issued) : (s.modIssued id f).pclk = s.pclk := rfl
@[simp] theorem State.modIssued_free (s : State) (id : Nat) (f : Issued → Issued) : (s.modIssued id f).free = s.free := rfl
@[simp] theorem State.modIssued_pending (s : State) (id : Nat) (f : Issued → Issued) : (s.modIssued id f).pending = s.pending := rfl

@[simp] theorem State.modPower_boot (s : State) (f : Power → Power) : (s.modPower f).boot = s.boot := rfl
@[simp] theorem State.modPower_hp (s : State) (f : Power → Power) : (s.modPower f).hp = s.hp := rfl
@[simp] theorem State.modPower_sasel (s : State) (f : Power → Power) : (s.modPower f).sasel = s.sasel := rfl
@[simp] theorem State.modPower_queues (s : State) (f : Power → Power) : (s.modPower f).queues = s.queues := rfl
@[simp] theorem State.modPower_work (s : State) (f : Power → Power) : (s.modPower f).work = s.work := rfl
@[simp] theorem State.modPower_idx (s : State) (f : Power → Power) : (s.modPower f).idx = s.idx := rfl
@[simp] theorem State.modPower_ans (s : State) (f : Power → Power) : (s.modPower f).ans = s.ans := rfl
@[simp] theorem State.modPower_img (s : State) (f : Power → Power) : (s.modPower f).img = s.img := rfl
@[simp] theorem State.modPower_loom (s : State) (f : Power → Power) : (s.modPower f).loom = s.loom := rfl
@[simp] theorem State.modPower_mems (s : State) (f : Power → Power) : (s.modPower f).mems = s.mems := rfl
@[simp] theorem State.modPower_tiers (s : State) (f : Power → Power) : (s.modPower f).tiers = s.tiers := rfl
@[simp] theorem State.modPower_tables (s : State) (f : Power → Power) : (s.modPower f).tables = s.tables := rfl
@[simp] theorem State.modPower_grafts (s : State) (f : Power → Power) : (s.modPower f).grafts = s.grafts := rfl
@[simp] theorem State.modPower_flash (s : State) (f : Power → Power) : (s.modPower f).flash = s.flash := rfl
@[simp] theorem State.modPower_fabric (s : State) (f : Power → Power) : (s.modPower f).fabric = s.fabric := rfl
@[simp] theorem State.modPower_integ (s : State) (f : Power → Power) : (s.modPower f).integ = s.integ := rfl
@[simp] theorem State.modPower_fail (s : State) (f : Power → Power) : (s.modPower f).fail = s.fail := rfl
@[simp] theorem State.modPower_out (s : State) (f : Power → Power) : (s.modPower f).out = s.out := rfl
@[simp] theorem State.modPower_frames (s : State) (f : Power → Power) : (s.modPower f).frames = s.frames := rfl
@[simp] theorem State.modPower_txHeld (s : State) (f : Power → Power) : (s.modPower f).txHeld = s.txHeld := rfl
@[simp] theorem State.modPower_pclk (s : State) (f : Power → Power) : (s.modPower f).pclk = s.pclk := rfl
@[simp] theorem State.modPower_free (s : State) (f : Power → Power) : (s.modPower f).free = s.free := rfl
@[simp] theorem State.modPower_pending (s : State) (f : Power → Power) : (s.modPower f).pending = s.pending := rfl

@[simp] theorem State.setStep_boot (s : State) (n : Nat) : (s.setStep n).boot = s.boot := rfl
@[simp] theorem State.setStep_hp (s : State) (n : Nat) : (s.setStep n).hp = s.hp := rfl
@[simp] theorem State.setStep_sasel (s : State) (n : Nat) : (s.setStep n).sasel = s.sasel := rfl
@[simp] theorem State.setStep_queues (s : State) (n : Nat) : (s.setStep n).queues = s.queues := rfl
@[simp] theorem State.setStep_work (s : State) (n : Nat) : (s.setStep n).work = s.work := rfl
@[simp] theorem State.setStep_idx (s : State) (n : Nat) : (s.setStep n).idx = s.idx := rfl
@[simp] theorem State.setStep_ans (s : State) (n : Nat) : (s.setStep n).ans = s.ans := rfl
@[simp] theorem State.setStep_img (s : State) (n : Nat) : (s.setStep n).img = s.img := rfl
@[simp] theorem State.setStep_loom (s : State) (n : Nat) : (s.setStep n).loom = s.loom := rfl
@[simp] theorem State.setStep_mems (s : State) (n : Nat) : (s.setStep n).mems = s.mems := rfl
@[simp] theorem State.setStep_tiers (s : State) (n : Nat) : (s.setStep n).tiers = s.tiers := rfl
@[simp] theorem State.setStep_tables (s : State) (n : Nat) : (s.setStep n).tables = s.tables := rfl
@[simp] theorem State.setStep_grafts (s : State) (n : Nat) : (s.setStep n).grafts = s.grafts := rfl
@[simp] theorem State.setStep_flash (s : State) (n : Nat) : (s.setStep n).flash = s.flash := rfl
@[simp] theorem State.setStep_fabric (s : State) (n : Nat) : (s.setStep n).fabric = s.fabric := rfl
@[simp] theorem State.setStep_integ (s : State) (n : Nat) : (s.setStep n).integ = s.integ := rfl
@[simp] theorem State.setStep_fail (s : State) (n : Nat) : (s.setStep n).fail = s.fail := rfl
@[simp] theorem State.setStep_out (s : State) (n : Nat) : (s.setStep n).out = s.out := rfl
@[simp] theorem State.setStep_frames (s : State) (n : Nat) : (s.setStep n).frames = s.frames := rfl
@[simp] theorem State.setStep_txHeld (s : State) (n : Nat) : (s.setStep n).txHeld = s.txHeld := rfl
@[simp] theorem State.setStep_pclk (s : State) (n : Nat) : (s.setStep n).pclk = s.pclk := rfl
@[simp] theorem State.setStep_free (s : State) (n : Nat) : (s.setStep n).free = s.free := rfl
@[simp] theorem State.setStep_pending (s : State) (n : Nat) : (s.setStep n).pending = s.pending := rfl

@[simp] theorem State.excursionEnd_boot (s : State)  : (s.excursionEnd).boot = s.boot := rfl
@[simp] theorem State.excursionEnd_hp (s : State)  : (s.excursionEnd).hp = s.hp := rfl
@[simp] theorem State.excursionEnd_sasel (s : State)  : (s.excursionEnd).sasel = s.sasel := rfl
@[simp] theorem State.excursionEnd_queues (s : State)  : (s.excursionEnd).queues = s.queues := rfl
@[simp] theorem State.excursionEnd_work (s : State)  : (s.excursionEnd).work = s.work := rfl
@[simp] theorem State.excursionEnd_idx (s : State)  : (s.excursionEnd).idx = s.idx := rfl
@[simp] theorem State.excursionEnd_ans (s : State)  : (s.excursionEnd).ans = s.ans := rfl
@[simp] theorem State.excursionEnd_img (s : State)  : (s.excursionEnd).img = s.img := rfl
@[simp] theorem State.excursionEnd_loom (s : State)  : (s.excursionEnd).loom = s.loom := rfl
@[simp] theorem State.excursionEnd_mems (s : State)  : (s.excursionEnd).mems = s.mems := rfl
@[simp] theorem State.excursionEnd_tiers (s : State)  : (s.excursionEnd).tiers = s.tiers := rfl
@[simp] theorem State.excursionEnd_tables (s : State)  : (s.excursionEnd).tables = s.tables := rfl
@[simp] theorem State.excursionEnd_grafts (s : State)  : (s.excursionEnd).grafts = s.grafts := rfl
@[simp] theorem State.excursionEnd_flash (s : State)  : (s.excursionEnd).flash = s.flash := rfl
@[simp] theorem State.excursionEnd_fabric (s : State)  : (s.excursionEnd).fabric = s.fabric := rfl
@[simp] theorem State.excursionEnd_integ (s : State)  : (s.excursionEnd).integ = s.integ := rfl
@[simp] theorem State.excursionEnd_fail (s : State)  : (s.excursionEnd).fail = s.fail := rfl
@[simp] theorem State.excursionEnd_out (s : State)  : (s.excursionEnd).out = s.out := rfl
@[simp] theorem State.excursionEnd_frames (s : State)  : (s.excursionEnd).frames = s.frames := rfl
@[simp] theorem State.excursionEnd_txHeld (s : State)  : (s.excursionEnd).txHeld = s.txHeld := rfl
@[simp] theorem State.excursionEnd_pclk (s : State)  : (s.excursionEnd).pclk = s.pclk := rfl
@[simp] theorem State.excursionEnd_free (s : State)  : (s.excursionEnd).free = s.free := rfl
@[simp] theorem State.excursionEnd_pending (s : State)  : (s.excursionEnd).pending = s.pending := rfl

@[simp] theorem State.powerOff_boot (s : State)  : (s.powerOff).boot = s.boot := rfl
@[simp] theorem State.powerOff_hp (s : State)  : (s.powerOff).hp = s.hp := rfl
@[simp] theorem State.powerOff_sasel (s : State)  : (s.powerOff).sasel = s.sasel := rfl
@[simp] theorem State.powerOff_queues (s : State)  : (s.powerOff).queues = s.queues := rfl
@[simp] theorem State.powerOff_work (s : State)  : (s.powerOff).work = s.work := rfl
@[simp] theorem State.powerOff_idx (s : State)  : (s.powerOff).idx = s.idx := rfl
@[simp] theorem State.powerOff_ans (s : State)  : (s.powerOff).ans = s.ans := rfl
@[simp] theorem State.powerOff_img (s : State)  : (s.powerOff).img = s.img := rfl
@[simp] theorem State.powerOff_loom (s : State)  : (s.powerOff).loom = s.loom := rfl
@[simp] theorem State.powerOff_mems (s : State)  : (s.powerOff).mems = s.mems := rfl
@[simp] theorem State.powerOff_tiers (s : State)  : (s.powerOff).tiers = s.tiers := rfl
@[simp] theorem State.powerOff_tables (s : State)  : (s.powerOff).tables = s.tables := rfl
@[simp] theorem State.powerOff_grafts (s : State)  : (s.powerOff).grafts = s.grafts := rfl
@[simp] theorem State.powerOff_flash (s : State)  : (s.powerOff).flash = s.flash := rfl
@[simp] theorem State.powerOff_fabric (s : State)  : (s.powerOff).fabric = s.fabric := rfl
@[simp] theorem State.powerOff_integ (s : State)  : (s.powerOff).integ = s.integ := rfl
@[simp] theorem State.powerOff_fail (s : State)  : (s.powerOff).fail = s.fail := rfl
@[simp] theorem State.powerOff_out (s : State)  : (s.powerOff).out = s.out := rfl
@[simp] theorem State.powerOff_frames (s : State)  : (s.powerOff).frames = s.frames := rfl
@[simp] theorem State.powerOff_txHeld (s : State)  : (s.powerOff).txHeld = s.txHeld := rfl
@[simp] theorem State.powerOff_pclk (s : State)  : (s.powerOff).pclk = s.pclk := rfl
@[simp] theorem State.powerOff_free (s : State)  : (s.powerOff).free = s.free := rfl
@[simp] theorem State.powerOff_pending (s : State)  : (s.powerOff).pending = s.pending := rfl

@[simp] theorem State.modFail_power (s : State) (f : Failover → Failover) : (s.modFail f).power = s.power := rfl
@[simp] theorem State.modFail_boot (s : State) (f : Failover → Failover) : (s.modFail f).boot = s.boot := rfl
@[simp] theorem State.modFail_hp (s : State) (f : Failover → Failover) : (s.modFail f).hp = s.hp := rfl
@[simp] theorem State.modFail_sasel (s : State) (f : Failover → Failover) : (s.modFail f).sasel = s.sasel := rfl
@[simp] theorem State.modFail_queues (s : State) (f : Failover → Failover) : (s.modFail f).queues = s.queues := rfl
@[simp] theorem State.modFail_work (s : State) (f : Failover → Failover) : (s.modFail f).work = s.work := rfl
@[simp] theorem State.modFail_idx (s : State) (f : Failover → Failover) : (s.modFail f).idx = s.idx := rfl
@[simp] theorem State.modFail_ans (s : State) (f : Failover → Failover) : (s.modFail f).ans = s.ans := rfl
@[simp] theorem State.modFail_img (s : State) (f : Failover → Failover) : (s.modFail f).img = s.img := rfl
@[simp] theorem State.modFail_loom (s : State) (f : Failover → Failover) : (s.modFail f).loom = s.loom := rfl
@[simp] theorem State.modFail_mems (s : State) (f : Failover → Failover) : (s.modFail f).mems = s.mems := rfl
@[simp] theorem State.modFail_tiers (s : State) (f : Failover → Failover) : (s.modFail f).tiers = s.tiers := rfl
@[simp] theorem State.modFail_tables (s : State) (f : Failover → Failover) : (s.modFail f).tables = s.tables := rfl
@[simp] theorem State.modFail_grafts (s : State) (f : Failover → Failover) : (s.modFail f).grafts = s.grafts := rfl
@[simp] theorem State.modFail_flash (s : State) (f : Failover → Failover) : (s.modFail f).flash = s.flash := rfl
@[simp] theorem State.modFail_fabric (s : State) (f : Failover → Failover) : (s.modFail f).fabric = s.fabric := rfl
@[simp] theorem State.modFail_integ (s : State) (f : Failover → Failover) : (s.modFail f).integ = s.integ := rfl
@[simp] theorem State.modFail_out (s : State) (f : Failover → Failover) : (s.modFail f).out = s.out := rfl
@[simp] theorem State.modFail_frames (s : State) (f : Failover → Failover) : (s.modFail f).frames = s.frames := rfl
@[simp] theorem State.modFail_txHeld (s : State) (f : Failover → Failover) : (s.modFail f).txHeld = s.txHeld := rfl
@[simp] theorem State.modFail_pclk (s : State) (f : Failover → Failover) : (s.modFail f).pclk = s.pclk := rfl
@[simp] theorem State.modFail_free (s : State) (f : Failover → Failover) : (s.modFail f).free = s.free := rfl
@[simp] theorem State.modFail_pending (s : State) (f : Failover → Failover) : (s.modFail f).pending = s.pending := rfl

@[simp] theorem State.modFabric_power (s : State) (f : Fabric → Fabric) : (s.modFabric f).power = s.power := rfl
@[simp] theorem State.modFabric_boot (s : State) (f : Fabric → Fabric) : (s.modFabric f).boot = s.boot := rfl
@[simp] theorem State.modFabric_hp (s : State) (f : Fabric → Fabric) : (s.modFabric f).hp = s.hp := rfl
@[simp] theorem State.modFabric_sasel (s : State) (f : Fabric → Fabric) : (s.modFabric f).sasel = s.sasel := rfl
@[simp] theorem State.modFabric_queues (s : State) (f : Fabric → Fabric) : (s.modFabric f).queues = s.queues := rfl
@[simp] theorem State.modFabric_work (s : State) (f : Fabric → Fabric) : (s.modFabric f).work = s.work := rfl
@[simp] theorem State.modFabric_idx (s : State) (f : Fabric → Fabric) : (s.modFabric f).idx = s.idx := rfl
@[simp] theorem State.modFabric_ans (s : State) (f : Fabric → Fabric) : (s.modFabric f).ans = s.ans := rfl
@[simp] theorem State.modFabric_img (s : State) (f : Fabric → Fabric) : (s.modFabric f).img = s.img := rfl
@[simp] theorem State.modFabric_loom (s : State) (f : Fabric → Fabric) : (s.modFabric f).loom = s.loom := rfl
@[simp] theorem State.modFabric_mems (s : State) (f : Fabric → Fabric) : (s.modFabric f).mems = s.mems := rfl
@[simp] theorem State.modFabric_tiers (s : State) (f : Fabric → Fabric) : (s.modFabric f).tiers = s.tiers := rfl
@[simp] theorem State.modFabric_tables (s : State) (f : Fabric → Fabric) : (s.modFabric f).tables = s.tables := rfl
@[simp] theorem State.modFabric_grafts (s : State) (f : Fabric → Fabric) : (s.modFabric f).grafts = s.grafts := rfl
@[simp] theorem State.modFabric_flash (s : State) (f : Fabric → Fabric) : (s.modFabric f).flash = s.flash := rfl
@[simp] theorem State.modFabric_integ (s : State) (f : Fabric → Fabric) : (s.modFabric f).integ = s.integ := rfl
@[simp] theorem State.modFabric_fail (s : State) (f : Fabric → Fabric) : (s.modFabric f).fail = s.fail := rfl
@[simp] theorem State.modFabric_out (s : State) (f : Fabric → Fabric) : (s.modFabric f).out = s.out := rfl
@[simp] theorem State.modFabric_frames (s : State) (f : Fabric → Fabric) : (s.modFabric f).frames = s.frames := rfl
@[simp] theorem State.modFabric_txHeld (s : State) (f : Fabric → Fabric) : (s.modFabric f).txHeld = s.txHeld := rfl
@[simp] theorem State.modFabric_pclk (s : State) (f : Fabric → Fabric) : (s.modFabric f).pclk = s.pclk := rfl
@[simp] theorem State.modFabric_free (s : State) (f : Fabric → Fabric) : (s.modFabric f).free = s.free := rfl
@[simp] theorem State.modFabric_pending (s : State) (f : Fabric → Fabric) : (s.modFabric f).pending = s.pending := rfl

@[simp] theorem State.modPeer_power (s : State) (r : Nat) (f : Peer → Peer) : (s.modPeer r f).power = s.power := rfl
@[simp] theorem State.modPeer_boot (s : State) (r : Nat) (f : Peer → Peer) : (s.modPeer r f).boot = s.boot := rfl
@[simp] theorem State.modPeer_hp (s : State) (r : Nat) (f : Peer → Peer) : (s.modPeer r f).hp = s.hp := rfl
@[simp] theorem State.modPeer_sasel (s : State) (r : Nat) (f : Peer → Peer) : (s.modPeer r f).sasel = s.sasel := rfl
@[simp] theorem State.modPeer_queues (s : State) (r : Nat) (f : Peer → Peer) : (s.modPeer r f).queues = s.queues := rfl
@[simp] theorem State.modPeer_work (s : State) (r : Nat) (f : Peer → Peer) : (s.modPeer r f).work = s.work := rfl
@[simp] theorem State.modPeer_idx (s : State) (r : Nat) (f : Peer → Peer) : (s.modPeer r f).idx = s.idx := rfl
@[simp] theorem State.modPeer_ans (s : State) (r : Nat) (f : Peer → Peer) : (s.modPeer r f).ans = s.ans := rfl
@[simp] theorem State.modPeer_img (s : State) (r : Nat) (f : Peer → Peer) : (s.modPeer r f).img = s.img := rfl
@[simp] theorem State.modPeer_loom (s : State) (r : Nat) (f : Peer → Peer) : (s.modPeer r f).loom = s.loom := rfl
@[simp] theorem State.modPeer_mems (s : State) (r : Nat) (f : Peer → Peer) : (s.modPeer r f).mems = s.mems := rfl
@[simp] theorem State.modPeer_tiers (s : State) (r : Nat) (f : Peer → Peer) : (s.modPeer r f).tiers = s.tiers := rfl
@[simp] theorem State.modPeer_tables (s : State) (r : Nat) (f : Peer → Peer) : (s.modPeer r f).tables = s.tables := rfl
@[simp] theorem State.modPeer_grafts (s : State) (r : Nat) (f : Peer → Peer) : (s.modPeer r f).grafts = s.grafts := rfl
@[simp] theorem State.modPeer_flash (s : State) (r : Nat) (f : Peer → Peer) : (s.modPeer r f).flash = s.flash := rfl
@[simp] theorem State.modPeer_integ (s : State) (r : Nat) (f : Peer → Peer) : (s.modPeer r f).integ = s.integ := rfl
@[simp] theorem State.modPeer_fail (s : State) (r : Nat) (f : Peer → Peer) : (s.modPeer r f).fail = s.fail := rfl
@[simp] theorem State.modPeer_out (s : State) (r : Nat) (f : Peer → Peer) : (s.modPeer r f).out = s.out := rfl
@[simp] theorem State.modPeer_frames (s : State) (r : Nat) (f : Peer → Peer) : (s.modPeer r f).frames = s.frames := rfl
@[simp] theorem State.modPeer_txHeld (s : State) (r : Nat) (f : Peer → Peer) : (s.modPeer r f).txHeld = s.txHeld := rfl
@[simp] theorem State.modPeer_pclk (s : State) (r : Nat) (f : Peer → Peer) : (s.modPeer r f).pclk = s.pclk := rfl
@[simp] theorem State.modPeer_free (s : State) (r : Nat) (f : Peer → Peer) : (s.modPeer r f).free = s.free := rfl
@[simp] theorem State.modPeer_pending (s : State) (r : Nat) (f : Peer → Peer) : (s.modPeer r f).pending = s.pending := rfl

@[simp] theorem State.setTx_power (s : State) (f : TxFlow) : (s.setTx f).power = s.power := rfl
@[simp] theorem State.setTx_boot (s : State) (f : TxFlow) : (s.setTx f).boot = s.boot := rfl
@[simp] theorem State.setTx_hp (s : State) (f : TxFlow) : (s.setTx f).hp = s.hp := rfl
@[simp] theorem State.setTx_sasel (s : State) (f : TxFlow) : (s.setTx f).sasel = s.sasel := rfl
@[simp] theorem State.setTx_queues (s : State) (f : TxFlow) : (s.setTx f).queues = s.queues := rfl
@[simp] theorem State.setTx_work (s : State) (f : TxFlow) : (s.setTx f).work = s.work := rfl
@[simp] theorem State.setTx_idx (s : State) (f : TxFlow) : (s.setTx f).idx = s.idx := rfl
@[simp] theorem State.setTx_ans (s : State) (f : TxFlow) : (s.setTx f).ans = s.ans := rfl
@[simp] theorem State.setTx_img (s : State) (f : TxFlow) : (s.setTx f).img = s.img := rfl
@[simp] theorem State.setTx_loom (s : State) (f : TxFlow) : (s.setTx f).loom = s.loom := rfl
@[simp] theorem State.setTx_mems (s : State) (f : TxFlow) : (s.setTx f).mems = s.mems := rfl
@[simp] theorem State.setTx_tiers (s : State) (f : TxFlow) : (s.setTx f).tiers = s.tiers := rfl
@[simp] theorem State.setTx_tables (s : State) (f : TxFlow) : (s.setTx f).tables = s.tables := rfl
@[simp] theorem State.setTx_grafts (s : State) (f : TxFlow) : (s.setTx f).grafts = s.grafts := rfl
@[simp] theorem State.setTx_flash (s : State) (f : TxFlow) : (s.setTx f).flash = s.flash := rfl
@[simp] theorem State.setTx_integ (s : State) (f : TxFlow) : (s.setTx f).integ = s.integ := rfl
@[simp] theorem State.setTx_fail (s : State) (f : TxFlow) : (s.setTx f).fail = s.fail := rfl
@[simp] theorem State.setTx_out (s : State) (f : TxFlow) : (s.setTx f).out = s.out := rfl
@[simp] theorem State.setTx_frames (s : State) (f : TxFlow) : (s.setTx f).frames = s.frames := rfl
@[simp] theorem State.setTx_txHeld (s : State) (f : TxFlow) : (s.setTx f).txHeld = s.txHeld := rfl
@[simp] theorem State.setTx_pclk (s : State) (f : TxFlow) : (s.setTx f).pclk = s.pclk := rfl
@[simp] theorem State.setTx_free (s : State) (f : TxFlow) : (s.setTx f).free = s.free := rfl
@[simp] theorem State.setTx_pending (s : State) (f : TxFlow) : (s.setTx f).pending = s.pending := rfl

@[simp] theorem State.setRx_power (s : State) (f : RxFlow) : (s.setRx f).power = s.power := rfl
@[simp] theorem State.setRx_boot (s : State) (f : RxFlow) : (s.setRx f).boot = s.boot := rfl
@[simp] theorem State.setRx_hp (s : State) (f : RxFlow) : (s.setRx f).hp = s.hp := rfl
@[simp] theorem State.setRx_sasel (s : State) (f : RxFlow) : (s.setRx f).sasel = s.sasel := rfl
@[simp] theorem State.setRx_queues (s : State) (f : RxFlow) : (s.setRx f).queues = s.queues := rfl
@[simp] theorem State.setRx_work (s : State) (f : RxFlow) : (s.setRx f).work = s.work := rfl
@[simp] theorem State.setRx_idx (s : State) (f : RxFlow) : (s.setRx f).idx = s.idx := rfl
@[simp] theorem State.setRx_ans (s : State) (f : RxFlow) : (s.setRx f).ans = s.ans := rfl
@[simp] theorem State.setRx_img (s : State) (f : RxFlow) : (s.setRx f).img = s.img := rfl
@[simp] theorem State.setRx_loom (s : State) (f : RxFlow) : (s.setRx f).loom = s.loom := rfl
@[simp] theorem State.setRx_mems (s : State) (f : RxFlow) : (s.setRx f).mems = s.mems := rfl
@[simp] theorem State.setRx_tiers (s : State) (f : RxFlow) : (s.setRx f).tiers = s.tiers := rfl
@[simp] theorem State.setRx_tables (s : State) (f : RxFlow) : (s.setRx f).tables = s.tables := rfl
@[simp] theorem State.setRx_grafts (s : State) (f : RxFlow) : (s.setRx f).grafts = s.grafts := rfl
@[simp] theorem State.setRx_flash (s : State) (f : RxFlow) : (s.setRx f).flash = s.flash := rfl
@[simp] theorem State.setRx_integ (s : State) (f : RxFlow) : (s.setRx f).integ = s.integ := rfl
@[simp] theorem State.setRx_fail (s : State) (f : RxFlow) : (s.setRx f).fail = s.fail := rfl
@[simp] theorem State.setRx_out (s : State) (f : RxFlow) : (s.setRx f).out = s.out := rfl
@[simp] theorem State.setRx_frames (s : State) (f : RxFlow) : (s.setRx f).frames = s.frames := rfl
@[simp] theorem State.setRx_txHeld (s : State) (f : RxFlow) : (s.setRx f).txHeld = s.txHeld := rfl
@[simp] theorem State.setRx_pclk (s : State) (f : RxFlow) : (s.setRx f).pclk = s.pclk := rfl
@[simp] theorem State.setRx_free (s : State) (f : RxFlow) : (s.setRx f).free = s.free := rfl
@[simp] theorem State.setRx_pending (s : State) (f : RxFlow) : (s.setRx f).pending = s.pending := rfl

@[simp] theorem State.woaneStale_power (s : State)  : (s.woaneStale).power = s.power := rfl
@[simp] theorem State.woaneStale_boot (s : State)  : (s.woaneStale).boot = s.boot := rfl
@[simp] theorem State.woaneStale_hp (s : State)  : (s.woaneStale).hp = s.hp := rfl
@[simp] theorem State.woaneStale_sasel (s : State)  : (s.woaneStale).sasel = s.sasel := rfl
@[simp] theorem State.woaneStale_queues (s : State)  : (s.woaneStale).queues = s.queues := rfl
@[simp] theorem State.woaneStale_work (s : State)  : (s.woaneStale).work = s.work := rfl
@[simp] theorem State.woaneStale_idx (s : State)  : (s.woaneStale).idx = s.idx := rfl
@[simp] theorem State.woaneStale_ans (s : State)  : (s.woaneStale).ans = s.ans := rfl
@[simp] theorem State.woaneStale_img (s : State)  : (s.woaneStale).img = s.img := rfl
@[simp] theorem State.woaneStale_loom (s : State)  : (s.woaneStale).loom = s.loom := rfl
@[simp] theorem State.woaneStale_mems (s : State)  : (s.woaneStale).mems = s.mems := rfl
@[simp] theorem State.woaneStale_tiers (s : State)  : (s.woaneStale).tiers = s.tiers := rfl
@[simp] theorem State.woaneStale_tables (s : State)  : (s.woaneStale).tables = s.tables := rfl
@[simp] theorem State.woaneStale_grafts (s : State)  : (s.woaneStale).grafts = s.grafts := rfl
@[simp] theorem State.woaneStale_flash (s : State)  : (s.woaneStale).flash = s.flash := rfl
@[simp] theorem State.woaneStale_integ (s : State)  : (s.woaneStale).integ = s.integ := rfl
@[simp] theorem State.woaneStale_fail (s : State)  : (s.woaneStale).fail = s.fail := rfl
@[simp] theorem State.woaneStale_out (s : State)  : (s.woaneStale).out = s.out := rfl
@[simp] theorem State.woaneStale_frames (s : State)  : (s.woaneStale).frames = s.frames := rfl
@[simp] theorem State.woaneStale_txHeld (s : State)  : (s.woaneStale).txHeld = s.txHeld := rfl
@[simp] theorem State.woaneStale_pclk (s : State)  : (s.woaneStale).pclk = s.pclk := rfl
@[simp] theorem State.woaneStale_free (s : State)  : (s.woaneStale).free = s.free := rfl
@[simp] theorem State.woaneStale_pending (s : State)  : (s.woaneStale).pending = s.pending := rfl

@[simp] theorem State.bumpPort_power (s : State) (p k : Nat) : (s.bumpPort p k).power = s.power := rfl
@[simp] theorem State.bumpPort_boot (s : State) (p k : Nat) : (s.bumpPort p k).boot = s.boot := rfl
@[simp] theorem State.bumpPort_hp (s : State) (p k : Nat) : (s.bumpPort p k).hp = s.hp := rfl
@[simp] theorem State.bumpPort_sasel (s : State) (p k : Nat) : (s.bumpPort p k).sasel = s.sasel := rfl
@[simp] theorem State.bumpPort_queues (s : State) (p k : Nat) : (s.bumpPort p k).queues = s.queues := rfl
@[simp] theorem State.bumpPort_work (s : State) (p k : Nat) : (s.bumpPort p k).work = s.work := rfl
@[simp] theorem State.bumpPort_idx (s : State) (p k : Nat) : (s.bumpPort p k).idx = s.idx := rfl
@[simp] theorem State.bumpPort_ans (s : State) (p k : Nat) : (s.bumpPort p k).ans = s.ans := rfl
@[simp] theorem State.bumpPort_img (s : State) (p k : Nat) : (s.bumpPort p k).img = s.img := rfl
@[simp] theorem State.bumpPort_loom (s : State) (p k : Nat) : (s.bumpPort p k).loom = s.loom := rfl
@[simp] theorem State.bumpPort_mems (s : State) (p k : Nat) : (s.bumpPort p k).mems = s.mems := rfl
@[simp] theorem State.bumpPort_tiers (s : State) (p k : Nat) : (s.bumpPort p k).tiers = s.tiers := rfl
@[simp] theorem State.bumpPort_tables (s : State) (p k : Nat) : (s.bumpPort p k).tables = s.tables := rfl
@[simp] theorem State.bumpPort_grafts (s : State) (p k : Nat) : (s.bumpPort p k).grafts = s.grafts := rfl
@[simp] theorem State.bumpPort_flash (s : State) (p k : Nat) : (s.bumpPort p k).flash = s.flash := rfl
@[simp] theorem State.bumpPort_integ (s : State) (p k : Nat) : (s.bumpPort p k).integ = s.integ := rfl
@[simp] theorem State.bumpPort_fail (s : State) (p k : Nat) : (s.bumpPort p k).fail = s.fail := rfl
@[simp] theorem State.bumpPort_out (s : State) (p k : Nat) : (s.bumpPort p k).out = s.out := rfl
@[simp] theorem State.bumpPort_frames (s : State) (p k : Nat) : (s.bumpPort p k).frames = s.frames := rfl
@[simp] theorem State.bumpPort_txHeld (s : State) (p k : Nat) : (s.bumpPort p k).txHeld = s.txHeld := rfl
@[simp] theorem State.bumpPort_pclk (s : State) (p k : Nat) : (s.bumpPort p k).pclk = s.pclk := rfl
@[simp] theorem State.bumpPort_free (s : State) (p k : Nat) : (s.bumpPort p k).free = s.free := rfl
@[simp] theorem State.bumpPort_pending (s : State) (p k : Nat) : (s.bumpPort p k).pending = s.pending := rfl

@[simp] theorem State.modCommit_power (s : State) (c : PlotCommit) (f : PlotCommit → PlotCommit) : (s.modCommit c f).power = s.power := rfl
@[simp] theorem State.modCommit_boot (s : State) (c : PlotCommit) (f : PlotCommit → PlotCommit) : (s.modCommit c f).boot = s.boot := rfl
@[simp] theorem State.modCommit_hp (s : State) (c : PlotCommit) (f : PlotCommit → PlotCommit) : (s.modCommit c f).hp = s.hp := rfl
@[simp] theorem State.modCommit_sasel (s : State) (c : PlotCommit) (f : PlotCommit → PlotCommit) : (s.modCommit c f).sasel = s.sasel := rfl
@[simp] theorem State.modCommit_queues (s : State) (c : PlotCommit) (f : PlotCommit → PlotCommit) : (s.modCommit c f).queues = s.queues := rfl
@[simp] theorem State.modCommit_work (s : State) (c : PlotCommit) (f : PlotCommit → PlotCommit) : (s.modCommit c f).work = s.work := rfl
@[simp] theorem State.modCommit_idx (s : State) (c : PlotCommit) (f : PlotCommit → PlotCommit) : (s.modCommit c f).idx = s.idx := rfl
@[simp] theorem State.modCommit_ans (s : State) (c : PlotCommit) (f : PlotCommit → PlotCommit) : (s.modCommit c f).ans = s.ans := rfl
@[simp] theorem State.modCommit_img (s : State) (c : PlotCommit) (f : PlotCommit → PlotCommit) : (s.modCommit c f).img = s.img := rfl
@[simp] theorem State.modCommit_loom (s : State) (c : PlotCommit) (f : PlotCommit → PlotCommit) : (s.modCommit c f).loom = s.loom := rfl
@[simp] theorem State.modCommit_mems (s : State) (c : PlotCommit) (f : PlotCommit → PlotCommit) : (s.modCommit c f).mems = s.mems := rfl
@[simp] theorem State.modCommit_tiers (s : State) (c : PlotCommit) (f : PlotCommit → PlotCommit) : (s.modCommit c f).tiers = s.tiers := rfl
@[simp] theorem State.modCommit_tables (s : State) (c : PlotCommit) (f : PlotCommit → PlotCommit) : (s.modCommit c f).tables = s.tables := rfl
@[simp] theorem State.modCommit_grafts (s : State) (c : PlotCommit) (f : PlotCommit → PlotCommit) : (s.modCommit c f).grafts = s.grafts := rfl
@[simp] theorem State.modCommit_flash (s : State) (c : PlotCommit) (f : PlotCommit → PlotCommit) : (s.modCommit c f).flash = s.flash := rfl
@[simp] theorem State.modCommit_integ (s : State) (c : PlotCommit) (f : PlotCommit → PlotCommit) : (s.modCommit c f).integ = s.integ := rfl
@[simp] theorem State.modCommit_fail (s : State) (c : PlotCommit) (f : PlotCommit → PlotCommit) : (s.modCommit c f).fail = s.fail := rfl
@[simp] theorem State.modCommit_out (s : State) (c : PlotCommit) (f : PlotCommit → PlotCommit) : (s.modCommit c f).out = s.out := rfl
@[simp] theorem State.modCommit_frames (s : State) (c : PlotCommit) (f : PlotCommit → PlotCommit) : (s.modCommit c f).frames = s.frames := rfl
@[simp] theorem State.modCommit_txHeld (s : State) (c : PlotCommit) (f : PlotCommit → PlotCommit) : (s.modCommit c f).txHeld = s.txHeld := rfl
@[simp] theorem State.modCommit_pclk (s : State) (c : PlotCommit) (f : PlotCommit → PlotCommit) : (s.modCommit c f).pclk = s.pclk := rfl
@[simp] theorem State.modCommit_free (s : State) (c : PlotCommit) (f : PlotCommit → PlotCommit) : (s.modCommit c f).free = s.free := rfl
@[simp] theorem State.modCommit_pending (s : State) (c : PlotCommit) (f : PlotCommit → PlotCommit) : (s.modCommit c f).pending = s.pending := rfl

@[simp] theorem State.dropCommit_power (s : State) (c : PlotCommit) : (s.dropCommit c).power = s.power := rfl
@[simp] theorem State.dropCommit_boot (s : State) (c : PlotCommit) : (s.dropCommit c).boot = s.boot := rfl
@[simp] theorem State.dropCommit_hp (s : State) (c : PlotCommit) : (s.dropCommit c).hp = s.hp := rfl
@[simp] theorem State.dropCommit_sasel (s : State) (c : PlotCommit) : (s.dropCommit c).sasel = s.sasel := rfl
@[simp] theorem State.dropCommit_queues (s : State) (c : PlotCommit) : (s.dropCommit c).queues = s.queues := rfl
@[simp] theorem State.dropCommit_work (s : State) (c : PlotCommit) : (s.dropCommit c).work = s.work := rfl
@[simp] theorem State.dropCommit_idx (s : State) (c : PlotCommit) : (s.dropCommit c).idx = s.idx := rfl
@[simp] theorem State.dropCommit_ans (s : State) (c : PlotCommit) : (s.dropCommit c).ans = s.ans := rfl
@[simp] theorem State.dropCommit_img (s : State) (c : PlotCommit) : (s.dropCommit c).img = s.img := rfl
@[simp] theorem State.dropCommit_loom (s : State) (c : PlotCommit) : (s.dropCommit c).loom = s.loom := rfl
@[simp] theorem State.dropCommit_mems (s : State) (c : PlotCommit) : (s.dropCommit c).mems = s.mems := rfl
@[simp] theorem State.dropCommit_tiers (s : State) (c : PlotCommit) : (s.dropCommit c).tiers = s.tiers := rfl
@[simp] theorem State.dropCommit_tables (s : State) (c : PlotCommit) : (s.dropCommit c).tables = s.tables := rfl
@[simp] theorem State.dropCommit_grafts (s : State) (c : PlotCommit) : (s.dropCommit c).grafts = s.grafts := rfl
@[simp] theorem State.dropCommit_flash (s : State) (c : PlotCommit) : (s.dropCommit c).flash = s.flash := rfl
@[simp] theorem State.dropCommit_integ (s : State) (c : PlotCommit) : (s.dropCommit c).integ = s.integ := rfl
@[simp] theorem State.dropCommit_fail (s : State) (c : PlotCommit) : (s.dropCommit c).fail = s.fail := rfl
@[simp] theorem State.dropCommit_out (s : State) (c : PlotCommit) : (s.dropCommit c).out = s.out := rfl
@[simp] theorem State.dropCommit_frames (s : State) (c : PlotCommit) : (s.dropCommit c).frames = s.frames := rfl
@[simp] theorem State.dropCommit_txHeld (s : State) (c : PlotCommit) : (s.dropCommit c).txHeld = s.txHeld := rfl
@[simp] theorem State.dropCommit_pclk (s : State) (c : PlotCommit) : (s.dropCommit c).pclk = s.pclk := rfl
@[simp] theorem State.dropCommit_free (s : State) (c : PlotCommit) : (s.dropCommit c).free = s.free := rfl
@[simp] theorem State.dropCommit_pending (s : State) (c : PlotCommit) : (s.dropCommit c).pending = s.pending := rfl

@[simp] theorem State.modImg_power (s : State) (f : Images → Images) : (s.modImg f).power = s.power := rfl
@[simp] theorem State.modImg_boot (s : State) (f : Images → Images) : (s.modImg f).boot = s.boot := rfl
@[simp] theorem State.modImg_hp (s : State) (f : Images → Images) : (s.modImg f).hp = s.hp := rfl
@[simp] theorem State.modImg_sasel (s : State) (f : Images → Images) : (s.modImg f).sasel = s.sasel := rfl
@[simp] theorem State.modImg_queues (s : State) (f : Images → Images) : (s.modImg f).queues = s.queues := rfl
@[simp] theorem State.modImg_work (s : State) (f : Images → Images) : (s.modImg f).work = s.work := rfl
@[simp] theorem State.modImg_idx (s : State) (f : Images → Images) : (s.modImg f).idx = s.idx := rfl
@[simp] theorem State.modImg_ans (s : State) (f : Images → Images) : (s.modImg f).ans = s.ans := rfl
@[simp] theorem State.modImg_loom (s : State) (f : Images → Images) : (s.modImg f).loom = s.loom := rfl
@[simp] theorem State.modImg_mems (s : State) (f : Images → Images) : (s.modImg f).mems = s.mems := rfl
@[simp] theorem State.modImg_tiers (s : State) (f : Images → Images) : (s.modImg f).tiers = s.tiers := rfl
@[simp] theorem State.modImg_tables (s : State) (f : Images → Images) : (s.modImg f).tables = s.tables := rfl
@[simp] theorem State.modImg_grafts (s : State) (f : Images → Images) : (s.modImg f).grafts = s.grafts := rfl
@[simp] theorem State.modImg_flash (s : State) (f : Images → Images) : (s.modImg f).flash = s.flash := rfl
@[simp] theorem State.modImg_fabric (s : State) (f : Images → Images) : (s.modImg f).fabric = s.fabric := rfl
@[simp] theorem State.modImg_integ (s : State) (f : Images → Images) : (s.modImg f).integ = s.integ := rfl
@[simp] theorem State.modImg_fail (s : State) (f : Images → Images) : (s.modImg f).fail = s.fail := rfl
@[simp] theorem State.modImg_out (s : State) (f : Images → Images) : (s.modImg f).out = s.out := rfl
@[simp] theorem State.modImg_frames (s : State) (f : Images → Images) : (s.modImg f).frames = s.frames := rfl
@[simp] theorem State.modImg_txHeld (s : State) (f : Images → Images) : (s.modImg f).txHeld = s.txHeld := rfl
@[simp] theorem State.modImg_pclk (s : State) (f : Images → Images) : (s.modImg f).pclk = s.pclk := rfl
@[simp] theorem State.modImg_free (s : State) (f : Images → Images) : (s.modImg f).free = s.free := rfl
@[simp] theorem State.modImg_pending (s : State) (f : Images → Images) : (s.modImg f).pending = s.pending := rfl

@[simp] theorem State.modIdx_power (s : State) (f : Indexes → Indexes) : (s.modIdx f).power = s.power := rfl
@[simp] theorem State.modIdx_boot (s : State) (f : Indexes → Indexes) : (s.modIdx f).boot = s.boot := rfl
@[simp] theorem State.modIdx_hp (s : State) (f : Indexes → Indexes) : (s.modIdx f).hp = s.hp := rfl
@[simp] theorem State.modIdx_sasel (s : State) (f : Indexes → Indexes) : (s.modIdx f).sasel = s.sasel := rfl
@[simp] theorem State.modIdx_queues (s : State) (f : Indexes → Indexes) : (s.modIdx f).queues = s.queues := rfl
@[simp] theorem State.modIdx_work (s : State) (f : Indexes → Indexes) : (s.modIdx f).work = s.work := rfl
@[simp] theorem State.modIdx_ans (s : State) (f : Indexes → Indexes) : (s.modIdx f).ans = s.ans := rfl
@[simp] theorem State.modIdx_img (s : State) (f : Indexes → Indexes) : (s.modIdx f).img = s.img := rfl
@[simp] theorem State.modIdx_loom (s : State) (f : Indexes → Indexes) : (s.modIdx f).loom = s.loom := rfl
@[simp] theorem State.modIdx_mems (s : State) (f : Indexes → Indexes) : (s.modIdx f).mems = s.mems := rfl
@[simp] theorem State.modIdx_tiers (s : State) (f : Indexes → Indexes) : (s.modIdx f).tiers = s.tiers := rfl
@[simp] theorem State.modIdx_tables (s : State) (f : Indexes → Indexes) : (s.modIdx f).tables = s.tables := rfl
@[simp] theorem State.modIdx_grafts (s : State) (f : Indexes → Indexes) : (s.modIdx f).grafts = s.grafts := rfl
@[simp] theorem State.modIdx_flash (s : State) (f : Indexes → Indexes) : (s.modIdx f).flash = s.flash := rfl
@[simp] theorem State.modIdx_fabric (s : State) (f : Indexes → Indexes) : (s.modIdx f).fabric = s.fabric := rfl
@[simp] theorem State.modIdx_integ (s : State) (f : Indexes → Indexes) : (s.modIdx f).integ = s.integ := rfl
@[simp] theorem State.modIdx_fail (s : State) (f : Indexes → Indexes) : (s.modIdx f).fail = s.fail := rfl
@[simp] theorem State.modIdx_out (s : State) (f : Indexes → Indexes) : (s.modIdx f).out = s.out := rfl
@[simp] theorem State.modIdx_frames (s : State) (f : Indexes → Indexes) : (s.modIdx f).frames = s.frames := rfl
@[simp] theorem State.modIdx_txHeld (s : State) (f : Indexes → Indexes) : (s.modIdx f).txHeld = s.txHeld := rfl
@[simp] theorem State.modIdx_pclk (s : State) (f : Indexes → Indexes) : (s.modIdx f).pclk = s.pclk := rfl
@[simp] theorem State.modIdx_free (s : State) (f : Indexes → Indexes) : (s.modIdx f).free = s.free := rfl
@[simp] theorem State.modIdx_pending (s : State) (f : Indexes → Indexes) : (s.modIdx f).pending = s.pending := rfl

@[simp] theorem State.modIndex_power (s : State) (h : W32) (f : Index → Index) : (s.modIndex h f).power = s.power := rfl
@[simp] theorem State.modIndex_boot (s : State) (h : W32) (f : Index → Index) : (s.modIndex h f).boot = s.boot := rfl
@[simp] theorem State.modIndex_hp (s : State) (h : W32) (f : Index → Index) : (s.modIndex h f).hp = s.hp := rfl
@[simp] theorem State.modIndex_sasel (s : State) (h : W32) (f : Index → Index) : (s.modIndex h f).sasel = s.sasel := rfl
@[simp] theorem State.modIndex_queues (s : State) (h : W32) (f : Index → Index) : (s.modIndex h f).queues = s.queues := rfl
@[simp] theorem State.modIndex_work (s : State) (h : W32) (f : Index → Index) : (s.modIndex h f).work = s.work := rfl
@[simp] theorem State.modIndex_ans (s : State) (h : W32) (f : Index → Index) : (s.modIndex h f).ans = s.ans := rfl
@[simp] theorem State.modIndex_img (s : State) (h : W32) (f : Index → Index) : (s.modIndex h f).img = s.img := rfl
@[simp] theorem State.modIndex_loom (s : State) (h : W32) (f : Index → Index) : (s.modIndex h f).loom = s.loom := rfl
@[simp] theorem State.modIndex_mems (s : State) (h : W32) (f : Index → Index) : (s.modIndex h f).mems = s.mems := rfl
@[simp] theorem State.modIndex_tiers (s : State) (h : W32) (f : Index → Index) : (s.modIndex h f).tiers = s.tiers := rfl
@[simp] theorem State.modIndex_tables (s : State) (h : W32) (f : Index → Index) : (s.modIndex h f).tables = s.tables := rfl
@[simp] theorem State.modIndex_grafts (s : State) (h : W32) (f : Index → Index) : (s.modIndex h f).grafts = s.grafts := rfl
@[simp] theorem State.modIndex_flash (s : State) (h : W32) (f : Index → Index) : (s.modIndex h f).flash = s.flash := rfl
@[simp] theorem State.modIndex_fabric (s : State) (h : W32) (f : Index → Index) : (s.modIndex h f).fabric = s.fabric := rfl
@[simp] theorem State.modIndex_integ (s : State) (h : W32) (f : Index → Index) : (s.modIndex h f).integ = s.integ := rfl
@[simp] theorem State.modIndex_fail (s : State) (h : W32) (f : Index → Index) : (s.modIndex h f).fail = s.fail := rfl
@[simp] theorem State.modIndex_out (s : State) (h : W32) (f : Index → Index) : (s.modIndex h f).out = s.out := rfl
@[simp] theorem State.modIndex_frames (s : State) (h : W32) (f : Index → Index) : (s.modIndex h f).frames = s.frames := rfl
@[simp] theorem State.modIndex_txHeld (s : State) (h : W32) (f : Index → Index) : (s.modIndex h f).txHeld = s.txHeld := rfl
@[simp] theorem State.modIndex_pclk (s : State) (h : W32) (f : Index → Index) : (s.modIndex h f).pclk = s.pclk := rfl
@[simp] theorem State.modIndex_free (s : State) (h : W32) (f : Index → Index) : (s.modIndex h f).free = s.free := rfl
@[simp] theorem State.modIndex_pending (s : State) (h : W32) (f : Index → Index) : (s.modIndex h f).pending = s.pending := rfl

@[simp] theorem State.modCtx_power (s : State) (i : Nat) (f : Ctx → Ctx) : (s.modCtx i f).power = s.power := rfl
@[simp] theorem State.modCtx_boot (s : State) (i : Nat) (f : Ctx → Ctx) : (s.modCtx i f).boot = s.boot := rfl
@[simp] theorem State.modCtx_hp (s : State) (i : Nat) (f : Ctx → Ctx) : (s.modCtx i f).hp = s.hp := rfl
@[simp] theorem State.modCtx_sasel (s : State) (i : Nat) (f : Ctx → Ctx) : (s.modCtx i f).sasel = s.sasel := rfl
@[simp] theorem State.modCtx_queues (s : State) (i : Nat) (f : Ctx → Ctx) : (s.modCtx i f).queues = s.queues := rfl
@[simp] theorem State.modCtx_idx (s : State) (i : Nat) (f : Ctx → Ctx) : (s.modCtx i f).idx = s.idx := rfl
@[simp] theorem State.modCtx_ans (s : State) (i : Nat) (f : Ctx → Ctx) : (s.modCtx i f).ans = s.ans := rfl
@[simp] theorem State.modCtx_img (s : State) (i : Nat) (f : Ctx → Ctx) : (s.modCtx i f).img = s.img := rfl
@[simp] theorem State.modCtx_loom (s : State) (i : Nat) (f : Ctx → Ctx) : (s.modCtx i f).loom = s.loom := rfl
@[simp] theorem State.modCtx_mems (s : State) (i : Nat) (f : Ctx → Ctx) : (s.modCtx i f).mems = s.mems := rfl
@[simp] theorem State.modCtx_tiers (s : State) (i : Nat) (f : Ctx → Ctx) : (s.modCtx i f).tiers = s.tiers := rfl
@[simp] theorem State.modCtx_tables (s : State) (i : Nat) (f : Ctx → Ctx) : (s.modCtx i f).tables = s.tables := rfl
@[simp] theorem State.modCtx_grafts (s : State) (i : Nat) (f : Ctx → Ctx) : (s.modCtx i f).grafts = s.grafts := rfl
@[simp] theorem State.modCtx_flash (s : State) (i : Nat) (f : Ctx → Ctx) : (s.modCtx i f).flash = s.flash := rfl
@[simp] theorem State.modCtx_fabric (s : State) (i : Nat) (f : Ctx → Ctx) : (s.modCtx i f).fabric = s.fabric := rfl
@[simp] theorem State.modCtx_integ (s : State) (i : Nat) (f : Ctx → Ctx) : (s.modCtx i f).integ = s.integ := rfl
@[simp] theorem State.modCtx_fail (s : State) (i : Nat) (f : Ctx → Ctx) : (s.modCtx i f).fail = s.fail := rfl
@[simp] theorem State.modCtx_out (s : State) (i : Nat) (f : Ctx → Ctx) : (s.modCtx i f).out = s.out := rfl
@[simp] theorem State.modCtx_frames (s : State) (i : Nat) (f : Ctx → Ctx) : (s.modCtx i f).frames = s.frames := rfl
@[simp] theorem State.modCtx_txHeld (s : State) (i : Nat) (f : Ctx → Ctx) : (s.modCtx i f).txHeld = s.txHeld := rfl
@[simp] theorem State.modCtx_pclk (s : State) (i : Nat) (f : Ctx → Ctx) : (s.modCtx i f).pclk = s.pclk := rfl
@[simp] theorem State.modCtx_free (s : State) (i : Nat) (f : Ctx → Ctx) : (s.modCtx i f).free = s.free := rfl
@[simp] theorem State.modCtx_pending (s : State) (i : Nat) (f : Ctx → Ctx) : (s.modCtx i f).pending = s.pending := rfl

@[simp] theorem State.setKnot_power (s : State) (x : Knot) : (s.setKnot x).power = s.power := rfl
@[simp] theorem State.setKnot_boot (s : State) (x : Knot) : (s.setKnot x).boot = s.boot := rfl
@[simp] theorem State.setKnot_hp (s : State) (x : Knot) : (s.setKnot x).hp = s.hp := rfl
@[simp] theorem State.setKnot_sasel (s : State) (x : Knot) : (s.setKnot x).sasel = s.sasel := rfl
@[simp] theorem State.setKnot_queues (s : State) (x : Knot) : (s.setKnot x).queues = s.queues := rfl
@[simp] theorem State.setKnot_idx (s : State) (x : Knot) : (s.setKnot x).idx = s.idx := rfl
@[simp] theorem State.setKnot_ans (s : State) (x : Knot) : (s.setKnot x).ans = s.ans := rfl
@[simp] theorem State.setKnot_img (s : State) (x : Knot) : (s.setKnot x).img = s.img := rfl
@[simp] theorem State.setKnot_loom (s : State) (x : Knot) : (s.setKnot x).loom = s.loom := rfl
@[simp] theorem State.setKnot_mems (s : State) (x : Knot) : (s.setKnot x).mems = s.mems := rfl
@[simp] theorem State.setKnot_tiers (s : State) (x : Knot) : (s.setKnot x).tiers = s.tiers := rfl
@[simp] theorem State.setKnot_tables (s : State) (x : Knot) : (s.setKnot x).tables = s.tables := rfl
@[simp] theorem State.setKnot_grafts (s : State) (x : Knot) : (s.setKnot x).grafts = s.grafts := rfl
@[simp] theorem State.setKnot_flash (s : State) (x : Knot) : (s.setKnot x).flash = s.flash := rfl
@[simp] theorem State.setKnot_fabric (s : State) (x : Knot) : (s.setKnot x).fabric = s.fabric := rfl
@[simp] theorem State.setKnot_integ (s : State) (x : Knot) : (s.setKnot x).integ = s.integ := rfl
@[simp] theorem State.setKnot_fail (s : State) (x : Knot) : (s.setKnot x).fail = s.fail := rfl
@[simp] theorem State.setKnot_out (s : State) (x : Knot) : (s.setKnot x).out = s.out := rfl
@[simp] theorem State.setKnot_frames (s : State) (x : Knot) : (s.setKnot x).frames = s.frames := rfl
@[simp] theorem State.setKnot_txHeld (s : State) (x : Knot) : (s.setKnot x).txHeld = s.txHeld := rfl
@[simp] theorem State.setKnot_pclk (s : State) (x : Knot) : (s.setKnot x).pclk = s.pclk := rfl
@[simp] theorem State.setKnot_free (s : State) (x : Knot) : (s.setKnot x).free = s.free := rfl
@[simp] theorem State.setKnot_pending (s : State) (x : Knot) : (s.setKnot x).pending = s.pending := rfl

@[simp] theorem State.noteSignal_power (s : State) (src : SignalSource) (n : W32) : (s.noteSignal src n).power = s.power := rfl
@[simp] theorem State.noteSignal_boot (s : State) (src : SignalSource) (n : W32) : (s.noteSignal src n).boot = s.boot := rfl
@[simp] theorem State.noteSignal_hp (s : State) (src : SignalSource) (n : W32) : (s.noteSignal src n).hp = s.hp := rfl
@[simp] theorem State.noteSignal_sasel (s : State) (src : SignalSource) (n : W32) : (s.noteSignal src n).sasel = s.sasel := rfl
@[simp] theorem State.noteSignal_queues (s : State) (src : SignalSource) (n : W32) : (s.noteSignal src n).queues = s.queues := rfl
@[simp] theorem State.noteSignal_idx (s : State) (src : SignalSource) (n : W32) : (s.noteSignal src n).idx = s.idx := rfl
@[simp] theorem State.noteSignal_ans (s : State) (src : SignalSource) (n : W32) : (s.noteSignal src n).ans = s.ans := rfl
@[simp] theorem State.noteSignal_img (s : State) (src : SignalSource) (n : W32) : (s.noteSignal src n).img = s.img := rfl
@[simp] theorem State.noteSignal_loom (s : State) (src : SignalSource) (n : W32) : (s.noteSignal src n).loom = s.loom := rfl
@[simp] theorem State.noteSignal_mems (s : State) (src : SignalSource) (n : W32) : (s.noteSignal src n).mems = s.mems := rfl
@[simp] theorem State.noteSignal_tiers (s : State) (src : SignalSource) (n : W32) : (s.noteSignal src n).tiers = s.tiers := rfl
@[simp] theorem State.noteSignal_tables (s : State) (src : SignalSource) (n : W32) : (s.noteSignal src n).tables = s.tables := rfl
@[simp] theorem State.noteSignal_grafts (s : State) (src : SignalSource) (n : W32) : (s.noteSignal src n).grafts = s.grafts := rfl
@[simp] theorem State.noteSignal_flash (s : State) (src : SignalSource) (n : W32) : (s.noteSignal src n).flash = s.flash := rfl
@[simp] theorem State.noteSignal_fabric (s : State) (src : SignalSource) (n : W32) : (s.noteSignal src n).fabric = s.fabric := rfl
@[simp] theorem State.noteSignal_integ (s : State) (src : SignalSource) (n : W32) : (s.noteSignal src n).integ = s.integ := rfl
@[simp] theorem State.noteSignal_fail (s : State) (src : SignalSource) (n : W32) : (s.noteSignal src n).fail = s.fail := rfl
@[simp] theorem State.noteSignal_out (s : State) (src : SignalSource) (n : W32) : (s.noteSignal src n).out = s.out := rfl
@[simp] theorem State.noteSignal_frames (s : State) (src : SignalSource) (n : W32) : (s.noteSignal src n).frames = s.frames := rfl
@[simp] theorem State.noteSignal_txHeld (s : State) (src : SignalSource) (n : W32) : (s.noteSignal src n).txHeld = s.txHeld := rfl
@[simp] theorem State.noteSignal_pclk (s : State) (src : SignalSource) (n : W32) : (s.noteSignal src n).pclk = s.pclk := rfl
@[simp] theorem State.noteSignal_free (s : State) (src : SignalSource) (n : W32) : (s.noteSignal src n).free = s.free := rfl
@[simp] theorem State.noteSignal_pending (s : State) (src : SignalSource) (n : W32) : (s.noteSignal src n).pending = s.pending := rfl

end Sys2Proof.Machine
end

