-- ==== Sys2Proof/Laws/Ops.lean ====
section
/-! SUPPORT. What the shared operations do, one lemma each: lookups in lists that an update changes, submissions and their
outcomes, the frame of a command that waits, buffers, what leaves the sled. -/

namespace Sys2Proof.Machine

open Sys2Proof

/-! ### Lists -/

/-- A lookup in a list that an update changes, when the update does not change what is looked for. -/
theorem find_updWhere {α : Type} (l : List α) (p q : α → Bool) (f : α → α) (hf : ∀ x, p x = true → q (f x) = q x) :
    (updWhere p f l).find? q = (l.find? q).map fun x => if p x then f x else x := by
  induction l with
  | nil => rfl
  | cons a l ih =>
    have e : updWhere p f (a :: l) = (if p a then f a else a) :: updWhere p f l := rfl
    rw [e, List.find?_cons, List.find?_cons, ih]
    by_cases ha : p a = true
    · simp only [ha, if_true, hf a ha]; cases q a <;> simp [ha]
    · simp only [ha]; cases hq : q a <;> simp [ha, hq]

theorem mem_updWhere {α : Type} (p : α → Bool) (f : α → α) (l : List α) (y : α) :
    y ∈ updWhere p f l ↔ ∃ x ∈ l, y = if p x then f x else x := by
  simp only [updWhere, List.mem_map, eq_comm]

theorem length_updWhere {α : Type} (p : α → Bool) (f : α → α) (l : List α) : (updWhere p f l).length = l.length := by
  simp [updWhere]

/-- What was replaced or appended is found. -/
theorem find_upsert_same {α : Type} (p : α → Bool) (x : α) (hx : p x = true) : ∀ l : List α, (upsert p x l).find? p = some x := by
  intro l
  unfold upsert
  split
  · rename_i h
    induction l with
    | nil => simp at h
    | cons a l ih =>
      by_cases ha : p a = true
      · simp [ha, hx]
      · have h' : l.any p = true := by simpa [ha] using h
        simpa [ha] using ih h'
  · rename_i h
    have hn : l.find? p = none := by
      rw [List.find?_eq_none]; intro y hy hp
      exact h (List.any_eq_true.2 ⟨y, hy, hp⟩)
    simp [List.find?_append, hn, hx]

/-- What an update of other elements does not concern is found as before. -/
theorem find_upsert_other {α : Type} (p q : α → Bool) (x : α) (hx : q x = false) (hd : ∀ y, p y = true → q y = false) :
    ∀ l : List α, (upsert p x l).find? q = l.find? q := by
  intro l
  unfold upsert
  split
  · rename_i h
    clear h
    induction l with
    | nil => rfl
    | cons a l ih =>
      by_cases ha : p a = true
      · simp only [List.map_cons, ha, if_true, List.find?_cons, hx, hd a ha, ih]
      · simp only [List.map_cons, ha, List.find?_cons, ih]; simp
  · simp [List.find?_append, hx]

theorem length_modAt {α : Type} (f : α → α) : ∀ (l : List α) (i : Nat), (modAt l i f).length = l.length
  | [], _ => rfl
  | _ :: _, 0 => rfl
  | _ :: r, i + 1 => by simp [modAt, length_modAt f r i]

theorem getElem_modAt {α : Type} (f : α → α) : ∀ (l : List α) (i k : Nat),
    (modAt l i f)[k]? = if k = i then l[k]?.map f else l[k]?
  | [], i, k => by simp [modAt]
  | x :: r, 0, 0 => by simp [modAt]
  | x :: r, 0, k + 1 => by simp [modAt]
  | x :: r, i + 1, 0 => by simp [modAt]
  | x :: r, i + 1, k + 1 => by simp [modAt, getElem_modAt f r i k]

/-! ### Statuses (R320) -/

theorem rank_foldl_le (l : List Status) (a : Status) :
    (l.foldl (fun a b => if b.rank < a.rank then b else a) a).rank ≤ a.rank := by
  induction l generalizing a with
  | nil => simp
  | cons b l ih => simp only [List.foldl_cons]; refine Nat.le_trans (ih _) ?_; split <;> omega

theorem rank_foldl_le_mem (l : List Status) (a st : Status) (h : st ∈ l) :
    (l.foldl (fun a b => if b.rank < a.rank then b else a) a).rank ≤ st.rank := by
  induction l generalizing a with
  | nil => simp at h
  | cons b l ih =>
    simp only [List.foldl_cons]
    rcases List.mem_cons.1 h with rfl | h
    · refine Nat.le_trans (rank_foldl_le _ _) ?_; split <;> omega
    · exact ih _ h

/-- BAD_FIELD comes before every other status. -/
theorem firstStatus_badField {l : List Status} (h : .badField ∈ l) : firstStatus l = .badField := by
  have hr : (firstStatus l).rank ≤ 0 := rank_foldl_le_mem l _ _ h
  revert hr; cases firstStatus l <;> simp [Status.rank]

/-! ### Submissions -/

theorem sub_sid {s : State} {sid : Nat} {u : Sub} (h : s.sub? sid = some u) : u.sid = sid := by
  have := List.find?_some h
  simpa using this

theorem waits_sid {s : State} {sid op : Nat} {u : Sub} (h : Waits s sid op u) : u.sid = sid := sub_sid h.1

theorem begins_sid {s : State} {sid op : Nat} {u : Sub} (h : Begins s sid op u) : u.sid = sid := waits_sid h.1

theorem begins_preset {s : State} {sid op : Nat} {u : Sub} (h : Begins s sid op u) : u.preset = [] := h.2

/-- An update of one submission, which keeps its name, changes what that name finds. -/
theorem sub_modSub (s : State) (f : Sub → Sub) (hf : ∀ u, (f u).sid = u.sid) (sid : Nat) :
    (s.modSub sid f).sub? sid = (s.sub? sid).map f := by
  unfold State.sub? State.modSub
  simp only
  rw [find_updWhere _ _ _ _ (by intro x _; simp only [hf])]
  cases e : s.sasel.subs.find? (fun u => u.sid == sid) with
  | none => rfl
  | some u =>
    have := List.find?_some e
    have hu : u.sid = sid := by simpa using this
    simp [hu]

/-- It changes no other submission. -/
theorem sub_modSub_other (s : State) (f : Sub → Sub) (hf : ∀ u, (f u).sid = u.sid) (sid k : Nat) (h : k ≠ sid) :
    (s.modSub sid f).sub? k = s.sub? k := by
  unfold State.sub? State.modSub
  simp only
  rw [find_updWhere _ _ _ _ (by intro x _; simp only [hf])]
  cases e : s.sasel.subs.find? (fun u => u.sid == k) with
  | none => rfl
  | some u =>
    have := List.find?_some e
    have hu : u.sid = k := by simpa using this
    simp [hu, h]

/-- The end of a submission sets its outcome, unless it has one. -/
theorem sub_finish (s : State) (sid : Nat) (r : Result) : (s.finish sid r).sub? sid =
    (s.sub? sid).map fun u => if u.due.isNone then { u with due := some r, running := false } else u := by
  apply sub_modSub; intro u; split <;> rfl

theorem sub_finish_other (s : State) (sid k : Nat) (r : Result) (h : k ≠ sid) : (s.finish sid r).sub? k = s.sub? k := by
  apply sub_modSub_other _ _ _ _ _ h; intro u; split <;> rfl

/-- A submission that has no outcome ends with the result it is given. -/
theorem endsWith_finish {s : State} {sid : Nat} {u : Sub} (r : Result) (h : s.sub? sid = some u) (hd : u.due = none) :
    EndsWith (s.finish sid r) sid u r := by
  simp [EndsWith, sub_finish, h, hd]

theorem sub_start (s : State) (sid : Nat) : (s.start sid).sub? sid = (s.sub? sid).map fun u => { u with running := true } := by
  apply sub_modSub; intro u; rfl

theorem sub_start_other (s : State) (sid k : Nat) (h : k ≠ sid) : (s.start sid).sub? k = s.sub? k := by
  apply sub_modSub_other _ _ _ _ _ h; intro u; rfl

/-- A command runs on a submission that waits for it. -/
theorem run_waits {s : State} {sid op : Nat} {u : Sub} (body : Sub → State → State) (h : Waits s sid op u) :
    s.run sid op body = body u s := by
  obtain ⟨h1, h2, h3, h4, h5⟩ := h
  simp [State.run, h1, h2, h3, h4, h5]

/-- It changes nothing when no submission of its opcode waits. -/
theorem run_none {s : State} {sid op : Nat} (body : Sub → State → State) (h : ∀ u, ¬ Waits s sid op u) : s.run sid op body = s := by
  unfold State.run
  split
  · rename_i u hu
    split
    · rename_i hc
      exact absurd ⟨hu, hc.1, hc.2.1, hc.2.2.1, hc.2.2.2⟩ (h u)
    · rfl
  · rfl

/-- What a command can do: nothing, or its body on the submission that waits. -/
theorem run_cases (s : State) (sid op : Nat) (body : Sub → State → State) :
    (s.run sid op body = s ∧ ∀ u, ¬ Waits s sid op u) ∨ ∃ u, Waits s sid op u ∧ s.run sid op body = body u s := by
  by_cases h : ∃ u, Waits s sid op u
  · obtain ⟨u, hu⟩ := h; exact Or.inr ⟨u, hu, run_waits body hu⟩
  · have hn : ∀ u, ¬ Waits s sid op u := fun u hu => h ⟨u, hu⟩
    exact Or.inl ⟨run_none body hn, hn⟩

theorem settle_ok {s : State} {u : Sub} {errs : List Status} (effect : State → State) (hp : u.preset = []) (he : errs = []) :
    s.settle u errs effect = effect s := by
  subst he; simp [State.settle, hp]

theorem settle_fails {s : State} {u : Sub} {errs : List Status} (effect : State → State) (h : u.preset ++ errs ≠ []) :
    s.settle u errs effect = s.failWith u.sid (firstStatus (u.preset ++ errs)) := by
  unfold State.settle; split
  · contradiction
  · rfl

theorem settle_badField {s : State} {u : Sub} {errs : List Status} (effect : State → State) (h : .badField ∈ errs) :
    s.settle u errs effect = s.failWith u.sid .badField := by
  have h' : Status.badField ∈ u.preset ++ errs := List.mem_append_right _ h
  rw [settle_fails effect (List.ne_nil_of_mem h'), firstStatus_badField h']

theorem withB_some {s : State} {u : Sub} {b : Option Buf} {buf : Buf} (k : Buf → State) (hp : u.preset = [])
    (hb : u.readB b = some buf) : s.withB u b k = k buf := by
  simp [State.withB, hp, hb, firstStatus]

theorem withB_none {s : State} {u : Sub} {b : Option Buf} (k : Buf → State) (hp : u.preset = []) (hb : u.readB b = none)
    (hi : u.inSlot = false) : s.withB u b k = s.accessError u := by
  simp [State.withB, hp, hb, firstStatus, hi]

/-- A report that reaches B is written there and the command goes on. -/
theorem report_reaches {s : State} {u : Sub} {ok : Bool} {bytes : Buf} (r : State → State) (h : Reaches u bytes.length ok) :
    s.report u ok bytes r = r (s.writeB u bytes) := by
  rcases h with ⟨hi, hl, hr⟩ | ⟨hi, rfl⟩
  · simp [State.report, hi, hl, hr]
  · simp [State.report, hi]

/-! ### Queue pairs -/

theorem queue_setQueue (s : State) (q : Queue) : (s.setQueue q).queue q.index = q := by
  unfold State.queue State.setQueue
  simp only
  rw [find_upsert_same (fun p => p.index == q.index) q (by simp)]
  rfl

theorem queue_setQueue_other (s : State) (q : Queue) (i : Nat) (h : i ≠ q.index) : (s.setQueue q).queue i = s.queue i := by
  unfold State.queue State.setQueue
  simp only
  rw [find_upsert_other (fun p => p.index == q.index) (fun p => p.index == i) q (by simp [Ne.symm h])
    (by intro y hy; have : y.index = q.index := by simpa using hy
        simp [this, Ne.symm h])]

/-! ### What leaves the sled -/

theorem putFrame_frame (s : State) (o : Out) : s.putFrame o = { s with frames := (s.putFrame o).frames } := by
  unfold State.putFrame; split <;> rfl

/-- A frame leaves its port, or waits there for the end of a pause. -/
theorem toPort_frame (s : State) (o : Out) : s.toPort o = { s with frames := (s.toPort o).frames, txHeld := (s.toPort o).txHeld } := by
  unfold State.toPort; split
  · rfl
  · rw [putFrame_frame]

/-- What waits in the port while a pause lasts. -/
theorem toPort_paused (s : State) (o : Out) (hr : o.roce = true) (hp : s.hp.settings.pfcOn = true) (hq : s.hp.paused = true) :
    s.toPort o = { s with txHeld := s.txHeld ++ [o] } := by simp [State.toPort, hr, hp, hq]

/-- What leaves at once. -/
theorem toPort_sends (s : State) (o : Out) (h : o.roce = false ∨ s.hp.settings.pfcOn = false ∨ s.hp.paused = false) :
    s.toPort o = s.putFrame o := by
  unfold State.toPort
  obtain h | h | h := h <;> simp [h]

theorem out_emit (s : State) (o : Out) : (s.emit o).out = o :: s.out := by
  unfold State.emit; rw [toPort_frame]; dsimp only; split <;> rfl

theorem emit_frame (s : State) (o : Out) : s.emit o =
    { s with out := o :: s.out, frames := (s.emit o).frames, txHeld := (s.emit o).txHeld
             hp := { s.hp with conns := (s.emit o).hp.conns } } := by
  unfold State.emit; rw [toPort_frame]; dsimp only; split <;> rfl

@[simp] theorem sub_emit (s : State) (o : Out) (sid : Nat) : (s.emit o).sub? sid = s.sub? sid := by rw [emit_frame]; rfl

@[simp] theorem queue_emit (s : State) (o : Out) (i : Nat) : (s.emit o).queue i = s.queue i := by rw [emit_frame]; rfl

@[simp] theorem mems_emit (s : State) (o : Out) : (s.emit o).mems = s.mems := by rw [emit_frame]

@[simp] theorem pending_emit (s : State) (o : Out) : (s.emit o).pending = s.pending := by rw [emit_frame]

/-- Several things that leave are recorded latest first. -/
theorem out_emits (os : List Out) : ∀ s : State, (s.emits os).out = os.reverse ++ s.out := by
  induction os with
  | nil => intro s; rfl
  | cons o os ih =>
    intro s
    have e : s.emits (o :: os) = (s.emit o).emits os := rfl
    rw [e, ih, out_emit]; simp

theorem emits_frame (os : List Out) : ∀ s : State,
    s.emits os = { s with out := (s.emits os).out, frames := (s.emits os).frames, txHeld := (s.emits os).txHeld
                          hp := { s.hp with conns := (s.emits os).hp.conns } } := by
  induction os with
  | nil => intro s; rfl
  | cons o os ih =>
    intro s
    have e : s.emits (o :: os) = (s.emit o).emits os := rfl
    rw [e, ih, emit_frame]

/-- Result bytes that go into B change the slot's data area, or leave by the connection. -/
theorem writeB_frame (s : State) (u : Sub) (bytes : Buf) : s.writeB u bytes =
    { s with out := (s.writeB u bytes).out, frames := (s.writeB u bytes).frames, txHeld := (s.writeB u bytes).txHeld
             hp := { s.hp with conns := (s.writeB u bytes).hp.conns }
             sasel := { s.sasel with slots := (s.writeB u bytes).sasel.slots } } := by
  unfold State.writeB
  split
  · split
    · rfl
    · rw [emit_frame]
  · rw [emit_frame]

@[simp] theorem sub_writeB (s : State) (u : Sub) (bytes : Buf) (sid : Nat) : (s.writeB u bytes).sub? sid = s.sub? sid := by
  rw [writeB_frame]; rfl

end Sys2Proof.Machine
end

