-- ==== Sys2Proof/WellFormed.lean ====
section
/-! DEFINITION. Well-formed commands: every number of a unit lies in the population the manual gives the sled (R20), and a
fixed-length operand has its length.  A command that is not well-formed names a unit the sled does not have. -/

namespace Sys2Proof

open Sys2Proof.Machine

/-- 128 flash channels (R23). -/
def isChannel (c : Nat) : Bool := decide (c < 128)
/-- Die positions 0 to 23 (R1). -/
def isDie (d : Nat) : Bool := decide (d < 24)
/-- 1,200 block sets a die (R232). -/
def isBlockSet (b : Nat) : Bool := decide (b < 1200)
/-- A place on a channel. -/
def isLoc (l : FlashLoc) : Bool := isDie l.die && isBlockSet l.blockSet
/-- 0 the host port, 1 + p FPp (R331). -/
def isPort (p : Nat) : Bool := decide (p ≤ 12)
/-- Lane slots 0 to 7 of the training word (R292). -/
def isSlot (n : Nat) : Bool := decide (n < 8)
/-- 32,768 knots (R283). -/
def isKnot (k : Nat) : Bool := decide (k < 32768)
/-- The doorbell region (R311). -/
def isDoorbell (o : Nat) : Bool := decide (0x100000 ≤ o ∧ o < 0x300000)
/-- Ranks 0 to 1,023 (R336). -/
def isRank (r : Nat) : Bool := decide (r < 1024)
/-- Flow classes 0 to 3 (R343). -/
def isClass (c : Nat) : Bool := decide (c < 4)
/-- Plot index numbers 0 to 63 (R336). -/
def isPlot (x : Nat) : Bool := decide (x < 64)
/-- 256 tables (R185). -/
def isTable (t : Nat) : Bool := decide (t < 256)
/-- 8 graft jobs (R207). -/
def isJob (j : Nat) : Bool := decide (j < 8)
/-- 4,096 contexts (R259). -/
def isCtx (c : Nat) : Bool := decide (c < 4096)

/-- A command is well-formed. -/
def Instr.ok (i : Instr) : Bool :=
  match i with
  | .sievePassEnd channel _ => isChannel channel
  | .sievePassStart channel => isChannel channel
  | .pickIssue ctx _ _ => isCtx ctx
  | .stagingComplete ctx _ => isCtx ctx
  | .subLookup rank _ table _ _ _ _ => isRank rank && isTable table
  | .rowUpdateMessage rank _ table _ _ _ _ => isRank rank && isTable table
  | .migrationFlip table _ dest _ _ => isTable table && isRank dest
  | .stubForward table _ _ _ => isTable table
  | .mapAcknowledge rank table _ => isRank rank && isTable table
  | .tablePrepare rank table _ => isRank rank && isTable table
  | .tableVote rank table _ _ => isRank rank && isTable table
  | .tablePrepareTimeout table => isTable table
  | .tableDecision table _ _ => isTable table
  | .decisionQueryTimer plot id => (if plot then isPlot id else isTable id)
  | .tableVersionFree rank _ _ _ => isRank rank
  | .tableRestore table => isTable table
  | .gradientComplete tag _ _ => isJob tag.job && isRank tag.rank
  | .gradReady tag => isJob tag.job && isRank tag.rank
  | .reduce tag => isJob tag.job && isRank tag.rank
  | .announceReceived tag _ => isJob tag.job && isRank tag.rank
  | .chainHop tag _ => isJob tag.job && isRank tag.rank
  | .groupPartial tag _ => isJob tag.job && isRank tag.rank
  | .graftBarrier job => isJob job
  | .graftVote tag _ _ _ => isJob tag.job && isRank tag.rank
  | .graftDecision tag _ _ => isJob tag.job && isRank tag.rank
  | .hopTimeout tag => isJob tag.job && isRank tag.rank
  | .stepTimeout tag => isJob tag.job && isRank tag.rank
  | .graftVoteQueryTimer job => isJob job
  | .graftCheckpoint job rank _ => isJob job && isRank rank
  | .programComplete channel _ loc => isChannel channel && isLoc loc
  | .programFail channel _ loc => isChannel channel && isLoc loc
  | .openBlockParityWrite channel group _ loc => isChannel channel && decide (group < 4) && isLoc loc
  | .blockSetClose channel die blockSet => isChannel channel && isDie die && isBlockSet blockSet
  | .blockSetVerify channel die blockSet _ _ => isChannel channel && isDie die && isBlockSet blockSet
  | .wearLevel channel die blockSet => isChannel channel && isDie die && isBlockSet blockSet
  | .patrolRead channel die blockSet _ _ _ => isChannel channel && isDie die && isBlockSet blockSet
  | .mapCheckpointStart channel => isChannel channel
  | .contextSaveComplete ctx => isCtx ctx
  | .contextRestoreComplete ctx => isCtx ctx
  | .preemptionTimer ctx => isCtx ctx
  | .yieldPoint ctx => isCtx ctx
  | .contextTeardown ctx _ => isCtx ctx
  | .doorbell _ offset _ => isDoorbell offset
  | .submissionFetch queue => decide (queue < 262144)
  | .quarantineExit queue => decide (queue < 262144)
  | .knotSignal _ _ knot => isKnot knot
  | .knotReset knot => isKnot knot
  | .frameReceive f => isPort f.port && decide (f.bufferFree ≤ 16777216)
  | .trainingFrame port slot _ _ => isPort port && isSlot slot
  | .lanesToData port => isPort port
  | .trainingTimeout port slot => isPort port && isSlot slot
  | .laneFault port logical => isPort port && decide (logical < 8)
  | .laneSwap port _ logical slot => isPort port && decide (logical < 4) && isSlot slot
  | .pcsAligned port => isPort port
  | .discoveryDatagram _ first4 => decide (first4.length = 4)
  | .pfcFrame priority _ => decide (priority < 8)
  | .mailboxControl _ slot _ => decide (slot < 16)
  | .sessionBegin _ nonce _ => decide (nonce.length = 32)
  | .woanePacketReceive p => isRank p.srcRank && isRank p.dstRank && decide (p.port < 12)
  | .hello rank _ _ => isRank rank
  | .peerDownTimeout rank => isRank rank
  | .openFlow rank cls => isRank rank && isClass cls
  | .openOk rank cls _ => isRank rank && isClass cls
  | .data rank cls _ _ _ _ _ _ => isRank rank && isClass cls
  | .ack rank cls _ => isRank rank && isClass cls
  | .ackTimer rank cls => isRank rank && isClass cls
  | .bufferRelease rank cls _ => isRank rank && isClass cls
  | .retransmitTimer rank cls => isRank rank && isClass cls
  | .woaneRateTimer rank => isRank rank
  | .audit rank cls _ => isRank rank && isClass cls
  | .auditReply rank cls _ => isRank rank && isClass cls
  | .fabricPortLoss port => decide (port < 12)
  | .fabricPortReturn port => decide (port < 12)
  | .plotCommit plot rank _ _ _ => isRank rank && isPlot plot
  | .plotPrepare rank plot _ _ _ _ => isRank rank && isPlot plot
  | .plotDecision plot _ _ => isPlot plot
  | .plotSummary y => isRank y.rank && isPlot y.plot
  | .plotSearchMessage rank _ _ _ _ => isRank rank
  | .plotSearchReply rank _ _ => isRank rank
  | .coreHeartbeatTimeout core => decide (core < 32)
  | .hubHeartbeatTimeout hub => decide (hub < 16)
  | .hubTakeoverComplete hub => decide (hub < 16)
  | .hbmStackRetirement stack => decide (stack < 24)
  | .laserModuleFault module _ => decide (module < 4)
  | .laserModuleInsert module => decide (module < 4)
  | .regulatorFault module => decide (module < 16)
  | .revokeFuseBlow key => decide (key < 2)
  | .readinessChange bit => decide (bit < 68)
  | .configReadWord addr => decide (addr < 16777216)
  | .configProgramWord addr _ => decide (addr < 16777216)
  | .configEraseSector sector => decide (sector < 16384)
  | .configItemWrite item _ _ => decide (1 ≤ item ∧ item ≤ 3)
  | .counterIncrement counter => decide (counter < 5)
  | .ageingCeiling domain => decide (domain < 16)
  | .tetherLinkLoss hub => decide (hub < 16)
  | .hbmLinkLoss stack => decide (stack < 24)
  | .eraseComplete channel die blockSet => isChannel channel && isDie die && isBlockSet blockSet
  | .plotVote rank plot _ _ _ => isRank rank && isPlot plot
  | .plotPrepareTimeout plot => isPlot plot
  | .commitConfirm rank _ _ _ => isRank rank
  | .nop _ | .createQueue _ _ | .destroyQueue _ | .attachQueue _ | .queryQueue _ _ | .answer _ => true
  | .answerBlockRead _ _ _ | .batchClose _ | .embedComplete _ | .probeComplete _ | .mergeComplete _ | .exactComplete _ _ => true
  | .fetchComplete _ _ | .rerankComplete _ | .packComplete _ | .prefillLayerComplete _ _ | .handoffWriteAcked _ | .decodeStep _ => true
  | .resultWrite _ | .cheaperPath _ _ | .deadlineExpiry _ | .createIndex _ _ _ _ | .deleteIndex _ | .openSegment _ => true
  | .appendRecords _ _ | .sealSegment _ | .commitIndex _ _ | .compactIndex _ _ _ | .pinVersion _ | .unpinVersion _ => true
  | .versionRetire _ _ | .loadImage _ _ | .unloadImage _ | .bindModel _ | .unbindModel _ | .loadFilter _ _ => true
  | .unloadFilter _ | .gatherAddressFault _ _ | .pickCheckComplete _ _ | .widerRunComplete _ | .createTable _ _ | .deleteTable _ => true
  | .tableLookup _ _ _ | .subLookupReply _ _ | .lookupResultWrite _ _ | .updateRows _ _ | .migrateBlock _ | .loadTableRows _ _ _ => true
  | .publishTable _ | .checkpointTable _ _ _ | .createLog _ | .appendLog _ _ _ | .trimLog _ | .deleteLog _ => true
  | .createGraft _ _ _ | .runGraft _ | .runGraftRestore _ | .stopGraft _ | .deleteGraft _ | .queryGraft _ _ => true
  | .createObject _ | .deleteObject _ | .writeExtent _ _ | .readExtent _ | .trimExtent _ | .readLadderStep _ _ _ => true
  | .parityRebuild _ _ _ | .shutdown _ _ | .moveObject _ | .moveFlip _ | .moveAbandon _ _ | .pinRelease _ _ => true
  | .extentFetchComplete _ _ _ | .queryHome _ _ | .setPools _ | .createContext _ | .destroyContext _ | .runEntry _ _ => true
  | .queryContext _ _ | .queryClient _ _ | .enrolClient _ | .completionWrite _ | .frontWriteIgnored _ _ | .rdmaSendReceive _ => true
  | .connectionRequest _ _ _ _ | .rtuTimeout _ | .rcAckTimeout _ | .connectionError _ _ | .connectionRelease _ | .setHostport _ _ _ => true
  | .cnpReceive _ | .rateIncreaseTimer _ | .sessionProve _ _ _ | .closeSession _ | .readErrors _ _ | .readErrorsHistory _ _ => true
  | .attest _ _ | .grant _ | .revoke _ | .enrolKey _ _ _ | .flashPolicy _ | .resetSled _ => true
  | .updateFirmware _ _ _ | .updateFirmwareRecovery _ _ _ | .retireGranule _ | .retireBank _ | .retireSramPage _ | .setRake _ => true
  | .setPlot _ _ _ | .exchangeTimeout _ | .memoryRead _ _ _ _ _ | .rakeRead _ _ _ | .rakeLapEnd _ _ | .fill _ _ _ _ => true
  | .checkerSelfTest _ _ _ | .errorLogEvent _ | .handoffEffect _ _ _ | .firmwareImageCheck _ | .inputSample _ | .resetLAssert _ => true
  | .presentLChange _ _ | .sensorRead _ | .demandLiftTimer _ | .ageingMonitor _ | .clockWake _ | .rtuReceive _ => true
  | .pickBoundary | .columnTakeoverComplete | .mapCheckpointComplete | .sysregionJournal | .mapReplay _ | .automaticEviction => true
  | .swapOut | .hostportModeTimer | .announceTimer | .helloTimer | .coreTakeoverComplete | .start => true
  | .rollbackFuseBlow | .poweredHoursTimer | .eraseFlagRepair | .excursionEnd | .sagWarn | .sagFlushEnd => true
  | .inputResetThreshold | .overVoltageTrip | .startCondition | .pwrEnAssert | .pwrEnDeassert | .pwrgdAssert => true
  | .resetLRelease | .holdupBankCharged | .thermalTrip | .thermtripRelease | .stepChange | .stepLowerTimer => true
  | .housekeepingPowerOn | .recoveryReset | .pfcPauseExpiry => true

end Sys2Proof
end

