-- ==== Sys2Proof/Tests/Slice0.lean ====
section
/-! SUPPORT. Tests.  `smoke_…`: an ill-formed command that each check of well-formedness refuses, and a good one.  `test_…`: worked
examples and check values of the specification.  `wit_<part>_<n>`: concrete states and operands that meet the hypotheses of a case of that
part of the statements of Certificates/Slice0/Obligations.lean, all of them together. -/


namespace Sys2Proof.Tests

open Sys2Proof Sys2Proof.Machine

set_option Elab.async false

/-- An open connection. -/
def c0 : W32 := mkHandle 1 kindConn 0
/-- Another open connection. -/
def c1 : W32 := mkHandle 1 kindConn 1
/-- A connection in error. -/
def c2 : W32 := mkHandle 1 kindConn 2
/-- Submission 7 of queue pair 3. -/
def sub7 (e : Entry) : Sub := { sid := 7, origin := .queue 3, conn := c0, client := 0, entry := e }
/-- Submission 7 of mailbox slot 2. -/
def box7 (e : Entry) : Sub := { sid := 7, origin := .mailbox 2 9, conn := c0, client := 0, entry := e }
/-- A sled with its firmware running, every readiness bit set, three connections and two queue pairs. -/
def up : State :=
  { State.reset with
    boot := { State.reset.boot with phase := .firmware, ready := BitVec.allOnes 128 }
    hp := { State.reset.hp with conns := [{ index := 0, gen := 1, state := .opened }, { index := 1, gen := 1, state := .opened },
                                          { index := 2, gen := 1, state := .error }] }
    queues := [{ index := 3, gen := 1, state := .active, conn := c0, log2Depth := 4, cqAddr := 4096, cqRkey := 9 },
               { index := 4, gen := 2, state := .active, conn := c1, client := 5, log2Depth := 4, cqAddr := 8192, cqRkey := 8 }]
    sasel := { State.reset.sasel with
      clients := [{ index := 0 }, { index := 5, limit := 2, current := 1, admitted := 1 }]
      eventSeq := 20
      subs := [{ sid := 5, origin := .queue 4, conn := c1, client := 5, entry := { opcode := 0x02 } }] } }
/-- A state with submission 7 waiting. -/
def wait (e : Entry) (s : State) : State := { s with sasel := { s.sasel with subs := s.sasel.subs ++ [sub7 e] } }
/-- The same in a mailbox slot. -/
def waitBox (e : Entry) (s : State) : State := { s with sasel := { s.sasel with subs := s.sasel.subs ++ [box7 e] } }
/-- A state with one more submission waiting. -/
def waitSub (u : Sub) (s : State) : State := { s with sasel := { s.sasel with subs := s.sasel.subs ++ [u] } }
/-- Submission 7 as a handle of the first object of its kind names it. -/
def h (kind i : Nat) : W32 := mkHandle 1 kind i

/-! ### The checks of well-formedness -/

theorem smoke_channel : Instr.ok (.sievePassEnd 128 []) = false ∧ Instr.ok (.sievePassEnd 127 []) = true := by decide
theorem smoke_die : Instr.ok (.wearLevel 0 24 0) = false ∧ Instr.ok (.wearLevel 0 23 0) = true := by decide
theorem smoke_block_set : Instr.ok (.wearLevel 0 0 1200) = false ∧ Instr.ok (.wearLevel 0 0 1199) = true := by decide
theorem smoke_location : Instr.ok (.programFail 0 1 { die := 0, blockSet := 1200, page := 0, pslc := false }) = false
    ∧ Instr.ok (.programFail 0 1 { die := 24, blockSet := 0, page := 0, pslc := false }) = false := by decide
theorem smoke_group : Instr.ok (.openBlockParityWrite 0 4 1 { die := 0, blockSet := 0, page := 0, pslc := false }) = false := by decide
theorem smoke_port : Instr.ok (.pcsAligned 13) = false ∧ Instr.ok (.pcsAligned 12) = true := by decide
theorem smoke_slot : Instr.ok (.trainingTimeout 0 8) = false ∧ Instr.ok (.trainingTimeout 0 7) = true := by decide
theorem smoke_lane : Instr.ok (.laneFault 0 8) = false ∧ Instr.ok (.laneSwap 0 false 4 0) = false := by decide
theorem smoke_knot : Instr.ok (.knotReset 32768) = false ∧ Instr.ok (.knotReset 32767) = true := by decide
theorem smoke_doorbell : Instr.ok (.doorbell 0 0xFFFFF []) = false ∧ Instr.ok (.doorbell 0 0x300000 []) = false ∧ Instr.ok (.doorbell 0 0x100000 []) = true := by
  decide
theorem smoke_rank : Instr.ok (.peerDownTimeout 1024) = false ∧ Instr.ok (.peerDownTimeout 1023) = true := by decide
theorem smoke_class : Instr.ok (.openFlow 0 4) = false ∧ Instr.ok (.openFlow 0 3) = true := by decide
theorem smoke_plot : Instr.ok (.plotPrepareTimeout 64) = false ∧ Instr.ok (.plotPrepareTimeout 63) = true := by decide
theorem smoke_table : Instr.ok (.tableRestore 256) = false ∧ Instr.ok (.tableRestore 255) = true := by decide
theorem smoke_job : Instr.ok (.graftBarrier 8) = false ∧ Instr.ok (.graftBarrier 7) = true := by decide
theorem smoke_context : Instr.ok (.yieldPoint 4096) = false ∧ Instr.ok (.yieldPoint 4095) = true := by decide
theorem smoke_queue : Instr.ok (.submissionFetch 262144) = false ∧ Instr.ok (.quarantineExit 262143) = true := by decide
theorem smoke_priority : Instr.ok (.pfcFrame 8 true) = false ∧ Instr.ok (.pfcFrame 7 true) = true := by decide
theorem smoke_mailbox : Instr.ok (.mailboxControl 0 16 0) = false ∧ Instr.ok (.mailboxControl 0 15 0) = true := by decide
theorem smoke_nonce : Instr.ok (.sessionBegin 0 [1] true) = false ∧ Instr.ok (.sessionBegin 0 (List.replicate 32 1) true) = true := by decide
theorem smoke_datagram : Instr.ok (.discoveryDatagram 0 [1, 2, 3]) = false ∧ Instr.ok (.discoveryDatagram 0 [1, 2, 3, 4]) = true := by decide
theorem smoke_fabric_port : Instr.ok (.fabricPortLoss 12) = false ∧ Instr.ok (.fabricPortLoss 11) = true := by decide
theorem smoke_core : Instr.ok (.coreHeartbeatTimeout 32) = false ∧ Instr.ok (.coreHeartbeatTimeout 31) = true := by decide
theorem smoke_hub : Instr.ok (.tetherLinkLoss 16) = false ∧ Instr.ok (.tetherLinkLoss 15) = true := by decide
theorem smoke_stack : Instr.ok (.hbmLinkLoss 24) = false ∧ Instr.ok (.hbmLinkLoss 23) = true := by decide
theorem smoke_laser : Instr.ok (.laserModuleInsert 4) = false ∧ Instr.ok (.laserModuleInsert 3) = true := by decide
theorem smoke_regulator : Instr.ok (.regulatorFault 16) = false ∧ Instr.ok (.regulatorFault 15) = true := by decide
theorem smoke_revoke : Instr.ok (.revokeFuseBlow 2) = false ∧ Instr.ok (.revokeFuseBlow 1) = true := by decide
theorem smoke_readiness : Instr.ok (.readinessChange 68) = false ∧ Instr.ok (.readinessChange 67) = true := by decide
theorem smoke_config : Instr.ok (.configReadWord 16777216) = false ∧ Instr.ok (.configEraseSector 16384) = false ∧ Instr.ok (.configEraseSector 16383) = true := by
  decide
theorem smoke_counter : Instr.ok (.counterIncrement 5) = false ∧ Instr.ok (.counterIncrement 4) = true := by decide
theorem smoke_domain : Instr.ok (.ageingCeiling 16) = false ∧ Instr.ok (.ageingCeiling 15) = true := by decide

/-! ### Worked examples and check values of the specification -/

/-- No word spells a command: the table gives no row bits. -/
theorem test_no_word : decodeTableWord 8 1 = none := rfl
/-- The check value that R317 gives over the ASCII string "123456789". -/
theorem test_crc16 : crc16 [0x31, 0x32, 0x33, 0x34, 0x35, 0x36, 0x37, 0x38, 0x39] = 0x29B1 := by decide +kernel
/-- The worked doorbell of 00_scope.md: queue index 6,699, generation 3, new tail 64. -/
theorem test_doorbell : judgeDoorbell { index := 6699, gen := 3, state := .active, conn := 9, log2Depth := 6 } 9 6699 0x03068AC000000040 = .taken := by decide +kernel
/-- Its bytes, at FRONT offset 0x0010_D158, move that pair's tail. -/
theorem test_doorbell_place :
    let s := { up with queues := [{ index := 6699, gen := 3, state := .active, conn := c0, log2Depth := 6 }] }
    (s.doorbellWrite c0 0x10D158 [0x40, 0, 0, 0, 0xC0, 0x8A, 0x06, 0x03]).queues.map (·.tail) = [64] := by decide +kernel
/-- The worked table of chapter 8: 10⁹ rows of 128 INT8 elements. -/
theorem test_table_geometry :
    let d : TableDesc := { fmt := 0x0, dim := 128, rows := 1000000000, shards := 8 }
    d.rowBytes = 136 ∧ d.perBlock = 481 ∧ d.blocks = 2079003 := by decide +kernel
/-- With no command waiting the block idles: only the clock goes on (log 13). -/
theorem test_idle : step State.reset = .next State.reset.tick := rfl

/-! ### Steps, submissions, completions and queue pairs -/

theorem wit_StepRunsFront_1 :
    ({ up with pending := [.nop 1, .nop 2] } : State).pending = .nop 1 :: [.nop 2] := by decide +kernel
theorem wit_StepRunsFront_2 :
    up.pending = [] := by decide +kernel
theorem wit_OutcomeSetOnce_1 :
    (wait {} up).sub? 7 = some (sub7 {}) ∧ (sub7 {}).due = none := by decide +kernel
theorem wit_OutcomeSetOnce_2 :
    (waitSub { sub7 {} with due := some {} } up).sub? 7 = some { sub7 {} with due := some {} } := by decide +kernel
theorem wit_CompletionGate_1 :
    (waitSub { sub7 {} with due := some {}, finished := true } up).sub? 7 = some { sub7 {} with due := some {}, finished := true } := by decide +kernel
theorem wit_CompletionGate_2 :
    (wait {} up).sub? 7 = some (sub7 {}) ∧ (sub7 {}).finished = false ∧ (sub7 {}).due = none := by decide +kernel
theorem wit_CompletionGate_3 :
    (waitSub { sub7 {} with due := some {} } up).sub? 7 = some { sub7 {} with due := some {} }
    ∧ ({ sub7 {} with due := some {} } : Sub).finished = false := by decide +kernel
theorem wit_CompletionPlace_1 :
    up.connOpen (up.queue 3).conn = true := by decide +kernel
theorem wit_CompletionPlace_2 :
    (up.setQueue { up.queue 3 with conn := c2 }).connOpen ((up.setQueue { up.queue 3 with conn := c2 }).queue 3).conn = false := by decide +kernel
theorem wit_CompletionPlace_3 :
    (let s := waitSub { box7 {} with due := some {} } up; s.sub? 7 = some { box7 {} with due := some {} } ∧ s.sasel.slots[2]? = some ({} : Mailbox)) := by decide +kernel
theorem wit_FirstStatusEnds_1 :
    (let u := { sub7 {} with preset := [.notReady, .denied] }; Waits (waitSub u up) 7 0 u ∧ u.preset ≠ []) := by decide +kernel
theorem wit_FirstStatusEnds_2 :
    (let u := { sub7 {opcode := 2, handleA := mkQueueHandle 1 3} with preset := [.notReady] }; Waits (waitSub u up) 7 2 u ∧ u.preset ≠ []) := by decide +kernel
theorem wit_FirstStatusEnds_3 :
    (let u := { sub7 {opcode := 3, handleA := mkQueueHandle 1 3} with preset := [] }; Waits (waitSub u up) 7 3 u
    ∧ u.preset ++ (waitSub u up).attachErrs u.entry ≠ []) := by decide +kernel
theorem wit_FirstStatusEnds_4 :
    (let u := { sub7 {opcode := 0xE7} with preset := [.denied] }; Waits (waitSub u up) 7 0xE7 u ∧ u.preset ≠ [] ∧ (waitSub u up).boot.update = none) := by decide +kernel
theorem wit_UnnamedSubmission_1 :
    ∀ u ∈ up.sasel.subs, u.sid = 9 → u.entry.opcode.toNat ≠ 0 := by decide +kernel
theorem wit_NopCompletes_1 :
    Begins (wait {} up) 7 0 (sub7 {}) := by decide +kernel
theorem wit_CreateQueue_1 :
    let u := sub7 { opcode := 1, length := 64 }
    let b : Buf := List.replicate 44 0 ++ leBytes 4 (32 * 5 + 16) ++ leBytes 4 c1.toNat ++ leBytes 4 77 ++ leBytes 8 64
    let s := wait u.entry up
    let d := parseQueueDesc b
    Begins s 7 1 u ∧ u.readB (some b) = some b ∧ d.rsv = false ∧ d.cqAddr.toNat % 32 = 0 ∧ d.log2Depth = 16 ∧ (s.client? d.client).isSome = true
    ∧ s.connOpen d.conn = true ∧ s.isReady bitQmgr = true ∧ s.ringEntries + 2 ^ d.log2Depth ≤ 67108864 ∧ s.freeQueue = some 0 := by decide +kernel
theorem wit_DestroyQueueDrains_1 :
    (let u := sub7 { opcode := 2, handleA := mkQueueHandle 1 3 }; let s := waitSub u (up.setQueue { up.queue 3 with state := .draining, destroyer := some 7 }); Begins s 7 2 u
    ∧ (s.queue 3).destroyer = some 7 ∧ s.connOpen (s.queue 3).conn = true ∧ s.drained 3 7 = true) := by decide +kernel
theorem wit_DestroyQueueDrains_2 :
    (let u := sub7 { opcode := 2, handleA := mkQueueHandle 1 3 }; let s := waitSub { sub7 {} with sid := 8 } (waitSub u (up.setQueue { up.queue 3 with state := .draining, destroyer := some 7 })); Begins s 7 2 u
    ∧ (s.queue 3).destroyer = some 7 ∧ s.connOpen (s.queue 3).conn = true ∧ s.drained 3 7 = false) := by decide +kernel
theorem wit_DestroyQueueAccepted_1 :
    (let u := sub7 { opcode := 2, handleA := mkQueueHandle 1 3 }; let s := wait u.entry (up.setQueue { up.queue 3 with fetched := 2, tail := 5 }); s.activeQueue? u.entry.handleA = some (s.queue 3)
    ∧ s.sub? 7 = some u) := by decide +kernel
theorem wit_QuarantineExit_1 :
    (let s := up.setQueue { up.queue 3 with state := .quarantine, flushed := true, stale := 4 }; (s.queue 3).state = .quarantine
    ∧ (s.queue 3).flushed = true) := by decide +kernel
theorem wit_QuarantineExit_2 :
    (up.queue 3).state ≠ .quarantine := by decide +kernel
theorem wit_AttachQueue_1 :
    (let u := sub7 { opcode := 3, handleA := mkQueueHandle 1 3, handleB := c0 }; let q : Queue := { up.queue 3 with conn := c2, completions := 2, held := [mkCompletion {} 1 5, mkCompletion {} 2 6] }; let s := wait u.entry (up.setQueue q); Begins s 7 3 u
    ∧ s.activeQueue? u.entry.handleA = some q ∧ s.connOpen q.conn = false ∧ s.connOpen u.entry.handleB = true
    ∧ (∀ p ∈ s.queues, p.state ≠ .free → p.conn = u.entry.handleB → p.client = q.client)) := by decide +kernel
theorem wit_Doorbell_1 :
    up.connOpen c0 = true := by decide +kernel
theorem wit_Doorbell_2 :
    (let d : W64 := BitVec.ofNat 64 (2 * 2 ^ 56 + 3 * 2 ^ 38 + 5); up.connOpen c0 = true ∧ (leBytes 8 d.toNat).length = 8
    ∧ d.toNat / 2 ^ 56 ≠ (up.queue 3).gen) := by decide +kernel
theorem wit_Doorbell_3 :
    (17 - (up.queue 3).fetched : W32).toNat > 2 ^ (up.queue 3).log2Depth := by decide +kernel
theorem wit_Doorbell_4 :
    (16 - (up.queue 3).fetched : W32).toNat ≤ 2 ^ (up.queue 3).log2Depth := by decide +kernel
theorem wit_Fetch_1 :
    (let s := up.setQueue { up.queue 3 with tail := 2, ring := [(0, [0, 0, 0, 1])] }; s.accepts = true ∧ s.isReady bitQmgr = true
    ∧ (Entry.parse ((assocGet 0 (s.queue 3).ring).getD [])).gen.toNat = 1 ∧ (s.queue 3).fetched ≠ (s.queue 3).tail) := by decide +kernel
theorem wit_Fetch_2 :
    (let s := up.setQueue { up.queue 3 with tail := 2, ring := [(0, [0, 0, 0, 4])] }; (Entry.parse ((assocGet 0 (s.queue 3).ring).getD [])).gen.toNat ≠ 1) := by decide +kernel
theorem wit_Fetch_3 :
    (up.queue 3).fetched = (up.queue 3).tail := by decide +kernel
theorem wit_Accept_1 :
    classOf 0x70 = some .query ∧ up.atLimit 0 = false := by decide +kernel
theorem wit_Accept_2 :
    (let s := { up with sasel := { up.sasel with clients := [{ index := 0, limit := 1, current := 1, admitted := 1 }] } }; s.atLimit 0 = true) := by decide +kernel
theorem wit_Enrol_1 :
    (let u := sub7 { opcode := 0xE0, arg0 := 5, arg1 := 1048576 }; Begins (wait u.entry up) 7 0xE0 u ∧ ((wait u.entry up).client? 5).isSome = true) := by decide +kernel
theorem wit_Enrol_2 :
    (let u := sub7 { opcode := 0xE0, arg0 := 6, arg1 := 1 }; Begins (wait u.entry up) 7 0xE0 u ∧ (wait u.entry up).client? 6 = none) := by decide +kernel
theorem wit_Enrol_3 :
    (let u := sub7 { opcode := 0xE0, arg0 := 6, arg1 := 0 }; let s := { wait u.entry up with sasel := { (wait u.entry up).sasel with clients := [{ index := 0 }, { index := 6 }] } }; Begins s 7 0xE0 u
    ∧ s.clientHasQueue 6 = false) := by decide +kernel
theorem wit_Enrol_4 :
    let u := sub7 { opcode := 0xE0, arg0 := 5, arg1 := 0 }
    let s := wait u.entry up
    Begins s 7 0xE0 u ∧ s.clientHasQueue 5 = true := by decide +kernel
theorem wit_Enrol_5 :
    let u := sub7 { opcode := 0xE0, arg0 := 0, arg1 := 0 }
    let s := wait u.entry up
    let v := sub7 { opcode := 0xE0, arg0 := 5, arg1 := 1048577 }
    Begins s 7 0xE0 u ∧ Begins (wait v.entry up) 7 0xE0 v := by decide +kernel

/-! ### Mailboxes, sessions, knots and the host port -/

/-- The word of a mailbox CONTROL write with a SEQ. -/
def ctlWord (seq : Nat) : W64 := BitVec.ofNat 64 (0x474F474F + 2 ^ 32 * seq)
/-- Mailbox slot 2 changed. -/
def withSlot (x : Mailbox) : State := { up with sasel := { up.sasel with slots := modAt up.sasel.slots 2 fun _ => x } }
theorem wit_MailboxControl_1 :
    (withSlot { state := .accepted }).sasel.slots[2]? = some { state := .accepted }
    ∧ (withSlot { seq := 3, state := .done }).sasel.slots[2]? = some { seq := 3, state := .done } ∧ up.connOpen c0 = true ∧ up.accepts = true
    ∧ up.isReady bitMailbox = true := by decide +kernel
theorem wit_MailboxControl_2 :
    (withSlot { seq := 3 }).sasel.slots[2]? = some { seq := 3 } := by decide +kernel
theorem wit_MailboxControl_3 :
    let x : Mailbox := { entry := [0x10, 0, 0, 0], seq := 3 }
    (withSlot x).mailboxAllows (Entry.parse x.entry).opcode.toNat = false := by decide +kernel
theorem wit_MailboxControl_4 :
    let x : Mailbox := { entry := [0xF0, 0, 0, 0], seq := 3, data := [9] }
    (withSlot x).mailboxAllows (Entry.parse x.entry).opcode.toNat = true := by decide +kernel
theorem wit_SessionBegin_1 :
    let u := box7 { opcode := 0xF0, length := 32, arg0 := 1, addr := 0x80 }
    let s := waitSub u up
    Begins s 7 0xF0 u ∧ 32 ≤ u.entry.length.toNat ∧ Reaches u 32 true := by decide +kernel
theorem wit_CloseSession_1 :
    let u := box7 { opcode := 0xF2, handleA := h kindSession 2 }
    let s0 := waitSub u up
    let x : Session := { index := 2, gen := 1, conn := c1, keySlot := 0 }
    let y : Session := { index := 1, gen := 1, conn := c0, keySlot := 0 }
    let s : State := { s0 with sasel := { s0.sasel with sessions := [y, x] } }
    Begins s 7 0xF2 u ∧ s.session? u.entry.handleA = some x ∧ ∀ y ∈ s.sasel.sessions, names u.entry.handleA kindSession y.gen y.index = true → y = x := by decide +kernel
theorem wit_Grant_1 :
    let u := sub7 { opcode := 0xE1, handleA := h kindIndex 2, arg0 := 5, arg1 := 1 }
    let s := wait u.entry up
    Begins s 7 0xE1 u := by decide +kernel
theorem wit_Grant_2 :
    let u := sub7 { opcode := 0xE1, handleA := h kindIndex 2, arg0 := 5, arg1 := 0 }
    let s0 := wait u.entry up
    let s : State := { s0 with sasel := { s0.sasel with grants := [(h kindIndex 2, 5), (h kindIndex 2, 6)] } }
    Begins s 7 0xE1 u := by decide +kernel
theorem wit_SetHostport_1 :
    let u := sub7 { opcode := 0xE3, length := 32 }
    let s := wait u.entry up
    let buf : Buf := [0x08, 4, 10, 48] ++ List.replicate 28 0
    Begins s 7 0xE3 u ∧ s.boot.update = none ∧ u.readB (some buf) = some buf ∧ hpOk buf = true := by decide +kernel
theorem wit_FlashPolicy_1 :
    let u := sub7 { opcode := 0xE6, arg0 := BitVec.ofNat 64 (1000 + 65536 * 30) }
    let s := wait u.entry up
    Begins s 7 0xE6 u := by decide +kernel
theorem wit_FlashPolicy_2 :
    let u := sub7 { opcode := 0xE6, arg0 := BitVec.ofNat 64 (49 + 65536 * 30) }
    let s := wait u.entry up
    Begins s 7 0xE6 u := by decide +kernel
theorem wit_ResetSled_1 :
    let u := sub7 { opcode := 0xE7 }
    let s := wait u.entry up
    let s2 : State := { s with boot := { s.boot with update := some { sid := 3, recovery := false } } }
    Begins s 7 0xE7 u ∧ s.boot.update = none ∧ Begins s2 7 0xE7 u ∧ s2.boot.update ≠ none := by decide +kernel
theorem wit_RateRules_1 :
    (up.conn? c0).isSome = true := by decide +kernel
theorem wit_PfcRules_1 :
    up.hp.settings.pfcOn = true ∧ up.hp.settings.pfcPrio = 3 ∧ 4 ≠ up.hp.settings.pfcPrio := by decide +kernel
theorem wit_PfcRules_2 :
    let q : State := { up with hp := { up.hp with paused := true, settings := { up.hp.settings with vidValid := true, vid := 5 } }, txHeld := [.wire .ack 1 []] }
    let w : Out := .wire .cnp 2 []
    let n : State := { up with hp := { up.hp with settings := { up.hp.settings with pfcOn := false } } }
    w.roce = true ∧ q.hp.settings.pfcOn = true ∧ q.hp.paused = true ∧ 3 = q.hp.settings.pfcPrio ∧ n.hp.settings.pfcOn = false := by decide +kernel
theorem wit_ReceiveBuffer_1 :
    let f : State := { up with hp := { up.hp with xoffSent := true } }
    up.hp.settings.pfcOn = true ∧ up.hp.xoffSent = false ∧ f.hp.xoffSent = true := by decide +kernel
theorem wit_Announce_1 :
    let n : State := { up with boot := { up.boot with ready := 0 } }
    up.isReady bitHostport = true ∧ n.isReady bitHostport = false := by decide +kernel
theorem wit_Discovery_1 :
    let s : State := { up with pclk := 4250000, hp := { up.hp with answered := [(5, 0)] } }
    let s2 : State := { up with pclk := 4249999, hp := { up.hp with answered := [(5, 0)] } }
    s.isReady bitHostport = true ∧ Buf.slice [0x5E, 0x11, 0xB0, 0x5A] 0 4 = [0x5E, 0x11, 0xB0, 0x5A] ∧ 4250000 ≤ s.elapsed 0
    ∧ assocGet (5 : W128) s2.hp.answered = some 0 ∧ s2.elapsed 0 < 4250000 := by decide +kernel
theorem wit_Connection_1 :
    up.isReady bitFront = true ∧ lowestFree (up.hp.conns.map (·.index)) 4096 = some 3 := by decide +kernel
theorem wit_Connection_2 :
    let n : State := { up with boot := { up.boot with ready := 0 } }
    n.isReady bitFront = false ∧ 16 < 17 := by decide +kernel
theorem wit_Connection_3 :
    let s : State := up.modConn c0 fun c => { c with state := .repSent }
    (s.conn? c0).map (·.state) = some ConnState.repSent := by decide +kernel
theorem wit_AckTimeout_1 :
    let s : State := up.modConn c0 fun c => { c with sendPsn := 4, retries := 6 }
    let s2 : State := up.modConn c0 fun c => { c with sendPsn := 4, retries := 7 }
    (s.conn? c0).map (fun c => (c.state, decide (c.sendPsn ≠ c.ackedPsn), decide (c.retries < 7))) = some (ConnState.opened, true, true)
    ∧ (s2.conn? c0).map (fun c => decide (7 ≤ c.retries)) = some true := by decide +kernel
theorem wit_ConnError_1 :
    let s : State := { (wait {} (waitSub { sub7 {} with sid := 8, origin := .queue 4 } up)) with sasel := { (wait {} (waitSub { sub7 {} with sid := 8, origin := .queue 4 } up)).sasel with sessions := [{ index := 0, gen := 1, conn := c0, keySlot := 0 }, { index := 1, gen := 1, conn := c1, keySlot := 0 }] } }
    (s.conn? c0).map (·.state) = some ConnState.opened := by decide +kernel
theorem wit_ConnRelease_1 :
    let s : State := up.setQueue { index := 9, state := .quarantine, conn := c2 }
    (s.conn? c2).map (·.state) = some ConnState.error
    ∧ ∀ y ∈ s.hp.conns, names c2 kindConn y.gen y.index = true → y = { index := 2, gen := 1, state := .error } := by decide +kernel
theorem wit_SendFlushes_1 :
    let s : State := up.setQueue { index := 9, state := .quarantine, conn := c0 }
    s.connOpen c0 = true := by decide +kernel
theorem wit_Frames_1 :
    let s : State := { up with hp := { up.hp with settings := { up.hp.settings with pfcOn := false } } }
    let f : Frame := { fcsOk := false, length := 10000, conn := c0, bufferFree := 5000 }
    let s1 : State := { s with hp := { s.hp with rxFree := f.bufferFree } }
    f.port = 0 ∧ f.ce = false ∧ s.hp.settings.pfcOn = false ∧ s1.rxFails f = some 0 := by decide +kernel
theorem wit_Frames_2 :
    let s : State := { up with hp := { up.hp with settings := { up.hp.settings with pfcOn := false } } }
    let f : Frame := { conn := c0, bufferFree := 5000, opcodeOk := false }
    let s1 : State := { s with hp := { s.hp with rxFree := f.bufferFree } }
    s1.rxFails f = some 10 := by decide +kernel
theorem wit_Frames_3 :
    let s : State := { up with hp := { up.hp with settings := { up.hp.settings with pfcOn := false } } }
    let f : Frame := { conn := c0, bufferFree := 5000, payload := .rcAck 0 }
    let s1 : State := { s with hp := { s.hp with rxFree := f.bufferFree } }
    s1.rxFails f = none := by decide +kernel
theorem wit_Reserved_1 :
    (0x2000 ≤ 0xFFFF ∧ 0xFFFF < 0x10000) ∧ (0x20000 ≤ 0x3FFFFF ∧ 0x3FFFFF < 0x400000) ∧ 0x410000 ≤ 0x410000 := by decide +kernel
/-- SESSION_PROVE in mailbox slot 2. -/
def prove7 : Sub := box7 { opcode := 0xF1, length := 2420, arg0 := 0, rkey := 5 }
/-- A nonce of key slot 0. -/
def nonce0 : Nonce := { bytes := [], keySlot := 0, since := 0 }
/-- Its signature. -/
def sig0 : Buf := List.replicate 2420 1
/-- A sled on which it waits, on a connection with a nonce of that key slot. -/
def proving : State := (waitSub prove7 up).modConn c0 fun c => { c with nonce := some nonce0 }
theorem wit_SessionProve_1 : Begins proving 7 0xF1 prove7 ∧ (proving.conn? prove7.conn).map (·.nonce) = some (some nonce0) ∧ proving.elapsed nonce0.since ≤ 4250000000
    ∧ proving.sasel.keys[4]? ≠ some [] ∧ proving.sasel.sessions.length < 8 ∧ lowestFree (proving.sasel.sessions.map (·.index)) 4096 = some 0 := by decide +kernel
theorem wit_SessionProve_1b : prove7.readB (some sig0) = some sig0 := by
  have h := slice_all sig0
  rw [sig0, List.length_replicate] at h
  exact congrArg some h
/-- ENROL_KEY of the owner key slot 1 as submission 7. -/
def enrol7 : Sub := sub7 { opcode := 0xE2, arg0 := 257, length := BitVec.ofNat 32 keyBytes }
/-- The key. -/
def key3 : Buf := List.replicate keyBytes 3
theorem wit_EnrolKey_1 : Begins (wait enrol7.entry up) 7 0xE2 enrol7 ∧ (wait enrol7.entry up).boot.update = none ∧ enrol7.entry.length.toNat = keyBytes
    ∧ ((modAt up.sasel.keys 5 fun _ => key3).drop 4).any (fun k => k != []) = true := by decide +kernel
theorem wit_EnrolKey_1b : enrol7.readB (some key3) = some key3 := by
  have h := slice_all key3
  rw [key3, List.length_replicate] at h
  exact congrArg some h

/-! ### Links, power, trust and failover -/

/-- SHA3-256 of no bytes, as FIPS 202 gives it. -/
def emptyDigest : Buf :=
  [0xa7, 0xff, 0xc6, 0xf8, 0xbf, 0x1e, 0xd7, 0x66, 0x51, 0xc1, 0x47, 0x56, 0xa0, 0x61, 0xd6, 0x62, 0xf5, 0x80, 0xff, 0x4d, 0xe4, 0x3b, 0x49, 0xfa,
    0x82, 0xd8, 0x0a, 0x4b, 0x80, 0xf8, 0x43, 0x4a]
/-- The first 128 bytes of an image without code, of SVN 3. -/
def imageHead : Buf := leBytes 4 0x4D524946 ++ [0,1,0,0, 7,0,0,0, 0, 3, 0, 0] ++ List.replicate 16 0 ++ emptyDigest ++ List.replicate 64 0
/-- Lane slot 2 of the host port changed. -/
def withLane (n slot : Nat) (l : Lane) (s : State) : State := s.modLane n slot fun _ => l
/-- The sled in wide-lane mode with six trained slots, lanes 0 to 3 on slots 0 to 3. -/
def wide : State :=
  { up with hp := { up.hp with wide := true, port := { up.hp.port with up := true, lanes := (List.range 8).map fun i =>
      if i < 6 then { rxReady := true, partnerReady := true, logical := if i < 4 then some i else none } else ({} : Lane) } } }
/-- The sled with a running firmware of SVN 5 that asks for the revocation of key 1. -/
def svn5 : State := { up with boot := { up.boot with svn := 5, rollback := 4, revokeReq := 2 } }
/-- Power as in normal operation. -/
def powered : State :=
  { up with power := { up.power with housekeeping := true, bankCharged := true, pwrEn := true, resetL := false, startMet := true, startSeen := true, regulatorsOn := true, pwrgd := true, startedSince := true } }
theorem wit_TrainingFrameTaken_1 :
    up.lane? 0 2 = some {} ∧ ({} : Lane).lit = true ∧ ({} : Lane).logical = none ∧ wide.portWide 0 = true ∧ wide.lane? 0 7 = some {}
    ∧ parseTrain 1 = none := by decide +kernel
theorem wit_TrainingFrameTaken_2 :
    let w : TrainWord := { slot := 7, rxReady := true, precode := true, seq := 9 }
    wide.portWide 0 = true ∧ wide.lane? 0 7 = some {} ∧ parseTrain w.encode = some w ∧ w.swapOp ≠ 1 ∧ w.swapOp ≠ 2 := by decide +kernel
theorem wit_TrainingFrameTaken_3 :
    let w : TrainWord := { slot := 7, rxReady := true, precode := true, seq := 9, swapOp := 3, req := 1, tap := 2 }
    wide.portWide 0 = true ∧ wide.lane? 0 7 = some {} ∧ parseTrain w.encode = some w ∧ w.swapOp ≠ 1 ∧ w.swapOp ≠ 2 := by decide +kernel
theorem wit_TrainingTimeoutCounts_1 :
    up.lane? 0 7 = some {} ∧ ({} : Lane).rxReady = false ∧ (wide.lane? 0 0).map (·.rxReady) = some true := by decide +kernel
theorem wit_DataOnTrainedSlots_1 :
    let s : State := { wide with hp := { wide.hp with port := { wide.hp.port with up := false, lanes := wide.hp.port.lanes.map fun l => { l with logical := none, further := 64 } } } }
    let s2 : State := withLane 0 1 {} s
    s.portAt 0 = some s.hp.port ∧ s.hp.port.up = false ∧ s.hp.port.swaps = [] ∧ s.dataSlots 0 = some [0, 1, 2, 3] ∧ s2.dataSlots 0 = some [0, 2, 3, 4]
    ∧ s.portWide 0 = true ∧ ([0, 1, 2, 3].all fun i => (s.lane? 0 i).map (·.further) = some 64) = true := by decide +kernel
theorem wit_LaneFaultStopsPort_1 :
    wide.lane? 0 2 = some { rxReady := true, partnerReady := true, logical := some 2 }
    ∧ ((List.range 8).all fun i => decide ((wide.lane? 0 i).map (·.logical) = some (some 2)) == decide (i = 2)) = true ∧ wide.hp.wide = true
    ∧ ((wide.unitFail unitLane 2 5).stopLane 0 2 true).swapTarget 0 = some 4 := by decide +kernel
theorem wit_LaneFaultStopsPort_2 :
    let s : State := { wide with hp := { wide.hp with wide := false } }
    s.lane? 0 2 = some { rxReady := true, partnerReady := true, logical := some 2 }
    ∧ ((List.range 8).all fun i => decide ((s.lane? 0 i).map (·.logical) = some (some 2)) == decide (i = 2)) = true ∧ s.hp.wide = false := by decide +kernel
theorem wit_SwapGrantMovesLane_1 :
    let w : Swap := { logical := 2, slot := 4, sentRequest := true, sentGrant := false, received := false }
    let s : State := { (withLane 0 2 { faulty := true } wide) with hp := { (withLane 0 2 { faulty := true } wide).hp with port := { (withLane 0 2 { faulty := true } wide).hp.port with up := false, swaps := [w, { w with logical := 3, slot := 5 }] } } }
    s.portWide 0 = true ∧ s.portAt 0 = some s.hp.port ∧ s.hp.port.swaps.head? = some w ∧ (s.lane? 0 4).isSome = true := by decide +kernel
theorem wit_PortsComeAndGo_1 :
    wide.hp.port.mapped 4 = true ∧ wide.hp.wide = true ∧ wide.boot.phase = .firmware := by decide +kernel
theorem wit_PortsComeAndGo_2 :
    let x : Port := { lanes := (List.range 5).map fun i => { logical := if i < 4 then some i else none, rxReady := true, partnerReady := true } }
    let s : State := up.modFabric fun f => { f with ports := modAt f.ports 11 fun _ => x }
    let s2 : State := (up.modFabric fun f => { f with ports := modAt f.ports 11 fun _ => { x with up := true } })
    s.fabric.ports[11]? = some x ∧ x.mapped 4 = true ∧ x.up = false ∧ s.boot.phase = .firmware ∧ s2.fabric.ports[11]? = some { x with up := true }
    ∧ (s.fabric.ports[0]?).map (·.up) = some false := by decide +kernel
theorem wit_ModeAlternates_1 :
    up.hp.port.up = false ∧ wide.hp.port.up = true := by decide +kernel
theorem wit_StartSamples_1 :
    let s : State := { powered with boot := { powered.boot with phase := .off, cfgFlags := [5, 5000] }, power := { powered.power with slotPins := 9, startedSince := false } }
    s.power.pwrgd = true ∧ s.power.resetL = false ∧ s.power.startMet = true ∧ s.boot.phase = .off := by decide +kernel
theorem wit_ImageCheckDecides_2 :
    let s : State := { up with boot := { up.boot with phase := .bootRom } }
    s.boot.phase = .bootRom ∧ ¬ fwFormOk (parseFwHeader s.regionHead) (s.regionCode (parseFwHeader s.regionHead).codeLength) = true := by decide +kernel
theorem wit_FusesBlown_1 :
    let s2 : State := { svn5 with boot := { svn5.boot with rollback := 5 } }
    svn5.boot.phase = .firmware ∧ svn5.isReady bitMailbox = true ∧ svn5.boot.rollback < svn5.boot.svn ∧ s2.boot.svn ≤ s2.boot.rollback
    ∧ svn5.boot.revokeReq.getLsbD 1 = true ∧ svn5.boot.revokeReq.getLsbD 0 = false ∧ svn5.boot.revokeReq.getLsbD 2 = false := by decide +kernel
theorem wit_ReadinessFollowsConditions_1 :
    67 < 68 ∧ 67 ≠ bitIndex ∧ 67 ≠ bitTables ∧ 67 ≠ bitGraft := by decide +kernel
theorem wit_ConfigFlashOperations_1 :
    16777215 < 16777216 ∧ 16383 < 16384 := by decide +kernel
theorem wit_CountersCount_1 :
    up.boot.update = none ∧ (up.ctrNext 4).isSome = true ∧ up.counter 4 < 0xFFFFFFFF ∧ (up.ctrNext 3).isSome = true ∧ up.counter 3 < 0xFFFFFFFF := by decide +kernel
theorem wit_CountersCount_2 :
    let s : State := { up with boot := { up.boot with update := some { sid := 3, recovery := false } } }
    s.boot.update ≠ none ∧ 4 < 5 ∧ 4 ≠ ctrEpoch := by decide +kernel
theorem wit_ItemWrittenIsInForce_1 :
    let s : State := { up with boot := { up.boot with update := some { sid := 3, recovery := false } } }
    ([1, 2, 3] : Buf).length ≤ (itemCopies 3).2.2 * 4096 - 32 ∧ up.boot.update = none ∧ s.boot.update ≠ none := by decide +kernel
theorem wit_FlaggedSectorsErased_1 :
    let s : State := { up with boot := { up.boot with flagged := [4095, 4096], cfgFlags := [4095, 4096] } }
    s.boot.phase = .firmware := by decide +kernel
theorem wit_UpdateWritesImage_2 :
    let img : FwImage := { head := [1, 2], code := [], sig := [], sigOk := false }
    let u := sub7 { opcode := 0xE8, length := 6516 }
    let s0 : State := wait u.entry up
    let r0 : State := { s0 with boot := { s0.boot with phase := .recovery } }
    Begins s0 7 0xE8 u ∧ s0.updateErrs img u.entry.length.toNat ≠ [] ∧ s0.boot.phase = .firmware ∧ r0.boot.phase = .recovery ∧ Begins r0 7 0xE8 u
    ∧ r0.updateErrs img u.entry.length.toNat ≠ [] := by decide +kernel
theorem wit_ResetKeepsWhatPersists_1 :
    let s : State := { (wait {} up) with boot := { up.boot with recoveryDone := true } }
    s.boot.recoveryDone = true := by decide +kernel
theorem wit_AttestQuotes_1 :
    let u := sub7 { opcode := 0x72, length := 2612 }
    let s := wait u.entry up
    Begins s 7 0x72 u ∧ 2612 ≤ u.entry.length.toNat
    ∧ Reaches u (s.quoteBody u.entry.nonce ++ Buf.slice (Config.signature (s.quoteBody u.entry.nonce) s.free) 0 2420).length true := by decide +kernel
theorem wit_SlotSignals_1 :
    let s : State := { up with power := { up.power with housekeeping := true } }
    s.power.housekeeping = true ∧ up.power.housekeeping = false ∧ up.power.pwrEn = false ∧ powered.power.startMet = true
    ∧ powered.power.regulatorsOn = true ∧ up.power.startMet = false ∧ 9 < 10 ∧ powered.power.flush = none := by decide +kernel
theorem wit_StartConditionPowers_1 :
    powered.power.pwrEn = true ∧ powered.power.bankCharged = true ∧ powered.power.overTripped = false ∧ powered.power.tripLatched = false
    ∧ 10 ≤ popCount powered.power.regulators ∧ powered.power.offAfterFlush = false ∧ up.power.pwrEn = false := by decide +kernel
theorem wit_FlushStarts_1 :
    let s : State := { powered with hp := wide.hp }
    s.power.startedSince = true ∧ s.power.flush = none ∧ s.power.overTripped = false ∧ s.power.thermtrip = false ∧ s.power.pwrEn = true := by decide +kernel
theorem wit_FlushEndsInReset_1 :
    let s : State := { powered with power := { powered.power with flush := some .sagWarn } }
    let s2 : State := { powered with power := { powered.power with flush := some .thermal, offAfterFlush := true } }
    s.power.flush = some .sagWarn ∧ s2.power.flush = some .thermal ∧ s2.power.offAfterFlush = true ∧ s.power.offAfterFlush = false
    ∧ powered.power.flush = none ∧ s.power.startedSince = true := by decide +kernel
theorem wit_InputSampleExcursion_1 :
    powered.power.housekeeping = true ∧ powered.power.pwrEn = true ∧ powered.power.startSeen = true ∧ powered.power.excursion = false
    ∧ powered.boot.update = none ∧ powered.power.runSag ≠ 2 ∧ powered.power.overTripped = false ∧ powered.power.runStart < 9999 := by decide +kernel
theorem wit_StepFollowsDemands_1 :
    let s : State := { up with power := { up.power with demands := [.dieP2] } }
    let d : State := { up with power := { up.power with demands := [.flowP3, .dieP2], readings := { up.power.readings with flow := 330 } } }
    let d2 : State := { up with power := { up.power with readings := { up.power.readings with flow := 329 } } }
    s.power.step < 2 ∧ max (maxOf (s.power.demands.map Demand.step)) (max (capStep (popCount s.power.regulators)) s.power.ageingCeiling) = 2
    ∧ Demand.flowP3.lifts d.power.readings = true ∧ Demand.flowP3.lifts d2.power.readings = false := by decide +kernel
theorem wit_SensorsRaiseDemands_1 :
    let r : Readings := { die := [11500], inlet := 4501, flow := 500 }
    11500 ≤ hottest r.die ∧ up.power.pwrEn = false ∧ powered.power.pwrEn = true := by decide +kernel
theorem wit_AgeingAndClocks_1 :
    let s : State := { up with power := { up.power with domains := modAt up.power.domains 15 fun d => { d with marginMv := 0 }, stoppedClocks := [4, 9] } }
    (50 : Nat) ≠ 0 ∧ 3 < 4 ∧ (up.fail).lasersIn.getLsbD 3 = true ∧ s.power.domains[15]? = some { guardMv := 0, marginMv := 0 }
    ∧ s.power.ageingCeiling < 3 ∧ s.power.domains[14]? = some { guardMv := 0, marginMv := 100 } := by decide +kernel
theorem wit_CoreTakeover_1 :
    let f := up.fail
    let s : State := { up with fail := { f with coresSpare := 0, coresIn := BitVec.allOnes 32 } }
    let s3 : State := { up with fail := { f with coreTakeovers := [(2, 31), (3, 30)] } }
    (up.fail).coresIn.getLsbD 0 = true ∧ (up.fail).coresSpare.getLsbD 0 = false ∧ (∀ x ∈ (up.fail).coreTakeovers, x.2 ≠ 0 ∧ x.1 ≠ 0)
    ∧ (up.fail).spareCore.isSome = true ∧ (s.fail).coresIn.getLsbD 31 = true ∧ (s.fail).coresSpare = 0 ∧ (s.fail).coreTakeovers = []
    ∧ (s3.fail).coreTakeovers = (2, 31) :: [(3, 30)] := by decide +kernel
theorem wit_HandoffsOnce_1 :
    let f := up.fail
    let th : Thread := { index := 1023, core := 2 }
    let s : State := { up with fail := { f with threads := [th] } }
    let s2 : State := { up with fail := { f with threads := [th], coreTakeovers := [(2, 31)] } }
    let s3 : State := { up with fail := { f with threads := [th], effects := [(1023, .woane, 5)] } }
    1023 < 1024 ∧ (s.fail).threads.find? (fun t => t.index == 1023) = some th ∧ (s2.fail).coreTakeovers.any (fun t => t.1 == th.core) = true
    ∧ (s.fail).coreTakeovers.any (fun t => t.1 == th.core) = false
    ∧ (((s3.fail).effects.find? fun e => e.1 == 1023 && decide (e.2.1 = Receiver.woane)).map (·.2.2)).getD 0 = 5 := by decide +kernel
theorem wit_HubFailover_1 :
    let f := up.fail
    let s : State := { up with fail := { f with hubsRetired := setBit f.hubsRetired 14 true } }
    15 < 16 ∧ (up.fail).hubsRetired.getLsbD 15 = false ∧ (up.fail).hubsRetired.getLsbD (15 ^^^ 1) = false ∧ (s.fail).hubsRetired.getLsbD 15 = false
    ∧ (s.fail).hubsRetired.getLsbD (15 ^^^ 1) = true := by decide +kernel
theorem wit_HubTakeoverServes_1 :
    let f := up.fail
    let s : State := { up with fail := { f with hubTakeovers := [3, 15] } }
    (s.fail).hubTakeovers.contains 15 = true ∧ (up.fail).hubTakeovers.contains 15 = false := by decide +kernel
theorem wit_HbmStackFails_1 :
    let s : State := { up with tiers := { up.tiers with refilling := some 5, fetches := [] } }
    23 < 24 ∧ 23 ∉ up.tiers.retiredStacks ∧ up.tiers.retiredStacks = [] ∧ s.tiers.refilling = some 5 ∧ s.tiers.fetches = [] := by decide +kernel
theorem wit_LaserModules_1 :
    let f := up.fail
    let s : State := { up with fail := { f with lasersPresent := setBit f.lasersPresent 3 false, lasersIn := setBit f.lasersIn 3 false } }
    3 < 4 ∧ (s.fail).lasersPresent.getLsbD 3 = false ∧ (up.fail).lasersPresent.getLsbD 3 = true := by decide +kernel
theorem wit_RegulatorFails_1 :
    let s : State := { powered with power := { powered.power with regulators := 0x83FF } }
    let s2 : State := { up with power := { up.power with regulators := 0x81FF, regulatorsOn := true } }
    15 < 16 ∧ s.power.regulators.getLsbD 15 = true ∧ 10 ≤ popCount (setBit s.power.regulators 15 false) ∧ s2.power.regulators.getLsbD 15 = true
    ∧ popCount (setBit s2.power.regulators 15 false) < 10 ∧ s2.power.startedSince = false := by decide +kernel
theorem wit_RegulatorFails_2 :
    let s3 : State := { powered with power := { powered.power with regulators := 0x81FF } }
    s3.power.regulators.getLsbD 15 = true ∧ popCount (setBit s3.power.regulators 15 false) < 10 ∧ s3.power.startedSince = true ∧ s3.power.flush = none := by decide +kernel
set_option cbv.maxSteps 100000000 in
set_option maxHeartbeats 4000000 in
/-- SHA3-256 of no bytes (FIPS 202's own example). -/
theorem test_sha3_empty : sha3 [] = emptyDigest := by decide_cbv
theorem region_congr {s t : State} (h : s.boot.cfgWords = t.boot.cfgWords) : s.regionHead = t.regionHead := by
  simp only [State.regionHead, State.cfgBytes, State.cfgRead, h]
theorem trusted_congr {b c : Boot} (h : b.revoke = c.revoke) (h0 : b.fwKey0 = c.fwKey0) (h1 : b.fwKey1 = c.fwKey1) (hr : b.rollback = c.rollback)
    (d : FwHeader) (k : Buf) (ok : Bool) : fwTrusted b d k ok = fwTrusted c d k ok := by
  simp only [fwTrusted, Boot.fwKey, h, h0, h1, hr]
/-- Its words in config flash. -/
def imageWords : List (Nat × W32) := wordRun 0 (wordsOf imageHead)
/-- A sled whose image region holds that image, with the digest of its key fused. -/
def imageWith (k : Buf) : State :=
  { up with boot := { up.boot with phase := .bootRom, ready := 0, fwKey0 := k, cfgWords := imageWords } }
theorem imageWith_words (k : Buf) : (imageWith k).boot.cfgWords = imageWords := by simp only [imageWith]
theorem imageWith_key (k : Buf) : (imageWith k).boot.fwKey0 = k := by simp only [imageWith]
/-- The image as the boot ROM reads it. -/
def imageBytes : Buf := (imageWith []).regionHead
theorem imageWith_region (k : Buf) : (imageWith k).regionHead = imageBytes := region_congr ((imageWith_words k).trans (imageWith_words []).symm)
/-- The sled whose fuse matches the image's key. -/
def imageSled : State := imageWith (sha3 (Buf.slice imageBytes 0x80 1312))
theorem image_region : imageSled.regionHead = imageBytes := imageWith_region _
theorem image_fuse : imageSled.boot.fwKey0 = sha3 (Buf.slice imageBytes 0x80 1312) := imageWith_key _
theorem image_code : (parseFwHeader imageBytes).codeLength = 0 := by decide +kernel
theorem image_form : fwFormOk (parseFwHeader imageBytes) [] = true := by
  have h : (parseFwHeader imageBytes).codeDigest = emptyDigest := by decide +kernel
  simp only [fwFormOk, h, test_sha3_empty]
  decide +kernel
theorem image_trusted : fwTrusted imageSled.boot (parseFwHeader imageBytes) (Buf.slice imageBytes 0x80 1312) true = true := by
  have h : (parseFwHeader imageBytes).keySel = 0 := by decide +kernel
  have h2 : imageSled.boot.rollback ≤ (parseFwHeader imageBytes).svn := by decide +kernel
  have h3 : imageSled.boot.revoke.getLsbD 0 = false := by decide +kernel
  simp only [fwTrusted, h, Boot.fwKey, if_true, h3, image_fuse, beq_self_eq_true, decide_eq_true h2, Bool.not_false, Bool.and_true]
theorem wit_ImageCheckDecides_1 : imageSled.boot.phase = .bootRom ∧ fwFormOk (parseFwHeader imageSled.regionHead) (imageSled.regionCode (parseFwHeader imageSled.regionHead).codeLength) = true
    ∧ fwTrusted imageSled.boot (parseFwHeader imageSled.regionHead) (Buf.slice imageSled.regionHead 0x80 1312) true = true ∧ ∀ x ∈ imageSled.boot.cfgFlags, 4096 ≤ x := by
  rw [image_region, image_code]
  exact ⟨rfl, image_form, image_trusted, by decide +kernel⟩
/-- The image of that sled as UPDATE_FIRMWARE carries it. -/
def image : FwImage := { head := imageBytes, code := [], sig := [], sigOk := true }
/-- Submission 7 carries it. -/
def update7 : Sub := sub7 { opcode := 0xE8, length := 6516, arg0 := 1 }
/-- The sled with that submission waiting, its firmware running. -/
def updating (p : BootPhase) : State := wait update7.entry { imageSled with boot := { imageSled.boot with phase := p } }
theorem updating_trusted (p : BootPhase) (d : FwHeader) (k : Buf) (ok : Bool) : fwTrusted (updating p).boot d k ok = fwTrusted imageSled.boot d k ok := by
  simp only [fwTrusted, Boot.fwKey, updating, wait]
  rfl
theorem updating_none (p : BootPhase) : (updating p).boot.update = none := by cases p <;> decide +kernel
theorem wit_UpdateWritesImage_1 (p : BootPhase) : (updating p).updateErrs image update7.entry.length.toNat = [] := by
  have h6 : update7.entry.length.toNat = 4096 + (parseFwHeader imageBytes).codeLength + 2420 := by rw [image_code]; decide +kernel
  simp only [State.updateErrs, updating_none, updating_trusted, image, image_form, image_trusted, h6, ne_eq, not_true_eq_false, decide_false, when, Bool.not_true, Bool.or_false, Option.isSome_none,
    Bool.false_eq_true, if_false, List.append_nil]
theorem wit_UpdateWritesImage_1b : Begins (updating .firmware) 7 0xE8 update7 ∧ (updating .firmware).boot.phase = .firmware ∧ Begins (updating .recovery) 7 0xE8 update7
    ∧ (updating .recovery).boot.phase = .recovery ∧ update7.entry.arg0 = 1 := by decide +kernel

/-! ### Flash media and tiers -/

/-- Host data object 0, ordinary. -/
def obj0 : W64 := 0xF000000000000000
/-- Host data object 1, persistent. -/
def obj1 : W64 := 0xF000000000000001
/-- Extent 3 of object 0. -/
def entry3 : MapEntry := { obj := obj0, extent := 3, channel := 9, die := 2, blockSet := 1000, page := 7 }
/-- The flash with those two objects and extent 3 of object 0 mapped and programmed on channel 9. -/
def media : State :=
  { up with flash := { up.flash with
      replayed := true, objs := [{ id := obj0, persistent := false }, { id := obj1, persistent := true }], nextObj := 2
      map := [entry3]
      pages := [{ channel := 9, die := 2, blockSet := 1000, page := 7, obj := obj0, extent := 3, wseq := 0, data := [1, 2, 3] }]
      blocks := [{ channel := 9, die := 2, index := 1000, mode := .pslc, pe := 4 }] } }
/-- A read of that extent at a step of the ladder. -/
def reading (k : Nat) : Reading := { sid := some 7, obj := obj0, extent := 3, step := k, place := some entry3, offset := 1, length := 2 }
/-- The flash with a read there. -/
def readingAt (k : Nat) : State := waitSub { sub7 { opcode := 0x53, arg0 := obj0 } with running := true } { media with flash := { media.flash with reads := [reading k] } }
/-- A program of extent 4 of object 0 under way for submission 7. -/
def prog (fails : Nat) : Programming := { sid := some 7, grp := 1, obj := obj0, extent := 4, wseq := 5, channel := 10, data := [4, 5], fails := fails }
/-- The flash with that program. -/
def programming (fails : Nat) : State :=
  waitSub { sub7 { opcode := 0x52, arg0 := obj0 } with running := true, throttled := true }
    { media with flash := { media.flash with programs := [prog fails], writes := [{ sid := 7, obj := obj0, first := 4, count := 1, data := [4, 5], started := true }] } }
/-- That extent in QLC. -/
def entryQ : MapEntry := { entry3 with blockSet := 5, pslc := false }
/-- The page of die 3 in the same parity unit. -/
def pageQ : PageRec := { channel := 9, die := 3, blockSet := 6, page := 7, obj := obj1, extent := 2, wseq := 1, data := [8, 9] }
/-- A read of it that its rebuild answers, from the page of another die and the hub's XOR. -/
def rebuilding : State :=
  waitSub { sub7 { opcode := 0x53, arg0 := obj0 } with running := true }
    { media with flash := { media.flash with
        map := [entryQ], pages := [{ channel := 9, die := 2, blockSet := 5, page := 7, obj := obj0, extent := 3, wseq := 0, data := [1, 2, 3] }, pageQ]
        units := [{ channel := 9, group := 0, page := 7, members := [(2, 5), (3, 6)], parity := [9, 11, 3] }]
        reads := [{ reading 7 with place := some entryQ }] } }
/-- The last location of a die's pSLC region. -/
def spot : FlashLoc := { die := 23, blockSet := 1000, page := 799, pslc := true }
theorem wit_CreateObjectAssigns_1 :
    let u := sub7 { opcode := 0x50, arg0 := 1 }
    let s := wait u.entry up
    Begins s 7 0x50 u := by decide +kernel
theorem wit_WriteExtentStarts_1 :
    let u := sub7 { opcode := 0x52, arg0 := obj0, arg1 := 5, length := 0 }
    let s := wait u.entry media
    let o : FlashObj := { id := obj0, persistent := false }
    Begins s 7 0x52 u ∧ u.readB (some []) = some [] ∧ s.obj? u.entry.arg0 = some o ∧ hostId u.entry.arg0 = true
    ∧ o.spanOk u.entry.extFirst u.entry.extCount = true ∧ u.entry.length.toNat = u.entry.extCount * 65536
    ∧ s.extentsClear u.entry.arg0 u.entry.extFirst u.entry.extCount = true ∧ u.entry.extCount = 0 := by decide +kernel
theorem wit_ProgramMapsExtent_1 :
    let s := programming 0
    let p := prog 0
    s.channelPaused 10 = false ∧ s.channelOut 10 = false ∧ s.endsAt p spot = true
    ∧ s.flash.programs.find? (fun x => x.channel == 10 && x.wseq == 5 && x.done.isNone) = some p
    ∧ s.flash.programs.filter (fun x => x.grp == p.grp) = [p] ∧ p.extent ≠ trimMark ∧ p.relocation = false
    ∧ newest (s.lastWseq 10 p.obj p.extent) 5 = true := by decide +kernel
theorem wit_ProgramFailures_1 :
    let j : WriteJob := { sid := 7, obj := obj0, first := 4, count := 1, data := [4, 5], started := true }
    let u : Sub := { sub7 { opcode := 0x52, arg0 := obj0 } with running := true, throttled := true }
    (programming 0).channelPaused 10 = false ∧ (programming 0).channelOut 10 = false ∧ (programming 0).endsAt (prog 0) spot = true
    ∧ 10 < (programming 0).flash.channels.length
    ∧ (programming 0).flash.programs.find? (fun x => x.channel == 10 && x.wseq == 5 && x.done.isNone) = some (prog 0) ∧ (prog 0).sid = some 7
    ∧ (programming 0).flash.writes.find? (fun x => x.sid == 7) = some j ∧ (programming 0).sub? 7 = some u ∧ u.due = none
    ∧ (programming 1).flash.programs.find? (fun x => x.channel == 10 && x.wseq == 5 && x.done.isNone) = some (prog 1) ∧ (prog 0).fails = 0
    ∧ 1 ≤ (prog 1).fails := by decide +kernel
theorem wit_ReadExtentStarts_1 :
    let u := sub7 { opcode := 0x53, arg0 := obj0, arg1 := BitVec.ofNat 64 (2 ^ 48 * 4 + 2 ^ 32 * 65532 + 3), length := 4, addr := 512, rkey := 6 }
    let s := wait u.entry media
    let s2 := wait u.entry { media with flash := { media.flash with map := [] } }
    let m := entry3
    let s3 := wait u.entry { media with flash := { media.flash with map := [{ m with damaged := true }] } }
    Begins s 7 0x53 u ∧ Begins s2 7 0x53 u ∧ Begins s3 7 0x53 u ∧ s.obj? u.entry.arg0 = some { id := obj0, persistent := false }
    ∧ hostId u.entry.arg0 = true ∧ ({ id := obj0, persistent := false } : FlashObj).spanOk (u.entry.arg1.toNat % 2 ^ 32) 1 = true
    ∧ u.entry.readOff + u.entry.readLen ≤ 65536 ∧ u.entry.readLen ≤ u.entry.length.toNat ∧ u.inSlot = false ∧ s.entry? u.entry.arg0 3 = some m
    ∧ s2.entry? u.entry.arg0 3 = none ∧ s3.entry? u.entry.arg0 3 = some { m with damaged := true } := by decide +kernel
theorem wit_LadderAndRebuild_1 :
    let m : MapEntry := entry3
    let u : Sub := { sub7 { opcode := 0x53, arg0 := obj0 } with running := true }
    (readingAt 6).entry? obj0 3 = some m ∧ (reading 6).place = some m ∧ (readingAt 6).channelPaused 9 = false ∧ (readingAt 6).sub? 7 = some u
    ∧ u.due = none ∧ (readingAt 6).flash.reads.find? (fun x => x.obj == obj0 && x.extent == 3 && decide (x.step ≤ 6)) = some (reading 6)
    ∧ 1 ≤ (reading 6).step ∧ (readingAt 7).flash.reads.find? (fun x => x.obj == obj0 && x.extent == 3 && decide (7 ≤ x.step)) = some (reading 7)
    ∧ (readingAt 7).entry? obj0 3 = some m ∧ (readingAt 7).channelPaused 9 = false ∧ (readingAt 7).sub? 7 = some u ∧ u.inSlot = false
    ∧ (readingAt 7).rebuildFrom m = none ∧ u.entry.opcode.toNat = 0x53 := by decide +kernel
theorem wit_LadderAndRebuild_2 :
    let u : Sub := { sub7 { opcode := 0x53, arg0 := obj0 } with running := true }
    let s := rebuilding
    s.entry? obj0 3 = some entryQ ∧ s.channelPaused 9 = false ∧ s.sub? 7 = some u ∧ u.due = none
    ∧ s.flash.reads.find? (fun x => x.obj == obj0 && x.extent == 3 && decide (7 ≤ x.step)) = some { reading 7 with place := some entryQ }
    ∧ s.rebuildFrom entryQ = some ([pageQ.place false], [9, 11, 3]) ∧ (∀ y ∈ [pageQ.place false], y.damaged = false ∧ s.channelOut y.channel = false
    ∧ ladderStep [] y.obj y.extent ≤ 6) := by decide +kernel
theorem wit_TrimAndDelete_1 :
    let u := sub7 { opcode := 0x54, arg0 := obj0, arg1 := BitVec.ofNat 64 (2 ^ 32 * 3 + 0) }
    let u2 := sub7 { opcode := 0x54, arg0 := obj0, arg1 := BitVec.ofNat 64 (2 ^ 32 * 4 + 0) }
    let s := wait u.entry media
    let s2 := wait u2.entry media
    let d := sub7 { opcode := 0x51, arg0 := obj0 }
    let d1 := sub7 { opcode := 0x51, arg0 := obj1 }
    s.obj? u.entry.arg0 = some { id := obj0, persistent := false } ∧ hostId u.entry.arg0 = true ∧ (∀ p ∈ s.flash.programs, p.sid ≠ some 7)
    ∧ s.power.flush = none ∧ Begins s 7 0x54 u ∧ ({ id := obj0, persistent := false } : FlashObj).spanOk u.entry.extFirst u.entry.extCount = true
    ∧ s.trimOut u.entry.arg0 u.entry.extFirst u.entry.extCount = false ∧ s.extentsClear u.entry.arg0 u.entry.extFirst u.entry.extCount = true
    ∧ (s.flash.map.all fun m => !(m.obj == obj0 && decide (u.entry.extFirst ≤ m.extent ∧ m.extent < u.entry.extFirst + u.entry.extCount))) = true
    ∧ Begins s2 7 0x54 u2 ∧ (∃ m ∈ s2.flash.map, m.obj = obj0 ∧ u2.entry.extFirst ≤ m.extent ∧ m.extent < u2.entry.extFirst + u2.entry.extCount)
    ∧ s2.trimOut u2.entry.arg0 u2.entry.extFirst u2.entry.extCount = false ∧ s2.extentsClear u2.entry.arg0 u2.entry.extFirst u2.entry.extCount = true
    ∧ (∀ m ∈ s2.flash.map, s2.stripeBusy { id := obj0, persistent := false } m.extent = false) ∧ Begins (wait d.entry media) 7 0x51 d
    ∧ (wait d.entry media).objectIdle d = true ∧ (wait d.entry media).trimOut obj0 0 trimMark = false ∧ (∃ m ∈ media.flash.map, m.obj = obj0
    ∧ m.extent < parityBase) ∧ Begins (wait d1.entry media) 7 0x51 d1 ∧ (wait d1.entry media).objectIdle d1 = true
    ∧ (wait d1.entry media).trimOut obj1 0 trimMark = false ∧ (∀ m ∈ media.flash.map, m.obj ≠ obj1) := by decide +kernel
theorem wit_BlockSetLife_1 :
    let x : ParityUnit := { channel := 9, group := 2, page := 7, members := [(12, 0), (13, 0), (14, 0), (15, 0), (16, 0), (17, 0)], parity := [5] }
    let s : State := { media with flash := { media.flash with verifyQueue := [(9, 2, 1000)], units := [x], pages := media.flash.pages ++ [{ channel := 9, die := 2, blockSet := 1000, page := 799, obj := obj0, extent := 8, wseq := 1 }] } }
    let e : State := { media with flash := { media.flash with map := [] } }
    let p : State := { media with fail := { (media.fail) with hubTakeovers := [1] } }
    s.sasel.shutdown = false ∧ s.power.flush = none ∧ s.sasel.shutdownDone = false ∧ e.sasel.shutdownDone = false ∧ 9 < s.flash.channels.length
    ∧ s.channelPaused 9 = false ∧ s.channelOut 9 = false ∧ (s.block 9 2 1000).closed = false ∧ (s.block 9 2 1000).retired = false
    ∧ (s.block 9 2 1000).mode = .pslc ∧ (s.pageAt 9 2 1000 799).isSome = true ∧ (9, 2, 1000) ∈ s.flash.verifyQueue
    ∧ (∀ p ∈ s.flash.pages, p.channel = 9 → p.die = 2 → p.blockSet = 1000 → p.page ∉ [8]) ∧ (∃ p ∈ s.flash.pages, p.channel = 9 ∧ p.die = 2
    ∧ p.blockSet = 1000 ∧ p.page ∈ [7]) ∧ e.setNeeded 9 2 1000 = false ∧ s.setNeeded 9 2 1000 = true ∧ (e.block 9 2 1000).retired = false ∧ 2 < e.dies
    ∧ e.power.flush = none
    ∧ s.flash.units.find? (fun x => x.channel == 9 && x.group == 2 && x.page == 7 && x.written.isNone && decide (x.members.length = 6)) = some x
    ∧ s.groupOk 2 = true ∧ s.locOk 9 spot = true ∧ spot.pslc = true ∧ spot.die / 6 = 2 ^^^ 1 ∧ p.channelPaused 9 = true := by decide +kernel
theorem wit_RelocationReasons_1 :
    let s := media
    let q : State := { media with flash := { media.flash with map := [entryQ], wearLimit := 3, pages := [{ channel := 9, die := 2, blockSet := 5, page := 7, obj := obj0, extent := 3, wseq := 0, data := [1, 2, 3] }], blocks := [{ channel := 9, die := 2, index := 5, mode := .qlc, pe := 4, closed := true }, { channel := 9, die := 3, index := 6, mode := .qlc, pe := 8, closed := true }] } }
    s.channelPaused 9 = false ∧ s.channelOut 9 = false ∧ s.mayRelocate = true ∧ s.patrolDue 9 2 1000 7 = true ∧ s.periodOver 9 = false
    ∧ (s.channel 9).lapDone = false ∧ (q.block 9 2 5).mode = .qlc ∧ (q.block 9 2 5).closed = true ∧ (q.block 9 2 5).retired = false
    ∧ q.flash.wearLimit < q.wearSpread 9 ∧ (∀ x ∈ q.wearSet 9, x.closed = true → (q.block 9 2 5).pe ≤ x.pe) ∧ q.mayRelocate = true
    ∧ (∀ m ∈ s.flash.map, s.writing m.obj m.extent = false) ∧ (∀ m ∈ q.flash.map, q.writing m.obj m.extent = false)
    ∧ s.wearSpread 9 ≤ s.flash.wearLimit := by decide +kernel
theorem wit_RelocationReasons_2 :
    let s : State := { media with pclk := 425000000 * 9 }
    let late : State := { media with pclk := 425000000 * 604800 }
    s.patrolDue 9 2 1000 7 = true ∧ s.periodOver 9 = false ∧ late.periodOver 9 = true ∧ (s.channel 9).lapDone = false ∧ 9 < s.flash.channels.length := by decide +kernel
theorem wit_CheckpointAndShutdown_1 :
    let s1 : State := media.modChannel 127 fun c => { c with sinceCut := 262144 }
    let s2 : State := { media with flash := { media.flash with checkpointing := true } }
    let u := sub7 { opcode := 0xE5 }
    let v : Sub := { u with afterShutdown := true }
    let s3 := waitSub u { media with sasel := { media.sasel with subs := [] } }
    let s4 := waitSub v media
    127 < 128 ∧ s1.flash.checkpointing = false ∧ s1.sasel.shutdown = false ∧ s1.power.flush = none ∧ 262144 ≤ (s1.channel 127).sinceCut
    ∧ s2.flash.dirty = [] ∧ s2.flash.checkpointing = true ∧ s2.flash.writes = [] ∧ media.sasel.shutdownDone = false ∧ Begins s4 7 0xE5 v
    ∧ v.afterShutdown = true ∧ Begins s3 7 0xE5 u ∧ u.afterShutdown = false ∧ s3.writersIdle u = true ∧ (∀ g ∈ s3.grafts.list, g.phase = .stopped) := by decide +kernel
theorem wit_CheckpointAndShutdown_2 :
    let s : State := { media with flash := { media.flash with checkpointing := true, dirty := [5] } }
    s.flash.checkpointing = true ∧ s.flash.writes = [] := by decide +kernel
theorem wit_MapReplayed_1 :
    let s : State := { media with flash := { media.flash with replayed := false, map := [] } }
    let c : State := { s with flash := { s.flash with cleanShutdown := true, checkpoint := media.flash.map } }
    s.boot.phase = .firmware ∧ s.isReady bitSysregion = true ∧ s.flash.replayed = false ∧ c.flash.cleanShutdown = true ∧ s.flash.cleanShutdown = false := by decide +kernel
theorem wit_SetPoolsBudgets_1 :
    let arg := fun (a b c d : Nat) => BitVec.ofNat 64 (a + 2 ^ 16 * b + 2 ^ 32 * c + 2 ^ 48 * d)
    let u := sub7 { opcode := 0xE4, arg0 := arg 600 64 264 32 }
    let v := sub7 { opcode := 0xE4, arg0 := arg 600 64 264 33 }
    let w := sub7 { opcode := 0xE4, arg0 := arg 864 64 0 32 }
    let full : State := { up with tiers := { up.tiers with held := { up.tiers.held with table := 4096 } } }
    Begins (wait u.entry up) 7 0xE4 u ∧ Begins (wait v.entry up) 7 0xE4 v ∧ Begins (wait w.entry full) 7 0xE4 w
    ∧ (let p := poolsOf u.entry.arg0; p.model + p.index + p.table + p.graft = 960 * 2 ^ 30 ∧ up.tiers.held.model ≤ p.model
    ∧ up.tiers.held.index ≤ p.index ∧ up.tiers.held.table ≤ p.table ∧ up.tiers.held.graft ≤ p.graft)
    ∧ (let p := poolsOf w.entry.arg0; p.model + p.index + p.table + p.graft = 960 * 2 ^ 30 ∧ p.table < full.tiers.held.table) := by decide +kernel
theorem wit_MoveObjectStarts_1 :
    let id : W64 := 0x5000000000000001
    let hm := fun (h : Home) => ({ up with tiers := { up.tiers with homes := [h], running := (if h.inMotion then [{ objId := 9, tier := .hbm, sid := none }] else []) } } : State)
    let hH : Home := { objId := id, tier := .hbm, lengthM1 := 63, hbmCopy := true, addr := 4096 }
    let hF : Home := { objId := id, tier := .flash, lengthM1 := 63 }
    let up1 := sub7 { opcode := 0x60, arg0 := id, arg1 := 1 }
    let up2 := sub7 { opcode := 0x60, arg0 := id, arg1 := 2 }
    let sA := wait up1.entry (hm hH)
    let sB := wait up1.entry (hm hF)
    let sC := wait up2.entry (hm { hH with pins := 1 })
    let sD := wait up2.entry (hm { hF with inMotion := true, destTier := .hbm, waiters := 14 })
    Begins sA 7 0x60 up1 ∧ Begins sB 7 0x60 up1 ∧ Begins sC 7 0x60 up2 ∧ Begins sD 7 0x60 up2 ∧ objKind id = 5 ∧ sA.home? id = some hH
    ∧ sB.home? id = some hF ∧ (sB.allocHbm (poolOf id) hF.bytes id).isSome = true ∧ sC.home? id = some { hH with pins := 1 }
    ∧ (∀ m ∈ sD.tiers.moves, m.objId ≠ id) ∧ (∀ m ∈ sD.tiers.running, m.objId ≠ id)
    ∧ sD.home? id = some { hF with inMotion := true, destTier := .hbm, waiters := 14 } := by decide +kernel
theorem wit_MoveFlips_1 :
    let id : W64 := 0x5000000000000001
    let h1 : Home := { objId := id, tier := .flash, destTier := .hbm, inMotion := true, lengthM1 := 63, pins := 3, addr := 7, dest := 8192, version := 5 }
    let s : State := { up with tiers := { up.tiers with homes := [h1], running := [{ objId := id, tier := .hbm, sid := none }], allocs := [(8192, 4096, id)] } }
    s.home? id = some h1 ∧ (∀ w ∈ s.tiers.writes, w.objId ≠ id) ∧ 0 < h1.pins ∧ (∀ m ∈ s.tiers.moves, m.objId ≠ id) := by decide +kernel
theorem wit_PinReleased_1 :
    let id : W64 := 0x5000000000000001
    let h1 : Home := { objId := id, tier := .hbm, pins := 2, oldPins := 2 }
    let s : State := { up with tiers := { up.tiers with homes := [h1] } }
    let h2 : Home := { objId := id, tier := .hbm, pins := 1, evictPending := true, sealedObj := true, hbmCopy := true }
    let s2 : State := { up with tiers := { up.tiers with homes := [h2] } }
    s.home? id = some h1 ∧ 1 < h1.pins ∧ 1 < h1.oldPins ∧ s2.home? id = some h2 ∧ h2.pins = 1 ∧ h2.evictPending = true ∧ h2.sealedObj = true := by decide +kernel
theorem channel_default {s : State} (h : s.flash.channels = (List.range 128).map fun c => { index := c }) (c : Nat) : s.channel c = { index := c } := by
  simp only [State.channel, h, List.getElem?_map]
  by_cases hc : c < 128
  · simp only [List.getElem?_range hc, Option.map_some, Option.getD_some]
  · simp only [List.getElem?_eq_none (show (List.range 128).length ≤ c by simpa using Nat.le_of_not_lt hc), Option.map_none, Option.getD_none]
theorem capacity_room {s : State} {sid : Option Nat} {l : List Nat} (h : ∀ c, l.length ≤ s.freeExtents c) : s.capacityFor sid l = true := by
  simp only [State.capacityFor, List.all_eq_true, Bool.or_eq_true, decide_eq_true_eq]
  exact fun c _ => Or.inr (Nat.le_trans (List.length_filter_le _ _) (Nat.le_trans (h c) (Nat.le_add_right _ _)))
theorem reserved_none {s : State} (hs : ∀ u ∈ s.sasel.subs, u.held = []) (c : Nat) : s.reservedOn c = 0 := by
  have h : ∀ l : List Sub, (∀ u ∈ l, u.held = []) → (l.map fun u => s.heldBy u c).sum = 0 := by
    intro l
    induction l with
    | nil => intro _; rfl
    | cons u r ih =>
      intro hl
      rw [List.map_cons, List.sum_cons, ih fun v hv => hl v (List.mem_cons_of_mem _ hv)]
      simp [State.heldBy, hl u List.mem_cons_self]
  exact h _ hs
theorem free_many {s : State} (hh : s.boot.half = false) (hm : s.flash.mapHeld = 0)
    (hs : ∀ u ∈ s.sasel.subs, u.held = []) (hl : s.flash.map.length ≤ 1) (c : Nat) : 100 ≤ s.freeExtents c := by
  have := List.length_filter_le (fun m : MapEntry => m.channel == c && decide (m.obj.toNat / 2 ^ 60 ≠ 11)) s.flash.map
  simp only [State.freeExtents, State.channelCapacity, State.dies, reserved_none hs, hh, hm, Bool.false_eq_true, if_false]
  omega
/-- A write of the last extent of a persistent object. -/
def write7 : Sub := sub7 { opcode := 0x52, arg0 := obj1, arg1 := BitVec.ofNat 64 (2 ^ 32 + 0x7FFFFFFF), length := 65536 }
/-- The flash with that write waiting. -/
def writing : State := wait write7.entry media
theorem wit_WriteExtentStarts_2 : Begins writing 7 0x52 write7 ∧ (write7.readB (some [1])).isSome = true ∧ writing.obj? write7.entry.arg0 = some { id := obj1, persistent := true }
    ∧ hostId write7.entry.arg0 = true ∧ ({ id := obj1, persistent := true } : FlashObj).spanOk write7.entry.extFirst write7.entry.extCount = true
    ∧ write7.entry.length.toNat = write7.entry.extCount * 65536 ∧ write7.entry.extCount = 1 := by decide +kernel
theorem wit_WriteExtentStarts_2b : writing.extentsClear write7.entry.arg0 write7.entry.extFirst write7.entry.extCount = true
    ∧ writing.unitOut { id := obj1, persistent := true } write7.entry.extFirst = false
    ∧ writing.mustWait { id := obj1, persistent := true } write7.entry.extFirst = false := by
  have hc : writing.flash.channels = (List.range 128).map fun c => { index := c } := by decide +kernel
  have h1 : (writing.fail).channelsOut = 0#128 := by decide +kernel
  have hs : ∀ c, writing.stalled c = false := fun c => by simp only [State.stalled, channel_default hc]; decide
  refine ⟨by decide +kernel, ?_, ?_⟩
  · simp only [State.unitOut, State.channelOut, h1, BitVec.getLsbD_zero, Bool.and_false, Bool.or_self]
  · simp only [State.mustWait, hs, Bool.and_false, Bool.or_false]
    decide +kernel
/-- A write of two extents of an object of the ordinary class. -/
def write2 : Entry := { opcode := 0x52, arg0 := obj0, arg1 := BitVec.ofNat 64 (2 * 2 ^ 32 + 5), length := 131072 }
/-- The flash with every channel full. -/
def brimful : State := { media with flash := { media.flash with map := [], mapHeld := 76339200 } }
theorem wit_WriteReserves_1 : write2.opcode.toNat = 0x52 ∧ media.obj? write2.arg0 = some { id := obj0, persistent := false }
    ∧ ({ id := obj0, persistent := false } : FlashObj).spanOk write2.extFirst write2.extCount = true ∧ write2.length.toNat = write2.extCount * 65536
    ∧ brimful.obj? write2.arg0 = some { id := obj0, persistent := false } := by decide +kernel
theorem wit_WriteReserves_1a : media.presets (.queue 3) c0 0 write2 = [] := by
  have hw : media.wantedOk write2 = true :=
    capacity_room fun c => Nat.le_trans (by decide +kernel)
      (free_many (by decide +kernel) (by decide +kernel) (by decide +kernel) (by decide +kernel) c)
  rw [State.presets, hw]
  decide +kernel
theorem wit_WriteReserves_1b : ∃ c, brimful.channelOut c = false
    ∧ brimful.freeExtents c < ((brimful.newExtents { id := obj0, persistent := false } 5 2).filter fun x => x.1 == c).length := by
  have hn : brimful.newExtents { id := obj0, persistent := false } 5 2 = [(channelOf obj0 false 5, obj0, 5), (channelOf obj0 false 6, obj0, 6)] := rfl
  have hc : channelOf obj0 false 5 < 128 := by
    rw [channelOf, if_neg (by decide)]
    exact Nat.mod_lt _ (by decide)
  have hm : ∀ c, c < 128 → brimful.freeExtents c = 0 := by decide +kernel
  generalize channelOf obj0 false 5 = k at hn hc
  refine ⟨k, ?_, ?_⟩
  · have h1 : (brimful.fail).channelsOut = 0#128 := by decide +kernel
    simp only [State.channelOut, h1, BitVec.getLsbD_zero]
  · rw [hn, hm k hc]
    simp
/-- A row block in HBM. -/
def block5 : Home := { objId := 0x5000000000000001, tier := .hbm, hbmCopy := true, lengthM1 := 63, addr := 8192 }
/-- The table pool one byte above 95 % of its budget, with that block in it. -/
def crowded : State :=
  { up with tiers := { up.tiers with homes := [block5], held := { up.tiers.held with table := 95 * up.tiers.budget.table / 100 + 1 }, allocs := [(8192, 4096, block5.objId)] } }
theorem wit_EvictionThreshold_1 : 95 * crowded.tiers.budget.table < 100 * crowded.tiers.held.table ∧ crowded.sasel.shutdown = false ∧ crowded.power.flush = none
    ∧ crowded.eol < 2 ∧ crowded.evictable = [block5] ∧ crowded.home? block5.objId = some block5 ∧ (∀ m ∈ crowded.tiers.moves, m.objId ≠ block5.objId)
    ∧ 100 * up.tiers.held.table ≤ 95 * up.tiers.budget.table := by decide +kernel
theorem wit_EvictionThreshold_1b : crowded.capacityOk (objectChannels block5.objId false (extentsOf block5.bytes)) = true :=
  capacity_room fun c => Nat.le_trans (by decide +kernel) (free_many (by decide +kernel) (by decide +kernel) (by decide +kernel) (by decide +kernel) c)

/-! ### The Loom and contexts -/

/-- A general context in slot 0 and one waiting for a slot, both of AUX binding 0. -/
def ctxG : Ctx := { index := 0, gen := 1, service := false, model := mkHandle 1 kindModel 0, state := .running, slot := some 0, firstKnot := 4096, knots := 4, runs := [{ sid := 7, range := 0, next := 1, last := 1 }], pick := 1 }
def ctxR : Ctx := { index := 1, gen := 1, service := false, model := mkHandle 1 kindModel 0, state := .outReady, firstKnot := 4100, knots := 1, runs := [{ sid := 5, range := 0, next := 0, last := 1 }] }
/-- An AUX image of two picks that write no output. -/
def auxImage : Image :=
  { index := 0, gen := 1, header := { cls := 4 }, desc := [{ oTier := 2, yieldPt := true }, { oTier := 2, sigEn := true }], entries := [{ index := 0, first := 0, count := 2 }]
    live := [{ kind := 1, length := 16, offset := 0, yieldPick := 0 }] }
def busyIn (l : List Ctx) : State :=
  { up with
    img := { up.img with images := [auxImage], models := [{ index := 0, gen := 1, image := mkHandle 1 kindImage 0 }] }
    work := { up.work with ctxs := l, knots := [{ index := 4097, kind := .barrier, owner := 0, target := 3, count := 2, fires := 8 }, { index := 4098, kind := .counter, owner := 0, count := 0xFFFFFFFF }, { index := 100, kind := .barrier, target := 0, count := 0xFFFFFFFF, fires := 0xFFFFFFFF }] } }
def busy : State := busyIn [ctxG, ctxR]
/-- A pick of context 0 in the sequencer. -/
def pick0 : Issued := { id := 0, ctx := 0, pos := firmwarePos, pick := { oTier := 2, sigEn := true, sigKnot := 4096, rows := 0 }, phase := .running }
/-- The same state with picks issued. -/
def withPicks (l : List Issued) (s : State) : State := { s with loom := { s.loom with issued := l, nextId := l.length } }
theorem wit_KnotSignalRules_1 :
    let s := busy
    let x : Knot := { index := 4097, kind := .barrier, owner := 0, target := 3, count := 2, fires := 8 }
    32767 < 32768 ∧ ((1 : W32) - s.lastFrom (.slot 3)).toNat = 1 ∧ s.knot? 4097 = some x ∧ x.overflows = false ∧ s.knot? 32767 = none
    ∧ ((0 : W32) - s.lastFrom (.slot 3)).toNat = 0 ∧ 2 ^ 31 ≤ ((2147483648 : W32) - s.lastFrom (.slot 3)).toNat
    ∧ ((2147483647 : W32) - s.lastFrom (.slot 3)).toNat < 2 ^ 31 := by decide +kernel
theorem wit_KnotOverflow_1 :
    let s := busy
    let x : Knot := { index := 4098, kind := .counter, owner := 0, count := 0xFFFFFFFF }
    let y : Knot := { index := 100, kind := .barrier, target := 0, count := 0xFFFFFFFF, fires := 0xFFFFFFFF }
    (1 : W32) = s.lastFrom (.slot 3) + 1 ∧ s.knot? 4098 = some x ∧ x.overflows = true ∧ s.knot? 100 = some y ∧ y.overflows = true ∧ 4096 ≤ 4098 := by decide +kernel
theorem wit_KnotResetClears_1 :
    let s := busy
    let x : Knot := { index := 4097, kind := .barrier, owner := 0, target := 3, count := 2, fires := 8 }
    s.knot? 4097 = some x ∧ s.knot? 32767 = none := by decide +kernel
theorem wit_CreateContextDefines_1 :
    let u := sub7 { opcode := 0x68, handleA := mkHandle 1 kindModel 0, arg0 := 256 }
    let s := wait u.entry busy
    let m : Model := { index := 0, gen := 1, image := mkHandle 1 kindImage 0 }
    Begins s 7 0x68 u ∧ s.model? u.entry.handleA = some m ∧ s.image? m.image = some auxImage ∧ auxImage.header.cls = 4 ∧ u.entry.arg0.toNat ≤ 256
    ∧ s.loom.out = false ∧ lowestFree (s.work.ctxs.map (·.index)) 4096 = some 2 ∧ s.freeKnots 256 = some 4101 := by decide +kernel
theorem wit_DestroyContextEnds_1 :
    let u := sub7 { opcode := 0x69, handleA := mkHandle 1 kindContext 0 }
    let tc : Ctx := { ctxG with state := .torn, slot := none, runs := [] }
    let sc : Ctx := { ctxG with service := true }
    let s1 := wait u.entry (busyIn [tc])
    let s2b := wait u.entry (busyIn [ctxG])
    let s3 := wait u.entry (busyIn [sc])
    Begins s1 7 0x69 u ∧ s1.ctx? u.entry.handleA = some tc ∧ s1.work.ctxs.filter (fun x => x.index == tc.index) = [tc] ∧ Begins s2b 7 0x69 u
    ∧ s2b.ctx? u.entry.handleA = some ctxG ∧ ctxG.state ≠ .torn ∧ s3.ctx? u.entry.handleA = some sc ∧ sc.service = true
    ∧ s3.work.ctxs.filter (fun x => x.index == 0) = [sc] := by decide +kernel
theorem wit_RunEntryAddsRun_1 :
    let u := sub7 { opcode := 0x6A, handleA := mkHandle 1 kindContext 0, length := 4 }
    let s := wait u.entry busy
    let tc : Ctx := { ctxG with state := .torn, slot := none, runs := [] }
    let st := wait u.entry (busyIn [tc])
    Begins s 7 0x6A u ∧ (u.readB (some [1, 2, 3, 4])) = some [1, 2, 3, 4] ∧ s.ctx? u.entry.handleA = some ctxG ∧ ctxG.service = false
    ∧ ctxG.state ≠ .torn ∧ ctxG.cause = none ∧ s.isReady bitLoom = true ∧ s.ctxImage ctxG = some auxImage ∧ auxImage.damaged = false
    ∧ auxImage.entries.find? (fun e => e.index == u.entry.arg2.toNat) = some { index := 0, first := 0, count := 2 }
    ∧ (∀ m ∈ s.img.models, m.binder = none) ∧ Begins st 7 0x6A u ∧ st.ctx? u.entry.handleA = some tc ∧ tc.state = .torn
    ∧ st.ctxImage tc = some auxImage := by decide +kernel
theorem wit_SaveAndRestore_1 :
    let c1 : Ctx := { ctxG with state := .saving, saved := 16 }
    let c2 : Ctx := { ctxG with state := .restoring, saved := 16, hasSaved := true, saveData := [(1, 0, List.replicate 16 5)] }
    let s1 := busyIn [c1]
    let s2 := busyIn [c2]
    s1.work.ctxs.filter (fun x => x.index == 0) = [c1] ∧ c1.cause = none ∧ s2.work.ctxs.filter (fun x => x.index == 0) = [c2] ∧ c2.state = .restoring := by decide +kernel
theorem wit_ContextSwitching_1 :
    let c1 : Ctx := { ctxG with preempt := true }
    let c2 : Ctx := { ctxG with runs := [] }
    let s := busy
    let s1 := busyIn [c1, ctxR]
    let s2 := busyIn [c2]
    let s3 := busyIn [ctxG]
    s.work.ctxs.filter (fun x => x.index == 0) = [ctxG] ∧ ctxG.state = .running ∧ ctxG.cause = none ∧ ctxG.service = false ∧ s.readyOrder ≠ []
    ∧ s3.readyOrder = [] ∧ s1.work.ctxs.filter (fun x => x.index == 0) = [c1] ∧ s1.atYield c1 = true ∧ s1.saveFits c1 = true
    ∧ s2.work.ctxs.filter (fun x => x.index == 0) = [c2] ∧ s2.atYield c2 = true ∧ s2.ctxWaits c2 = true ∧ s.atYield ctxG = true
    ∧ s.ctxWaits ctxG = false := by decide +kernel
theorem wit_SwapOutSaves_1 :
    let l := (List.range 16).map fun k => { ctxG with index := k, slot := some k, state := .blocked, sinceBlocked := 50 - k }
    let s := busyIn (l ++ [{ ctxR with index := 20 }])
    let c : Ctx := { ctxG with index := 15, slot := some 15, state := .blocked, sinceBlocked := 35 }
    s.freeSlot = none ∧ (∀ x ∈ s.residentGeneral, x.state = .blocked) ∧ s.residentGeneral ≠ [] ∧ s.readyOrder ≠ [] ∧ s.swapCandidate = some c
    ∧ busy.freeSlot ≠ none := by decide +kernel
theorem wit_TeardownTears_1 :
    let u := sub7 { opcode := 0x6A, handleA := mkHandle 1 kindContext 0 }
    let c1 : Ctx := { ctxG with cause := some .pickFault }
    let s1 := waitSub u (withPicks [pick0] (busyIn [c1]))
    let s2 := waitSub u (withPicks [pick0] (busyIn [ctxG]))
    let s3 : State := { s1 with loom := { s1.loom with takeover := [4] } }
    s1.work.ctxs.filter (fun x => x.index == 0) = [c1] ∧ c1.state ≠ .torn ∧ c1.destroyer = none ∧ s1.takeoverRuns = false ∧ c1.cause ≠ none
    ∧ s2.work.ctxs.filter (fun x => x.index == 0) = [ctxG] ∧ ctxG.cause = none ∧ s2.takeoverRuns = false ∧ TearCause.pickFault ≠ .csRange
    ∧ s3.takeoverRuns = true ∧ s1.sub? 7 = some u := by decide +kernel
theorem wit_PickIssued_1 :
    let d : Pick := { oTier := 2, oFmt := 0xB }
    let bad : Pick := { oTier := 3, layerId := 7 }
    let g : RowGroup := { firstRow := 0, rowCount := 1, firstPane := 0, paneCount := 1, tag := 0 }
    let w := fun (p : Pick) => ({ busy with mems := { busy.mems with cc := busy.mems.cc.writeBytes p.rgAddr (([g].take 64).flatMap RowGroup.bytes) } } : State)
    busy.ctxAt 0 = some ctxG ∧ busy.mayIssue ctxG (.firmware d) = true ∧ busy.issuePick ctxG (.firmware d) 1 = some (firmwarePos, d)
    ∧ (w d).pickOk ctxG d ((w d).rowGroups d) (decide (firmwarePos ≠ firmwarePos)) = true
    ∧ busy.issuePick ctxG (.firmware bad) 1 = some (firmwarePos, bad)
    ∧ (w bad).pickOk ctxG bad ((w bad).rowGroups bad) (decide (firmwarePos ≠ firmwarePos)) = false ∧ busy.ctxAt 1 = some ctxR
    ∧ busy.mayIssue ctxR (.firmware d) = false := by decide +kernel
theorem wit_BoundaryOrder_1 :
    let p : Issued := { pick0 with phase := .pending }
    let q : Issued := { pick0 with id := 1, phase := .wideDue, pick := { pick0.pick with wideN := 0 } }
    let r : Issued := { pick0 with id := 2, phase := .replayDue }
    let r2 : Issued := { q with id := 2, phase := .wideReplayDue }
    let j : Issued := { pick0 with phase := .pending, id := 3, pick := { pick0.pick with wReuse := true } }
    let jw : Issued := { j with pick := { j.pick with waitEn := true, waitKnot := 4098, waitCount := 0xFFFFFFFF } }
    let s1 := withPicks [p, q, r] busy
    let s2 := withPicks [p, q] busy
    let s3 := withPicks [p] busy
    let s4 : State := { s1 with loom := { s1.loom with takeover := [3] } }
    let s5 := withPicks [p, r2] busy
    let on := fun (i : Issued) => ({ busy with loom := { busy.loom with issued := [i], nextId := 4, lastStart := some 2, active := { base := 9 } } } : State)
    let kn : State := { on jw with work := { (on jw).work with knots := [{ index := 4098, kind := .counter, owner := 0, count := 5 }] } }
    s1.loom.out = false ∧ s1.loom.takeover = [] ∧ s1.isReady bitLoom = true ∧ s1.joinedPick = none
    ∧ s1.loom.issued.find? (fun i => decide (i.phase = .replayDue ∨ i.phase = .wideReplayDue)) = some r ∧ s5.joinedPick = none
    ∧ s5.loom.issued.find? (fun i => decide (i.phase = .replayDue ∨ i.phase = .wideReplayDue)) = some r2 ∧ s5.ctxAt r2.ctx = some ctxG
    ∧ s5.widePickOk ctxG r2 = true ∧ s2.joinedPick = none ∧ s2.loom.issued.find? (fun i => decide (i.phase = .wideDue)) = some q
    ∧ (∀ x ∈ s2.loom.issued, x.phase ≠ .replayDue ∧ x.phase ≠ .wideReplayDue) ∧ s2.widePickOk ctxG q = true ∧ s3.joinedPick = none
    ∧ s3.nextPick = some p ∧ (∀ x ∈ s3.loom.issued, x.phase ≠ .replayDue ∧ x.phase ≠ .wideDue ∧ x.phase ≠ .wideReplayDue) ∧ s4.loom.takeover ≠ []
    ∧ (on j).joinedPick = some j ∧ (on j).startable j = true ∧ kn.joinedPick = some jw ∧ kn.startable jw = false := by decide +kernel
theorem wit_PickChecked_1 :
    let s := withPicks [pick0] busy
    let m0 : Issued := { pick0 with pick := { pick0.pick with rows := 1 } }
    let sm := withPicks [m0] busy
    let f : ArrayFault := { pane := 0, row := 0, col := 5, value := 1 }
    let sd := withPicks [pick0] (busyIn [{ ctxG with cause := some .pickFault }])
    let gi : Issued := { pick0 with pick := { pick0.pick with aMode := 2, rows := 1, aBase := 0x17FFE0, aRStride := 32, idxAddr := 64 } }
    let sg : State := { (withPicks [gi] busy) with mems := { busy.mems with cc := [(64, 1)] } }
    let sn := withPicks [{ gi with pick := { gi.pick with aBase := 0 } }] busy
    s.loom.issued.find? (fun x => x.id == 0 && decide (x.phase = .running ∨ x.phase = .widening)) = some pick0 ∧ pick0.phase = .running
    ∧ s.doomed 0 = false ∧ pick0.pick.wideAddr = 0 ∧ (∀ r < pick0.pick.rows, s.gatherBad pick0.pick r = false)
    ∧ s.mismatched pick0.pick pick0.weights (s.inputFn pick0.pick) [] = [] ∧ sm.doomed 0 = false
    ∧ (∀ r < m0.pick.rows, sm.gatherBad m0.pick r = false) ∧ sm.mismatched m0.pick m0.weights (sm.inputFn m0.pick) [f] = [0]
    ∧ (nub ((sm.loom.mismatches.filter fun m => m.1 == sm.physCol 0 && decide (sm.loom.checked + 1 < m.2.2 + 1048576)).map fun m => m.2.1)).length < 3
    ∧ m0.replays = 0 ∧ sd.doomed 0 = true ∧ sg.gatherBad gi.pick 0 = true ∧ 0 < gi.pick.rows ∧ sn.gatherBad { gi.pick with aBase := 0 } 0 = false := by decide +kernel
theorem wit_WiderRunEnds_1 :
    let w : Issued := { pick0 with phase := .widening, pick := { pick0.pick with wideN := 0 } }
    let s := withPicks [w] busy
    let sd := withPicks [w] (busyIn [{ ctxG with cause := some .pickFault }])
    s.loom.issued.find? (fun x => x.id == 0 && decide (x.phase = .widening)) = some w ∧ s.ctxAt 0 = some ctxG ∧ ctxG.cause = none
    ∧ sd.ctxAt 0 = some { ctxG with cause := some .pickFault } := by decide +kernel
theorem wit_StagingStages_1 :
    let s := busy
    let s2 := withPicks [pick0] busy
    let hm : Home := { objId := mkObj 5 9, lengthM1 := 0, tier := .hbm, destTier := .hbm, addr := 65536 }
    let sw : State := { busy with tiers := { busy.tiers with homes := [hm], bytes := [(mkObj 5 9, [1, 2])] } }
    let pc : WindowPiece := { row := 0, col := 1, off := 0, objOff := 0, len := 0 }
    s.ctxAt 0 = some ctxG ∧ s.ctxImage ctxG = some auxImage ∧ ctxG.slot ≠ none ∧ auxImage.posOfSet 1 = some 1 ∧ s.maySet ctxG auxImage 1 1 = true
    ∧ s.pinnable auxImage.objId = true ∧ (∀ h, s.home? auxImage.objId = some h → h.sealedObj = true) ∧ pick0 ∈ s2.loom.issued
    ∧ weightsMeet pick0.pick.wAddr pick0.pick.weightBytes (((auxImage.desc[1]?).getD ({} : Pick)).wAddr + ctxG.tb) ((auxImage.desc[1]?).getD ({} : Pick)).weightBytes = true
    ∧ sw.home? hm.objId = some hm ∧ hm.pinnable = true ∧ sw.windowBefore ctxG hm.objId = true ∧ pc.off + pc.len ≤ auxImage.header.sramFootprint := by decide +kernel
theorem wit_ColumnTakeoverKeepsContents_1 :
    let s : State := { busy with loom := { busy.loom with takeover := [5], retired := [64] }, mems := { busy.mems with tile := [(5 * 0x180000 + 7, 1), (63 * 0x180000 + 8, 3), ((66 * 63 + 6) * 0x180000 + 9, 2)] } }
    s.loom.takeover = [5] ∧ s.loom.retired.length ≤ 1 ∧ 5 < 66 ∧ 5 ∉ s.loom.retired ∧ s.mems.tile.wf = true := by decide +kernel

/-! ### Reports and integrity -/

/-- A sled with a graft job, a context and a home to be asked about. -/
def known : State :=
  { up with work := { up.work with ctxs := [{ index := 3, gen := 1, service := false, model := 0 }] }
            tiers := { up.tiers with homes := [{ objId := 0x5000000000000001 }] }
            grafts := { up.grafts with list := [{ index := 1, gen := 1 }] } }
/-- A CE of a tile column. -/
def ce : ErrEvent := { cls := .ce, unitType := unitColumn, unitIndex := 65, addr := 9, source := 3 }
/-- The record of such a CE. -/
def ceRec : ErrRec := newRecord [] 0 1 ce
/-- The sled with records in handling. -/
def logged (l : List ErrRec) (s : State) : State := { s with integ := { s.integ with log := l, nextSeq := l.length } }
/-- A log without room for a CE. -/
def full : State := logged (List.replicate 65520 { ceRec with key := [1, 2, 3, 4, 5], unitType := 0 }) up
theorem wit_Reports_1 :
    let u := sub7 { opcode := 4, handleA := mkQueueHandle 1 3, length := 64 }
    let c := sub7 { opcode := 0x70, arg0 := 5, length := 32 }
    let x := sub7 { opcode := 0x6B, handleA := mkHandle 1 kindContext 3, length := 64 }
    let o := sub7 { opcode := 0x61, arg0 := 0x5000000000000001, length := 64 }
    let g := sub7 { opcode := 0x48, handleA := mkHandle 1 kindGraft 1, length := 64 }
    Begins (wait u.entry known) 7 4 u ∧ 64 ≤ u.entry.length.toNat ∧ known.queueOf? u.entry.handleA = some (known.queue 3) ∧ Reaches u 64 true
    ∧ Begins (wait c.entry known) 7 0x70 c ∧ (known.client? 5).isSome = true ∧ Reaches c 32 true ∧ Begins (wait x.entry known) 7 0x6B x
    ∧ (known.ctx? x.entry.handleA).isSome = true ∧ Begins (wait o.entry known) 7 0x61 o ∧ (known.home? o.entry.arg0).isSome = true
    ∧ Begins (wait g.entry known) 7 0x48 g ∧ (known.graft? g.entry.handleA).isSome = true := by decide +kernel
theorem wit_Reports_2 :
    let u := box7 { opcode := 4, handleA := mkQueueHandle 1 3, length := 64, addr := 0xFB8 }
    Begins (waitBox u.entry known) 7 4 u ∧ 64 ≤ u.entry.length.toNat ∧ known.queueOf? u.entry.handleA = some (known.queue 3) ∧ Reaches u 64 false := by decide +kernel
theorem wit_RemoteAccessErrors_1 :
    let v := fun (op : BitVec 8) => sub7 { opcode := op.setWidth _, length := 64, handleA := mkQueueHandle 1 3 }
    let w := fun (op : BitVec 8) => waitSub (v op) up
    (v 1).inSlot = false ∧ Begins (w 1) 7 1 (v 1) ∧ Begins (w 0x11) 7 0x11 (v 0x11) ∧ Begins (w 0x14) 7 0x14 (v 0x14)
    ∧ Begins (w 0x20) 7 0x20 (v 0x20) ∧ Begins (w 0x24) 7 0x24 (v 0x24) ∧ Begins (w 0x30) 7 0x30 (v 0x30) ∧ Begins (w 0x44) 7 0x44 (v 0x44)
    ∧ Begins (w 4) 7 4 (v 4) ∧ 64 ≤ (v 4).entry.length.toNat ∧ ((w 4).queueOf? (v 4).entry.handleA).isSome = true ∧ (v 4).preset = [] := by decide +kernel
theorem wit_RemoteAccessErrors_2 :
    let u := sub7 {}
    let v : Sub := { u with sid := 8 }
    let s := waitSub v (waitSub u up)
    s.sub? 7 = some u ∧ u.due = none ∧ (s.conn? (s.connOf u)).map (·.state) = some ConnState.opened ∧ s.sub? 8 = some v ∧ v.due = none
    ∧ s.onConn (s.connOf u) v = true ∧ (s.sub? 5).map (fun v => s.onConn (s.connOf u) v) = some false ∧ v.preset = [] := by decide +kernel
theorem wit_ProtectedWords_1 :
    let s : State := { up with integ := { up.integ with flips := [(1, 4, [70])] } }
    memBytes .hbm ≤ hbmBytes ∧ 4224 * tileBytes - 1 < memBytes .tile ∧ flipMore (s.flipsOf (memCode .tile) (39 / 8)) [70] = []
    ∧ flipMore (s.flipsOf (memCode .tile) (39 / 8)) [] = [70] ∧ flipMore (s.flipsOf (memCode .tile) (32 / 8)) [0] = [70, 0] := by decide +kernel
theorem wit_ProtectedWords_2 :
    let s : State := { up with integ := { up.integ with flips := [(2, 1, [3])] }, mems := { up.mems with cc := [(7, 1), (24, 9)] } }
    MemoriesCanonical s ∧ 12 / 8 * 8 + 8 * 2 ≤ memBytes .cc ∧ memBytes .cc < (memBytes .cc - 1) / 8 * 8 + 8 * 2 := by decide +kernel
theorem wit_ProtectedWords_3 :
    let s : State := { up with integ := { up.integ with flips := [(1, 4, [3])] }, mems := { up.mems with tile := [(31, 1), (33, 2), (38, 9)] } }
    let f : State := { up with tiers := { up.tiers with refilling := some 0 } }
    MemoriesCanonical s ∧ 36 < memBytes .tile ∧ flipMore (s.flipsOf (memCode .tile) (36 / 8)) [3] = [] ∧ 1 + ([5, 6] : Buf).length ≤ 8
    ∧ 3 < memBytes .hbm ∧ f.unfilled (3 / 8 * 8) = true ∧ s.unfilled 4096 = false := by decide +kernel
theorem wit_ProtectedWords_4 :
    let s : State := { up with integ := { up.integ with flips := [(2, 1, [3])] }, mems := { up.mems with cc := [(7, 1), (9, 4), (16, 9)] } }
    MemoriesCanonical s ∧ 15 < memBytes .cc ∧ flipMore (s.flipsOf (memCode .cc) (15 / 8)) [] = [3] := by decide +kernel
theorem wit_RakeAndSelfTests_1 :
    let u := sub7 { opcode := 0xEA, arg0 := 2592000, arg1 := 60 }
    let v := sub7 { opcode := 0xEA, arg0 := 3599, arg1 := 0 }
    let s : State := { up with integ := { up.integ with hbmNext := hbmBytes / 8 - 1 } }
    Begins (wait u.entry up) 7 0xEA u ∧ Begins (wait v.entry up) 7 0xEA v ∧ s.integ.granules = [] ∧ s.integ.banks = []
    ∧ s.integ.hbmNext < hbmBytes / 8 ∧ s.flipsOf 0 s.integ.hbmNext = [] ∧ 63 < 64 := by decide +kernel
theorem wit_ErrorLog_1 :
    let s := logged [ceRec] up
    ce.cls = .ce ∧ (∃ r ∈ s.integ.log, r.takes ce = true) ∧ (∀ r ∈ up.integ.log, r.takes ce = false) ∧ up.integ.log.length < 65520 := by decide +kernel
theorem wit_ErrorLog_3 :
    let e : ErrEvent := { cls := .unitFail, unitType := unitLane, unitIndex := 3 }
    let f : ErrEvent := { cls := .deviceFatal, unitType := unitKnot, unitIndex := 4095 }
    e.cls = .unitFail ∧ e.unitType = unitLane ∧ (∀ r ∈ up.integ.log, r.takes e = false) ∧ up.integ.log.length < 65536 ∧ fatalUnit f.unitType = true := by decide +kernel
theorem wit_ErrorLog_4 :
    let s0 := logged [ceRec, { ceRec with seq := 1 }, { ceRec with seq := 2 }] up
    let u := sub7 { opcode := 0x71, arg0 := 1, length := 127 }
    let v := sub7 { opcode := 0x71, arg0 := 4, length := 127 }
    let h := sub7 { opcode := 0x71, arg0 := 0x8000000000000001, length := 64 }
    let s1 : State := { s0 with integ := { s0.integ with history := [{ ceRec with cls := .unitFail }, { ceRec with cls := .unitFail, seq := 7 }] } }
    Begins (wait u.entry s0) 7 0x71 u ∧ u.entry.arg0.toNat < 2 ^ 63 ∧ u.entry.arg0.toNat ≤ s0.integ.nextSeq ∧ Reaches u 64 true
    ∧ Begins (wait v.entry s0) 7 0x71 v ∧ s0.integ.nextSeq < v.entry.arg0.toNat ∧ Begins (wait h.entry s1) 7 0x71 h ∧ 2 ^ 63 ≤ h.entry.arg0.toNat
    ∧ s1.isReady bitSysregion = true ∧ Reaches h 64 true := by decide +kernel
theorem wit_RetireMemory_1 :
    let w := fun (a b : W64) => sub7 { opcode := 0xE9, arg0 := a, arg1 := b }
    let g := hbmBytes / granuleBytes - 1
    let s := up
    let s2 : State := { up with integ := { up.integ with granules := [systemBytes / granuleBytes], banks := [(23, 63)], pages := [383] } }
    let s3 : State := { up with integ := { up.integ with banks := (List.range 8).map fun i => (0, i), pages := List.range 32 } }
    let at_ := fun (x : State) (u : Sub) => waitSub u x
    (let u := w 0 (BitVec.ofNat 64 (hbmBytes - 1)); Begins (at_ s u) 7 0xE9 u ∧ systemBytes ≤ u.entry.arg1.toNat ∧ u.entry.arg1.toNat < hbmBytes
    ∧ s.granuleRetired g = false ∧ s.integ.granules.length < 65536) ∧ s2.granuleRetired (systemBytes / granuleBytes) = true
    ∧ Begins (at_ s2 (w 0 (BitVec.ofNat 64 systemBytes))) 7 0xE9 (w 0 (BitVec.ofNat 64 systemBytes))
    ∧ Begins (at_ s (w 0 (BitVec.ofNat 64 (systemBytes - 1)))) 7 0xE9 (w 0 (BitVec.ofNat 64 (systemBytes - 1)))
    ∧ Begins (at_ s (w 1 (256 * 23 + 63))) 7 0xE9 (w 1 (256 * 23 + 63)) ∧ s2.integ.banks.contains (23, 63) = true
    ∧ s.integ.banks.contains (23, 63) = false ∧ s.integ.banks.length < 8 ∧ s3.integ.banks.contains (23, 63) = false ∧ 8 ≤ s3.integ.banks.length
    ∧ s2.integ.pages.contains 383 = true ∧ s.integ.pages.contains 383 = false ∧ 32 ≤ s3.integ.pages.length ∧ s3.integ.pages.contains 383 = false := by decide +kernel
theorem wit_ErrorLog_2 : (∀ r ∈ full.integ.log, r.takes ce = false) ∧ 65520 ≤ full.integ.log.length := by
  have h : full.integ.log = List.replicate 65520 { ceRec with key := [1, 2, 3, 4, 5], unitType := 0 } := by simp only [full, logged]
  rw [h]
  refine ⟨fun r hr => ?_, Nat.le_of_eq List.length_replicate.symm⟩
  rw [(List.mem_replicate.1 hr).2]; decide
/-- The sled with as many granules retired as it can. -/
def spent : State := { up with integ := { up.integ with granules := List.replicate 65536 0 } }
theorem wit_RetireMemory_2 : 65536 ≤ spent.integ.granules.length ∧ spent.granuleRetired (systemBytes / granuleBytes) = false := by
  have h : spent.integ.granules = List.replicate 65536 0 := by simp only [spent]
  have hb : spent.integ.banks = [] := by decide +kernel
  have hc : ¬ systemBytes / granuleBytes ∈ List.replicate 65536 0 := fun hm => absurd (List.mem_replicate.1 hm).2 (by decide)
  rw [State.granuleRetired, h, hb, List.length_replicate]
  exact ⟨Nat.le_refl _, by simp only [List.contains_eq_mem, decide_eq_false hc, List.any_nil, Bool.or_self]⟩

/-! ### Images and filters -/

/-- The header of an AUX package with 7 empty sections. -/
def auxHead : Buf := leBytes 128 (0x4A535449 + 2 ^ 32 + 4 * 2 ^ 48 + 7 * 2 ^ 64 + 2 ^ 80)
/-- Its section table. -/
def auxTable : Buf := [1, 2, 3, 4, 6, 7, 0x0B].flatMap fun k => leBytes 32 (k * 2 ^ 192 + 4096 * 2 ^ 64)
/-- That package, signed under key 2. -/
def auxPkg : Package := { header := auxHead, table := auxTable, signedBy := some 2 }
/-- The same with a SIGNATURE section of 100 bytes. -/
def longPkg : Package := { auxPkg with table := auxTable.take 192 ++ leBytes 32 (0x0B * 2 ^ 192 + 100 * 2 ^ 128 + 4096 * 2 ^ 64) }
/-- A sled with an image-signing key in slot 2. -/
def keyed : State := { up with sasel := { up.sasel with keys := [[], [], [5], []] } }
/-- LOAD_IMAGE as submission 7. -/
def load7 : Sub := sub7 { opcode := 0x20, length := 4196 }
/-- The object of image 3. -/
def image3 : W64 := mkObj 0 (3 + 256)
/-- An unloaded AUX image with one section of 70,000 bytes. -/
def im3 : Image := { index := 3, gen := 1, objId := image3, header := { cls := 4, hbmBytes := 70000 }
                     sections := [{ kind := 4, offset := 4096, length := 70000 }], raw := [(4, List.replicate 300 6)] }
/-- Its home, with a copy in HBM. -/
def home3 : Home := { objId := image3, lengthM1 := 1151, sealedObj := true, hbmCopy := true, addr := 4096 * 65536 }
/-- A sled that holds an image and its binding. -/
def imaged (im : Image) (ms : List Model) : State :=
  { up with img := { up.img with images := [im], models := ms }, tiers := { up.tiers with homes := [home3] } }
/-- A model of it. -/
def model0 : Model := { index := 0, gen := 1, image := h kindImage 3, hbmBase := 4096 * 65536 }
theorem wit_LoadImageStores_1 :
    let s := wait load7.entry keyed
    Begins s 7 0x20 load7 ∧ (load7.readB (some auxPkg.header)).isSome = true ∧ pkgOk auxPkg load7.entry.length.toNat = true
    ∧ s.imageSigned auxPkg = true ∧ lowestFree (s.img.images.map (·.index)) 256 = some 0 ∧ s.dirRoom 1 = true
    ∧ (pkgImage auxPkg (parseImageHeader auxHead) (parseSections auxTable (parseImageHeader auxHead).sections)).extents = 0
    ∧ s.capacityOk (objectChannels (imageObj 0 1) true 0) = true ∧ (objectChannels (imageObj 0 1) true 0).any s.channelOut = false := by decide +kernel
theorem wit_LoadImageStores_2 :
    let s := wait load7.entry keyed
    Begins s 7 0x20 load7 ∧ (load7.readB (some [])).isSome = true ∧ pkgOk {} load7.entry.length.toNat = false
    ∧ pkgOk auxPkg load7.entry.length.toNat = true ∧ s.imageSigned { auxPkg with signedBy := some 3 } = false := by decide +kernel
theorem wit_UnloadImageFrees_1 :
    let u := sub7 { opcode := 0x21, handleA := h kindImage 3 }
    let im := { im3 with releasedAt := some 8 }
    let s := wait u.entry (imaged im [model0])
    let s2 := wait u.entry (imaged im [])
    Begins s 7 0x21 u ∧ s.image? u.entry.handleA = some im ∧ im.releasedAt.isSome = true ∧ s.bindings im ≠ [] ∧ Begins s2 7 0x21 u
    ∧ s2.image? u.entry.handleA = some im ∧ s2.bindings im = [] := by decide +kernel
theorem wit_BindAndUnbind_1 :
    let u := sub7 { opcode := 0x22, handleA := h kindImage 3, arg0 := 0 }
    let s := wait u.entry (imaged im3 [])
    let s2 := wait u.entry (imaged { im3 with damaged := true } [])
    let m : Model := { index := 0, gen := 1, image := u.entry.handleA, kvPages := 0, binder := some 7 }
    let s3 := wait u.entry (imaged im3 ((List.range 64).map fun i => { model0 with index := i }))
    Begins s 7 0x22 u ∧ s.image? u.entry.handleA = some im3 ∧ s.bindErrs im3 0 = [] ∧ (s.placeBinding im3 m 7).isSome = true ∧ Begins s2 7 0x22 u
    ∧ s2.image? u.entry.handleA = some { im3 with damaged := true } ∧ s2.bindErrs { im3 with damaged := true } 0 = [.damaged]
    ∧ (s2.placeBinding { im3 with damaged := true } m 7).isSome = true ∧ Begins s3 7 0x22 u ∧ s3.image? u.entry.handleA = some im3
    ∧ im3.boundsOk = true ∧ im3.auxOk = true ∧ im3.gapOk = true ∧ 64 ≤ s3.img.models.length
    ∧ Begins (wait { u.entry with opcode := 0x23 } up) 7 0x23 (sub7 { u.entry with opcode := 0x23 }) := by decide +kernel
theorem wit_FiltersLoadAndGo_2 :
    let u := sub7 { opcode := 0x25, handleA := h kindFilter 1 }
    let s := wait u.entry { up with img := { up.img with filters := [{ index := 1, gen := 1, words := [], argLen := 0, releasedAt := some 6 }, { index := 2, gen := 1, words := [], argLen := 0 }], models := [model0], images := [im3] } }
    let l : List FilterWord := [0x03000001, 0x3F000000]
    Begins s 7 0x25 u ∧ (∀ m ∈ s.img.models, m.releasedAt = none) ∧ (∀ im ∈ s.img.images, im.releasedAt = none) ∧ filterValid 256 l = true := by decide +kernel
theorem wit_ExtentFetch_1 :
    let m := { model0 with binder := some 7 }
    let f := imaged im3 [m]
    let s := { f with tiers := { f.tiers with fetches := [{ objId := image3, extent := 0, waiters := [7] }] } }
    let bad : MapEntry := { obj := image3, extent := 0, channel := 9, die := 2, blockSet := 5, page := 7, pslc := false, damaged := true }
    let s2 := { s with tiers := { s.tiers with homes := [{ home3 with hbmCopy := false }] }, flash := { s.flash with map := [bad] } }
    let good : State := { s with flash := { s.flash with map := [{ bad with damaged := false }], pages := [{ channel := 9, die := 2, blockSet := 5, page := 7, obj := image3, extent := 0, wseq := 0, data := [1, 2, 3] }] } }
    s.home? image3 = some home3 ∧ (∃ f ∈ s.tiers.fetches.take 1024, f.objId = image3 ∧ f.extent = 0) ∧ (s.readExtent [] image3 0).1 = some []
    ∧ s2.home? image3 = some { home3 with hbmCopy := false } ∧ (∃ f ∈ s2.tiers.fetches.take 1024, f.objId = image3 ∧ f.extent = 0)
    ∧ (s2.readExtent [] image3 0).1 = none ∧ ({ home3 with hbmCopy := false } : Home).hbmCopy = false ∧ good.home? image3 = some home3
    ∧ good.entry? image3 0 = some { bad with damaged := false } ∧ good.channelOut 9 = false ∧ ladderStep [(image3, 0, 6)] image3 0 ≤ 6
    ∧ (∀ f ∈ s.tiers.fetches.take 1024, ¬ (f.objId = image3 ∧ f.extent = 1)) := by decide +kernel
/-- A filter package that passes every record, without its digest. -/
def passHead : Buf := leBytes 4 0x54464C46 ++ leBytes 2 2 ++ leBytes 2 3 ++ List.replicate 24 0 ++ [1, 0, 0, 3, 0, 0, 0, 0x3F]
/-- The package. -/
def passPkg : Buf := passHead ++ sha3 passHead
theorem passPkg_length : passPkg.length = 72 := by rw [passPkg, List.length_append, sha3_length]; rfl
theorem wit_FiltersLoadAndGo_1 : Begins (wait { opcode := 0x24, length := 72 } up) 7 0x24 (sub7 { opcode := 0x24, length := 72 })
    ∧ (sub7 { opcode := 0x24, length := 72 }).readB (some passPkg) = some passPkg ∧ (parseFilter passPkg 72).2.2 = true
    ∧ filterValid (parseFilter passPkg 72).1 (parseFilter passPkg 72).2.1 = true ∧ lowestFree (up.img.filters.map (·.index)) 1024 = some 0 := by
  refine ⟨by decide +kernel, ?_, ?_, ?_, by decide +kernel⟩
  · have h := slice_all passPkg
    rw [passPkg_length] at h
    exact congrArg some h
  · have h1 : Buf.le passPkg 0 4 = 0x54464C46 := by rfl
    have h2 : Buf.slice passPkg 8 24 = List.replicate 24 0 := by rfl
    have h3 : Buf.le passPkg 4 2 = 2 := by rfl
    have h4 : Buf.slice passPkg 0 40 = passHead := by rfl
    have h5 : Buf.slice passPkg 40 32 = sha3 passHead := by
      have h := slice_append_right passHead (sha3 passHead)
      rw [sha3_length] at h
      exact h
    simp only [parseFilter, h1, h2, h3, h4, h5]
    decide
  · have h1 : (parseFilter passPkg 72).1 = 3 := by rfl
    have h2 : (parseFilter passPkg 72).2.1 = [0x03000001, 0x3F000000] := by rfl
    rw [h1, h2]
    decide +kernel

/-! ### Indexes -/

/-- A record. -/
def rec5 : Rec := { locator := 8, metaBytes := 0, vector := [1], partition := 7, channel := 9, sketch := 0 }
/-- A small index with segment 4 open and segment 5 sealed. -/
def index0 : Index :=
  { index := 0, gen := 1, params := { dim := 128, partitions := 1024 }, segCount := 1
    segments := [{ handle := h kindSegment 4 }, { handle := h kindSegment 5, number := some 0, recs := [rec5] }] }
/-- The same with three versions, segment 0 in versions 1 and 2. -/
def index3 : Index :=
  { index0 with
    segments := [{ handle := h kindSegment 4 }, { handle := h kindSegment 5, number := some 0, recs := [rec5], committed := true },
                 { handle := h kindSegment 6, number := some 1, recs := [{ rec5 with locator := 9 }], committed := true }]
    segCount := 2, current := 3
    versions := [{ number := 1, segments := [0, 1] }, { number := 2, segments := [0], pinned := true }, { number := 3, segments := [0] }] }
/-- A sled that holds an index. -/
def indexed (x : Index) : State := { up with idx := { up.idx with list := [x] } }
theorem wit_SegmentLife_1 :
    let o := sub7 { opcode := 0x13, handleA := h kindIndex 0 }
    let a := sub7 { opcode := 0x14, handleA := h kindIndex 0, handleB := h kindSegment 4, length := 0 }
    let a2 := sub7 { opcode := 0x14, handleA := h kindIndex 0, handleB := h kindSegment 5, length := 160 }
    let e := sub7 { opcode := 0x15, handleA := h kindIndex 0, handleB := h kindSegment 4 }
    let e2 := sub7 { opcode := 0x15, handleA := h kindIndex 0, handleB := h kindSegment 5 }
    let x := index0
    let s := indexed x
    let g4 : Segment := { handle := h kindSegment 4 }
    let g5 : Segment := { handle := h kindSegment 5, number := some 0, recs := [rec5] }
    s.index? (h kindIndex 0) = some x ∧ Begins (wait o.entry s) 7 0x13 o ∧ (x.segments.filter fun g => !g.committed).length < 64
    ∧ ((x.segments.filter fun g => !g.committed).filter fun g => g.number.isNone).length < 16
    ∧ lowestFree ((s.idx.list.flatMap (·.segments)).filterMap fun g => if g.committed then none else some (hIndex g.handle)) 4096 = some 0
    ∧ Begins (wait a.entry s) 7 0x14 a ∧ a.readB (some []) = some [] ∧ x.segment? a.entry.handleB = some g4
    ∧ s.appendErrs x (some g4) (x.insertRecs [] 0) 0 [] = [] ∧ Begins (wait a2.entry s) 7 0x14 a2
    ∧ (a2.readB (some (List.replicate 160 1))).isSome = true ∧ x.segment? a2.entry.handleB = some g5 ∧ g5.number.isSome = true
    ∧ Begins (wait e.entry s) 7 0x15 e ∧ x.segment? e.entry.handleB = some g4 ∧ g4.number = none ∧ x.segCount < 4294967296
    ∧ (wait e.entry s).dirRoom 1 = true ∧ (∀ r ∈ g4.recs, s.channelOut r.channel = false) ∧ Begins (wait e2.entry s) 7 0x15 e2 := by decide +kernel
theorem wit_CommitPublishes_1 :
    let c := sub7 { opcode := 0x16, handleA := h kindIndex 0, length := 20 }
    let k := sub7 { opcode := 0x17, handleA := h kindIndex 0, length := 32 }
    let x : Index := { index0 with versions := [{ number := 0, pinned := true }] }
    let s := wait c.entry (indexed x)
    let s2 := wait k.entry (indexed x)
    let b1 : Buf := leBytes 4 1 ++ List.replicate 12 0 ++ leBytes 4 (h kindSegment 5).toNat
    let b2 : Buf := List.replicate 32 0
    let b3 : Buf := List.replicate 8 0 ++ leBytes 4 1 ++ List.replicate 8 0
    let b4 : Buf := List.replicate 4 0 ++ leBytes 4 1 ++ List.replicate 24 0
    s.index? c.entry.handleA = some x ∧ x.plot = none ∧ x.releasedAt = none ∧ (∀ d ∈ x.newSlices {}, s2.sliceDamaged x d = false)
    ∧ s2.compactReads x {} = [] ∧ (∀ y ∈ s.idx.list, y.index = x.index ∨ y.handle = x.handle → y = x) ∧ (x.versions.map (·.number)).Nodup
    ∧ c.readB (some b1) = some b1 ∧ s.commitRuns c = false ∧ Begins s 7 0x16 c ∧ parseCommit b1 20 = some { added := [h kindSegment 5] }
    ∧ k.readB (some b2) = some b2 ∧ s2.commitRuns k = false ∧ Begins s2 7 0x17 k ∧ parseCommit b2 32 = some {}
    ∧ parseCommit b3 20 = some { replaced := [0] } ∧ parseCommit b4 32 = some { deleted := [0] } := by decide +kernel
theorem wit_PinsAndUnpins_1 :
    let p := fun (n : W64) => sub7 { opcode := 0x18, handleA := h kindIndex 0, arg0 := n }
    let q := fun (n : W64) => sub7 { opcode := 0x19, handleA := h kindIndex 0, arg0 := n }
    let x : Index := index3
    let f : Index := { x with current := 20, versions := { number := 20 } :: (List.range 16).map fun i => { number := i + 1, pinned := true } }
    let sp := fun n => wait (p n).entry (indexed x)
    let sq := fun n => wait (q n).entry (indexed x)
    let sf := wait (p 20).entry (indexed f)
    let x1 : Index := { x with versions := x.versions.drop 1 }
    let sg := fun (u : Sub) => wait u.entry (indexed x1)
    (sp 3).index? (h kindIndex 0) = some x ∧ x.plot = none ∧ Begins (sp 3) 7 0x18 (p 3) ∧ x.current = 3
    ∧ x.version? 3 = some { number := 3, segments := [0] } ∧ (x.versions.filter (·.pinned)).length < 16 ∧ Begins sf 7 0x18 (p 20)
    ∧ sf.index? (h kindIndex 0) = some f ∧ f.version? 20 = some { number := 20 } ∧ (f.versions.filter (·.pinned)).length = 16
    ∧ Begins (sq 2) 7 0x19 (q 2) ∧ x.version? 2 = some { number := 2, segments := [0], pinned := true } ∧ x1.version? 1 = none
    ∧ Begins (sg (p 1)) 7 0x18 (p 1) ∧ Begins (sg (q 1)) 7 0x19 (q 1) ∧ Begins (sp 4) 7 0x18 (p 4) ∧ Begins (sq 0) 7 0x19 (q 0) := by decide +kernel
theorem wit_VersionsAndIndexesGo_1 :
    let x : Index := index3
    let s := indexed x
    let d := sub7 { opcode := 0x12, handleA := h kindIndex 0 }
    let y : Index := { index := 1, gen := 1 }
    let r : Index := { x with releasedAt := some 9 }
    let sd := wait d.entry { up with idx := { up.idx with list := [r, y] } }
    s.index? x.handle = some x ∧ x.plot = none ∧ (∀ y ∈ s.idx.list, y.index = x.index ∨ y.handle = x.handle → y = x)
    ∧ x.version? 3 = some { number := 3, segments := [0] } ∧ s.retained x { number := 3, segments := [0] } = true
    ∧ x.version? 1 = some { number := 1, segments := [0, 1] } ∧ s.retained x { number := 1, segments := [0, 1] } = false ∧ sd.index? r.handle = some r
    ∧ (∀ y ∈ sd.idx.list, y.index = r.index ∨ y.handle = r.handle → y = r) ∧ Begins sd 7 0x12 d ∧ d.entry.handleA = r.handle ∧ r.releasedAt = some 9
    ∧ sd.commitBefore r.handle 9 = false ∧ (∀ v ∈ r.versions, sd.jobOnVersion r v.number = false) ∧ h kindIndex 1 ≠ r.handle := by decide +kernel
theorem wit_CreateIndexDefines_2 :
    let u := sub7 { opcode := 0x11, length := 63 }
    let s := wait u.entry up
    Begins s 7 0x11 u ∧ (u.readB (some [0])).isSome = true ∧ u.entry.length.toNat ≠ 64 := by decide +kernel
theorem none_out {s : State} (h : s.fail.channelsOut = 0#128) (l : List Nat) : l.any s.channelOut = false := by
  simp only [State.channelOut, h, BitVec.getLsbD_zero, Bool.and_false, List.any_eq_false, Bool.false_eq_true, not_false_eq_true, implies_true]
/-- A centroid table of zeros, with its n_p. -/
def table0 : Buf := List.replicate 135168 0
theorem table0_at (i : Nat) : Buf.at table0 i = 0 := by
  simp only [table0, Buf.at, List.getD_eq_getElem?_getD, List.getElem?_replicate]
  split <;> rfl
/-- The parameter block of a small index: D 128, P 1,024, SCALE 1. -/
def params0 : Buf := [0, 0] ++ leBytes 2 128 ++ leBytes 4 1024 ++ leBytes 4 0x3F800000 ++ List.replicate 52 0
/-- CREATE_INDEX of it as submission 7. -/
def create7 : Sub := sub7 { opcode := 0x11, length := 64, arg1 := BitVec.ofNat 64 (135168 * 2 ^ 32), arg3 := BitVec.ofNat 64 (65536 * 2 ^ 32) }
theorem table0_norms (p : IndexParams) : normsOk p table0 = true := by
  have h0 : ∀ (l : List Nat) (i j : Nat), l.foldl (fun x k => x + int8 (Buf.at table0 (i + k)) * int8 (Buf.at table0 (j + k))) 0 = 0 := by
    intro l i j
    induction l with
    | nil => rfl
    | cons a l ih => simpa only [List.foldl_cons, table0_at, show int8 0 = 0 from rfl, Int.zero_mul, Int.zero_add] using ih
  simp only [normsOk, List.all_eq_true, decide_eq_true_eq]
  intro x hx
  obtain ⟨i, hi, hx⟩ := List.mem_iff_getElem.mp hx
  subst hx
  simp only [List.getElem_zipIdx, parseNorms, List.getElem_map, le_zero table0_at, sumSquares, dotAt, h0]
  rfl
theorem wit_CreateIndexDefines_1 : Begins (wait create7.entry up) 7 0x11 create7 ∧ create7.readB (some params0) = some params0 ∧ (parseIndexParams params0).2 = true
    ∧ create7.entry.length.toNat = 64 ∧ create7.entry.b2Len = (parseIndexParams params0).1.tableBytes ∧ create7.entry.b3Len = 512 * (parseIndexParams params0).1.dim
    ∧ lowestFree ((wait create7.entry up).idx.list.map (·.index)) 64 = some 0 := by decide +kernel
theorem wit_CreateIndexDefines_1b (id : W64) : normsOk (parseIndexParams params0).1 table0 = true
    ∧ (wait create7.entry up).sealedRoom id (parseIndexParams params0).1.tableBytes = true
    ∧ (wait create7.entry up).sealedOut id (parseIndexParams params0).1.tableBytes = false := by
  refine ⟨table0_norms _, ?_, none_out (by decide +kernel) _⟩
  have h1 : (wait create7.entry up).dirRoom 1 = true := by decide +kernel
  have h2 : (wait create7.entry up).poolRoom poolIndex (parseIndexParams params0).1.tableBytes = true := by decide +kernel
  have h3 : extentsOf (parseIndexParams params0).1.tableBytes = 3 := by decide +kernel
  rw [State.sealedRoom, h1, h2, h3, Bool.and_self, Bool.true_and]
  exact capacity_room fun c => Nat.le_trans (by simp [objectChannels, ceilDiv])
    (free_many (by decide +kernel) (by decide +kernel) (by decide +kernel) (by decide +kernel) c)
/-- An index whose first version is pinned. -/
def pinned0 : Index := { index0 with versions := [{ number := 0, pinned := true }] }
/-- The sled that holds it, with submission 7 waiting. -/
def publishing (op : Byte) : State := wait { opcode := op, handleA := h kindIndex 0, length := 20 } (indexed pinned0)
theorem publishing_room (op : Byte) (id : W64) : (publishing op).sealedRoom id 64 = true := by
  have h1 : (publishing op).dirRoom 1 = true := rfl
  have h2 : (publishing op).poolRoom poolIndex 64 = true := by
    show decide _ = true
    exact decide_eq_true (show 0 + granules 64 ≤ State.reset.tiers.budget.get poolIndex from by decide +kernel)
  rw [State.sealedRoom, h1, h2, Bool.and_self, Bool.true_and]
  have h3 : extentsOf 64 = 1 := by decide +kernel
  rw [h3]
  exact capacity_room fun c => Nat.le_trans (by simp [objectChannels, ceilDiv]) (free_many (s := publishing op) rfl rfl (fun u hu => (List.mem_append.1 hu).elim ((show ∀ u ∈ (indexed pinned0).sasel.subs, u.held = [] from by decide +kernel) u) fun hu => by rw [List.mem_singleton.1 hu]; rfl) (by rw [show (publishing op).flash.map = [] from rfl]; exact Nat.zero_le 1) c)
theorem publishing_in (op : Byte) (id : W64) : (publishing op).sealedOut id 64 = false := none_out rfl _
theorem wit_CommitPublishes_1b : (publishing 0x16).commitErrs pinned0 { added := [h kindSegment 5] } = [] := by
  have e : (pinned0.nextVersion { added := [h kindSegment 5] } (pinned0.inserted { added := [h kindSegment 5] } ++ [])).number = 1 := by decide +kernel
  have b : pinned0.dirBytes (pinned0.nextVersion { added := [h kindSegment 5] } (pinned0.inserted { added := [h kindSegment 5] } ++ [])) = 64 := by decide +kernel
  have l : (publishing 0x16).listErrs pinned0 { added := [h kindSegment 5] } = [] := by decide +kernel
  have g : (pinned0.nextVersion { added := [h kindSegment 5] } (pinned0.inserted { added := [h kindSegment 5] } ++ [])).segments.length = 1 := by decide +kernel
  simp only [State.commitErrs, State.versionErrs, l, e, b, g, publishing_room, publishing_in]
  decide +kernel
theorem wit_CommitPublishes_1c : (publishing 0x17).compactErrs pinned0 {} [] = [] := by
  have e : (pinned0.nextVersion {} []).number = 1 := by decide +kernel
  have b : pinned0.dirBytes (pinned0.nextVersion {} []) = 64 := by decide +kernel
  have l : (publishing 0x17).listErrs pinned0 {} = [] := by decide +kernel
  have g : (pinned0.nextVersion {} []).segments.length = 0 := by decide +kernel
  simp only [State.compactErrs, State.versionErrs, l, e, b, g, publishing_room, publishing_in]
  decide +kernel

/-! ### The answer path -/

/-- A committed record on channel 9, partition 7. -/
def rec9 : Rec := { locator := BitVec.ofNat 128 (0xF000000000000000 * 2 ^ 64 + 3 * 2 ^ 32 + 4), metaBytes := 5, vector := [1], partition := 7, channel := 9, sketch := 1 }
/-- An index with that record in version 1. -/
def index1 : Index :=
  { index := 0, gen := 1, params := { dim := 128, partitions := 1024, scale := 0x3F800000 }, segCount := 1, current := 1
    centroids := [1, 2], norms := [5]
    segments := [{ handle := h kindSegment 5, number := some 0, recs := [rec9, { rec9 with locator := 9, partition := 8 }], committed := true }]
    versions := [{ number := 1, segments := [0], pubSeq := 3 }] }
/-- An embedder's image. -/
def embImage : Image := { index := 3, gen := 1, header := { cls := 1, maxInput := 8 }, tokeniser := some { vocab := [[65], [66]] } }
/-- A generator's image. -/
def genImage : Image :=
  { index := 4, gen := 1, header := { cls := 3, maxSeq := 64, layers := 2, kvBytes := 4, vocab := 1 }
    tokeniser := some { vocab := [[65], [66]], endToken := 1 }, template := some [.query, .passages [] []] }
/-- A sled with the index and both models. -/
def asked : State :=
  { up with idx := { up.idx with list := [index1] }
            img := { up.img with images := [embImage, genImage]
                                 models := [{ index := 0, gen := 1, image := h kindImage 3 }, { index := 1, gen := 1, image := h kindImage 4, kvPages := 50 }] } }
/-- The same with a generator whose only token ends an answer. -/
def ending (s : State) : State :=
  { s with img := { s.img with images := [embImage, { genImage with tokeniser := some { vocab := [[65], [66]], endToken := 0 } }] } }
/-- The same with one extent of an object being staged. -/
def stagingOf (id : W64) (s : State) : State := { s with tiers := { s.tiers with fetches := [{ objId := id, extent := 0, waiters := [] }] } }
/-- ANSWER as submission 7, begun. -/
def ask7 : Sub := { sub7 { opcode := 0x10, handleA := h kindIndex 0, length := 128 } with running := true }
/-- A RETRIEVE block with a deadline in µs. -/
def block0 (us : Nat) : Buf := leBytes 128 (2 ^ 752 + 2 ^ 720 + us * 2 ^ 640 + (h kindModel 0).toNat * 2 ^ 512 + (h kindIndex 0).toNat * 2 ^ 448 + 96 * 2 ^ 384)
/-- A HANDOFF block. -/
def block2 : Buf :=
  leBytes 128 (2 * 2 ^ 768 + 2 ^ 752 + 4 * 2 ^ 736 + 2 ^ 720 + (h kindModel 1).toNat * 2 ^ 576 + (h kindModel 0).toNat * 2 ^ 512
    + (h kindIndex 0).toNat * 2 ^ 448 + 32 * 2 ^ 416 + 112 * 2 ^ 384 + c0.toNat * 2 ^ 352)
/-- The block of a request under way. -/
def ablock : AnswerBlock :=
  { k := 2, nprobe := 4, nExact := 10, nRerank := 5, widenMax := 2, indexHandle := h kindIndex 0, embedModel := h kindModel 0, queryLen := 1, resultLen := 4096
    resultAddr := 4096, tokenBudget := 10, maxNew := 4 }
/-- A candidate. -/
def cand9 : Cand := { locator := rec9.locator, slice := { segment := 0, partition := 7, channel := 9 }, ordinal := 0, dist := 1 }
/-- Submission 7's request at a stage. -/
def reqAt (st : Stage) : Req := { sid := 7, count := 0, block := ablock, stage := st, version := 1, query := [65], probes := List.range 16 }
/-- A sled with that request. -/
def asking (r : Req) : State :=
  waitSub ask7 { asked with ans := { asked.ans with reqs := [r], batches := [{ id := 2, index := h kindIndex 0, version := 1, embed := h kindModel 0, members := [7], isOpen := false }]
                                                    reservations := (List.range 3).map fun i => { sid := 7, pass := i, channels := [9], ns := 10 } } }
theorem wit_AnswerAdmission_1 :
    let s := waitSub ask7 asked
    let w := sub7 ask7.entry
    let q : Buf := [65]
    let b := parseAnswer (Buf.slice (block0 0) 0 128)
    let b1 := parseAnswer (Buf.slice (block0 1) 0 128)
    let b2 := parseAnswer (Buf.slice block2 0 128)
    let v := (index1.version? (s.reqVersion index1 7 b)).getD { number := 0 }
    Waits (waitSub w asked) 7 0x10 w ∧ s.sub? 7 = some ask7 ∧ ask7.entry.opcode = 0x10 ∧ ask7.due = none ∧ ask7.running = true ∧ ask7.preset = []
    ∧ (∀ r ∈ s.ans.reqs, r.sid ≠ 7) ∧ ask7.inSlot = false ∧ s.reqIndex 7 b.indexHandle = some index1 ∧ s.reqIndex 7 b2.indexHandle = some index1
    ∧ s.answerErrs ask7 b q = [] ∧ s.feasible (s.newReq ask7 b q index1 v) ask7.takeoverPs = true ∧ s.answerErrs ask7 b1 q = []
    ∧ s.feasible (s.newReq ask7 b1 q index1 v) ask7.takeoverPs = false ∧ s.answerErrs ask7 b2 q = []
    ∧ s.feasible (s.newReq ask7 b2 q index1 v) ask7.takeoverPs = true ∧ s.answerErrs ask7 b [0x80] = [.badField] ∧ b2.mode = modeHandoff
    ∧ v.number = 1 ∧ s.model? b2.genModel = some { index := 1, gen := 1, image := h kindImage 4, kvPages := 50 }
    ∧ s.modelImage b2.genModel = some genImage ∧ s.kvNeed b2 = 2 := by decide +kernel
theorem wit_EmbedAndProbe_1 :
    let r := reqAt .embed
    let s := asking r
    let b : Batch := { id := 2, index := h kindIndex 0, version := 1, embed := h kindModel 0, members := [7], isOpen := false }
    let sd : State := { s with img := { s.img with images := [{ embImage with damaged := true }, genImage] } }
    let p := { reqAt .probe with q := List.replicate 128 2 }
    let sp := asking p
    let sw := stagingOf index1.tableObj sp
    s.ans.batches.find? (fun b => b.id == 2 && !b.isOpen) = some b ∧ b.members = [7] ∧ s.req? 7 = some r ∧ r.stage = .embed
    ∧ s.index? r.block.indexHandle = some index1 ∧ s.modelImage r.block.embedModel = some embImage ∧ embImage.damaged = false ∧ r.stopped = false
    ∧ sd.ans.batches = s.ans.batches ∧ sd.req? 7 = some r ∧ sd.index? r.block.indexHandle = some index1
    ∧ sd.modelImage r.block.embedModel = some { embImage with damaged := true } ∧ sp.ans.batches.find? (fun b => b.id == 2) = some b
    ∧ sp.req? 7 = some p ∧ p.stage = .probe ∧ sp.index? p.block.indexHandle = some index1 ∧ sp.staging index1.tableObj = false
    ∧ sp.staging (index1.dirObj p.version) = false ∧ sp.pinnable index1.tableObj = true
    ∧ (sp.pin index1.tableObj).pinnable (index1.dirObj p.version) = true
    ∧ ((sp.pin index1.tableObj).pin (index1.dirObj p.version)).index? p.block.indexHandle = some index1 ∧ index1.tableDamaged = false
    ∧ p.stopped = false ∧ sw.ans.batches = sp.ans.batches ∧ sw.req? 7 = some p ∧ sw.index? p.block.indexHandle = some index1
    ∧ sw.staging index1.tableObj = true := by decide +kernel
theorem wit_SievePasses_1 :
    let r := reqAt .scan
    let s := asking r
    let v : Reservation := { sid := 7, pass := 0, channels := [9], ns := 10 }
    let run : SieveRun := { channel := 9, pass := 0, members := [7] }
    let t := { s with ans := { s.ans with sieves := [run] } }
    let x := { r with probes := [7] }
    let tx := asking x
    s.channelServed 9 = true ∧ (∀ k ∈ s.ans.sieves, k.channel ≠ 9) ∧ s.pickPass [] (s.headsOn 9) = some v
    ∧ t.ans.sieves.find? (fun v => v.channel == 9) = some run ∧ run.members = [7] ∧ (t.readRuns [] (nub (t.sieveReads r 0 9))).req? 7 = some r
    ∧ r.stage = .scan ∧ r.pass = run.pass ∧ tx.reqData x = some (index1, { number := 1, segments := [0], pubSeq := 3 })
    ∧ (tx.contribution x 0 9).list ≠ [] := by decide +kernel
theorem wit_MergeDecides_1 :
    let r0 := { reqAt .scan with pass := 0, probes := List.range 16 }
    let full : Contribution := { pass := 0, source := 9, hub := 1, list := [cand9, { cand9 with locator := 9, slice := { segment := 0, partition := 8, channel := 9 } }] }
    let x0 := { r0 with block := { ablock with nprobe := 16, k := 2 }, contribs := [full] }
    let x1 := { r0 with block := { ablock with nprobe := 1024, k := 3 }, contribs := [full] }
    let x2 := { r0 with block := { ablock with k := 3, widenMax := 0, nprobe := 16 }, contribs := [full] }
    let x3 := { r0 with block := { ablock with k := 3, nprobe := 16 }, contribs := [full] }
    let xn := { r0 with block := { ablock with nprobe := 16 } }
    (asking x0).req? 7 = some x0 ∧ (asking x0).index? x0.block.indexHandle = some index1 ∧ (asking xn).req? 7 = some xn
    ∧ (asking xn).markersIn xn = false ∧ (∀ x ∈ [x0, x1, x2, x3], (asking x).markersIn x = true)
    ∧ x0.block.k ≤ ((asking x0).dropDamaged x0).merge.length ∧ ((asking x1).dropDamaged x1).merge.length < x1.block.k
    ∧ x1.block.nprobe * 2 ^ x1.pass = index1.params.partitions ∧ ((asking x2).dropDamaged x2).merge.length < x2.block.k ∧ x2.pass = x2.block.widenMax
    ∧ x2.block.nprobe * 2 ^ x2.pass ≠ index1.params.partitions ∧ ((asking x3).dropDamaged x3).merge.length < x3.block.k ∧ x3.pass ≠ x3.block.widenMax := by decide +kernel
theorem wit_ExactToPack_1 :
    let e := { reqAt .exact with merged := [cand9], q := [3], block := { ablock with mode := 1 } }
    let f := { reqAt .fetch with merged := [cand9, { cand9 with locator := 9 }], block := { ablock with mode := 1 } }
    let k := { reqAt .rerank with merged := [{ cand9 with lost := true }, { cand9 with locator := 9 }], block := { ablock with mode := 1, rerankModel := h kindModel 0 } }
    let p := { reqAt .pack with merged := [{ cand9 with passage := [65, 66] }], block := { ablock with mode := 2, genModel := h kindModel 1 } }
    let se := asking e
    let sf := asking f
    let sk := asking k
    let sp := asking p
    se.req? 7 = some e ∧ (se.readRuns [] (se.vectorReads e e.merged)).index? e.block.indexHandle = some index1 ∧ e.stage = .exact ∧ e.awaiting = []
    ∧ sf.req? 7 = some f ∧ f.stage = .fetch ∧ (∀ c ∈ f.merged, c.member = sf.ownRank) ∧ sk.req? 7 = some k ∧ k.stage = .rerank
    ∧ sk.modelImage k.block.rerankModel = some embImage ∧ embImage.damaged = false ∧ sf.passageAt 7 9 = none ∧ 9 ∈ f.merged.map (·.locator)
    ∧ sp.req? 7 = some p ∧ p.stage = .pack := by decide +kernel
theorem wit_PrefillAndDecode_1 :
    let g := { ablock with mode := 2, genModel := h kindModel 1, handoffConn := c0 }
    let p := { reqAt .prefill with block := g, prompt := [0, 1, 0], pages := [3] }
    let pc := { p with block := { g with handoffConn := c2 } }
    let a := { p with block := { g with mode := 3 } }
    let d := { reqAt .decode with block := { g with mode := 3 } }
    let d2 := { reqAt .decode with block := { g with mode := 3, maxNew := 1 } }
    let im2 := { genImage with tokeniser := some { vocab := [[65], [66]], endToken := 0 } }
    let m : Model := { index := 1, gen := 1, image := h kindImage 4, kvPages := 50 }
    (asking p).req? 7 = some p ∧ (asking p).model? p.block.genModel = some m ∧ (asking p).modelImage p.block.genModel = some genImage
    ∧ genImage.damaged = false ∧ p.kvDamaged = false ∧ 0 = p.layersDone ∧ 0 + 1 ≠ genImage.header.layers
    ∧ (asking p).connOpen p.block.handoffConn = true ∧ p.block.mode = modeHandoff ∧ (asking pc).req? 7 = some pc
    ∧ (asking pc).connOpen pc.block.handoffConn = false ∧ (asking a).req? 7 = some a ∧ a.block.mode ≠ modeHandoff ∧ 1 ≠ p.layersDone
    ∧ (asking d).req? 7 = some d ∧ d.stage = .decode ∧ (asking d2).req? 7 = some d2 ∧ (ending (asking d)).req? 7 = some d
    ∧ (ending (asking d)).modelImage d.block.genModel = some im2 ∧ im2.damaged = false ∧ (∃ tk, genImage.tokeniser = some tk
    ∧ sampleToken d.block 0 ((List.range genImage.header.vocab).map (Config.logit genImage.digest [])) ≠ tk.endToken
    ∧ d.block.answerOff + (tk.bytes (sampleToken d.block 0 ((List.range genImage.header.vocab).map (Config.logit genImage.digest [])))).length ≤ d.block.resultLen
    ∧ d.genTokens.length + 1 < d.block.maxNew ∧ d2.block.maxNew = d2.genTokens.length + 1)
    ∧ sampleToken d.block 0 ((List.range im2.header.vocab).map (Config.logit im2.digest [])) = 0 := by decide +kernel
theorem wit_ResultsAndDeadlines_1 :
    let r := { reqAt .ret with merged := [cand9], sawDamaged := true, prompt := [1], block := { ablock with mode := 1 } }
    let u := { r with unacked := 2 }
    let uc := { u with block := { ablock with mode := modeHandoff, handoffConn := c2 } }
    let us := { ablock with deadlineUs := 9, mode := 3, genModel := h kindModel 1 }
    let x := { reqAt .exact with block := us, awaiting := [2], merged := [cand9] }
    let k := { reqAt .rerank with block := us }
    let p := { reqAt .prefill with block := us }
    let d := { reqAt .decode with block := us }
    let f := { reqAt .fetch with block := { us with rerankModel := 0 }, merged := [cand9] }
    let b := { reqAt .probe with block := us }
    let bs := { reqAt .scan with block := { us with strict := true } }
    (asking r).sub? 7 = some ask7 ∧ (asking r).req? 7 = some r ∧ r.stage = .ret ∧ r.unacked = 0 ∧ (asking u).req? 7 = some u ∧ u.unacked ≠ 0
    ∧ ¬ (u.block.mode = modeHandoff ∧ (asking u).connOpen u.block.handoffConn = false) ∧ (asking uc).req? 7 = some uc ∧ uc.unacked ≠ 0
    ∧ uc.block.mode = modeHandoff ∧ (asking uc).connOpen uc.block.handoffConn = false ∧ x.block.strict = false ∧ x.block.deadlineUs ≠ 0
    ∧ (asking x).req? 7 = some x ∧ (asking k).req? 7 = some k ∧ (asking p).req? 7 = some p ∧ (asking d).req? 7 = some d ∧ (asking f).req? 7 = some f
    ∧ f.block.rerankModel = 0 ∧ f.stopped = false ∧ (asking b).req? 7 = some b ∧ (asking bs).req? 7 = some bs ∧ bs.block.strict = true := by decide +kernel

/-! ### Embedding tables -/

/-- A sharded table of FP32 rows of 2 values; rank 3 keeps every second shard. -/
def tab : Table :=
  { index := 2, gen := 1, desc := { fmt := 0xC, dim := 2, rows := 100000, shards := 2, sharded := true }, keepers := [0, 3], current := 1, mapVersion := 4
    versions := [{ number := 1, pubSeq := some 3, servable := true }] }
/-- The home of a block of its version 1. -/
def tabHome (b : Nat) : Home := { objId := rowBlockObj 2 1 b, lengthM1 := 1023, tier := .hbm, destTier := .hbm, addr := 65536 }
/-- A sled that holds a table with the home of block 0. -/
def tabled (t : Table) : State :=
  { up with tables := { up.tables with list := [t] }
            tiers := { up.tiers with homes := [tabHome 0], bytes := [(rowBlockObj 2 1 0, [0, 0, 0x80, 0x3F, 0, 0, 0, 0x40, 0, 0, 0x40, 0x40])] } }
/-- A table's command as submission 7. -/
def tab7 (op : Byte) : Sub := sub7 { opcode := op, handleA := h kindTable 2 }
/-- TABLE_LOOKUP of it, bound to its version 1. -/
def lookup7 : Sub :=
  { sub7 { opcode := 0x32, handleA := h kindTable 2, length := 32, arg2 := BitVec.ofNat 64 (2 ^ 32), arg1 := BitVec.ofNat 64 (48 * 2 ^ 32) } with
    bound := some { version := 1, mapVersion := 4, exceptions := [] } }
/-- A replicated table with rows in block 0. -/
def tabRep : Table :=
  { tab with desc := { tab.desc with sharded := false, shards := 1 }, keepers := [0], versions := [{ number := 1, pubSeq := some 3, servable := true, loaded := [(0, [0, 0, 0x80, 0x3F, 0, 0, 0, 0x40])] }] }
/-- One lookup entry: bag, row, weight 1. -/
def entryBytes (bag row : Nat) : Buf := leBytes 16 (0x3F800000 * 2 ^ 96 + bag * 2 ^ 84 + row)
/-- A lookup under way. -/
def look7 : Lookup := { sid := 7, table := 2, version := 1, mapVersion := 4, bags := 2, entries := [{ weight := 0x3F800000, bag := 0, row := 5 }], awaiting := [3], sent := [(3, [0])] }
/-- A sled with a lookup. -/
def looking (l : Lookup) : State := let s := tabled tab; waitSub { tab7 0x32 with running := true } { s with tables := { s.tables with lookups := [l] } }
theorem wit_TablesComeAndGo_1 :
    let buf : Buf := leBytes 64 (0xC * 2 ^ 144 + 2 * 2 ^ 128 + 2 ^ 112 + 2 ^ 96 + 9 * 2 ^ 24)
    let u := sub7 { opcode := 0x30, length := 64 }
    let s := wait u.entry up
    let f := wait u.entry { up with tables := { up.tables with list := (List.range 256).map fun i => { index := i, gen := 1 } } }
    let v := fun (op : Byte) => wait (tab7 op).entry up
    Begins s 7 0x30 u ∧ u.readB (some buf) = some buf ∧ (parseTableDesc buf).ok = true ∧ u.entry.length.toNat = 64
    ∧ lowestFree (s.tables.list.map (·.index)) 256 = some 0 ∧ Begins f 7 0x30 u ∧ lowestFree (f.tables.list.map (·.index)) 256 = none
    ∧ (u.readB (some [])).isSome = true ∧ (parseTableDesc (List.replicate 64 0)).ok = false
    ∧ (∀ op ∈ [(0x31 : Byte), 0x36, 0x37, 0x35], Begins (v op) 7 op.toNat (tab7 op) ∧ (v op).table? (tab7 op).entry.handleA = none
    ∧ ((tab7 op).readB (some [])).isSome = true) := by decide +kernel
theorem wit_TablesComeAndGo_1s :
    let d := tab7 0x31
    let sd := wait d.entry (tabled tab)
    let sg := { sd with grafts := { sd.grafts with list := [{ index := 0, gen := 1, desc := { table := h kindTable 2 } }] } }
    let tj := { tab with held := [{ rank := 3, sid := 9, version := 1, mapVersion := 4, entries := [] }] }
    let sj := wait d.entry (tabled tj)
    let v := fun (op : Byte) => wait (tab7 op).entry up
    Begins sd 7 0x31 d ∧ sd.table? d.entry.handleA = some tab ∧ sd.graftOn tab.handle = false ∧ (∀ v ∈ tab.versions, sd.tableJob tab v.number = false)
    ∧ Begins sg 7 0x31 d ∧ sg.graftOn tab.handle = true ∧ sg.table? d.entry.handleA = some tab ∧ Begins sj 7 0x31 d
    ∧ sj.table? d.entry.handleA = some tj ∧ (∃ v ∈ tj.versions, sj.tableJob tj v.number = true) := by decide +kernel
theorem wit_TableLookups_1 :
    let u := lookup7
    let s := waitSub u (tabled tab)
    let r := waitSub u (tabled tabRep)
    let buf := entryBytes 0 0 ++ entryBytes 1 1
    let es := parseLookups buf 32
    let far := entryBytes 0 8192 ++ entryBytes 1 8193
    let fs := parseLookups far 32
    let q : SubLookup := { rank := 0, sid := 7, version := 1, mapVersion := 4, entries := es }
    let k : LookupBound := { version := 1, mapVersion := 4, exceptions := [] }
    Begins s 7 0x32 u ∧ u.readB (some buf) = some buf ∧ u.bound = some k ∧ s.table? u.entry.handleA = some tab ∧ s.tableAt 2 = some tab
    ∧ s.lookupErrs u tab es 2 0 = [] ∧ (∀ e ∈ es, k.server tab s.ownRank e.row = s.ownRank)
    ∧ (∀ e ∈ es, s.movedTo tab 1 (tab.desc.blockOf e.row) = none) ∧ s.canServe tab q = true ∧ u.readB (some far) = some far
    ∧ s.lookupErrs u tab fs 2 0 = [] ∧ 3 ≠ s.ownRank ∧ (∀ e ∈ fs, k.server tab s.ownRank e.row = 3) ∧ tab.desc.hotWindow = 0 ∧ Begins r 7 0x32 u
    ∧ r.table? u.entry.handleA = some tabRep ∧ r.tableAt 2 = some tabRep ∧ r.lookupErrs u tabRep es 2 0 = [] ∧ tabRep.desc.sharded = false
    ∧ (∀ x ∈ r.tables.lookups, x.sid ≠ 7) ∧ es.length = 2 := by decide +kernel
theorem wit_TableLookups_2 :
    let s := tabled tab
    let e : LookupEntry := { weight := 0x3F800000, bag := 0, row := 5 }
    let t2 := { tab with stubs := [{ version := 1, block := 0, rank := 3, mapVersion := 4 }] }
    let g := tabled t2
    let s2 : State := { g with tiers := { g.tiers with homes := [] } }
    let sr := tabled tabRep
    let p : Partials := { rank := 3, bags := [(0, [1, 2])], failed := [1] }
    let q : SubLookup := { rank := 3, sid := 9, version := 1, mapVersion := 4, entries := [e] }
    s.tableAt 2 = some tab ∧ tab.serves 1 = true ∧ tab.serves 2 = false ∧ tab.desc.sharded = true ∧ tab.mapVersion < 5 ∧ 4 ≤ tab.mapVersion
    ∧ s.movedTo tab 1 (tab.desc.blockOf e.row) = none ∧ s.canServe tab q = true ∧ sr.tableAt 2 = some tabRep ∧ tabRep.serves 1 = true
    ∧ tabRep.desc.sharded = false ∧ 3 ≠ sr.ownRank ∧ s2.tableAt 2 = some t2 ∧ t2.serves 1 = true ∧ 4 ≤ t2.mapVersion
    ∧ s2.movedTo t2 1 (t2.desc.blockOf e.row) = some 3 ∧ (∀ l ∈ s.tables.lookups, l.sid = 7 → p.rank ∉ l.awaiting)
    ∧ (looking look7).tables.lookups.find? (fun l => l.sid == 7 && l.awaiting.contains p.rank) = some look7
    ∧ (∀ k ∈ (looking look7).tables.lookups, k.sid = 7 → k = look7) := by decide +kernel
theorem wit_TableLookups_3 :
    let l := { look7 with awaiting := [], lostBags := [1], damagedBags := [1] }
    let u := { tab7 0x32 with running := true }
    (looking l).tables.lookups.find? (fun l => l.sid == 7) = some l ∧ (looking l).sub? 7 = some u ∧ (looking l).tableAt l.table = some tab
    ∧ u.due = none ∧ (looking look7).tables.lookups.find? (fun l => l.sid == 7) = some look7 := by decide +kernel
theorem wit_BagOrderFree_1 :
    let a : Partials := { rank := 3, bags := [(0, [0x3F800000])] }
    let b : Partials := { rank := 1, bags := [(0, [0x40000000])] }
    let l := { look7 with partials := [a, b] }
    l.partials.Perm [b, a] ∧ (l.partials.map (·.rank)).Nodup := by decide +kernel
theorem wit_RowUpdates_1 :
    let buf : Buf := leBytes 5 3 ++ [0] ++ List.replicate 10 0 ++ [1, 2, 3, 4, 5, 6, 7, 8]
    let far : Buf := leBytes 5 8192 ++ [0] ++ List.replicate 10 0 ++ [1, 2, 3, 4, 5, 6, 7, 8]
    let f := fun (n : W64) => sub7 { opcode := 0x33, handleA := h kindTable 2, length := 24, arg2 := n }
    let t3 := { tab with current := 3, versions := [{ number := 3 }] }
    let s := wait (f 1).entry (tabled tab)
    let ups : List RowUpd := [{ row := 3, replace := true, payload := [1, 2, 3, 4, 5, 6, 7, 8] }]
    let away : List RowUpd := [{ row := 8192, replace := true, payload := [1, 2, 3, 4, 5, 6, 7, 8] }]
    Begins s 7 0x33 (f 1) ∧ (f 1).readB (some buf) = some buf ∧ s.table? (f 1).entry.handleA = some tab ∧ tab.desc.sharded = true
    ∧ parseUpdates tab.desc 24 buf = some ups ∧ s.isReady bitTables = true ∧ 1 = tab.current
    ∧ (∀ x ∈ ups, tab.server (tab.desc.blockOf x.row) = s.ownRank) ∧ (f 1).readB (some far) = some far ∧ parseUpdates tab.desc 24 far = some away
    ∧ (∀ x ∈ away, tab.server (tab.desc.blockOf x.row) ≠ s.ownRank) ∧ Begins (wait (f 2).entry (tabled tab)) 7 0x33 (f 2)
    ∧ Begins (wait (f 2).entry (tabled t3)) 7 0x33 (f 2) ∧ (wait (f 2).entry (tabled t3)).table? (f 2).entry.handleA = some t3 := by decide +kernel
theorem wit_RowUpdates_2 :
    let s := tabled tab
    let ta := { tab with arrivals := [{ version := 1, block := 0, addr := 65536, bytes := [] }] }
    let sa := tabled ta
    let t2 := { tab with stubs := [{ version := 1, block := 0, rank := 3, mapVersion := 4 }] }
    let g2 := tabled t2
    let s2 : State := { g2 with tiers := { g2.tiers with homes := [] } }
    let sm := s.modHome (rowBlockObj 2 1 0) fun h => { h with inMotion := true }
    let sd := s.modHome (rowBlockObj 2 1 0) fun h => { h with damaged := true }
    s.tableAt 2 = some tab ∧ tab.desc.sharded = true ∧ 4 < tab.desc.rows ∧ tab.desc.blockOf 4 = 0 ∧ 2 ≠ tab.current ∧ 3 ≠ s.ownRank
    ∧ sa.tableAt 2 = some ta ∧ (ta.arrivals.any fun a => a.version == 1 && a.block == 0) = true ∧ s2.tableAt 2 = some t2 ∧ 1 = t2.current
    ∧ s2.movedTo t2 1 0 = some 3 ∧ tab.arrivals = [] ∧ s.movedTo tab 1 0 = none ∧ sm.movedTo tab 1 0 = none ∧ sd.movedTo tab 1 0 = none
    ∧ (s.home? (rowBlockObj 2 1 0)).map (fun h => (h.inMotion, h.damaged, h.tier)) = some (false, false, .hbm)
    ∧ (sm.home? (rowBlockObj 2 1 0)).map (·.inMotion) = some true
    ∧ (sd.home? (rowBlockObj 2 1 0)).map (fun h => (h.inMotion, h.damaged)) = some (false, true) := by decide +kernel
theorem wit_RowUpdates_2s :
    let s := tabled tab
    let t2 := { tab with stubs := [{ version := 1, block := 0, rank := 3, mapVersion := 4 }] }
    let tx := { tab with exceptions := [(0, 3)] }
    let gx := tabled tx
    let sx : State := { gx with tiers := { gx.tiers with homes := [] } }
    let sn : State := { s with tiers := { s.tiers with homes := [] } }
    let q : SubLookup := { rank := 4, sid := 9, version := 1, mapVersion := 4, entries := [{ weight := 0x3F800000, bag := 0, row := 5 }] }
    let th := { t2 with held := [q] }
    let gh := tabled th
    let sh : State := { gh with tiers := { gh.tiers with homes := [] } }
    sx.tableAt 2 = some tx ∧ sx.home? (rowBlockObj 2 1 0) = none ∧ sx.movedTo tx 1 0 = none ∧ tx.server 0 ≠ sx.ownRank ∧ sn.tableAt 2 = some tab
    ∧ sn.home? (rowBlockObj 2 1 0) = none ∧ sn.movedTo tab 1 0 = none ∧ tab.server 0 = sn.ownRank ∧ sh.tableAt 2 = some th
    ∧ th.held.find? (fun q => q.rank == 4 && q.sid == 9) = some q
    ∧ (∀ e ∈ q.entries, (assocGet e.row [((5 : Nat), (none : Option Buf))]).isSome = true) ∧ sh.canServe th q = true := by decide +kernel
theorem wit_Migrations_1 :
    let f := fun (d : W64) => sub7 { opcode := 0x34, handleA := h kindTable 2, arg1 := d }
    let t2 := { tab with exceptions := [(0, 3)] }
    let s := wait (f 0).entry (tabled tab)
    let s2 := wait (f 0).entry (tabled t2)
    Begins s 7 0x34 (f 0) ∧ s.table? (f 0).entry.handleA = some tab ∧ tab.desc.sharded = true ∧ 0 < tab.desc.blocks ∧ s.ranks.contains 0 = true
    ∧ tab.keeper 0 = s.ownRank ∧ s.home? (rowBlockObj 2 1 0) = some (tabHome 0) ∧ (tabHome 0).damaged = false ∧ s.migrateErrs tab 0 = []
    ∧ tab.server 0 = s.ownRank ∧ tab.server 0 = 0 ∧ Begins s2 7 0x34 (f 0) ∧ s2.table? (f 0).entry.handleA = some t2
    ∧ s2.home? (rowBlockObj 2 1 0) = some (tabHome 0) ∧ s2.migrateErrs t2 0 = [] ∧ t2.server 0 ≠ 0 ∧ s2.ownRank = 0 ∧ t2.keeper 0 = 0 := by decide +kernel
theorem wit_Migrations_2 :
    let s := tabled tab
    let t2 := { tab with stubs := [{ version := 1, block := 5, rank := 3, mapVersion := 2 }, { version := 1, block := 6, rank := 3, mapVersion := 9, acked := [0] }] }
    let g := tabled t2
    let hm : Home := { tabHome 0 with inMotion := true, destTier := .peer, dest := BitVec.ofNat 64 (3 * 2 ^ 48) }
    let s2 := { g with tiers := { g.tiers with homes := [hm] } }
    s.tableAt 2 = some tab ∧ tab.desc.sharded = true ∧ 1 < tab.desc.blocks ∧ tab.keeper 1 ≠ s.ownRank ∧ tab.server 1 ≠ 0 ∧ tab.server 1 = 3
    ∧ tab.keeper 0 = s.ownRank ∧ s.home? (rowBlockObj 2 tab.current 0) = some (tabHome 0) ∧ (tabHome 0).movesTo s.ownRank 3 = false
    ∧ s2.tableAt 2 = some t2 ∧ t2.keeper 0 = s2.ownRank ∧ s2.home? (rowBlockObj 2 t2.current 0) = some hm ∧ hm.movesTo s2.ownRank 3 = true := by decide +kernel
theorem wit_TablePublish_1 :
    let u := sub7 { opcode := 0x35, handleA := h kindTable 2, length := 16, arg2 := 2, arg3 := 1 }
    let w := sub7 { opcode := 0x35, handleA := h kindTable 2, length := 16, arg2 := 3, arg3 := 1 }
    let v2 : TableVersion := { number := 2, loaded := [(0, [1])] }
    let tl := { tab with versions := tab.versions ++ [v2] }
    let g := tabled tl
    let held : State := { g with flash := { g.flash with map := [{ obj := rowBlockObj 2 2 0, extent := 0, channel := 3 }] }, tiers := { g.tiers with homes := g.tiers.homes ++ [{ objId := rowBlockObj 2 2 0, lengthM1 := 1023 }] } }
    let s := wait u.entry held
    let t4 := { tab with versions := [{ number := 1 }, { number := 0 }, { number := 5 }, { number := 6 }] }
    let s4 := wait u.entry (tabled t4)
    Begins s 7 0x35 u ∧ (u.readB (some [1, 2])).isSome = true ∧ s.table? u.entry.handleA = some tl ∧ u.entry.length.toNat % tl.desc.rowBytes = 0
    ∧ u.entry.arg2.toNat = tl.current + 1 ∧ 1 + 2 ≤ tl.desc.rows ∧ s.blocksHere tl 1 2 = [0] ∧ s.noStage tl 2 (some 7) [0] = false
    ∧ (∀ x ∈ s.blockExtents tl 2 [0], s.channelOut x.1 = false) ∧ 1 < 2 ∧ Begins s4 7 0x35 u ∧ s4.table? u.entry.handleA = some t4
    ∧ u.entry.arg2.toNat = t4.current + 1 ∧ s4.noStage t4 2 (some 7) (s4.blocksHere t4 1 2) = true ∧ Begins (wait w.entry (tabled tl)) 7 0x35 w
    ∧ w.entry.arg2.toNat ≠ tl.current + 1 := by decide +kernel
theorem wit_TablePublish_1s :
    let u := sub7 { opcode := 0x35, handleA := h kindTable 2, length := 16, arg2 := 2, arg3 := 1 }
    let p := tab7 0x36
    let v2 : TableVersion := { number := 2, loaded := [(0, [1])] }
    let tl := { tab with versions := tab.versions ++ [v2] }
    let g := tabled tl
    let held : State := { g with flash := { g.flash with map := [{ obj := rowBlockObj 2 2 0, extent := 0, channel := 3 }] }, tiers := { g.tiers with homes := g.tiers.homes ++ [{ objId := rowBlockObj 2 2 0, lengthM1 := 1023 }] } }
    let s := wait u.entry held
    let n := wait p.entry (tabled tab)
    let y := wait p.entry (tabled tl)
    let tq := { tl with publish := some { sid := 5, version := 2 } }
    let yq := wait p.entry (tabled tq)
    Begins n 7 0x36 p ∧ n.table? p.entry.handleA = some tab ∧ tab.version? 2 = none ∧ Begins y 7 0x36 p ∧ y.table? p.entry.handleA = some tl
    ∧ (tl.version? 2).isSome = true ∧ tl.publish = none ∧ Begins yq 7 0x36 p ∧ yq.table? p.entry.handleA = some tq ∧ tq.publish.isSome = true
    ∧ s.tableAt tl.index = some tl ∧ tl.version? 2 = some v2 := by decide +kernel
theorem wit_TablePublish_2 :
    let p : Publish := { sid := 7, version := 2 }
    let t2 := { tab with versions := tab.versions ++ [{ number := 2 }], publish := some p }
    let s := waitSub { tab7 0x36 with running := true } (tabled t2)
    let pc := { p with phase := .committed }
    let tc := { t2 with publish := some pc }
    let sc := waitSub { tab7 0x36 with running := true } (tabled tc)
    s.tableAt 2 = some t2 ∧ t2.publish = some p ∧ p.phase = .preparing ∧ (∀ r ∈ s.ranks, r = 0 ∨ r ∈ p.yes) ∧ 0 ∈ s.ranks ∧ 0 ≠ 3 ∧ 0 ∉ p.yes
    ∧ 3 ≠ s.ownRank ∧ (s.tableAt 5).bind (·.publish) = none ∧ (sc.tableAt 2).bind (·.publish) = some pc ∧ (s.tableAt 2).isSome = true
    ∧ s.tableAt 5 = none ∧ sc.tableAt 2 = some tc ∧ tc.publish = some pc ∧ pc.phase = .committed := by decide +kernel
theorem wit_TablePublish_3 :
    let v : TableVersion := { number := 2, votedFor := some 3 }
    let t2 := { tab with versions := tab.versions ++ [v] }
    let s := tabled t2
    let t1 := { tab with versions := [v] }
    let s1 := tabled t1
    let n := tabled tab
    let v0 : TableVersion := { number := 2 }
    let t0 := { tab with versions := tab.versions ++ [v0] }
    let s0 := tabled t0
    s.tableAt 2 = some t2 ∧ t2.version? 2 = some v ∧ v.pubSeq = none ∧ 2 = t2.current + 1 ∧ t2.publish = none ∧ v.votedFor = some 3
    ∧ n.tableAt 2 = some tab ∧ tab.version? 2 = none ∧ s0.tableAt 2 = some t0 ∧ t0.version? 2 = some v0 ∧ v0.pubSeq = none ∧ v0.votedFor = none
    ∧ t0.publish = none ∧ s1.tableAt 2 = some t1 ∧ t1.versions = [v] ∧ 3 ≠ s1.ownRank ∧ n.tableAt 2 = some tab
    ∧ tab.version? 1 = some { number := 1, pubSeq := some 3, servable := true } ∧ tab.versions = [{ number := 1, pubSeq := some 3, servable := true }] := by decide +kernel
theorem wit_TableUpkeep_1 :
    let s := tabled { tab with current := 2 }
    let t := { tab with current := 2 }
    let c := tab7 0x37
    let sc := wait c.entry (tabled tabRep)
    let g := tabled tab
    let sm := wait c.entry { g with flash := { g.flash with map := [{ obj := tableCkptObj 2 1 0, extent := 0, channel := 3 }, { obj := tableCkptObj 2 1 0, extent := parityBase, channel := 4 }] } }
    s.tableAt 2 = some t ∧ t.current < 3 ∧ 1 ≤ t.current ∧ 2 ≤ t.current ∧ s.tableAt 5 = none ∧ Begins sc 7 0x37 c
    ∧ sc.table? c.entry.handleA = some tabRep ∧ tabRep.desc.sharded = false ∧ Begins sm 7 0x37 c ∧ sm.table? c.entry.handleA = some tab
    ∧ sm.hbmBlocks tab 1 = [tabHome 0]
    ∧ sm.capacityFor (some 7) (((sm.hbmBlocks tab 1).flatMap fun h => sm.freshExtents (tableCkptObj 2 1 (blockOfObj h.objId)) true [0]).map (·.1)) = true
    ∧ (tabHome 0).tier = .hbm ∧ (tabHome 0).pinnable = true := by decide +kernel
theorem wit_TableUpkeep_1s :
    let s := tabled { tab with current := 2 }
    let c := tab7 0x37
    let sr := { s with tables := { s.tables with toRestore := [2, 5] } }
    let g := tabled tab
    let sm := wait c.entry { g with flash := { g.flash with map := [{ obj := tableCkptObj 2 1 0, extent := 0, channel := 3 }, { obj := tableCkptObj 2 1 0, extent := parityBase, channel := 4 }] } }
    let sp : State := { sm with tiers := { sm.tiers with homes := [{ tabHome 0 with tier := .peer, addr := BitVec.ofNat 64 (3 * 2 ^ 48) }] } }
    Begins sp 7 0x37 c ∧ sp.table? c.entry.handleA = some tab ∧ (sp.hbmBlocks tab 1).map (fun h => (h.tier, blockOfObj h.objId)) = [(.peer, 0)]
    ∧ sp.capacityFor (some 7) (((sp.hbmBlocks tab 1).flatMap fun h => sp.freshExtents (tableCkptObj 2 1 (blockOfObj h.objId)) true [0]).map (·.1)) = true
    ∧ assocGet 0 ([] : List (Nat × Buf)) = none ∧ 3 ∉ sr.tables.toRestore ∧ 2 ∈ sr.tables.toRestore ∧ sr.isReady bitFlashmap = true := by decide +kernel
theorem channelOf_lt (o : W64) (p : Bool) (e : Nat) : channelOf o p e < 128 := by
  unfold channelOf
  split
  · exact Nat.mod_lt _ (by decide)
  · split <;> exact Nat.mod_lt _ (by decide)
theorem out_all {s : State} (h : (s.fail).channelsOut = BitVec.allOnes 128) {c : Nat} (hc : c < 128) : s.channelOut c = true := by
  rw [State.channelOut, h, BitVec.getLsbD_allOnes]
  exact decide_eq_true hc
theorem out_none {s : State} (h : (s.fail).channelsOut = 0#128) (c : Nat) : s.channelOut c = false := by
  simp only [State.channelOut, h, BitVec.getLsbD_zero]
theorem no_room {s : State} {sid : Option Nat} {a : Nat} {l : List Nat} (h : s.freeFor sid a = 0) (ho : s.channelOut a = false) (ha : a ∈ nub l) (hl : a ∈ l) :
    s.capacityFor sid l = false := by
  simp only [State.capacityFor, List.all_eq_false]
  refine ⟨a, ha, ?_⟩
  rw [ho, h, Bool.false_or, decide_eq_true_eq, Nat.le_zero, List.length_eq_zero_iff, List.filter_eq_nil_iff]
  exact fun hf => hf a hl (beq_self_eq_true a)
theorem fresh_all {s : State} (h : s.flash.map = []) (id : W64) (es : List Nat) (p : Bool) :
    s.freshExtents id p es = (es ++ if p then nub (es.map fun e => parityBase + e / 15) else []).map fun e => (channelOf id p e, id, e) := by
  simp only [State.freshExtents, State.entry?, h, List.find?_nil, Option.isNone_none]
  rw [List.filter_eq_self.2 fun _ _ => rfl]
/-- The table with version 2 staged. -/
def tab2 : Table := { tab with versions := tab.versions ++ [{ number := 2, loaded := [(0, [1])] }] }
/-- LOAD_TABLE_ROWS of its rows 1 and 2. -/
def rows7 : Sub := sub7 { opcode := 0x35, handleA := h kindTable 2, length := 16, arg2 := 2, arg3 := 1 }
/-- The sled with that load, every channel out of service. -/
def cutOff : State := let g := wait rows7.entry (tabled tab2); { g with fail := { (g.fail) with channelsOut := BitVec.allOnes 128 } }
theorem wit_TablePublish_1m : Begins cutOff 7 0x35 rows7 ∧ cutOff.table? rows7.entry.handleA = some tab2 ∧ rows7.entry.arg2.toNat = tab2.current + 1
    ∧ rows7.entry.length.toNat % tab2.desc.rowBytes = 0 ∧ cutOff.blocksHere tab2 1 2 = [0] := by decide +kernel
theorem cutOff_map : cutOff.flash.map = [] := by decide +kernel
theorem tab2_sharded : tab2.desc.sharded = true := by decide +kernel
theorem tab2_index : tab2.index = 2 := rfl
theorem cutOff_extents : cutOff.blockExtents tab2 2 [0] = [(channelOf (rowBlockObj 2 2 0) false 0, rowBlockObj 2 2 0, 0)] := by
  rw [State.blockExtents, tab2_sharded, if_pos rfl, List.flatMap_singleton, fresh_all cutOff_map, tab2_index]
  simp only [Bool.false_eq_true, if_false, List.append_nil, List.map_cons, List.map_nil]
theorem wit_TablePublish_1n : cutOff.noStage tab2 2 (some 7) [0] = false ∧ ∃ x ∈ cutOff.blockExtents tab2 2 [0], cutOff.channelOut x.1 = true := by
  rw [cutOff_extents]
  refine ⟨?_, _, List.mem_singleton_self _, out_all (by decide +kernel) (channelOf_lt (rowBlockObj 2 2 0) false 0)⟩
  have h : ∀ l : List Nat, l.length = 1 → cutOff.capacityFor (some 7) l = true := fun l hl =>
    capacity_room fun c => Nat.le_trans (by omega)
      (free_many (by decide +kernel) (by decide +kernel) (by decide +kernel) (by decide +kernel) c)
  rw [State.noStage, cutOff_extents, List.map_singleton, h [_] (List.length_singleton)]
  decide +kernel
/-- The sled with a checkpoint of the table, as far as its flash is full and its channels are in service. -/
def checkpointing (full out : Bool) : State :=
  let g := wait (tab7 0x37).entry (tabled tab)
  { g with flash := { g.flash with mapHeld := if full then 76339200 else 0 }
           fail := { (g.fail) with channelsOut := if out then BitVec.allOnes 128 else 0#128 } }
theorem wit_TableUpkeep_2 : ∀ full out, Begins (checkpointing full out) 7 0x37 (tab7 0x37) ∧ (checkpointing full out).table? (tab7 0x37).entry.handleA = some tab
    ∧ (checkpointing full out).hbmBlocks tab 1 = [tabHome 0] ∧ (tabHome 0).tier = .hbm ∧ (tabHome 0).pinnable = true := by decide +kernel
theorem checkpointing_extents (full out : Bool) : ((checkpointing full out).freshExtents (tableCkptObj 2 1 0) true [0]).map (·.1)
    = [channelOf (tableCkptObj 2 1 0) true 0, channelOf (tableCkptObj 2 1 0) true (parityBase + 0 / 15)] := by
  rw [fresh_all (by cases full <;> cases out <;> decide +kernel)]
  simp only [if_true, nub, List.map_cons, List.map_nil, List.foldl_cons, List.foldl_nil, List.contains_nil, Bool.false_eq_true, if_false, List.nil_append, List.singleton_append]
theorem wit_TableUpkeep_2a :
    (checkpointing true false).capacityFor (some 7) (((checkpointing true false).freshExtents (tableCkptObj 2 1 0) true [0]).map (·.1)) = false := by
  rw [checkpointing_extents]
  have hf : ∀ c, (checkpointing true false).freeFor (some 7) c = 0 := by
    intro c
    have h1 : ∀ c, (checkpointing true false).freeExtents c = 0 := by
      intro c
      simp only [State.freeExtents]
      exact Nat.sub_eq_zero_of_le (Nat.le_trans (show (checkpointing true false).channelCapacity ≤ (checkpointing true false).flash.mapHeld by decide +kernel) (Nat.le_add_left _ _))
    rw [State.freeFor, h1]
    have h2 : (checkpointing true false).sasel.subs.find? (fun u => some u.sid == some 7) = some (tab7 0x37) := by decide +kernel
    rw [h2]
    rfl
  refine no_room (hf _) (out_none (by decide +kernel) _) ?_ List.mem_cons_self
  simp only [nub, List.foldl_cons, List.foldl_nil, List.contains_nil, Bool.false_eq_true, if_false, List.nil_append]
  split <;> simp
theorem wit_TableUpkeep_2b (out : Bool) :
    (checkpointing false out).capacityFor (some 7) (((checkpointing false out).freshExtents (tableCkptObj 2 1 0) true [0]).map (·.1)) = true
    ∧ ((∃ c ∈ objectChannels (tableCkptObj 2 1 0) true 1, (checkpointing false true).channelOut c = true)
      ∧ ∀ c ∈ objectChannels (tableCkptObj 2 1 0) true 1, (checkpointing false false).channelOut c = false) := by
  refine ⟨?_, ⟨channelOf (tableCkptObj 2 1 0) true 0, by simp [objectChannels], out_all (by decide +kernel) (channelOf_lt _ _ _)⟩,
    fun c _ => out_none (by decide +kernel) c⟩
  rw [checkpointing_extents]
  exact capacity_room fun c => Nat.le_trans (by decide)
    (free_many (by cases out <;> decide +kernel) (by cases out <;> decide +kernel) (by cases out <;> decide +kernel) (by cases out <;> decide +kernel) c)

/-! ### Grafts -/

/-- A log of 64-byte records whose first kept is 10. -/
def log0 : Log := { index := 3, gen := 1, recordBytes := 64, first := 10, records := [[1], [2], [3]] }
/-- A stopped job on the table and the log. -/
def job0 : Graft :=
  { index := 1, gen := 1, desc := { table := h kindTable 2, log := h kindLog 3, tableVersion := 1, batch := 1, firstRow := 8190, rowCount := 4, retry := 2, stepScale := 0x3F800000 }
    startRecord := 10, lastCommit := some 0, residuals := [{ bucket := 0, plane0 := [0, 0], plane1 := [0, 0] }] }
/-- A sled that holds a job, its table and its log. -/
def grafting (g : Graft) : State := let s := tabled tab; { s with grafts := { s.grafts with list := [g], logs := [log0] } }
/-- The tag of step 1, attempt 0. -/
def tag1 : GraftTag := { job := 1, step := 1, attempt := 0, rank := 1 }
/-- The job in a phase of step 1. -/
def jobIn (p : GraftPhase) (coordinator : Nat) : Graft := { job0 with phase := p, step := 1, coordinator := coordinator }
/-- A plot of two sleds of one leaf, of which this is the second. -/
def tailPlot : PlotSettings := { members := [{ digest := [1] }, { digest := up.idDigest }] }
/-- A plot of two sleds of one leaf, of which this is the first. -/
def headPlot : PlotSettings := { members := [{ digest := up.idDigest }, { digest := [1] }] }
/-- A sled that belongs to a plot. -/
def inPlot (p : PlotSettings) (s : State) : State := { s with fabric := { s.fabric with plot := some p } }
/-- The flash with the extents of the log and of the objects that a job's checkpoints take mapped. -/
def logged0 (s : State) : State := { s with flash := { s.flash with map := [{ obj := logObj 3, extent := 0, channel := 5 }] } }
/-- A partial of bucket 0. -/
def part0 : ChainPartial := { bucket := 0, group := 0, blocks := [(List.replicate 32 0, -3)] }
theorem wit_FeedbackLogs_1 :
    let c := sub7 { opcode := 0x40, arg0 := 128 }
    let c2 := sub7 { opcode := 0x40, arg0 := 100 }
    let s := wait c.entry up
    let v := fun (op : Byte) => wait { opcode := op, handleA := h kindLog 3 } up
    Begins s 7 0x40 c ∧ 64 ≤ c.entry.arg0.toNat ∧ c.entry.arg0.toNat ≤ 4096 ∧ c.entry.arg0.toNat % 64 = 0
    ∧ lowestFree (s.grafts.logs.map (·.index)) 4096 = some 0 ∧ Begins (wait c2.entry up) 7 0x40 c2 ∧ c2.entry.arg0.toNat % 64 ≠ 0
    ∧ (∀ op ∈ [(0x41 : Byte), 0x42, 0x43], Begins (v op) 7 op.toNat (sub7 { opcode := op, handleA := h kindLog 3 })
    ∧ (v op).log? (h kindLog 3) = none) := by decide +kernel
theorem wit_FeedbackLogs_2 :
    let f := fun (op : Byte) (n : W64) => sub7 { opcode := op, handleA := h kindLog 3, length := 128, arg0 := n }
    let a := f 0x41 0
    let o := sub7 { opcode := 0x41, handleA := h kindLog 3, length := 100 }
    let l := log0
    let g0 := logged0 { up with grafts := { up.grafts with logs := [l] } }
    let s := wait a.entry g0
    let so := wait o.entry g0
    let buf : Buf := List.replicate 64 5 ++ List.replicate 64 6
    let t := f 0x42 99
    let d := f 0x43 0
    let st := wait t.entry (grafting job0)
    s.log? a.entry.handleA = some l ∧ l ∈ s.grafts.logs ∧ Begins s 7 0x41 a ∧ a.readB (some buf) = some buf ∧ a.entry.length.toNat % l.recordBytes = 0
    ∧ logExtents ((l.first + l.records.length) * 64) (2 * 64) = [0]
    ∧ s.capacityFor (some 7) ((s.freshExtents (logObj l.index) false [0]).map (·.1)) = true ∧ Begins so 7 0x41 o ∧ so.log? o.entry.handleA = some l
    ∧ (o.readB (some [])).isSome = true ∧ o.entry.length.toNat % l.recordBytes ≠ 0 ∧ Begins st 7 0x42 t ∧ st.log? t.entry.handleA = some l
    ∧ (∀ k ∈ st.grafts.logs, k.index = l.index → k = l) ∧ Begins (wait d.entry (grafting job0)) 7 0x43 d
    ∧ (∃ g ∈ (grafting job0).grafts.list, g.desc.log = l.handle) ∧ Begins (wait d.entry g0) 7 0x43 d
    ∧ (∀ g ∈ (wait d.entry g0).grafts.list, g.desc.log ≠ l.handle) ∧ (wait d.entry g0).log? d.entry.handleA = some l := by decide +kernel
theorem wit_GraftJobs_1 :
    let buf : Buf := leBytes 64 (2 ^ 378 * 0 + 2 ^ 368 + 10 * 2 ^ 352 + 0x3F800000 * 2 ^ 320 + 2 ^ 256 + (h kindLog 3).toNat * 2 ^ 224 + (h kindModel 0).toNat * 2 ^ 192 + 2 ^ 160 + (h kindTable 2).toNat * 2 ^ 128 + 4 * 2 ^ 64 + 8190)
    let u := sub7 { opcode := 0x44, length := 64 }
    let b0 := grafting job0
    let b := { b0 with grafts := { b0.grafts with list := [] }, img := { b0.img with images := [{ index := 3, gen := 1, header := { cls := 4 }, entries := [{ index := 0, first := 0, count := 0, grad := true }] }], models := [{ index := 0, gen := 1, image := h kindImage 3 }] } }
    let s := wait u.entry b
    let v := sub7 { opcode := 0x44, length := 63 }
    let sv := wait v.entry b
    let w := fun (op : Byte) => wait { opcode := op, handleA := h kindGraft 1 } up
    let wr := wait { opcode := 0x45, handleA := h kindGraft 1, arg0 := 1 } up
    let uw : Sub := sub7 { opcode := 0x45, handleA := h kindGraft 1 }
    let g : Graft := { index := 0, gen := 1, desc := parseGraft buf, creator := 0, coordinator := 0 }
    Begins s 7 0x44 u ∧ u.readB (some buf) = some buf ∧ s.createGraftErrs u (parseGraft buf) g = [] ∧ s.ownRank = 0 ∧ Begins sv 7 0x44 v
    ∧ (v.readB (some buf)).isSome = true
    ∧ sv.createGraftErrs v (parseGraft (Buf.slice buf 0 63)) { g with desc := parseGraft (Buf.slice buf 0 63) } ≠ []
    ∧ (∀ op ∈ [(0x45 : Byte), 0x46, 0x47], Begins (w op) 7 op.toNat (sub7 { opcode := op, handleA := h kindGraft 1 })
    ∧ (w op).graft? (h kindGraft 1) = none) ∧ Begins wr 7 0x45 (sub7 { opcode := 0x45, handleA := h kindGraft 1, arg0 := 1 })
    ∧ Waits (w 0x45) 7 0x45 uw ∧ (∀ x ∈ b.grafts.list, x.index ≠ g.index) := by decide +kernel
theorem wit_GraftJobs_2 :
    let f := fun (op : Byte) (n : W64) => sub7 { opcode := op, handleA := h kindGraft 1, arg0 := n }
    let on := fun (g : Graft) (op : Byte) (n : W64) => wait (f op n).entry (grafting g)
    let r := jobIn .reduce 0
    let c := { job0 with lastCkpt := some 4, checkpoints := [(4, [(0, [1, 2, 3, 4, 5, 6, 7, 8])])] }
    (on job0 0x45 0).graft? (h kindGraft 1) = some job0 ∧ job0.coordinator = (on job0 0x45 0).ownRank ∧ Begins (on job0 0x45 0) 7 0x45 (f 0x45 0)
    ∧ (on job0 0x45 0).isReady bitGraft = true ∧ (on job0 0x45 0).runErrs job0 = [] ∧ Begins (on r 0x45 0) 7 0x45 (f 0x45 0)
    ∧ (on r 0x45 0).graft? (h kindGraft 1) = some r ∧ r.phase ≠ .stopped ∧ Begins (on job0 0x45 1) 7 0x45 (f 0x45 1) ∧ job0.lastCkpt = none
    ∧ Begins (on c 0x45 1) 7 0x45 (f 0x45 1) ∧ (on c 0x45 1).runErrs c = [] ∧ (on c 0x45 1).tableOf c = some tab
    ∧ (on c 0x45 1).graft? (h kindGraft 1) = some c ∧ assocGet 4 c.checkpoints = some [(0, [1, 2, 3, 4, 5, 6, 7, 8])] := by decide +kernel
theorem wit_GraftJobs_3 :
    let f := fun (op : Byte) (n : W64) => sub7 { opcode := op, handleA := h kindGraft 1, arg0 := n }
    let on := fun (g : Graft) (op : Byte) (n : W64) => wait (f op n).entry (grafting g)
    let r := jobIn .reduce 0
    let gd := jobIn .gradient 0
    let gn := { jobIn .gradient 0 with step := 9 }
    (on job0 0x45 0).graft? (h kindGraft 1) = some job0 ∧ job0.coordinator = (on job0 0x45 0).ownRank ∧ Begins (on job0 0x46 0) 7 0x46 (f 0x46 0)
    ∧ job0.phase = .stopped ∧ Begins (on r 0x46 0) 7 0x46 (f 0x46 0) ∧ (on r 0x46 0).graftAt 1 = some r ∧ Begins (on gd 0x46 0) 7 0x46 (f 0x46 0)
    ∧ (on gd 0x46 0).recordsThere gd = true ∧ (on gd 0x46 0).graftAt 1 = some gd ∧ Begins (on gn 0x46 0) 7 0x46 (f 0x46 0) ∧ gn.gradDone = false
    ∧ (on gn 0x46 0).recordsThere gn = false ∧ (on gn 0x46 0).graftAt 1 = some gn ∧ gn.runSid ≠ some 7 ∧ Begins (on r 0x47 0) 7 0x47 (f 0x47 0)
    ∧ Begins (on job0 0x47 0) 7 0x47 (f 0x47 0) := by decide +kernel
theorem wit_StaleGraftMessages_1 :
    let a := grafting { job0 with step := 1 }
    let b := grafting { jobIn .reduce 0 with attempt := 1 }
    let c := grafting { jobIn .reduce 3 with step := 2 }
    let d := grafting (jobIn .reduce 0)
    let tag5 : GraftTag := { tag1 with epoch := 5 }
    (∀ s ∈ [a, b, c], ∃ g ∈ s.grafts.list, s.graftAt 1 = some g ∧ (g.phase = .stopped ∨ g.step ≠ tag1.step ∨ g.attempt ≠ tag1.attempt))
    ∧ d.graftAt 1 = some (jobIn .reduce 0) ∧ tag5.epoch ≠ (d.peer tag5.rank).knownEpoch := by decide +kernel
theorem wit_GraftStepMessages_1 :
    let g := jobIn .gradient 3
    let s := grafting g
    let bad := { s with flash := { s.flash with map := [{ obj := logObj 3, extent := 0, channel := 5, damaged := true }] } }
    let d := { g with gradDone := true, gradient := [(0, [0x7F800000, 0])] }
    let d2 := { g with gradDone := true, gradient := [(0, [0, 0])] }
    s.graftAt 1 = some g ∧ g.phase = .gradient ∧ g.step = tag1.step ∧ g.attempt = tag1.attempt ∧ g.gradDone = false ∧ s.recordsThere g = true
    ∧ s.tableOf g = some tab ∧ (s.readExtents [] (s.stepRecords g).2).1 = [] ∧ g.coordinator ≠ (s.readExtents [] (s.stepRecords g).2).2.ownRank
    ∧ bad.graftAt 1 = some g ∧ bad.recordsThere g = true ∧ (bad.readExtents [] (bad.stepRecords g).2).1 ≠ []
    ∧ tag1.epoch = (s.peer tag1.rank).knownEpoch ∧ (grafting d).graftAt 1 = some d ∧ ((grafting d).compress d).2 = true
    ∧ d.coordinator ≠ (grafting d).ownRank ∧ (grafting d2).graftAt 1 = some d2 ∧ ((grafting d2).compress d2).2 = false
    ∧ (((grafting d2).compress d2).1.graftAt 1).isSome = true ∧ s.others.contains tag1.rank = false := by decide +kernel
theorem wit_GraftStepMessages_1s :
    let r := jobIn .reduce 3
    let s := grafting r
    let cr := { r with samples := [{ bucket := 5, rank := 1 }] }
    let badm := { part0.message with units := [[1]] }
    s.graftAt 1 = some r ∧ tag1.epoch = (s.peer tag1.rank).knownEpoch ∧ (s.ownGroup.2).contains 0 = true ∧ (s.ownGroup.2).contains 9 = false
    ∧ readPartial badm = none ∧ part0.message.bucket ∉ r.passed ∧ (s.ownGroup.2).headD s.ownRank = s.ownRank ∧ (grafting cr).graftAt 1 = some cr
    ∧ (∃ b ∈ (grafting cr).ownBuckets cr, b.2 = 0) ∧ readPartial part0.message = some part0 ∧ (∀ x ∈ cr.groups, ¬ (x.bucket = 0 ∧ x.group = 0))
    ∧ (∀ x ∈ cr.samples, ¬ (x.bucket = 0 ∧ x.rank = 0)) ∧ (∀ b ∈ s.ownBuckets r, b.2 ≠ 5) := by decide +kernel
theorem wit_ChainArithmetic_1 :
    let a : ChainPartial := { bucket := 0, group := 0, blocks := [([3], 5)] }
    let b : ChainPartial := { bucket := 0, group := 1, blocks := [([-2], -30)] }
    let q : List Int := [127, -127, 0]
    [a, b].Perm [b, a] ∧ ([a, b].map (·.group)).Nodup ∧ (∀ x ∈ q, x.natAbs ≤ 127) ∧ (∀ b ∈ part0.blocks, b.1.length = 32 ∧ (∀ q ∈ b.1, -127 ≤ q
    ∧ q ≤ 127) ∧ -30 ≤ b.2 ∧ b.2 ≤ 127) := by decide +kernel
theorem wit_GraftDecides_1 :
    let q := jobIn .reduce 3
    let sq := grafting q
    let y := { q with votedYes := true, voted := true }
    let sy := grafting y
    let k := { job0 with ckptStep := some 6, ckptDone := [0] }
    let sk := grafting k
    let ky := { jobIn .reduce 0 with ckptStep := some 6, ckptDone := [0], votesYes := [0, 3] }
    let sky := grafting ky
    let kc := { k with coordinator := 3 }
    let skc := grafting kc
    sq.graftAt 1 = some q ∧ q.signals ≠ sq.barrierTarget q ∧ q.votedYes = false ∧ sy.graftAt 1 = some y ∧ y.phase = .reduce
    ∧ y.coordinator ≠ sy.ownRank ∧ q.ckptStep = none ∧ sk.graftAt 1 = some k ∧ 3 ≠ sk.ownRank ∧ k.coordinator = sk.ownRank
    ∧ (sk.graftOwners k).contains 3 = true ∧ 3 ∉ k.ckptDone ∧ (∀ o ∈ sk.graftOwners k, o = 3 ∨ o ∈ k.ckptDone) ∧ sk.allYes k = false
    ∧ sky.graftAt 1 = some ky ∧ sky.allYes ky = true ∧ (∀ o ∈ sky.graftOwners ky, o = 3 ∨ o ∈ ky.ckptDone) ∧ (sky.graftOwners ky).contains 3 = true
    ∧ skc.graftAt 1 = some kc ∧ kc.coordinator ≠ skc.ownRank ∧ k.ckptStep.isSome = true := by decide +kernel
theorem wit_GraftDecides_1s :
    let q := jobIn .reduce 3
    let sq := grafting q
    let y := { q with votedYes := true, voted := true }
    let sy := grafting y
    let o := jobIn .reduce 0
    let so := grafting o
    let w := { jobIn .reduce 3 with passed := [0, 1], voted := true }
    let sw := grafting w
    sq.graftAt 1 = some q ∧ q.phase = .reduce ∧ q.step = tag1.step ∧ q.attempt = tag1.attempt ∧ tag1.epoch = (sq.peer tag1.rank).knownEpoch
    ∧ q.coordinator ≠ sq.ownRank ∧ sq.ownBuckets q ≠ [] ∧ q.votedYes = false ∧ q.voted = false ∧ sy.graftAt 1 = some y ∧ y.votedYes = true
    ∧ so.graftAt 1 = some o ∧ o.coordinator = so.ownRank ∧ tag1.rank ∉ so.others ∧ (∃ b ∈ sq.bucketsOf q, b.2 ∉ q.passed)
    ∧ (∃ b ∈ so.bucketsOf o, b.2 ∉ o.passed) ∧ so.allYes o = false ∧ sw.graftAt 1 = some w ∧ (∀ b ∈ sw.bucketsOf w, b.2 ∈ w.passed) ∧ w.voted = true
    ∧ w.coordinator ≠ sw.ownRank := by decide +kernel
theorem wit_AbortRetries_1 :
    let g := { jobIn .reduce 0 with attempt := 1, runSid := some 7 }
    let s := grafting g
    let x := { g with attempt := 2 }
    let y := { g with stopAsked := true }
    s.graftAt 1 = some g ∧ g.phase ≠ .stopped ∧ g.attempt < g.desc.retry ∧ g.stopAsked = false ∧ (grafting x).graftAt 1 = some x
    ∧ x.desc.retry ≤ x.attempt ∧ (grafting y).graftAt 1 = some y ∧ (grafting g).ownRank = 0 := by decide +kernel
theorem idDigest_length (s : State) : s.idDigest.length = 16 := by
  rw [State.idDigest, List.length_take, sha3_length]; rfl
theorem digest_congr {s t : State} (h : s.boot.identityKey = t.boot.identityKey) : s.idDigest = t.idDigest := by simp only [State.idDigest, h]
theorem idDigest_ne (s : State) : (s.idDigest != []) = true := by
  simp only [bne_iff_ne, ne_eq, ← List.length_eq_zero_iff, idDigest_length]; decide
theorem last_rank {s : State} {d : Buf} (hp : s.fabric.plot = some { members := [{ digest := [1] }, { digest := d }] }) (hd : d = s.idDigest) : s.ownRank = 1 := by
  have h1 : (([1] : Buf) == s.idDigest) = false := by
    rw [beq_eq_false_iff_ne]
    intro h
    have := congrArg List.length h
    rw [idDigest_length] at this
    exact absurd this (by decide)
  have h2 : (d == s.idDigest) = true := by rw [hd]; exact beq_self_eq_true _
  simp only [State.ownRank, State.ownRank?, hp]
  generalize s.idDigest = e at h1 h2
  simp only [List.length_cons, List.length_nil, List.range_succ_eq_map, List.range_zero, List.map_cons, List.map_nil,
    List.find?_cons, List.getElem?_cons_zero, List.getElem?_cons_succ, h1, h2, Option.getD_some]
theorem first_rank {s : State} {d : Buf} (hp : s.fabric.plot = some { members := [{ digest := d }, { digest := [1] }] }) (hd : d = s.idDigest) : s.ownRank = 0 := by
  have h2 : (d == s.idDigest) = true := by rw [hd]; exact beq_self_eq_true _
  simp only [State.ownRank, State.ownRank?, hp]
  generalize s.idDigest = e at h2
  simp only [List.length_cons, List.length_nil, List.range_succ_eq_map, List.range_zero, List.map_cons, List.map_nil,
    List.find?_cons, List.getElem?_cons_zero, h2, Option.getD_some]
theorem tail_rank {s : State} (hp : s.fabric.plot = some tailPlot) (hk : s.boot.identityKey = up.boot.identityKey) : s.ownRank = 1 := last_rank hp (digest_congr hk).symm
theorem head_rank {s : State} (hp : s.fabric.plot = some headPlot) (hk : s.boot.identityKey = up.boot.identityKey) : s.ownRank = 0 := first_rank hp (digest_congr hk).symm
theorem tail_ranks {s : State} (hp : s.fabric.plot = some tailPlot) : s.ranks = [0, 1] := by
  simp only [State.ranks, hp, tailPlot, List.length_cons, List.length_nil, List.range_succ_eq_map, List.range_zero, List.map_cons, List.map_nil,
    List.filter_cons, List.filter_nil, List.getElem?_cons_zero, List.getElem?_cons_succ, idDigest_ne, if_true]
  rfl
theorem head_ranks {s : State} (hp : s.fabric.plot = some headPlot) : s.ranks = [0, 1] := by
  simp only [State.ranks, hp, headPlot, List.length_cons, List.length_nil, List.range_succ_eq_map, List.range_zero, List.map_cons, List.map_nil,
    List.filter_cons, List.filter_nil, List.getElem?_cons_zero, List.getElem?_cons_succ, idDigest_ne, if_true]
  rfl
theorem tail_group {s : State} (hp : s.fabric.plot = some tailPlot) (hk : s.boot.identityKey = up.boot.identityKey) : s.ownGroup = (0, [0, 1]) := by
  have h0 : s.leafOf 0 = 0 := by simp only [State.leafOf, hp, tailPlot, List.getElem?_cons_zero]
  have h1 : s.leafOf 1 = 0 := by simp only [State.leafOf, hp, tailPlot, List.getElem?_cons_zero, List.getElem?_cons_succ]
  simp only [State.ownGroup, State.leafGroups, tail_ranks hp, tail_rank hp hk, List.map_cons, List.map_nil, h0, h1, List.filter_cons, List.filter_nil]
  decide
theorem head_others {s : State} (hp : s.fabric.plot = some headPlot) (hk : s.boot.identityKey = up.boot.identityKey) : s.others = [1] := by
  simp only [State.others, hp, head_ranks hp, head_rank hp hk]; decide
/-- The first sled of the plot, as coordinator. -/
def leading : State := inPlot headPlot (grafting (jobIn .gradient 0))
theorem wit_GraftStepMessages_2 : tag1.epoch = (leading.peer tag1.rank).knownEpoch ∧ leading.graftAt 1 = some (jobIn .gradient 0) ∧ (jobIn .gradient 0).coordinator = leading.ownRank ∧ leading.others.contains 1 = true := by
  rw [head_rank (s := leading) rfl rfl, head_others (s := leading) rfl rfl]
  exact ⟨by decide +kernel, rfl, rfl, by decide⟩
/-- The second sled of the plot, with contributions. -/
def trailing (c : List (Nat × List Bool × List W16)) : State := inPlot tailPlot (grafting { jobIn .reduce 0 with contribs := c })
theorem wit_GraftStepMessages_3 (c : List (Nat × List Bool × List W16)) : part0.group = (trailing c).ownGroup.1
    ∧ ((trailing c).ownGroup.2).headD (trailing c).ownRank ≠ (trailing c).ownRank ∧ (trailing c).graftAt 1 = some { jobIn .reduce 0 with contribs := c } := by
  rw [tail_rank (s := trailing c) rfl rfl, tail_group (s := trailing c) rfl rfl]
  exact ⟨rfl, by decide, rfl⟩
/-- The table with rank 1 as the second keeper. -/
def tab1 : Table := { tab with keepers := [0, 1] }
/-- The first sled of a plot of two, as coordinator. -/
def voting : State := let s := inPlot headPlot (grafting (jobIn .reduce 0)); { s with tables := { s.tables with list := [tab1] } }
theorem wit_GraftDecides_3 : voting.graftAt 1 = some (jobIn .reduce 0) ∧ (jobIn .reduce 0).coordinator = voting.ownRank ∧ 1 ∈ voting.others
    ∧ 1 ∈ voting.graftOwners (jobIn .reduce 0) ∧ 0 ∈ voting.graftOwners (jobIn .reduce 0) ∧ 0 ∉ (jobIn .reduce 0).votesYes
    ∧ tag1.rank ∈ voting.others ∧ tag1.epoch = (voting.peer tag1.rank).knownEpoch
    ∧ (∀ o ∈ voting.graftOwners { jobIn .reduce 0 with votesYes := [0] }, o = tag1.rank ∨ o ∈ [0]) := by
  rw [head_rank (s := voting) rfl rfl, head_others (s := voting) rfl rfl]
  have h : voting.graftOwners (jobIn .reduce 0) = [0, 1] := by decide +kernel
  have h' : voting.graftOwners { jobIn .reduce 0 with votesYes := [0] } = [0, 1] := by decide +kernel
  rw [h, h']
  exact ⟨rfl, rfl, by decide, by decide, by decide, by decide, by decide, by decide +kernel, by decide⟩
theorem zeros_get (n i : Nat) : (List.replicate n (0 : W32)).getD i 0 = 0 := by
  simp only [List.getD_eq_getElem?_getD, List.getElem?_replicate]
  split <;> rfl
/-- An owner's job with every signal there. -/
def signalled : Graft := { jobIn .reduce 3 with groups := [{ bucket := 0, group := 0 }], samples := [{ bucket := 0, rank := 0 }] }
/-- The table with its block 0 DAMAGED. -/
def badTab : Table := { tab with versions := [{ number := 1, pubSeq := some 3, servable := true, damaged := [0] }] }
/-- That owner. -/
def barred : State := let s := grafting signalled; { s with tables := { s.tables with list := [badTab] } }
theorem wit_GraftDecides_2 : barred.graftAt 1 = some signalled ∧ barred.tableOf signalled = some badTab ∧ signalled.phase = .reduce ∧ signalled.voted = false
    ∧ barred.ownBuckets signalled ≠ [] ∧ signalled.signals = barred.barrierTarget signalled ∧ signalled.coordinator ≠ barred.ownRank ∧ barred.tunedDamaged signalled = true
    ∧ (barred.ownBuckets signalled).map (fun b => (b.2, (List.range (signalled.desc.elements badTab.desc b.1)).map
        (sumElement (signalled.groups.filter fun p => p.bucket == b.2)))) = [(0, List.replicate 256 0)] := by decide +kernel
theorem signalled_matches {s : State} (h3 : s.ranks.length = 1) : s.firstMismatch signalled [(0, List.replicate 256 0)] = none := by
  have hb : ∀ k, exceeds 0 0 (crossBound signalled.groups k 1 [0]) = false := by
    intro k
    have g : byGroup signalled.groups = [{ bucket := 0, group := 0 }] := rfl
    simp only [crossBound, g, List.map_cons, List.map_nil, List.getElem?_nil]
    decide +kernel
  have hm : ∀ j, blockMismatch (List.replicate 256 0) signalled.groups signalled.samples 1 j = false := by
    intro j
    have e : ∀ k, sampleElement signalled.samples j k = 0 := fun k => rfl
    simp only [blockMismatch, zeros_get, e]
    show ((List.range 32).any fun _ => exceeds 0 0 (crossBound signalled.groups j 1 [0])) = false
    simp only [hb]
    decide
  have h1 : signalled.groups.filter (fun p => p.bucket == 0) = signalled.groups := rfl
  have h2 : signalled.samples.filter (fun r => r.bucket == 0) = signalled.samples := rfl
  simp only [State.firstMismatch, List.findSome?_cons, List.findSome?_nil, h1, h2, h3, hm]
  rw [List.find?_eq_none.mpr (fun x _ => by decide)]
  rfl
/-- That owner with its residual blocks placed and no block DAMAGED. -/
def sound : State := let s := grafting signalled; { s with tiers := { s.tiers with homes := s.tiers.homes ++ [{ objId := residualObj 1 0 }, { objId := residualObj 1 1 }] } }
theorem wit_GraftDecides_2b : barred.firstMismatch signalled [(0, List.replicate 256 0)] = none ∧ sound.firstMismatch signalled [(0, List.replicate 256 0)] = none :=
  ⟨signalled_matches (by decide +kernel), signalled_matches (by decide +kernel)⟩
theorem wit_GraftDecides_2c : sound.graftAt 1 = some signalled ∧ sound.tableOf signalled = some tab ∧ sound.ownBuckets signalled ≠ [] ∧ signalled.signals = sound.barrierTarget signalled
    ∧ sound.tunedDamaged signalled = false ∧ ((sound.bucketsOf signalled).all fun b => match sound.home? (residualObj 1 b.2) with | some h => !h.damaged | none => false) = true
    ∧ (sound.ownBuckets signalled).map (fun b => (b.2, (List.range (signalled.desc.elements tab.desc b.1)).map
        (sumElement (signalled.groups.filter fun p => p.bucket == b.2)))) = [(0, List.replicate 256 0)]
    ∧ ([(0, List.replicate 256 (0 : W32))].all fun b => b.2.all fpFinite) = true := by decide +kernel
theorem wit_GraftStepMessages_4 : readPartial part0.message = some part0 ∧ part0.bucket ∉ (jobIn .reduce 0).passed ∧ ({ part0.message with group := 7 } : ChainMsg).group ≠ (grafting (jobIn .reduce 3)).ownGroup.1
    ∧ [(0, [true], [(1 : W16)])].find? (fun c => c.1 == part0.bucket) = some (0, [true], [1]) ∧ tag1.epoch = ((trailing []).peer tag1.rank).knownEpoch := by decide +kernel
/-- APPEND_LOG of two records as submission 7. -/
def append7 : Sub := sub7 { opcode := 0x41, handleA := h kindLog 3, length := 128 }
/-- The sled with that command, as far as its flash is full and its channels are in service. -/
def appending (full out : Bool) : State :=
  let g := wait append7.entry (grafting job0)
  { g with flash := { g.flash with mapHeld := if full then 76339200 else 0 }
           fail := { (g.fail) with channelsOut := if out then BitVec.allOnes 128 else 0#128 } }
theorem wit_FeedbackLogs_3 : ∀ full out, Begins (appending full out) 7 0x41 append7 ∧ (appending full out).log? append7.entry.handleA = some log0
    ∧ log0 ∈ (appending full out).grafts.logs ∧ append7.entry.length.toNat % log0.recordBytes = 0
    ∧ logExtents ((log0.first + log0.records.length) * log0.recordBytes) (append7.entry.length.toNat / log0.recordBytes * log0.recordBytes) = [0] := by decide +kernel
theorem appending_extents (full out : Bool) :
    ((appending full out).freshExtents (logObj log0.index) false [0]).map (·.1) = [channelOf (logObj log0.index) false 0] := by
  rw [fresh_all (by cases full <;> cases out <;> decide +kernel)]
  simp only [Bool.false_eq_true, if_false, List.append_nil, List.map_cons, List.map_nil]
theorem wit_FeedbackLogs_3a : (appending true false).capacityFor (some 7) (((appending true false).freshExtents (logObj log0.index) false [0]).map (·.1)) = false := by
  rw [appending_extents]
  have hf : ∀ c, (appending true false).freeFor (some 7) c = 0 := by
    intro c
    have h1 : (appending true false).freeExtents c = 0 := by
      simp only [State.freeExtents]
      exact Nat.sub_eq_zero_of_le (Nat.le_trans (show (appending true false).channelCapacity ≤ (appending true false).flash.mapHeld by decide +kernel) (Nat.le_add_left _ _))
    have h2 : (appending true false).sasel.subs.find? (fun u => some u.sid == some 7) = some append7 := by decide +kernel
    rw [State.freeFor, h1, h2]
    rfl
  refine no_room (hf _) (out_none (by decide +kernel) _) ?_ List.mem_cons_self
  simp only [nub, List.foldl_cons, List.foldl_nil, List.contains_nil, Bool.false_eq_true, if_false, List.nil_append, List.mem_singleton]
theorem wit_FeedbackLogs_3b (out : Bool) : (appending false out).capacityFor (some 7) (((appending false out).freshExtents (logObj log0.index) false [0]).map (·.1)) = true
    ∧ (∃ e ∈ [0], (appending false true).channelOut (channelOf (logObj log0.index) false e) = true)
    ∧ ∀ e ∈ [0], (appending false false).channelOut (channelOf (logObj log0.index) false e) = false := by
  refine ⟨?_, ⟨0, List.mem_singleton_self 0, out_all (by decide +kernel) (channelOf_lt (logObj log0.index) false 0)⟩, fun e _ => out_none (by decide +kernel) _⟩
  rw [appending_extents]
  exact capacity_room fun c => Nat.le_trans (by decide)
    (free_many (by cases out <;> decide +kernel) (by cases out <;> decide +kernel) (by cases out <;> decide +kernel) (by cases out <;> decide +kernel) c)

/-! ### Woane and plots -/

/-- A sled of a plot of two, as its first member. -/
def first (s : State) : State := inPlot headPlot s
/-- A sled of a plot of two, as its second member. -/
def second (s : State) : State := inPlot tailPlot s
/-- A flow from rank 1 of class 2. -/
def rx0 : RxFlow := { rank := 1, cls := 2, grant := 32, cumPsn := 4, unreported := true }
/-- A flow to rank 1 of class 2 with a packet out. -/
def tx0 : TxFlow := { rank := 1, cls := 2, opened := true, grant := 3, nextPsn := 6, returnedSeen := 5, unacked := [(5, true, true, [9])], cumSeen := 4
                      queue := [(true, false, [1]), (false, false, [2]), (false, true, [3])] }
/-- A sled with those flows. -/
def flowing (r : RxFlow) (t : TxFlow) : State := { up with fabric := { up.fabric with rx := [r], tx := [t] } }
/-- An index that is a member of plot index 2. -/
def member : Index := { index0 with plot := some 2, current := 1, versions := [{ number := 1, segments := [0] }] }
/-- A commit of plot index 2 by rank 1. -/
def commit1 : PlotCommit := { plot := 2, base := 1, rank := 1, sid := 8, yes := [0] }
/-- A sled that holds a member of the plot index, and commits. -/
def serving (cs : List PlotCommit) (ps : List PlotPrepared) : State :=
  let s := indexed member
  { s with fabric := { s.fabric with plotCommits := cs, prepared := ps } }
/-- A plot search that waits for a member. -/
def seeking : Req := { sid := 7, count := 0, stage := .scan, awaiting := [1], block := { nExact := 2 } }
/-- Plot settings that name two members, the first by its digest, and a plot index. -/
def plotBuf (d : Buf) : Buf :=
  leBytes 4 0x544F4C50 ++ leBytes 8 77 ++ leBytes 2 2 ++ leBytes 2 1 ++ List.replicate 48 0 ++ d ++ List.replicate 16 0 ++ (1 :: List.replicate 31 0)
    ++ leBytes 4 (h kindIndex 0).toNat ++ [2, 0, 0, 0]
/-- SET_PLOT as submission 7. -/
def set7 : Sub := sub7 { opcode := 0xEB, length := 136 }
/-- A sled with an index and an empty identity key, on which SET_PLOT waits. -/
def settling (p : Option PlotSettings) : State :=
  let s := wait set7.entry (indexed index0)
  { s with fabric := { s.fabric with plot := p, rx := [rx0], tx := [tx0] }, boot := { s.boot with identityKey := [] } }
/-- The same sled without its index. -/
def noIndex (s : State) : State := { s with idx := { s.idx with list := [] } }
theorem wit_FlowReceives_2 :
    let f := { rx0 with buffered := [(7, true, true, [6])] }
    let s := flowing f tx0
    s.rx? 1 2 = some f ∧ (∀ e ∈ f.buffered, e.1 ≠ 5 ∧ e.1 ≠ 6) ∧ f.sinceAck < 7 ∧ (∃ e ∈ f.buffered, e.1 = 7) ∧ up.rx? 1 2 = none := by decide +kernel
theorem wit_FlowReceives_3 :
    let s := flowing rx0 tx0
    let q := { rx0 with unreported := false }
    let b := { rx0 with cumPsn := 5, buffered := [(5, true, true, [6])] }
    let sb := flowing b tx0
    let m := { rx0 with cumPsn := 7, buffered := [(5, true, false, [6]), (6, false, true, [7]), (7, true, false, [8])] }
    let sm := flowing m tx0
    s.rx? 1 2 = some rx0 ∧ rx0.unreported = true ∧ (flowing q tx0).rx? 1 2 = some q ∧ q.unreported = false ∧ sb.rx? 1 2 = some b
    ∧ ((5 : W32) - b.cumPsn + 0x80000000#32).toNat ≤ 2 ^ 31 ∧ sm.rx? 1 2 = some m ∧ messagePsns m.buffered 2049 5 = some [5, 6]
    ∧ (∀ e ∈ m.buffered, ((5 : W32) - m.cumPsn + 0x80000000#32).toNat ≤ (e.1 - m.cumPsn + 0x80000000#32).toNat)
    ∧ (([5, 6] : List W32).all fun q => decide ((q - m.cumPsn + 0x80000000#32).toNat ≤ 2 ^ 31)) = true ∧ messagePsns m.buffered 2049 6 = some [6]
    ∧ messagePsns m.buffered 2049 7 = none := by decide +kernel
theorem wit_FlowSends_2 :
    let s := flowing rx0 tx0
    let l := flowing rx0 { tx0 with expiries := 2 }
    (l.tx 1 2).opened = true ∧ (l.tx 1 2).unacked ≠ [] ∧ 2 ≤ (l.tx 1 2).expiries ∧ (up.tx 1 2).opened = false ∧ s.others.contains 1 = false
    ∧ (s.tx 1 2).grant < 2 ^ 31 ∧ ((s.tx 1 2).nextPsn - BitVec.ofNat 32 (s.tx 1 2).returnedSeen).toNat ≤ (s.tx 1 2).grant ∧ (s.tx 1 2).opened = true
    ∧ (s.tx 1 2).unacked ≠ [] ∧ (s.tx 1 2).auditing = false ∧ (s.tx 1 2).expiries < 2 ∧ (up.tx 1 2).unacked = [] ∧ (up.tx 1 2).auditing = false
    ∧ (1 : W32).toNat ≠ (assocGet 2 (s.peer 1).ceSeen).getD 0 ∧ (s.peer 1).lowered = none := by decide +kernel
theorem wit_Exchanges_1 :
    let x : Exchange := { id := 3, rank := 1, kind := 0, sid := 7 }
    let s := { up with fabric := { up.fabric with exchanges := [{ x with kind := 1 }, x, { x with id := 4, kind := 1 }] } }
    let q := waitSub { sub7 { opcode := 0x10 } with running := true } { up with ans := { up.ans with reqs := [seeking] } }
    s.fabric.exchanges.find? (fun x => x.id == 3 && x.kind == 0) = some x ∧ (∀ x ∈ s.fabric.exchanges, x.id = 4 → x.kind ≠ 0) ∧ up.req? 7 = none
    ∧ q.req? 7 = some seeking ∧ 2 ∉ seeking.awaiting ∧ 1 ∈ seeking.awaiting ∧ seeking.stage = .scan := by decide +kernel
theorem wit_Exchanges_3 :
    let o : Req := { seeking with loads := [(1, 80)] }
    let q := waitSub { sub7 { opcode := 0x10 } with running := true } { up with ans := { up.ans with reqs := [o] } }
    q.req? 7 = some o ∧ 1 ∈ o.awaiting ∧ o.stage = .scan ∧ (assocGet 1 o.loads).getD 0 = 80 ∧ o.overran = false := by decide +kernel
theorem wit_Exchanges_2 :
    let c : Cand := { locator := 5, slice := { segment := 0, partition := 0, channel := 0 }, ordinal := 0, dist := 4, member := 1 }
    let q := fun (r : Req) => waitSub { sub7 { opcode := 0x10 } with running := true } { up with ans := { up.ans with reqs := [r] } }
    let e := { seeking with stage := .exact, merged := [c, { c with member := 0 }] }
    let f := { e with stage := .fetch }
    (q e).req? 7 = some e ∧ 1 ∈ e.awaiting ∧ e.stage = .exact ∧ (q f).req? 7 = some f ∧ 1 ∈ f.awaiting ∧ f.stage = .fetch
    ∧ f.reply 1 (.exact []) = none := by decide +kernel
theorem first_others (s : State) (hk : s.boot.identityKey = up.boot.identityKey) : (first s).others = [1] := head_others rfl hk
theorem first_rank0 (s : State) (hk : s.boot.identityKey = up.boot.identityKey) : (first s).ownRank = 0 := head_rank rfl hk
theorem second_rank (s : State) (hk : s.boot.identityKey = up.boot.identityKey) : (second s).ownRank = 1 := tail_rank rfl hk
/-- A peer of epoch 2, DOWN at epoch 1 before. -/
def peered : State := (first up).modPeer 1 fun y => { y with deadEpoch := 1, knownEpoch := 2 }
theorem peered_others : peered.others = [1] := head_others rfl rfl
theorem wit_WoanePackets_1 : (peered.bumpPort 1 0).others.contains 1 = true ∧ ((peered.bumpPort 1 0).bumpPort 1 5).others.contains 1 = true
    ∧ (peered.bumpPort 1 0).fabric.plot.isSome = true ∧ (0 : W32) = (peered.bumpPort 1 0).plotId.truncate 32 ∧ ((peered.bumpPort 1 0).peer 1).foreign = false
    ∧ ((peered.bumpPort 1 0).peer 1).deadEpoch = 1 ∧ ((peered.bumpPort 1 0).peer 1).knownEpoch = 2 ∧ (peered.bumpPort 1 0).fabric.epoch = 0 := by
  have h1 : (peered.bumpPort 1 0).others = [1] := head_others rfl rfl
  have h2 : ((peered.bumpPort 1 0).bumpPort 1 5).others = [1] := head_others rfl rfl
  rw [h1, h2]
  exact ⟨rfl, rfl, rfl, by decide +kernel, rfl, rfl, rfl, rfl⟩
theorem wit_WoanePackets_2 : let s := first up; let s1 := s.modPeer 1 fun p => { p with foreign := false }
    s.others.contains 1 = true ∧ (1 : W64) ≠ s.plotId ∧ s.others.contains 5 = false ∧ (s1.peer 1).foreign = false ∧ s1.others.contains 1 = true
    ∧ (1 : W32) ≠ s.plotId.truncate 32 ∧ (s1.peer 1).deadEpoch < 1 ∧ ({ plotId := 0, listDigest := [], portMask := 0, dead := true, deadEpoch := 3 } : HelloBody).deadEpoch < (first { up with fabric := { up.fabric with epoch := 4 } }).fabric.epoch := by
  intro s s1
  rw [show s.others = [1] from first_others up rfl, show s1.others = [1] from head_others rfl rfl]
  exact ⟨rfl, by decide +kernel, rfl, rfl, rfl, by decide +kernel, by decide +kernel, by decide +kernel⟩
theorem wit_PeerDown_1 : (first up).others.contains 1 = true ∧ ((first up).peer 1).down = false ∧ (first up).others.contains 0 = false := by
  rw [first_others up rfl]
  exact ⟨rfl, rfl, rfl⟩
theorem wit_FlowReceives_1 : let t := first (flowing rx0 tx0); (first up).others.contains 1 = true ∧ (first up).rx? 1 2 = none
    ∧ t.others.contains 1 = true ∧ t.rx? 1 2 = some rx0 ∧ t.others.contains 0 = false := by
  intro t
  rw [first_others up rfl, show t.others = [1] from first_others _ rfl]
  exact ⟨rfl, rfl, rfl, by decide +kernel, rfl⟩
theorem wit_FlowSends_1 : (first up).others.contains 1 = true ∧ ((first up).tx 1 2).opened = false ∧ (first up).others.contains 0 = false
    ∧ ((first (flowing rx0 tx0)).tx 1 2).opened = true := by
  rw [first_others up rfl]
  exact ⟨rfl, rfl, rfl, by decide +kernel⟩
theorem first_sequencer (s : State) : (first s).sequencer = 0 := by
  rw [State.sequencer, head_ranks (s := first s) rfl]; rfl
theorem second_sequencer (s : State) : (second s).sequencer = 0 := by
  rw [State.sequencer, tail_ranks (s := second s) rfl]; rfl
/-- A commit list that adds and removes nothing. -/
def empty9 : CommitList := {}
/-- The member with the commit of submission 9 carried to the sequencer. -/
def carrying : Index := { member with carried := [(9, empty9)] }
/-- The commit of this sled. -/
def commit9 : PlotCommit := { commit1 with rank := 0, sid := 9, yes := [] }
/-- A sled that holds that member, and commits. -/
def bearing (cs : List PlotCommit) (ps : List PlotPrepared) : State :=
  let s := indexed carrying
  { s with fabric := { s.fabric with plotCommits := cs, prepared := ps } }
theorem wit_PlotCommits_1 : let s := first (serving [commit1] []); s.sequencer = s.ownRank ∧ s.plotIndex? 2 = some member
    ∧ (∀ y ∈ s.fabric.plotCommits, ¬ (y.plot = 2 ∧ y.rank = 1 ∧ y.sid = 9)) ∧ 1 ≠ s.ownRank ∧ s.others.contains 1 = true
    ∧ s.fabric.plotCommits.find? (fun y => y.plot == 2) = some commit1 ∧ commit1.phase = .preparing ∧ commit1.yes ≠ []
    ∧ (∃ y ∈ s.fabric.plotCommits, y.plot = 2 ∧ y.rank = 1 ∧ y.sid = 8) ∧ 5 ≠ s.ownRank ∧ s.others.contains 5 = false ∧ (∀ r ∈ s.ranks, r = 1 ∨ r ∈ commit1.yes)
    ∧ s.plotIndex? 3 = none := by
  intro s
  rw [show s.sequencer = 0 from first_sequencer _, show s.ownRank = 0 from first_rank0 _ rfl, show s.others = [1] from first_others _ rfl,
    show s.ranks = [0, 1] from head_ranks rfl]
  exact ⟨rfl, by decide +kernel, by decide +kernel, by decide, rfl, rfl, rfl, by decide, by decide +kernel, by decide, rfl, by decide, by decide +kernel⟩
theorem wit_PlotCommits_1b : let s := first (bearing [] []); s.sequencer = s.ownRank ∧ s.plotIndex? 2 = some carrying ∧ 0 = s.ownRank
    ∧ (¬ ∃ y ∈ s.fabric.plotCommits, y.plot = 2 ∧ y.rank = 0 ∧ y.sid = 9) ∧ carrying.carried.find? (fun e => e.1 == 9) = some (9, empty9) := by
  intro s
  rw [show s.sequencer = 0 from first_sequencer _, show s.ownRank = 0 from first_rank0 _ rfl]
  exact ⟨rfl, by decide +kernel, rfl, by decide +kernel, rfl⟩
theorem wit_PlotCommits_2 : let s := first (serving [{ commit1 with yes := [] }] []); 0 ∈ s.ranks ∧ (0 : Nat) ≠ 1 ∧ 0 ∉ ({ commit1 with yes := [] } : PlotCommit).yes
    ∧ ∀ y ∈ s.fabric.plotCommits, y.plot = 2 → y.sid = 8 → y.rank = 1 → y = { commit1 with yes := [] } := by
  intro s
  rw [show s.ranks = [0, 1] from head_ranks rfl]
  exact ⟨by decide, by decide, by decide, by decide +kernel⟩
theorem wit_PlotCommits_3 : let p : PlotPrepared := { plot := 2, base := 1, rank := 0 }; let t := second (serving [] [p])
    (t.plotIndex? 2).isSome = true ∧ t.sequencer ≠ t.ownRank ∧ t.prepared? 2 = some p ∧ p.rank ≠ t.ownRank ∧ p.base ≠ 0 ∧ t.prepared? 3 = none := by
  intro p t
  rw [show t.sequencer = 0 from second_sequencer _, show t.ownRank = 1 from second_rank _ rfl]
  exact ⟨rfl, by decide, rfl, by decide, by decide, rfl⟩
theorem wit_PlotCommits_4 : let p : PlotPrepared := { plot := 2, base := 1, rank := 1 }; let t := second (bearing [] [p])
    t.prepared? 2 = some p ∧ t.sequencer ≠ t.ownRank ∧ p.rank = t.ownRank ∧ (t.applyPlot 2 false).plotIndex? 2 = some carrying ∧ carrying.carried = [(9, empty9)] := by
  intro p t
  rw [show t.sequencer = 0 from second_sequencer _, show t.ownRank = 1 from second_rank _ rfl]
  exact ⟨by decide +kernel, by decide, rfl, by decide +kernel, rfl⟩
theorem wit_PlotCommits_5 (l : List Nat) : let c := { commit9 with phase := .committed, confirmed := l }; let s := first (bearing [c] [])
    s.fabric.plotCommits.find? (fun y => y.plot == 2) = some c ∧ s.sequencer = s.ownRank ∧ c.phase = .committed ∧ s.others.contains 1 = true ∧ s.ranks = [0, 1] := by
  intro c s
  rw [show s.sequencer = 0 from first_sequencer _, show s.ownRank = 0 from first_rank0 _ rfl, show s.others = [1] from first_others _ rfl]
  exact ⟨rfl, rfl, rfl, rfl, head_ranks rfl⟩
theorem wit_PlotCommits_6 : let s := second (bearing [] []); s.sequencer ≠ s.ownRank ∧ s.plotIndex? 2 = some carrying ∧ 0 = s.sequencer
    ∧ carrying.carried = [(9, empty9)] ∧ 1 = carrying.current ∧ s.prepared? 2 = none := by
  intro s
  rw [show s.sequencer = 0 from second_sequencer _, show s.ownRank = 1 from second_rank _ rfl]
  exact ⟨by decide, by decide +kernel, rfl, rfl, rfl, by decide +kernel⟩
theorem wit_PlotMembers_1 : let s := first (serving [] []); s.plotIndex? 2 = some member ∧ s.others.contains 1 = true
    ∧ s.servedVersion member 1 = some { number := 1, segments := [0] } ∧ s.plotIndex? 3 = none ∧ s.fabric.summaries = [] ∧ s.servedVersion member 8 = none
    ∧ s.others.contains 5 = false ∧ member.current ≤ 1 ∧ 0 < member.current := by
  intro s
  rw [show s.others = [1] from first_others _ rfl]
  exact ⟨by decide +kernel, rfl, by decide +kernel, by decide +kernel, rfl, by decide +kernel, rfl, by decide, by decide⟩
theorem settling_digest (p : Option PlotSettings) : (settling p).idDigest = emptyDigest.take 16 := by
  rw [State.idDigest, show (settling p).boot.identityKey = [] from rfl, test_sha3_empty]
theorem settling_plot (p : Option PlotSettings) : (settling p).fabric.plot = p := rfl
/-- The settings that the buffer holds. -/
def plot77 : PlotSettings :=
  { plotId := 77, members := [{ digest := emptyDigest.take 16 }, { digest := [1] ++ List.replicate 15 0 }], plotIndexes := [(h kindIndex 0, 2)] }
theorem plot77_parsed : parsePlot (plotBuf (emptyDigest.take 16)) = plot77 := by decide +kernel
theorem wit_SetPlot_1 : let b := plotBuf (emptyDigest.take 16); let s := settling none; Begins s 7 0xEB set7 ∧ set7.readB (some b) = some b ∧ plotFormOk b 136 = true
    ∧ set7.entry.length.toNat = 136 ∧ s.boot.update = none ∧ (∀ e ∈ plot77.plotIndexes, (s.index? e.1).isSome = true) ∧ s.entriesOk plot77 = true
    ∧ plotFormOk (plotBuf [1]) 136 = false ∧ Begins (noIndex s) 7 0xEB set7 ∧ (∃ e ∈ plot77.plotIndexes, (noIndex s).index? e.1 = none)
    ∧ (noIndex s).entriesOk plot77 = true := by decide +kernel
theorem wit_SetPlot_1d : (noIndex (settling none)).membersOk plot77 = true := by
  simp only [State.membersOk, State.idDigest, show (noIndex (settling none)).boot.identityKey = [] from rfl, test_sha3_empty,
    show (noIndex (settling none)).fabric.plot = none from rfl]
  decide +kernel
theorem wit_SetPlot_1b : let s := settling none; s.membersOk plot77 = true ∧ s.emptied plot77 = [] := by
  intro s
  have hp : s.fabric.plot = none := rfl
  constructor
  · simp only [State.membersOk, settling_digest, s, settling_plot]
    decide +kernel
  · simp only [State.emptied, hp, List.filter_eq_nil_iff]
    exact fun _ _ => by decide
/-- Settings with another second member. -/
def plotOld : PlotSettings := { members := [{ digest := emptyDigest.take 16 }, { digest := [9] }], plotIndexes := [(h kindIndex 0, 2)] }
theorem wit_SetPlot_1c : let s := settling (some plotOld); s.membersOk plot77 = true ∧ s.entriesOk plot77 = true ∧ 1 ∈ s.emptied plot77 ∧ s.rankHolds 1 = true := by
  intro s
  refine ⟨?_, by decide +kernel, ?_, by decide +kernel⟩
  · simp only [State.membersOk, settling_digest, s, settling_plot]
    decide +kernel
  · simp only [State.emptied, State.others, State.ranks, State.ownRank, State.ownRank?, settling_digest, s, settling_plot]
    decide +kernel

/-! ### The stated rules -/

theorem wit_QueueHandles_1 :
    (up.queues.map (·.index)).Nodup ∧ up.freeQueue = some 0 := by decide +kernel
theorem wit_ErrorsCountedOnce_1 :
    let s := logged [{ ceRec with count := 3 }] up
    let e := { ce with unitIndex := 66 }
    s.integ.unlogged.length = 4 ∧ (s.integ.log.filter fun r => r.takes ce).length ≤ 1
    ∧ s.integ.unlogged.all (fun c => decide (c.toNat < 2 ^ 64 - 1)) = true ∧ (∃ r ∈ s.integ.log, r.takes ce = true)
    ∧ (∀ r ∈ s.integ.log, r.takes e = false) ∧ (s.integ.log.filter fun r => r.takes e).length ≤ 1 ∧ s.integ.log.length < 65520 := by decide +kernel
theorem wit_ErrorsCountedOnce_2 :
    True := by decide +kernel
theorem wit_KvBytesMustMatch_1 :
    let u := sub7 { opcode := 0x20, length := 4352 }
    let s := wait u.entry keyed
    let p : Package := { header := leBytes 128 (0x4A535449 + 2 ^ 32 + 3 * 2 ^ 48 + 2 ^ 80 + 2 ^ 96 + 16 * 2 ^ 112 + 64 * 2 ^ 160), table := [], signedBy := some 2 }
    Waits s 7 0x20 u ∧ (u.readB (some p.header)).isSome = true ∧ (parseImageHeader p.header).cls = clsGen
    ∧ kvElemBytes (parseImageHeader p.header).kvFmt = some 1
    ∧ (parseImageHeader p.header).kvBytes ≠ 2 * (parseImageHeader p.header).kvHeads * (parseImageHeader p.header).headDim * 1 := by decide +kernel
theorem wit_TokenBudgets_1 :
    let s := waitSub ask7 asked
    let f := fun (mode budget new : Nat) => leBytes 128 (new * 2 ^ 784 + mode * 2 ^ 768 + 2 ^ 752 + budget * 2 ^ 736 + 2 ^ 720 + (h kindModel 1).toNat * 2 ^ 576 + (h kindModel 0).toNat * 2 ^ 512 + (h kindIndex 0).toNat * 2 ^ 448 + 32 * 2 ^ 416 + 112 * 2 ^ 384 + c0.toNat * 2 ^ 352)
    s.sub? 7 = some ask7 ∧ ask7.entry.opcode = 0x10 ∧ ask7.due = none ∧ ask7.running = true ∧ s.ans.reqs = []
    ∧ ask7.readB (some (f 2 65 0)) = some (f 2 65 0) ∧ ask7.readB (some (f 3 60 5)) = some (f 3 60 5)
    ∧ s.modelImage (parseAnswer (f 2 65 0)).genModel = some genImage ∧ (parseAnswer (f 2 65 0)).mode = modeHandoff
    ∧ genImage.header.maxSeq < (parseAnswer (f 2 65 0)).tokenBudget ∧ (parseAnswer (f 3 60 5)).mode = modeAnswer
    ∧ genImage.header.maxSeq < (parseAnswer (f 3 60 5)).tokenBudget + (parseAnswer (f 3 60 5)).maxNew := by decide +kernel
theorem wit_ErrorsCountedOnce_3 : (∀ r ∈ full.integ.log, r.takes ce = false) ∧ (full.integ.log.filter fun r => r.takes ce).length ≤ 1
    ∧ full.integ.unlogged.length = 4 ∧ ∀ c ∈ full.integ.unlogged, c.toNat < 2 ^ 64 - 1 := by
  have h := wit_ErrorLog_2.1
  refine ⟨h, ?_, rfl, fun c hc => ?_⟩
  · rw [List.filter_eq_nil_iff.mpr (fun r hr => by rw [h r hr]; decide)]
    decide
  · have e : full.integ.unlogged = [0, 0, 0, 0] := rfl
    rw [e] at hc
    simp only [List.mem_cons, List.not_mem_nil, or_false, or_self] at hc
    rw [hc]; decide

theorem wit_ErrorsCountedOnce_4 : ∃ t, exec .helloTimer up = .next t := ⟨_, rfl⟩

end Sys2Proof.Tests
end

section
/-! PROOFS. Every command answers (O2); what a reset of the sled gives, field by field (O24). -/

namespace Sys2Proof.Machine

open Sys2Proof

/-- Settles O2: one arm for each command, and each is a next state by its definition but those of MEMORY_READ and FILL,
which look at the address first (R24, R87, R160). -/
theorem execTotal : Obligations.ExecTotal := by
  intro c s
  cases c with
  | memoryRead unit addr flipped merge raced =>
    by_cases h : memBytes unit ≤ addr
    · exact .inr ⟨memFault unit, if_pos h, .inl ⟨unit, addr, flipped, merge, raced, rfl⟩⟩
    · exact .inl ⟨_, if_neg h⟩
  | fill unit addr words pattern =>
    by_cases h : memBytes unit < addr / 8 * 8 + 8 * words
    · exact .inr ⟨memFault unit, if_pos h, .inr ⟨unit, addr, words, pattern, rfl⟩⟩
    · exact .inl ⟨_, if_neg h⟩
  | _ => exact .inl ⟨_, rfl⟩

@[simp] theorem resetNow_power (s : State) : s.resetNow.power = s.power.afterReset := rfl
@[simp] theorem resetNow_boot (s : State) : s.resetNow.boot = s.boot.afterReset s.free := rfl
@[simp] theorem resetNow_conns (s : State) : s.resetNow.hp.conns = [] := rfl
@[simp] theorem resetNow_sasel (s : State) : s.resetNow.sasel = { keys := s.sasel.keys } := rfl
@[simp] theorem resetNow_queues (s : State) : s.resetNow.queues = [] := rfl
@[simp] theorem resetNow_work (s : State) : s.resetNow.work = {} := rfl
@[simp] theorem resetNow_ans (s : State) : s.resetNow.ans = {} := rfl
@[simp] theorem resetNow_models (s : State) : s.resetNow.img.models = [] := rfl
@[simp] theorem resetNow_loom (s : State) : s.resetNow.loom =
    { retired := s.loom.retired ++ s.loom.takeover.filter (fun c => !s.loom.retired.contains c), out := s.loom.out } := rfl
@[simp] theorem resetNow_mems (s : State) : s.resetNow.mems = {} := rfl
@[simp] theorem resetNow_retiredStacks (s : State) : s.resetNow.tiers.retiredStacks = s.tiers.retiredStacks := rfl
@[simp] theorem resetNow_flash (s : State) : s.resetNow.flash = s.flash.afterReset s.openRuns := rfl
@[simp] theorem resetNow_integ (s : State) : s.resetNow.integ =
    { history := s.integ.history, granules := s.integ.granules, banks := s.integ.banks, pages := s.integ.pages } := rfl
@[simp] theorem resetNow_fail (s : State) : s.resetNow.fail = (s.fail).afterReset := rfl
@[simp] theorem resetNow_out (s : State) : s.resetNow.out = s.out := rfl
@[simp] theorem resetNow_pclk (s : State) : s.resetNow.pclk = 0 := rfl
@[simp] theorem resetNow_pending (s : State) : s.resetNow.pending = s.pending := rfl

/-- After a completed update in recovery the sled resets. -/
theorem recoveryReset_resets {s : State} (h : s.boot.recoveryDone = true) : exec .recoveryReset s = .next s.resetNow :=
  congrArg Host.Outcome.next (if_pos h)

/-- Settles O24: the reset that follows is `resetNow`, whose fields are the new ones or what each part keeps. -/
theorem resetKeepsWhatPersists : Obligations.ResetKeepsWhatPersists := by
  intro s h
  refine ⟨s.resetNow, recoveryReset_resets h, ?_⟩
  have hc : ∀ c ∈ s.loom.retired, c ∈ s.resetNow.loom.retired := fun c hc => List.mem_append_left _ hc
  simpa [SameIdentity, Boot.afterReset, Flash.afterReset, Failover.afterReset, Power.afterReset] using hc

end Sys2Proof.Machine
end

section
/-! PROOFS. Frames of the shared operations that the statements of chapter 1 need: what they leave of the power state and
of the failover state. -/

namespace Sys2Proof.Machine

open Sys2Proof

/-- A fold keeps what each of its steps keeps. -/
theorem foldl_keeps {σ α β : Type} (f : σ → β) {g : σ → α → σ} (h : ∀ s x, f (g s x) = f s) :
    ∀ (l : List α) (s : σ), f (l.foldl g s) = f s
  | [], _ => rfl
  | x :: l, s => (foldl_keeps f h l (g s x)).trans (h s x)

/-! ### The error log (R371, R374) -/

/-- An error that is logged takes an event number and changes the log engine. -/
theorem logError_frame (s : State) (e : ErrEvent) : s.logError e =
    { s with integ := (s.logError e).integ, sasel := { s.sasel with eventSeq := s.sasel.eventSeq + 1 } } := by
  unfold State.logError
  dsimp only
  split
  · rfl
  · split <;> rfl

@[simp] theorem logError_power (s : State) (e : ErrEvent) : (s.logError e).power = s.power := by rw [logError_frame]
@[simp] theorem logError_fail (s : State) (e : ErrEvent) : (s.logError e).fail = s.fail := by rw [logError_frame]
@[simp] theorem unitFail_power (s : State) (t i c : Nat) : (s.unitFail t i c).power = s.power := logError_power ..
@[simp] theorem unitFail_fail (s : State) (t i c : Nat) : (s.unitFail t i c).fail = s.fail := logError_fail ..

/-! ### Takeovers and readiness bits (R386, R403, R407) -/

@[simp] theorem declare_power (s : State) (k u : Nat) : (s.declare k u).power = s.power := rfl
@[simp] theorem declare_lasersIn (s : State) (k u : Nat) : ((s.declare k u).fail).lasersIn = (s.fail).lasersIn := rfl
@[simp] theorem takeoverDone_power (s : State) (k u : Nat) : (s.takeoverDone k u).power = s.power := rfl
@[simp] theorem takeoverDone_lasersIn (s : State) (k u : Nat) : ((s.takeoverDone k u).fail).lasersIn = (s.fail).lasersIn := rfl

/-- Dropping readiness bits keeps whatever the bits are no part of. -/
theorem dropBits_keeps {α : Type} (f : State → α) (h : ∀ s i b, f (s.setReady i b) = f s) (s : State) : f s.dropBits = f s := by
  have drop : ∀ (s : State) (i : Nat), f (if s.isReady i && !s.bitCond i then s.setReady i false else s) = f s := by
    intro s i
    split
    · exact h s i false
    · rfl
  exact (foldl_keeps f drop _ _).trans (foldl_keeps f (fun s p => drop s (bitFp p)) _ s)

@[simp] theorem dropBits_power (s : State) : s.dropBits.power = s.power := dropBits_keeps _ (fun _ _ _ => rfl) s
@[simp] theorem dropBits_fail (s : State) : s.dropBits.fail = s.fail := dropBits_keeps _ (fun _ _ _ => rfl) s

/-! ### Ports and Woane packets (R334, R341, R350) -/

@[simp] theorem emit_power (s : State) (o : Out) : (s.emit o).power = s.power := by rw [emit_frame]
@[simp] theorem emit_fail (s : State) (o : Out) : (s.emit o).fail = s.fail := by rw [emit_frame]

@[simp] theorem sendPacket_power (s : State) (b k c : Nat) (psn : W32) (x y : Bool) (p : Buf) :
    (s.sendPacket b k c psn x y p).power = s.power := by
  unfold State.sendPacket
  split
  · rfl
  · exact emit_power _ _

@[simp] theorem sendPacket_fail (s : State) (b k c : Nat) (psn : W32) (x y : Bool) (p : Buf) :
    (s.sendPacket b k c psn x y p).fail = s.fail := by
  unfold State.sendPacket
  split
  · rfl
  · exact emit_fail _ _

@[simp] theorem helloAll_power (s : State) : s.helloAll.power = s.power := foldl_keeps _ (fun _ _ => sendPacket_power ..) _ _
@[simp] theorem helloAll_fail (s : State) : s.helloAll.fail = s.fail := foldl_keeps _ (fun _ _ => sendPacket_fail ..) _ _

/-- An AUDIT is a packet on a flow that is open, or nothing. -/
theorem audit_keeps {α : Type} (f : State → α) (ht : ∀ s x, f (s.setTx x) = f s) (hb : ∀ s p k, f (s.bumpPort p k) = f s)
    (hs : ∀ s b k c psn x y p, f (s.sendPacket b k c psn x y p) = f s) (s : State) (b c : Nat) : f (s.audit b c) = f s := by
  unfold State.audit
  dsimp only
  split
  · split
    · rfl
    · rw [hs, hb, ht]
  · rfl

@[simp] theorem audit_power (s : State) (b c : Nat) : (s.audit b c).power = s.power :=
  audit_keeps _ (fun _ _ => rfl) (fun _ _ _ => rfl) sendPacket_power s b c
@[simp] theorem audit_fail (s : State) (b c : Nat) : (s.audit b c).fail = s.fail :=
  audit_keeps _ (fun _ _ => rfl) (fun _ _ _ => rfl) sendPacket_fail s b c

@[simp] theorem auditChanged_power (s : State) (old : Nat → Nat → Option (Nat × Nat)) : (s.auditChanged old).power = s.power :=
  foldl_keeps _ (fun s (x : TxFlow) => audit_power s x.rank x.cls) _ s
@[simp] theorem auditChanged_fail (s : State) (old : Nat → Nat → Option (Nat × Nat)) : (s.auditChanged old).fail = s.fail :=
  foldl_keeps _ (fun s (x : TxFlow) => audit_fail s x.rank x.cls) _ s

theorem settleReroute_keeps {α : Type} (f : State → α) (h : ∀ s u, f (s.takeoverDone 5 u) = f s) (s : State) : f s.settleReroute = f s := by
  unfold State.settleReroute
  split
  · rfl
  · exact foldl_keeps f h _ _

@[simp] theorem settleReroute_power (s : State) : s.settleReroute.power = s.power := settleReroute_keeps _ (fun _ _ => rfl) s
@[simp] theorem settleReroute_lasersIn (s : State) : (s.settleReroute.fail).lasersIn = (s.fail).lasersIn :=
  settleReroute_keeps (fun s => (s.fail).lasersIn) (fun _ _ => rfl) s

@[simp] theorem modPort_power (s : State) (n : Nat) (f : Port → Port) : (s.modPort n f).power = s.power := by
  unfold State.modPort; split <;> rfl
@[simp] theorem modPort_fail (s : State) (n : Nat) (f : Port → Port) : (s.modPort n f).fail = s.fail := by
  unfold State.modPort; split <;> rfl

@[simp] theorem portDown_power (s : State) (n : Nat) : (s.portDown n).power = s.power := by simp [State.portDown]
@[simp] theorem portDown_fail (s : State) (n : Nat) : (s.portDown n).fail = s.fail := by simp [State.portDown]

@[simp] theorem portLoss_power (s : State) (p : Nat) : (s.portLoss p).power = s.power := by
  unfold State.portLoss
  split
  · rfl
  · split
    · simp
    · rfl

@[simp] theorem portLoss_lasersIn (s : State) (p : Nat) : ((s.portLoss p).fail).lasersIn = (s.fail).lasersIn := by
  unfold State.portLoss
  split
  · rfl
  · split
    · simp
    · rfl

/-! ### Light (R393, R394) -/

/-- Relighting keeps whatever lighting, the loss of a fabric port and the fall of the host port keep. -/
theorem relight_keeps {α : Type} (f : State → α) (hl : ∀ s, f s.light = f s) (hp : ∀ s p, f (s.portLoss p) = f s)
    (hd : ∀ s n, f (s.portDown n) = f s) (s : State) : f s.relight = f s := by
  have lose : ∀ (t : State) (p : Nat), f (match t.fabric.ports[p]? with
      | some x => if x.mapped 4 then t else t.portLoss p
      | none => t) = f t := by
    intro t p
    split
    · split
      · rfl
      · exact hp t p
    · rfl
  unfold State.relight
  dsimp only
  split
  · exact (hd _ 0).trans ((foldl_keeps f lose _ _).trans (hl s))
  · exact (foldl_keeps f lose _ _).trans (hl s)

@[simp] theorem relight_power (s : State) : s.relight.power = s.power :=
  relight_keeps (fun s => s.power) (fun _ => rfl) portLoss_power portDown_power s
@[simp] theorem relight_lasersIn (s : State) : (s.relight.fail).lasersIn = (s.fail).lasersIn :=
  relight_keeps (fun s => (s.fail).lasersIn) (fun _ => rfl) portLoss_lasersIn (fun s n => congrArg Failover.lasersIn (portDown_fail s n)) s

@[simp] theorem laserFault_power (s : State) (m : Nat) (r : Bool) : (s.laserFault m r).power = s.power := by
  unfold State.laserFault
  dsimp only
  split
  · rfl
  · split <;> simp

/-- A module in service that faults leaves service. -/
theorem laserFault_lasersIn {s : State} {m : Nat} (r : Bool) (hm : m < 4) (h : (s.fail).lasersIn.getLsbD m = true) :
    ((s.laserFault m r).fail).lasersIn = setBit (s.fail).lasersIn m false := by
  simp [State.laserFault, Nat.not_le.2 hm, h, State.modFail]

/-! ### Writes on channels that leave service, and hubs (R247, R396, R399) -/

@[simp] theorem program_power (s : State) (p : Programming) : (s.program p).power = s.power := rfl

@[simp] theorem programExtent_power (s : State) (sid : Option Nat) (o : FlashObj) (e : Nat) (d : Buf) :
    (s.programExtent sid o e d).power = s.power := by
  unfold State.programExtent
  dsimp only
  split
  · exact (program_power _ _).trans (program_power _ _)
  · exact program_power _ _

@[simp] theorem nextUnit_power (s : State) (j : WriteJob) : (s.nextUnit j).power = s.power := by
  unfold State.nextUnit
  split
  · rfl
  · split
    · rfl
    · dsimp only
      split
      · rfl
      · split
        · rfl
        · simp

@[simp] theorem failProgram_power (s : State) (sid : Nat) : (s.failProgram sid).power = s.power := by
  unfold State.failProgram; split <;> rfl

@[simp] theorem kickWrites_power (s : State) : s.kickWrites.power = s.power := foldl_keeps _ nextUnit_power _ s

@[simp] theorem failWrites_power (s : State) (l : List Nat) : (s.failWrites l).power = s.power := by
  unfold State.failWrites
  dsimp only
  rw [kickWrites_power, State.modFlash_power, foldl_keeps State.power failProgram_power]

@[simp] theorem dropSieves_power (s : State) (l : List Nat) : (s.dropSieves l).power = s.power := rfl

@[simp] theorem pairOut_power (s : State) (h : Nat) : (s.pairOut h).power = s.power := by simp [State.pairOut]

@[simp] theorem failHub_power (s : State) (h c : Nat) : (s.failHub h c).power = s.power := by
  unfold State.failHub
  dsimp only
  split
  · rfl
  · split <;> simp

/-! ### Counters on config flash (R419, R423) -/

@[simp] theorem cfgProgram_power (s : State) (a : Nat) (v : W32) : (s.cfgProgram a v).power = s.power := by
  unfold State.cfgProgram; dsimp only; split <;> rfl
@[simp] theorem cfgErase_power (s : State) (sector : Nat) : (s.cfgErase sector).power = s.power := rfl

@[simp] theorem ctrIncrement_power (s : State) (c : Nat) : (s.ctrIncrement c).power = s.power := by
  unfold State.ctrIncrement
  split
  · rfl
  · dsimp only
    split
    · rfl
    · split <;> simp

@[simp] theorem count_power (s : State) (c : Nat) : (s.count c).power = s.power := by
  unfold State.count
  split
  · rfl
  · exact ctrIncrement_power s c

/-- A counter counts at once while no update writes the image region. -/
theorem count_eq {s : State} (h : s.boot.update = none) (c : Nat) : s.count c = s.ctrIncrement c := by simp [State.count, h]

/-! What a counter does depends on the board of trust alone. -/

theorem cfgRead_congr {s t : State} (h : s.boot = t.boot) (a : Nat) : s.cfgRead a = t.cfgRead a := by
  rw [State.cfgRead, State.cfgRead, h]

theorem ctrActive_congr {s t : State} (h : s.boot = t.boot) (c : Nat) : s.ctrActive c = t.ctrActive c := by
  cases s; cases t; cases h; rfl

theorem counter_congr {s t : State} (h : s.boot = t.boot) (c : Nat) : s.counter c = t.counter c := by
  cases s; cases t; cases h; rfl

theorem ctrNext_congr {s t : State} (h : s.boot = t.boot) (c : Nat) : s.ctrNext c = t.ctrNext c := by
  cases s; cases t; cases h; rfl

theorem cfgProgram_congr {s t : State} (h : s.boot = t.boot) (a : Nat) (v : W32) : (s.cfgProgram a v).boot = (t.cfgProgram a v).boot := by
  simp only [State.cfgProgram, cfgRead_congr h, h]
  split
  · exact h
  · rfl

theorem cfgErase_congr {s t : State} (h : s.boot = t.boot) (x : Nat) : (s.cfgErase x).boot = (t.cfgErase x).boot := by
  simp only [State.cfgErase, h]

theorem ctrIncrement_congr {s t : State} (h : s.boot = t.boot) (c : Nat) : (s.ctrIncrement c).boot = (t.ctrIncrement c).boot := by
  have hp : ∀ a v, (s.cfgProgram a v).boot = (t.cfgProgram a v).boot := cfgProgram_congr h
  unfold State.ctrIncrement
  simp only [counter_congr h, ctrActive_congr h, ctrNext_congr h, cfgRead_congr h]
  split
  · exact h
  · cases t.ctrNext c with
    | none => exact h
    | some i =>
      simp only [ctrNext_congr (hp _ _)]
      split
      · exact hp _ _
      · exact cfgErase_congr (cfgProgram_congr (cfgProgram_congr (cfgErase_congr (hp _ _) _) _ _) _ _) _

/-- A counter that counts at once does so whatever the power state. -/
theorem count_with_power {s : State} (hu : s.boot.update = none) (p : Power) (c : Nat) :
    (({ s with power := p } : State).count c).boot = (s.ctrIncrement c).boot := by
  have h : ({ s with power := p } : State).boot = s.boot := rfl
  rw [count_eq (h ▸ hu), ctrIncrement_congr h]

end Sys2Proof.Machine
end

section
/-! PROOFS. The power state under a sample, a reading and a trip (chapter 18). -/

namespace Sys2Proof.Machine

open Sys2Proof

/-! ### Shed and flush (R254, R432, R463) -/

@[simp] theorem shed_power (s : State) : s.shed.power = s.power := by simp [State.shed, State.abandonTakeovers]

/-- The flush that starts. -/
theorem flush_starts {s : State} (c : FlushCause) (off : Bool) (h : s.power.flush = none) :
    (s.flush c off).power = { s.power with flush := some c, offAfterFlush := off } := by
  simp [State.flush, h, State.modPower]

/-- Once the sled has started, what turns the regulators off is a flush. -/
theorem flushOff_starts {s : State} (c : FlushCause) (hs : s.power.startedSince = true) (hf : s.power.flush = none) :
    (s.flushOff c).power = { s.power with flush := some c, offAfterFlush := true } := by
  rw [State.flushOff, if_pos hs, flush_starts c true hf]

/-- Before, they go off at once. -/
theorem flushOff_before {s : State} (c : FlushCause) (hs : s.power.startedSince = false) :
    (s.flushOff c).power = { s.power with regulatorsOn := false, pwrgd := false, startedSince := false } := by
  simp [State.flushOff, hs, State.powerOff, State.modPower]

/-- No submission is accepted while a flush runs. -/
theorem accepts_flushing {s : State} {c : FlushCause} (h : s.power.flush = some c) : s.accepts = false := by
  simp [State.accepts, State.flushing, h]

/-- What turns the regulators off touches the flush and the regulators only. -/
theorem flushOff_power_frame (s : State) (c : FlushCause) : (s.flushOff c).power =
    { s.power with flush := (s.flushOff c).power.flush, offAfterFlush := (s.flushOff c).power.offAfterFlush
                   regulatorsOn := (s.flushOff c).power.regulatorsOn, pwrgd := (s.flushOff c).power.pwrgd
                   startedSince := (s.flushOff c).power.startedSince } := by
  unfold State.flushOff
  split
  · unfold State.flush
    split
    · rfl
    · simp [State.modPower]
  · rfl

/-- A trip asserts THERMTRIP_L, latches, and turns the regulators off. -/
theorem thermalTrip_power_frame (s : State) : s.thermalTrip.power =
    { s.power with thermtrip := true, tripLatched := s.thermalTrip.power.tripLatched, flush := s.thermalTrip.power.flush
                   offAfterFlush := s.thermalTrip.power.offAfterFlush, regulatorsOn := s.thermalTrip.power.regulatorsOn
                   pwrgd := s.thermalTrip.power.pwrgd, startedSince := s.thermalTrip.power.startedSince } := by
  unfold State.thermalTrip
  split
  · rename_i h; rw [← h]
  · rw [flushOff_power_frame]; rfl

/-! ### Input samples (R27, R429, R430) -/

/-- No threshold acts while no count stands at three and the Start condition has not held for 10 ms. -/
theorem thresholds_idle {s : State} (hr : s.power.runReset ≠ 3) (ho : s.power.runOver ≠ 3) (hs : s.power.runSag ≠ 3)
    (hst : s.power.runStart < 10000) : s.thresholds = s := by
  simp [State.thresholds, hr, ho, hs, Nat.not_le.2 hst]

/-- No window ends without an excursion that has been in range for 10 ms and without an over-voltage trip. -/
theorem windows_idle {s : State} (he : s.power.excursion = false ∨ s.power.runRange < 10000) (ho : s.power.overTripped = false) :
    s.windows = s := by
  have h : ¬ (s.power.excursion = true ∧ 10000 ≤ s.power.runRange) := by
    rintro ⟨h1, h2⟩
    rcases he with he | he
    · simp [he] at h1
    · omega
  simp [State.windows, h, ho]

/-- A sample out of range begins an excursion, which counts once. -/
theorem noteExcursion_begins {s : State} (hp : s.power.pwrEn = true) (hs : s.power.startSeen = true) (he : s.power.excursion = false)
    (hr : s.power.inputMv < 46000 ∨ 58000 < s.power.inputMv) :
    s.noteExcursion = (s.modPower fun p => { p with leftRange := true, excursion := true }).count ctrSupply := by
  simp [State.noteExcursion, hp, hs, he, hr, State.modPower]

/-- A sample in range begins none. -/
theorem noteExcursion_inRange {s : State} (hl : 46000 ≤ s.power.inputMv) (hh : s.power.inputMv ≤ 58000) : s.noteExcursion = s := by
  simp [State.noteExcursion, Nat.not_lt.2 hl, Nat.not_lt.2 hh]

/-- No count stands at its threshold after a sample above 37.0 V and below 60.0 V that is not the third at 44.0 V or less. -/
theorem thresholds_sampled {s t : State} {mv : Nat} (hlo : 37000 < mv) (hhi : mv < 60000) (hsag : s.power.runSag ≠ 2 ∨ 44000 < mv)
    (hst : s.power.runStart < 9999)
    (ht : t.power = { s.power.sampled mv with leftRange := t.power.leftRange, excursion := t.power.excursion }) : t.thresholds = t := by
  apply thresholds_idle
  · rw [ht]; simp [Power.sampled, consecutive, Nat.not_le.2 hlo]
  · rw [ht]; simp [Power.sampled, consecutive, Nat.not_le.2 hhi]
  · rw [ht]
    simp only [Power.sampled, consecutive]
    split
    · rename_i h
      have := of_decide_eq_true h
      omega
    · decide
  · rw [ht]
    simp only [Power.sampled, consecutive]
    split <;> omega

/-- A sample out of range: the excursion begins by itself, and counts. -/
theorem inputSample_excursion {s : State} {mv : Nat} (hk : s.power.housekeeping = true) (hp : s.power.pwrEn = true)
    (hs : s.power.startSeen = true) (he : s.power.excursion = false) (hlo : 37000 < mv) (hhi : mv < 60000)
    (hsag : s.power.runSag ≠ 2 ∨ 44000 < mv) (ho : s.power.overTripped = false) (hr : mv < 46000 ∨ 58000 < mv)
    (hst : s.power.runStart < 9999) : exec (.inputSample mv) s = .next
      (({ s with power := { s.power.sampled mv with leftRange := true, excursion := true } } : State).count ctrSupply) := by
  have hn : (s.modPower (Power.sampled mv)).noteExcursion
      = ({ s with power := { s.power.sampled mv with leftRange := true, excursion := true } } : State).count ctrSupply :=
    noteExcursion_begins hp hs he hr
  have hw : (s.power.sampled mv).runRange = 0 := by
    have h : (decide (46000 ≤ mv) && decide (mv ≤ 58000)) = false := by
      simp only [Bool.and_eq_false_iff, decide_eq_false_iff_not]; omega
    simp only [Power.sampled, consecutive, h, Bool.false_eq_true, if_false]
  show Host.Outcome.next (if s.power.housekeeping = true then _ else _) = _
  rw [if_pos hk, hn, thresholds_sampled (s := s) hlo hhi hsag hst (by rw [count_power]), windows_idle]
  · exact .inr (by rw [count_power]; show (s.power.sampled mv).runRange < 10000; rw [hw]; decide)
  · rw [count_power]; exact ho

/-- A sample in range, with no excursion in progress, only moves the monitor's counts. -/
theorem inputSample_inRange {s : State} {mv : Nat} (hk : s.power.housekeeping = true) (he : s.power.excursion = false)
    (hlo : 46000 ≤ mv) (hhi : mv ≤ 58000) (ho : s.power.overTripped = false) (hst : s.power.runStart < 9999) :
    exec (.inputSample mv) s = .next { s with power := s.power.sampled mv } := by
  show Host.Outcome.next (if s.power.housekeeping = true then _ else _) = _
  rw [if_pos hk, noteExcursion_inRange hlo hhi, thresholds_sampled (s := s) (by omega) (by omega) (.inr (by omega)) hst rfl,
    windows_idle (s := s.modPower (Power.sampled mv)) (.inl he) ho]
  rfl

/-! ### Sensors (R444, R445) -/

/-- A coolant excursion begins with a reading out of the requirement and ends after 10 s within it. -/
theorem coolant_power (s : State) (r : Readings) : (s.coolant r).power =
    { s.power with runCoolant := if r.coolantOk then s.power.runCoolant + 1 else 0
                   coolant := !r.coolantOk || (s.power.coolant && decide (s.power.runCoolant + 1 < 10000)) } := by
  unfold State.coolant
  cases h : r.coolantOk
  · simp only [Bool.false_eq_true, if_false]
    split
    · rfl
    · rw [count_power]; rfl
  · rfl

theorem failHubs_power (l : List (Int × Nat)) (s : State) :
    (l.foldl (fun s t => if 10000 ≤ t.1 then s.failHub t.2 7 else s) s).power = s.power := by
  refine foldl_keeps State.power (fun s t => ?_) l s
  split
  · exact failHub_power ..
  · rfl

theorem laserFaults_power (l : List (Int × Nat)) (s : State) :
    (l.foldl (fun s t => if 7000 ≤ t.1 then s.laserFault t.2 false else s) s).power = s.power := by
  refine foldl_keeps State.power (fun s t => ?_) l s
  split
  · exact laserFault_power ..
  · rfl

/-- A reading is taken, with its demands and pauses and the coolant excursion; then a temperature that trips, trips. -/
theorem sensorRead_next (s : State) (r : Readings) : ∃ t : State,
    exec (.sensorRead r) s = .next (if 11500 ≤ hottest r.die ∨ 10500 ≤ hottest r.hbm then t.thermalTrip else t)
    ∧ t.power = { s.power with
        readings := r, nandPaused := pauseNand s.power.nandPaused r.nand
        demands := allDemands.filter fun d => s.power.demands.contains d || d.arises r
        runCoolant := if r.coolantOk then s.power.runCoolant + 1 else 0
        coolant := !r.coolantOk || (s.power.coolant && decide (s.power.runCoolant + 1 < 10000)) } :=
  ⟨_, rfl, by rw [laserFaults_power, failHubs_power, coolant_power]; rfl⟩

/-- What a reading leaves of the power state, whether or not it trips. -/
theorem sensorRead_gives (s : State) (r : Readings) : Gives (.sensorRead r) s fun t =>
    t.power.readings = r ∧ t.power.demands = allDemands.filter (fun d => s.power.demands.contains d || d.arises r)
    ∧ (11500 ≤ hottest r.die ∨ 10500 ≤ hottest r.hbm → t.power.thermtrip = true)
    ∧ t.power.coolant = (!r.coolantOk || (s.power.coolant && decide (s.power.runCoolant + 1 < 10000))) := by
  obtain ⟨t, he, hp⟩ := sensorRead_next s r
  refine ⟨_, he, ?_⟩
  split
  · rw [thermalTrip_power_frame, hp]
    exact ⟨rfl, rfl, fun _ => rfl, rfl⟩
  · rename_i h
    rw [hp]
    exact ⟨rfl, rfl, fun h' => absurd h' h, rfl⟩

/-! ### Ageing (R446, R447) -/

/-- The guard band rises by what the margin falls. -/
theorem replan_eq (slow : Bool) (mv : Nat) : VDomain.replan slow mv = fun d =>
    if slow then { d with guardMv := d.guardMv + min 5 mv, marginMv := mv - 5 } else { d with marginMv := mv } := by
  funext d
  cases slow
  · rfl
  · have h : mv - min 5 mv = mv - 5 := by omega
    simp only [VDomain.replan, if_true, h]

/-! ### Regulator modules (R401, R441) -/

/-- The state with a regulator module retired and its failure recorded. -/
def State.regulatorLost (s : State) (m : Nat) : State :=
  (({ s with power := { s.power with regulators := setBit s.power.regulators m false } } : State).unitFail unitRegulator m 7).takeoverDone 7 m

@[simp] theorem regulatorLost_power (s : State) (m : Nat) :
    (s.regulatorLost m).power = { s.power with regulators := setBit s.power.regulators m false } := by simp [State.regulatorLost]

/-- A module in service that fails is lost, and with fewer than 10 left the sled turns off. -/
theorem regulatorFault_next {s : State} {m : Nat} (hm : m < 16) (h : s.power.regulators.getLsbD m = true) :
    exec (.regulatorFault m) s = .next (if popCount (setBit s.power.regulators m false) < 10 then
      (s.regulatorLost m).flushOff .underCount else s.regulatorLost m) := by
  have hc : (s.regulatorLost m).regulatorCount = popCount (setBit s.power.regulators m false) := by
    rw [State.regulatorCount, regulatorLost_power]
  rw [← hc]
  exact congrArg Host.Outcome.next (if_pos ⟨hm, h⟩)

end Sys2Proof.Machine
end

section
/-! PROOFS. The samples, readings and steps of the power state (O26). -/

namespace Sys2Proof.Machine

open Sys2Proof

/-- Settles O26: a sample moves the counts and at most begins an excursion, a reading goes through the folds over hubs and
lasers, which leave the power state alone, and a regulator module's failure leaves of it all but the module. -/
theorem powerSamples : Obligations.PowerSamples := by
  refine ⟨?samples, ?steps, ⟨?sensors, ?released, ?held⟩, ?ageing, ?regulators⟩
  case samples =>
    intro s mv hk hp hs he hu hlo hhi hsag ho
    constructor
    · intro hr hst
      rw [Gives, inputSample_excursion hk hp hs he hlo hhi hsag ho hr hst]
      refine ⟨_, rfl, ?_⟩
      rw [count_power, count_with_power hu]
      exact ⟨rfl, rfl, rfl, rfl, rfl, rfl⟩
    · intro hl hh hst
      exact ⟨_, inputSample_inRange hk he hl hh ho hst, rfl, he, rfl, rfl, rfl⟩
  case steps =>
    intro s req
    refine ⟨fun h => ?_, fun h => ?_, fun h => ?_, fun h => ?_, fun d h => ?_, fun d h => ?_⟩
    · exact congrArg Host.Outcome.next (if_pos h)
    · exact congrArg Host.Outcome.next (if_neg (Nat.not_lt.2 h))
    · exact congrArg Host.Outcome.next (if_pos h)
    · exact congrArg Host.Outcome.next (if_neg (Nat.not_lt.2 h))
    · refine ⟨_, congrArg Host.Outcome.next (if_pos h), rfl, fun x => ?_⟩
      simp [State.modPower]
    · exact congrArg Host.Outcome.next (if_neg (by simp [h]))
  case sensors =>
    intro s r
    obtain ⟨t, he, hr, hd, htrip, hc⟩ := sensorRead_gives s r
    refine ⟨t, he, hr, fun d => ?_, htrip, ?_⟩
    · simp [hd]
    · simp [hc]
  case released => exact fun s h => congrArg Host.Outcome.next (if_neg (by simp [h]))
  case held => exact fun s h => congrArg Host.Outcome.next (if_pos h)
  case ageing =>
    intro s
    refine ⟨fun n slow mv => ?_, fun _ _ => rfl, fun n b m h => ?_, fun n b hn h => ?_, fun _ _ _ => rfl, fun n d hd hz hc => ?_,
      fun n d hd hz => ?_, fun k => ⟨_, rfl, rfl, fun x => ?_⟩⟩
    · rw [← replan_eq]; rfl
    · exact congrArg Host.Outcome.next (if_neg h)
    · exact ⟨_, rfl, laserFault_lasersIn false hn h⟩
    · simp [exec, execAgeingCeiling, hd, hz, hc, State.modPower]
    · simp [Ignores, exec, execAgeingCeiling, hd, hz]
    · simp [State.modPower]
  case regulators =>
    intro s m hm h regs
    refine ⟨fun hn => ?_, fun hn hs hf => ?_, fun hn hs => ?_⟩
    · exact (regulatorFault_next hm h).trans (congrArg _ (if_neg (Nat.not_lt.2 hn)))
    · have hp := flushOff_starts .underCount (s := s.regulatorLost m) (by simpa using hs) (by simpa using hf)
      refine ⟨_, (regulatorFault_next hm h).trans (congrArg _ (if_pos hn)), ?_, ?_, ?_, accepts_flushing (c := .underCount) ?_⟩ <;>
        simp [hp, regs]
    · have hp := flushOff_before .underCount (s := s.regulatorLost m) (by simpa using hs)
      refine ⟨_, (regulatorFault_next hm h).trans (congrArg _ (if_pos hn)), ?_, ?_, ?_⟩ <;> simp [hp, regs]

end Sys2Proof.Machine
end

section
/-! PROOFS. Words of the memories: their bytes, their flipped positions, and what a store, a read and a fill do (chapter 15). -/

namespace Sys2Proof.Machine

open Sys2Proof

/-! ### Bytes of a word (R13) -/

theorem at_map_range (f : Nat → Byte) {n i : Nat} (h : i < n) : Buf.at ((List.range n).map f) i = f i := by
  simp [Buf.at, h]

theorem at_leBytes : ∀ (n v i : Nat), i < n → Buf.at (leBytes n v) i = BitVec.ofNat 8 (v / 256 ^ i)
  | 0, _, _, h => absurd h (Nat.not_lt_zero _)
  | _ + 1, v, 0, _ => by rw [Nat.pow_zero, Nat.div_one]; rfl
  | n + 1, v, i + 1, h => by
    have := at_leBytes n (v / 256) i (Nat.lt_of_succ_lt_succ h)
    rw [Nat.div_div_eq_div_mul, ← Nat.pow_succ'] at this
    exact this

/-- The bytes of an integer that was read from bytes are those bytes. -/
theorem at_leBytes_le (b : Buf) : ∀ (n off i : Nat), i < n → Buf.at (leBytes n (Buf.le b off n)) i = Buf.at b (off + i)
  | 0, _, _, h => absurd h (Nat.not_lt_zero _)
  | n + 1, off, 0, _ => by
    show BitVec.ofNat 8 ((Buf.at b off).toNat + 256 * Buf.le b (off + 1) n) = Buf.at b off
    apply BitVec.eq_of_toNat_eq
    have := (Buf.at b off).isLt
    rw [BitVec.toNat_ofNat]
    omega
  | n + 1, off, i + 1, h => by
    have hd : ((Buf.at b off).toNat + 256 * Buf.le b (off + 1) n) / 256 = Buf.le b (off + 1) n := by
      have := (Buf.at b off).isLt
      omega
    show Buf.at (leBytes n (((Buf.at b off).toNat + 256 * Buf.le b (off + 1) n) / 256)) i = _
    rw [hd, at_leBytes_le b n (off + 1) i (Nat.lt_of_succ_lt_succ h), Nat.add_right_comm, Nat.add_assoc]

/-- A byte under an overlay. -/
theorem at_overlay (old new : Buf) (off : Nat) {i : Nat} (h : i < old.length) : Buf.at (overlay old off new) i =
    if off ≤ i ∧ i < off + new.length then Buf.at new (i - off) else Buf.at old i :=
  at_map_range _ (Nat.lt_of_lt_of_le h (Nat.le_max_left _ _))

theorem readBytes_length (m : Memory) (a n : Nat) : (Memory.readBytes m a n).length = n := by simp [Memory.readBytes]

theorem at_readBytes (m : Memory) (a : Nat) {n i : Nat} (h : i < n) : Buf.at (Memory.readBytes m a n) i = Memory.read m (a + i) :=
  at_map_range _ h

/-! ### Flipped positions (R361) -/

/-- What is left out is not found. -/
theorem find_filter_not {α : Type} (p : α → Bool) (l : List α) : (l.filter fun x => !p x).find? p = none := by
  rw [List.find?_eq_none]
  intro x hx
  have := (List.mem_filter.1 hx).2
  simpa using this

/-- What a filter does not concern is found as before. -/
theorem find_filter_not_other {α : Type} {p q : α → Bool} (hd : ∀ y, p y = true → q y = false) (l : List α) :
    (l.filter fun x => !p x).find? q = l.find? q := by
  rw [List.find?_filter]
  congr 1
  funext y
  cases hp : p y
  · simp
  · simp [hd y hp]

theorem flipsOf_setFlips (s : State) (m w : Nat) (l : List Nat) : (s.setFlips m w l).flipsOf m w = l := by
  simp only [State.flipsOf, State.setFlips, State.modInteg]
  split
  · rename_i h
    rw [find_filter_not (fun x : Nat × Nat × List Nat => x.1 == m && x.2.1 == w), h]; rfl
  · rw [find_upsert_same _ _ (by simp)]; rfl

theorem flipsOf_setFlips_other (s : State) {m w m' w' : Nat} (l : List Nat) (h : m' ≠ m ∨ w' ≠ w) :
    (s.setFlips m w l).flipsOf m' w' = s.flipsOf m' w' := by
  have hd : ∀ y : Nat × Nat × List Nat, (y.1 == m && y.2.1 == w) = true → (y.1 == m' && y.2.1 == w') = false := by
    intro y hy
    simp only [Bool.and_eq_true, beq_iff_eq] at hy
    simp only [Bool.and_eq_false_iff, beq_eq_false_iff_ne]
    omega
  simp only [State.flipsOf, State.setFlips, State.modInteg]
  split
  · rw [find_filter_not_other hd]
  · rw [find_upsert_other (fun x : Nat × Nat × List Nat => x.1 == m && x.2.1 == w) (fun x => x.1 == m' && x.2.1 == w') _
      (hd (m, w, l) (by simp)) hd]

/-! ### A store (R362) -/

/-- A store of a word changes the bytes of its memory and the flipped positions. -/
theorem storeWord_frame (s : State) (u : MemUnit) (a v : Nat) : s.storeWord u a v =
    { s with integ := { s.integ with flips := (s.storeWord u a v).integ.flips }, mems := (s.storeWord u a v).mems } := by
  cases u <;> rfl

theorem memOf_storeWord (s : State) (u : MemUnit) (a v : Nat) : (s.storeWord u a v).memOf u = (s.memOf u).writeBytes a (leBytes 8 v) := by
  cases u <;> rfl

theorem memOf_storeWord_other (s : State) {u u' : MemUnit} (a v : Nat) (h : u' ≠ u) : (s.storeWord u a v).memOf u' = s.memOf u' := by
  cases u with
  | hbm => cases u' with | hbm => exact absurd rfl h | tile => rfl | cc => rfl
  | tile => cases u' with | hbm => rfl | tile => exact absurd rfl h | cc => rfl
  | cc => cases u' with | hbm => rfl | tile => rfl | cc => exact absurd rfl h

theorem storeWord_flips (s : State) (u : MemUnit) (a v : Nat) :
    (s.storeWord u a v).integ.flips = (s.setFlips (memCode u) (a / 8) []).integ.flips := by cases u <;> rfl

theorem flipsOf_congr {s t : State} (h : s.integ.flips = t.integ.flips) (m w : Nat) : s.flipsOf m w = t.flipsOf m w := by
  rw [State.flipsOf, State.flipsOf, h]

@[simp] theorem storeWord_withheld (s : State) (u : MemUnit) (a v : Nat) : (s.storeWord u a v).integ.withheld = s.integ.withheld := by
  cases u <;> rfl
@[simp] theorem storeWord_writeBacks (s : State) (u : MemUnit) (a v : Nat) : (s.storeWord u a v).integ.writeBacks = s.integ.writeBacks := by
  cases u <;> rfl

/-- A word that is stored is right again. -/
theorem flipsOf_storeWord (s : State) (u : MemUnit) (a v : Nat) : (s.storeWord u a v).flipsOf (memCode u) (a / 8) = [] :=
  (flipsOf_congr (storeWord_flips s u a v) _ _).trans (flipsOf_setFlips ..)

theorem flipsOf_storeWord_at (s : State) (u : MemUnit) (w v : Nat) : (s.storeWord u (w * 8) v).flipsOf (memCode u) w = [] := by
  have h := flipsOf_storeWord s u (w * 8) v
  rwa [Nat.mul_div_cancel _ (by decide)] at h

theorem flipsOf_storeWord_other (s : State) (u : MemUnit) (a v : Nat) {w : Nat} (h : w ≠ a / 8) :
    (s.storeWord u a v).flipsOf (memCode u) w = s.flipsOf (memCode u) w :=
  (flipsOf_congr (storeWord_flips s u a v) _ _).trans (flipsOf_setFlips_other _ _ (.inr h))

theorem memOf_wf {s : State} (h : MemoriesCanonical s) (u : MemUnit) : (s.memOf u).wf = true := by
  obtain ⟨hh, ht, hc⟩ := h
  cases u
  · exact hh
  · exact ht
  · exact hc

theorem memOf_storeWord_wf {s : State} {u : MemUnit} (h : (s.memOf u).wf = true) (a v : Nat) : ((s.storeWord u a v).memOf u).wf = true := by
  rw [memOf_storeWord]; exact Memory.wf_writeBytes _ _ _ h

theorem read_storeWord_inside {s : State} {u : MemUnit} (h : (s.memOf u).wf = true) (a v : Nat) {i : Nat} (hi : i < 8) :
    Memory.read ((s.storeWord u a v).memOf u) (a + i) = Buf.at (leBytes 8 v) i := by
  rw [memOf_storeWord]
  exact Memory.read_writeBytes_inside _ _ _ _ h (by rw [leBytes_length]; exact hi)

theorem read_storeWord_outside (s : State) (u : MemUnit) (a v : Nat) {k : Nat} (hk : k < a ∨ a + 8 ≤ k) :
    Memory.read ((s.storeWord u a v).memOf u) k = Memory.read (s.memOf u) k := by
  rw [memOf_storeWord]
  exact Memory.read_writeBytes_outside _ _ _ _ (by rw [leBytes_length]; exact hk)

/-- The eight bytes of a buffer, stored as a word, are the bytes read. -/
theorem read_storeWord_le {s : State} {u : MemUnit} (h : (s.memOf u).wf = true) (a : Nat) (b : Buf) {i : Nat} (hi : i < 8) :
    Memory.read ((s.storeWord u a (Buf.le b 0 8)).memOf u) (a + i) = Buf.at b i := by
  rw [read_storeWord_inside h a _ hi, at_leBytes_le b 8 0 i hi, Nat.zero_add]

/-! ### A fill (R365) -/

theorem fillWords_frame (u : MemUnit) (v : Nat) : ∀ (n : Nat) (s : State) (a : Nat), ∃ (f : List (Nat × Nat × List Nat)) (m : Mems),
    s.fillWords u a v n = { s with integ := { s.integ with flips := f }, mems := m }
  | 0, s, _ => ⟨s.integ.flips, s.mems, rfl⟩
  | n + 1, s, a => by
    obtain ⟨f, m, h⟩ := fillWords_frame u v n (s.storeWord u a v) (a + 8)
    refine ⟨f, m, h.trans ?_⟩
    cases u <;> rfl

theorem memOf_fillWords_other {u u' : MemUnit} (v : Nat) (h : u' ≠ u) : ∀ (n : Nat) (s : State) (a : Nat),
    (s.fillWords u a v n).memOf u' = s.memOf u'
  | 0, _, _ => rfl
  | n + 1, s, a => (memOf_fillWords_other v h n (s.storeWord u a v) (a + 8)).trans (memOf_storeWord_other s a v h)

theorem read_fillWords_outside (u : MemUnit) (v : Nat) {k : Nat} : ∀ (n : Nat) (s : State) (a : Nat), k < a ∨ a + 8 * n ≤ k →
    Memory.read ((s.fillWords u a v n).memOf u) k = Memory.read (s.memOf u) k
  | 0, _, _, _ => rfl
  | n + 1, s, a, h =>
    (read_fillWords_outside u v n (s.storeWord u a v) (a + 8) (by omega)).trans (read_storeWord_outside s u a v (by omega))

/-- Every byte of the range reads as its byte of the pattern: the first word's by its store, the others' by the rest of the fill. -/
theorem read_fillWords_inside (u : MemUnit) (v : Nat) : ∀ (n : Nat) (s : State) (a i : Nat), (s.memOf u).wf = true → i < 8 * n →
    Memory.read ((s.fillWords u a v n).memOf u) (a + i) = BitVec.ofNat 8 (v / 256 ^ (i % 8))
  | 0, _, _, _, _, h => absurd h (by omega)
  | n + 1, s, a, i, hw, h => by
    by_cases hi : i < 8
    · rw [State.fillWords, read_fillWords_outside u v n _ _ (by omega), read_storeWord_inside hw a v hi, at_leBytes 8 v i hi,
        Nat.mod_eq_of_lt hi]
    · have := read_fillWords_inside u v n (s.storeWord u a v) (a + 8) (i - 8) (memOf_storeWord_wf hw a v) (by omega)
      rw [show a + 8 + (i - 8) = a + i by omega, show (i - 8) % 8 = i % 8 by omega] at this
      exact this

theorem flipsOf_fillWords_below (u : MemUnit) (v : Nat) {w : Nat} : ∀ (n : Nat) (s : State) (a : Nat), w < a / 8 →
    (s.fillWords u a v n).flipsOf (memCode u) w = s.flipsOf (memCode u) w
  | 0, _, _, _ => rfl
  | n + 1, s, a, h =>
    (flipsOf_fillWords_below u v n (s.storeWord u a v) (a + 8) (by omega)).trans (flipsOf_storeWord_other s u a v (by omega))

/-- Every word of the range is right again. -/
theorem flipsOf_fillWords (u : MemUnit) (v : Nat) : ∀ (n : Nat) (s : State) (a i : Nat), i < n →
    (s.fillWords u a v n).flipsOf (memCode u) (a / 8 + i) = []
  | 0, _, _, _, h => absurd h (Nat.not_lt_zero _)
  | n + 1, s, a, 0, _ => (flipsOf_fillWords_below u v n (s.storeWord u a v) (a + 8) (by omega)).trans (flipsOf_storeWord s u a v)
  | n + 1, s, a, i + 1, h => by
    have := flipsOf_fillWords u v n (s.storeWord u a v) (a + 8) i (Nat.lt_of_succ_lt_succ h)
    rw [show (a + 8) / 8 + i = a / 8 + (i + 1) by omega] at this
    exact this

/-! ### A read (R361, R363, R367) -/

/-- The log engine keeps the words, the walks and the retirements. -/
theorem logError_integ_frame (s : State) (e : ErrEvent) : (s.logError e).integ =
    { s.integ with log := (s.logError e).integ.log, nextSeq := (s.logError e).integ.nextSeq, history := (s.logError e).integ.history
                   unlogged := (s.logError e).integ.unlogged, unloggedSince := (s.logError e).integ.unloggedSince
                   fatal := (s.logError e).integ.fatal } := by
  unfold State.logError
  dsimp only
  split
  · rfl
  · split <;> rfl

@[simp] theorem logError_writeBacks (s : State) (e : ErrEvent) : (s.logError e).integ.writeBacks = s.integ.writeBacks := by
  rw [logError_integ_frame]
@[simp] theorem logError_withheld (s : State) (e : ErrEvent) : (s.logError e).integ.withheld = s.integ.withheld := by
  rw [logError_integ_frame]

/-- A CE shows in the log, in a record that opens or in the count of one, or counts as unlogged. -/
theorem logError_ce_shows (s : State) {e : ErrEvent} (h : e.cls = .ce) :
    (s.logError e).integ.log ≠ s.integ.log ∨ (s.logError e).integ.unlogged = modAt s.integ.unlogged 0 satInc := by
  unfold State.logError
  dsimp only
  split
  · rename_i ht
    refine .inl fun he => ?_
    obtain ⟨r, hr, hrt⟩ := List.any_eq_true.1 ht
    have := List.map_inj_left.1 (he.trans (List.map_id _).symm) r hr
    rw [if_pos hrt] at this
    have := congrArg ErrRec.count this
    simp at this
  · split
    · refine .inl fun he => ?_
      have := congrArg List.length he
      revert this
      split <;> simp [length_updWhere, State.event]
    · exact .inr (by rw [h]; rfl)

theorem lookWord_clean {s : State} {u : MemUnit} {a : Nat} (src : Nat) (d : Bool) (raced : Option Buf) (h : s.flipsOf (memCode u) (a / 8) = []) :
    s.lookWord u a src d raced = (s, false) := by simp [State.lookWord, h]

theorem lookWord_one {s : State} {u : MemUnit} {a p : Nat} (src : Nat) (d : Bool) (raced : Option Buf)
    (h : s.flipsOf (memCode u) (a / 8) = [p]) : s.lookWord u a src d raced = (s.correct u a src p raced, false) := by
  simp [State.lookWord, h]

theorem lookWord_two {s : State} {u : MemUnit} {a p q : Nat} (src : Nat) (d : Bool) (raced : Option Buf)
    (h : s.flipsOf (memCode u) (a / 8) = [p, q]) : s.lookWord u a src d raced = (s.uncorrectable u a src d, true) := by
  simp [State.lookWord, h]

/-- The CE of a corrected word, in the log. -/
def State.ceLogged (s : State) (u : MemUnit) (a src p : Nat) : State :=
  s.fresh.2.logError (s.fresh.2.wordError u a src .ce (BitVec.ofNat 8 p) ((Config.word s.free).truncate 8))

theorem ceLogged_frame (s : State) (u : MemUnit) (a src p : Nat) : s.ceLogged u a src p =
    { s with integ := (s.ceLogged u a src p).integ, free := s.free + 1, sasel := { s.sasel with eventSeq := s.sasel.eventSeq + 1 } } :=
  logError_frame _ _

theorem ceLogged_shows (s : State) (u : MemUnit) (a src p : Nat) : (s.ceLogged u a src p).integ.log ≠ s.integ.log
    ∨ (s.ceLogged u a src p).integ.unlogged = modAt s.integ.unlogged 0 satInc := logError_ce_shows s.fresh.2 rfl

@[simp] theorem ceLogged_writeBacks (s : State) (u : MemUnit) (a src p : Nat) :
    (s.ceLogged u a src p).integ.writeBacks = s.integ.writeBacks := logError_writeBacks ..
@[simp] theorem ceLogged_withheld (s : State) (u : MemUnit) (a src p : Nat) :
    (s.ceLogged u a src p).integ.withheld = s.integ.withheld := logError_withheld ..
@[simp] theorem ceLogged_memOf (s : State) (u u' : MemUnit) (a src p : Nat) : (s.ceLogged u a src p).memOf u' = s.memOf u' := by
  rw [ceLogged_frame]; rfl

/-- The corrected word is written back. -/
theorem correct_writesBack (s : State) (u : MemUnit) (a src p : Nat) : s.correct u a src p none =
    ((s.ceLogged u a src p).setFlips (memCode u) (a / 8) []).modInteg fun g => { g with writeBacks := satInc g.writeBacks } := rfl

/-- The write that reached the word first stands. -/
theorem correct_withholds (s : State) (u : MemUnit) (a src p : Nat) (b : Buf) : s.correct u a src p (some b) =
    ((s.ceLogged u a src p).storeWord u a (Buf.le b 0 8)).modInteg fun g => { g with withheld := satInc g.withheld } := rfl

/-- A merged write of a word without error is a store of the merged bytes. -/
theorem mergeWord_clean {s : State} {u : MemUnit} {a : Nat} (off : Nat) (b : Buf) (h : s.flipsOf (memCode u) (a / 8) = []) :
    s.mergeWord u a off b =
      s.storeWord u a (Buf.le (overlay ((s.memOf u).readBytes a 8) (off % 8) (b.take (8 - off % 8))) 0 8) := by
  simp [State.mergeWord, lookWord_clean 0 true none h]

/-- A merged write that meets a UE writes nothing. -/
theorem mergeWord_two {s : State} {u : MemUnit} {a p q : Nat} (off : Nat) (b : Buf) (h : s.flipsOf (memCode u) (a / 8) = [p, q]) :
    s.mergeWord u a off b = s.uncorrectable u a 0 true := by
  simp [State.mergeWord, lookWord_two 0 true none h]

/-- A merged write changes the bytes it names; every other byte reads as before. -/
theorem read_mergeWord_clean {s : State} {u : MemUnit} {a off : Nat} {b : Buf} (h : s.flipsOf (memCode u) (a / 8) = [])
    (hb : off + b.length ≤ 8) (hw : (s.memOf u).wf = true) (k : Nat) :
    Memory.read ((s.mergeWord u a off b).memOf u) k =
      if a + off ≤ k ∧ k < a + off + b.length then Buf.at b (k - (a + off)) else Memory.read (s.memOf u) k := by
  have ho : b.length = 0 ∨ off % 8 = off := by omega
  have ht : b.take (8 - off % 8) = b := List.take_of_length_le (by omega)
  rw [mergeWord_clean off b h, ht]
  by_cases hk : k < a ∨ a + 8 ≤ k
  · rw [read_storeWord_outside s u a _ hk, if_neg (by omega)]
  · obtain ⟨i, rfl⟩ : ∃ i, k = a + i := ⟨k - a, by omega⟩
    have hi : i < 8 := by omega
    rw [read_storeWord_le hw a _ hi, at_overlay _ _ _ (by rw [readBytes_length]; exact hi), at_readBytes _ _ hi]
    by_cases hin : a + off ≤ a + i ∧ a + i < a + off + b.length
    · rw [if_pos hin, if_pos (by omega), show a + i - (a + off) = i - off % 8 by omega]
    · rw [if_neg hin, if_neg (by omega)]

/-! ### MEMORY_READ and FILL (R184, R361, R362, R365) -/

/-- The state once the flips since the last look have come in. -/
def State.flipped (s : State) (u : MemUnit) (addr : Nat) (l : List Nat) : State :=
  s.setFlips (memCode u) (addr / 8) (flipMore (s.flipsOf (memCode u) (addr / 8)) l)

theorem flipsOf_flipped (s : State) (u : MemUnit) (addr : Nat) (l : List Nat) :
    (s.flipped u addr l).flipsOf (memCode u) (addr / 8 * 8 / 8) = flipMore (s.flipsOf (memCode u) (addr / 8)) l := by
  rw [Nat.mul_div_cancel _ (by decide)]
  exact flipsOf_setFlips ..

@[simp] theorem memOf_flipped (s : State) (u u' : MemUnit) (addr : Nat) (l : List Nat) : (s.flipped u addr l).memOf u' = s.memOf u' := by
  cases u' <;> rfl

theorem memoryRead_faults {u : MemUnit} {addr : Nat} (h : memBytes u ≤ addr) (l : List Nat) (m : Option (Nat × Buf)) (raced : Option Buf)
    (s : State) : exec (.memoryRead u addr l m raced) s = .fault (memFault u) := if_pos h

theorem memoryRead_waits {s : State} {u : MemUnit} {addr : Nat} (h : addr < memBytes u) (hu : u = .hbm ∧ s.unfilled (addr / 8 * 8) = true)
    (l : List Nat) (m : Option (Nat × Buf)) (raced : Option Buf) : exec (.memoryRead u addr l m raced) s =
      .next ((s.flipped u addr l).modTiers fun t => { t with heldReads := t.heldReads ++ [(addr / 8 * 8, m)] }) :=
  (if_neg (Nat.not_le.2 h)).trans (congrArg Host.Outcome.next (if_pos hu))

theorem memoryRead_reads {s : State} {u : MemUnit} {addr : Nat} (h : addr < memBytes u) (hu : ¬ (u = .hbm ∧ s.unfilled (addr / 8 * 8) = true))
    (l : List Nat) (raced : Option Buf) : exec (.memoryRead u addr l none raced) s =
      .next ((s.flipped u addr l).lookWord u (addr / 8 * 8) 0 true raced).1 :=
  (if_neg (Nat.not_le.2 h)).trans (congrArg Host.Outcome.next (if_neg hu))

theorem memoryRead_merges {s : State} {u : MemUnit} {addr : Nat} (h : addr < memBytes u) (hu : ¬ (u = .hbm ∧ s.unfilled (addr / 8 * 8) = true))
    (l : List Nat) (off : Nat) (b : Buf) (raced : Option Buf) : exec (.memoryRead u addr l (some (off, b)) raced) s =
      .next ((s.flipped u addr l).mergeWord u (addr / 8 * 8) off b) :=
  (if_neg (Nat.not_le.2 h)).trans (congrArg Host.Outcome.next (if_neg hu))

theorem fill_faults {u : MemUnit} {addr words : Nat} (h : memBytes u < addr / 8 * 8 + 8 * words) (v : W64) (s : State) :
    exec (.fill u addr words v) s = .fault (memFault u) := if_pos h

theorem fill_fills {u : MemUnit} {addr words : Nat} (h : addr / 8 * 8 + 8 * words ≤ memBytes u) (v : W64) (s : State) :
    exec (.fill u addr words v) s = .next (s.fillWords u (addr / 8 * 8) v.toNat words) := if_neg (Nat.not_lt.2 h)

end Sys2Proof.Machine
end

section
/-! PROOFS. Reads and fills of protected words (O38). -/

namespace Sys2Proof.Machine

open Sys2Proof

/-- A demand read of a word with one bit in error: the word is right again and written back, and the CE shows. -/
theorem correct_gives (s : State) (u : MemUnit) (addr p : Nat) (l : List Nat) : let t := (s.flipped u addr l).correct u (addr / 8 * 8) 0 p none
    t.flipsOf (memCode u) (addr / 8) = [] ∧ t.integ.writeBacks = satInc s.integ.writeBacks ∧ t.mems = s.mems
    ∧ (t.integ.log ≠ s.integ.log ∨ t.integ.unlogged = modAt s.integ.unlogged 0 satInc)
    ∧ t = { s with integ := t.integ, free := s.free + 1, sasel := { s.sasel with eventSeq := s.sasel.eventSeq + 1 } } := by
  dsimp only
  rw [correct_writesBack, Nat.mul_div_cancel _ (by decide)]
  have hf := ceLogged_frame (s.flipped u addr l) u (addr / 8 * 8) 0 p
  have hs := ceLogged_shows (s.flipped u addr l) u (addr / 8 * 8) 0 p
  have hb := ceLogged_writeBacks (s.flipped u addr l) u (addr / 8 * 8) 0 p
  generalize (s.flipped u addr l).ceLogged u (addr / 8 * 8) 0 p = x at hf hs hb
  refine ⟨?_, congrArg satInc hb, ?_, hs, ?_⟩
  · exact flipsOf_setFlips x _ _ []
  · rw [hf]; rfl
  · rw [hf]; rfl

/-- A demand read that another write overtook: that write stands, and the write-back is withheld. -/
theorem correct_raced_gives {s : State} {u : MemUnit} (addr p : Nat) (l : List Nat) (b : Buf) (hw : (s.memOf u).wf = true) :
    let t := (s.flipped u addr l).correct u (addr / 8 * 8) 0 p (some b)
    (∀ i, i < 8 → Memory.read (t.memOf u) (addr / 8 * 8 + i) = Buf.at b i)
    ∧ (∀ k, k < addr / 8 * 8 ∨ addr / 8 * 8 + 8 ≤ k → Memory.read (t.memOf u) k = Memory.read (s.memOf u) k)
    ∧ t.flipsOf (memCode u) (addr / 8) = [] ∧ t.integ.withheld = satInc s.integ.withheld ∧ t.integ.writeBacks = s.integ.writeBacks := by
  dsimp only
  rw [correct_withholds]
  have hm := (ceLogged_memOf (s.flipped u addr l) u u (addr / 8 * 8) 0 p).trans (memOf_flipped ..)
  have hh := ceLogged_withheld (s.flipped u addr l) u (addr / 8 * 8) 0 p
  have hb := ceLogged_writeBacks (s.flipped u addr l) u (addr / 8 * 8) 0 p
  generalize (s.flipped u addr l).ceLogged u (addr / 8 * 8) 0 p = x at hm hh hb
  have hw' : (x.memOf u).wf = true := by rw [hm]; exact hw
  refine ⟨fun i h => read_storeWord_le hw' _ b h, fun k hk => (read_storeWord_outside x u _ _ hk).trans (by rw [hm]), ?_,
    congrArg satInc ((storeWord_withheld ..).trans hh), (storeWord_writeBacks ..).trans hb⟩
  exact flipsOf_storeWord_at x u (addr / 8) (Buf.le b 0 8)

/-- A write of less than 8 B to a word without error: its bytes are merged, and the word is right. -/
theorem mergeWord_gives {s : State} {u : MemUnit} {addr off : Nat} {b : Buf} {l : List Nat} (hw : (s.memOf u).wf = true)
    (hl : flipMore (s.flipsOf (memCode u) (addr / 8)) l = []) (hb : off + b.length ≤ 8) :
    let t := (s.flipped u addr l).mergeWord u (addr / 8 * 8) off b
    (∀ i, i < b.length → Memory.read (t.memOf u) (addr / 8 * 8 + off + i) = Buf.at b i)
    ∧ (∀ k, k < addr / 8 * 8 + off ∨ addr / 8 * 8 + off + b.length ≤ k → Memory.read (t.memOf u) k = Memory.read (s.memOf u) k)
    ∧ t.flipsOf (memCode u) (addr / 8) = [] ∧ t.out = s.out := by
  have hc := (flipsOf_flipped s u addr l).trans hl
  have hr := read_mergeWord_clean hc hb (by rw [memOf_flipped]; exact hw)
  refine ⟨fun i hi => ?_, fun k hk => ?_, ?_, ?_⟩
  · rw [hr, if_pos (by omega), Nat.add_sub_cancel_left]
  · rw [hr, if_neg (by omega), memOf_flipped]
  · rw [mergeWord_clean off b hc]
    exact flipsOf_storeWord_at ..
  · rw [mergeWord_clean off b hc, storeWord_frame]
    rfl

/-- The byte of a memory at an address. -/
theorem read_memOf (s : State) (u : MemUnit) (k : Nat) : (match u with
    | .hbm => s.mems.hbm.read k | .tile => s.mems.tile.read k | .cc => s.mems.cc.read k) = Memory.read (s.memOf u) k := by
  cases u <;> rfl

/-- Settles O38: `flipped` is the state in which the word is looked at, and each clause is one way of the look. -/
theorem protectedWords : Obligations.ProtectedWords := by
  constructor
  · intro s u addr fl merge raced a l w reads
    have hlook : w.flipsOf (memCode u) (a / 8) = l := flipsOf_flipped s u addr fl
    refine ⟨fun h => memoryRead_faults h .., fun h hu hf => memoryRead_waits h ⟨hu, hf⟩ .., fun hr hl hm => ?clean, fun p hr hl hm hc => ?corrected,
      fun p b hr hl hm hc hw => ?raced, fun p q hr hl => ?uncorrectable, fun off b hr hl hm hb hw => ?merged⟩
    case clean =>
      subst hm
      rw [memoryRead_reads hr.1 hr.2]
      exact congrArg (fun x => Host.Outcome.next x.1) (lookWord_clean 0 true raced (hlook.trans hl))
    case corrected =>
      subst hm hc
      rw [Gives, memoryRead_reads hr.1 hr.2]
      refine ⟨_, congrArg (fun x => Host.Outcome.next x.1) (lookWord_one 0 true none (hlook.trans hl)), ?_⟩
      exact correct_gives s u addr p fl
    case raced =>
      subst hm hc
      rw [Gives, memoryRead_reads hr.1 hr.2]
      refine ⟨_, congrArg (fun x => Host.Outcome.next x.1) (lookWord_one 0 true (some b) (hlook.trans hl)), ?_⟩
      intro at_
      have hat : at_ = fun x k => Memory.read (x.memOf u) k := funext fun x => funext fun k => read_memOf x u k
      clear_value at_; subst hat
      exact correct_raced_gives addr p fl b (memOf_wf hw u)
    case uncorrectable =>
      cases merge with
      | none =>
        rw [memoryRead_reads hr.1 hr.2]
        exact congrArg (fun x => Host.Outcome.next x.1) (lookWord_two 0 true raced (hlook.trans hl))
      | some m =>
        rw [memoryRead_merges hr.1 hr.2]
        exact congrArg Host.Outcome.next (mergeWord_two m.1 m.2 (hlook.trans hl))
    case merged =>
      subst hm
      rw [Gives, memoryRead_merges hr.1 hr.2]
      refine ⟨_, rfl, ?_⟩
      intro at_
      have hat : at_ = fun x k => Memory.read (x.memOf u) k := funext fun x => funext fun k => read_memOf x u k
      clear_value at_; subst hat
      exact mergeWord_gives (memOf_wf hw u) hl hb
  · intro s u addr words pattern hw at_ base
    have hat : at_ = fun x k => Memory.read (x.memOf u) k := funext fun x => funext fun k => read_memOf x u k
    clear_value at_; subst hat
    refine ⟨fun h => fill_faults h .., fun h => ⟨_, fill_fills h pattern s, fun i hi => ?bytes, fun k hk => ?others, fun i hi => ?flips, ?frame,
      fun hu => ?hbm, fun hu => ?tile, fun hu => ?cc⟩⟩
    case bytes => exact read_fillWords_inside u _ words s base i (memOf_wf hw u) hi
    case others => exact read_fillWords_outside u _ words s base hk
    case flips =>
      have := flipsOf_fillWords u pattern.toNat words s base i hi
      rw [Nat.mul_div_cancel _ (by decide)] at this
      exact this
    case frame =>
      obtain ⟨f, m, h⟩ := fillWords_frame u pattern.toNat words s base
      rw [h]
    case hbm => exact memOf_fillWords_other (u' := .hbm) _ (Ne.symm hu) words s base
    case tile => exact memOf_fillWords_other (u' := .tile) _ (Ne.symm hu) words s base
    case cc => exact memOf_fillWords_other (u' := .cc) _ (Ne.symm hu) words s base

end Sys2Proof.Machine
end

section
/-! PROOFS. The accept event of a query, and the clients (R273): what each takes and what it leaves (O12). -/

namespace Sys2Proof.Machine

open Sys2Proof

/-! ### The accept event of a query (R33, R387) -/

/-- The opcodes of the class query in the table *Commands*. -/
theorem classOf_query {op : BitVec 8} (h : classOf op.toNat = some .query) :
    op.toNat = 0x00 ∨ op.toNat = 0x04 ∨ op.toNat = 0x48 ∨ op.toNat = 0x61 ∨ op.toNat = 0x6B ∨ op.toNat = 0x70 ∨ op.toNat = 0x71
      ∨ op.toNat = 0x72 := by
  revert op
  decide

/-- A query reserves no extents (R465). -/
theorem wanted_query (s : State) {e : Entry} (h : classOf e.opcode.toNat = some .query) : s.wanted e = [] := by
  obtain h | h | h | h | h | h | h | h := classOf_query h <;> simp only [State.wanted, h]

/-- A query is no host write, so nothing paces it (R258). -/
theorem isThrottled_query {e : Entry} (h : classOf e.opcode.toNat = some .query) : isThrottled e = false := by
  obtain h | h | h | h | h | h | h | h := classOf_query h <;> simp [isThrottled, h]

/-- The accept event of a query does nothing of its own. -/
theorem acceptEffect_query (s : State) {u : Sub} (h : classOf u.entry.opcode.toNat = some .query) : s.acceptEffect u = s := by
  obtain h | h | h | h | h | h | h | h := classOf_query h <;> simp [State.acceptEffect, h]

/-- The record of a query that is accepted. -/
def State.querySub (s : State) (o : Origin) (conn : W32) (cl : Nat) (e : Entry) (b : Buf) : Sub :=
  { sid := s.sasel.eventSeq + 1, origin := o, conn := conn, client := cl, entry := e, copied := b, count := s.pclk
    afterShutdown := s.sasel.shutdown, preset := s.presets o conn cl e, jobless := s.atLimit cl, desc := s.freeDesc
    takeoverPs := s.takeoverPs }

/-- The buffer descriptors once the lowest free one serves a submission (R25). -/
def State.descsServing (s : State) : List (Nat × DescHolder) := match s.freeDesc with
  | some d => s.sasel.descs.filter (fun x => !(x.1 == d)) ++ [(d, .owned .queueManager)]
  | none => s.sasel.descs

/-- The accept event of a query takes an event number, a record, a descriptor and a job, and nothing else. -/
theorem accept_query (s : State) (o : Origin) (conn : W32) (cl : Nat) {e : Entry} (b : Buf)
    (h : classOf e.opcode.toNat = some .query) : s.accept o conn cl e b = (s.sasel.eventSeq + 1,
      { s with sasel := { s.sasel with
          eventSeq := s.sasel.eventSeq + 1, subs := s.sasel.subs ++ [s.querySub o conn cl e b]
          clients := updWhere (fun c => c.index == cl) (Client.accepted (s.atLimit cl)) s.sasel.clients
          descs := s.descsServing } }) := by
  have hw : s.event.2.wanted e = [] := wanted_query _ h
  have hd : s.event.2.freeDesc = s.freeDesc := rfl
  simp only [State.accept, hw, hd, isThrottled_query h, Bool.and_false, ite_self]
  rw [acceptEffect_query _ h]
  cases hf : s.freeDesc <;> simp only [State.descsServing, State.querySub, hf] <;> rfl

/-- The client's counts (R273). -/
theorem updWhere_accepted (l : List Client) (cl : Nat) (lim : Bool) :
    updWhere (fun c => c.index == cl) (Client.accepted lim) l = l.map fun c => if c.index = cl then
      (if lim = true then { c with admitted := c.admitted + 1, finished := c.finished + 1 }
       else { c with admitted := c.admitted + 1, current := c.current + 1 }) else c := by
  simp only [updWhere, beq_iff_eq, Client.accepted]

/-- At its job limit a client's submission meets NO_RESOURCE (R273). -/
theorem noResource_mem_presets {s : State} {cl : Nat} (h : s.atLimit cl = true) (o : Origin) (conn : W32) (e : Entry) :
    Status.noResource ∈ s.presets o conn cl e := by
  simp [State.presets, when, h]

/-! ### ENROL_CLIENT (R273) -/

/-- A command other than ANSWER has no flags of a request (R318). -/
theorem flagsOf_of_not_answer {s : State} {sid : Nat} {u : Sub} (h : s.sub? sid = some u) (ho : u.entry.opcode.toNat ≠ 0x10) :
    s.flagsOf sid = {} := by
  simp [State.flagsOf, h, ho]

/-- The statuses of an ENROL_CLIENT's own: a limit above 1,048,576 or of 0 for client 0, and the removal of a client that has
a queue pair. -/
def State.enrolErrs (s : State) (c limit : Nat) : List Status :=
  when (decide (1048576 < limit) || (decide (limit = 0) && decide (c = 0))) .badField
    ++ when (decide (limit = 0) && s.clientHasQueue c) .noResource

theorem enrolErrs_nil {s : State} {c limit : Nat} (hl : limit ≤ 1048576)
    (h0 : limit = 0 → c ≠ 0 ∧ s.clientHasQueue c = false) : s.enrolErrs c limit = [] := by
  by_cases hz : limit = 0
  · simp [State.enrolErrs, when, hz, h0 hz]
  · simp [State.enrolErrs, when, hz, Nat.not_lt.2 hl]

theorem enrolErrs_held {s : State} {c : Nat} (hc : c ≠ 0) (hq : s.clientHasQueue c = true) : s.enrolErrs c 0 = [.noResource] := by
  simp [State.enrolErrs, when, hc, hq]

theorem badField_mem_enrolErrs (s : State) {c limit : Nat} (h : 1048576 < limit ∨ (limit = 0 ∧ c = 0)) :
    Status.badField ∈ s.enrolErrs c limit := by
  simp [State.enrolErrs, when, h]

/-- An ENROL_CLIENT that begins: its statuses, and what it does when none applies. -/
theorem enrolClient_begins {s : State} {sid : Nat} {u : Sub} (h : Begins s sid 0xE0 u) : exec (.enrolClient sid) s = .next
    (s.settle u (s.enrolErrs u.entry.arg0.toNat u.entry.arg1.toNat) fun s =>
      (s.enrol u.entry.arg0.toNat u.entry.arg1.toNat).completeOk u) :=
  congrArg Host.Outcome.next (run_waits _ h.1)

/-- With no status of its own it enrols, or removes, and completes OK. -/
theorem enrolClient_ok {s : State} {sid : Nat} {u : Sub} (h : Begins s sid 0xE0 u)
    (he : s.enrolErrs u.entry.arg0.toNat u.entry.arg1.toNat = []) :
    exec (.enrolClient sid) s = .next ((s.enrol u.entry.arg0.toNat u.entry.arg1.toNat).finish sid (okResult u 0 0)) := by
  rw [enrolClient_begins h, settle_ok _ (begins_preset h) he, State.completeOk, State.complete, begins_sid h]
  rfl

/-- With statuses of its own it ends with the first of them. -/
theorem enrolClient_fails {s : State} {sid : Nat} {u : Sub} (h : Begins s sid 0xE0 u)
    (he : s.enrolErrs u.entry.arg0.toNat u.entry.arg1.toNat ≠ []) : exec (.enrolClient sid) s = .next
      (s.finish sid { status := firstStatus (s.enrolErrs u.entry.arg0.toNat u.entry.arg1.toNat) }) := by
  obtain ⟨⟨hs, ho, -⟩, hp⟩ := id h
  rw [enrolClient_begins h, settle_fails _ (by rw [hp]; exact he), hp, List.nil_append, State.failWith, begins_sid h,
    flagsOf_of_not_answer hs (by rw [ho]; decide)]

theorem enrol_sets {s : State} {c limit : Nat} (h : limit ≠ 0) (hc : (s.client? c).isSome = true) :
    s.enrol c limit = s.modClient c fun x => { x with limit := limit } := by
  simp only [State.enrol, if_neg h, if_pos hc, State.modClient]

theorem enrol_adds {s : State} {c limit : Nat} (h : limit ≠ 0) (hc : s.client? c = none) :
    s.enrol c limit = { s with sasel := { s.sasel with clients := s.sasel.clients ++ [{ index := c, limit := limit }] } } := by
  simp [State.enrol, h, hc]

/-- Removing a client that is not enrolled leaves the clients as they are, and is no error (log 59). -/
theorem enrol_removes (s : State) (c : Nat) :
    s.enrol c 0 = { s with sasel := { s.sasel with clients := s.sasel.clients.filter fun x => !(x.index == c) } } := rfl

/-- Settles O12: the accept event of a query by `accept_query`, ENROL_CLIENT by its statuses and the three things `enrol` does. -/
theorem clientsAndAccept : Obligations.ClientsAndAccept := by
  constructor
  · intro s o conn cl e b hq t
    have ht : t = _ := congrArg Prod.snd (accept_query s o conn cl b hq)
    rw [accept_query s o conn cl b hq, ht]
    refine ⟨rfl, rfl, rfl, updWhere_accepted .., fun d hd => ?_, rfl, fun hl => noResource_mem_presets hl o conn e⟩
    show s.descsServing = _
    rw [State.descsServing, hd]
  · intro s sid u h c limit
    refine ⟨fun h1 hl hc => ?sets, fun h1 hl hc => ?adds, fun h0 hc hq => ?removes, fun h0 hc hq => ?held, fun hb => ?refused⟩
    case sets => rw [enrolClient_ok h (enrolErrs_nil hl (by omega)), enrol_sets (by omega) hc]
    case adds => rw [enrolClient_ok h (enrolErrs_nil hl (by omega)), enrol_adds (by omega) hc]
    case removes =>
      rw [enrolClient_ok h (enrolErrs_nil (by omega) fun _ => ⟨hc, hq⟩), show u.entry.arg1.toNat = 0 from h0, enrol_removes]
    case held =>
      have he : s.enrolErrs c limit = [.noResource] := by rw [h0, enrolErrs_held hc hq]
      rw [enrolClient_fails h (by rw [he]; simp), he]
      rfl
    case refused =>
      have he := badField_mem_enrolErrs s hb
      rw [enrolClient_fails h (List.ne_nil_of_mem he), firstStatus_badField he]

end Sys2Proof.Machine
end

section
/-! PROOFS. Requests in generation, their results and their cheaper paths (chapter 2): what each event does (O52). -/

namespace Sys2Proof.Machine

open Sys2Proof

/-! ### Requests -/

/-- A request that stands at the stage is acted on. -/
theorem atStage_at {s : State} {sid : Nat} {r : Req} {st : Stage} (body : Req → State) (hr : s.req? sid = some r) (h : r.stage = st) :
    s.atStage sid st body = body r := by
  simp [State.atStage, hr, h]

/-- The submission of a request that has its outcome before it has none yet. -/
theorem due_of_req {s : State} {sid : Nat} {u : Sub} {r : Req} (hu : s.sub? sid = some u) (hr : s.req? sid = some r) : u.due = none := by
  have hl : s.live sid = true := (Option.filter_eq_some_iff.1 hr).2
  simpa [State.live, hu] using hl

@[simp] theorem sub_setReq (s : State) (r : Req) (sid : Nat) : (s.setReq r).sub? sid = s.sub? sid := rfl

@[simp] theorem sub_emits (s : State) (os : List Out) (sid : Nat) : (s.emits os).sub? sid = s.sub? sid := by rw [emits_frame]; rfl

/-! ### Prefill, hand-off and decode (R40, R56, R149, R150) -/

/-- The rows of a layer for the prompt are in the request's pages (R147). -/
def State.layerRows (s : State) (r : Req) (m : Model) (im : Image) (layer : Nat) : State :=
  (List.range r.prompt.length).foldl (fun s t => s.putRow r m im r.prompt layer t) s

/-- The token that a decode step samples (R55, R56). -/
def Req.nextToken (r : Req) (im : Image) : Nat :=
  sampleToken r.block r.genTokens.length ((List.range im.header.vocab).map (Config.logit im.digest (r.prompt ++ r.genTokens)))

/-- The request with one more token of its answer. -/
def Req.withToken (r : Req) (tk : Tokeniser) (t : Nat) : Req :=
  { r with genTokens := r.genTokens ++ [t], genText := r.genText ++ tk.bytes t }

section
variable {s : State} {sid : Nat} {r : Req} {m : Model} {im : Image} (hr : s.req? sid = some r) (hm : s.model? r.block.genModel = some m)
  (hi : s.modelImage r.block.genModel = some im) (hd : im.damaged = false) (hk : r.kvDamaged = false)
include hr hm hi

/-- A layer that is not next is dropped. -/
theorem prefillLayer_notNext {layer : Nat} (hst : r.stage = .prefill) (hl : layer ≠ r.layersDone) : Ignores (.prefillLayerComplete sid layer) s := by
  refine congrArg Host.Outcome.next ((atStage_at _ hr hst).trans ?_)
  simp only [hm, hi, if_pos hl]

include hd hk

/-- With its hand-off connection closed, the request ends with NOT_READY (log 41). -/
theorem prefillLayer_closed {layer : Nat} (hst : r.stage = .prefill) (hl : layer = r.layersDone) (hh : r.block.mode = modeHandoff)
    (hc : s.connOpen r.block.handoffConn = false) : exec (.prefillLayerComplete sid layer) s =
      .next (s.endEarly { r with status := some .notReady }) := by
  refine congrArg Host.Outcome.next ((atStage_at _ hr hst).trans ?_)
  simp [hm, hi, hd, hk, hl, hh, hc]

/-- A layer that is next and not the last: its rows are written, in HANDOFF mode its blocks leave, and the request counts both. -/
theorem prefillLayer_next {layer : Nat} (hst : r.stage = .prefill) (hl : layer = r.layersDone) (hn : layer + 1 ≠ im.header.layers)
    (hc : ¬ (r.block.mode = modeHandoff ∧ s.connOpen r.block.handoffConn = false)) :
    let outs := if r.block.mode = modeHandoff then (s.layerRows r m im layer).exportBlocks r m im layer else []
    exec (.prefillLayerComplete sid layer) s = .next (((s.layerRows r m im layer).emits outs).setReq
      { r with layersDone := layer + 1, unacked := r.unacked + outs.length }) := by
  refine congrArg Host.Outcome.next ((atStage_at _ hr hst).trans ?_)
  simp only [hm, hi, if_neg (fun h : layer ≠ r.layersDone => h hl), hd, hk, Bool.false_eq_true, or_self, if_false, if_neg hc, if_neg hn, State.layerRows]

/-- A decode step: the end token, or one that does not fit, ends the stage; any other is added with its row, and the last one
ends the stage too (R56, log 42). -/
theorem decodeStep_next {tk : Tokeniser} (hst : r.stage = .decode) (ht : im.tokeniser = some tk) :
    let t := r.nextToken im
    let r' := r.withToken tk t
    let s' := s.appendRows r' m im (r.prompt ++ r.genTokens ++ [t])
    exec (.decodeStep sid) s = .next (if t = tk.endToken ∨ r.block.resultLen < r.block.answerOff + r'.genText.length then s.toRet r
      else if r.block.maxNew ≤ r.genTokens.length + 1 then s'.toRet r' else s'.setReq r') := by
  refine congrArg Host.Outcome.next ((atStage_at _ hr hst).trans ?_)
  simp only [hm, hi, hd, hk, ht, Bool.false_eq_true, or_self, if_false, Req.nextToken, Req.withToken, List.length_append,
    List.length_singleton]

end

/-- A write acknowledged is one fewer. -/
theorem handoffWriteAcked_next {s : State} {sid : Nat} {r : Req} (hr : s.req? sid = some r) : exec (.handoffWriteAcked sid) s =
    .next (s.setReq { r with unacked := r.unacked - 1 }) := by
  simp only [exec, execHandoffWriteAcked, hr]

/-! ### Results (R40, R52) -/

theorem header_ne_nil (r : Req) : r.header ≠ [] := List.ne_nil_of_length_pos (by rw [Req.header, leBytes_length]; decide)

/-- The header is the last thing that a result writes. -/
theorem writeResults_headerLast (s : State) (u : Sub) (r : Req) : ∃ os : List Out, s.writeResults u r =
    s.emits (os ++ [.write (s.connOf u) r.block.resultAddr r.block.resultRkey r.header]) := by
  simp only [State.writeResults, header_ne_nil, if_false, BitVec.add_zero]
  exact ⟨_, rfl⟩

theorem writeResults_head (s : State) (u : Sub) (r : Req) : (s.writeResults u r).out.head? =
    some (.write (s.connOf u) r.block.resultAddr r.block.resultRkey r.header) := by
  obtain ⟨os, h⟩ := writeResults_headerLast s u r
  simp [h, out_emits]

theorem writeResults_grows (s : State) (u : Sub) (r : Req) : ∃ l, (s.writeResults u r).out = l ++ s.out := ⟨_, out_emits _ _⟩

@[simp] theorem sub_writeResults (s : State) (u : Sub) (r : Req) (sid : Nat) : (s.writeResults u r).sub? sid = s.sub? sid := sub_emits ..

/-- With nothing left to acknowledge the results are written and the completion is due. -/
theorem resultWrite_writes {s : State} {sid : Nat} {u : Sub} {r : Req} (hu : s.sub? sid = some u) (hr : s.req? sid = some r)
    (hst : r.stage = .ret) (ha : r.unacked = 0) : exec (.resultWrite sid) s = .next
      (((s.writeResults u r).setReq { r with stage := .done }).finish sid
        { status := firstStatus (r.statuses !inTime (s.elapsed r.count) 0 r.block.deadlineUs), flags := r.flagSet
          result0 := BitVec.ofNat 64 (r.results.length + 2 ^ 32 * r.version) }) := by
  refine congrArg Host.Outcome.next ((atStage_at _ hr hst).trans ?_)
  simp [hu, ha]

/-- Writes that may still be acknowledged are waited for. -/
theorem resultWrite_waits {s : State} {sid : Nat} {u : Sub} {r : Req} (hu : s.sub? sid = some u) (hr : s.req? sid = some r)
    (hst : r.stage = .ret) (ha : r.unacked ≠ 0) (hc : ¬ (r.block.mode = modeHandoff ∧ s.connOpen r.block.handoffConn = false)) :
    Ignores (.resultWrite sid) s := by
  refine congrArg Host.Outcome.next ((atStage_at _ hr hst).trans ?_)
  simp only [hu, if_pos ha, if_neg hc]

/-- Writes that never will be end the request with NOT_READY (log 41). -/
theorem resultWrite_closed {s : State} {sid : Nat} {u : Sub} {r : Req} (hu : s.sub? sid = some u) (hr : s.req? sid = some r)
    (hst : r.stage = .ret) (ha : r.unacked ≠ 0) (hc : r.block.mode = modeHandoff ∧ s.connOpen r.block.handoffConn = false) :
    exec (.resultWrite sid) s = .next ((s.setReq { r with stage := .done, status := some .notReady, merged := [] }).failWith sid .notReady) := by
  refine congrArg Host.Outcome.next ((atStage_at _ hr hst).trans ?_)
  simp only [hu, if_pos ha, if_pos hc]

/-! ### Time running short (R49 to R51) -/

/-- A stage whose time has run out takes its cheaper path in a request with STRICT 0 and a deadline. -/
theorem cheaperPath_takes {s : State} {sid : Nat} {r : Req} (hr : s.req? sid = some r) (hs : r.block.strict = false)
    (hd : r.block.deadlineUs ≠ 0) (delivered : List W128) : exec (.cheaperPath sid delivered) s = .next (s.cheaper r delivered) := by
  simp [exec, execCheaperPath, hr, hs, hd]

/-- Under STRICT 1 a stage that waits on no model image takes none. -/
theorem cheaperPath_strict {s : State} {sid : Nat} {r : Req} (hr : s.req? sid = some r) (hs : r.block.strict = true)
    (hst : r.stage = .exact ∨ r.stage = .fetch) (delivered : List W128) : Ignores (.cheaperPath sid delivered) s := by
  obtain h | h := hst <;> simp [Ignores, exec, execCheaperPath, hr, hs, h]

/-- A request that has not stopped goes past a re-rank that it does not have. -/
theorem toRerank_none (s : State) {r : Req} (hs : r.stopped = false) (hm : r.block.rerankModel = 0) : s.toRerank r = s.toPack r := by
  simp [State.toRerank, hs, hm]

/-- A deadline that passes is marked; the stage goes on under STRICT 1. -/
theorem deadlineExpiry_strict {s : State} {sid : Nat} {r : Req} (hr : s.req? sid = some r) (hd : r.block.deadlineUs ≠ 0)
    (hs : r.block.strict = true) : exec (.deadlineExpiry sid) s = .next (s.setReq { r with missed := true }) := by
  simp [exec, execDeadlineExpiry, hr, hd, hs]

/-- Under STRICT 0 the stage takes the cheaper path that it has. -/
theorem deadlineExpiry_lax {s : State} {sid : Nat} {r : Req} (hr : s.req? sid = some r) (hd : r.block.deadlineUs ≠ 0)
    (hs : r.block.strict = false) : exec (.deadlineExpiry sid) s =
      .next ((s.setReq { r with missed := true }).cheaper { r with missed := true } []) := by
  simp [exec, execDeadlineExpiry, hr, hd, hs]

/-- Without a deadline none passes. -/
theorem deadlineExpiry_none {s : State} {sid : Nat} {r : Req} (hr : s.req? sid = some r) (hd : r.block.deadlineUs = 0) :
    Ignores (.deadlineExpiry sid) s := by
  simp [Ignores, exec, execDeadlineExpiry, hr, hd]

end Sys2Proof.Machine
end

section
/-! PROOFS. Generation, results and deadlines of requests (O52). -/

namespace Sys2Proof.Machine

open Sys2Proof

/-- Settles O52: each clause is one outcome of its event, and the results follow from the header being emitted last. -/
theorem generatePath : Obligations.GeneratePath := by
  refine ⟨?generation, ?ends⟩
  case generation =>
    intro s sid r m im hr hm hi hd hk
    refine ⟨fun layer hst hl hn => ⟨fun hh hc => ?blocks, fun hh hc => prefillLayer_closed hr hm hi hd hk hst hl hh hc, fun hh => ?kept⟩,
      fun layer hst hl => prefillLayer_notNext hr hm hi hst hl, handoffWriteAcked_next hr, fun tk hst ht => ?decode⟩
    case blocks =>
      have h := prefillLayer_next hr hm hi hd hk hst hl hn (by simp [hc])
      simp only [if_pos hh] at h
      exact h
    case kept =>
      have h := prefillLayer_next hr hm hi hd hk hst hl hn (fun h => hh h.1)
      simp only [if_neg hh] at h
      exact h
    case decode =>
      have h := decodeStep_next hr hm hi hd hk hst ht
      refine ⟨fun he hf hn => ?_, fun he hf hn => ?_, fun he => ?_⟩
      · exact h.trans (congrArg _ ((if_neg (not_or.2 ⟨he, Nat.not_lt.2 hf⟩)).trans (if_neg (Nat.not_le.2 hn))))
      · exact h.trans (congrArg _ ((if_neg (not_or.2 ⟨he, Nat.not_lt.2 hf⟩)).trans (if_pos (Nat.le_of_eq hn))))
      · exact h.trans (congrArg _ (if_pos he))
  case ends =>
    intro s sid u r hu hr
    have hdue := due_of_req hu hr
    refine ⟨fun hst ha => ?written, fun hst ha hc => resultWrite_waits hu hr hst ha hc, fun hst ha hh hc => ?closed,
      fun delivered hs hd => ⟨fun hst => ?exact, fun hst => ?rerank, fun hst => ?generate, fun hst hm hn => ?fetch, fun hst => ?probe⟩,
      fun hd hs => deadlineExpiry_strict hr hd hs, fun hd => deadlineExpiry_none hr hd, fun delivered hs hst => cheaperPath_strict hr hs hst delivered⟩
    case written =>
      refine ⟨_, resultWrite_writes hu hr hst ha, endsWith_finish _ ?_ hdue, writeResults_head s u r, rfl, writeResults_grows s u r⟩
      simpa using hu
    case closed => exact ⟨_, resultWrite_closed hu hr hst ha ⟨hh, hc⟩, rfl, _, endsWith_finish _ hu hdue⟩
    case exact => simp only [cheaperPath_takes hr hs hd, State.cheaper, hst]
    case rerank => simp only [cheaperPath_takes hr hs hd, State.cheaper, hst]
    case generate => obtain h | h := hst <;> simp only [cheaperPath_takes hr hs hd, State.cheaper, h]
    case fetch =>
      simp only [cheaperPath_takes hr hs hd, State.cheaper, hst]
      exact congrArg _ (toRerank_none s hn hm)
    case probe => simp only [deadlineExpiry_lax hr hd hs, State.cheaper, hst]

end Sys2Proof.Machine
end

section
/-! PROOFS. How a command that begins ends, whatever the command: with its results, or with a status of its own (R316, R320). -/

namespace Sys2Proof.Machine

open Sys2Proof

section
variable {s : State} {sid op : Nat} {u : Sub} (h : Begins s sid op u)
include h

/-- A command that begins with its buffer in reach goes on with the buffer's bytes. -/
theorem run_withB {b : Option Buf} {buf : Buf} (hb : u.readB b = some buf) (k : Sub → State → Buf → State) :
    (s.run sid op fun u s => s.withB u b (k u s)) = k u s buf := by
  rw [run_waits _ h.1, withB_some _ (begins_preset h) hb]

/-- A command that begins completes OK under the name of its submission. -/
theorem complete_begins (t : State) (r0 r1 : W64) : t.complete u r0 r1 = t.finish sid (okResult u r0 r1) := by
  rw [State.complete, begins_sid h]; rfl

theorem completeOk_begins (t : State) : t.completeOk u = t.finish sid (okResult u 0 0) := complete_begins h t 0 0

/-- With no status of its own it has its effect. -/
theorem settle_begins {errs : List Status} (he : errs = []) (effect : State → State) : s.settle u errs effect = effect s :=
  settle_ok effect (begins_preset h) he

/-- With statuses of its own it ends with the first of them. -/
theorem settle_refuses (ho : op ≠ 0x10) {errs : List Status} (he : errs ≠ []) (effect : State → State) :
    s.settle u errs effect = s.finish sid { status := firstStatus errs } := by
  obtain ⟨⟨hs, hop, -⟩, hp⟩ := id h
  rw [settle_fails effect (by rw [hp]; exact he), hp, List.nil_append, State.failWith, begins_sid h,
    flagsOf_of_not_answer hs (by rw [hop]; exact ho)]

/-- BAD_FIELD among them comes first (R320). -/
theorem settle_refuses_badField (ho : op ≠ 0x10) {errs : List Status} (he : .badField ∈ errs) (effect : State → State) :
    s.settle u errs effect = s.finish sid { status := .badField } := by
  rw [settle_refuses h ho (List.ne_nil_of_mem he), firstStatus_badField he]

end

end Sys2Proof.Machine
end

section
/-! PROOFS. Filter programs and the filters held, and the fetch of an extent (chapters 3, 7 and 10): what each event does (O44). -/

namespace Sys2Proof.Machine

open Sys2Proof

/-! ### The words of a filter program (R78) -/

/-- A word in order by itself reads arguments that the package has. -/
theorem argEnd_le_of_ok {n : Nat} {w : FilterWord} (h : FilterWord.ok n w = true) : w.argEnd ≤ n := by
  simp only [FilterWord.ok, Bool.and_eq_true, decide_eq_true_eq] at h
  exact h.2

/-- The last word of a program that passes the walk of the stack is RET. -/
theorem filterWalk_last_ret : ∀ {l : List FilterWord} {d : Nat}, filterWalk d l = true → ∃ r w, l = r ++ [w] ∧ FilterWord.op w = 0x3F
  | [], _, h => by simp [filterWalk] at h
  | w :: l, d, h => by
    by_cases hw : FilterWord.op w = 0x3F
    · simp only [filterWalk, hw, if_true, Bool.and_eq_true, List.isEmpty_iff] at h
      exact ⟨[], w, by rw [h.1]; rfl, hw⟩
    · simp only [filterWalk, hw, if_false, Bool.and_eq_true] at h
      obtain ⟨r, v, rfl, hv⟩ := filterWalk_last_ret h.2
      exact ⟨w :: r, v, rfl, hv⟩

/-- What R78 asks of a filter program. -/
theorem filterValid_iff (n : Nat) (l : List FilterWord) : filterValid n l = true ↔
    (1 ≤ l.length ∧ l.length ≤ 256) ∧ n ≤ 256 ∧ (∀ w ∈ l, FilterWord.ok n w = true) ∧ filterWalk 0 l = true := by
  simp only [filterValid, Bool.and_eq_true, decide_eq_true_eq, List.all_eq_true, and_assoc]

/-! ### LOAD_FILTER and UNLOAD_FILTER (R154) -/

/-- The statuses of a LOAD_FILTER's own: a package that is not in order, and no index free. -/
def State.filterErrs (s : State) (f : Nat × List FilterWord × Bool) : List Status :=
  when (!f.2.2 || !filterValid f.1 f.2.1) .badField ++ when (lowestFree (s.img.filters.map (·.index)) 1024).isNone .noResource

theorem filterErrs_nil {s : State} {f : Nat × List FilterWord × Bool} {i : Nat} (hp : f.2.2 = true) (hv : filterValid f.1 f.2.1 = true)
    (hi : lowestFree (s.img.filters.map (·.index)) 1024 = some i) : s.filterErrs f = [] := by
  simp [State.filterErrs, when, hp, hv, hi]

theorem badField_mem_filterErrs (s : State) {f : Nat × List FilterWord × Bool} (h : f.2.2 = false ∨ filterValid f.1 f.2.1 = false) :
    Status.badField ∈ s.filterErrs f := by
  obtain h | h := h <;> simp [State.filterErrs, when, h]

/-- The filter of a program under an index. -/
def State.newFilter (s : State) (f : Nat × List FilterWord × Bool) (i : Nat) : Filter :=
  { index := i, gen := genFor s.img.filterGens i, words := f.2.1, argLen := f.1 }

/-- A LOAD_FILTER that begins: its statuses, and the filter that it takes in when none applies. -/
theorem loadFilter_begins {s : State} {sid : Nat} {u : Sub} {b : Option Buf} {buf : Buf} (h : Begins s sid 0x24 u) (hb : u.readB b = some buf) :
    let f := parseFilter buf u.entry.length.toNat
    let i := (lowestFree (s.img.filters.map (·.index)) 1024).getD 0
    exec (.loadFilter sid b) s = .next (s.settle u (s.filterErrs f) fun s =>
      (s.modImg fun g => { g with filters := g.filters ++ [s.newFilter f i] }).complete u
        (BitVec.ofNat 64 (mkHandle (s.newFilter f i).gen kindFilter i).toNat) 0) :=
  congrArg Host.Outcome.next (run_withB h hb _)

/-- An UNLOAD_FILTER that begins completes, and what no job is held on any more goes. -/
theorem unloadFilter_begins {s : State} {sid : Nat} {u : Sub} (h : Begins s sid 0x25 u) :
    exec (.unloadFilter sid) s = .next (s.finish sid (okResult u 0 0)).sweepImages := by
  rw [← completeOk_begins h]
  exact congrArg Host.Outcome.next ((run_waits _ h.1).trans (settle_begins h rfl _))

/-! What follows a change of knots, work or slots leaves the filters. -/

@[simp] theorem seatFirst_img (slot : Nat) : ∀ (l : List Ctx) (s : State), (s.seatFirst slot l).img = s.img
  | [], _ => rfl
  | c :: l, s => by
    unfold State.seatFirst
    split
    · rfl
    · exact seatFirst_img slot l _

@[simp] theorem fillSlotsN_img : ∀ (n : Nat) (s : State), (State.fillSlotsN n s).img = s.img
  | 0, _ => rfl
  | n + 1, s => by
    unfold State.fillSlotsN
    split
    · rfl
    · split
      · rfl
      · exact (fillSlotsN_img n _).trans (seatFirst_img ..)

@[simp] theorem scramble_img (s : State) (c : Ctx) : (s.scramble c).img = s.img := by
  unfold State.scramble; split <;> rfl
@[simp] theorem loadEpi_img (s : State) (c : Ctx) : (s.loadEpi c).img = s.img := by
  unfold State.loadEpi; split <;> rfl
@[simp] theorem seatService_img (s : State) (m : Model) (i k tb cb kn : Nat) : (s.seatService m i k tb cb kn).img = s.img := by
  rw [State.seatService, loadEpi_img, scramble_img]; rfl
@[simp] theorem bound_filters (s : State) (m : Model) (u : Sub) (c : W32) : (s.bound m u c).img.filters = s.img.filters := rfl

@[simp] theorem settleBind_filters (s : State) (m : Model) : (s.settleBind m).img.filters = s.img.filters := by
  unfold State.settleBind
  split
  · split
    · rfl
    · split
      · rfl
      · split
        · rfl
        · split
          · rw [bound_filters, seatService_img]
          · rfl
  · rfl

@[simp] theorem schedule_filters (s : State) : s.schedule.img.filters = s.img.filters := by
  have h : s.wakeAll.settleBinds.img.filters = s.wakeAll.img.filters := foldl_keeps (fun s : State => s.img.filters) settleBind_filters _ _
  rw [State.schedule, State.fillSlots, fillSlotsN_img, h]
  rfl

/-- The end of a submission releases no job of an answer request. -/
@[simp] theorem jobOn_finish (s : State) (sid : Nat) (r : Result) (h : W32) (rel : Nat) : (s.finish sid r).jobOn h rel = s.jobOn h rel := by
  have hf : ∀ v : Sub, ∃ d b, (if (v.sid == sid) = true then (if v.due.isNone = true then { v with due := some r, running := false } else v) else v)
      = { v with due := d, running := b } := by
    intro v
    split
    · split
      · exact ⟨_, _, rfl⟩
      · exact ⟨v.due, v.running, rfl⟩
    · exact ⟨v.due, v.running, rfl⟩
  unfold State.jobOn
  congr 1
  show (updWhere _ _ s.sasel.subs).any _ = _
  rw [updWhere, List.any_map]
  congr 1
  funext v
  obtain ⟨d, b, hv⟩ := hf v
  rw [Function.comp, hv]
  rfl

/-- The filters that go: those released on which no job is held (R47, R154). -/
def State.filterFree (s : State) (f : Filter) : Bool := match f.releasedAt with
  | some r => !s.jobOn (mkHandle f.gen kindFilter f.index) r
  | none => false

theorem filterFree_iff (s : State) (f : Filter) : s.filterFree f = true ↔
    ∃ r, f.releasedAt = some r ∧ s.jobOn (mkHandle f.gen kindFilter f.index) r = false := by
  unfold State.filterFree
  cases f.releasedAt with
  | none => simp
  | some r => simp

/-- With no model and no image released, a sweep lets go of filters alone. -/
theorem sweepImages_filters {s : State} (hm : ∀ m ∈ s.img.models, m.releasedAt = none) (hi : ∀ im ∈ s.img.images, im.releasedAt = none) :
    s.sweepImages.img.filters = s.img.filters.filter fun f => !(s.img.filters.filter s.filterFree).contains f := by
  unfold State.sweepImages
  rw [(List.filter_eq_nil_iff (l := s.img.models)).2 (fun m h => by simp [hm m h]), List.foldl_nil]
  dsimp only
  rw [(List.filter_eq_nil_iff (l := s.img.images)).2 (fun m h => by simp [hi m h]), List.foldl_nil, schedule_filters]
  rfl

/-- A filter is held after the sweep unless it was released and no job is held on it. -/
theorem mem_sweepImages_filters {s : State} (hm : ∀ m ∈ s.img.models, m.releasedAt = none) (hi : ∀ im ∈ s.img.images, im.releasedAt = none)
    {f : Filter} (hf : f ∈ s.img.filters) : f ∈ s.sweepImages.img.filters ↔ ¬ s.filterFree f = true := by
  simp [sweepImages_filters hm hi, hf]

/-! ### The fetch of an extent (R179 to R182, R238) -/

/-- The fetch of an extent is among those outstanding. -/
def State.outstanding (s : State) (obj : W64) (e : Nat) : Prop := ∃ f ∈ s.tiers.fetches.take 1024, f.objId = obj ∧ f.extent = e

theorem outstanding_iff (s : State) (obj : W64) (e : Nat) :
    ((s.tiers.fetches.take fetchLimit).any fun f => f.objId == obj && f.extent == e) = true ↔ s.outstanding obj e := by
  simp [State.outstanding, fetchLimit]

theorem home_objId {s : State} {obj : W64} {h : Home} (hh : s.home? obj = some h) : h.objId = obj := by
  have := List.find?_some hh
  simp only [Bool.and_eq_true, beq_iff_eq] at this
  exact this.1

/-- A fetch that is not outstanding ends nothing. -/
theorem extentFetch_ignored {s : State} {obj : W64} {e : Nat} (media : Media) (h : ¬ s.outstanding obj e) :
    Ignores (.extentFetchComplete obj e media) s :=
  congrArg Host.Outcome.next (if_neg (mt (outstanding_iff ..).1 h))

section
variable {s s' : State} {obj : W64} {e : Nat} {media : Media} {h : Home} (hh : s.home? obj = some h) (ho : s.outstanding obj e)
include hh ho

/-- An extent that is delivered goes into the copy, and its fetch ends. -/
theorem extentFetch_delivered {data : Buf} (hr : s.readExtent media obj e = (some data, s')) : exec (.extentFetchComplete obj e media) s =
    .next (((s'.modTiers fun t => { t with fetches := t.fetches.filter fun f => !(f.objId == obj && f.extent == e) }).writeExtentCopy h e
      data).clearFlips (h.addr.toNat + 65536 * e) (min 65536 (h.bytes - 65536 * e))).schedule := by
  refine congrArg Host.Outcome.next ((if_pos ((outstanding_iff ..).2 ho)).trans ?_)
  simp only [hh, hr]

/-- One that is lost, of an object without a copy, makes the object DAMAGED, and every fetch of it ends (R182). -/
theorem extentFetch_lost (hr : s.readExtent media obj e = (none, s')) (hc : h.hbmCopy = false) : exec (.extentFetchComplete obj e media) s =
    .next ((s'.markDamaged obj).endFetches obj).schedule := by
  refine congrArg Host.Outcome.next ((if_pos ((outstanding_iff ..).2 ho)).trans ?_)
  simp only [hh, hr, State.extentLost, hc, Bool.false_eq_true, false_and, if_false, home_objId hh]

end

/-! A climb of the ladder counts its steps and moves references: it leaves what a page holds. -/

/-- The climb keeps what counting a step and setting a block set keep. -/
theorem climb_keeps {α : Type} (f : State → α) (hc : ∀ s c i, f (s.countStep c i) = f s) (hb : ∀ s b, f (s.setBlock b) = f s)
    (s : State) (m : MapEntry) (step : Nat) : f (s.climb m step) = f s := by
  unfold State.climb
  dsimp only
  split
  · rw [hb]; exact foldl_keeps f (fun s i => hc s _ i) _ s
  · exact foldl_keeps f (fun s i => hc s _ i) _ s

/-- An extent that is mapped, not DAMAGED, on a channel in service and that decodes within the ladder is delivered as its page holds it. -/
theorem readExtent_decodes {s : State} {media : Media} {obj : W64} {e : Nat} {m : MapEntry} (hm : s.entry? obj e = some m)
    (hd : m.damaged = false) (ho : s.channelOut m.channel = false) (hl : ladderStep media obj e ≤ 6) :
    s.readExtent media obj e = (some (s.pageData m), s.climb m (ladderStep media obj e)) := by
  have hp : (s.climb m (ladderStep media obj e)).pageData m = s.pageData m :=
    climb_keeps (fun s => s.pageData m) (fun _ _ _ => rfl) (fun _ _ => rfl) s m _
  simp only [State.readExtent, hm, hd, ho, Bool.false_eq_true, if_false, if_pos hl, hp]

end Sys2Proof.Machine
end

section
/-! PROOFS. Filters and the fetches of extents (O44). -/

namespace Sys2Proof.Machine

open Sys2Proof

/-- Settles O44: a filter package by its statuses, the sweep by the filters that go, a program's end by the walk of the stack, and
a fetch by what the read of its extent gives. -/
theorem filtersAndFetches : Obligations.FiltersAndFetches := by
  refine ⟨⟨fun s sid i u b buf h hb => ⟨fun hp hv hi => ?taken, fun hf => ?refused⟩, fun s sid u h hm hi => ?swept, fun n l hv => ?valid⟩,
    fun s obj e media h hh => ⟨fun data s' ho hr => extentFetch_delivered hh ho hr,
      fun m hm hd hc hl => congrArg Prod.fst (readExtent_decodes hm hd hc hl), fun s' ho hr hc => extentFetch_lost hh ho hr hc,
      fun ho => extentFetch_ignored media ho⟩⟩
  case taken =>
    rw [loadFilter_begins h hb, hi, settle_begins h (filterErrs_nil hp hv hi)]
    exact congrArg _ (complete_begins h ..)
  case refused =>
    rw [loadFilter_begins h hb, settle_refuses_badField h (by decide) (badField_mem_filterErrs s hf)]
  case swept =>
    refine ⟨_, unloadFilter_begins h, fun f hf => ?_⟩
    rw [mem_sweepImages_filters (s := s.finish sid (okResult u 0 0)) hm hi hf, filterFree_iff]
    simp only [jobOn_finish]
  case valid =>
    obtain ⟨⟨h1, h256⟩, hn, hok, hw⟩ := (filterValid_iff n l).1 hv
    obtain ⟨r, w, rfl, hop⟩ := filterWalk_last_ret hw
    refine ⟨h1, h256, hn, fun w hm => argEnd_le_of_ok (hok w hm), ⟨r, ?_⟩, ?_⟩
    · simp
    · simpa using hop

end Sys2Proof.Machine
end

section
/-! PROOFS. Indexes and their segments (chapter 3): CREATE_INDEX, and a segment from its opening to its seal (O45). -/

namespace Sys2Proof.Machine

open Sys2Proof

/-! ### CREATE_INDEX (R57, R323) -/

/-- The index of a parameter block and its tables under an index number. -/
def State.newIndex (s : State) (u : Sub) (p : IndexParams) (i : Nat) (b2 b3 : Buf) : Index :=
  { index := i, gen := genFor s.idx.indexGens i, params := p, centroids := b2.take (p.partitions * p.dim), norms := parseNorms p b2
    projection := b3, creator := u.client }

/-- The lengths of a CREATE_INDEX are those of its parameter block, which is in order. -/
def TablesSized (u : Sub) (p : IndexParams × Bool) : Prop :=
  p.2 = true ∧ u.entry.length.toNat = 64 ∧ u.entry.b2Len = p.1.tableBytes ∧ u.entry.b3Len = 512 * p.1.dim

/-- The statuses of a CREATE_INDEX's own. -/
def State.createErrs (s : State) (u : Sub) (p : IndexParams × Bool) (b2 b3 : Buf) : List Status :=
  let slot := lowestFree (s.idx.list.map (·.index)) 64
  let table := (s.newIndex u p.1 (slot.getD 0) b2 b3).tableObj
  when (!p.2 || decide (u.entry.length.toNat ≠ 64) || decide (u.entry.b2Len ≠ p.1.tableBytes) || decide (u.entry.b3Len ≠ 512 * p.1.dim)
      || !normsOk p.1 b2) .badField
    ++ when (slot.isNone || !s.sealedRoom table p.1.tableBytes) .noResource ++ when (s.sealedOut table p.1.tableBytes) .mediaError

theorem createErrs_nil {s : State} {u : Sub} {p : IndexParams × Bool} {b2 : Buf} {i : Nat} (b3 : Buf) (hz : TablesSized u p) (hn : normsOk p.1 b2 = true)
    (hi : lowestFree (s.idx.list.map (·.index)) 64 = some i) (hr : s.sealedRoom (s.newIndex u p.1 i b2 b3).tableObj p.1.tableBytes = true)
    (ho : s.sealedOut (s.newIndex u p.1 i b2 b3).tableObj p.1.tableBytes = false) : s.createErrs u p b2 b3 = [] := by
  obtain ⟨hp, hl, h2, h3⟩ := hz
  simp [State.createErrs, when, hi, hp, hl, h2, h3, hn, hr, ho]

theorem badField_mem_createErrs (s : State) {u : Sub} {p : IndexParams × Bool} {b2 : Buf} (b3 : Buf) (h : ¬ TablesSized u p ∨ normsOk p.1 b2 = false) :
    Status.badField ∈ s.createErrs u p b2 b3 := by
  simp only [TablesSized, Classical.not_and_iff_not_or_not, Bool.not_eq_true] at h
  exact List.mem_append_left _ (List.mem_append_left _ (by simpa [when, or_assoc] using h))

/-- A CREATE_INDEX that begins with its tables in reach. -/
theorem createIndex_begins {s : State} {sid : Nat} {u : Sub} {b : Option Buf} {buf : Buf} (b2 b3 : Buf) (h : Begins s sid 0x11 u)
    (hb : u.readB b = some buf) :
    let p := parseIndexParams buf
    let x := s.newIndex u p.1 ((lowestFree (s.idx.list.map (·.index)) 64).getD 0) b2 b3
    exec (.createIndex sid b (some b2) (some b3)) s = .next (s.settle u (s.createErrs u p b2 b3) fun s =>
      ((s.addSealed x.handle x.tableObj p.1.tableBytes b2).modIdx fun g => { g with list := g.list ++ [x] }).complete u
        (BitVec.ofNat 64 x.handle.toNat) 0) :=
  congrArg Host.Outcome.next (run_withB h hb _)

/-! ### OPEN_SEGMENT (R60) -/

/-- The lowest segment handle that no segment has, of those not committed (R62). -/
def State.freeSegment (s : State) : Option Nat :=
  lowestFree ((s.idx.list.flatMap (·.segments)).filterMap fun g => if g.committed then none else some (hIndex g.handle)) 4096

/-- The handle that a segment opened under an index number gets. -/
def State.segmentHandle (s : State) (i : Nat) : W32 := mkHandle (genFor s.idx.segGens i) kindSegment i

/-- The status of an OPEN_SEGMENT's own: too many segments open or sealed, or no handle left. -/
def State.openErrs (s : State) (x : Index) : List Status :=
  let pending := x.segments.filter fun g => !g.committed
  when (decide (64 ≤ pending.length) || decide (16 ≤ (pending.filter fun g => g.number.isNone).length) || s.freeSegment.isNone) .noResource

theorem openErrs_nil {s : State} {x : Index} {i : Nat} (h64 : (x.segments.filter fun g => !g.committed).length < 64)
    (h16 : ((x.segments.filter fun g => !g.committed).filter fun g => g.number.isNone).length < 16) (hi : s.freeSegment = some i) :
    s.openErrs x = [] := by
  simp [State.openErrs, when, hi, Nat.not_le.2 h64, Nat.not_le.2 h16, -List.filter_filter]

section
variable {s : State} {sid : Nat} {u : Sub} {x : Index} (hx : s.index? u.entry.handleA = some x)
include hx

theorem openSegment_begins (h : Begins s sid 0x13 u) : exec (.openSegment sid) s = .next (s.settle u (s.openErrs x) fun t =>
    (t.modIndex u.entry.handleA fun x => { x with
      segments := x.segments ++ [{ handle := t.segmentHandle (s.freeSegment.getD 0), runs := x.runsObj x.opened }], opened := x.opened + 1 }).complete
      u (BitVec.ofNat 64 (t.segmentHandle (s.freeSegment.getD 0)).toNat) 0) := by
  refine congrArg Host.Outcome.next ((run_waits _ h.1).trans ?_)
  simp only [hx]
  rfl

/-! ### APPEND_RECORDS (R60, R61) -/

/-- An APPEND_RECORDS that begins on a segment that is there. -/
theorem appendRecords_begins {b : Option Buf} {buf : Buf} {g : Segment} (h : Begins s sid 0x14 u) (hb : u.readB b = some buf)
    (hg : x.segment? u.entry.handleB = some g) :
    let recs := x.insertRecs buf u.entry.length.toNat
    let more := takeAway (segmentChannels x.params.dim (g.recs ++ recs)) (segmentChannels x.params.dim g.recs)
    exec (.appendRecords sid b) s = .next (s.settle u (s.appendErrs x (some g) recs u.entry.length.toNat more) fun s =>
      ((s.writeRuns x.params.dim { g with recs := g.recs ++ recs } (nub (recs.map Rec.channel))).modIndex u.entry.handleA fun x =>
        { x with segments := updWhere (fun g => g.handle == u.entry.handleB && !g.committed) (fun g => { g with recs := g.recs ++ recs }) x.segments }).complete
        u (BitVec.ofNat 64 recs.length) 0) := by
  refine congrArg Host.Outcome.next ((run_withB h hb _).trans ?_)
  simp only [hx, hg]

omit hx in
theorem badField_mem_appendErrs (s : State) {x : Index} {g : Segment} (recs : List Rec) {len : Nat} (more : List Nat)
    (h : len % (32 + x.params.dim) ≠ 0 ∨ g.number.isSome = true) : Status.badField ∈ s.appendErrs x (some g) recs len more := by
  refine List.mem_append_left _ (List.mem_append_left _ ?_)
  obtain h | h := h <;> simp [when, h]

/-! ### SEAL_SEGMENT (R62, R166, R399) -/

/-- The statuses of a SEAL_SEGMENT's own, on a segment that is there. -/
def State.sealErrs (s : State) (x : Index) (g : Segment) : List Status :=
  when g.number.isSome .badField ++ when (decide (4294967296 ≤ x.segCount) || !s.dirRoom 1) .noResource
    ++ when (g.recs.any fun r => s.channelOut r.channel) .mediaError

omit hx in
theorem sealErrs_nil {s : State} {x : Index} {g : Segment} (hn : g.number = none) (hc : x.segCount < 4294967296) (hd : s.dirRoom 1 = true)
    (ho : ∀ r ∈ g.recs, s.channelOut r.channel = false) : s.sealErrs x g = [] := by
  have out : (g.recs.any fun r => s.channelOut r.channel) = false := List.any_eq_false.2 fun r hr => by simp [ho r hr]
  simp [State.sealErrs, when, hn, Nat.not_le.2 hc, hd, out]

omit hx in
theorem badField_mem_sealErrs (s : State) (x : Index) {g : Segment} (h : g.number.isSome = true) : Status.badField ∈ s.sealErrs x g := by
  simp [State.sealErrs, when, h]

/-- A SEAL_SEGMENT that begins on a segment that is there. -/
theorem sealSegment_begins {g : Segment} (h : Begins s sid 0x15 u) (hg : x.segment? u.entry.handleB = some g) :
    exec (.sealSegment sid) s = .next (s.settle u (s.sealErrs x g) fun s =>
      ((s.addHome { objId := g.runs, sealedObj := true, owner := x.handle
                    lengthM1 := BitVec.ofNat 32 (1024 * (segmentChannels x.params.dim g.recs).length - 1) }).modIndex u.entry.handleA fun x =>
        { x with segCount := x.segCount + 1
                 segments := updWhere (fun g => g.handle == u.entry.handleB && !g.committed) (fun g => { g with number := some x.segCount }) x.segments }).complete
        u (BitVec.ofNat 64 x.segCount) 0) := by
  refine congrArg Host.Outcome.next ((run_waits _ h.1).trans ?_)
  simp only [hx, hg]
  rfl

end

end Sys2Proof.Machine
end

section
/-! PROOFS. Indexes created, and segments opened, filled and sealed (O45). -/

namespace Sys2Proof.Machine

open Sys2Proof

/-- Settles O45: each command is its statuses and its effect, and the clauses say when there are none. -/
theorem indexesAndSegments : Obligations.IndexesAndSegments := by
  refine ⟨fun s sid i u b buf b2 b3 h hb => ⟨fun hz hn hi hr ho => ?created, fun hf => ?badParams⟩, fun s sid u x hx =>
    ⟨fun i h h64 h16 hi => ?opened, fun b buf g h hb hg => ⟨fun he => ?appended, fun hf => ?badRecords⟩,
      fun g h hg => ⟨fun hn hc hd ho => ?numbered, fun hn => ?sealedBefore⟩⟩⟩
  case created =>
    rw [createIndex_begins b2 b3 h hb, hi, settle_begins h (createErrs_nil b3 hz hn hi hr ho)]
    exact congrArg _ (complete_begins h ..)
  case badParams =>
    rw [createIndex_begins b2 b3 h hb, settle_refuses_badField h (by decide) (badField_mem_createErrs s b3 hf)]
  case opened =>
    rw [openSegment_begins hx h, settle_begins h (openErrs_nil h64 h16 hi), complete_begins h, show s.freeSegment = some i from hi]
    rfl
  case appended =>
    rw [appendRecords_begins hx h hb hg, settle_begins h he, complete_begins h]
  case badRecords =>
    rw [appendRecords_begins hx h hb hg, settle_refuses_badField h (by decide) (badField_mem_appendErrs s _ _ hf)]
  case numbered =>
    rw [sealSegment_begins hx h hg, settle_begins h (sealErrs_nil hn hc hd ho), complete_begins h]
  case sealedBefore =>
    rw [sealSegment_begins hx h hg, settle_refuses_badField h (by decide) (badField_mem_sealErrs s x hn)]

end Sys2Proof.Machine
end

section
/-! PROOFS. The order in which a sort puts a list: nothing is lost, and under a total order everything stands in order. -/

namespace Sys2Proof.Machine

open Sys2Proof

section
variable {α : Type} (le : α → α → Bool)

theorem insertBy_perm (x : α) : ∀ l : List α, (insertBy le x l).Perm (x :: l)
  | [] => .refl _
  | y :: l => by
    unfold insertBy
    split
    · exact ((insertBy_perm x l).cons y).trans (.swap x y l)
    · exact .refl _

theorem foldl_insertBy_perm : ∀ l acc : List α, (l.foldl (fun acc x => insertBy le x acc) acc).Perm (acc ++ l)
  | [], acc => by simp
  | x :: l, acc => (foldl_insertBy_perm l _).trans (((insertBy_perm le x acc).append_right l).trans List.perm_middle.symm)

/-- A sort loses nothing and adds nothing. -/
theorem sortBy_perm (l : List α) : (sortBy le l).Perm l := foldl_insertBy_perm le l []

variable {le} (total : ∀ a b, le a b = false → le b a = true) (trans : ∀ a b c, le a b = true → le b c = true → le a c = true)
include total trans

theorem insertBy_pairwise (x : α) : ∀ {l : List α}, l.Pairwise (fun a b => le a b = true) →
    (insertBy le x l).Pairwise fun a b => le a b = true
  | [], _ => List.pairwise_singleton _ _
  | y :: l, h => by
    obtain ⟨hy, hl⟩ := List.pairwise_cons.1 h
    unfold insertBy
    split
    · rename_i hyx
      refine List.pairwise_cons.2 ⟨fun z hz => ?_, insertBy_pairwise x hl⟩
      obtain rfl | hz := List.mem_cons.1 ((insertBy_perm le x l).mem_iff.1 hz)
      · exact hyx
      · exact hy z hz
    · rename_i hyx
      have hxy := total y x (by simpa using hyx)
      refine List.pairwise_cons.2 ⟨fun z hz => ?_, h⟩
      obtain rfl | hz := List.mem_cons.1 hz
      · exact hxy
      · exact trans x y z hxy (hy z hz)

/-- A sort by a total order puts every earlier element before every later one. -/
theorem sortBy_pairwise (l : List α) : (sortBy le l).Pairwise fun a b => le a b = true := by
  have sorted : ∀ (l acc : List α), acc.Pairwise (fun a b => le a b = true) →
      (l.foldl (fun acc x => insertBy le x acc) acc).Pairwise fun a b => le a b = true := by
    intro l
    induction l with
    | nil => exact fun _ h => h
    | cons x l ih => exact fun acc h => ih _ (insertBy_pairwise total trans x h)
  exact sorted l [] .nil

end

/-! The order of the sieves is total (R73). -/

theorem nearer_total (a b : Cand) (h : a.nearer b = false) : b.nearer a = true := by
  simp only [Cand.nearer, Bool.or_eq_false_iff, Bool.and_eq_false_iff, decide_eq_false_iff_not, beq_eq_false_iff_ne] at h
  simp only [Cand.nearer, Bool.or_eq_true, Bool.and_eq_true, decide_eq_true_eq, beq_iff_eq]
  omega

theorem nearer_trans (a b c : Cand) (hab : a.nearer b = true) (hbc : b.nearer c = true) : a.nearer c = true := by
  simp only [Cand.nearer, Bool.or_eq_true, Bool.and_eq_true, decide_eq_true_eq, beq_iff_eq] at hab hbc ⊢
  omega

end Sys2Proof.Machine
end

section
/-! PROOFS. Embedding, probing and sieve passes of a request (chapters 2, 3 and 7): what each event does (O50). -/

namespace Sys2Proof.Machine

open Sys2Proof

/-! ### Requests -/

theorem req_sid {s : State} {sid : Nat} {r : Req} (h : s.req? sid = some r) : r.sid = sid := by
  have := List.find?_some (Option.filter_eq_some_iff.1 h).1
  simpa using this

/-- A request that is put back is the one found. -/
theorem req_setReq {s : State} {sid : Nat} {r r' : Req} (h : s.req? sid = some r) (hs : r'.sid = sid) : (s.setReq r').req? sid = some r' := by
  obtain ⟨hf, hl⟩ := Option.filter_eq_some_iff.1 h
  have hl' : (s.setReq r').live sid = true := hl
  refine Option.filter_eq_some_iff.2 ⟨?_, hl'⟩
  have hr : (r.sid == r'.sid) = true := by simp [req_sid h, hs]
  show (updWhere (fun x => x.sid == r'.sid) (fun _ => r') s.ans.reqs).find? _ = _
  rw [find_updWhere _ _ _ _ (fun x hx => by rw [beq_iff_eq.1 hx]), hf, Option.map_some, if_pos hr]

/-! ### Embedding (R59, R70) -/

theorem clamp8_range (v : Int) : -128 ≤ clamp8 v ∧ clamp8 v ≤ 127 := by
  unfold clamp8; omega

/-- A quantised value is an INT8 value: the quotient is clamped, and what has no quotient gives 0 or a limit (R59). -/
theorem quantise_range (e s : W32) : -128 ≤ quantise e s ∧ quantise e s ≤ 127 := by
  unfold quantise
  split
  · decide
  · split <;> decide
  · exact clamp8_range _
  · decide

/-- The request as its embedding leaves it. -/
def Req.embeddedBy (r : Req) (x : Index) (im : Image) : Req :=
  let q := (im.embedding r.queryTokens x.params.dim).map fun v => quantise v x.params.scale
  { r with q := q, sketch := x.sketchOf q, loom := { r.loom with embed := 0 } }

theorem modelDamaged_eq {s : State} {h : W32} {im : Image} (hi : s.modelImage h = some im) : s.modelDamaged h = im.damaged := by
  simp only [State.modelDamaged, hi]

theorem embeddedBy_stopped (r : Req) (x : Index) (im : Image) : (r.embeddedBy x im).stopped = r.stopped := by
  unfold Req.stopped; rfl

/-- The embedding of a closed batch of one request is that request's. -/
theorem embedComplete_single {s : State} {id sid : Nat} {b : Batch} {r : Req}
    (hb : s.ans.batches.find? (fun b => b.id == id && !b.isOpen) = some b) (hm : b.members = [sid]) (hr : s.req? sid = some r)
    (hst : r.stage = .embed) : exec (.embedComplete id) s = .next (s.embedded r) := by
  have h : exec (.embedComplete id) s = .next (b.members.foldl (fun s sid => s.atStage sid .embed s.embedded) s) := by
    simp only [exec, execEmbedComplete, hb]
  rw [h, hm, List.foldl_cons, List.foldl_nil, atStage_at _ hr hst]

section
variable {s : State} {r : Req} {x : Index} {im : Image} (hx : s.index? r.block.indexHandle = some x)
  (hi : s.modelImage r.block.embedModel = some im)
include hx hi

/-- A request that goes on has its vector and its sketch, and stands at the probe. -/
theorem embedded_next (hd : im.damaged = false) (hs : r.stopped = false) :
    s.embedded r = s.setReq { r.embeddedBy x im with stage := .probe } := by
  have hd' : s.modelDamaged r.block.embedModel = false := (modelDamaged_eq hi).trans hd
  have hs' := (embeddedBy_stopped r x im).trans hs
  simp only [Req.embeddedBy] at hs' ⊢
  simp only [State.embedded, hx, hi, hd', hs', Bool.false_eq_true, if_false]

/-- A DAMAGED image ends it (R50). -/
theorem embedded_damaged (hd : im.damaged = true) :
    s.embedded r = s.toRet { r.embeddedBy x im with status := some .damaged, merged := [] } := by
  have hd' : s.modelDamaged r.block.embedModel = true := (modelDamaged_eq hi).trans hd
  simp only [State.embedded, hx, hi, hd', if_true, State.endEarly, Req.embeddedBy]

end

/-! ### Probing (R69, R167, R179, R181) -/

/-- The request as its probe leaves it. -/
def Req.probedBy (r : Req) (x : Index) : Req :=
  { r with probes := (x.probeList r.q).take (r.block.nprobe * 2 ^ r.block.widenMax), loom := { r.loom with probe := 0 } }

/-- The probe of a batch of one request is that request's. -/
theorem probeComplete_single {s : State} {id sid : Nat} {b : Batch} {r : Req} (hb : s.ans.batches.find? (fun b => b.id == id) = some b)
    (hm : b.members = [sid]) (hr : s.req? sid = some r) (hst : r.stage = .probe) : exec (.probeComplete id) s = .next (s.probe r) := by
  have h : exec (.probeComplete id) s = .next (b.members.foldl (fun s sid => s.atStage sid .probe s.probe) s) := by
    simp only [exec, execProbeComplete, hb]
  rw [h, hm, List.foldl_cons, List.foldl_nil, atStage_at _ hr hst]

/-- A read that gets its pin releases it at its end. -/
theorem pinned_reads {s : State} {id : W64} (h : s.pinnable id = true) (read : State → State) : s.pinned id read = (read (s.pin id)).unpin id :=
  if_pos h

theorem pinned_waits {s : State} {id : W64} (h : s.pinnable id = false) (read : State → State) : s.pinned id read = s := by
  simp [State.pinned, h]

/-- A request that goes on has its probe list and begins pass 0. -/
theorem probed_next {s : State} {r : Req} {x : Index} (hx : s.index? r.block.indexHandle = some x) (ht : x.tableDamaged = false)
    (hs : r.stopped = false) : s.probed r = ((s.setReq (r.probedBy x)).narrowPasses (r.probedBy x)).startPass (r.probedBy x) 0 := by
  simp only [State.probed, hx, ht, Bool.false_eq_true, if_false]
  exact if_neg (Bool.eq_false_iff.1 (show (r.probedBy x).stopped = false from hs))

section
variable {s : State} {r : Req} {x : Index} (hx : s.index? r.block.indexHandle = some x)
include hx

/-- With both the table and the directory in HBM and their pins granted, the probe reads them under the pins. -/
theorem probe_reads (ht : s.staging x.tableObj = false) (hd : s.staging (x.dirObj r.version) = false) (hpt : s.pinnable x.tableObj = true)
    (hpd : (s.pin x.tableObj).pinnable (x.dirObj r.version) = true) :
    s.probe r = ((((s.pin x.tableObj).pin (x.dirObj r.version)).probed r).unpin (x.dirObj r.version)).unpin x.tableObj := by
  simp only [State.probe, hx, ht, hd, Bool.or_self, Bool.false_eq_true, if_false, pinned_reads hpt, pinned_reads hpd]

/-- While either is being fetched, or the table cannot be pinned, the probe waits. -/
theorem probe_waits (h : s.staging x.tableObj = true ∨ s.staging (x.dirObj r.version) = true ∨ s.pinnable x.tableObj = false) :
    s.probe r = s := by
  simp only [State.probe, hx]
  split
  · rfl
  · rename_i hn
    obtain h | h | h := h
    · simp [h] at hn
    · simp [h] at hn
    · exact pinned_waits h _

end

/-! ### Sieve passes (R73, R75, R81) -/

/-- A served, idle channel runs the pass that comes next there, for the members that stand at it. -/
theorem sievePassStart_next {s : State} {c : Nat} {v : Reservation} (hc : s.channelServed c = true) (hi : ∀ k ∈ s.ans.sieves, k.channel ≠ c)
    (hv : s.pickPass [] (s.headsOn c) = some v) : exec (.sievePassStart c) s = .next (s.modAns fun a => { a with
      sieves := a.sieves ++ [{ channel := c, pass := v.pass
                               members := ((s.passGroup v).filter fun r => decide (r.stage = .scan ∧ r.pass = v.pass)).map (·.sid) }] }) := by
  have idle : ¬ (s.channelServed c = false ∨ s.ans.sieves.any (fun v => v.channel == c) = true) := by
    simpa [hc] using hi
  refine congrArg Host.Outcome.next ((if_neg idle).trans ?_)
  simp only [hv]

/-- The extents that a sieve pass of these members reads: each record once (R75). -/
def State.passReads (s : State) (v : SieveRun) (c : Nat) : List (W64 × Nat) :=
  nub ((s.ans.reqs.filter fun q => v.members.contains q.sid && decide (q.stage = .scan) && q.pass == v.pass).flatMap fun q => s.sieveReads q v.pass c)

/-- A reservation without a channel, for the members of a pass that has run there. -/
def Reservation.without (y : Reservation) (v : SieveRun) (c : Nat) : Reservation :=
  if v.members.contains y.sid && y.pass == v.pass then { y with channels := y.channels.filter (· != c) } else y

/-- A channel's pass has run: the channel is idle, and the pass is reserved there no longer. -/
def State.passOver (s : State) (v : SieveRun) (c : Nat) : State :=
  s.modAns fun a => { a with sieves := a.sieves.filter (fun y => !(y.channel == c))
                             reservations := (a.reservations.map fun y => y.without v c).filter fun y => y.channels != [] }

/-- The end of a pass of one request: its records have been read, and the channel's contribution is added to it. -/
theorem sievePassEnd_single {s : State} {c sid : Nat} {media : Media} {v : SieveRun} {r : Req}
    (hv : s.ans.sieves.find? (fun v => v.channel == c) = some v) (hm : v.members = [sid])
    (hr : (s.readRuns media (s.passReads v c)).req? sid = some r) (hst : r.stage = .scan) (hp : r.pass = v.pass) :
    let s1 := s.readRuns media (s.passReads v c)
    exec (.sievePassEnd c media) s = .next ((s1.passOver v c).setReq { r with contribs := r.contribs ++ [s1.contribution r v.pass c] }) := by
  intro s1
  have h : exec (.sievePassEnd c media) s = .next (v.members.foldl (fun s sid => s.atStage sid .scan fun r =>
      if r.pass = v.pass then s.setReq { r with contribs := r.contribs ++ [s.contribution r v.pass c] } else s) (s1.passOver v c)) := by
    simp only [exec, execSievePassEnd, hv]
    rfl
  have hr' : (s1.passOver v c).req? sid = some r := hr
  rw [h, hm, List.foldl_cons, List.foldl_nil, atStage_at _ hr' hst, if_pos hp]
  rfl

/-- No reservation of the pass is left on the channel. -/
theorem passOver_releases {s : State} {v : SieveRun} {c : Nat} {k : Reservation} (hk : k ∈ (s.passOver v c).ans.reservations)
    (hs : v.members.contains k.sid = true) (hp : k.pass = v.pass) : c ∉ k.channels := by
  obtain ⟨y, -, rfl⟩ := List.mem_map.1 (List.mem_filter.1 hk).1
  by_cases hy : (v.members.contains y.sid && y.pass == v.pass) = true
  · rw [Reservation.without, if_pos hy]
    simp
  · rw [Reservation.without, if_neg hy] at hs hp
    exact absurd (by rw [hs, hp, beq_self_eq_true, Bool.and_self]) hy

/-! ### What a channel contributes (R73, R81) -/

/-- The records that a pass of a request hits on a channel: in its partitions, in no DAMAGED slice, live, and passing its filter. -/
def State.passHits (s : State) (r : Req) (i c : Nat) (x : Index) (v : Version) : List (SliceId × Nat × Rec) :=
  ((x.allRecs v).filter fun y => y.1.channel == c && (passSlice r.block.nprobe i r.probes).contains y.1.partition && !s.sliceDamaged x y.1).filter
    fun y => !v.tombs.contains (y.1, y.2.1) && s.passesFilter r y.2.2.metaBytes

/-- The candidate of a record. -/
def State.candOf (s : State) (r : Req) (y : SliceId × Nat × Rec) : Cand :=
  { locator := y.2.2.locator, slice := y.1, ordinal := y.2.1, dist := sketchDist r.sketch y.2.2.sketch, member := s.ownRank }

theorem contribution_some {s : State} {r : Req} {x : Index} {v : Version} (h : s.reqData r = some (x, v)) (i c : Nat) :
    (s.contribution r i c).list = (sortBy Cand.nearer ((s.passHits r i c x v).map (s.candOf r))).take (min r.block.nExact 1024) := by
  simp only [State.contribution, h]
  rfl

theorem contribution_none {s : State} {r : Req} (h : s.reqData r = none) (i c : Nat) : (s.contribution r i c).list = [] := by
  simp only [State.contribution, h]

/-- A contribution holds no more than its limit, nearest first. -/
theorem contribution_sorted (s : State) (r : Req) (i c : Nat) : (s.contribution r i c).list.length ≤ min r.block.nExact 1024
    ∧ (s.contribution r i c).list.Pairwise fun a b => a.nearer b = true := by
  cases h : s.reqData r with
  | none => simp [contribution_none h]
  | some d =>
    rw [contribution_some h]
    exact ⟨List.length_take_le _ _, (sortBy_pairwise nearer_total nearer_trans _).sublist (List.take_sublist _ _)⟩

/-- Each entry of a contribution is of a record hit. -/
theorem hit_of_mem_contribution {s : State} {r : Req} {x : Index} {v : Version} (h : s.reqData r = some (x, v)) {i c : Nat} {d : Cand}
    (hd : d ∈ (s.contribution r i c).list) : ∃ y ∈ s.passHits r i c x v, s.candOf r y = d := by
  rw [contribution_some h] at hd
  exact List.mem_map.1 ((sortBy_perm _ _).mem_iff.1 (List.mem_of_mem_take hd))

/-- It is live, and its slice is not DAMAGED. -/
theorem contribution_live {s : State} {r : Req} {x : Index} {v : Version} (h : s.reqData r = some (x, v)) {i c : Nat} {d : Cand}
    (hd : d ∈ (s.contribution r i c).list) : s.sliceDamaged x d.slice = false ∧ v.tombs.contains (d.slice, d.ordinal) = false := by
  obtain ⟨y, hy, rfl⟩ := hit_of_mem_contribution h hd
  obtain ⟨hin, hlive⟩ := List.mem_filter.1 hy
  have hwhole := (List.mem_filter.1 hin).2
  simp only [Bool.and_eq_true, Bool.not_eq_true'] at hwhole hlive
  exact ⟨hwhole.2, hlive.1⟩

end Sys2Proof.Machine
end

section
/-! PROOFS. Embedding, probing and sieve passes of requests (O50). -/

namespace Sys2Proof.Machine

open Sys2Proof

/-- Settles O50: a batch of one request does what the request's stage does; a pass adds what the channel contributes, which is a sort
of the records hit, cut at its limit. -/
theorem scanPath : Obligations.ScanPath := by
  refine ⟨⟨fun s id sid b r x im hb hm hr hst hx hi => ⟨fun hd hs => ?embeds, fun hd => ?embedDamaged⟩,
    fun s id sid b r x hb hm hr hst hx => ⟨fun ht hd hpt hpd hx2 htd hs => ?probes, fun hw => ?waits⟩, quantise_range,
    fun x q => sortBy_perm (x.probeBefore q) (List.range x.params.partitions)⟩,
    fun s c v hc hi hv => sievePassStart_next hc hi hv, fun s c sid media v r hv hm hr hst hp => ?passEnd,
    fun s r i c => ⟨(contribution_sorted s r i c).1, (contribution_sorted s r i c).2, fun x v h d hd => contribution_live h hd⟩⟩
  case embeds => exact (embedComplete_single hb hm hr hst).trans (congrArg _ (embedded_next hx hi hd hs))
  case embedDamaged => exact (embedComplete_single hb hm hr hst).trans (congrArg _ (embedded_damaged hx hi hd))
  case probes =>
    rw [probeComplete_single hb hm hr hst, probe_reads hx ht hd hpt hpd, probed_next hx2 htd hs]
    rfl
  case waits => exact (probeComplete_single hb hm hr hst).trans (congrArg _ (probe_waits hx hw))
  case passEnd =>
    refine ⟨_, sievePassEnd_single hv hm hr hst hp, fun k hk => ?idle, req_setReq hr (show r.sid = sid from req_sid hr), fun k hk hkc => ?released, rfl⟩
    case idle => simpa using (List.mem_filter.1 hk).2
    case released =>
      obtain ⟨hks, hkp, hc⟩ := hkc
      exact passOver_releases hk (by simp [hm, hks]) hkp hc

end Sys2Proof.Machine
end

section
/-! PROOFS. The merge of a request, and the stages that rank and pack what it found (chapters 2, 3 and 10): what each event does (O51). -/

namespace Sys2Proof.Machine

open Sys2Proof

/-! ### The merge and widening (R79, R82) -/

/-- The merged list of a request, ranked by sketch distance so far. -/
def Req.mergeRanked (r : Req) : List Cand := r.merge.map fun c => { c with final := fpOfInt c.dist, scoreStage := 0 }

/-- What DAMAGED slices take from a request is contributions and candidates (R81). -/
theorem dropDamaged_frame (s : State) (r : Req) : s.dropDamaged r =
    { r with contribs := (s.dropDamaged r).contribs, merged := (s.dropDamaged r).merged } := by
  unfold State.dropDamaged
  split
  · rfl
  · split <;> rfl

@[simp] theorem dropDamaged_sid (s : State) (r : Req) : (s.dropDamaged r).sid = r.sid := by rw [dropDamaged_frame]
@[simp] theorem dropDamaged_block (s : State) (r : Req) : (s.dropDamaged r).block = r.block := by rw [dropDamaged_frame]
@[simp] theorem dropDamaged_pass (s : State) (r : Req) : (s.dropDamaged r).pass = r.pass := by rw [dropDamaged_frame]
@[simp] theorem dropDamaged_status (s : State) (r : Req) : (s.dropDamaged r).status = r.status := by rw [dropDamaged_frame]

/-- A request with what its undamaged slices gave merged. -/
def State.mergedReq (s : State) (r : Req) : Req := { s.dropDamaged r with merged := (s.dropDamaged r).mergeRanked }

@[simp] theorem mergedReq_sid (s : State) (r : Req) : (s.mergedReq r).sid = r.sid := dropDamaged_sid s r
@[simp] theorem mergedReq_block (s : State) (r : Req) : (s.mergedReq r).block = r.block := dropDamaged_block s r
@[simp] theorem mergedReq_pass (s : State) (r : Req) : (s.mergedReq r).pass = r.pass := dropDamaged_pass s r
@[simp] theorem mergedReq_status (s : State) (r : Req) : (s.mergedReq r).status = r.status := dropDamaged_status s r
@[simp] theorem mergedReq_merged (s : State) (r : Req) : (s.mergedReq r).merged = (s.dropDamaged r).mergeRanked := rfl

/-- With a marker missing the merge waits. -/
theorem mergeComplete_waits {s : State} {sid : Nat} {r : Req} {x : Index} (hr : s.req? sid = some r) (hst : r.stage = .scan)
    (hx : s.index? r.block.indexHandle = some x) (hm : s.markersIn r = false) : Ignores (.mergeComplete sid) s := by
  refine congrArg Host.Outcome.next ((atStage_at _ hr hst).trans ?_)
  simp only [hx, hm, Bool.false_eq_true, if_false]

/-- With every marker there it merges what undamaged slices gave, and goes on from there. -/
theorem mergeComplete_merges {s : State} {sid : Nat} {r : Req} {x : Index} (hr : s.req? sid = some r) (hst : r.stage = .scan)
    (hx : s.index? r.block.indexHandle = some x) (hm : s.markersIn r = true) : exec (.mergeComplete sid) s =
      .next (s.afterMerge (s.mergedReq r) x.params.partitions) := by
  refine congrArg Host.Outcome.next ((atStage_at _ hr hst).trans ?_)
  simp only [hx, hm, if_true, State.mergedReq, Req.mergeRanked]

/-- The scan of a request has ended, with a count state. -/
def State.scanEnds (s : State) (r : Req) (k : Nat) : State :=
  (s.releasePasses fun v => v.sid == r.sid).toExact { r with countState := k, scanDone := true }

theorem scanEnds_eq {s : State} {r : Req} {sid : Nat} (hs : r.sid = sid) (k : Nat) :
    s.scanEnds r k = (s.releasePasses fun v => v.sid == sid).toExact { r with countState := k, scanDone := true } := by
  rw [State.scanEnds, hs]

section
variable {s : State} {r : Req} (h : r.status = none)
include h

/-- Enough matches end the scan. -/
theorem afterMerge_enough (p : Nat) (hk : r.block.k ≤ r.merged.length) : s.afterMerge r p = s.scanEnds r 0 := by
  simp only [State.afterMerge, h, Option.isSome_none, Bool.false_eq_true, if_false, if_pos hk, State.scanEnds]

variable (hk : r.merged.length < r.block.k)
include hk

/-- With fewer, and every partition used, it ends EXHAUSTED. -/
theorem afterMerge_exhausted {p : Nat} (hp : r.probesUsed = p) : s.afterMerge r p = s.scanEnds r 1 := by
  simp only [State.afterMerge, h, Option.isSome_none, Bool.false_eq_true, if_false, if_neg (Nat.not_le.2 hk), if_pos hp, State.scanEnds]

variable {p : Nat} (hp : r.probesUsed ≠ p)
include hp

/-- With partitions left and no widening, it ends SHORT. -/
theorem afterMerge_short (hw : r.pass = r.block.widenMax) : s.afterMerge r p = s.scanEnds r 2 := by
  simp only [State.afterMerge, h, Option.isSome_none, Bool.false_eq_true, if_false, if_neg (Nat.not_le.2 hk), if_neg hp, if_pos hw, State.scanEnds]

/-- Otherwise it widens. -/
theorem afterMerge_widens (hw : r.pass ≠ r.block.widenMax) : s.afterMerge r p =
    (s.releasePasses fun v => v.sid == r.sid && v.pass == r.pass).startPass r (r.pass + 1) := by
  simp only [State.afterMerge, h, Option.isSome_none, Bool.false_eq_true, if_false, if_neg (Nat.not_le.2 hk), if_neg hp, if_neg hw]

end

/-! ### Exact scores (R83, R238) -/

/-- The candidates of a request with their exact scores. -/
def State.scored (s : State) (r : Req) : List Cand := r.merged.map fun c => { c with exact := s.scoreOf r c, final := s.scoreOf r c, scoreStage := 1 }

section
variable {s : State} {sid : Nat} {r : Req} (hr : s.req? sid = some r)
include hr

/-- With nothing awaited from a member, the vectors are read by the ladder and the candidates ranked by exact score. -/
theorem exactComplete_ranks {media : Media} {x : Index} (hst : r.stage = .exact) (ha : r.awaiting = [])
    (hx : (s.readRuns media (s.vectorReads r r.merged)).index? r.block.indexHandle = some x) :
    let s1 := s.readRuns media (s.vectorReads r r.merged)
    let r1 := s1.dropDamaged r
    exec (.exactComplete sid media) s = .next
      (s1.toFetch { r1 with merged := sortBy (Cand.before (decide (x.params.metric = .l2))) (s1.scored r1) }) := by
  refine congrArg Host.Outcome.next ((atStage_at _ hr hst).trans ?_)
  simp only [ha, ne_eq, not_true_eq_false, if_false, dropDamaged_block, hx, State.scored]

/-! ### Passages (R50, R238, R243) -/

/-- A candidate with its passage, or lost. -/
def Cand.deliver (c : Cand) (passage : Option Buf) : Cand :=
  match passage with
  | some b => { c with passage := b }
  | none => { c with lost := true }

/-- With every candidate on this sled, the passages are read one after the other. -/
theorem fetchComplete_reads {media : Media} (hst : r.stage = .fetch) (ha : r.awaiting = []) (hm : ∀ c ∈ r.merged, c.member = s.ownRank) :
    let q := s.readPassages media sid (r.merged.map (·.locator))
    let got := r.merged.map fun c => c.deliver (q.1[r.merged.idxOf c]?).join
    exec (.fetchComplete sid media) s = .next (q.2.toRerank { r with merged := got, cpFetch := r.cpFetch || got.any (·.lost) }) := by
  refine congrArg Host.Outcome.next ((atStage_at _ hr hst).trans ?_)
  have here : (r.merged.filter fun c => c.member == s.ownRank) = r.merged := List.filter_eq_self.2 fun c hc => by simp [hm c hc]
  rw [if_neg (Classical.not_not.2 ha)]
  dsimp only
  rw [here, List.map_congr_left fun c hc => if_neg (Classical.not_not.2 (hm c hc))]
  rfl

/-! ### Re-rank and pack (R38, R39, R145) -/

/-- A candidate with its re-rank score. -/
def Cand.reranked (c : Cand) (im : Image) (r : Req) : Cand :=
  { c with final := im.relevance r.block.rerankTokens r.query c.passage, scoreStage := 2 }

/-- The candidates ranked by re-rank score, the lost ones after (table *Cheaper paths*). -/
def Req.rerankedBy (r : Req) (im : Image) : List Cand :=
  sortBy (Cand.before false) ((r.merged.filter fun c => !c.lost).map fun c => c.reranked im r) ++ r.merged.filter (·.lost)

theorem rerankComplete_ranks {im : Image} (hst : r.stage = .rerank) (hi : s.modelImage r.block.rerankModel = some im)
    (hd : im.damaged = false) : exec (.rerankComplete sid) s = .next (s.toPack { r with merged := r.rerankedBy im }) := by
  refine congrArg Host.Outcome.next ((atStage_at _ hr hst).trans ?_)
  simp only [hi, hd, Bool.false_eq_true, if_false]
  rfl

/-- The tokens of a text under the tokeniser that a request's template has. -/
def State.promptTokens (s : State) (r : Req) (b : Buf) : List Nat := match (s.templateOf r.block).2 with
  | some k => k.encode b
  | none => []

theorem packComplete_packs (hst : r.stage = .pack) :
    let p := packPrompt (s.templateOf r.block).1 r.block.tokenBudget (s.promptTokens r r.query)
      (r.merged.map fun c => (c, if c.lost = true then [] else s.promptTokens r c.passage))
    exec (.packComplete sid) s = .next (s.toGen { r with prompt := p.1, merged := p.2 }) :=
  congrArg Host.Outcome.next (atStage_at _ hr hst)

end

/-- What cannot be delivered is lost: nothing of it is read. -/
theorem readPassage_lost {s : State} {sid : Nat} {l : W128} (media : Media) (h : s.passageAt sid l = none) :
    s.readPassage media sid l = (none, s) := by
  simp [State.readPassage, h]

end Sys2Proof.Machine
end

section
/-! PROOFS. The merge, the scores and the prompt of requests (O51). -/

namespace Sys2Proof.Machine

open Sys2Proof

/-- Settles O51: the merge by what the scan does after it, whose cases leave the request's block, pass and status as they were, and each
later stage by its event. -/
theorem rankPath : Obligations.RankPath := by
  refine ⟨fun s sid r x hr hst hx => ⟨fun hm => mergeComplete_waits hr hst hx hm, fun hm hn => ?merges⟩, fun s sid r media hr =>
    ⟨fun x hst ha hx => exactComplete_ranks hr hst ha hx, fun hst ha hm => fetchComplete_reads hr hst ha hm, fun l _ h => readPassage_lost media h,
      fun im hst hi hd => rerankComplete_ranks hr hst hi hd, fun hst => packComplete_packs hr hst⟩⟩
  case merges =>
    have hs : (s.mergedReq r).sid = sid := (mergedReq_sid s r).trans (req_sid hr)
    have hn' : (s.mergedReq r).status = none := (mergedReq_status s r).trans hn
    have goes : ∀ {t : State}, s.afterMerge (s.mergedReq r) x.params.partitions = t → exec (.mergeComplete sid) s = .next t :=
      fun ht => (mergeComplete_merges hr hst hx hm).trans (congrArg Host.Outcome.next ht)
    refine ⟨fun hk => goes ?enough, fun hk hu => goes ?exhausted, fun hk hu hw => goes ?short, fun hk hu hw => goes ?widens⟩
    all_goals rw [← mergedReq_block s r] at hk
    case enough => exact (afterMerge_enough hn' _ hk).trans (scanEnds_eq hs 0)
    all_goals rw [← mergedReq_block s r, ← mergedReq_pass s r] at hu
    case exhausted => exact (afterMerge_exhausted hn' hk hu).trans (scanEnds_eq hs 1)
    all_goals rw [← mergedReq_block s r, ← mergedReq_pass s r] at hw
    case short => exact (afterMerge_short hn' hk hu hw).trans (scanEnds_eq hs 2)
    case widens => exact (afterMerge_widens hn' hk hu hw).trans (by rw [hs, mergedReq_pass]; rfl)

end Sys2Proof.Machine
end

section
/-! PROOFS. UNPIN_VERSION in a state whose index list names one handle twice (O46). -/

namespace Sys2Proof.Machine

open Sys2Proof

/-- An index with its one version, number 1, pinned. -/
def pinnedIndex (current : Nat) : Index := { index := 0, gen := 1, current := current, versions := [{ number := 1, pinned := true }] }

/-- An UNPIN_VERSION of version 1 of the index with the handle of `pinnedIndex`. -/
def unpinSub : Sub :=
  { sid := 7, origin := .mailbox 0 1, conn := 0, client := 0, entry := { opcode := 0x19, handleA := mkHandle 1 kindIndex 0, arg0 := 1 } }

/-- Two indexes share one handle: version 1 is the current version of the first, and not of the second.  CREATE_INDEX never makes
such a pair. -/
def twinIndexState : State :=
  { State.reset with
    sasel := { State.reset.sasel with subs := [unpinSub] }
    idx := { State.reset.idx with list := [pinnedIndex 1, pinnedIndex 2] } }

/-- What retires the versions of each index. -/
def State.retirements (s : State) : List (List (Option Nat)) := s.idx.list.map fun x => x.versions.map (·.retiredAt)

/-- UNPIN_VERSION asks each index whose version it unpins for its own current version: the second retires its version 1. -/
theorem twin_unpinned : ∃ t, exec (.unpinVersion 7) twinIndexState = .next t ∧ t.retirements = [[none], [some 7]] :=
  ⟨_, rfl, by decide +kernel⟩

theorem twin_begins : Begins twinIndexState 7 0x19 unpinSub := by decide +kernel

theorem twin_index : twinIndexState.index? unpinSub.entry.handleA = some (pinnedIndex 1) := by decide +kernel

end Sys2Proof.Machine
end

section
/-! PROOFS. Versions of indexes: UNPIN_VERSION as O46 states it (O46). -/

namespace Sys2Proof.Machine

open Sys2Proof

/-- Refutes O46: its UNPIN_VERSION compares the version of every index that has the handle with the current version of the one that
`index?` finds, and, unlike the other two clauses, does not ask that only one index has it.  In `twinIndexState` the second index, whose
current version is another, retires its version 1, where the statement has it kept. -/
theorem not_indexVersions : ¬ Obligations.IndexVersions := by
  rintro ⟨-, pins, -⟩
  obtain ⟨-, -, unpins, -⟩ := pins twinIndexState 7 unpinSub (pinnedIndex 1) twin_index rfl
  have stated := unpins { number := 1, pinned := true } twin_begins (by decide) (by decide) (by decide)
  obtain ⟨t, ran, retired⟩ := twin_unpinned
  have same := congrArg State.retirements (Host.Outcome.next.inj (ran.symm.trans stated))
  rw [retired] at same
  exact absurd same (by decide +kernel)

end Sys2Proof.Machine
end

section
/-! PROOFS. The staging of a block set whose image has an entry that was removed under a pin (O35). -/

namespace Sys2Proof.Machine

open Sys2Proof

/-! ### Tiles on which nothing has been written (R170; log 7) -/

/-- Bytes past the end of a buffer read as 0 (log 3). -/
theorem slice_nil (off n : Nat) : Buf.slice [] off n = List.replicate n Memory.blank := by
  simp [Buf.slice, Buf.at, Memory.blank, List.map_const']

/-- A memory in which nothing is listed stays so when blank bytes are written. -/
theorem writeBytes_nil_blank : ∀ n a : Nat, Memory.writeBytes [] a (List.replicate n Memory.blank) = []
  | 0, _ => rfl
  | n + 1, a => writeBytes_nil_blank n (a + 1)

/-- Nor does it list anything after any number of such writes. -/
theorem foldl_writes_nil_blank (at_ off : Nat → Nat) (n : Nat) : ∀ l : List Nat,
    l.foldl (fun m u => Memory.writeBytes m (at_ u) (Buf.slice [] (off u) n)) [] = []
  | [] => rfl
  | u :: l => by
    rw [List.foldl_cons, slice_nil, writeBytes_nil_blank]
    exact foldl_writes_nil_blank at_ off n l

/-- A block set without bytes, on tiles that hold nothing, changes nothing but what is staged. -/
theorem stageSet_blank {s : State} {im : Image} (c : Ctx) (pos : Nat) (hw : im.weights = []) (ht : s.mems.tile = []) :
    s.stageSet c im pos = s.modTiers fun t =>
      { t with staged := t.staged.filter (fun x => !(x == (c.index, im.setOf pos))) ++ [(c.index, im.setOf pos)] } := by
  unfold State.stageSet State.modTiers
  dsimp only
  rw [hw, ht, foldl_writes_nil_blank, ← ht]

/-! ### The state -/

/-- An image of one pick. -/
def onePickImage : Image := { index := 0, gen := 1, objId := imageObj 0 1, desc := [{}] }

/-- A general context of its binding, which holds slot 0. -/
def seatedCtx : Ctx := { index := 0, gen := 1, service := false, model := mkHandle 1 kindModel 0, state := .running, slot := some 0 }

/-- The image's entry has been removed while one pin covers it, and it is that of a mutable object with its home on flash: `home?` finds no
entry of the ID, and the last unpin frees the flash home.  HBM holds the map entry of its one extent, with the parity of its slot.  The
model never makes such an entry: one with an image's ID is sealed. -/
def removedImageState : State :=
  { State.reset with
    img := { State.reset.img with images := [onePickImage], models := [{ index := 0, gen := 1, image := mkHandle 1 kindImage 0 }] }
    work := { State.reset.work with ctxs := [seatedCtx] }
    tiers := { State.reset.tiers with homes := [{ objId := onePickImage.objId, pins := 1, gone := true }] }
    flash := { State.reset.flash with
      objs := [{ id := onePickImage.objId, persistent := false, base := some 4096, slots := 512 }]
      map := [{ obj := onePickImage.objId, extent := 0, channel := 0 }] }
    mems := { hbm := [(3, 8), (7, 0x80), (4099, 8), (4103, 0x80)] } }

/-- Block set 0 is staged in it between a pin, which finds no entry to count on, and an unpin. -/
theorem removedImageState_staged : exec (.stagingComplete 0 (.blockSet 0)) removedImageState =
    .next (((removedImageState.pin onePickImage.objId).stageSet seatedCtx onePickImage 0).schedule.unpin onePickImage.objId) := by
  have hc : removedImageState.ctxAt 0 = some seatedCtx := by decide +kernel
  have hi : removedImageState.ctxImage seatedCtx = some onePickImage := by decide +kernel
  have hn : onePickImage.posOfSet 0 = some 0 := by decide +kernel
  have hm : removedImageState.maySet seatedCtx onePickImage 0 0 = true := by decide +kernel
  have hp : removedImageState.pinnable onePickImage.objId = true := by decide +kernel
  refine congrArg Host.Outcome.next ?_
  simp only [hc, hi, hn, hm, if_true, State.pinned, hp]
  rfl

/-- That unpin takes the last pin of the removed entry: its extent is unmapped, and the map entry in HBM becomes zeros (R167, R237). -/
theorem removedImageState_unmapped :
    (((removedImageState.pin onePickImage.objId).stageSet seatedCtx onePickImage 0).schedule.unpin onePickImage.objId).mems.hbm = [] := by
  rw [stageSet_blank _ _ rfl rfl]
  decide +kernel

end Sys2Proof.Machine
end

section
/-! PROOFS. Picks of the Loom, and STAGING_COMPLETE as O35 states it (O35). -/

namespace Sys2Proof.Machine

open Sys2Proof

/-- Refutes O35: of a block set that is staged it says that HBM stays as it is, and it asks that the entry which `home?` finds for the image
be sealed, but not that an entry which was removed under a pin be.  In `removedImageState` the read's unpin takes the last pin of such an
entry, whose home is on flash; its extent is unmapped, and the eight bytes of the map entry in HBM, with their parity, become 0. -/
theorem not_picksOfTheLoom : ¬ Obligations.PicksOfTheLoom := by
  rintro ⟨-, -, -, -, staging⟩
  obtain ⟨stages, -⟩ := staging removedImageState 0 seatedCtx onePickImage (by decide +kernel) (by decide +kernel) (by decide)
  have noEntry : removedImageState.home? onePickImage.objId = none := by decide +kernel
  obtain ⟨t, ran, -, sameHbm⟩ := stages 0 0 (by decide +kernel) (by decide +kernel) (by decide +kernel) (by simp [noEntry])
  have ends := Host.Outcome.next.inj (ran.symm.trans removedImageState_staged)
  rw [ends, removedImageState_unmapped] at sameHbm
  exact absurd sameHbm (by decide)

end Sys2Proof.Machine
end

section
/-! PROOFS. What is erased and removed with an object: which parts of the sled it leaves as they are (chapters 7 and 10). -/

namespace Sys2Proof.Machine

open Sys2Proof

/-! ### The extents of an object go (R234, R237, R249) -/

section
variable {α : Type} (f : State → α) (hf : ∀ (s : State) (fl : Flash) (ms : Mems), f { s with flash := fl, mems := ms } = f s)
include hf

/-! `f` is a part of the sled outside the flash media and the memories, such as the homes or the contexts. -/

theorem putEntry_keeps (s : State) (a : Nat) (b : Buf) : f (s.putEntry a b) = f s :=
  (foldl_keeps f (fun s _ => hf s s.flash _) b.zipIdx _).trans (hf s _ s.mems)

theorem writeEntry_keeps (s : State) (o : FlashObj) (e : Nat) : f (s.writeEntry o e) = f s := by
  unfold State.writeEntry
  split
  · rfl
  · exact putEntry_keeps f hf ..

theorem growArray_keeps (s : State) (o : FlashObj) (e : Nat) : f (s.growArray o e) = f s := by
  have clears (s : State) (e : Nat) : f (match o.base with | some b => s.putEntry (b + 8 * e) (List.replicate 8 0) | none => s) = f s := by
    split
    · exact putEntry_keeps f hf ..
    · rfl
  unfold State.growArray
  dsimp only
  split
  · rfl
  · exact (foldl_keeps f (fun s e => writeEntry_keeps f hf s _ e) _ _).trans ((hf _ _ _).trans (foldl_keeps f clears _ s))

theorem syncEntry_keeps (s : State) (obj : W64) (e : Nat) : f (s.syncEntry obj e) = f s := by
  unfold State.syncEntry
  split
  · rfl
  · dsimp only
    split
    · exact (writeEntry_keeps f hf ..).trans (growArray_keeps f hf ..)
    · exact growArray_keeps f hf ..

theorem mapDrop_keeps (s : State) (obj : W64) (e : Nat) : f (s.mapDrop obj e) = f s := by
  unfold State.mapDrop
  split
  · rfl
  · exact (syncEntry_keeps f hf ..).trans (hf s _ s.mems)

theorem putPage_keeps (s : State) (l : FlashLoc) (p : PageRec) : f (s.putPage l p) = f s := hf s _ s.mems

theorem eraseObj_keeps (s : State) (id : W64) : f (s.eraseObj id) = f s :=
  (hf _ _ _).trans ((foldl_keeps f (fun s _ => mapDrop_keeps f hf s _ _) _ _).trans (foldl_keeps f (fun s _ => putPage_keeps f hf s _ _) _ s))

end

/-! ### An object goes (R167) -/

theorem home_none_iff (s : State) (id : W64) : s.home? id = none ↔ ∀ h ∈ s.tiers.homes, h.objId = id → h.gone = true := by
  simp [State.home?, List.find?_eq_none]

/-- The object's entry is removed, with its bytes once no pin covers them, and nothing runs on it any more. -/
def State.takeHome (s : State) (id : W64) (h : Home) : State :=
  (((if h.sealedObj then s.eraseObj id else s).modHome id fun h => { h with gone := true }).sweepHome { h with gone := true }).modTiers fun t =>
    { t with bytes := t.bytes.filter (fun b => !(b.1 == id)), moves := t.moves.filter (fun m => !(m.objId == id))
             running := t.running.filter (fun m => !(m.objId == id))
             fetches := t.fetches.filter (fun f => !(f.objId == id)), writes := t.writes.filter (fun w => !(w.objId == id)) }

/-- The MOVE_OBJECTs that run on an object or wait for it. -/
def State.moversOf (s : State) (id : W64) : List (Option Nat) :=
  ((s.tiers.moves ++ s.tiers.running).filter fun m => m.objId == id).map (·.sid)

theorem dropHome_none {s : State} {id : W64} (h : s.home? id = none) : s.dropHome id = s := by
  simp [State.dropHome, h]

theorem dropHome_some {s : State} {id : W64} {h : Home} (hh : s.home? id = some h) :
    s.dropHome id = (s.takeHome id h).finishAll (s.moversOf id) .badField := by
  simp only [State.dropHome, hh]
  rfl

section
variable {α : Type} (f : State → α)

section
variable (hf : ∀ (s : State) (fl : Flash) (ms : Mems) (al : List (Nat × Nat × W64)) (he : Pools),
  f { s with flash := fl, mems := ms, tiers := { s.tiers with allocs := al, held := he } } = f s)
include hf

/-! Here `f` may be a part of the tiers, but not the places in HBM and what the pools are charged. -/

theorem freeHbm_keeps (s : State) (pool base : Nat) (obj : W64) : f (s.freeHbm pool base obj) = f s := by
  unfold State.freeHbm
  split
  · rfl
  · exact hf s s.flash s.mems _ _

theorem freeHome_keeps (s : State) (h : Home) : f (s.freeHome h) = f s := by
  have erased (s : State) (id : W64) : f (s.eraseObj id) = f s :=
    eraseObj_keeps f (fun s fl ms => hf s fl ms s.tiers.allocs s.tiers.held) s id
  have unplaced (base pool n : Nat) (obj : W64) : f ((s.unplaceHbm base obj).refundPool pool n) = f s := hf s s.flash s.mems _ _
  simp only [State.freeHome, apply_ite f, erased, unplaced, freeHbm_keeps f hf, ite_self]

end

section
variable (hf : ∀ (s : State) (fl : Flash) (ms : Mems) (ti : Tiers), f { s with flash := fl, mems := ms, tiers := ti } = f s)
include hf

/-! Here `f` is a part of the sled outside the flash media, the memories and the tiers. -/

theorem sweepHome_keeps (s : State) (h : Home) : f (s.sweepHome h) = f s := by
  unfold State.sweepHome
  split
  · exact (hf _ _ _ _).trans (freeHome_keeps f (fun s fl ms _ _ => hf s fl ms _) s h)
  · rfl

theorem takeHome_keeps (s : State) (id : W64) (h : Home) : f (s.takeHome id h) = f s := by
  have erased : f (if h.sealedObj then s.eraseObj id else s) = f s := by
    rw [apply_ite f, eraseObj_keeps f (fun s fl ms => hf s fl ms s.tiers), ite_self]
  have marked (s : State) (id : W64) (g : Home → Home) : f (s.modHome id g) = f s := hf s s.flash s.mems _
  exact (hf _ _ _ _).trans ((sweepHome_keeps f hf ..).trans ((marked ..).trans erased))

end

end

/-! Every entry of the object is removed, and none comes back. -/

theorem modHome_gone (s : State) (id : W64) : (s.modHome id fun h => { h with gone := true }).home? id = none := by
  rw [home_none_iff]
  intro h hm hid
  obtain ⟨x, -, rfl⟩ := (mem_updWhere ..).1 hm
  split at hid
  · rw [if_pos ‹_›]
  · rename_i hx
    rw [if_neg hx]
    simpa [hid] using hx

theorem freeHome_homes (s : State) (h : Home) : (s.freeHome h).tiers.homes = s.tiers.homes :=
  freeHome_keeps (·.tiers.homes) (fun _ _ _ _ _ => rfl) s h

theorem sweepHome_homes (s : State) (h : Home) : (s.sweepHome h).tiers.homes ⊆ s.tiers.homes := by
  unfold State.sweepHome
  split
  · intro x hx
    rw [← freeHome_homes s h]
    exact (List.mem_filter.1 hx).1
  · exact List.Subset.refl _

theorem takeHome_home (s : State) (id : W64) (h : Home) : (s.takeHome id h).home? id = none :=
  (home_none_iff ..).2 fun x hx => (home_none_iff ..).1 (modHome_gone _ id) x (sweepHome_homes _ _ hx)

/-! The moves of a removed object end; nothing else ends with them. -/

theorem finishAll_keeps {α : Type} (f : State → α) (hf : ∀ (s : State) (sid : Nat) (r : Result), f (s.finish sid r) = f s)
    (sids : List (Option Nat)) (st : Status) (s : State) : f (s.finishAll sids st) = f s :=
  foldl_keeps f (fun s o => by cases o with | none => rfl | some sid => exact hf s sid _) sids s

/-- A submission that has its outcome keeps it. -/
theorem sub_finish_done {s : State} {k : Nat} {u : Sub} (h : s.sub? k = some u) (hd : u.due ≠ none) (sid : Nat) (r : Result) :
    (s.finish sid r).sub? k = some u := by
  by_cases e : k = sid
  · subst e
    simp [sub_finish, h, hd]
  · rw [sub_finish_other s sid k r e, h]

theorem finishAll_done (st : Status) {k : Nat} {u : Sub} (hd : u.due ≠ none) : ∀ (sids : List (Option Nat)) {s : State},
    s.sub? k = some u → (s.finishAll sids st).sub? k = some u
  | [], _, h => h
  | none :: l, _, h => finishAll_done st hd l h
  | some sid :: l, _, h => finishAll_done st hd l (sub_finish_done h hd sid _)

@[simp] theorem dropHome_home (s : State) (id : W64) : (s.dropHome id).home? id = none := by
  cases hh : s.home? id with
  | none => rw [dropHome_none hh, hh]
  | some h =>
    rw [dropHome_some hh]
    exact (finishAll_keeps (·.home? id) (fun _ _ _ => rfl) _ _ _).trans (takeHome_home s id h)

/-- A part of the sled outside the flash media, the memories, the tiers and the submissions stays as it is. -/
theorem dropHome_keeps {α : Type} (f : State → α)
    (hf : ∀ (s : State) (fl : Flash) (ms : Mems) (ti : Tiers), f { s with flash := fl, mems := ms, tiers := ti } = f s)
    (hs : ∀ (s : State) (sid : Nat) (r : Result), f (s.finish sid r) = f s) (s : State) (id : W64) : f (s.dropHome id) = f s := by
  cases hh : s.home? id with
  | none => rw [dropHome_none hh]
  | some h =>
    rw [dropHome_some hh]
    exact (finishAll_keeps f hs _ _ _).trans (takeHome_keeps f hf s id h)

@[simp] theorem dropHome_img (s : State) (id : W64) : (s.dropHome id).img = s.img :=
  dropHome_keeps (·.img) (fun _ _ _ _ => rfl) (fun _ _ _ => rfl) s id
@[simp] theorem dropHome_work (s : State) (id : W64) : (s.dropHome id).work = s.work :=
  dropHome_keeps (·.work) (fun _ _ _ _ => rfl) (fun _ _ _ => rfl) s id
@[simp] theorem dropHome_queues (s : State) (id : W64) : (s.dropHome id).queues = s.queues :=
  dropHome_keeps (·.queues) (fun _ _ _ _ => rfl) (fun _ _ _ => rfl) s id
@[simp] theorem dropHome_out (s : State) (id : W64) : (s.dropHome id).out = s.out :=
  dropHome_keeps (·.out) (fun _ _ _ _ => rfl) (fun _ _ _ => rfl) s id

/-- A submission that has its outcome keeps it, whatever object goes. -/
theorem dropHome_done {s : State} {k : Nat} {u : Sub} (h : s.sub? k = some u) (hd : u.due ≠ none) (id : W64) :
    (s.dropHome id).sub? k = some u := by
  cases hh : s.home? id with
  | none => rw [dropHome_none hh, h]
  | some x =>
    rw [dropHome_some hh]
    exact finishAll_done _ hd _ ((takeHome_keeps (·.sub? k) (fun _ _ _ _ => rfl) s id x).trans h)

end Sys2Proof.Machine
end

section
/-! PROOFS. Images and their bindings (chapter 6): what LOAD_IMAGE, UNLOAD_IMAGE, BIND_MODEL and UNBIND_MODEL do (O43, O47). -/

namespace Sys2Proof.Machine

open Sys2Proof

/-! ### Statuses (R320) -/

/-- Of statuses in which none comes before the first, the first is the one that a command ends with. -/
theorem firstStatus_cons {st : Status} {l : List Status} (h : ∀ x ∈ l, st.rank ≤ x.rank) : firstStatus (st :: l) = st := by
  have kept : ∀ l : List Status, (∀ x ∈ l, st.rank ≤ x.rank) → l.foldl (fun a b => if b.rank < a.rank then b else a) st = st := by
    intro l
    induction l with
    | nil => intro _; rfl
    | cons x l ih =>
      intro h
      rw [List.foldl_cons, if_neg (Nat.not_lt.2 (h x List.mem_cons_self))]
      exact ih fun y hy => h y (List.mem_cons_of_mem _ hy)
  have first : (if st.rank < Status.ok.rank then st else .ok) = st := by cases st <;> rfl
  rw [firstStatus, List.foldl_cons, first]
  exact kept l h

theorem mem_when {c : Bool} {st x : Status} (h : x ∈ when c st) : x = st := by
  unfold when at h
  split at h
  · exact List.mem_singleton.1 h
  · exact absurd h List.not_mem_nil

/-- A command other than ANSWER on which BAD_FIELD falls ends so, whatever status has applied since its accept event. -/
theorem settle_badField_waits {s : State} {sid op : Nat} {u : Sub} (h : Waits s sid op u) (ho : op ≠ 0x10) {errs : List Status}
    (he : .badField ∈ errs) (effect : State → State) : s.settle u errs effect = s.finish sid { status := .badField } := by
  obtain ⟨hs, hop, -⟩ := id h
  rw [settle_badField effect he, State.failWith, waits_sid h, flagsOf_of_not_answer hs (by rw [hop]; exact ho)]

theorem begins_not_badField {s : State} {sid op : Nat} {u : Sub} (h : Begins s sid op u) : firstStatus u.preset ≠ .badField := by
  rw [begins_preset h]
  decide

@[simp] theorem modImg_img (s : State) (f : Images → Images) : (s.modImg f).img = f s.img := rfl

/-! ### LOAD_IMAGE (R134, R136, R156, R320) -/

/-- The image of a package, by its own header and section table. -/
def imageOf (p : Package) : Image := pkgImage p (parseImageHeader p.header) (parseSections p.table (parseImageHeader p.header).sections)

/-- The lowest free image index, and the object that an image under index `i` would be. -/
def State.freeImageIndex (s : State) : Option Nat := lowestFree (s.img.images.map (·.index)) 256
def State.imageObjAt (s : State) (i : Nat) : W64 := imageObj i (genFor s.img.imageGens i)

/-- The flash channels that it would lie on. -/
def State.imageChannels (s : State) (p : Package) (i : Nat) : List Nat := objectChannels (s.imageObjAt i) true (imageOf p).extents

/-- The statuses of a LOAD_IMAGE's own. -/
def State.loadErrs (s : State) (u : Sub) (p : Package) : List Status :=
  let chans := s.imageChannels p (s.freeImageIndex.getD 0)
  when (!pkgOk p u.entry.length.toNat) .badField ++ when (!s.imageSigned p) .denied
    ++ when (s.freeImageIndex.isNone || !s.dirRoom 1 || !s.capacityOk chans) .noResource ++ when (chans.any s.channelOut) .mediaError

/-- An image under its index, its generation and its object. -/
def Image.held (im : Image) (i gen : Nat) (id : W64) : Image := { im with index := i, gen := gen, objId := id }

/-- An image is stored on flash, gets its directory entry and is held. -/
def State.holdImage (s : State) (im : Image) : State :=
  ((s.storeObj im.objId true im.extents im.objBytes).addHome
    { objId := im.objId, lengthM1 := BitVec.ofNat 32 (ceilDiv im.span 64 - 1), sealedObj := true }).modImg fun g =>
      { g with images := g.images ++ [im] }

/-- What it stores does not depend on the index, the generation and the object. -/
theorem holdImage_held (s : State) (im : Image) (i gen : Nat) (id : W64) : s.holdImage (im.held i gen id) =
    ((s.storeObj id true im.extents im.objBytes).addHome
      { objId := id, lengthM1 := BitVec.ofNat 32 (ceilDiv im.span 64 - 1), sealedObj := true }).modImg fun g =>
        { g with images := g.images ++ [im.held i gen id] } := rfl

/-- The package's image is held under index `i`, and its handle is the result. -/
def State.loadAt (s : State) (u : Sub) (p : Package) (i : Nat) (id : W64) : State :=
  (s.holdImage ((imageOf p).held i (genFor s.img.imageGens i) id)).complete u
    (BitVec.ofNat 64 (mkHandle (genFor s.img.imageGens i) kindImage i).toNat) 0

section
variable {s : State} {sid : Nat} {u : Sub} {p : Package} (hb : (u.readB (some p.header)).isSome = true)
include hb

/-- A LOAD_IMAGE that reads its package: its statuses, and what it does when none applies. -/
theorem loadImage_reads (h : Waits s sid 0x20 u) (hp : firstStatus u.preset ≠ .badField) : exec (.loadImage sid (some p)) s =
    .next (s.settle u (s.loadErrs u p) fun t => t.loadAt u p (s.freeImageIndex.getD 0) (s.imageObjAt (s.freeImageIndex.getD 0))) := by
  obtain ⟨buf, hb⟩ := Option.isSome_iff_exists.1 hb
  refine congrArg Host.Outcome.next ((run_waits _ h).trans ?_)
  simp only [State.withB, if_neg hp, Option.map_some, hb, Option.getD_some, State.loadErrs, State.imageChannels, State.imageObjAt,
    State.freeImageIndex, State.loadAt, State.holdImage, Image.held, imageOf]

/-- A package that fails its checks is BAD_FIELD, which no other status comes before (R320; log 72). -/
theorem loadImage_malformed (h : Waits s sid 0x20 u) (hk : pkgOk p u.entry.length.toNat = false) :
    exec (.loadImage sid (some p)) s = .next (s.finish sid { status := .badField }) := by
  by_cases hp : firstStatus u.preset = .badField
  · obtain ⟨hs, hop, -⟩ := id h
    refine congrArg Host.Outcome.next ((run_waits _ h).trans ?_)
    rw [State.withB, if_pos hp, State.failWith, waits_sid h, flagsOf_of_not_answer hs (by rw [hop]; decide)]
  · rw [loadImage_reads hb h hp, settle_badField_waits h (by decide) (by simp [State.loadErrs, when, hk])]

end

theorem loadErrs_nil {s : State} {u : Sub} {p : Package} {i : Nat} (hk : pkgOk p u.entry.length.toNat = true) (hs : s.imageSigned p = true)
    (hi : s.freeImageIndex = some i) (hr : s.dirRoom 1 = true) (hc : s.capacityOk (s.imageChannels p i) = true)
    (ho : (s.imageChannels p i).any s.channelOut = false) : s.loadErrs u p = [] := by
  simp only [State.loadErrs, hi, Option.getD_some, hk, hs, hr, hc, ho]
  rfl

/-- A package in order that no enrolled key signed is DENIED, before what there is no room for (R136, R320). -/
theorem firstStatus_loadErrs {s : State} {u : Sub} {p : Package} (hk : pkgOk p u.entry.length.toNat = true) (hs : s.imageSigned p = false) :
    s.loadErrs u p ≠ [] ∧ firstStatus (s.loadErrs u p) = .denied := by
  have hl : ∃ b c, s.loadErrs u p = .denied :: (when b .noResource ++ when c .mediaError) :=
    ⟨_, _, by simp only [State.loadErrs, hk, hs]; rfl⟩
  obtain ⟨b, c, hl⟩ := hl
  rw [hl]
  refine ⟨List.cons_ne_nil _ _, firstStatus_cons fun x hx => ?_⟩
  obtain rfl | rfl := (List.mem_append.1 hx).imp mem_when mem_when <;> decide

/-- The header of a GENERATOR is in order only with the KV_BYTES that R134 gives. -/
theorem kvBytes_of_ok {h : ImageHeader} (hk : h.ok = true) (hc : h.cls = clsGen) :
    ∃ n, kvElemBytes h.kvFmt = some n ∧ h.kvBytes = 2 * h.kvHeads * h.headDim * n := by
  simp only [ImageHeader.ok, Bool.and_eq_true] at hk
  obtain ⟨-, hkv⟩ := hk
  cases e : kvElemBytes h.kvFmt with
  | none => simp [hc, e] at hkv
  | some n => exact ⟨n, rfl, by simpa [hc, e] using hkv⟩

theorem header_ok_of_pkgOk {p : Package} {len : Nat} (h : pkgOk p len = true) : (parseImageHeader p.header).ok = true := by
  simp only [pkgOk, Bool.and_eq_true, and_assoc] at h
  exact h.1

/-! ### UNLOAD_IMAGE (R156) -/

/-- An UNLOAD_IMAGE that begins completes, and the image goes when it may. -/
theorem unloadImage_begins {s : State} {sid : Nat} {u : Sub} {im : Image} (h : Begins s sid 0x21 u) (hi : s.image? u.entry.handleA = some im) :
    exec (.unloadImage sid) s = .next ((s.finish sid (okResult u 0 0)).freeImage im) := by
  rw [← completeOk_begins h]
  refine congrArg Host.Outcome.next ((run_waits _ h.1).trans ((settle_begins h rfl _).trans ?_))
  simp only [hi]

/-- While a binding has it, an image stays. -/
theorem freeImage_bound {s : State} {im : Image} (hb : s.bindings im ≠ []) : s.freeImage im = s := if_neg fun h => hb h.2

/-- Without one, an unloaded image goes with its object, and its index is reissued with the next generation. -/
theorem freeImage_goes {s : State} {im : Image} (hr : im.releasedAt.isSome = true) (hb : s.bindings im = []) :
    s.freeImage im = (s.dropHome im.objId).modImg fun g =>
      { g with images := g.images.filter (fun x => !(x.index == im.index)), imageGens := bumpGen g.imageGens im.index } := if_pos ⟨hr, hb⟩

/-! ### BIND_MODEL and UNBIND_MODEL (R156 to R158, R263) -/

/-- The binding that a BIND_MODEL makes, before it has its places in HBM. -/
def State.newModel (s : State) (u : Sub) (sid : Nat) : Model :=
  let i := (lowestFree (s.img.models.map (·.index)) 64).getD 0
  { index := i, gen := genFor s.img.modelGens i, image := u.entry.handleA, kvPages := u.entry.arg0.toNat, binder := some sid }

/-- The binding with its places is held, and the BIND_MODEL waits for its copy and, of the answer classes, for a slot. -/
def State.bindPlaced (s : State) (im : Image) (sid : Nat) : Option (Model × State) → State
  | none => s
  | some (m, t) =>
    let t := ((t.start sid).modImg fun g => { g with models := g.models ++ [m] }).ownCopy im
    (if im.header.cls = clsAux then t else t.makeSlot).schedule

section
variable {s : State} {sid : Nat} {u : Sub} (h : Begins s sid 0x22 u) {im : Image} (hi : s.image? u.entry.handleA = some im)
include h hi

/-- A BIND_MODEL that begins: its statuses, and what it does when none applies. -/
theorem bindModel_begins : exec (.bindModel sid) s = .next
    (let placed := s.placeBinding im (s.newModel u sid) sid
     s.settle u (s.bindErrs im u.entry.arg0.toNat ++ when placed.isNone .noResource) fun s => s.bindPlaced im sid placed) := by
  refine congrArg Host.Outcome.next ((run_waits _ h.1).trans ?_)
  simp only [hi, begins_sid h]
  rfl

theorem bindModel_placed {m : Model} {t : State} (he : s.bindErrs im u.entry.arg0.toNat = [])
    (hp : s.placeBinding im (s.newModel u sid) sid = some (m, t)) : exec (.bindModel sid) s = .next (s.bindPlaced im sid (some (m, t))) := by
  rw [bindModel_begins h hi]
  exact congrArg Host.Outcome.next ((settle_begins h (by rw [he, hp]; rfl) _).trans (by rw [hp]))

theorem bindModel_refused {st : Status} {l : List Status} (he : s.bindErrs im u.entry.arg0.toNat ++
      when (s.placeBinding im (s.newModel u sid) sid).isNone .noResource = st :: l) (hl : ∀ x ∈ l, st.rank ≤ x.rank) :
    exec (.bindModel sid) s = .next (s.finish sid { status := st }) := by
  rw [bindModel_begins h hi]
  refine congrArg Host.Outcome.next ((settle_refuses h (by decide) (by rw [he]; exact List.cons_ne_nil _ _) _).trans ?_)
  rw [he, firstStatus_cons hl]

end

/-- With every binding index taken there is no room, whatever else (R156). -/
theorem bindErrs_full {s : State} {im : Image} (pages : Nat) (hb : im.boundsOk = true) (ha : im.auxOk = true) (hg : im.gapOk = true)
    (h64 : 64 ≤ s.img.models.length) : s.bindErrs im pages = .noResource :: when im.damaged .damaged := by
  simp [State.bindErrs, when, hb, ha, hg, h64]

/-- An UNBIND_MODEL that begins completes, and what no job is held on any more goes. -/
theorem unbindModel_begins {s : State} {sid : Nat} {u : Sub} (h : Begins s sid 0x23 u) :
    exec (.unbindModel sid) s = .next (s.finish sid (okResult u 0 0)).sweepImages := by
  rw [← completeOk_begins h]
  exact congrArg Host.Outcome.next ((run_waits _ h.1).trans (settle_begins h rfl _))

end Sys2Proof.Machine
end

section
/-! PROOFS. Images and bindings as O43 states them, and KV_BYTES (O43, O47). -/

namespace Sys2Proof.Machine

open Sys2Proof

/-- Settles O43: each command by its statuses, and by what it does when none applies.  That a package which breaks any requirement on its
form is BAD_FIELD is the reading of log 72.  An image that goes takes its object's entry with it, and `dropHome` leaves the rest. -/
theorem imagesAndBindings : Obligations.ImagesAndBindings := by
  refine ⟨fun s sid i u p h hb => ⟨fun hk hs hi hr hc ho => ?loads, fun hk => loadImage_malformed hb h.1 hk, fun hk hs => ?unsigned⟩,
    fun s sid u im h hi hr => ⟨fun hn => ?stays, fun hn => ?goes⟩,
    fun s sid u => ⟨fun im h hi => ⟨fun m' t he hp => ?binds, fun hb ha hg h64 => ?full, fun m' t he hp => ?damaged⟩, unbindModel_begins⟩⟩
  case loads =>
    have free : s.freeImageIndex = some i := hi
    rw [loadImage_reads hb h.1 (begins_not_badField h), settle_begins h (loadErrs_nil hk hs free hr hc ho), free, State.loadAt,
      complete_begins h, holdImage_held]
    rfl
  case unsigned =>
    obtain ⟨he, hd⟩ := firstStatus_loadErrs hk hs
    rw [loadImage_reads hb h.1 (begins_not_badField h), settle_refuses h (by decide) he, hd]
  case stays => rw [unloadImage_begins h hi, freeImage_bound (s := s.finish sid (okResult u 0 0)) hn]
  case goes =>
    refine ⟨_, (unloadImage_begins h hi).trans (congrArg _ (freeImage_goes (s := s.finish sid (okResult u 0 0)) hr hn)), ?_⟩
    obtain ⟨⟨hs, -, hd, -⟩, -⟩ := h
    exact ⟨dropHome_done (endsWith_finish _ hs hd) (by simp) _, by simp, dropHome_home .., by simp, by simp, by simp⟩
  case binds => exact bindModel_placed h hi he hp
  case full =>
    refine bindModel_refused h hi (by rw [bindErrs_full _ hb ha hg h64, List.cons_append]) fun x hx => ?_
    obtain rfl | rfl := (List.mem_append.1 hx).imp mem_when mem_when <;> decide
  case damaged =>
    have placed : s.placeBinding im (s.newModel u sid) sid = some (m', t) := hp
    exact bindModel_refused h hi (l := []) (by rw [he, placed]; rfl) (by simp)

/-- Settles O47: of a GENERATOR a package passes its checks only with the KV_BYTES of R134, and one that does not pass is BAD_FIELD. -/
theorem kvBytesMustMatch : Obligations.KvBytesMustMatch := by
  intro s sid u p h hb hc hne
  refine loadImage_malformed hb h (Bool.eq_false_iff.2 fun hk => ?_)
  obtain ⟨n, hn, heq⟩ := kvBytes_of_ok (header_ok_of_pkgOk hk) hc
  exact hne n hn heq

end Sys2Proof.Machine
end

section
/-! PROOFS. Token budgets that the generator does not take (O48). -/

namespace Sys2Proof.Machine

open Sys2Proof

/-- What the generator asks of a budget fails for one above its MAX_SEQ (R146). -/
theorem genOk_of_over {s : State} {b : AnswerBlock} {im : Image} (hi : s.modelImage b.genModel = some im)
    (hb : (b.mode = modeHandoff ∧ im.header.maxSeq < b.tokenBudget) ∨ (b.mode = modeAnswer ∧ im.header.maxSeq < b.tokenBudget + b.maxNew)) :
    s.genOk b = false := by
  obtain ⟨hm, hlt⟩ | ⟨hm, hlt⟩ := hb
  · have exceeds : decide (b.tokenBudget ≤ im.header.maxSeq) = false := decide_eq_false (Nat.not_le.2 hlt)
    simp only [State.genOk, hi, if_pos hm, exceeds, Bool.false_and]
  · have other : b.mode ≠ modeHandoff := by rw [hm]; decide
    simp only [State.genOk, hi, if_neg other, decide_eq_false (Nat.not_le.2 hlt)]

theorem badField_mem_answerErrs {s : State} {b : AnswerBlock} (u : Sub) (q : Buf) (h : s.genOk b = false) : .badField ∈ s.answerErrs u b q := by
  have bad : s.answerBad u b q = true := by simp [State.answerBad, h]
  simp [State.answerErrs, when, bad]

/-- An ANSWER that has not been read has taken no flags yet (R52). -/
theorem flagsOf_of_no_req {s : State} {sid : Nat} (h : ∀ r ∈ s.ans.reqs, r.sid ≠ sid) : s.flagsOf sid = {} := by
  have absent : s.ans.reqs.find? (fun r => r.sid == sid) = none := by simpa [List.find?_eq_none] using h
  unfold State.flagsOf
  split
  · rfl
  · simp [absent]

/-- A request block that is read and to which a status of its own applies ends so, BAD_FIELD before all others (R320). -/
theorem answerBlockRead_badField {s : State} {sid : Nat} {u : Sub} {block : Option Buf} {buf q : Buf} (hu : s.sub? sid = some u)
    (hop : u.entry.opcode = 0x10) (hd : u.due = none) (hr : u.running = true) (hn : ∀ r ∈ s.ans.reqs, r.sid ≠ sid)
    (hb : u.readB block = some buf) (he : .badField ∈ s.answerErrs u (parseAnswer buf) q) :
    exec (.answerBlockRead sid block (some q)) s = .next (s.finish sid { status := .badField }) := by
  have fresh : s.ans.reqs.any (fun r => r.sid == sid) = false := by simpa using hn
  have fails : s.failWith sid .badField = s.finish sid { status := .badField } := by rw [State.failWith, flagsOf_of_no_req hn]
  rw [← fails]
  refine congrArg Host.Outcome.next ?_
  simp only [hu, hop, hd, hr, fresh, and_self, if_true, State.withB, sub_sid hu, hb]
  split
  · rfl
  · have he' : Status.badField ∈ u.preset ++ s.answerErrs u (parseAnswer buf) q := List.mem_append_right _ he
    split
    · rename_i e
      rw [e] at he'
      exact absurd he' List.not_mem_nil
    · rw [firstStatus_badField he']

/-- Settles O48: a budget above MAX_SEQ makes BAD_FIELD one of the request's statuses. -/
theorem tokenBudgets : Obligations.TokenBudgets := by
  intro s sid u block buf q im hu hop hd hr hn hb b hi hover
  exact answerBlockRead_badField hu hop hd hr hn hb (badField_mem_answerErrs u q (genOk_of_over hi hover))

end Sys2Proof.Machine
end

section
/-! PROOFS. Pools, the homes of objects and the moves between tiers (chapter 7): what each event does (O32). -/

namespace Sys2Proof.Machine

open Sys2Proof

/-! ### SET_POOLS (R163) -/

/-- The statuses of a SET_POOLS's own. -/
def State.poolErrs (s : State) (p : Pools) : List Status :=
  when (decide (p.model + p.index + p.table + p.graft ≠ 960 * 2 ^ 30)) .badField
    ++ when ((List.range 4).any fun i => decide (p.get i < s.tiers.held.get i)) .noResource

theorem setPools_begins {s : State} {sid : Nat} {u : Sub} (h : Begins s sid 0xE4 u) :
    exec (.setPools sid) s = .next (s.settle u (s.poolErrs (poolsOf u.entry.arg0)) fun s =>
      (s.modTiers fun t => { t with budget := poolsOf u.entry.arg0 }).completeOk u) :=
  congrArg Host.Outcome.next (run_waits _ h.1)

/-- A pool holds more than its new budget when one of the four does. -/
theorem any_pool_short (p q : Pools) : ((List.range 4).any fun i => decide (p.get i < q.get i)) = true ↔
    p.model < q.model ∨ p.index < q.index ∨ p.table < q.table ∨ p.graft < q.graft := by
  simp [List.range_succ, Pools.get]

theorem poolErrs_nil {s : State} {p : Pools} (hsum : p.model + p.index + p.table + p.graft = 960 * 2 ^ 30)
    (hm : s.tiers.held.model ≤ p.model) (hi : s.tiers.held.index ≤ p.index) (ht : s.tiers.held.table ≤ p.table)
    (hg : s.tiers.held.graft ≤ p.graft) : s.poolErrs p = [] := by
  have holds : ((List.range 4).any fun i => decide (p.get i < s.tiers.held.get i)) = false := by
    rw [Bool.eq_false_iff, ne_eq, any_pool_short]
    omega
  rw [State.poolErrs, holds, decide_eq_false (not_not_intro hsum)]
  rfl

theorem badField_mem_poolErrs (s : State) {p : Pools} (hsum : p.model + p.index + p.table + p.graft ≠ 960 * 2 ^ 30) :
    Status.badField ∈ s.poolErrs p := by
  rw [State.poolErrs, decide_eq_true hsum]
  exact List.mem_cons_self

theorem poolErrs_short {s : State} {p : Pools} (hsum : p.model + p.index + p.table + p.graft = 960 * 2 ^ 30)
    (ht : p.table < s.tiers.held.table) : s.poolErrs p = [.noResource] := by
  rw [State.poolErrs, (any_pool_short ..).2 (.inr (.inr (.inl ht))), decide_eq_false (not_not_intro hsum)]
  rfl

/-! ### The entry of an object (R166) -/

/-- A change of an object's entry that leaves its name and does not remove it is what the name finds. -/
theorem home_modHome {s : State} {id : W64} {h : Home} (hh : s.home? id = some h) {f : Home → Home} (hid : ∀ h, (f h).objId = h.objId)
    (hg : ∀ h, (f h).gone = h.gone) : (s.modHome id f).home? id = some (f h) := by
  refine (find_updWhere s.tiers.homes _ _ f fun x _ => by rw [hid, hg]).trans ?_
  have found : s.tiers.homes.find? (fun x => x.objId == id && !x.gone) = some h := hh
  rw [found, Option.map_some, if_pos (List.find?_some found)]

theorem home_congr {s t : State} (h : t.tiers.homes = s.tiers.homes) (id : W64) : t.home? id = s.home? id := by
  rw [State.home?, h, State.home?]

/-! ### The end of a move (R172, R173) -/

theorem finishAll_tiers (s : State) (sids : List (Option Nat)) (st : Status) : (s.finishAll sids st).tiers = s.tiers :=
  finishAll_keeps (·.tiers) (fun _ _ _ => rfl) sids st s

theorem endMove_tiers (s : State) (id : W64) (st : Status) :
    (s.endMove id st).tiers = { s.tiers with running := s.tiers.running.filter fun m => !(m.objId == id) } := by
  rw [← finishAll_tiers s (s.movers id) st]
  rfl

@[simp] theorem endMove_home (s : State) (id k : W64) (st : Status) : (s.endMove id st).home? k = s.home? k :=
  home_congr (by rw [endMove_tiers]) k

@[simp] theorem endMove_moves (s : State) (id : W64) (st : Status) : (s.endMove id st).tiers.moves = s.tiers.moves := by
  rw [endMove_tiers]

/-- Nothing runs on the object any more. -/
theorem endMove_running (s : State) (id : W64) (st : Status) : ∀ m ∈ (s.endMove id st).tiers.running, m.objId ≠ id := by
  rw [endMove_tiers]
  intro m hm
  simpa using (List.mem_filter.1 hm).2

/-- With no request waiting on the object no move follows. -/
theorem nextMove_idle {s : State} {id : W64} (h : ∀ m ∈ s.tiers.moves, m.objId ≠ id) : s.nextMove id = s := by
  have none_waits : s.tiers.moves.find? (fun m => m.objId == id) = none := by simpa [List.find?_eq_none] using h
  simp [State.nextMove, State.nextMoveN, none_waits]

theorem nextMove_modHome_idle {s : State} {id k : W64} (h : ∀ m ∈ s.tiers.moves, m.objId ≠ id) (f : Home → Home) :
    (s.modHome k f).nextMove id = s.modHome k f := nextMove_idle (s := s.modHome k f) h

theorem applyWaitingWrites_none {s : State} {id : W64} (h : ∀ w ∈ s.tiers.writes, w.objId ≠ id) : s.applyWaitingWrites id = s := by
  have none_waits : s.tiers.writes.filter (fun w => w.objId == id) = [] := by simpa [List.filter_eq_nil_iff] using h
  have all_stay : s.tiers.writes.filter (fun w => !(w.objId == id)) = s.tiers.writes := by simpa [List.filter_eq_self] using h
  simp only [State.applyWaitingWrites, State.modTiers, none_waits, all_stay, List.foldl_nil]

/-! ### A move request (R172, R173) -/

/-- Nothing keeps a move of the object from starting: no copy, no pin on its old home, no pending eviction. -/
def Home.Still (h : Home) : Prop := h.inMotion = false ∧ h.oldPins = 0 ∧ h.evictPending = false

/-- A request for a move to HBM or flash runs. -/
def State.addRunning (s : State) (id : W64) (tier : Tier) (sid : Option Nat) : State :=
  s.modTiers fun t => { t with running := t.running ++ [{ objId := id, tier := tier, sid := sid }] }

/-- The submission of the request is the only one that the move answers. -/
theorem movers_addRunning {s : State} {id : W64} (h : ∀ m ∈ s.tiers.running, m.objId ≠ id) (tier : Tier) (sid : Option Nat) :
    (s.addRunning id tier sid).movers id = [sid] := by
  have none_runs : s.tiers.running.filter (fun m => m.objId == id) = [] := by simpa [List.filter_eq_nil_iff] using h
  simp [State.movers, State.addRunning, State.modTiers, none_runs]

section
variable {s : State} {id : W64} {h : Home} (hh : s.home? id = some h)
include hh

/-- A request for a still object starts at once. -/
theorem requestMove_starts (hs : h.Still) (tier : Tier) (sid : Option Nat) : s.requestMove id tier 0 sid =
    ((s.addRunning id tier sid).startMove id tier 0 sid.isSome).nextMove id := by
  obtain ⟨hm, ho, he⟩ := hs
  simp [State.requestMove, hh, hm, ho, he, State.addRunning]

/-- A request for an object that moves waits, while fewer than fifteen destinations do. -/
theorem requestMove_waits (hm : h.inMotion = true) (hw : h.waiters < 15) (tier : Tier) (peer : Nat) (sid : Option Nat) :
    (s.requestMove id tier peer sid).tiers.moves = s.tiers.moves ++ [{ objId := id, tier := tier, peer := peer, sid := sid }] := by
  simp only [State.requestMove, hh, hm, true_or, if_true, hw, or_true]
  rfl

/-- A move to HBM or flash of an object that is there ends at once. -/
theorem startMove_there (hd : h.damaged = false) (hp : h.tier ≠ .peer) (peer : Nat) (explicit : Bool) :
    s.startMove id h.tier peer explicit = s.endMove id .ok := by
  simp [State.startMove, hh, hd, Home.isAt, hp]

/-- A move to flash of a pinned home waits for the pins. -/
theorem startMove_pinned (hd : h.damaged = false) (ht : h.tier ≠ .flash) (hp : 0 < h.pins) (peer : Nat) (explicit : Bool) :
    s.startMove id .flash peer explicit =
      s.modHome id fun h => { h with evictPending := true, isExplicit := explicit, referenced := false, destTier := .flash } := by
  simp [State.startMove, hh, hd, Home.isAt, ht, hp]

/-- A move to another tier copies, when it needs not wait for pins. -/
theorem startMove_copies {tier : Tier} (hd : h.damaged = false) (ht : h.tier ≠ tier) (hp : tier = .flash → h.pins = 0) (peer : Nat)
    (explicit : Bool) : s.startMove id tier peer explicit = s.startCopy h tier := by
  have no_wait : ¬ (tier = .flash ∧ 0 < h.pins) := by
    rintro ⟨he, hpos⟩
    rw [hp he] at hpos
    exact Nat.lt_irrefl 0 hpos
  simp [State.startMove, hh, hd, Home.isAt, ht, no_wait]

end

/-! ### The copy to HBM (R162, R172) -/

theorem allocHbm_frame {s s' : State} {pool len a : Nat} {obj : W64} (h : s.allocHbm pool len obj = some (a, s')) :
    s' = { s with tiers := { s.tiers with allocs := s'.tiers.allocs, held := s'.tiers.held } } := by
  unfold State.allocHbm State.placeHbm at h
  split at h
  · simp only [Option.map_map, Option.map_eq_some_iff, Function.comp_apply, Prod.mk.injEq] at h
    obtain ⟨b, -, -, rfl⟩ := h
    rfl
  · exact absurd h (by simp)

/-- The place of an object depends on the pools, the places in use and the granules out of use alone. -/
theorem allocHbm_congr {s t s' : State} {pool len a : Nat} {obj : W64} (hi : t.integ = s.integ)
    (ht : t.tiers = { s.tiers with running := t.tiers.running }) (h : s.allocHbm pool len obj = some (a, s')) :
    ∃ t', t.allocHbm pool len obj = some (a, t') := by
  have lost : t.hbmLost = s.hbmLost := by
    funext b
    simp only [State.hbmLost, State.hbmPlace]
    rw [ht]
  have ranges : t.hbmRanges = s.hbmRanges := by
    simp only [State.hbmRanges, State.unusableGranules, State.retiredGranules, lost, hi]
    rw [ht]
  have room : t.poolRoom pool len = s.poolRoom pool len := by
    simp only [State.poolRoom]
    rw [ht]
  unfold State.allocHbm State.placeHbm at h ⊢
  rw [room, ranges]
  split at h
  · rename_i fits
    simp only [fits, if_true, Option.map_map, Option.map_eq_some_iff, Function.comp_apply, Prod.mk.injEq] at h ⊢
    obtain ⟨b, hb, rfl, -⟩ := h
    exact ⟨_, b, hb, rfl, rfl⟩
  · exact absurd h (by simp)

/-- The allocation is rewritten and never evaluated: a check by computation would unfold its sums of bytes one by one. -/
theorem startCopy_hbm {s s' : State} {h : Home} {a : Nat} (ht : h.tier ≠ .peer)
    (ha : s.allocHbm (poolOf h.objId) h.bytes h.objId = some (a, s')) : s.startCopy h .hbm =
      s'.modHome h.objId fun h =>
        { h with dest := BitVec.ofNat 64 a, destTier := .hbm, inMotion := true, evictPending := false, referenced := false } := by
  rw [State.startCopy, ha]
  exact congrArg (fun t : State => t.modHome h.objId _) (if_neg ht)

/-! ### The copy to flash (R165, R172, R399, R465) -/

section
variable {α : Type} (f : State → α) (hf : ∀ (s : State) (fl : Flash) (ms : Mems), f { s with flash := fl, mems := ms } = f s)
include hf

/-! `f` is a part of the sled outside the flash media and the memories. -/

theorem putExtent_keeps (s : State) (o : FlashObj) (e : Nat) (stored : Buf) : f (s.putExtent o e stored) = f s :=
  (syncEntry_keeps f hf ..).trans ((hf _ _ (State.mems _)).trans (putPage_keeps f hf s _ _))

theorem storeExtents_keeps (s : State) (id : W64) (persistent : Bool) (l : List (Nat × Buf)) : f (s.storeExtents id persistent l) = f s := by
  have named (o : FlashObj) : f (if (s.obj? id).isSome then s else s.modFlash fun fl => { fl with objs := fl.objs ++ [o] }) = f s := by
    split
    · rfl
    · exact hf s _ s.mems
  have stored (o : FlashObj) (s : State) :
      f (l.foldl (fun s x => s.putExtent o x.1 (s.encrypted (channelOf id persistent x.1) id x.1 x.2)) s) = f s :=
    foldl_keeps f (fun s _ => putExtent_keeps f hf s _ _ _) l s
  unfold State.storeExtents
  dsimp only
  split
  · exact (foldl_keeps f (fun s _ => putExtent_keeps f hf s _ _ _) _ _).trans ((stored ..).trans (named _))
  · exact (stored ..).trans (named _)

theorem storeObj_keeps (s : State) (id : W64) (persistent : Bool) (n : Nat) (data : Buf) : f (s.storeObj id persistent n data) = f s :=
  storeExtents_keeps f hf ..

end

/-- With room on every channel, and every channel in service, the copy to flash starts. -/
theorem startCopy_flash {s : State} {h : Home} (hr : ∀ m ∈ s.tiers.running, m.objId ≠ h.objId) (he : s.eol < 2)
    (ho : ∀ c ∈ objectChannels h.objId false (extentsOf h.bytes), s.channelOut c = false)
    (hc : s.capacityOk (objectChannels h.objId false (extentsOf h.bytes)) = true) :
    (s.addRunning h.objId .flash none).startCopy h .flash =
      ((s.addRunning h.objId .flash none).storeObj h.objId false (extentsOf h.bytes) (s.homeBytes h.objId)).modHome h.objId fun h =>
        { h with dest := 0, destTier := .flash, inMotion := true, evictPending := false, referenced := false } := by
  have asked := movers_addRunning hr .flash none
  have lasting : ¬ 2 ≤ (s.addRunning h.objId .flash none).eol := Nat.not_le.2 he
  have served : (objectChannels h.objId false (extentsOf h.bytes)).any (s.addRunning h.objId .flash none).channelOut = false :=
    List.any_eq_false.2 fun c hc => by rw [Bool.not_eq_true]; exact ho c hc
  have fits : (s.addRunning h.objId .flash none).capacityFor none (objectChannels h.objId false (extentsOf h.bytes)) = true := hc
  have one : (List.find? (·.isSome) [(none : Option Nat)]).join = none := rfl
  simp only [State.startCopy, if_neg lasting, served, asked, one, fits, Bool.false_eq_true, Bool.not_true, if_false]
  rfl

/-! ### MOVE_OBJECT (R165, R172, R173) -/

/-- A MOVE_OBJECT that begins, of a row block to HBM or flash, is a request. -/
theorem moveObject_begins {s : State} {sid : Nat} {u : Sub} {h : Home} (hb : Begins s sid 0x60 u) (hk : objKind u.entry.arg0 = 5)
    (hh : s.home? u.entry.arg0 = some h) (hd : h.damaged = false) (hc : u.entry.arg1.toNat = 1 ∨ u.entry.arg1.toNat = 2) :
    exec (.moveObject sid) s = .next ((s.start sid).requestMove u.entry.arg0 (if u.entry.arg1.toNat = 1 then .hbm else .flash) 0 (some sid)) := by
  have named : (decide (u.entry.arg1.toNat ≠ 1) && decide (u.entry.arg1.toNat ≠ 2)) = false := by
    obtain hc | hc := hc <;> simp [hc]
  refine congrArg Host.Outcome.next ((run_waits _ hb.1).trans ((settle_begins hb ?_ _).trans ?_))
  · simp only [hh, hk, named, hd]
    rfl
  · rw [begins_sid hb]

/-- The submission has begun, and its request runs. -/
def State.moveBegun (s : State) (sid : Nat) (id : W64) (tier : Tier) : State := (s.start sid).addRunning id tier (some sid)

theorem sub_moveBegun {s : State} {sid : Nat} {u : Sub} (h : s.sub? sid = some u) (id : W64) (tier : Tier) :
    (s.moveBegun sid id tier).sub? sid = some { u with running := true } :=
  (sub_start s sid).trans (by rw [h]; rfl)

/-- The request of a still object starts at once, and then whatever waits on the object. -/
theorem moveObject_starts {s : State} {sid : Nat} {u : Sub} {h : Home} (hb : Begins s sid 0x60 u) (hk : objKind u.entry.arg0 = 5)
    (hh : s.home? u.entry.arg0 = some h) (hd : h.damaged = false) (hs : h.Still) (hc : u.entry.arg1.toNat = 1 ∨ u.entry.arg1.toNat = 2)
    {tier : Tier} (ht : (if u.entry.arg1.toNat = 1 then Tier.hbm else .flash) = tier) : exec (.moveObject sid) s =
      .next (((s.moveBegun sid u.entry.arg0 tier).startMove u.entry.arg0 tier 0 true).nextMove u.entry.arg0) := by
  rw [moveObject_begins hb hk hh hd hc, ht, requestMove_starts (s := s.start sid) hh hs]
  rfl

/-- The one submission that asked for a move to where the object is completes OK. -/
theorem endMove_ok_endsWith {s : State} {id : W64} {sid : Nat} {u : Sub} (ha : s.movers id = [some sid])
    (hu : s.sub? sid = some { u with running := true }) (hd : u.due = none) : EndsWith (s.endMove id .ok) sid u (okResult u 0 0) := by
  have result : s.finishAll [some sid] .ok = s.finish sid (okResult u 0 0) := by
    simp [State.finishAll, hu, okResult]
  unfold State.endMove
  rw [ha, result]
  exact endsWith_finish (u := { u with running := true }) _ hu hd

/-! ### MOVE_FLIP and MOVE_ABANDON (R172, R176) -/

/-- The entry after the flip: the destination is the home, and the readers' pins stand on the old home. -/
def Home.flipped (h : Home) : Home :=
  { h with addr := h.dest, dest := h.addr, tier := h.destTier, destTier := h.tier, oldPins := h.pins, pins := 0
           version := h.version + 1, inMotion := false, isExplicit := false }

/-- The entry with one pin fewer. -/
def Home.unpinned (h : Home) : Home := { h with pins := h.pins - 1 }

/-- The entry after a move that is given up. -/
def Home.stayed (h : Home) : Home := { h with inMotion := false, isExplicit := false, dest := 0, destTier := h.tier }

section
variable {s : State} {id : W64} {h : Home} (hh : s.home? id = some h)
include hh

theorem home_flipped : (s.modHome id Home.flipped).home? id = some h.flipped := home_modHome hh (fun _ => rfl) fun _ => rfl

theorem home_stayed : (s.modHome id Home.stayed).home? id = some h.stayed := home_modHome hh (fun _ => rfl) fun _ => rfl

/-- An old home that a reader has pinned stays. -/
theorem freeOld_pinned (hp : 0 < h.oldPins) : s.freeOld id = s := by
  simp [State.freeOld, hh, Nat.ne_of_gt hp]

/-- The flip of a pinned object for which no write waits. -/
theorem flip_pinned (hp : 0 < h.pins) (hw : ∀ w ∈ s.tiers.writes, w.objId ≠ id) : s.flip id = (s.modHome id Home.flipped).endMove id .ok := by
  have no_writes : (s.modHome id Home.flipped).applyWaitingWrites id = s.modHome id Home.flipped := applyWaitingWrites_none hw
  show (((s.modHome id Home.flipped).applyWaitingWrites id).endMove id .ok).freeOld id = _
  rw [no_writes]
  exact freeOld_pinned ((endMove_home ..).trans (home_flipped hh)) hp

theorem moveFlip_moves (hm : h.inMotion = true) (hd : h.destTier ≠ .peer) (ht : h.tier ≠ .peer) :
    exec (.moveFlip id) s = .next (s.flip id) := by
  refine congrArg Host.Outcome.next ?_
  simp only [hh, hm, ne_eq, hd, ht, not_false_eq_true, and_self, if_true]

/-- A move to HBM that is abandoned, when no write and no other request waits on the object. -/
theorem abandonMove_hbm (cause : Status) (hm : h.inMotion = true) (ht : h.tier ≠ .peer) (hd : h.destTier = .hbm)
    (hw : ∀ w ∈ s.tiers.writes, w.objId ≠ id) (hn : ∀ m ∈ s.tiers.moves, m.objId ≠ id) :
    s.abandonMove id cause = ((s.freeHbm (poolOf h.objId) h.dest.toNat h.objId).modHome id Home.stayed).endMove id cause := by
  have freed : s.freeDest h = s.freeHbm (poolOf h.objId) h.dest.toNat h.objId := by
    simp [State.freeDest, hm, hd, ht]
  have writes : (s.freeHbm (poolOf h.objId) h.dest.toNat h.objId).tiers.writes = s.tiers.writes :=
    freeHbm_keeps (·.tiers.writes) (fun _ _ _ _ _ => rfl) ..
  have moves : (s.freeHbm (poolOf h.objId) h.dest.toNat h.objId).tiers.moves = s.tiers.moves :=
    freeHbm_keeps (·.tiers.moves) (fun _ _ _ _ _ => rfl) ..
  have no_writes := applyWaitingWrites_none (id := id) (s := (s.freeHbm (poolOf h.objId) h.dest.toNat h.objId).modHome id Home.stayed)
    (by intro w hmem; exact hw w (writes ▸ hmem))
  simp only [State.abandonMove, hh, hm, if_true, freed]
  show ((((s.freeHbm (poolOf h.objId) h.dest.toNat h.objId).modHome id Home.stayed).applyWaitingWrites id).endMove id cause).nextMove id = _
  rw [no_writes]
  refine nextMove_idle ?_
  rw [endMove_moves]
  intro m hmem
  exact hn m (moves ▸ hmem)

theorem moveAbandon_mediaError (hg : h.guest = false) : exec (.moveAbandon id .mediaError) s = .next (s.abandonMove id .mediaError) := by
  refine congrArg Host.Outcome.next (if_pos ?_)
  simp [hh, hg]

/-! ### PIN_RELEASE (R167, R172, R174) -/

/-- A pin is one fewer, and no pending eviction waited for it. -/
theorem unpin_stays (hp : 1 < h.pins ∨ (h.pins = 1 ∧ h.evictPending = false)) :
    s.unpin id = s.modHome id Home.unpinned := by
  have pinned : h.pins ≠ 0 := by omega
  have goes_on : ¬ (h.pins = 1 ∧ h.evictPending = true) := by
    rintro ⟨h1, he⟩
    rw [h1, he] at hp
    simp at hp
  simp only [State.unpin, hh, if_neg pinned, if_neg goes_on]
  rfl

/-- The last pin lets the eviction that waited for it go on. -/
theorem unpin_last (hp : h.pins = 1) (he : h.evictPending = true) :
    s.unpin id = (s.modHome id Home.unpinned).resumeEviction { h with pins := 0 } := by
  simp only [State.unpin, hh, hp, he, and_self, if_true, if_neg Nat.one_ne_zero]
  rfl

/-- A pin on the old home is one fewer, and others remain. -/
theorem unpinOld_stays (hp : 1 < h.oldPins) : s.unpinOld id = s.modHome id fun h => { h with oldPins := h.oldPins - 1 } := by
  have pinned : h.oldPins ≠ 0 := by omega
  have more : h.oldPins ≠ 1 := by omega
  simp only [State.unpinOld, hh, if_neg pinned, if_neg more]

/-- The copy of a sealed object that no reader has pinned goes at once. -/
theorem releaseCopy_unpinned (hc : h.hbmCopy = true) (hp : h.pins = 0) : (s.releaseCopy id).home? id =
    some { h with evictPending := false, hbmCopy := false, addr := 0, charged := 0 } := by
  have released : s.releaseCopy id =
      (s.freeHome h).modHome id fun h => { h with evictPending := false, hbmCopy := false, addr := 0, charged := 0 } := by
    simp [State.releaseCopy, hh, hc, hp]
  rw [released]
  exact home_modHome ((home_congr (freeHome_homes s h) id).trans hh) (fun _ => rfl) fun _ => rfl

end

/-! ### Automatic eviction (R175, R253) -/

theorem mem_evictable {s : State} {h : Home} (hm : h ∈ s.evictable) : h.Still ∧ h.tier = .hbm ∧ h.pins = 0 ∧ h.damaged = false := by
  have cand : h ∈ s.tiers.homes.filter fun h => objKind h.objId == 5 && !h.gone && !h.guest && decide (h.tier = .hbm) && h.pins == 0
      && !h.inMotion && !h.evictPending && !h.damaged && h.oldPins == 0 := by
    obtain hm | hm := List.mem_append.1 hm
    · exact (List.mem_filter.1 hm).1
    · obtain ⟨id, -, hf⟩ := List.mem_filterMap.1 hm
      exact List.mem_of_find?_eq_some hf
  have conds := (List.mem_filter.1 cand).2
  simp only [Bool.and_eq_true, Bool.not_eq_true', decide_eq_true_eq, beq_iff_eq] at conds
  obtain ⟨⟨⟨⟨⟨⟨-, ht⟩, hp⟩, hi⟩, he⟩, hd⟩, ho⟩ := conds
  exact ⟨⟨hi, ho, he⟩, ht, hp, hd⟩

/-- At 95 % or below, or after SHUTDOWN, no block is evicted. -/
theorem automaticEviction_ignored {s : State} (h : 100 * s.tiers.held.table ≤ 95 * s.tiers.budget.table ∨ s.sasel.shutdown = true) :
    Ignores .automaticEviction s := by
  refine congrArg Host.Outcome.next (if_neg ?_)
  rintro ⟨above, running, -⟩
  obtain h | h := h
  · exact Nat.not_lt.2 h above
  · rw [h] at running
    exact Bool.noConfusion running

/-- Above it, the one block that may be evicted is asked to move to flash. -/
theorem automaticEviction_one {s : State} {h : Home} (ha : 95 * s.tiers.budget.table < 100 * s.tiers.held.table)
    (hs : s.sasel.shutdown = false) (hf : s.power.flush = none) (he : s.evictable = [h]) :
    exec .automaticEviction s = .next (s.requestMove h.objId .flash 0 none) := by
  have calm : s.flushing = false := by simp [State.flushing, hf]
  have need : s.tiers.held.table - 90 * s.tiers.budget.table / 100 ≠ 0 := by omega
  refine congrArg Host.Outcome.next ((if_pos ⟨ha, hs, calm⟩).trans ?_)
  rw [he, takeBytes, if_neg need]
  rfl

end Sys2Proof.Machine
end

section
/-! PROOFS. Pools, moves, flips, pins and evictions as O32 states them (O32). -/

namespace Sys2Proof.Machine

open Sys2Proof

/-- SET_POOLS, by its statuses. -/
theorem setPools_outcomes {s : State} {sid : Nat} {u : Sub} (h : Begins s sid 0xE4 u) :
    let p := poolsOf u.entry.arg0
    (p.model + p.index + p.table + p.graft = 960 * 2 ^ 30 → s.tiers.held.model ≤ p.model → s.tiers.held.index ≤ p.index →
        s.tiers.held.table ≤ p.table → s.tiers.held.graft ≤ p.graft →
        exec (.setPools sid) s = .next (({ s with tiers := { s.tiers with budget := p } } : State).finish sid (okResult u 0 0)))
      ∧ (p.model + p.index + p.table + p.graft ≠ 960 * 2 ^ 30 → exec (.setPools sid) s = .next (s.finish sid { status := .badField }))
      ∧ (p.model + p.index + p.table + p.graft = 960 * 2 ^ 30 → p.table < s.tiers.held.table →
        exec (.setPools sid) s = .next (s.finish sid { status := .noResource })) := by
  intro p
  rw [setPools_begins h]
  refine ⟨fun hsum hm hi ht hg => ?_, fun hsum => ?_, fun hsum ht => ?_⟩
  · rw [settle_begins h (poolErrs_nil hsum hm hi ht hg), completeOk_begins h]
    rfl
  · rw [settle_refuses_badField h (by decide) (badField_mem_poolErrs s hsum)]
  · rw [settle_refuses h (by decide) (by rw [poolErrs_short hsum ht]; exact List.cons_ne_nil _ _), poolErrs_short hsum ht]
    rfl

section
variable {s : State} {sid : Nat} {u : Sub} {h : Home} (hb : Begins s sid 0x60 u) (hk : objKind u.entry.arg0 = 5)
  (hh : s.home? u.entry.arg0 = some h) (hd : h.damaged = false) (hs : h.Still) (hw : ∀ m ∈ s.tiers.moves, m.objId ≠ u.entry.arg0)
include hb hk hh hd hs hw

/-- A block that is at its tier already. -/
theorem moveObject_there (hr : ∀ m ∈ s.tiers.running, m.objId ≠ u.entry.arg0) (hc : u.entry.arg1 = 1) (ht : h.tier = .hbm) :
    Gives (.moveObject sid) s fun t => EndsWith t sid u (okResult u 0 0) := by
  obtain ⟨hsub, -, hdue, -⟩ := hb.1
  have there := startMove_there (s := s.moveBegun sid u.entry.arg0 .hbm) hh hd (by rw [ht]; decide) 0 true
  rw [ht] at there
  refine ⟨_, moveObject_starts hb hk hh hd hs (.inl (by rw [hc]; rfl)) (tier := .hbm) (by rw [hc]; rfl), ?_⟩
  rw [there, nextMove_idle (by rw [endMove_moves]; exact hw)]
  exact endMove_ok_endsWith (movers_addRunning (s := s.start sid) hr ..) (sub_moveBegun hsub ..) hdue

/-- A move to HBM allocates its place and copies. -/
theorem moveObject_copies (hc : u.entry.arg1 = 1) (ht : h.tier = .flash) {a : Nat} {s' : State}
    (ha : s.allocHbm (poolOf u.entry.arg0) h.bytes u.entry.arg0 = some (a, s')) : Gives (.moveObject sid) s fun t =>
      (t.home? u.entry.arg0).map (fun x => (x.inMotion, x.destTier, x.dest, x.tier)) = some (true, .hbm, BitVec.ofNat 64 a, .flash)
        ∧ (t.sub? sid).map (fun v => (v.running, v.due)) = some (true, none) := by
  obtain ⟨hsub, -, hdue, -⟩ := hb.1
  have name := home_objId hh
  obtain ⟨s2, placed⟩ := allocHbm_congr (s := s) (t := s.moveBegun sid u.entry.arg0 .hbm) rfl rfl ha
  have frame := allocHbm_frame placed
  have there : s2.home? u.entry.arg0 = some h := by rw [frame]; exact hh
  have running : s2.sub? sid = some { u with running := true } := by rw [frame]; exact sub_moveBegun hsub u.entry.arg0 .hbm
  have waiting : s2.tiers.moves = s.tiers.moves := by rw [frame]; rfl
  have copies := startCopy_hbm (s := s.moveBegun sid u.entry.arg0 .hbm) (h := h) (by rw [ht]; decide) (by rw [name]; exact placed)
  rw [name] at copies
  refine ⟨_, moveObject_starts hb hk hh hd hs (.inl (by rw [hc]; rfl)) (tier := .hbm) (by rw [hc]; rfl), ?_⟩
  rw [startMove_copies (s := s.moveBegun sid u.entry.arg0 .hbm) (tier := .hbm) hh hd (by rw [ht]; decide) nofun, copies,
    nextMove_modHome_idle fun m hm => hw m (waiting ▸ hm)]
  constructor
  · rw [home_modHome there, Option.map_some, ht] <;> intros <;> rfl
  · show (s2.sub? sid).map _ = _
    rw [running, ← hdue]
    rfl

/-- A move to flash of a pinned block waits for its pins. -/
theorem moveObject_pinned (hc : u.entry.arg1 = 2) (ht : h.tier = .hbm) (hp : 0 < h.pins) : Gives (.moveObject sid) s fun t =>
    (t.home? u.entry.arg0).map (fun x => (x.evictPending, x.isExplicit, x.inMotion)) = some (true, true, false) := by
  refine ⟨_, moveObject_starts hb hk hh hd hs (.inr (by rw [hc]; rfl)) (tier := .flash) (by rw [hc]; rfl), ?_⟩
  rw [startMove_pinned (s := s.moveBegun sid u.entry.arg0 .flash) hh hd (by rw [ht]; decide) hp,
    nextMove_modHome_idle (s := s.moveBegun sid u.entry.arg0 .flash) hw]
  show ((State.modHome ..).home? u.entry.arg0).map _ = _
  rw [home_modHome (s := s.moveBegun sid u.entry.arg0 .flash) hh, Option.map_some, hs.1] <;> intros <;> rfl

end

section
variable {s : State} {id : W64} {h : Home} (hh : s.home? id = some h)
include hh

theorem moveFlip_pinned (hm : h.inMotion = true) (ht : h.tier = .flash) (hd : h.destTier = .hbm) (hw : ∀ w ∈ s.tiers.writes, w.objId ≠ id)
    (hp : 0 < h.pins) : Gives (.moveFlip id) s fun t =>
      t.home? id = some { h with addr := h.dest, dest := h.addr, tier := .hbm, destTier := .flash, oldPins := h.pins, pins := 0
                                 version := h.version + 1, inMotion := false, isExplicit := false }
        ∧ ∀ m ∈ t.tiers.running, m.objId ≠ id := by
  refine ⟨_, moveFlip_moves hh hm (by rw [hd]; decide) (by rw [ht]; decide), ?_⟩
  rw [flip_pinned hh hp hw]
  refine ⟨?_, endMove_running _ _ _⟩
  rw [endMove_home, home_flipped hh, Home.flipped, ht, hd]

theorem moveAbandon_stays (hm : h.inMotion = true) (ht : h.tier = .flash) (hd : h.destTier = .hbm) (hg : h.guest = false)
    (hw : ∀ w ∈ s.tiers.writes, w.objId ≠ id) (hn : ∀ m ∈ s.tiers.moves, m.objId ≠ id) : Gives (.moveAbandon id .mediaError) s fun t =>
      t.home? id = some { h with inMotion := false, isExplicit := false, dest := 0, destTier := .flash }
        ∧ ∀ m ∈ t.tiers.running, m.objId ≠ id := by
  have homes : (s.freeHbm (poolOf h.objId) h.dest.toNat h.objId).tiers.homes = s.tiers.homes :=
    freeHbm_keeps (·.tiers.homes) (fun _ _ _ _ _ => rfl) ..
  refine ⟨_, moveAbandon_mediaError hh hg, ?_⟩
  rw [abandonMove_hbm hh .mediaError hm (by rw [ht]; decide) hd hw hn]
  refine ⟨?_, endMove_running _ _ _⟩
  rw [endMove_home, home_stayed ((home_congr homes id).trans hh), Home.stayed, ht]

/-- The last pin on the copy of a sealed object lets the copy go. -/
theorem pinRelease_last_sealed (hp : h.pins = 1) (he : h.evictPending = true) (hs : h.sealedObj = true) (hc : h.hbmCopy = true) :
    Gives (.pinRelease id false) s fun t => (t.home? id).map (fun x => (x.hbmCopy, x.evictPending, x.pins)) = some (false, false, 0) := by
  have unpinned : (s.modHome id Home.unpinned).home? id = some h.unpinned := home_modHome hh (fun _ => rfl) fun _ => rfl
  have none_left : h.unpinned.pins = 0 := by rw [Home.unpinned, hp]
  have resumed : (s.modHome id Home.unpinned).resumeEviction { h with pins := 0 } = (s.modHome id Home.unpinned).releaseCopy id := by
    rw [← home_objId hh]
    exact if_pos hs
  refine ⟨_, rfl, ?_⟩
  show ((s.unpin id).home? id).map _ = _
  rw [unpin_last hh hp he, resumed, releaseCopy_unpinned unpinned hc none_left, Option.map_some, none_left]

end

/-- The one block that may be evicted, with room and channels in service, is copied to flash. -/
theorem automaticEviction_copies {s : State} {h : Home} (ha : 95 * s.tiers.budget.table < 100 * s.tiers.held.table)
    (hs : s.sasel.shutdown = false) (hf : s.power.flush = none) (hl : s.eol < 2) (he : s.evictable = [h]) (hh : s.home? h.objId = some h)
    (hw : ∀ m ∈ s.tiers.moves, m.objId ≠ h.objId) (hr : ∀ m ∈ s.tiers.running, m.objId ≠ h.objId)
    (ho : ∀ c ∈ objectChannels h.objId false (extentsOf h.bytes), s.channelOut c = false)
    (hc : s.capacityOk (objectChannels h.objId false (extentsOf h.bytes)) = true) :
    Gives .automaticEviction s fun t => (t.home? h.objId).map (fun x => (x.inMotion, x.destTier)) = some (true, .flash) := by
  obtain ⟨still, ht, hp, hd⟩ := mem_evictable (by rw [he]; exact List.mem_singleton_self h)
  have tiers : ((s.addRunning h.objId .flash none).storeObj h.objId false (extentsOf h.bytes) (s.homeBytes h.objId)).tiers
      = (s.addRunning h.objId .flash none).tiers := storeObj_keeps (·.tiers) (fun _ _ _ => rfl) ..
  have there := (home_congr (s := s) (by rw [tiers]; rfl) h.objId).trans hh
  refine ⟨_, automaticEviction_one ha hs hf he, ?_⟩
  rw [requestMove_starts hh still, startMove_copies (s := s.addRunning h.objId .flash none) hh hd (by rw [ht]; decide) (fun _ => hp),
    startCopy_flash hr hl ho hc, nextMove_modHome_idle (by rw [tiers]; exact hw)]
  show ((State.modHome ..).home? h.objId).map _ = _
  rw [home_modHome there, Option.map_some] <;> intros <;> rfl

/-- Settles O32: each event by what it does to the entry of its object.  The move that follows is none where no request waits, and the
copies to HBM and to flash leave every entry but that of the object. -/
theorem tierMoves : Obligations.TierMoves := by
  refine ⟨fun s sid u h => setPools_outcomes h, fun s sid u h hb hk hh hd hw hr => ?moves,
    fun s obj h hh hm _ ht hdt _ hg hw => ⟨moveFlip_pinned hh hm ht hdt hw, moveAbandon_stays hh hm ht hdt hg hw⟩,
    fun s obj h hh => ⟨fun hp => ?pin, fun hp => ?oldPin, pinRelease_last_sealed hh⟩,
    fun s => ⟨automaticEviction_ignored, fun h ha hs hf hl he hh hw hr ho hc => automaticEviction_copies ha hs hf hl he hh hw hr ho hc⟩⟩
  case moves =>
    refine ⟨fun hc hs ht => moveObject_there hb hk hh hd hs hw hr hc ht, fun hc hs ht a s' ha => moveObject_copies hb hk hh hd hs hw hc ht ha,
      fun hc hs ht hp => moveObject_pinned hb hk hh hd hs hw hc ht hp, fun hc hm hn => ⟨_, moveObject_begins hb hk hh hd (.inr (by rw [hc]; rfl)), ?_⟩⟩
    rw [hc]
    exact requestMove_waits (s := s.start sid) hh hm hn ..
  case pin =>
    refine ⟨_, congrArg Host.Outcome.next (unpin_stays hh hp), home_modHome hh (fun _ => rfl) fun _ => rfl, rfl⟩
  case oldPin =>
    refine ⟨_, congrArg Host.Outcome.next (unpinOld_stays hh hp), home_modHome hh (fun _ => rfl) fun _ => rfl, rfl⟩

end Sys2Proof.Machine
end

section
/-! PROOFS. What leaves for other members, writes to flash and updates of rows: which parts of the sled they leave as they are
(chapters 8, 9, 10 and 14). -/

namespace Sys2Proof.Machine

open Sys2Proof

/-! ### Messages to other members (R343, R344) -/

section
variable {α : Type} (f : State → α)
  (hf : ∀ (s : State) (tx : List TxFlow) (stats : List (List W64)) (out : List Out) (frames : List TxFrame) (held : List Out) (conns : List Conn),
    f { s with fabric := { s.fabric with tx := tx, portStats := stats }, out := out, frames := frames, txHeld := held
               hp := { s.hp with conns := conns } } = f s)
include hf

/-! `f` is a part of the sled outside what leaves it, such as the jobs, the submissions or the sled's own rank. -/

theorem emit_keeps (s : State) (o : Out) : f (s.emit o) = f s := by
  rw [emit_frame]
  exact hf s s.fabric.tx s.fabric.portStats _ _ _ _

theorem setTx_keeps (s : State) (x : TxFlow) : f (s.setTx x) = f s := hf s _ s.fabric.portStats s.out s.frames s.txHeld s.hp.conns

theorem sendPacket_keeps (s : State) (b k c : Nat) (psn : W32) (x y : Bool) (p : Buf) : f (s.sendPacket b k c psn x y p) = f s := by
  unfold State.sendPacket
  split
  · rfl
  · exact (emit_keeps f hf _ _).trans (hf s s.fabric.tx _ s.out s.frames s.txHeld s.hp.conns)

theorem pumpN_keeps (b c : Nat) : ∀ (n : Nat) (s : State), f (State.pumpN n s b c) = f s
  | 0, _ => rfl
  | n + 1, s => by
    unfold State.pumpN
    dsimp only
    split
    · rfl
    · split
      · exact (pumpN_keeps b c n _).trans ((sendPacket_keeps f hf ..).trans (setTx_keeps f hf s _))
      · rfl

theorem sendMsg_keeps (s : State) (b : Nat) (kind : Msg) (values : List Nat) : f (s.sendMsg b kind values) = f s :=
  (pumpN_keeps f hf b kind.cls 64 _).trans ((setTx_keeps f hf _ _).trans (emit_keeps f hf s _))

theorem sendAll_keeps (s : State) (kind : Msg) (values : List Nat) : f (s.sendAll kind values) = f s :=
  foldl_keeps f (fun s b => sendMsg_keeps f hf s b kind values) _ s

end

@[simp] theorem sendMsg_grafts (s : State) (b : Nat) (k : Msg) (v : List Nat) : (s.sendMsg b k v).grafts = s.grafts :=
  sendMsg_keeps (·.grafts) (fun _ _ _ _ _ _ _ => rfl) s b k v
@[simp] theorem sendAll_grafts (s : State) (k : Msg) (v : List Nat) : (s.sendAll k v).grafts = s.grafts :=
  sendAll_keeps (·.grafts) (fun _ _ _ _ _ _ _ => rfl) s k v
@[simp] theorem sendAll_tables (s : State) (k : Msg) (v : List Nat) : (s.sendAll k v).tables = s.tables :=
  sendAll_keeps (·.tables) (fun _ _ _ _ _ _ _ => rfl) s k v
@[simp] theorem sendAll_ownRank (s : State) (k : Msg) (v : List Nat) : (s.sendAll k v).ownRank = s.ownRank :=
  sendAll_keeps (·.ownRank) (fun _ _ _ _ _ _ _ => rfl) s k v
@[simp] theorem sendAll_sub (s : State) (k : Msg) (v : List Nat) (sid : Nat) : (s.sendAll k v).sub? sid = s.sub? sid :=
  sendAll_keeps (·.sub? sid) (fun _ _ _ _ _ _ _ => rfl) s k v

/-! ### Extents that are unmapped (R249) -/

theorem eraseExtents_keeps {α : Type} (f : State → α)
    (hf : ∀ (s : State) (fl : Flash) (ms : Mems), f { s with flash := fl, mems := ms } = f s) (s : State) (id : W64) (es : List Nat) :
    f (s.eraseExtents id es) = f s :=
  (foldl_keeps f (fun s _ => mapDrop_keeps f hf s _ _) _ _).trans (foldl_keeps f (fun s _ => putPage_keeps f hf s _ _) _ s)

/-! ### Rows that are written without an answer (R172, R197, R223) -/

section
variable {w : WaitingWrite} (hw : w.origin = none)
include hw

theorem noteWrite_unasked (s : State) (own : Nat) (ok : Bool) : s.noteWrite w own ok = s := by
  simp only [State.noteWrite, hw]

theorem applyWrite_grafts (s : State) (own : Nat) : (s.applyWrite w own).grafts = s.grafts := by
  unfold State.applyWrite
  simp only [noteWrite_unasked hw]
  split
  · split
    · rfl
    · split
      · exact storeExtents_keeps (·.grafts) (fun _ _ _ => rfl) ..
      · rfl
  · rfl

theorem writeHome_grafts (s : State) (own : Nat) : (s.writeHome w own).grafts = s.grafts := by
  unfold State.writeHome
  split
  · split
    · rfl
    · exact applyWrite_grafts hw s own
  · exact applyWrite_grafts hw s own

end

theorem sendRow_grafts (s : State) (t : Table) (row : Nat) (replace : Bool) (payload : Buf) :
    (s.sendRow t row replace payload).grafts = s.grafts := by
  unfold State.sendRow
  dsimp only
  split
  · exact writeHome_grafts rfl s _
  · exact sendMsg_grafts ..

theorem applyBucket_grafts (s : State) (g : Graft) (t : Table) (b : List Nat × Nat) : (s.applyBucket g t b).grafts = s.grafts :=
  foldl_keeps (·.grafts) (fun s _ => sendRow_grafts s _ _ _ _) _ s

end Sys2Proof.Machine
end

section
/-! PROOFS. Feedback logs (R208, R321): what their four commands do (O57). -/

namespace Sys2Proof.Machine

open Sys2Proof

/-! ### The statuses that a command ends with (R320) -/

section
variable {s : State} {sid op : Nat} {u : Sub} (h : Begins s sid op u)
include h

/-- It ends with the first of its own statuses, when none of them comes before that. -/
theorem settle_refuses_first (ho : op ≠ 0x10) {st : Status} {l : List Status} (hl : ∀ x ∈ l, st.rank ≤ x.rank) (effect : State → State) :
    s.settle u (st :: l) effect = s.finish sid { status := st } := by
  rw [settle_refuses h ho (List.cons_ne_nil st l), firstStatus_cons hl]

/-- A single status of its own. -/
theorem settle_refuses_one (ho : op ≠ 0x10) (st : Status) (effect : State → State) : s.settle u [st] effect = s.finish sid { status := st } :=
  settle_refuses_first h ho (fun _ hx => absurd hx List.not_mem_nil) effect

end

/-! ### A log of the list -/

/-- A log that is changed is in the list as changed. -/
theorem mem_modLog {s : State} {l : Log} (hl : l ∈ s.grafts.logs) (f : Log → Log) : f l ∈ (s.modLog l.index f).grafts.logs :=
  (mem_updWhere ..).2 ⟨l, hl, by rw [if_pos (beq_self_eq_true _)]⟩

/-- Its records are in the list once they are stored. -/
theorem mem_appendLog {s : State} {l : Log} (hl : l ∈ s.grafts.logs) (recs : List Buf) :
    { l with records := l.records ++ recs } ∈ (s.appendLog l recs).grafts.logs :=
  mem_modLog (s := State.storeExtents ..) ((congrArg Grafts.logs (storeExtents_keeps (·.grafts) (fun _ _ _ => rfl) ..)).symm ▸ hl) _

theorem removeLog_grafts (s : State) (l : Log) : (s.removeLog l).grafts =
    { s.grafts with logs := s.grafts.logs.filter (fun x => !(x.index == l.index)), logGens := bumpGen s.grafts.logGens l.index } := by
  have erased := eraseObj_keeps (·.grafts) (fun _ _ _ => rfl) s (logObj l.index)
  simp only [State.removeLog, State.modGrafts, erased]

theorem removeLog_sub (s : State) (l : Log) (sid : Nat) : (s.removeLog l).sub? sid = s.sub? sid :=
  eraseObj_keeps (·.sub? sid) (fun _ _ _ => rfl) s (logObj l.index)

/-! ### CREATE_LOG -/

/-- The statuses of a CREATE_LOG with records of `n` bytes. -/
def State.createLogErrs (s : State) (n : Nat) : List Status :=
  when (decide (n < 64) || decide (4096 < n) || decide (n % 64 ≠ 0)) .badField
    ++ when (lowestFree (s.grafts.logs.map (·.index)) 4096).isNone .noResource

/-- A log under index `i` is there on this rank, the other ranks are told, and its handle is the result. -/
def State.createLogAt (s : State) (u : Sub) (i n : Nat) : State :=
  let gen := genFor s.grafts.logGens i
  ((s.addLog i gen u.client n).sendAll .newLog [i, gen, u.client, n]).complete u (BitVec.ofNat 64 (mkHandle gen kindLog i).toNat) 0

theorem createLogErrs_badField (s : State) {n : Nat} (hn : n < 64 ∨ 4096 < n ∨ n % 64 ≠ 0) : .badField ∈ s.createLogErrs n :=
  List.mem_append_left _ (by rw [when, if_pos (by simpa [or_assoc] using hn)]; exact List.mem_singleton_self _)

/-- With records of a size that a log may have, only a free index can be missing. -/
theorem createLogErrs_sized (s : State) {n : Nat} (hl : 64 ≤ n) (hu : n ≤ 4096) (hm : n % 64 = 0) :
    s.createLogErrs n = when (lowestFree (s.grafts.logs.map (·.index)) 4096).isNone .noResource := by
  have sized : (decide (n < 64) || decide (4096 < n) || decide (n % 64 ≠ 0)) = false := by simp [Nat.not_lt.2 hl, Nat.not_lt.2 hu, hm]
  rw [State.createLogErrs, sized]
  rfl

section
variable {s : State} {sid : Nat} {u : Sub} (h : Begins s sid 0x40 u)
include h

theorem createLog_begins : exec (.createLog sid) s = .next (s.settle u (s.createLogErrs u.entry.arg0.toNat) fun t =>
    t.createLogAt u ((lowestFree (s.grafts.logs.map (·.index)) 4096).getD 0) u.entry.arg0.toNat) :=
  congrArg Host.Outcome.next (run_waits _ h.1)

theorem createLog_ok {i : Nat} (hl : 64 ≤ u.entry.arg0.toNat) (hu : u.entry.arg0.toNat ≤ 4096) (hm : u.entry.arg0.toNat % 64 = 0)
    (hi : lowestFree (s.grafts.logs.map (·.index)) 4096 = some i) :
    exec (.createLog sid) s = .next (s.createLogAt u i u.entry.arg0.toNat) := by
  rw [createLog_begins h, settle_begins h (by rw [createLogErrs_sized s hl hu hm, hi]; rfl), hi, Option.getD_some]

theorem createLog_malformed (hn : u.entry.arg0.toNat < 64 ∨ 4096 < u.entry.arg0.toNat ∨ u.entry.arg0.toNat % 64 ≠ 0) :
    exec (.createLog sid) s = .next (s.finish sid { status := .badField }) := by
  rw [createLog_begins h, settle_refuses_badField h (by decide) (createLogErrs_badField s hn)]

theorem createLog_full (hl : 64 ≤ u.entry.arg0.toNat) (hu : u.entry.arg0.toNat ≤ 4096) (hm : u.entry.arg0.toNat % 64 = 0)
    (hi : lowestFree (s.grafts.logs.map (·.index)) 4096 = none) :
    exec (.createLog sid) s = .next (s.finish sid { status := .noResource }) := by
  have errs : s.createLogErrs u.entry.arg0.toNat = [.noResource] := by rw [createLogErrs_sized s hl hu hm, hi]; rfl
  rw [createLog_begins h, errs, settle_refuses_one h (by decide)]

end

/-! ### A log that is not there -/

section
variable {s : State} {sid : Nat} {u : Sub} (hl : s.log? u.entry.handleA = none)
include hl

theorem appendLog_stale {b : Option Buf} (f : Option Nat) (h : Begins s sid 0x41 u) (hb : (u.readB b).isSome = true) :
    exec (.appendLog sid b f) s = .next (s.finish sid { status := .staleHandle }) := by
  obtain ⟨buf, hb⟩ := Option.isSome_iff_exists.1 hb
  refine congrArg Host.Outcome.next ((run_withB h hb _).trans ?_)
  simp only [hl, settle_refuses_one h (by decide : (0x41 : Nat) ≠ 0x10)]

theorem trimLog_stale (h : Begins s sid 0x42 u) : exec (.trimLog sid) s = .next (s.finish sid { status := .staleHandle }) := by
  refine congrArg Host.Outcome.next ((run_waits _ h.1).trans ?_)
  simp only [hl, settle_refuses_one h (by decide : (0x42 : Nat) ≠ 0x10)]

theorem deleteLog_stale (h : Begins s sid 0x43 u) : exec (.deleteLog sid) s = .next (s.finish sid { status := .staleHandle }) := by
  refine congrArg Host.Outcome.next ((run_waits _ h.1).trans ?_)
  simp only [hl, settle_refuses_one h (by decide : (0x43 : Nat) ≠ 0x10)]

end

/-! ### APPEND_LOG -/

/-- The extents that `n` bytes more of a log touch. -/
def Log.touched (l : Log) (n : Nat) : List Nat :=
  logExtents ((l.first + l.records.length) * l.recordBytes) (n / l.recordBytes * l.recordBytes)

/-- There is room for them. -/
def State.logRoomFor (s : State) (sid : Nat) (l : Log) (n : Nat) : Bool :=
  s.capacityFor (some sid) ((s.freshExtents (logObj l.index) false (l.touched n)).map (·.1))

/-- One of them lies on a channel out of service. -/
def State.logChannelOut (s : State) (l : Log) (n : Nat) : Bool := (l.touched n).any fun e => s.channelOut (channelOf (logObj l.index) false e)

/-- The statuses of an APPEND_LOG of `n` bytes. -/
def State.appendLogErrs (s : State) (sid : Nat) (l : Log) (n : Nat) (failAt : Option Nat) : List Status :=
  when (decide (n % l.recordBytes ≠ 0)) .badField ++ when (!s.logRoomFor sid l n) .noResource
    ++ when (failAt.isNone && s.logChannelOut l n) .mediaError

/-- Of `n` records those before the first that fails. -/
def recordsKept (failAt : Option Nat) (n : Nat) : Nat := match failAt with | some k => min k n | none => n

/-- The records that it appends. -/
def Log.cut (l : Log) (buf : Buf) (k : Nat) : List Buf := (List.range k).map fun i => Buf.slice buf (l.recordBytes * i) l.recordBytes

section
variable {s : State} {sid : Nat} {u : Sub} {l : Log} {b : Option Buf} {f : Option Nat} (h : Begins s sid 0x41 u)
  (hl : s.log? u.entry.handleA = some l)
include h hl

theorem appendLog_begins {buf : Buf} (hb : u.readB b = some buf) : exec (.appendLog sid b f) s =
    .next (s.settle u (s.appendLogErrs sid l u.entry.length.toNat f) fun t =>
      let n := u.entry.length.toNat / l.recordBytes
      let k := recordsKept f n
      (t.appendLog l (l.cut buf k)).finish sid
        { status := if k < n then .mediaError else .ok, flags := { writeThrottled := u.throttled }
          result0 := BitVec.ofNat 64 (l.first + l.records.length), result1 := BitVec.ofNat 64 k }) := by
  refine congrArg Host.Outcome.next ((run_withB h hb _).trans ?_)
  simp only [hl, begins_sid h]
  rfl

variable (hb : (u.readB b).isSome = true)
include hb

theorem appendLog_broken (hn : u.entry.length.toNat % l.recordBytes ≠ 0) :
    exec (.appendLog sid b f) s = .next (s.finish sid { status := .badField }) := by
  obtain ⟨buf, hb⟩ := Option.isSome_iff_exists.1 hb
  have bad : .badField ∈ s.appendLogErrs sid l u.entry.length.toNat f := by simp [State.appendLogErrs, when, hn]
  rw [appendLog_begins h hl hb, settle_refuses_badField h (by decide) bad]

theorem appendLog_full (hn : u.entry.length.toNat % l.recordBytes = 0) (hr : s.logRoomFor sid l u.entry.length.toNat = false) :
    exec (.appendLog sid b f) s = .next (s.finish sid { status := .noResource }) := by
  obtain ⟨buf, hb⟩ := Option.isSome_iff_exists.1 hb
  have errs : s.appendLogErrs sid l u.entry.length.toNat f =
      .noResource :: when (f.isNone && s.logChannelOut l u.entry.length.toNat) .mediaError := by
    simp [State.appendLogErrs, when, hn, hr]
  rw [appendLog_begins h hl hb, errs, settle_refuses_first h (by decide) fun x hx => by rw [mem_when hx]; decide]

theorem appendLog_unserved (hn : u.entry.length.toNat % l.recordBytes = 0) (hr : s.logRoomFor sid l u.entry.length.toNat = true)
    (hf : f = none) (ho : s.logChannelOut l u.entry.length.toNat = true) :
    exec (.appendLog sid b f) s = .next (s.finish sid { status := .mediaError }) := by
  obtain ⟨buf, hb⟩ := Option.isSome_iff_exists.1 hb
  have errs : s.appendLogErrs sid l u.entry.length.toNat f = [.mediaError] := by simp [State.appendLogErrs, when, hn, hr, hf, ho]
  rw [appendLog_begins h hl hb, errs, settle_refuses_one h (by decide)]

end

/-- With room, and no channel out of service but where the failing record is named, it has no status of its own. -/
theorem appendLogErrs_nil {s : State} {sid : Nat} {l : Log} {n : Nat} {f : Option Nat} (hn : n % l.recordBytes = 0)
    (hr : s.logRoomFor sid l n = true) (ho : f.isSome = true ∨ s.logChannelOut l n = false) : s.appendLogErrs sid l n f = [] := by
  obtain hf | ho := ho
  · simp [State.appendLogErrs, when, hn, hr, Option.isSome_iff_ne_none.1 hf]
  · simp [State.appendLogErrs, when, hn, hr, ho]

/-! ### TRIM_LOG -/

/-- The record up to which a TRIM_LOG below `n` discards: no job that names the log may still read one before it. -/
def State.trimTo (s : State) (l : Log) (n : Nat) : Nat :=
  (s.grafts.list.filter fun g => g.desc.log == l.handle).foldl (fun m g => min m g.keepFrom) (min n (l.first + l.records.length))

theorem foldl_keepFrom_le : ∀ (gs : List Graft) (m : Nat), gs.foldl (fun m g => min m g.keepFrom) m ≤ m
  | [], _ => Nat.le_refl _
  | g :: gs, m => Nat.le_trans (foldl_keepFrom_le gs _) (Nat.min_le_left m g.keepFrom)

theorem foldl_keepFrom_le_mem {g : Graft} : ∀ {gs : List Graft} (m : Nat), g ∈ gs → gs.foldl (fun m g => min m g.keepFrom) m ≤ g.keepFrom
  | x :: gs, m, hg => by
    rw [List.foldl_cons]
    rcases List.mem_cons.1 hg with rfl | hg
    · exact Nat.le_trans (foldl_keepFrom_le gs _) (Nat.min_le_right m g.keepFrom)
    · exact foldl_keepFrom_le_mem _ hg

theorem trimTo_le (s : State) (l : Log) (n : Nat) : s.trimTo l n ≤ min n (l.first + l.records.length) := foldl_keepFrom_le _ _

theorem trimTo_le_keepFrom {s : State} {l : Log} {g : Graft} (hg : g ∈ s.grafts.list) (hn : g.desc.log = l.handle) (n : Nat) :
    s.trimTo l n ≤ g.keepFrom := foldl_keepFrom_le_mem _ (List.mem_filter.2 ⟨hg, by rw [hn]; exact beq_self_eq_true _⟩)

/-- A log without its first `k` records. -/
def Log.without (k : Nat) (l : Log) : Log := { l with first := l.first + k, records := l.records.drop k }

/-- Its first `k` records go, with the extents that hold none any more. -/
def State.dropRecords (s : State) (l : Log) (k : Nat) : State :=
  let left := logExtents ((l.first + k) * l.recordBytes) ((l.records.length - k) * l.recordBytes)
  let all := logExtents (l.first * l.recordBytes) (l.records.length * l.recordBytes)
  (s.eraseExtents (logObj l.index) (all.filter fun e => !left.contains e)).modLog l.index (Log.without k)

theorem mem_dropRecords {s : State} {l : Log} (hl : l ∈ s.grafts.logs) (k : Nat) : l.without k ∈ (s.dropRecords l k).grafts.logs :=
  mem_modLog (s := State.eraseExtents ..) ((congrArg Grafts.logs (eraseExtents_keeps (·.grafts) (fun _ _ _ => rfl) ..)).symm ▸ hl) _

theorem dropRecords_sub (s : State) (l : Log) (k sid : Nat) : (s.dropRecords l k).sub? sid = s.sub? sid :=
  eraseExtents_keeps (·.sub? sid) (fun _ _ _ => rfl) s (logObj l.index) _

theorem trimLog_begins {s : State} {sid : Nat} {u : Sub} {l : Log} (h : Begins s sid 0x42 u) (hl : s.log? u.entry.handleA = some l) :
    let k := s.trimTo l u.entry.arg0.toNat - l.first
    exec (.trimLog sid) s = .next ((s.dropRecords l k).finish sid (okResult u (BitVec.ofNat 64 k) 0)) := by
  refine congrArg Host.Outcome.next ((run_waits _ h.1).trans ?_)
  simp only [hl, settle_begins h rfl, complete_begins h]
  rfl

/-- TRIM_LOG as O57 states it. -/
theorem trimLog_discards {s : State} {sid : Nat} {u : Sub} {l : Log} (h : Begins s sid 0x42 u) (hl : s.log? u.entry.handleA = some l)
    (hm : l ∈ s.grafts.logs) : Gives (.trimLog sid) s fun t =>
      ∃ y, y.index = l.index ∧ y ∈ t.grafts.logs ∧ l.first ≤ y.first
        ∧ y.first ≤ max l.first (min u.entry.arg0.toNat (l.first + l.records.length))
        ∧ (∀ g ∈ s.grafts.list, g.desc.log = l.handle → y.first ≤ max l.first g.keepFrom)
        ∧ y.records = l.records.drop (y.first - l.first)
        ∧ EndsWith t sid u (okResult u (BitVec.ofNat 64 (y.first - l.first)) 0) := by
  obtain ⟨⟨hs, -, hd, -⟩, -⟩ := id h
  have first : (l.without (s.trimTo l u.entry.arg0.toNat - l.first)).first = max l.first (s.trimTo l u.entry.arg0.toNat) := by
    simp only [Log.without]
    omega
  have gone (m : Nat) : (l.without m).first - l.first = m := Nat.add_sub_cancel_left ..
  refine ⟨_, trimLog_begins h hl, l.without _, rfl, mem_dropRecords hm _, Nat.le_add_right .., ?_, fun g hg hn => ?_, ?_, ?_⟩
  · have bound := trimTo_le s l u.entry.arg0.toNat
    rw [first]
    omega
  · have bound := trimTo_le_keepFrom hg hn u.entry.arg0.toNat
    rw [first]
    omega
  · rw [gone]
    rfl
  · rw [gone]
    exact endsWith_finish _ ((dropRecords_sub s l _ sid).trans hs) hd

/-! ### DELETE_LOG -/

section
variable {s : State} {sid : Nat} {u : Sub} {l : Log} (h : Begins s sid 0x43 u) (hl : s.log? u.entry.handleA = some l)
include h hl

theorem deleteLog_begins : exec (.deleteLog sid) s = .next (s.settle u (when (s.grafts.list.any fun g => g.desc.log == l.handle) .noResource)
    fun t => ((t.removeLog l).sendAll .dropLog [l.index]).completeOk u) := by
  refine congrArg Host.Outcome.next ((run_waits _ h.1).trans ?_)
  simp only [hl]

theorem deleteLog_used (hg : ∃ g ∈ s.grafts.list, g.desc.log = l.handle) :
    exec (.deleteLog sid) s = .next (s.finish sid { status := .noResource }) := by
  have used : (s.grafts.list.any fun g => g.desc.log == l.handle) = true := by simpa using hg
  rw [deleteLog_begins h hl, used, when, if_pos rfl, settle_refuses_one h (by decide)]

theorem deleteLog_unused (hg : ∀ g ∈ s.grafts.list, g.desc.log ≠ l.handle) :
    exec (.deleteLog sid) s = .next (((s.removeLog l).sendAll .dropLog [l.index]).finish sid (okResult u 0 0)) := by
  have unused : (s.grafts.list.any fun g => g.desc.log == l.handle) = false := by simpa using hg
  rw [deleteLog_begins h hl, unused, settle_begins (errs := when false _) h rfl, completeOk_begins h]

end

end Sys2Proof.Machine
end

section
/-! PROOFS. Graft jobs from creation to deletion (R207, R212, R213, R226, R230): what CREATE_GRAFT, RUN_GRAFT, STOP_GRAFT and DELETE_GRAFT
do (O57). -/

namespace Sys2Proof.Machine

open Sys2Proof

/-! ### A job of the list -/

theorem graftAt_index {s : State} {i : Nat} {g : Graft} (h : s.graftAt i = some g) : g.index = i :=
  beq_iff_eq.1 (List.find?_some (p := fun g : Graft => g.index == i) h)

theorem graftAt_congr {s t : State} (h : t.grafts = s.grafts) (i : Nat) : t.graftAt i = s.graftAt i := by
  rw [State.graftAt, h, State.graftAt]

/-- A change of a job that leaves its index is what the index finds. -/
theorem graftAt_modGraft {s : State} {i : Nat} {g : Graft} (h : s.graftAt i = some g) {f : Graft → Graft}
    (hf : ∀ g, (f g).index = g.index) : (s.modGraft i f).graftAt i = some (f g) := by
  refine (find_updWhere s.grafts.list _ _ f fun x _ => by rw [hf]).trans ?_
  rw [show s.grafts.list.find? (fun g => g.index == i) = some g from h, Option.map_some, if_pos (List.find?_some h)]

/-! ### The end of a run (R224, R226, R228) -/

/-- Submissions that end together. -/
def State.finishes (s : State) (l : List Nat) (r : Result) : State := l.foldl (fun s k => s.finish k r) s

@[simp] theorem finishes_grafts (r : Result) (l : List Nat) (s : State) : (s.finishes l r).grafts = s.grafts :=
  foldl_keeps (·.grafts) (g := fun s k => s.finish k r) (fun _ _ => rfl) l s

/-- One that has its outcome keeps it. -/
theorem sub_finishes_done {sid : Nat} {u : Sub} (r : Result) (hd : u.due ≠ none) (l : List Nat) {s : State} (hs : s.sub? sid = some u) :
    (s.finishes l r).sub? sid = some u := by
  induction l generalizing s with
  | nil => exact hs
  | cons k l ih => exact ih (sub_finish_done hs hd k r)

/-- One of them that has no outcome before has that result. -/
theorem sub_finishes {sid : Nat} {u : Sub} (r : Result) (hd : u.due = none) {l : List Nat} {s : State} (hm : sid ∈ l)
    (hs : s.sub? sid = some u) : EndsWith (s.finishes l r) sid u r := by
  induction l generalizing s with
  | nil => exact absurd hm List.not_mem_nil
  | cons k l ih =>
    by_cases e : sid = k
    · subst e
      exact sub_finishes_done r (Option.some_ne_none r) l (endsWith_finish r hs hd)
    · exact ih ((List.mem_cons.1 hm).resolve_left e) ((sub_finish_other s k sid r e).trans hs)

section
variable {s : State} {i : Nat} {g : Graft} (hg : s.graftAt i = some g) (hp : g.phase ≠ .stopped)
include hg hp

/-- The state in which a job that stops has its RUN_GRAFT ended: the free value that stands for the step of a run without one is taken. -/
theorem endGraft_run (c : StopCause) : ∃ t : State, t.grafts = s.grafts ∧ (∀ k, g.runSid ≠ some k → t.sub? k = s.sub? k) ∧
    s.endGraft i c = (t.finishes g.stopSids {}).modGraft i fun g => g.idle c := by
  simp only [State.endGraft, hg, if_neg hp]
  refine ⟨_, ?_, fun k hk => ?_, rfl⟩
  · split <;> split <;> rfl
  · split
    · rename_i r hr
      have other : k ≠ r := fun e => hk (e ▸ hr)
      split <;> exact sub_finish_other _ _ _ _ other
    · split <;> rfl

/-- The job is there, stopped. -/
theorem endGraft_stopped (c : StopCause) : (s.endGraft i c).graftAt i = some (g.idle c) := by
  obtain ⟨t, ht, -, e⟩ := endGraft_run hg hp c
  rw [e]
  exact graftAt_modGraft ((graftAt_congr ((finishes_grafts _ _ t).trans ht) i).trans hg) fun _ => rfl

/-- A STOP_GRAFT that waits for it completes OK. -/
theorem endGraft_ends (c : StopCause) {sid : Nat} {u : Sub} (hm : sid ∈ g.stopSids) (hr : g.runSid ≠ some sid) (hs : s.sub? sid = some u)
    (hd : u.due = none) : EndsWith (s.endGraft i c) sid u {} := by
  obtain ⟨t, -, same, e⟩ := endGraft_run hg hp c
  rw [e]
  exact sub_finishes {} hd hm ((same sid hr).trans hs)

end

/-! ### A request to stop (R226) -/

/-- The job has been asked to stop, by a STOP_GRAFT or by a SHUTDOWN. -/
def Graft.asked (sid : Option Nat) (g : Graft) : Graft := { g with stopAsked := true, stopSids := g.stopSids ++ sid.toList }

/-- The step in progress has begun: it is past its gradient phase, or has its gradient, or its records are there. -/
def State.begun (s : State) (g : Graft) : Prop := g.phase ≠ .gradient ∨ g.gradDone = true ∨ s.recordsThere g = true

section
variable {s : State} {i : Nat} {g : Graft} (hg : s.graftAt i = some g) (hp : g.phase ≠ .stopped) (sid : Option Nat)
include hg hp

/-- The step in progress ends first. -/
theorem askStop_begun (hb : s.begun g) : s.askStop i sid = s.modGraft i (Graft.asked sid) := by
  simp only [State.askStop, hg, if_neg hp]
  rw [if_neg]
  · rfl
  · rintro ⟨hph, hgd, hrt⟩
    obtain h | h | h := hb
    · exact h hph
    · exact absurd (h.symm.trans hgd) (by decide)
    · exact absurd (h.symm.trans hrt) (by decide)

/-- A step that has not begun does not run (log 47). -/
theorem askStop_unbegun (hb : ¬ s.begun g) : s.askStop i sid = (s.modGraft i (Graft.asked sid)).endGraft i .stopGraft := by
  simp only [State.begun, not_or, Decidable.not_not, Bool.not_eq_true] at hb
  simp only [State.askStop, hg, if_neg hp]
  exact if_pos hb

end

/-! ### CREATE_GRAFT (R207, R212) -/

/-- The job that a CREATE_GRAFT would add. -/
def State.newGraft (s : State) (u : Sub) (buf : Buf) : Graft :=
  let i := (lowestFree (s.grafts.list.map (·.index)) 8).getD 0
  { index := i, gen := genFor s.grafts.gens i, desc := parseGraft buf, creator := u.client, coordinator := s.ownRank }

/-- A job is added here, and the other ranks are told. -/
def State.announceGraft (s : State) (u : Sub) (g : Graft) (buf : Buf) : State :=
  (s.addGraft g).sendAll .newGraft ([g.index, g.gen, u.client] ++ buf.map (·.toNat))

section
variable {s : State} {sid : Nat} {u : Sub} {b : Option Buf} {buf : Buf} (h : Begins s sid 0x44 u) (hb : u.readB b = some buf)
include h hb

theorem createGraft_begins (room : Bool) : exec (.createGraft sid b room) s = .next (
    s.settle u (s.createGraftErrs u (parseGraft buf) (s.newGraft u buf) ++ when (!room) .noResource) fun t =>
      (t.announceGraft u (s.newGraft u buf) buf).complete u (BitVec.ofNat 64 (s.newGraft u buf).handle.toNat) 0) :=
  congrArg Host.Outcome.next (run_withB h hb _)

theorem createGraft_ok (he : s.createGraftErrs u (parseGraft buf) (s.newGraft u buf) = []) : exec (.createGraft sid b true) s =
    .next ((s.announceGraft u (s.newGraft u buf) buf).finish sid (okResult u (BitVec.ofNat 64 (s.newGraft u buf).handle.toNat) 0)) := by
  rw [createGraft_begins h hb, he, settle_begins (errs := [] ++ when (!true) .noResource) h rfl, complete_begins h]

theorem createGraft_noRoomElsewhere (he : s.createGraftErrs u (parseGraft buf) (s.newGraft u buf) = []) :
    exec (.createGraft sid b false) s = .next (s.finish sid { status := .noResource }) := by
  rw [createGraft_begins h hb, he]
  exact congrArg Host.Outcome.next (settle_refuses_one h (by decide) .noResource _)

theorem createGraft_refused {st : Status} {l : List Status} (he : s.createGraftErrs u (parseGraft buf) (s.newGraft u buf) = st :: l) (room : Bool) :
    exec (.createGraft sid b room) s =
      .next (s.finish sid { status := firstStatus (st :: l ++ if room = true then [] else [.noResource]) }) := by
  rw [createGraft_begins h hb, he, settle_refuses (errs := st :: l ++ when (!room) .noResource) h (by decide) (List.cons_ne_nil _ _)]
  cases room <;> rfl

end

/-- An added job is in the list, with a residual of +0 for every bucket. -/
theorem addGraft_mem (s : State) (g : Graft) : ∃ y ∈ (s.addGraft g).grafts.list, y = { g with residuals := y.residuals }
    ∧ y.residuals.map (·.bucket) = (((s.placeGraft g).getD s).bucketsOf g).map (·.2)
    ∧ ∀ r ∈ y.residuals, (∀ v ∈ r.plane0, v = 0) ∧ ∀ v ∈ r.plane1, v = 0 := by
  refine ⟨_, (mem_updWhere ..).2 ⟨g, List.mem_append_right _ (List.mem_singleton_self g), (if_pos (beq_self_eq_true _)).symm⟩, rfl, ?_, ?_⟩
  · exact List.map_map
  · intro r hr
    obtain ⟨x, -, rfl⟩ := List.mem_map.1 hr
    exact ⟨fun v => List.eq_of_mem_replicate, fun v => List.eq_of_mem_replicate⟩

/-! ### RUN_GRAFT (R213, R226, R228, R230) -/

/-- Bit 0 of an operand, RESTORE of a RUN_GRAFT. -/
theorem restore_eq (v : W64) : v.getLsbD 0 = decide (v.toNat % 2 = 1) := Nat.testBit_zero v.toNat

theorem restore_clear {v : W64} (h : v.toNat % 2 = 0) : v.getLsbD 0 = false := by rw [restore_eq, h]; rfl

theorem restore_set {v : W64} (h : v.toNat % 2 = 1) : v.getLsbD 0 = true := by rw [restore_eq, h]; rfl

/-- The step after the last one committed, or step 0 (log 49). -/
def Graft.nextStep (g : Graft) : Nat := match g.lastCommit with | some k => k + 1 | none => 0

/-- A RUN_GRAFT is refused first for a job that another rank coordinates. -/
theorem runErrs_elsewhere {s : State} {g : Graft} (hc : g.coordinator ≠ s.ownRank) :
    ∃ l, s.runErrs g = .staleHandle :: l ∧ ∀ x ∈ l, Status.rank .staleHandle ≤ x.rank := by
  refine ⟨when (!s.isReady bitGraft) .notReady ++ when (decide (g.phase ≠ .stopped) || !s.graftRoom g) .noResource,
    by rw [State.runErrs, decide_eq_true hc, List.append_assoc]; rfl, fun x hx => ?_⟩
  obtain hx | hx := List.mem_append.1 hx <;> rw [mem_when hx] <;> decide

/-- On the coordinator, once the reduction is ready, a job that runs refuses another run. -/
theorem runErrs_running {s : State} {g : Graft} (hc : g.coordinator = s.ownRank) (hr : s.isReady bitGraft = true) (hp : g.phase ≠ .stopped) :
    s.runErrs g = [.noResource] := by
  simp [State.runErrs, when, hc, hr, hp]

section
variable {s : State} {sid : Nat} {u : Sub}

section
variable (h : Waits s sid 0x45 u)
include h

theorem runGraft_restore (ha : u.entry.arg0.toNat % 2 = 1) : Ignores (.runGraft sid) s :=
  congrArg Host.Outcome.next ((run_waits _ h).trans (if_pos (restore_set ha)))

theorem runGraftRestore_clear (ha : u.entry.arg0.toNat % 2 = 0) : Ignores (.runGraftRestore sid) s :=
  congrArg Host.Outcome.next ((run_waits _ h).trans (if_pos (restore_clear ha)))

end

section
variable (h : Begins s sid 0x45 u)
include h

section
variable {g : Graft} (hg : s.graft? u.entry.handleA = some g)
include hg

theorem runGraft_begins (ha : u.entry.arg0.toNat % 2 = 0) : exec (.runGraft sid) s =
    .next (s.settle u (s.runErrs g) fun t => t.beginRun g u g.nextStep false) := by
  refine congrArg Host.Outcome.next ((run_waits _ h.1).trans ?_)
  simp only [restore_clear ha, Bool.false_eq_true, if_false, hg]
  rfl

theorem runGraftRestore_begins (ha : u.entry.arg0.toNat % 2 = 1) : exec (.runGraftRestore sid) s =
    .next (s.settle u (when g.lastCkpt.isNone .badField ++ s.runErrs g) fun t =>
      (t.restoreCkpt g (g.lastCkpt.getD 0)).beginRun g u (g.lastCkpt.getD 0 + 1) true) := by
  refine congrArg Host.Outcome.next ((run_waits _ h.1).trans ?_)
  simp only [restore_set ha, Bool.true_eq_false, if_false, hg]

theorem runGraft_elsewhere (ha : u.entry.arg0.toNat % 2 = 0) (hc : g.coordinator ≠ s.ownRank) :
    exec (.runGraft sid) s = .next (s.finish sid { status := .staleHandle }) := by
  obtain ⟨l, errs, first⟩ := runErrs_elsewhere hc
  rw [runGraft_begins h hg ha, errs, settle_refuses_first h (by decide) first]

theorem runGraft_running (ha : u.entry.arg0.toNat % 2 = 0) (hc : g.coordinator = s.ownRank) (hr : s.isReady bitGraft = true)
    (hp : g.phase ≠ .stopped) : exec (.runGraft sid) s = .next (s.finish sid { status := .noResource }) := by
  rw [runGraft_begins h hg ha, runErrs_running hc hr hp, settle_refuses_one h (by decide)]

theorem runGraft_ok (ha : u.entry.arg0.toNat % 2 = 0) (he : s.runErrs g = []) :
    exec (.runGraft sid) s = .next (s.beginRun g u g.nextStep false) := by
  rw [runGraft_begins h hg ha, settle_begins h he]

theorem runGraftRestore_elsewhere (ha : u.entry.arg0.toNat % 2 = 1) (hk : g.lastCkpt.isSome = true) (hc : g.coordinator ≠ s.ownRank) :
    exec (.runGraftRestore sid) s = .next (s.finish sid { status := .staleHandle }) := by
  obtain ⟨k, hk⟩ := Option.isSome_iff_exists.1 hk
  obtain ⟨l, errs, first⟩ := runErrs_elsewhere hc
  rw [runGraftRestore_begins h hg ha, hk, errs]
  exact congrArg Host.Outcome.next (settle_refuses_first h (by decide) first _)

theorem runGraftRestore_noCheckpoint (ha : u.entry.arg0.toNat % 2 = 1) (hk : g.lastCkpt = none) :
    exec (.runGraftRestore sid) s = .next (s.finish sid { status := .badField }) := by
  rw [runGraftRestore_begins h hg ha, hk]
  exact congrArg Host.Outcome.next (settle_refuses_badField h (by decide) List.mem_cons_self _)

theorem runGraftRestore_ok (ha : u.entry.arg0.toNat % 2 = 1) {k : Nat} (hk : g.lastCkpt = some k) (he : s.runErrs g = []) :
    exec (.runGraftRestore sid) s = .next ((s.restoreCkpt g k).beginRun g u (k + 1) true) := by
  rw [runGraftRestore_begins h hg ha, hk, he]
  exact congrArg Host.Outcome.next (settle_begins h rfl _)

end

section
variable (hg : s.graft? u.entry.handleA = none)
include hg

theorem runGraft_stale (ha : u.entry.arg0.toNat % 2 = 0) : exec (.runGraft sid) s = .next (s.finish sid { status := .staleHandle }) := by
  refine congrArg Host.Outcome.next ((run_waits _ h.1).trans ?_)
  simp only [restore_clear ha, Bool.false_eq_true, if_false, hg, settle_refuses_one h (by decide : (0x45 : Nat) ≠ 0x10)]

theorem runGraftRestore_stale (ha : u.entry.arg0.toNat % 2 = 1) :
    exec (.runGraftRestore sid) s = .next (s.finish sid { status := .staleHandle }) := by
  refine congrArg Host.Outcome.next ((run_waits _ h.1).trans ?_)
  simp only [restore_set ha, Bool.true_eq_false, if_false, hg, settle_refuses_one h (by decide : (0x45 : Nat) ≠ 0x10)]

end

end

/-! ### STOP_GRAFT (R226) -/

section
variable (h : Begins s sid 0x46 u)
include h

theorem stopGraft_stale (hg : s.graft? u.entry.handleA = none) :
    exec (.stopGraft sid) s = .next (s.finish sid { status := .staleHandle }) := by
  refine congrArg Host.Outcome.next ((run_waits _ h.1).trans ?_)
  simp only [hg, settle_refuses_one h (by decide : (0x46 : Nat) ≠ 0x10)]

section
variable {g : Graft} (hg : s.graft? u.entry.handleA = some g)
include hg

theorem stopGraft_elsewhere (hc : g.coordinator ≠ s.ownRank) :
    exec (.stopGraft sid) s = .next (s.finish sid { status := .staleHandle }) := by
  refine congrArg Host.Outcome.next ((run_waits _ h.1).trans ?_)
  simp only [hg, decide_eq_true hc, when, if_true]
  exact settle_refuses_one h (by decide) _ _

variable (hc : g.coordinator = s.ownRank)
include hc

theorem stopGraft_stopped (hp : g.phase = .stopped) : exec (.stopGraft sid) s = .next (s.finish sid (okResult u 0 0)) := by
  refine congrArg Host.Outcome.next ((run_waits _ h.1).trans ?_)
  simp only [hg, hc, ne_eq, not_true_eq_false, decide_false, settle_begins (errs := when false .staleHandle) h rfl, if_pos hp,
    completeOk_begins h]

/-- A STOP_GRAFT of a running job asks it to stop, and tells the other ranks when it has stopped. -/
theorem stopGraft_asks (hp : g.phase ≠ .stopped) {y : Graft} (hy : ((s.start sid).askStop g.index (some sid)).graftAt g.index = some y) :
    exec (.stopGraft sid) s = .next (
      let t := (s.start sid).askStop g.index (some sid)
      if y.phase = .stopped then t.sendAll .stopGraft [g.index, StopCause.code .stopGraft] else t) := by
  refine congrArg Host.Outcome.next ((run_waits _ h.1).trans ?_)
  simp only [hg, hc, ne_eq, not_true_eq_false, decide_false, settle_begins (errs := when false .staleHandle) h rfl, if_neg hp, begins_sid h, hy]

variable (ha : s.graftAt g.index = some g)
include ha

/-- It waits for the end of a step that has begun. -/
theorem stopGraft_waits (hp : g.phase ≠ .stopped) (hb : s.begun g) : Gives (.stopGraft sid) s fun t =>
    t.graftAt g.index = some (g.asked (some sid)) ∧ t.sub? sid = some { u with running := true } := by
  obtain ⟨⟨hs, -⟩, -⟩ := id h
  have waits := askStop_begun (s := s.start sid) ha hp (some sid) hb
  have asked : ((s.start sid).askStop g.index (some sid)).graftAt g.index = some (g.asked (some sid)) := by
    rw [waits]
    exact graftAt_modGraft (s := s.start sid) ha fun _ => rfl
  refine ⟨_, (stopGraft_asks h hg hc hp asked).trans (congrArg Host.Outcome.next (if_neg hp)), asked, ?_⟩
  rw [waits]
  exact (sub_start s sid).trans (by rw [hs]; rfl)

/-- It stops a step that has not begun, and completes (log 47). -/
theorem stopGraft_stops (hp : g.phase ≠ .stopped) (hb : ¬ s.begun g) (hr : g.runSid ≠ some sid) : Gives (.stopGraft sid) s fun t =>
    EndsWith t sid u {} ∧ t.graftAt g.index = some ((g.asked (some sid)).idle .stopGraft) := by
  obtain ⟨⟨hs, -, hd, -⟩, -⟩ := id h
  have stops := askStop_unbegun (s := s.start sid) ha hp (some sid) hb
  have asked : ((s.start sid).modGraft g.index (Graft.asked (some sid))).graftAt g.index = some (g.asked (some sid)) :=
    graftAt_modGraft (s := s.start sid) ha fun _ => rfl
  have runs : ((s.start sid).modGraft g.index (Graft.asked (some sid))).sub? sid = some { u with running := true } :=
    (sub_start s sid).trans (by rw [hs]; rfl)
  have stopped : ((s.start sid).askStop g.index (some sid)).graftAt g.index = some ((g.asked (some sid)).idle .stopGraft) := by
    rw [stops]
    exact endGraft_stopped asked hp .stopGraft
  refine ⟨_, (stopGraft_asks h hg hc hp stopped).trans (congrArg Host.Outcome.next (if_pos rfl)), ?_,
    (graftAt_congr (sendAll_grafts ..) _).trans stopped⟩
  rw [EndsWith, sendAll_sub, stops]
  exact endGraft_ends (u := { u with running := true }) asked hp .stopGraft (List.mem_append_right _ (List.mem_singleton_self sid)) hr runs hd

end

end

/-! ### DELETE_GRAFT (R226) -/

section
variable (h : Begins s sid 0x47 u)
include h

theorem deleteGraft_stale (hg : s.graft? u.entry.handleA = none) :
    exec (.deleteGraft sid) s = .next (s.finish sid { status := .staleHandle }) := by
  refine congrArg Host.Outcome.next ((run_waits _ h.1).trans ?_)
  simp only [hg, settle_refuses_one h (by decide : (0x47 : Nat) ≠ 0x10)]

section
variable {g : Graft} (hg : s.graft? u.entry.handleA = some g)
include hg

theorem deleteGraft_begins : exec (.deleteGraft sid) s = .next (s.settle u
    (when (decide (g.coordinator ≠ s.ownRank)) .staleHandle ++ when (decide (g.phase ≠ .stopped)) .noResource) fun t =>
      ((t.removeGraft g).sendAll .dropGraft [g.index]).completeOk u) := by
  refine congrArg Host.Outcome.next ((run_waits _ h.1).trans ?_)
  simp only [hg]

theorem deleteGraft_elsewhere (hc : g.coordinator ≠ s.ownRank) :
    exec (.deleteGraft sid) s = .next (s.finish sid { status := .staleHandle }) := by
  rw [deleteGraft_begins h hg, decide_eq_true hc]
  exact congrArg Host.Outcome.next (settle_refuses_first h (by decide) (fun x hx => by rw [mem_when hx]; decide) _)

variable (hc : g.coordinator = s.ownRank)
include hc

theorem deleteGraft_running (hp : g.phase ≠ .stopped) : exec (.deleteGraft sid) s = .next (s.finish sid { status := .noResource }) := by
  rw [deleteGraft_begins h hg, decide_eq_false (not_not_intro hc), decide_eq_true hp]
  exact congrArg Host.Outcome.next (settle_refuses_one h (by decide) _ _)

theorem deleteGraft_ok (hp : g.phase = .stopped) : exec (.deleteGraft sid) s =
    .next (((s.removeGraft g).sendAll .dropGraft [g.index]).finish sid (okResult u 0 0)) := by
  rw [deleteGraft_begins h hg, settle_begins h (by simp [when, hc, hp]), completeOk_begins h]

end

end

end

/-- A block or a buffer of a job goes. -/
def State.freeGraftObj (s : State) (id : W64) : State :=
  if (s.home? id).isSome then s.dropHome id
  else match s.tiers.allocs.find? fun a => a.2.2 == id with
    | some a => s.freeHbm poolGraft a.1 id
    | none => s

/-- What a job holds goes: its residual blocks, its buffers and its checkpoints. -/
def State.emptyGraft (s : State) (g : Graft) : State :=
  (nub (g.checkpoints.flatMap fun c => c.2.map (·.1))).foldl (fun s b => s.eraseObj (graftCkptObj g.index b))
    (((s.graftSpace g).map (·.1)).foldl State.freeGraftObj s)

theorem removeGraft_eq (s : State) (g : Graft) : s.removeGraft g = (s.emptyGraft g).modGrafts fun x =>
    { x with list := x.list.filter (fun y => !(y.index == g.index)), gens := bumpGen x.gens g.index } := rfl

theorem freeGraftObj_grafts (s : State) (id : W64) : (s.freeGraftObj id).grafts = s.grafts := by
  unfold State.freeGraftObj
  split
  · exact dropHome_keeps (·.grafts) (fun _ _ _ _ => rfl) (fun _ _ _ => rfl) s id
  · split
    · exact freeHbm_keeps (·.grafts) (fun _ _ _ _ _ => rfl) ..
    · rfl

theorem emptyGraft_grafts (s : State) (g : Graft) : (s.emptyGraft g).grafts = s.grafts :=
  (foldl_keeps (·.grafts) (g := fun (s : State) b => s.eraseObj (graftCkptObj g.index b))
    (fun s _ => eraseObj_keeps (·.grafts) (fun _ _ _ => rfl) s _) _ _).trans (foldl_keeps (·.grafts) freeGraftObj_grafts _ s)

/-- The job goes from the list, and its index is issued next with the next generation (R155). -/
theorem removeGraft_grafts (s : State) (g : Graft) : (s.removeGraft g).grafts =
    { s.grafts with list := s.grafts.list.filter (fun y => !(y.index == g.index)), gens := bumpGen s.grafts.gens g.index } := by
  rw [removeGraft_eq, State.modGrafts, emptyGraft_grafts]

end Sys2Proof.Machine
end

section
/-! PROOFS. Feedback logs and graft jobs as O57 states them (O57). -/

namespace Sys2Proof.Machine

open Sys2Proof

/-- Settles O57: each command by its own statuses and its effect.  Of a STOP_GRAFT that waits and of one that stops its job, the job and the
submission follow from what `askStop` does with a step that has begun, or has not. -/
theorem logsAndJobs : Obligations.LogsAndJobs := by
  refine ⟨⟨fun s sid i u h => ?createLog, fun s sid u hl => ?noLog, fun s sid u l hl hm => ?log⟩,
    fun s sid u b buf h hb he => ⟨createGraft_ok h hb he, createGraft_noRoomElsewhere h hb he⟩,
    fun s sid u b buf st l room h hb he => createGraft_refused h hb he room, fun s sid u hc => ?elsewhere,
    fun s sid u h => ⟨runGraft_restore h, runGraftRestore_clear h⟩, fun s g _ => addGraft_mem s g, fun s sid u g hg hc => ?job,
    fun s g => ⟨congrArg Grafts.list (removeGraft_grafts s g), congrArg Grafts.gens (removeGraft_grafts s g)⟩⟩
  case createLog =>
    refine ⟨fun hl hu hm hi => (createLog_ok h hl hu hm hi).trans ?_, createLog_malformed h, createLog_full h⟩
    exact congrArg Host.Outcome.next (complete_begins h ..)
  case noLog => exact ⟨fun b f h hb => appendLog_stale hl f h hb, trimLog_stale hl, deleteLog_stale hl⟩
  case log =>
    refine ⟨fun b f h hb hn => appendLog_broken h hl hb hn, fun b f h hb hn => ⟨appendLog_full h hl hb hn, fun hr hf ho => ?unserved⟩,
      fun b buf f h hb hn hr ho => ⟨?appended, _, mem_appendLog hm _, rfl⟩, fun h _ => trimLog_discards h hl hm, (deleteLog_used · hl),
      fun h hg => ⟨_, deleteLog_unused h hl hg, ?deleted⟩⟩
    case unserved => exact appendLog_unserved h hl hb hn hr hf (List.any_eq_true.2 ho)
    case appended =>
      have served := ho.imp_right fun ho => List.any_eq_false.2 fun e he => ne_true_of_eq_false (ho e he)
      rw [appendLog_begins h hl hb, settle_begins h (appendLogErrs_nil hn hr served)]
      rfl
    case deleted =>
      obtain ⟨⟨hs, -, hd, -⟩, -⟩ := id h
      have grafts := (sendAll_grafts (s.removeLog l) .dropLog [l.index]).trans (removeLog_grafts s l)
      exact ⟨congrArg Grafts.logs grafts, congrArg Grafts.logGens grafts,
        endsWith_finish _ ((sendAll_sub ..).trans ((removeLog_sub s l sid).trans hs)) hd⟩
  case elsewhere =>
    cases hg : s.graft? u.entry.handleA with
    | none =>
      exact ⟨fun h ha => runGraft_stale h hg ha, fun h ha _ => runGraftRestore_stale h hg ha, fun h => stopGraft_stale h hg,
        fun h => deleteGraft_stale h hg⟩
    | some g =>
      exact ⟨fun h ha => runGraft_elsewhere h hg ha (hc g hg), fun h ha hk => runGraftRestore_elsewhere h hg ha (hk g rfl) (hc g hg),
        fun h => stopGraft_elsewhere h hg (hc g hg), fun h => deleteGraft_elsewhere h hg (hc g hg)⟩
  case job =>
    refine ⟨fun h hr => ⟨fun hp ha => runGraft_running h hg ha hc hr hp, fun he ha => runGraft_ok h hg ha he,
        fun ha hk => runGraftRestore_noCheckpoint h hg ha hk, fun k ha hk he => runGraftRestore_ok h hg ha hk he⟩,
      fun h hp => stopGraft_stopped h hg hc hp, fun h hp ha => ?reduces, fun h hp hb ha => ?computes, fun h hp hd hr ha hn => ?stops,
      fun h hp => deleteGraft_running h hg hc hp, fun h hp => deleteGraft_ok h hg hc hp⟩
    case reduces => exact stopGraft_waits h hg hc ha (by rw [hp]; decide) (.inl (by rw [hp]; decide))
    case computes => exact stopGraft_waits h hg hc ha (by rw [hp]; decide) (.inr hb)
    case stops =>
      have unbegun : ¬ s.begun g := by simp [State.begun, hp, hd, hr]
      obtain ⟨t, stops, ends, stopped⟩ := stopGraft_stops h hg hc ha (by rw [hp]; decide) unbegun hn
      exact ⟨t, stops, ends, _, stopped, rfl, rfl, rfl⟩

end Sys2Proof.Machine
end

section
/-! PROOFS. The messages of a graft step (R213 to R217, R219, R221): which of them a rank takes, and what each does (O58). -/

namespace Sys2Proof.Machine

open Sys2Proof

/-! ### The tag of a message (R213) -/

/-- The job runs the step and the attempt that a tag names. -/
def Graft.runs (g : Graft) (tag : GraftTag) : Prop := g.phase ≠ .stopped ∧ g.step = tag.step ∧ g.attempt = tag.attempt

section
variable {s : State} {tag : GraftTag} {g : Graft} (hg : s.graftAt tag.job = some g)
include hg

/-- A happening of this rank's own for the attempt in progress is acted on. -/
theorem atTag_runs (hr : g.runs tag) (k : Graft → State → State) : s.atTag tag k = k g s := by
  simp only [State.atTag, hg]
  exact if_pos hr

/-- A message of the attempt in progress, from the epoch that its sender is in, is acted on. -/
theorem graftMsg_current (hr : g.runs tag) (he : tag.epoch = (s.peer tag.rank).knownEpoch) (k : Graft → State → State) :
    s.graftMsg tag k = k g s := by
  obtain ⟨hp, hs, ha⟩ := hr
  simp only [State.graftMsg, hg]
  exact if_pos ⟨hp, hs, ha, he⟩

/-- Any other is discarded and counted. -/
theorem graftMsg_stale (h : g.phase = .stopped ∨ g.step ≠ tag.step ∨ g.attempt ≠ tag.attempt ∨ tag.epoch ≠ (s.peer tag.rank).knownEpoch)
    (k : Graft → State → State) : s.graftMsg tag k = s.modGraft tag.job fun g => { g with staleCount := satInc g.staleCount } := by
  simp only [State.graftMsg, hg]
  refine if_neg ?_
  rintro ⟨hp, hs, ha, he⟩
  obtain h | h | h | h := h
  · exact hp h
  · exact h hs
  · exact h ha
  · exact h he

end

/-! ### Votes on their way (R222) -/

section
variable {s : State} {i : Nat} {g : Graft} (hg : s.graftAt i = some g)
include hg

/-- A vote leaves for the coordinator on another rank. -/
theorem sendVote_far (hc : g.coordinator ≠ s.ownRank) (yes rescaled : Bool) (c : StopCause) : s.sendVote i yes rescaled c =
    (s.sendMsg g.coordinator .graftVote [i, g.step, g.attempt, yes.toNat, rescaled.toNat, c.code], false) := by
  simp only [State.sendVote, hg, if_neg hc]

/-- The coordinator takes its own vote at once. -/
theorem sendVote_own (hc : g.coordinator = s.ownRank) (yes rescaled : Bool) (c : StopCause) :
    s.sendVote i yes rescaled c = s.takeVote i s.ownRank yes rescaled c := by
  simp only [State.sendVote, hg, if_pos hc]

/-! ### Compression (R213, R214) -/

/-- A job that compresses stays in its step and attempt, under its coordinator. -/
theorem compress_graftAt : ∃ y, (s.compress g).1.graftAt i = some y
    ∧ y.coordinator = g.coordinator ∧ y.step = g.step ∧ y.attempt = g.attempt := by
  obtain rfl := graftAt_index hg
  exact ⟨_, graftAt_modGraft hg fun _ => rfl, rfl, rfl, rfl⟩

/-- REDUCE does nothing on a rank that has compressed already, or whose gradient is not there. -/
theorem reduceHere_idle (h : g.phase ≠ .gradient ∨ g.gradDone = false) : s.reduceHere i = (s, false) := by
  simp only [State.reduceHere, hg, if_pos h]

section
variable (hp : g.phase = .gradient) (hd : g.gradDone = true)
include hp hd

/-- A NaN or an infinity votes NO. -/
theorem reduceHere_bad (hb : (s.compress g).2 = true) : s.reduceHere i = (s.compress g).1.sendVote i false false .suspect := by
  have ready : ¬ (g.phase ≠ .gradient ∨ g.gradDone = false) := by simp [hp, hd]
  simp only [State.reduceHere, hg, if_neg ready, if_pos hb]

/-- Else every bucket is announced and sampled, and the hops that wait run. -/
theorem reduceHere_sends (hb : (s.compress g).2 = false) {y z : Graft} (hy : (s.compress g).1.graftAt i = some y)
    (hz : (y.contribs.foldl (fun s c => s.sendBucket i c) (s.compress g).1).graftAt i = some z) : s.reduceHere i =
      (z.waiting.foldl (fun s p => s.runHop i p)
        ((y.contribs.foldl (fun s c => s.sendBucket i c) (s.compress g).1).modGraft i fun g => { g with waiting := [] }), false) := by
  have ready : ¬ (g.phase ≠ .gradient ∨ g.gradDone = false) := by simp [hp, hd]
  simp only [State.reduceHere, hg, if_neg ready, hb, Bool.false_eq_true, if_false, hy, hz]

end

/-! ### Partials of the warp chain (R215 to R217) -/

/-- A bucket that has been passed on is not passed on again. -/
theorem runHop_passed {p : ChainPartial} (hp : p.bucket ∈ g.passed) : s.runHop i p = s := by
  simp only [State.runHop, hg, List.contains_iff_mem.2 hp, if_true]

/-- The hop is run once this rank's contribution is there. -/
theorem runHop_passes {p : ChainPartial} (hp : p.bucket ∉ g.passed) {c : Nat × List Bool × List W16}
    (hc : g.contribs.find? (fun c => c.1 == p.bucket) = some c) : s.runHop i p = s.passPartial i (p.hop c.2) := by
  simp only [State.runHop, hg, List.contains_eq_mem, decide_eq_false hp, Bool.false_eq_true, if_false, hc]

/-- Until then the partial waits. -/
theorem runHop_waits {p : ChainPartial} (hp : p.bucket ∉ g.passed) (hc : ∀ c ∈ g.contribs, c.1 ≠ p.bucket) :
    s.runHop i p = s.modGraft i fun g => { g with waiting := g.waiting ++ [p] } := by
  have missing : g.contribs.find? (fun c => c.1 == p.bucket) = none := by simpa [List.find?_eq_none] using hc
  simp only [State.runHop, hg, List.contains_eq_mem, decide_eq_false hp, Bool.false_eq_true, if_false, missing]

/-! ### What reaches an owner (R218, R219, R221) -/

/-- The first group partial of a bucket and a group is kept. -/
theorem takeOwnerMsg_partial {m : ChainMsg} {p : ChainPartial} (hm : readPartial m = some p)
    (hn : ∀ x ∈ g.groups, ¬ (x.bucket = p.bucket ∧ x.group = p.group)) :
    (s.takeOwnerMsg i (.partialSum m)).graftAt i = some { g with groups := g.groups ++ [p] } := by
  have fresh : (g.groups.any fun x => x.bucket == p.bucket && x.group == p.group) = false := by simpa [List.any_eq_false] using hn
  simp only [State.takeOwnerMsg, hm]
  rw [graftAt_modGraft hg fun g => by split <;> rfl, fresh]
  rfl

/-- The first raw sample of a bucket and a rank is kept. -/
theorem takeOwnerMsg_sample {r : RawSample} (hn : ∀ x ∈ g.samples, ¬ (x.bucket = r.bucket ∧ x.rank = r.rank)) :
    (s.takeOwnerMsg i (.rawSample r)).graftAt i = some { g with samples := g.samples ++ [r] } := by
  have fresh : (g.samples.any fun x => x.bucket == r.bucket && x.rank == r.rank) = false := by simpa [List.any_eq_false] using hn
  simp only [State.takeOwnerMsg]
  rw [graftAt_modGraft hg fun g => by split <;> rfl, fresh]
  rfl

end

/-- A partial that is read has the bucket and the group of its message. -/
theorem readPartial_names {m : ChainMsg} {p : ChainPartial} (h : readPartial m = some p) : p.bucket = m.bucket ∧ p.group = m.group := by
  obtain ⟨b, -, rfl⟩ := Option.map_eq_some_iff.1 h
  exact ⟨rfl, rfl⟩

/-- The bucket that an owner's message belongs to. -/
def ownerBucket : OwnerMsg → Nat
  | .partialSum p => p.bucket
  | .rawSample r => r.bucket

/-- The job whose gradient buffer is filled. -/
def State.filledGradient (s : State) (g : Graft) (t : Table) (far : List (Nat × Buf)) (j : Graft) : Graft :=
  { j with gradient := (s.bucketsOf g).map (s.bucketGradient g t (s.gradRows g t far)), gradDone := true }

section
variable {s : State} {tag : GraftTag} {g : Graft} (hg : s.graftAt tag.job = some g) (hr : g.runs tag)
include hg hr

/-! ### GRADIENT_COMPLETE (R213; log 95) -/

section
variable {t : Table} (far : List (Nat × Buf)) (media : Media) (hp : g.phase = .gradient) (hd : g.gradDone = false) (hl : s.recordsThere g = true)
  (ht : s.tableOf g = some t)
include hp hd hl ht

/-- With every record delivered the gradient buffer is filled, and the coordinator is told. -/
theorem gradientComplete_reports (hm : (s.readExtents media (s.stepRecords g).2).1 = [])
    (hc : g.coordinator ≠ (s.readExtents media (s.stepRecords g).2).2.ownRank) :
    let x := (s.readExtents media (s.stepRecords g).2).2
    exec (.gradientComplete tag far media) s = .next ((x.modGraft tag.job (x.filledGradient g t far)).sendMsg g.coordinator .gradReady
      [tag.job, tag.step, tag.attempt, x.fabric.epoch]) := by
  have due : ¬ (g.phase ≠ .gradient ∨ g.gradDone = true ∨ s.recordsThere g = false) := by simp [hp, hd, hl]
  refine congrArg Host.Outcome.next ((atTag_runs hg hr _).trans ?_)
  simp only [if_neg due, ht, hm, ne_eq, not_true_eq_false, if_false]
  exact if_neg hc

/-- A record that flash cannot deliver votes NO. -/
theorem gradientComplete_damaged (hm : (s.readExtents media (s.stepRecords g).2).1 ≠ []) : exec (.gradientComplete tag far media) s =
    .next (State.follow tag.job ((s.readExtents media (s.stepRecords g).2).2.sendVote tag.job false false .damaged)) := by
  have due : ¬ (g.phase ≠ .gradient ∨ g.gradDone = true ∨ s.recordsThere g = false) := by simp [hp, hd, hl]
  refine congrArg Host.Outcome.next ((atTag_runs hg hr _).trans ?_)
  simp only [if_neg due, ht]
  exact if_pos hm

end

variable (he : tag.epoch = (s.peer tag.rank).knownEpoch)
include he

/-! ### GRAD_READY and REDUCE (R213) -/

/-- The coordinator notes the rank, and after the last one REDUCE goes out. -/
theorem gradReady_counts (hp : g.phase = .gradient) (hc : g.coordinator = s.ownRank) (ho : s.others.contains tag.rank = true) :
    let l := if g.gradReady.contains tag.rank = true then g.gradReady else g.gradReady ++ [tag.rank]
    let s' := s.modGraft tag.job fun g => { g with gradReady := l }
    exec (.gradReady tag) s = .next (if s.ranks.all l.contains = true then s'.sendReduce tag.job else s') := by
  have collects : ¬ (g.coordinator ≠ s.ownRank ∨ g.phase ≠ .gradient) := by simp [hc, hp]
  refine congrArg Host.Outcome.next ((graftMsg_current hg hr he _).trans ?_)
  simp only [if_pos ho, State.takeReady, hg, if_neg collects]
  rfl

theorem gradReady_ignored (h : s.others.contains tag.rank = false ∨ g.coordinator ≠ s.ownRank ∨ g.phase ≠ .gradient) :
    Ignores (.gradReady tag) s := by
  refine congrArg Host.Outcome.next ((graftMsg_current hg hr he _).trans ?_)
  obtain h | h := h
  · simp only [h, Bool.false_eq_true, if_false]
  · simp only [State.takeReady, hg, if_pos h, ite_self]

theorem reduce_suspect (hp : g.phase = .gradient) (hd : g.gradDone = true) (hc : g.coordinator ≠ s.ownRank) (hb : (s.compress g).2 = true) :
    exec (.reduce tag) s = .next ((s.compress g).1.sendMsg g.coordinator .graftVote
      [tag.job, tag.step, tag.attempt, 0, 0, StopCause.code .suspect]) := by
  obtain ⟨-, hs, ha⟩ := id hr
  obtain ⟨y, hy, hyc, hys, hya⟩ := compress_graftAt hg
  refine congrArg Host.Outcome.next ((graftMsg_current hg hr he _).trans ?_)
  rw [if_neg hc, reduceHere_bad hg hp hd hb, sendVote_far hy (by rw [hyc]; exact hc), hyc, hys, hya, hs, ha]
  rfl

theorem reduce_ignored (h : g.phase ≠ .gradient ∨ g.gradDone = false ∨ g.coordinator = s.ownRank) : Ignores (.reduce tag) s := by
  refine congrArg Host.Outcome.next ((graftMsg_current hg hr he _).trans ?_)
  by_cases hc : g.coordinator = s.ownRank
  · exact if_pos hc
  · rw [if_neg hc, reduceHere_idle hg (h.imp_right fun h => h.resolve_right hc)]

theorem reduce_sends (hp : g.phase = .gradient) (hd : g.gradDone = true) (hc : g.coordinator ≠ s.ownRank) (hb : (s.compress g).2 = false)
    {y z : Graft} (hy : (s.compress g).1.graftAt tag.job = some y)
    (hz : (y.contribs.foldl (fun s c => s.sendBucket tag.job c) (s.compress g).1).graftAt tag.job = some z) : exec (.reduce tag) s = .next
      (z.waiting.foldl (fun s p => s.runHop tag.job p)
        ((y.contribs.foldl (fun s c => s.sendBucket tag.job c) (s.compress g).1).modGraft tag.job fun g => { g with waiting := [] })) := by
  refine congrArg Host.Outcome.next ((graftMsg_current hg hr he _).trans ?_)
  rw [if_neg hc, reduceHere_sends hg hp hd hb hy hz]

/-! ### ANNOUNCE_RECEIVED and CHAIN_HOP (R215 to R217) -/

theorem announce_ignored {a : Announce} (ha : (s.ownGroup.2).contains a.rank = false) : Ignores (.announceReceived tag a) s :=
  congrArg Host.Outcome.next ((graftMsg_current hg hr he _).trans (if_neg (ne_true_of_eq_false ha)))

theorem announce_taken {a : Announce} (ha : (s.ownGroup.2).contains a.rank = true) :
    exec (.announceReceived tag a) s = .next (s.takeAnnounce tag.job a) :=
  congrArg Host.Outcome.next ((graftMsg_current hg hr he _).trans (if_pos ha))

/-- A partial that no sender could have written is not taken. -/
theorem chainHop_unwritten {m : ChainMsg} (hm : readPartial m = none) : Ignores (.chainHop tag m) s := by
  refine congrArg Host.Outcome.next ((graftMsg_current hg hr he _).trans ?_)
  simp only [hm]

/-- A partial of the rank's own group is its next hop, unless the rank is the head. -/
theorem chainHop_runs {m : ChainMsg} {p : ChainPartial} (hm : readPartial m = some p) (hp : p.group = s.ownGroup.1)
    (hh : (s.ownGroup.2).headD s.ownRank ≠ s.ownRank) : exec (.chainHop tag m) s = .next (s.runHop tag.job p) := by
  refine congrArg Host.Outcome.next ((graftMsg_current hg hr he _).trans ?_)
  simp only [hm]
  exact if_pos ⟨hp, hh⟩

theorem chainHop_ignored {m : ChainMsg} (h : m.group ≠ s.ownGroup.1 ∨ (s.ownGroup.2).headD s.ownRank = s.ownRank ∨ m.bucket ∈ g.passed) :
    Ignores (.chainHop tag m) s := by
  cases hm : readPartial m with
  | none => exact chainHop_unwritten hg hr he hm
  | some p =>
    obtain ⟨bucket, group⟩ := readPartial_names hm
    by_cases next : p.group = s.ownGroup.1 ∧ (s.ownGroup.2).headD s.ownRank ≠ s.ownRank
    · have passed := (h.resolve_left (not_not_intro (group ▸ next.1))).resolve_left next.2
      rw [Ignores, chainHop_runs hg hr he hm next.1 next.2, runHop_passed hg (bucket ▸ passed)]
    · refine congrArg Host.Outcome.next ((graftMsg_current hg hr he _).trans ?_)
      simp only [hm]
      exact if_neg next

/-! ### GROUP_PARTIAL (R218, R219, R221) -/

/-- An owner takes what belongs to a bucket of its own. -/
theorem groupPartial_owned {msg : OwnerMsg} (ho : ∃ b ∈ s.ownBuckets g, b.2 = ownerBucket msg) :
    exec (.groupPartial tag msg) s = .next (s.takeOwnerMsg tag.job msg) := by
  have owned : ((s.ownBuckets g).any fun b => b.2 == ownerBucket msg) = true := by simpa only [List.any_eq_true, beq_iff_eq] using ho
  exact congrArg Host.Outcome.next ((graftMsg_current hg hr he _).trans (if_pos owned))

theorem groupPartial_foreign {msg : OwnerMsg} (ho : ∀ b ∈ s.ownBuckets g, b.2 ≠ ownerBucket msg) : Ignores (.groupPartial tag msg) s := by
  have foreign : ((s.ownBuckets g).any fun b => b.2 == ownerBucket msg) ≠ true := by
    simpa only [ne_eq, List.any_eq_true, beq_iff_eq, not_exists, not_and] using ho
  exact congrArg Host.Outcome.next ((graftMsg_current hg hr he _).trans (if_neg foreign))

theorem groupPartial_unwritten {m : ChainMsg} (hm : readPartial m = none) : Ignores (.groupPartial tag (.partialSum m)) s := by
  refine congrArg Host.Outcome.next ((graftMsg_current hg hr he _).trans ?_)
  simp only [State.takeOwnerMsg, hm, ite_self]

end

end Sys2Proof.Machine
end

section
/-! PROOFS. The end of a graft step (R219 to R226, R229): the barrier, the votes, the checkpoint, the decision and the timeouts (O58). -/

namespace Sys2Proof.Machine

open Sys2Proof

/-! ### GRAFT_BARRIER (R218 to R221) -/

/-- The sums of the buckets that this rank owns. -/
def State.stepSums (s : State) (g : Graft) (t : Table) : List (Nat × List W32) :=
  (s.ownBuckets g).map fun b => (b.2, (List.range (g.desc.elements t.desc b.1)).map (sumElement (g.groups.filter fun p => p.bucket == b.2)))

/-- A residual block of the job is there and not DAMAGED. -/
def State.residualHeld (s : State) (job bucket : Nat) : Bool :=
  match s.home? (residualObj job bucket) with | some h => !h.damaged | none => false

/-- It is missing or DAMAGED. -/
def State.residualLost (s : State) (job bucket : Nat) : Bool :=
  match s.home? (residualObj job bucket) with | some h => h.damaged | none => true

/-- All the residual blocks of the job are there. -/
def State.residualsHeld (s : State) (job : Nat) (g : Graft) : Bool := (s.bucketsOf g).all fun b => s.residualHeld job b.2

theorem residualLost_eq (s : State) (job bucket : Nat) : s.residualLost job bucket = !s.residualHeld job bucket := by
  unfold State.residualLost State.residualHeld
  cases s.home? (residualObj job bucket) with
  | none => rfl
  | some h => exact (Bool.not_not _).symm

theorem any_residualLost (s : State) (job : Nat) (g : Graft) :
    ((s.bucketsOf g).any fun b => s.residualLost job b.2) = !s.residualsHeld job g := by
  simp only [residualLost_eq, State.residualsHeld, List.not_all_eq_any_not]

/-- A mismatch of the cross-check is logged (R220). -/
def State.logMismatch (s : State) (job : Nat) (g : Graft) : Option (Nat × Nat) → State
  | some m => s.logCounted { cls := .ue, unitType := unitGraft, unitIndex := job, addr := BitVec.ofNat 64 g.step
                             lastAddr := BitVec.ofNat 64 (m.1 * 2 ^ 32 + m.2), source := 3 }
  | none => s

/-- The owner keeps its sums and votes. -/
def State.ownerVote (s : State) (job : Nat) (g : Graft) (sums : List (Nat × List W32)) (yes : Bool) (c : StopCause) : State :=
  State.follow job ((s.modGraft job fun g => { g with sums := sums, voted := true, votedYes := yes }).sendVote job yes (g.groups.any (·.rescaled)) c)

/-- What the owner finds wrong with a block it writes or holds comes before what it finds wrong with the sums (log 74). -/
def barrierCause (damaged yes : Bool) : StopCause := if damaged then .damaged else if yes then .done else .suspect

section
variable {s : State} {job : Nat} {g : Graft} (hg : s.graftAt job = some g)
include hg

/-- Before the last signal, and after the vote, the barrier does nothing. -/
theorem graftBarrier_ignored (h : g.phase ≠ .reduce ∨ g.voted = true ∨ g.signals ≠ s.barrierTarget g) : Ignores (.graftBarrier job) s := by
  refine congrArg Host.Outcome.next ?_
  rw [hg]
  split
  · rename_i x t e _
    cases e
    refine if_pos ?_
    obtain h | h | h := h
    · exact .inl h
    · exact .inr (.inl h)
    · exact .inr (.inr (.inr h))
  · rfl

variable {t : Table} (ht : s.tableOf g = some t) (hp : g.phase = .reduce) (hv : g.voted = false) (ho : s.ownBuckets g ≠ [])
  (hs : g.signals = s.barrierTarget g)
include ht hp hv ho hs

/-- With the last signal the owner sums, checks and votes. -/
theorem graftBarrier_votes :
    let sums := s.stepSums g t
    let damaged := s.tunedDamaged g || !s.residualsHeld job g
    let yes := !damaged && (s.firstMismatch g sums).isNone && sums.all fun b => b.2.all fpFinite
    exec (.graftBarrier job) s =
      .next ((s.logMismatch job g (s.firstMismatch g sums)).ownerVote job g sums yes (barrierCause damaged yes)) := by
  have due : ¬ (g.phase ≠ .reduce ∨ g.voted = true ∨ s.ownBuckets g = [] ∨ g.signals ≠ s.barrierTarget g) := by simp [hp, hv, ho, hs]
  have model : exec (.graftBarrier job) s = .next (
      let sums := s.stepSums g t
      let damaged := s.tunedDamaged g || (s.bucketsOf g).any fun b => s.residualLost job b.2
      let yes := !damaged && (s.firstMismatch g sums).isNone && !sums.any fun b => !b.2.all fpFinite
      (s.logMismatch job g (s.firstMismatch g sums)).ownerVote job g sums yes (barrierCause damaged yes)) := by
    refine congrArg Host.Outcome.next ?_
    simp only [hg, Option.bind_some, ht, if_neg due]
    rfl
  rw [model]
  simp only [any_residualLost, List.not_any_eq_all_not, Bool.not_not]

/-- A block that it writes, or one that it holds, is DAMAGED or missing: NO. -/
theorem graftBarrier_damaged (hb : s.tunedDamaged g = true ∨ s.residualsHeld job g = false) : exec (.graftBarrier job) s = .next
    ((s.logMismatch job g (s.firstMismatch g (s.stepSums g t))).ownerVote job g (s.stepSums g t) false .damaged) := by
  have damaged : (s.tunedDamaged g || !s.residualsHeld job g) = true := by simpa using hb
  rw [graftBarrier_votes hg ht hp hv ho hs, damaged]
  rfl

variable (hd : s.tunedDamaged g = false) (hh : s.residualsHeld job g = true)
include hd hh

/-- The sums pass the cross-check and are finite: YES. -/
theorem graftBarrier_yes (hm : s.firstMismatch g (s.stepSums g t) = none) (hf : ((s.stepSums g t).all fun b => b.2.all fpFinite) = true) :
    exec (.graftBarrier job) s = .next (s.ownerVote job g (s.stepSums g t) true .done) := by
  rw [graftBarrier_votes hg ht hp hv ho hs, hd, hh, hm, hf]
  rfl

/-- They do not, or are not: NO. -/
theorem graftBarrier_suspect (hb : (s.firstMismatch g (s.stepSums g t)).isSome = true ∨ ((s.stepSums g t).all fun b => b.2.all fpFinite) = false) :
    exec (.graftBarrier job) s = .next
      ((s.logMismatch job g (s.firstMismatch g (s.stepSums g t))).ownerVote job g (s.stepSums g t) false .suspect) := by
  have no : ((s.firstMismatch g (s.stepSums g t)).isNone && (s.stepSums g t).all fun b => b.2.all fpFinite) = false := by
    obtain hb | hb := hb
    · rw [Option.isNone_eq_false_iff.2 hb, Bool.false_and]
    · rw [hb, Bool.and_false]
  rw [graftBarrier_votes hg ht hp hv ho hs, hd, hh]
  simp only [Bool.not_true, Bool.or_false, Bool.not_false, Bool.true_and, no]
  rfl

end

/-- The vote of an owner that another rank coordinates leaves for it. -/
theorem ownerVote_far {s : State} {job : Nat} {g : Graft} (hg : s.graftAt job = some g) (hc : g.coordinator ≠ s.ownRank)
    (sums : List (Nat × List W32)) (yes : Bool) (c : StopCause) : s.ownerVote job g sums yes c =
      (s.modGraft job fun g => { g with sums := sums, voted := true, votedYes := yes }).sendMsg g.coordinator .graftVote
        [job, g.step, g.attempt, yes.toNat, (g.groups.any (·.rescaled)).toNat, c.code] := by
  have there : (s.modGraft job fun g => { g with sums := sums, voted := true, votedYes := yes }).graftAt job =
      some { g with sums := sums, voted := true, votedYes := yes } := graftAt_modGraft hg fun _ => rfl
  rw [State.ownerVote, sendVote_far there hc]
  rfl

/-! ### The query (R222) -/

section
variable {s : State} {job : Nat} {g : Graft} (hg : s.graftAt job = some g)
include hg

theorem voteQuery_asks (hp : g.phase = .reduce) (hy : g.votedYes = true) (hc : g.coordinator ≠ s.ownRank) :
    exec (.graftVoteQueryTimer job) s = .next (s.sendMsg g.coordinator .voteQuery [job, g.step, g.attempt]) := by
  refine congrArg Host.Outcome.next ?_
  simp only [hg]
  exact if_pos ⟨hp, hy, hc⟩

theorem voteQuery_ignored (h : g.phase ≠ .reduce ∨ g.votedYes = false ∨ g.coordinator = s.ownRank) : Ignores (.graftVoteQueryTimer job) s := by
  refine congrArg Host.Outcome.next ?_
  simp only [hg]
  refine if_neg ?_
  rintro ⟨hp, hy, hc⟩
  obtain h | h | h := h
  · exact h hp
  · exact absurd (h.symm.trans hy) (by decide)
  · exact hc h

/-! ### GRAFT_CHECKPOINT (R229) -/

/-- The job with an owner's part of its checkpoint written, and with the checkpoint of a step recorded. -/
def Graft.withPart (r : Nat) (g : Graft) : Graft := { g with ckptDone := g.ckptDone ++ [r] }
def Graft.withCkpt (k : Nat) (g : Graft) : Graft := { g with lastCkpt := some k, ckptStep := none, ckptDone := [] }

/-- Another owner's part is noted. -/
def State.notePart (s : State) (job r : Nat) : State := (s.modGraft job (Graft.withPart r)).settleCkpt job

theorem checkpoint_none (r : Nat) (peers : List (Nat × Buf)) (hk : g.ckptStep = none) : Ignores (.graftCheckpoint job r peers) s := by
  refine congrArg Host.Outcome.next ?_
  simp only [hg, hk, Option.isNone_none, if_true]

theorem checkpoint_own (peers : List (Nat × Buf)) (hk : g.ckptStep.isSome = true) : exec (.graftCheckpoint job s.ownRank peers) s =
    .next (((s.writeCkpt job peers).settleCkpt job).resumeCommit job) := by
  refine congrArg Host.Outcome.next ?_
  simp only [hg, Option.isNone_eq_false_iff.2 hk, Bool.false_eq_true, if_false, if_true]

theorem checkpoint_ignored {r : Nat} (peers : List (Nat × Buf)) (hr : r ≠ s.ownRank)
    (h : g.coordinator ≠ s.ownRank ∨ (s.graftOwners g).contains r = false ∨ r ∈ g.ckptDone) : Ignores (.graftCheckpoint job r peers) s := by
  have unasked : ¬ (g.coordinator = s.ownRank ∧ (s.graftOwners g).contains r = true ∧ g.ckptDone.contains r = false) := by
    rintro ⟨hc, ho, hd⟩
    obtain h | h | h := h
    · exact h hc
    · exact absurd (h.symm.trans ho) (by decide)
    · exact absurd ((List.contains_iff_mem.2 h).symm.trans hd) (by decide)
  refine congrArg Host.Outcome.next ?_
  simp only [hg, if_neg hr, if_neg unasked, ite_self]

/-- Another owner has finished its part. -/
theorem checkpoint_reported {r : Nat} (peers : List (Nat × Buf)) (hk : g.ckptStep.isSome = true) (hr : r ≠ s.ownRank)
    (hc : g.coordinator = s.ownRank) (ho : (s.graftOwners g).contains r = true) (hd : r ∉ g.ckptDone) : exec (.graftCheckpoint job r peers) s =
      .next ((s.notePart job r).resumeCommit job) := by
  have asked : g.coordinator = s.ownRank ∧ (s.graftOwners g).contains r = true ∧ g.ckptDone.contains r = false :=
    ⟨hc, ho, by simpa using hd⟩
  refine congrArg Host.Outcome.next ?_
  simp only [hg, Option.isNone_eq_false_iff.2 hk, Bool.false_eq_true, if_false, if_neg hr, if_pos asked]
  rfl

/-- With every owner's part the checkpoint is LAST_CKPT, and every rank is told. -/
theorem settleCkpt_done {k : Nat} (hk : g.ckptStep = some k) (hc : g.coordinator = s.ownRank)
    (hd : (s.graftOwners g).all g.ckptDone.contains = true) : s.settleCkpt job =
      (s.modGraft job (Graft.withCkpt k)).sendAll .ckptRecorded [job, k] := by
  simp only [State.settleCkpt, hg, hk]
  exact if_pos ⟨hc, hd⟩

/-- A COMMIT that waits for no vote any more goes on; else nothing does. -/
theorem resumeCommit_coordinator (hc : g.coordinator = s.ownRank) (hk : g.ckptStep = none) : s.resumeCommit job =
    if s.allYes g = true then State.follow job (s.decideStep job true .done) else s := by
  simp only [State.resumeCommit, hg, hc, hk, Option.isNone_none, true_and]

end

/-- Which ranks own a bucket of a job does not depend on the step in progress. -/
theorem graftOwners_congr {s t : State} (ht : t.tables = s.tables) {g h : Graft} (hd : h.desc = g.desc) : t.graftOwners h = s.graftOwners g := by
  simp only [State.graftOwners, State.bucketsOf, State.tableOf, State.table?, ht, hd]

theorem allYes_congr {s t : State} (ht : t.tables = s.tables) {g h : Graft} (hd : h.desc = g.desc) (hp : h.phase = g.phase)
    (hv : h.votesYes = g.votesYes) : t.allYes h = s.allYes g := by
  rw [State.allYes, graftOwners_congr ht hd, hp, hv, State.allYes]

section
variable {s : State} {job r k : Nat} {g : Graft} (hg : s.graftAt job = some g) (hk : g.ckptStep = some k) (hc : g.coordinator = s.ownRank)
  (hd : ∀ o ∈ s.graftOwners g, o = r ∨ o ∈ g.ckptDone)
include hg hk hc hd

/-- The part of the last owner makes LAST_CKPT. -/
theorem notePart_last : s.notePart job r =
    ((s.modGraft job (Graft.withPart r)).modGraft job (Graft.withCkpt k)).sendAll .ckptRecorded [job, k] := by
  have all : (s.graftOwners g).all (g.ckptDone ++ [r]).contains = true :=
    List.all_eq_true.2 fun o ho => by simpa [or_comm] using hd o ho
  exact settleCkpt_done (graftAt_modGraft (f := Graft.withPart r) hg fun _ => rfl) hk hc all

theorem notePart_graftAt : (s.notePart job r).graftAt job = some (g.withCkpt k) := by
  rw [notePart_last hg hk hc hd, graftAt_congr (sendAll_grafts ..)]
  exact graftAt_modGraft (f := Graft.withCkpt k) (graftAt_modGraft (f := Graft.withPart r) hg fun _ => rfl) fun _ => rfl

/-- A COMMIT that waited for it is decided. -/
theorem notePart_resumes : (s.notePart job r).resumeCommit job =
    if s.allYes g = true then State.follow job ((s.notePart job r).decideStep job true .done) else s.notePart job r := by
  have rank : (s.notePart job r).ownRank = s.ownRank := by
    rw [notePart_last hg hk hc hd, sendAll_ownRank]
    rfl
  have tables : (s.notePart job r).tables = s.tables := by
    rw [notePart_last hg hk hc hd, sendAll_tables]
    rfl
  rw [resumeCommit_coordinator (notePart_graftAt hg hk hc hd) (by rw [rank]; exact hc) rfl,
    allYes_congr (s := s) (g := g) (h := g.withCkpt k) tables rfl rfl rfl]

end

/-! ### GRAFT_VOTE at the coordinator (R222) -/

/-- The YES votes with that of a rank. -/
def Graft.votesWith (g : Graft) (rank : Nat) : List Nat := if g.votesYes.contains rank then g.votesYes else g.votesYes ++ [rank]

theorem mem_votesWith {g : Graft} {rank o : Nat} : o ∈ g.votesWith rank ↔ o = rank ∨ o ∈ g.votesYes := by
  unfold Graft.votesWith
  split
  · rename_i h
    exact (or_iff_right_of_imp fun e => e ▸ List.contains_iff_mem.1 h).symm
  · simp [or_comm]

/-- The vote is counted. -/
def State.noteYes (s : State) (i : Nat) (g : Graft) (rank : Nat) (rescaled : Bool) : State :=
  s.modGraft i fun x => { x with votesYes := g.votesWith rank, rescaledStep := x.rescaledStep || rescaled }

section
variable {s : State} {i rank : Nat} {g : Graft} (hg : s.graftAt i = some g)
include hg

theorem takeVote_elsewhere (hc : g.coordinator ≠ s.ownRank) (yes rescaled : Bool) (c : StopCause) :
    s.takeVote i rank yes rescaled c = (s, false) := by
  simp only [State.takeVote, hg]
  exact if_pos (.inl hc)

variable (hc : g.coordinator = s.ownRank) (hp : g.phase ≠ .stopped)
include hc hp

/-- One NO aborts. -/
theorem takeVote_no (rescaled : Bool) (c : StopCause) : s.takeVote i rank false rescaled c = s.decideStep i false c := by
  have takes : ¬ (g.coordinator ≠ s.ownRank ∨ g.phase = .stopped) := by simp [hc, hp]
  simp only [State.takeVote, hg, if_neg takes, Bool.not_false, if_true]

/-- A YES commits when every owner has voted so and no checkpoint is being written, and is counted else. -/
theorem takeVote_yes (rescaled : Bool) (c : StopCause) : s.takeVote i rank true rescaled c =
    if (∀ o ∈ s.graftOwners g, o = rank ∨ o ∈ g.votesYes) ∧ g.ckptStep = none
      then (s.noteYes i g rank rescaled).decideStep i true .done else (s.noteYes i g rank rescaled, false) := by
  have takes : ¬ (g.coordinator ≠ s.ownRank ∨ g.phase = .stopped) := by simp [hc, hp]
  have voted : ((s.graftOwners g).all (g.votesWith rank).contains = true ∧ g.ckptStep.isNone = true) ↔
      (∀ o ∈ s.graftOwners g, o = rank ∨ o ∈ g.votesYes) ∧ g.ckptStep = none := by
    simp only [List.all_eq_true, List.contains_iff_mem, mem_votesWith, Option.isNone_iff_eq_none]
  simp only [State.takeVote, hg, if_neg takes, Bool.not_true, Bool.false_eq_true, if_false, ← voted]
  rfl

end

/-- A job in its reduction, whose step and attempt a tag names, runs. -/
theorem runs_of_reduce {tag : GraftTag} {g : Graft} (hp : g.phase = .reduce) (hs : g.step = tag.step) (ha : g.attempt = tag.attempt) : g.runs tag :=
  ⟨by rw [hp]; decide, hs, ha⟩

section
variable {s : State} {tag : GraftTag} {g : Graft} (hg : s.graftAt tag.job = some g) (hp : g.phase = .reduce) (hs : g.step = tag.step)
  (ha : g.attempt = tag.attempt)
include hg hp hs ha

section
variable (he : tag.epoch = (s.peer tag.rank).knownEpoch)
include he

/-- A YES of an owner is taken. -/
theorem graftVote_yes (ho : tag.rank ∈ s.others) (hw : tag.rank ∈ s.graftOwners g) (rescaled : Bool) (c : StopCause) :
    exec (.graftVote tag true rescaled c) s = .next (State.follow tag.job (s.takeVote tag.job tag.rank true rescaled c)) := by
  have taken : ¬ (s.others.contains tag.rank = false
      ∨ (true = true ∧ (g.phase ≠ .reduce ∨ (s.graftOwners g).contains tag.rank = false))) := by
    simp [ho, hp, hw]
  exact congrArg Host.Outcome.next ((graftMsg_current hg (runs_of_reduce hp hs ha) he _).trans (if_neg taken))

section
variable (hc : g.coordinator = s.ownRank) (ho : tag.rank ∈ s.others)
include hc ho

theorem graftVote_no (rescaled : Bool) (c : StopCause) :
    exec (.graftVote tag false rescaled c) s = .next (State.follow tag.job (s.decideStep tag.job false c)) := by
  have taken : ¬ (s.others.contains tag.rank = false
      ∨ (false = true ∧ (g.phase ≠ .reduce ∨ (s.graftOwners g).contains tag.rank = false))) := by
    simp [ho]
  refine congrArg Host.Outcome.next ((graftMsg_current hg (runs_of_reduce hp hs ha) he _).trans ?_)
  rw [if_neg taken, takeVote_no hg hc (by rw [hp]; decide)]

/-- A YES with another to come, or with a checkpoint being written, is counted. -/
theorem graftVote_counted (hw : tag.rank ∈ s.graftOwners g) (rescaled : Bool) (c : StopCause)
    (h : (∃ o ∈ s.graftOwners g, o ≠ tag.rank ∧ o ∉ g.votesYes) ∨ g.ckptStep.isSome = true) :
    exec (.graftVote tag true rescaled c) s = .next (s.noteYes tag.job g tag.rank rescaled) := by
  have early : ¬ ((∀ o ∈ s.graftOwners g, o = tag.rank ∨ o ∈ g.votesYes) ∧ g.ckptStep = none) := by
    rintro ⟨all, written⟩
    obtain ⟨o, ho, hr, hv⟩ | h := h
    · exact (all o ho).elim hr hv
    · rw [written] at h
      exact absurd h (by decide)
  rw [graftVote_yes hg hp hs ha he ho hw, takeVote_yes hg hc (by rw [hp]; decide), if_neg early]
  rfl

/-- The last YES commits. -/
theorem graftVote_commits (hw : tag.rank ∈ s.graftOwners g) (rescaled : Bool) (c : StopCause)
    (hv : ∀ o ∈ s.graftOwners g, o = tag.rank ∨ o ∈ g.votesYes) (hk : g.ckptStep = none) : exec (.graftVote tag true rescaled c) s =
      .next (State.follow tag.job ((s.noteYes tag.job g tag.rank rescaled).decideStep tag.job true .done)) := by
  rw [graftVote_yes hg hp hs ha he ho hw, takeVote_yes hg hc (by rw [hp]; decide), if_pos ⟨hv, hk⟩]

end

theorem graftVote_ignored (h : g.coordinator ≠ s.ownRank ∨ tag.rank ∉ s.others) (yes rescaled : Bool) (c : StopCause) :
    Ignores (.graftVote tag yes rescaled c) s := by
  refine congrArg Host.Outcome.next ((graftMsg_current hg (runs_of_reduce hp hs ha) he _).trans ?_)
  obtain h | h := h
  · rw [takeVote_elsewhere hg h]
    exact ite_self _
  · exact if_pos (.inl (by simpa using h))

/-! ### GRAFT_DECISION (R222 to R224) -/

theorem graftDecision_unvoted (ho : s.ownBuckets g ≠ []) (hv : g.votedYes = false) (c : StopCause) : Ignores (.graftDecision tag true c) s :=
  congrArg Host.Outcome.next ((graftMsg_current hg (runs_of_reduce hp hs ha) he _).trans (if_pos (.inr ⟨rfl, .inr ⟨ho, hv⟩⟩)))

theorem graftDecision_coordinator (hc : g.coordinator = s.ownRank) (d : Bool) (c : StopCause) : Ignores (.graftDecision tag d c) s :=
  congrArg Host.Outcome.next ((graftMsg_current hg (runs_of_reduce hp hs ha) he _).trans (if_pos (.inl hc)))

variable (hc : g.coordinator ≠ s.ownRank)
include hc

theorem graftDecision_commit (hv : s.ownBuckets g = [] ∨ g.votedYes = true) (c : StopCause) :
    exec (.graftDecision tag true c) s = .next (s.commitStep tag.job) := by
  have taken : ¬ (g.coordinator = s.ownRank ∨ (true = true ∧ (g.phase ≠ .reduce ∨ (s.ownBuckets g ≠ [] ∧ g.votedYes = false)))) := by
    rintro (own | ⟨-, early | ⟨owns, unvoted⟩⟩)
    · exact hc own
    · exact early hp
    · exact hv.elim owns fun voted => absurd (voted.symm.trans unvoted) (by decide)
  exact congrArg Host.Outcome.next ((graftMsg_current hg (runs_of_reduce hp hs ha) he _).trans (if_neg taken))

theorem graftDecision_abort (c : StopCause) : exec (.graftDecision tag false c) s = .next (s.abortStep tag.job c).1 := by
  have taken : ¬ (g.coordinator = s.ownRank ∨ (false = true ∧ (g.phase ≠ .reduce ∨ (s.ownBuckets g ≠ [] ∧ g.votedYes = false)))) := by
    simp [hc]
  exact congrArg Host.Outcome.next ((graftMsg_current hg (runs_of_reduce hp hs ha) he _).trans (if_neg taken))

end

end

/-! ### Timeouts (R225; log 74) -/

/-- An attempt that times out is reported as an ABORT. -/
def State.timeOut (s : State) (i : Nat) : State := State.follow i (s.sendVote i false false .deadline)

section
variable {s : State} {i : Nat} {g : Graft} (hg : s.graftAt i = some g)
include hg

theorem timeOut_own (hp : g.phase ≠ .stopped) (hc : g.coordinator = s.ownRank) :
    s.timeOut i = State.follow i (s.decideStep i false .deadline) := by
  rw [State.timeOut, sendVote_own hg hc, takeVote_no hg hc hp]

theorem timeOut_far (hc : g.coordinator ≠ s.ownRank) : s.timeOut i =
    s.sendMsg g.coordinator .graftVote [i, g.step, g.attempt, 0, 0, StopCause.code .deadline] := by
  rw [State.timeOut, sendVote_far hg hc]
  rfl

end

section
variable {s : State} {tag : GraftTag} {g : Graft} (hg : s.graftAt tag.job = some g) (hp : g.phase = .reduce) (hs : g.step = tag.step)
  (ha : g.attempt = tag.attempt)
include hg hp hs ha

theorem hopTimeout_late (hb : ∃ b ∈ s.bucketsOf g, b.2 ∉ g.passed) : exec (.hopTimeout tag) s = .next (s.timeOut tag.job) := by
  have late : g.phase = .reduce ∧ ((s.bucketsOf g).any fun b => !g.passed.contains b.2) = true := ⟨hp, by simpa using hb⟩
  exact congrArg Host.Outcome.next ((atTag_runs hg (runs_of_reduce hp hs ha) _).trans (if_pos late))

theorem hopTimeout_passed (hb : ∀ b ∈ s.bucketsOf g, b.2 ∈ g.passed) : Ignores (.hopTimeout tag) s := by
  have early : ¬ (g.phase = .reduce ∧ ((s.bucketsOf g).any fun b => !g.passed.contains b.2) = true) := by
    rintro ⟨-, late⟩
    obtain ⟨b, hm, hn⟩ := List.any_eq_true.1 late
    simp [hb b hm] at hn
  exact congrArg Host.Outcome.next ((atTag_runs hg (runs_of_reduce hp hs ha) _).trans (if_neg early))

theorem stepTimeout_late (h : (g.coordinator = s.ownRank ∧ s.allYes g = false) ∨ (s.ownBuckets g ≠ [] ∧ g.voted = false)) :
    exec (.stepTimeout tag) s = .next (s.timeOut tag.job) :=
  congrArg Host.Outcome.next ((atTag_runs hg (runs_of_reduce hp hs ha) _).trans (if_pos ⟨hp, h⟩))

theorem stepTimeout_early (hc : g.coordinator ≠ s.ownRank ∨ s.allYes g = true) (hv : s.ownBuckets g = [] ∨ g.voted = true) :
    Ignores (.stepTimeout tag) s := by
  have early : ¬ (g.phase = .reduce ∧ ((g.coordinator = s.ownRank ∧ s.allYes g = false) ∨ (s.ownBuckets g ≠ [] ∧ g.voted = false))) := by
    rintro ⟨-, ⟨own, unanimous⟩ | ⟨owns, unvoted⟩⟩
    · exact hc.elim (· own) fun yes => absurd (yes.symm.trans unanimous) (by decide)
    · exact hv.elim owns fun voted => absurd (voted.symm.trans unvoted) (by decide)
  exact congrArg Host.Outcome.next ((atTag_runs hg (runs_of_reduce hp hs ha) _).trans (if_neg early))

end

/-! ### ABORT (R224 to R226) -/

/-- The job without the attempt that an ABORT ends. -/
def Graft.afterAbort (c : StopCause) (g : Graft) : Graft :=
  { g.clearAttempt with aborted := satInc g.aborted, suspects := if c = .suspect then satInc g.suspects else g.suspects, phase := .gradient }

section
variable {s : State} {i : Nat} {g : Graft} (hg : s.graftAt i = some g)
include hg

/-- After a timeout the attempt runs again, while RETRY allows it and no STOP_GRAFT waits. -/
theorem abortStep_again (hr : g.attempt < g.desc.retry) (ha : g.stopAsked = false) : s.abortStep i .deadline =
    ((s.modGraft i (Graft.afterAbort .deadline)).modGraft i fun g => { g with attempt := g.attempt + 1 }, true) := by
  simp only [State.abortStep, hg]
  exact if_pos ⟨trivial, hr, ha⟩

/-- Any other ABORT stops the job. -/
theorem abortStep_stops {c : StopCause} (h : c ≠ .deadline ∨ g.desc.retry ≤ g.attempt ∨ g.stopAsked = true) : s.abortStep i c =
    ((s.modGraft i (Graft.afterAbort c)).endGraft i (if g.inDoubt then .notReady else c), false) := by
  have last : ¬ (c = .deadline ∧ g.attempt < g.desc.retry ∧ g.stopAsked = false) := by
    rintro ⟨hc, hr, ha⟩
    obtain h | h | h := h
    · exact h hc
    · exact absurd hr (Nat.not_lt.2 h)
    · exact absurd (h.symm.trans ha) (by decide)
  simp only [State.abortStep, hg]
  exact if_neg last

end

/-! ### COMMIT (R223, R224, R226, R229) -/

/-- The job after a COMMIT: `n` steps of this run are committed, and the checkpoint of the step is due or not. -/
def Graft.afterCommit (n : Nat) (ckpt : Bool) (g : Graft) : Graft :=
  { g.clearAttempt with
    plane := !g.plane, lastCommit := some g.step, committedRun := n, step := g.step + 1, attempt := 0, phase := .gradient
    rescaledRun := g.rescaledRun || g.rescaledStep
    rescaledSteps := if g.rescaledStep then satInc g.rescaledSteps else g.rescaledSteps
    gradReady := [], gradient := [], gradDone := false
    ckptStep := if ckpt then some g.step else g.ckptStep, ckptDone := if ckpt then [] else g.ckptDone }

/-- The rows of the owned buckets take their deltas. -/
def State.applyStep (s : State) (g : Graft) : State :=
  match s.tableOf g with
  | some t => (s.ownBuckets g).foldl (fun s b => s.applyBucket g t b) s
  | none => s

theorem applyStep_grafts (s : State) (g : Graft) : (s.applyStep g).grafts = s.grafts := by
  unfold State.applyStep
  split
  · exact foldl_keeps (·.grafts) (fun s b => applyBucket_grafts s g _ b) _ s
  · rfl

/-- Why the job stops after a COMMIT, if it does. -/
def State.stopAfter (s : State) (g : Graft) : Option StopCause :=
  if g.inDoubt then some .notReady else if s.tunedDamaged g then some .damaged
  else if g.desc.steps ≠ 0 ∧ g.desc.steps ≤ g.committedRun + 1 then some .done else if g.stopAsked then some .stopGraft else none

/-- The other ranks hear of it from the coordinator, and the coordinator of a DAMAGED block. -/
def State.tellStop (s : State) (own : Nat) (g : Graft) (i : Nat) (c : StopCause) : State :=
  if g.coordinator = own then s.sendAll .stopGraft [i, c.code]
  else if c = .damaged then s.sendMsg g.coordinator .graftDamaged [i] else s

theorem tellStop_grafts (s : State) (own : Nat) (g : Graft) (i : Nat) (c : StopCause) : (s.tellStop own g i c).grafts = s.grafts := by
  unfold State.tellStop
  split
  · exact sendAll_grafts ..
  · split
    · exact sendMsg_grafts ..
    · rfl

section
variable {s : State} {i : Nat} {g : Graft} (hg : s.graftAt i = some g)
include hg

theorem commitStep_eq : s.commitStep i =
    let ckpt := decide (g.desc.ckptSteps ≠ 0) && decide ((g.step + 1) % g.desc.ckptSteps = 0)
    let t := (s.applyStep g).modGraft i (Graft.afterCommit (g.committedRun + 1) ckpt)
    match s.stopAfter g with
    | none => t
    | some c => (t.tellStop s.ownRank g i c).endGraft i c := by
  simp only [State.commitStep, hg]
  rfl

/-- After a COMMIT the job is at its next step, or has stopped there. -/
theorem commitStep_graftAt : ∃ n ckpt, (s.commitStep i).graftAt i = some (g.afterCommit n ckpt)
    ∨ ∃ c, (s.commitStep i).graftAt i = some ((g.afterCommit n ckpt).idle c) := by
  refine ⟨g.committedRun + 1, decide (g.desc.ckptSteps ≠ 0) && decide ((g.step + 1) % g.desc.ckptSteps = 0), ?_⟩
  have committed (n : Nat) (ckpt : Bool) : ((s.applyStep g).modGraft i (Graft.afterCommit n ckpt)).graftAt i = some (g.afterCommit n ckpt) :=
    graftAt_modGraft ((graftAt_congr (applyStep_grafts s g) i).trans hg) fun _ => rfl
  rw [commitStep_eq hg]
  cases s.stopAfter g with
  | none => exact .inl (committed ..)
  | some c => exact .inr ⟨c, endGraft_stopped ((graftAt_congr (tellStop_grafts ..) i).trans (committed ..)) nofun c⟩

end

end Sys2Proof.Machine
end

section
/-! PROOFS. The steps of a graft job as O58 states them (O58). -/

namespace Sys2Proof.Machine

open Sys2Proof

/-- A mismatch is logged under its bucket and block. -/
theorem logMismatch_eq (s : State) (job : Nat) (g : Graft) (m : Option (Nat × Nat)) : s.logMismatch job g m = match m with
    | some (k, j) => s.logCounted { cls := .ue, unitType := unitGraft, unitIndex := job, addr := BitVec.ofNat 64 g.step
                                    lastAddr := BitVec.ofNat 64 (k * 2 ^ 32 + j), source := 3 }
    | none => s := by
  cases m <;> rfl

/-- Settles O58: a message of the attempt in progress by what its event does on this rank, and any other by its count; the end of a step by
what the barrier, the votes, the checkpoints, the decision and the timeouts do; ABORT and COMMIT by the job that they leave. -/
theorem graftSteps : Obligations.GraftSteps := by
  refine ⟨fun s tag g hg hp hs ha => ?messages, fun s tag g hg h => ?stale,
    ⟨fun s job g hg => ?barrier, fun s tag g hg hp hs ha => ?decision⟩, fun s i g c hg hp => ⟨?again, ?stops, ?commits⟩⟩
  case messages =>
    have hr : g.runs tag := ⟨hp, hs, ha⟩
    refine ⟨fun far media t hph hd hl ht => ⟨fun hm hc => gradientComplete_reports hg hr far media hph hd hl ht hm hc,
      fun hm => gradientComplete_damaged hg hr far media hph hd hl ht hm⟩, fun he => ?current⟩
    exact ⟨gradReady_counts hg hr he, reduce_suspect hg hr he, reduce_ignored hg hr he,
      fun hph hd hc hb y hy z hz => reduce_sends hg hr he hph hd hc hb hy hz,
      gradReady_ignored hg hr he, fun a => announce_ignored hg hr he, fun a => announce_taken hg hr he,
      fun m => chainHop_unwritten hg hr he, fun m => chainHop_ignored hg hr he,
      fun m p c hm hgr hh hn hc => (chainHop_runs hg hr he hm hgr hh).trans (congrArg Host.Outcome.next (runHop_passes hg hn hc)),
      fun m p hm hgr hh hn hc => (chainHop_runs hg hr he hm hgr hh).trans (congrArg Host.Outcome.next (runHop_waits hg hn hc)),
      fun m p hm ho hn => ⟨_, groupPartial_owned (msg := .partialSum m) hg hr he ho, takeOwnerMsg_partial hg hm hn⟩,
      fun m h => h.elim (groupPartial_unwritten hg hr he) (groupPartial_foreign (msg := .partialSum m) hg hr he),
      fun r ho => groupPartial_foreign (msg := .rawSample r) hg hr he ho,
      fun r ho hn => ⟨_, groupPartial_owned (msg := .rawSample r) hg hr he ho, takeOwnerMsg_sample hg hn⟩⟩
  case stale =>
    have counted (k : Graft → State → State) := congrArg (Host.Outcome.next (φ := Fault) (ρ := Refusal)) (graftMsg_stale hg h k)
    exact ⟨counted _, counted _, fun _ => counted _, fun _ => counted _, fun _ => counted _, fun _ _ _ => counted _, fun _ _ => counted _⟩
  case barrier =>
    refine ⟨graftBarrier_ignored hg, fun t ht hp hv ho hs => ?signalled, voteQuery_asks hg, voteQuery_ignored hg, checkpoint_none hg,
      fun r peers hr h => checkpoint_ignored hg peers hr h, checkpoint_own hg, fun r peers k hk hr hc ho hd all => ?reported⟩
    case signalled =>
      have logged (c : StopCause) := congrArg (fun x : State => Host.Outcome.next (φ := Fault) (ρ := Refusal)
        (x.ownerVote job g (s.stepSums g t) false c)) (logMismatch_eq s job g (s.firstMismatch g (s.stepSums g t)))
      exact ⟨fun hb => (graftBarrier_damaged hg ht hp hv ho hs hb).trans (logged .damaged),
        fun hd hh => ⟨graftBarrier_yes hg ht hp hv ho hs hd hh,
          fun hb => (graftBarrier_suspect hg ht hp hv ho hs hd hh hb).trans (logged .suspect)⟩,
        fun hc yes c => ownerVote_far hg hc _ yes c⟩
    case reported =>
      have noted := checkpoint_reported hg peers (by rw [hk]; rfl) hr hc ho hd
      rw [notePart_resumes hg hk hc all] at noted
      refine ⟨fun hy => ⟨_, noted.trans (by rw [if_neg (by rw [hy]; decide)]), notePart_graftAt hg hk hc all⟩, fun hy => noted.trans ?_⟩
      rw [if_pos hy]
      rfl
  case decision =>
    refine ⟨fun he => ⟨fun x c hc ho => graftVote_no hg hp hs ha he hc ho x c, fun x c hc ho hw =>
          ⟨graftVote_counted hg hp hs ha he hc ho hw x c, graftVote_commits hg hp hs ha he hc ho hw x c⟩,
        fun hc => ⟨fun ho hv => graftDecision_unvoted hg hp hs ha he ho hv, fun hv => graftDecision_commit hg hp hs ha he hc hv,
          graftDecision_abort hg hp hs ha he hc⟩,
        graftDecision_coordinator hg hp hs ha he, graftVote_ignored hg hp hs ha he⟩,
      fun hc => ?own, hopTimeout_passed hg hp hs ha, stepTimeout_early hg hp hs ha, fun hc => ?far⟩
    case own =>
      have reported := timeOut_own hg (by rw [hp]; decide) hc
      rw [← reported]
      exact ⟨hopTimeout_late hg hp hs ha, fun h => stepTimeout_late hg hp hs ha (h.imp_left fun h => ⟨hc, h⟩)⟩
    case far =>
      rw [← timeOut_far hg hc]
      exact ⟨hopTimeout_late hg hp hs ha, fun ho hv => stepTimeout_late hg hp hs ha (.inr ⟨ho, hv⟩)⟩
  case again =>
    rintro rfl hr hq
    rw [abortStep_again hg hr hq]
    exact ⟨rfl, graftAt_modGraft (graftAt_modGraft (f := Graft.afterAbort .deadline) hg fun _ => rfl) fun _ => rfl⟩
  case stops =>
    intro h
    rw [abortStep_stops hg h]
    have aborted : (s.modGraft i (Graft.afterAbort c)).graftAt i = some (g.afterAbort c) := graftAt_modGraft hg fun _ => rfl
    exact ⟨rfl, _, endGraft_stopped aborted nofun _, rfl, rfl, rfl, rfl, rfl⟩
  case commits =>
    obtain ⟨n, ckpt, running | ⟨c, stopped⟩⟩ := commitStep_graftAt hg
    · exact ⟨_, running, rfl, rfl, rfl, rfl, rfl, .inl rfl⟩
    · exact ⟨_, stopped, rfl, rfl, rfl, rfl, rfl, .inr rfl⟩

end Sys2Proof.Machine
end

section
/-! PROOFS. The sled right after reset (O5), and the handles and indices of queue pairs (O11). -/

namespace Sys2Proof.Machine

open Sys2Proof

/-- Settles O5: each field is the default of the state's definition. -/
theorem resetValues : Obligations.ResetValues :=
  ⟨rfl, rfl, rfl, rfl, rfl, rfl, rfl, rfl, rfl, rfl, rfl, rfl, rfl, ⟨rfl, rfl, rfl⟩, rfl⟩

/-! ### The lowest free index -/

theorem lowestFree_eq_some {used : List Nat} {limit i : Nat} (h : lowestFree used limit = some i) :
    i < limit ∧ i ∉ used ∧ ∀ j < i, j ∈ used := by
  obtain ⟨free, listed, lower⟩ := List.find?_range_eq_some.1 h
  refine ⟨by have := List.mem_range.1 listed; omega, by simpa using free, fun j hj => by simpa using lower j hj⟩

/-- A list that names each key once finds every member by its key. -/
theorem find_key_of_nodup {α : Type} {key : α → Nat} {l : List α} (hn : (l.map key).Nodup) {a : α} (ha : a ∈ l) :
    l.find? (fun x => key x == key a) = some a := by
  induction l with
  | nil => exact absurd ha List.not_mem_nil
  | cons b l ih =>
    obtain ⟨hb, hn⟩ := List.nodup_cons.1 hn
    rcases List.mem_cons.1 ha with rfl | ha
    · simp
    · have other : key b ≠ key a := fun e => hb (e ▸ List.mem_map_of_mem ha)
      rw [List.find?_cons, beq_eq_false_iff_ne.2 other]
      exact ih hn ha

/-! ### Queue pairs by their index (R276) -/

/-- An index names the pair listed under it, or an unused FREE one. -/
theorem queue_cases (s : State) (i : Nat) : (s.queue i ∈ s.queues ∧ (s.queue i).index = i) ∨ s.queue i = { index := i } := by
  unfold State.queue
  cases hq : s.queues.find? fun q => q.index == i with
  | none => exact .inr rfl
  | some q => exact .inl ⟨List.mem_of_find?_eq_some hq, by simpa using List.find?_some hq⟩

@[simp] theorem queue_index (s : State) (i : Nat) : (s.queue i).index = i := by
  rcases queue_cases s i with ⟨-, h⟩ | h
  · exact h
  · rw [h]

theorem queue_of_mem {s : State} (hn : (s.queues.map (·.index)).Nodup) {q : Queue} (hq : q ∈ s.queues) : s.queue q.index = q := by
  rw [State.queue, find_key_of_nodup (key := Queue.index) hn hq]
  rfl

theorem freeQueue_eq_some {s : State} {i : Nat} (hn : (s.queues.map (·.index)).Nodup) (h : s.freeQueue = some i) :
    i < 262144 ∧ (s.queue i).state = .free ∧ ∀ j < i, (s.queue j).state ≠ .free := by
  obtain ⟨limit, unused, lower⟩ := lowestFree_eq_some h
  refine ⟨limit, ?free, fun j hj => ?used⟩
  case free =>
    rcases queue_cases s i with ⟨hm, hi⟩ | hd
    · by_contra busy
      exact unused (List.mem_map.2 ⟨_, List.mem_filter.2 ⟨hm, decide_eq_true busy⟩, hi⟩)
    · rw [hd]
  case used =>
    obtain ⟨q, hq, rfl⟩ := List.mem_map.1 (lower j hj)
    obtain ⟨hm, busy⟩ := List.mem_filter.1 hq
    rw [queue_of_mem hn hm]
    exact of_decide_eq_true busy

/-! ### Queue handles -/

theorem mkQueueHandle_toNat {gen i : Nat} (hg : gen < 256) (hi : i < 2 ^ 18) : (mkQueueHandle gen i).toNat = gen * 2 ^ 24 + i := by
  rw [mkQueueHandle, BitVec.toNat_ofNat, Nat.mod_eq_of_lt (by omega)]

theorem nextGen_succ {g : Nat} (h : g < 255) : nextGen g = g + 1 := if_neg (Nat.not_le.2 h)

/-- Settles O11: the handle's layout and the generations by arithmetic, the index by `freeQueue_eq_some`. -/
theorem queueHandles : Obligations.QueueHandles := by
  refine ⟨fun gen i hg hi => ?layout, fun g h1 h2 => ?generations, fun i => ⟨rfl, rfl⟩, fun s i hn h => freeQueue_eq_some hn h⟩
  case layout =>
    rw [mkQueueHandle_toNat hg hi]
    omega
  case generations =>
    have last : nextGen 255 = 1 := rfl
    rcases Nat.lt_or_eq_of_le h2 with h | rfl
    · rw [nextGen_succ h]
      omega
    · omega

end Sys2Proof.Machine
end

section
/-! PROOFS. The life of a queue pair and the fetch of its entries (chapter 11): what each event does (O9, O10). -/

namespace Sys2Proof.Machine

open Sys2Proof

/-! ### NOP and CREATE_QUEUE (R274 to R276) -/

theorem nop_begins {s : State} {sid : Nat} {u : Sub} (h : Begins s sid 0x00 u) : exec (.nop sid) s = .next (s.finish sid (okResult u 0 0)) := by
  refine congrArg Host.Outcome.next ((run_waits _ h.1).trans ?_)
  rw [settle_begins h rfl, completeOk_begins h]

/-- The pair that a descriptor creates on an index. -/
def QueueDesc.pair (d : QueueDesc) (old : Queue) (i : Nat) : Queue :=
  { index := i, gen := old.gen, state := .active, conn := d.conn, client := d.client, log2Depth := d.log2Depth
    cqAddr := d.cqAddr, cqRkey := d.cqRkey, stale := old.stale }

/-- With no status of its own it takes the lowest FREE index. -/
theorem createQueue_ok {s : State} {sid i : Nat} {u : Sub} {b : Option Buf} {buf : Buf} (h : Begins s sid 0x01 u) (hb : u.readB b = some buf)
    (he : s.createQueueErrs u.entry.length.toNat (parseQueueDesc buf) = []) (hf : s.freeQueue = some i) :
    exec (.createQueue sid b) s = .next
      ((({ s with free := s.free + 1 } : State).setQueue ((parseQueueDesc buf).pair (s.queue i) i)).finish sid
        (okResult u (BitVec.ofNat 64 ((mkQueueHandle (s.queue i).gen i).toNat + 2 ^ 32 * (Config.rkey s.free).toNat)) (Config.ringAddr s.free))) := by
  refine congrArg Host.Outcome.next ((run_withB h hb _).trans ?_)
  simp only [settle_begins h he, hf, complete_begins h]
  rfl

/-! ### DESTROY_QUEUE and QUARANTINE (R280, R281, R309) -/

@[simp] theorem satAdd_zero {w : Nat} (n : BitVec w) : satAdd n 0 = n := by
  simp [satAdd, n.isLt]

@[simp] theorem drained_start (s : State) (k i d : Nat) : (s.start k).drained i d = s.drained i d := by
  simp only [State.drained, State.start, State.modSub, updWhere, List.all_map]
  congr 1
  funext u
  simp only [Function.comp_apply]
  split <;> rfl

section
variable {s : State} {i d : Nat} {u : Sub} (hd : (s.queue i).destroyer = some d) (hs : s.sub? d = some u)
include hd hs

theorem settleDestroy_waits (hw : s.drained i d = false) : s.settleDestroy i = s := by
  simp [State.settleDestroy, hd, hs, hw]

/-- On an open connection no completion is lost with the pair. -/
theorem settleDestroy_drained (hr : u.running = true) (hu : u.due = none) (hw : s.drained i d = true) (ho : s.connOpen (s.queue i).conn = true) :
    s.settleDestroy i = s.complete u (BitVec.ofNat 64 (u.abandoned.toNat + 2 ^ 32 * (s.queue i).undelivered.toNat)) 0 := by
  simp [State.settleDestroy, State.mustHold, hd, hs, hw, hr, hu, ho]

end

section
variable {s : State} {sid : Nat} {u : Sub} (h : Begins s sid 0x02 u) (hd : (s.queue (qhIndex u.entry.handleA)).destroyer = some sid)
include h

theorem destroyQueue_begins : exec (.destroyQueue sid) s = .next ((s.start sid).settleDestroy (qhIndex u.entry.handleA)) := by
  refine congrArg Host.Outcome.next ((run_waits _ h.1).trans ?_)
  rw [settle_begins h rfl, begins_sid h]

theorem sub_start_begins : (s.start sid).sub? sid = some { u with running := true } := by
  rw [sub_start, h.1.1, Option.map_some]

include hd

theorem destroyQueue_drained (hw : s.drained (qhIndex u.entry.handleA) sid = true)
    (ho : s.connOpen (s.queue (qhIndex u.entry.handleA)).conn = true) :
    exec (.destroyQueue sid) s = .next ((s.start sid).finish sid (okResult u
      (BitVec.ofNat 64 (u.abandoned.toNat + 2 ^ 32 * (s.queue (qhIndex u.entry.handleA)).undelivered.toNat)) 0)) := by
  obtain ⟨⟨-, -, due, -, -⟩, -⟩ := id h
  rw [destroyQueue_begins h, settleDestroy_drained (s := s.start sid) hd (sub_start_begins h) rfl due ((drained_start ..).trans hw) ho]
  have named : u.sid = sid := begins_sid h
  exact congrArg (fun k => Host.Outcome.next ((s.start sid).finish k _)) named

theorem destroyQueue_waits (hw : s.drained (qhIndex u.entry.handleA) sid = false) :
    exec (.destroyQueue sid) s = .next (s.start sid) := by
  rw [destroyQueue_begins h, settleDestroy_waits (s := s.start sid) hd (sub_start_begins h) ((drained_start ..).trans hw)]

/-- The completion of the DESTROY_QUEUE puts its pair into QUARANTINE. -/
theorem enterQuarantine_queue : (s.enterQuarantine u).queue (qhIndex u.entry.handleA) =
    { s.queue (qhIndex u.entry.handleA) with
        state := .quarantine, flushed := !(s.conn? (s.queue (qhIndex u.entry.handleA)).conn).isSome, held := []
        undelivered := satAdd (s.queue (qhIndex u.entry.handleA)).undelivered (s.queue (qhIndex u.entry.handleA)).held.length } := by
  obtain ⟨⟨-, op, -⟩, -⟩ := id h
  have opcode : u.entry.opcode = 0x02 := BitVec.eq_of_toNat_eq op
  rw [State.enterQuarantine, if_pos opcode, if_pos (by rw [hd, begins_sid h])]
  exact (congrArg (State.queue _) (queue_index s _).symm).trans (queue_setQueue s _)

end

/-- The accept event of a DESTROY_QUEUE to which no status applies. -/
theorem acceptEffect_destroy {s : State} {u : Sub} {q : Queue} (hq : s.activeQueue? u.entry.handleA = some q) (ho : u.entry.opcode = 0x02)
    (hp : u.preset = []) : s.acceptEffect u =
      (s.setQueue { q with state := .draining, destroyer := some u.sid }).modSub u.sid fun v => { v with abandoned := q.tail - q.fetched } := by
  simp [State.acceptEffect, State.acceptDestroy, hp, ho, hq]

theorem quarantineExit_flushed {s : State} {i : Nat} (hs : (s.queue i).state = .quarantine) (hf : (s.queue i).flushed = true) :
    exec (.quarantineExit i) s = .next (s.setQueue { index := i, gen := nextGen (s.queue i).gen, stale := (s.queue i).stale }) :=
  congrArg Host.Outcome.next (if_pos ⟨hs, hf⟩)

theorem quarantineExit_stays {s : State} {i : Nat} (h : (s.queue i).state ≠ .quarantine ∨ (s.queue i).flushed = false) :
    Ignores (.quarantineExit i) s :=
  congrArg Host.Outcome.next (if_neg (by rcases h with h | h <;> simp [h]))

/-! ### ATTACH_QUEUE (R309) -/

/-- What a held completion leaves as on a connection. -/
def Queue.heldWrite (q : Queue) (c : Completion) : Out := .write q.conn (q.cqSlot (c.seq - 1#32).toNat) q.cqRkey c.bytes

theorem deliverHeld_eq (s : State) (q : Queue) : s.deliverHeld q = (s.setQueue { q with held := [] }).emits (q.held.map q.heldWrite) :=
  (List.foldl_map ..).symm

theorem queue_emits (s : State) (os : List Out) (i : Nat) : (s.emits os).queue i = s.queue i := by
  rw [emits_frame]
  rfl

theorem activeQueue_eq {s : State} {h : W32} {q : Queue} (hq : s.activeQueue? h = some q) : q = s.queue (qhIndex h) := by
  simp only [State.activeQueue?] at hq
  split at hq
  · exact (Option.some.inj hq).symm
  · cases hq

section
variable {s : State} {sid : Nat} {u : Sub} {q : Queue} (h : Begins s sid 0x03 u) (hq : s.activeQueue? u.entry.handleA = some q)

theorem attachErrs_nil {e : Entry} (hq : s.activeQueue? e.handleA = some q) (ho : s.connOpen q.conn = false) (hb : s.connOpen e.handleB = true)
    (hc : ∀ p ∈ s.queues, p.state ≠ .free → p.conn = e.handleB → p.client = q.client) : s.attachErrs e = [] := by
  simpa [State.attachErrs, when, hq, ho, hb] using hc

include h hq

theorem attachQueue_ok (he : s.attachErrs u.entry = []) : exec (.attachQueue sid) s = .next
    (((s.setQueue { q with conn := u.entry.handleB, held := [] }).emits (q.held.map { q with conn := u.entry.handleB }.heldWrite)).finish sid
      (okResult u 0 0)) := by
  refine congrArg Host.Outcome.next ((run_waits _ h.1).trans ?_)
  rw [settle_begins h he, ← activeQueue_eq hq, completeOk_begins h, deliverHeld_eq]

end

/-! ### Doorbells (R277, R282, R312) -/

theorem doorbell_open {s : State} {conn : W32} {offset : Nat} (data : Buf) (hc : s.connOpen conn = true) (hl : 0x100000 ≤ offset)
    (hr : offset < 0x300000) : exec (.doorbell conn offset data) s = .next (s.doorbellWrite conn offset data) :=
  congrArg Host.Outcome.next (if_pos ⟨hc, hl, hr⟩)

theorem doorbellWrite_misplaced (s : State) (conn : W32) {offset : Nat} {data : Buf} (h : data.length ≠ 8 ∨ offset % 8 ≠ 0) :
    s.doorbellWrite conn offset data = { s with hp := { s.hp with frontBadWrite := satInc s.hp.frontBadWrite } } := if_pos h

/-- One aligned 8 B write rings the pair whose doorbell it is. -/
theorem doorbellWrite_rings (s : State) (conn : W32) {offset : Nat} {data : Buf} (hn : data.length = 8) (ha : offset % 8 = 0) :
    s.doorbellWrite conn offset data =
      match judgeDoorbell (s.queue ((offset - 0x100000) / 8)) conn ((offset - 0x100000) / 8) (BitVec.ofNat 64 (Buf.le data 0 8)) with
      | .stale => s.setQueue { s.queue ((offset - 0x100000) / 8) with stale := satInc (s.queue ((offset - 0x100000) / 8)).stale }
      | .bad => s.setQueue { s.queue ((offset - 0x100000) / 8) with badDoorbell := satInc (s.queue ((offset - 0x100000) / 8)).badDoorbell }
      | .taken => s.setQueue { s.queue ((offset - 0x100000) / 8) with tail := (BitVec.ofNat 64 (Buf.le data 0 8)).truncate 32 } :=
  if_neg (by simp [hn, ha])

/-! ### The life of a queue pair -/

theorem createQueueErrs_nil {s : State} {len : Nat} {d : QueueDesc} (hr : d.rsv = false) (hh : handleRsvOk d.conn = true) (hl : len = 64)
    (ha : d.cqAddr.toNat % 32 = 0) (hd : 1 ≤ d.log2Depth) (hm : d.log2Depth ≤ 16) (hc : (s.client? d.client).isSome = true)
    (ho : s.connOpen d.conn = true) (hq : s.isReady bitQmgr = true) (he : s.ringEntries + 2 ^ d.log2Depth ≤ 67108864)
    (hf : s.freeQueue.isSome = true) : s.createQueueErrs len d = [] := by
  simp [State.createQueueErrs, when, hr, hh, hl, ha, Nat.not_lt.2 hd, Nat.not_lt.2 hm, Nat.not_lt.2 he, hc, ho, hq, hf, Option.isSome_iff_ne_none.1]

/-- Settles O9: one lemma for each event of a pair's life; a doorbell by its size, then as `judgeDoorbell` decides. -/
theorem queueLife : Obligations.QueueLife := by
  refine ⟨fun s sid u h => nop_begins h, ?create, ?destroy, ?accept, ?exit, ?attach, ?doorbell⟩
  case create =>
    intro s sid i u b buf h hb d rsv handle len addr low high client opened ready room free
    exact createQueue_ok h hb (createQueueErrs_nil rsv handle len addr low high client opened ready room (by rw [free]; rfl)) free
  case destroy =>
    intro s sid u h i hd ho
    exact ⟨fun hw => destroyQueue_drained h hd hw ho, fun hw => destroyQueue_waits h hd hw, enterQuarantine_queue h hd⟩
  case accept =>
    intro s u q hq ho hp hs
    rw [acceptEffect_destroy hq ho hp]
    refine ⟨queue_setQueue s { q with state := .draining, destroyer := some u.sid }, ?_⟩
    exact (sub_modSub _ (fun v => { v with abandoned := q.tail - q.fetched }) (fun _ => rfl) u.sid).trans (congrArg (Option.map _) hs)
  case exit => exact fun s i => ⟨quarantineExit_flushed, quarantineExit_stays⟩
  case attach =>
    intro s sid u q h hq hold hopen hclients
    refine ⟨_, attachQueue_ok h hq (attachErrs_nil hq hold hopen hclients), ?_⟩
    generalize hw : (s.setQueue { q with conn := u.entry.handleB, held := [] }).emits (q.held.map { q with conn := u.entry.handleB }.heldWrite) = w
    have frame := emits_frame (q.held.map { q with conn := u.entry.handleB }.heldWrite) (s.setQueue { q with conn := u.entry.handleB, held := [] })
    rw [hw] at frame
    have pairs (k : Nat) : w.queue k = (s.setQueue { q with conn := u.entry.handleB, held := [] }).queue k := by rw [← hw, queue_emits]
    refine ⟨?_, ?_, fun k hk => ?_, ?_, ?_⟩
    · rw [State.finish_out, ← hw, out_emits, State.setQueue_out]
      rfl
    · exact (pairs _).trans (queue_setQueue s { q with conn := u.entry.handleB, held := [] })
    · exact (pairs _).trans (queue_setQueue_other s _ k hk)
    · exact endsWith_finish _ (by rw [← hw, sub_emits]; exact h.1.1) h.1.2.2.1
    · rw [frame]
      rfl
  case doorbell =>
    intro s conn offset data hc hl hr i d t q isStale isBad
    rw [doorbell_open data hc hl hr]
    refine ⟨fun hm => ?_, fun hn ha stale => ?_, fun hn ha fresh bad => ?_, fun hn ha fresh good => ?_⟩
    · rw [doorbellWrite_misplaced s conn hm]
    · rw [doorbellWrite_rings s conn hn ha, show judgeDoorbell q conn i d = .stale from if_pos stale]
    · rw [doorbellWrite_rings s conn hn ha, show judgeDoorbell q conn i d = .bad from (if_neg fresh).trans (if_pos bad)]
    · rw [doorbellWrite_rings s conn hn ha, show judgeDoorbell q conn i d = .taken from (if_neg fresh).trans (if_neg good)]

/-! ### Fetch (R277, R279, R282) -/

section
variable {s : State} {i : Nat}

theorem fetch_current (h : s.canFetch (s.queue i) = true) (hg : (s.queue i).nextEntry.gen.toNat = (s.queue i).gen) :
    s.fetch i = ((s.setQueue { s.queue i with fetched := (s.queue i).fetched + 1 }).accept (.queue i) (s.queue i).conn (s.queue i).client
      (s.queue i).nextEntry []).2 := (if_pos h).trans (if_pos hg)

theorem fetch_stale (h : s.canFetch (s.queue i) = true) (hg : (s.queue i).nextEntry.gen.toNat ≠ (s.queue i).gen) :
    s.fetch i = s.setQueue { s.queue i with fetched := (s.queue i).fetched + 1, stale := satInc (s.queue i).stale } :=
  (if_pos h).trans (if_neg hg)

theorem fetch_idle (h : ¬ s.canFetch (s.queue i) = true) : s.fetch i = s := if_neg h

end

theorem canFetch_iff (s : State) (q : Queue) : s.canFetch q = true ↔
    s.accepts = true ∧ s.isReady bitQmgr = true ∧ q.state = .active ∧ s.connOpen q.conn = true ∧ q.fetched ≠ q.tail := by
  simp [State.canFetch, and_assoc]

/-- Settles O10: the three outcomes of a fetch, by whether the pair may be fetched from and whose generation the entry has; a stale entry
moves F too (log 58). -/
theorem entriesFetched : Obligations.EntriesFetched := by
  intro s i q e may
  have can : s.canFetch q = true ↔ may := canFetch_iff s q
  refine ⟨fun h hg => ?_, fun h hg => ?_, fun h => ?_⟩
  · exact congrArg Host.Outcome.next (fetch_current (can.2 h) hg)
  · exact congrArg Host.Outcome.next (fetch_stale (can.2 h) hg)
  · exact congrArg Host.Outcome.next (fetch_idle (mt can.1 h))

end Sys2Proof.Machine
end

section
/-! PROOFS. What follows every change of knots, work or slots (R262, R263, R270), and what it leaves as it is; the frame of the error log. -/

namespace Sys2Proof.Machine

open Sys2Proof

/-! ### BIND_MODELs that end (R158, R260, R263) -/

/-- A state in which a context with an index of its own, its knots and its bytes have joined. -/
def State.joined (s : State) (c : Ctx) (knots : List Knot) (mems : Mems) (free : Nat) : State :=
  { s with work := { s.work with ctxs := s.work.ctxs ++ [c], knots := s.work.knots ++ knots }, mems := mems, free := free }

/-- The model of a BIND_MODEL that completes. -/
def State.modModels (s : State) (models : List Model) : State := { s with img := { s.img with models := models } }

theorem scramble_frame (s : State) (c : Ctx) : s.scramble c = { s with mems := (s.scramble c).mems, free := (s.scramble c).free } := by
  unfold State.scramble
  split <;> rfl

theorem loadEpi_frame (s : State) (c : Ctx) : s.loadEpi c = { s with mems := (s.loadEpi c).mems } := by
  unfold State.loadEpi
  split <;> rfl

theorem restorePiece_frame (s : State) (c : Ctx) (p : Nat × Nat × Buf) : s.restorePiece c p = { s with mems := (s.restorePiece c p).mems } := by
  unfold State.restorePiece
  dsimp only
  split <;> rfl

/-- The service context that joins waits for work. -/
theorem seatService_joined (s : State) (m : Model) (i slot tb cb knot : Nat) :
    ∃ c ks ms fr, c.index = i ∧ s.seatService m i slot tb cb knot = s.joined c ks ms fr := by
  unfold State.seatService
  dsimp only
  rw [loadEpi_frame, scramble_frame]
  exact ⟨_, _, _, _, rfl, rfl⟩

/-- A BIND_MODEL waits, or it ends: at once, or with a service context that joins under an index no context has. -/
theorem settleBind_cases (s : State) (m : Model) : s.settleBind m = s ∨ ∃ t models sid r,
    (t = s ∨ ∃ c ks ms fr, c.index ∉ s.work.ctxs.map (·.index) ∧ t = s.joined c ks ms fr) ∧ s.settleBind m = (t.modModels models).finish sid r := by
  unfold State.settleBind
  split
  · split
    · exact .inl rfl
    · split
      · exact .inl rfl
      · split
        · exact .inr ⟨s, _, _, _, .inl rfl, rfl⟩
        · split
          · rename_i k tb cb i kn _ _ hi _
            obtain ⟨c, ks, ms, fr, hc, e⟩ := seatService_joined s m i k tb cb kn
            obtain ⟨-, unused, -⟩ := lowestFree_eq_some hi
            rw [e]
            exact .inr ⟨_, _, _, _, .inr ⟨c, ks, ms, fr, by rwa [hc], rfl⟩, rfl⟩
          · exact .inl rfl
  · exact .inl rfl

/-! ### Slots (R263, R270) -/

/-- A context of this index waits for a slot. -/
def State.Ready (s : State) (i : Nat) : Prop := ∃ c ∈ s.work.ctxs, c.index = i ∧ c.state = .outReady

theorem ready_of_readyOrder {s : State} {c : Ctx} (h : c ∈ s.readyOrder) : s.Ready c.index := by
  obtain ⟨hm, hc⟩ := List.mem_filter.1 ((sortBy_perm _ _).mem_iff.1 h)
  rw [Bool.and_eq_true] at hc
  exact ⟨c, hm, rfl, of_decide_eq_true hc.1⟩

theorem ready_passed {s : State} {i : Nat} (h : s.Ready i) (j : Nat) : (s.modCtx j fun c => { c with passedOver := true }).Ready i := by
  obtain ⟨c, hm, hi, hs⟩ := h
  refine ⟨_, (mem_updWhere ..).2 ⟨c, hm, rfl⟩, ?_, ?_⟩
  · split <;> exact hi
  · split <;> exact hs

section
variable {P : State → Prop} (hpass : ∀ s i, s.Ready i → P s → P (s.modCtx i fun c => { c with passedOver := true }))
  (hseat : ∀ s i slot tb cb, s.Ready i → P s → P (s.seat i slot tb cb .restoring))
include hpass hseat

/-! Free slots keep what the two changes of a context that waits for one keep: it is passed over, or takes a slot. -/

theorem seatFirst_inv (slot : Nat) : ∀ (l : List Ctx) (s : State), (∀ c ∈ l, s.Ready c.index) → P s → P (s.seatFirst slot l)
  | [], _, _, h => h
  | c :: l, s, hl, h => by
    have first := hl c List.mem_cons_self
    unfold State.seatFirst
    split
    · exact hseat _ _ _ _ _ first h
    · exact seatFirst_inv slot l _ (fun x hx => ready_passed (hl x (List.mem_cons_of_mem c hx)) _) (hpass _ _ first h)

theorem fillSlotsN_inv : ∀ (n : Nat) (s : State), P s → P (State.fillSlotsN n s)
  | 0, _, h => h
  | n + 1, s, h => by
    unfold State.fillSlotsN
    split
    · exact h
    · split
      · exact h
      · exact fillSlotsN_inv n _ (seatFirst_inv hpass hseat _ _ s (fun _ => ready_of_readyOrder) h)

theorem fillSlots_inv {s : State} (h : P s) : P s.fillSlots := fillSlotsN_inv hpass hseat 16 s h

end

section
variable {P : State → Prop}
  (hjoin : ∀ s c ks ms fr, c.index ∉ s.work.ctxs.map (·.index) → P s → P (s.joined c ks ms fr))
  (hmodels : ∀ s models, P s → P (s.modModels models))
  (hfinish : ∀ s sid r, P s → P (s.finish sid r))
include hjoin hmodels hfinish

theorem settleBind_inv {s : State} (m : Model) (h : P s) : P (s.settleBind m) := by
  rcases settleBind_cases s m with e | ⟨t, models, sid, r, ht, e⟩
  · rw [e]
    exact h
  · rw [e]
    refine hfinish _ _ _ (hmodels _ _ ?_)
    rcases ht with rfl | ⟨c, ks, ms, fr, hc, rfl⟩
    · exact h
    · exact hjoin _ _ _ _ _ hc h

theorem settleBinds_inv {s : State} (h : P s) : P s.settleBinds :=
  List.foldlRecOn _ _ h fun _ ht m _ => settleBind_inv hjoin hmodels hfinish m ht

/-- Scheduling keeps what each of its steps keeps: a context that wakes, one that joins, a BIND_MODEL that ends, a slot that is taken. -/
theorem schedule_inv (hwake : ∀ s, P s → P s.wakeAll)
    (hpass : ∀ s i, s.Ready i → P s → P (s.modCtx i fun c => { c with passedOver := true }))
    (hseat : ∀ s i slot tb cb, s.Ready i → P s → P (s.seat i slot tb cb .restoring)) {s : State} (h : P s) : P s.schedule :=
  fillSlots_inv hpass hseat (settleBinds_inv hjoin hmodels hfinish (hwake s h))

end

/-- It leaves what lies outside the contexts and knots, the memories, the images, the free values and the submissions. -/
theorem schedule_keeps {α : Type} (f : State → α)
    (hf : ∀ (s : State) (ctxs : List Ctx) (ks : List Knot) (ms : Mems) (fr : Nat) (img : Images) (sasel : Sasel),
      f { s with work := { s.work with ctxs := ctxs, knots := ks }, mems := ms, free := fr, img := img, sasel := sasel } = f s) (s : State) :
    f s.schedule = f s := by
  have keeps (t : State) (ctxs ks ms fr img sasel) (h : f t = f s) :
      f { t with work := { t.work with ctxs := ctxs, knots := ks }, mems := ms, free := fr, img := img, sasel := sasel } = f s := (hf ..).trans h
  exact schedule_inv (P := fun t => f t = f s) (fun t _ _ _ _ _ h => keeps t _ _ _ _ t.img t.sasel h)
    (fun t _ h => keeps t _ t.work.knots t.mems t.free _ t.sasel h) (fun t _ _ h => keeps t _ t.work.knots t.mems t.free t.img _ h)
    (fun t h => keeps t _ t.work.knots t.mems t.free t.img t.sasel h) (fun t _ _ h => keeps t _ t.work.knots t.mems t.free t.img t.sasel h)
    (fun t _ _ _ _ _ h => keeps t _ t.work.knots t.mems t.free t.img t.sasel h) rfl

/-- With no BIND_MODEL that waits none ends. -/
theorem settleBinds_none {s : State} (h : ∀ m ∈ s.img.models, m.binder = none) : s.settleBinds = s := by
  have none_waits : s.img.models.filter (fun m => m.binder.isSome) = [] := by
    rw [List.filter_eq_nil_iff]
    intro m hm
    simp [h m hm]
  rw [State.settleBinds, none_waits]
  rfl

/-- A submission that has its outcome keeps it. -/
theorem schedule_done {s : State} {k : Nat} {u : Sub} (h : s.sub? k = some u) (hd : u.due ≠ none) : s.schedule.sub? k = some u :=
  schedule_inv (P := fun t => t.sub? k = some u) (fun _ _ _ _ _ _ h => h) (fun _ _ h => h) (fun _ _ _ h => sub_finish_done h hd _ _)
    (fun _ h => h) (fun _ _ _ h => h) (fun _ _ _ _ _ _ h => h) h

@[simp] theorem schedule_lastFrom (s : State) (src : SignalSource) : s.schedule.lastFrom src = s.lastFrom src :=
  schedule_keeps (·.lastFrom src) (fun _ _ _ _ _ _ _ => rfl) s

end Sys2Proof.Machine
end

section
/-! PROOFS. Knots (R283 to R287): their signals, overflows and resets (O33). -/

namespace Sys2Proof.Machine

open Sys2Proof

/-! ### Values kept by a key -/

theorem assocGet_eq_find {κ ν : Type} [DecidableEq κ] (k : κ) (l : List (κ × ν)) :
    assocGet k l = (l.find? fun e => e.1 == k).map (·.2) := by
  induction l with
  | nil => rfl
  | cons e l ih =>
    obtain ⟨a, v⟩ := e
    by_cases h : a = k
    · simp [assocGet, h]
    · simp [assocGet, h, ih]

theorem assocGet_assocSet {κ ν : Type} [DecidableEq κ] (k : κ) (v : ν) (l : List (κ × ν)) : assocGet k (assocSet k v l) = some v := by
  rw [assocGet_eq_find, assocSet, find_upsert_same (fun e : κ × ν => e.1 == k) (k, v) (by simp)]
  rfl

theorem logError_fatal (s : State) (e : ErrEvent) :
    (s.logError e).integ.fatal = (s.integ.fatal || decide (e.cls = .deviceFatal)) := by
  unfold State.logError
  dsimp only
  split
  · rfl
  · split <;> rfl

/-! ### A knot by its index -/

theorem knot_index {s : State} {k : Nat} {x : Knot} (h : s.knot? k = some x) : x.index = k := by
  unfold State.knot? at h
  split at h
  · rename_i y hy
    cases h
    simpa using List.find?_some hy
  · split at h
    · cases h
      rfl
    · cases h

theorem knot_of_find {s : State} {k : Nat} {x : Knot} (h : s.work.knots.find? (fun y => y.index == k) = some x) : s.knot? k = some x := by
  rw [State.knot?, h]

/-- A knot that is written is listed under its index. -/
theorem find_setKnot (s : State) (x : Knot) : (s.setKnot x).work.knots.find? (fun y => y.index == x.index) = some x :=
  find_upsert_same (fun y : Knot => y.index == x.index) x (by simp) _

/-- Knots that join come after it. -/
theorem knot_schedule {s : State} {k : Nat} {x : Knot} (h : s.work.knots.find? (fun y => y.index == k) = some x) :
    s.schedule.knot? k = some x := by
  refine knot_of_find (schedule_inv (P := fun t => t.work.knots.find? (fun y => y.index == k) = some x) ?_ (fun _ _ h => h) (fun _ _ _ h => h)
    (fun _ h => h) (fun _ _ _ h => h) (fun _ _ _ _ _ _ h => h) h)
  intro t _ _ _ _ _ h
  exact (List.find?_append ..).trans (by rw [h]; rfl)

/-! ### Signals that arrive (R286, R287) -/

theorem knotSignal_arrives {s : State} {k : Nat} (hk : k < 32768) (src : SignalSource) (n : W32) :
    exec (.knotSignal src n k) s = .next (s.arriveSignal src n k) := congrArg Host.Outcome.next (if_pos hk)

section
variable {s : State} {src : SignalSource} {n : W32} (k : Nat)

theorem arriveSignal_next (h : (n - s.lastFrom src).toNat = 1) : s.arriveSignal src n k = (s.noteSignal src n).signalKnot k := if_pos h

theorem arriveSignal_repeat (h : (n - s.lastFrom src).toNat = 0 ∨ 2 ^ 31 ≤ (n - s.lastFrom src).toNat) :
    s.arriveSignal src n k = { s with work := { s.work with sigDuplicate := satInc s.work.sigDuplicate } } :=
  (if_neg (by omega)).trans (if_pos h)

theorem arriveSignal_skips (hl : 2 ≤ (n - s.lastFrom src).toNat) (hh : (n - s.lastFrom src).toNat < 2 ^ 31) :
    s.arriveSignal src n k = { s with work := { s.work with sigOutOfOrder := satInc s.work.sigOutOfOrder } } :=
  (if_neg (by omega)).trans (if_neg (by omega))

theorem noteSignal_lastFrom (s : State) (src : SignalSource) (n : W32) : (s.noteSignal src n).lastFrom src = n := by
  rw [State.lastFrom, State.noteSignal, assocGet_assocSet]
  rfl

end

/-! ### What a signal does to its knot (R285) -/

theorem signal_index (x : Knot) : x.signal.index = x.index := by
  unfold Knot.signal
  split
  · split <;> rfl
  · rfl
  · rfl

theorem signal_eq (x : Knot) : x.signal = if x.kind = .barrier ∧ x.count + 1 = x.target then { x with fires := x.fires + 1, count := 0 }
    else { x with count := x.count + 1, set := x.set || decide (x.kind = .event) } := by
  unfold Knot.signal
  split
  · rename_i hk
    simp [hk]
  · rename_i hk
    simp [hk]
  · rename_i hb he
    have not_barrier : x.kind ≠ .barrier := hb
    have not_event : x.kind ≠ .event := he
    simp [not_barrier, not_event]

section
variable {s : State} {k : Nat} {x : Knot} (h : s.knot? k = some x)
include h

theorem signalKnot_applies (ho : x.overflows = false) : s.signalKnot k = (s.setKnot x.signal).schedule := by
  simp [State.signalKnot, h, ho]

theorem signalKnot_overflows (ho : x.overflows = true) : s.signalKnot k = s.knotOverflow k := by
  simp [State.signalKnot, h, ho]

theorem knotOverflow_owned (hk : 4096 ≤ k) : s.knotOverflow k =
    ({ s with work := { s.work with sigOverflow := satInc s.work.sigOverflow } } : State).faultCtx x.owner.toNat .knotOverflow 0 := by
  rw [State.knotOverflow, if_neg (show ¬ k < firmwareKnots from Nat.not_lt.2 hk)]
  have same : ({ s with work := { s.work with sigOverflow := satInc s.work.sigOverflow } } : State).knot? k = some x := h
  simp only [same]

end

/-- A firmware knot that overflows is DEVICE_FATAL (R379). -/
theorem knotOverflow_firmware (s : State) {k : Nat} (hk : k < 4096) : (s.knotOverflow k).integ.fatal = true
    ∧ (s.knotOverflow k).work = { s.work with sigOverflow := satInc s.work.sigOverflow } := by
  rw [State.knotOverflow, if_pos (show k < firmwareKnots from hk)]
  exact ⟨by rw [logError_fatal]; simp, by rw [logError_frame]⟩

theorem signalKnot_freed {s : State} {k : Nat} (h : s.knot? k = none) :
    s.signalKnot k = { s with work := { s.work with sigFreed := satInc s.work.sigFreed } } := by
  simp [State.signalKnot, h]

/-- After a fault of an index every context of it that is not TORN has a cause. -/
theorem faultCtx_cause (s : State) (i : Nat) (cause : TearCause) (layer : W16) :
    ∀ c ∈ (s.faultCtx i cause layer).work.ctxs, c.index = i → c.state ≠ .torn → c.cause.isSome = true := by
  intro c hc hi ht
  obtain ⟨x, -, rfl⟩ := (mem_updWhere ..).1 hc
  by_cases hx : x.index = i
  · by_cases hn : x.cause.isNone = true ∧ x.state ≠ .torn
    · simp [hx, hn]
    · simp only [hx, BEq.rfl, if_true, if_neg hn] at ht ⊢
      have caused : ¬ x.cause.isNone = true := fun h => hn ⟨h, ht⟩
      simpa [Option.ne_none_iff_isSome] using caused
  · simp [hx] at hi

/-! ### Settling O33 -/

theorem knotReset_clears {s : State} {k : Nat} {x : Knot} (h : s.knot? k = some x) :
    exec (.knotReset k) s = .next (s.setKnot { x with count := 0, fires := 0, set := false }) := by
  simp only [exec, execKnotReset, h]
  rfl

theorem knotReset_freed {s : State} {k : Nat} (h : s.knot? k = none) : Ignores (.knotReset k) s := by
  show exec (.knotReset k) s = .next s
  simp only [exec, execKnotReset, h]

/-- Settles O33: a signal by how far its number is from the last one applied, the one that is next by its knot. -/
theorem knots : Obligations.Knots := by
  refine ⟨fun s src n k hk => ?signal, fun s src n k x hk hn hx ho => ?overflow, fun s k => ⟨fun x => knotReset_clears, knotReset_freed⟩⟩
  case' signal =>
    intro d
    refine ⟨fun x hd hx ho => ?applied, fun hd hx => ?freed, fun hd => ?repeated, fun hl hh => ?skipped⟩
  case applied =>
    refine ⟨_, knotSignal_arrives hk src n, ?_⟩
    have listed : ((s.noteSignal src n).setKnot x.signal).work.knots.find? (fun y => y.index == k) = some x.signal := by
      have at_own := find_setKnot (s.noteSignal src n) x.signal
      rwa [signal_index, knot_index hx] at at_own
    rw [arriveSignal_next k hd, signalKnot_applies (s := s.noteSignal src n) hx ho]
    refine ⟨(schedule_lastFrom ..).trans (noteSignal_lastFrom s src n), ?_⟩
    rw [knot_schedule listed, signal_eq]
  case freed =>
    rw [knotSignal_arrives hk, arriveSignal_next k hd, signalKnot_freed (s := s.noteSignal src n) hx]
    rfl
  case repeated => rw [knotSignal_arrives hk, arriveSignal_repeat k hd]
  case skipped => rw [knotSignal_arrives hk, arriveSignal_skips k hl hh]
  case overflow =>
    have next : (n - s.lastFrom src).toNat = 1 := by
      rw [hn, BitVec.add_comm, BitVec.add_sub_cancel]
      rfl
    have arrives : s.arriveSignal src n k = (s.noteSignal src n).knotOverflow k :=
      (arriveSignal_next k next).trans (signalKnot_overflows (s := s.noteSignal src n) hx ho)
    refine ⟨fun hf => ⟨_, knotSignal_arrives hk src n, ?_⟩, fun hc => ⟨_, knotSignal_arrives hk src n, ?_⟩⟩
    · obtain ⟨fatal, work⟩ := knotOverflow_firmware (s.noteSignal src n) hf
      rw [arrives, work, State.knot?, work]
      exact ⟨fatal, rfl, hx⟩
    · rw [arrives, knotOverflow_owned (s := s.noteSignal src n) hx hc]
      exact ⟨rfl, hx, faultCtx_cause _ _ _ _⟩

end Sys2Proof.Machine
end

section
/-! PROOFS. The release of a pin (R167, R172 to R174): which parts of the sled it leaves as they are. -/

namespace Sys2Proof.Machine

open Sys2Proof

section
variable {P : State → Prop}
  (hp : ∀ (s : State) (fl : Flash) (ms : Mems) (ti : Tiers) (tx : List TxFlow) (stats : List (List W64)) (out : List Out) (frames : List TxFrame)
    (held : List Out) (conns : List Conn), P { s with flash := fl, mems := ms, tiers := ti, fabric := { s.fabric with tx := tx, portStats := stats }
                                                      out := out, frames := frames, txHeld := held, hp := { s.hp with conns := conns } } = P s)
  (hf : ∀ (s : State) (sid : Nat) (r : Result), P s → P (s.finish sid r))

/-! `P` says nothing about the media, the tiers and what leaves for other members, and holds on when a submission ends. -/

section
include hp

theorem media_keeps (s : State) (fl : Flash) (ms : Mems) (ti : Tiers) : P { s with flash := fl, mems := ms, tiers := ti } = P s :=
  hp s fl ms ti s.fabric.tx s.fabric.portStats s.out s.frames s.txHeld s.hp.conns

theorem tiers_keeps (s : State) (f : Tiers → Tiers) : P (s.modTiers f) = P s := media_keeps hp s s.flash s.mems _

theorem modHome_keeps (s : State) (id : W64) (f : Home → Home) : P (s.modHome id f) = P s := media_keeps hp s s.flash s.mems _

theorem sendMsg_tells (s : State) (b : Nat) (kind : Msg) (values : List Nat) : P (s.sendMsg b kind values) = P s :=
  sendMsg_keeps P (fun s => hp s s.flash s.mems s.tiers) s b kind values

theorem allocHbm_keeps {s t : State} {pool len a : Nat} {obj : W64} (h : s.allocHbm pool len obj = some (a, t)) : P t = P s :=
  (congrArg P (allocHbm_frame h)).trans (media_keeps hp s s.flash s.mems _)

theorem releaseCopy_keeps (s : State) (id : W64) : P (s.releaseCopy id) = P s := by
  unfold State.releaseCopy
  split
  · rfl
  · split
    · rfl
    · split
      · exact modHome_keeps hp ..
      · exact (modHome_keeps hp ..).trans (freeHome_keeps P (fun s fl ms _ _ => media_keeps hp s fl ms _) ..)

end

include hp hf

theorem endMove_inv {s : State} (id : W64) (st : Status) (h : P s) : P (s.endMove id st) := by
  rw [State.endMove, tiers_keeps hp]
  exact List.foldlRecOn _ _ h fun t ht o _ => by
    cases o with
    | none => exact ht
    | some sid => exact hf t sid _ ht

theorem refuseMove_inv {s : State} (id : W64) (st : Status) (h : P s) : P (s.refuseMove id st) :=
  endMove_inv hp hf id st ((modHome_keeps hp ..).mpr h)

theorem startCopy_inv {s : State} (x : Home) (tier : Tier) (h : P s) : P (s.startCopy x tier) := by
  cases tier with
  | hbm =>
    rw [State.startCopy]
    split
    · exact refuseMove_inv hp hf _ _ h
    · rename_i a t ha
      have placed : P t := (allocHbm_keeps hp ha).mpr h
      rw [modHome_keeps hp]
      split
      · rw [sendMsg_tells hp]
        exact placed
      · exact placed
  | peer =>
    rw [State.startCopy]
    rw [modHome_keeps hp, sendMsg_tells hp]
    exact h
  | flash =>
    rw [State.startCopy]
    split
    · exact refuseMove_inv hp hf _ _ h
    · split
      · exact refuseMove_inv hp hf _ _ h
      · split
        · exact refuseMove_inv hp hf _ _ h
        · rw [modHome_keeps hp, storeObj_keeps P fun s fl ms => media_keeps hp s fl ms s.tiers]
          exact h

theorem startMove_inv {s : State} (id : W64) (tier : Tier) (peer : Nat) (explicit : Bool) (h : P s) : P (s.startMove id tier peer explicit) := by
  unfold State.startMove
  split
  · exact endMove_inv hp hf _ _ h
  · split
    · exact endMove_inv hp hf _ _ h
    · split
      · exact endMove_inv hp hf _ _ h
      · split
        · rw [modHome_keeps hp]
          exact h
        · exact startCopy_inv hp hf _ _ h

theorem nextMoveN_inv (id : W64) : ∀ (n : Nat) (s : State), P s → P (State.nextMoveN n s id)
  | 0, _, h => h
  | n + 1, s, h => by
    unfold State.nextMoveN
    split
    · split
      · exact h
      · dsimp only
        refine nextMoveN_inv id n _ (startMove_inv hp hf _ _ _ _ ?_)
        rw [modHome_keeps hp, tiers_keeps hp]
        exact h
    · exact h

theorem resumeEviction_inv {s : State} (x : Home) (h : P s) : P (s.resumeEviction x) := by
  unfold State.resumeEviction
  split
  · rw [releaseCopy_keeps hp]
    exact h
  · split
    · exact nextMoveN_inv hp hf _ 16 _ (endMove_inv hp hf _ _ ((modHome_keeps hp ..).mpr h))
    · exact nextMoveN_inv hp hf _ 16 _ (startCopy_inv hp hf _ _ h)

theorem unpin_inv {s : State} (id : W64) (h : P s) : P (s.unpin id) := by
  unfold State.unpin
  split
  · split
    · rw [sweepHome_keeps P fun s fl ms ti => media_keeps hp s fl ms ti, tiers_keeps hp]
      exact h
    · exact h
  · split
    · exact h
    · have counted (f : Home → Home) : P (s.modHome id f) := (modHome_keeps hp ..).mpr h
      dsimp only
      split
      · exact resumeEviction_inv hp hf _ (counted _)
      · exact counted _

/-- The windows of a context go with their pins (R169). -/
theorem releaseWindows_inv {s : State} (p : Window → Bool) (h : P s) : P (s.releaseWindows p) :=
  List.foldlRecOn (motive := P) _ _ ((tiers_keeps hp ..).mpr h) fun _ ht w _ => unpin_inv hp hf w.objId ht

end

end Sys2Proof.Machine
end

section
/-! PROOFS. Contexts by their index, what scheduling leaves of them, and their teardown (R262, R271, R272). -/

namespace Sys2Proof.Machine

open Sys2Proof

/-! ### Updates of a list -/

theorem filter_updWhere {α : Type} (l : List α) (p q : α → Bool) (f : α → α) (hf : ∀ x, q (f x) = q x) :
    (updWhere p f l).filter q = updWhere p f (l.filter q) := by
  have same : (q ∘ fun x => if p x then f x else x) = q := by
    funext x
    by_cases hp : p x = true <;> simp [hp, hf]
  rw [updWhere, List.filter_map, same, updWhere]

theorem updWhere_fixed {α : Type} {l : List α} {p : α → Bool} {f : α → α} (h : ∀ x ∈ l, p x = true → f x = x) : updWhere p f l = l := by
  refine (List.map_congr_left fun x hx => ?_).trans (List.map_id l)
  split
  · exact h x hx ‹_›
  · rfl

theorem exists_updWhere {α : Type} {Q : α → Prop} {l : List α} {f : α → α} (p : α → Bool) (hf : ∀ x, Q x → Q (f x)) (h : ∃ x ∈ l, Q x) :
    ∃ x ∈ updWhere p f l, Q x := by
  obtain ⟨x, hm, hx⟩ := h
  refine ⟨_, (mem_updWhere ..).2 ⟨x, hm, rfl⟩, ?_⟩
  split
  · exact hf x hx
  · exact hx

/-! ### The only context of an index -/

/-- The index has one context, this one. -/
abbrev State.Only (s : State) (i : Nat) (c : Ctx) : Prop := s.work.ctxs.filter (fun x => x.index == i) = [c]

section
variable {s : State} {i : Nat} {c : Ctx} (h : s.Only i c)
include h

theorem only_mem_iff (x : Ctx) : (x ∈ s.work.ctxs ∧ x.index = i) ↔ x = c := by
  rw [← List.mem_singleton (b := c), ← h, List.mem_filter, beq_iff_eq]

theorem only_mem : c ∈ s.work.ctxs := ((only_mem_iff h c).2 rfl).1

theorem only_index : c.index = i := ((only_mem_iff h c).2 rfl).2

theorem only_ctxAt (ht : c.state ≠ .torn) : s.ctxAt i = some c := by
  have found : s.ctxAt i = (s.work.ctxs.filter fun x => x.index == i).find? fun x => decide (x.state ≠ .torn) := by
    rw [List.find?_filter]
    simp only [State.ctxAt, Bool.decide_and, Bool.decide_eq_true]
  rw [found, h]
  simp [ht]

theorem only_find : s.work.ctxs.find? (fun x => x.index == i) = some c := by
  rw [← List.head?_filter, h]
  rfl

theorem only_modCtx {f : Ctx → Ctx} (hf : ∀ x, (f x).index = x.index) : (s.modCtx i f).Only i (f c) := by
  refine (filter_updWhere s.work.ctxs _ _ f fun x => by rw [hf]).trans ?_
  rw [h]
  simp [updWhere, only_index h]

theorem only_modCtx_other {j : Nat} (hj : j ≠ i) {f : Ctx → Ctx} (hf : ∀ x, (f x).index = x.index) : (s.modCtx j f).Only i c := by
  refine (filter_updWhere s.work.ctxs _ _ f fun x => by rw [hf]).trans ?_
  rw [h]
  simp [updWhere, only_index h, hj.symm]

theorem only_joined {x : Ctx} (ks : List Knot) (ms : Mems) (fr : Nat) (hx : x.index ∉ s.work.ctxs.map (·.index)) :
    (s.joined x ks ms fr).Only i c := by
  have other : x.index ≠ i := fun e => hx (e ▸ only_index h ▸ List.mem_map_of_mem (only_mem h))
  refine (List.filter_append ..).trans ?_
  rw [h]
  simp [other]

/-- A context that does not wait for a slot is none of those that do. -/
theorem only_not_ready (hr : c.state ≠ .outReady) {j : Nat} (hj : s.Ready j) : j ≠ i := by
  rintro rfl
  obtain ⟨x, hx, hi, hs⟩ := hj
  rw [(only_mem_iff h x).1 ⟨hx, hi⟩] at hs
  exact hr hs

theorem only_fillSlots (hr : c.state ≠ .outReady) : s.fillSlots.Only i c :=
  fillSlots_inv (P := fun t => t.Only i c) (fun _ _ hj ht => only_modCtx_other ht (only_not_ready ht hr hj) fun _ => rfl)
    (fun _ _ _ _ _ hj ht => only_modCtx_other ht (only_not_ready ht hr hj) fun _ => rfl) h

/-- A fault of a context: the first cause stands (R271). -/
theorem only_faultCtx (ht : c.state ≠ .torn) (cause : TearCause) (layer : W16) : (s.faultCtx i cause layer).Only i
    { c with cause := if c.cause.isNone then some cause else c.cause, layerId := if c.cause.isNone then layer else c.layerId } := by
  refine (only_modCtx h fun x => by split <;> rfl).trans ?_
  by_cases hn : c.cause.isNone = true <;> simp [hn, ht]

/-- A context that is to be torn down is left to the cause it has. -/
theorem faultCtx_doomed (hc : c.cause ≠ none) (cause : TearCause) (layer : W16) : s.faultCtx i cause layer = s := by
  have fixed : updWhere (fun x : Ctx => x.index == i)
      (fun x => if x.cause.isNone ∧ x.state ≠ .torn then { x with cause := some cause, layerId := layer } else x) s.work.ctxs = s.work.ctxs := by
    refine updWhere_fixed fun x hx hi => ?_
    rw [(only_mem_iff h x).1 ⟨hx, beq_iff_eq.1 hi⟩]
    simp [hc]
  rw [State.faultCtx, State.modCtx, fixed]

end

/-- What a context keeps when it wakes, is passed over or takes a slot, some context still has after scheduling. -/
theorem exists_schedule {Q : Ctx → Prop} (hwake : ∀ now x, Q x → Q (x.wake now)) (hpass : ∀ x, Q x → Q { x with passedOver := true })
    (hseat : ∀ x slot tb cb now, Q x → Q { x with state := .restoring, slot := some slot, tb := tb, cb := cb, passedOver := false, sinceRun := now })
    {s : State} (h : ∃ x ∈ s.work.ctxs, Q x) : ∃ x ∈ s.schedule.work.ctxs, Q x :=
  schedule_inv (P := fun t => ∃ x ∈ t.work.ctxs, Q x)
    (fun _ _ _ _ _ _ ⟨x, hm, hx⟩ => ⟨x, List.mem_append_left _ hm, hx⟩) (fun _ _ h => h) (fun _ _ _ h => h)
    (fun _ h => exists_updWhere _ (hwake _) h) (fun _ _ _ h => exists_updWhere _ hpass h)
    (fun _ _ _ _ _ _ h => exists_updWhere _ (fun x => hseat x _ _ _ _) h) h

/-! ### The commands of a context end (R271) -/

theorem flagsOf_congr {s t : State} {k : Nat} (hs : t.sub? k = s.sub? k) (ha : t.ans = s.ans) : t.flagsOf k = s.flagsOf k := by
  simp only [State.flagsOf, hs, ha]

/-- Commands end with one status, each with its own flags. -/
def State.failAll (s : State) (l : List Nat) (st : Status) : State := l.foldl (fun s k => s.failWith k st) s

theorem failAll_keeps {α : Type} (f : State → α) (hf : ∀ (s : State) (sid : Nat) (r : Result), f (s.finish sid r) = f s) (s : State) (l : List Nat)
    (st : Status) : f (s.failAll l st) = f s := foldl_keeps f (g := fun s k => s.failWith k st) (fun s _ => hf s _ _) l s

theorem failAll_done {k : Nat} {u : Sub} (hd : u.due ≠ none) (l : List Nat) (st : Status) {s : State} (hs : s.sub? k = some u) :
    (s.failAll l st).sub? k = some u :=
  List.foldlRecOn (motive := fun t : State => t.sub? k = some u) l _ hs fun _ ht _ _ => sub_finish_done ht hd _ _

theorem failAll_ends {k : Nat} {u : Sub} (hd : u.due = none) (st : Status) {l : List Nat} (hk : k ∈ l) {s : State} (hs : s.sub? k = some u) :
    EndsWith (s.failAll l st) k u { status := st, flags := s.flagsOf k } := by
  induction l generalizing s with
  | nil => exact absurd hk List.not_mem_nil
  | cons j l ih =>
    by_cases e : k = j
    · subst e
      exact failAll_done (Option.some_ne_none _) l st (endsWith_finish _ hs hd)
    · have same : (s.failWith j st).sub? k = s.sub? k := sub_finish_other s j k _ e
      have later := ih ((List.mem_cons.1 hk).resolve_left e) (same.trans hs)
      rwa [flagsOf_congr same rfl] at later

/-! ### The context goes (R271) -/

/-- The context of the index is TORN, with nothing of its own left, and so many have been torn down. -/
def State.TornAt (t : State) (i : Nat) (cause : Option TearCause) (teardowns : W64) : Prop :=
  (∃ x, t.Only i x ∧ x.state = .torn ∧ x.slot = none ∧ x.runs = [] ∧ x.cause = cause ∧ x.destroyer = none)
    ∧ (∀ p ∈ t.loom.issued, p.ctx ≠ i) ∧ t.work.teardowns = teardowns

section
variable {s : State} {i : Nat} {cause : Option TearCause} {n : W64} (h : s.TornAt i cause n)
include h

theorem tornAt_other {j : Nat} (hj : s.Ready j) {f : Ctx → Ctx} (hf : ∀ x, (f x).index = x.index) : (s.modCtx j f).TornAt i cause n := by
  obtain ⟨⟨x, only, torn, rest⟩, loom, counted⟩ := h
  have waits : x.state ≠ .outReady := by simp [torn]
  exact ⟨⟨x, only_modCtx_other only (only_not_ready only waits hj) hf, torn, rest⟩, loom, counted⟩

theorem tornAt_wakeAll : s.wakeAll.TornAt i cause n := by
  obtain ⟨⟨x, only, torn, rest⟩, loom, counted⟩ := h
  have index (now : Nat) (y : Ctx) : (y.wake now).index = y.index := by
    unfold Ctx.wake
    split <;> rfl
  have stays (now : Nat) : x.wake now = x := by simp [Ctx.wake, torn]
  refine ⟨⟨x, ?_, torn, rest⟩, loom, counted⟩
  refine (filter_updWhere s.work.ctxs _ _ _ fun y => by rw [index]).trans ?_
  rw [only]
  simp [updWhere, stays]

theorem tornAt_joined {c : Ctx} (ks : List Knot) (ms : Mems) (fr : Nat) (hc : c.index ∉ s.work.ctxs.map (·.index)) :
    (s.joined c ks ms fr).TornAt i cause n := by
  obtain ⟨⟨x, only, rest⟩, loom, counted⟩ := h
  exact ⟨⟨x, only_joined only ks ms fr hc, rest⟩, loom, counted⟩

theorem tornAt_schedule : s.schedule.TornAt i cause n :=
  schedule_inv (P := fun t => t.TornAt i cause n) (fun _ _ ks ms fr hc ht => tornAt_joined ht ks ms fr hc) (fun _ _ ht => ht) (fun _ _ _ ht => ht)
    (fun _ ht => tornAt_wakeAll ht) (fun _ _ hj ht => tornAt_other ht hj fun _ => rfl) (fun _ _ _ _ _ hj ht => tornAt_other ht hj fun _ => rfl) h

/-- No DESTROY_CONTEXT waits for it. -/
theorem tornAt_settle : s.settleCtxDestroy i = s := by
  obtain ⟨⟨x, only, -, -, -, -, none_waits⟩, -⟩ := h
  simp only [State.settleCtxDestroy, only_find only, none_waits]

end

/-- The binding of a torn service context has a fresh one, under an index no context has, or none yet. -/
theorem freshService_cases (s : State) (c : Ctx) : s.freshService c = s ∨ ∃ x ks models, x.index ∉ s.work.ctxs.map (·.index)
    ∧ s.freshService c = (s.joined x ks s.mems s.free).modModels models := by
  unfold State.freshService
  split
  · rename_i i k hi _
    obtain ⟨-, unused, -⟩ := lowestFree_eq_some hi
    exact .inr ⟨_, _, _, unused, rfl⟩
  · exact .inl rfl

theorem freshService_inv {P : State → Prop} (hjoin : ∀ s c ks ms fr, c.index ∉ s.work.ctxs.map (·.index) → P s → P (s.joined c ks ms fr))
    (hmodels : ∀ s models, P s → P (s.modModels models)) {s : State} (c : Ctx) (h : P s) : P (s.freshService c) := by
  rcases freshService_cases s c with e | ⟨x, ks, models, hx, e⟩
  · rw [e]
    exact h
  · rw [e]
    exact hmodels _ _ (hjoin _ _ _ _ _ hx h)

/-- The sled without a context's picks, knots and windows, and with its teardown counted. -/
def State.unloaded (s : State) (c : Ctx) : State :=
  { s with
    loom := { s.loom with issued := s.loom.issued.filter fun p => !(p.ctx == c.index) }
    work := { (s.freeKnotsOf c).work with teardowns := satInc s.work.teardowns, sigFreed := satAdd s.work.sigFreed (s.lostSignals c.index) }
    tiers := { s.tiers with windows := s.tiers.windows.filter fun w => !(w.ctx == c.index)
                            staged := s.tiers.staged.filter fun p => !(p.1 == c.index) } }

/-- A context that is TORN. -/
def Ctx.ended (x : Ctx) : Ctx :=
  { x with state := .torn, slot := none, saved := 0, hasSaved := false, saveData := [], runs := [], preempt := false, knots := 0 }

theorem clearCtx_eq (s : State) (c : Ctx) : s.clearCtx c = (s.unloaded c).modCtx c.index Ctx.ended := rfl

theorem clearCtx_tornAt {s : State} {i : Nat} {c : Ctx} (h : s.Only i c) (hd : c.destroyer = none) :
    (s.clearCtx c).TornAt i c.cause (satInc s.work.teardowns) := by
  rw [clearCtx_eq, only_index h]
  refine ⟨⟨c.ended, only_modCtx (s := s.unloaded c) h fun _ => rfl, rfl, rfl, rfl, rfl, hd⟩, fun p hp => ?_, rfl⟩
  have kept : p ∈ s.loom.issued.filter fun p => !(p.ctx == c.index) := hp
  simpa [only_index h] using (List.mem_filter.1 kept).2

/-- The state in which the commands of a context have ended and its windows are gone. -/
def State.endCommands (s : State) (c : Ctx) : State :=
  ((s.failAll (s.ctxSids c) .contextTorn).tornReqs (s.ctxSids c)).releaseWindows fun w => w.ctx == c.index

theorem tearDown_eq (s : State) (c : Ctx) : s.tearDown c =
    if c.service then ((s.endCommands c).clearCtx c).freshService c else (s.endCommands c).clearCtx c := rfl

/-- Of the contexts and the Loom that state has lost nothing. -/
theorem endCommands_work (s : State) (c : Ctx) : (s.endCommands c).work = s.work :=
  releaseWindows_inv (P := fun t => t.work = s.work) (fun _ _ _ _ _ _ _ _ _ _ => rfl) (fun _ _ _ h => h) _
    (failAll_keeps (·.work) (fun _ _ _ => rfl) s _ _)

theorem endCommands_ends {s : State} {c : Ctx} {r : EntryRun} (hr : r ∈ c.runs) {u : Sub} (hs : s.sub? r.sid = some u) (hd : u.due = none) :
    EndsWith (s.endCommands c) r.sid u { status := .contextTorn, flags := s.flagsOf r.sid } := by
  have own : r.sid ∈ s.ctxSids c := List.mem_append_left _ (List.mem_map_of_mem hr)
  exact releaseWindows_inv (P := fun t => EndsWith t r.sid u { status := .contextTorn, flags := s.flagsOf r.sid })
    (fun _ _ _ _ _ _ _ _ _ _ => rfl) (fun _ _ _ h => sub_finish_done h (Option.some_ne_none _) _ _) _ (failAll_ends hd _ own hs)

section
variable {s : State} {i : Nat} {c : Ctx}

theorem tearDown_tornAt (h : s.Only i c) (hd : c.destroyer = none) : (s.tearDown c).TornAt i c.cause (satInc s.work.teardowns) := by
  have only : (s.endCommands c).Only i c := by rw [State.Only, endCommands_work]; exact h
  have cleared := clearCtx_tornAt only hd
  rw [endCommands_work] at cleared
  rw [tearDown_eq]
  split
  · exact freshService_inv (P := fun t => t.TornAt i c.cause (satInc s.work.teardowns)) (fun _ _ ks ms fr hc ht => tornAt_joined ht ks ms fr hc)
      (fun _ _ ht => ht) c cleared
  · exact cleared

theorem tearDown_ends {r : EntryRun} (hr : r ∈ c.runs) {u : Sub} (hs : s.sub? r.sid = some u) (hd : u.due = none) :
    EndsWith (s.tearDown c) r.sid u { status := .contextTorn, flags := s.flagsOf r.sid } := by
  have ended := endCommands_ends hr hs hd
  rw [tearDown_eq]
  split
  · exact freshService_inv (P := fun t => EndsWith t r.sid u { status := .contextTorn, flags := s.flagsOf r.sid }) (fun _ _ _ _ _ _ ht => ht)
      (fun _ _ ht => ht) c ended
  · exact ended

/-- What a teardown comes to, once all that it sets free has been given away. -/
theorem tornDown (h : s.Only i c) (hd : c.destroyer = none) :
    (((s.tearDown c).settleCtxDestroy i).schedule).TornAt i c.cause (satInc s.work.teardowns)
    ∧ ∀ r ∈ c.runs, ∀ u, s.sub? r.sid = some u → u.due = none →
        EndsWith (((s.tearDown c).settleCtxDestroy i).schedule) r.sid u { status := .contextTorn, flags := s.flagsOf r.sid } := by
  have torn := tearDown_tornAt h hd
  rw [tornAt_settle torn]
  exact ⟨tornAt_schedule torn, fun r hr u hs hu => schedule_done (tearDown_ends hr hs hu) (Option.some_ne_none _)⟩

/-! ### CONTEXT_TEARDOWN (R271, R272) -/

theorem contextTeardown_goes (h : s.Only i c) (ht : c.state ≠ .torn) (hc : c.cause ≠ none) (hr : s.takeoverRuns = false) (cause : TearCause) :
    exec (.contextTeardown i cause) s = .next (((s.tearDown c).settleCtxDestroy i).schedule) := by
  have caused : c.cause.isSome = true := Option.isSome_iff_ne_none.2 hc
  simp only [exec, execContextTeardown, only_ctxAt h ht, faultCtx_doomed h hc, ite_self, caused, hr, and_self, if_true]

theorem contextTeardown_waits (h : s.Only i c) (ht : c.state ≠ .torn) (hc : c.cause ≠ none) (hr : s.takeoverRuns = true) (cause : TearCause) :
    Ignores (.contextTeardown i cause) s := by
  show exec (.contextTeardown i cause) s = .next s
  simp only [exec, execContextTeardown, only_ctxAt h ht, faultCtx_doomed h hc, ite_self, hr, Bool.true_eq_false, and_false, if_false]

theorem contextTeardown_idle (h : s.Only i c) (ht : c.state ≠ .torn) (hc : c.cause = none) {cause : TearCause}
    (hn : cause ≠ .csRange ∨ c.service = true) : Ignores (.contextTeardown i cause) s := by
  show exec (.contextTeardown i cause) s = .next s
  have no_fault : ¬ (cause = .csRange ∧ c.service = false) := by rcases hn with hn | hn <;> simp [hn]
  simp [exec, execContextTeardown, only_ctxAt h ht, no_fault, hc]

/-- The context as a step outside its ranges leaves it. -/
def Ctx.strayed (c : Ctx) : Ctx := { c with cause := some .csRange, layerId := 0 }

theorem only_strayed (h : s.Only i c) (ht : c.state ≠ .torn) (hc : c.cause = none) : (s.faultCtx i .csRange 0).Only i c.strayed := by
  have faulted := only_faultCtx h ht .csRange 0
  simpa [hc, Ctx.strayed] using faulted

/-- A control cluster step outside a general context's ranges tears it down. -/
theorem contextTeardown_strays (h : s.Only i c) (ht : c.state ≠ .torn) (hc : c.cause = none) (hg : c.service = false) (hr : s.takeoverRuns = false) :
    exec (.contextTeardown i .csRange) s = exec (.contextTeardown i .csRange) (s.faultCtx i .csRange 0) := by
  have only := only_strayed h ht hc
  have doomed : c.strayed.cause ≠ none := Option.some_ne_none _
  have caused : c.strayed.cause.isSome = true := rfl
  have free : (s.faultCtx i .csRange 0).takeoverRuns = false := hr
  rw [contextTeardown_goes only ht doomed free]
  simp only [exec, execContextTeardown, only_ctxAt h ht, hg, and_self, if_true, only_ctxAt only ht, caused, free]

end

end Sys2Proof.Machine
end

section
/-! PROOFS. Contexts from creation to teardown (R153, R261 to R272): what each event does (O34). -/

namespace Sys2Proof.Machine

open Sys2Proof

/-! ### CREATE_CONTEXT (R261, R264) -/

theorem createContext_ok {s : State} {sid i k : Nat} {u : Sub} {m : Model} {im : Image} (h : Begins s sid 0x68 u)
    (hm : s.model? u.entry.handleA = some m) (him : s.image? m.image = some im) (hc : im.header.cls = 4) (hl : 1 ≤ u.entry.arg0.toNat)
    (hh : u.entry.arg0.toNat ≤ 256) (ho : s.loom.out = false) (hi : lowestFree (s.work.ctxs.map (·.index)) 4096 = some i)
    (hk : s.freeKnots u.entry.arg0.toNat = some k) : exec (.createContext sid) s = .next
      ((({ s with work := { s.work with
          ctxs := s.work.ctxs ++ [{ index := i, gen := genFor s.work.ctxGens i, service := false, model := u.entry.handleA, client := u.client
                                    state := .outBlocked, firstKnot := k, knots := u.entry.arg0.toNat }] } } : State).allotKnots k
          u.entry.arg0.toNat i).finish sid (okResult u (BitVec.ofNat 64 (mkHandle (genFor s.work.ctxGens i) kindContext i).toNat) 0)) := by
  refine congrArg Host.Outcome.next ((run_waits _ h.1).trans ?_)
  have low : ¬ u.entry.arg0.toNat < 1 := Nat.not_lt.2 hl
  have high : ¬ 256 < u.entry.arg0.toNat := Nat.not_lt.2 hh
  dsimp only
  rw [settle_begins h (by simp [when, hm, him, hc, low, high, ho, hi, hk])]
  simp only [hi, hk, complete_begins h]

/-! ### DESTROY_CONTEXT (R272) -/

section
variable {s : State} {sid : Nat} {u : Sub} {c : Ctx} (h : Begins s sid 0x69 u) (hc : s.ctx? u.entry.handleA = some c)
include h hc

theorem destroyContext_service (hg : c.service = true) : exec (.destroyContext sid) s = .next (s.finish sid { status := .badField }) := by
  refine congrArg Host.Outcome.next ((run_waits _ h.1).trans ?_)
  simp only [hc]
  rw [settle_refuses_badField h (by decide) (by simp [when, hg])]

theorem destroyContext_torn (hg : c.service = false) (ht : c.state = .torn) :
    exec (.destroyContext sid) s = .next ((s.removeCtx c.index).finish sid (okResult u 0 0)) := by
  refine congrArg Host.Outcome.next ((run_waits _ h.1).trans ?_)
  simp only [hc]
  rw [settle_begins h (by simp [when, hg]), if_pos ht, completeOk_begins h]

/-- The context of a DESTROY_CONTEXT that waits for its teardown. -/
theorem destroyContext_dooms (hg : c.service = false) (ht : c.state ≠ .torn) : exec (.destroyContext sid) s = .next
    (((s.start sid).modCtx c.index fun x => { x with destroyer := some sid }).faultCtx c.index .destroyed 0) := by
  refine congrArg Host.Outcome.next ((run_waits _ h.1).trans ?_)
  simp only [hc]
  rw [settle_begins h (by simp [when, hg]), if_neg ht, begins_sid h]

end

/-! ### RUN_ENTRY (R261, R262, R271, R322) -/

section
variable {s : State} {sid : Nat} {u : Sub} {b : Option Buf} {buf : Buf} {c : Ctx} (h : Begins s sid 0x6A u) (hb : u.readB b = some buf)
  (hc : s.ctx? u.entry.handleA = some c) (hg : c.service = false)
include h hb hc hg

theorem runEntry_torn (ht : c.state = .torn) (hd : ∀ im, s.ctxImage c = some im → im.damaged = false) :
    exec (.runEntry sid b) s = .next (s.finish sid { status := .contextTorn }) := by
  refine congrArg Host.Outcome.next ((run_withB h hb _).trans ?_)
  have errs : s.runEntryErrs u c (s.ctxImage c) = [.contextTorn] := by
    cases hi : s.ctxImage c with
    | none => simp [State.runEntryErrs, when, hg, ht]
    | some im => simp [State.runEntryErrs, when, hg, ht, hd im hi]
  simp only [hc, errs]
  exact settle_refuses h (by decide) (List.cons_ne_nil _ _) _

theorem runEntry_runs {im : Image} {e : EntryRange} (ht : c.state ≠ .torn) (hn : c.cause = none) (hl : s.isReady bitLoom = true)
    (hi : s.ctxImage c = some im) (hd : im.damaged = false) (he : im.entries.find? (fun e => e.index == u.entry.arg2.toNat) = some e)
    (hp : 1 ≤ e.count) : exec (.runEntry sid b) s = .next (((s.start sid).modCtx c.index fun x => x.addRun sid e).schedule) := by
  refine congrArg Host.Outcome.next ((run_withB h hb _).trans ?_)
  have errs : s.runEntryErrs u c (some im) = [] := by simp [State.runEntryErrs, when, hg, ht, hn, hl, hd, he]
  have some_pick : ¬ e.count = 0 := Nat.one_le_iff_ne_zero.1 hp
  simp only [hc, hi]
  rw [settle_begins h errs]
  simp only [Option.bind_some, he, if_neg some_pick, begins_sid h]

end

/-- A run that a context carries stays while others are scheduled. -/
theorem schedule_runs {s : State} {i : Nat} {runs : List EntryRun} (h : ∃ x ∈ s.work.ctxs, x.index = i ∧ x.runs = runs) :
    ∃ x ∈ s.schedule.work.ctxs, x.index = i ∧ x.runs = runs :=
  exists_schedule (Q := fun x => x.index = i ∧ x.runs = runs) (fun _ _ hx => by unfold Ctx.wake; split <;> exact hx) (fun _ hx => hx)
    (fun _ _ _ _ _ hx => hx) h

/-- Where no BIND_MODEL waits, scheduling ends no submission. -/
theorem schedule_sub {s : State} (h : ∀ m ∈ s.img.models, m.binder = none) (sid : Nat) : s.schedule.sub? sid = s.sub? sid := by
  rw [State.schedule, settleBinds_none (s := s.wakeAll) h]
  exact fillSlots_inv (P := fun t => t.sub? sid = s.sub? sid) (fun _ _ _ h => h) (fun _ _ _ _ _ _ h => h) rfl

/-! ### Saves and restores (R153, R266, R268, R269) -/

/-- What a finished save leaves of a context: out of its slot, or back on its way into one. -/
def Ctx.SavedAs (x : Ctx) (i : Nat) (c : Ctx) (data : List (Nat × Nat × Buf)) : Prop :=
  x.index = i ∧ x.saveData = data ∧ (x.state = .outBlocked ∨ x.state = .outReady ∨ x.state = .restoring) ∧ x.runs = c.runs ∧ x.pick = c.pick

theorem savedAs_wake {x : Ctx} {i : Nat} {c : Ctx} {data : List (Nat × Nat × Buf)} (h : x.SavedAs i c data) (now : Nat) :
    (x.wake now).SavedAs i c data := by
  obtain ⟨index, saved, state, rest⟩ := h
  unfold Ctx.wake
  split
  · rename_i hs
    simp [hs] at state
  · exact ⟨index, saved, .inr (.inl rfl), rest⟩
  · exact ⟨index, saved, state, rest⟩

/-- A context as it leaves its slot after a save. -/
def Ctx.leaveSlot (toBlocked : Bool) (data : List (Nat × Nat × Buf)) (now : Nat) (x : Ctx) : Ctx :=
  { x with state := if toBlocked then .outBlocked else .outReady, slot := none, saveData := data, sinceReady := now, toBlocked := false }

/-- A context that runs again after a restore, with nothing saved. -/
def Ctx.resume (now : Nat) (x : Ctx) : Ctx := { x with state := .running, saved := 0, hasSaved := false, saveData := [], sinceRun := now }

/-- The state in which the live ranges of a context are back. -/
def State.restored (s : State) (c : Ctx) : State :=
  if !c.hasSaved then (s.scramble c).loadEpi c else c.saveData.foldl (fun s p => s.restorePiece c p) (s.scramble c)

/-- A restore writes bytes and takes a free value, no more. -/
theorem restored_frame (s : State) (c : Ctx) : ∃ ms fr, s.restored c = { s with mems := ms, free := fr } := by
  unfold State.restored
  split
  · rw [loadEpi_frame, scramble_frame]
    exact ⟨_, _, rfl⟩
  · refine List.foldlRecOn (motive := fun t : State => ∃ ms fr, t = { s with mems := ms, free := fr }) _ _ ⟨_, _, scramble_frame s c⟩ ?_
    rintro t ⟨ms, fr, rfl⟩ p -
    exact ⟨_, _, restorePiece_frame _ c p⟩

section
variable {s : State} {i : Nat} {c : Ctx} (h : s.Only i c) (hc : c.cause = none)
include h hc

theorem contextSaveComplete_leaves (hs : c.state = .saving) : exec (.contextSaveComplete i) s = .next
    (s.modCtx i (Ctx.leaveSlot c.toBlocked ((s.ctxLive c).flatMap (s.saveRange c)) s.pclk.toNat)).schedule := by
  have at_own : s.ctxAt i = some c := only_ctxAt h (by simp [hs])
  simp only [exec, execContextSaveComplete, at_own, hs, hc, and_self, if_true]
  rfl

theorem contextSaveComplete_saves (hs : c.state = .saving) : Gives (.contextSaveComplete i) s fun t =>
    ∃ x ∈ t.work.ctxs, x.SavedAs i c ((s.ctxLive c).flatMap (s.saveRange c)) := by
  have left := only_modCtx h (f := Ctx.leaveSlot c.toBlocked ((s.ctxLive c).flatMap (s.saveRange c)) s.pclk.toNat) fun _ => rfl
  refine ⟨_, contextSaveComplete_leaves h hc hs, ?_⟩
  refine exists_schedule (Q := fun x => x.SavedAs i c _) (fun now x hx => savedAs_wake hx now) (fun _ hx => hx)
    (fun _ _ _ _ _ ⟨index, saved, _, rest⟩ => ⟨index, saved, .inr (.inr rfl), rest⟩) ⟨_, only_mem left, only_index left, rfl, ?_, rfl, rfl⟩
  unfold Ctx.leaveSlot
  cases c.toBlocked
  · exact .inr (.inl rfl)
  · exact .inl rfl

theorem contextRestoreComplete_resumes (hs : c.state = .restoring) : exec (.contextRestoreComplete i) s = .next
    ((s.restored c).modCtx i (Ctx.resume (s.restored c).pclk.toNat)).fillSlots := by
  have at_own : s.ctxAt i = some c := only_ctxAt h (by simp [hs])
  simp only [exec, execContextRestoreComplete, at_own, hs, hc, and_self, if_true]
  rfl

theorem contextRestoreComplete_only (hs : c.state = .restoring) : Gives (.contextRestoreComplete i) s fun t =>
    ∃ now, t.Only i (c.resume now) := by
  obtain ⟨ms, fr, e⟩ := restored_frame s c
  have only : (s.restored c).Only i c := by rw [e]; exact h
  exact ⟨_, contextRestoreComplete_resumes h hc hs, _, only_fillSlots (only_modCtx only fun _ => rfl) nofun⟩

end

/-! ### Pre-emption, yield points and swaps (R262, R266 to R269) -/

section
variable {s : State} {i : Nat} {c : Ctx} (h : s.Only i c) (hs : c.state = .running)
include h hs

theorem only_running : s.ctxAt i = some c := only_ctxAt h (by simp [hs])

theorem preemptionTimer_due (hg : c.service = false) (hr : s.readyOrder ≠ []) :
    exec (.preemptionTimer i) s = .next (s.modCtx i fun c => { c with preempt := true }) := by
  simp only [exec, execPreemptionTimer, only_running h hs]
  rw [if_pos ⟨hg, hs, hr⟩]

theorem preemptionTimer_idle (hn : c.service = true ∨ s.readyOrder = []) : Ignores (.preemptionTimer i) s := by
  show exec (.preemptionTimer i) s = .next s
  simp only [exec, execPreemptionTimer, only_running h hs]
  rw [if_neg (by rcases hn with hn | hn <;> simp [hn])]

variable (hc : c.cause = none) (hy : s.atYield c = true)
include hc hy

theorem yieldPoint_eq : exec (.yieldPoint i) s = .next (if c.service = false ∧ c.preempt = true ∧ s.saveFits c = true then s.startSave c false
    else if s.ctxWaits c then s.modCtx i fun c => { c with state := .blocked, sinceBlocked := s.pclk.toNat } else s) := by
  simp only [exec, execYieldPoint, only_running h hs, hs, hc, hy, and_self, if_true]

theorem yieldPoint_saves (hg : c.service = false) (hp : c.preempt = true) (hf : s.saveFits c = true) :
    exec (.yieldPoint i) s = .next (s.modCtx i fun x =>
      { x with state := .saving, toBlocked := false, preempt := false, saved := saveBytes (s.ctxLive x), hasSaved := true }) := by
  rw [yieldPoint_eq h hs hc hy, if_pos ⟨hg, hp, hf⟩, State.startSave, only_index h]

theorem yieldPoint_blocks (hp : c.preempt = false) (hw : s.ctxWaits c = true) :
    exec (.yieldPoint i) s = .next (s.modCtx i fun x => { x with state := .blocked, sinceBlocked := s.pclk.toNat }) := by
  rw [yieldPoint_eq h hs hc hy, if_neg (by simp [hp]), if_pos hw]

theorem yieldPoint_goesOn (hp : c.preempt = false) (hw : s.ctxWaits c = false) : Ignores (.yieldPoint i) s := by
  rw [Ignores, yieldPoint_eq h hs hc hy, if_neg (by simp [hp]), if_neg (by simp [hw])]

end

theorem swapOut_saves {s : State} {c : Ctx} (hf : s.freeSlot = none) (hb : ∀ x ∈ s.residentGeneral, x.state = .blocked) (hr : s.residentGeneral ≠ [])
    (ho : s.readyOrder ≠ []) (hc : s.swapCandidate = some c) : exec .swapOut s = .next (s.startSave c true) := by
  have blocked : (s.residentGeneral.all fun c => decide (c.state = .blocked)) = true := by simpa using hb
  simp only [exec, execSwapOut]
  rw [if_pos ⟨hf, hr, blocked, ho⟩, hc]

theorem swapOut_idle {s : State} (h : s.freeSlot ≠ none ∨ s.readyOrder = []) : Ignores .swapOut s := by
  show exec .swapOut s = .next s
  simp only [exec, execSwapOut]
  rw [if_neg (by rcases h with h | h <;> simp [h])]

/-! ### Contexts from creation to teardown -/

/-- Settles O34: one lemma for each event; what scheduling leaves of a context by `exists_schedule`, a teardown by `tornDown`.  A new context
stands OUT_BLOCKED, and a step outside the ranges of a general one is a cause of its own (log 66). -/
theorem contexts : Obligations.Contexts := by
  refine ⟨?create, ?destroy, ?run, ?move, ?leave, ?swap, ?teardown⟩
  case create =>
    intro s sid i k u m im h hm him hc hl hh ho hi hk g
    exact createContext_ok h hm him hc hl hh ho hi hk
  case destroy =>
    intro s sid u c h hc only
    refine ⟨destroyContext_torn h hc, fun hg ht => ⟨_, destroyContext_dooms h hc hg ht, ?_, ?_⟩, destroyContext_service h hc⟩
    · have doomed := only_modCtx (s := s.start sid) (f := fun x => { x with destroyer := some sid }) only fun _ => rfl
      exact only_ctxAt (only_faultCtx doomed ht .destroyed 0) ht
    · show ((s.start sid).sub? sid).map _ = _
      rw [sub_start, h.1.1]
      exact congrArg some (Prod.ext rfl h.1.2.2.1)
  case run =>
    intro s sid u b buf c im e h hb hc hg
    refine ⟨fun ht hn hl hi hd he hp hm => ⟨_, runEntry_runs h hb hc hg ht hn hl hi hd he hp, schedule_runs ?_, ?_⟩, runEntry_torn h hb hc hg⟩
    · refine ⟨_, (mem_updWhere ..).2 ⟨c, List.mem_of_find?_eq_some hc, rfl⟩, ?_⟩
      rw [if_pos (by simp)]
      exact ⟨rfl, rfl⟩
    · rw [schedule_sub (s := (s.start sid).modCtx c.index fun x => x.addRun sid e) hm]
      show ((s.start sid).sub? sid).map _ = _
      rw [sub_start, h.1.1]
      exact congrArg some (Prod.ext rfl h.1.2.2.1)
  case move =>
    intro s i c only hc
    refine ⟨contextSaveComplete_saves only hc, fun hs => ?_⟩
    obtain ⟨t, ran, now, resumed⟩ := contextRestoreComplete_only only hc hs
    exact ⟨t, ran, c.resume now, only_mem resumed, only_index resumed, rfl, rfl, rfl, rfl, rfl, rfl, rfl⟩
  case leave =>
    intro s i c only hs hc
    exact ⟨preemptionTimer_due only hs, preemptionTimer_idle only hs, yieldPoint_saves only hs hc, yieldPoint_blocks only hs hc,
      yieldPoint_goesOn only hs hc⟩
  case swap => exact fun s => ⟨fun c => swapOut_saves, swapOut_idle⟩
  case teardown =>
    intro s i c cause only ht hd torn
    have stated {k : Option TearCause} {t : State} (h : t.TornAt i k (satInc s.work.teardowns))
        (ends : ∀ r ∈ c.runs, ∀ u, s.sub? r.sid = some u → u.due = none → EndsWith t r.sid u { status := .contextTorn, flags := s.flagsOf r.sid }) :
        torn k t := by
      obtain ⟨⟨x, own, state, slot, runs, cause, -⟩, loom, counted⟩ := h
      exact ⟨⟨x, only_mem own, only_index own, state, slot, runs, cause⟩, loom, counted, ends⟩
    refine ⟨fun hr hc => ?goes, fun hr hc hg => ?strays, fun hc => contextTeardown_idle only ht hc, fun hr hc => contextTeardown_waits only ht hc hr cause⟩
    case goes =>
      obtain ⟨at_own, ends⟩ := tornDown only hd
      exact ⟨_, contextTeardown_goes only ht hc hr cause, stated at_own ends⟩
    case strays =>
      have strayed := only_strayed only ht hc
      obtain ⟨at_own, ends⟩ := tornDown strayed hd
      refine ⟨_, (contextTeardown_strays only ht hc hg hr).trans (contextTeardown_goes strayed ht (Option.some_ne_none _) hr .csRange), stated at_own ends⟩

end Sys2Proof.Machine
end

section
/-! PROOFS. Connections (chapter 12): what the end of a connection does to it, to its sessions and to its submissions (O15, O16, O37). -/

namespace Sys2Proof.Machine

open Sys2Proof

/-! ### A connection in error (R309, R316, R328, R329) -/

/-- A connection as its error leaves it. -/
def Conn.failed (c : Conn) : Conn := { c with state := .error, nonce := none }

/-- A submission as the error of its connection ends it; `own` is the one whose own buffer met the error. -/
def State.endedOnConn (s : State) (own : Option Nat) (u : Sub) : Sub :=
  { u with due := some { status := firstStatus (u.preset ++ [if own = some u.sid then .badField else .notReady]), flags := s.flagsOf u.sid }
           running := false }

/-- An error changes connections and, of Sasel, sessions and submissions, and nothing else. -/
theorem connError_frame (s : State) (h : W32) (own : Option Nat) : s.connError h own =
    { s with hp := { s.hp with conns := (s.connError h own).hp.conns }, sasel := (s.connError h own).sasel } := by
  unfold State.connError
  split
  · rfl
  · split <;> rfl

@[simp] theorem connError_port (s : State) (h : W32) (own : Option Nat) : (s.connError h own).hp.port = s.hp.port := by
  rw [connError_frame]

/-- A connection that is already in error stays as it is. -/
theorem connError_again {s : State} {h : W32} {c : Conn} (hc : s.conn? h = some c) (he : c.state = .error) (own : Option Nat) :
    s.connError h own = s := by
  simp [State.connError, hc, he]

/-- A connection that is established, or about to be, enters error with its sessions and submissions. -/
theorem connError_live {s : State} {h : W32} {c : Conn} (hc : s.conn? h = some c) (hl : c.state = .opened ∨ c.state = .repSent)
    (own : Option Nat) : s.connError h own =
      { s with
        hp := { s.hp with conns := updWhere (fun c => names h kindConn c.gen c.index) Conn.failed s.hp.conns }
        sasel := { s.sasel with
          sessions := s.sasel.sessions.filter (fun x => !(x.conn == h))
          sessionGens := (s.connError h own).sasel.sessionGens
          subs := updWhere (fun u => u.due.isNone && s.onConn h u) (s.endedOnConn own) s.sasel.subs } } := by
  have notOver : ¬ (c.state = .error ∨ c.state = .closed) := by obtain e | e := hl <;> simp [e]
  simp only [State.connError, hc, if_neg notOver]
  rfl

/-- What the error of its connection makes of a submission: it ends, or it is not concerned. -/
theorem sub_connError_live {s : State} {h : W32} {c : Conn} (hc : s.conn? h = some c) (hl : c.state = .opened ∨ c.state = .repSent)
    (own : Option Nat) (sid : Nat) : (s.connError h own).sub? sid =
      (s.sub? sid).map fun u => if u.due.isNone && s.onConn h u then s.endedOnConn own u else u := by
  rw [connError_live hc hl own]
  exact find_updWhere _ _ _ _ fun _ _ => rfl

/-- The handle of a connection that has entered error names no open one. -/
theorem connOpen_connError {s : State} {h : W32} {c : Conn} (hc : s.conn? h = some c) (hl : c.state = .opened ∨ c.state = .repSent)
    (own : Option Nat) : (s.connError h own).connOpen h = false := by
  have found : (s.connError h own).conn? h = some c.failed := by
    rw [connError_live hc hl own]
    refine (find_updWhere s.hp.conns _ _ Conn.failed fun _ _ => rfl).trans ?_
    rw [show s.hp.conns.find? _ = some c from hc]
    exact congrArg some (if_pos (List.find?_some hc))
  rw [State.connOpen, found]
  rfl

/-! ### What leaves without a PSN of its own (R310) -/

/-- What is no RDMA WRITE leaves the connections as they are. -/
theorem emit_hp {s : State} {o : Out} (ho : ∀ c a k b, o ≠ .write c a k b) : (s.emit o).hp = s.hp := by
  unfold State.emit
  rw [toPort_frame]
  dsimp only
  split
  · exact absurd rfl (ho _ _ _ _)
  · rfl

/-- What goes out as no RDMA WRITE is recorded and leaves through a port; nothing else changes. -/
theorem emit_sent {s : State} {o : Out} (ho : ∀ c a k b, o ≠ .write c a k b) : s.emit o =
    { s with out := o :: s.out, frames := (s.emit o).frames, txHeld := (s.emit o).txHeld } := by
  rw [emit_frame]
  simp only [emit_hp ho]

end Sys2Proof.Machine
end

section
/-! PROOFS. The reports that commands write into B, and remote access errors on a command's own buffer (O37). -/

namespace Sys2Proof.Machine

open Sys2Proof

/-! ### Reports (R322; log 15) -/

theorem entry_length (h : Home) : h.entry.length = 64 := by simp [Home.entry]

section
variable {s : State} {sid op : Nat} {u : Sub} (h : Begins s sid op u)
include h

/-- A report in reach is written into B, and its command completes OK. -/
theorem report_completes {ok : Bool} {bytes : Buf} (hr : Reaches u bytes.length ok) :
    s.report u ok bytes (fun s => s.completeOk u) = (s.writeB u bytes).finish sid (okResult u 0 0) := by
  rw [report_reaches _ hr, completeOk_begins h]

/-- A buffer of the length that a report takes gives no status. -/
theorem settle_room {n : Nat} (hl : n ≤ u.entry.length.toNat) (effect : State → State) :
    s.settle u (when (decide (u.entry.length.toNat < n)) .badField) effect = effect s :=
  settle_begins h (by simp [when, Nat.not_lt.2 hl]) effect

end

section
variable {s : State} {sid : Nat} {u : Sub} {ok : Bool}

theorem queryQueue_runs (h : Begins s sid 0x04 u) (hl : 64 ≤ u.entry.length.toNat) {q : Queue} (hq : s.queueOf? u.entry.handleA = some q) :
    exec (.queryQueue sid ok) s = .next (s.report u ok (queueReport q) fun s => s.completeOk u) := by
  refine congrArg Host.Outcome.next ?_
  rw [run_waits _ h.1, settle_room h hl, hq]

theorem queryQueue_reports (h : Begins s sid 0x04 u) (hl : 64 ≤ u.entry.length.toNat) {q : Queue}
    (hq : s.queueOf? u.entry.handleA = some q) (hr : Reaches u 64 ok) :
    exec (.queryQueue sid ok) s = .next ((s.writeB u (queueReport q)).finish sid (okResult u 0 0)) := by
  rw [queryQueue_runs h hl hq, report_completes h (by rwa [queueReport, slice_length])]

theorem queryClient_reports (h : Begins s sid 0x70 u) (hl : 32 ≤ u.entry.length.toNat) {c : Client}
    (hc : s.client? u.entry.arg0.toNat = some c) (hr : Reaches u 32 ok) :
    exec (.queryClient sid ok) s = .next ((s.writeB u (clientReport c)).finish sid (okResult u 0 0)) := by
  refine congrArg Host.Outcome.next ?_
  rw [run_waits _ h.1, hc]
  exact (settle_room h hl _).trans (report_completes h (by rwa [clientReport, slice_length]))

theorem queryContext_reports (h : Begins s sid 0x6B u) (hl : 64 ≤ u.entry.length.toNat) {c : Ctx}
    (hc : s.ctx? u.entry.handleA = some c) (hr : Reaches u 64 ok) :
    exec (.queryContext sid ok) s = .next ((s.writeB u (s.ctxReport c)).finish sid (okResult u 0 0)) := by
  refine congrArg Host.Outcome.next ?_
  rw [run_waits _ h.1, settle_room h hl, hc]
  exact report_completes h (by rwa [State.ctxReport, slice_length])

theorem queryHome_reports (h : Begins s sid 0x61 u) (hl : 64 ≤ u.entry.length.toNat) {x : Home}
    (hx : s.home? u.entry.arg0 = some x) (hr : Reaches u x.entry.length ok) :
    exec (.queryHome sid ok) s = .next ((s.writeB u x.entry).finish sid (okResult u 0 0)) := by
  refine congrArg Host.Outcome.next ?_
  rw [run_waits _ h.1, hx]
  exact (settle_room h hl _).trans (report_completes h hr)

theorem queryGraft_reports (h : Begins s sid 0x48 u) (hl : 64 ≤ u.entry.length.toNat) {g : Graft}
    (hg : s.graft? u.entry.handleA = some g) (hf : s.isReady bitFlashmap = true) (hr : Reaches u 64 ok) :
    exec (.queryGraft sid ok) s = .next ((s.writeB u (graftReport g)).finish sid (okResult u 0 0)) := by
  have noStatus : when (decide (u.entry.length.toNat < 64)) .badField ++ when (!s.isReady bitFlashmap) .notReady = [] := by
    simp [when, Nat.not_lt.2 hl, hf]
  refine congrArg Host.Outcome.next ?_
  rw [run_waits _ h.1, hg]
  exact (settle_begins h noStatus _).trans (report_completes h (by rwa [graftReport, slice_length]))

end

/-! ### Remote access errors (R309, R316) -/

/-- A command that begins and whose buffer meets a remote access error ends by it. -/
theorem run_unread {s : State} {sid op : Nat} {u : Sub} (h : Begins s sid op u) (hi : u.inSlot = false)
    (k : Sub → State → Buf → State) : (s.run sid op fun u s => s.withB u none (k u s)) = s.accessError u := by
  have unread : u.readB none = none := by simp [Sub.readB, hi]
  rw [run_waits _ h.1, withB_none _ (begins_preset h) unread hi]

/-- A report that meets a remote access error ends its command by it. -/
theorem queryQueue_accessError {s : State} {sid : Nat} {u : Sub} (hi : u.inSlot = false) {q : Queue} (h : Begins s sid 0x04 u)
    (hl : 64 ≤ u.entry.length.toNat) (hq : s.queueOf? u.entry.handleA = some q) :
    exec (.queryQueue sid false) s = .next (s.accessError u) := by
  rw [queryQueue_runs h hl hq]
  simp [State.report, hi]

/-- A submission is on its own connection. -/
theorem onConn_own (s : State) (u : Sub) : s.onConn (s.connOf u) u = true := by
  unfold State.onConn State.connOf
  split <;> simp_all

section
variable {s : State} {sid : Nat} {u : Sub} {c : Conn} (hc : s.conn? (s.connOf u) = some c) (ho : c.state = .opened)
include hc ho

/-- The submission has the outcome that the error of its connection gives it, so that BAD_FIELD does not come a second time. -/
theorem accessError_own (hu : s.sub? sid = some u) (hd : u.due = none) :
    EndsWith (s.accessError u) sid u { status := firstStatus (u.preset ++ [.badField]), flags := s.flagsOf sid } := by
  obtain rfl := sub_sid hu
  have ended : (s.connError (s.connOf u) (some u.sid)).sub? u.sid = some (s.endedOnConn (some u.sid) u) := by
    rw [sub_connError_live hc (.inl ho), hu]
    simp [hd, onConn_own]
  rw [EndsWith, State.accessError, State.failWith, sub_finish, ended]
  simp [State.endedOnConn]

/-- What the error of the connection makes of every other submission. -/
theorem accessError_other (hu : s.sub? sid = some u) {k : Nat} (hk : k ≠ sid) : (s.accessError u).sub? k =
    (s.sub? k).map fun v => if v.due.isNone && s.onConn (s.connOf u) v then s.endedOnConn (some u.sid) v else v := by
  rw [State.accessError, State.failWith, sub_finish_other _ _ _ _ (by rwa [sub_sid hu]), sub_connError_live hc (.inl ho)]

/-- Another submission on the connection ends with NOT_READY, or with a status that has applied to it before. -/
theorem accessError_ends (hu : s.sub? sid = some u) {k : Nat} {v : Sub} (hk : k ≠ sid) (hv : s.sub? k = some v) (hd : v.due = none)
    (hon : s.onConn (s.connOf u) v = true) :
    EndsWith (s.accessError u) k v { status := firstStatus (v.preset ++ [.notReady]), flags := s.flagsOf k } := by
  obtain rfl := sub_sid hv
  have other : ¬ u.sid = v.sid := by rw [sub_sid hu]; exact hk.symm
  rw [EndsWith, accessError_other hc ho hu hk, hv]
  simp [hd, hon, State.endedOnConn, other]

/-- One that has its outcome, or is on another connection, is not concerned. -/
theorem accessError_leaves (hu : s.sub? sid = some u) {k : Nat} {v : Sub} (hk : k ≠ sid) (hv : s.sub? k = some v)
    (hn : v.due ≠ none ∨ s.onConn (s.connOf u) v = false) : (s.accessError u).sub? k = some v := by
  have notHit : (v.due.isNone && s.onConn (s.connOf u) v) = false := by
    obtain h | h := hn
    · rw [Option.isNone_eq_false_iff.2 (Option.isSome_iff_ne_none.2 h), Bool.false_and]
    · rw [h, Bool.and_false]
  rw [accessError_other hc ho hu hk, hv, Option.map_some, notHit]
  rfl

theorem accessError_closes : (s.accessError u).connOpen (s.connOf u) = false := connOpen_connError hc (.inl ho) (some u.sid)

end

/-- Settles O37: the reports are those of a buffer in reach, and a remote access error is the error of the connection with the
submission as its cause. -/
theorem reportsAndErrors : Obligations.ReportsAndErrors := by
  refine ⟨⟨?_, ?_, ?_, ?_, ?_, ?_⟩, ?_, ?_⟩
  · exact fun s sid u q ok h hl hq hr => queryQueue_reports h hl hq hr
  · exact fun s sid u c ok h hl hc hr => queryClient_reports h hl hc hr
  · exact fun s sid u c ok h hl hc hr => queryContext_reports h hl hc hr
  · exact fun s sid u x ok h hl hx hr => queryHome_reports h hl hx hr
  · exact fun s sid u g ok h hl hg hf hr => queryGraft_reports h hl hg hf hr
  · exact fun s q c x h g => ⟨slice_length .., slice_length .., slice_length .., entry_length h, slice_length ..⟩
  · intro s sid u hi
    refine ⟨?_, ?_, ?_, ?_, ?_, ?_, ?_, fun q h hl hq => queryQueue_accessError hi h hl hq⟩ <;>
      exact fun h => congrArg Host.Outcome.next (run_unread h hi _)
  · exact fun s sid u c hu hd hc ho => ⟨accessError_own hc ho hu hd, fun k v hk hv => accessError_ends hc ho hu hk hv,
      fun k v hk hv => accessError_leaves hc ho hu hk hv, accessError_closes hc ho⟩

end Sys2Proof.Machine
end

section
/-! PROOFS. Traffic of the host port (R302 to R304, R308, R341): the heads of frames, pauses, the receive buffer and the receive checks (O15). -/

namespace Sys2Proof.Machine

open Sys2Proof

/-! ### Heads of frames (R302, R304, R341) -/

/-- The host port's frames carry a C-tag when a VID is set or PFC is on. -/
theorem tag_isSome (h : HpSettings) (roce : Bool) : (h.tag roce).isSome = true ↔ h.vidValid = true ∨ h.pfcOn = true := by
  unfold HpSettings.tag
  split <;> simp_all

/-- The tag names the VID that is set; with PFC on, RoCEv2 frames have its priority. -/
theorem tag_fields {h : HpSettings} {roce : Bool} {x : Option Nat × Nat} (hx : h.tag roce = some x) :
    x.2 = (if h.vidValid then h.vid.toNat else 0) ∧ (roce = true → h.pfcOn = true → x.1 = some h.pfcPrio) := by
  unfold HpSettings.tag at hx
  split at hx
  · cases hx
    exact ⟨rfl, fun hr hp => by simp [hr, hp]⟩
  · cases hx

/-- A frame carries what leaves, and one of the host port the tag of its settings. -/
theorem frameOf_head {s : State} {o : Out} {f : TxFrame} (h : s.frameOf o = some f) :
    f.body = o ∧ (f.port = 0 → f.tag = s.hp.settings.tag o.roce) := by
  have host : ∀ {d : Option Nat} {e : Bool},
      some ({ port := 0, tag := s.hp.settings.tag o.roce, dscp := d, ect0 := e, body := o } : TxFrame) = some f →
      f.body = o ∧ (f.port = 0 → f.tag = s.hp.settings.tag o.roce) := by rintro d e ⟨⟩; exact ⟨rfl, fun _ => rfl⟩
  have answer : ∀ {p : Nat}, (if p = 0 then some { port := 0, tag := s.hp.settings.tag o.roce, body := o }
      else some ({ port := p, body := o } : TxFrame)) = some f → f.body = o ∧ (f.port = 0 → f.tag = s.hp.settings.tag o.roce) := by
    intro p hf
    split at hf
    · exact host hf
    · cases hf
      exact ⟨rfl, fun hp => by contradiction⟩
  cases o with
  | write | readResponse | datagram => exact host h
  | wire k c v =>
    cases k with
    | readRequest => cases h
    | echoReply | arpReply | neighborAdvert => exact answer h
    | _ => exact host h
  | packet x r y b =>
    cases h
    exact ⟨rfl, fun hp => absurd hp (Nat.ne_of_gt (Nat.lt_add_right x Nat.one_pos))⟩
  | training | message | signal => cases h

/-- A frame is made of the settings in force and of what leaves. -/
theorem frameOf_congr {s t : State} (hs : t.hp.settings = s.hp.settings) (hp : t.fabric.plot = s.fabric.plot) (o : Out) :
    t.frameOf o = s.frameOf o := by
  simp only [State.frameOf, hs, hp]

theorem putFrame_frames (s : State) (o : Out) : (s.putFrame o).frames = (s.frameOf o).toList ++ s.frames := by
  unfold State.putFrame
  split <;> simp_all

/-- Frames that leave one after another. -/
theorem foldl_putFrame : ∀ (l : List Out) (s : State), l.foldl State.putFrame s = { s with frames := (l.filterMap s.frameOf).reverse ++ s.frames }
  | [], _ => rfl
  | o :: l, s => by
    have rest : l.filterMap (s.putFrame o).frameOf = l.filterMap s.frameOf :=
      congrArg (l.filterMap ·) (funext fun x => frameOf_congr (by rw [putFrame_frame]) (by rw [putFrame_frame]) x)
    rw [List.foldl_cons, foldl_putFrame l, rest, putFrame_frames, putFrame_frame]
    cases hf : s.frameOf o <;> simp [hf]

/-! ### Pauses (R303) -/

section
variable {s : State} {o : Out}

/-- While a received pause lasts, RoCEv2 frames wait. -/
theorem emit_paused (hr : o.roce = true) (hp : s.hp.settings.pfcOn = true) (hq : s.hp.paused = true) :
    (s.emit o).frames = s.frames ∧ (s.emit o).txHeld = s.txHeld ++ [o] := by
  have waits : ({ s with out := o :: s.out } : State).toPort o = { s with out := o :: s.out, txHeld := s.txHeld ++ [o] } :=
    toPort_paused _ o hr hp hq
  unfold State.emit
  dsimp only
  rw [waits]
  split <;> exact ⟨rfl, rfl⟩

/-- What no pause holds leaves at once. -/
theorem emit_leaves (h : o.roce = false ∨ s.hp.settings.pfcOn = false ∨ s.hp.paused = false) :
    (s.emit o).frames = (s.frameOf o).toList ++ s.frames ∧ (s.emit o).txHeld = s.txHeld := by
  have leaves : ({ s with out := o :: s.out } : State).toPort o = ({ s with out := o :: s.out } : State).putFrame o := toPort_sends _ o h
  have put : (({ s with out := o :: s.out } : State).putFrame o).frames = (s.frameOf o).toList ++ s.frames :=
    (putFrame_frames _ o).trans (congrArg (Option.toList · ++ s.frames) (frameOf_congr rfl rfl o))
  have held : (({ s with out := o :: s.out } : State).putFrame o).txHeld = s.txHeld := by rw [putFrame_frame]
  unfold State.emit
  dsimp only
  rw [leaves]
  split <;> exact ⟨put, held⟩

end

/-- The end of a pause lets the frames that waited leave in order. -/
theorem resume_eq (s : State) : s.resume =
    { s with hp := { s.hp with paused := false }, txHeld := [], frames := (s.txHeld.filterMap s.frameOf).reverse ++ s.frames } :=
  foldl_putFrame s.txHeld { s with hp := { s.hp with paused := false }, txHeld := [] }

theorem pfcFrame_pauses {s : State} {p : Nat} (hp : s.hp.settings.pfcOn = true) (hq : p = s.hp.settings.pfcPrio) (pause : Bool) :
    exec (.pfcFrame p pause) s = .next (if pause then { s with hp := { s.hp with paused := true } } else s.resume) :=
  congrArg Host.Outcome.next (if_pos ⟨hp, hq⟩)

theorem pfcFrame_discards {s : State} {p : Nat} (h : s.hp.settings.pfcOn = false ∨ p ≠ s.hp.settings.pfcPrio) (pause : Bool) :
    exec (.pfcFrame p pause) s = .next s.pfcDiscard :=
  congrArg Host.Outcome.next (if_neg fun ⟨hp, hq⟩ => h.elim (by simp [hp]) (absurd hq))

/-! ### The receive buffer (R303) -/

section
variable {s : State} {free : Nat}

theorem buffered_off (hp : s.hp.settings.pfcOn = false) : s.buffered free = { s with hp := { s.hp with rxFree := free } } := by
  simp [State.buffered, hp]

variable (hp : s.hp.settings.pfcOn = true)
include hp

theorem buffered_xoff (hf : free < 4 * 2 ^ 20) (hx : s.hp.xoffSent = false) : s.buffered free =
    ({ s with hp := { s.hp with rxFree := free, xoffSent := true } } : State).emit (.wire .xoff 0 [s.hp.settings.pfcPrio]) := by
  unfold State.buffered
  dsimp only
  rw [if_pos hp, if_pos ⟨hf, hx⟩]

theorem buffered_xon (hf : 8 * 2 ^ 20 < free) (hx : s.hp.xoffSent = true) : s.buffered free =
    ({ s with hp := { s.hp with rxFree := free, xoffSent := false } } : State).emit (.wire .xon 0 [s.hp.settings.pfcPrio]) := by
  unfold State.buffered
  dsimp only
  rw [if_pos hp, if_neg (by simp [hx]), if_pos ⟨hf, hx⟩]

theorem buffered_between (hl : 4 * 2 ^ 20 ≤ free) (hh : free ≤ 8 * 2 ^ 20) : s.buffered free = { s with hp := { s.hp with rxFree := free } } := by
  unfold State.buffered
  dsimp only
  rw [if_pos hp, if_neg fun h => absurd h.1 (Nat.not_lt.2 hl), if_neg fun h => absurd h.1 (Nat.not_lt.2 hh)]

end

/-! ### Receive checks (R308) -/

/-- The first check that a frame fails: it passes those before. -/
theorem rxFails_first {s : State} {f : Frame} {i : Nat} (h : s.rxFails f = some i) :
    (s.rxChecks f).getD i false = true ∧ ∀ k, k < i → (s.rxChecks f).getD k false = false := by
  obtain ⟨fails, -, before⟩ := List.find?_range_eq_some.1 h
  exact ⟨fails, fun k hk => by simpa using before k hk⟩

/-- A frame that fails a check before RX_OPCODE does nothing more. -/
theorem frameFail_early (s : State) (f : Frame) {i : Nat} (hi : i < 10) : s.frameFail f i = s := by
  have before : ∀ n, 10 ≤ n → i ≠ n := fun n hn => Nat.ne_of_lt (Nat.lt_of_lt_of_le hi hn)
  simp [State.frameFail, before rxOpcode (by decide), before rxPsn (by decide), before rxDup (by decide), before rxAccess (by decide)]

/-- What a failed check does beside its counter leaves the port's counters as they are. -/
theorem frameFail_port (s : State) (f : Frame) (i : Nat) : (s.frameFail f i).hp.port = s.hp.port := by
  have sent : ∀ (t : State) (o : Out), (t.emit o).hp.port = t.hp.port := fun t o => by rw [emit_frame]
  unfold State.frameFail
  split
  · rfl
  split
  · rw [connError_port, sent]
  split
  · exact sent ..
  split
  · split <;> exact sent ..
  split
  · rw [connError_port, sent]
  · rfl

section
variable {s : State} {f : Frame} (hp : f.port = 0) (hc : f.ce = false)
include hp hc

/-- A frame of the host port that is not CE-marked and fails a check is counted under it. -/
theorem frameReceive_fails {i : Nat} (hf : (s.buffered f.bufferFree).rxFails f = some i) :
    exec (.frameReceive f) s = .next (((s.buffered f.bufferFree).countRx 0 i).frameFail f i) := by
  refine congrArg Host.Outcome.next ?_
  simp [hp, hc, hf]

/-- One that fails none acts. -/
theorem frameReceive_acts (hf : (s.buffered f.bufferFree).rxFails f = none) :
    exec (.frameReceive f) s = .next ((s.buffered f.bufferFree).frameAct f) := by
  refine congrArg Host.Outcome.next ?_
  simp [hp, hc, hf]

end

/-- Settles O15: the rates, the heads and pauses of frames, the thresholds of the receive buffer, and the receive checks in their order. -/
theorem hostTraffic : Obligations.HostTraffic := by
  refine ⟨fun s h => ⟨rfl, rfl⟩, ⟨?heads, ?pauses, ?others⟩, ?buffer, ?checks⟩
  case heads =>
    intro s o
    refine ⟨emit_paused, emit_leaves, fun f hf => ?_, ?_, ?_, ?_⟩
    · obtain ⟨body, host⟩ := frameOf_head hf
      refine ⟨body, fun hp => ?_⟩
      rw [host hp]
      exact ⟨tag_isSome _ _, fun x hx => tag_fields hx⟩
    · rintro c a k b (rfl | rfl) <;> exact ⟨_, rfl, rfl, rfl, rfl⟩
    · rintro c v rfl
      exact ⟨_, rfl, rfl, rfl⟩
    · rintro x b y bytes q rfl hq
      exact ⟨_, rfl, rfl, by simp, by simp [hq]⟩
  case pauses =>
    intro s p
    have ends : Host.Outcome.next s.resume = (.next _ : Outcome) := congrArg _ (resume_eq s)
    exact ⟨fun hp hq => ⟨pfcFrame_pauses hp hq true, (pfcFrame_pauses hp hq false).trans ends⟩, ends⟩
  case others => exact fun s p pause h => pfcFrame_discards h pause
  case buffer => exact fun s free hp => ⟨buffered_xoff hp, buffered_xon hp, buffered_between hp⟩
  case checks =>
    intro s f hp hc hoff
    rw [← buffered_off hoff]
    refine ⟨fun i hf hi => ?_, fun i hf => ⟨_, frameReceive_fails hp hc hf, ?_⟩, frameReceive_acts hp hc, fun i hf => rxFails_first hf⟩
    · rw [frameReceive_fails hp hc hf, frameFail_early _ _ hi, buffered_off hoff]
      rfl
    · have counted : ((s.buffered f.bufferFree).countRx 0 i).hp.port.rx = modAt s.hp.port.rx i satInc := by
        rw [buffered_off hoff]
        rfl
      exact (congrArg Port.rx (frameFail_port ..)).trans counted

end Sys2Proof.Machine
end

section
/-! PROOFS. Connections from request to release, SENDs, announces and regions without a behaviour (O16). -/

namespace Sys2Proof.Machine

open Sys2Proof

/-! ### The request and the RTU (R306, R311) -/

/-- The connection that a request is given at a free index, with a first PSN of the sled's choice. -/
def State.newConn (s : State) (n : Nat) (psn : BitVec 24) : Conn :=
  { index := n, gen := genFor s.hp.connGens n, expectedPsn := psn, sendPsn := (Config.word s.free).truncate 24
    ackedPsn := (Config.word s.free).truncate 24 }

section
variable {s : State} {r i n : Nat} {psn : BitVec 24}

/-- A request that the sled can serve takes the lowest free index, and a REP answers it. -/
theorem connectionRequest_taken (hf : s.isReady bitFront = true) (hr : r ≤ 16) (hi : i ≤ 16)
    (hn : lowestFree (s.hp.conns.map (·.index)) 4096 = some n) : exec (.connectionRequest 4096 r i psn) s =
      .next (({ s with free := s.free + 1, hp := { s.hp with conns := s.hp.conns ++ [s.newConn n psn] } } : State).emit
        (.wire .rep (mkHandle (genFor s.hp.connGens n) kindConn n)
          ((repData (mkHandle (genFor s.hp.connGens n) kindConn n)).map (·.toNat)))) := by
  refine congrArg Host.Outcome.next ?_
  simp only [hf, hr, hi, hn]
  rfl

/-- Any other request is answered by a REJ. -/
theorem connectionRequest_refused {m : Nat} (h : s.isReady bitFront = false ∨ m ≠ 4096 ∨ 16 < r ∨ 16 < i
    ∨ lowestFree (s.hp.conns.map (·.index)) 4096 = none) : exec (.connectionRequest m r i psn) s = .next (s.emit (.wire .rej 0 [])) := by
  refine congrArg Host.Outcome.next ?_
  dsimp only
  split
  · rename_i served
    simp only [Bool.and_eq_true, decide_eq_true_eq] at served
    obtain ⟨⟨⟨front, mtu⟩, responder⟩, initiator⟩ := served
    obtain h | h | h | h | h := h
    · rw [front] at h
      cases h
    · exact absurd mtu h
    · exact absurd responder (Nat.not_le.2 h)
    · exact absurd initiator (Nat.not_le.2 h)
    · rw [h]
  · rfl

end

/-- The queue pairs once a connection has been flushed for those in QUARANTINE (R281). -/
def flushPairs (h : W32) (l : List Queue) : List Queue :=
  updWhere (fun q => q.conn == h && decide (q.state = QState.quarantine)) (fun q => { q with flushed := true }) l

section
variable {s : State} {h : W32} {c : Conn} (hc : s.conn? h = some c)
include hc

theorem rtuReceive_opens (hs : c.state = .repSent) : exec (.rtuReceive h) s = .next
    { s with hp := { s.hp with everConnected := true
                               conns := updWhere (fun c => names h kindConn c.gen c.index) (fun c => { c with state := .opened }) s.hp.conns } } := by
  refine congrArg Host.Outcome.next ?_
  simp only [hc, if_pos hs]
  rfl

theorem rtuTimeout_releases (hs : c.state = .repSent) : exec (.rtuTimeout h) s = .next (s.releaseConn h) := by
  refine congrArg Host.Outcome.next ?_
  simp only [hc, if_pos hs]

/-! ### The ACK timeout (R307; log 78) -/

theorem ackTimeout_retransmits (ho : c.state = .opened) (hu : c.sendPsn ≠ c.ackedPsn) (hr : c.retries < 7) : exec (.rcAckTimeout h) s =
    .next ((s.modConn h fun c => { c with retries := c.retries + 1 }).emit (.wire .retransmit h [c.ackedPsn.toNat])) := by
  refine congrArg Host.Outcome.next ?_
  simp only [hc]
  rw [if_neg (by simp [ho, hu]), if_pos hr]

theorem ackTimeout_gives_up (ho : c.state = .opened) (hu : c.sendPsn ≠ c.ackedPsn) (hr : 7 ≤ c.retries) :
    exec (.rcAckTimeout h) s = .next (s.connError h none) := by
  refine congrArg Host.Outcome.next ?_
  simp only [hc]
  rw [if_neg (by simp [ho, hu]), if_neg (Nat.not_lt.2 hr)]

/-! ### The release (R155, R310) -/

theorem connectionRelease_releases (he : c.state = .error) : exec (.connectionRelease h) s = .next (s.releaseConn h) := by
  refine congrArg Host.Outcome.next ?_
  simp only [hc, if_pos he]

/-- A connection in error goes from the list; its index takes the next generation, and its pairs in QUARANTINE are flushed. -/
theorem releaseConn_error (he : c.state = .error) : s.releaseConn h =
    { s.closeSessions fun x => x.conn == h with
      hp := { s.hp with conns := s.hp.conns.filter (fun x => !(x.index == c.index)), connGens := bumpGen s.hp.connGens c.index }
      queues := flushPairs h s.queues } := by
  simp only [State.releaseConn, hc, connError_again hc he]
  rfl

/-- Its handle names nothing more. -/
theorem conn_releaseConn (he : c.state = .error) (only : ∀ y ∈ s.hp.conns, names h kindConn y.gen y.index = true → y = c) :
    (s.releaseConn h).conn? h = none := by
  rw [releaseConn_error hc he]
  refine List.find?_eq_none.2 fun y hy named => ?_
  obtain ⟨listed, other⟩ := List.mem_filter.1 hy
  simp [only y listed named] at other

end

/-! ### SENDs (R281, R307; log 78) -/

theorem send_acknowledged {s : State} {h : W32} (ho : s.connOpen h = true) : exec (.rdmaSendReceive h) s = .next
    ((({ s with queues := flushPairs h s.queues } : State).modConn h fun c => { c with expectedPsn := c.expectedPsn + 1 }).emit (.wire .ack h [])) :=
  congrArg Host.Outcome.next (if_pos ho)

/-! ### The window's other regions (R17, R19, R311, R312) -/

theorem frontByte_reserved (s : State) {a : Nat} (h : (0x2000 ≤ a ∧ a < 0x10000) ∨ (0x20000 ≤ a ∧ a < 0x400000) ∨ 0x410000 ≤ a) :
    s.frontByte a = 0 := by
  have identity : ¬ a < 0x1000 := by omega
  have readiness : ¬ a < 0x2000 := by omega
  have slots : ¬ (0x10000 ≤ a ∧ a < 0x20000) := by omega
  have telemetry : ¬ (0x400000 ≤ a ∧ a < 0x410000) := by omega
  simp only [State.frontByte, mailboxBase, identity, readiness, slots, telemetry, if_false]

/-! ### Announces and discovery (R301; log 54) -/

section
variable {s : State}

theorem announce_sent (h : s.isReady bitHostport = true) : exec .announceTimer s = .next
    (({ s with hp := { s.hp with announceSeq := s.hp.announceSeq + 1 } } : State).emit
      (.datagram allNodes ({ s with hp := { s.hp with announceSeq := s.hp.announceSeq + 1 } } : State).announceBytes)) :=
  congrArg Host.Outcome.next (if_pos h)

theorem announce_silent (h : s.isReady bitHostport = false) : Ignores .announceTimer s :=
  congrArg Host.Outcome.next (if_neg (by simp [h]))

/-- The source has been answered within 10 ms. -/
def State.answeredLately (s : State) (src : W128) : Prop := ∃ n, assocGet src s.hp.answered = some n ∧ s.elapsed n < 4250000

variable {src : W128} {b : Buf}

/-- No pause holds a datagram. -/
theorem emit_datagram (s : State) (src : W128) (b : Buf) : s.emit (.datagram src b) =
    { s with out := .datagram src b :: s.out, frames := (s.emit (.datagram src b)).frames } := by
  have held : (s.emit (.datagram src b)).txHeld = s.txHeld := (emit_leaves (.inl rfl)).2
  rw [emit_sent (by simp), held]

theorem discovery_answered (hp : s.isReady bitHostport = true) (hb : Buf.slice b 0 4 = [0x5E, 0x11, 0xB0, 0x5A]) (hr : ¬ s.answeredLately src) :
    exec (.discoveryDatagram src b) s = .next
      (({ s with hp := { s.hp with answered := assocSet src s.pclk s.hp.answered } } : State).emit (.datagram src s.announceBytes)) := by
  have notRecent : (match assocGet src s.hp.answered with | some n => decide (s.elapsed n < countsOfUs 10000) | none => false) = false := by
    split
    · rename_i n hn
      exact decide_eq_false fun late => hr ⟨n, hn, late⟩
    · rfl
  refine congrArg Host.Outcome.next (if_pos ?_)
  rw [hp, hb]
  exact congrArg (!·) notRecent

theorem discovery_ignored (h : Buf.slice b 0 4 ≠ [0x5E, 0x11, 0xB0, 0x5A] ∨ s.answeredLately src) : Ignores (.discoveryDatagram src b) s := by
  refine congrArg Host.Outcome.next (if_neg fun answers => ?_)
  simp only [Bool.and_eq_true, beq_iff_eq, Bool.not_eq_true'] at answers
  obtain ⟨⟨-, first4⟩, notRecent⟩ := answers
  obtain h | ⟨n, hn, late⟩ := h
  · exact h first4
  · simp only [hn] at notRecent
    exact absurd late (of_decide_eq_false notRecent)

end

/-- Settles O16: a request is served or refused; an expiry retransmits or is the error of the connection; a release ends it; a SEND, a write
without an effect, and what leaves for the network before and after HOSTPORT. -/
theorem hostConnections : Obligations.HostConnections := by
  refine ⟨⟨?taken, fun s m r i psn h => connectionRequest_refused h, ?rtu⟩, ?timeout, ⟨?error, ?release⟩, ?send,
    ⟨fun s off b => rfl, fun s a h => frontByte_reserved s h⟩, fun s h => announce_sent h, fun s h => announce_silent h, ?answered,
    fun s src b h => discovery_ignored (.inl h), fun s src b n hn late => discovery_ignored (.inr ⟨n, hn, late⟩)⟩
  case taken =>
    intro s r i n psn hf hr hi hn
    refine ⟨_, connectionRequest_taken hf hr hi hn, (Config.word s.free).truncate 24, ?_, ⟨_, out_emit ..⟩, ?_⟩
    · rw [emit_hp (by simp)]
      rfl
    · rw [emit_sent (by simp)]
  case rtu => exact fun s h c hc hs => ⟨rtuReceive_opens hc hs, rtuTimeout_releases hc hs⟩
  case timeout =>
    intro s h c hc ho hu
    refine ⟨fun hr => ⟨_, ackTimeout_retransmits hc ho hu hr, ?_, ?_⟩, ackTimeout_gives_up hc ho hu⟩
    · rw [emit_sent (by simp)]
      rfl
    · rw [emit_hp (by simp)]
      rfl
  case error =>
    intro s h own c hc hl
    refine ⟨_, rfl, ?_, ?_, ?_, ?_⟩ <;> rw [connError_live hc hl own] <;> rfl
  case release =>
    intro s h c hc he only
    refine ⟨_, connectionRelease_releases hc he, conn_releaseConn hc he only, ?_, ?_, ?_⟩ <;> rw [releaseConn_error hc he]
    · exact fun x => by simp
    · rfl
  case send =>
    intro s h ho
    refine ⟨_, send_acknowledged ho, ?_, out_emit .., ?_, ?_⟩
    · rw [emit_sent (by simp)]
      rfl
    · rw [emit_hp (by simp)]
      rfl
    · rw [emit_sent (by simp)]
      rfl
  case answered =>
    intro s src b hp hb hr
    refine ⟨_, discovery_answered hp hb fun ⟨n, hn, late⟩ => absurd late (Nat.not_lt.2 (hr n hn)), ?_, out_emit ..⟩
    rw [emit_datagram]

end Sys2Proof.Machine
end

section
/-! PROOFS. Ports and their lanes: what a change of a port and a training frame leave as they are (R292, R293, R295; O17, O18). -/

namespace Sys2Proof.Machine

open Sys2Proof

/-! ### A change of a port -/

/-- A port that changes is found changed; the others stay. -/
theorem portAt_modPort (s : State) (n m : Nat) (f : Port → Port) :
    (s.modPort n f).portAt m = if m = n then (s.portAt m).map f else s.portAt m := by
  unfold State.modPort State.portAt
  rcases Nat.eq_zero_or_pos n with rfl | hn <;> rcases Nat.eq_zero_or_pos m with rfl | hm
  · rfl
  · simp [Nat.ne_of_gt hm]
  · simp [Nat.ne_of_gt hn, Nat.ne_of_lt hn, State.modFabric]
  · have index : m - 1 = n - 1 ↔ m = n := by omega
    simp [Nat.ne_of_gt hn, Nat.ne_of_gt hm, State.modFabric, getElem_modAt, index]

/-- A slot that changes is found changed; the port's other slots stay. -/
theorem lane_modLane (s : State) (n i k : Nat) (f : Lane → Lane) :
    (s.modLane n i f).lane? n k = if k = i then (s.lane? n k).map f else s.lane? n k := by
  simp only [State.modLane, State.lane?, portAt_modPort, if_true]
  cases s.portAt n with
  | none => simp
  | some p => simp [getElem_modAt]

/-- What a change of a slot keeps of every lane, every lane of the sled keeps. -/
theorem lane_modLane_keeps {α : Type} {g : Lane → α} {f : Lane → Lane} (hf : ∀ l, g (f l) = g l) (s : State) (n i m k : Nat) :
    ((s.modLane n i f).lane? m k).map g = (s.lane? m k).map g := by
  by_cases hm : m = n
  · subst hm
    rw [lane_modLane]
    split
    · cases s.lane? m k with
      | none => rfl
      | some l => exact congrArg some (hf l)
    · rfl
  · rw [State.modLane, State.lane?, portAt_modPort, if_neg hm]
    rfl

/-- Who holds the spare of a pair is no part of a port. -/
theorem portAt_spareOwner (s : State) (c : Prop) [Decidable c] (k : Nat) (g : Option Nat → Option Nat) (n : Nat) :
    (if c then s.modFabric fun f => { f with spareOwner := modAt f.spareOwner k g } else s).portAt n = s.portAt n := by
  split <;> rfl

@[simp] theorem modPort_integ (s : State) (n : Nat) (f : Port → Port) : (s.modPort n f).integ = s.integ := by
  unfold State.modPort; split <;> rfl
@[simp] theorem modPort_boot (s : State) (n : Nat) (f : Port → Port) : (s.modPort n f).boot = s.boot := by
  unfold State.modPort; split <;> rfl
@[simp] theorem modPort_reroutes (s : State) (n : Nat) (f : Port → Port) : (s.modPort n f).fabric.reroutes = s.fabric.reroutes := by
  unfold State.modPort; split <;> rfl
@[simp] theorem modPort_out (s : State) (n : Nat) (f : Port → Port) : (s.modPort n f).out = s.out := by
  unfold State.modPort; split <;> rfl
@[simp] theorem modLane_out (s : State) (n i : Nat) (f : Lane → Lane) : (s.modLane n i f).out = s.out := modPort_out ..

theorem slotMine_modPort (s : State) (n m i : Nat) (f : Port → Port) : (s.modPort n f).slotMine m i = s.slotMine m i := by
  unfold State.modPort; split <;> rfl

/-- The slots that have finished training stay so under a change that lets every lane's training be. -/
theorem trainedSlots_modLane {f : Lane → Lane} (hf : ∀ l, (f l).trained = l.trained) (s : State) (n i m : Nat) :
    (s.modLane n i f).trainedSlots m = s.trainedSlots m := by
  simp only [State.trainedSlots, State.modLane, portAt_modPort, slotMine_modPort]
  by_cases hm : m = n
  · rw [if_pos hm]
    cases s.portAt m with
    | none => rfl
    | some p =>
      simp only [Option.map_some, length_modAt, getElem_modAt]
      refine List.filter_congr fun k _ => congrArg (s.slotMine m k && ·) ?_
      cases p.lanes[k]? with
      | none => simp
      | some l => by_cases hk : k = i <;> simp [hk, hf]
  · rw [if_neg hm]

/-! ### A training frame (R292, R293) -/

/-- A lane on which a further training frame has been sent. -/
def Lane.sent (counts : Bool) (l : Lane) : Lane := { l with seq := l.seq + 1, further := if counts then l.further + 1 else 0 }

/-- A training frame on a slot is a free value, the slot's next frame number, and a frame. -/
theorem sendTraining_eq {s : State} {n i : Nat} {l : Lane} (hl : s.lane? n i = some l) (op logical target : Nat) :
    ∃ v, s.sendTraining n i op logical target =
      ((s.fresh.2).modLane n i (Lane.sent (l.trained && decide (4 ≤ (s.trainedSlots n).length)))).emit (.training n i v) := by
  simp only [State.sendTraining, hl]
  exact ⟨_, rfl⟩

section
variable {α : Type} (f : State → α)
  (hs : ∀ (s : State) (free : Nat) (out : List Out) (frames : List TxFrame) (held : List Out),
    f { s with free := free, out := out, frames := frames, txHeld := held } = f s)
  (hl : ∀ (s : State) (n i : Nat) (counts : Bool), f (s.modLane n i (Lane.sent counts)) = f s)
include hs hl

/-- A training frame keeps what a frame number and a frame that leaves keep. -/
theorem sendTraining_keeps (s : State) (n i op logical target : Nat) : f (s.sendTraining n i op logical target) = f s := by
  cases h : s.lane? n i with
  | none => simp only [State.sendTraining, h]
  | some l =>
    obtain ⟨v, sent⟩ := sendTraining_eq h op logical target
    rw [sent, emit_sent (by simp)]
    exact (hs _ _ _ _ _).trans ((hl _ _ _ _).trans (hs s _ s.out s.frames s.txHeld))

end

/-! The frame that answers a training frame. -/

@[simp] theorem lane_emit (s : State) (o : Out) (n i : Nat) : (s.emit o).lane? n i = s.lane? n i :=
  emit_keeps (·.lane? n i) (fun _ _ _ _ _ _ _ => rfl) s o

theorem trainedSlots_sendTraining (s : State) (n i op logical target m : Nat) :
    (s.sendTraining n i op logical target).trainedSlots m = s.trainedSlots m :=
  sendTraining_keeps (·.trainedSlots m) (fun _ _ _ _ _ => rfl)
    (fun s n i c => trainedSlots_modLane (f := Lane.sent c) (fun _ => rfl) s n i m) s n i op logical target

theorem sendTraining_lane {s : State} {n i : Nat} {l : Lane} (hl : s.lane? n i = some l) (op logical target : Nat) :
    (s.sendTraining n i op logical target).lane? n i = some (l.sent (l.trained && decide (4 ≤ (s.trainedSlots n).length))) := by
  obtain ⟨v, sent⟩ := sendTraining_eq hl op logical target
  rw [sent, lane_emit, lane_modLane, if_pos rfl, show (s.fresh.2).lane? n i = some l from hl]
  rfl

theorem sendTraining_out {s : State} {n i : Nat} {l : Lane} (hl : s.lane? n i = some l) (op logical target : Nat) :
    ∃ v, (s.sendTraining n i op logical target).out = .training n i v :: s.out := by
  obtain ⟨v, sent⟩ := sendTraining_eq hl op logical target
  exact ⟨v, by rw [sent, out_emit, modLane_out]; rfl⟩

/-! ### Swap messages (R295) -/

section
variable {α : Type} (f : State → α)
  (hs : ∀ (s : State) (free : Nat) (out : List Out) (frames : List TxFrame) (held : List Out),
    f { s with free := free, out := out, frames := frames, txHeld := held } = f s)
  (hl : ∀ (s : State) (n i : Nat) (counts : Bool), f (s.modLane n i (Lane.sent counts)) = f s)
include hs hl

/-- Swap messages on the spares keep what their training frames keep. -/
theorem sendSwap_keeps (s : State) (n op logical target : Nat) : f (s.sendSwap n op logical target) = f s :=
  foldl_keeps f (fun s i => sendTraining_keeps f hs hl s n i op logical target) _ s

end

end Sys2Proof.Machine
end

section
/-! PROOFS. Training of lane slots and the start of data on the trained ones (R291 to R293, R298, R333; O17). -/

namespace Sys2Proof.Machine

open Sys2Proof

/-! ### A training frame of the partner (R292, R293) -/

/-- A lane as the sled's receiver stands at a frame. -/
def Lane.adapt (adapted : Bool) (l : Lane) : Lane :=
  { l with rxReady := adapted, faulty := l.faulty && !adapted, further := if adapted then l.further else 0 }

/-- A lane that has taken a frame's fields. -/
def Lane.take (w : TrainWord) (l : Lane) : Lane :=
  { l.request w with partnerReady := w.rxReady, precode := w.precode, further := if w.rxReady then l.further else 0 }

/-- The partner's request moves taps and answers with STS, and leaves the rest of the lane (R292; log 4). -/
theorem request_frame (l : Lane) (w : TrainWord) : l.request w = { l with taps := (l.request w).taps, sts := (l.request w).sts } := by
  unfold Lane.request
  split
  · rfl
  · split <;> rfl

/-- The taps that a request makes are made of the taps alone. -/
theorem request_taps_congr {l m : Lane} (h : l.taps = m.taps) (w : TrainWord) : (l.request w).taps = (m.request w).taps := by
  unfold Lane.request
  split
  · exact h
  · split
    · exact h
    · simp only [h]

/-- The slot of a frame that has been taken. -/
theorem lane_taken {s : State} {n slot : Nat} {l : Lane} (hl : s.lane? n slot = some l) {adapted : Bool} (w : TrainWord) :
    ((s.modLane n slot (Lane.adapt adapted)).modLane n slot (Lane.take w)).lane? n slot =
    some ((l.adapt adapted).take w) := by
  simp only [lane_modLane, if_true, hl, Option.map_some]

section
variable {s : State} {n slot : Nat} {word : W64} {adapted : Bool} {l : Lane} (hl : s.lane? n slot = some l) (hlit : l.lit = true)
  (hd : l.logical = none) (hw : s.portWide n = true)
include hl hlit hd hw

/-- A frame with a bad CRC says only whether the receiver is adapted. -/
theorem trainingFrame_bad (hp : parseTrain word = none) :
    exec (.trainingFrame n slot word adapted) s = .next (s.modLane n slot (Lane.adapt adapted)) := by
  refine congrArg Host.Outcome.next ?_
  simp only [hl, hp]
  exact if_neg (by simp [hlit, hd, hw])

/-- A frame without a swap message is taken and answered. -/
theorem trainingFrame_taken {w : TrainWord} (hp : parseTrain word = some w) (h1 : w.swapOp ≠ 1) (h2 : w.swapOp ≠ 2) :
    exec (.trainingFrame n slot word adapted) s =
      .next (((s.modLane n slot (Lane.adapt adapted)).modLane n slot (Lane.take w)).sendTraining n slot 0 0 0) := by
  have noSwap : ¬ (w.swapOp = 1 ∨ w.swapOp = 2) := by simp [h1, h2]
  have noData : ((l.adapt adapted).take w).logical = none := by
    rw [Lane.take, request_frame]
    exact hd
  refine congrArg Host.Outcome.next ?_
  simp only [hl, hp, if_neg noSwap]
  rw [if_neg (by simp [hlit, hd, hw])]
  simp only [lane_modLane, if_true, hl, Option.map_some]
  exact if_pos (Option.isNone_iff_eq_none.2 noData)

/-- What a frame that the sled has taken leaves of its slot, with the answer's own number and count. -/
theorem trainingFrame_lane {w : TrainWord} (hp : parseTrain word = some w) (h1 : w.swapOp ≠ 1) (h2 : w.swapOp ≠ 2) :
    Gives (.trainingFrame n slot word adapted) s fun t =>
      t.lane? n slot = some (((l.adapt adapted).take w).sent (((l.adapt adapted).take w).trained && decide (4 ≤ (t.trainedSlots n).length)))
      ∧ ∃ v, t.out = .training n slot v :: s.out := by
  have taken := lane_taken hl (adapted := adapted) w
  refine ⟨_, trainingFrame_taken hl hlit hd hw hp h1 h2, ?_, ?_⟩
  · rw [trainedSlots_sendTraining]
    exact sendTraining_lane taken 0 0 0
  · simpa only [modLane_out] using sendTraining_out taken 0 0 0

end

/-! ### A late slot (R293) -/

section
variable {s : State} {slot : Nat} {l : Lane} (hl : s.lane? 0 slot = some l)
include hl

theorem trainingTimeout_counts (hr : l.rxReady = false) (hd : l.logical = none) : exec (.trainingTimeout 0 slot) s =
    .next { s with hp := { s.hp with trainingLate := satInc s.hp.trainingLate } } := by
  refine congrArg Host.Outcome.next ?_
  simp only [hl]
  exact if_pos ⟨trivial, hr, hd⟩

theorem trainingTimeout_ignored (h : l.rxReady = true ∨ l.logical ≠ none) : Ignores (.trainingTimeout 0 slot) s := by
  refine congrArg Host.Outcome.next ?_
  simp only [hl]
  refine if_neg fun ⟨_, hr, hd⟩ => ?_
  obtain h | h := h
  · simp [hr] at h
  · exact h hd

end

/-! ### Data on the trained slots (R291, R293, R298, R333) -/

/-- A wide port uses its four lowest trained slots, on each of which 64 further frames have been sent. -/
theorem dataSlots_wide {s : State} {n : Nat} {slots : List Nat} (hw : s.portWide n = true) (h : s.dataSlots n = some slots) :
    slots = (s.trainedSlots n).take 4 ∧ slots.length = 4 ∧ ∀ i ∈ slots, ∃ l, s.lane? n i = some l ∧ 64 ≤ l.further := by
  simp only [State.dataSlots, if_pos hw] at h
  split at h
  · rename_i ready
    cases h
    refine ⟨rfl, ready.1, fun i hi => ?_⟩
    have sent := List.all_eq_true.1 ready.2 i hi
    split at sent
    · rename_i l hl
      exact ⟨l, hl, of_decide_eq_true sent⟩
    · cases sent
  · cases h

theorem trainedSlots_nodup (s : State) (n : Nat) : (s.trainedSlots n).Nodup := by
  unfold State.trainedSlots
  split
  · exact List.nodup_nil
  · exact List.nodup_range.filter _

/-- No slot carries two logical lanes. -/
theorem dataSlots_nodup {s : State} {n : Nat} {slots : List Nat} (h : s.dataSlots n = some slots) : slots.Nodup := by
  by_cases hw : s.portWide n = true
  · obtain ⟨lowest, -⟩ := dataSlots_wide hw h
    exact lowest ▸ (trainedSlots_nodup s n).sublist (List.take_sublist _ _)
  · simp only [State.dataSlots, if_neg hw] at h
    split at h
    · split at h
      · cases h
        exact List.nodup_range
      · cases h
    · cases h

/-- The logical lane that a slot carries: its place among the slots in use. -/
def laneOf (slots : List Nat) (i : Nat) : Option Nat := (List.range slots.length).find? fun k => slots[k]? == some i

theorem laneOf_place {slots : List Nat} (hn : slots.Nodup) {k i : Nat} (hk : slots[k]? = some i) : laneOf slots i = some k := by
  have inside : k < slots.length := (List.getElem?_eq_some_iff.1 hk).1
  refine List.find?_range_eq_some.2 ⟨by simp [hk], List.mem_range.2 inside, fun j hj => ?_⟩
  have earlier : slots[j]? ≠ some i := fun h => List.nodup_iff_getElem?_ne_getElem?.1 hn j k hj inside (h.trans hk.symm)
  simpa using earlier

theorem laneOf_unused {slots : List Nat} {i : Nat} (hi : i ∉ slots) : laneOf slots i = none :=
  List.find?_eq_none.2 fun _ _ hk => hi (List.mem_of_getElem? (beq_iff_eq.1 hk))

/-- A port whose slots carry the logical lanes of their places. -/
def Port.carry (slots : List Nat) (p : Port) : Port := { p with lanes := p.lanes.zipIdx.map fun (l, i) => { l with logical := laneOf slots i } }

theorem lane_carry (slots : List Nat) (p : Port) (i : Nat) :
    (p.carry slots).lanes[i]? = (p.lanes[i]?).map fun l => { l with logical := laneOf slots i } := by
  simp only [Port.carry, List.getElem?_map, List.getElem?_zipIdx, Option.map_map, Nat.zero_add]
  rfl

/-- The switch to data gives each slot of the port its logical lane, or none. -/
theorem lanesToData_lanes {s : State} {n : Nat} {p : Port} {slots : List Nat} (hp : s.portAt n = some p) (hu : p.up = false)
    (hq : p.swaps = []) (hs : s.dataSlots n = some slots) : Gives (.lanesToData n) s fun t =>
      ∀ i, (s.lane? n i).isSome = true → (t.lane? n i).bind (·.logical) = laneOf slots i := by
  refine ⟨_, congrArg Host.Outcome.next (by simp only [hp, hs]; exact if_neg (by simp [hu, hq])), fun i hi => ?_⟩
  have switched : ∀ t : State, t.portAt n = some (p.carry slots) → (t.lane? n i).bind (·.logical) = laneOf slots i := by
    intro t ht
    obtain ⟨l, hl⟩ := Option.isSome_iff_exists.1 hi
    have own : p.lanes[i]? = some l := by simpa [State.lane?, hp] using hl
    rw [State.lane?, ht, Option.bind_some, lane_carry, own]
    rfl
  refine switched _ ((portAt_spareOwner ..).trans ?_)
  rw [portAt_modPort, if_pos rfl, hp]
  rfl

/-- Settles O17: what a training frame makes of its slot, a late slot, and the lanes of the slots in use. -/
theorem linkTraining : Obligations.LinkTraining := by
  refine ⟨?frame, fun s slot l hl => ⟨trainingTimeout_counts hl, trainingTimeout_ignored hl⟩, ?data⟩
  case frame =>
    intro s n slot word adapted l hl hlit hd hw
    refine ⟨trainingFrame_bad hl hlit hd hw, fun w hp h1 h2 => ?_⟩
    obtain ⟨t, next, lane, sent⟩ := trainingFrame_lane (adapted := adapted) hl hlit hd hw hp h1 h2
    rw [Lane.take, request_frame] at lane
    refine ⟨t, next, _, lane, rfl, rfl, rfl, rfl, request_taps_congr (l := l.adapt adapted) (m := l) rfl w, fun ha hr h4 => ?_, sent⟩
    simp [Lane.sent, Lane.trained, Lane.adapt, ha, hr, h4, hlit]
  case data =>
    intro s n p slots hp hu hq hs
    obtain ⟨t, next, lanes⟩ := lanesToData_lanes hp hu hq hs
    refine ⟨t, next, fun k i hk hi => ?_, fun i hn hi => ?_, fun hw => ?_⟩
    · rw [lanes i hi, laneOf_place (dataSlots_nodup hs) hk]
    · rw [lanes i hi, laneOf_unused hn]
    · obtain ⟨lowest, four, further⟩ := dataSlots_wide hw hs
      refine ⟨lowest, ?_, further⟩
      rw [lowest, List.length_take] at four
      exact four ▸ Nat.min_le_right ..

end Sys2Proof.Machine
end

section
/-! PROOFS. Ports that come and go (R295, R314, R334, R350): readiness bits, and what the news of a port leaves as it is (O18). -/

namespace Sys2Proof.Machine

open Sys2Proof

/-! ### Readiness bits (R314, R407) -/

theorem getLsbD_setBit {w : Nat} (v : BitVec w) {i : Nat} (hi : i < w) (b : Bool) (k : Nat) :
    (setBit v i b).getLsbD k = if k = i then b else v.getLsbD k := by
  by_cases hk : k = i
  · subst hk
    cases b <;> simp [setBit, hi]
  · have apart : k < i ∨ ¬ k - i = 0 := by omega
    have inside : v.getLsbD k = true → k < w := BitVec.lt_of_getLsbD
    cases b with
    | true => rcases apart with h | h <;> simp [setBit, hk, h]
    | false => rcases apart with h | h <;> simpa [setBit, hk, h] using inside

theorem isReady_setReady (s : State) {i : Nat} (hi : i < 128) (b : Bool) (k : Nat) :
    (s.setReady i b).isReady k = if k = i then b else s.isReady k := getLsbD_setBit s.boot.ready hi b k

/-- The condition of a fabric port's bit: firmware, and the port in service. -/
theorem bitCond_fp (s : State) {p : Nat} (hp : p < 12) :
    s.bitCond (bitFp p) = (decide (s.boot.phase = .firmware) && ((s.fabric.ports[p]?).map (·.up)).getD false) := by
  have beyond : ∀ k < 56, ¬ 56 + p = k := fun k hk => by omega
  have hbm : ¬ 56 + p < 40 := by omega
  have hub : ¬ 56 + p < 56 := by omega
  have fabric : 56 + p < 68 := by omega
  unfold State.bitCond bitFp
  simp [beyond, hbm, hub, fabric, bitHostport, bitFront, bitMailbox, bitQmgr, bitCtrl, bitSysregion, bitLoom, bitFlashmap, bitIndex,
    bitTables, bitWoane, bitGraft]
  cases s.fabric.ports[p]? <;> simp

/-- One bit clears when its condition no longer holds. -/
def State.dropBit (s : State) (i : Nat) : State := if s.isReady i && !s.bitCond i then s.setReady i false else s

theorem dropBits_eq (s : State) : s.dropBits =
    [bitHostport, bitLoom, bitFlashmap, bitWoane, bitIndex, bitTables, bitGraft].foldl State.dropBit
      ((List.range 12).foldl (fun s p => s.dropBit (bitFp p)) s) := rfl

theorem dropBit_keeps {α : Type} (f : State → α) (h : ∀ s i b, f (s.setReady i b) = f s) (s : State) (i : Nat) : f (s.dropBit i) = f s := by
  unfold State.dropBit
  split
  · exact h s i false
  · rfl

/-- A bit that is clear stays clear. -/
theorem dropBit_clear {s : State} {i k : Nat} (hi : i < 128) (hk : s.isReady k = false) : (s.dropBit i).isReady k = false := by
  unfold State.dropBit
  split
  · rw [isReady_setReady _ hi, hk, ite_self]
  · exact hk

theorem foldl_dropBit_clear {k : Nat} {α : Type} (bit : α → Nat) : ∀ (l : List α) {s : State}, (∀ x ∈ l, bit x < 128) →
    s.isReady k = false → (l.foldl (fun s x => s.dropBit (bit x)) s).isReady k = false
  | [], _, _, hk => hk
  | x :: l, _, hl, hk =>
    foldl_dropBit_clear bit l (fun y hy => hl y (List.mem_cons_of_mem x hy)) (dropBit_clear (hl x List.mem_cons_self) hk)

/-- The bit of a fabric port clears with the port. -/
theorem dropBits_fp {s : State} {p : Nat} (hp : p < 12) (hd : ((s.fabric.ports[p]?).map (·.up)).getD false = false) :
    s.dropBits.isReady (bitFp p) = false := by
  have fps : ∀ q ∈ List.range 12, bitFp q < 128 := fun q hq => by
    have := List.mem_range.1 hq
    simp only [bitFp]
    omega
  obtain ⟨before, after, split⟩ := List.append_of_mem (List.mem_range.2 hp)
  have kept : ∀ t : State, t.fabric = s.fabric → (t.dropBit (bitFp p)).isReady (bitFp p) = false := by
    intro t ht
    have condition : t.bitCond (bitFp p) = false := by rw [bitCond_fp t hp, ht, hd, Bool.and_false]
    unfold State.dropBit
    rw [condition]
    split
    · rw [isReady_setReady _ (fps p (List.mem_range.2 hp)), if_pos rfl]
    · simp_all
  rw [dropBits_eq]
  refine foldl_dropBit_clear id _ (by decide) ?_
  rw [split, List.foldl_append, List.foldl_cons]
  refine foldl_dropBit_clear bitFp after (fun q hq => fps q (by rw [split]; simp [hq])) (kept _ ?_)
  exact foldl_keeps (·.fabric) (fun s q => dropBit_keeps (·.fabric) (fun _ _ _ => rfl) s (bitFp q)) before s

/-! ### What the parts of a port's news keep (R350, R403) -/

@[simp] theorem unitFail_fabric (s : State) (t i c : Nat) : (s.unitFail t i c).fabric = s.fabric := by
  rw [State.unitFail, logError_frame]
@[simp] theorem unitFail_hp (s : State) (t i c : Nat) : (s.unitFail t i c).hp = s.hp := by
  rw [State.unitFail, logError_frame]

@[simp] theorem dropBits_fabric (s : State) : s.dropBits.fabric = s.fabric := dropBits_keeps _ (fun _ _ _ => rfl) s
@[simp] theorem dropBits_integ (s : State) : s.dropBits.integ = s.integ := dropBits_keeps _ (fun _ _ _ => rfl) s

/-- HELLO to every member, audits of the flows whose path has changed, and the end of the re-route when none waits. -/
def State.portNews (s : State) (old : Nat → Nat → Option (Nat × Nat)) : State := ((s.helloAll).auditChanged old).settleReroute

section
variable {α : Type} (f : State → α)
  (hf : ∀ (s : State) (tx : List TxFlow) (stats : List (List W64)) (out : List Out) (frames : List TxFrame) (held : List Out) (conns : List Conn),
    f { s with fabric := { s.fabric with tx := tx, portStats := stats }, out := out, frames := frames, txHeld := held
               hp := { s.hp with conns := conns } } = f s)
  (ht : ∀ (s : State) (k u : Nat), f (s.takeoverDone k u) = f s)
include hf ht

theorem portNews_keeps (s : State) (old : Nat → Nat → Option (Nat × Nat)) : f (s.portNews old) = f s := by
  have bump : ∀ (s : State) (p k : Nat), f (s.bumpPort p k) = f s := fun s p k => hf s s.fabric.tx _ s.out s.frames s.txHeld s.hp.conns
  have send := sendPacket_keeps f hf
  have audits : ∀ s : State, f (s.auditChanged old) = f s := fun s =>
    foldl_keeps f (fun s (x : TxFlow) => audit_keeps f (setTx_keeps f hf) bump send s x.rank x.cls) _ s
  have hellos : f s.helloAll = f s := foldl_keeps f (fun _ _ => send ..) _ s
  exact (settleReroute_keeps f (fun s u => ht s 5 u) _).trans ((audits _).trans hellos)

theorem lanesDone_keeps (s : State) (n : Nat) : f (s.lanesDone n) = f s := by
  refine foldl_keeps f (fun s u => (ht _ 2 u).trans ?_) _ s
  split
  · rfl
  · exact hf s s.fabric.tx _ s.out s.frames s.txHeld s.hp.conns

end

/-! ### The fall, the loss and the return of a port -/

theorem portAt_fabric (s : State) (p : Nat) : s.portAt (1 + p) = s.fabric.ports[p]? := by
  rw [State.portAt, if_neg (by omega), Nat.add_sub_cancel_left]

theorem portAt_portDown (s : State) (n : Nat) : (s.portDown n).portAt n = (s.portAt n).map fun p => { p with up := false } := by
  rw [State.portDown, dropBits_keeps (·.portAt n) fun _ _ _ => rfl, portAt_modPort, if_pos rfl]

section
variable {s : State} {p : Nat} {x : Port} (hx : s.fabric.ports[p]? = some x)
include hx

/-- A port in service that is lost: UNIT_FAIL, its counter, its bits, the re-route, and the news. -/
theorem portLoss_up (hu : x.up = true) : s.portLoss p =
    (((((s.unitFail unitPort (1 + p) 5).bumpPort p 4).portDown (1 + p)).modFabric fun f => { f with reroutes := satInc f.reroutes }).declare
      5 p).portNews s.path := by
  simp only [State.portLoss, hx, if_pos hu]
  rfl

theorem portLoss_idle (hu : x.up = false) : s.portLoss p = s := by
  simp [State.portLoss, hx, hu]

/-- A lost port is out of service, its bit is clear, and its record and the count of re-routes stand. -/
theorem portLoss_out (hp : p < 12) (hu : x.up = true) :
    ((s.portLoss p).fabric.ports[p]?).map (·.up) = some false ∧ (s.portLoss p).isReady (bitFp p) = false
      ∧ (s.portLoss p).integ = (s.unitFail unitPort (1 + p) 5).integ ∧ (s.portLoss p).fabric.reroutes = satInc s.fabric.reroutes := by
  have fallen : (((s.unitFail unitPort (1 + p) 5).bumpPort p 4).portDown (1 + p)).fabric.ports[p]? = some { x with up := false } := by
    rw [← portAt_fabric, portAt_portDown, portAt_fabric]
    simp [State.bumpPort, State.modFabric, hx]
  rw [portLoss_up hx hu]
  refine ⟨?_, ?_, ?_, ?_⟩
  · rw [portNews_keeps (·.fabric.ports) (fun _ _ _ _ _ _ _ => rfl) fun _ _ _ => rfl]
    exact congrArg (Option.map (·.up)) fallen
  · rw [portNews_keeps (·.isReady (bitFp p)) (fun _ _ _ _ _ _ _ => rfl) fun _ _ _ => rfl]
    refine dropBits_fp hp ?_
    rw [← dropBits_fabric]
    exact congrArg (fun o : Option Port => (o.map (·.up)).getD false) fallen
  · rw [portNews_keeps (·.integ) (fun _ _ _ _ _ _ _ => rfl) fun _ _ _ => rfl]
    simp [State.declare, State.modFabric, State.portDown, State.bumpPort]
  · rw [portNews_keeps (·.fabric.reroutes) (fun _ _ _ _ _ _ _ => rfl) fun _ _ _ => rfl]
    simp [State.declare, State.modFabric, State.portDown, State.bumpPort]

/-- A port that is out and comes back under running firmware. -/
theorem portReturn_up (hu : x.up = false) (hf : s.boot.phase = .firmware) : s.portReturn p =
    ((s.modPort (1 + p) fun x => { x with up := true }).setReady (bitFp p) true).portNews s.path := by
  have running : (s.modPort (1 + p) fun x => { x with up := true }).boot.phase = .firmware := by rw [modPort_boot, hf]
  simp only [State.portReturn, hx, hu, Bool.false_eq_true, if_false, if_pos running]
  rfl

/-- It is in service again, and its bit stands. -/
theorem portReturn_in (hp : p < 12) (hu : x.up = false) (hf : s.boot.phase = .firmware) :
    ((s.portReturn p).fabric.ports[p]?).map (·.up) = some true ∧ (s.portReturn p).isReady (bitFp p) = true := by
  rw [portReturn_up hx hu hf]
  refine ⟨?_, ?_⟩
  · rw [portNews_keeps (·.fabric.ports) (fun _ _ _ _ _ _ _ => rfl) fun _ _ _ => rfl, ← portAt_fabric]
    refine (congrArg (Option.map (·.up)) (portAt_modPort s (1 + p) (1 + p) _)).trans ?_
    rw [if_pos rfl, portAt_fabric, hx]
    rfl
  · rw [portNews_keeps (·.isReady (bitFp p)) (fun _ _ _ _ _ _ _ => rfl) fun _ _ _ => rfl, isReady_setReady _ (by simp only [bitFp]; omega),
      if_pos rfl]

/-! ### Alignment (R295, R334) -/

/-- A fabric port whose lanes all have their slots is in service again. -/
theorem aligned_fabric (hm : x.mapped 4 = true) : s.aligned (1 + p) = (s.portReturn p).lanesDone (1 + p) := by
  have other : 1 + p ≠ 0 := by omega
  have wide : s.portWide (1 + p) = true := by simp [State.portWide]
  simp only [State.aligned, portAt_fabric, hx, wide, if_true, hm, if_neg other, Nat.add_sub_cancel_left]

theorem aligned_in (hp : p < 12) (hm : x.mapped 4 = true) (hu : x.up = false) (hf : s.boot.phase = .firmware) :
    ((s.aligned (1 + p)).fabric.ports[p]?).map (·.up) = some true ∧ (s.aligned (1 + p)).isReady (bitFp p) = true := by
  rw [aligned_fabric hx hm, lanesDone_keeps (·.fabric.ports) (fun _ _ _ _ _ _ _ => rfl) fun _ _ _ => rfl,
    lanesDone_keeps (·.isReady (bitFp p)) (fun _ _ _ _ _ _ _ => rfl) fun _ _ _ => rfl]
  exact portReturn_in hx hp hu hf

end

/-- The host port aligned under firmware or in recovery is up, and HOSTPORT stands. -/
theorem aligned_host {s : State} (hm : s.hp.port.mapped (if s.hp.wide = true then 4 else 8) = true)
    (hb : s.boot.phase = .firmware ∨ s.boot.phase = .recovery) :
    (s.aligned 0).hp.port.up = true ∧ (s.aligned 0).isReady bitHostport = true := by
  have aligned : s.aligned 0 = (((s.modPort 0 fun p => { p with up := true }).setReady bitHostport
      ((s.modPort 0 fun p => { p with up := true }).bitCond bitHostport)).lanesDone 0) := by
    have mapped : s.hp.port.mapped (if s.portWide 0 = true then 4 else 8) = true := by simpa [State.portWide] using hm
    simp only [State.aligned, show s.portAt 0 = some s.hp.port from rfl, if_pos mapped, if_true]
  have condition : (s.modPort 0 fun p => { p with up := true }).bitCond bitHostport = true := by
    obtain h | h := hb <;> simp [State.bitCond, State.modPort, h]
  rw [aligned, condition]
  constructor
  · exact lanesDone_keeps (·.hp.port.up) (fun _ _ _ _ _ _ _ => rfl) (fun _ _ _ => rfl) _ 0
  · rw [lanesDone_keeps (·.isReady bitHostport) (fun _ _ _ _ _ _ _ => rfl) fun _ _ _ => rfl, isReady_setReady _ (by decide), if_pos rfl]

end Sys2Proof.Machine
end

section
/-! PROOFS. Faulty lanes and their moves (R294 to R298), and the laser modules (R393 to R395; O18). -/

namespace Sys2Proof.Machine

open Sys2Proof

/-! ### The request for a move (R295) -/

/-- A port whose move of a logical lane has sent its request. -/
def Port.requested (logical : Nat) (p : Port) : Port :=
  { p with swaps := p.swaps.map fun x => if x.logical == logical then { x with sentRequest := true } else x }

section
variable {α : Type} (f : State → α)
  (hs : ∀ (s : State) (free : Nat) (out : List Out) (frames : List TxFrame) (held : List Out),
    f { s with free := free, out := out, frames := frames, txHeld := held } = f s)
  (hl : ∀ (s : State) (n i : Nat) (counts : Bool), f (s.modLane n i (Lane.sent counts)) = f s)
  (hr : ∀ (s : State) (n logical : Nat), f (s.modPort n (Port.requested logical)) = f s)
include hs hl hr

/-- The request for the first move keeps what its swap messages and the mark of the request keep. -/
theorem requestSwap_keeps (s : State) (n : Nat) : f (s.requestSwap n) = f s := by
  unfold State.requestSwap
  split
  · split
    · rfl
    · exact (sendSwap_keeps f hs hl _ n 1 _ _).trans (hr s n _)
  · rfl

end

/-- What the lanes of a port are but for their frames' numbers, a request keeps. -/
theorem requestSwap_lane {α : Type} {g : Lane → α} (hg : ∀ (l : Lane) (counts : Bool), g (l.sent counts) = g l) (s : State) (n m k : Nat) :
    ((s.requestSwap n).lane? m k).map g = (s.lane? m k).map g := by
  refine requestSwap_keeps (fun s => (s.lane? m k).map g) (fun _ _ _ _ _ => rfl)
    (fun s n i counts => lane_modLane_keeps (fun l => hg l counts) s n i m k) (fun s n logical => congrArg (Option.map g) ?_) s n
  simp only [State.lane?, portAt_modPort]
  split
  · cases s.portAt m <;> rfl
  · rfl

/-- What the ports of the sled are but for their lanes' frames and the marks of requests, a request keeps. -/
theorem requestSwap_port {α : Type} {g : Port → α} (hl : ∀ (p : Port) (l : List Lane), g { p with lanes := l } = g p)
    (hr : ∀ (p : Port) (logical : Nat), g (p.requested logical) = g p) (s : State) (n m : Nat) :
    ((s.requestSwap n).portAt m).map g = (s.portAt m).map g := by
  have changed : ∀ (s : State) (n : Nat) (f : Port → Port), (∀ p, g (f p) = g p) → ((s.modPort n f).portAt m).map g = (s.portAt m).map g := by
    intro s n f hf
    rw [portAt_modPort]
    split
    · cases s.portAt m with
      | none => rfl
      | some p => exact congrArg some (hf p)
    · rfl
  exact requestSwap_keeps (fun s => (s.portAt m).map g) (fun _ _ _ _ _ => rfl) (fun s n i c => changed s n _ fun p => hl p _)
    (fun s n logical => changed s n _ fun p => hr p logical) s n

/-- The moves of a port by their lanes and slots. -/
def Port.moves (p : Port) : List (Nat × Nat) := p.swaps.map fun w => (w.logical, w.slot)

theorem moves_requested (p : Port) (logical : Nat) : (p.requested logical).moves = p.moves := by
  simp only [Port.moves, Port.requested, List.map_map]
  refine List.map_congr_left fun w _ => ?_
  dsimp only [Function.comp]
  split <;> rfl

theorem requestSwap_moves (s : State) (n m : Nat) : ((s.requestSwap n).portAt m).map Port.moves = (s.portAt m).map Port.moves :=
  requestSwap_port (fun _ _ => rfl) moves_requested s n m

/-! ### A lane of the host port stops (R294) -/

/-- A lane that was declared faulty as the carrier of a logical lane trains afresh. -/
def Lane.stop (logical : Nat) (l : Lane) : Lane :=
  if l.logical == some logical then { l with logical := none, faulty := true, rxReady := false, partnerReady := false, further := 0 } else l

theorem stopLane_host (s : State) (logical : Nat) : s.stopLane 0 logical true =
    (s.modPort 0 fun p => { p with lanes := p.lanes.map (Lane.stop logical) }).portDown 0 := rfl

theorem stopLane_port (s : State) (logical : Nat) : (s.stopLane 0 logical true).portAt 0 =
    some { s.hp.port with up := false, lanes := s.hp.port.lanes.map (Lane.stop logical) } := by
  rw [stopLane_host, portAt_portDown]
  rfl

@[simp] theorem stopLane_integ (s : State) (logical : Nat) : (s.stopLane 0 logical true).integ = s.integ := by
  rw [stopLane_host, State.portDown, dropBits_integ, modPort_integ, modPort_integ]

theorem stopLane_lane {s : State} {slot logical : Nat} {l : Lane} (hl : s.lane? 0 slot = some l) (hd : l.logical = some logical) :
    (s.stopLane 0 logical true).lane? 0 slot =
      some { l with logical := none, faulty := true, rxReady := false, partnerReady := false, further := 0 } := by
  have own : s.hp.port.lanes[slot]? = some l := hl
  rw [State.lane?, stopLane_port, Option.bind_some, List.getElem?_map, own]
  simp [Lane.stop, hd]

/-! ### A faulty lane (R294 to R298) -/

/-- The host port once the fault of a lane in wide mode has been recorded and the lane has stopped. -/
def State.laneLost (s : State) (logical slot : Nat) : State := (s.unitFail unitLane slot 5).stopLane 0 logical true

/-- A move that has sent and received nothing. -/
def newMove (logical slot : Nat) : Swap := { logical := logical, slot := slot, sentRequest := false, sentGrant := false, received := false }

/-- The move of a logical lane of the host port to a spare begins; its takeover is named by the port, 0, and the lane. -/
def State.beginMove (s : State) (logical k : Nat) : State :=
  ((s.modPort 0 fun p => { p with swaps := insertSwap (newMove logical k) p.swaps }).declare 2 (64 * 0 + logical)).requestSwap 0

/-- Of the outcome of a faulty lane in wide mode: with a spare the move begins. -/
def State.moveOn (s : State) (logical : Nat) : State := match s.swapTarget 0 with | none => s | some k => s.beginMove logical k

/-- A fault of the only slot that carries a logical lane: in wide mode it is recorded and the lane moves on; in DR8 mode it only stops. -/
theorem laneFault_carrier {s : State} {logical slot : Nat} {l : Lane} (hl : s.lane? 0 slot = some l) (hd : l.logical = some logical)
    (only : ∀ i x, s.lane? 0 i = some x → x.logical = some logical → i = slot) : exec (.laneFault 0 logical) s =
      .next (if s.hp.wide then (s.laneLost logical slot).moveOn logical else s.stopLane 0 logical true) := by
  have own : s.hp.port.lanes[slot]? = some l := hl
  have mode : s.portWide 0 = s.hp.wide := by simp [State.portWide]
  refine congrArg Host.Outcome.next ?_
  simp only [show s.portAt 0 = some s.hp.port from rfl, mode]
  split
  · rename_i absent
    have inside := (List.getElem?_eq_some_iff.1 own).1
    have := List.find?_eq_none.1 absent slot (List.mem_range.2 inside)
    simp [own, hd] at this
  · rename_i i found
    have carries := List.find?_some found
    split at carries
    · rename_i x hx
      obtain rfl := only i x hx (by simpa using carries)
      rfl
    · cases carries

theorem beginMove_up (s : State) (logical k : Nat) : (s.beginMove logical k).hp.port.up = s.hp.port.up :=
  Option.some.inj (requestSwap_port (g := Port.up) (fun _ _ => rfl) (fun _ _ => rfl) _ 0 0)

theorem beginMove_lane {α : Type} {g : Lane → α} (hg : ∀ (l : Lane) (counts : Bool), g (l.sent counts) = g l) (s : State) (logical k i : Nat) :
    ((s.beginMove logical k).lane? 0 i).map g = (s.lane? 0 i).map g := requestSwap_lane hg _ 0 0 i

theorem beginMove_integ (s : State) (logical k : Nat) : (s.beginMove logical k).integ = s.integ :=
  requestSwap_keeps (·.integ) (fun _ _ _ _ _ => rfl) (fun _ _ _ _ => modPort_integ ..) (fun _ _ _ => modPort_integ ..) _ 0

theorem beginMove_listed (s : State) (logical k : Nat) : ∃ w ∈ (s.beginMove logical k).hp.port.swaps, w.logical = logical ∧ w.slot = k := by
  have kept : (s.beginMove logical k).hp.port.moves = (insertSwap (newMove logical k) s.hp.port.swaps).map fun w => (w.logical, w.slot) :=
    Option.some.inj (requestSwap_moves _ 0 0)
  have inserted : newMove logical k ∈ insertSwap (newMove logical k) s.hp.port.swaps := (insertBy_perm _ _ _).mem_iff.2 List.mem_cons_self
  have listed : (logical, k) ∈ (s.beginMove logical k).hp.port.moves := kept ▸ List.mem_map_of_mem (f := fun w => (w.logical, w.slot)) inserted
  obtain ⟨w, hw, named⟩ := List.mem_map.1 listed
  exact ⟨w, hw, congrArg Prod.fst named, congrArg Prod.snd named⟩

/-- Whether or not there is a spare, the port is down and the slot trains afresh; with a spare the move is listed. -/
theorem moveOn_lost {s : State} {logical slot : Nat} {l : Lane} (hl : s.lane? 0 slot = some l) (hd : l.logical = some logical) :
    ((s.laneLost logical slot).moveOn logical).hp.port.up = false
      ∧ (∃ x, ((s.laneLost logical slot).moveOn logical).lane? 0 slot = some x ∧ x.logical = none ∧ x.faulty = true ∧ x.rxReady = false
          ∧ x.partnerReady = false)
      ∧ ((s.laneLost logical slot).moveOn logical).integ = (s.unitFail unitLane slot 5).integ
      ∧ ∀ k, (s.laneLost logical slot).swapTarget 0 = some k →
          ∃ w ∈ ((s.laneLost logical slot).moveOn logical).hp.port.swaps, w.logical = logical ∧ w.slot = k := by
  have down : (s.laneLost logical slot).hp.port.up = false :=
    congrArg Port.up (Option.some.inj (stopLane_port (s.unitFail unitLane slot 5) logical))
  have faulted : (s.unitFail unitLane slot 5).lane? 0 slot = some l := by simpa [State.lane?, State.portAt] using hl
  have fresh : (s.laneLost logical slot).lane? 0 slot = _ := stopLane_lane faulted hd
  have record : (s.laneLost logical slot).integ = (s.unitFail unitLane slot 5).integ := stopLane_integ _ _
  unfold State.moveOn
  split
  · rename_i noSpare
    exact ⟨down, ⟨_, fresh, rfl, rfl, rfl, rfl⟩, record, fun k hk => by simp [noSpare] at hk⟩
  · rename_i k spare
    have lane := beginMove_lane (g := fun l => (l.logical, l.faulty, l.rxReady, l.partnerReady)) (fun _ _ => rfl)
      (s.laneLost logical slot) logical k slot
    rw [fresh] at lane
    obtain ⟨x, hx, kept⟩ := Option.map_eq_some_iff.1 lane
    simp only [Prod.mk.injEq] at kept
    refine ⟨(beginMove_up ..).trans down, ⟨x, hx, kept⟩, (beginMove_integ ..).trans record, fun j hj => ?_⟩
    obtain rfl := Option.some.inj (spare.symm.trans hj)
    exact beginMove_listed ..

/-! ### A grant for the first move (R295) -/

/-- A port on which a logical lane has moved. -/
def Port.moved (w : Swap) (p : Port) : Port :=
  { p with swaps := p.swaps.filter (fun x => x.logical != w.logical)
           lanes := modAt (p.lanes.map fun l => if l.logical == some w.logical then { l with logical := none } else l) w.slot
             fun l => { l with logical := some w.logical } }

theorem moveLane_port (s : State) (n : Nat) (w : Swap) : (s.moveLane n w).portAt n = (s.portAt n).map (Port.moved w) := by
  refine (portAt_spareOwner ..).trans ?_
  rw [portAt_modPort, if_pos rfl]
  rfl

section
variable {s : State} {n slot : Nat} {p : Port} {w : Swap} (hw : s.portWide n = true) (hp : s.portAt n = some p) (hf : p.swaps.head? = some w)
include hw hp hf

theorem laneSwap_granted : exec (.laneSwap n true w.logical slot) s =
    .next ((s.moveLane n { w with received := true }).requestSwap n) := by
  have first : p.swaps.find? (fun x => x.logical == w.logical) = some w := by
    obtain ⟨rest, hr⟩ := List.head?_eq_some_iff.1 hf
    simp [hr]
  refine congrArg Host.Outcome.next ((if_pos hw).trans ?_)
  simp only [State.receiveSwap, hp, first]
  exact if_neg (not_not_intro hf)

/-- The logical lane is on the slot that its move names, and the move is over. -/
theorem laneSwap_moves (hl : (s.lane? n w.slot).isSome = true) : Gives (.laneSwap n true w.logical slot) s fun t =>
    (t.lane? n w.slot).bind (·.logical) = some w.logical ∧ ∀ q, t.portAt n = some q → ∀ x ∈ q.swaps, x.logical ≠ w.logical := by
  have moved : (s.moveLane n { w with received := true }).portAt n = some (p.moved w) := by
    rw [moveLane_port, hp]
    rfl
  have carrier : ((s.moveLane n { w with received := true }).lane? n w.slot).map (·.logical) = some (some w.logical) := by
    obtain ⟨l, hl⟩ := Option.isSome_iff_exists.1 hl
    have own : p.lanes[w.slot]? = some l := by simpa [State.lane?, hp] using hl
    rw [State.lane?, moved]
    simp [Port.moved, getElem_modAt, own]
  refine ⟨_, laneSwap_granted hw hp hf, ?_, fun q hq x hx => ?_⟩
  · rw [← requestSwap_lane (fun _ _ => rfl) _ n n w.slot] at carrier
    obtain ⟨l, hl, own⟩ := Option.map_eq_some_iff.1 carrier
    rw [hl]
    exact own
  · have kept := requestSwap_moves (s.moveLane n { w with received := true }) n n
    rw [hq, moved] at kept
    have listed : (x.logical, x.slot) ∈ (p.moved w).moves :=
      Option.some.inj kept ▸ List.mem_map_of_mem (f := fun w => (w.logical, w.slot)) hx
    obtain ⟨y, hy, named⟩ := List.mem_map.1 listed
    have other : y.logical ≠ w.logical := by simpa using (List.mem_filter.1 hy).2
    have same : y.logical = x.logical := congrArg Prod.fst named
    exact same ▸ other

end

/-! ### Laser modules (R393 to R395) -/

@[simp] theorem settleReroute_lasersPresent (s : State) : (s.settleReroute.fail).lasersPresent = (s.fail).lasersPresent :=
  settleReroute_keeps (fun s => (s.fail).lasersPresent) (fun _ _ => rfl) s

@[simp] theorem portLoss_lasersPresent (s : State) (p : Nat) : ((s.portLoss p).fail).lasersPresent = (s.fail).lasersPresent := by
  unfold State.portLoss
  split
  · rfl
  · split
    · simp [State.declare]
    · rfl

@[simp] theorem relight_lasersPresent (s : State) : (s.relight.fail).lasersPresent = (s.fail).lasersPresent :=
  relight_keeps (fun s => (s.fail).lasersPresent) (fun _ => rfl) portLoss_lasersPresent
    (fun s n => congrArg Failover.lasersPresent (portDown_fail s n)) s

/-- A module that faults is out of service, and one that is removed out of its bay. -/
theorem laserFault_lasers {m : Nat} (hm : m < 4) (s : State) (removed : Bool) :
    ((s.laserFault m removed).fail).lasersIn = setBit (s.fail).lasersIn m false
      ∧ ((s.laserFault m removed).fail).lasersPresent = if removed then setBit (s.fail).lasersPresent m false else (s.fail).lasersPresent := by
  unfold State.laserFault
  dsimp only
  rw [if_neg (Nat.not_le.2 hm)]
  split
  · simp [State.modFail, State.takeoverDone]
  · exact ⟨rfl, rfl⟩

section
variable {s : State} {m : Nat}

/-- A module put into an empty bay is in service, and its lanes are lit. -/
theorem laserInsert_lights (hm : m < 4) (he : (s.fail).lasersPresent.getLsbD m = false) : exec (.laserModuleInsert m) s = .next
    (s.modFail fun f => { f with lasersIn := setBit f.lasersIn m true, lasersPresent := setBit f.lasersPresent m true }).light :=
  congrArg Host.Outcome.next (if_neg fun h => h.elim (absurd · (Nat.not_le.2 hm)) (absurd · (Bool.eq_false_iff.1 he)))

theorem laserInsert_ignored (h : (s.fail).lasersPresent.getLsbD m = true) : Ignores (.laserModuleInsert m) s :=
  congrArg Host.Outcome.next (if_pos (.inr h))

end

/-- Settles O18: a faulty lane of the host port, a grant, ports that align, fall and return, and the laser modules. -/
theorem lanesAndLasers : Obligations.LanesAndLasers := by
  refine ⟨?fault, fun s n slot p w hw hp hf hl => laneSwap_moves hw hp hf hl,
    ⟨fun s hm hb => ⟨_, rfl, aligned_host hm hb⟩, ?come, ?go⟩, ?lasers⟩
  case fault =>
    intro s logical slot l hl hd only
    refine ⟨_, laneFault_carrier hl hd only, ?_⟩
    cases hw : s.hp.wide with
    | true =>
      obtain ⟨down, lane, record, moves⟩ := moveOn_lost hl hd
      exact ⟨down, lane, fun _ => ⟨record, moves⟩, nofun⟩
    | false =>
      have down : (s.stopLane 0 logical true).hp.port.up = false := congrArg Port.up (Option.some.inj (stopLane_port s logical))
      exact ⟨down, ⟨_, stopLane_lane hl hd, rfl, rfl, rfl, rfl⟩, nofun, fun _ => stopLane_integ s logical⟩
  case come =>
    intro s p x hp hx hm hu hf
    exact ⟨⟨_, rfl, aligned_in hx hp hm hu hf⟩, ⟨_, congrArg Host.Outcome.next (if_pos hp), aligned_in hx hp hm hu hf⟩⟩
  case go => exact fun s p x hp hx => ⟨fun hu => ⟨_, rfl, portLoss_out hx hp hu⟩, fun hu => congrArg Host.Outcome.next (portLoss_idle hx hu)⟩
  case lasers =>
    exact fun s m hm => ⟨fun removed => ⟨_, rfl, laserFault_lasers hm s removed⟩, fun he => ⟨_, laserInsert_lights hm he, rfl, rfl, rfl⟩,
      laserInsert_ignored⟩

end Sys2Proof.Machine
end

section
/-! PROOFS. The front of the queue (O1); the statuses of a command that waits, and its one outcome (O7); where its completion
goes (O8). -/

namespace Sys2Proof.Machine

open Sys2Proof

/-! ### A step (R438) -/

theorem step_front {c : Instr} {rest : List Instr} {s : State} (h : s.pending = c :: rest) : step s = exec c { s with pending := rest } := by
  simp only [step, h]

theorem step_idle {s : State} (h : s.pending = []) : step s = .next s.tick := by
  simp only [step, h]

/-- A cycle counts on the P-clock, and in the time of the step. -/
theorem tick_frame (s : State) : s.tick =
    { s with pclk := s.pclk + 1, power := { s.power with stepMs := s.tick.power.stepMs } } := by
  unfold State.tick
  dsimp only
  split <;> rfl

/-- Settles O1: the two arms of `step`. -/
theorem stepRunsFront : Obligations.StepRunsFront := by
  refine ⟨fun c rest s h => step_front h, fun s h => ⟨s.tick, step_idle h, ?_, ?_⟩⟩
  · rw [tick_frame]
  · rw [tick_frame]

/-! ### The first status that applies (R320) -/

theorem foldl_status_mem : ∀ (l : List Status) (a : Status),
    l.foldl (fun a b => if b.rank < a.rank then b else a) a ∈ a :: l
  | [], a => List.mem_singleton.2 rfl
  | b :: l, a => by
    have h := foldl_status_mem l (if b.rank < a.rank then b else a)
    rw [List.foldl_cons]
    obtain h | h := List.mem_cons.1 h
    · rw [h]
      split <;> simp
    · exact List.mem_cons_of_mem _ (List.mem_cons_of_mem _ h)

/-- The first status is one of those that apply, or OK. -/
theorem firstStatus_mem (l : List Status) : firstStatus l ∈ .ok :: l := foldl_status_mem l .ok

/-- A command to which a status has applied ends with the first of them all (R320). -/
theorem run_settle_fails {s : State} {sid op : Nat} {u : Sub} (h : Waits s sid op u) {errs : Sub → State → List Status}
    (he : u.preset ++ errs u s ≠ []) (effect : Sub → State → State) :
    s.run sid op (fun u s => s.settle u (errs u s) (effect u)) = s.failWith sid (firstStatus (u.preset ++ errs u s)) := by
  rw [run_waits _ h, settle_fails _ he, waits_sid h]

/-- Settles O7: the lemmas of `finish` and `run`, and the end of a command that a status has met, for each of the four. -/
theorem outcomesAndStatuses : Obligations.OutcomesAndStatuses := by
  refine ⟨fun s sid u r hs => ⟨fun hd => endsWith_finish r hs hd, fun hd => sub_finish_done hs hd sid r,
      fun k hk => sub_finish_other s sid k r hk, rfl⟩, fun s sid op body hn => ?_, ?_, ?_, ?_, ?_, fun l st hm => ?_⟩
  · refine run_none body fun u hu => ?_
    obtain ⟨hs, hop, hd, hr, -⟩ := hu
    obtain h | h | h := hn u hs
    · exact h hop
    · exact h hd
    · simp [hr] at h
  · intro s sid u h hp
    have he : u.preset ++ [] ≠ [] := by simpa using hp
    exact congrArg Host.Outcome.next ((run_settle_fails h he _).trans (by rw [List.append_nil]))
  · intro s sid u h hp
    have he : u.preset ++ [] ≠ [] := by simpa using hp
    exact congrArg Host.Outcome.next ((run_settle_fails h he _).trans (by rw [List.append_nil]))
  · intro s sid u h he
    exact congrArg Host.Outcome.next (run_settle_fails (errs := fun u s => s.attachErrs u.entry) h he _)
  · intro s sid u h hp hu
    have none : when s.boot.update.isSome .noResource = [] := by simp [hu, when]
    have he : u.preset ++ when s.boot.update.isSome .noResource ≠ [] := by simpa [none] using hp
    refine congrArg Host.Outcome.next ((run_settle_fails (errs := fun _ s => when s.boot.update.isSome .noResource) h he _).trans ?_)
    rw [none, List.append_nil]
  · exact ⟨rank_foldl_le_mem l _ st hm, firstStatus_mem l⟩

/-! ### COMPLETION_WRITE (R278, R280, R325, R387) -/

/-- What a DESTROY_QUEUE that ends does to a submission that has its outcome: nothing. -/
theorem sub_settleDestroy_done {s : State} {k : Nat} {u : Sub} (h : s.sub? k = some u) (hd : u.due ≠ none) (i : Nat) :
    (s.settleDestroy i).sub? k = some u := by
  have lost : ∀ (c : Prop) [Decidable c] (q : Queue), (if c then s else s.setQueue q).sub? k = some u := by
    intro c _ q
    split <;> exact h
  unfold State.settleDestroy
  dsimp only
  split
  · exact h
  · split
    · exact h
    · split
      · exact sub_finish_done (lost _ _) hd _ _
      · exact h

@[simp] theorem sub_enterQuarantine (s : State) (v : Sub) (k : Nat) : (s.enterQuarantine v).sub? k = s.sub? k := by
  unfold State.enterQuarantine
  dsimp only
  split
  · split <;> rfl
  · rfl

@[simp] theorem sub_pushCompletion (s : State) (i : Nat) (r : Result) (tag : W32) (k : Nat) :
    (s.pushCompletion i r tag).sub? k = s.sub? k := by
  unfold State.pushCompletion
  dsimp only
  split
  · rfl
  · exact sub_emit _ _ _

/-- The job and the descriptor of a submission whose completion is written are free again (R273, R387). -/
def State.freeJob (s : State) (u : Sub) : State :=
  let s := if u.jobless then s else s.modClient u.client Client.finishJob
  match u.desc with
  | some d => s.moveDesc d none
  | none => s

theorem freeJob_frame (s : State) (u : Sub) : s.freeJob u =
    { s with sasel := { s.sasel with clients := (s.freeJob u).sasel.clients, descs := (s.freeJob u).sasel.descs } } := by
  unfold State.freeJob
  dsimp only
  split <;> split <;> rfl

/-- The submission is marked, its job ends and its descriptor is free, before the completion is written. -/
def State.passGate (s : State) (sid : Nat) (u : Sub) : State := (s.modSub sid fun u => { u with finished := true }).freeJob u

section
variable {s : State} {sid : Nat} {u : Sub} (hs : s.sub? sid = some u)
include hs

theorem writeCompletion_again (hf : u.finished = true) :
    s.writeCompletion sid = { s with integ := { s.integ with dropped := satInc s.integ.dropped } } := by
  simp only [State.writeCompletion, hs, hf, if_true]

theorem writeCompletion_early (hf : u.finished = false) (hd : u.due = none) : s.writeCompletion sid = s := by
  simp only [State.writeCompletion, hs, hf, hd, Bool.false_eq_true, if_false]

theorem sub_passGate : (s.passGate sid u).sub? sid = some { u with finished := true } := by
  have h : (s.passGate sid u).sub? sid = (s.modSub sid fun u => { u with finished := true }).sub? sid := by
    rw [State.passGate, freeJob_frame]
    rfl
  exact h.trans ((sub_modSub s (fun u => { u with finished := true }) (fun _ => rfl) sid).trans (congrArg (Option.map _) hs))

variable {r : Result} (hf : u.finished = false) (hd : u.due = some r)
include hf hd

/-- A completion of a queue pair. -/
theorem writeCompletion_queue {i : Nat} (ho : u.origin = .queue i) : s.writeCompletion sid =
    (((s.passGate sid u).pushCompletion i (s.lateResult u r) u.entry.cmdTag).enterQuarantine u).settleDestroy i := by
  simp only [State.writeCompletion, hs, hf, hd, ho, Bool.false_eq_true, if_false]
  rfl

/-- A completion of a mailbox slot. -/
theorem writeCompletion_mailbox {m : Nat} {seq : W32} (ho : u.origin = .mailbox m seq) : s.writeCompletion sid =
    ((s.passGate sid u).modSlot m fun x =>
      { x with completion := mkCompletion (s.lateResult u r) seq u.entry.cmdTag, state := .done }).enterQuarantine u := by
  simp only [State.writeCompletion, hs, hf, hd, ho, Bool.false_eq_true, if_false]
  rfl

theorem sub_writeCompletion : (s.writeCompletion sid).sub? sid = some { u with finished := true } := by
  obtain ⟨o, ho⟩ : ∃ o, u.origin = o := ⟨_, rfl⟩
  cases o with
  | queue i =>
    rw [writeCompletion_queue hs hf hd ho]
    refine sub_settleDestroy_done ?_ (by simp [hd]) i
    rw [sub_enterQuarantine, sub_pushCompletion, sub_passGate hs]
  | mailbox m seq =>
    rw [writeCompletion_mailbox hs hf hd ho, sub_enterQuarantine]
    exact (sub_passGate hs : (s.passGate sid u).sub? sid = _)

/-- The slot of a mailbox command holds its completion, in DONE (R325). -/
theorem slot_writeCompletion {m : Nat} {seq : W32} (ho : u.origin = .mailbox m seq) {x : Mailbox} (hx : s.sasel.slots[m]? = some x) :
    (s.writeCompletion sid).sasel.slots[m]? =
      some { x with completion := mkCompletion (s.lateResult u r) seq u.entry.cmdTag, state := .done } := by
  have quiet : ∀ t : State, (t.enterQuarantine u).sasel = t.sasel := by
    intro t
    unfold State.enterQuarantine
    dsimp only
    split
    · split <;> rfl
    · rfl
  have slots : (s.passGate sid u).sasel.slots = s.sasel.slots := by
    rw [State.passGate, freeJob_frame]
    rfl
  rw [writeCompletion_mailbox hs hf hd ho, quiet, State.modSlot]
  simp [getElem_modAt, slots, hx]

end

/-- Settles O8: the gate's three outcomes, the two of a ring, and the slot. -/
theorem completions : Obligations.Completions := by
  refine ⟨fun s sid u hs => ⟨fun hf => ?_, fun hf hd => ?_, fun hf r hd => ⟨?_, sub_writeCompletion hs hf hd⟩⟩,
    fun s i r tag => ⟨fun ho => ?_, fun ho => ?_⟩, fun s sid u r m seq x hs hf hd ho hx => slot_writeCompletion hs hf hd ho hx⟩
  · refine congrArg Host.Outcome.next ?_
    simp [hs, hf, writeCompletion_again hs hf]
  · refine congrArg Host.Outcome.next ?_
    simp [hs, hf, hd, writeCompletion_early hs hf hd]
  · refine congrArg Host.Outcome.next ?_
    simp [hs, hf, hd]
  · simp [State.pushCompletion, State.mustHold, ho, Queue.cqSlot]
  · simp [State.pushCompletion, State.mustHold, ho]

end Sys2Proof.Machine
end

section
/-! PROOFS. The error log (O40, the count of errors for O41), the Rake and the self-tests (O39), retired memory (O42). -/

namespace Sys2Proof.Machine

open Sys2Proof

/-! ### The log engine (R374, R375, R378) -/

/-- The records of the log, with the one that a new record escalates marked. -/
def State.markedLog (s : State) (e : ErrEvent) : List ErrRec :=
  match escalates s.integ.log e with
  | some k => updWhere (fun r => r.seq == k) (fun r => { r with escalated := true }) s.integ.log
  | none => s.integ.log

/-- An error takes an event number, and a DEVICE_FATAL is remembered. -/
def State.errorSeen (s : State) (e : ErrEvent) : State :=
  { s with integ := { s.integ with fatal := s.integ.fatal || decide (e.cls = ErrClass.deviceFatal) }
           sasel := { s.sasel with eventSeq := s.sasel.eventSeq + 1 } }

/-- An error that a record takes counts there. -/
theorem logError_counts {s : State} {e : ErrEvent} (h : ∃ r ∈ s.integ.log, r.takes e = true) : s.logError e =
    (s.errorSeen e).modInteg fun g =>
      { g with log := updWhere (fun r => r.takes e) (fun r => { r with count := r.count + 1, lastAddr := e.last, lastEvent := s.sasel.eventSeq + 1 })
                 s.integ.log } :=
  if_pos (List.any_eq_true.2 h)

section
variable {s : State} {e : ErrEvent} (h : ∀ r ∈ s.integ.log, r.takes e = false)
include h

theorem not_any_takes : ¬ (s.integ.log.any fun r => r.takes e) = true := by
  simpa [List.any_eq_true] using h

/-- One that no record takes opens a record where there is room. -/
theorem logError_opens (hr : logRoom e.cls s.integ.log.length = true) : s.logError e =
    (s.errorSeen e).modInteg fun g =>
      { g with log := s.markedLog e ++ [newRecord s.integ.log s.integ.nextSeq (s.sasel.eventSeq + 1) e], nextSeq := g.nextSeq + 1
               history := addHistory g.history (newRecord s.integ.log s.integ.nextSeq (s.sasel.eventSeq + 1) e) } :=
  (if_neg (not_any_takes h)).trans (if_pos hr)

/-- Without room it counts as unlogged. -/
theorem logError_unlogged (hr : logRoom e.cls s.integ.log.length = false) : s.logError e =
    (s.errorSeen e).modInteg fun g => { g with unlogged := modAt g.unlogged e.cls.code satInc, unloggedSince := true } :=
  (if_neg (not_any_takes h)).trans (if_neg (Bool.eq_false_iff.1 hr))

/-- An error of class UNIT_FAIL that opens its record is in handling. -/
theorem failInHandling_opens (hc : e.cls = .unitFail) (hr : logRoom e.cls s.integ.log.length = true) :
    (s.logError e).failInHandling = true := by
  rw [logError_opens h hr, State.failInHandling, List.any_eq_true]
  exact ⟨_, List.mem_append_right _ (List.mem_singleton.2 rfl), by simp [newRecord, hc]⟩

end

/-- A CE is of the lowest class, and escalates nothing. -/
theorem markedLog_ce (s : State) {e : ErrEvent} (h : e.cls = .ce) : s.markedLog e = s.integ.log := by
  have none : escalates s.integ.log e = none := by simp [escalates, h, ErrClass.code]
  rw [State.markedLog, none]

theorem addHistory_ce (l : List ErrRec) {r : ErrRec} (h : r.cls = .ce) : addHistory l r = l := by
  simp [addHistory, h]

theorem errorSeen_ce (s : State) {e : ErrEvent} (h : e.cls = .ce) :
    s.errorSeen e = { s with sasel := { s.sasel with eventSeq := s.sasel.eventSeq + 1 } } := by
  simp [State.errorSeen, h]

/-- A DEVICE_FATAL asserts ALERT_L, and the sled accepts nothing more (R28, R376). -/
theorem fatal_shows {s : State} (h : s.integ.fatal = true) : s.alertL = true ∧ s.accepts = false := by
  simp [State.alertL, State.accepts, h]

theorem deviceFatal_fatal (s : State) (t i : Nat) (a : W64) (c : Nat) : (s.deviceFatal t i a c).integ.fatal = true := by
  rw [State.deviceFatal, logError_fatal]
  simp

/-! ### READ_ERRORS (R371, R373, R378) -/

theorem errRec_bytes_length (r : ErrRec) : r.bytes.length = 64 := by
  simp [ErrRec.bytes]

theorem flatMap_bytes_length (l : List ErrRec) : (l.flatMap ErrRec.bytes).length = 64 * l.length := by
  induction l with
  | nil => rfl
  | cons r l ih => rw [List.flatMap_cons, List.length_append, ih, errRec_bytes_length, List.length_cons]; omega

theorem reportFits_of_reaches {u : Sub} {n : Nat} {ok : Bool} (h : Reaches u n ok) : u.reportFits n = true := by
  obtain ⟨hi, hl, hr⟩ | ⟨hi, -⟩ := h
  · simp [Sub.reportFits, hl, hr]
  · simp [Sub.reportFits, hi]

/-- ARG0[63] names the history. -/
theorem getLsbD_63 (v : W64) : v.getLsbD 63 = decide (2 ^ 63 ≤ v.toNat) := by
  have := v.isLt
  rw [BitVec.getLsbD, Nat.testBit_eq_decide_div_mod_eq]
  congr 1
  apply propext
  omega

theorem report_records {s : State} {u : Sub} {ok : Bool} {l : List ErrRec} (hr : Reaches u (64 * l.length) ok) (r : State → State) :
    s.report u ok (l.flatMap ErrRec.bytes) r = r (s.writeB u (l.flatMap ErrRec.bytes)) :=
  report_reaches r (by rw [flatMap_bytes_length]; exact hr)

section
variable {s : State} {sid : Nat} {u : Sub} (h : Begins s sid 0x71 u) {ok : Bool}
include h

theorem readErrors_reads (hf : u.entry.arg0.toNat < 2 ^ 63) (hn : u.entry.arg0.toNat ≤ s.integ.nextSeq)
    (hr : Reaches u (64 * ((s.integ.log.filter fun r => decide (u.entry.arg0.toNat ≤ r.seq)).take (u.entry.length.toNat / 64)).length) ok) :
    let recs := (s.integ.log.filter fun r => decide (u.entry.arg0.toNat ≤ r.seq)).take (u.entry.length.toNat / 64)
    exec (.readErrors sid ok) s = .next (((s.writeB u (recs.flatMap ErrRec.bytes)).releaseRecords u.entry.arg0.toNat).finish sid
      (okResult u (BitVec.ofNat 64 recs.length) 0)) := by
  intro recs
  have none : (when (decide (s.integ.nextSeq < u.entry.arg0.toNat) || !u.reportFits (64 * recs.length)) .badField) = [] := by
    rw [reportFits_of_reaches hr]
    simp [when, hn]
  refine congrArg Host.Outcome.next ((run_waits _ h.1).trans ?_)
  rw [if_neg (by rw [getLsbD_63]; simpa using hf)]
  exact (settle_begins h none _).trans ((report_records hr _).trans (complete_begins h _ _ _))

theorem readErrors_ahead (hf : u.entry.arg0.toNat < 2 ^ 63) (hn : s.integ.nextSeq < u.entry.arg0.toNat) :
    exec (.readErrors sid ok) s = .next (s.finish sid { status := .badField }) := by
  refine congrArg Host.Outcome.next ((run_waits _ h.1).trans ?_)
  rw [if_neg (by rw [getLsbD_63]; simpa using hf)]
  exact settle_refuses_badField h (by decide) (by simp [when, hn]) _

theorem readErrorsHistory_reads (hf : 2 ^ 63 ≤ u.entry.arg0.toNat) (hs : s.isReady bitSysregion = true)
    (hr : Reaches u (64 * ((s.integ.history.drop (u.entry.arg0.toNat - 2 ^ 63)).take (u.entry.length.toNat / 64)).length) ok) :
    let recs := (s.integ.history.drop (u.entry.arg0.toNat - 2 ^ 63)).take (u.entry.length.toNat / 64)
    exec (.readErrorsHistory sid ok) s = .next ((s.writeB u (recs.flatMap ErrRec.bytes)).finish sid
      (okResult u (BitVec.ofNat 64 recs.length) 0)) := by
  intro recs
  have first : u.entry.arg0.toNat % 2 ^ 63 = u.entry.arg0.toNat - 2 ^ 63 := by
    have := u.entry.arg0.isLt
    omega
  have none : (when (!s.isReady bitSysregion) .notReady ++ when (!u.reportFits (64 * recs.length)) .badField) = [] := by
    rw [reportFits_of_reaches hr, hs]
    rfl
  refine congrArg Host.Outcome.next ((run_waits _ h.1).trans ?_)
  rw [if_pos (by rw [getLsbD_63]; simpa using hf), first]
  exact (settle_begins h none _).trans ((report_records hr _).trans (complete_begins h _ _ _))

end

/-! ### Errors of the units (R374, R379) -/

section
variable (s : State) {e : ErrEvent}

theorem errorLogEvent_ce (h : e.cls = .ce) : exec (.errorLogEvent e) s = .next (s.logError e) := by
  refine congrArg Host.Outcome.next ?_
  rw [h]

/-- A UNIT_FAIL of a lane concerns no unit with a takeover. -/
theorem errorLogEvent_lane (h : e.cls = .unitFail) (hu : e.unitType = unitLane) : exec (.errorLogEvent e) s = .next (s.logError e) := by
  refine congrArg Host.Outcome.next ?_
  rw [h, hu]
  rfl

theorem errorLogEvent_fatal (h : e.cls = .deviceFatal) (hu : fatalUnit e.unitType = true) :
    exec (.errorLogEvent e) s = .next (s.logError e) := by
  refine congrArg Host.Outcome.next ?_
  rw [h]
  exact if_pos hu

end

/-- Settles O40: the three outcomes of the log engine, ALERT_L, and the two forms of READ_ERRORS. -/
theorem errorLog : Obligations.ErrorLog := by
  refine ⟨fun s e hc => ⟨fun ht => ⟨_, errorLogEvent_ce s hc, ?_⟩, fun hn hl => ⟨_, errorLogEvent_ce s hc, ?_⟩,
      fun hn hl => ⟨_, errorLogEvent_ce s hc, ?_⟩⟩,
    fun s e hc hu hn hl => ⟨_, errorLogEvent_lane s hc hu, ?_⟩, fun s e hc hu => ⟨_, errorLogEvent_fatal s hc hu, ?_⟩,
    fun s sid u ok h => ⟨fun hf hn hr => ⟨readErrors_reads h hf hn hr, rfl⟩, fun hf hn => readErrors_ahead h hf hn⟩,
    fun s sid u ok h hf hs hr => readErrorsHistory_reads h hf hs hr⟩
  · rw [logError_counts ht, errorSeen_ce s hc]
    exact ⟨rfl, rfl⟩
  · have room : logRoom e.cls s.integ.log.length = true := by simp [logRoom, hc, hl]
    have ce : (newRecord s.integ.log s.integ.nextSeq (s.sasel.eventSeq + 1) e).cls = .ce := hc
    rw [logError_opens hn room, errorSeen_ce s hc, markedLog_ce s hc]
    exact ⟨rfl, by simp only [State.modInteg, addHistory_ce _ ce]⟩
  · have full : logRoom e.cls s.integ.log.length = false := by simp [logRoom, hc, hl]
    rw [logError_unlogged hn full, errorSeen_ce s hc, hc]
    exact ⟨rfl, by simp [State.alertL, State.modInteg], rfl⟩
  · have room : logRoom e.cls s.integ.log.length = true := by simp [logRoom, hc, hl]
    exact ⟨by simp [State.alertL, failInHandling_opens hn hc room], by rw [logError_opens hn room]; rfl⟩
  · exact fatal_shows (by rw [logError_fatal, hc]; simp)

/-! ### The Rake and the self-tests (R366, R368 to R370) -/

/-- Nothing retired, the HBM walk reads its next word. -/
theorem hbmWord_unretired {s : State} (hg : s.integ.granules = []) (hb : s.integ.banks = []) (hn : s.integ.hbmNext < hbmBytes / 8) :
    s.hbmWord = s.integ.hbmNext := by
  have kept : ∀ g, s.granuleRetired g = false := by
    intro g
    simp [State.granuleRetired, hg, hb]
  simp [State.hbmWord, skipRetired, kept, Nat.mod_eq_of_lt hn]

/-- The state after the Rake has read a word without error. -/
theorem rakeRead_clean {s : State} (hg : s.integ.granules = []) (hb : s.integ.banks = []) (hn : s.integ.hbmNext < hbmBytes / 8)
    (hf : s.flipsOf 0 s.integ.hbmNext = []) : exec (.rakeRead false [] none) s =
      .next ((s.modInteg fun g => { g with hbmNext := (s.integ.hbmNext + 1) % (hbmBytes / 8) }).setFlips 0 s.integ.hbmNext []) := by
  refine congrArg Host.Outcome.next ?_
  rw [if_neg Bool.false_ne_true, hbmWord_unretired hg hb hn]
  have clean : flipMore ((s.modInteg fun g => { g with hbmNext := (s.integ.hbmNext + 1) % (hbmBytes / 8) }).flipsOf 0 s.integ.hbmNext) [] = [] := hf
  dsimp only
  rw [clean, State.readWord, lookWord_clean]
  rw [Nat.mul_div_cancel_left _ (by decide)]
  exact flipsOf_setFlips _ 0 _ _

theorem lapOk_iff (v lo hi : Nat) : lapOk v lo hi = true ↔ v = 0 ∨ lo ≤ v ∧ v ≤ hi := by
  simp [lapOk]

section
variable {s : State} {sid : Nat} {u : Sub} (h : Begins s sid 0xEA u)
include h

theorem setRake_sets (hh : lapOk u.entry.arg0.toNat 3600 2592000 = true) (hr : lapOk u.entry.arg1.toNat 60 86400 = true) :
    exec (.setRake sid) s = .next ((s.modInteg fun g =>
      { g with hbmLap := if u.entry.arg0.toNat = 0 then g.hbmLap else u.entry.arg0.toNat
               sramLap := if u.entry.arg1.toNat = 0 then g.sramLap else u.entry.arg1.toNat }).finish sid (okResult u 0 0)) := by
  refine congrArg Host.Outcome.next ((run_waits _ h.1).trans ?_)
  exact (settle_begins h (by rw [hh, hr]; rfl) _).trans (completeOk_begins h _)

theorem setRake_refuses (hn : lapOk u.entry.arg0.toNat 3600 2592000 = false ∨ lapOk u.entry.arg1.toNat 60 86400 = false) :
    exec (.setRake sid) s = .next (s.finish sid { status := .badField }) := by
  refine congrArg Host.Outcome.next ((run_waits _ h.1).trans ?_)
  refine settle_refuses_badField h (by decide) ?_ _
  obtain hn | hn := hn <;> simp [hn, when]

end

/-- A self-test of a part of the control cluster that fails. -/
theorem selfTest_cc {s : State} {i : Nat} (hi : i < 64) : exec (.checkerSelfTest unitCc i false) s =
    .next ((s.modInteg fun g => { g with selfTest := satInc g.selfTest }).deviceFatal unitCc i 0 2) := by
  have tested : ¬ (false = true ∨ s.checkerRetired unitCc i = true) := by
    simp [State.checkerRetired, unitCc, unitTile, unitColumn, unitHbm, unitHub, unitCore, hi]
  exact congrArg Host.Outcome.next (if_neg tested)

/-- Settles O39: each clause is the case of its command. -/
theorem rakeAndSelfTests : Obligations.RakeAndSelfTests := by
  refine ⟨fun s n => ⟨rfl, rfl⟩, fun s sid u h => ⟨fun hh hr => setRake_sets h ((lapOk_iff ..).2 hh) ((lapOk_iff ..).2 hr), fun hn => ?_⟩,
    fun s hg hb hn hf => ⟨_, rakeRead_clean hg hb hn hf, rfl, fun m w => ?_, rfl⟩, fun s ty i => ?_,
    fun s i hi => ⟨_, selfTest_cc hi, ?_, deviceFatal_fatal .., (fatal_shows (deviceFatal_fatal ..)).2⟩⟩
  · refine setRake_refuses h ?_
    obtain hn | hn := hn
    · exact .inl (Bool.eq_false_iff.2 fun e => hn ((lapOk_iff ..).1 e))
    · exact .inr (Bool.eq_false_iff.2 fun e => hn ((lapOk_iff ..).1 e))
  · by_cases e : m = 0 ∧ w = s.integ.hbmNext
    · rw [e.1, e.2, hf]
      exact flipsOf_setFlips _ 0 _ _
    · exact flipsOf_setFlips_other _ _ (by omega)
  · exact congrArg Host.Outcome.next (if_pos (.inl rfl))
  · rw [State.deviceFatal, logError_integ_frame]
    rfl

/-! ### RETIRE_MEMORY (R381) -/

section
variable {s : State} {sid : Nat} {u : Sub} (h : Begins s sid 0xE9 u)
include h

/-- A piece that is retired already, or one for which there is room: what a RETIRE_MEMORY of a piece that exists does. -/
theorem retire_settles {again : Bool} {full : Prop} [Decidable full] {errs : List Status} {f : Integrity → Integrity}
    (he : errs = when (!again && decide full) .noResource) :
    let done := s.settle u errs fun s => (if again then s else s.modInteg f).completeOk u
    (again = true → done = s.finish sid (okResult u 0 0))
    ∧ (again = false → ¬ full → done = (s.modInteg f).finish sid (okResult u 0 0))
    ∧ (again = false → full → done = s.finish sid { status := .noResource }) := by
  subst he
  refine ⟨fun ha => ?_, fun ha hf => ?_, fun ha hf => ?_⟩
  · rw [settle_begins h (by simp [ha, when]), if_pos ha, completeOk_begins h]
  · rw [settle_begins h (by simp [hf, when]), if_neg (by simp [ha]), completeOk_begins h]
  · have one : when (!again && decide full) .noResource = [.noResource] := by simp [ha, hf, when]
    rw [one]
    exact settle_refuses_one h (by decide) _ _

theorem retireGranule_runs (hk : u.entry.arg0.toNat = 0) : exec (.retireGranule sid) s = .next (s.settle u
    (when (decide (retireKind u ≠ 0) || decide (u.entry.arg1.toNat < systemBytes) || decide (hbmBytes ≤ u.entry.arg1.toNat)) .badField
      ++ when (!s.granuleRetired (u.entry.arg1.toNat / granuleBytes) && decide (65536 ≤ s.integ.granules.length)) .noResource)
    fun t => (if s.granuleRetired (u.entry.arg1.toNat / granuleBytes) = true then t
      else t.modInteg fun x => { x with granules := x.granules ++ [u.entry.arg1.toNat / granuleBytes] }).completeOk u) := by
  have hr : retireKind u = 0 := hk
  exact congrArg Host.Outcome.next ((run_waits _ h.1).trans (if_neg (by simp [hr])))

theorem retireBank_runs (hk : u.entry.arg0.toNat = 1) {x b : Nat} (ha : u.entry.arg1.toNat = 256 * x + b) (hx : x < 24) (hb : b < 64) :
    exec (.retireBank sid) s = .next (s.settle u
      (when (!s.integ.banks.contains (x, b) && decide (8 ≤ s.integ.banks.length)) .noResource)
      fun t => (if s.integ.banks.contains (x, b) = true then t
        else t.modInteg fun g => { g with banks := g.banks ++ [(x, b)] }).completeOk u) := by
  have hr : retireKind u = 1 := hk
  have stack : u.entry.arg1.toNat / 256 % 32 = x := by omega
  have bank : u.entry.arg1.toNat % 64 = b := by omega
  have named : when (decide (u.entry.arg1.toNat ≠ x * 256 + b) || decide (24 ≤ x)) .badField = [] := by
    rw [ha, Nat.mul_comm]
    simp [when, hx]
  refine congrArg Host.Outcome.next ((run_waits _ h.1).trans ((if_pos hr).trans ?_))
  dsimp only
  rw [stack, bank, named]
  rfl

theorem retireSramPage_runs (hk : u.entry.arg0.toNat = 2) (ha : u.entry.arg1.toNat < 384) :
    exec (.retireSramPage sid) s = .next (s.settle u
      (when (!s.integ.pages.contains u.entry.arg1.toNat && decide (32 ≤ s.integ.pages.length)) .noResource)
      fun t => (if s.integ.pages.contains u.entry.arg1.toNat = true then t
        else t.modInteg fun g => { g with pages := g.pages ++ [u.entry.arg1.toNat] }).completeOk u) := by
  have hr : retireKind u = 2 := hk
  have named : when (decide (384 ≤ u.entry.arg1.toNat)) .badField = [] := by simp [when, ha]
  refine congrArg Host.Outcome.next ((run_waits _ h.1).trans ((if_pos hr).trans ?_))
  dsimp only
  rw [named]
  rfl

end

/-- A granule of the pools is named in order. -/
theorem granuleNamed {u : Sub} (hk : u.entry.arg0.toNat = 0) (hl : systemBytes ≤ u.entry.arg1.toNat) (hh : u.entry.arg1.toNat < hbmBytes) :
    when (decide (retireKind u ≠ 0) || decide (u.entry.arg1.toNat < systemBytes) || decide (hbmBytes ≤ u.entry.arg1.toNat)) .badField = [] := by
  have hr : retireKind u = 0 := hk
  simp [when, hr, Nat.not_lt.2 hl, Nat.not_le.2 hh]

/-- Settles O42: the three kinds share `retire_settles`. -/
theorem retireMemory : Obligations.RetireMemory := by
  intro s sid u h k a g
  refine ⟨fun hk hl hh hg => ?_, fun hk hl hh hg => ?_, fun hk hl => ?_, fun x b hk ha hx hb => ?_, fun hk ha => ?_⟩
  · rw [retireGranule_runs h hk, granuleNamed hk hl hh, List.nil_append]
    obtain ⟨-, new, full⟩ := retire_settles h (again := s.granuleRetired g) (full := 65536 ≤ s.integ.granules.length)
      (f := fun x => { x with granules := x.granules ++ [g] }) rfl
    exact ⟨fun hn => congrArg Host.Outcome.next (new hg (by omega)), fun hn => congrArg Host.Outcome.next (full hg hn)⟩
  · rw [retireGranule_runs h hk, granuleNamed hk hl hh, List.nil_append]
    exact congrArg Host.Outcome.next ((retire_settles h rfl).1 hg)
  · rw [retireGranule_runs h hk]
    refine congrArg Host.Outcome.next (settle_refuses_badField h (by decide) (List.mem_append_left _ ?_) _)
    have below : u.entry.arg1.toNat < systemBytes := hl
    simp [when, below]
  · rw [retireBank_runs h hk ha hx hb]
    obtain ⟨old, new, full⟩ := retire_settles h (again := s.integ.banks.contains (x, b)) (full := 8 ≤ s.integ.banks.length)
      (f := fun g => { g with banks := g.banks ++ [(x, b)] }) rfl
    exact ⟨fun hc => congrArg Host.Outcome.next (old hc), fun hc hn => congrArg Host.Outcome.next (new hc (by omega)),
      fun hc hn => congrArg Host.Outcome.next (full hc hn)⟩
  · rw [retireSramPage_runs h hk ha]
    obtain ⟨old, new, full⟩ := retire_settles h (again := s.integ.pages.contains a) (full := 32 ≤ s.integ.pages.length)
      (f := fun g => { g with pages := g.pages ++ [a] }) rfl
    exact ⟨fun hc => congrArg Host.Outcome.next (old hc), fun hc hn => congrArg Host.Outcome.next (new hc (by omega)),
      fun hc hn => congrArg Host.Outcome.next (full hc hn)⟩

end Sys2Proof.Machine
end

section
/-! PROOFS. What a write of config flash changes: its words and its flag cells (R415 to R419). -/

namespace Sys2Proof.Machine

open Sys2Proof

/-- The second state differs from the first in config flash alone. -/
def OnConfig (s t : State) : Prop := ∃ words flags, t = { s with boot := { s.boot with cfgWords := words, cfgFlags := flags } }

namespace OnConfig

variable {s t r : State}

theorem refl (s : State) : OnConfig s s := ⟨s.boot.cfgWords, s.boot.cfgFlags, rfl⟩

theorem trans (h : OnConfig s t) (k : OnConfig t r) : OnConfig s r := by
  obtain ⟨w, f, rfl⟩ := h
  obtain ⟨w', f', rfl⟩ := k
  exact ⟨w', f', rfl⟩

theorem frame (h : OnConfig s t) : t = { s with boot := { s.boot with cfgWords := t.boot.cfgWords, cfgFlags := t.boot.cfgFlags } } := by
  obtain ⟨w, f, rfl⟩ := h
  rfl

/-- Several writes. -/
theorem foldl {α : Type} {g : State → α → State} (h : ∀ s x, OnConfig s (g s x)) : ∀ (l : List α) (s : State), OnConfig s (l.foldl g s)
  | [], s => refl s
  | x :: l, s => (h s x).trans (foldl h l (g s x))

/-- What config flash is no part of stays. -/
theorem keeps {β : Type} (h : OnConfig s t) (f : State → β)
    (hf : ∀ (x : State) w v, f { x with boot := { x.boot with cfgWords := w, cfgFlags := v } } = f x) : f t = f s := by
  obtain ⟨w, v, rfl⟩ := h
  exact hf s w v

end OnConfig

/-! ### Words, sectors, counters and items -/

theorem cfgProgram_onConfig (s : State) (a : Nat) (v : W32) : OnConfig s (s.cfgProgram a v) := by
  unfold State.cfgProgram
  dsimp only
  split
  · exact .refl s
  · exact ⟨_, _, rfl⟩

theorem cfgErase_onConfig (s : State) (n : Nat) : OnConfig s (s.cfgErase n) := ⟨_, _, rfl⟩

theorem cfgEraseAll_onConfig (s : State) (l : List Nat) : OnConfig s (s.cfgEraseAll l) := .foldl cfgErase_onConfig l s

theorem cfgPrograms_onConfig (l : List (Nat × W32)) (s : State) : OnConfig s (l.foldl (fun s w => s.cfgProgram w.1 w.2) s) :=
  .foldl (fun s w => cfgProgram_onConfig s w.1 w.2) l s

theorem cfgProgramList_onConfig (s : State) (ws : List (Nat × W32)) (bad : Option (Nat × W32)) : OnConfig s (s.cfgProgramList ws bad) := by
  unfold State.cfgProgramList
  split
  · exact cfgPrograms_onConfig ws s
  · exact (cfgPrograms_onConfig _ s).trans (cfgPrograms_onConfig _ _)

theorem itemWriteBad_onConfig (s : State) (item : Nat) (p : Buf) (bad : Option (Nat × W32)) : OnConfig s (s.itemWriteBad item p bad) :=
  (cfgEraseAll_onConfig s _).trans (cfgProgramList_onConfig _ _ _)

theorem ctrIncrement_onConfig (s : State) (c : Nat) : OnConfig s (s.ctrIncrement c) := by
  unfold State.ctrIncrement
  split
  · exact .refl s
  · dsimp only
    split
    · exact .refl s
    · split
      · exact cfgProgram_onConfig ..
      · exact ((((cfgProgram_onConfig ..).trans (cfgErase_onConfig ..)).trans (cfgProgram_onConfig ..)).trans (cfgProgram_onConfig ..)).trans
          (cfgErase_onConfig ..)

/-- A submission waits after a write of config flash as before it. -/
theorem Begins.onConfig {s t : State} (h : OnConfig s t) {sid op : Nat} {u : Sub} (hb : Begins s sid op u) : Begins t sid op u := by
  obtain ⟨w, f, rfl⟩ := h
  exact hb

end Sys2Proof.Machine
end

section
/-! PROOFS. Mailboxes and sessions (O13); access, keys and settings that an admin session changes (O14). -/

namespace Sys2Proof.Machine

open Sys2Proof

/-! ### CONTROL writes (R325, R326) -/

section
variable {s : State} {conn : W32} {m : Nat} {x : Mailbox} (hc : s.connOpen conn = true) (ha : s.accepts = true)
  (hr : s.isReady bitMailbox = true) (hx : s.sasel.slots[m]? = some x) (w : W64)
include hc ha hr

theorem mailboxControl_acts : exec (.mailboxControl conn m w) s = .next (s.control conn m w) :=
  congrArg Host.Outcome.next (if_pos (by simp [hc, ha, hr]))

include hx

theorem control_accepted (hs : x.state = .accepted) : exec (.mailboxControl conn m w) s = .next s.collide := by
  rw [mailboxControl_acts hc ha hr]
  simp [State.control, hx, hs]

variable (hs : x.state ≠ .accepted)
include hs

theorem control_malformed (hw : w.toNat % 2 ^ 32 ≠ controlMagic ∨ (BitVec.ofNat 32 (w.toNat / 2 ^ 32) : W32) = 0) :
    exec (.mailboxControl conn m w) s = .next (s.modSlot m fun x => { x with state := .rejected, reason := 2, control := w }) := by
  rw [mailboxControl_acts hc ha hr]
  simp only [State.control, hx]
  rw [if_neg hs, if_pos hw]

variable (hw : ¬ (w.toNat % 2 ^ 32 ≠ controlMagic ∨ (BitVec.ofNat 32 (w.toNat / 2 ^ 32) : W32) = 0))
include hw

theorem control_repeated (he : (BitVec.ofNat 32 (w.toNat / 2 ^ 32) : W32) = x.seq) :
    exec (.mailboxControl conn m w) s = .next s.collide := by
  rw [mailboxControl_acts hc ha hr]
  simp only [State.control, hx]
  rw [if_neg hs, if_neg hw, if_pos he]

theorem control_fresh (he : (BitVec.ofNat 32 (w.toNat / 2 ^ 32) : W32) ≠ x.seq) :
    exec (.mailboxControl conn m w) s = .next (
      if s.mailboxAllows (Entry.parse x.entry).opcode.toNat then
        (((s.modSlot m fun x => { x with state := .accepted, reason := 0, seq := BitVec.ofNat 32 (w.toNat / 2 ^ 32), control := w }).accept
          (.mailbox m (BitVec.ofNat 32 (w.toNat / 2 ^ 32))) conn 0 (Entry.parse x.entry) x.data)).2
      else s.modSlot m fun x => { x with state := .rejected, reason := 1, seq := BitVec.ofNat 32 (w.toNat / 2 ^ 32), control := w }) := by
  rw [mailboxControl_acts hc ha hr]
  simp only [State.control, hx]
  rw [if_neg hs, if_neg hw, if_neg he]

end

/-! ### Sessions (R328, R329) -/

@[simp] theorem writeB_pclk (s : State) (u : Sub) (b : Buf) : (s.writeB u b).pclk = s.pclk := by rw [writeB_frame]

theorem sessionBegin_writes {s : State} {sid : Nat} {u : Sub} {nonce : Buf} {ok : Bool} (h : Begins s sid 0xF0 u)
    (hl : 32 ≤ u.entry.length.toNat) (hr : Reaches u 32 ok) : exec (.sessionBegin sid nonce ok) s = .next
      (((s.writeB u (Buf.slice nonce 0 32)).modConn u.conn fun c =>
        { c with nonce := some { bytes := Buf.slice nonce 0 32, keySlot := u.entry.arg0.toNat, since := s.pclk } }).finish sid (okResult u 0 0)) := by
  have reaches : Reaches u (Buf.slice nonce 0 32).length ok := by rw [slice_length]; exact hr
  refine congrArg Host.Outcome.next ((run_waits _ h.1).trans ?_)
  refine (settle_room h hl _).trans ((report_reaches _ reaches).trans ?_)
  rw [completeOk_begins h, writeB_pclk]

/-- The connection's nonce is consumed. -/
def State.dropNonce (s : State) (h : W32) : State := s.modConn h fun c => { c with nonce := none }

/-- No nonce is left on the connection. -/
theorem dropNonce_nonce {s : State} {h : W32} {d : Conn} (hd : (s.dropNonce h).conn? h = some d) : d.nonce = none := by
  have found := find_updWhere s.hp.conns (fun c => names h kindConn c.gen c.index) (fun c => names h kindConn c.gen c.index)
    (fun c => { c with nonce := none }) (fun _ _ => rfl)
  obtain ⟨c, hf, rfl⟩ := Option.map_eq_some_iff.1 (found.symm.trans hd)
  have hit := List.find?_some hf
  rw [if_pos hit]

section
variable {s : State} {sid : Nat} {u : Sub} (h : Begins s sid 0xF1 u) {b : Option Buf} {sig : Buf} (hb : u.readB b = some sig)
  (hl : u.entry.length.toNat = 2420) (hn : s.sasel.sessions.length < 8)
include h hb hl hn

/-- Its nonce consumed, a SESSION_PROVE in form is denied, or opens a session. -/
theorem sessionProve_settles (v : Bool) : exec (.sessionProve sid b v) s =
    .next ((s.dropNonce u.conn).settle u (when (s.proveDenied u v) .denied) fun s => s.openSession u) := by
  refine congrArg Host.Outcome.next ((run_waits _ h.1).trans ((withB_some _ (begins_preset h) hb).trans ?_))
  have form : when (decide (u.entry.length.toNat ≠ 2420)) .badField = [] := by simp [hl, when]
  have room : when (decide (8 ≤ s.sasel.sessions.length)) .noResource = [] := by simp [when, Nat.not_le.2 hn]
  show (s.dropNonce u.conn).settle u (when (decide (u.entry.length.toNat ≠ 2420)) .badField ++ _
    ++ when (decide (8 ≤ s.sasel.sessions.length)) .noResource) _ = _
  rw [form, room, List.nil_append, List.append_nil]

theorem sessionProve_denied {v : Bool} (hd : s.proveDenied u v = true) :
    exec (.sessionProve sid b v) s = .next ((s.dropNonce u.conn).finish sid { status := .denied }) := by
  have waits : Begins (s.dropNonce u.conn) sid 0xF1 u := h
  rw [sessionProve_settles h hb hl hn, hd]
  exact congrArg Host.Outcome.next (settle_refuses_one waits (by decide) .denied _)

/-- The session that a SESSION_PROVE opens. -/
def State.sessionOpened (s : State) (u : Sub) (i : Nat) : State :=
  { s with sasel := { s.sasel with
      sessions := s.sasel.sessions ++ [{ index := i, gen := genFor s.sasel.sessionGens i, conn := u.conn, keySlot := u.entry.arg0.toNat }] } }

theorem sessionProve_opens {v : Bool} (hd : s.proveDenied u v = false) {i : Nat}
    (hi : lowestFree (s.sasel.sessions.map (·.index)) 4096 = some i) : exec (.sessionProve sid b v) s =
      .next (((s.dropNonce u.conn).sessionOpened u i).finish sid
        (okResult u (BitVec.ofNat 64 (mkHandle (genFor s.sasel.sessionGens i) kindSession i).toNat) 0)) := by
  have waits : Begins (s.dropNonce u.conn) sid 0xF1 u := h
  have free : lowestFree ((s.dropNonce u.conn).sasel.sessions.map (·.index)) 4096 = some i := hi
  rw [sessionProve_settles h hb hl hn, hd]
  refine congrArg Host.Outcome.next ((settle_begins waits rfl _).trans ?_)
  rw [State.openSession, free]
  exact complete_begins h _ _ _

end

/-- The nonce of the slot, in time, with a signature that verifies under a key that is there. -/
theorem proveDenied_false {s : State} {u : Sub} {c : Conn} {n : Nonce} (hc : s.conn? u.conn = some c) (hn : c.nonce = some n)
    (hk : n.keySlot = u.entry.arg0.toNat) (ht : s.elapsed n.since ≤ 4250000000) (hs : s.sasel.keys[4 + u.entry.arg0.toNat]? ≠ some []) :
    s.proveDenied u true = false := by
  have time : ¬ tenSeconds < s.elapsed n.since := Nat.not_lt.2 ht
  simp [State.proveDenied, hc, hn, hk, time, hs]

/-- A signature that does not verify is denied. -/
theorem proveDenied_unverified (s : State) (u : Sub) : s.proveDenied u false = true := by
  unfold State.proveDenied
  split <;> simp

theorem closeSession_closes {s : State} {sid : Nat} {u : Sub} {x : Session} (h : Begins s sid 0xF2 u)
    (hx : s.session? u.entry.handleA = some x) : exec (.closeSession sid) s =
      .next ((s.closeSessions fun x => names u.entry.handleA kindSession x.gen x.index).finish sid (okResult u 0 0)) := by
  refine congrArg Host.Outcome.next ((run_waits _ h.1).trans ?_)
  rw [settle_begins h (by simp [hx, when]), completeOk_begins h]

/-- Settles O13: the four outcomes of a CONTROL write, and the lemmas of the three session commands. -/
theorem mailboxAndSessions : Obligations.MailboxAndSessions := by
  refine ⟨fun s conn m w x hc ha hr hx => ?_, fun s sid u nonce ok h hl hr => sessionBegin_writes h hl hr,
    fun s sid b_u b sig n c i h hb hl hc hn hk ht hs hm hi => ?_, fun s sid u x h hx hone => ?_⟩
  · intro seq e wrong
    refine ⟨fun hcase => ?_, fun hs hw => control_malformed hc ha hr hx w hs hw,
      fun hs hw he hf => (control_fresh hc ha hr hx w hs hw he).trans (congrArg Host.Outcome.next (if_neg (Bool.eq_false_iff.1 hf))),
      fun hs hw he hf => (control_fresh hc ha hr hx w hs hw he).trans (congrArg Host.Outcome.next (if_pos hf))⟩
    by_cases hs : x.state = .accepted
    · exact control_accepted hc ha hr hx w hs
    · obtain hcase | ⟨hw, he⟩ := hcase
      · exact absurd hcase hs
      · exact control_repeated hc ha hr hx w hs hw he
  · have live : (s.dropNonce b_u.conn).sub? sid = some b_u := h.1.1
    obtain ⟨⟨-, -, due, -, -⟩, -⟩ := id h
    refine ⟨⟨_, sessionProve_opens h hb hl hm (proveDenied_false hc hn hk ht hs) hi, rfl, endsWith_finish _ live due,
        fun d hd => dropNonce_nonce (s := s) hd, rfl⟩,
      ⟨_, sessionProve_denied h hb hl hm (proveDenied_unverified s b_u), rfl, endsWith_finish _ live due, fun d hd => dropNonce_nonce (s := s) hd⟩⟩
  · obtain ⟨⟨live, -, due, -, -⟩, -⟩ := id h
    refine ⟨_, closeSession_closes h hx, fun y => ?_, endsWith_finish _ live due, rfl⟩
    have hit : names u.entry.handleA kindSession x.gen x.index = true := by simpa using List.find?_some hx
    show y ∈ s.sasel.sessions.filter _ ↔ _
    rw [List.mem_filter]
    refine and_congr_right fun hy => ⟨fun hk e => ?_, fun hne => ?_⟩
    · have gone : (!names u.entry.handleA kindSession x.gen x.index) = true := e ▸ hk
      rw [hit] at gone
      exact Bool.false_ne_true gone
    · rw [Bool.not_eq_true']
      exact Bool.eq_false_iff.2 fun hk => hne (hone y hy hk)

/-! ### GRANT (R322) -/

/-- The clients that have been granted access to objects. -/
def State.withGrants (s : State) (l : List (W32 × Nat)) : State := { s with sasel := { s.sasel with grants := l } }

section
variable {s : State} {sid : Nat} {u : Sub} (h : Begins s sid 0xE1 u)
include h

theorem grant_grants (ha : u.entry.arg1 = 1) : exec (.grant sid) s = .next ((s.withGrants
      (if s.sasel.grants.contains (u.entry.handleA, u.entry.arg0.toNat) then s.sasel.grants
        else s.sasel.grants ++ [(u.entry.handleA, u.entry.arg0.toNat)])).finish sid (okResult u 0 0)) := by
  refine congrArg Host.Outcome.next ((run_waits _ h.1).trans ((if_pos ha).trans ?_))
  exact (settle_begins h rfl _).trans (completeOk_begins h _)

theorem revoke_removes (ha : u.entry.arg1 = 0) : exec (.revoke sid) s = .next ((s.withGrants
      (s.sasel.grants.filter fun g => !(g == (u.entry.handleA, u.entry.arg0.toNat)))).finish sid (okResult u 0 0)) := by
  refine congrArg Host.Outcome.next ((run_waits _ h.1).trans ((if_neg (by rw [ha]; decide)).trans ?_))
  exact (settle_begins h rfl _).trans (completeOk_begins h _)

end

/-! ### Keys and settings (R302, R421, R425) -/

/-- A new key is in its slot, and M1 is extended. -/
def State.withKeys (s : State) (keys : List Buf) : State :=
  { s with sasel := { s.sasel with keys := keys }, boot := { s.boot with m1 := extend s.boot.m1 (sha3 (keysPayload keys)) } }

theorem enrolKey_enrols {s : State} {sid : Nat} {u : Sub} {b : Option Buf} {key : Buf} (h : Begins s sid 0xE2 u) (hu : s.boot.update = none)
    (hb : u.readB b = some key) (hl : u.entry.length.toNat = keyBytes)
    (hk : ((s.enrolled (enrolSlot u.entry) key).drop 4).any (fun k => k != []) = true) :
    let t := (s.itemWriteBad itemKeys (keysPayload (s.enrolled (enrolSlot u.entry) key)) none).withKeys (s.enrolled (enrolSlot u.entry) key)
    exec (.enrolKey sid b none) s = .next ((if 4 ≤ enrolSlot u.entry then t.closeSessions fun x => x.keySlot + 4 == enrolSlot u.entry else t).finish
      sid (okResult u 0 0)) := by
  have kept : ((s.enrolled (enrolSlot u.entry) key).drop 4).all (fun k => k == []) = false := by
    obtain ⟨k, hm, hne⟩ := List.any_eq_true.1 hk
    exact List.all_eq_false.2 ⟨k, hm, by simpa using hne⟩
  have form : when (decide (u.entry.length.toNat ≠ keyBytes) || ((s.enrolled (enrolSlot u.entry) key).drop 4).all (fun k => k == [])) .badField = [] := by
    rw [kept, hl]
    rfl
  refine congrArg Host.Outcome.next ((if_neg (by simp [hu])).trans ((run_withB h hb _).trans ((settle_begins h form _).trans ?_)))
  exact completeOk_begins h _

theorem setHostport_sets {s : State} {sid : Nat} {u : Sub} {b : Option Buf} {buf : Buf} (h : Begins s sid 0xE3 u) (hu : s.boot.update = none)
    (hb : u.readB b = some buf) (hl : u.entry.length.toNat = 32) (hk : hpOk buf = true) :
    let t := s.itemWriteBad itemHost buf none
    exec (.setHostport sid b none) s = .next ((({ t with boot := { t.boot with m3 := extend t.boot.m3 (sha3 buf) } } : State).applyHp (parseHp buf)).finish
      sid (okResult u 0 0)) := by
  have form : when (decide (u.entry.length.toNat ≠ 32) || !hpOk buf) .badField = [] := by rw [hl, hk]; rfl
  refine congrArg Host.Outcome.next ((if_neg (by simp [hu])).trans ((run_withB h hb _).trans ((settle_begins h form _).trans ?_)))
  exact completeOk_begins h _

/-- Settings that a pause in force does not concern, or that leave it in force, change themselves alone. -/
theorem applyHp_goesOn {s : State} {p : HpSettings} (h : s.hp.paused = false ∨ (p.pfcOn = true ∧ p.pfcPrio = s.hp.settings.pfcPrio)) :
    s.applyHp p = { s with hp := { s.hp with settings := p } } := by
  obtain h | ⟨h, k⟩ := h
  · simp [State.applyHp, h]
  · simp [State.applyHp, h, k]

/-- Others end the pause. -/
theorem applyHp_ends {s : State} {p : HpSettings} (h : ¬ (s.hp.paused = false ∨ (p.pfcOn = true ∧ p.pfcPrio = s.hp.settings.pfcPrio))) :
    s.applyHp p = ({ s with hp := { s.hp with settings := p } } : State).resume := by
  have paused : s.hp.paused = true := Bool.not_eq_false _ ▸ fun e => h (.inl e)
  have other : (p.pfcOn && p.pfcPrio == s.hp.settings.pfcPrio) = false := by
    rw [Bool.eq_false_iff]
    intro e
    simp only [Bool.and_eq_true, beq_iff_eq] at e
    exact h (.inr e)
  simp [State.applyHp, paused, other]

section
variable {s : State} {sid : Nat} {u : Sub}

theorem flashPolicy_sets (h : Begins s sid 0xE6 u) (hw : 50 ≤ u.entry.arg0.toNat % 65536 ∧ u.entry.arg0.toNat % 65536 ≤ 1000
      ∧ 1 ≤ u.entry.arg0.toNat / 65536 % 256 ∧ u.entry.arg0.toNat / 65536 % 256 ≤ 30) :
    exec (.flashPolicy sid) s = .next (({ s with flash := { s.flash with wearLimit := u.entry.arg0.toNat % 65536
                                                                         patrolDays := u.entry.arg0.toNat / 65536 % 256 } } : State).finish sid (okResult u 0 0)) := by
  obtain ⟨h1, h2, h3, h4⟩ := hw
  refine congrArg Host.Outcome.next ((run_waits _ h.1).trans ((settle_begins h ?_ _).trans (completeOk_begins h _)))
  simp [when, h1, h2, h4, Nat.ne_of_gt (Nat.lt_of_lt_of_le Nat.zero_lt_one h3)]

theorem flashPolicy_refuses (h : Begins s sid 0xE6 u) (hw : ¬ (50 ≤ u.entry.arg0.toNat % 65536 ∧ u.entry.arg0.toNat % 65536 ≤ 1000
      ∧ 1 ≤ u.entry.arg0.toNat / 65536 % 256 ∧ u.entry.arg0.toNat / 65536 % 256 ≤ 30)) :
    exec (.flashPolicy sid) s = .next (s.finish sid { status := .badField }) := by
  refine congrArg Host.Outcome.next ((run_waits _ h.1).trans (settle_refuses_badField h (by decide) ?_ _))
  have out : u.entry.arg0.toNat % 65536 < 50 ∨ 1000 < u.entry.arg0.toNat % 65536 ∨ u.entry.arg0.toNat / 65536 % 256 < 1
      ∨ 30 < u.entry.arg0.toNat / 65536 % 256 := by omega
  obtain e | e | e | e := out <;> simp [when, e]

theorem resetSled_resets (h : Begins s sid 0xE7 u) (hu : s.boot.update = none) : exec (.resetSled sid) s =
    .next (({ s with sasel := { s.sasel with resetAfter := some sid } } : State).finish sid (okResult u 0 0)) := by
  refine congrArg Host.Outcome.next ((run_waits _ h.1).trans ((settle_begins h (by simp [hu, when]) _).trans ?_))
  rw [completeOk_begins h, begins_sid h]

theorem resetSled_refuses (h : Begins s sid 0xE7 u) (hu : s.boot.update ≠ none) :
    exec (.resetSled sid) s = .next (s.finish sid { status := .noResource }) := by
  have one : when s.boot.update.isSome .noResource = [.noResource] := by
    rw [when, if_pos (Option.isSome_iff_ne_none.2 hu)]
  refine congrArg Host.Outcome.next ((run_waits _ h.1).trans ?_)
  rw [one]
  exact settle_refuses_one h (by decide) _ _

end

/-- Settles O14: what each command leaves, read off its lemma; config flash is written as `OnConfig` says. -/
theorem grantsAndSettings : Obligations.GrantsAndSettings := by
  refine ⟨fun s sid u h => ?_, ⟨fun s sid u b key h hu hb hl => ?_, fun s sid u b buf h hu hb hl hk => ?_⟩,
    fun s sid u h => ⟨flashPolicy_sets h, flashPolicy_refuses h⟩, fun s sid u h => ⟨resetSled_resets h, resetSled_refuses h⟩⟩
  · intro g
    obtain ⟨⟨live, -, due, -, -⟩, -⟩ := id h
    refine ⟨fun ha => ⟨_, grant_grants h ha, fun x => ?_, endsWith_finish _ live due, rfl⟩,
      fun ha => ⟨_, revoke_removes h ha, fun x => ?_, endsWith_finish _ live due, rfl⟩⟩
    · show x ∈ (if s.sasel.grants.contains g = true then s.sasel.grants else s.sasel.grants ++ [g]) ↔ _
      split
      · rename_i hc
        exact ⟨.inl, fun e => e.elim id fun e => e ▸ List.contains_iff_mem.1 hc⟩
      · rw [List.mem_append, List.mem_singleton]
    · show x ∈ s.sasel.grants.filter (fun y => !(y == g)) ↔ _
      simp [List.mem_filter]
  · intro slot keys hk
    have old : OnConfig s (s.itemWriteBad itemKeys (keysPayload keys) none) := itemWriteBad_onConfig ..
    obtain ⟨w, f, e⟩ := old
    obtain ⟨⟨live, -, due, -, -⟩, -⟩ := id h
    have enrols := enrolKey_enrols h hu hb hl hk
    dsimp only at enrols
    rw [show enrolSlot u.entry = slot from rfl, show s.enrolled slot key = keys from rfl, e] at enrols
    by_cases hs : 4 ≤ slot
    · rw [if_pos hs] at enrols
      refine ⟨_, enrols, rfl, rfl, endsWith_finish _ live due, fun x => ?_, rfl⟩
      show x ∈ List.filter _ _ ↔ _
      simp [List.mem_filter, Nat.not_lt.2 hs]
      exact fun _ => Iff.rfl
    · rw [if_neg hs] at enrols
      exact ⟨_, enrols, rfl, rfl, endsWith_finish _ live due, fun x => ⟨fun hx => ⟨hx, .inl (Nat.not_le.1 hs)⟩, fun hx => hx.1⟩, rfl⟩
  · have old : OnConfig s (s.itemWriteBad itemHost buf none) := itemWriteBad_onConfig ..
    obtain ⟨w, f, e⟩ := old
    obtain ⟨⟨live, -, due, -, -⟩, -⟩ := id h
    have sets := setHostport_sets h hu hb hl hk
    dsimp only at sets
    rw [e] at sets
    by_cases hg : s.hp.paused = false ∨ ((parseHp buf).pfcOn = true ∧ (parseHp buf).pfcPrio = s.hp.settings.pfcPrio)
    · exact ⟨_, sets.trans (congrArg (fun x : State => Host.Outcome.next (x.finish sid (okResult u 0 0))) (applyHp_goesOn hg)), fun _ => ⟨rfl, rfl, rfl⟩, fun hn => absurd hg hn, rfl, endsWith_finish _ live due, rfl⟩
    · have ends := sets.trans (congrArg (fun x : State => Host.Outcome.next (x.finish sid (okResult u 0 0))) (applyHp_ends hg))
      rw [resume_eq] at ends
      exact ⟨_, ends, fun hn => absurd hn hg, fun _ => ⟨rfl, rfl⟩, rfl, endsWith_finish _ live due, rfl⟩

end Sys2Proof.Machine
end

section
/-! PROOFS. Config flash: what each word reads after a program or an erase, and counters that
count once (O21). -/

namespace Sys2Proof.Machine

open Sys2Proof

/-! ### Words and sectors (R415) -/

theorem assocGet_filter_ne {κ ν : Type} [DecidableEq κ] (p : κ → Bool) (k : κ) (hk : p k = false) : ∀ l : List (κ × ν),
    assocGet k (l.filter fun e => !p e.1) = assocGet k l
  | [] => rfl
  | (a, v) :: l => by
    by_cases ha : a = k
    · simp [ha, hk, assocGet]
    · cases hp : p a
      · simp [hp, assocGet, ha, assocGet_filter_ne p k hk l]
      · simp [hp, assocGet, ha, assocGet_filter_ne p k hk l]

theorem assocGet_filter_self {κ ν : Type} [DecidableEq κ] (p : κ → Bool) (k : κ) (hk : p k = true) : ∀ l : List (κ × ν),
    assocGet k (l.filter fun e => !p e.1) = none
  | [] => rfl
  | (a, v) :: l => by
    by_cases ha : a = k
    · simp [ha, hk, assocGet_filter_self p k hk l]
    · cases hp : p a
      · simp [hp, assocGet, ha, assocGet_filter_self p k hk l]
      · simp [hp, assocGet_filter_self p k hk l]

theorem assocGet_append {κ ν : Type} [DecidableEq κ] (k : κ) (a : κ) (v : ν) : ∀ l : List (κ × ν),
    assocGet k (l ++ [(a, v)]) = (assocGet k l).or (if a = k then some v else none)
  | [] => rfl
  | (b, w) :: l => by
    by_cases hb : b = k
    · simp [assocGet, hb]
    · simp [assocGet, hb, assocGet_append k a v l]

/-- A program leaves the AND of old and new in its word, and every other word as it was. -/
theorem cfgRead_cfgProgram (s : State) (a : Nat) (v : W32) (b : Nat) :
    (s.cfgProgram a v).cfgRead b = if b = a then s.cfgRead a &&& v else s.cfgRead b := by
  unfold State.cfgProgram
  dsimp only
  split
  · rename_i same
    split
    · rename_i e
      rw [e, same]
    · rfl
  · show (assocGet b ((s.boot.cfgWords.filter fun e => !(e.1 == a)) ++ [(a, s.cfgRead a &&& v)])).getD erasedWord = _
    rw [assocGet_append]
    by_cases e : b = a
    · rw [e, assocGet_filter_self (fun x => x == a) a (beq_self_eq_true a)]
      simp
    · rw [assocGet_filter_ne (fun x => x == a) b (beq_false_of_ne e), if_neg (Ne.symm e), if_neg e, Option.or_none]
      rfl

theorem cfgRead_cfgProgram_same (s : State) (a : Nat) (v : W32) : (s.cfgProgram a v).cfgRead a = s.cfgRead a &&& v := by
  rw [cfgRead_cfgProgram, if_pos rfl]

theorem cfgRead_cfgProgram_other (s : State) {a b : Nat} (v : W32) (h : b ≠ a) : (s.cfgProgram a v).cfgRead b = s.cfgRead b := by
  rw [cfgRead_cfgProgram, if_neg h]

/-- An erased sector reads as erased. -/
theorem cfgRead_cfgErase (s : State) (n b : Nat) :
    (s.cfgErase n).cfgRead b = if b / sectorWords = n then erasedWord else s.cfgRead b := by
  show (assocGet b (s.boot.cfgWords.filter fun e => !(e.1 / sectorWords == n))).getD erasedWord = _
  by_cases h : b / sectorWords = n
  · rw [assocGet_filter_self (fun x => x / sectorWords == n) b (by simpa using h), if_pos h]
    rfl
  · rw [assocGet_filter_ne (fun x => x / sectorWords == n) b (beq_false_of_ne h), if_neg h]
    rfl

theorem cfgRead_cfgEraseAll (b : Nat) : ∀ (l : List Nat) (s : State),
    (s.cfgEraseAll l).cfgRead b = if b / sectorWords ∈ l then erasedWord else s.cfgRead b
  | [], s => rfl
  | n :: l, s => by
    show ((s.cfgErase n).cfgEraseAll l).cfgRead b = _
    rw [cfgRead_cfgEraseAll b l, cfgRead_cfgErase]
    by_cases h : b / sectorWords = n <;> simp [h]

/-- What config flash holds tells two states apart no further than their words. -/
theorem cfgRead_of_words {s t : State} (h : s.boot.cfgWords = t.boot.cfgWords) (a : Nat) : s.cfgRead a = t.cfgRead a := by
  rw [State.cfgRead, State.cfgRead, h]

/-! ### Counters (R419) -/

/-- The counter's two sectors read alike in both states. -/
def SameCounter (s t : State) (c : Nat) : Prop :=
  ∀ a, (a / sectorWords = ctrSector c ∨ a / sectorWords = ctrSector c + 1) → t.cfgRead a = s.cfgRead a

theorem sector_of_word {n i : Nat} (h : i < 1024) : (n * sectorWords + i) / sectorWords = n := by
  simp only [sectorWords]
  omega

theorem sector_of_first (n : Nat) : n * sectorWords / sectorWords = n := by
  simp only [sectorWords]
  omega

theorem ctrActive_cases (s : State) (c : Nat) : s.ctrActive c = ctrSector c ∨ s.ctrActive c = ctrSector c + 1 := by
  unfold State.ctrActive
  dsimp only
  split
  · exact .inl rfl
  · split
    · exact .inr rfl
    · exact .inl rfl

section
variable {s t : State} {c : Nat} (h : SameCounter s t c)
include h

theorem ctrActive_same : t.ctrActive c = s.ctrActive c := by
  have word : ∀ n i, (n = ctrSector c ∨ n = ctrSector c + 1) → i < 1024 → t.cfgRead (n * sectorWords + i) = s.cfgRead (n * sectorWords + i) :=
    fun n i hn hi => h _ (by rw [sector_of_word hi]; exact hn)
  have first : ∀ n, (n = ctrSector c ∨ n = ctrSector c + 1) → t.cfgRead (n * sectorWords) = s.cfgRead (n * sectorWords) :=
    fun n hn => h _ (by rw [sector_of_first]; exact hn)
  have valid : ∀ n, (n = ctrSector c ∨ n = ctrSector c + 1) → t.ctrValid n = s.ctrValid n := fun n hn => by
    rw [State.ctrValid, State.ctrValid, first n hn, word n 1 hn (by omega)]
  simp only [State.ctrActive, valid _ (.inl rfl), valid _ (.inr rfl), first _ (.inl rfl), first _ (.inr rfl)]

/-- A counter's value follows from its two sectors. -/
theorem counter_same : t.counter c = s.counter c := by
  have word : ∀ i, i < 1024 → t.cfgRead (s.ctrActive c * sectorWords + i) = s.cfgRead (s.ctrActive c * sectorWords + i) :=
    fun i hi => h _ (by rw [sector_of_word hi]; exact ctrActive_cases s c)
  have used : t.ctrUsed c = s.ctrUsed c := by
    simp only [State.ctrUsed, ctrActive_same h]
    refine congrArg List.length (List.filter_congr fun i hi => ?_)
    have := List.mem_range.1 hi
    rw [Nat.add_assoc, word _ (by omega)]
  rw [State.counter, State.counter, used, ctrActive_same h, h _ (by rw [sector_of_first]; exact ctrActive_cases s c)]

end

/-- The words of two counters share no sector. -/
theorem ctrSectors_apart {c k : Nat} (h : k ≠ c) {n : Nat} (hn : n = ctrSector c ∨ n = ctrSector c + 1) :
    ¬ (n = ctrSector k ∨ n = ctrSector k + 1) := by
  simp only [ctrSector] at *
  omega

/-- The first of a range that a predicate holds for. -/
theorem find_range_some {n i : Nat} {p : Nat → Bool} (h : (List.range n).find? p = some i) : i < n ∧ p i = true :=
  ⟨List.mem_range.1 (List.mem_of_find?_eq_some h), List.find?_some h⟩

/-- One more element of a range satisfies a predicate that changes at one place. -/
theorem length_filter_range_succ {n i : Nat} {p q : Nat → Bool} (hi : i < n) (hp : p i = false) (hq : q i = true)
    (hs : ∀ j, j ≠ i → q j = p j) : ((List.range n).filter q).length = ((List.range n).filter p).length + 1 := by
  have count : ∀ m, ((List.range m).filter q).length = ((List.range m).filter p).length + if i < m then 1 else 0 := by
    intro m
    induction m with
    | zero => rfl
    | succ m ih =>
      rw [List.range_succ, List.filter_append, List.filter_append, List.length_append, List.length_append, ih]
      by_cases e : m = i
      · subst e
        simp [hp, hq]
      · have less : i < m + 1 ↔ i < m := by omega
        simp only [less, List.filter_cons, List.filter_nil, hs m e]
        omega
  rw [count n, if_pos hi]

/-- The two sectors of a counter, the one in use and the other. -/
theorem other_cases {c act : Nat} (h : act = ctrSector c ∨ act = ctrSector c + 1) :
    let other := if act = ctrSector c then act + 1 else act - 1
    (act = ctrSector c ∧ other = ctrSector c + 1) ∨ (act = ctrSector c + 1 ∧ other = ctrSector c) := by
  intro other
  obtain h | h := h
  · exact .inl ⟨h, by simp only [other]; rw [if_pos h, h]⟩
  · exact .inr ⟨h, by simp only [other]; rw [if_neg (by omega), h]; omega⟩

section
variable {s : State} {c i : Nat} (hi : s.ctrNext c = some i)
include hi

/-- The word that counts lies in the sector in use, behind its base. -/
theorem ctrNext_erased : i < 1022 ∧ s.cfgRead (s.ctrActive c * sectorWords + 2 + i) = erasedWord := by
  obtain ⟨hl, hp⟩ := find_range_some hi
  exact ⟨hl, by simpa using hp⟩

/-- Once its next word is programmed, the sector in use is the same, with one word more in use. -/
theorem ctrUsed_counted : let t := s.cfgProgram (s.ctrActive c * sectorWords + 2 + i) 0
    t.ctrActive c = s.ctrActive c ∧ t.ctrUsed c = s.ctrUsed c + 1
    ∧ t.cfgRead (s.ctrActive c * sectorWords) = s.cfgRead (s.ctrActive c * sectorWords) := by
  intro t
  obtain ⟨hl, he⟩ := ctrNext_erased hi
  have base : ∀ n, t.cfgRead (n * sectorWords) = s.cfgRead (n * sectorWords) := fun n =>
    cfgRead_cfgProgram_other s 0 (by simp only [sectorWords]; omega)
  have second : ∀ n, t.cfgRead (n * sectorWords + 1) = s.cfgRead (n * sectorWords + 1) := fun n =>
    cfgRead_cfgProgram_other s 0 (by simp only [sectorWords]; omega)
  have valid : ∀ n, t.ctrValid n = s.ctrValid n := fun n => by
    rw [State.ctrValid, State.ctrValid, base, second]
  have active : t.ctrActive c = s.ctrActive c := by simp only [State.ctrActive, valid, base]
  refine ⟨active, ?_, base _⟩
  simp only [State.ctrUsed, active]
  refine length_filter_range_succ hl ?_ ?_ fun j hj => ?_
  · simp [he]
  · rw [cfgRead_cfgProgram_same, he]
    decide
  · rw [cfgRead_cfgProgram_other]
    omega

end

/-- A sector that is full has 1,022 words in use. -/
theorem ctrUsed_full {s : State} {c : Nat} (h : s.ctrNext c = none) : s.ctrUsed c = 1022 := by
  have all : (List.range 1022).filter (fun i => s.cfgRead (s.ctrActive c * sectorWords + 2 + i) != erasedWord) = List.range 1022 := by
    refine List.filter_eq_self.2 fun j hj => ?_
    have := List.find?_eq_none.1 h j hj
    simpa using this
  simp only [State.ctrUsed, all, List.length_range]

/-- A counter moved to its other sector: the new base there, the full sector erased. -/
def State.ctrMoved (s : State) (act other : Nat) (b : W32) : State :=
  (((s.cfgErase other).cfgProgram (other * sectorWords) b).cfgProgram (other * sectorWords + 1) (~~~b)).cfgErase act

theorem cfgRead_ctrMoved (s : State) (act other : Nat) (b : W32) (a : Nat) : (s.ctrMoved act other b).cfgRead a =
    if a / sectorWords = act then erasedWord
    else if a = other * sectorWords + 1 then ~~~b
    else if a = other * sectorWords then b
    else if a / sectorWords = other then erasedWord else s.cfgRead a := by
  have sector1 : (other * sectorWords + 1) / sectorWords = other := sector_of_word (by omega)
  have sector0 : (other * sectorWords) / sectorWords = other := sector_of_first other
  have ones : ∀ v : W32, erasedWord &&& v = v := fun v => BitVec.allOnes_and (x := v)
  have apart : other * sectorWords + 1 ≠ other * sectorWords := by omega
  simp only [State.ctrMoved, cfgRead_cfgErase, cfgRead_cfgProgram, sector1, sector0, apart, if_true, if_false, ones]

/-- The counter then stands at its new base. -/
theorem counter_ctrMoved {s : State} {c act other : Nat} (b : W32)
    (h : (act = ctrSector c ∧ other = ctrSector c + 1) ∨ (act = ctrSector c + 1 ∧ other = ctrSector c)) :
    (s.ctrMoved act other b).counter c = b.toNat := by
  have apart : act ≠ other := by omega
  have inAct : ∀ i, i < 1024 → (s.ctrMoved act other b).cfgRead (act * sectorWords + i) = erasedWord := fun i hi => by
    rw [cfgRead_ctrMoved, if_pos (sector_of_word hi)]
  have inOther : ∀ i, 2 ≤ i → i < 1024 → (s.ctrMoved act other b).cfgRead (other * sectorWords + i) = erasedWord := fun i h2 hi => by
    rw [cfgRead_ctrMoved, sector_of_word hi, if_neg (Ne.symm apart), if_neg (by omega), if_neg (by omega), if_pos rfl]
  have base : (s.ctrMoved act other b).cfgRead (other * sectorWords) = b := by
    rw [cfgRead_ctrMoved, sector_of_first, if_neg (Ne.symm apart), if_neg (by omega), if_pos rfl]
  have second : (s.ctrMoved act other b).cfgRead (other * sectorWords + 1) = ~~~b := by
    rw [cfgRead_ctrMoved, sector_of_word (by omega), if_neg (Ne.symm apart), if_pos rfl]
  have first : (s.ctrMoved act other b).cfgRead (act * sectorWords) = erasedWord := by
    rw [cfgRead_ctrMoved, if_pos (sector_of_first act)]
  have invalid : (s.ctrMoved act other b).ctrValid act = false := by
    rw [State.ctrValid, inAct 1 (by omega), first]
    decide
  have valid : (s.ctrMoved act other b).ctrValid other = true := by
    rw [State.ctrValid, base, second]
    simp
  have active : (s.ctrMoved act other b).ctrActive c = other := by
    obtain ⟨rfl, rfl⟩ | ⟨rfl, rfl⟩ := h
    · simp [State.ctrActive, invalid, valid]
    · simp [State.ctrActive, invalid, valid]
  have used : (s.ctrMoved act other b).ctrUsed c = 0 := by
    simp only [State.ctrUsed, active, List.length_eq_zero_iff, List.filter_eq_nil_iff]
    intro i hi
    have := List.mem_range.1 hi
    rw [Nat.add_assoc, inOther _ (by omega) (by omega)]
    simp
  have := b.isLt
  rw [State.counter, active, used, base]
  omega

section
variable {s : State} {c : Nat} (hn : (s.ctrNext c).isSome = true) (hm : s.counter c < 0xFFFFFFFF)
include hn hm

/-- What a counter that counts does to config flash: the next word of its sector, or a move to the other sector. -/
theorem ctrIncrement_cases : ∃ i, s.ctrNext c = some i ∧
    let t := s.cfgProgram (s.ctrActive c * sectorWords + 2 + i) 0
    (t.ctrNext c ≠ none ∧ s.ctrIncrement c = t)
    ∨ (t.ctrNext c = none ∧ s.ctrIncrement c = t.ctrMoved (s.ctrActive c)
        (if s.ctrActive c = ctrSector c then s.ctrActive c + 1 else s.ctrActive c - 1)
        (BitVec.ofNat 32 ((s.cfgRead (s.ctrActive c * sectorWords)).toNat + 1022))) := by
  obtain ⟨i, hi⟩ := Option.isSome_iff_exists.1 hn
  refine ⟨i, hi, ?_⟩
  simp only [State.ctrIncrement, if_neg (Nat.not_le.2 hm), hi]
  cases ht : (s.cfgProgram (s.ctrActive c * sectorWords + 2 + i) 0).ctrNext c with
  | some j => exact .inl ⟨by simp, rfl⟩
  | none => exact .inr ⟨rfl, rfl⟩

/-- It counts by 1 (R419). -/
theorem counter_ctrIncrement : (s.ctrIncrement c).counter c = s.counter c + 1 := by
  obtain ⟨i, hi, hcase⟩ := ctrIncrement_cases hn hm
  obtain ⟨active, used, base⟩ := ctrUsed_counted hi
  simp only [State.counter] at hm
  obtain ⟨-, e⟩ | ⟨full, e⟩ := hcase
  · rw [e, State.counter, State.counter, active, used, base]
    omega
  · rw [e, counter_ctrMoved _ (other_cases (ctrActive_cases s c)), State.counter]
    have all := ctrUsed_full full
    rw [used] at all
    rw [BitVec.toNat_ofNat, Nat.mod_eq_of_lt (by omega)]
    omega

/-- No other counter changes. -/
theorem counter_ctrIncrement_other {k : Nat} (hk : k ≠ c) : (s.ctrIncrement c).counter k = s.counter k := by
  obtain ⟨i, hi, hcase⟩ := ctrIncrement_cases hn hm
  obtain ⟨hl, -⟩ := ctrNext_erased hi
  have mine := ctrActive_cases s c
  have other : ∀ a, (a / sectorWords = ctrSector k ∨ a / sectorWords = ctrSector k + 1) →
      (s.cfgProgram (s.ctrActive c * sectorWords + 2 + i) 0).cfgRead a = s.cfgRead a := fun a ha =>
    cfgRead_cfgProgram_other s 0 fun e => by
      rw [e, Nat.add_assoc, sector_of_word (by omega)] at ha
      exact ctrSectors_apart hk mine ha
  refine counter_same fun a ha => ?_
  obtain ⟨-, e⟩ | ⟨-, e⟩ := hcase
  · rw [e, other a ha]
  · have split := other_cases mine
    have away : ∀ n, (n = ctrSector c ∨ n = ctrSector c + 1) → a / sectorWords ≠ n := fun n hn e =>
      ctrSectors_apart hk hn (e ▸ ha)
    have words : ∀ n j, j < 1024 → (n = ctrSector c ∨ n = ctrSector c + 1) → a ≠ n * sectorWords + j := fun n j hj hn e =>
      away n hn (by rw [e, sector_of_word hj])
    have otherMine : (if s.ctrActive c = ctrSector c then s.ctrActive c + 1 else s.ctrActive c - 1) = ctrSector c
        ∨ (if s.ctrActive c = ctrSector c then s.ctrActive c + 1 else s.ctrActive c - 1) = ctrSector c + 1 := by
      dsimp only at split
      omega
    rw [e, cfgRead_ctrMoved, if_neg (away _ mine), if_neg (words _ 1 (by omega) otherMine),
      if_neg (fun e => away _ otherMine (by rw [e, sector_of_first])), if_neg (away _ otherMine), other a ha]

end

/-- ERASE_FLAG_REPAIR under running firmware. -/
theorem eraseFlagRepair_erases {s : State} (h : s.boot.phase = .firmware) : exec .eraseFlagRepair s =
    .next (let t := s.cfgEraseAll (s.boot.flagged.filter fun x => decide (4096 ≤ x))
      { t with boot := { t.boot with flagged := t.boot.flagged.filter (fun x => decide (x < 4096))
                                     erasedAgain := t.boot.erasedAgain ++ s.boot.flagged.filter fun x => decide (4096 ≤ x) } }) :=
  congrArg Host.Outcome.next (if_pos h)

theorem counter_withEpoch (s : State) (n k : Nat) : ({ s with fabric := { s.fabric with epoch := n } } : State).counter k = s.counter k :=
  counter_congr rfl k

theorem configWords_eq : configWords = 16777216 := by decide

/-- Settles O21: each command by its lemma; a counter by the two cases of `ctrIncrement_cases`. -/
theorem configFlashKeeps : Obligations.ConfigFlashKeeps := by
  refine ⟨fun s => ⟨fun a ha => ?_, fun a v ha => ?_, fun n hn => ?_⟩,
    ⟨fun s c hc hu hn hm => ?_, fun s hu hn hm => ?_, fun s c hc he hu => ?_⟩, fun s h => ?_⟩
  · exact congrArg Host.Outcome.next ((if_pos (show a < configWords by rw [configWords_eq]; exact ha)).trans rfl)
  · refine ⟨s.cfgProgram a v, congrArg Host.Outcome.next (if_pos (show a < configWords by rw [configWords_eq]; exact ha)), cfgRead_cfgProgram_same s a v,
      fun b hb => cfgRead_cfgProgram_other s v hb, ?_⟩
    unfold State.cfgProgram
    dsimp only
    split <;> rfl
  · refine ⟨s.cfgErase n, congrArg Host.Outcome.next (if_pos hn), fun a ha => ?_, fun a ha => ?_, ?_, rfl⟩
    · rw [cfgRead_cfgErase, if_pos (show a / sectorWords = n from ha)]
      rfl
    · rw [cfgRead_cfgErase, if_neg (show ¬ a / sectorWords = n from ha)]
    · simp [State.cfgErase]
  · have run : exec (.counterIncrement c) s = .next (if c = ctrEpoch then
        { s.ctrIncrement c with fabric := { (s.ctrIncrement c).fabric with epoch := (s.ctrIncrement c).counter ctrEpoch } } else s.ctrIncrement c) := by
      refine congrArg Host.Outcome.next ((if_pos hc).trans ?_)
      rw [count_eq hu]
    by_cases he : c = ctrEpoch
    · rw [if_pos he] at run
      refine ⟨_, run, ?_, fun k _ hk => ?_, fun _ => ?_⟩
      · rw [counter_withEpoch, counter_ctrIncrement hn hm]
      · rw [counter_withEpoch, counter_ctrIncrement_other hn hm hk]
      · rw [← counter_ctrIncrement hn hm]
        exact congrArg (State.counter (s.ctrIncrement c)) he.symm
    · rw [if_neg he] at run
      exact ⟨_, run, counter_ctrIncrement hn hm, fun k _ hk => counter_ctrIncrement_other hn hm hk, fun e => absurd e he⟩
  · exact ⟨s.ctrIncrement ctrHours, congrArg Host.Outcome.next (count_eq hu _), counter_ctrIncrement hn hm⟩
  · refine congrArg Host.Outcome.next ((if_pos hc).trans ?_)
    rw [if_neg he, State.count, if_pos (Option.isSome_iff_ne_none.2 hu)]
  · have onConfig := cfgEraseAll_onConfig s (s.boot.flagged.filter fun x => decide (4096 ≤ x))
    have flagged := onConfig.keeps (fun x => x.boot.flagged) fun _ _ _ => rfl
    have again := onConfig.keeps (fun x => x.boot.erasedAgain) fun _ _ _ => rfl
    refine ⟨_, eraseFlagRepair_erases h, fun x => ?_, ?_, fun a ha hl => ?_, fun a ha => ?_, ?_⟩
    · dsimp only
      rw [flagged, List.mem_filter, decide_eq_true_eq]
    · exact congrArg (· ++ _) again
    · refine (cfgRead_cfgEraseAll a _ s).trans (if_pos ?_)
      exact List.mem_filter.2 ⟨ha, decide_eq_true hl⟩
    · refine (cfgRead_cfgEraseAll a _ s).trans (if_neg fun hm => ?_)
      have : 4096 ≤ a / 1024 := of_decide_eq_true (List.mem_filter.1 hm).2
      omega
    · obtain ⟨w, f, e⟩ := onConfig
      rw [e]

end Sys2Proof.Machine
end

section
/-! PROOFS. The item that is written is the item in force (O22): its words, the bytes they read as, and the choice of its copy. -/

namespace Sys2Proof.Machine

open Sys2Proof

/-! ### Words in order (R415, R418) -/

theorem cfgRead_programs_other {a : Nat} : ∀ (l : List (Nat × W32)) (s : State), (∀ w ∈ l, w.1 ≠ a) →
    (l.foldl (fun s w => s.cfgProgram w.1 w.2) s).cfgRead a = s.cfgRead a
  | [], _, _ => rfl
  | w :: l, s, h => by
    rw [List.foldl_cons, cfgRead_programs_other l _ fun x hx => h x (List.mem_cons_of_mem w hx),
      cfgRead_cfgProgram_other s _ (Ne.symm (h w List.mem_cons_self))]

/-- The address of a word that a run programs. -/
theorem mem_wordRun {a : Nat} {ws : List W32} {w : Nat × W32} (h : w ∈ wordRun a ws) : a ≤ w.1 ∧ w.1 < a + ws.length := by
  obtain ⟨⟨v, i⟩, hm, rfl⟩ := List.mem_map.1 h
  have := (List.mk_mem_zipIdx_iff_getElem?.1 hm)
  have := (List.getElem?_eq_some_iff.1 this).1
  exact ⟨Nat.le_add_right _ _, Nat.add_lt_add_left this a⟩

theorem wordRun_append_singleton (a : Nat) (ws : List W32) (w : W32) : wordRun a (ws ++ [w]) = wordRun a ws ++ [(a + ws.length, w)] := by
  simp [wordRun, List.zipIdx_append]

/-- A run programmed on erased words reads as what was programmed. -/
theorem cfgRead_programs_run {a i : Nat} {s : State} (he : s.cfgRead (a + i) = erasedWord) (ws : List W32) (hi : i < ws.length) :
    ((wordRun a ws).foldl (fun s w => s.cfgProgram w.1 w.2) s).cfgRead (a + i) = ws.getD i 0 := by
  induction ws using List.reverseRecOn with
  | nil => exact absurd hi (Nat.not_lt_zero i)
  | append_singleton ws w ih =>
    rw [wordRun_append_singleton, List.foldl_append, List.foldl_cons, List.foldl_nil]
    simp only [List.length_append, List.length_singleton] at hi
    by_cases e : i = ws.length
    · subst e
      rw [cfgRead_cfgProgram_same, cfgRead_programs_other _ _ fun x hx => Nat.ne_of_lt (mem_wordRun hx).2, he]
      simp only [List.getD_eq_getElem?_getD, List.getElem?_concat_length, Option.getD_some]
      exact BitVec.allOnes_and
    · rw [cfgRead_cfgProgram_other _ _ (by simp only; omega), ih (by omega)]
      simp only [List.getD_eq_getElem?_getD, List.getElem?_append_left (show i < ws.length by omega)]

/-! ### Bytes as words -/

theorem leBytes_le_slice (b : Buf) (n off : Nat) : leBytes n (Buf.le b off n) = Buf.slice b off n := by
  refine List.ext_getElem (by rw [leBytes_length, slice_length]) fun i h1 h2 => ?_
  have h : i < n := by rwa [leBytes_length] at h1
  have at1 := at_leBytes_le b n off i h
  rw [Buf.at, List.getD_eq_getElem?_getD, List.getElem?_eq_getElem h1, Option.getD_some] at at1
  rw [at1]
  simp [Buf.slice]

theorem slice_append_slice (b : Buf) (off m n : Nat) : Buf.slice b off m ++ Buf.slice b (off + m) n = Buf.slice b off (m + n) := by
  simp only [Buf.slice, List.range_add, List.map_append, List.map_map]
  refine congrArg _ (List.map_congr_left fun i _ => ?_)
  simp only [Function.comp_apply, Nat.add_assoc]

theorem flatMap_slices (b : Buf) : ∀ n, ((List.range n).flatMap fun i => Buf.slice b (4 * i) 4) = Buf.slice b 0 (4 * n)
  | 0 => rfl
  | n + 1 => by
    rw [List.range_succ, List.flatMap_append, flatMap_slices b n, List.flatMap_singleton, Nat.mul_add, ← slice_append_slice, Nat.zero_add]

theorem le_lt (b : Buf) : ∀ n off : Nat, Buf.le b off n < 256 ^ n
  | 0, _ => Nat.one_pos
  | n + 1, off => by
    have h := le_lt b n (off + 1)
    have := (Buf.at b off).isLt
    rw [Buf.le, Nat.pow_succ]
    omega

/-- The words of a buffer, read back as bytes, are the buffer. -/
theorem bytes_of_words (b : Buf) :
    (((List.range (ceilDiv b.length 4)).flatMap fun i => leBytes 4 ((wordsOf b).getD i 0).toNat)).take b.length = b := by
  have word : ∀ i, i < ceilDiv b.length 4 → leBytes 4 ((wordsOf b).getD i 0).toNat = Buf.slice (b ++ List.replicate 3 0xFF#8) (4 * i) 4 := by
    intro i hi
    have fits : Buf.le (b ++ List.replicate 3 0xFF#8) (4 * i) 4 < 2 ^ 32 := le_lt _ 4 _
    rw [wordsOf, List.getD_eq_getElem?_getD, List.getElem?_map, List.getElem?_range hi, Option.map_some, Option.getD_some, BitVec.toNat_ofNat,
      Nat.mod_eq_of_lt fits, leBytes_le_slice]
  have all : ((List.range (ceilDiv b.length 4)).flatMap fun i => leBytes 4 ((wordsOf b).getD i 0).toNat)
      = Buf.slice (b ++ List.replicate 3 0xFF#8) 0 (4 * ceilDiv b.length 4) := by
    rw [← flatMap_slices]
    exact List.flatMap_congr fun i hi => word i (List.mem_range.1 hi)
  have long : 4 * ceilDiv b.length 4 = b.length + (4 * ceilDiv b.length 4 - b.length) := by
    simp only [ceilDiv]
    omega
  have left : Buf.slice (b ++ List.replicate 3 0xFF#8) 0 b.length = b := by
    refine Eq.trans ?_ (slice_all b)
    refine List.map_congr_left fun i hi => ?_
    rw [at_append_left (by simpa using List.mem_range.1 hi)]
  rw [all, long, ← slice_append_slice, List.take_append_of_le_length (by rw [slice_length]), left, List.take_of_length_le (Nat.le_refl _)]

/-- Bytes of config flash where a buffer's words stand. -/
theorem cfgBytes_of_words {s : State} {a : Nat} {b : Buf} (h : ∀ i, i < ceilDiv b.length 4 → s.cfgRead (a + i) = (wordsOf b).getD i 0) :
    s.cfgBytes a b.length = b := by
  refine Eq.trans ?_ (bytes_of_words b)
  exact congrArg (List.take b.length) (List.flatMap_congr fun i hi => by rw [h i (List.mem_range.1 hi)])

theorem wordsOf_length (b : Buf) : (wordsOf b).length = ceilDiv b.length 4 := by
  rw [wordsOf, List.length_map, List.length_range]

/-! ### The copy that is written (R418) -/

/-- The header of a record, without its COMMIT. -/
def itemHeader (item gen : Nat) (payload : Buf) : List W32 :=
  [BitVec.ofNat 32 item, BitVec.ofNat 32 gen, BitVec.ofNat 32 payload.length] ++ wordsOf ((sha3 payload).take 16)

/-- Digest bytes of a record. -/
theorem digest_length (payload : Buf) : ((sha3 payload).take 16).length = 16 := by
  rw [List.length_take, sha3_length]
  rfl

theorem itemHeader_length (item gen : Nat) (payload : Buf) : (itemHeader item gen payload).length = 7 := by
  rw [itemHeader, List.length_append, wordsOf_length, digest_length]
  rfl

/-- A copy that holds a record in order. -/
structure Holds (s : State) (sec gen : Nat) (payload : Buf) : Prop where
  commit : s.cfgRead (sec * sectorWords + 7) = 0x434F4D54#32
  header : ∀ i, i < 7 → ∃ item, s.cfgRead (sec * sectorWords + i) = (itemHeader item gen payload).getD i 0
  words : ∀ i, i < ceilDiv payload.length 4 → s.cfgRead (sec * sectorWords + 8 + i) = (wordsOf payload).getD i 0

section
variable {s : State} {sec gen : Nat} {payload : Buf} (h : Holds s sec gen payload) (hl : payload.length ≤ 9 * 4096)
include h

theorem itemGen_holds (hg : gen < 2 ^ 32) : s.itemGen sec = gen := by
  obtain ⟨item, e⟩ := h.header 1 (by omega)
  rw [State.itemGen, e]
  exact Nat.mod_eq_of_lt hg

include hl

theorem itemPayload_holds : s.itemPayload sec = payload := by
  obtain ⟨item, e⟩ := h.header 2 (by omega)
  have length : (s.cfgRead (sec * sectorWords + 2)).toNat = payload.length := by
    rw [e]
    exact Nat.mod_eq_of_lt (by omega)
  rw [State.itemPayload, length, Nat.min_eq_left hl]
  exact cfgBytes_of_words h.words

theorem itemValid_holds : s.itemValid sec = true := by
  have digest : s.cfgBytes (sec * sectorWords + 3) 16 = (sha3 payload).take 16 := by
    have bytes := cfgBytes_of_words (s := s) (a := sec * sectorWords + 3) (b := (sha3 payload).take 16) fun i hi => by
      rw [digest_length] at hi
      have hi4 : i < 4 := hi
      obtain ⟨item, e⟩ := h.header (3 + i) (by omega)
      rw [Nat.add_assoc, e, itemHeader, List.getD_append_right _ _ _ _ (by simp)]
      simp
    rwa [digest_length] at bytes
  rw [State.itemValid, h.commit, digest, itemPayload_holds h hl]
  simp

end

/-- The sectors of an item's copies: A's lie before B's (R414). -/
theorem itemCopies_apart {item : Nat} : (itemCopies item).1 + (itemCopies item).2.2 ≤ (itemCopies item).2.1 ∧ 1 ≤ (itemCopies item).2.2
    ∧ (itemCopies item).2.2 ≤ 9 := by
  unfold itemCopies
  split
  · decide
  · split <;> decide

section
variable {s : State} {item : Nat} {payload : Buf}

/-- A write touches only the sectors of the copy it uses. -/
theorem cfgRead_itemWrite_outside (hl : payload.length ≤ (itemCopies item).2.2 * 4096 - 32) {a : Nat}
    (ha : a < s.itemTarget item * sectorWords ∨ (s.itemTarget item + (itemCopies item).2.2) * sectorWords ≤ a) :
    (s.itemWriteBad item payload none).cfgRead a = s.cfgRead a := by
  obtain ⟨-, one, -⟩ := itemCopies_apart (item := item)
  have size : ceilDiv payload.length 4 + 8 ≤ (itemCopies item).2.2 * 1024 := by
    simp only [ceilDiv]
    omega
  simp only [sectorWords] at ha
  have erased : (s.cfgEraseAll ((List.range (itemCopies item).2.2).map fun i => s.itemTarget item + i)).cfgRead a = s.cfgRead a := by
    rw [cfgRead_cfgEraseAll, if_neg]
    simp only [List.mem_map, List.mem_range, sectorWords, not_exists, not_and]
    intro i hi
    omega
  refine (cfgRead_programs_other _ _ fun w hw => ?_).trans erased
  simp only [itemWords, List.mem_append, List.mem_singleton] at hw
  obtain (hw | hw) | rfl := hw
  · have := mem_wordRun hw
    rw [wordsOf_length] at this
    simp only [sectorWords] at this
    omega
  · have := mem_wordRun hw
    rw [show _ ++ _ = itemHeader item (s.itemNextGen item) payload from rfl, itemHeader_length] at this
    simp only [sectorWords] at this
    omega
  · simp only [sectorWords]
    omega

/-- The copy that is written holds the record. -/
theorem holds_itemWrite (hl : payload.length ≤ (itemCopies item).2.2 * 4096 - 32) :
    Holds (s.itemWriteBad item payload none) (s.itemTarget item) (s.itemNextGen item) payload := by
  obtain ⟨-, one, -⟩ := itemCopies_apart (item := item)
  have size : ceilDiv payload.length 4 + 8 ≤ (itemCopies item).2.2 * 1024 := by
    simp only [ceilDiv]
    omega
  let t := s.cfgEraseAll ((List.range (itemCopies item).2.2).map fun i => s.itemTarget item + i)
  have erased : ∀ i, i < (itemCopies item).2.2 * 1024 → t.cfgRead (s.itemTarget item * sectorWords + i) = erasedWord := by
    intro i hi
    refine (cfgRead_cfgEraseAll _ _ s).trans (if_pos ?_)
    refine List.mem_map.2 ⟨i / 1024, List.mem_range.2 (by omega), ?_⟩
    simp only [sectorWords]
    omega
  let words := wordRun (s.itemTarget item * sectorWords + 8) (wordsOf payload)
  let header := wordRun (s.itemTarget item * sectorWords) (itemHeader item (s.itemNextGen item) payload)
  have written : s.itemWriteBad item payload none =
      (header.foldl (fun s w => s.cfgProgram w.1 w.2) (words.foldl (fun s w => s.cfgProgram w.1 w.2) t)).cfgProgram
        (s.itemTarget item * sectorWords + 7) 0x434F4D54#32 := by
    show (words ++ header ++ [_]).foldl _ t = _
    rw [List.foldl_append, List.foldl_append]
    rfl
  have inWords : ∀ w ∈ words, s.itemTarget item * sectorWords + 8 ≤ w.1 := fun w hw => (mem_wordRun hw).1
  have inHeader : ∀ w ∈ header, w.1 < s.itemTarget item * sectorWords + 7 := fun w hw => by
    have := (mem_wordRun hw).2
    rwa [itemHeader_length] at this
  rw [written]
  refine ⟨?_, fun i hi => ⟨item, ?_⟩, fun i hi => ?_⟩
  · rw [cfgRead_cfgProgram_same, cfgRead_programs_other _ _ fun w hw => Nat.ne_of_lt (inHeader w hw),
      cfgRead_programs_other _ _ fun w hw => by have := inWords w hw; omega, erased 7 (by omega)]
    exact BitVec.allOnes_and
  · rw [cfgRead_cfgProgram_other _ _ (by omega), cfgRead_programs_run _ _ (by rwa [itemHeader_length])]
    rw [cfgRead_programs_other _ _ fun w hw => by have := inWords w hw; omega, erased i (by omega)]
  · rw [cfgRead_cfgProgram_other _ _ (by omega), cfgRead_programs_other _ _ fun w hw => by have := inHeader w hw; omega,
      cfgRead_programs_run _ _ (by rwa [wordsOf_length])]
    rw [Nat.add_assoc]
    exact erased _ (by omega)

end

theorem cfgBytes_congr {s t : State} {a n : Nat} (h : ∀ i, i < ceilDiv n 4 → t.cfgRead (a + i) = s.cfgRead (a + i)) : t.cfgBytes a n = s.cfgBytes a n :=
  congrArg (List.take n) (List.flatMap_congr fun i hi => by rw [h i (List.mem_range.1 hi)])

/-- A copy that a write does not reach stands as it was. -/
theorem itemCopy_kept {s t : State} {sec : Nat} (h : ∀ a, sec * sectorWords ≤ a → t.cfgRead a = s.cfgRead a) :
    t.itemValid sec = s.itemValid sec ∧ t.itemGen sec = s.itemGen sec := by
  have word : ∀ i, t.cfgRead (sec * sectorWords + i) = s.cfgRead (sec * sectorWords + i) := fun i => h _ (Nat.le_add_right _ _)
  have payload : t.itemPayload sec = s.itemPayload sec := by
    rw [State.itemPayload, State.itemPayload, word]
    exact cfgBytes_congr fun i _ => by rw [Nat.add_assoc, word]
  have digest : t.cfgBytes (sec * sectorWords + 3) 16 = s.cfgBytes (sec * sectorWords + 3) 16 :=
    cfgBytes_congr fun i _ => by rw [Nat.add_assoc, word]
  refine ⟨?_, by rw [State.itemGen, State.itemGen, word]⟩
  rw [State.itemValid, State.itemValid, payload, word, digest]

/-- The generation of a copy that a write does not reach. -/
theorem itemGen_kept {s t : State} {sec : Nat} (h : t.cfgRead (sec * sectorWords + 1) = s.cfgRead (sec * sectorWords + 1)) :
    t.itemGen sec = s.itemGen sec := by
  rw [State.itemGen, State.itemGen, h]

/-- Which copy a write uses, and the generation it gives it. -/
theorem itemTarget_cases (s : State) (item : Nat) :
    (s.itemTarget item = (itemCopies item).1 ∧ (s.itemValid (itemCopies item).2.1 = true → s.itemNextGen item = s.itemGen (itemCopies item).2.1 + 1))
    ∨ (s.itemTarget item = (itemCopies item).2.1 ∧ s.itemNextGen item = s.itemGen (itemCopies item).1 + 1) := by
  obtain ⟨apart, one, -⟩ := itemCopies_apart (item := item)
  have ne : (itemCopies item).2.1 ≠ (itemCopies item).1 := by omega
  simp only [State.itemNextGen]
  cases ha : s.itemValid (itemCopies item).1 <;> cases hb : s.itemValid (itemCopies item).2.1
  · simp [State.itemTarget, ha, hb]
  · simp [State.itemTarget, ha, hb]
  · simp [State.itemTarget, ha, hb, ne]
  · by_cases hg : s.itemGen (itemCopies item).1 ≤ s.itemGen (itemCopies item).2.1
    · simp [State.itemTarget, ha, hb, hg]
    · simp [State.itemTarget, ha, hb, hg, ne]

/-- The item that is written is in force: no other copy that is valid has a higher generation (R418). -/
theorem item_itemWrite {s : State} {item : Nat} {payload : Buf} (hl : payload.length ≤ (itemCopies item).2.2 * 4096 - 32)
    (hg : s.itemNextGen item < 2 ^ 32) : (s.itemWriteBad item payload none).item item = some payload := by
  obtain ⟨apart, one, nine⟩ := itemCopies_apart (item := item)
  have holds := holds_itemWrite (s := s) hl
  have short : payload.length ≤ 9 * 4096 := by omega
  have valid := itemValid_holds holds short
  have stored := itemPayload_holds holds short
  have gen := itemGen_holds holds hg
  have outside := fun a => cfgRead_itemWrite_outside (s := s) (item := item) (payload := payload) (a := a) hl
  obtain ⟨target, next⟩ | ⟨target, next⟩ := itemTarget_cases s item
  · rw [target] at valid stored gen outside
    have behind : ∀ a, (itemCopies item).2.1 * sectorWords ≤ a → (s.itemWriteBad item payload none).cfgRead a = s.cfgRead a := fun a ha =>
      outside a (.inr (Nat.le_trans (Nat.mul_le_mul_right _ apart) ha))
    obtain ⟨validB, genB⟩ := itemCopy_kept behind
    cases hb : s.itemValid (itemCopies item).2.1 with
    | false => simp [State.item, valid, validB, hb, stored]
    | true =>
      have lower : ¬ (s.itemWriteBad item payload none).itemGen (itemCopies item).1 < (s.itemWriteBad item payload none).itemGen (itemCopies item).2.1 := by
        rw [gen, genB, next hb]
        omega
      simp only [State.item, valid, validB, hb, if_neg lower, stored]
  · rw [target] at valid stored gen outside
    have genA : (s.itemWriteBad item payload none).itemGen (itemCopies item).1 = s.itemGen (itemCopies item).1 :=
      itemGen_kept (outside ((itemCopies item).1 * sectorWords + 1) (.inl (by simp only [sectorWords]; omega)))
    have higher : (s.itemWriteBad item payload none).itemGen (itemCopies item).1 < (s.itemWriteBad item payload none).itemGen (itemCopies item).2.1 := by
      rw [gen, genA, next]
      omega
    cases ha : (s.itemWriteBad item payload none).itemValid (itemCopies item).1 with
    | false => simp only [State.item, valid, ha, stored]
    | true => simp only [State.item, valid, ha, if_pos higher, stored]

/-- Settles O22: `item_itemWrite`, and the frame of a write of config flash. -/
theorem itemWrittenIsInForce : Obligations.ItemWrittenIsInForce := by
  intro s item payload h1 h3 hl
  have runs : ∀ t, t = s.writeItem item payload none → exec (.configItemWrite item payload none) s = .next t := fun t ht =>
    congrArg Host.Outcome.next ((if_pos ⟨h1, h3, hl⟩).trans ht.symm)
  refine ⟨fun hu hg => ⟨s.itemWriteBad item payload none, runs _ ?_, item_itemWrite hl hg, (itemWriteBad_onConfig s item payload none).frame⟩,
    fun hu => runs _ ?_⟩
  · rw [State.writeItem, if_neg (by simp [hu])]
  · rw [State.writeItem, if_pos (Option.isSome_iff_ne_none.2 hu)]

end Sys2Proof.Machine
end

section
/-! PROOFS. START, the boot check of the image, the fuses and the mode of the host port (R299, R404 to R413). -/

namespace Sys2Proof.Machine

open Sys2Proof

/-! ### The start (R404, R419) -/

theorem item_of_words {s t : State} (h : s.boot.cfgWords = t.boot.cfgWords) (i : Nat) : s.item i = t.item i := by
  have bytes : s.cfgBytes = t.cfgBytes := by
    funext a n
    exact cfgBytes_congr fun _ _ => (cfgRead_of_words h _).symm ▸ rfl
  have gen : s.itemGen = t.itemGen := funext fun _ => congrArg BitVec.toNat (cfgRead_of_words h _)
  have payload : s.itemPayload = t.itemPayload := by
    funext sector
    rw [State.itemPayload, bytes, cfgRead_of_words h, State.itemPayload]
  have valid : s.itemValid = t.itemValid := by
    funext sector
    rw [State.itemValid, bytes, payload, cfgRead_of_words h, State.itemValid]
  rw [State.item, valid, payload, gen, State.item]

theorem hpPayload_of_words {s t : State} (h : s.boot.cfgWords = t.boot.cfgWords) : s.hpPayload = t.hpPayload :=
  congrArg (Option.getD · hpShipped) (item_of_words h itemHost)

theorem itemWrite_onConfig (s : State) (item : Nat) (p : Buf) : OnConfig s (s.itemWrite item p) :=
  itemWriteBad_onConfig s item p none

/-- The writes that waited change config flash, and none waits after them. -/
theorem applyWaiting_onConfig (s : State) :
    OnConfig { s with boot := { s.boot with update := none, cfgWaiting := [] } } s.applyWaiting :=
  OnConfig.foldl (fun s w => by
    split
    · exact ctrIncrement_onConfig s _
    · exact itemWrite_onConfig s _ _) _ _

theorem applyWaiting_none {s : State} (h : s.boot.cfgWaiting = []) :
    s.applyWaiting = { s with boot := { s.boot with update := none, cfgWaiting := [] } } := by
  rw [State.applyWaiting, h, List.foldl_nil]

theorem start_starts {s : State} (h : s.power.pwrgd = true ∧ s.power.resetL = false ∧ s.power.startMet = true ∧ s.boot.phase = .off) :
    exec .start s = .next s.startNow := by
  obtain ⟨hg, hr, hm, ho⟩ := h
  exact congrArg Host.Outcome.next (if_pos (by simp [State.canStart, hg, hr, hm, ho]))

theorem start_ignores {s : State} (h : s.power.pwrgd = false ∨ s.power.resetL = true ∨ s.power.startMet = false ∨ s.boot.phase ≠ .off) :
    Ignores .start s := by
  refine congrArg Host.Outcome.next (if_neg fun e => ?_)
  simp only [State.canStart, Bool.and_eq_true, Bool.not_eq_true', decide_eq_true_eq] at e
  obtain ⟨⟨⟨hg, hr⟩, hm⟩, ho⟩ := e
  simp [hg, hr, hm, ho] at h

/-- A start changes config flash, the power state and what the boot ROM, the hubs and the host port take (R404). -/
theorem startNow_frame (s : State) : ∃ words flags wide, s.startNow = { s with
    power := { s.power with slotId := s.power.slotPins, startedSince := true }
    boot := { s.boot with cfgWords := words, cfgFlags := flags, update := none, cfgWaiting := [], phase := .bootRom
                          eraseFlags := BitVec.ofNat 32 flags.length, flagged := flags, identityKey := identityPublic s.boot.seed }
    flash := { s.flash with hubKeys := (List.range 16).map fun h => (h, mediaKeys s.boot.seed) }
    hp := { s.hp with wide := wide } } := by
  obtain ⟨w, f, e⟩ := applyWaiting_onConfig (s.ctrIncrement ctrResets)
  obtain ⟨w', f', e'⟩ := ctrIncrement_onConfig s ctrResets
  refine ⟨w, f, (parseHp ((s.ctrIncrement ctrResets).applyWaiting).hpPayload).wideNext, ?_⟩
  rw [State.startNow]
  dsimp only
  generalize (parseHp ((s.ctrIncrement ctrResets).applyWaiting).hpPayload).wideNext = wide
  rw [e, e']

theorem startNow_nothingWaits {s : State} (h : s.boot.cfgWaiting = []) :
    s.startNow.boot.cfgWords = (s.ctrIncrement ctrResets).boot.cfgWords ∧ s.startNow.boot.cfgFlags = (s.ctrIncrement ctrResets).boot.cfgFlags
    ∧ s.startNow.hp = { s.hp with wide := (parseHp (s.ctrIncrement ctrResets).hpPayload).wideNext } := by
  have none : (s.ctrIncrement ctrResets).boot.cfgWaiting = [] :=
    ((ctrIncrement_onConfig s ctrResets).keeps (fun x => x.boot.cfgWaiting) fun _ _ _ => rfl).trans h
  have hp : (s.ctrIncrement ctrResets).hp = s.hp := (ctrIncrement_onConfig s ctrResets).keeps (fun x => x.hp) fun _ _ _ => rfl
  have payload : (s.ctrIncrement ctrResets).applyWaiting.hpPayload = (s.ctrIncrement ctrResets).hpPayload :=
    hpPayload_of_words (by rw [applyWaiting_none none])
  rw [State.startNow]
  generalize s.ctrIncrement ctrResets = counted at none hp payload ⊢
  dsimp only
  rw [payload, applyWaiting_none none, hp]
  exact ⟨rfl, rfl, rfl⟩

/-! ### The boot check (R405, R410) -/

theorem firmwareImageCheck_eq {s : State} (h : s.boot.phase = .bootRom) (sigOk : Bool) :
    let code := s.regionCode (parseFwHeader s.regionHead).codeLength
    exec (.firmwareImageCheck sigOk) s = .next (
      if (fwFormOk (parseFwHeader s.regionHead) code = true
          ∧ fwTrusted s.boot (parseFwHeader s.regionHead) (Buf.slice s.regionHead 0x80 1312) sigOk = true) ∧ ∀ x ∈ s.boot.cfgFlags, 4096 ≤ x
      then s.runFirmware (parseFwHeader s.regionHead) (sha3 (fwSigned s.regionHead code))
      else { s with boot := { s.boot with phase := .recovery } }) := by
  refine congrArg Host.Outcome.next ((if_pos h).trans (if_congr ?_ rfl rfl))
  simp only [Bool.and_eq_true, List.all_eq_true, decide_eq_true_eq]

/-- Running firmware took its counter, its measurements and its settings; what was fixed stays (R405, R425). -/
theorem runFirmware_frame (s : State) (h : FwHeader) (digest : Buf) : ∃ words flags epoch plot m1 m3, s.runFirmware h digest = { s with
    boot := { s.boot with cfgWords := words, cfgFlags := flags, phase := .firmware, fwVersion := BitVec.ofNat 32 h.fwVersion, svn := h.svn
                          revokeReq := BitVec.ofNat 2 h.revokeReq, saselRev := BitVec.ofNat 16 h.saselRev
                          m0 := extend s.boot.m0 digest, m1 := m1, m3 := m3 }
    hp := { s.hp with settings := parseHp s.hpPayload }
    sasel := { s.sasel with keys := parseKeys s.keyPayload }
    fabric := { s.fabric with epoch := epoch, plot := plot } } := by
  obtain ⟨w, f, e⟩ := ctrIncrement_onConfig s ctrEpoch
  rw [State.runFirmware]
  dsimp only
  generalize (s.ctrIncrement ctrEpoch).counter ctrEpoch = epoch
  rw [e]
  exact ⟨_, _, _, _, _, _, rfl⟩

/-- Settles O19, by the frame of each event. -/
theorem bringUp : Obligations.BringUp := by
  refine ⟨fun s => ⟨fun hg hr hm ho => ?_, start_ignores⟩, fun s sigOk h => ⟨fun ⟨hf, ht, hx⟩ => ?_, fun hn => ?_, fun hs hp => ?_⟩, fun s h hm => ⟨fun hl => ?_, fun hl => ?_, fun k hk hr => ?_, fun k hr => ?_⟩,
    fun s => ⟨fun hu => ?_, fun hu => ?_⟩⟩
  · refine ⟨s.startNow, start_starts ⟨hg, hr, hm, ho⟩, ?_⟩
    have alone := startNow_nothingWaits (s := s)
    obtain ⟨w, f, wide, e⟩ := startNow_frame s
    rw [e] at alone ⊢
    refine ⟨rfl, rfl, fun hw => ?_, rfl, rfl, rfl, rfl, rfl⟩
    obtain ⟨words, flags, hp⟩ := alone hw
    exact ⟨congrArg (fun l => BitVec.ofNat 32 (List.length l)) flags, flags, hp, words, rfl⟩
  · have run := (firmwareImageCheck_eq h sigOk).trans (congrArg Host.Outcome.next (if_pos ⟨⟨hf, ht⟩, hx⟩))
    refine ⟨_, run, ?_⟩
    obtain ⟨w, f, epoch, plot, m1, m3, e⟩ := runFirmware_frame s (parseFwHeader s.regionHead)
      (sha3 (fwSigned s.regionHead (s.regionCode (parseFwHeader s.regionHead).codeLength)))
    rw [e]
    exact ⟨rfl, rfl, rfl, rfl, rfl, rfl, rfl, rfl⟩
  · exact (firmwareImageCheck_eq h sigOk).trans (congrArg Host.Outcome.next (if_neg fun ⟨⟨hf, ht⟩, hx⟩ => hn ⟨hf, ht, hx⟩))
  · obtain ⟨-, ht, -⟩ := hp
    simp only [fwTrusted, Bool.and_eq_true, decide_eq_true_eq] at ht
    obtain hs | hs := hs
    · simp [hs] at ht
    · omega
  · exact congrArg Host.Outcome.next (if_pos ⟨h, hm, hl⟩)
  · exact congrArg Host.Outcome.next (if_neg fun ⟨_, _, hlt⟩ => absurd hlt (Nat.not_lt.2 hl))
  · refine ⟨{ s with boot := { s.boot with revoke := setBit s.boot.revoke k true } }, congrArg Host.Outcome.next (if_pos ⟨h, hm, hk, hr⟩), rfl, ?_, fun j hj => ?_⟩
    · exact (getLsbD_setBit _ hk _ k).trans (if_pos rfl)
    · exact (getLsbD_setBit _ hk _ j).trans (if_neg hj)
  · exact congrArg Host.Outcome.next (if_neg fun ⟨_, _, _, hk⟩ => absurd hk (by simp [hr]))
  · exact congrArg Host.Outcome.next ((if_neg (by simp [hu])).trans rfl)
  · exact congrArg Host.Outcome.next (if_pos hu)

end Sys2Proof.Machine
end

section
/-! PROOFS. UPDATE_FIRMWARE and ATTEST (R422 to R426). -/

namespace Sys2Proof.Machine

open Sys2Proof

theorem rank_lt_ok {st : Status} (h : st ≠ .ok) : st.rank < Status.rank .ok := by
  cases st
  case ok => exact absurd rfl h
  all_goals decide

/-- An error among those that apply decides the status. -/
theorem firstStatus_ne_ok {l : List Status} {st : Status} (hm : st ∈ l) (hn : st ≠ .ok) : firstStatus l ≠ .ok := fun e => by
  have le : (firstStatus l).rank ≤ st.rank := rank_foldl_le_mem l .ok st hm
  rw [e] at le
  exact absurd (rank_lt_ok hn) (Nat.not_lt.2 le)

theorem updateErrs_mem {s : State} {img : FwImage} {len : Nat} {st : Status} (h : st ∈ s.updateErrs img len) : st ≠ .ok := by
  simp only [State.updateErrs, List.mem_append] at h
  obtain (h | h) | h := h <;> (rw [mem_when h]; decide)

/-- A programmed image changes config flash, the update in progress and the flags of its sectors. -/
theorem programImage_frame (s : State) (u : Sub) (img : FwImage) (n : Nat) (recovery : Bool) (bad : Option (Nat × W32)) :
    ∃ words flags, s.programImage u img n recovery bad = { s with boot := { s.boot with
      cfgWords := words, cfgFlags := flags, update := some { sid := u.sid, recovery := recovery }
      flagged := s.boot.flagged.filter fun x => decide (n ≤ x) } } := by
  obtain ⟨w, f, e⟩ := (cfgEraseAll_onConfig s (List.range n)).trans
    (cfgProgramList_onConfig _ (wordRun 0 (wordsOf (fwSigned img.head img.code ++ Buf.slice img.sig 0 2420))) bad)
  refine ⟨w, f, ?_⟩
  rw [State.programImage]
  dsimp only
  rw [e]

section

variable {s : State} {sid : Nat} {u : Sub} {img : FwImage}

theorem updateFirmware_programs (h : Begins s sid 0xE8 u) (hp : s.boot.phase = .firmware)
    (hm : (parseFwHeader img.head).saselRev / 256 = s.boot.saselRev.toNat / 256 ∨ u.entry.arg0 = 1)
    (he : s.updateErrs img u.entry.length.toNat = []) : exec (.updateFirmware sid (some img) none) s =
    .next ((s.programImage u img (updateSectors (parseFwHeader img.head).codeLength) false none).finish sid (okResult u 0 0)) := by
  refine congrArg Host.Outcome.next ((run_waits _ h.1).trans ((if_pos hp).trans ((settle_begins h ?_ _).trans (completeOk_begins h _))))
  rw [he]
  obtain hm | hm := hm <;> simp [when, hm]

theorem updateFirmware_refused (h : Begins s sid 0xE8 u) (hp : s.boot.phase = .firmware)
    (he : s.updateErrs img u.entry.length.toNat ≠ []) : ∃ st, st ≠ Status.ok ∧
    exec (.updateFirmware sid (some img) none) s = .next (s.finish sid { status := st }) := by
  obtain ⟨x, hx⟩ := List.exists_mem_of_ne_nil _ he
  refine ⟨_, firstStatus_ne_ok (List.mem_append_left _ hx) (updateErrs_mem hx), congrArg Host.Outcome.next ((run_waits _ h.1).trans ((if_pos hp).trans
    (settle_refuses h (by decide) (List.append_ne_nil_of_left_ne_nil he _) _)))⟩

theorem updateFirmwareRecovery_programs (h : Begins s sid 0xE8 u) (hp : s.boot.phase = .recovery)
    (he : s.updateErrs img u.entry.length.toNat = []) : exec (.updateFirmwareRecovery sid (some img) none) s =
    .next ((s.programImage u img 4096 true none).finish sid (okResult u 0 0)) :=
  congrArg Host.Outcome.next ((run_waits _ h.1).trans ((if_pos hp).trans ((settle_begins h he _).trans (completeOk_begins h _))))

theorem updateFirmwareRecovery_refused (h : Begins s sid 0xE8 u) (hp : s.boot.phase = .recovery)
    (he : s.updateErrs img u.entry.length.toNat ≠ []) : exec (.updateFirmwareRecovery sid (some img) none) s =
    .next (s.finish sid { status := firstStatus (s.updateErrs img u.entry.length.toNat) }) :=
  congrArg Host.Outcome.next ((run_waits _ h.1).trans ((if_pos hp).trans (settle_refuses h (by decide) he _)))

/-- ATTEST draws a signature, writes the quote and completes. -/
theorem attest_quotes {ok : Bool} (h : Begins s sid 0x72 u) (hl : 2612 ≤ u.entry.length.toNat)
    (hr : Reaches u (s.quoteBody u.entry.nonce ++ Buf.slice (Config.signature (s.quoteBody u.entry.nonce) s.free) 0 2420).length ok) :
    exec (.attest sid ok) s = .next
      ((({ s with free := s.free + 1 } : State).writeB u
        (s.quoteBody u.entry.nonce ++ Buf.slice (Config.signature (s.quoteBody u.entry.nonce) s.free) 0 2420)).finish sid (okResult u 2612 0)) := by
  have errs : when (decide (u.entry.length.toNat < 2612)) .badField = [] := by simp [when, hl]
  exact congrArg Host.Outcome.next ((run_waits _ h.1).trans ((settle_begins h errs _).trans ((report_reaches _ hr).trans (complete_begins h _ _ _))))

end

/-- Settles O23: the effect and the refusal of each command, and what a programmed image changes. -/
theorem updateAndAttest : Obligations.UpdateAndAttest := by
  refine ⟨fun s sid u img h => ?_, fun s sid u ok h hl hr => attest_quotes h hl hr⟩
  obtain ⟨⟨live, -, due, -, -⟩, -⟩ := id h
  have hid : u.sid = sid := sub_sid live
  refine ⟨fun he => ⟨fun hp hm => ?_, fun hp => ?_⟩, fun he hp => updateFirmwareRecovery_refused h hp he, fun he hp => ?_⟩
  · obtain ⟨w, f, e⟩ := programImage_frame s u img (updateSectors (parseFwHeader img.head).codeLength) false none
    have run := updateFirmware_programs h hp hm he
    rw [e, hid] at run
    exact ⟨_, run, rfl, endsWith_finish _ live due, rfl⟩
  · obtain ⟨w, f, e⟩ := programImage_frame s u img 4096 true none
    have run := updateFirmwareRecovery_programs h hp he
    rw [e, hid] at run
    exact ⟨_, run, rfl, endsWith_finish _ live due, fun x hx => of_decide_eq_true (List.mem_filter.1 hx).2, rfl⟩
  · obtain ⟨st, hn, run⟩ := updateFirmware_refused h hp he
    exact ⟨_, run, st, hn, rfl⟩

end Sys2Proof.Machine
end

section
/-! PROOFS. Readiness bits after a change, the decisions that are sent again, and the slot signals (R314, R407, R204, R222, R431, R451
to R455). -/

namespace Sys2Proof.Machine

open Sys2Proof

/-! ### What the decisions sent again change -/

/-- The second state differs from the first in what it has sent to other members. -/
def Sends (s t : State) : Prop := ∃ tx stats sent frames,
  t = { s with fabric := { s.fabric with tx := tx, portStats := stats }, out := sent ++ s.out, frames := frames }

namespace Sends

variable {s t r : State}

theorem refl (s : State) : Sends s s := ⟨s.fabric.tx, s.fabric.portStats, [], s.frames, rfl⟩

theorem trans (h : Sends s t) (k : Sends t r) : Sends s r := by
  obtain ⟨tx, st, o, f, rfl⟩ := h
  obtain ⟨tx', st', o', f', rfl⟩ := k
  refine ⟨tx', st', o' ++ o, f', ?_⟩
  rw [List.append_assoc]

theorem foldl {α : Type} {g : State → α → State} (h : ∀ s x, Sends s (g s x)) : ∀ (l : List α) (s : State), Sends s (l.foldl g s)
  | [], s => refl s
  | x :: l, s => (h s x).trans (foldl h l (g s x))

end Sends

/-- A message or a packet leaves: no frame of the lossless priority, so a pause holds nothing. -/
theorem emit_sends (s : State) {o : Out} (hw : ∀ c a k b, o ≠ .write c a k b) (hr : o.roce = false) : Sends s (s.emit o) := by
  refine ⟨s.fabric.tx, s.fabric.portStats, [o], (s.emit o).frames, ?_⟩
  have held : (s.emit o).txHeld = s.txHeld := (emit_leaves (.inl hr)).2
  exact (emit_sent hw).trans (by rw [held]; rfl)

theorem setTx_sends (s : State) (f : TxFlow) : Sends s (s.setTx f) := ⟨_, s.fabric.portStats, [], s.frames, rfl⟩

theorem sendPacket_sends (s : State) (b kind cls : Nat) (psn : W32) (first last : Bool) (payload : Buf) :
    Sends s (s.sendPacket b kind cls psn first last payload) := by
  unfold State.sendPacket
  split
  · exact .refl s
  · next x y _ =>
    have bumped : Sends s (s.bumpPort x 1) := ⟨s.fabric.tx, _, [], s.frames, rfl⟩
    exact bumped.trans (emit_sends _ (fun _ _ _ _ e => Out.noConfusion e) rfl)

theorem pumpN_sends (b c : Nat) : ∀ (n : Nat) (s : State), Sends s (State.pumpN n s b c)
  | 0, s => .refl s
  | n + 1, s => by
    unfold State.pumpN
    dsimp only
    split
    · exact .refl s
    · split
      · exact ((setTx_sends ..).trans (sendPacket_sends ..)).trans (pumpN_sends b c n _)
      · exact .refl s

theorem sendMsg_sends (s : State) (b : Nat) (kind : Msg) (values : List Nat) : Sends s (s.sendMsg b kind values) :=
  ((emit_sends s (fun _ _ _ _ e => Out.noConfusion e) rfl).trans (setTx_sends ..)).trans (pumpN_sends ..)

theorem sendAll_sends (s : State) (kind : Msg) (values : List Nat) : Sends s (s.sendAll kind values) :=
  .foldl (fun s b => sendMsg_sends s b kind values) s.others s

theorem resendDecisions_sends (s : State) : Sends s s.resendDecisions :=
  .foldl (fun s g => by
    split
    · split
      · exact sendAll_sends ..
      · exact .refl s
    · exact .refl s) s.grafts.list s

theorem resendPlots_sends (s : State) : Sends s s.resendPlots := by
  unfold State.resendPlots
  split
  · exact .foldl (fun s d => sendAll_sends s _ _) s.fabric.plotDecisions s
  · exact .refl s

/-! ### Conditions of readiness bits -/

/-- The bits whose condition names other bits. -/
def dependentBits : List Nat := [bitIndex, bitTables, bitGraft]

/-- The bits that a condition names. -/
def namedBits : List Nat := [bitFlashmap, bitLoom, bitWoane]

/-- A condition changes only with the bits it names. -/
theorem bitCond_setReady {s : State} {i j : Nat} (hj : j < 128) (v : Bool) (h : i ∉ dependentBits ∨ j ∉ namedBits) :
    (s.setReady j v).bitCond i = s.bitCond i := by
  obtain h | h := h
  · simp only [dependentBits, List.mem_cons, List.not_mem_nil, or_false, not_or] at h
    obtain ⟨hi, ht, hg⟩ := h
    unfold State.bitCond
    simp only [if_neg hi, if_neg ht, if_neg hg]
    rfl
  · simp only [namedBits, List.mem_cons, List.not_mem_nil, or_false, not_or] at h
    obtain ⟨hf, hl, hw⟩ := h
    have flashmap : (s.setReady j v).isReady bitFlashmap = s.isReady bitFlashmap := by rw [isReady_setReady s hj, if_neg (Ne.symm hf)]
    have loom : (s.setReady j v).isReady bitLoom = s.isReady bitLoom := by rw [isReady_setReady s hj, if_neg (Ne.symm hl)]
    have woane : (s.setReady j v).isReady bitWoane = s.isReady bitWoane := by rw [isReady_setReady s hj, if_neg (Ne.symm hw)]
    unfold State.bitCond
    simp only [flashmap, loom, woane]
    rfl

/-- A bit that stands has its condition. -/
def Founded (s : State) (i : Nat) : Prop := s.isReady i = true → s.bitCond i = true

theorem founded_dropBit {s : State} {i : Nat} (hi : i < 128) : Founded (s.dropBit i) i := by
  intro hr
  unfold State.dropBit at hr ⊢
  split at hr
  · rw [isReady_setReady s hi, if_pos rfl] at hr
    exact absurd hr (by decide)
  · next hc => rw [if_neg hc]; simpa [hr] using hc

theorem founded_dropBit_other {s : State} {i j : Nat} (hj : j < 128) (h : i ∉ dependentBits ∨ j ∉ namedBits) (hf : Founded s i) :
    Founded (s.dropBit j) i := by
  intro hr
  have before : s.isReady i = true := by
    cases hs : s.isReady i
    · rw [dropBit_clear hj hs] at hr; exact hr
    · rfl
  unfold State.dropBit
  split
  · rw [bitCond_setReady hj false h]; exact hf before
  · exact hf before

theorem founded_foldl {i : Nat} : ∀ (l : List Nat) {s : State}, (∀ j ∈ l, j < 128 ∧ (i ∉ dependentBits ∨ j ∉ namedBits)) → Founded s i →
    Founded (l.foldl State.dropBit s) i
  | [], _, _, h => h
  | j :: l, _, hl, h => founded_foldl l (fun k hk => hl k (List.mem_cons_of_mem j hk))
      (founded_dropBit_other (hl j List.mem_cons_self).1 (hl j List.mem_cons_self).2 h)

/-- Bits that are dropped in an order in which a named bit comes before those that name it end founded. -/
theorem founded_dropped {i : Nat} : ∀ {l : List Nat} {s : State}, (∀ j ∈ l, j < 128) →
    l.Pairwise (fun i j => i ∉ dependentBits ∨ j ∉ namedBits) → i ∈ l → Founded (l.foldl State.dropBit s) i
  | [], _, _, _, h => absurd h List.not_mem_nil
  | x :: l, s, hl, hp, h => by
    have rest : ∀ j ∈ l, j < 128 := fun j hj => hl j (List.mem_cons_of_mem x hj)
    obtain ⟨hx, hp⟩ := List.pairwise_cons.1 hp
    obtain rfl | h := List.mem_cons.1 h
    · exact founded_foldl l (fun j hj => ⟨rest j hj, hx j hj⟩) (founded_dropBit (hl i List.mem_cons_self))
    · exact founded_dropped (l := l) (s := s.dropBit x) rest hp h

theorem founded_dropBits (s : State) {i : Nat} (h : i ∈ [bitHostport, bitLoom, bitFlashmap, bitWoane, bitIndex, bitTables, bitGraft]) :
    Founded s.dropBits i := by
  rw [dropBits_eq]
  exact founded_dropped (by decide) (by decide) h

/-- A bit that stands as its condition does stays so, unless its condition names others. -/
theorem dropBit_settled {s : State} {b j : Nat} {v : Bool} (hj : j < 128) (hb : b ∉ dependentBits) (h : s.isReady b = v ∧ s.bitCond b = v) :
    (s.dropBit j).isReady b = v ∧ (s.dropBit j).bitCond b = v := by
  obtain ⟨hr, hc⟩ := h
  unfold State.dropBit
  split
  · next hd =>
    have apart : b ≠ j := fun e => by subst e; simp [hr, hc] at hd
    exact ⟨by rw [isReady_setReady s hj, if_neg apart, hr], by rw [bitCond_setReady hj false (.inl hb), hc]⟩
  · exact ⟨hr, hc⟩

theorem foldl_dropBit_settled {b : Nat} {v : Bool} (hb : b ∉ dependentBits) {α : Type} (bit : α → Nat) : ∀ (l : List α) {s : State}, (∀ x ∈ l, bit x < 128) →
    s.isReady b = v ∧ s.bitCond b = v → (l.foldl (fun s x => s.dropBit (bit x)) s).isReady b = v ∧ (l.foldl (fun s x => s.dropBit (bit x)) s).bitCond b = v
  | [], _, _, h => h
  | x :: l, _, hl, h => foldl_dropBit_settled hb bit l (fun y hy => hl y (List.mem_cons_of_mem x hy)) (dropBit_settled (hl x List.mem_cons_self) hb h)

theorem fpBits_lt : ∀ q ∈ List.range 12, bitFp q < 128 := by decide

/-! ### A change -/

/-- A bit clear before `dropBits` is clear after it. -/
theorem dropBits_clear {s : State} {k : Nat} (h : s.isReady k = false) : s.dropBits.isReady k = false := by
  rw [dropBits_eq]
  exact foldl_dropBit_clear id _ (by decide) (foldl_dropBit_clear bitFp _ fpBits_lt h)

section

variable {s : State} {b : Nat}

theorem changeReady_eq (hb : b < 68) : s.changeReady b = (s.setReady b (s.bitCond b)).dropBits := by
  rw [State.changeReady, if_pos hb]

theorem setReady_frame (s : State) (i : Nat) (v : Bool) :
    s.setReady i v = { s with boot := { s.boot with ready := (s.setReady i v).boot.ready } } := rfl

theorem dropBits_frame (s : State) : s.dropBits = { s with boot := { s.boot with ready := s.dropBits.boot.ready } } := by
  have kept := dropBits_keeps (fun t : State => { t with boot := { t.boot with ready := 0 } }) (fun _ _ _ => rfl) s
  generalize s.dropBits = t at kept ⊢
  have := congrArg (fun x : State => { x with boot := { x.boot with ready := t.boot.ready } }) kept
  exact this

theorem changeReady_frame (hb : b < 68) : s.changeReady b = { s with boot := { s.boot with ready := (s.changeReady b).boot.ready } } := by
  rw [changeReady_eq hb]
  exact dropBits_frame _

theorem changeReady_ready (hb : b < 68) (hd : b ∉ dependentBits) : (s.changeReady b).isReady b = s.bitCond b := by
  have set : (s.setReady b (s.bitCond b)).isReady b = s.bitCond b ∧ (s.setReady b (s.bitCond b)).bitCond b = s.bitCond b :=
    ⟨by rw [isReady_setReady s (by omega), if_pos rfl], bitCond_setReady (by omega) _ (.inl hd)⟩
  rw [changeReady_eq hb, dropBits_eq]
  exact (foldl_dropBit_settled hd id _ (by decide) (foldl_dropBit_settled hd bitFp _ fpBits_lt set)).1

/-- FLASHMAP does not come to stand when it is not the bit that changes, when it stood, or when its condition does not hold. -/
theorem changeReady_noFlashmap (hb : b < 68) (h : b ≠ bitFlashmap ∨ s.isReady bitFlashmap = true ∨ s.bitCond bitFlashmap = false) :
    (!s.isReady bitFlashmap && (s.changeReady b).isReady bitFlashmap) = false := by
  cases hr : s.isReady bitFlashmap with
  | true => rfl
  | false =>
    rw [hr] at h
    rw [changeReady_eq hb]
    refine dropBits_clear ?_
    rw [isReady_setReady s (by omega)]
    split
    · next e =>
      subst e
      simpa using h
    · exact hr

/-- What is sent again leaves the bits and their conditions. -/
theorem Sends.isReady {s t : State} (h : Sends s t) (i : Nat) : t.isReady i = s.isReady i := by
  obtain ⟨_, _, _, _, rfl⟩ := h
  rfl

theorem Sends.bitCond {s t : State} (h : Sends s t) (i : Nat) : t.bitCond i = s.bitCond i := by
  obtain ⟨_, _, _, _, rfl⟩ := h
  rfl

theorem readinessChange_sends (b : Nat) (s : State) : ∃ t, exec (.readinessChange b) s = .next t ∧ Sends (s.changeReady b) t
    ∧ ((!s.isReady bitFlashmap && (s.changeReady b).isReady bitFlashmap) = false → t = s.changeReady b) := by
  refine ⟨_, rfl, ?_, fun h => if_neg (by rw [h]; decide)⟩
  dsimp only
  split
  · exact (resendDecisions_sends _).trans (resendPlots_sends _)
  · exact .refl _

end

/-! ### Slot signals -/

theorem mayPower_iff (s : State) : s.mayPower = true ↔ s.power.pwrEn = true ∧ s.power.bankCharged = true ∧ s.power.overTripped = false
    ∧ s.power.tripLatched = false ∧ 10 ≤ popCount s.power.regulators ∧ s.power.offAfterFlush = false := by
  simp only [State.mayPower, Bool.and_eq_true, Bool.not_eq_true', decide_eq_true_eq, and_assoc]
  exact Iff.rfl

theorem resetLAssert_resets {s : State} {us : Nat} (hu : 10 ≤ us) (hf : s.power.flush = none) : exec (.resetLAssert us) s =
    .next ((s.modPower fun p => { p with resetL := true }).resetNow.modPower fun p => { p with startedSince := s.power.startedSince }) := by
  refine congrArg Host.Outcome.next ((if_neg (Nat.not_lt.2 hu)).trans (if_neg ?_))
  simp [State.flushing, State.modPower, hf]

/-- Settles O20: what a change leaves of the bits (`changeReady_ready`, `founded_dropBits`), what it sends again, and each slot signal by its guard. -/
theorem readinessAndSlots : Obligations.ReadinessAndSlots := by
  refine ⟨fun s b hb => ?_, fun s => ⟨rfl, fun h => congrArg Host.Outcome.next (if_pos h), fun h => congrArg Host.Outcome.next (if_neg (by simp [h])), fun pins => rfl, fun pins => rfl,
      fun h => congrArg Host.Outcome.next (if_neg (by simp [h])), fun hm hr => congrArg Host.Outcome.next (if_pos ⟨hm, hr⟩), fun h => congrArg Host.Outcome.next (if_neg fun ⟨hm, hr⟩ => ?_), rfl,
      fun us hu => congrArg Host.Outcome.next (if_pos hu), fun us hu hf => ⟨_, resetLAssert_resets hu hf, rfl, rfl, rfl, rfl⟩⟩,
    fun s => ⟨fun h => congrArg Host.Outcome.next (if_pos ((mayPower_iff s).2 h)), fun h => congrArg Host.Outcome.next (if_neg fun e => h ((mayPower_iff s).1 e)), rfl⟩⟩
  · obtain ⟨t, run, sends, quiet⟩ := readinessChange_sends b s
    have frame := changeReady_frame (s := s) hb
    refine ⟨t, run, fun h => ?_, ?_, fun hi ht hg => ?_, fun i hi hr => ?_⟩
    · rw [quiet (changeReady_noFlashmap hb h)]
      exact frame
    · obtain ⟨tx, stats, sent, frames, e⟩ := sends
      refine ⟨sent, ?_⟩
      generalize s.changeReady b = c at frame e
      rw [e, frame]
    · rw [sends.isReady]
      exact changeReady_ready hb (by simp [dependentBits, hi, ht, hg])
    · rw [sends.isReady] at hr
      rw [sends.bitCond, changeReady_eq hb]
      rw [changeReady_eq hb] at hr
      exact founded_dropBits _ hi hr
  · obtain h | h := h
    · exact absurd (h.symm.trans hm) (by decide)
    · exact absurd (h.symm.trans hr) (by decide)

end Sys2Proof.Machine
end

section
/-! PROOFS. The takeover of a column (R388 to R390): cells of a memory that are moved, and the columns that carry. -/

namespace Sys2Proof.Machine

open Sys2Proof

/-! ### Reads after cells are left out or stored elsewhere -/

theorem Memory.read_absent {a : Nat} : ∀ {m : Memory}, (∀ x ∈ m, x.1 ≠ a) → Memory.read m a = Memory.blank
  | [], _ => rfl
  | (b, v) :: r, h => by
    rw [Memory.read, if_neg (h (b, v) List.mem_cons_self)]
    exact Memory.read_absent fun x hx => h x (List.mem_cons_of_mem _ hx)

theorem Memory.read_filter_kept {a : Nat} {p : Host.Cell → Bool} : ∀ {m : Memory}, (∀ x ∈ m, x.1 = a → p x = true) →
    Memory.read (m.filter p) a = Memory.read m a
  | [], _ => rfl
  | (b, v) :: r, h => by
    have rest : Memory.read (r.filter p) a = Memory.read r a := Memory.read_filter_kept fun x hx => h x (List.mem_cons_of_mem _ hx)
    rw [Memory.read]
    split
    · next e => rw [List.filter_cons_of_pos (h (b, v) List.mem_cons_self e), Memory.read, if_pos e]
    · next e =>
      rw [List.filter_cons]
      split
      · rw [Memory.read, if_neg e, rest]
      · exact rest

theorem Memory.read_place_other {a : Nat} : ∀ {cells : List Host.Cell} {m : Memory}, (∀ x ∈ cells, x.1 ≠ a) →
    Memory.read (Memory.place m cells) a = Memory.read m a
  | [], _, _ => rfl
  | x :: r, m, h => by
    have other : a ≠ x.1 := fun e => h x List.mem_cons_self e.symm
    exact (Memory.read_place_other (cells := r) (m := Memory.write m x.1 x.2) fun y hy => h y (List.mem_cons_of_mem x hy)).trans
      (Memory.read_write_other x.1 a x.2 other m)

/-- A canonical memory lists no address below its least. -/
theorem Memory.le_of_mem {x : Host.Cell} : ∀ {m : Memory} {lo : Nat}, Memory.wfFrom lo m = true → x ∈ m → lo ≤ x.1
  | (b, v) :: r, lo, hm, hx => by
    simp only [Memory.wfFrom, Bool.and_eq_true, decide_eq_true_eq] at hm
    obtain ⟨⟨hlo, -⟩, hr⟩ := hm
    obtain rfl | hx := List.mem_cons.1 hx
    · exact hlo
    · exact Nat.le_trans (Nat.le_succ_of_le hlo) (Memory.le_of_mem hr hx)

/-- The cells of a canonical memory are stored at other addresses: what one address alone is stored to reads as that address did. -/
theorem Memory.read_place_moved {f : Host.Cell → Option Host.Cell} {a b : Nat} (hs : ∀ v, f (b, v) = some (a, v))
    (hf : ∀ x y, f x = some y → y.1 = a → x.1 = b) : ∀ (m : Memory) {lo : Nat} {base : Memory}, Memory.wfFrom lo m = true → base.wf = true →
    Memory.read base a = Memory.blank → Memory.read (Memory.place base (m.filterMap f)) a = Memory.read m b
  | [], _, _, _, _, hb => hb
  | (c, v) :: r, lo, base, hm, hw, hb => by
    simp only [Memory.wfFrom, Bool.and_eq_true, decide_eq_true_eq] at hm
    obtain ⟨-, hr⟩ := hm
    by_cases e : c = b
    · subst e
      have absent : ∀ y ∈ r.filterMap f, y.1 ≠ a := fun y hy hya => by
        obtain ⟨x, hx, hxy⟩ := List.mem_filterMap.1 hy
        have above : c + 1 ≤ x.1 := Memory.le_of_mem hr hx
        rw [hf x y hxy hya] at above
        exact absurd above (Nat.not_succ_le_self c)
      rw [List.filterMap_cons_some (hs v), Memory.read, if_pos rfl]
      exact (Memory.read_place_other (m := Memory.write base a v) absent).trans (Memory.read_write_same a v base hw)
    · rw [Memory.read, if_neg e]
      cases hc : f (c, v) with
      | none =>
        rw [List.filterMap_cons_none hc]
        exact Memory.read_place_moved hs hf r hr hw hb
      | some y =>
        have other : a ≠ y.1 := fun h => e (hf (c, v) y hc h.symm)
        rw [List.filterMap_cons_some hc]
        exact Memory.read_place_moved hs hf r hr (Memory.wf_write base y.1 y.2 hw) ((Memory.read_write_other y.1 a y.2 other base).trans hb)

/-! ### The columns that carry (R84, R388) -/

/-- Sixty-four columns, each its own. -/
def Columns (l : List Nat) : Prop := l.length = 64 ∧ l.Nodup ∧ ∀ x ∈ l, x < 66

/-- With at most two columns retired, 64 are left. -/
theorem inService_length (retired : List Nat) : 66 ≤ ((List.range 66).filter fun p => !retired.contains p).length + retired.length := by
  have split := List.length_eq_length_filter_add (l := List.range 66) fun p => !retired.contains p
  have gone : ((List.range 66).filter fun p => !!retired.contains p).length ≤ retired.length := by
    refine (List.subperm_of_subset (List.nodup_range.filter _) fun x hx => ?_).length_le
    simpa using (List.mem_filter.1 hx).2
  rw [List.length_range] at split
  omega

theorem carrying_columns {retired : List Nat} (h : retired.length ≤ 2) : Columns (carrying retired) := by
  have left := inService_length retired
  refine ⟨?_, (List.nodup_range.filter _).sublist (List.take_sublist ..), fun x hx => ?_⟩
  · rw [carrying, List.length_take]
    omega
  · exact List.mem_range.1 (List.mem_of_mem_filter (List.mem_of_mem_take hx))

theorem Columns.lt {l : List Nat} (h : Columns l) {c : Nat} (hc : c < 64) : l.getD c 0 < 66 := by
  obtain ⟨hl, -, hx⟩ := h
  rw [List.getD_eq_getElem l 0 (by omega)]
  exact hx _ (List.getElem_mem _)

theorem Columns.inj {l : List Nat} (h : Columns l) {c d : Nat} (hc : c < 64) (hd : d < 64) (e : l.getD c 0 = l.getD d 0) : c = d := by
  obtain ⟨hl, hn, -⟩ := h
  rw [List.getD_eq_getElem l 0 (by omega), List.getD_eq_getElem l 0 (by omega)] at e
  exact (hn.getElem_inj_iff).1 e

theorem physCol_carrying {s : State} (h : s.loom.retired.length ≤ 2) {c : Nat} (hc : c < 64) :
    s.physCol c = (carrying s.loom.retired).getD c 0 := by
  have left := inService_length s.loom.retired
  have inside : c < ((List.range 66).filter fun p => !s.loom.retired.contains p).length := by omega
  rw [State.physCol, carrying, List.getD_eq_getElem?_getD, List.getElem?_take_of_lt hc, List.getElem?_eq_getElem inside]
  rfl

/-! ### The move of the contents (R390) -/

section

variable {old new : List Nat} {r c off : Nat}

theorem tileCell_apart {q r' q' off' : Nat} (hq : q < 66) (hq' : q' < 66) (ho : off < tileBytes) (ho' : off' < tileBytes)
    (e : (66 * r + q) * tileBytes + off = (66 * r' + q') * tileBytes + off') : r = r' ∧ q = q' ∧ off = off' := by
  unfold tileBytes at *
  omega

theorem tileRow_cell {q : Nat} (hq : q < 66) (ho : off < tileBytes) : tileRow ((66 * r + q) * tileBytes + off) = r := by
  unfold tileRow tileBytes at *
  omega

theorem tileCol_cell {q : Nat} (hq : q < 66) (ho : off < tileBytes) : tileCol ((66 * r + q) * tileBytes + off) = q := by
  unfold tileCol tileBytes at *
  omega

/-- An address of tile SRAM by its row, column and offset. -/
theorem tileCell_eq (a : Nat) : a = (66 * tileRow a + tileCol a) * tileBytes + a % tileBytes := by
  unfold tileRow tileCol tileBytes
  omega

theorem find_column (ho : Columns old) (hc : c < 64) : ((List.range 64).find? fun d => old.getD d 0 == old.getD c 0) = some c := by
  cases hf : (List.range 64).find? fun d => old.getD d 0 == old.getD c 0 with
  | none =>
    have := List.find?_eq_none.1 hf c (List.mem_range.2 hc)
    simp at this
  | some d =>
    have hd : d < 64 := List.mem_range.1 (List.mem_of_find?_eq_some hf)
    have e : old.getD d 0 = old.getD c 0 := by simpa using List.find?_some hf
    rw [ho.inj hd hc e]

/-- Where a cell of tile SRAM moves. -/
def movedCell (old new : List Nat) (x : Host.Cell) : Option Host.Cell :=
  match (List.range 64).find? fun c => old.getD c 0 == tileCol x.1 with
  | some c => if tileRow x.1 < 64 ∧ new.getD c 0 ≠ tileCol x.1 then some ((66 * tileRow x.1 + new.getD c 0) * tileBytes + x.1 % tileBytes, x.2) else none
  | none => none

/-- A logical column moves onto the physical column. -/
def movedOnto (old new : List Nat) (q : Nat) : Bool := (List.range 64).any fun c => new.getD c 0 == q && old.getD c 0 != q

theorem shiftTiles_eq (old new : List Nat) (m : Memory) : shiftTiles old new m =
    Memory.place (m.filter fun x => !(decide (tileRow x.1 < 64) && movedOnto old new (tileCol x.1))) (m.filterMap (movedCell old new)) := rfl

/-- A cell that moves belongs to a logical column whose physical column changes. -/
theorem movedCell_some {x y : Host.Cell} (h : movedCell old new x = some y) : ∃ d < 64, old.getD d 0 = tileCol x.1 ∧ tileRow x.1 < 64
    ∧ new.getD d 0 ≠ tileCol x.1 ∧ y = ((66 * tileRow x.1 + new.getD d 0) * tileBytes + x.1 % tileBytes, x.2) := by
  unfold movedCell at h
  split at h
  · next d hd =>
    split at h
    · next hm => exact ⟨d, List.mem_range.1 (List.mem_of_find?_eq_some hd), by simpa using List.find?_some hd, hm.1, hm.2, (Option.some.inj h).symm⟩
    · cases h
  · cases h

theorem mod_tileBytes_lt (a : Nat) : a % tileBytes < tileBytes := Nat.mod_lt _ (by decide)

variable (ho : Columns old) (hn : Columns new) (hr : r < 64) (hc : c < 64) (hoff : off < tileBytes)

include ho hn hr hc hoff

/-- The contents of a logical column move with it. -/
theorem read_shiftTiles {m : Memory} (hm : m.wf = true) :
    Memory.read (shiftTiles old new m) ((66 * r + new.getD c 0) * tileBytes + off) = Memory.read m ((66 * r + old.getD c 0) * tileBytes + off) := by
  have target : ∀ x y, movedCell old new x = some y → y.1 = (66 * r + new.getD c 0) * tileBytes + off →
      x.1 = (66 * r + old.getD c 0) * tileBytes + off ∧ new.getD c 0 ≠ old.getD c 0 := fun x y hxy hy => by
    obtain ⟨d, hd, hcol, -, hne, rfl⟩ := movedCell_some hxy
    obtain ⟨hrow, hq, hmod⟩ := tileCell_apart (hn.lt hd) (hn.lt hc) (mod_tileBytes_lt x.1) hoff hy
    obtain rfl := hn.inj hd hc hq
    rw [hcol]
    refine ⟨?_, hne⟩
    rw [← hrow, ← hmod]
    exact tileCell_eq x.1
  rw [shiftTiles_eq]
  by_cases same : new.getD c 0 = old.getD c 0
  · have untouched : movedOnto old new (new.getD c 0) = false := by
      rw [movedOnto, List.any_eq_false]
      intro d hd h
      simp only [Bool.and_eq_true, beq_iff_eq, bne_iff_ne] at h
      obtain ⟨e, hne⟩ := h
      obtain rfl := hn.inj (List.mem_range.1 hd) hc e
      exact hne same.symm
    rw [Memory.read_place_other fun y hy hya => ?_, Memory.read_filter_kept fun x _ hx => ?_, same]
    · rw [hx, tileCol_cell (hn.lt hc) hoff, untouched, Bool.and_false]
      rfl
    · obtain ⟨x, -, hxy⟩ := List.mem_filterMap.1 hy
      exact (target x y hxy hya).2 same
  · have onto : movedOnto old new (new.getD c 0) = true := by
      rw [movedOnto, List.any_eq_true]
      exact ⟨c, List.mem_range.2 hc, by simpa using Ne.symm same⟩
    refine Memory.read_place_moved (fun v => ?_) (fun x y hxy hy => (target x y hxy hy).1) m hm (Memory.wf_filter _ m hm) (Memory.read_absent fun x hx he => ?_)
    · unfold movedCell
      simp only [tileCol_cell (ho.lt hc) hoff, tileRow_cell (ho.lt hc) hoff, find_column ho hc]
      rw [if_pos ⟨hr, same⟩, Nat.mul_add_mod_of_lt hoff]
    · have kept := (List.mem_filter.1 hx).2
      rw [he, tileRow_cell (hn.lt hc) hoff, tileCol_cell (hn.lt hc) hoff, onto, decide_eq_true hr] at kept
      exact absurd kept (by decide)

end

/-- With one takeover under way its column is retired, and the contents move (R388). -/
theorem columnTakeoverComplete_moves {s : State} {p : Nat} (h : s.loom.takeover = [p]) : exec .columnTakeoverComplete s = .next (s.columnDone p) := by
  refine congrArg Host.Outcome.next ?_
  rw [h]
  rfl

/-- Settles O36: the contents move with their logical column (`read_shiftTiles`), from the columns that carried to those that carry. -/
theorem columnTakeoverKeepsContents : Obligations.ColumnTakeoverKeepsContents := by
  intro s p ht hl _ _ hw
  have before : s.loom.retired.length ≤ 2 := by omega
  have after : (s.loom.retired ++ [p]).length ≤ 2 := by
    rw [List.length_append, List.length_singleton]
    omega
  refine ⟨s.columnDone p, columnTakeoverComplete_moves ht, rfl, ?_, fun r c off hrow hc hoff => ?_, rfl, rfl⟩
  · show s.loom.takeover.filter (fun x => !(x == p)) = []
    rw [ht]
    simp
  · rw [State.tileAddr, State.tileAddr, physCol_carrying (s := s.columnDone p) after hc, physCol_carrying before hc]
    exact read_shiftTiles (carrying_columns before) (carrying_columns after) hrow hc hoff hw

end Sys2Proof.Machine
end

section
/-! PROOFS. What every function of the state keeps: the queue of waiting commands, the records of what was sent, the canonical form of the
memories, what manufacture fixed, the fuses, and the counts of errors that no record holds.  One rule for an update of other fields, one for
each operation that writes a held one, and the rules of `if`, of a fold and of a command's body. -/

namespace Sys2Proof.Machine

open Sys2Proof

/-! ### The relation -/

/-- What every command carries over, a reset included. -/
structure Carried (s t : State) : Prop where
  pending : t.pending = s.pending
  out : s.out <:+ t.out
  frames : s.frames <:+ t.frames
  mems : MemoriesCanonical s → MemoriesCanonical t
  identity : SameIdentity s t
  rollback : s.boot.rollback ≤ t.boot.rollback
  revoke : BitsStay s.boot.revoke t.boot.revoke

/-- The errors that no record holds are at least as many, in each class. -/
def Counts (s t : State) : Prop := ∀ k, (s.integ.unlogged.getD k 0).toNat ≤ (t.integ.unlogged.getD k 0).toNat

/-- What every function but a reset keeps. -/
def Steady (s t : State) : Prop := Carried s t ∧ Counts s t

/-- What any command does: it keeps what is held, and the counts of errors that no record holds fall by a reset alone. -/
def Moves (s t : State) : Prop := Carried s t ∧ (Counts s t ∨ t.boot.phase = .off ∧ t.integ.unlogged = [0, 0, 0, 0])

/-- What is held, field by field. -/
structure Held where
  pending : List Instr
  out : List Out
  frames : List TxFrame
  mems : Mems
  unlogged : List W64
  seed : Buf
  fwKey0 : Buf
  fwKey1 : Buf
  serial : W64
  mac : BitVec 48
  identityKey : Buf
  half : Bool
  rollback : Nat
  revoke : BitVec 2

/-- The boot state's part of what is held, with the rest given. -/
abbrev Boot.held (b : Boot) (pending : List Instr) (out : List Out) (frames : List TxFrame) (mems : Mems) (unlogged : List W64) : Held :=
  ⟨pending, out, frames, mems, unlogged, b.seed, b.fwKey0, b.fwKey1, b.serial, b.mac, b.identityKey, b.half, b.rollback, b.revoke⟩

abbrev State.held (s : State) : Held := s.boot.held s.pending s.out s.frames s.mems s.integ.unlogged

section

variable {s t r : State}

theorem SameIdentity.trans (h : SameIdentity s t) (k : SameIdentity t r) : SameIdentity s r := by
  obtain ⟨hs, h0, h1, hn, hm, hi, hh⟩ := h
  obtain ⟨ks, k0, k1, kn, km, ki, kh⟩ := k
  refine ⟨ks.trans hs, k0.trans h0, k1.trans h1, kn.trans hn, km.trans hm, ?_, kh.trans hh⟩
  rw [hs] at ki
  obtain ki | ki := ki
  · rw [ki]
    exact hi
  · exact .inr ki

theorem Carried.refl (s : State) : Carried s s :=
  ⟨rfl, List.suffix_refl _, List.suffix_refl _, id, ⟨rfl, rfl, rfl, rfl, rfl, .inl rfl, rfl⟩, Nat.le_refl _, fun _ h => h⟩

theorem Carried.trans (h : Carried s t) (k : Carried t r) : Carried s r :=
  ⟨k.pending.trans h.pending, h.out.trans k.out, h.frames.trans k.frames, fun m => k.mems (h.mems m), h.identity.trans k.identity,
    Nat.le_trans h.rollback k.rollback, fun i hi => k.revoke i (h.revoke i hi)⟩

theorem Counts.trans (h : Counts s t) (k : Counts t r) : Counts s r := fun i => Nat.le_trans (h i) (k i)

theorem Steady.trans (h : Steady s t) (k : Steady t r) : Steady s r := ⟨h.1.trans k.1, h.2.trans k.2⟩

/-- A state that agrees on what is held, the memories apart. -/
theorem Steady.of_held {m : Mems} (e : r.boot.held r.pending r.out r.frames m r.integ.unlogged = t.boot.held t.pending t.out t.frames m t.integ.unlogged)
    (hm : MemoriesCanonical t → MemoriesCanonical r) : Steady t r := by
  injection e with hq ho hf _ hu hs h0 h1 hn ha hi hh hb hv
  exact ⟨⟨hq, ho ▸ List.suffix_refl _, hf ▸ List.suffix_refl _, hm, ⟨hs, h0, h1, hn, ha, .inl hi, hh⟩, Nat.le_of_eq hb.symm, fun _ h => hv ▸ h⟩,
    fun _ => Nat.le_of_eq (by rw [hu])⟩

section

variable {power : Power} {boot : Boot} {hp : HostPort} {sasel : Sasel} {queues : List Queue} {work : Work} {idx : Indexes} {ans : Answers}
  {img : Images} {loom : Loom} {mems : Mems} {tiers : Tiers} {tables : Tables} {grafts : Grafts} {flash : Flash} {fabric : Fabric}
  {integ : Integrity} {fail : Failover} {out : List Out} {frames : List TxFrame} {txHeld : List Out} {pclk : W64} {free : Nat}
  {pending : List Instr}

/-- A store into the memories; the state is written out, so that a held field is compared by itself. -/
theorem Steady.store (h : Steady s t) (e : boot.held pending out frames t.mems integ.unlogged = t.held)
    (hm : MemoriesCanonical t → mems.hbm.wf = true ∧ mems.tile.wf = true ∧ mems.cc.wf = true) :
    Steady s (.mk power boot hp sasel queues work idx ans img loom mems tiers tables grafts flash fabric integ fail out frames txHeld pclk free
      pending) :=
  h.trans (.of_held e hm)

/-- An update of fields that are not held. -/
theorem Steady.set (h : Steady s t) (e : boot.held pending out frames mems integ.unlogged = t.held) :
    Steady s (.mk power boot hp sasel queues work idx ans img loom mems tiers tables grafts flash fabric integ fail out frames txHeld pclk free
      pending) := by
  have hm : mems = t.mems := congrArg Held.mems e
  subst hm
  exact .store h e id

/-- An update of fields that are not held, after a reset too. -/
theorem Moves.set (h : Moves s t) (e : boot.held pending out frames mems integ.unlogged = t.held) (hp' : boot.phase = t.boot.phase) :
    Moves s (.mk power boot hp sasel queues work idx ans img loom mems tiers tables grafts flash fabric integ fail out frames txHeld pclk free
      pending) := by
  obtain ⟨carried, counts⟩ := h
  obtain ⟨kept, same⟩ := Steady.set ⟨Carried.refl t, fun _ => Nat.le_refl _⟩ e
  refine ⟨carried.trans kept, ?_⟩
  obtain counts | ⟨off, clear⟩ := counts
  · exact .inl (counts.trans same)
  · exact .inr ⟨hp'.trans off, (congrArg Held.unlogged e).trans clear⟩

end

namespace Steady

theorem refl : Steady s s := ⟨.refl s, fun _ => Nat.le_refl _⟩

theorem ite {c : Prop} [Decidable c] {a b : State} (ha : Steady s a) (hb : Steady s b) : Steady s (if c then a else b) := by
  split
  · exact ha
  · exact hb

theorem foldl {α : Type} {f : State → α → State} {l : List α} (h : Steady s t) (hf : ∀ r x, Steady s r → Steady s (f r x)) :
    Steady s (l.foldl f t) := by
  induction l generalizing t with
  | nil => exact h
  | cons x l ih => exact ih (hf t x h)

/-! The rules for a state that stands in a pair with something else. -/

theorem fst {α : Type} {a : α} (h : Steady s t) : Steady s (t, a).1 := h

theorem snd {α : Type} {a : α} (h : Steady s t) : Steady s (a, t).2 := h

theorem iteOf {σ : Type} (p : σ → State) {c : Prop} [Decidable c] {a b : σ} (ha : Steady s (p a)) (hb : Steady s (p b)) :
    Steady s (p (if c then a else b)) := by
  split
  · exact ha
  · exact hb

theorem foldlOf {α σ : Type} (p : σ → State) {f : σ → α → σ} {l : List α} {x : σ} (h : Steady s (p x))
    (hf : ∀ y a, Steady s (p y) → Steady s (p (f y a))) : Steady s (p (l.foldl f x)) := by
  induction l generalizing x with
  | nil => exact h
  | cons a l ih => exact ih (hf x a h)

/-! ### What leaves the sled, and errors -/

theorem putFrame {o : Out} (h : Steady s t) : Steady s (t.putFrame o) := by
  unfold State.putFrame
  split
  · refine h.trans ⟨?_, fun _ => Nat.le_refl _⟩
    exact { Carried.refl t with frames := List.suffix_cons _ _ }
  · exact h

theorem toPort {o : Out} (h : Steady s t) : Steady s (t.toPort o) :=
  .ite (.set h rfl) (.putFrame h)

theorem emit {o : Out} (h : Steady s t) : Steady s (t.emit o) := by
  have sent : Steady s { t with out := o :: t.out } :=
    h.trans ⟨{ Carried.refl t with out := List.suffix_cons _ _ }, fun _ => Nat.le_refl _⟩
  unfold State.emit
  dsimp only
  split
  · exact .set (.toPort sent) rfl
  · exact .toPort sent

theorem toNat_satInc_ge {w : Nat} (n : BitVec w) : n.toNat ≤ (satInc n).toNat := by
  unfold satInc
  split
  · exact Nat.le_refl _
  · next h =>
    have lt : n.toNat + 1 < 2 ^ w := by
      have := n.isLt
      have ne : n.toNat ≠ 2 ^ w - 1 := fun e => h (BitVec.eq_of_toNat_eq (by rw [e, BitVec.toNat_allOnes]))
      omega
    rw [BitVec.toNat_add, BitVec.toNat_ofNat, Nat.mod_eq_of_lt (a := 1) (by omega), Nat.mod_eq_of_lt lt]
    exact Nat.le_succ _

theorem getD_modAt_satInc (l : List W64) (i k : Nat) : (l.getD k 0).toNat ≤ ((modAt l i satInc).getD k 0).toNat := by
  rw [List.getD_eq_getElem?_getD, List.getD_eq_getElem?_getD, getElem_modAt]
  cases hk : l[k]? with
  | none => simp
  | some x =>
    by_cases e : k = i
    · simpa [e] using toNat_satInc_ge x
    · simp [e]

theorem logError {e : ErrEvent} (h : Steady s t) : Steady s (t.logError e) := by
  unfold State.logError
  dsimp only
  split
  · exact .set h rfl
  · split
    · exact .set h rfl
    · exact h.trans ⟨⟨rfl, List.suffix_refl _, List.suffix_refl _, id, ⟨rfl, rfl, rfl, rfl, rfl, .inl rfl, rfl⟩, Nat.le_refl _, fun _ h => h⟩,
        fun k => getD_modAt_satInc _ _ k⟩

end Steady

/-! ### Resets and outcomes -/

namespace Moves

theorem of (h : Steady s t) : Moves s t := ⟨h.1, .inl h.2⟩

theorem ite {c : Prop} [Decidable c] {a b : State} (ha : Moves s a) (hb : Moves s b) : Moves s (if c then a else b) := by
  split
  · exact ha
  · exact hb

end Moves

/-- The next state, when a command answers one. -/
def Stays (s : State) : Outcome → Prop
  | .next t => Moves s t
  | _ => True

theorem Stays.next (h : Steady s t) : Stays s (.next t) := .of h

end

/-! ### Stores into the memories -/

theorem Memory.wf_foldl {α : Type} {f : Memory → α → Memory} (hf : ∀ m x, m.wf = true → (f m x).wf = true) : ∀ (l : List α) (m : Memory),
    m.wf = true → (l.foldl f m).wf = true
  | [], _, h => h
  | x :: l, m, h => Memory.wf_foldl hf l (f m x) (hf m x h)

end Sys2Proof.Machine
end

section
/-! PROOFS. Each function of the state keeps what is held, in the order of the model. -/

namespace Sys2Proof.Machine

open Sys2Proof

variable {s t : State}

/-! ### Ops -/

theorem Steady.event (h : Steady s t) : Steady s (t.event.2) := by
  unfold State.event
  exact .snd (.set h rfl)

theorem Steady.fresh (h : Steady s t) : Steady s (t.fresh.2) := by
  unfold State.fresh
  exact .snd (.set h rfl)

theorem Steady.setReady {i : Nat} {b : Bool} (h : Steady s t) : Steady s (t.setReady i b) := by
  unfold State.setReady
  dsimp only
  exact .set h rfl

theorem Steady.finish {sid : Nat} {r : Result} (h : Steady s t) : Steady s (t.finish sid r) :=
  .set h rfl

theorem Steady.failWith {sid : Nat} {st : Status} (h : Steady s t) : Steady s (t.failWith sid st) :=
  .set h rfl

theorem Steady.setQueue {q : Queue} (h : Steady s t) : Steady s (t.setQueue q) :=
  .set h rfl

theorem Steady.modQueue {i : Nat} {f : Queue → Queue} (h : Steady s t) : Steady s (t.modQueue i f) :=
  .set h rfl

theorem Steady.modConn {hm : W32} {f : Conn → Conn} (h : Steady s t) : Steady s (t.modConn hm f) := by
  unfold State.modConn
  dsimp only
  exact .set h rfl

theorem Steady.resume (h : Steady s t) : Steady s t.resume := by
  unfold State.resume
  dsimp only
  exact .foldl (.set h rfl) (fun _ _ h' => .putFrame h')

theorem Steady.emits {os : List Out} (h : Steady s t) : Steady s (t.emits os) :=
  .foldl h (fun _ _ h' => .emit h')

theorem Steady.writeB {u : Sub} {bytes : Buf} (h : Steady s t) : Steady s (t.writeB u bytes) := by
  unfold State.writeB
  dsimp only
  split
  · exact .ite (.set h rfl) (.emit h)
  · exact .emit h

theorem Steady.writeB2 {u : Sub} {bytes : Buf} (h : Steady s t) : Steady s (t.writeB2 u bytes) :=
  .emit h

/-! ### Flags -/

theorem Steady.unitFail {unitType unitIndex source : Nat} (h : Steady s t) : Steady s (t.unitFail unitType unitIndex source) :=
  .logError h

/-! ### Place -/

theorem Steady.writeSystemByte {a : Nat} {v : Byte} (h : Steady s t) : Steady s (t.writeSystemByte a v) := by
  refine .store h rfl fun ⟨hh, ht, hc⟩ => ⟨?_, ht, hc⟩
  dsimp only
  split
  · exact Memory.wf_writeBytes _ _ _ hh
  · exact Memory.wf_writeBytes _ _ _ (Memory.wf_writeBytes _ _ _ hh)

theorem Steady.writeSystem {a : Nat} {b : Buf} (h : Steady s t) : Steady s (t.writeSystem a b) :=
  .foldl h (fun _ _ h' => .writeSystemByte h')

theorem Steady.modFlash {f : Flash → Flash} (h : Steady s t) : Steady s (t.modFlash f) :=
  .set h rfl

theorem Steady.modChannel {c : Nat} {f : Channel → Channel} (h : Steady s t) : Steady s (t.modChannel c f) :=
  .set h rfl

theorem Steady.putEntry {a : Nat} {b : Buf} (h : Steady s t) : Steady s (t.putEntry a b) :=
  .writeSystem (.set h rfl)

theorem Steady.writeEntry {o : FlashObj} {e : Nat} (h : Steady s t) : Steady s (t.writeEntry o e) := by
  unfold State.writeEntry
  split
  · exact h
  · exact .putEntry h

theorem Steady.growArray {o : FlashObj} {e : Nat} (h : Steady s t) : Steady s (t.growArray o e) := by
  unfold State.growArray
  dsimp only
  refine .ite h (.foldl (.modFlash (.foldl h (fun _ _ h' => ?_))) (fun _ _ h' => .writeEntry h'))
  split
  · exact .putEntry h'
  · exact h'

theorem Steady.syncEntry {obj : W64} {e : Nat} (h : Steady s t) : Steady s (t.syncEntry obj e) := by
  unfold State.syncEntry
  dsimp only
  split
  · exact h
  · split
    · exact .writeEntry (.growArray h)
    · exact .growArray h

theorem Steady.mapPut {m : MapEntry} (h : Steady s t) : Steady s (t.mapPut m) :=
  .syncEntry (.set h rfl)

theorem Steady.mapDrop {obj : W64} {e : Nat} (h : Steady s t) : Steady s (t.mapDrop obj e) :=
  .ite h (.syncEntry (.set h rfl))

/-! ### Submit -/

theorem Steady.modClient {i : Nat} {f : Client → Client} (h : Steady s t) : Steady s (t.modClient i f) := by
  unfold State.modClient
  dsimp only
  exact .set h rfl

theorem Steady.moveDesc {n : Nat} {hm : Option DescHolder} (h : Steady s t) : Steady s (t.moveDesc n hm) := by
  unfold State.moveDesc
  dsimp only
  exact .set h rfl

theorem Steady.handOverDescs {failed : DescUnit} {heir : Option DescUnit} (h : Steady s t) : Steady s (t.handOverDescs failed heir) :=
  .foldl h (fun _ _ h' => .set h' rfl)

theorem Steady.acceptDestroy {u : Sub} (h : Steady s t) : Steady s (t.acceptDestroy u) := by
  unfold State.acceptDestroy
  split
  · exact .set h rfl
  · exact h

theorem Steady.acceptRelease {u : Sub} (h : Steady s t) : Steady s (t.acceptRelease u) := by
  unfold State.acceptRelease
  dsimp only
  exact .ite (.set h rfl) (.ite (.set h rfl) (.ite (.set h rfl) (.set h rfl)))

theorem Steady.modGraft {i : Nat} {f : Graft → Graft} (h : Steady s t) : Steady s (t.modGraft i f) := by
  unfold State.modGraft
  dsimp only
  exact .set h rfl

theorem Steady.endGraft {i : Nat} {c : StopCause} (h : Steady s t) : Steady s (t.endGraft i c) := by
  unfold State.endGraft
  dsimp only
  split
  · exact h
  · refine .ite h (.modGraft (.foldl ?_ (fun _ _ h' => .set h' rfl)))
    split
    · exact .finish (.ite (.fresh h) h)
    · exact .ite (.fresh h) h

theorem Steady.askStop {i : Nat} {sid : Option Nat} (h : Steady s t) : Steady s (t.askStop i sid) := by
  unfold State.askStop
  dsimp only
  split
  · exact h
  · exact .ite h (.ite (.endGraft (.set h rfl)) (.set h rfl))

theorem Steady.acceptEffect {u : Sub} (h : Steady s t) : Steady s (t.acceptEffect u) := by
  unfold State.acceptEffect
  dsimp only
  exact .ite h (.ite (.acceptDestroy h) (.ite (.acceptRelease h) (.ite (.set h rfl) (.ite (.set h rfl) (.ite (.foldl (.set h rfl)
      (fun _ _ h' => .askStop h')) h)))))

theorem Steady.accept {origin : Origin} {conn : W32} {client : Nat} {e : Entry} {copied : Buf} (h : Steady s t) :
    Steady s ((t.accept origin conn client e copied).2) := by
  unfold State.accept
  refine .snd (.acceptEffect (.modClient ?_))
  split
  · exact .moveDesc (.set (.event h) rfl)
  · exact .set (.event h) rfl

theorem Steady.run {sid opcode : Nat} {body : Sub → State → State} (h : Steady s t) (hk : ∀ x1 z, Steady s z → Steady s (body x1 z)) :
    Steady s (t.run sid opcode body) := by
  unfold State.run
  split
  · exact .ite (hk _ _ h) h
  · exact h

theorem Steady.runNow {sid opcode : Nat} {body : Sub → State → State} (h : Steady s t) (hk : ∀ x1 z, Steady s z → Steady s (body x1 z)) :
    Steady s (t.runNow sid opcode body) := by
  unfold State.runNow
  split
  · exact .ite (hk _ _ h) h
  · exact h

theorem Steady.settle {u : Sub} {errs : List Status} {effect : State → State} (h : Steady s t) (hk : ∀ z, Steady s z → Steady s (effect z)) :
    Steady s (t.settle u errs effect) := by
  unfold State.settle
  split
  · exact hk _ h
  · exact .set h rfl

theorem Steady.complete {u : Sub} {result0 result1 : W64} (h : Steady s t) : Steady s (t.complete u result0 result1) :=
  .set h rfl

theorem Steady.completeOk {u : Sub} (h : Steady s t) : Steady s (t.completeOk u) :=
  .set h rfl

theorem Steady.closeSessions {p : Session → Bool} (h : Steady s t) : Steady s (t.closeSessions p) := by
  unfold State.closeSessions
  dsimp only
  exact .set h rfl

theorem Steady.connError {conn : W32} {own : Option Nat} (h : Steady s t) : Steady s (t.connError conn own) := by
  unfold State.connError
  dsimp only
  split
  · exact h
  · exact .ite h (.set h rfl)

theorem Steady.accessError {u : Sub} (h : Steady s t) : Steady s (t.accessError u) :=
  .failWith (.connError h)

theorem Steady.withB {u : Sub} {delivered : Option Buf} {k : Buf → State} (h : Steady s t) (hk : ∀ x1, Steady s (k x1)) :
    Steady s (t.withB u delivered k) := by
  unfold State.withB
  refine .ite (.set h rfl) ?_
  split
  · exact hk _
  · exact .ite (.set h rfl) (.accessError h)

theorem Steady.report {u : Sub} {ok : Bool} {bytes : Buf} {r : State → State} (h : Steady s t) (hk : ∀ z, Steady s z → Steady s (r z)) :
    Steady s (t.report u ok bytes r) :=
  .ite (.ite (hk _ (.writeB h)) (.set h rfl)) (.ite (hk _ (.writeB h)) (.accessError h))

theorem Steady.releaseConn {conn : W32} (h : Steady s t) : Steady s (t.releaseConn conn) := by
  unfold State.releaseConn
  dsimp only
  split
  · exact h
  · exact .set (.closeSessions (.connError h)) rfl

theorem Steady.pushCompletion {i : Nat} {r : Result} {tag : W32} (h : Steady s t) : Steady s (t.pushCompletion i r tag) := by
  unfold State.pushCompletion
  dsimp only
  exact .ite (.set h rfl) (.emit (.set h rfl))

theorem Steady.settleDestroy {i : Nat} (h : Steady s t) : Steady s (t.settleDestroy i) := by
  unfold State.settleDestroy
  dsimp only
  split
  · exact h
  · split
    · exact h
    · exact .ite (.complete (.ite h (.set h rfl))) h

theorem Steady.enterQuarantine {u : Sub} (h : Steady s t) : Steady s (t.enterQuarantine u) := by
  unfold State.enterQuarantine
  dsimp only
  exact .ite (.ite (.set h rfl) h) h

theorem Steady.writeCompletion {sid : Nat} (h : Steady s t) : Steady s (t.writeCompletion sid) := by
  unfold State.writeCompletion
  dsimp only
  split
  · exact h
  · refine .ite (.set h rfl) ?_
    split
    · exact h
    · split
      · refine .settleDestroy (.enterQuarantine (.pushCompletion ?_))
        split
        · exact .moveDesc (.ite (.set h rfl) (.set h rfl))
        · exact .ite (.set h rfl) (.set h rfl)
      · refine .enterQuarantine (.set ?_ rfl)
        split
        · exact .moveDesc (.ite (.set h rfl) (.set h rfl))
        · exact .ite (.set h rfl) (.set h rfl)

/-! ### ConfigFlash -/

theorem Steady.cfgProgram {a : Nat} {v : W32} (h : Steady s t) : Steady s (t.cfgProgram a v) := by
  unfold State.cfgProgram
  dsimp only
  exact .ite h (.set h rfl)

theorem Steady.cfgErase {sector : Nat} (h : Steady s t) : Steady s (t.cfgErase sector) := by
  unfold State.cfgErase
  dsimp only
  exact .set h rfl

theorem Steady.cfgEraseAll {sectors : List Nat} (h : Steady s t) : Steady s (t.cfgEraseAll sectors) :=
  .foldl h (fun _ _ h' => .set h' rfl)

theorem Steady.ctrIncrement {c : Nat} (h : Steady s t) : Steady s (t.ctrIncrement c) := by
  unfold State.ctrIncrement
  dsimp only
  refine .ite h ?_
  split
  · exact h
  · exact .ite (.cfgProgram h) (.cfgErase (.cfgProgram (.cfgProgram (.cfgErase (.cfgProgram h)))))

theorem Steady.cfgProgramList {ws : List (Nat × W32)} {bad : Option (Nat × W32)} (h : Steady s t) : Steady s (t.cfgProgramList ws bad) := by
  unfold State.cfgProgramList
  split
  · exact .foldl h (fun _ _ h' => .cfgProgram h')
  · exact .foldl (.foldl h (fun _ _ h' => .cfgProgram h')) (fun _ _ h' => .cfgProgram h')

theorem Steady.itemWriteBad {item : Nat} {payload : Buf} {bad : Option (Nat × W32)} (h : Steady s t) :
    Steady s (t.itemWriteBad item payload bad) := by
  unfold State.itemWriteBad
  dsimp only
  exact .cfgProgramList (.cfgEraseAll h)

theorem Steady.itemWrite {item : Nat} {payload : Buf} (h : Steady s t) : Steady s (t.itemWrite item payload) :=
  .itemWriteBad h

/-! ### Reset -/

/-- A reset of the sled carries what every command carries, and clears the counts (R375). -/
theorem Moves.resetNow (h : Steady s t) : Moves s t.resetNow :=
  ⟨h.1.trans ⟨rfl, List.suffix_refl _, List.suffix_refl _, fun _ => ⟨rfl, rfl, rfl⟩, ⟨rfl, rfl, rfl, rfl, rfl, .inl rfl, rfl⟩, Nat.le_refl _, fun _ hi => hi⟩,
    .inr ⟨rfl, rfl⟩⟩

/-! ### Boot -/

theorem Steady.dropBits (h : Steady s t) : Steady s t.dropBits := by
  unfold State.dropBits
  dsimp only
  exact .foldl (.foldl h (fun _ _ h' => .ite (.set h' rfl) h')) (fun _ _ h' => .ite (.set h' rfl) h')

theorem Steady.changeReady {bit : Nat} (h : Steady s t) : Steady s (t.changeReady bit) :=
  .dropBits (.ite (.set h rfl) h)

theorem Steady.applyWaiting (h : Steady s t) : Steady s t.applyWaiting := by
  unfold State.applyWaiting
  dsimp only
  refine .foldl (.set h rfl) (fun _ _ h' => ?_)
  split
  · exact .ctrIncrement h'
  · exact .itemWrite h'

theorem Steady.startNow (h : Steady s t) : Steady s t.startNow := by
  have counted : Steady s ((t.ctrIncrement ctrResets).applyWaiting) := .applyWaiting (.ctrIncrement h)
  unfold State.startNow
  generalize (t.ctrIncrement ctrResets).applyWaiting = c at counted ⊢
  exact counted.trans ⟨⟨rfl, List.suffix_refl _, List.suffix_refl _, id, ⟨rfl, rfl, rfl, rfl, rfl, .inr rfl, rfl⟩, Nat.le_refl _, fun _ hi => hi⟩,
    fun _ => Nat.le_refl _⟩

theorem Stays.start : Stays s (execStart s) :=
  .next (.ite (.startNow .refl) .refl)

theorem Steady.runFirmware {hm : FwHeader} {digest : Buf} (h : Steady s t) : Steady s (t.runFirmware hm digest) := by
  obtain ⟨words, flags, epoch, plot, m1, m3, e⟩ := runFirmware_frame t hm digest
  rw [e]
  generalize extend t.boot.m0 digest = m0
  exact .set h rfl

theorem Stays.firmwareImageCheck {sigOk : Bool} : Stays s (execFirmwareImageCheck sigOk s) := by
  unfold execFirmwareImageCheck
  dsimp only
  exact .next (.ite (.ite (.runFirmware .refl) (.set .refl rfl)) .refl)

theorem Stays.rollbackFuseBlow : Stays s (execRollbackFuseBlow s) :=
  .next (.ite ⟨{ Carried.refl s with rollback := Nat.le_succ _ }, fun _ => Nat.le_refl _⟩ .refl)

theorem BitsStay.setBit (v : BitVec 2) (k : Nat) : BitsStay v (setBit v k true) := fun i hi => by
  simp [Machine.setBit, hi]

theorem Stays.revokeFuseBlow {key : Nat} : Stays s (execRevokeFuseBlow key s) :=
  .next (.ite ⟨{ Carried.refl s with revoke := BitsStay.setBit _ _ }, fun _ => Nat.le_refl _⟩ .refl)

theorem Stays.configReadWord {addr : Nat} : Stays s (execConfigReadWord addr s) :=
  .next (.ite (.emit .refl) .refl)

theorem Stays.configProgramWord {addr : Nat} {value : W32} : Stays s (execConfigProgramWord addr value s) :=
  .next (.ite (.cfgProgram .refl) .refl)

theorem Stays.configEraseSector {sector : Nat} : Stays s (execConfigEraseSector sector s) :=
  .next (.ite (.set .refl rfl) .refl)

theorem Steady.count {c : Nat} (h : Steady s t) : Steady s (t.count c) := by
  unfold State.count
  dsimp only
  exact .ite (.set h rfl) (.ctrIncrement h)

theorem Steady.writeItem {item : Nat} {payload : Buf} {bad : Option (Nat × W32)} (h : Steady s t) : Steady s (t.writeItem item payload bad) := by
  unfold State.writeItem
  dsimp only
  exact .ite (.set h rfl) (.itemWriteBad h)

theorem Stays.configItemWrite {item : Nat} {payload : Buf} {bad : Option (Nat × W32)} : Stays s (execConfigItemWrite item payload bad s) :=
  .next (.ite (.writeItem .refl) .refl)

theorem Stays.counterIncrement {counter : Nat} : Stays s (execCounterIncrement counter s) := by
  unfold execCounterIncrement
  dsimp only
  exact .next (.ite (.ite (.set (.count .refl) rfl) (.count .refl)) .refl)

theorem Stays.poweredHoursTimer : Stays s (execPoweredHoursTimer s) :=
  .next (.count .refl)

theorem Stays.eraseFlagRepair : Stays s (execEraseFlagRepair s) := by
  unfold execEraseFlagRepair
  dsimp only
  exact .next (.ite (.set (.cfgEraseAll .refl) rfl) .refl)

theorem Steady.programImage {u : Sub} {img : FwImage} {n : Nat} {recovery : Bool} {bad : Option (Nat × W32)} (h : Steady s t) :
    Steady s (t.programImage u img n recovery bad) := by
  unfold State.programImage
  dsimp only
  exact .set (.cfgProgramList (.cfgEraseAll h)) rfl

theorem Steady.endProgram {u : Sub} {bad : Option (Nat × W32)} (h : Steady s t) : Steady s (t.endProgram u bad) :=
  .ite (.set h rfl) (.set h rfl)

theorem Stays.updateFirmware {sid : Nat} {img : Option FwImage} {bad : Option (Nat × W32)} : Stays s (execUpdateFirmware sid img bad s) := by
  unfold execUpdateFirmware
  dsimp only
  refine .next (.run .refl (fun _ _ h' => .ite ?_ h'))
  split
  · exact .accessError h'
  · exact .settle h' (fun _ h'' => .endProgram (.programImage h''))

theorem Stays.updateFirmwareRecovery {sid : Nat} {img : Option FwImage} {bad : Option (Nat × W32)} :
    Stays s (execUpdateFirmwareRecovery sid img bad s) := by
  unfold execUpdateFirmwareRecovery
  refine .next (.run .refl (fun _ _ h' => .ite ?_ h'))
  split
  · exact .accessError h'
  · exact .settle h' (fun _ h'' => .endProgram (.programImage h''))

theorem Stays.recoveryReset : Stays s (execRecoveryReset s) := by
  unfold execRecoveryReset
  exact Moves.ite (.resetNow .refl) (.of .refl)

theorem Stays.attest {sid : Nat} {ok : Bool} : Stays s (execAttest sid ok s) := by
  unfold execAttest
  dsimp only
  exact .next (.run .refl (fun _ _ h' => .settle h' (fun _ h'' => .report (.fresh h'') (fun _ h''' => .set h''' rfl))))

/-! ### Admin -/

theorem Steady.control {conn : W32} {m : Nat} {control : W64} (h : Steady s t) : Steady s (t.control conn m control) := by
  unfold State.control
  dsimp only
  split
  · exact h
  · exact .ite (.set h rfl) (.ite (.set h rfl) (.ite (.set h rfl) (.ite (.accept (.set h rfl)) (.set h rfl))))

theorem Stays.mailboxControl {conn : W32} {slot : Nat} {control : W64} : Stays s (execMailboxControl conn slot control s) :=
  .next (.ite (.control .refl) .refl)

theorem Stays.sessionBegin {sid : Nat} {nonce : Buf} {ok : Bool} : Stays s (execSessionBegin sid nonce ok s) := by
  unfold execSessionBegin
  dsimp only
  exact .next (.run .refl (fun _ _ h' => .settle h' (fun _ h'' => .report h'' (fun _ h''' => .set h''' rfl))))

theorem Steady.openSession {u : Sub} (h : Steady s t) : Steady s (t.openSession u) := by
  unfold State.openSession
  dsimp only
  split
  · exact h
  · exact .set h rfl

theorem Stays.sessionProve {sid : Nat} {signature : Option Buf} {verifies : Bool} : Stays s (execSessionProve sid signature verifies s) := by
  unfold execSessionProve
  dsimp only
  exact .next (.run .refl (fun _ _ h' => .withB (.set h' rfl) (fun _ => .settle (.set h' rfl) (fun _ h'' => .openSession h''))))

theorem Stays.closeSession {sid : Nat} : Stays s (execCloseSession sid s) :=
  .next (.run .refl (fun _ _ h' => .settle h' (fun _ h'' => .set h'' rfl)))

theorem Stays.grant {sid : Nat} : Stays s (execGrant sid s) := by
  unfold execGrant
  dsimp only
  exact .next (.run .refl (fun _ _ h' => .ite (.settle h' (fun _ h'' => .set h'' rfl)) h'))

theorem Stays.revoke {sid : Nat} : Stays s (execRevoke sid s) := by
  unfold execRevoke
  dsimp only
  exact .next (.run .refl (fun _ _ h' => .ite h' (.settle h' (fun _ h'' => .set h'' rfl))))

theorem Stays.enrolKey {sid : Nat} {b : Option Buf} {bad : Option (Nat × W32)} : Stays s (execEnrolKey sid b bad s) := by
  unfold execEnrolKey
  dsimp only
  exact .next (.ite .refl (.run .refl (fun _ _ h' => .withB h' (fun _ => .settle h' (fun _ h'' => .ite (.failWith (.itemWriteBad h''))
      (.completeOk (.ite (.closeSessions (.set (.itemWriteBad h'') rfl)) (.set (.itemWriteBad h'') rfl))))))))

theorem Steady.applyHp {hm : HpSettings} (h : Steady s t) : Steady s (t.applyHp hm) := by
  unfold State.applyHp
  dsimp only
  exact .ite (.resume (.set h rfl)) (.set h rfl)

theorem Stays.setHostport {sid : Nat} {b : Option Buf} {bad : Option (Nat × W32)} : Stays s (execSetHostport sid b bad s) := by
  unfold execSetHostport
  dsimp only
  exact .next (.ite .refl (.run .refl (fun _ _ h' => .withB h' (fun _ => .settle h' (fun _ h'' => .ite (.failWith (.itemWriteBad h''))
      (.completeOk (.applyHp (.set (.itemWriteBad h'') rfl))))))))

theorem Stays.flashPolicy {sid : Nat} : Stays s (execFlashPolicy sid s) := by
  unfold execFlashPolicy
  dsimp only
  exact .next (.run .refl (fun _ _ h' => .settle h' (fun _ h'' => .set h'' rfl)))

theorem Stays.resetSled {sid : Nat} : Stays s (execResetSled sid s) := by
  unfold execResetSled
  dsimp only
  exact .next (.run .refl (fun _ _ h' => .settle h' (fun _ h'' => .set h'' rfl)))

/-! ### Contexts -/

theorem Steady.modCtx {i : Nat} {f : Ctx → Ctx} (h : Steady s t) : Steady s (t.modCtx i f) := by
  unfold State.modCtx
  dsimp only
  exact .set h rfl

theorem Steady.seatFirst {slot : Nat} {l : List Ctx} (h : Steady s t) : Steady s (t.seatFirst slot l) := by
  induction l generalizing t with
  | nil => exact h
  | cons c l ih =>
    unfold State.seatFirst
    split
    · exact .set h rfl
    · exact ih (.set h rfl)

theorem Steady.fillSlotsN {n : Nat} (h : Steady s t) : Steady s (State.fillSlotsN n t) := by
  induction n generalizing t with
  | zero => exact h
  | succ n ih =>
    unfold State.fillSlotsN
    split
    · exact h
    · exact .ite h (ih (.seatFirst h))

theorem Steady.fillSlots (h : Steady s t) : Steady s t.fillSlots :=
  .fillSlotsN h

theorem Steady.scramble {c : Ctx} (h : Steady s t) : Steady s (t.scramble c) := by
  unfold State.scramble
  split
  · exact h
  · refine .store h rfl fun ⟨hh, ht, hc⟩ => ⟨hh, ?_, Memory.wf_writeBytes _ _ _ hc⟩
    dsimp only
    exact Memory.wf_foldl (fun _ _ hm => Memory.wf_writeBytes _ _ _ hm) _ _ ht

theorem Steady.loadEpi {c : Ctx} (h : Steady s t) : Steady s (t.loadEpi c) := by
  unfold State.loadEpi
  split
  · exact .store h rfl fun ⟨hh, ht, hc⟩ => ⟨hh, ht, Memory.wf_writeBytes _ _ _ hc⟩
  · exact h

theorem Steady.bound {m : Model} {u : Sub} {ctx : W32} (h : Steady s t) : Steady s (t.bound m u ctx) := by
  unfold State.bound
  dsimp only
  exact .set h rfl

theorem Steady.seatService {m : Model} {i slot : Nat} {tb cb knot : Nat} (h : Steady s t) : Steady s (t.seatService m i slot tb cb knot) := by
  unfold State.seatService
  dsimp only
  exact .loadEpi (.scramble (.set h rfl))

theorem Steady.settleBind {m : Model} (h : Steady s t) : Steady s (t.settleBind m) := by
  unfold State.settleBind
  split
  · split
    · exact h
    · refine .ite h (.ite (.set h rfl) ?_)
      split
      · exact .bound (.seatService h)
      · exact h
  · exact h

theorem Steady.settleBinds (h : Steady s t) : Steady s t.settleBinds :=
  .foldl h (fun _ _ h' => .settleBind h')

theorem Steady.schedule (h : Steady s t) : Steady s t.schedule :=
  .fillSlots (.settleBinds (.set h rfl))

theorem Steady.restorePiece {c : Ctx} {p : Nat × Nat × Buf} (h : Steady s t) : Steady s (t.restorePiece c p) :=
  .ite (.store h rfl fun ⟨hh, ht, hc⟩ => ⟨hh, Memory.wf_writeBytes _ _ _ ht, hc⟩)
    (.store h rfl fun ⟨hh, ht, hc⟩ => ⟨hh, ht, Memory.wf_writeBytes _ _ _ hc⟩)

theorem Steady.faultCtx {i : Nat} {cause : TearCause} {layer : W16} (h : Steady s t) : Steady s (t.faultCtx i cause layer) :=
  .set h rfl

theorem Steady.freeKnotsOf {c : Ctx} (h : Steady s t) : Steady s (t.freeKnotsOf c) := by
  unfold State.freeKnotsOf
  dsimp only
  exact .set h rfl

theorem Steady.clearCtx {c : Ctx} (h : Steady s t) : Steady s (t.clearCtx c) := by
  unfold State.clearCtx
  dsimp only
  exact .set h rfl

theorem Steady.freshService {c : Ctx} (h : Steady s t) : Steady s (t.freshService c) := by
  unfold State.freshService
  dsimp only
  split
  · exact .set h rfl
  · exact h

theorem Steady.tornReqs {sids : List Nat} (h : Steady s t) : Steady s (t.tornReqs sids) := by
  unfold State.tornReqs
  dsimp only
  exact .set h rfl

theorem Steady.removeCtx {i : Nat} (h : Steady s t) : Steady s (t.removeCtx i) := by
  unfold State.removeCtx
  dsimp only
  exact .set h rfl

theorem Steady.settleCtxDestroy {i : Nat} (h : Steady s t) : Steady s (t.settleCtxDestroy i) := by
  unfold State.settleCtxDestroy
  split
  · split
    · refine .ite ?_ h
      split
      · exact .set h rfl
      · exact .set h rfl
    · exact h
  · exact h

theorem Stays.contextSaveComplete {ctx : Nat} : Stays s (execContextSaveComplete ctx s) := by
  unfold execContextSaveComplete
  dsimp only
  refine .next ?_
  split
  · exact .ite (.schedule (.set .refl rfl)) .refl
  · exact .refl

theorem Stays.createContext {sid : Nat} : Stays s (execCreateContext sid s) := by
  unfold execCreateContext
  dsimp only
  refine .next (.run .refl (fun _ _ h' => .settle h' (fun _ h'' => ?_)))
  split
  · exact .set h'' rfl
  · exact h''

theorem Stays.destroyContext {sid : Nat} : Stays s (execDestroyContext sid s) := by
  unfold execDestroyContext
  refine .next (.run .refl (fun _ _ h' => ?_))
  split
  · exact .settle h' (fun _ h'' => h'')
  · exact .settle h' (fun _ h'' => .ite (.set h'' rfl) (.set h'' rfl))

theorem Stays.queryContext {sid : Nat} {ok : Bool} : Stays s (execQueryContext sid ok s) := by
  unfold execQueryContext
  refine .next (.run .refl (fun _ _ h' => .settle h' (fun _ h'' => ?_)))
  split
  · exact .set h'' rfl
  · exact .report h'' (fun _ h''' => .set h''' rfl)

theorem Stays.runEntry {sid : Nat} {input : Option Buf} : Stays s (execRunEntry sid input s) := by
  unfold execRunEntry
  dsimp only
  refine .next (.run .refl (fun _ _ h' => .withB h' (fun _ => ?_)))
  split
  · exact .settle h' (fun _ h'' => h'')
  · refine .settle h' (fun _ h'' => ?_)
    split
    · exact h''
    · exact .ite (.completeOk (.writeB2 (.set h'' rfl))) (.schedule (.set h'' rfl))

theorem Stays.contextRestoreComplete {ctx : Nat} : Stays s (execContextRestoreComplete ctx s) := by
  unfold execContextRestoreComplete
  dsimp only
  refine .next ?_
  split
  · exact .ite (.fillSlots (.modCtx (.ite (.loadEpi (.scramble .refl)) (.foldl (.scramble .refl) (fun _ _ h' => .restorePiece h'))))) .refl
  · exact .refl

theorem Stays.preemptionTimer {ctx : Nat} : Stays s (execPreemptionTimer ctx s) := by
  unfold execPreemptionTimer
  refine .next ?_
  split
  · exact .ite (.set .refl rfl) .refl
  · exact .refl

theorem Stays.yieldPoint {ctx : Nat} : Stays s (execYieldPoint ctx s) := by
  unfold execYieldPoint
  refine .next ?_
  split
  · exact .ite (.ite (.set .refl rfl) (.ite (.set .refl rfl) .refl)) .refl
  · exact .refl

theorem Stays.swapOut : Stays s (execSwapOut s) := by
  unfold execSwapOut
  refine .next (.ite ?_ .refl)
  split
  · exact .set .refl rfl
  · exact .refl

theorem Steady.knotOverflow {k : Nat} (h : Steady s t) : Steady s (t.knotOverflow k) := by
  unfold State.knotOverflow
  dsimp only
  refine .ite (.logError (.set h rfl)) ?_
  split
  · exact .set h rfl
  · exact .set h rfl

theorem Steady.signalKnot {k : Nat} (h : Steady s t) : Steady s (t.signalKnot k) := by
  unfold State.signalKnot
  dsimp only
  split
  · exact .set h rfl
  · exact .ite (.knotOverflow h) (.schedule (.set h rfl))

theorem Steady.arriveSignal {src : SignalSource} {n : W32} {k : Nat} (h : Steady s t) : Steady s (t.arriveSignal src n k) := by
  unfold State.arriveSignal
  dsimp only
  exact .ite (.signalKnot (.set h rfl)) (.ite (.set h rfl) (.set h rfl))

theorem Steady.sendSignal {src : SignalSource} {k : Nat} (h : Steady s t) : Steady s (t.sendSignal src k) := by
  unfold State.sendSignal
  dsimp only
  exact .arriveSignal (.emit h)

theorem Stays.knotSignal {src : SignalSource} {n : W32} {knot : Nat} : Stays s (execKnotSignal src n knot s) :=
  .next (.ite (.arriveSignal .refl) .refl)

theorem Stays.knotReset {knot : Nat} : Stays s (execKnotReset knot s) := by
  unfold execKnotReset
  refine .next ?_
  split
  · exact .set .refl rfl
  · exact .refl

/-! ### Flash -/

theorem Steady.isolate (h : Steady s t) : Steady s t.isolate := by
  unfold State.isolate
  dsimp only
  exact .set h rfl

theorem Steady.fromHub {c : Nat} {k : State → State} (h : Steady s t) (hk : ∀ z, Steady s z → Steady s (k z)) : Steady s (t.fromHub c k) :=
  .ite (.set h rfl) (hk _ h)

theorem Stays.createObject {sid : Nat} : Stays s (execCreateObject sid s) := by
  unfold execCreateObject
  dsimp only
  exact .next (.run .refl (fun _ _ h' => .settle h' (fun _ h'' => .set h'' rfl)))

theorem Steady.takeWseq {c : Nat} (h : Steady s t) : Steady s ((t.takeWseq c).2) := by
  unfold State.takeWseq
  exact .snd (.set h rfl)

theorem Steady.program {p : Programming} (h : Steady s t) : Steady s (t.program p) := by
  unfold State.program
  dsimp only
  exact .modFlash (.takeWseq h)

theorem Steady.newGroup (h : Steady s t) : Steady s (t.newGroup.2) := by
  unfold State.newGroup
  exact .snd (.set h rfl)

theorem Steady.programExtent {sid : Option Nat} {o : FlashObj} {e : Nat} {data : Buf} (h : Steady s t) : Steady s (t.programExtent sid o e data) := by
  unfold State.programExtent
  dsimp only
  exact .ite (.program (.program (.newGroup h))) (.program (.newGroup h))

theorem Steady.relocateWith {m : MapEntry} {stored : Buf} (h : Steady s t) : Steady s (t.relocateWith m stored) := by
  unfold State.relocateWith
  dsimp only
  exact .ite h (.program (.newGroup h))

theorem Steady.relocate {m : MapEntry} (h : Steady s t) : Steady s (t.relocate m) :=
  .relocateWith h

theorem Steady.setBlock {b : BlockSet} (h : Steady s t) : Steady s (t.setBlock b) :=
  .set h rfl

theorem Steady.countStep {c step : Nat} (h : Steady s t) : Steady s (t.countStep c step) :=
  .set h rfl

theorem Steady.climb {m : MapEntry} {step : Nat} (h : Steady s t) : Steady s (t.climb m step) := by
  unfold State.climb
  dsimp only
  exact .ite (.setBlock (.foldl h (fun _ _ h' => .set h' rfl))) (.foldl h (fun _ _ h' => .set h' rfl))

theorem Steady.damageExtent {obj : W64} {e : Nat} (h : Steady s t) : Steady s (t.damageExtent obj e) := by
  unfold State.damageExtent
  dsimp only
  split
  · exact h
  · exact .logError (.modFlash (.mapPut h))

theorem Steady.rebuildExtent {media : Media} {m : MapEntry} (h : Steady s t) : Steady s ((t.rebuildExtent media m).2) := by
  unfold State.rebuildExtent
  dsimp only
  split
  · exact .snd (.damageExtent h)
  · exact .iteOf Prod.snd (.snd (.ite (.relocateWith (.foldl h (fun _ _ h' => .climb h'))) (.foldl h (fun _ _ h' => .climb h')))) (.snd
      (.damageExtent (.foldl h (fun _ _ h' => .climb h'))))

theorem Steady.readExtent {media : Media} {obj : W64} {e : Nat} (h : Steady s t) : Steady s ((t.readExtent media obj e).2) := by
  unfold State.readExtent
  split
  · exact h
  · exact .iteOf Prod.snd h (.iteOf Prod.snd (.ite (.countStep h) (.climb h)) (.rebuildExtent (.ite (.countStep h) (.climb h))))

theorem Steady.readExtents {media : Media} {l : List (W64 × Nat)} (h : Steady s t) : Steady s ((t.readExtents media l).2) := by
  unfold State.readExtents
  exact .foldlOf Prod.snd h (fun _ _ h' => .snd (.readExtent h'))

theorem Steady.relocateBlock {media : Media} {c die bs : Nat} {fails : List Nat} (h : Steady s t) : Steady s (t.relocateBlock media c die bs fails) :=
  .ite (.foldl h (fun _ _ h' => .ite (.rebuildExtent h') (.relocate h'))) h

theorem Steady.putPage {l : FlashLoc} {p : PageRec} (h : Steady s t) : Steady s (t.putPage l p) := by
  unfold State.putPage
  dsimp only
  exact .modChannel (.modFlash (.takeWseq (.set h rfl)))

theorem Steady.putExtent {o : FlashObj} {e : Nat} {stored : Buf} (h : Steady s t) : Steady s (t.putExtent o e stored) := by
  unfold State.putExtent
  dsimp only
  exact .mapPut (.putPage h)

theorem Steady.storeExtents {id : W64} {persistent : Bool} {l : List (Nat × Buf)} (h : Steady s t) : Steady s (t.storeExtents id persistent l) := by
  unfold State.storeExtents
  dsimp only
  exact .ite (.foldl (.foldl (.ite h (.set h rfl)) (fun _ _ h' => .putExtent h')) (fun _ _ h' => .putExtent h')) (.foldl (.ite h (.set h rfl))
      (fun _ _ h' => .putExtent h'))

theorem Steady.storeObj {id : W64} {persistent : Bool} {n : Nat} {data : Buf} (h : Steady s t) : Steady s (t.storeObj id persistent n data) :=
  .storeExtents h

theorem Steady.eraseExtents {id : W64} {extents : List Nat} (h : Steady s t) : Steady s (t.eraseExtents id extents) := by
  unfold State.eraseExtents
  dsimp only
  exact .foldl (.foldl h (fun _ _ h' => .putPage h')) (fun _ _ h' => .mapDrop h')

theorem Steady.eraseObj {id : W64} (h : Steady s t) : Steady s (t.eraseObj id) :=
  .modFlash (.eraseExtents h)

theorem Steady.nextUnit {j : WriteJob} (h : Steady s t) : Steady s (t.nextUnit j) := by
  unfold State.nextUnit
  dsimp only
  refine .ite (.set h rfl) ?_
  split
  · exact .set h rfl
  · exact .ite (.set h rfl) (.ite h (.programExtent (.set h rfl)))

theorem Stays.writeExtent {sid : Nat} {b : Option Buf} : Stays s (execWriteExtent sid b s) := by
  unfold execWriteExtent
  dsimp only
  exact .next (.run .refl (fun _ _ h' => .withB h' (fun _ => .settle h' (fun _ h'' => .ite (.nextUnit (.set h'' rfl)) h''))))

theorem Steady.startTrim {sid : Nat} {o : FlashObj} {extents : List Nat} (h : Steady s t) : Steady s (t.startTrim sid o extents) := by
  unfold State.startTrim
  dsimp only
  exact .foldl (.foldl (.newGroup h) (fun _ _ h' => .program h')) (fun _ _ h' => .program h')

theorem Steady.settleTrim {sid : Nat} (h : Steady s t) : Steady s (t.settleTrim sid) := by
  unfold State.settleTrim
  dsimp only
  split
  · exact h
  · exact .ite (.completeOk (.ite (.set h rfl) h)) h

theorem Stays.trimExtent {sid : Nat} : Stays s (execTrimExtent sid s) := by
  unfold execTrimExtent
  dsimp only
  refine .next (.run .refl (fun _ _ h' => .settle h' (fun _ h'' => ?_)))
  split
  · exact h''
  · exact .ite (.settleTrim (.startTrim (.set h'' rfl))) h''

theorem Steady.failProgram {sid : Nat} (h : Steady s t) : Steady s (t.failProgram sid) := by
  unfold State.failProgram
  split
  · exact .set h rfl
  · exact .set h rfl

theorem Stays.deleteObject {sid : Nat} : Stays s (execDeleteObject sid s) := by
  unfold execDeleteObject
  dsimp only
  refine .next (.run .refl (fun _ _ h' => .ite (.settle (.ite (.set h' rfl) h') (fun _ h'' => ?_)) h'))
  split
  · exact h''
  · exact .settleTrim (.startTrim (.set h'' rfl))

theorem Steady.applyProgram {p : Programming} (h : Steady s t) : Steady s (t.applyProgram p) := by
  unfold State.applyProgram
  dsimp only
  split
  · exact h
  · refine .ite (.foldl h (fun _ _ h' => .mapDrop h')) (.ite (.ite ?_ (.mapPut h)) h)
    split
    · exact .mapPut h
    · exact h

theorem Steady.joinUnit {c : Nat} {l : FlashLoc} {stored : Buf} (h : Steady s t) : Steady s (t.joinUnit c l stored) := by
  unfold State.joinUnit
  refine .ite h ?_
  split
  · exact h
  · exact .set h rfl

theorem Steady.advance {sid : Nat} (h : Steady s t) : Steady s (t.advance sid) := by
  unfold State.advance
  dsimp only
  split
  · exact .settleTrim h
  · exact .nextUnit (.set h rfl)

theorem Steady.kickWrites (h : Steady s t) : Steady s t.kickWrites :=
  .foldl h (fun _ _ h' => .nextUnit h')

theorem Stays.programComplete {channel wseq : Nat} {loc : FlashLoc} : Stays s (execProgramComplete channel wseq loc s) := by
  unfold execProgramComplete
  dsimp only
  refine .next (.fromHub .refl (fun _ h' => ?_))
  split
  · exact h'
  · refine .ite (.ite (.kickWrites ?_) (.modChannel (.modFlash (.joinUnit (.set h' rfl))))) h'
    split
    · exact .advance (.modFlash (.foldl (.modChannel (.modFlash (.joinUnit (.set h' rfl)))) (fun _ _ h'' => .applyProgram h'')))
    · exact .modFlash (.foldl (.modChannel (.modFlash (.joinUnit (.set h' rfl)))) (fun _ _ h'' => .applyProgram h''))

theorem Steady.retireBlock {c die bs : Nat} (h : Steady s t) : Steady s (t.retireBlock c die bs) := by
  unfold State.retireBlock
  dsimp only
  exact .ite h (.set h rfl)

theorem Stays.programFail {channel wseq : Nat} {loc : FlashLoc} : Stays s (execProgramFail channel wseq loc s) := by
  unfold execProgramFail
  dsimp only
  refine .next (.fromHub .refl (fun _ h' => ?_))
  split
  · exact .ite (.retireBlock h') h'
  · refine .ite (.ite (.modFlash (.retireBlock h')) ?_) h'
    split
    · exact .modFlash (.retireBlock h')
    · exact .kickWrites (.failProgram (.modFlash (.retireBlock h')))

theorem Steady.deliverRead {r : Reading} {data : Buf} (h : Steady s t) : Steady s (t.deliverRead r data) := by
  unfold State.deliverRead
  dsimp only
  split
  · exact .set h rfl
  · split
    · exact .ite (.completeOk (.writeB (.set h rfl))) (.set h rfl)
    · exact .set h rfl

theorem Stays.readExtent {sid : Nat} : Stays s (execReadExtent sid s) := by
  unfold execReadExtent
  dsimp only
  refine .next (.run .refl (fun _ _ h' => .settle h' (fun _ h'' => ?_)))
  split
  · exact .completeOk (.writeB h'')
  · exact .ite (.set h'' rfl) (.set h'' rfl)

theorem Stays.readLadderStep {obj : W64} {extent : Nat} {ok : Bool} : Stays s (execReadLadderStep obj extent ok s) := by
  unfold execReadLadderStep
  dsimp only
  refine .next ?_
  split
  · exact .refl
  · split
    · exact .deliverRead .refl
    · exact .ite (.set .refl rfl) (.ite (.deliverRead (.ite (.set .refl rfl) .refl)) (.set .refl rfl))

theorem Steady.rebuildFor {r : Reading} {media : Media} (h : Steady s t) : Steady s (t.rebuildFor r media) := by
  unfold State.rebuildFor
  dsimp only
  split
  · refine .ite (.set h rfl) (.ite ?_ (.set h rfl))
    split
    · exact .deliverRead (.rebuildExtent h)
    · split
      · exact .failWith (.modFlash (.rebuildExtent h))
      · exact .modFlash (.rebuildExtent h)
  · exact .deliverRead h

theorem Steady.writeUnit {x : ParityUnit} {l : FlashLoc} (h : Steady s t) : Steady s (t.writeUnit x l) :=
  .modFlash (.putPage h)

theorem Steady.flushUnits (h : Steady s t) : Steady s t.flushUnits := by
  unfold State.flushUnits
  refine .foldl h (fun _ _ h' => ?_)
  split
  · exact .writeUnit h'
  · exact h'

theorem Stays.openBlockParityWrite {channel group page : Nat} {loc : FlashLoc} : Stays s (execOpenBlockParityWrite channel group page loc s) := by
  unfold execOpenBlockParityWrite
  refine .next (.fromHub .refl (fun _ h' => ?_))
  split
  · exact h'
  · exact .ite (.writeUnit h') h'

theorem Steady.collect {c : Nat} {pslc : Bool} (h : Steady s t) : Steady s (t.collect c pslc) := by
  unfold State.collect
  dsimp only
  refine .ite ?_ h
  split
  · exact .relocateBlock h
  · exact h

theorem Stays.blockSetClose {channel die blockSet : Nat} : Stays s (execBlockSetClose channel die blockSet s) := by
  unfold execBlockSetClose
  dsimp only
  exact .next (.fromHub .refl (fun _ h' => .ite h' (.collect (.set h' rfl))))

theorem Steady.releaseUnits (h : Steady s t) : Steady s t.releaseUnits := by
  unfold State.releaseUnits
  dsimp only
  exact .set h rfl

theorem Steady.setVerified {c die bs : Nat} (h : Steady s t) : Steady s (t.setVerified c die bs) :=
  .foldl h (fun _ _ h' => .mapPut h')

theorem Stays.blockSetVerify {channel die blockSet : Nat} {fails : List Nat} {media : Media} :
    Stays s (execBlockSetVerify channel die blockSet fails media s) := by
  unfold execBlockSetVerify
  dsimp only
  exact .next (.fromHub .refl (fun _ h' => .ite (.ite h' (.ite (.releaseUnits (.setVerified (.setBlock (.foldl (.set h' rfl)
      (fun _ _ h'' => .set h'' rfl))))) (.retireBlock (.relocateBlock (.foldl (.set h' rfl) (fun _ _ h'' => .set h'' rfl)))))) h'))

theorem Stays.wearLevel {channel die blockSet : Nat} : Stays s (execWearLevel channel die blockSet s) := by
  unfold execWearLevel
  dsimp only
  exact .next (.fromHub .refl (fun _ h' => .ite (.relocateBlock h') h'))

theorem Stays.eraseComplete {channel die blockSet : Nat} : Stays s (execEraseComplete channel die blockSet s) := by
  unfold execEraseComplete
  dsimp only
  exact .next (.fromHub .refl (fun _ h' => .ite h' (.set h' rfl)))

theorem Steady.patrol {c die : Nat} {bs page : Nat} (h : Steady s t) : Steady s (t.patrol c die bs page) := by
  unfold State.patrol
  dsimp only
  exact .ite (.modChannel (.modChannel (.ite (.set h rfl) h))) (.modChannel (.ite (.set h rfl) h))

theorem Stays.patrolRead {channel die : Nat} {blockSet page : Nat} {step : Option Nat} {media : Media} :
    Stays s (execPatrolRead channel die blockSet page step media s) := by
  unfold execPatrolRead
  dsimp only
  refine .next (.fromHub .refl (fun _ h' => .ite h' ?_))
  split
  · exact .relocateBlock (.foldl (.patrol h') (fun _ _ h'' => .set h'' rfl))
  · exact .ite (.relocateBlock (.ite (.setBlock (.foldl (.patrol h') (fun _ _ h'' => .set h'' rfl))) (.foldl (.patrol h')
      (fun _ _ h'' => .set h'' rfl)))) (.ite (.setBlock (.foldl (.patrol h') (fun _ _ h'' => .set h'' rfl))) (.foldl (.patrol h')
      (fun _ _ h'' => .set h'' rfl)))

theorem Stays.mapCheckpointStart {channel : Nat} : Stays s (execMapCheckpointStart channel s) :=
  .next (.ite .refl (.set .refl rfl))

theorem Steady.storeMap (h : Steady s t) : Steady s t.storeMap := by
  unfold State.storeMap
  split
  · exact h
  · exact .storeExtents (.set h rfl)

theorem Stays.mapCheckpointComplete : Stays s (execMapCheckpointComplete s) :=
  .next (.ite (.kickWrites (.modFlash (.storeMap .refl))) .refl)

theorem Stays.sysregionJournal : Stays s (execSysregionJournal s) :=
  .next (.ite .refl (.set .refl rfl))

theorem Steady.loadMap {l : List MapEntry} (h : Steady s t) : Steady s (t.loadMap l) :=
  .foldl (.set h rfl) (fun _ _ h' => .mapPut h')

theorem Steady.freeUnflipped (h : Steady s t) : Steady s t.freeUnflipped :=
  .foldl h (fun _ _ h' => .eraseObj h')

theorem Steady.replayMap {lost : List (Nat × Nat)} (h : Steady s t) : Steady s (t.replayMap lost) := by
  unfold State.replayMap
  dsimp only
  exact .ite (.freeUnflipped (.modFlash (.loadMap h))) (.freeUnflipped (.modFlash (.loadMap h)))

theorem Stays.shutdown {sid : Nat} {ok : Bool} : Stays s (execShutdown sid ok s) := by
  unfold execShutdown
  dsimp only
  exact .next (.run .refl (fun _ _ h' => .settle h' (fun _ h'' => .ite (.set h'' rfl) (.ite (.ite (.completeOk (.set (.modFlash
      (.storeMap h'')) rfl)) (.set h'' rfl)) h''))))

/-! ### Send -/

theorem Steady.modFabric {f : Fabric → Fabric} (h : Steady s t) : Steady s (t.modFabric f) :=
  .set h rfl

theorem Steady.modPeer {r : Nat} {f : Peer → Peer} (h : Steady s t) : Steady s (t.modPeer r f) :=
  .set h rfl

theorem Steady.bumpPort {p k : Nat} (h : Steady s t) : Steady s (t.bumpPort p k) :=
  .set h rfl

theorem Steady.sendPacket {b kind cls : Nat} {psn : W32} {first last : Bool} {payload : Buf} (h : Steady s t) :
    Steady s (t.sendPacket b kind cls psn first last payload) := by
  unfold State.sendPacket
  dsimp only
  split
  · exact h
  · exact .emit (.set h rfl)

theorem Steady.setTx {f : TxFlow} (h : Steady s t) : Steady s (t.setTx f) :=
  .set h rfl

theorem Steady.pumpN {n b c : Nat} (h : Steady s t) : Steady s (State.pumpN n t b c) := by
  induction n generalizing t with
  | zero => exact h
  | succ n ih =>
    unfold State.pumpN
    dsimp only
    split
    · exact h
    · exact .ite (ih (.sendPacket (.set h rfl))) h

theorem Steady.pump {b c : Nat} (h : Steady s t) : Steady s (t.pump b c) :=
  .pumpN h

theorem Steady.sendMsg {b : Nat} {kind : Msg} {values : List Nat} (h : Steady s t) : Steady s (t.sendMsg b kind values) := by
  unfold State.sendMsg
  dsimp only
  exact .pump (.setTx (.emit h))

theorem Steady.sendAll {kind : Msg} {values : List Nat} (h : Steady s t) : Steady s (t.sendAll kind values) :=
  .foldl h (fun _ _ h' => .sendMsg h')

/-! ### Tiers -/

theorem Steady.rebuildWord {a : Nat} (h : Steady s t) : Steady s (t.rebuildWord a) :=
  .store h rfl fun ⟨hh, ht, hc⟩ => ⟨Memory.wf_writeBytes _ _ _ hh, ht, hc⟩

theorem Steady.modTiers {f : Tiers → Tiers} (h : Steady s t) : Steady s (t.modTiers f) :=
  .set h rfl

theorem Steady.chargePool {pool n : Nat} (h : Steady s t) : Steady s (t.chargePool pool n) :=
  .set h rfl

theorem Steady.placeHbm {len : Nat} {obj : W64} {x : Nat × State} (h : Steady s t) (e : t.placeHbm len obj = some x) : Steady s x.2 := by
  obtain ⟨a, -, rfl⟩ := Option.map_eq_some_iff.1 e
  exact .set h rfl

theorem Steady.allocHbm {pool len : Nat} {obj : W64} {x : Nat × State} (h : Steady s t) (e : t.allocHbm pool len obj = some x) : Steady s x.2 := by
  unfold State.allocHbm at e
  split at e
  · obtain ⟨y, ey, rfl⟩ := Option.map_eq_some_iff.1 e
    exact .set (.placeHbm h ey) rfl
  · cases e

theorem Steady.freeHbm {pool base : Nat} {obj : W64} (h : Steady s t) : Steady s (t.freeHbm pool base obj) := by
  unfold State.freeHbm
  split
  · exact h
  · exact .set h rfl

theorem Stays.setPools {sid : Nat} : Stays s (execSetPools sid s) := by
  unfold execSetPools
  dsimp only
  exact .next (.run .refl (fun _ _ h' => .settle h' (fun _ h'' => .set h'' rfl)))

theorem Steady.modHome {id : W64} {f : Home → Home} (h : Steady s t) : Steady s (t.modHome id f) :=
  .set h rfl

theorem Steady.addHome {hm : Home} (h : Steady s t) : Steady s (t.addHome hm) :=
  .set h rfl

theorem Steady.finishAll {sids : List (Option Nat)} {st : Status} (h : Steady s t) : Steady s (t.finishAll sids st) := by
  unfold State.finishAll
  dsimp only
  refine .foldl h (fun _ _ h' => ?_)
  split
  · exact .set h' rfl
  · exact h'

theorem Steady.freeHome {hm : Home} (h : Steady s t) : Steady s (t.freeHome hm) := by
  unfold State.freeHome
  dsimp only
  exact .ite (.ite (.set h rfl) h) (.ite (.eraseObj (.ite (.freeHbm (.ite (.freeHbm h) h)) (.ite (.freeHbm h) h))) (.ite (.freeHbm (.ite
      (.freeHbm h) h)) (.ite (.freeHbm h) h)))

theorem Steady.sweepHome {hm : Home} (h : Steady s t) : Steady s (t.sweepHome hm) :=
  .ite (.modTiers (.freeHome h)) h

theorem Steady.dropHome {id : W64} (h : Steady s t) : Steady s (t.dropHome id) := by
  unfold State.dropHome
  dsimp only
  split
  · exact h
  · exact .finishAll (.modTiers (.sweepHome (.modHome (.ite (.eraseObj h) h))))

theorem Stays.queryHome {sid : Nat} {ok : Bool} : Stays s (execQueryHome sid ok s) := by
  unfold execQueryHome
  refine .next (.run .refl (fun _ _ h' => ?_))
  split
  · exact .settle h' (fun _ h'' => h'')
  · exact .settle h' (fun _ h'' => .report h'' (fun _ h''' => .set h''' rfl))

theorem Steady.closeUpdates {sid : Nat} (h : Steady s t) : Steady s (t.closeUpdates sid) := by
  unfold State.closeUpdates
  dsimp only
  split
  · exact .ite (.set h rfl) h
  · exact h

theorem Steady.noteUpdate {sid : Nat} {ok : Bool} (h : Steady s t) : Steady s (t.noteUpdate sid ok) := by
  unfold State.noteUpdate
  dsimp only
  exact .closeUpdates (.set h rfl)

theorem Steady.noteAnswer {sid row : Nat} {st : Status} (h : Steady s t) : Steady s (t.noteAnswer sid row st) := by
  unfold State.noteAnswer
  dsimp only
  exact .closeUpdates (.set h rfl)

theorem Steady.loseUpdates {rank : Nat} (h : Steady s t) : Steady s (t.loseUpdates rank) := by
  unfold State.loseUpdates
  dsimp only
  exact .foldl (.set h rfl) (fun _ _ h' => .closeUpdates h')

theorem Steady.answerUpdate {own rank : Nat} {sid table row : Nat} {st : Status} (h : Steady s t) :
    Steady s (t.answerUpdate own rank sid table row st) :=
  .ite (.noteAnswer h) (.sendMsg h)

theorem Steady.noteWrite {w : WaitingWrite} {own : Nat} {ok : Bool} (h : Steady s t) : Steady s (t.noteWrite w own ok) := by
  unfold State.noteWrite
  dsimp only
  split
  · exact .ite (.noteUpdate h) (.answerUpdate h)
  · exact h

theorem Steady.syncFlash {id : W64} {off len : Nat} (h : Steady s t) : Steady s (t.syncFlash id off len) := by
  unfold State.syncFlash
  dsimp only
  exact .storeExtents h

theorem Steady.applyWrite {w : WaitingWrite} {own : Nat} (h : Steady s t) : Steady s (t.applyWrite w own) := by
  unfold State.applyWrite
  dsimp only
  split
  · exact .ite (.noteWrite h) (.noteWrite (.ite (.syncFlash (.set h rfl)) (.set h rfl)))
  · exact .noteWrite h

theorem Steady.writeHome {w : WaitingWrite} {own : Nat} (h : Steady s t) : Steady s (t.writeHome w own) := by
  unfold State.writeHome
  split
  · exact .ite (.set h rfl) (.applyWrite h)
  · exact .applyWrite h

theorem Steady.applyWaitingWrites {id : W64} (h : Steady s t) : Steady s (t.applyWaitingWrites id) := by
  unfold State.applyWaitingWrites
  dsimp only
  exact .foldl (.set h rfl) (fun _ _ h' => .applyWrite h')

theorem Steady.pin {id : W64} (h : Steady s t) : Steady s (t.pin id) :=
  .ite (.set h rfl) h

theorem Steady.endMove {id : W64} {st : Status} (h : Steady s t) : Steady s (t.endMove id st) :=
  .modTiers (.finishAll h)

theorem Steady.refuseMove {id : W64} {st : Status} (h : Steady s t) : Steady s (t.refuseMove id st) :=
  .endMove (.modHome h)

theorem Steady.startCopy {hm : Home} {tier : Tier} (h : Steady s t) : Steady s (t.startCopy hm tier) := by
  cases tier with
  | hbm =>
    rw [State.startCopy]
    split
    · exact .refuseMove h
    · next e => exact .modHome (.ite (.sendMsg (.allocHbm h e)) (.allocHbm h e))
  | peer => exact .modHome (.sendMsg h)
  | flash => exact .ite (.refuseMove h) (.ite (.refuseMove h) (.ite (.refuseMove h) (.modHome (.storeObj h))))

theorem Steady.startMove {id : W64} {tier : Tier} {peer : Nat} {explicit : Bool} (h : Steady s t) : Steady s (t.startMove id tier peer explicit) := by
  unfold State.startMove
  split
  · exact .endMove h
  · exact .ite (.endMove h) (.ite (.endMove h) (.ite (.set h rfl) (.startCopy h)))

theorem Steady.nextMoveN {n : Nat} {id : W64} (h : Steady s t) : Steady s (State.nextMoveN n t id) := by
  induction n generalizing t with
  | zero => exact h
  | succ n ih =>
    unfold State.nextMoveN
    split
    · exact .ite h (ih (.startMove (.set h rfl)))
    · exact h

theorem Steady.nextMove {id : W64} (h : Steady s t) : Steady s (t.nextMove id) :=
  .nextMoveN h

theorem Steady.requestMove {id : W64} {tier : Tier} {peer : Nat} {sid : Option Nat} (h : Steady s t) : Steady s (t.requestMove id tier peer sid) := by
  unfold State.requestMove
  dsimp only
  split
  · exact h
  · refine .ite (.ite (.set h rfl) ?_) (.nextMove (.startMove (.set h rfl)))
    split
    · exact .set h rfl
    · exact h

theorem Stays.moveObject {sid : Nat} : Stays s (execMoveObject sid s) := by
  unfold execMoveObject
  dsimp only
  exact .next (.run .refl (fun _ _ h' => .settle h' (fun _ h'' => .requestMove (.set h'' rfl))))

theorem Steady.freeOld {id : W64} (h : Steady s t) : Steady s (t.freeOld id) := by
  unfold State.freeOld
  dsimp only
  split
  · exact h
  · exact .ite (.nextMove (.modHome (.ite (.freeHbm h) (.ite (.eraseObj h) h)))) h

theorem Steady.flip {id : W64} (h : Steady s t) : Steady s (t.flip id) := by
  unfold State.flip
  dsimp only
  exact .freeOld (.endMove (.applyWaitingWrites (.set h rfl)))

theorem Stays.moveFlip {obj : W64} : Stays s (execMoveFlip obj s) := by
  unfold execMoveFlip
  refine .next ?_
  split
  · exact .ite (.flip .refl) .refl
  · exact .refl

theorem Steady.freeDest {hm : Home} (h : Steady s t) : Steady s (t.freeDest hm) := by
  unfold State.freeDest
  dsimp only
  exact .ite h (.ite (.freeHbm (.ite (.sendMsg h) (.ite (.sendMsg h) h))) (.ite (.eraseObj (.ite (.sendMsg h) (.ite (.sendMsg h) h))) (.ite
      (.sendMsg h) (.ite (.sendMsg h) h))))

theorem Steady.abandonMove {id : W64} {cause : Status} (h : Steady s t) : Steady s (t.abandonMove id cause) := by
  unfold State.abandonMove
  dsimp only
  split
  · exact .ite (.nextMove (.endMove (.applyWaitingWrites (.modHome (.freeDest h))))) h
  · exact h

theorem Stays.moveAbandon {obj : W64} {cause : Status} : Stays s (execMoveAbandon obj cause s) :=
  .next (.ite (.abandonMove .refl) .refl)

theorem Steady.releaseCopy {id : W64} (h : Steady s t) : Steady s (t.releaseCopy id) := by
  unfold State.releaseCopy
  split
  · exact h
  · exact .ite h (.ite (.set h rfl) (.modHome (.freeHome h)))

theorem Steady.resumeEviction {hm : Home} (h : Steady s t) : Steady s (t.resumeEviction hm) :=
  .ite (.releaseCopy h) (.ite (.nextMove (.endMove (.set h rfl))) (.nextMove (.startCopy h)))

theorem Steady.unpin {id : W64} (h : Steady s t) : Steady s (t.unpin id) := by
  unfold State.unpin
  dsimp only
  split
  · split
    · exact .sweepHome (.set h rfl)
    · exact h
  · exact .ite h (.ite (.resumeEviction (.set h rfl)) (.set h rfl))

theorem Steady.unpinOld {id : W64} (h : Steady s t) : Steady s (t.unpinOld id) := by
  unfold State.unpinOld
  dsimp only
  split
  · split
    · exact .sweepHome (.set h rfl)
    · exact h
  · exact .ite h (.ite (.freeOld (.set h rfl)) (.set h rfl))

theorem Stays.pinRelease {obj : W64} {old : Bool} : Stays s (execPinRelease obj old s) :=
  .next (.ite (.unpinOld .refl) (.unpin .refl))

theorem Steady.pinned {id : W64} {read : State → State} (h : Steady s t) (hk : ∀ z, Steady s z → Steady s (read z)) : Steady s (t.pinned id read) :=
  .ite (.unpin (hk _ (.pin h))) h

theorem Stays.automaticEviction : Stays s (execAutomaticEviction s) := by
  unfold execAutomaticEviction
  dsimp only
  exact .next (.ite (.foldl .refl (fun _ _ h' => .requestMove h')) .refl)

theorem Steady.promote {id : W64} (h : Steady s t) : Steady s (t.promote id) := by
  unfold State.promote
  split
  · exact .ite (.requestMove h) h
  · exact h

theorem Steady.addPages {m : Model} {im : Image} {pages : List Nat} (h : Steady s t) : Steady s (t.addPages m im pages) :=
  .foldl h (fun _ _ h' => .set h' rfl)

theorem Steady.ownerDamaged {id : W64} (h : Steady s t) : Steady s (t.ownerDamaged id) := by
  unfold State.ownerDamaged
  dsimp only
  refine .ite ?_ (.ite (.set h rfl) h)
  split
  · exact .set h rfl
  · exact h

theorem Steady.mutableLost {id : W64} (h : Steady s t) : Steady s (t.mutableLost id) := by
  unfold State.mutableLost
  dsimp only
  split
  · exact .ownerDamaged h
  · exact .nextMove (.endMove (.applyWaitingWrites (.modHome (.freeDest (.ownerDamaged h)))))

theorem Steady.fetchExtent {id : W64} {e : Nat} {waiters : List Nat} (h : Steady s t) : Steady s (t.fetchExtent id e waiters) :=
  .ite h (.ite (.set h rfl) (.set h rfl))

/-! ### Loom -/

theorem Steady.modLoom {f : Loom → Loom} (h : Steady s t) : Steady s (t.modLoom f) :=
  .set h rfl

theorem Steady.stageSet {c : Ctx} {im : Image} {pos : Nat} (h : Steady s t) : Steady s (t.stageSet c im pos) := by
  refine .store h rfl fun ⟨hh, ht, hc⟩ => ⟨hh, ?_, hc⟩
  dsimp only
  exact Memory.wf_foldl (fun _ _ hm => Memory.wf_writeBytes _ _ _ hm) _ _ ht

theorem Steady.writeWindow {c : Ctx} {w : Window} (h : Steady s t) : Steady s (t.writeWindow c w) :=
  .store h rfl fun ⟨hh, ht, hc⟩ => ⟨hh, Memory.wf_foldl (fun _ _ hm => Memory.wf_writeBytes _ _ _ hm) _ _ ht, hc⟩

theorem Steady.startWindow {c : Ctx} {im : Image} {id : W64} {pieces : List WindowPiece} {lastPick : Nat} (h : Steady s t) :
    Steady s (t.startWindow c im id pieces lastPick) := by
  unfold State.startWindow
  split
  · exact h
  · exact .ite h (.modTiers (.pin h))

theorem Steady.finishWindows {c : Ctx} {id : W64} (h : Steady s t) : Steady s (t.finishWindows c id) := by
  unfold State.finishWindows
  dsimp only
  exact .modTiers (.foldl h (fun _ _ h' => .writeWindow h'))

theorem Stays.stagingComplete {ctx : Nat} {what : Staging} : Stays s (execStagingComplete ctx what s) := by
  unfold execStagingComplete
  refine .next ?_
  split
  · exact .refl
  · split
    · exact .refl
    · refine .ite .refl ?_
      split
      · exact .startWindow .refl
      · exact .schedule (.finishWindows .refl)
      · split
        · exact .refl
        · exact .ite (.pinned .refl (fun _ h' => .schedule (.stageSet h'))) .refl

theorem Steady.buildGroups {p : Pick} {groups : List RowGroup} (h : Steady s t) : Steady s (t.buildGroups p groups) :=
  .store h rfl fun ⟨hh, ht, hc⟩ => ⟨hh, ht, Memory.wf_writeBytes _ _ _ hc⟩

theorem Steady.issueNow {c : Ctx} {pos : Nat} {p : Pick} {groups : List RowGroup} (h : Steady s t) : Steady s (t.issueNow c pos p groups) := by
  unfold State.issueNow
  dsimp only
  exact .set h rfl

theorem Stays.pickIssue {ctx : Nat} {src : PickSource} {groups : List RowGroup} : Stays s (execPickIssue ctx src groups s) := by
  unfold execPickIssue
  dsimp only
  refine .next ?_
  split
  · exact .refl
  · refine .ite ?_ .refl
    split
    · exact .refl
    · exact .ite (.issueNow (.buildGroups .refl)) (.faultCtx (.buildGroups .refl))

theorem OutRow.wf_writeUnit (o : OutRow) (j a : Nat) {m : Memory} (hm : m.wf = true) : (o.writeUnit j a m).wf = true :=
  Memory.wf_foldl (fun _ _ h => Memory.wf_writeBytes _ _ _ h) _ _ hm

theorem Steady.writeRow {p : Pick} {q k : Nat} {o : OutRow} (h : Steady s t) : Steady s (t.writeRow p q k o) := by
  refine .ite (.store h rfl fun ⟨hh, ht, hc⟩ => ⟨?_, ht, hc⟩) (.ite (.store h rfl fun ⟨hh, ht, hc⟩ => ⟨hh, ?_, hc⟩) h)
  · exact Memory.wf_foldl (fun _ _ hm => o.wf_writeUnit _ _ hm) _ _ hh
  · refine Memory.wf_foldl (fun _ _ hm => ?_) _ _ ht
    dsimp only
    split
    · exact o.wf_writeUnit _ _ hm
    · exact hm

theorem Steady.runPick {p : Pick} {w : WeightSet} {inp : InputFn} {faults : List ArrayFault} {groups : List RowGroup} {sel : Nat → Nat → Bool}
    (h : Steady s t) : Steady s ((t.runPick p w inp faults groups sel).1) := by
  unfold State.runPick
  exact .fst (.foldl h (fun _ _ h' => .writeRow h'))

theorem Steady.endRun {c : Ctx} {pos : Nat} (h : Steady s t) : Steady s (t.endRun c pos) := by
  unfold State.endRun
  dsimp only
  split
  · exact h
  · refine .ite ?_ h
    split
    · exact .ite (.completeOk (.writeB2 (.fresh (.set h rfl)))) (.set h rfl)
    · exact .set h rfl

theorem Steady.releaseWindows {p : Window → Bool} (h : Steady s t) : Steady s (t.releaseWindows p) := by
  unfold State.releaseWindows
  dsimp only
  exact .foldl (.set h rfl) (fun _ _ h' => .unpin h')

theorem Steady.dropWindows {ctx pos : Nat} (h : Steady s t) : Steady s (t.dropWindows ctx pos) :=
  .releaseWindows h

theorem Steady.tearDown {c : Ctx} (h : Steady s t) : Steady s (t.tearDown c) := by
  unfold State.tearDown
  dsimp only
  exact .ite (.freshService (.clearCtx (.releaseWindows (.tornReqs (.foldl h (fun _ _ h' => .set h' rfl)))))) (.clearCtx (.releaseWindows
      (.tornReqs (.foldl h (fun _ _ h' => .set h' rfl)))))

theorem Stays.contextTeardown {ctx : Nat} {cause : TearCause} : Stays s (execContextTeardown ctx cause s) := by
  unfold execContextTeardown
  dsimp only
  refine .next ?_
  split
  · split
    · exact .ite (.schedule (.settleCtxDestroy (.tearDown (.ite (.set .refl rfl) .refl)))) (.ite (.set .refl rfl) .refl)
    · exact .ite (.set .refl rfl) .refl
  · exact .refl

theorem Steady.signalPick {i : Issued} (h : Steady s t) : Steady s (t.signalPick i) := by
  unfold State.signalPick
  dsimp only
  split
  · exact .set h rfl
  · refine .schedule (.endRun (.ite (.sendSignal (.dropWindows ?_)) (.dropWindows ?_)))
    · split
      · exact .set h rfl
      · exact .set h rfl
    · split
      · exact .set h rfl
      · exact .set h rfl

theorem Steady.noteWidenings {p : Pick} {groups : List RowGroup} (h : Steady s t) : Steady s (t.noteWidenings p groups) := by
  unfold State.noteWidenings
  dsimp only
  exact .foldl h (fun _ _ h' => .set h' rfl)

theorem Steady.passPick {i : Issued} {faults : List ArrayFault} (h : Steady s t) : Steady s (t.passPick i faults) := by
  unfold State.passPick
  dsimp only
  exact .ite (.modLoom (.noteWidenings (.runPick h))) (.signalPick (.runPick h))

theorem Steady.stageWide {c : Ctx} {i : Issued} {k : Nat} (h : Steady s t) : Steady s (t.stageWide c i k) := by
  unfold State.stageWide
  split
  · exact h
  · refine .ite h (.store h rfl fun ⟨hh, ht, hc⟩ => ⟨hh, ?_, hc⟩)
    dsimp only
    exact Memory.wf_foldl (fun _ _ hm => Memory.wf_writeBytes _ _ _ hm) _ _ ht

theorem Steady.runWide {c : Ctx} {i : Issued} {hm : Nat} (h : Steady s t) : Steady s (t.runWide c i hm) := by
  unfold State.runWide
  dsimp only
  exact .modLoom (.runPick (.stageWide h))

theorem Steady.setWidened {i : Issued} (h : Steady s t) : Steady s (t.setWidened i) := by
  unfold State.setWidened
  dsimp only
  exact .set h rfl

theorem Stays.widerRunComplete {id : Nat} : Stays s (execWiderRunComplete id s) := by
  unfold execWiderRunComplete
  refine .next ?_
  split
  · exact .refl
  · split
    · exact .refl
    · exact .ite .refl (.signalPick (.setWidened (.foldl .refl (fun _ _ h' => .runWide h'))))

theorem Steady.declare {k unit : Nat} (h : Steady s t) : Steady s (t.declare k unit) := by
  unfold State.declare
  dsimp only
  exact .set h rfl

theorem Steady.takeoverDone {k unit : Nat} (h : Steady s t) : Steady s (t.takeoverDone k unit) := by
  unfold State.takeoverDone
  dsimp only
  exact .set h rfl

theorem Steady.loomOut {source : Nat} (h : Steady s t) : Steady s (t.loomOut source) := by
  unfold State.loomOut
  dsimp only
  exact .foldl (.setReady (.setReady (.set (.modLoom (.unitFail h)) rfl))) (fun _ _ h' => .set h' rfl)

theorem Steady.abandonPicks (h : Steady s t) : Steady s t.abandonPicks :=
  .set h rfl

theorem Steady.failColumn {p source : Nat} (h : Steady s t) : Steady s (t.failColumn p source) := by
  unfold State.failColumn
  dsimp only
  exact .ite h (.ite (.takeoverDone (.modLoom (.unitFail h))) (.ite (.loomOut (.unitFail h)) (.declare (.abandonPicks (.modLoom (.unitFail h))))))

theorem Steady.shiftColumns {old new : List Nat} (h : Steady s t) : Steady s (t.shiftColumns old new) :=
  .store h rfl fun ⟨hh, ht, hc⟩ => ⟨hh, Memory.wf_place _ _ (Memory.wf_filter _ _ ht), hc⟩

theorem Steady.columnDone {p : Nat} (h : Steady s t) : Steady s (t.columnDone p) := by
  unfold State.columnDone
  dsimp only
  exact .takeoverDone (.shiftColumns (.set h rfl))

theorem Stays.columnTakeoverComplete : Stays s (execColumnTakeoverComplete s) := by
  unfold execColumnTakeoverComplete
  dsimp only
  refine .next ?_
  split
  · exact .refl
  · exact .foldl (.columnDone .refl) (fun _ _ h' => .columnDone h')

theorem Steady.modIssued {id : Nat} {f : Issued → Issued} (h : Steady s t) : Steady s (t.modIssued id f) :=
  .set h rfl

theorem Steady.startPick {i : Issued} {joined : Bool} (h : Steady s t) : Steady s (t.startPick i joined) := by
  unfold State.startPick
  dsimp only
  split
  · exact .ite (.set h rfl) (.set h rfl)
  · exact .set h rfl

theorem Steady.startWide {i : Issued} (h : Steady s t) : Steady s (t.startWide i) := by
  unfold State.startWide
  split
  · exact h
  · exact .ite (.set h rfl) (.set h rfl)

theorem Stays.pickBoundary : Stays s (execPickBoundary s) := by
  unfold execPickBoundary
  refine .next (.ite .refl ?_)
  split
  · exact .ite (.startPick .refl) .refl
  · split
    · exact .ite (.set .refl rfl) (.startWide .refl)
    · split
      · exact .startWide .refl
      · split
        · exact .startPick .refl
        · exact .refl

theorem Stays.gatherAddressFault {id row : Nat} : Stays s (execGatherAddressFault id row s) := by
  unfold execGatherAddressFault
  refine .next ?_
  split
  · exact .refl
  · exact .ite (.set .refl rfl) .refl

theorem Steady.mismatch {i : Issued} {col : Nat} (h : Steady s t) : Steady s (t.mismatch i col) := by
  unfold State.mismatch
  dsimp only
  exact .ite (.failColumn (.modLoom (.logError h))) (.modLoom (.logError h))

theorem Steady.discardPick {i : Issued} (h : Steady s t) : Steady s (t.discardPick i) := by
  unfold State.discardPick
  dsimp only
  exact .ite (.set h rfl) (.set h rfl)

theorem Steady.countCheck {i : Issued} (h : Steady s t) : Steady s (t.countCheck i) :=
  .ite h (.set h rfl)

theorem Stays.pickCheckComplete {id : Nat} {faults : List ArrayFault} : Stays s (execPickCheckComplete id faults s) := by
  unfold execPickCheckComplete
  dsimp only
  refine .next ?_
  split
  · exact .refl
  · exact .ite (.discardPick .refl) (.ite (.set .refl rfl) (.ite (.ite (.passPick (.countCheck .refl)) (.modIssued (.countCheck .refl))) (.foldl
      (.modIssued (.countCheck .refl)) (fun _ _ h' => .mismatch h'))))

/-! ### Bindings -/

theorem Steady.modImg {f : Images → Images} (h : Steady s t) : Steady s (t.modImg f) :=
  .set h rfl

theorem Steady.freeImage {im : Image} (h : Steady s t) : Steady s (t.freeImage im) :=
  .ite (.modImg (.dropHome h)) h

theorem Steady.ownCopy {im : Image} (h : Steady s t) : Steady s (t.ownCopy im) :=
  .set h rfl

theorem Steady.dropModel {m : Model} (h : Steady s t) : Steady s (t.dropModel m) := by
  unfold State.dropModel
  dsimp only
  split
  · exact .modImg (.freeHbm (.foldl (.foldl h (fun _ _ h' => .removeCtx (.freeKnotsOf (.releaseWindows h')))) (fun _ _ h' => .dropHome h')))
  · exact .ite (.freeImage (.modTiers (.ownCopy (.releaseCopy (.modImg (.freeHbm (.foldl (.foldl h (fun _ _ h' => .removeCtx (.freeKnotsOf
      (.releaseWindows h')))) (fun _ _ h' => .dropHome h')))))))) (.ownCopy (.modImg (.freeHbm (.foldl (.foldl h (fun _ _ h' => .removeCtx
      (.freeKnotsOf (.releaseWindows h')))) (fun _ _ h' => .dropHome h')))))

theorem Steady.failBinds {sids : List Nat} (h : Steady s t) : Steady s (t.failBinds sids) := by
  unfold State.failBinds
  refine .foldl h (fun _ _ h' => .dropModel ?_)
  split
  · exact .set h' rfl
  · exact h'

theorem Steady.endFetches {id : W64} (h : Steady s t) : Steady s (t.endFetches id) := by
  unfold State.endFetches
  dsimp only
  exact .failBinds (.set h rfl)

/-! ### Link -/

theorem Steady.audit {b c : Nat} (h : Steady s t) : Steady s (t.audit b c) := by
  unfold State.audit
  dsimp only
  refine .ite ?_ h
  split
  · exact h
  · exact .sendPacket (.set h rfl)

theorem Steady.sendHello {b : Nat} {dead : Bool} {deadEpoch : Nat} (h : Steady s t) : Steady s (t.sendHello b dead deadEpoch) :=
  .sendPacket h

theorem Steady.helloAll (h : Steady s t) : Steady s t.helloAll :=
  .foldl h (fun _ _ h' => .sendHello h')

theorem Steady.modPort {n : Nat} {f : Port → Port} (h : Steady s t) : Steady s (t.modPort n f) := by
  unfold State.modPort
  dsimp only
  exact .ite (.set h rfl) (.set h rfl)

theorem Steady.modLane {n slot : Nat} {f : Lane → Lane} (h : Steady s t) : Steady s (t.modLane n slot f) :=
  .modPort h

theorem Steady.portDown {n : Nat} (h : Steady s t) : Steady s (t.portDown n) :=
  .dropBits (.modPort h)

theorem Steady.auditChanged {old : Nat → Nat → Option (Nat × Nat)} (h : Steady s t) : Steady s (t.auditChanged old) :=
  .foldl h (fun _ _ h' => .audit h')

theorem Steady.settleReroute (h : Steady s t) : Steady s t.settleReroute :=
  .ite h (.foldl h (fun _ _ h' => .set h' rfl))

theorem Steady.portLoss {p : Nat} (h : Steady s t) : Steady s (t.portLoss p) := by
  unfold State.portLoss
  dsimp only
  split
  · exact h
  · exact .ite (.settleReroute (.auditChanged (.helloAll (.declare (.modFabric (.portDown (.bumpPort (.unitFail h)))))))) h

theorem Steady.portReturn {p : Nat} (h : Steady s t) : Steady s (t.portReturn p) := by
  unfold State.portReturn
  dsimp only
  split
  · exact h
  · exact .ite h (.settleReroute (.auditChanged (.helloAll (.ite (.setReady (.modPort h)) (.modPort h)))))

theorem Stays.fabricPortLoss {port : Nat} : Stays s (execFabricPortLoss port s) :=
  .next (.portLoss .refl)

theorem Steady.lanesDone {n : Nat} (h : Steady s t) : Steady s (t.lanesDone n) :=
  .foldl h (fun _ _ h' => .takeoverDone (.ite h' (.set h' rfl)))

theorem Steady.aligned {n : Nat} (h : Steady s t) : Steady s (t.aligned n) := by
  unfold State.aligned
  dsimp only
  split
  · exact h
  · exact .ite (.ite (.lanesDone (.setReady (.modPort h))) (.lanesDone (.portReturn h))) h

theorem Stays.pcsAligned {port : Nat} : Stays s (execPcsAligned port s) :=
  .next (.aligned .refl)

theorem Stays.fabricPortReturn {port : Nat} : Stays s (execFabricPortReturn port s) :=
  .next (.ite (.aligned .refl) .refl)

theorem Steady.sendTraining {n slot : Nat} {op logical target : Nat} (h : Steady s t) : Steady s (t.sendTraining n slot op logical target) := by
  unfold State.sendTraining
  dsimp only
  split
  · exact h
  · exact .emit (.modLane (.fresh h))

theorem Steady.sendSwap {n op : Nat} {logical target : Nat} (h : Steady s t) : Steady s (t.sendSwap n op logical target) :=
  .foldl h (fun _ _ h' => .sendTraining h')

theorem Steady.moveLane {n : Nat} {w : Swap} (h : Steady s t) : Steady s (t.moveLane n w) := by
  unfold State.moveLane
  dsimp only
  exact .ite (.modFabric (.modPort h)) (.modPort h)

theorem Steady.requestSwap {n : Nat} (h : Steady s t) : Steady s (t.requestSwap n) := by
  unfold State.requestSwap
  split
  · exact .ite h (.sendSwap (.modPort h))
  · exact h

theorem Steady.stopLane {n logical : Nat} {faulty : Bool} (h : Steady s t) : Steady s (t.stopLane n logical faulty) := by
  unfold State.stopLane
  dsimp only
  exact .ite (.portDown (.modPort h)) (.portLoss (.modPort h))

theorem Stays.laneFault {port logical : Nat} : Stays s (execLaneFault port logical s) := by
  unfold execLaneFault
  dsimp only
  refine .next ?_
  split
  · exact .refl
  · split
    · exact .refl
    · refine .ite ?_ (.stopLane .refl)
      split
      · exact .stopLane (.unitFail .refl)
      · exact .requestSwap (.declare (.modPort (.stopLane (.unitFail .refl))))

theorem Steady.receiveSwap {n : Nat} {grant : Bool} {logical slot : Nat} (h : Steady s t) : Steady s (t.receiveSwap n grant logical slot) := by
  unfold State.receiveSwap
  dsimp only
  split
  · exact h
  · split
    · exact .ite h (.requestSwap (.moveLane h))
    · exact .ite h (.moveLane (.sendSwap (.declare (.stopLane h))))

theorem Stays.laneSwap {port : Nat} {grant : Bool} {logical slot : Nat} : Stays s (execLaneSwap port grant logical slot s) :=
  .next (.ite (.receiveSwap .refl) .refl)

theorem Stays.trainingFrame {port slot : Nat} {word : W64} {adapted : Bool} : Stays s (execTrainingFrame port slot word adapted s) := by
  unfold execTrainingFrame
  dsimp only
  refine .next ?_
  split
  · exact .refl
  · refine .ite .refl ?_
    split
    · exact .modLane .refl
    · split
      · exact .ite (.sendTraining (.ite (.receiveSwap (.modLane (.modLane .refl))) (.modLane (.modLane .refl)))) (.ite (.receiveSwap (.modLane
          (.modLane .refl))) (.modLane (.modLane .refl)))
      · exact .ite (.receiveSwap (.modLane (.modLane .refl))) (.modLane (.modLane .refl))

theorem Stays.lanesToData {port : Nat} : Stays s (execLanesToData port s) := by
  unfold execLanesToData
  dsimp only
  refine .next ?_
  split
  · exact .ite .refl (.ite (.modFabric (.modPort .refl)) (.modPort .refl))
  · exact .refl

theorem Stays.trainingTimeout {port slot : Nat} : Stays s (execTrainingTimeout port slot s) := by
  unfold execTrainingTimeout
  dsimp only
  refine .next ?_
  split
  · exact .ite (.set .refl rfl) .refl
  · exact .refl

theorem Stays.hostportModeTimer : Stays s (execHostportModeTimer s) := by
  unfold execHostportModeTimer
  dsimp only
  exact .next (.ite .refl (.set (.modPort .refl) rfl))

/-! ### Failover -/

theorem Steady.modFail {f : Failover → Failover} (h : Steady s t) : Steady s (t.modFail f) :=
  .set h rfl

theorem Steady.deviceFatal {unitType unitIndex : Nat} {addr : W64} {source : Nat} (h : Steady s t) :
    Steady s (t.deviceFatal unitType unitIndex addr source) :=
  .logError h

theorem Steady.startSpare {core spare : Nat} {declared : Bool} (h : Steady s t) : Steady s (t.startSpare core spare declared) := by
  unfold State.startSpare
  dsimp only
  exact .ite (.set h rfl) (.set h rfl)

theorem Steady.failCore {core source : Nat} (h : Steady s t) : Steady s (t.failCore core source) := by
  unfold State.failCore
  dsimp only
  refine .ite h ?_
  split
  · split
    · exact .startSpare (.modFail (.unitFail h))
    · exact .deviceFatal (.modFail (.modFail (.unitFail h)))
  · refine .ite (.takeoverDone (.modFail (.unitFail h))) ?_
    split
    · exact .startSpare (.modFail (.unitFail h))
    · exact .deviceFatal (.handOverDescs (.modFail (.unitFail h)))

theorem Stays.coreHeartbeatTimeout {core : Nat} : Stays s (execCoreHeartbeatTimeout core s) :=
  .next (.ite (.failCore .refl) .refl)

theorem Stays.coreTakeoverComplete : Stays s (execCoreTakeoverComplete s) := by
  unfold execCoreTakeoverComplete
  refine .next ?_
  split
  · exact .refl
  · exact .takeoverDone (.modFail (.handOverDescs .refl))

theorem Steady.threadFor {i : Nat} (h : Steady s t) : Steady s ((t.threadFor i).2) := by
  unfold State.threadFor
  dsimp only
  split
  · exact h
  · exact .snd (.modFail (.fresh h))

theorem Stays.handoffEffect {thread : Nat} {receiver : Receiver} {n : W32} : Stays s (execHandoffEffect thread receiver n s) := by
  unfold execHandoffEffect
  dsimp only
  exact .next (.ite .refl (.ite (.isolate (.threadFor .refl)) (.ite (.modFail (.threadFor .refl)) (.set (.threadFor .refl) rfl))))

theorem Steady.dropSieves {chans : List Nat} (h : Steady s t) : Steady s (t.dropSieves chans) := by
  unfold State.dropSieves
  dsimp only
  exact .set h rfl

theorem Steady.failWrites {chans : List Nat} (h : Steady s t) : Steady s (t.failWrites chans) := by
  unfold State.failWrites
  dsimp only
  exact .kickWrites (.modFlash (.foldl h (fun _ _ h' => .failProgram h')))

theorem Steady.pairOut {hm : Nat} (h : Steady s t) : Steady s (t.pairOut hm) := by
  unfold State.pairOut
  dsimp only
  exact .modFlash (.failWrites (.set h rfl))

theorem Steady.failHub {hm source : Nat} (h : Steady s t) : Steady s (t.failHub hm source) := by
  unfold State.failHub
  dsimp only
  exact .ite h (.ite (.pairOut (.modFail (.setReady (.unitFail h)))) (.declare (.dropSieves (.modFail (.modFail (.setReady (.unitFail h)))))))

theorem Stays.hubHeartbeatTimeout {hub : Nat} : Stays s (execHubHeartbeatTimeout hub s) :=
  .next (.failHub .refl)

theorem Stays.tetherLinkLoss {hub : Nat} : Stays s (execTetherLinkLoss hub s) :=
  .next (.failHub .refl)

theorem Steady.closeOpen {chans : List Nat} (h : Steady s t) : Steady s (t.closeOpen chans) := by
  unfold State.closeOpen
  dsimp only
  exact .set h rfl

theorem Steady.reprogram {p : Programming} (h : Steady s t) : Steady s (t.reprogram p) := by
  unfold State.reprogram
  dsimp only
  exact .modFlash (.takeWseq h)

theorem Stays.hubTakeoverComplete {hub : Nat} : Stays s (execHubTakeoverComplete hub s) := by
  unfold execHubTakeoverComplete
  dsimp only
  exact .next (.ite (.takeoverDone (.closeOpen (.modFlash (.foldl (.foldl (.set .refl rfl) (fun _ _ h' => .set h' rfl))
      (fun _ _ h' => .reprogram h'))))) .refl)

theorem Steady.refetch {x : Nat} (h : Steady s t) : Steady s (t.refetch x) := by
  unfold State.refetch
  dsimp only
  exact .foldl h (fun _ _ h' => .foldl h' (fun _ _ h'' => .fetchExtent h''))

theorem Steady.objLost {hm : Home} (h : Steady s t) : Steady s (t.objLost hm) :=
  .ite (.endFetches (.set h rfl)) (.mutableLost h)

theorem Steady.damageLost (h : Steady s t) : Steady s t.damageLost :=
  .foldl h (fun _ _ h' => .objLost h')

theorem Steady.failStack {x source : Nat} {dead : Bool} (h : Steady s t) : Steady s (t.failStack x source dead) := by
  unfold State.failStack
  dsimp only
  exact .ite h (.ite (.declare (.refetch (.modTiers (.ite (.foldl (.modTiers (.setReady (.unitFail h))) (fun _ _ h' => .objLost h')) (.modTiers
      (.setReady (.unitFail h))))))) (.damageLost (.modTiers (.setReady (.unitFail h)))))

theorem Stays.hbmLinkLoss {stack : Nat} : Stays s (execHbmLinkLoss stack s) :=
  .next (.failStack .refl)

theorem Steady.rebuildSystem {x : Nat} (h : Steady s t) : Steady s (t.rebuildSystem x) :=
  .foldl h (fun _ _ h' => .rebuildWord h')

theorem Steady.relight (h : Steady s t) : Steady s t.relight := by
  unfold State.relight
  dsimp only
  refine .ite (.portDown (.foldl (.set h rfl) (fun _ _ h' => ?_))) (.foldl (.set h rfl) (fun _ _ h' => ?_))
  · split
    · exact .ite h' (.portLoss h')
    · exact h'
  · split
    · exact .ite h' (.portLoss h')
    · exact h'

theorem Steady.laserFault {module : Nat} {removed : Bool} (h : Steady s t) : Steady s (t.laserFault module removed) := by
  unfold State.laserFault
  dsimp only
  exact .ite h (.ite (.takeoverDone (.relight (.unitFail (.set h rfl)))) (.set h rfl))

theorem Stays.laserModuleFault {module : Nat} {removed : Bool} : Stays s (execLaserModuleFault module removed s) :=
  .next (.laserFault .refl)

theorem Stays.laserModuleInsert {module : Nat} : Stays s (execLaserModuleInsert module s) :=
  .next (.ite .refl (.set .refl rfl))

/-! ### Power -/

theorem Steady.shed (h : Steady s t) : Steady s t.shed := by
  unfold State.shed
  dsimp only
  exact .dropBits (.set h rfl)

theorem Steady.flush {cause : FlushCause} {off : Bool} (h : Steady s t) : Steady s (t.flush cause off) := by
  unfold State.flush
  split
  · exact .set h rfl
  · exact .shed (.set h rfl)

theorem Steady.flushOff {cause : FlushCause} (h : Steady s t) : Steady s (t.flushOff cause) :=
  .ite (.flush h) (.set h rfl)

theorem Steady.writeSag (h : Steady s t) : Steady s t.writeSag :=
  .ite h (.modFlash (.flushUnits h))

theorem Moves.flushEnd : Moves s s.flushEnd := by
  unfold State.flushEnd
  split
  · exact .of .refl
  · exact .ite (.set (.resetNow (.writeSag .refl)) rfl rfl) (.set (.resetNow (.writeSag .refl)) rfl rfl)

theorem Stays.sagFlushEnd : Stays s (execSagFlushEnd s) := Moves.flushEnd

theorem Steady.sagWarn (h : Steady s t) : Steady s t.sagWarn :=
  .ite h (.ite h (.flush (.set h rfl)))

theorem Stays.sagWarn : Stays s (execSagWarn s) :=
  .next (.sagWarn .refl)

theorem Steady.overTrip (h : Steady s t) : Steady s t.overTrip :=
  .ite h (.flushOff (.set h rfl))

theorem Stays.overVoltageTrip : Stays s (execOverVoltageTrip s) :=
  .next (.overTrip .refl)

theorem Moves.inputReset (h : Steady s t) : Moves s t.inputReset :=
  .ite (.set (.resetNow (.set h rfl)) rfl rfl) (.of (.set h rfl))

theorem Stays.inputResetThreshold : Stays s (execInputResetThreshold s) := Moves.inputReset .refl

theorem Steady.startCondition (h : Steady s t) : Steady s t.startCondition :=
  .ite (.set h rfl) h

theorem Stays.startCondition : Stays s (execStartCondition s) :=
  .next (.startCondition .refl)

theorem Stays.excursionEnd : Stays s (execExcursionEnd s) :=
  .next (.set .refl rfl)

theorem Steady.noteExcursion (h : Steady s t) : Steady s t.noteExcursion := by
  unfold State.noteExcursion
  dsimp only
  exact .ite (.ite (.set h rfl) (.count (.set h rfl))) h

theorem Moves.thresholds (h : Steady s t) : Moves s t.thresholds :=
  .ite (.inputReset h) (.of (.ite (.overTrip h) (.ite (.sagWarn h) (.ite (.startCondition h) h))))

theorem Moves.windows (h : Moves s t) : Moves s t.windows :=
  .ite (.set (.ite (.set h rfl rfl) h) rfl rfl) (.ite (.set h rfl rfl) h)

theorem Stays.inputSample {mv : Nat} : Stays s (execInputSample mv s) :=
  Moves.ite (.windows (.thresholds (.noteExcursion (.set .refl rfl)))) (.of .refl)

theorem Stays.housekeepingPowerOn : Stays s (execHousekeepingPowerOn s) :=
  .next (.set .refl rfl)

theorem Stays.holdupBankCharged : Stays s (execHoldupBankCharged s) :=
  .next (.ite (.set .refl rfl) .refl)

theorem Stays.presentLChange {asserted : Bool} {pins : BitVec 6} : Stays s (execPresentLChange asserted pins s) :=
  .next (.set .refl rfl)

theorem Stays.pwrEnAssert : Stays s (execPwrEnAssert s) :=
  .next (.ite .refl (.set .refl rfl))

theorem Stays.pwrEnDeassert : Stays s (execPwrEnDeassert s) :=
  .next (.ite (.flushOff (.set .refl rfl)) .refl)

theorem Stays.pwrgdAssert : Stays s (execPwrgdAssert s) :=
  .next (.ite (.set .refl rfl) .refl)

theorem Stays.resetLAssert {heldUs : Nat} : Stays s (execResetLAssert heldUs s) := by
  unfold execResetLAssert
  exact Moves.ite (.of .refl) (.ite (.of (.set .refl rfl)) (.set (.resetNow (.set .refl rfl)) rfl rfl))

theorem Stays.resetLRelease : Stays s (execResetLRelease s) :=
  .next (.set .refl rfl)

theorem Steady.failRegulator {m source : Nat} (h : Steady s t) : Steady s (t.failRegulator m source) := by
  unfold State.failRegulator
  dsimp only
  exact .ite (.ite (.flushOff (.takeoverDone (.unitFail (.set h rfl)))) (.takeoverDone (.unitFail (.set h rfl)))) h

theorem Stays.regulatorFault {module : Nat} : Stays s (execRegulatorFault module s) :=
  .next (.failRegulator .refl)

theorem Stays.stepChange : Stays s (execStepChange s) :=
  .next (.ite (.set .refl rfl) .refl)

theorem Stays.stepLowerTimer : Stays s (execStepLowerTimer s) :=
  .next (.ite (.set .refl rfl) .refl)

theorem Steady.coolant {r : Readings} (h : Steady s t) : Steady s (t.coolant r) := by
  unfold State.coolant
  dsimp only
  exact .ite (.set h rfl) (.ite (.set h rfl) (.count (.set h rfl)))

theorem Steady.thermalTrip (h : Steady s t) : Steady s t.thermalTrip :=
  .ite h (.flushOff (.set h rfl))

theorem Stays.thermalTrip : Stays s (execThermalTrip s) :=
  .next (.thermalTrip .refl)

theorem Stays.sensorRead {r : Readings} : Stays s (execSensorRead r s) := by
  unfold execSensorRead
  dsimp only
  exact .next (.ite (.thermalTrip (.foldl (.foldl (.coolant (.set .refl rfl)) (fun _ _ h' => .ite (.failHub h') h')) (fun _ _ h' => .ite
      (.laserFault h') h'))) (.foldl (.foldl (.coolant (.set .refl rfl)) (fun _ _ h' => .ite (.failHub h') h')) (fun _ _ h' => .ite
      (.laserFault h') h')))

theorem Stays.demandLiftTimer {d : Demand} : Stays s (execDemandLiftTimer d s) :=
  .next (.ite (.set .refl rfl) .refl)

theorem Stays.thermtripRelease : Stays s (execThermtripRelease s) :=
  .next (.ite .refl (.set .refl rfl))

theorem Stays.ageingMonitor {r : AgeReading} : Stays s (execAgeingMonitor r s) := by
  unfold execAgeingMonitor
  dsimp only
  refine .next ?_
  split
  · exact .set .refl rfl
  · exact .set .refl rfl
  · exact .ite (.laserFault (.set .refl rfl)) (.set .refl rfl)
  · exact .set .refl rfl

theorem Stays.ageingCeiling {domain : Nat} : Stays s (execAgeingCeiling domain s) := by
  unfold execAgeingCeiling
  refine .next ?_
  split
  · exact .refl
  · exact .ite .refl (.ite (.set .refl rfl) (.foldl .refl (fun _ _ h' => .failColumn h')))

theorem Stays.clockWake {unit : Nat} : Stays s (execClockWake unit s) :=
  .next (.set .refl rfl)

/-! ### Integrity -/

theorem Steady.setFlips {m w : Nat} {l : List Nat} (h : Steady s t) : Steady s (t.setFlips m w l) :=
  .set h rfl

theorem Steady.countUe {e : ErrEvent} (h : Steady s t) : Steady s (t.countUe e) := by
  unfold State.countUe
  dsimp only
  split
  · exact h
  · exact .ite (.ite (.failColumn (.set h rfl)) (.set h rfl)) (.ite (.failStack (.set h rfl)) (.set h rfl))

theorem Steady.logCounted {e : ErrEvent} (h : Steady s t) : Steady s (t.logCounted e) := by
  unfold State.logCounted
  dsimp only
  exact .ite (.countUe (.logError h)) (.logError h)

theorem Steady.storeWord {u : MemUnit} {a v : Nat} (h : Steady s t) : Steady s (t.storeWord u a v) := by
  unfold State.storeWord
  cases u
  case hbm => exact .store h rfl fun ⟨hh, ht, hc⟩ => ⟨Memory.wf_writeBytes _ _ _ hh, ht, hc⟩
  case tile => exact .store h rfl fun ⟨hh, ht, hc⟩ => ⟨hh, Memory.wf_writeBytes _ _ _ ht, hc⟩
  case cc => exact .store h rfl fun ⟨hh, ht, hc⟩ => ⟨hh, ht, Memory.wf_writeBytes _ _ _ hc⟩

theorem Steady.rewritten {u : MemUnit} {a : Nat} (h : Steady s t) : Steady s (t.rewritten u a) :=
  .set h rfl

theorem Steady.replayPick {i : Issued} (h : Steady s t) : Steady s (t.replayPick i) := by
  unfold State.replayPick
  dsimp only
  exact .set h rfl

theorem Steady.poolUe {a : Nat} (h : Steady s t) : Steady s (t.poolUe a) := by
  unfold State.poolUe
  split
  · exact .ite (.fetchExtent h) (.mutableLost h)
  · exact .ite (.set h rfl) (.storeWord h)

theorem Steady.handleUe {u : MemUnit} {a : Nat} {demand : Bool} {source : Nat} (h : Steady s t) : Steady s (t.handleUe u a demand source) := by
  unfold State.handleUe
  dsimp only
  split
  · exact .ite (.ite (.deviceFatal h) (.rewritten (.rebuildWord h))) (.poolUe h)
  · split
    · exact .storeWord h
    · split
      · split
        · exact .ite (.replayPick (.rewritten (.writeWindow h))) (.rewritten (.writeWindow h))
        · exact .rewritten (.writeWindow h)
      · exact .ite (.set h rfl) h
  · split
    · exact .deviceFatal h
    · exact .ite (.set h rfl) h

theorem Steady.correct {u : MemUnit} {a source pos : Nat} {raced : Option Buf} (h : Steady s t) : Steady s (t.correct u a source pos raced) := by
  unfold State.correct
  dsimp only
  split
  · exact .set (.setFlips (.logError (.fresh h))) rfl
  · exact .set (.storeWord (.logError (.fresh h))) rfl

theorem Steady.uncorrectable {u : MemUnit} {a source : Nat} {demand : Bool} (h : Steady s t) : Steady s (t.uncorrectable u a source demand) := by
  unfold State.uncorrectable
  dsimp only
  exact .handleUe (.logCounted (.fresh h))

theorem Steady.lookWord {u : MemUnit} {a source : Nat} {demand : Bool} {raced : Option Buf} (h : Steady s t) :
    Steady s ((t.lookWord u a source demand raced).1) := by
  unfold State.lookWord
  dsimp only
  split
  · exact h
  · exact .fst (.correct h)
  · exact .fst (.uncorrectable h)
  · exact .iteOf Prod.fst (.fst (.fresh h)) (.iteOf Prod.fst (.fst (.correct (.fresh h))) (.fst (.uncorrectable (.fresh h))))

theorem Steady.readWord {u : MemUnit} {a source : Nat} {demand : Bool} {raced : Option Buf} (h : Steady s t) :
    Steady s (t.readWord u a source demand raced) :=
  .lookWord h

theorem Steady.mergeWord {u : MemUnit} {a off : Nat} {b : Buf} (h : Steady s t) : Steady s (t.mergeWord u a off b) := by
  unfold State.mergeWord
  dsimp only
  exact .ite (.lookWord h) (.storeWord (.lookWord h))

theorem Stays.memoryRead {unit : MemUnit} {addr : Nat} {flipped : List Nat} {merge : Option (Nat × Buf)} {raced : Option Buf} :
    Stays s (execMemoryRead unit addr flipped merge raced s) := by
  unfold execMemoryRead
  split
  · trivial
  · refine .next (.ite (.set .refl rfl) ?_)
    split
    · exact .mergeWord (.set .refl rfl)
    · exact .readWord (.set .refl rfl)

theorem Stays.hbmStackRetirement {stack : Nat} : Stays s (execHbmStackRetirement stack s) := by
  unfold execHbmStackRetirement
  dsimp only
  refine .next (.ite (.foldl (.takeoverDone (.modTiers (.set (.rebuildSystem (.foldl .refl (fun _ _ h' => .objLost h'))) rfl)))
      (fun _ _ h' => ?_)) .refl)
  split
  · exact .mergeWord h'
  · exact .readWord h'

theorem Steady.fillWords {u : MemUnit} {v n : Nat} : ∀ {a : Nat} {t : State}, Steady s t → Steady s (t.fillWords u a v n) := by
  induction n with
  | zero => exact fun h => h
  | succ n ih => exact fun h => ih (.storeWord h)

theorem Stays.fill {unit : MemUnit} {addr words : Nat} {pattern : W64} : Stays s (execFill unit addr words pattern s) := by
  unfold execFill
  split
  · trivial
  · exact .next (.fillWords .refl)

theorem Stays.rakeRead {sram : Bool} {flipped : List Nat} {raced : Option Buf} : Stays s (execRakeRead sram flipped raced s) := by
  unfold execRakeRead
  dsimp only
  exact .next (.ite (.readWord (.set .refl rfl)) (.readWord (.set .refl rfl)))

theorem Stays.rakeLapEnd {sram : Bool} {seconds : Nat} : Stays s (execRakeLapEnd sram seconds s) := by
  unfold execRakeLapEnd State.modInteg
  cases sram <;> exact .next (.set .refl rfl)

theorem Stays.setRake {sid : Nat} : Stays s (execSetRake sid s) := by
  unfold execSetRake
  dsimp only
  exact .next (.run .refl (fun _ _ h' => .settle h' (fun _ h'' => .set h'' rfl)))

theorem Stays.checkerSelfTest {unitType index : Nat} {pass : Bool} : Stays s (execCheckerSelfTest unitType index pass s) := by
  unfold execCheckerSelfTest
  dsimp only
  exact .next (.ite .refl (.ite (.failColumn (.set .refl rfl)) (.ite (.failColumn (.set .refl rfl)) (.ite (.failStack (.set .refl rfl)) (.ite
      (.failHub (.set .refl rfl)) (.ite (.failCore (.set .refl rfl)) (.deviceFatal (.set .refl rfl))))))))

theorem Stays.errorLogEvent {e : ErrEvent} : Stays s (execErrorLogEvent e s) := by
  unfold execErrorLogEvent
  refine .next ?_
  split
  · exact .logError .refl
  · exact .logCounted .refl
  · exact .ite (.logError .refl) .refl
  · exact .ite (.failColumn .refl) (.ite (.failHub .refl) (.ite (.failStack .refl) (.ite (.failCore .refl) (.ite (.failRegulator .refl)
      (.logError .refl)))))

theorem Stays.readErrors {sid : Nat} {ok : Bool} : Stays s (execReadErrors sid ok s) := by
  unfold execReadErrors
  dsimp only
  exact .next (.run .refl (fun _ _ h' => .ite h' (.settle h' (fun _ h'' => .report h'' (fun _ h''' => .set h''' rfl)))))

theorem Stays.readErrorsHistory {sid : Nat} {ok : Bool} : Stays s (execReadErrorsHistory sid ok s) := by
  unfold execReadErrorsHistory
  dsimp only
  exact .next (.run .refl (fun _ _ h' => .ite (.settle h' (fun _ h'' => .report h'' (fun _ h''' => .set h''' rfl))) h'))

theorem Stays.retireGranule {sid : Nat} : Stays s (execRetireGranule sid s) := by
  unfold execRetireGranule
  dsimp only
  exact .next (.run .refl (fun _ _ h' => .ite h' (.settle h' (fun _ h'' => .completeOk (.ite h'' (.set h'' rfl))))))

theorem Stays.retireBank {sid : Nat} : Stays s (execRetireBank sid s) := by
  unfold execRetireBank
  dsimp only
  exact .next (.run .refl (fun _ _ h' => .ite (.settle h' (fun _ h'' => .completeOk (.ite h'' (.set h'' rfl)))) h'))

theorem Stays.retireSramPage {sid : Nat} : Stays s (execRetireSramPage sid s) := by
  unfold execRetireSramPage
  dsimp only
  exact .next (.run .refl (fun _ _ h' => .ite (.settle h' (fun _ h'' => .completeOk (.ite h'' (.set h'' rfl)))) h'))

/-! ### Images -/

theorem Stays.loadImage {sid : Nat} {pkg : Option Package} : Stays s (execLoadImage sid pkg s) := by
  unfold execLoadImage
  dsimp only
  exact .next (.run .refl (fun _ _ h' => .withB h' (fun _ => .settle h' (fun _ h'' => .complete (.modImg (.addHome (.storeObj h'')))))))

theorem Stays.unloadImage {sid : Nat} : Stays s (execUnloadImage sid s) := by
  unfold execUnloadImage
  refine .next (.run .refl (fun _ _ h' => .settle h' (fun _ h'' => ?_)))
  split
  · exact .freeImage (.set h'' rfl)
  · exact .set h'' rfl

theorem Steady.stageCopy {im : Image} {sid : Nat} {x : Nat × State} (h : Steady s t) (e : t.stageCopy im sid = some x) : Steady s x.2 := by
  obtain ⟨y, ey, rfl⟩ := Option.map_eq_some_iff.1 e
  dsimp only
  exact .foldl (.modHome (.chargePool (.placeHbm h ey))) fun _ _ h' => .fetchExtent h'

theorem Steady.makeSlot (h : Steady s t) : Steady s t.makeSlot := by
  unfold State.makeSlot
  refine .ite h ?_
  split
  · exact .set h rfl
  · split
    · exact .set h rfl
    · exact h

theorem Steady.placeBinding {im : Image} {m : Model} {sid : Nat} {x : Model × State} (h : Steady s t)
    (e : t.placeBinding im m sid = some x) : Steady s x.2 := by
  unfold State.placeBinding at e
  split at e
  · cases e
  · next a r e1 =>
    have staged : Steady s r := by
      split at e1
      · cases e1
        exact .set h rfl
      · exact .stageCopy h e1
    split at e
    · cases e
      exact staged
    · obtain ⟨y, ey, rfl⟩ := Option.map_eq_some_iff.1 e
      exact .allocHbm staged ey

theorem Stays.bindModel {sid : Nat} : Stays s (execBindModel sid s) := by
  unfold execBindModel
  refine .next (.run .refl fun _ r h' => ?_)
  split
  · exact .settle h' fun _ h'' => h''
  · refine .settle h' fun _ h'' => ?_
    split
    · exact h''
    · next e => exact .schedule (.ite (.ownCopy (.set (.placeBinding h' e) rfl)) (.makeSlot (.ownCopy (.set (.placeBinding h' e) rfl))))

theorem Steady.sweepImages (h : Steady s t) : Steady s t.sweepImages := by
  unfold State.sweepImages
  dsimp only
  exact .schedule (.modImg (.foldl (.foldl h (fun _ _ h' => .dropModel h')) (fun _ _ h' => .freeImage h')))

theorem Stays.unbindModel {sid : Nat} : Stays s (execUnbindModel sid s) :=
  .next (.run .refl (fun _ _ h' => .settle h' (fun _ h'' => .sweepImages (.set h'' rfl))))

theorem Steady.writeExtentCopy {hm : Home} {e : Nat} {data : Buf} (h : Steady s t) : Steady s (t.writeExtentCopy hm e data) :=
  .store h rfl fun ⟨hh, ht, hc⟩ => ⟨Memory.wf_writeBytes _ _ _ hh, ht, hc⟩

theorem Steady.clearFlips {lo len : Nat} (h : Steady s t) : Steady s (t.clearFlips lo len) := by
  unfold State.clearFlips
  dsimp only
  exact .set h rfl

theorem Steady.extentLost {hm : Home} {extent : Nat} (h : Steady s t) : Steady s (t.extentLost hm extent) := by
  unfold State.extentLost
  dsimp only
  exact .ite (.modTiers (.storeExtents h)) (.schedule (.endFetches (.set h rfl)))

theorem Stays.extentFetchComplete {obj : W64} {extent : Nat} {media : Media} : Stays s (execExtentFetchComplete obj extent media s) := by
  unfold execExtentFetchComplete
  dsimp only
  refine .next (.ite ?_ .refl)
  split
  · exact .endFetches .refl
  · split
    · exact .schedule (.clearFlips (.writeExtentCopy (.modTiers (.readExtent .refl))))
    · exact .extentLost (.readExtent .refl)

theorem Stays.loadFilter {sid : Nat} {b : Option Buf} : Stays s (execLoadFilter sid b s) := by
  unfold execLoadFilter
  dsimp only
  exact .next (.run .refl (fun _ _ h' => .withB h' (fun _ => .settle h' (fun _ h'' => .set h'' rfl))))

theorem Stays.unloadFilter {sid : Nat} : Stays s (execUnloadFilter sid s) :=
  .next (.run .refl (fun _ _ h' => .settle h' (fun _ h'' => .sweepImages (.set h'' rfl))))

/-! ### Indexes -/

theorem Steady.modIdx {f : Indexes → Indexes} (h : Steady s t) : Steady s (t.modIdx f) :=
  .set h rfl

theorem Steady.modIndex {hm : W32} {f : Index → Index} (h : Steady s t) : Steady s (t.modIndex hm f) :=
  .set h rfl

theorem Steady.writeRuns {dim : Nat} {g : Segment} {chans : List Nat} (h : Steady s t) : Steady s (t.writeRuns dim g chans) :=
  .storeExtents h

theorem Steady.dropRuns {g : Segment} (h : Steady s t) : Steady s (t.dropRuns g) :=
  .dropHome (.eraseObj h)

theorem Steady.readRuns {media : Media} {l : List (W64 × Nat)} (h : Steady s t) : Steady s (t.readRuns media l) := by
  unfold State.readRuns
  dsimp only
  exact .foldl (.readExtents h) (fun _ _ h' => .set h' rfl)

theorem Steady.addSealed {owner : W32} {id : W64} {len : Nat} {data : Buf} (h : Steady s t) : Steady s (t.addSealed owner id len data) := by
  unfold State.addSealed
  dsimp only
  split
  · next e =>
    have placed := Steady.allocHbm (.storeObj h) e
    exact .addHome (.store placed rfl fun ⟨hh, ht, hc⟩ => ⟨Memory.wf_writeBytes _ _ _ hh, ht, hc⟩)
  · exact .addHome (.storeObj h)

theorem Stays.createIndex {sid : Nat} {b b2 b3 : Option Buf} : Stays s (execCreateIndex sid b b2 b3 s) := by
  unfold execCreateIndex
  dsimp only
  refine .next (.run .refl (fun _ _ h' => .withB h' (fun _ => ?_)))
  split
  · exact .settle h' (fun _ h'' => .complete (.modIdx (.addSealed h'')))
  · exact .accessError h'

theorem Steady.freeSegments {hm : W32} (h : Steady s t) : Steady s (t.freeSegments hm) := by
  unfold State.freeSegments
  dsimp only
  split
  · exact h
  · exact .modIndex (.foldl h (fun _ _ h' => .dropRuns h'))

theorem Steady.retireVersion {hm : W32} {n : Nat} (h : Steady s t) : Steady s (t.retireVersion hm n) := by
  unfold State.retireVersion
  split
  · exact h
  · exact .freeSegments (.modIndex (.dropHome h))

theorem Steady.reportFree {x : Index} {n : Nat} (h : Steady s t) : Steady s (t.reportFree x n) := by
  unfold State.reportFree
  dsimp only
  split
  · exact h
  · exact .ite h (.sendAll (.set h rfl))

theorem Steady.dropPlotVersion {x : Index} {n : Nat} (h : Steady s t) : Steady s (t.dropPlotVersion x n) := by
  unfold State.dropPlotVersion
  dsimp only
  split
  · exact h
  · exact .set h rfl

theorem Steady.sweepVersions {hm : W32} (h : Steady s t) : Steady s (t.sweepVersions hm) := by
  unfold State.sweepVersions
  dsimp only
  split
  · exact h
  · exact .foldl h (fun _ _ h' => .ite (.reportFree h') (.retireVersion (.dropPlotVersion (.reportFree h'))))

theorem Stays.versionRetire {index : W32} {version : Nat} : Stays s (execVersionRetire index version s) := by
  unfold execVersionRetire
  refine .next ?_
  split
  · exact .refl
  · split
    · exact .ite .refl (.retireVersion (.dropPlotVersion .refl))
    · exact .refl

theorem Steady.dropOpenSegments {hm : W32} (h : Steady s t) : Steady s (t.dropOpenSegments hm) := by
  unfold State.dropOpenSegments
  dsimp only
  split
  · exact h
  · exact .modIdx (.modIndex (.foldl h (fun _ _ h' => .dropRuns h')))

theorem Steady.dropIndex {hm : W32} (h : Steady s t) : Steady s (t.dropIndex hm) := by
  unfold State.dropIndex
  dsimp only
  split
  · exact h
  · exact .set (.modIdx (.foldl (.foldl (.dropHome h) (fun _ _ h' => .dropHome h')) (fun _ _ h' => .dropRuns h'))) rfl

theorem Steady.sweepIndex {x : Index} (h : Steady s t) : Steady s (t.sweepIndex x) := by
  unfold State.sweepIndex
  dsimp only
  split
  · exact .sweepVersions h
  · exact .ite h (.ite (.dropOpenSegments h) (.dropIndex (.dropOpenSegments h)))

theorem Steady.sweepIndexes (h : Steady s t) : Steady s t.sweepIndexes :=
  .foldl h (fun _ _ h' => .sweepIndex h')

theorem Stays.deleteIndex {sid : Nat} : Stays s (execDeleteIndex sid s) := by
  unfold execDeleteIndex
  dsimp only
  refine .next (.runNow .refl (fun _ _ h' => .settle h' (fun _ h'' => ?_)))
  split
  · exact .set h'' rfl
  · split
    · refine .sweepIndex ?_
      split
      · exact .ite (.sendAll (.set h'' rfl)) (.sendMsg (.set h'' rfl))
      · exact .set h'' rfl
    · split
      · exact .ite (.sendAll (.set h'' rfl)) (.sendMsg (.set h'' rfl))
      · exact .set h'' rfl

theorem Stays.openSegment {sid : Nat} : Stays s (execOpenSegment sid s) := by
  unfold execOpenSegment
  dsimp only
  refine .next (.run .refl (fun _ _ h' => ?_))
  split
  · exact .settle h' (fun _ h'' => h'')
  · exact .settle h' (fun _ h'' => .set h'' rfl)

theorem Stays.appendRecords {sid : Nat} {b : Option Buf} : Stays s (execAppendRecords sid b s) := by
  unfold execAppendRecords
  dsimp only
  refine .next (.run .refl (fun _ _ h' => .withB h' (fun _ => ?_)))
  split
  · exact .settle h' (fun _ h'' => h'')
  · refine .settle h' (fun _ h'' => .complete (.modIndex ?_))
    split
    · exact .writeRuns h''
    · exact h''

theorem Stays.sealSegment {sid : Nat} : Stays s (execSealSegment sid s) := by
  unfold execSealSegment
  dsimp only
  refine .next (.run .refl (fun _ _ h' => ?_))
  split
  · exact .settle h' (fun _ h'' => h'')
  · refine .settle h' (fun _ h'' => .complete (.modIndex ?_))
    split
    · exact .set h'' rfl
    · exact h''

theorem Steady.publish {hm : W32} {c : CommitList} {v : Version} (h : Steady s t) : Steady s (t.publish hm c v) := by
  unfold State.publish
  dsimp only
  split
  · exact h
  · exact .sweepVersions (.modIdx (.modIndex (.event (.addSealed h))))

theorem Steady.carry {u : Sub} {plot : Nat} {c : CommitList} (h : Steady s t) : Steady s (t.carry u plot c) := by
  unfold State.carry
  dsimp only
  exact .ite (.emit (.set h rfl)) (.sendMsg (.set h rfl))

theorem Stays.commitIndex {sid : Nat} {b : Option Buf} : Stays s (execCommitIndex sid b s) := by
  unfold execCommitIndex
  dsimp only
  refine .next (.run .refl (fun _ _ h' => .withB h' (fun _ => ?_)))
  split
  · refine .ite h' (.settle h' (fun _ h'' => ?_))
    split
    · exact .carry h''
    · split
      · exact .sweepIndex (.complete (.publish h''))
      · exact .complete (.publish h'')
  · exact .settle h' (fun _ h'' => h'')
  · exact .settle h' (fun _ h'' => h'')

theorem Stays.compactIndex {sid : Nat} {b : Option Buf} {media : Media} : Stays s (execCompactIndex sid b media s) := by
  unfold execCompactIndex
  dsimp only
  refine .next (.run .refl (fun _ _ h' => .withB h' (fun _ => ?_)))
  split
  · refine .ite h' (.settle (.ite (.readRuns h') h') (fun _ h'' => ?_))
    split
    · exact .carry h''
    · split
      · exact .sweepIndex (.complete (.publish h''))
      · exact .complete (.publish h'')
  · exact .settle h' (fun _ h'' => h'')
  · exact .settle h' (fun _ h'' => h'')

theorem Steady.pinMembers {x : Index} {n : Nat} {on : Bool} (h : Steady s t) : Steady s (t.pinMembers x n on) := by
  unfold State.pinMembers
  split
  · exact .sendAll h
  · exact h

theorem Stays.pinVersion {sid : Nat} : Stays s (execPinVersion sid s) := by
  unfold execPinVersion
  dsimp only
  refine .next (.run .refl (fun _ _ h' => ?_))
  split
  · exact .settle h' (fun _ h'' => h'')
  · exact .settle h' (fun _ h'' => .completeOk (.pinMembers (.set h'' rfl)))

theorem Stays.unpinVersion {sid : Nat} : Stays s (execUnpinVersion sid s) := by
  unfold execUnpinVersion
  dsimp only
  refine .next (.run .refl (fun _ _ h' => ?_))
  split
  · exact .settle h' (fun _ h'' => h'')
  · exact .settle h' (fun _ h'' => .sweepVersions (.completeOk (.pinMembers (.set h'' rfl))))

theorem Steady.mediaLost {obj : W64} {extent : Nat} (h : Steady s t) : Steady s (t.mediaLost obj extent) := by
  unfold State.mediaLost
  refine .ite (.set h rfl) ?_
  split
  · exact .ite (.extentLost h) (.ite (.mutableLost h) h)
  · exact h

theorem Stays.parityRebuild {obj : W64} {extent : Nat} {media : Media} : Stays s (execParityRebuild obj extent media s) := by
  unfold execParityRebuild
  dsimp only
  refine .next ?_
  split
  · exact .rebuildFor .refl
  · split
    · exact .refl
    · exact .ite .refl (.ite (.rebuildExtent (.set .refl rfl)) (.mediaLost (.rebuildExtent (.set .refl rfl))))

theorem Steady.stageIndexes (h : Steady s t) : Steady s t.stageIndexes := by
  refine .foldl h fun _ _ h' => ?_
  split
  · exact h'
  · next e => exact .foldl (.set (Steady.allocHbm h' e) rfl) fun _ _ h'' => .fetchExtent h''

theorem Stays.mapReplay {lost : List (Nat × Nat)} : Stays s (execMapReplay lost s) :=
  .next (.ite (.stageIndexes (.replayMap .refl)) .refl)

/-! ### Ask -/

theorem Steady.joinBatch {r : Req} (h : Steady s t) : Steady s (t.joinBatch r) := by
  unfold State.joinBatch
  dsimp only
  split
  · exact .set h rfl
  · exact .set h rfl

theorem Steady.admitReq {r : Req} {chans : List Nat} (h : Steady s t) : Steady s (t.admitReq r chans) := by
  unfold State.admitReq
  dsimp only
  refine .joinBatch (.set (.ite (.modConn (.set ?_ rfl)) ?_) rfl)
  · split
    · exact .addPages h
    · exact h
  · split
    · exact .addPages h
    · exact h

theorem Stays.answer {sid : Nat} : Stays s (execAnswer sid s) :=
  .next (.run .refl (fun _ _ h' => .set h' rfl))

theorem Stays.answerBlockRead {sid : Nat} {block query : Option Buf} : Stays s (execAnswerBlockRead sid block query s) := by
  unfold execAnswerBlockRead
  dsimp only
  refine .next ?_
  split
  · exact .refl
  · refine .ite (.withB .refl (fun _ => ?_)) .refl
    split
    · exact .accessError .refl
    · split
      · split
        · exact .set .refl rfl
        · exact .ite (.admitReq .refl) (.set .refl rfl)
      · exact .set .refl rfl

theorem Stays.batchClose {batch : Nat} : Stays s (execBatchClose batch s) := by
  unfold execBatchClose
  dsimp only
  exact .next (.set .refl rfl)

/-! ### Answer -/

theorem Steady.modAns {f : Answers → Answers} (h : Steady s t) : Steady s (t.modAns f) :=
  .set h rfl

theorem Steady.setReq {r : Req} (h : Steady s t) : Steady s (t.setReq r) :=
  .set h rfl

theorem Steady.atStage {sid : Nat} {st : Stage} {body : Req → State} (h : Steady s t) (hk : ∀ x1, Steady s (body x1)) :
    Steady s (t.atStage sid st body) := by
  unfold State.atStage
  split
  · exact .ite (hk _) h
  · exact h

theorem Steady.askMember {r : Req} {rank : Nat} {kind : Msg} {values : List Nat} (h : Steady s t) : Steady s (t.askMember r rank kind values) := by
  unfold State.askMember
  dsimp only
  exact .sendMsg (.set h rfl)

theorem Steady.askAll {r : Req} {ranks : List Nat} {kind : Msg} {values : Nat → List Nat} (h : Steady s t) :
    Steady s (t.askAll r ranks kind values) :=
  .foldl (.set h rfl) (fun _ _ h' => .askMember h')

theorem Steady.toRet {r : Req} (h : Steady s t) : Steady s (t.toRet r) :=
  .set h rfl

theorem Steady.toGen {r : Req} (h : Steady s t) : Steady s (t.toGen r) :=
  .ite (.set h rfl) (.ite (.set h rfl) (.set h rfl))

theorem Steady.toPack {r : Req} (h : Steady s t) : Steady s (t.toPack r) := by
  unfold State.toPack
  dsimp only
  exact .ite (.set h rfl) (.set h rfl)

theorem Steady.toRerank {r : Req} (h : Steady s t) : Steady s (t.toRerank r) :=
  .ite (.set h rfl) (.ite (.toPack h) (.ite (.toPack h) (.set h rfl)))

theorem Steady.toFetch {r : Req} (h : Steady s t) : Steady s (t.toFetch r) := by
  unfold State.toFetch
  dsimp only
  exact .ite (.set h rfl) (.ite (.toRerank h) (.ite (.askAll h) (.set h rfl)))

theorem Steady.toExact {r : Req} (h : Steady s t) : Steady s (t.toExact r) := by
  unfold State.toExact
  dsimp only
  exact .ite (.set h rfl) (.ite (.toFetch h) (.ite (.askAll h) (.set h rfl)))

theorem Steady.embedded {r : Req} (h : Steady s t) : Steady s (t.embedded r) := by
  unfold State.embedded
  dsimp only
  split
  · exact h
  · exact h
  · exact .ite (.set h rfl) (.ite (.set h rfl) (.set h rfl))

theorem Stays.embedComplete {batch : Nat} : Stays s (execEmbedComplete batch s) := by
  unfold execEmbedComplete
  refine .next ?_
  split
  · exact .refl
  · exact .foldl .refl (fun _ _ h' => .atStage h' (fun _ => .embedded h'))

theorem Steady.startPass {r : Req} {i : Nat} (h : Steady s t) : Steady s (t.startPass r i) := by
  unfold State.startPass
  dsimp only
  exact .ite (.askAll h) (.set h rfl)

theorem Steady.probed {r : Req} (h : Steady s t) : Steady s (t.probed r) := by
  unfold State.probed
  dsimp only
  split
  · exact h
  · exact .ite (.set h rfl) (.ite (.set h rfl) (.startPass (.set h rfl)))

theorem Steady.probe {r : Req} (h : Steady s t) : Steady s (t.probe r) := by
  unfold State.probe
  split
  · exact h
  · exact .ite h (.pinned h (fun _ h' => .pinned h' (fun _ h'' => .probed h'')))

theorem Stays.probeComplete {batch : Nat} : Stays s (execProbeComplete batch s) := by
  unfold execProbeComplete
  refine .next ?_
  split
  · exact .refl
  · exact .foldl .refl (fun _ _ h' => .atStage h' (fun _ => .probe h'))

theorem Stays.sievePassStart {channel : Nat} : Stays s (execSievePassStart channel s) := by
  unfold execSievePassStart
  dsimp only
  refine .next (.ite .refl ?_)
  split
  · exact .refl
  · exact .set .refl rfl

theorem Stays.sievePassEnd {channel : Nat} {media : Media} : Stays s (execSievePassEnd channel media s) := by
  unfold execSievePassEnd
  dsimp only
  refine .next ?_
  split
  · exact .refl
  · exact .foldl (.modAns (.readRuns .refl)) (fun _ _ h' => .atStage h' (fun _ => .ite (.set h' rfl) h'))

theorem Steady.afterMerge {r : Req} {partitions : Nat} (h : Steady s t) : Steady s (t.afterMerge r partitions) := by
  unfold State.afterMerge
  dsimp only
  exact .ite (.set h rfl) (.ite (.toExact (.set h rfl)) (.ite (.toExact (.set h rfl)) (.ite (.toExact (.set h rfl)) (.startPass (.set h rfl)))))

theorem Stays.mergeComplete {sid : Nat} : Stays s (execMergeComplete sid s) := by
  unfold execMergeComplete
  dsimp only
  refine .next (.atStage .refl (fun _ => ?_))
  split
  · exact .refl
  · exact .ite (.afterMerge .refl) .refl

theorem Stays.exactComplete {sid : Nat} {media : Media} : Stays s (execExactComplete sid media s) := by
  unfold execExactComplete
  dsimp only
  exact .next (.atStage .refl (fun _ => .ite .refl (.toFetch (.readRuns .refl))))

theorem Steady.readPassage {media : Media} {sid : Nat} {l : W128} (h : Steady s t) : Steady s ((t.readPassage media sid l).2) := by
  unfold State.readPassage
  exact .iteOf Prod.snd h (.snd (.readExtent h))

theorem Steady.readPassages {media : Media} {sid : Nat} {ls : List W128} (h : Steady s t) : Steady s ((t.readPassages media sid ls).2) := by
  unfold State.readPassages
  exact .foldlOf Prod.snd h (fun _ _ h' => .snd (.readPassage h'))

theorem Stays.fetchComplete {sid : Nat} {media : Media} : Stays s (execFetchComplete sid media s) := by
  unfold execFetchComplete
  dsimp only
  exact .next (.atStage .refl (fun _ => .ite .refl (.toRerank (.readPassages .refl))))

theorem Stays.rerankComplete {sid : Nat} : Stays s (execRerankComplete sid s) := by
  unfold execRerankComplete
  dsimp only
  refine .next (.atStage .refl (fun _ => ?_))
  split
  · exact .refl
  · exact .ite (.toPack .refl) (.toPack .refl)

theorem Stays.packComplete {sid : Nat} : Stays s (execPackComplete sid s) := by
  unfold execPackComplete
  dsimp only
  exact .next (.atStage .refl (fun _ => .toGen .refl))

theorem Steady.putRow {r : Req} {m : Model} {im : Image} {seq : List Nat} {layer tb : Nat} (h : Steady s t) :
    Steady s (t.putRow r m im seq layer tb) :=
  .writeHome h

theorem Steady.prefillDone {r : Req} {hm : ImageHeader} (h : Steady s t) : Steady s (t.prefillDone r hm) :=
  .ite (.set h rfl) (.ite (.set h rfl) (.set h rfl))

theorem Stays.prefillLayerComplete {sid layer : Nat} : Stays s (execPrefillLayerComplete sid layer s) := by
  unfold execPrefillLayerComplete
  dsimp only
  refine .next (.atStage .refl (fun _ => ?_))
  split
  · exact .ite .refl (.ite (.set .refl rfl) (.ite (.set .refl rfl) (.ite (.prefillDone (.emits (.foldl .refl (fun _ _ h' => .putRow h'))))
      (.setReq (.emits (.foldl .refl (fun _ _ h' => .putRow h')))))))
  · exact .refl

theorem Stays.handoffWriteAcked {sid : Nat} : Stays s (execHandoffWriteAcked sid s) := by
  unfold execHandoffWriteAcked
  refine .next ?_
  split
  · exact .set .refl rfl
  · exact .refl

theorem Steady.appendRows {r : Req} {m : Model} {im : Image} {seq : List Nat} (h : Steady s t) : Steady s (t.appendRows r m im seq) :=
  .foldl h (fun _ _ h' => .putRow h')

theorem Stays.decodeStep {sid : Nat} : Stays s (execDecodeStep sid s) := by
  unfold execDecodeStep
  dsimp only
  refine .next (.atStage .refl (fun _ => ?_))
  split
  · refine .ite (.set .refl rfl) ?_
    split
    · exact .refl
    · exact .ite (.set .refl rfl) (.ite (.toRet (.appendRows .refl)) (.setReq (.appendRows .refl)))
  · exact .refl

theorem Steady.writeResults {u : Sub} {r : Req} (h : Steady s t) : Steady s (t.writeResults u r) := by
  unfold State.writeResults
  dsimp only
  exact .emits h

theorem Stays.resultWrite {sid : Nat} : Stays s (execResultWrite sid s) := by
  unfold execResultWrite
  dsimp only
  refine .next (.atStage .refl (fun _ => ?_))
  split
  · exact .refl
  · exact .ite (.ite (.set .refl rfl) .refl) (.finish (.setReq (.writeResults .refl)))

theorem Steady.cheaper {r : Req} {delivered : List W128} (h : Steady s t) : Steady s (t.cheaper r delivered) := by
  unfold State.cheaper
  split
  · exact .toFetch h
  · exact .toRerank h
  · exact .toPack h
  · exact .set h rfl
  · exact .set h rfl
  · exact h

theorem Stays.cheaperPath {sid : Nat} {delivered : List W128} : Stays s (execCheaperPath sid delivered s) := by
  unfold execCheaperPath
  dsimp only
  refine .next ?_
  split
  · exact .refl
  · exact .ite (.cheaper .refl) .refl

theorem Stays.deadlineExpiry {sid : Nat} : Stays s (execDeadlineExpiry sid s) := by
  unfold execDeadlineExpiry
  dsimp only
  refine .next ?_
  split
  · exact .refl
  · exact .ite .refl (.ite (.set .refl rfl) (.cheaper (.set .refl rfl)))

/-! ### Tables -/

theorem Steady.modTables {f : Tables → Tables} (h : Steady s t) : Steady s (t.modTables f) :=
  .set h rfl

theorem Steady.modTable {i : Nat} {f : Table → Table} (h : Steady s t) : Steady s (t.modTable i f) :=
  .set h rfl

theorem Stays.createTable {sid : Nat} {b : Option Buf} : Stays s (execCreateTable sid b s) := by
  unfold execCreateTable
  dsimp only
  exact .next (.run .refl (fun _ _ h' => .withB h' (fun _ => .settle h' (fun _ h'' => .complete (.sendAll (.set h'' rfl))))))

theorem Steady.dropTableVersion {i n : Nat} (h : Steady s t) : Steady s (t.dropTableVersion i n) := by
  unfold State.dropTableVersion
  dsimp only
  split
  · exact h
  · split
    · exact h
    · exact .modTable (.foldl (.ite (.foldl (.ite (.freeHbm (.foldl h (fun _ _ h' => .dropHome h'))) (.foldl h (fun _ _ h' => .dropHome h')))
        (fun _ _ h' => .eraseObj h')) (.eraseObj (.foldl (.ite (.freeHbm (.foldl h (fun _ _ h' => .dropHome h'))) (.foldl h
        (fun _ _ h' => .dropHome h'))) (fun _ _ h' => .eraseObj h')))) (fun _ _ h' => .freeHbm h'))

theorem Steady.removeTable {tb : Table} (h : Steady s t) : Steady s (t.removeTable tb) := by
  unfold State.removeTable
  dsimp only
  exact .set (.modTables (.foldl h (fun _ _ h' => .dropTableVersion h'))) rfl

theorem Stays.deleteTable {sid : Nat} : Stays s (execDeleteTable sid s) := by
  unfold execDeleteTable
  refine .next (.run .refl (fun _ _ h' => ?_))
  split
  · exact .settle h' (fun _ h'' => h'')
  · exact .settle h' (fun _ h'' => .completeOk (.sendAll (.removeTable h'')))

theorem Steady.readBlocks {media : Media} {ids : List W64} (h : Steady s t) : Steady s (t.readBlocks media ids) := by
  unfold State.readBlocks
  dsimp only
  exact .foldl (.readExtents h) (fun _ _ h' => .mutableLost h')

theorem Steady.startMigration {tb : Table} {block dest : Nat} {sid : Option Nat} (h : Steady s t) :
    Steady s (t.startMigration tb block dest sid) := by
  unfold State.startMigration
  dsimp only
  exact .ite (.requestMove h) (.ite (.requestMove (.requestMove h)) (.requestMove h))

theorem Steady.countHot {i rank : Nat} {e : LookupEntry} (h : Steady s t) : Steady s (t.countHot i rank e) := by
  unfold State.countHot
  dsimp only
  split
  · exact h
  · refine .ite h (.ite (.set h rfl) ?_)
    split
    · exact .set h rfl
    · exact .ite (.set h rfl) (.startMigration (.set h rfl))

theorem Steady.countRows {tb : Table} {version rank : Nat} {es : List LookupEntry} (h : Steady s t) : Steady s (t.countRows tb version rank es) :=
  .ite (.foldl h (fun _ _ h' => .countHot h')) h

theorem Stays.migrateBlock {sid : Nat} : Stays s (execMigrateBlock sid s) := by
  unfold execMigrateBlock
  dsimp only
  refine .next (.run .refl (fun _ _ h' => ?_))
  split
  · exact .settle h' (fun _ h'' => h'')
  · exact .settle h' (fun _ h'' => .ite (.set h'' rfl) (.startMigration (.set h'' rfl)))

theorem Steady.acknowledge {i rank v : Nat} (h : Steady s t) : Steady s (t.acknowledge i rank v) := by
  unfold State.acknowledge
  dsimp only
  exact .set h rfl

theorem Steady.settleAcks {i : Nat} (h : Steady s t) : Steady s (t.settleAcks i) := by
  unfold State.settleAcks
  dsimp only
  split
  · exact h
  · exact .foldl (.set h rfl) (fun _ _ h' => .acknowledge (.sendAll h'))

theorem Steady.sendUpdate {dest rank : Nat} {sid table : Nat} {version row : Nat} {replace : Bool} {payload : Buf} (h : Steady s t) :
    Steady s (t.sendUpdate dest rank sid table version row replace payload) :=
  .sendMsg h

theorem Steady.forwardWrites {tb : Table} {id : W64} {rank : Nat} (h : Steady s t) : Steady s (t.forwardWrites tb id rank) := by
  unfold State.forwardWrites
  dsimp only
  exact .foldl (.set h rfl) (fun _ _ h' => .sendUpdate (.ite (.set h' rfl) h'))

theorem Steady.settleArrival {tb : Table} {block : Nat} (h : Steady s t) : Steady s (t.settleArrival tb block) := by
  unfold State.settleArrival
  dsimp only
  split
  · exact h
  · exact .applyWaitingWrites (.set h rfl)

theorem Steady.takePartials {sid : Nat} {p : Partials} (h : Steady s t) : Steady s (t.takePartials sid p) := by
  unfold State.takePartials
  split
  · exact .set h rfl
  · exact .set h rfl

theorem Steady.sendPartials {rank sid : Nat} {p : Partials} (h : Steady s t) : Steady s (t.sendPartials rank sid p) :=
  .sendMsg h

theorem Steady.serveSub {tb : Table} {q : SubLookup} {far : List (Nat × Option Buf)} {media : Media} (h : Steady s t) :
    Steady s (t.serveSub tb q far media) := by
  unfold State.serveSub
  dsimp only
  exact .ite (.takePartials (.foldl (.countRows (.readBlocks (.foldl h (fun _ _ h' => .pin h')))) (fun _ _ h' => .promote h'))) (.sendPartials
      (.foldl (.countRows (.readBlocks (.foldl h (fun _ _ h' => .pin h')))) (fun _ _ h' => .promote h')))

theorem Steady.takeSub {tb : Table} {q : SubLookup} {media : Media} (h : Steady s t) : Steady s (t.takeSub tb q media) := by
  unfold State.takeSub
  dsimp only
  exact .ite (.foldl (.set h rfl) (fun _ _ h' => .sendMsg h')) (.ite (.serveSub h) h)

theorem Steady.serveHeld {tb : Table} {q : SubLookup} {rows : List (Nat × Option Buf)} {media : Media} (h : Steady s t) :
    Steady s (t.serveHeld tb q rows media) :=
  .ite (.serveSub (.set h rfl)) h

theorem Steady.settleHeld {i : Nat} (h : Steady s t) : Steady s (t.settleHeld i) := by
  unfold State.settleHeld
  split
  · exact h
  · exact .foldl h (fun _ _ h' => .serveHeld h')

theorem Steady.flipMigration {tb : Table} {block dest addr : Nat} {bytes : Buf} (h : Steady s t) :
    Steady s (t.flipMigration tb block dest addr bytes) := by
  unfold State.flipMigration
  dsimp only
  exact .settleHeld (.settleAcks (.sendAll (.ite (.modTiers (.flip (.ite (.modHome (.forwardWrites (.set h rfl))) (.set h rfl)))) (.flip (.ite
      (.modHome (.forwardWrites (.set h rfl))) (.set h rfl))))))

theorem Steady.adoptMap {tb : Table} {block dest : Nat} (h : Steady s t) : Steady s (t.adoptMap tb block dest) := by
  unfold State.adoptMap
  dsimp only
  exact .settleAcks (.ite (.dropHome (.forwardWrites (.set h rfl))) (.ite (.settleArrival (.set h rfl)) (.set h rfl)))

theorem Stays.migrationFlip {table block : Nat} {dest addr : Nat} {bytes : Buf} : Stays s (execMigrationFlip table block dest addr bytes s) := by
  unfold execMigrationFlip
  refine .next ?_
  split
  · exact .refl
  · refine .ite .refl (.ite ?_ (.ite (.adoptMap .refl) .refl))
    split
    · exact .ite (.flipMigration .refl) .refl
    · exact .refl

theorem Stays.mapAcknowledge {rank table mapVersion : Nat} : Stays s (execMapAcknowledge rank table mapVersion s) :=
  .next (.set .refl rfl)

theorem Steady.takeBlock {rank : Nat} {id : W64} {bytes : Buf} (h : Steady s t) : Steady s (t.takeBlock rank id bytes) := by
  unfold State.takeBlock
  split
  · exact .sendMsg h
  · refine .ite ?_ (.sendMsg h)
    split
    · next e => exact .set (Steady.allocHbm h e) rfl
    · exact .sendMsg h

theorem Steady.sendBlock {rank : Nat} {id : W64} (h : Steady s t) : Steady s (t.sendBlock rank id) := by
  unfold State.sendBlock
  split
  · exact .ite h (.sendMsg (.pin h))
  · exact h

theorem Steady.holdBlock {rank : Nat} {id : W64} (h : Steady s t) : Steady s (t.holdBlock rank id) :=
  .sendBlock (.set h rfl)

theorem Steady.leaveBlock {id : W64} (h : Steady s t) : Steady s (t.leaveBlock id) := by
  unfold State.leaveBlock
  dsimp only
  split
  · exact h
  · split
    · exact .ite (.applyWaitingWrites (.modHome (.modTable (.foldl h (fun _ _ h' => .freeHbm h'))))) (.modTable (.foldl h
        (fun _ _ h' => .freeHbm h')))
    · exact .modTable (.foldl h (fun _ _ h' => .freeHbm h'))

theorem Steady.readRows {rank sid : Nat} {table version : Nat} {rows : List Nat} (h : Steady s t) :
    Steady s (t.readRows rank sid table version rows) := by
  unfold State.readRows
  dsimp only
  split
  · exact h
  · exact .ite (.sendMsg (.foldl h (fun _ _ h' => .pin h'))) h

theorem Steady.askServer {l : Lookup} {rank : Nat} {es : List LookupEntry} (h : Steady s t) : Steady s (t.askServer l rank es) := by
  unfold State.askServer
  dsimp only
  exact .sendMsg (.set h rfl)

theorem Steady.beginLookup {u : Sub} {tb : Table} {k : LookupBound} {es : List LookupEntry} {bags : Nat} {media : Media} (h : Steady s t) :
    Steady s (t.beginLookup u tb k es bags media) := by
  unfold State.beginLookup
  dsimp only
  exact .ite h (.ite (.takeSub (.countRows (.foldl (.set h rfl) (fun _ _ h' => .askServer h')))) (.countRows (.foldl (.set h rfl)
      (fun _ _ h' => .askServer h'))))

theorem Stays.tableLookup {sid : Nat} {b : Option Buf} {media : Media} : Stays s (execTableLookup sid b media s) := by
  unfold execTableLookup
  dsimp only
  refine .next (.run .refl (fun _ _ h' => .withB h' (fun _ => ?_)))
  split
  · exact .settle h' (fun _ h'' => h'')
  · refine .settle h' (fun _ h'' => ?_)
    split
    · exact .set h'' rfl
    · exact .beginLookup h''

theorem Stays.subLookup {rank sid : Nat} {table version mapVersion : Nat} {entries : List LookupEntry} {media : Media} :
    Stays s (execSubLookup rank sid table version mapVersion entries media s) := by
  unfold execSubLookup
  refine .next ?_
  split
  · exact .refl
  · exact .ite .refl (.takeSub .refl)

theorem Stays.subLookupReply {sid : Nat} {p : Partials} : Stays s (execSubLookupReply sid p s) :=
  .next (.takePartials .refl)

theorem Steady.loseServer {sid rank : Nat} (h : Steady s t) : Steady s (t.loseServer sid rank) := by
  unfold State.loseServer
  split
  · exact h
  · exact .set h rfl

theorem Steady.settleOld {i : Nat} (h : Steady s t) : Steady s (t.settleOld i) := by
  unfold State.settleOld
  dsimp only
  split
  · exact h
  · split
    · exact .foldl h (fun _ _ h' => .sendAll (.set h' rfl))
    · exact .foldl (.foldl h (fun _ _ h' => .sendAll (.set h' rfl))) (fun _ _ h' => .dropTableVersion h')

theorem Stays.lookupResultWrite {sid : Nat} {ok : Bool} : Stays s (execLookupResultWrite sid ok s) := by
  unfold execLookupResultWrite
  dsimp only
  refine .next ?_
  split
  · split
    · exact .refl
    · exact .ite .refl (.settleAcks (.settleOld (.ite (.set .refl rfl) (.ite (.accessError (.set .refl rfl)) (.finish (.emit (.emit
        (.set .refl rfl))))))))
  · exact .refl

theorem Stays.updateRows {sid : Nat} {b : Option Buf} : Stays s (execUpdateRows sid b s) := by
  unfold execUpdateRows
  dsimp only
  refine .next (.run .refl (fun _ _ h' => .withB h' (fun _ => ?_)))
  split
  · exact .settle h' (fun _ h'' => h'')
  · exact .settle h' (fun _ h'' => .closeUpdates (.foldl (.foldl (.set h'' rfl) (fun _ _ h''' => .sendUpdate h'''))
      (fun _ _ h''' => .writeHome h''')))

theorem Steady.takeUpdate {tb : Table} {rank sid : Nat} {version row : Nat} {replace : Bool} {payload : Buf} (h : Steady s t) :
    Steady s (t.takeUpdate tb rank sid version row replace payload) := by
  unfold State.takeUpdate
  dsimp only
  refine .ite (.answerUpdate h) (.ite (.set h rfl) ?_)
  split
  · exact .sendUpdate h
  · exact .ite (.writeHome h) (.ite (.sendUpdate h) (.answerUpdate h))

theorem Stays.rowUpdateMessage {rank sid : Nat} {table version row : Nat} {replace : Bool} {payload : Buf} :
    Stays s (execRowUpdateMessage rank sid table version row replace payload s) := by
  unfold execRowUpdateMessage
  refine .next ?_
  split
  · exact .refl
  · exact .ite .refl (.takeUpdate .refl)

theorem Stays.stubForward {table block : Nat} {msg : StubMsg} {media : Media} : Stays s (execStubForward table block msg media s) := by
  unfold execStubForward
  refine .next ?_
  split
  · exact .refl
  · split
    · split
      · exact .ite (.sendUpdate .refl) .refl
      · exact .refl
    · split
      · exact .settleOld (.serveHeld .refl)
      · exact .refl

theorem Steady.loadRun {i n : Nat} {run : Nat × Nat × Buf} (h : Steady s t) : Steady s (t.loadRun i n run) := by
  unfold State.loadRun
  dsimp only
  split
  · exact h
  · split
    · exact h
    · exact .ite (.modTiers (.storeExtents (.ite (.set h rfl) (.set h rfl)))) (.storeExtents (.set h rfl))

theorem Steady.stageVersion {tb : Table} {n : Nat} (h : Steady s t) : Steady s (t.stageVersion tb n) :=
  .ite h (.set h rfl)

theorem Stays.loadTableRows {sid : Nat} {b : Option Buf} {failAt : Option Nat} : Stays s (execLoadTableRows sid b failAt s) := by
  unfold execLoadTableRows
  dsimp only
  refine .next (.run .refl (fun _ _ h' => .withB h' (fun _ => ?_)))
  split
  · exact .settle h' (fun _ h'' => h'')
  · exact .settle h' (fun _ h'' => .ite (.finish (.foldl (.foldl (.stageVersion h'') (fun _ _ h''' => .loadRun h''')) (fun _ _ h''' => .ite
      (.sendAll h''') (.ite h''' (.sendMsg h'''))))) (.complete (.foldl (.foldl (.stageVersion h'') (fun _ _ h''' => .loadRun h'''))
      (fun _ _ h''' => .ite (.sendAll h''') (.ite h''' (.sendMsg h'''))))))

theorem Steady.takeRows {table n first : Nat} {buf : Buf} (h : Steady s t) : Steady s (t.takeRows table n first buf) := by
  unfold State.takeRows
  dsimp only
  split
  · exact h
  · exact .ite h (.foldl (.stageVersion h) (fun _ _ h' => .loadRun h'))

theorem Steady.copyTable {i n : Nat} (h : Steady s t) : Steady s (t.copyTable i n) := by
  unfold State.copyTable
  split
  · exact h
  · refine .ite h ?_
    split
    · next e => exact .set (Steady.allocHbm h e) rfl
    · exact h

theorem Steady.castVote {i n coordinator : Nat} (h : Steady s t) : Steady s ((t.castVote i n coordinator).2) := by
  unfold State.castVote
  exact .iteOf Prod.snd (.snd (.modTable (.copyTable h))) (.snd (.copyTable h))

theorem Steady.endMigrations {tb : Table} {p : Home → Bool} {st : Status} (h : Steady s t) : Steady s (t.endMigrations tb p st) :=
  .foldl h (fun _ _ h' => .abandonMove h')

theorem Steady.applyTable {i n : Nat} {commit : Bool} (h : Steady s t) : Steady s (t.applyTable i n commit) := by
  unfold State.applyTable
  dsimp only
  split
  · exact h
  · exact .ite (.settleOld (.modTable (.event (.endMigrations h)))) (.modTable (.dropTableVersion h))

theorem Steady.settlePublish {i : Nat} (h : Steady s t) : Steady s (t.settlePublish i) := by
  unfold State.settlePublish
  split
  · exact h
  · exact .ite (.set h rfl) h

theorem Steady.decideTable {i : Nat} {commit : Bool} (h : Steady s t) : Steady s (t.decideTable i commit) := by
  unfold State.decideTable
  dsimp only
  split
  · exact h
  · exact .ite (.settlePublish (.applyTable (.sendAll (.set h rfl)))) (.failWith (.applyTable (.sendAll (.set h rfl))))

theorem Steady.countVote {i n rank : Nat} {yes : Bool} (h : Steady s t) : Steady s (t.countVote i n rank yes) := by
  unfold State.countVote
  dsimp only
  split
  · exact h
  · exact .ite h (.ite (.decideTable h) (.ite (.decideTable (.set h rfl)) (.set h rfl)))

theorem Stays.publishTable {sid : Nat} : Stays s (execPublishTable sid s) := by
  unfold execPublishTable
  dsimp only
  refine .next (.run .refl (fun _ _ h' => ?_))
  split
  · exact .settle h' (fun _ h'' => h'')
  · exact .settle h' (fun _ h'' => .countVote (.castVote (.sendAll (.set h'' rfl))))

theorem Stays.tablePrepare {rank table version : Nat} : Stays s (execTablePrepare rank table version s) := by
  unfold execTablePrepare
  dsimp only
  exact .next (.ite (.sendMsg (.castVote .refl)) .refl)

theorem Stays.tableVote {rank table version : Nat} {yes : Bool} : Stays s (execTableVote rank table version yes s) :=
  .next (.countVote .refl)

theorem Stays.tablePrepareTimeout {table : Nat} : Stays s (execTablePrepareTimeout table s) := by
  unfold execTablePrepareTimeout
  refine .next ?_
  split
  · exact .ite (.decideTable .refl) .refl
  · exact .refl

theorem Stays.tableDecision {table version : Nat} {commit : Bool} : Stays s (execTableDecision table version commit s) := by
  unfold execTableDecision
  dsimp only
  refine .next ?_
  split
  · exact .refl
  · split
    · exact .refl
    · refine .ite .refl ?_
      split
      · exact .ite (.sendMsg (.applyTable .refl)) (.applyTable .refl)
      · exact .applyTable .refl

theorem Steady.queryTable {table : Nat} (h : Steady s t) : Steady s (t.queryTable table) := by
  unfold State.queryTable
  split
  · exact h
  · split
    · exact .sendMsg h
    · exact h

theorem Steady.answerQuery {rank table version : Nat} (h : Steady s t) : Steady s (t.answerQuery rank table version) := by
  unfold State.answerQuery
  dsimp only
  split
  · exact h
  · exact .ite h (.sendMsg (.ite h (.set h rfl)))

theorem Steady.tableFree {rank table version : Nat} (h : Steady s t) : Steady s (t.tableFree rank table version) := by
  unfold State.tableFree
  split
  · exact h
  · exact .ite (.settleOld (.set h rfl)) h

theorem Steady.plotFreed {rank plot version : Nat} (h : Steady s t) : Steady s (t.plotFreed rank plot version) := by
  unfold State.plotFreed
  split
  · exact h
  · exact .ite (.sweepVersions (.set h rfl)) h

theorem Stays.tableVersionFree {rank : Nat} {plot : Bool} {id version : Nat} : Stays s (execTableVersionFree rank plot id version s) :=
  .next (.ite (.plotFreed .refl) (.tableFree .refl))

theorem Steady.checkpointBlock {i n block : Nat} {bytes : Buf} (h : Steady s t) : Steady s (t.checkpointBlock i n block bytes) :=
  .modTable (.storeObj h)

theorem Steady.askBlocks {homes : List Home} {peers : List (Nat × Buf)} (h : Steady s t) : Steady s (t.askBlocks homes peers) :=
  .foldl h (fun _ _ h' => .sendMsg h')

theorem Stays.checkpointTable {sid : Nat} {ok : Bool} {peers : List (Nat × Buf)} : Stays s (execCheckpointTable sid ok peers s) := by
  unfold execCheckpointTable
  dsimp only
  refine .next (.run .refl (fun _ _ h' => ?_))
  split
  · exact .settle h' (fun _ h'' => h'')
  · exact .settle h' (fun _ h'' => .ite (.askBlocks h'') (.ite (.completeOk (.foldl h'' (fun _ _ h''' => .checkpointBlock h'''))) h''))

theorem Steady.restoreBlock {i n block : Nat} (h : Steady s t) : Steady s (t.restoreBlock i n block) := by
  unfold State.restoreBlock
  dsimp only
  split
  · exact h
  · split
    · exact h
    · exact .modTiers (.storeObj (.set h rfl))

theorem Steady.clearExceptions {i : Nat} {away : Nat → Bool} {counted : Bool} (h : Steady s t) : Steady s (t.clearExceptions i away counted) := by
  unfold State.clearExceptions
  dsimp only
  split
  · exact h
  · refine .foldl h (fun _ _ h' => ?_)
    split
    · exact .sendAll (.modTables (.restoreBlock (.set h' rfl)))
    · exact .modTables (.restoreBlock (.set h' rfl))

theorem Steady.restoreOld {tb : Table} {away : Nat → Bool} (h : Steady s t) : Steady s (t.restoreOld tb away) :=
  .foldl h (fun _ _ h' => .foldl h' (fun _ _ h'' => .restoreBlock h''))

theorem Steady.leaveKeeper {tb : Table} {rank : Nat} (h : Steady s t) : Steady s (t.leaveKeeper tb rank) := by
  unfold State.leaveKeeper
  dsimp only
  exact .foldl h (fun _ _ h' => .leaveBlock h')

theorem Steady.peerTables {rank : Nat} (h : Steady s t) : Steady s (t.peerTables rank) := by
  unfold State.peerTables
  dsimp only
  refine .foldl (.loseUpdates h) (fun _ _ h' => ?_)
  split
  · exact h'
  · exact .settleAcks (.settleHeld (.acknowledge (.foldl (.clearExceptions (.restoreOld (.leaveKeeper (.endMigrations h'))))
      (fun _ _ h'' => .sendMsg h''))))

theorem Steady.ownTables (h : Steady s t) : Steady s t.ownTables := by
  unfold State.ownTables
  dsimp only
  refine .foldl (.foldl h (fun _ _ h' => .dropHome h')) (fun _ _ h' => ?_)
  split
  · exact h'
  · exact .modTable (.foldl (.endMigrations h') (fun _ _ h'' => .freeHbm h''))

theorem Stays.tableRestore {table : Nat} : Stays s (execTableRestore table s) := by
  unfold execTableRestore
  dsimp only
  refine .next (.ite ?_ .refl)
  split
  · exact .set .refl rfl
  · exact .settleOld (.modTables (.foldl (.foldl (.clearExceptions (.foldl .refl (fun _ _ h' => .restoreBlock h')))
      (fun _ _ h' => .copyTable h')) (fun _ _ h' => .sendAll h')))

/-! ### Graft -/

theorem Steady.modGrafts {f : Grafts → Grafts} (h : Steady s t) : Steady s (t.modGrafts f) :=
  .set h rfl

theorem Steady.modLog {i : Nat} {f : Log → Log} (h : Steady s t) : Steady s (t.modLog i f) :=
  .set h rfl

theorem Steady.removeLog {l : Log} (h : Steady s t) : Steady s (t.removeLog l) := by
  unfold State.removeLog
  dsimp only
  exact .set (.modGrafts (.eraseObj h)) rfl

theorem Steady.appendLog {l : Log} {recs : List Buf} (h : Steady s t) : Steady s (t.appendLog l recs) := by
  unfold State.appendLog
  dsimp only
  exact .modLog (.storeExtents h)

theorem Stays.createLog {sid : Nat} : Stays s (execCreateLog sid s) := by
  unfold execCreateLog
  dsimp only
  exact .next (.run .refl (fun _ _ h' => .settle h' (fun _ h'' => .complete (.sendAll (.set h'' rfl)))))

theorem Stays.appendLog {sid : Nat} {b : Option Buf} {failAt : Option Nat} : Stays s (execAppendLog sid b failAt s) := by
  unfold execAppendLog
  dsimp only
  refine .next (.run .refl (fun _ _ h' => .withB h' (fun _ => ?_)))
  split
  · exact .settle h' (fun _ h'' => h'')
  · exact .settle h' (fun _ h'' => .finish (.appendLog h''))

theorem Stays.trimLog {sid : Nat} : Stays s (execTrimLog sid s) := by
  unfold execTrimLog
  dsimp only
  refine .next (.run .refl (fun _ _ h' => ?_))
  split
  · exact .settle h' (fun _ h'' => h'')
  · exact .settle h' (fun _ h'' => .complete (.modLog (.eraseExtents h'')))

theorem Stays.deleteLog {sid : Nat} : Stays s (execDeleteLog sid s) := by
  unfold execDeleteLog
  refine .next (.run .refl (fun _ _ h' => ?_))
  split
  · exact .settle h' (fun _ h'' => h'')
  · exact .settle h' (fun _ h'' => .completeOk (.sendAll (.removeLog h'')))

theorem Steady.placeObj {g : Graft} {x : W64 × Nat} {r : State} (h : Steady s t) (e : t.placeObj g x = some r) : Steady s r := by
  unfold State.placeObj at e
  split at e
  · cases e
    exact h
  · obtain ⟨y, ey, rfl⟩ := Option.map_eq_some_iff.1 e
    split
    · exact .addHome (.allocHbm h ey)
    · exact .allocHbm h ey

theorem Steady.placeObjs {g : Graft} {r : State} : ∀ {l : List (W64 × Nat)} {o : Option State}, (∀ t, o = some t → Steady s t) →
    l.foldl (fun o x => o.bind fun t => t.placeObj g x) o = some r → Steady s r
  | [], _, ho, e => ho r e
  | x :: l, o, ho, e => by
    refine placeObjs (l := l) (o := o.bind fun t => t.placeObj g x) (fun t et => ?_) e
    obtain ⟨y, ey, et⟩ := Option.bind_eq_some_iff.1 et
    exact .placeObj (ho y ey) et

theorem Steady.placeGraft {g : Graft} {r : State} (h : Steady s t) (e : t.placeGraft g = some r) : Steady s r := by
  unfold State.placeGraft at e
  split at e
  · exact .placeObjs (fun x ex => Option.some.inj ex ▸ h) e
  · cases e

theorem Steady.zeroResiduals {g : Graft} (h : Steady s t) : Steady s (t.zeroResiduals g) := by
  unfold State.zeroResiduals
  dsimp only
  exact .set h rfl

theorem Steady.placedGraft {g : Graft} (h : Steady s t) : Steady s ((t.placeGraft g).getD t) := by
  cases e : t.placeGraft g with
  | none => exact h
  | some r => exact .placeGraft h e

theorem Steady.addGraft {g : Graft} (h : Steady s t) : Steady s (t.addGraft g) := by
  unfold State.addGraft
  dsimp only
  exact .zeroResiduals (.modGrafts (.placedGraft h))

theorem Steady.removeGraft {g : Graft} (h : Steady s t) : Steady s (t.removeGraft g) := by
  unfold State.removeGraft
  dsimp only
  refine .modGrafts (.foldl (.foldl h (fun _ _ h' => .ite (.dropHome h') ?_)) (fun _ _ h' => .eraseObj h'))
  split
  · exact .freeHbm h'
  · exact h'

theorem Stays.createGraft {sid : Nat} {b : Option Buf} {roomElsewhere : Bool} : Stays s (execCreateGraft sid b roomElsewhere s) := by
  unfold execCreateGraft
  dsimp only
  exact .next (.run .refl (fun _ _ h' => .withB h' (fun _ => .settle h' (fun _ h'' => .complete (.sendAll (.addGraft h''))))))

theorem Stays.deleteGraft {sid : Nat} : Stays s (execDeleteGraft sid s) := by
  unfold execDeleteGraft
  refine .next (.run .refl (fun _ _ h' => ?_))
  split
  · exact .settle h' (fun _ h'' => h'')
  · exact .settle h' (fun _ h'' => .completeOk (.sendAll (.removeGraft h'')))

theorem Stays.queryGraft {sid : Nat} {ok : Bool} : Stays s (execQueryGraft sid ok s) := by
  unfold execQueryGraft
  refine .next (.run .refl (fun _ _ h' => ?_))
  split
  · exact .settle h' (fun _ h'' => h'')
  · exact .settle h' (fun _ h'' => .report h'' (fun _ h''' => .set h''' rfl))

theorem Steady.enterRun {g : Graft} {step : Nat} (h : Steady s t) : Steady s (t.enterRun g step) := by
  unfold State.enterRun
  dsimp only
  exact .modGraft (.zeroResiduals (.placedGraft h))

theorem Steady.beginRun {g : Graft} {u : Sub} {step : Nat} {restore : Bool} (h : Steady s t) : Steady s (t.beginRun g u step restore) :=
  .sendAll (.modGraft (.enterRun (.set h rfl)))

theorem Stays.runGraft {sid : Nat} : Stays s (execRunGraft sid s) := by
  unfold execRunGraft
  refine .next (.run .refl (fun _ _ h' => .ite h' ?_))
  split
  · exact .settle h' (fun _ h'' => h'')
  · exact .settle h' (fun _ h'' => .beginRun h'')

theorem Steady.sendRow {tb : Table} {row : Nat} {replace : Bool} {payload : Buf} (h : Steady s t) : Steady s (t.sendRow tb row replace payload) := by
  unfold State.sendRow
  dsimp only
  exact .ite (.writeHome h) (.sendUpdate h)

theorem Steady.restoreRows {g : Graft} {tb : Table} {c : Nat × Buf} (h : Steady s t) : Steady s (t.restoreRows g tb c) :=
  .foldl h (fun _ _ h' => .sendRow h')

theorem Steady.restoreCkpt {g : Graft} {step : Nat} (h : Steady s t) : Steady s (t.restoreCkpt g step) := by
  unfold State.restoreCkpt
  split
  · exact .foldl h (fun _ _ h' => .restoreRows h')
  · exact h

theorem Stays.runGraftRestore {sid : Nat} : Stays s (execRunGraftRestore sid s) := by
  unfold execRunGraftRestore
  dsimp only
  refine .next (.run .refl (fun _ _ h' => .ite h' ?_))
  split
  · exact .settle h' (fun _ h'' => h'')
  · exact .settle h' (fun _ h'' => .beginRun (.restoreCkpt h''))

theorem Steady.takeRun {index step : Nat} {restore : Bool} (h : Steady s t) : Steady s (t.takeRun index step restore) := by
  unfold State.takeRun
  split
  · exact h
  · exact .enterRun (.ite (.restoreCkpt h) h)

theorem Stays.stopGraft {sid : Nat} : Stays s (execStopGraft sid s) := by
  unfold execStopGraft
  dsimp only
  refine .next (.run .refl (fun _ _ h' => ?_))
  split
  · exact .settle h' (fun _ h'' => h'')
  · refine .settle h' (fun _ h'' => .ite (.set h'' rfl) ?_)
    split
    · exact .ite (.sendAll (.askStop (.set h'' rfl))) (.askStop (.set h'' rfl))
    · exact .askStop (.set h'' rfl)

theorem Steady.writeCkpt {i : Nat} {peers : List (Nat × Buf)} (h : Steady s t) : Steady s (t.writeCkpt i peers) := by
  unfold State.writeCkpt
  dsimp only
  split
  · exact h
  · split
    · exact .ite h (.ite (.askBlocks h) (.ite h (.ite (.modGraft (.foldl h (fun _ _ h' => .storeExtents h'))) (.sendMsg (.modGraft (.foldl h
        (fun _ _ h' => .storeExtents h')))))))
    · exact h

theorem Steady.settleCkpt {i : Nat} (h : Steady s t) : Steady s (t.settleCkpt i) := by
  unfold State.settleCkpt
  split
  · exact h
  · split
    · exact h
    · exact .ite (.sendAll (.set h rfl)) h

theorem Steady.applyBucket {g : Graft} {tb : Table} {b : List Nat × Nat} (h : Steady s t) : Steady s (t.applyBucket g tb b) := by
  unfold State.applyBucket
  dsimp only
  exact .foldl h (fun _ _ h' => .sendRow h')

theorem Steady.commitStep {i : Nat} (h : Steady s t) : Steady s (t.commitStep i) := by
  unfold State.commitStep
  dsimp only
  split
  · exact h
  · split
    · refine .modGraft ?_
      split
      · exact .foldl h (fun _ _ h' => .applyBucket h')
      · exact h
    · refine .endGraft (.ite (.sendAll (.modGraft ?_)) (.ite (.sendMsg (.modGraft ?_)) (.modGraft ?_)))
      · split
        · exact .foldl h (fun _ _ h' => .applyBucket h')
        · exact h
      · split
        · exact .foldl h (fun _ _ h' => .applyBucket h')
        · exact h
      · split
        · exact .foldl h (fun _ _ h' => .applyBucket h')
        · exact h

theorem Steady.stopJob {i : Nat} {c : StopCause} (h : Steady s t) : Steady s (t.stopJob i c) := by
  unfold State.stopJob
  split
  · exact h
  · exact .ite (.endGraft (.sendAll h)) h

theorem Steady.takeStop {i : Nat} {c : StopCause} (h : Steady s t) : Steady s (t.takeStop i c) := by
  unfold State.takeStop
  split
  · exact h
  · exact .ite h (.endGraft h)

theorem Steady.tunedHurt {table row : Nat} (h : Steady s t) : Steady s (t.tunedHurt table row) := by
  unfold State.tunedHurt
  dsimp only
  exact .foldl h (fun _ _ h' => .ite (.stopJob h') (.sendMsg h'))

theorem Steady.abortStep {i : Nat} {c : StopCause} (h : Steady s t) : Steady s ((t.abortStep i c).1) := by
  unfold State.abortStep
  dsimp only
  split
  · exact h
  · exact .iteOf Prod.fst (.fst (.set h rfl)) (.fst (.endGraft (.set h rfl)))

theorem Steady.decideStep {i : Nat} {commit : Bool} {c : StopCause} (h : Steady s t) : Steady s ((t.decideStep i commit c).1) := by
  unfold State.decideStep
  dsimp only
  split
  · exact h
  · exact .iteOf Prod.fst (.fst (.commitStep (.sendAll (.set h rfl)))) (.abortStep (.sendAll (.set h rfl)))

theorem Steady.takeVote {i rank : Nat} {yes rescaled : Bool} {c : StopCause} (h : Steady s t) : Steady s ((t.takeVote i rank yes rescaled c).1) := by
  unfold State.takeVote
  dsimp only
  split
  · exact h
  · exact .iteOf Prod.fst h (.iteOf Prod.fst (.decideStep h) (.iteOf Prod.fst (.decideStep (.set h rfl)) (.fst (.set h rfl))))

theorem Steady.sendVote {i : Nat} {yes rescaled : Bool} {c : StopCause} (h : Steady s t) : Steady s ((t.sendVote i yes rescaled c).1) := by
  unfold State.sendVote
  split
  · exact h
  · exact .iteOf Prod.fst (.takeVote h) (.fst (.sendMsg h))

theorem Steady.takeOwnerMsg {i : Nat} {m : OwnerMsg} (h : Steady s t) : Steady s (t.takeOwnerMsg i m) := by
  unfold State.takeOwnerMsg
  split
  · split
    · exact h
    · exact .set h rfl
  · exact .set h rfl

theorem Steady.passPartial {i : Nat} {p : ChainPartial} (h : Steady s t) : Steady s (t.passPartial i p) := by
  unfold State.passPartial
  dsimp only
  split
  · exact h
  · split
    · exact .sendMsg (.set h rfl)
    · exact .ite (.takeOwnerMsg (.set h rfl)) (.sendMsg (.set h rfl))

theorem Steady.runHop {i : Nat} {p : ChainPartial} (h : Steady s t) : Steady s (t.runHop i p) := by
  unfold State.runHop
  split
  · exact h
  · refine .ite h ?_
    split
    · exact .passPartial h
    · exact .set h rfl

theorem Steady.startChain {i bucket : Nat} (h : Steady s t) : Steady s (t.startChain i bucket) := by
  unfold State.startChain
  dsimp only
  split
  · exact h
  · split
    · exact h
    · exact .ite (.runHop h) h

theorem Steady.takeAnnounce {i : Nat} {a : Announce} (h : Steady s t) : Steady s (t.takeAnnounce i a) :=
  .startChain (.set h rfl)

theorem Steady.sendBucket {i : Nat} {c : Nat × List Bool × List W16} (h : Steady s t) : Steady s (t.sendBucket i c) := by
  unfold State.sendBucket
  dsimp only
  split
  · exact h
  · exact .ite (.takeAnnounce (.ite (.takeOwnerMsg h) (.sendMsg h))) (.sendMsg (.ite (.takeOwnerMsg h) (.sendMsg h)))

theorem Steady.compress {g : Graft} (h : Steady s t) : Steady s ((t.compress g).1) := by
  unfold State.compress
  exact .fst (.set h rfl)

theorem Steady.reduceHere {i : Nat} (h : Steady s t) : Steady s ((t.reduceHere i).1) := by
  unfold State.reduceHere
  dsimp only
  split
  · exact h
  · refine .iteOf Prod.fst h (.iteOf Prod.fst (.sendVote (.compress h)) ?_)
    split
    · split
      · exact .foldl (.compress h) (fun _ _ h' => .sendBucket h')
      · exact .compress h
    · refine .fst (.foldl (.modGraft ?_) (fun _ _ h' => .runHop h'))
      split
      · exact .foldl (.compress h) (fun _ _ h' => .sendBucket h')
      · exact .compress h

theorem Steady.sendReduce {i : Nat} (h : Steady s t) : Steady s (t.sendReduce i) := by
  unfold State.sendReduce
  split
  · exact h
  · exact .reduceHere (.sendAll h)

theorem Steady.follow {i : Nat} {x : State × Bool} (h : Steady s x.1) : Steady s (State.follow i x) :=
  .ite (.sendReduce h) h

theorem Steady.takeReady {i rank : Nat} (h : Steady s t) : Steady s (t.takeReady i rank) := by
  unfold State.takeReady
  dsimp only
  split
  · exact h
  · exact .ite h (.ite (.sendReduce (.set h rfl)) (.set h rfl))

theorem Steady.atTag {tag : GraftTag} {k : Graft → State → State} (h : Steady s t) (hk : ∀ x1 z, Steady s z → Steady s (k x1 z)) :
    Steady s (t.atTag tag k) := by
  unfold State.atTag
  split
  · exact h
  · exact .ite (hk _ _ h) h

theorem Steady.graftMsg {tag : GraftTag} {k : Graft → State → State} (h : Steady s t) (hk : ∀ x1 z, Steady s z → Steady s (k x1 z)) :
    Steady s (t.graftMsg tag k) := by
  unfold State.graftMsg
  split
  · exact h
  · exact .ite (hk _ _ h) (.set h rfl)

theorem Stays.gradientComplete {tag : GraftTag} {far : List (Nat × Buf)} {media : Media} : Stays s (execGradientComplete tag far media s) := by
  unfold execGradientComplete
  dsimp only
  refine .next (.atTag .refl (fun _ _ h' => .ite h' ?_))
  split
  · exact h'
  · exact .ite (.follow (.sendVote (.readExtents h'))) (.ite (.takeReady (.modGraft (.readExtents h'))) (.sendMsg (.modGraft (.readExtents h'))))

theorem Stays.gradReady {tag : GraftTag} : Stays s (execGradReady tag s) :=
  .next (.graftMsg .refl (fun _ _ h' => .ite (.takeReady h') h'))

theorem Stays.reduce {tag : GraftTag} : Stays s (execReduce tag s) :=
  .next (.graftMsg .refl (fun _ _ h' => .ite h' (.reduceHere h')))

theorem Stays.announceReceived {tag : GraftTag} {a : Announce} : Stays s (execAnnounceReceived tag a s) :=
  .next (.graftMsg .refl (fun _ _ h' => .ite (.takeAnnounce h') h'))

theorem Stays.chainHop {tag : GraftTag} {p : ChainMsg} : Stays s (execChainHop tag p s) := by
  unfold execChainHop
  refine .next (.graftMsg .refl (fun _ _ h' => ?_))
  split
  · exact .ite (.runHop h') h'
  · exact h'

theorem Stays.groupPartial {tag : GraftTag} {msg : OwnerMsg} : Stays s (execGroupPartial tag msg s) := by
  unfold execGroupPartial
  dsimp only
  exact .next (.graftMsg .refl (fun _ _ h' => .ite (.takeOwnerMsg h') h'))

theorem Stays.graftBarrier {job : Nat} : Stays s (execGraftBarrier job s) := by
  unfold execGraftBarrier
  dsimp only
  refine .next ?_
  split
  · refine .ite .refl (.follow (.sendVote (.modGraft ?_)))
    split
    · exact .logCounted .refl
    · exact .refl
  · exact .refl

theorem Stays.graftVote {tag : GraftTag} {yes rescaled : Bool} {cause : StopCause} : Stays s (execGraftVote tag yes rescaled cause s) :=
  .next (.graftMsg .refl (fun _ _ h' => .ite h' (.follow (.takeVote h'))))

theorem Stays.graftDecision {tag : GraftTag} {commit : Bool} {cause : StopCause} : Stays s (execGraftDecision tag commit cause s) :=
  .next (.graftMsg .refl (fun _ _ h' => .ite h' (.ite (.commitStep h') (.abortStep h'))))

theorem Stays.hopTimeout {tag : GraftTag} : Stays s (execHopTimeout tag s) :=
  .next (.atTag .refl (fun _ _ h' => .ite (.follow (.sendVote h')) h'))

theorem Stays.stepTimeout {tag : GraftTag} : Stays s (execStepTimeout tag s) :=
  .next (.atTag .refl (fun _ _ h' => .ite (.follow (.sendVote h')) h'))

theorem Stays.graftVoteQueryTimer {job : Nat} : Stays s (execGraftVoteQueryTimer job s) := by
  unfold execGraftVoteQueryTimer
  refine .next ?_
  split
  · exact .refl
  · exact .ite (.sendMsg .refl) .refl

theorem Steady.resumeCommit {i : Nat} (h : Steady s t) : Steady s (t.resumeCommit i) := by
  unfold State.resumeCommit
  split
  · exact h
  · exact .ite (.follow (.decideStep h)) h

theorem Stays.graftCheckpoint {job rank : Nat} {peers : List (Nat × Buf)} : Stays s (execGraftCheckpoint job rank peers s) := by
  unfold execGraftCheckpoint
  refine .next ?_
  split
  · exact .refl
  · exact .ite .refl (.ite (.resumeCommit (.settleCkpt (.writeCkpt .refl))) (.ite (.resumeCommit (.settleCkpt (.set .refl rfl))) .refl))

theorem Steady.answerVote {rank : Nat} {tag : GraftTag} (h : Steady s t) : Steady s (t.answerVote rank tag) := by
  unfold State.answerVote
  dsimp only
  split
  · exact h
  · exact .ite h (.sendMsg h)

theorem Steady.resendDecisions (h : Steady s t) : Steady s t.resendDecisions := by
  unfold State.resendDecisions
  refine .foldl h (fun _ _ h' => ?_)
  split
  · exact .ite (.sendAll h') h'
  · exact h'

theorem Steady.graftEpoch (h : Steady s t) : Steady s t.graftEpoch := by
  unfold State.graftEpoch
  dsimp only
  exact .foldl h (fun _ _ h' => .ite (.decideStep (.set h' rfl)) (.ite (.set h' rfl) (.abortStep (.set h' rfl))))

/-! ### Woane -/

theorem Steady.plotLost {rank : Nat} (h : Steady s t) : Steady s (t.plotLost rank) := by
  unfold State.plotLost
  dsimp only
  exact .set h rfl

theorem Steady.dropVotes {rank : Nat} (h : Steady s t) : Steady s (t.dropVotes rank) := by
  unfold State.dropVotes
  dsimp only
  exact .set h rfl

theorem Steady.endPeer {rank : Nat} (h : Steady s t) : Steady s (t.endPeer rank) := by
  unfold State.endPeer
  dsimp only
  exact .graftEpoch (.dropVotes (.peerTables (.modFabric (.plotLost (.foldl (.set h rfl) (fun _ _ h' => .loseServer h'))))))

theorem Steady.openFlows {rank : Nat} (h : Steady s t) : Steady s (t.openFlows rank) :=
  .foldl h (fun _ _ h' => .ite h' (.sendPacket h'))

theorem Steady.peerEpoch {rank srcEpoch : Nat} (h : Steady s t) : Steady s (t.peerEpoch rank srcEpoch) := by
  unfold State.peerEpoch
  dsimp only
  exact .openFlows (.modPeer (.modFabric (.endPeer h)))

theorem Steady.raiseEpoch (h : Steady s t) : Steady s t.raiseEpoch := by
  unfold State.raiseEpoch
  dsimp only
  exact .graftEpoch (.ownTables (.modFabric (.modAns (.plotLost (.count h)))))

theorem Stays.peerDownTimeout {rank : Nat} : Stays s (execPeerDownTimeout rank s) := by
  unfold execPeerDownTimeout
  dsimp only
  exact .next (.ite (.endPeer (.set .refl rfl)) .refl)

theorem Steady.woaneStale (h : Steady s t) : Steady s t.woaneStale :=
  .set h rfl

theorem Steady.woaneCheck {rank srcEpoch : Nat} {tagOk : Bool} {dst : Option Nat} (h : Steady s t) :
    Steady s ((t.woaneCheck rank srcEpoch tagOk dst).2) := by
  unfold State.woaneCheck
  exact .iteOf Prod.snd (.snd (.set h rfl)) (.iteOf Prod.snd (.snd (.sendHello (.set h rfl))) (.iteOf Prod.snd (.snd (.set h rfl))
      (.iteOf Prod.snd (.snd (.peerEpoch h)) h)))

theorem Stays.helloTimer : Stays s (execHelloTimer s) :=
  .next (.helloAll .refl)

theorem Steady.takeHello {rank : Nat} {b : HelloBody} (h : Steady s t) : Steady s (t.takeHello rank b) := by
  unfold State.takeHello
  dsimp only
  exact .ite h (.settleReroute (.ite (.auditChanged (.modPeer (.ite (.raiseEpoch h) h))) (.openFlows (.auditChanged (.modPeer (.ite
      (.raiseEpoch h) h))))))

theorem Steady.receiveHello {rank srcEpoch : Nat} {tagOk : Bool} {b : HelloBody} (h : Steady s t) :
    Steady s (t.receiveHello rank srcEpoch tagOk b) := by
  unfold State.receiveHello
  dsimp only
  exact .ite (.set h rfl) (.ite (.set h rfl) (.ite (.takeHello (.woaneCheck (.set h rfl))) (.woaneCheck (.set h rfl))))

theorem Stays.hello {rank srcEpoch : Nat} {body : HelloBody} : Stays s (execHello rank srcEpoch body s) :=
  .next (.receiveHello .refl)

theorem Steady.sendAck {b c kind : Nat} (h : Steady s t) : Steady s (t.sendAck b c kind) := by
  unfold State.sendAck
  split
  · exact h
  · exact .sendPacket (.set h rfl)

theorem Steady.takeOpen {b c : Nat} (h : Steady s t) : Steady s (t.takeOpen b c) := by
  unfold State.takeOpen
  dsimp only
  exact .ite h (.sendPacket (.ite h (.set h rfl)))

theorem Stays.openFlow {rank cls : Nat} : Stays s (execOpenFlow rank cls s) :=
  .next (.ite (.takeOpen .refl) .refl)

theorem Steady.takeData {b c : Nat} {psn : W32} {first last ce : Bool} {payload : Buf} (h : Steady s t) :
    Steady s (t.takeData b c psn first last ce payload) := by
  unfold State.takeData
  dsimp only
  split
  · exact .set h rfl
  · exact .ite (.set h rfl) (.ite (.sendAck (.set h rfl)) (.set h rfl))

theorem Stays.ackTimer {rank cls : Nat} : Stays s (execAckTimer rank cls s) := by
  unfold execAckTimer
  refine .next ?_
  split
  · exact .ite (.sendAck .refl) .refl
  · exact .refl

theorem Stays.bufferRelease {rank cls : Nat} {psn : W32} : Stays s (execBufferRelease rank cls psn s) := by
  unfold execBufferRelease
  dsimp only
  refine .next ?_
  split
  · exact .refl
  · split
    · exact .ite (.set .refl rfl) .refl
    · exact .refl

theorem Stays.audit {rank cls : Nat} {_nextPsn : W32} : Stays s (execAudit rank cls _nextPsn s) :=
  .next (.sendAck .refl)

theorem Steady.takeOpenOk {b c credits : Nat} (h : Steady s t) : Steady s (t.takeOpenOk b c credits) := by
  unfold State.takeOpenOk
  dsimp only
  exact .ite h (.pump (.set h rfl))

theorem Stays.openOk {rank cls credits : Nat} : Stays s (execOpenOk rank cls credits s) :=
  .next (.ite (.takeOpenOk .refl) .refl)

theorem Steady.resend {b c : Nat} {l : List (W32 × Bool × Bool × Buf)} (h : Steady s t) : Steady s (t.resend b c l) := by
  unfold State.resend
  dsimp only
  refine .foldl h (fun _ _ h' => .sendPacket ?_)
  split
  · exact .set h' rfl
  · exact h'

theorem Steady.takeCe {b c : Nat} {total : W32} (h : Steady s t) : Steady s (t.takeCe b c total) := by
  unfold State.takeCe
  dsimp only
  exact .ite h (.set h rfl)

theorem Steady.takeAck {b c : Nat} {k : AckBody} (h : Steady s t) : Steady s (t.takeAck b c k) := by
  unfold State.takeAck
  dsimp only
  exact .ite (.pump (.resend (.takeCe (.set h rfl)))) h

theorem Stays.ack {rank cls : Nat} {body : AckBody} : Stays s (execAck rank cls body s) :=
  .next (.takeAck .refl)

theorem Stays.retransmitTimer {rank cls : Nat} : Stays s (execRetransmitTimer rank cls s) := by
  unfold execRetransmitTimer
  dsimp only
  exact .next (.ite (.ite (.audit (.resend (.set .refl rfl))) (.resend (.set .refl rfl))) .refl)

theorem Stays.woaneRateTimer {rank : Nat} : Stays s (execWoaneRateTimer rank s) :=
  .next (.ite (.set .refl rfl) .refl)

theorem Steady.takeAuditReply {b c : Nat} {k : AckBody} (h : Steady s t) : Steady s (t.takeAuditReply b c k) := by
  unfold State.takeAuditReply
  dsimp only
  exact .ite (.settleReroute (.pump (.resend (.set h rfl)))) h

theorem Stays.auditReply {rank cls : Nat} {body : AckBody} : Stays s (execAuditReply rank cls body s) :=
  .next (.takeAuditReply .refl)

theorem Stays.exchangeTimeout {id : Nat} : Stays s (execExchangeTimeout id s) := by
  unfold execExchangeTimeout
  refine .next ?_
  split
  · exact .refl
  · exact .loseServer (.set .refl rfl)

/-! ### Plot -/

theorem Stays.setPlot {sid : Nat} {b : Option Buf} {bad : Option (Nat × W32)} : Stays s (execSetPlot sid b bad s) := by
  unfold execSetPlot
  dsimp only
  exact .next (.ite .refl (.run .refl (fun _ _ h' => .withB h' (fun _ => .settle h' (fun _ h'' => .ite (.failWith (.itemWriteBad h''))
      (.completeOk (.dropBits (.raiseEpoch (.modIdx (.modFabric (.set (.itemWriteBad h'') rfl)))))))))))

theorem Steady.plotVote {p : PlotPrepared} {digest : Buf} (h : Steady s t) : Steady s ((t.plotVote p digest).2.2) := by
  unfold State.plotVote
  split
  · exact h
  · exact .iteOf (fun x : Bool × List W128 × State => x.2.2) (.set h rfl) h

theorem Steady.keepSummary {y : PlotSummary} (h : Steady s t) : Steady s (t.keepSummary y) :=
  .ite h (.set h rfl)

theorem Steady.applyPlot {plot : Nat} {commit : Bool} (h : Steady s t) : Steady s (t.applyPlot plot commit) := by
  unfold State.applyPlot
  dsimp only
  split
  · exact .ite (.sendAll (.keepSummary (.publish (.set h rfl)))) (.set h rfl)
  · exact h

theorem Steady.endCarried {plot sid : Nat} {r : Result} (h : Steady s t) : Steady s (t.endCarried plot sid r) := by
  unfold State.endCarried
  dsimp only
  split
  · exact h
  · refine .ite ?_ h
    split
    · exact .sweepIndex (.set h rfl)
    · exact .set h rfl

theorem Steady.startPlotCommit {plot : Nat} (h : Steady s t) : Steady s ((t.startPlotCommit plot).1) := by
  unfold State.startPlotCommit
  dsimp only
  split
  · exact .iteOf Prod.fst (.fst (.sendAll (.set h rfl))) h
  · exact h

theorem Steady.modCommit {c : PlotCommit} {f : PlotCommit → PlotCommit} (h : Steady s t) : Steady s (t.modCommit c f) :=
  .set h rfl

theorem Steady.dropCommit {c : PlotCommit} (h : Steady s t) : Steady s (t.dropCommit c) :=
  .set h rfl

theorem Steady.closeCommit {c : PlotCommit} (h : Steady s t) : Steady s (t.closeCommit c) := by
  unfold State.closeCommit
  dsimp only
  exact .ite (.endCarried (.set h rfl)) (.sendMsg (.set h rfl))

theorem Steady.decidePlot {c : PlotCommit} {commit : Bool} (h : Steady s t) : Steady s (t.decidePlot c commit) := by
  unfold State.decidePlot
  dsimp only
  exact .ite (.ite (.closeCommit (.modCommit (.applyPlot (.sendAll (.set h rfl))))) (.modCommit (.applyPlot (.sendAll (.set h rfl))))) (.ite
      (.endCarried (.dropCommit (.applyPlot (.sendAll (.set h rfl))))) (.dropCommit (.applyPlot (.sendAll (.set h rfl)))))

theorem Steady.countPlotVote {plot rank base : Nat} {yes : Bool} {live : List W128} (h : Steady s t) :
    Steady s (t.countPlotVote plot rank base yes live) := by
  unfold State.countPlotVote
  dsimp only
  split
  · exact h
  · exact .ite h (.ite (.decidePlot h) (.ite (.decidePlot (.set h rfl)) (.set h rfl)))

theorem Steady.voteSelf {o : Option PlotCommit} (h : Steady s t) : Steady s (t.voteSelf o) := by
  unfold State.voteSelf
  dsimp only
  split
  · exact h
  · exact .countPlotVote (.plotVote h)

theorem Steady.runCommits {n plot : Nat} (h : Steady s t) : Steady s (State.runCommits n t plot) := by
  induction n generalizing t with
  | zero => exact h
  | succ n ih => exact .ite h (ih (.voteSelf (.startPlotCommit h)))

theorem Stays.plotCommit {plot rank sid : Nat} {inserted deleted : List W128} : Stays s (execPlotCommit plot rank sid inserted deleted s) := by
  unfold execPlotCommit
  dsimp only
  refine .next ?_
  split
  · exact .refl
  · refine .ite .refl ?_
    split
    · exact .refl
    · exact .runCommits (.set .refl rfl)

theorem Stays.plotPrepare {rank plot base : Nat} {digest : Buf} {inserted deleted : List W128} :
    Stays s (execPlotPrepare rank plot base digest inserted deleted s) := by
  unfold execPlotPrepare
  dsimp only
  exact .next (.ite .refl (.sendMsg (.plotVote .refl)))

theorem Stays.plotVote {rank plot base : Nat} {yes : Bool} {live : List W128} : Stays s (execPlotVote rank plot base yes live s) :=
  .next (.ite (.runCommits (.countPlotVote .refl)) .refl)

theorem Stays.plotPrepareTimeout {plot : Nat} : Stays s (execPlotPrepareTimeout plot s) := by
  unfold execPlotPrepareTimeout
  refine .next ?_
  split
  · exact .ite (.runCommits (.decidePlot .refl)) .refl
  · exact .refl

theorem Stays.plotDecision {plot base : Nat} {commit : Bool} : Stays s (execPlotDecision plot base commit s) := by
  unfold execPlotDecision
  dsimp only
  refine .next ?_
  split
  · exact .refl
  · refine .ite .refl (.ite (.sendMsg (.applyPlot .refl)) (.ite ?_ (.applyPlot .refl)))
    split
    · exact .endCarried (.applyPlot .refl)
    · exact .applyPlot .refl

theorem Steady.plotConfirmed {rank plot version : Nat} (h : Steady s t) : Steady s (t.plotConfirmed rank plot version) := by
  unfold State.plotConfirmed
  dsimp only
  refine .ite ?_ (.ite ?_ h)
  · split
    · exact h
    · exact .ite (.ite (.runCommits (.closeCommit (.set h rfl))) (.set h rfl)) h
  · split
    · exact h
    · split
      · exact .ite (.endCarried h) h
      · exact h

theorem Stays.commitConfirm {rank : Nat} {plot : Bool} {id version : Nat} : Stays s (execCommitConfirm rank plot id version s) := by
  unfold execCommitConfirm
  refine .next (.ite (.plotConfirmed .refl) ?_)
  split
  · exact .refl
  · exact .ite (.settlePublish (.set .refl rfl)) .refl

theorem Steady.takePlotPin {plot version : Nat} {pinned : Bool} (h : Steady s t) : Steady s (t.takePlotPin plot version pinned) := by
  unfold State.takePlotPin
  dsimp only
  split
  · exact h
  · exact .sweepVersions (.modIndex (.event h))

theorem Steady.takePlotDelete {rank plot : Nat} (h : Steady s t) : Steady s (t.takePlotDelete rank plot) := by
  unfold State.takePlotDelete
  dsimp only
  split
  · exact h
  · split
    · exact .sweepIndex (.ite (.ite (.foldl (.event h) (fun _ _ h' => .sendMsg h')) (.event h)) (.modIndex (.ite (.foldl (.event h)
        (fun _ _ h' => .sendMsg h')) (.event h))))
    · exact .ite (.ite (.foldl (.event h) (fun _ _ h' => .sendMsg h')) (.event h)) (.modIndex (.ite (.foldl (.event h)
        (fun _ _ h' => .sendMsg h')) (.event h)))

theorem Steady.answerPlotQuery {rank plot base : Nat} (h : Steady s t) : Steady s (t.answerPlotQuery rank plot base) := by
  unfold State.answerPlotQuery
  dsimp only
  exact .ite h (.sendMsg h)

theorem Stays.decisionQueryTimer {plot : Bool} {id : Nat} : Stays s (execDecisionQueryTimer plot id s) := by
  unfold execDecisionQueryTimer
  refine .next (.ite ?_ (.queryTable .refl))
  split
  · exact .ite .refl (.sendMsg .refl)
  · exact .refl

theorem Steady.resendPlots (h : Steady s t) : Steady s t.resendPlots :=
  .ite (.foldl h (fun _ _ h' => .sendAll h')) h

theorem Stays.readinessChange {bit : Nat} : Stays s (execReadinessChange bit s) := by
  unfold execReadinessChange
  dsimp only
  exact .next (.ite (.resendPlots (.resendDecisions (.changeReady .refl))) (.changeReady .refl))

theorem Steady.deliver {rank : Nat} {m : PeerMsg} (h : Steady s t) : Steady s (t.deliver rank m) := by
  unfold State.deliver
  dsimp only
  split
  · exact .ite h (.set h rfl)
  · split
    · exact .removeTable h
    · exact h
  · exact .takeRows h
  · exact .takeBlock h
  · exact .holdBlock h
  · exact .abandonMove h
  · exact .leaveBlock h
  · exact .readRows h
  · exact .sendBlock h
  · exact .ite (.tunedHurt (.settleAcks (.noteAnswer h))) (.settleAcks (.noteAnswer h))
  · exact .ite (.answerPlotQuery h) (.answerQuery h)
  · exact .ite h (.set h rfl)
  · split
    · exact .removeLog h
    · exact h
  · exact .ite h (.addGraft h)
  · split
    · exact .removeGraft h
    · exact h
  · exact .takeRun h
  · exact .takeStop h
  · exact .stopJob h
  · exact .answerVote h
  · exact .set h rfl
  · exact .takePlotPin h
  · exact .takePlotDelete h

theorem Steady.takeMessages {rank cls : Nat} {psn : W32} {first last ce : Bool} {payload : Buf} {msgs : List PeerMsg} (h : Steady s t) :
    Steady s (t.takeMessages rank cls psn first last ce payload msgs) := by
  unfold State.takeMessages
  dsimp only
  exact .ite (.foldl (.takeData h) (fun _ _ h' => .deliver h')) (.takeData h)

theorem Stays.data {rank cls : Nat} {psn : W32} {first last ce : Bool} {payload : Buf} {msgs : List PeerMsg} :
    Stays s (execData rank cls psn first last ce payload msgs s) :=
  .next (.takeMessages .refl)

theorem Steady.takePacket {p : WPacket} (h : Steady s t) : Steady s (t.takePacket p) := by
  unfold State.takePacket
  dsimp only
  exact .ite (.takeMessages h) (.ite (.takeAck h) (.ite (.takeOpen h) (.ite (.takeOpenOk h) (.ite (.sendAck h) (.takeAuditReply h)))))

theorem Stays.woanePacketReceive {p : WPacket} : Stays s (execWoanePacketReceive p s) := by
  unfold execWoanePacketReceive
  dsimp only
  exact .next (.ite (.woaneStale (.ite (.set .refl rfl) (.set .refl rfl))) (.ite (.ite (.receiveHello (.ite (.set .refl rfl) (.set .refl rfl)))
      (.woaneStale (.ite (.set .refl rfl) (.set .refl rfl)))) (.ite (.takePacket (.woaneCheck (.ite (.set .refl rfl) (.set .refl rfl))))
      (.woaneCheck (.ite (.set .refl rfl) (.set .refl rfl))))))

theorem Stays.plotSummary {y : PlotSummary} : Stays s (execPlotSummary y s) :=
  .next (.ite (.keepSummary .refl) .refl)

theorem Steady.memberPart {x : Index} {msg : PlotMsg} {media : Media} (h : Steady s t) : Steady s ((t.memberPart x msg media).2) := by
  unfold State.memberPart
  dsimp only
  split
  · split
    · exact h
    · exact .snd (.readRuns h)
  · split
    · exact h
    · exact .snd (.readRuns h)
  · exact .snd (.readPassages h)

theorem Stays.plotSearchMessage {rank sid plot : Nat} {msg : PlotMsg} {media : Media} :
    Stays s (execPlotSearchMessage rank sid plot msg media s) := by
  unfold execPlotSearchMessage
  dsimp only
  refine .next ?_
  split
  · exact .refl
  · refine .ite .refl ?_
    split
    · exact .sendMsg (.memberPart .refl)
    · exact .memberPart .refl

theorem Stays.plotSearchReply {rank sid : Nat} {reply : PlotReply} : Stays s (execPlotSearchReply rank sid reply s) := by
  unfold execPlotSearchReply
  dsimp only
  refine .next ?_
  split
  · exact .ite (.set .refl rfl) (.set .refl rfl)
  · exact .set .refl rfl

/-! ### Queues -/

theorem Stays.nop {sid : Nat} : Stays s (execNop sid s) :=
  .next (.run .refl (fun _ _ h' => .settle h' (fun _ h'' => .set h'' rfl)))

theorem Stays.createQueue {sid : Nat} {b : Option Buf} : Stays s (execCreateQueue sid b s) := by
  unfold execCreateQueue
  dsimp only
  refine .next (.run .refl (fun _ _ h' => .withB h' (fun _ => .settle h' (fun _ h'' => ?_))))
  split
  · exact h''
  · exact .complete (.setQueue (.fresh h''))

theorem Stays.destroyQueue {sid : Nat} : Stays s (execDestroyQueue sid s) :=
  .next (.run .refl (fun _ _ h' => .settle h' (fun _ h'' => .settleDestroy (.set h'' rfl))))

theorem Steady.deliverHeld {q : Queue} (h : Steady s t) : Steady s (t.deliverHeld q) :=
  .foldl (.set h rfl) (fun _ _ h' => .emit h')

theorem Stays.attachQueue {sid : Nat} : Stays s (execAttachQueue sid s) := by
  unfold execAttachQueue
  dsimp only
  exact .next (.run .refl (fun _ _ h' => .settle h' (fun _ h'' => .completeOk (.deliverHeld h''))))

theorem Stays.queryQueue {sid : Nat} {ok : Bool} : Stays s (execQueryQueue sid ok s) := by
  unfold execQueryQueue
  refine .next (.run .refl (fun _ _ h' => .settle h' (fun _ h'' => ?_)))
  split
  · exact .set h'' rfl
  · exact .report h'' (fun _ h''' => .set h''' rfl)

theorem Steady.doorbellWrite {conn : W32} {offset : Nat} {data : Buf} (h : Steady s t) : Steady s (t.doorbellWrite conn offset data) := by
  unfold State.doorbellWrite
  dsimp only
  refine .ite (.set h rfl) ?_
  split
  · exact .set h rfl
  · exact .set h rfl
  · exact .set h rfl

theorem Stays.doorbell {conn : W32} {offset : Nat} {data : Buf} : Stays s (execDoorbell conn offset data s) :=
  .next (.ite (.doorbellWrite .refl) .refl)

theorem Steady.fetch {i : Nat} (h : Steady s t) : Steady s (t.fetch i) := by
  unfold State.fetch
  dsimp only
  exact .ite (.ite (.accept (.set h rfl)) (.set h rfl)) h

theorem Stays.submissionFetch {queue : Nat} : Stays s (execSubmissionFetch queue s) :=
  .next (.fetch .refl)

theorem Stays.quarantineExit {queue : Nat} : Stays s (execQuarantineExit queue s) := by
  unfold execQuarantineExit
  dsimp only
  exact .next (.ite (.set .refl rfl) .refl)

theorem Stays.queryClient {sid : Nat} {ok : Bool} : Stays s (execQueryClient sid ok s) := by
  unfold execQueryClient
  refine .next (.run .refl (fun _ _ h' => ?_))
  split
  · exact .settle h' (fun _ h'' => h'')
  · exact .settle h' (fun _ h'' => .report h'' (fun _ h''' => .set h''' rfl))

theorem Stays.enrolClient {sid : Nat} : Stays s (execEnrolClient sid s) := by
  unfold execEnrolClient
  dsimp only
  exact .next (.run .refl (fun _ _ h' => .settle h' (fun _ h'' => .set h'' rfl)))

/-! ### Front -/

theorem Steady.mailboxWrite {conn : W32} {off : Nat} {bytes : Buf} (h : Steady s t) : Steady s (t.mailboxWrite conn off bytes) := by
  unfold State.mailboxWrite
  dsimp only
  exact .ite (.ite (.control h) h) (.foldl h (fun _ _ h' => .ite (.set h' rfl) h'))

theorem Steady.frontWrite {conn : W32} {off : Nat} {bytes : Buf} (h : Steady s t) : Steady s (t.frontWrite conn off bytes) :=
  .ite (.doorbellWrite h) (.ite (.mailboxWrite h) h)

theorem Stays.frontWriteIgnored {_offset : Nat} {_bytes : Buf} : Stays s (execFrontWriteIgnored _offset _bytes s) :=
  .next .refl

/-! ### HostPort -/

theorem Stays.announceTimer : Stays s (execAnnounceTimer s) := by
  unfold execAnnounceTimer
  dsimp only
  exact .next (.ite (.emit (.set .refl rfl)) .refl)

theorem Stays.discoveryDatagram {source : W128} {first4 : Buf} : Stays s (execDiscoveryDatagram source first4 s) := by
  unfold execDiscoveryDatagram
  dsimp only
  exact .next (.ite (.emit (.set .refl rfl)) .refl)

theorem Stays.pfcFrame {priority : Nat} {pause : Bool} : Stays s (execPfcFrame priority pause s) := by
  unfold execPfcFrame
  dsimp only
  exact .next (.ite (.ite (.set .refl rfl) (.resume .refl)) (.set .refl rfl))

theorem Stays.pfcPauseExpiry : Stays s (execPfcPauseExpiry s) :=
  .next (.resume .refl)

theorem Steady.buffered {free : Nat} (h : Steady s t) : Steady s (t.buffered free) := by
  unfold State.buffered
  dsimp only
  exact .ite (.ite (.emit (.set h rfl)) (.ite (.emit (.set h rfl)) (.set h rfl))) (.set h rfl)

theorem Stays.cnpReceive {conn : W32} : Stays s (execCnpReceive conn s) :=
  .next (.set .refl rfl)

theorem Stays.rateIncreaseTimer {conn : W32} : Stays s (execRateIncreaseTimer conn s) :=
  .next (.set .refl rfl)

theorem Steady.noteCe {conn : W32} (h : Steady s t) : Steady s (t.noteCe conn) := by
  unfold State.noteCe
  dsimp only
  split
  · exact h
  · exact .ite h (.emit (.set h rfl))

theorem Stays.connectionRequest {mtu responder initiator : Nat} {psn : BitVec 24} :
    Stays s (execConnectionRequest mtu responder initiator psn s) := by
  unfold execConnectionRequest
  dsimp only
  refine .next (.ite ?_ (.emit .refl))
  split
  · exact .emit .refl
  · exact .emit (.set (.fresh .refl) rfl)

theorem Stays.rtuReceive {conn : W32} : Stays s (execRtuReceive conn s) := by
  unfold execRtuReceive
  dsimp only
  refine .next ?_
  split
  · exact .ite (.set .refl rfl) .refl
  · exact .refl

theorem Stays.rtuTimeout {conn : W32} : Stays s (execRtuTimeout conn s) := by
  unfold execRtuTimeout
  refine .next ?_
  split
  · exact .ite (.releaseConn .refl) .refl
  · exact .refl

theorem Stays.rcAckTimeout {conn : W32} : Stays s (execRcAckTimeout conn s) := by
  unfold execRcAckTimeout
  refine .next ?_
  split
  · exact .ite .refl (.ite (.emit (.set .refl rfl)) (.connError .refl))
  · exact .refl

theorem Stays.connectionError {conn : W32} {cause : Option Nat} : Stays s (execConnectionError conn cause s) :=
  .next (.connError .refl)

theorem Stays.connectionRelease {conn : W32} : Stays s (execConnectionRelease conn s) := by
  unfold execConnectionRelease
  refine .next ?_
  split
  · exact .ite (.releaseConn .refl) .refl
  · exact .refl

theorem Stays.rdmaSendReceive {conn : W32} : Stays s (execRdmaSendReceive conn s) := by
  unfold execRdmaSendReceive
  dsimp only
  exact .next (.ite (.emit (.set .refl rfl)) .refl)

theorem Steady.countRx {port i : Nat} (h : Steady s t) : Steady s (t.countRx port i) :=
  .modPort h

theorem Steady.roceAct {f : Frame} (h : Steady s t) : Steady s (t.roceAct f) := by
  unfold State.roceAct
  dsimp only
  refine .ite ?_ h
  split
  · exact .frontWrite (.emit (.set h rfl))
  · exact .modQueue (.emit (.set h rfl))
  · exact .emit (.set h rfl)
  · exact .set h rfl
  · exact .set h rfl

theorem Steady.echo {n : Nat} (h : Steady s t) : Steady s (t.echo n) := by
  unfold State.echo
  dsimp only
  split
  · exact h
  · exact .ite (.emit (.modPort h)) (.modPort h)

theorem Steady.takeAddress {n : Nat} {addr : W128} {isUnique : Bool} (h : Steady s t) : Steady s (t.takeAddress n addr isUnique) :=
  .ite (.modPort h) h

theorem Steady.frameAct {f : Frame} (h : Steady s t) : Steady s (t.frameAct f) := by
  unfold State.frameAct
  refine .ite (.ite (.set h rfl) h) (.ite (.roceAct h) ?_)
  split
  · exact .echo h
  · exact .ite (.emit h) h
  · split
    · exact .ite (.emit h) h
    · exact h
  · exact .ite h (.takeAddress h)
  · exact .ite (.takeAddress h) h
  · exact h

theorem Steady.frameFail {f : Frame} {i : Nat} (h : Steady s t) : Steady s (t.frameFail f i) := by
  unfold State.frameFail
  dsimp only
  refine .ite h (.ite (.connError (.emit h)) (.ite (.emit h) (.ite ?_ (.ite (.connError (.emit h)) h))))
  split
  · exact .emit (.set h rfl)
  · exact .emit h

theorem Stays.frameReceive {f : Frame} : Stays s (execFrameReceive f s) := by
  unfold execFrameReceive
  dsimp only
  refine .next ?_
  split
  · exact .frameFail (.ite (.countRx (.ite (.noteCe (.ite (.buffered .refl) .refl)) (.ite (.buffered .refl) .refl))) (.bumpPort (.countRx (.ite
      (.noteCe (.ite (.buffered .refl) .refl)) (.ite (.buffered .refl) .refl)))))
  · exact .frameAct (.ite (.noteCe (.ite (.buffered .refl) .refl)) (.ite (.buffered .refl) .refl))

/-! ### Finish -/

theorem Steady.releaseReq {r : Req} (h : Steady s t) : Steady s (t.releaseReq r) := by
  unfold State.releaseReq
  dsimp only
  refine .modAns (.ite (.modConn (.set ?_ rfl)) ?_)
  · split
    · exact .foldl h (fun _ _ h' => .dropHome h')
    · exact h
  · split
    · exact .foldl h (fun _ _ h' => .dropHome h')
    · exact h

theorem Steady.releaseHeld {sid : Nat} (h : Steady s t) : Steady s (t.releaseHeld sid) := by
  unfold State.releaseHeld
  dsimp only
  refine .sweepIndexes (.sweepImages (.modTables ?_))
  split
  · exact .releaseReq h
  · exact h

theorem Steady.settleCtxs (h : Steady s t) : Steady s t.settleCtxs :=
  .foldl h (fun _ _ h' => .settleCtxDestroy h')

theorem Steady.endUpdate {sid : Nat} (h : Steady s t) : Steady s (t.endUpdate sid) := by
  unfold State.endUpdate
  dsimp only
  split
  · exact .ite (.ite (.set (.applyWaiting h) rfl) (.applyWaiting h)) h
  · exact h

theorem Moves.afterCompletion {sid : Nat} (h : Steady s t) : Moves s (t.afterCompletion sid) :=
  .ite (.resetNow (.endUpdate (.settleCtxs (.releaseHeld h)))) (.of (.endUpdate (.settleCtxs (.releaseHeld h))))

theorem Stays.completionWrite {sid : Nat} : Stays s (execCompletionWrite sid s) := by
  unfold execCompletionWrite
  show Moves s _
  split
  · exact .of .refl
  · exact .ite (.afterCompletion (.writeCompletion .refl)) (.of (.writeCompletion .refl))

end Sys2Proof.Machine
end

section
/-! PROOFS. Every command, and every step, keeps what is held; every error is counted once (O3, O4, O6, O41). -/

namespace Sys2Proof.Machine

open Sys2Proof

/-! ### Commands and steps -/

theorem exec_stays (s : State) (c : Instr) : Stays s (exec c s) :=
  match c with
  | .nop .. => .nop
  | .createQueue .. => .createQueue
  | .destroyQueue .. => .destroyQueue
  | .attachQueue .. => .attachQueue
  | .queryQueue .. => .queryQueue
  | .answer .. => .answer
  | .answerBlockRead .. => .answerBlockRead
  | .batchClose .. => .batchClose
  | .embedComplete .. => .embedComplete
  | .probeComplete .. => .probeComplete
  | .sievePassEnd .. => .sievePassEnd
  | .sievePassStart .. => .sievePassStart
  | .mergeComplete .. => .mergeComplete
  | .exactComplete .. => .exactComplete
  | .fetchComplete .. => .fetchComplete
  | .rerankComplete .. => .rerankComplete
  | .packComplete .. => .packComplete
  | .prefillLayerComplete .. => .prefillLayerComplete
  | .handoffWriteAcked .. => .handoffWriteAcked
  | .decodeStep .. => .decodeStep
  | .resultWrite .. => .resultWrite
  | .cheaperPath .. => .cheaperPath
  | .deadlineExpiry .. => .deadlineExpiry
  | .createIndex .. => .createIndex
  | .deleteIndex .. => .deleteIndex
  | .openSegment .. => .openSegment
  | .appendRecords .. => .appendRecords
  | .sealSegment .. => .sealSegment
  | .commitIndex .. => .commitIndex
  | .compactIndex .. => .compactIndex
  | .pinVersion .. => .pinVersion
  | .unpinVersion .. => .unpinVersion
  | .versionRetire .. => .versionRetire
  | .loadImage .. => .loadImage
  | .unloadImage .. => .unloadImage
  | .bindModel .. => .bindModel
  | .unbindModel .. => .unbindModel
  | .loadFilter .. => .loadFilter
  | .unloadFilter .. => .unloadFilter
  | .pickIssue .. => .pickIssue
  | .gatherAddressFault .. => .gatherAddressFault
  | .pickCheckComplete .. => .pickCheckComplete
  | .widerRunComplete .. => .widerRunComplete
  | .stagingComplete .. => .stagingComplete
  | .createTable .. => .createTable
  | .deleteTable .. => .deleteTable
  | .tableLookup .. => .tableLookup
  | .subLookup .. => .subLookup
  | .subLookupReply .. => .subLookupReply
  | .lookupResultWrite .. => .lookupResultWrite
  | .updateRows .. => .updateRows
  | .rowUpdateMessage .. => .rowUpdateMessage
  | .migrateBlock .. => .migrateBlock
  | .migrationFlip .. => .migrationFlip
  | .stubForward .. => .stubForward
  | .mapAcknowledge .. => .mapAcknowledge
  | .loadTableRows .. => .loadTableRows
  | .publishTable .. => .publishTable
  | .tablePrepare .. => .tablePrepare
  | .tableVote .. => .tableVote
  | .tablePrepareTimeout .. => .tablePrepareTimeout
  | .tableDecision .. => .tableDecision
  | .decisionQueryTimer .. => .decisionQueryTimer
  | .tableVersionFree .. => .tableVersionFree
  | .checkpointTable .. => .checkpointTable
  | .tableRestore .. => .tableRestore
  | .createLog .. => .createLog
  | .appendLog .. => .appendLog
  | .trimLog .. => .trimLog
  | .deleteLog .. => .deleteLog
  | .createGraft .. => .createGraft
  | .runGraft .. => .runGraft
  | .runGraftRestore .. => .runGraftRestore
  | .stopGraft .. => .stopGraft
  | .deleteGraft .. => .deleteGraft
  | .queryGraft .. => .queryGraft
  | .gradientComplete .. => .gradientComplete
  | .gradReady .. => .gradReady
  | .reduce .. => .reduce
  | .announceReceived .. => .announceReceived
  | .chainHop .. => .chainHop
  | .groupPartial .. => .groupPartial
  | .graftBarrier .. => .graftBarrier
  | .graftVote .. => .graftVote
  | .graftDecision .. => .graftDecision
  | .hopTimeout .. => .hopTimeout
  | .stepTimeout .. => .stepTimeout
  | .graftVoteQueryTimer .. => .graftVoteQueryTimer
  | .graftCheckpoint .. => .graftCheckpoint
  | .createObject .. => .createObject
  | .deleteObject .. => .deleteObject
  | .writeExtent .. => .writeExtent
  | .readExtent .. => .readExtent
  | .trimExtent .. => .trimExtent
  | .programComplete .. => .programComplete
  | .programFail .. => .programFail
  | .readLadderStep .. => .readLadderStep
  | .parityRebuild .. => .parityRebuild
  | .openBlockParityWrite .. => .openBlockParityWrite
  | .blockSetClose .. => .blockSetClose
  | .blockSetVerify .. => .blockSetVerify
  | .wearLevel .. => .wearLevel
  | .patrolRead .. => .patrolRead
  | .mapCheckpointStart .. => .mapCheckpointStart
  | .shutdown .. => .shutdown
  | .moveObject .. => .moveObject
  | .moveFlip .. => .moveFlip
  | .moveAbandon .. => .moveAbandon
  | .pinRelease .. => .pinRelease
  | .extentFetchComplete .. => .extentFetchComplete
  | .queryHome .. => .queryHome
  | .setPools .. => .setPools
  | .createContext .. => .createContext
  | .destroyContext .. => .destroyContext
  | .runEntry .. => .runEntry
  | .queryContext .. => .queryContext
  | .contextSaveComplete .. => .contextSaveComplete
  | .contextRestoreComplete .. => .contextRestoreComplete
  | .preemptionTimer .. => .preemptionTimer
  | .yieldPoint .. => .yieldPoint
  | .contextTeardown .. => .contextTeardown
  | .queryClient .. => .queryClient
  | .enrolClient .. => .enrolClient
  | .doorbell .. => .doorbell
  | .submissionFetch .. => .submissionFetch
  | .completionWrite .. => .completionWrite
  | .quarantineExit .. => .quarantineExit
  | .knotSignal .. => .knotSignal
  | .knotReset .. => .knotReset
  | .frameReceive .. => .frameReceive
  | .frontWriteIgnored o b => .frontWriteIgnored (_offset := o) (_bytes := b)
  | .rdmaSendReceive .. => .rdmaSendReceive
  | .connectionRequest .. => .connectionRequest
  | .rtuTimeout .. => .rtuTimeout
  | .rcAckTimeout .. => .rcAckTimeout
  | .connectionError .. => .connectionError
  | .connectionRelease .. => .connectionRelease
  | .trainingFrame .. => .trainingFrame
  | .lanesToData .. => .lanesToData
  | .trainingTimeout .. => .trainingTimeout
  | .laneFault .. => .laneFault
  | .laneSwap .. => .laneSwap
  | .pcsAligned .. => .pcsAligned
  | .setHostport .. => .setHostport
  | .discoveryDatagram .. => .discoveryDatagram
  | .pfcFrame .. => .pfcFrame
  | .cnpReceive .. => .cnpReceive
  | .rateIncreaseTimer .. => .rateIncreaseTimer
  | .mailboxControl .. => .mailboxControl
  | .sessionBegin .. => .sessionBegin
  | .sessionProve .. => .sessionProve
  | .closeSession .. => .closeSession
  | .readErrors .. => .readErrors
  | .readErrorsHistory .. => .readErrorsHistory
  | .attest .. => .attest
  | .grant .. => .grant
  | .revoke .. => .revoke
  | .enrolKey .. => .enrolKey
  | .flashPolicy .. => .flashPolicy
  | .resetSled .. => .resetSled
  | .updateFirmware .. => .updateFirmware
  | .updateFirmwareRecovery .. => .updateFirmwareRecovery
  | .retireGranule .. => .retireGranule
  | .retireBank .. => .retireBank
  | .retireSramPage .. => .retireSramPage
  | .setRake .. => .setRake
  | .setPlot .. => .setPlot
  | .woanePacketReceive .. => .woanePacketReceive
  | .hello .. => .hello
  | .peerDownTimeout .. => .peerDownTimeout
  | .openFlow .. => .openFlow
  | .openOk .. => .openOk
  | .data .. => .data
  | .ack .. => .ack
  | .ackTimer .. => .ackTimer
  | .bufferRelease .. => .bufferRelease
  | .retransmitTimer .. => .retransmitTimer
  | .woaneRateTimer .. => .woaneRateTimer
  | .audit _ _ n => .audit (_nextPsn := n)
  | .auditReply .. => .auditReply
  | .fabricPortLoss .. => .fabricPortLoss
  | .fabricPortReturn .. => .fabricPortReturn
  | .exchangeTimeout .. => .exchangeTimeout
  | .plotCommit .. => .plotCommit
  | .plotPrepare .. => .plotPrepare
  | .plotDecision .. => .plotDecision
  | .plotSummary .. => .plotSummary
  | .plotSearchMessage .. => .plotSearchMessage
  | .plotSearchReply .. => .plotSearchReply
  | .memoryRead .. => .memoryRead
  | .rakeRead .. => .rakeRead
  | .rakeLapEnd .. => .rakeLapEnd
  | .fill .. => .fill
  | .checkerSelfTest .. => .checkerSelfTest
  | .errorLogEvent .. => .errorLogEvent
  | .coreHeartbeatTimeout .. => .coreHeartbeatTimeout
  | .handoffEffect .. => .handoffEffect
  | .hubHeartbeatTimeout .. => .hubHeartbeatTimeout
  | .hubTakeoverComplete .. => .hubTakeoverComplete
  | .hbmStackRetirement .. => .hbmStackRetirement
  | .laserModuleFault .. => .laserModuleFault
  | .laserModuleInsert .. => .laserModuleInsert
  | .regulatorFault .. => .regulatorFault
  | .firmwareImageCheck .. => .firmwareImageCheck
  | .revokeFuseBlow .. => .revokeFuseBlow
  | .readinessChange .. => .readinessChange
  | .configReadWord .. => .configReadWord
  | .configProgramWord .. => .configProgramWord
  | .configEraseSector .. => .configEraseSector
  | .configItemWrite .. => .configItemWrite
  | .counterIncrement .. => .counterIncrement
  | .inputSample .. => .inputSample
  | .resetLAssert .. => .resetLAssert
  | .presentLChange .. => .presentLChange
  | .sensorRead .. => .sensorRead
  | .demandLiftTimer .. => .demandLiftTimer
  | .ageingMonitor .. => .ageingMonitor
  | .ageingCeiling .. => .ageingCeiling
  | .clockWake .. => .clockWake
  | .rtuReceive .. => .rtuReceive
  | .tetherLinkLoss .. => .tetherLinkLoss
  | .hbmLinkLoss .. => .hbmLinkLoss
  | .eraseComplete .. => .eraseComplete
  | .plotVote .. => .plotVote
  | .plotPrepareTimeout .. => .plotPrepareTimeout
  | .commitConfirm .. => .commitConfirm
  | .pickBoundary => .pickBoundary
  | .columnTakeoverComplete => .columnTakeoverComplete
  | .mapCheckpointComplete => .mapCheckpointComplete
  | .sysregionJournal => .sysregionJournal
  | .mapReplay .. => .mapReplay
  | .automaticEviction => .automaticEviction
  | .swapOut => .swapOut
  | .hostportModeTimer => .hostportModeTimer
  | .announceTimer => .announceTimer
  | .helloTimer => .helloTimer
  | .coreTakeoverComplete => .coreTakeoverComplete
  | .start => .start
  | .rollbackFuseBlow => .rollbackFuseBlow
  | .poweredHoursTimer => .poweredHoursTimer
  | .eraseFlagRepair => .eraseFlagRepair
  | .excursionEnd => .excursionEnd
  | .sagWarn => .sagWarn
  | .sagFlushEnd => .sagFlushEnd
  | .inputResetThreshold => .inputResetThreshold
  | .overVoltageTrip => .overVoltageTrip
  | .startCondition => .startCondition
  | .pwrEnAssert => .pwrEnAssert
  | .pwrEnDeassert => .pwrEnDeassert
  | .pwrgdAssert => .pwrgdAssert
  | .resetLRelease => .resetLRelease
  | .holdupBankCharged => .holdupBankCharged
  | .thermalTrip => .thermalTrip
  | .thermtripRelease => .thermtripRelease
  | .stepChange => .stepChange
  | .stepLowerTimer => .stepLowerTimer
  | .housekeepingPowerOn => .housekeepingPowerOn
  | .recoveryReset => .recoveryReset
  | .pfcPauseExpiry => .pfcPauseExpiry

theorem exec_moves {c : Instr} {s t : State} (h : exec c s = .next t) : Moves s t := by
  have stays := exec_stays s c
  rw [h] at stays
  exact stays

/-- A step runs the command at the front of the queue, or counts one cycle. -/
theorem step_carries {s t : State} (h : step s = .next t) : (MemoriesCanonical s → MemoriesCanonical t) ∧ SameIdentity s t
    ∧ s.boot.rollback ≤ t.boot.rollback ∧ BitsStay s.boot.revoke t.boot.revoke := by
  cases hp : s.pending with
  | nil =>
    rw [step_idle hp] at h
    cases h
    rw [tick_frame]
    exact ⟨id, ⟨rfl, rfl, rfl, rfl, rfl, .inl rfl, rfl⟩, Nat.le_refl _, fun _ h => h⟩
  | cons c rest =>
    rw [step_front hp] at h
    obtain ⟨carried, -⟩ := exec_moves h
    exact ⟨carried.mems, carried.identity, carried.rollback, carried.revoke⟩

/-- Settles O3, by what every command carries over. -/
theorem queueKeptAndSent : Obligations.QueueKeptAndSent := by
  refine ⟨fun c s t h => (exec_moves h).1.pending, fun c s t h => ?_⟩
  obtain ⟨carried, -⟩ := exec_moves h
  obtain ⟨l, hl⟩ := carried.out
  obtain ⟨k, hk⟩ := carried.frames
  exact ⟨⟨l, hl.symm⟩, k, hk.symm⟩

/-- Settles O4, by what every step carries over. -/
theorem memoriesStayCanonical : Obligations.MemoriesStayCanonical := fun _ _ hc h => (step_carries h).1 hc

/-- Settles O6, by what every step carries over. -/
theorem fusesOnlyBlow : Obligations.FusesOnlyBlow := fun _ _ h => (step_carries h).2

/-! ### The count of errors (R375) -/

theorem sumOf_eq_sum (l : List Nat) : sumOf l = l.sum := by
  rw [sumOf, List.sum_eq_foldl]

theorem sum_updWhere {α : Type} {p : α → Bool} {f : α → α} {g : α → Nat} (hg : ∀ x, g (f x) = g x + 1) : ∀ l : List α,
    ((updWhere p f l).map g).sum = (l.map g).sum + (l.filter p).length
  | [] => rfl
  | x :: l => by
    have ih := sum_updWhere (p := p) hg l
    rw [updWhere] at ih ⊢
    cases hp : p x
    · simp only [List.map_cons, List.sum_cons, hp, List.filter_cons, Bool.false_eq_true, if_false, ih]
      omega
    · simp only [List.map_cons, List.sum_cons, hp, List.filter_cons, if_true, List.length_cons, hg, ih]
      omega

theorem map_updWhere_kept {α β : Type} {p : α → Bool} {f : α → α} {g : α → β} (hg : ∀ x, g (f x) = g x) (l : List α) :
    (updWhere p f l).map g = l.map g := by
  rw [updWhere, List.map_map]
  refine List.map_congr_left fun x _ => ?_
  simp only [Function.comp_apply]
  split
  · exact hg x
  · rfl

/-- An escalation marks a record and changes no count. -/
theorem markedLog_count (s : State) (e : ErrEvent) : (s.markedLog e).map (·.count) = s.integ.log.map (·.count) := by
  unfold State.markedLog
  split
  · refine map_updWhere_kept (g := ErrRec.count) ?_ _
    exact fun _ => rfl
  · rfl

theorem toNat_satInc {n : W64} (h : n.toNat < 2 ^ 64 - 1) : (satInc n).toNat = n.toNat + 1 := by
  have notFull : n ≠ BitVec.allOnes 64 := fun e => by
    rw [e, BitVec.toNat_allOnes] at h
    exact Nat.lt_irrefl _ h
  rw [satInc, if_neg notFull, BitVec.toNat_add, BitVec.toNat_ofNat]
  omega

theorem sum_modAt_satInc : ∀ {l : List W64} {i : Nat}, i < l.length → (∀ c ∈ l, c.toNat < 2 ^ 64 - 1) →
    ((modAt l i satInc).map (·.toNat)).sum = (l.map (·.toNat)).sum + 1
  | x :: l, 0, _, hl => by
    have counted := toNat_satInc (hl x List.mem_cons_self)
    simp only [modAt, List.map_cons, List.sum_cons, counted]
    omega
  | x :: l, i + 1, hi, hl => by
    have ih := sum_modAt_satInc (l := l) (i := i) (Nat.lt_of_succ_lt_succ hi) fun c hc => hl c (List.mem_cons_of_mem x hc)
    simp only [modAt, List.map_cons, List.sum_cons, ih]
    omega

theorem code_lt (c : ErrClass) : c.code < 4 := by
  cases c <;> decide

theorem logRoom_iff (c : ErrClass) (n : Nat) : logRoom c n = true ↔ n < (match c with | .ce | .ue => 65520 | .unitFail | .deviceFatal => 65536) := by
  cases c <;> simp [logRoom]

/-- The errors that the log and the unlogged counters count. -/
def State.counted (s : State) : Nat := sumOf (s.integ.log.map (·.count)) + sumOf (s.integ.unlogged.map (·.toNat))

section

variable {s : State} {e : ErrEvent}

theorem counted_logError_taken (h : ∃ r ∈ s.integ.log, r.takes e = true) (hu : (s.integ.log.filter fun r => r.takes e).length ≤ 1) :
    (s.logError e).counted = s.counted + 1 := by
  obtain ⟨r, hr, ht⟩ := h
  have one : (s.integ.log.filter fun r => r.takes e).length = 1 := by
    have := List.length_pos_of_mem (List.mem_filter.2 ⟨hr, ht⟩ : r ∈ s.integ.log.filter fun r => r.takes e)
    omega
  have log : ((s.logError e).integ.log.map (·.count)).sum = (s.integ.log.map (·.count)).sum + 1 := by
    rw [logError_counts ⟨r, hr, ht⟩]
    refine (sum_updWhere (g := ErrRec.count) ?_ s.integ.log).trans (congrArg (_ + ·) one)
    exact fun _ => rfl
  have unlogged : (s.logError e).integ.unlogged = s.integ.unlogged := by
    rw [logError_counts ⟨r, hr, ht⟩]
    rfl
  simp only [State.counted, sumOf_eq_sum, log, unlogged]
  omega

theorem counted_logError_opens (h : ∀ r ∈ s.integ.log, r.takes e = false) (hr : logRoom e.cls s.integ.log.length = true) :
    (s.logError e).counted = s.counted + 1 := by
  have log : ((s.logError e).integ.log.map (·.count)).sum = (s.integ.log.map (·.count)).sum + 1 := by
    rw [logError_opens h hr]
    simp only [State.modInteg, List.map_append, List.sum_append, markedLog_count]
    rfl
  have unlogged : (s.logError e).integ.unlogged = s.integ.unlogged := by
    rw [logError_opens h hr]
    rfl
  simp only [State.counted, sumOf_eq_sum, log, unlogged]
  omega

theorem counted_logError_unlogged (h : ∀ r ∈ s.integ.log, r.takes e = false) (hr : logRoom e.cls s.integ.log.length = false)
    (hl : s.integ.unlogged.length = 4) (hm : ∀ c ∈ s.integ.unlogged, c.toNat < 2 ^ 64 - 1) : (s.logError e).counted = s.counted + 1 := by
  have one := sum_modAt_satInc (i := e.cls.code) (hl ▸ code_lt e.cls) hm
  rw [logError_unlogged h hr]
  simp only [State.counted, sumOf_eq_sum, State.modInteg, State.errorSeen, one]
  omega

theorem length_markedLog (s : State) (e : ErrEvent) : (s.markedLog e).length = s.integ.log.length := by
  rw [← List.length_map (f := (·.count)), markedLog_count, List.length_map]

end

/-- Settles O41: the three cases of an error, and what every command carries over. -/
theorem errorsCountedOnce : Obligations.ErrorsCountedOnce := by
  refine ⟨fun s e hl hu hm => ⟨?_, fun h hr => ?_, fun h hr => ?_⟩, fun c s t h => ?_⟩
  · by_cases taken : ∃ r ∈ s.integ.log, r.takes e = true
    · exact counted_logError_taken taken hu
    · have none : ∀ r ∈ s.integ.log, r.takes e = false := fun r hr => Bool.eq_false_iff.2 fun ht => taken ⟨r, hr, ht⟩
      cases room : logRoom e.cls s.integ.log.length
      · exact counted_logError_unlogged none room hl hm
      · exact counted_logError_opens none room
  · rw [logError_opens h ((logRoom_iff _ _).2 hr)]
    refine ⟨?_, rfl⟩
    show (s.markedLog e ++ _).length = _
    rw [List.length_append, length_markedLog]
    rfl
  · have full : logRoom e.cls s.integ.log.length = false := Bool.eq_false_iff.2 fun room => absurd ((logRoom_iff _ _).1 room) (Nat.not_lt.2 hr)
    rw [logError_unlogged h full]
    exact ⟨rfl, rfl⟩
  · obtain ⟨-, counts | reset⟩ := exec_moves h
    · exact .inr counts
    · exact .inl reset

end Sys2Proof.Machine
end

section
/-! PROOFS. The refill after the loss of an HBM stack (R184, R380): a read that waited for it can itself fail a stack. -/

namespace Sys2Proof.Machine

open Sys2Proof

/-- With eight distinct banks of a stack in error already, one more UE record on it fails the stack (R380). -/
theorem countUe_failsStack {s : State} {e : ErrEvent} {y k : Nat} {l : List Nat} (he : ueCounter e = some (2 ^ 20 + y, k))
    (hl : assocGet (2 ^ 20 + y) s.integ.ueKeys = some l) (h8 : 8 ≤ l.length) :
    ∃ g : Integrity, s.countUe e = ({ s with integ := g } : State).failStack y e.source false := by
  have many : 8 ≤ (if l.contains k then l else l ++ [k]).length := by
    split
    · exact h8
    · exact Nat.le_trans h8 (by simp)
  unfold State.countUe
  rw [he]
  dsimp only
  rw [if_neg (Nat.not_lt.2 (Nat.le_add_right _ y)), hl, Option.getD_some, if_pos many, Nat.add_sub_cancel_left]
  exact ⟨_, rfl⟩

/-- The first stack to fail is refilled; with no object in the directory nothing else of the tiers changes. -/
theorem failStack_refills {s : State} {y : Nat} (hy : y < 24) (hr : s.tiers.retiredStacks = []) (hh : s.tiers.homes = []) (source : Nat) :
    (s.failStack y source false).tiers = { s.tiers with retiredStacks := [y], refilling := some y } := by
  have none : ∀ t : State, t.tiers.homes = [] → t.refetch y = t := fun t ht => by simp [State.refetch, ht]
  have tiers : ((s.unitFail unitHbm (64 * y) source).setReady (bitHbm y) false).tiers = s.tiers := by
    rw [State.unitFail, logError_frame]
    rfl
  unfold State.failStack
  dsimp only
  rw [if_neg (by simp [hr, hy]), hr, if_pos List.isEmpty_nil, if_neg Bool.false_ne_true]
  generalize (s.unitFail unitHbm (64 * y) source).setReady (bitHbm y) false = t at tiers ⊢
  rw [none _ (by rw [← hh, ← tiers]; rfl)]
  have listed : t.tiers.retiredStacks ++ [y] = [y] := by rw [tiers, hr]; rfl
  show ({ t.tiers with retiredStacks := t.tiers.retiredStacks ++ [y], refilling := some y } : Tiers) = _
  rw [listed, tiers]

/-- A word of the pools that no object holds is filled, and the tiers stay. -/
theorem handleUe_unowned {s : State} {a : Nat} (ha : systemBytes ≤ a) (hh : s.tiers.homes = []) (hal : s.tiers.allocs = []) (d : Bool) (source : Nat) :
    (s.handleUe .hbm a d source).tiers = s.tiers := by
  have fills : s.handleUe .hbm a d source = s.storeWord .hbm a 0 := by
    unfold State.handleUe State.poolUe
    dsimp only
    rw [if_neg (Nat.not_lt.2 ha), hh, hal]
    rfl
  rw [fills]
  rfl

/-- A word of HBM1 in the pools, outside every object. -/
def strayWord : Nat := systemBytes + granuleBytes

/-- The refill of HBM0 waits for its end with a read of a word of HBM1 that is uncorrectable, when eight banks of HBM1 have had a UE.  No
stack stands as retired: the statement does not ask that the one being refilled does. -/
def refillWithStrayRead : State :=
  { tiers := { refilling := some 0, heldReads := [(strayWord, none)] }
    integ := { flips := [(0, strayWord / 8, [0, 1])], ueKeys := [(2 ^ 20 + 1, List.range 8)] } }

/-- What the end of the refill leaves when it comes to the reads that waited. -/
def refillOver : State :=
  { refillWithStrayRead with
    tiers := {}
    fail := (refillWithStrayRead.takeoverDone 4 0).fail }

theorem retirement_readsStray : exec (.hbmStackRetirement 0) refillWithStrayRead = .next (refillOver.readWord .hbm strayWord 0 true none) :=
  rfl

/-- The UE that the read meets. -/
def strayError : ErrEvent := refillOver.fresh.2.wordError .hbm strayWord 0 .ue 0xFF#8 ((Config.word refillOver.free).truncate 8)

/-- It is one of HBM1. -/
theorem strayError_counts : ueCounter strayError = some (2 ^ 20 + 1, strayError.unitIndex % 64) := by
  have stack : strayError.unitIndex / 64 = 1 := by
    show (64 * 1 + Config.bank 1 (stackByte strayWord / granuleBytes) % 64) / 64 = 1
    omega
  unfold ueCounter
  rw [if_neg (fun h => h rfl), if_neg (by decide : ¬ strayError.unitType = unitTile), if_pos (show strayError.unitType = unitHbm from rfl), stack]

/-- It opens a record, and HBM1 fails. -/
theorem strayError_failsStack : (refillOver.fresh.2.logCounted strayError).tiers = { retiredStacks := [1], refilling := some 1 } := by
  have counted : refillOver.fresh.2.logCounted strayError = (refillOver.fresh.2.logError strayError).countUe strayError := by
    unfold State.logCounted
    exact if_pos (show 0 < 1 by decide)
  obtain ⟨g, fails⟩ := countUe_failsStack (s := refillOver.fresh.2.logError strayError) strayError_counts (l := List.range 8) rfl (by simp)
  rw [counted, fails]
  exact failStack_refills (by decide) rfl rfl _

theorem refillOver_failsStack : (refillOver.readWord .hbm strayWord 0 true none).tiers.refilling = some 1 := by
  have words : refillOver.flipsOf 0 (strayWord / 8) = [0, 1] := rfl
  have handled : refillOver.uncorrectable .hbm strayWord 0 true = (refillOver.fresh.2.logCounted strayError).handleUe .hbm strayWord true 0 := rfl
  rw [State.readWord, lookWord_two 0 true none words, handled,
    handleUe_unowned (by decide) (by rw [strayError_failsStack]) (by rw [strayError_failsStack]), strayError_failsStack]

/-- Refutes O27: the end of a refill makes the reads that waited for it, and a UE that one of them meets can fail another stack (R380), whose
refill then runs.  The statement asks for no retired stack, so that other stack may be the first; the state is one that no run reaches. -/
theorem not_takeovers : ¬ Obligations.Takeovers := by
  unfold Obligations.Takeovers
  intro ⟨_, _, _, _, _, ends⟩
  obtain ⟨t, ht, none⟩ := ends refillWithStrayRead 0 rfl rfl
  rw [retirement_readsStray] at ht
  cases ht
  rw [refillOver_failsStack] at none
  cases none

end Sys2Proof.Machine
end

section
/-! PROOFS. The admission of an answer request that joins an open batch (R43, R53, R75): the batch's passes read the union of the members'
partitions, and the members' scan terms become those of the union. -/

namespace Sys2Proof.Machine

open Sys2Proof

section
variable {s : State} {sid : Nat} {u : Sub} {block buf q : Buf} {x : Index}

/-- A request that no status refuses and that keeps every deadline is admitted. -/
theorem answerBlockRead_admits (hu : s.sub? sid = some u) (hop : u.entry.opcode = 0x10) (hd : u.due = none) (hr : u.running = true)
    (hn : s.ans.reqs.any (fun r => r.sid == sid) = false) (hp : u.preset = []) (hb : u.readB (some block) = some buf)
    (he : s.answerErrs u (parseAnswer buf) q = []) (hx : s.reqIndex sid (parseAnswer buf).indexHandle = some x) :
    let v := (x.version? (s.reqVersion x sid (parseAnswer buf))).getD { number := 0 }
    let r := s.newReq u (parseAnswer buf) q x v
    s.feasible r u.takeoverPs = true → exec (.answerBlockRead sid (some block) (some q)) s = .next (s.admitReq r (holding (x.allRecs v))) := by
  intro v r hf
  refine congrArg Host.Outcome.next ?_
  have unset : firstStatus u.preset ≠ .badField := by rw [hp]; decide
  simp only [hu]
  rw [if_pos ⟨hop, hd, hr, hn⟩, State.withB, if_neg unset, hb]
  simp only [hp, he, hx, List.nil_append]
  exact if_pos hf

end

/-- An index of two records on channel 9, in partitions 7 and 8. -/
def sharedIndex : Index :=
  let r : Rec := { locator := 1, metaBytes := 0, vector := [1], partition := 7, channel := 9, sketch := 1 }
  { index := 0, gen := 1, params := { dim := 128, partitions := 1024 }, segCount := 1, current := 1
    segments := [{ handle := 0, number := some 0, recs := [r, { r with locator := 2, partition := 8 }], committed := true }]
    versions := [{ number := 1, segments := [0], pubSeq := 3 }] }

/-- An ANSWER of client 0 that has begun. -/
def asker (sid : Nat) : Sub :=
  { sid := sid, origin := .queue 3, conn := 0, client := 0, running := true
    entry := { opcode := 0x10, handleA := mkHandle 1 kindIndex 0, length := 128 } }

/-- A sled that serves the index and an embedder, on which two such requests wait for their blocks. -/
def bothAsk : State :=
  { boot := { ready := BitVec.allOnes 128 }
    sasel := { subs := [asker 6, asker 7] }
    idx := { list := [sharedIndex] }
    img := { images := [{ index := 3, gen := 1, header := { cls := clsEmbed } }], models := [{ index := 0, gen := 1, image := mkHandle 1 kindImage 3 }] } }

/-- The block of both: RETRIEVE, one partition probed, one passage, one byte of query, no deadline. -/
def askBlock : Buf :=
  leBytes 128 (2 ^ 752 + 2 ^ 720 + 2 ^ 672 + (mkHandle 1 kindModel 0).toNat * 2 ^ 512 + (mkHandle 1 kindIndex 0).toNat * 2 ^ 448 + 96 * 2 ^ 384)

/-- Its fields. -/
def askFields : AnswerBlock := parseAnswer (Buf.slice askBlock 0 128)

/-- The version that a submission's request reads. -/
def State.askVersion (s : State) (sid : Nat) : Version := (sharedIndex.version? (s.reqVersion sharedIndex sid askFields)).getD { number := 0 }

/-- The request that admission makes of it. -/
def State.askReq (s : State) (sid : Nat) : Req := s.newReq (asker sid) askFields [65] sharedIndex (s.askVersion sid)

/-- Its admission. -/
def State.admitAsk (s : State) (sid : Nat) : State := s.admitReq (s.askReq sid) (holding (sharedIndex.allRecs (s.askVersion sid)))

/-- The first request is admitted, and opens a batch; the second joins it. -/
def oneAdmitted : State := bothAsk.admitAsk 6
def bothAdmitted : State := oneAdmitted.admitAsk 7

theorem asker_readB (sid : Nat) (b : Buf) : (asker sid).readB (some b) = some (Buf.slice b 0 128) := rfl

theorem oneAdmitted_asks : oneAdmitted.sub? 7 = some (asker 7) := by decide +kernel

theorem oneAdmitted_index : oneAdmitted.reqIndex 7 askFields.indexHandle = some sharedIndex := by decide +kernel

theorem oneAdmitted_errs : oneAdmitted.answerErrs (asker 7) askFields [65] = [] := by decide +kernel

theorem oneAdmitted_feasible : oneAdmitted.feasible (oneAdmitted.askReq 7) (asker 7).takeoverPs = true := by decide +kernel

theorem oneAdmitted_others : ∀ r ∈ oneAdmitted.ans.reqs, r.sid ≠ 7 := by decide +kernel

theorem oneAdmitted_admits : exec (.answerBlockRead 7 (some askBlock) (some [65])) oneAdmitted = .next bothAdmitted :=
  answerBlockRead_admits (s := oneAdmitted) (u := asker 7) (buf := Buf.slice askBlock 0 128) (x := sharedIndex) oneAdmitted_asks rfl rfl rfl
    (by decide +kernel) rfl (asker_readB 7 askBlock) oneAdmitted_errs oneAdmitted_index oneAdmitted_feasible

/-- The pass of both reads two partitions where that of each reads one. -/
theorem bothAdmitted_scans : bothAdmitted.ans.reqs.map (·.terms.scans) = [[1400040000], [1400040000]]
    ∧ (oneAdmitted.ans.reqs ++ [oneAdmitted.askReq 7]).map (·.terms.scans) = [[1400020000], [1400020000]] := by
  decide +kernel

/-- Refutes O49: a request that joins an open batch changes the scan terms of the batch's members to those of the union (R53), so the list of
requests is not the old one with the new request at its end.  Two requests for one partition each, admitted one after the other. -/
theorem not_answerAdmission : ¬ Obligations.AnswerAdmission := by
  unfold Obligations.AnswerAdmission
  intro ⟨_, decides, _⟩
  obtain ⟨_, _, admits⟩ := decides oneAdmitted 7 (asker 7) askBlock [65] sharedIndex oneAdmitted_asks rfl rfl rfl rfl oneAdmitted_others rfl
    oneAdmitted_index
  obtain ⟨t, ht, reqs, _⟩ := admits oneAdmitted_errs oneAdmitted_feasible
  have both : t = bothAdmitted := Host.Outcome.next.inj (ht.symm.trans oneAdmitted_admits)
  obtain ⟨joined, alone⟩ := bothAdmitted_scans
  rw [← both, reqs] at joined
  exact absurd (joined.symm.trans alone) (by decide)

end Sys2Proof.Machine
end

section
/-! PROOFS. What the end of a peer's epoch, or of the sled's own, keeps (R338 to R340): the rules of a function that leaves the links to the other
members as they are and opens no flow. -/

namespace Sys2Proof.Machine

open Sys2Proof

/-- The peers, the receivers' flows, the count of DOWN peers, and what the sled is in its plot. -/
structure Links where
  peers : List Peer
  rx : List RxFlow
  downs : W64
  plot : Option PlotSettings
  epoch : Nat
  m3 : Buf

/-- The fabric's part of the links, with the rest given. -/
abbrev Fabric.links (f : Fabric) (m3 : Buf) : Links := ⟨f.peers, f.rx, f.downs, f.plot, f.epoch, m3⟩

/-- No flow as sender is open. -/
def AllShut (l : List TxFlow) : Prop := ∀ f ∈ l, f.opened = false

/-- The links are as before, and no flow has opened where none was open. -/
def Calm (s t : State) : Prop :=
  t.fabric.links t.boot.m3 = s.fabric.links s.boot.m3 ∧ (AllShut s.fabric.tx → AllShut t.fabric.tx)

/-- A flow is not open where none is. -/
theorem tx_shut {s : State} (h : AllShut s.fabric.tx) (b c : Nat) : (s.tx b c).opened = false := by
  unfold State.tx
  cases found : s.fabric.tx.find? fun f => f.rank == b && f.cls == c with
  | none => rfl
  | some f => exact h f (List.mem_of_find?_eq_some found)

theorem mem_upsert {α : Type} {p : α → Bool} {x y : α} {l : List α} (h : y ∈ upsert p x l) : y = x ∨ y ∈ l := by
  unfold upsert at h
  split at h
  · obtain ⟨z, hz, rfl⟩ := List.mem_map.1 h
    split
    · exact .inl rfl
    · exact .inr hz
  · exact (List.mem_append.1 h).symm.imp_left List.mem_singleton.1

namespace Calm

variable {s t : State}

theorem refl : Calm s s := ⟨rfl, id⟩

theorem trans {r : State} (h : Calm s t) (k : Calm t r) : Calm s r := ⟨k.1.trans h.1, fun shut => k.2 (h.2 shut)⟩

section

variable {power : Power} {boot : Boot} {hp : HostPort} {sasel : Sasel} {queues : List Queue} {work : Work} {idx : Indexes} {ans : Answers}
  {img : Images} {loom : Loom} {mems : Mems} {tiers : Tiers} {tables : Tables} {grafts : Grafts} {flash : Flash} {fabric : Fabric}
  {integ : Integrity} {fail : Failover} {out : List Out} {frames : List TxFrame} {txHeld : List Out} {pclk : W64} {free : Nat}
  {pending : List Instr}

/-- An update of other fields. -/
theorem set (h : Calm s t) (e : (fabric.links boot.m3, fabric.tx) = (t.fabric.links t.boot.m3, t.fabric.tx)) :
    Calm s (.mk power boot hp sasel queues work idx ans img loom mems tiers tables grafts flash fabric integ fail out frames txHeld pclk free
      pending) := by
  injection e with links tx
  exact h.trans ⟨links, fun shut => by show AllShut fabric.tx; rwa [tx]⟩

end

theorem ite {c : Prop} [Decidable c] {a b : State} (ha : Calm s a) (hb : Calm s b) : Calm s (if c then a else b) := by
  split
  · exact ha
  · exact hb

theorem foldl {α : Type} {f : State → α → State} {l : List α} (h : Calm s t) (hf : ∀ r x, Calm s r → Calm s (f r x)) :
    Calm s (l.foldl f t) := by
  induction l generalizing t with
  | nil => exact h
  | cons x l ih => exact ih (hf t x h)

theorem fst {α : Type} {a : α} (h : Calm s t) : Calm s (t, a).1 := h

theorem snd {α : Type} {a : α} (h : Calm s t) : Calm s (a, t).2 := h

theorem iteOf {σ : Type} (p : σ → State) {c : Prop} [Decidable c] {a b : σ} (ha : Calm s (p a)) (hb : Calm s (p b)) :
    Calm s (p (if c then a else b)) := by
  split
  · exact ha
  · exact hb

theorem foldlOf {α σ : Type} (p : σ → State) {f : σ → α → σ} {l : List α} {x : σ} (h : Calm s (p x))
    (hf : ∀ y a, Calm s (p y) → Calm s (p (f y a))) : Calm s (p (l.foldl f x)) := by
  induction l generalizing x with
  | nil => exact h
  | cons a l ih => exact ih (hf x a h)

end Calm

end Sys2Proof.Machine
end

section
/-! PROOFS. What the end of an epoch runs keeps the links, function by function in the order of the model. -/

namespace Sys2Proof.Machine

open Sys2Proof

variable {s t : State}

/-! ### Ops -/

theorem Calm.event (h : Calm s t) : Calm s (t.event.2) := by
  unfold State.event
  exact .snd (.set h rfl)

theorem Calm.fresh (h : Calm s t) : Calm s (t.fresh.2) := by
  unfold State.fresh
  exact .snd (.set h rfl)

theorem Calm.finish {sid : Nat} {r : Result} (h : Calm s t) : Calm s (t.finish sid r) :=
  .set h rfl

theorem Calm.modConn {hm : W32} {f : Conn → Conn} (h : Calm s t) : Calm s (t.modConn hm f) := by
  unfold State.modConn
  dsimp only
  exact .set h rfl

theorem Calm.putFrame {o : Out} (h : Calm s t) : Calm s (t.putFrame o) := by
  unfold State.putFrame
  split
  · exact .set h rfl
  · exact h

theorem Calm.toPort {o : Out} (h : Calm s t) : Calm s (t.toPort o) :=
  .ite (.set h rfl) (.putFrame h)

theorem Calm.emit {o : Out} (h : Calm s t) : Calm s (t.emit o) := by
  unfold State.emit
  dsimp only
  split
  · exact .modConn (.toPort (.set h rfl))
  · exact .toPort (.set h rfl)

/-! ### Flags -/

theorem Calm.logError {e : ErrEvent} (h : Calm s t) : Calm s (t.logError e) := by
  unfold State.logError
  dsimp only
  exact .ite (.set (.event h) rfl) (.ite (.set (.event h) rfl) (.set (.event h) rfl))

/-! ### Place -/

theorem Calm.writeSystem {a : Nat} {b : Buf} (h : Calm s t) : Calm s (t.writeSystem a b) :=
  .foldl h (fun _ _ h' => .set h' rfl)

theorem Calm.modFlash {f : Flash → Flash} (h : Calm s t) : Calm s (t.modFlash f) :=
  .set h rfl

theorem Calm.modChannel {c : Nat} {f : Channel → Channel} (h : Calm s t) : Calm s (t.modChannel c f) :=
  .set h rfl

theorem Calm.putEntry {a : Nat} {b : Buf} (h : Calm s t) : Calm s (t.putEntry a b) :=
  .writeSystem (.set h rfl)

theorem Calm.writeEntry {o : FlashObj} {e : Nat} (h : Calm s t) : Calm s (t.writeEntry o e) := by
  unfold State.writeEntry
  split
  · exact h
  · exact .putEntry h

theorem Calm.growArray {o : FlashObj} {e : Nat} (h : Calm s t) : Calm s (t.growArray o e) := by
  unfold State.growArray
  dsimp only
  refine .ite h (.foldl (.modFlash (.foldl h (fun _ _ h' => ?_))) (fun _ _ h' => .writeEntry h'))
  split
  · exact .putEntry h'
  · exact h'

theorem Calm.syncEntry {obj : W64} {e : Nat} (h : Calm s t) : Calm s (t.syncEntry obj e) := by
  unfold State.syncEntry
  dsimp only
  split
  · exact h
  · split
    · exact .writeEntry (.growArray h)
    · exact .growArray h

theorem Calm.mapPut {m : MapEntry} (h : Calm s t) : Calm s (t.mapPut m) :=
  .syncEntry (.set h rfl)

theorem Calm.mapDrop {obj : W64} {e : Nat} (h : Calm s t) : Calm s (t.mapDrop obj e) :=
  .ite h (.syncEntry (.set h rfl))

/-! ### Submit -/

theorem Calm.modGraft {i : Nat} {f : Graft → Graft} (h : Calm s t) : Calm s (t.modGraft i f) := by
  unfold State.modGraft
  dsimp only
  exact .set h rfl

theorem Calm.endGraft {i : Nat} {c : StopCause} (h : Calm s t) : Calm s (t.endGraft i c) := by
  unfold State.endGraft
  dsimp only
  split
  · exact h
  · refine .ite h (.modGraft (.foldl ?_ (fun _ _ h' => .set h' rfl)))
    split
    · exact .finish (.ite (.fresh h) h)
    · exact .ite (.fresh h) h

/-! ### ConfigFlash -/

theorem Calm.cfgProgram {a : Nat} {v : W32} (h : Calm s t) : Calm s (t.cfgProgram a v) := by
  unfold State.cfgProgram
  dsimp only
  exact .ite h (.set h rfl)

theorem Calm.cfgErase {sector : Nat} (h : Calm s t) : Calm s (t.cfgErase sector) := by
  unfold State.cfgErase
  dsimp only
  exact .set h rfl

theorem Calm.cfgEraseAll {sectors : List Nat} (h : Calm s t) : Calm s (t.cfgEraseAll sectors) :=
  .foldl h (fun _ _ h' => .set h' rfl)

theorem Calm.ctrIncrement {c : Nat} (h : Calm s t) : Calm s (t.ctrIncrement c) := by
  unfold State.ctrIncrement
  dsimp only
  refine .ite h ?_
  split
  · exact h
  · exact .ite (.cfgProgram h) (.cfgErase (.cfgProgram (.cfgProgram (.cfgErase (.cfgProgram h)))))

theorem Calm.cfgProgramList {ws : List (Nat × W32)} {bad : Option (Nat × W32)} (h : Calm s t) : Calm s (t.cfgProgramList ws bad) := by
  unfold State.cfgProgramList
  split
  · exact .foldl h (fun _ _ h' => .cfgProgram h')
  · exact .foldl (.foldl h (fun _ _ h' => .cfgProgram h')) (fun _ _ h' => .cfgProgram h')

theorem Calm.itemWriteBad {item : Nat} {payload : Buf} {bad : Option (Nat × W32)} (h : Calm s t) : Calm s (t.itemWriteBad item payload bad) := by
  unfold State.itemWriteBad
  dsimp only
  exact .cfgProgramList (.cfgEraseAll h)

/-! ### Boot -/

theorem Calm.dropBits (h : Calm s t) : Calm s t.dropBits := by
  unfold State.dropBits
  dsimp only
  exact .foldl (.foldl h (fun _ _ h' => .ite (.set h' rfl) h')) (fun _ _ h' => .ite (.set h' rfl) h')

theorem Calm.count {c : Nat} (h : Calm s t) : Calm s (t.count c) := by
  unfold State.count
  dsimp only
  exact .ite (.set h rfl) (.ctrIncrement h)

/-! ### Flash -/

theorem Calm.takeWseq {c : Nat} (h : Calm s t) : Calm s ((t.takeWseq c).2) := by
  unfold State.takeWseq
  exact .snd (.set h rfl)

theorem Calm.program {p : Programming} (h : Calm s t) : Calm s (t.program p) := by
  unfold State.program
  dsimp only
  exact .modFlash (.takeWseq h)

theorem Calm.newGroup (h : Calm s t) : Calm s (t.newGroup.2) := by
  unfold State.newGroup
  exact .snd (.set h rfl)

theorem Calm.relocateWith {m : MapEntry} {stored : Buf} (h : Calm s t) : Calm s (t.relocateWith m stored) := by
  unfold State.relocateWith
  dsimp only
  exact .ite h (.program (.newGroup h))

theorem Calm.setBlock {b : BlockSet} (h : Calm s t) : Calm s (t.setBlock b) :=
  .set h rfl

theorem Calm.countStep {c step : Nat} (h : Calm s t) : Calm s (t.countStep c step) :=
  .set h rfl

theorem Calm.climb {m : MapEntry} {step : Nat} (h : Calm s t) : Calm s (t.climb m step) := by
  unfold State.climb
  dsimp only
  exact .ite (.setBlock (.foldl h (fun _ _ h' => .set h' rfl))) (.foldl h (fun _ _ h' => .set h' rfl))

theorem Calm.damageExtent {obj : W64} {e : Nat} (h : Calm s t) : Calm s (t.damageExtent obj e) := by
  unfold State.damageExtent
  dsimp only
  split
  · exact h
  · exact .logError (.modFlash (.mapPut h))

theorem Calm.rebuildExtent {media : Media} {m : MapEntry} (h : Calm s t) : Calm s ((t.rebuildExtent media m).2) := by
  unfold State.rebuildExtent
  dsimp only
  split
  · exact .snd (.damageExtent h)
  · exact .iteOf Prod.snd (.snd (.ite (.relocateWith (.foldl h (fun _ _ h' => .climb h'))) (.foldl h (fun _ _ h' => .climb h')))) (.snd
      (.damageExtent (.foldl h (fun _ _ h' => .climb h'))))

theorem Calm.readExtent {media : Media} {obj : W64} {e : Nat} (h : Calm s t) : Calm s ((t.readExtent media obj e).2) := by
  unfold State.readExtent
  split
  · exact h
  · exact .iteOf Prod.snd h (.iteOf Prod.snd (.ite (.countStep h) (.climb h)) (.rebuildExtent (.ite (.countStep h) (.climb h))))

theorem Calm.readExtents {media : Media} {l : List (W64 × Nat)} (h : Calm s t) : Calm s ((t.readExtents media l).2) := by
  unfold State.readExtents
  exact .foldlOf Prod.snd h (fun _ _ h' => .snd (.readExtent h'))

theorem Calm.putPage {l : FlashLoc} {p : PageRec} (h : Calm s t) : Calm s (t.putPage l p) := by
  unfold State.putPage
  dsimp only
  exact .modChannel (.modFlash (.takeWseq (.set h rfl)))

theorem Calm.putExtent {o : FlashObj} {e : Nat} {stored : Buf} (h : Calm s t) : Calm s (t.putExtent o e stored) := by
  unfold State.putExtent
  dsimp only
  exact .mapPut (.putPage h)

theorem Calm.storeExtents {id : W64} {persistent : Bool} {l : List (Nat × Buf)} (h : Calm s t) : Calm s (t.storeExtents id persistent l) := by
  unfold State.storeExtents
  dsimp only
  exact .ite (.foldl (.foldl (.ite h (.set h rfl)) (fun _ _ h' => .putExtent h')) (fun _ _ h' => .putExtent h')) (.foldl (.ite h (.set h rfl))
      (fun _ _ h' => .putExtent h'))

theorem Calm.storeObj {id : W64} {persistent : Bool} {n : Nat} {data : Buf} (h : Calm s t) : Calm s (t.storeObj id persistent n data) :=
  .storeExtents h

theorem Calm.eraseExtents {id : W64} {extents : List Nat} (h : Calm s t) : Calm s (t.eraseExtents id extents) := by
  unfold State.eraseExtents
  dsimp only
  exact .foldl (.foldl h (fun _ _ h' => .putPage h')) (fun _ _ h' => .mapDrop h')

theorem Calm.eraseObj {id : W64} (h : Calm s t) : Calm s (t.eraseObj id) :=
  .modFlash (.eraseExtents h)

/-! ### Send -/

theorem Calm.sendPacket {b kind cls : Nat} {psn : W32} {first last : Bool} {payload : Buf} (h : Calm s t) :
    Calm s (t.sendPacket b kind cls psn first last payload) := by
  unfold State.sendPacket
  dsimp only
  split
  · exact h
  · exact .emit (.set h rfl)

theorem Calm.setTx {f : TxFlow} (h : Calm s t) (hf : AllShut t.fabric.tx → f.opened = false) : Calm s (t.setTx f) :=
  h.trans ⟨rfl, fun shut g hg => (mem_upsert hg).elim (fun e => e ▸ hf shut) (shut g)⟩

/-- A flow that is not open sends nothing; one that is open stays so. -/
theorem Calm.pumpN {n b c : Nat} (h : Calm s t) : Calm s (State.pumpN n t b c) := by
  induction n generalizing t with
  | zero => exact h
  | succ n ih =>
    unfold State.pumpN
    dsimp only
    split
    · exact h
    · exact .ite (ih (.sendPacket (.setTx h fun shut => tx_shut shut _ _))) h

theorem Calm.pump {b c : Nat} (h : Calm s t) : Calm s (t.pump b c) :=
  .pumpN h

theorem Calm.sendMsg {b : Nat} {kind : Msg} {values : List Nat} (h : Calm s t) : Calm s (t.sendMsg b kind values) :=
  .pump (.setTx (.emit h) fun shut => tx_shut (s := t) (by rwa [emit_frame] at shut) _ _)

theorem Calm.sendAll {kind : Msg} {values : List Nat} (h : Calm s t) : Calm s (t.sendAll kind values) :=
  .foldl h (fun _ _ h' => .sendMsg h')

/-! ### Tiers -/

theorem Calm.modTiers {f : Tiers → Tiers} (h : Calm s t) : Calm s (t.modTiers f) :=
  .set h rfl

theorem Calm.placeHbm {len : Nat} {obj : W64} {x : Nat × State} (h : Calm s t) (e : t.placeHbm len obj = some x) : Calm s x.2 := by
  obtain ⟨a, -, rfl⟩ := Option.map_eq_some_iff.1 e
  exact .set h rfl

theorem Calm.allocHbm {pool len : Nat} {obj : W64} {x : Nat × State} (h : Calm s t) (e : t.allocHbm pool len obj = some x) : Calm s x.2 := by
  unfold State.allocHbm at e
  split at e
  · obtain ⟨y, ey, rfl⟩ := Option.map_eq_some_iff.1 e
    exact .set (.placeHbm h ey) rfl
  · cases e

theorem Calm.freeHbm {pool base : Nat} {obj : W64} (h : Calm s t) : Calm s (t.freeHbm pool base obj) := by
  unfold State.freeHbm
  split
  · exact h
  · exact .set h rfl

theorem Calm.modHome {id : W64} {f : Home → Home} (h : Calm s t) : Calm s (t.modHome id f) :=
  .set h rfl

theorem Calm.finishAll {sids : List (Option Nat)} {st : Status} (h : Calm s t) : Calm s (t.finishAll sids st) := by
  unfold State.finishAll
  dsimp only
  refine .foldl h (fun _ _ h' => ?_)
  split
  · exact .set h' rfl
  · exact h'

theorem Calm.freeHome {hm : Home} (h : Calm s t) : Calm s (t.freeHome hm) := by
  unfold State.freeHome
  dsimp only
  exact .ite (.ite (.set h rfl) h) (.ite (.eraseObj (.ite (.freeHbm (.ite (.freeHbm h) h)) (.ite (.freeHbm h) h))) (.ite (.freeHbm (.ite
      (.freeHbm h) h)) (.ite (.freeHbm h) h)))

theorem Calm.sweepHome {hm : Home} (h : Calm s t) : Calm s (t.sweepHome hm) :=
  .ite (.modTiers (.freeHome h)) h

theorem Calm.dropHome {id : W64} (h : Calm s t) : Calm s (t.dropHome id) := by
  unfold State.dropHome
  dsimp only
  split
  · exact h
  · exact .finishAll (.modTiers (.sweepHome (.modHome (.ite (.eraseObj h) h))))

theorem Calm.closeUpdates {sid : Nat} (h : Calm s t) : Calm s (t.closeUpdates sid) := by
  unfold State.closeUpdates
  dsimp only
  split
  · exact .ite (.set h rfl) h
  · exact h

theorem Calm.noteUpdate {sid : Nat} {ok : Bool} (h : Calm s t) : Calm s (t.noteUpdate sid ok) := by
  unfold State.noteUpdate
  dsimp only
  exact .closeUpdates (.set h rfl)

theorem Calm.noteAnswer {sid row : Nat} {st : Status} (h : Calm s t) : Calm s (t.noteAnswer sid row st) := by
  unfold State.noteAnswer
  dsimp only
  exact .closeUpdates (.set h rfl)

theorem Calm.loseUpdates {rank : Nat} (h : Calm s t) : Calm s (t.loseUpdates rank) := by
  unfold State.loseUpdates
  dsimp only
  exact .foldl (.set h rfl) (fun _ _ h' => .closeUpdates h')

theorem Calm.answerUpdate {own rank : Nat} {sid table row : Nat} {st : Status} (h : Calm s t) : Calm s (t.answerUpdate own rank sid table row st) :=
  .ite (.noteAnswer h) (.sendMsg h)

theorem Calm.noteWrite {w : WaitingWrite} {own : Nat} {ok : Bool} (h : Calm s t) : Calm s (t.noteWrite w own ok) := by
  unfold State.noteWrite
  dsimp only
  split
  · exact .ite (.noteUpdate h) (.answerUpdate h)
  · exact h

theorem Calm.syncFlash {id : W64} {off len : Nat} (h : Calm s t) : Calm s (t.syncFlash id off len) := by
  unfold State.syncFlash
  dsimp only
  exact .storeExtents h

theorem Calm.applyWrite {w : WaitingWrite} {own : Nat} (h : Calm s t) : Calm s (t.applyWrite w own) := by
  unfold State.applyWrite
  dsimp only
  split
  · exact .ite (.noteWrite h) (.noteWrite (.ite (.syncFlash (.set h rfl)) (.set h rfl)))
  · exact .noteWrite h

theorem Calm.writeHome {w : WaitingWrite} {own : Nat} (h : Calm s t) : Calm s (t.writeHome w own) := by
  unfold State.writeHome
  split
  · exact .ite (.set h rfl) (.applyWrite h)
  · exact .applyWrite h

theorem Calm.applyWaitingWrites {id : W64} (h : Calm s t) : Calm s (t.applyWaitingWrites id) := by
  unfold State.applyWaitingWrites
  dsimp only
  exact .foldl (.set h rfl) (fun _ _ h' => .applyWrite h')

theorem Calm.pin {id : W64} (h : Calm s t) : Calm s (t.pin id) :=
  .ite (.set h rfl) h

theorem Calm.endMove {id : W64} {st : Status} (h : Calm s t) : Calm s (t.endMove id st) :=
  .modTiers (.finishAll h)

theorem Calm.refuseMove {id : W64} {st : Status} (h : Calm s t) : Calm s (t.refuseMove id st) :=
  .endMove (.modHome h)

theorem Calm.startCopy {hm : Home} {tier : Tier} (h : Calm s t) : Calm s (t.startCopy hm tier) := by
  cases tier with
  | hbm =>
    rw [State.startCopy]
    split
    · exact .refuseMove h
    · next e => exact .modHome (.ite (.sendMsg (.allocHbm h e)) (.allocHbm h e))
  | peer => exact .modHome (.sendMsg h)
  | flash => exact .ite (.refuseMove h) (.ite (.refuseMove h) (.ite (.refuseMove h) (.modHome (.storeObj h))))

theorem Calm.startMove {id : W64} {tier : Tier} {peer : Nat} {explicit : Bool} (h : Calm s t) : Calm s (t.startMove id tier peer explicit) := by
  unfold State.startMove
  split
  · exact .endMove h
  · exact .ite (.endMove h) (.ite (.endMove h) (.ite (.set h rfl) (.startCopy h)))

theorem Calm.nextMoveN {n : Nat} {id : W64} (h : Calm s t) : Calm s (State.nextMoveN n t id) := by
  induction n generalizing t with
  | zero => exact h
  | succ n ih =>
    unfold State.nextMoveN
    split
    · exact .ite h (ih (.startMove (.set h rfl)))
    · exact h

theorem Calm.nextMove {id : W64} (h : Calm s t) : Calm s (t.nextMove id) :=
  .nextMoveN h

theorem Calm.requestMove {id : W64} {tier : Tier} {peer : Nat} {sid : Option Nat} (h : Calm s t) : Calm s (t.requestMove id tier peer sid) := by
  unfold State.requestMove
  dsimp only
  split
  · exact h
  · refine .ite (.ite (.set h rfl) ?_) (.nextMove (.startMove (.set h rfl)))
    split
    · exact .set h rfl
    · exact h

theorem Calm.freeDest {hm : Home} (h : Calm s t) : Calm s (t.freeDest hm) := by
  unfold State.freeDest
  dsimp only
  exact .ite h (.ite (.freeHbm (.ite (.sendMsg h) (.ite (.sendMsg h) h))) (.ite (.eraseObj (.ite (.sendMsg h) (.ite (.sendMsg h) h))) (.ite
      (.sendMsg h) (.ite (.sendMsg h) h))))

theorem Calm.abandonMove {id : W64} {cause : Status} (h : Calm s t) : Calm s (t.abandonMove id cause) := by
  unfold State.abandonMove
  dsimp only
  split
  · exact .ite (.nextMove (.endMove (.applyWaitingWrites (.modHome (.freeDest h))))) h
  · exact h

theorem Calm.promote {id : W64} (h : Calm s t) : Calm s (t.promote id) := by
  unfold State.promote
  split
  · exact .ite (.requestMove h) h
  · exact h

theorem Calm.ownerDamaged {id : W64} (h : Calm s t) : Calm s (t.ownerDamaged id) := by
  unfold State.ownerDamaged
  dsimp only
  refine .ite ?_ (.ite (.set h rfl) h)
  split
  · exact .set h rfl
  · exact h

theorem Calm.mutableLost {id : W64} (h : Calm s t) : Calm s (t.mutableLost id) := by
  unfold State.mutableLost
  dsimp only
  split
  · exact .ownerDamaged h
  · exact .nextMove (.endMove (.applyWaitingWrites (.modHome (.freeDest (.ownerDamaged h)))))

/-! ### Tables -/

theorem Calm.modTables {f : Tables → Tables} (h : Calm s t) : Calm s (t.modTables f) :=
  .set h rfl

theorem Calm.modTable {i : Nat} {f : Table → Table} (h : Calm s t) : Calm s (t.modTable i f) :=
  .set h rfl

theorem Calm.readBlocks {media : Media} {ids : List W64} (h : Calm s t) : Calm s (t.readBlocks media ids) := by
  unfold State.readBlocks
  dsimp only
  exact .foldl (.readExtents h) (fun _ _ h' => .mutableLost h')

theorem Calm.startMigration {tb : Table} {block dest : Nat} {sid : Option Nat} (h : Calm s t) : Calm s (t.startMigration tb block dest sid) := by
  unfold State.startMigration
  dsimp only
  exact .ite (.requestMove h) (.ite (.requestMove (.requestMove h)) (.requestMove h))

theorem Calm.countHot {i rank : Nat} {e : LookupEntry} (h : Calm s t) : Calm s (t.countHot i rank e) := by
  unfold State.countHot
  dsimp only
  split
  · exact h
  · refine .ite h (.ite (.set h rfl) ?_)
    split
    · exact .set h rfl
    · exact .ite (.set h rfl) (.startMigration (.set h rfl))

theorem Calm.countRows {tb : Table} {version rank : Nat} {es : List LookupEntry} (h : Calm s t) : Calm s (t.countRows tb version rank es) :=
  .ite (.foldl h (fun _ _ h' => .countHot h')) h

theorem Calm.acknowledge {i rank v : Nat} (h : Calm s t) : Calm s (t.acknowledge i rank v) := by
  unfold State.acknowledge
  dsimp only
  exact .set h rfl

theorem Calm.settleAcks {i : Nat} (h : Calm s t) : Calm s (t.settleAcks i) := by
  unfold State.settleAcks
  dsimp only
  split
  · exact h
  · exact .foldl (.set h rfl) (fun _ _ h' => .acknowledge (.sendAll h'))

theorem Calm.sendUpdate {dest rank : Nat} {sid table : Nat} {version row : Nat} {replace : Bool} {payload : Buf} (h : Calm s t) :
    Calm s (t.sendUpdate dest rank sid table version row replace payload) :=
  .sendMsg h

theorem Calm.takePartials {sid : Nat} {p : Partials} (h : Calm s t) : Calm s (t.takePartials sid p) := by
  unfold State.takePartials
  split
  · exact .set h rfl
  · exact .set h rfl

theorem Calm.sendPartials {rank sid : Nat} {p : Partials} (h : Calm s t) : Calm s (t.sendPartials rank sid p) :=
  .sendMsg h

theorem Calm.serveSub {tb : Table} {q : SubLookup} {far : List (Nat × Option Buf)} {media : Media} (h : Calm s t) :
    Calm s (t.serveSub tb q far media) := by
  unfold State.serveSub
  dsimp only
  exact .ite (.takePartials (.foldl (.countRows (.readBlocks (.foldl h (fun _ _ h' => .pin h')))) (fun _ _ h' => .promote h'))) (.sendPartials
      (.foldl (.countRows (.readBlocks (.foldl h (fun _ _ h' => .pin h')))) (fun _ _ h' => .promote h')))

theorem Calm.serveHeld {tb : Table} {q : SubLookup} {rows : List (Nat × Option Buf)} {media : Media} (h : Calm s t) :
    Calm s (t.serveHeld tb q rows media) :=
  .ite (.serveSub (.set h rfl)) h

theorem Calm.settleHeld {i : Nat} (h : Calm s t) : Calm s (t.settleHeld i) := by
  unfold State.settleHeld
  split
  · exact h
  · exact .foldl h (fun _ _ h' => .serveHeld h')

theorem Calm.leaveBlock {id : W64} (h : Calm s t) : Calm s (t.leaveBlock id) := by
  unfold State.leaveBlock
  dsimp only
  split
  · exact h
  · split
    · exact .ite (.applyWaitingWrites (.modHome (.modTable (.foldl h (fun _ _ h' => .freeHbm h'))))) (.modTable (.foldl h
        (fun _ _ h' => .freeHbm h')))
    · exact .modTable (.foldl h (fun _ _ h' => .freeHbm h'))

theorem Calm.loseServer {sid rank : Nat} (h : Calm s t) : Calm s (t.loseServer sid rank) := by
  unfold State.loseServer
  split
  · exact h
  · exact .set h rfl

theorem Calm.endMigrations {tb : Table} {p : Home → Bool} {st : Status} (h : Calm s t) : Calm s (t.endMigrations tb p st) :=
  .foldl h (fun _ _ h' => .abandonMove h')

theorem Calm.restoreBlock {i n block : Nat} (h : Calm s t) : Calm s (t.restoreBlock i n block) := by
  unfold State.restoreBlock
  dsimp only
  split
  · exact h
  · split
    · exact h
    · exact .modTiers (.storeObj (.set h rfl))

theorem Calm.clearExceptions {i : Nat} {away : Nat → Bool} {counted : Bool} (h : Calm s t) : Calm s (t.clearExceptions i away counted) := by
  unfold State.clearExceptions
  dsimp only
  split
  · exact h
  · refine .foldl h (fun _ _ h' => ?_)
    split
    · exact .sendAll (.modTables (.restoreBlock (.set h' rfl)))
    · exact .modTables (.restoreBlock (.set h' rfl))

theorem Calm.restoreOld {tb : Table} {away : Nat → Bool} (h : Calm s t) : Calm s (t.restoreOld tb away) :=
  .foldl h (fun _ _ h' => .foldl h' (fun _ _ h'' => .restoreBlock h''))

theorem Calm.leaveKeeper {tb : Table} {rank : Nat} (h : Calm s t) : Calm s (t.leaveKeeper tb rank) := by
  unfold State.leaveKeeper
  dsimp only
  exact .foldl h (fun _ _ h' => .leaveBlock h')

theorem Calm.peerTables {rank : Nat} (h : Calm s t) : Calm s (t.peerTables rank) := by
  unfold State.peerTables
  dsimp only
  refine .foldl (.loseUpdates h) (fun _ _ h' => ?_)
  split
  · exact h'
  · exact .settleAcks (.settleHeld (.acknowledge (.foldl (.clearExceptions (.restoreOld (.leaveKeeper (.endMigrations h'))))
      (fun _ _ h'' => .sendMsg h''))))

theorem Calm.ownTables (h : Calm s t) : Calm s t.ownTables := by
  unfold State.ownTables
  dsimp only
  refine .foldl (.foldl h (fun _ _ h' => .dropHome h')) (fun _ _ h' => ?_)
  split
  · exact h'
  · exact .modTable (.foldl (.endMigrations h') (fun _ _ h'' => .freeHbm h''))

/-! ### Graft -/

theorem Calm.sendRow {tb : Table} {row : Nat} {replace : Bool} {payload : Buf} (h : Calm s t) : Calm s (t.sendRow tb row replace payload) := by
  unfold State.sendRow
  dsimp only
  exact .ite (.writeHome h) (.sendUpdate h)

theorem Calm.applyBucket {g : Graft} {tb : Table} {b : List Nat × Nat} (h : Calm s t) : Calm s (t.applyBucket g tb b) := by
  unfold State.applyBucket
  dsimp only
  exact .foldl h (fun _ _ h' => .sendRow h')

theorem Calm.commitStep {i : Nat} (h : Calm s t) : Calm s (t.commitStep i) := by
  unfold State.commitStep
  dsimp only
  split
  · exact h
  · split
    · refine .modGraft ?_
      split
      · exact .foldl h (fun _ _ h' => .applyBucket h')
      · exact h
    · refine .endGraft (.ite (.sendAll (.modGraft ?_)) (.ite (.sendMsg (.modGraft ?_)) (.modGraft ?_)))
      · split
        · exact .foldl h (fun _ _ h' => .applyBucket h')
        · exact h
      · split
        · exact .foldl h (fun _ _ h' => .applyBucket h')
        · exact h
      · split
        · exact .foldl h (fun _ _ h' => .applyBucket h')
        · exact h

theorem Calm.abortStep {i : Nat} {c : StopCause} (h : Calm s t) : Calm s ((t.abortStep i c).1) := by
  unfold State.abortStep
  dsimp only
  split
  · exact h
  · exact .iteOf Prod.fst (.fst (.set h rfl)) (.fst (.endGraft (.set h rfl)))

theorem Calm.decideStep {i : Nat} {commit : Bool} {c : StopCause} (h : Calm s t) : Calm s ((t.decideStep i commit c).1) := by
  unfold State.decideStep
  dsimp only
  split
  · exact h
  · exact .iteOf Prod.fst (.fst (.commitStep (.sendAll (.set h rfl)))) (.abortStep (.sendAll (.set h rfl)))

theorem Calm.graftEpoch (h : Calm s t) : Calm s t.graftEpoch := by
  unfold State.graftEpoch
  dsimp only
  exact .foldl h (fun _ _ h' => .ite (.decideStep (.set h' rfl)) (.ite (.set h' rfl) (.abortStep (.set h' rfl))))

end Sys2Proof.Machine
end

section
/-! PROOFS. Woane (R339 to R352, R356, R358): what a received packet passes, a peer that is DOWN, exchanges, and the two ends of a flow. -/

namespace Sys2Proof.Machine

open Sys2Proof

/-! ### What a packet passes (R339) -/

section

variable {s : State} {rank e : Nat} {tagOk : Bool} {dst : Option Nat}

theorem woaneCheck_foreign (h : tagOk = false ∨ s.others.contains rank = false ∨ (s.peer rank).foreign = true) :
    s.woaneCheck rank e tagOk dst = (false, s.woaneStale) := by
  unfold State.woaneCheck
  refine if_pos ?_
  obtain h | h | h := h
  · simp [h]
  · rw [h]; simp
  · simp [h]

variable (ht : tagOk = true) (hm : s.others.contains rank = true) (hf : (s.peer rank).foreign = false)
include ht hm hf

theorem woaneCheck_dead (he : e ≤ (s.peer rank).deadEpoch) :
    s.woaneCheck rank e tagOk dst = (false, s.woaneStale.sendHello rank true e) := by
  unfold State.woaneCheck
  dsimp only
  rw [if_neg (by rw [ht, hm, hf]; decide), if_pos he]

theorem woaneCheck_unknown {d : Nat} (he : (s.peer rank).deadEpoch < e) (hd : e < (s.peer rank).knownEpoch ∨ d ≠ s.fabric.epoch) :
    s.woaneCheck rank e tagOk (some d) = (false, s.woaneStale) := by
  unfold State.woaneCheck
  dsimp only
  rw [if_neg (by rw [ht, hm, hf]; decide), if_neg (Nat.not_le.2 he), if_pos (by simpa using hd)]

theorem woaneCheck_passes (he : (s.peer rank).deadEpoch < e) (hd : ∀ d ∈ dst, (s.peer rank).knownEpoch ≤ e ∧ d = s.fabric.epoch) :
    s.woaneCheck rank e tagOk dst = (true, if (s.peer rank).knownEpoch < e then s.peerEpoch rank e else s) := by
  have member : ¬ (!tagOk || !s.others.contains rank || (s.peer rank).foreign) = true := by rw [ht, hm, hf]; decide
  unfold State.woaneCheck
  dsimp only
  rw [if_neg member, if_neg (Nat.not_le.2 he)]
  cases dst with
  | none => exact (if_neg Bool.false_ne_true).trans (apply_ite (Prod.mk true) ..).symm
  | some d =>
    obtain ⟨known, own⟩ := hd d rfl
    exact (if_neg (by simp [known, own])).trans (apply_ite (Prod.mk true) ..).symm

end

/-! ### WOANE_PACKET_RECEIVE and HELLO -/

/-- The state in which a packet is checked: it has been counted on its port. -/
def State.arrived (s : State) (p : WPacket) : State :=
  if p.kind = pktData ∧ p.ce = true then (s.bumpPort p.port 0).bumpPort p.port 5 else s.bumpPort p.port 0

/-- The packet names the plot of the sled. -/
def State.tagged (s : State) (p : WPacket) : Bool := s.fabric.plot.isSome && p.plotTag == s.plotId.truncate 32

section

variable {s : State} {p : WPacket}

theorem packetReceive_malformed (h : p.ver ≠ 1 ∨ p.kind < pktData ∨ pktAuditReply < p.kind) :
    exec (.woanePacketReceive p) s = .next (s.arrived p).woaneStale :=
  congrArg Host.Outcome.next (if_pos h)

section

variable (hv : p.ver = 1) (hl : pktData ≤ p.kind) (hu : p.kind ≤ pktAuditReply) (hk : p.kind ≠ pktHello) {t : State}
include hv hl hu hk

theorem packetReceive_checks : exec (.woanePacketReceive p) s = .next
    (let r := (s.arrived p).woaneCheck p.srcRank p.srcEpoch ((s.arrived p).tagged p) (if p.kind = pktOpen then none else some p.dstEpoch)
    if r.1 then r.2.takePacket p else r.2) := by
  have wellFormed : ¬ (p.ver ≠ 1 ∨ p.kind < pktData ∨ pktAuditReply < p.kind) := by omega
  exact congrArg Host.Outcome.next ((if_neg wellFormed).trans (if_neg hk))

theorem packetReceive_stops
    (h : (s.arrived p).woaneCheck p.srcRank p.srcEpoch ((s.arrived p).tagged p) (if p.kind = pktOpen then none else some p.dstEpoch) = (false, t)) :
    exec (.woanePacketReceive p) s = .next t := by
  rw [packetReceive_checks hv hl hu hk, h]
  rfl

theorem packetReceive_passes
    (h : (s.arrived p).woaneCheck p.srcRank p.srcEpoch ((s.arrived p).tagged p) (if p.kind = pktOpen then none else some p.dstEpoch) = (true, t)) :
    exec (.woanePacketReceive p) s = .next (t.takePacket p) := by
  rw [packetReceive_checks hv hl hu hk, h]
  rfl

end

theorem packetReceive_hello (hv : p.ver = 1) (hk : p.kind = pktHello) : exec (.woanePacketReceive p) s = .next
    (if (s.arrived p).tagged p then (s.arrived p).receiveHello p.srcRank p.srcEpoch true (parseHello p.payload) else (s.arrived p).woaneStale) := by
  have wellFormed : ¬ (p.ver ≠ 1 ∨ p.kind < pktData ∨ pktAuditReply < p.kind) := by rw [hk, hv]; decide
  exact congrArg Host.Outcome.next ((if_neg wellFormed).trans (if_pos hk))

variable {rank e : Nat} {b : HelloBody}

theorem hello_stranger (h : s.others.contains rank = false) : exec (.hello rank e b) s = .next s.woaneStale :=
  congrArg Host.Outcome.next (if_pos (by rw [h]; rfl))

theorem hello_foreign (hm : s.others.contains rank = true) (hb : b.plotId ≠ s.plotId ∨ b.listDigest ≠ s.listDigest) :
    exec (.hello rank e b) s = .next (s.modPeer rank fun p => { p with foreign := true }).woaneStale :=
  congrArg Host.Outcome.next ((if_neg (by rw [hm]; decide)).trans (if_pos hb))

section

variable (hm : s.others.contains rank = true) (hp : b.plotId = s.plotId) (hl : b.listDigest = s.listDigest) {t : State}
include hm hp hl

theorem hello_checks : exec (.hello rank e b) s = .next
    (let r := (s.modPeer rank fun p => { p with foreign := false }).woaneCheck rank e true none
    if r.1 then r.2.takeHello rank b else r.2) := by
  have same : ¬ (b.plotId ≠ s.plotId ∨ b.listDigest ≠ s.listDigest) := fun h => h.elim (absurd hp) (absurd hl)
  exact congrArg Host.Outcome.next ((if_neg (by rw [hm]; decide)).trans (if_neg same))

theorem hello_stops (h : (s.modPeer rank fun p => { p with foreign := false }).woaneCheck rank e true none = (false, t)) :
    exec (.hello rank e b) s = .next t := by
  rw [hello_checks hm hp hl, h]
  rfl

theorem hello_passes (h : (s.modPeer rank fun p => { p with foreign := false }).woaneCheck rank e true none = (true, t)) :
    exec (.hello rank e b) s = .next (t.takeHello rank b) := by
  rw [hello_checks hm hp hl, h]
  rfl

end

end

/-! ### A peer that is DOWN (R340) -/

theorem find?_upsert {α : Type} {p : α → Bool} {x : α} (hx : p x = true) (l : List α) : (upsert p x l).find? p = some x := by
  unfold upsert
  split
  · next h =>
    induction l with
    | nil => exact absurd h (by simp)
    | cons y l ih =>
      by_cases hy : p y = true
      · simp [hy, hx]
      · have rest : l.any p = true := by simpa [hy] using h
        simpa [hy] using ih rest
  · next h =>
    have others : ∀ y ∈ l, p y ≠ true := by simpa using h
    rw [List.find?_append, List.find?_eq_none.2 others]
    simp [hx]

theorem peer_rank (s : State) (r : Nat) : (s.peer r).rank = r := by
  unfold State.peer
  cases h : s.fabric.peers.find? fun p => p.rank == r with
  | none => rfl
  | some p => simpa using List.find?_some h

theorem peer_modPeer {s : State} {r : Nat} {f : Peer → Peer} (hf : (f (s.peer r)).rank = r) : (s.modPeer r f).peer r = f (s.peer r) := by
  show (List.find? _ (upsert _ _ _)).getD _ = _
  rw [find?_upsert (by simp [hf])]
  rfl

theorem Calm.peer {s t : State} (h : Calm s t) (r : Nat) : t.peer r = s.peer r := by
  have peers : t.fabric.peers = s.fabric.peers := congrArg Links.peers h.1
  unfold State.peer
  rw [peers]

theorem Calm.rx {s t : State} (h : Calm s t) : t.fabric.rx = s.fabric.rx := congrArg Links.rx h.1

theorem Calm.downs {s t : State} (h : Calm s t) : t.fabric.downs = s.fabric.downs := congrArg Links.downs h.1

theorem Calm.plotLost {s t : State} {rank : Nat} (h : Calm s t) : Calm s (t.plotLost rank) := by
  unfold State.plotLost
  dsimp only
  exact .set h rfl

theorem Calm.dropVotes {s t : State} {rank : Nat} (h : Calm s t) : Calm s (t.dropVotes rank) := by
  unfold State.dropVotes
  dsimp only
  exact .set h rfl

/-- Once the flows are closed, the end of a peer's epoch keeps the links. -/
theorem endPeer_calm (s : State) (rank : Nat) : Calm (s.closeFlows rank) (s.endPeer rank) := by
  unfold State.endPeer
  dsimp only
  exact .graftEpoch (.dropVotes (.peerTables (.set (.plotLost (.foldl .refl fun _ _ h => .loseServer h)) rfl)))

/-- The state in which a peer's epoch ends because no packet has come. -/
def State.downed (s : State) (rank : Nat) : State :=
  (s.modPeer rank fun p => { p with down := true, deadEpoch := p.knownEpoch }).modFabric fun f => { f with downs := satInc f.downs }

theorem peerDownTimeout_down {s : State} {rank : Nat} (hm : s.others.contains rank = true) (hd : (s.peer rank).down = false) :
    exec (.peerDownTimeout rank) s = .next ((s.downed rank).endPeer rank) :=
  congrArg Host.Outcome.next (if_pos ⟨hm, hd⟩)

theorem endPeer_downed (s : State) (rank : Nat) :
    (((s.downed rank).endPeer rank).peer rank).down = true
      ∧ (((s.downed rank).endPeer rank).peer rank).deadEpoch = (s.peer rank).knownEpoch
      ∧ ((s.downed rank).endPeer rank).fabric.downs = satInc s.fabric.downs
      ∧ ∀ f ∈ ((s.downed rank).endPeer rank).fabric.rx, f.rank ≠ rank := by
  have calm := endPeer_calm (s.downed rank) rank
  have noted : (s.downed rank).peer rank = { s.peer rank with down := true, deadEpoch := (s.peer rank).knownEpoch } :=
    peer_modPeer (s := s) (f := fun p => { p with down := true, deadEpoch := p.knownEpoch }) (peer_rank s rank)
  have closed : ((s.downed rank).closeFlows rank).peer rank = { (s.downed rank).peer rank with ceSeen := [] } :=
    peer_modPeer (peer_rank (s.downed rank) rank)
  rw [calm.peer, calm.downs, calm.rx, closed, noted]
  refine ⟨rfl, rfl, rfl, fun f hf => ?_⟩
  simpa using (List.mem_filter.1 hf).2

/-! ### Exchanges (R352, R356, R358) -/

section

variable {s : State} {rank sid : Nat} {k : PlotReply} {r r' : Req}

theorem plotReply_late (h : ∀ r, s.req? sid = some r → rank ∈ r.awaiting → r.reply rank k = none) :
    exec (.plotSearchReply rank sid k) s = .next (s.modFabric fun f => { f with lateReplies := satInc f.lateReplies }) := by
  have none : ((s.req? sid).bind fun r => if r.awaiting.contains rank then r.reply rank k else none) = none := by
    cases hr : s.req? sid with
    | none => rfl
    | some r =>
      refine (ite_eq_right_iff.2 fun hc => h r hr ?_ : (if r.awaiting.contains rank then r.reply rank k else Option.none) = Option.none)
      exact List.contains_iff_mem.1 hc
  refine congrArg Host.Outcome.next ?_
  rw [none]

variable (hr : s.req? sid = some r) (ha : rank ∈ r.awaiting) (hk : r.reply rank k = some r')
include hr ha hk

theorem plotReply_awaited : ((s.req? sid).bind fun r => if r.awaiting.contains rank then r.reply rank k else none) = some r' := by
  rw [hr]
  exact (if_pos (List.contains_iff_mem.2 ha)).trans hk

theorem plotReply_adds (ho : r'.overruns rank k = false) : exec (.plotSearchReply rank sid k) s = .next ((s.endExchange rank 1 sid).setReq r') := by
  refine congrArg Host.Outcome.next ?_
  rw [plotReply_awaited hr ha hk]
  exact if_neg (by rw [ho]; decide)

theorem plotReply_overruns (ho : r'.overruns rank k = true) : exec (.plotSearchReply rank sid k) s = .next
    (((s.modFabric fun f => { f with loadOverruns := satInc f.loadOverruns }).endExchange rank 1 sid).setReq { r' with overran := true }) := by
  refine congrArg Host.Outcome.next ?_
  rw [plotReply_awaited hr ha hk]
  exact if_pos ho

end

/-! ### The receiver of a flow (R343 to R345, R351) -/

theorem rx?_flow {s : State} {b c : Nat} {f : RxFlow} (h : s.rx? b c = some f) : f.rank = b ∧ f.cls = c := by
  simpa using List.find?_some h

theorem rx?_setRx {s : State} {b c : Nat} {f : RxFlow} (hb : f.rank = b) (hc : f.cls = c) : (s.setRx f).rx? b c = some f := by
  subst hb hc
  exact find?_upsert (by simp) _

theorem Calm.rx? {s t : State} (h : Calm s t) (b c : Nat) : t.rx? b c = s.rx? b c := by
  unfold State.rx?
  rw [h.rx]

section

variable {s : State} {b c : Nat} {f : RxFlow}

theorem sendAck_flow (h : s.rx? b c = some f) (kind : Nat) : s.sendAck b c kind =
    (s.setRx { f with sinceAck := 0, unreported := false }).sendPacket b kind c 0 false false f.ackBytes := by
  unfold State.sendAck
  rw [h]

theorem sendAck_none (h : s.rx? b c = none) (kind : Nat) : s.sendAck b c kind = s := by
  unfold State.sendAck
  rw [h]

/-- What is buffered and what has been released stay. -/
theorem sendAck_keeps (h : s.rx? b c = some f) (kind : Nat) :
    ∃ g, (s.sendAck b c kind).rx? b c = some g ∧ g.buffered = f.buffered ∧ g.returned = f.returned := by
  obtain ⟨hb, hc⟩ := rx?_flow h
  refine ⟨{ f with sinceAck := 0, unreported := false }, ?_, rfl, rfl⟩
  rw [sendAck_flow h, (Calm.sendPacket .refl).rx?]
  exact rx?_setRx hb hc

theorem openFlow_opens (hm : s.others.contains b = true) (hc : c < 4) (h : s.rx? b c = none) : exec (.openFlow b c) s = .next
    ((s.setRx { rank := b, cls := c, grant := s.credits }).sendPacket b pktOpenOk c 0 false false [BitVec.ofNat 8 c, BitVec.ofNat 8 s.credits]) := by
  refine congrArg Host.Outcome.next ((if_pos hm).trans ?_)
  unfold State.takeOpen
  dsimp only
  rw [if_neg (Nat.not_le.2 hc), h, if_neg (by simp), rx?_setRx rfl rfl]

theorem openFlow_repeats (hm : s.others.contains b = true) (hc : c < 4) (h : s.rx? b c = some f) : exec (.openFlow b c) s = .next
    (s.sendPacket b pktOpenOk c 0 false false [BitVec.ofNat 8 c, BitVec.ofNat 8 f.grant]) := by
  refine congrArg Host.Outcome.next ((if_pos hm).trans ?_)
  unfold State.takeOpen
  dsimp only
  rw [if_neg (Nat.not_le.2 hc), h, if_pos (by simp), h]

theorem openFlow_ignored (h : s.others.contains b = false ∨ 4 ≤ c) : Ignores (.openFlow b c) s := by
  refine congrArg Host.Outcome.next ?_
  by_cases hm : s.others.contains b = true
  · have far : 4 ≤ c := h.resolve_left (by rw [hm]; decide)
    exact (if_pos hm).trans (if_pos far)
  · exact if_neg hm



section

variable {psn : W32} {x y ce : Bool} {bytes : Buf} {ms : List PeerMsg}

theorem data_none (h : s.rx? b c = none) : exec (.data b c psn x y ce bytes ms) s = .next s.woaneStale := by
  refine congrArg Host.Outcome.next ?_
  unfold State.takeMessages State.fresh? State.takeData
  rw [h]
  exact if_neg Bool.false_ne_true

/-- The flow has noted that a packet came. -/
def RxFlow.noted (f : RxFlow) (ce : Bool) : RxFlow := { f with ceTotal := if ce then f.ceTotal + 1 else f.ceTotal, unreported := true }

variable (h : s.rx? b c = some f)
include h

theorem data_outside (hd : (psn - f.cumPsn).toNat < 1 ∨ 64 < (psn - f.cumPsn).toNat) :
    exec (.data b c psn x y ce bytes ms) s = .next (s.setRx (f.noted ce)).woaneStale := by
  have stale : s.fresh? b c psn = false := by
    unfold State.fresh?
    rw [h]
    dsimp only
    generalize (psn - f.cumPsn).toNat = d at hd ⊢
    obtain hd | hd := hd
    · rw [decide_eq_false (Nat.not_le.2 hd)]; rfl
    · rw [decide_eq_false (Nat.not_le.2 hd), Bool.and_false, Bool.false_and]
  refine congrArg Host.Outcome.next ?_
  unfold State.takeMessages
  dsimp only
  rw [stale, if_neg Bool.false_ne_true]
  unfold State.takeData
  rw [h]
  exact if_pos hd

theorem data_inWindow (h1 : 1 ≤ (psn - f.cumPsn).toNat) (h64 : (psn - f.cumPsn).toNat ≤ 64) :
    let dup := f.buffered.any fun e => e.1 == psn
    let all := if dup = true then f.buffered else f.buffered ++ [(psn, x, y, bytes)]
    let next := decide ((psn - f.cumPsn).toNat = 1) && !dup
    let n := if next = true then f.sinceAck + 1 else f.sinceAck
    let s1 := s.setRx { f.noted ce with
      buffered := all, cumPsn := advanceCum (fun p => all.any fun e => e.1 == p) 64 f.cumPsn, sinceAck := n }
    let s2 := if next = true ∧ n < 8 then s1 else s1.sendAck b c pktAck
    exec (.data b c psn x y ce bytes ms) s = .next (if dup = true then s2 else ms.foldl (fun s m => s.deliver b m) s2) := by
  intro dup all next n s1 s2
  have fresh : s.fresh? b c psn = !dup := by
    unfold State.fresh?
    rw [h]
    dsimp only
    rw [decide_eq_true h1, decide_eq_true h64]
    rfl
  have taken : s.takeData b c psn x y ce bytes = s2 := by
    unfold State.takeData
    rw [h]
    refine (if_neg (by omega)).trans ?_
    show (if !next || decide (8 ≤ n) then s1.sendAck b c pktAck else s1) = if next = true ∧ n < 8 then s1 else s1.sendAck b c pktAck
    by_cases hn : next = true ∧ n < 8
    · exact (if_neg (by simp only [hn.1, Bool.not_true, Bool.false_or, decide_eq_true_eq]; omega)).trans (if_pos hn).symm
    · refine (if_pos ?_).trans (if_neg hn).symm
      cases hx : next with
      | false => rfl
      | true => simpa using Nat.le_of_not_lt fun small => hn ⟨hx, small⟩
  refine congrArg Host.Outcome.next ?_
  unfold State.takeMessages
  dsimp only
  rw [fresh, taken]
  cases dup <;> rfl

end

theorem advanceCum_one {known : W32 → Bool} {c : W32} (h : known (c + 1) = true) (h' : known (c + 1 + 1) = false) (n : Nat) :
    advanceCum known (n + 2) c = c + 1 := by
  rw [advanceCum, if_pos h, advanceCum, if_neg (by rw [h']; decide)]

end

section

variable {s : State} {b c : Nat} {f : RxFlow} {psn : W32} {x y ce : Bool} {bytes : Buf} {ms : List PeerMsg} (h : s.rx? b c = some f)
include h

/-- The packet that comes next, with nothing buffered after it and no ACK due. -/
theorem data_next (hd : (psn - f.cumPsn).toNat = 1) (absent : ∀ e ∈ f.buffered, e.1 ≠ psn ∧ e.1 ≠ psn + 1) (few : f.sinceAck < 7) :
    exec (.data b c psn x y ce bytes ms) s = .next (ms.foldl (fun s m => s.deliver b m)
      (s.setRx { f.noted ce with buffered := f.buffered ++ [(psn, x, y, bytes)], cumPsn := psn, sinceAck := f.sinceAck + 1 })) := by
  have first : f.cumPsn + 1 = psn := by bv_omega
  have new : (f.buffered.any fun e => e.1 == psn) = false := List.any_eq_false.2 fun e he => by simpa using (absent e he).1
  have last : (f.buffered.any fun e => e.1 == psn + 1) = false := List.any_eq_false.2 fun e he => by simpa using (absent e he).2
  have cum : advanceCum (fun p => (f.buffered ++ [(psn, x, y, bytes)]).any fun e => e.1 == p) 64 f.cumPsn = psn := by
    refine (advanceCum_one ?_ ?_ 62).trans first
    · rw [first, List.any_append]
      simp
    · rw [first, List.any_append, last]
      simp
  rw [data_inWindow h (Nat.le_of_eq hd.symm) (by omega)]
  simp only [hd, new, Bool.false_eq_true, if_false, decide_true, Bool.not_false, Bool.and_true, if_true, true_and, cum]
  rw [if_pos (by omega)]

/-- A packet that is buffered already. -/
theorem data_again (h1 : 1 ≤ (psn - f.cumPsn).toNat) (h64 : (psn - f.cumPsn).toNat ≤ 64) (hp : ∃ e ∈ f.buffered, e.1 = psn) :
    ∃ t, exec (.data b c psn x y ce bytes ms) s = .next t ∧ ∃ g, t.rx? b c = some g ∧ g.buffered = f.buffered ∧ g.returned = f.returned := by
  have dup : (f.buffered.any fun e => e.1 == psn) = true := by
    obtain ⟨e, he, rfl⟩ := hp
    exact List.any_eq_true.2 ⟨e, he, by simp⟩
  obtain ⟨hb, hc⟩ := rx?_flow h
  rw [data_inWindow h h1 h64]
  simp only [dup, if_true, Bool.not_true, Bool.and_false, Bool.false_eq_true, if_false, false_and]
  exact ⟨_, rfl, sendAck_keeps (rx?_setRx (by exact hb) (by exact hc)) pktAck⟩

end

/-! The release of a message -/

/-- Where a PSN stands in the flow: 2³¹ is CUM_PSN. -/
def RxFlow.place (f : RxFlow) (p : W32) : Nat := (p - f.cumPsn + 0x80000000#32).toNat

section

variable {s : State} {b c : Nat} {f : RxFlow} {p : W32} {l : List W32} {e : W32 × Bool × Bool × Buf} (h : s.rx? b c = some f)
include h

theorem bufferRelease_takes (he : f.buffered.find? (fun e => e.1 == p) = some e) (hl : messagePsns f.buffered 2049 p = some l) (first : e.2.1 = true)
    (oldest : ∀ x ∈ f.buffered, f.place p ≤ f.place x.1) (near : ∀ q ∈ l, f.place q ≤ 2 ^ 31) : exec (.bufferRelease b c p) s = .next
    (s.setRx { f with buffered := f.buffered.filter (fun x => !l.contains x.1), returned := f.returned + l.length, unreported := true }) := by
  refine congrArg Host.Outcome.next ?_
  rw [h]
  dsimp only
  rw [he, hl]
  exact if_pos ⟨first, List.all_eq_true.2 fun x hx => decide_eq_true (oldest x hx), List.all_eq_true.2 fun q hq => decide_eq_true (near q hq)⟩

theorem bufferRelease_notFirst (he : f.buffered.find? (fun e => e.1 == p) = some e) (hl : messagePsns f.buffered 2049 p = some l)
    (first : e.2.1 = false) : Ignores (.bufferRelease b c p) s := by
  refine congrArg Host.Outcome.next ?_
  rw [h]
  dsimp only
  rw [he, hl]
  exact if_neg fun ⟨ht, _⟩ => absurd (first.symm.trans ht) (by decide)

theorem bufferRelease_partial (hl : messagePsns f.buffered 2049 p = none) : Ignores (.bufferRelease b c p) s := by
  refine congrArg Host.Outcome.next ?_
  rw [h]
  dsimp only
  rw [hl]
  split
  · next none => cases none
  · rfl

end

theorem bufferRelease_none {s : State} {b c : Nat} {p : W32} (h : s.rx? b c = none) : Ignores (.bufferRelease b c p) s := by
  refine congrArg Host.Outcome.next ?_
  rw [h]

theorem messagePsns_single (p : W32) (bytes : Buf) : messagePsns [(p, true, true, bytes)] 2049 p = some [p] := by
  rw [messagePsns, List.find?_cons_of_pos (by simp)]
  rfl

/-! ### The sender of a flow (R343 to R348, R351) -/

theorem tx_rank (s : State) (b c : Nat) : (s.tx b c).rank = b ∧ (s.tx b c).cls = c := by
  unfold State.tx
  cases h : s.fabric.tx.find? fun f => f.rank == b && f.cls == c with
  | none => exact ⟨rfl, rfl⟩
  | some f => simpa using List.find?_some h

theorem tx_setTx {s : State} {b c : Nat} {f : TxFlow} (hb : f.rank = b) (hc : f.cls = c) : (s.setTx f).tx b c = f := by
  subst hb hc
  show (List.find? _ (upsert _ _ _)).getD _ = _
  rw [find?_upsert (by simp)]
  rfl

theorem tx_sendPacket (s : State) (r kind cls : Nat) (psn : W32) (x y : Bool) (bytes : Buf) (b c : Nat) :
    (s.sendPacket r kind cls psn x y bytes).tx b c = s.tx b c := by
  unfold State.sendPacket
  split
  · rfl
  · rw [emit_frame]
    rfl

/-- The PSNs out are within the grant, which leaves a PSN's place no doubt. -/
def TxFlow.Within (f : TxFlow) : Prop := f.grant < 2 ^ 31 ∧ (f.nextPsn - BitVec.ofNat 32 f.returnedSeen).toNat ≤ f.grant

/-- A credit is one PSN more. -/
theorem TxFlow.within_next {f : TxFlow} (h : f.Within) (hc : 0 < f.credits) {q u} :
    TxFlow.Within { f with nextPsn := f.nextPsn + 1, queue := q, unacked := u } := by
  obtain ⟨small, within⟩ := h
  refine ⟨small, ?_⟩
  unfold TxFlow.credits at hc
  dsimp only
  generalize BitVec.ofNat 32 f.returnedSeen = r at *
  have one : f.nextPsn + 1 - r = f.nextPsn - r + 1 := by bv_omega
  rw [one, BitVec.toNat_add, show BitVec.toNat (1 : W32) = 1 from rfl]
  omega

theorem pumpN_within (b c : Nat) : ∀ (n : Nat) (s : State), (s.tx b c).Within → ((State.pumpN n s b c).tx b c).Within
  | 0, _, h => h
  | n + 1, s, h => by
    obtain ⟨hb, hc⟩ := tx_rank s b c
    unfold State.pumpN
    dsimp only
    split
    · exact h
    · split
      · next credit =>
        refine pumpN_within b c n _ ?_
        rw [tx_sendPacket, tx_setTx (by exact hb) (by exact hc)]
        exact TxFlow.within_next h credit.2
      · exact h

section

variable {s : State} {b c n : Nat} {k : AckBody}

theorem openOk_opens (hm : s.others.contains b = true) (hc : c < 4) (ho : (s.tx b c).opened = false) : exec (.openOk b c n) s = .next
    ((s.setTx { (s.tx b c) with
      opened := true, grant := n, nextPsn := 0, returnedSeen := 0, unacked := [], cumSeen := 0xFFFFFFFF#32, timerUs := 200, expiries := 0
      auditing := false }).pump b c) :=
  congrArg Host.Outcome.next ((if_pos hm).trans (if_neg fun h => h.elim (absurd · (Nat.not_le.2 hc)) (by rw [ho]; decide)))

theorem openOk_ignored (h : s.others.contains b = false ∨ 4 ≤ c ∨ (s.tx b c).opened = true) : Ignores (.openOk b c n) s := by
  refine congrArg Host.Outcome.next ?_
  by_cases hm : s.others.contains b = true
  · exact (if_pos hm).trans (if_pos (h.resolve_left (by rw [hm]; decide)))
  · exact if_neg hm

theorem ack_closed (h : (s.tx b c).opened = false) : Ignores (.ack b c k) s := congrArg Host.Outcome.next (if_neg (by rw [h]; decide))

theorem auditReply_closed (h : (s.tx b c).opened = false) : Ignores (.auditReply b c k) s :=
  congrArg Host.Outcome.next (if_neg (by rw [h]; decide))

/-- The flow after an expiry of its timer. -/
def TxFlow.expired (f : TxFlow) : TxFlow := { f with timerUs := min (2 * f.timerUs) 12800, expiries := f.expiries + 1 }

theorem retransmit_resends (ho : (s.tx b c).opened = true) (hu : (s.tx b c).unacked ≠ []) (ha : (s.tx b c).auditing = false)
    (he : (s.tx b c).expiries < 2) : exec (.retransmitTimer b c) s = .next ((s.setTx (s.tx b c).expired).resend b c (s.tx b c).unacked) := by
  have early : ¬ (3 ≤ (s.tx b c).expired.expiries ∨ (s.tx b c).auditing = true) := by
    rw [ha, TxFlow.expired]
    simp only [Bool.false_eq_true, or_false]
    omega
  exact congrArg Host.Outcome.next ((if_pos ⟨ho, .inl hu⟩).trans (if_neg early))

theorem retransmit_audits (ho : (s.tx b c).opened = true) (hu : (s.tx b c).unacked ≠ [] ∨ (s.tx b c).auditing = true)
    (he : 2 ≤ (s.tx b c).expiries ∨ (s.tx b c).auditing = true) :
    exec (.retransmitTimer b c) s = .next (((s.setTx (s.tx b c).expired).resend b c (s.tx b c).unacked).audit b c) :=
  congrArg Host.Outcome.next ((if_pos ⟨ho, hu⟩).trans (if_pos (he.imp_left Nat.succ_le_succ)))

theorem retransmit_ignored (h : (s.tx b c).opened = false ∨ ((s.tx b c).unacked = [] ∧ (s.tx b c).auditing = false)) :
    Ignores (.retransmitTimer b c) s := by
  refine congrArg Host.Outcome.next (if_neg fun ⟨ho, hu⟩ => ?_)
  obtain h | ⟨empty, quiet⟩ := h
  · exact absurd (h.symm.trans ho) (by decide)
  · exact hu.elim (absurd empty) fun ha => absurd (quiet.symm.trans ha) (by decide)

theorem takeCe_lowers {m : W32} (hn : m.toNat ≠ (assocGet c (s.peer b).ceSeen).getD 0) (hl : (s.peer b).lowered = none) :
    ((s.takeCe b c m).peer b).rate = max (3 * (s.peer b).rate / 4) 5000 := by
  unfold State.takeCe
  dsimp only
  rw [if_neg hn, hl]
  rw [peer_modPeer]
  · rfl
  · exact peer_rank s b

end

/-- Settles O59: a received packet by the rules of R339, a peer that is DOWN, exchanges, and the receiver and the sender of a flow. -/
theorem woane : Obligations.Woane := by
  refine ⟨⟨?packets, fun s rank e b hm hb => hello_foreign hm hb, ?hello, fun s rank b hd he => if_pos ⟨hd, he⟩, fun s rank e b h => hello_stranger h⟩,
    ?down, ⟨?exchange, ?reply⟩,
    ⟨fun s b c hm hc h => openFlow_opens hm hc h, fun s b c f hm hc h => openFlow_repeats hm hc h, fun s b c h => openFlow_ignored h, ?data,
      fun s b c psn n x y ce bytes ms h => ⟨data_none h, ?_, bufferRelease_none h, ?_⟩, ?receiver⟩,
    fun s b c n hm hc ho => openOk_opens hm hc ho, fun s b c n h => openOk_ignored h, fun s b c k h => ⟨ack_closed h, auditReply_closed h⟩,
    fun s b c small within => (pumpN_within b c 64 s ⟨small, within⟩).2,
    fun s b c k ho => ⟨congrArg Host.Outcome.next (if_pos ho), congrArg Host.Outcome.next (if_pos ho)⟩, ?take,
    fun s b c => ⟨retransmit_resends, retransmit_audits, retransmit_ignored⟩, fun s b hm => congrArg Host.Outcome.next (if_pos hm),
    fun s b hm => congrArg Host.Outcome.next (if_neg (by rw [hm]; decide)), fun s b c n hn hl => takeCe_lowers hn hl⟩
  case packets =>
    intro s p s1 s2 tagOk
    refine ⟨packetReceive_malformed, fun hv hl hu hk => ⟨fun h => ?_, fun ht hm hf => ⟨fun he => ?_, fun he ho hd => ?_, fun he hd => ?_⟩⟩,
      fun hv hk => ⟨fun ht => ?_, fun ht => ?_⟩⟩
    · exact packetReceive_stops hv hl hu hk (woaneCheck_foreign h)
    · exact packetReceive_stops hv hl hu hk (woaneCheck_dead ht hm hf he)
    · refine packetReceive_stops hv hl hu hk ?_
      rw [if_neg ho]
      exact woaneCheck_unknown ht hm hf he hd
    · refine packetReceive_passes hv hl hu hk (woaneCheck_passes ht hm hf he fun d e => ?_)
      obtain ho | known := hd
      · rw [if_pos ho] at e
        cases e
      · split at e
        · cases e
        · cases e
          exact known
    · exact (packetReceive_hello hv hk).trans (congrArg Host.Outcome.next (if_neg (by rw [show (s.arrived p).tagged p = false from ht]; decide)))
    · exact (packetReceive_hello hv hk).trans (congrArg Host.Outcome.next (if_pos ht))
  case hello =>
    intro s rank e b hm hp hl s1 p hf hm1
    exact ⟨fun he => hello_stops hm hp hl (woaneCheck_dead rfl hm1 hf he),
      fun he => hello_passes hm hp hl (woaneCheck_passes rfl hm1 hf he fun _ none => by cases none)⟩
  case down =>
    refine fun s rank => ⟨fun hm hd => ⟨_, peerDownTimeout_down hm hd, endPeer_downed s rank⟩, fun h => ?_, rfl⟩
    refine congrArg Host.Outcome.next (if_neg fun ⟨hm, hd⟩ => ?_)
    obtain h | h := h
    · exact absurd (h.symm.trans hm) (by decide)
    · exact absurd (hd.symm.trans h) (by decide)
  case exchange =>
    refine fun s id => ⟨fun x hx => congrArg Host.Outcome.next (by rw [hx]), fun h => congrArg Host.Outcome.next ?_⟩
    rw [List.find?_eq_none.2 fun x hx => by simpa using h x hx]
  case reply =>
    refine fun s rank sid k => ⟨fun none => plotReply_late fun r hr => ?_, fun r hr ha => plotReply_late fun y hy hm => ?_, fun r l n d w hr ha hs => ?scan,
      fun r l hr ha hs => ?exact, fun r l hr ha hs => ?fetch, fun r hr ha none => plotReply_late fun y hy _ => ?_⟩
    case scan =>
      intro mine r' load
      have reply : r.reply rank (.scan l n d w) = some r' := by
        unfold Req.reply
        dsimp only [r', mine]
        rw [hs]
      refine ⟨fun h => plotReply_adds hr ha reply ?_, fun hw ho => plotReply_overruns hr ha reply ?_⟩
      · show (!r.overran && decide (load < w)) = false
        obtain small | counted := h
        · rw [decide_eq_false (Nat.not_lt.2 small), Bool.and_false]
        · rw [counted]; rfl
      · show (!r.overran && decide (load < w)) = true
        rw [ho, decide_eq_true hw]
        rfl
    case exact =>
      refine plotReply_adds hr ha ?_ rfl
      unfold Req.reply
      dsimp only
      rw [hs]
    case fetch =>
      refine plotReply_adds hr ha ?_ rfl
      unfold Req.reply
      dsimp only
      rw [hs]
    · rw [none] at hr
      cases hr
    · rw [hr] at hy
      cases hy
      exact absurd hm ha
    · rw [hr] at hy
      cases hy
      exact none
  case data =>
    exact fun s b c psn x y ce bytes ms f h => ⟨data_outside h, data_next h, data_inWindow h, data_again h⟩
  case receiver =>
    intro s b c n f h
    refine ⟨fun hu => ?_, fun hu => ?_, congrArg Host.Outcome.next (sendAck_flow h _), fun p bytes only near => ?_, ?_, fun p => bufferRelease_partial h⟩
    · refine congrArg Host.Outcome.next ?_
      rw [h]
      exact (if_pos hu).trans (sendAck_flow h _)
    · refine congrArg Host.Outcome.next ?_
      rw [h]
      exact if_neg (by rw [hu]; decide)
    · have found : f.buffered.find? (fun e => e.1 == p) = some (p, true, true, bytes) := by rw [only]; simp
      have whole : messagePsns f.buffered 2049 p = some [p] := by rw [only]; exact messagePsns_single p bytes
      have alone : ∀ x ∈ f.buffered, x.1 = p := by rw [only]; simp
      refine (bufferRelease_takes h found whole rfl (fun x hx => Nat.le_of_eq (by rw [alone x hx])) fun q hq => ?_).trans ?_
      · rw [List.mem_singleton.1 hq]
        exact near
      · rw [only]
        simp
    · intro place p l hl oldest near
      exact ⟨fun e he first => bufferRelease_takes h he hl first oldest near, fun e he first => bufferRelease_notFirst h he hl first⟩
  case take =>
    refine fun f k => ⟨Nat.le_max_left .., Nat.le_max_right .., rfl, rfl, rfl, fun x hx => ?_⟩
    obtain ⟨held, unshown⟩ := List.mem_filter.1 hx
    exact ⟨held, by simpa using unshown⟩
  · refine congrArg Host.Outcome.next ?_
    rw [h]
  · exact congrArg Host.Outcome.next (sendAck_none h _)

end Sys2Proof.Machine
end

section
/-! PROOFS. Plots (R337, R338, R353 to R356, R423): SET_PLOT, the commits of a plot index, record-count summaries and searches. -/

namespace Sys2Proof.Machine

open Sys2Proof

/-! ### SET_PLOT (R337, R338) -/

/-- After the sled's own epoch has risen: one more, with every flow closed. -/
theorem raiseEpoch_links (s : State) :
    s.raiseEpoch.fabric.plot = s.fabric.plot ∧ s.raiseEpoch.boot.m3 = s.boot.m3 ∧ s.raiseEpoch.fabric.epoch = s.fabric.epoch + 1
      ∧ s.raiseEpoch.fabric.rx = [] ∧ AllShut s.raiseEpoch.fabric.tx := by
  unfold State.raiseEpoch
  dsimp only
  generalize hb : State.modAns _ _ = before
  have calm : Calm s before := hb ▸ .set (.plotLost (.count .refl)) rfl
  generalize hm : before.modFabric _ = mid
  have after : Calm mid mid.ownTables.graftEpoch := .graftEpoch (.ownTables .refl)
  have links : mid.fabric.links mid.boot.m3 = { s.fabric.links s.boot.m3 with epoch := s.fabric.epoch + 1, rx := [] } := by
    rw [← calm.1, ← hm, show s.fabric.epoch = before.fabric.epoch from (congrArg Links.epoch calm.1).symm]
    rfl
  have shut : AllShut mid.fabric.tx := by
    rw [← hm]
    exact fun f hf => nomatch hf
  have all := after.1.trans links
  exact ⟨congrArg Links.plot all, congrArg Links.m3 all, congrArg Links.epoch all, congrArg Links.rx all, after.2 shut⟩

section

variable {s : State} {sid : Nat} {u : Sub} {b : Option Buf} {buf : Buf}

/-- The statuses of a SET_PLOT. -/
def State.plotErrs (s : State) (u : Sub) (buf : Buf) : List Status :=
  when (!plotFormOk buf u.entry.length.toNat || !s.membersOk (parsePlot buf) || !s.entriesOk (parsePlot buf)) .badField
    ++ when ((parsePlot buf).plotIndexes.any fun e => (s.index? e.1).isNone) .staleHandle
    ++ when ((s.emptied (parsePlot buf)).any s.rankHolds) .noResource

/-- The state with the settings in force, M3 extended and the flash as it has been written; the epoch has not risen yet. -/
def State.withPlot (s : State) (buf : Buf) : State :=
  let p := parsePlot buf
  let s := s.itemWriteBad itemPlot buf none
  let s : State := { s with boot := { s.boot with m3 := extend s.boot.m3 (sha3 buf) } }
  (s.modFabric fun f => { f with plot := some p }).modIdx fun i =>
    { i with list := i.list.map fun x => { x with plot := (p.plotIndexes.find? fun e => e.1 == x.handle).map (·.2) } }

/-- The settings are not in order. -/
def State.PlotBad (s : State) (u : Sub) (buf : Buf) : Prop :=
  plotFormOk buf u.entry.length.toNat = false ∨ s.membersOk (parsePlot buf) = false ∨ s.entriesOk (parsePlot buf) = false

theorem plotBad_iff : (!plotFormOk buf u.entry.length.toNat || !s.membersOk (parsePlot buf) || !s.entriesOk (parsePlot buf)) = true ↔ s.PlotBad u buf := by
  simp [State.PlotBad, or_assoc]

theorem badField_mem_plotErrs (h : s.PlotBad u buf) : .badField ∈ s.plotErrs u buf := by
  unfold State.plotErrs
  rw [plotBad_iff.2 h]
  simp [when]

section

variable (good : ¬ s.PlotBad u buf)
include good

theorem plotErrs_good : s.plotErrs u buf = when ((parsePlot buf).plotIndexes.any fun e => (s.index? e.1).isNone) .staleHandle
    ++ when ((s.emptied (parsePlot buf)).any s.rankHolds) .noResource := by
  unfold State.plotErrs
  rw [Bool.eq_false_iff.2 fun h => good (plotBad_iff.1 h)]
  rfl

variable (named : ∀ e ∈ (parsePlot buf).plotIndexes, (s.index? e.1).isSome = true)
include named

theorem plotErrs_named : s.plotErrs u buf = when ((s.emptied (parsePlot buf)).any s.rankHolds) .noResource := by
  have all : ((parsePlot buf).plotIndexes.any fun e => (s.index? e.1).isNone) = false :=
    List.any_eq_false.2 fun e he => by rw [Option.isNone_eq_false_iff.2 (named e he)]; decide
  rw [plotErrs_good good, all]
  rfl

theorem plotErrs_nil (free : ∀ r ∈ s.emptied (parsePlot buf), s.rankHolds r = false) : s.plotErrs u buf = [] := by
  rw [plotErrs_named good named, List.any_eq_false.2 fun r hr => by simp [free r hr]]
  rfl

theorem plotErrs_kept (kept : ∃ r ∈ s.emptied (parsePlot buf), s.rankHolds r = true) : s.plotErrs u buf = [.noResource] := by
  rw [plotErrs_named good named, List.any_eq_true.2 kept]
  rfl

end

theorem plotErrs_unnamed (good : ¬ s.PlotBad u buf) (h : ∃ e ∈ (parsePlot buf).plotIndexes, s.index? e.1 = none) :
    ∃ l, s.plotErrs u buf = .staleHandle :: l ∧ ∀ x ∈ l, x = .noResource := by
  obtain ⟨e, he, none⟩ := h
  rw [plotErrs_good good, List.any_eq_true.2 ⟨e, he, by rw [none]; rfl⟩]
  refine ⟨_, rfl, fun x hx => ?_⟩
  unfold when at hx
  split at hx
  · exact List.mem_singleton.1 hx
  · exact absurd hx List.not_mem_nil

theorem setPlot_waits (hu : s.boot.update.isSome = true) (x : Option (Nat × W32)) : Ignores (.setPlot sid b x) s :=
  congrArg Host.Outcome.next (if_pos hu)

section

variable (h : Begins s sid 0xEB u) (hb : u.readB b = some buf) (hu : s.boot.update = none)
include h hb hu

theorem setPlot_runs (x : Option (Nat × W32)) : exec (.setPlot sid b x) s = .next (s.settle u (s.plotErrs u buf) fun s =>
    let s := s.itemWriteBad itemPlot buf x
    if x.isSome then s.failWith u.sid .mediaError else
    let s : State := { s with boot := { s.boot with m3 := extend s.boot.m3 (sha3 buf) } }
    let s := (s.modFabric fun f => { f with plot := some (parsePlot buf) }).modIdx fun i =>
      { i with list := i.list.map fun x => { x with plot := ((parsePlot buf).plotIndexes.find? fun e => e.1 == x.handle).map (·.2) } }
    ((s.raiseEpoch).dropBits).completeOk u) :=
  congrArg Host.Outcome.next ((if_neg (by simp [hu])).trans (run_withB h hb _))

variable (clean : s.plotErrs u buf = [])
include clean

theorem setPlot_sets : exec (.setPlot sid b none) s = .next ((s.withPlot buf).raiseEpoch.dropBits.finish sid (okResult u 0 0)) := by
  refine (setPlot_runs h hb hu none).trans (congrArg Host.Outcome.next ((settle_begins h clean _).trans ?_))
  exact completeOk_begins h _

theorem setPlot_notStored (x : Nat × W32) :
    exec (.setPlot sid b (some x)) s = .next ((s.itemWriteBad itemPlot buf (some x)).failWith u.sid .mediaError) :=
  (setPlot_runs h hb hu (some x)).trans (congrArg Host.Outcome.next (settle_begins h clean _))

end

theorem withPlot_links (s : State) (buf : Buf) : (s.withPlot buf).fabric = { s.fabric with plot := some (parsePlot buf) }
    ∧ (s.withPlot buf).boot.m3 = extend s.boot.m3 (sha3 buf) := by
  obtain ⟨w, f, e⟩ := itemWriteBad_onConfig s itemPlot buf none
  unfold State.withPlot
  dsimp only
  rw [e]
  exact ⟨rfl, rfl⟩

end

/-- The settings are in force, and the sled's epoch has risen. -/
theorem plotSet_links (s : State) (buf : Buf) {t : State} (ht : (s.withPlot buf).raiseEpoch.dropBits = t) :
    t.fabric.plot = some (parsePlot buf) ∧ t.boot.m3 = extend s.boot.m3 (sha3 buf) ∧ t.fabric.epoch = s.fabric.epoch + 1 ∧ t.fabric.rx = []
      ∧ AllShut t.fabric.tx := by
  obtain ⟨plot, m3, epoch, rx, shut⟩ := raiseEpoch_links (s.withPlot buf)
  obtain ⟨fabric, extended⟩ := withPlot_links s buf
  rw [fabric] at plot epoch
  generalize (s.withPlot buf).raiseEpoch = raised at *
  have calm : Calm raised t := ht ▸ .dropBits .refl
  exact ⟨(congrArg Links.plot calm.1).trans plot, (congrArg Links.m3 calm.1).trans (m3.trans extended),
    (congrArg Links.epoch calm.1).trans epoch, (congrArg Links.rx calm.1).trans rx, calm.2 shut⟩

/-! ### The commits of a plot index (R354) -/

/-- The first element for which `p` holds, changed with others of its kind, is the first still. -/
theorem find?_updWhere {α : Type} {p kind : α → Bool} {f : α → α} {c : α} (hk : kind c = true) (hf : p (f c) = true)
    (hp : ∀ y, kind y = true → p y = true) : ∀ {l : List α}, l.find? p = some c → (updWhere kind f l).find? p = some (f c)
  | y :: l, hc => by
    show List.find? p ((if kind y then f y else y) :: updWhere kind f l) = _
    by_cases hy : p y = true
    · rw [List.find?_cons_of_pos hy] at hc
      cases hc
      rw [if_pos hk]
      exact List.find?_cons_of_pos hf
    · rw [List.find?_cons_of_neg hy] at hc
      rw [if_neg fun k => hy (hp y k), List.find?_cons_of_neg hy]
      exact find?_updWhere hk hf hp hc

section

variable {s : State} {plot rank sid base n : Nat} {i d l : List W128} {x : Index} {c : PlotCommit} {p : PlotPrepared}

/-- A commit joins those of the plot index. -/
def State.queued (s : State) (plot rank sid : Nat) (x : Index) (i d : List W128) : State :=
  s.modFabric fun f => { f with
    plotCommits := f.plotCommits ++ [{ plot := plot, base := x.current, rank := rank, sid := sid, inserted := i, deleted := d }] }

theorem plotCommit_ignored (h : s.sequencer ≠ s.ownRank ∨ s.plotIndex? plot = none) : Ignores (.plotCommit plot rank sid i d) s := by
  refine congrArg Host.Outcome.next ?_
  cases hx : s.plotIndex? plot with
  | none => rfl
  | some x => exact if_pos (.inl (h.resolve_right (by simp [hx])))

theorem plotCommit_known (hx : s.plotIndex? plot = some x) (hk : ∃ y ∈ s.fabric.plotCommits, y.plot = plot ∧ y.rank = rank ∧ y.sid = sid) :
    Ignores (.plotCommit plot rank sid i d) s := by
  have known : (s.fabric.plotCommits.any fun c => c.plot == plot && c.rank == rank && c.sid == sid) = true := by
    obtain ⟨y, hy, rfl, rfl, rfl⟩ := hk
    exact List.any_eq_true.2 ⟨y, hy, by simp⟩
  refine congrArg Host.Outcome.next ?_
  rw [hx]
  exact if_pos (.inr known)

section

variable (hs : s.sequencer = s.ownRank) (hx : s.plotIndex? plot = some x)
  (hk : ¬ ∃ y ∈ s.fabric.plotCommits, y.plot = plot ∧ y.rank = rank ∧ y.sid = sid)
include hs hx hk

/-- A commit that the sequencer does not know: of another member, or the sled's own as it carried it. -/
theorem plotCommit_new : exec (.plotCommit plot rank sid i d) s = .next
    (match (if rank = s.ownRank then (x.carried.find? fun e => e.1 == sid).map fun e => (x.carriedInserts e.2, e.2.deleted)
        else if s.others.contains rank then some (i, d) else none : Option (List W128 × List W128)) with
      | none => s
      | some (ins, del) => State.runCommits 2 (s.queued plot rank sid x ins del) plot) := by
  have new : (s.fabric.plotCommits.any fun c => c.plot == plot && c.rank == rank && c.sid == sid) = false :=
    List.any_eq_false.2 fun y hy e => hk ⟨y, hy, by simpa [and_assoc] using e⟩
  refine congrArg Host.Outcome.next ?_
  rw [hx]
  refine (if_neg (by simp [hs, new])).trans ?_
  rfl

theorem plotCommit_queues (hr : rank ≠ s.ownRank) (hm : s.others.contains rank = true) :
    exec (.plotCommit plot rank sid i d) s = .next (State.runCommits 2 (s.queued plot rank sid x i d) plot) := by
  rw [plotCommit_new hs hx hk, if_neg hr, if_pos hm]

theorem plotCommit_stranger (hr : rank ≠ s.ownRank) (hm : s.others.contains rank = false) : Ignores (.plotCommit plot rank sid i d) s := by
  rw [Ignores, plotCommit_new hs hx hk, if_neg hr, if_neg (by rw [hm]; decide)]

theorem plotCommit_own {l : CommitList} (hr : rank = s.ownRank) (hc : x.carried.find? (fun e => e.1 == sid) = some (sid, l)) :
    exec (.plotCommit plot rank sid i d) s = .next (State.runCommits 2 (s.queued plot rank sid x (x.carriedInserts l) l.deleted) plot) := by
  rw [plotCommit_new hs hx hk, if_pos hr, hc]
  rfl

end

/-- While the first commit of the plot index is under way, none starts. -/
theorem runCommits_busy (hc : s.fabric.plotCommits.find? (fun y => y.plot == plot) = some c) (hb : c.phase ≠ .preparing ∨ c.yes ≠ []) (n : Nat) :
    State.runCommits n s plot = s := by
  have idle : s.startPlotCommit plot = (s, none) := by
    unfold State.startPlotCommit
    rw [hc]
    cases s.plotIndex? plot with
    | none => rfl
    | some x => exact if_neg fun ⟨hp, hy⟩ => hb.elim (absurd hp) (absurd hy)
  cases n with
  | zero => rfl
  | succ n =>
    unfold State.runCommits
    rw [idle]
    rfl

/-! Votes -/

section

variable (hc : s.fabric.plotCommits.find? (fun y => y.plot == plot) = some c) (hp : c.phase = .preparing)
include hc hp

theorem countPlotVote_no : s.countPlotVote plot rank c.base false l = s.decidePlot c false := by
  unfold State.countPlotVote
  rw [hc]
  exact (if_neg (by simp [hp])).trans (if_pos rfl)

/-- The commit with one more YES. -/
def PlotCommit.voted (c : PlotCommit) (rank : Nat) (l : List W128) : PlotCommit :=
  { c with yes := if c.yes.contains rank = true then c.yes else c.yes ++ [rank], live := c.live ++ l }

theorem countPlotVote_yes : s.countPlotVote plot rank c.base true l =
    if s.ranks.all (c.voted rank l).yes.contains then (s.modCommit (c.voted rank l) fun _ => c.voted rank l).decidePlot (c.voted rank l) true
    else s.modCommit (c.voted rank l) fun _ => c.voted rank l := by
  unfold State.countPlotVote
  rw [hc]
  exact (if_neg (by simp [hp])).trans (if_neg Bool.false_ne_true)

theorem plotPrepareTimeout_aborts : exec (.plotPrepareTimeout plot) s = .next (State.runCommits 2 (s.decidePlot c false) plot) := by
  refine congrArg Host.Outcome.next ?_
  rw [hc]
  exact if_pos hp

omit hp in
/-- The commit that has changed is the first of its plot index as before. -/
theorem find?_modCommit : (s.modCommit (c.voted rank l) fun _ => c.voted rank l).fabric.plotCommits.find? (fun y => y.plot == plot)
    = some (c.voted rank l) := by
  have named : c.plot = plot := by simpa using List.find?_some hc
  refine find?_updWhere (f := fun _ => c.voted rank l) ?_ ?_ (fun y hy => ?_) hc
  · simp [PlotCommit.voted]
  · simpa [PlotCommit.voted] using named
  · have same : y.plot = c.plot := by simpa [PlotCommit.voted] using (Bool.and_eq_true_iff.1 (Bool.and_eq_true_iff.1 hy).1).1
    simpa using same.trans named

end

theorem mem_voted : rank ∈ (c.voted rank l).yes := by
  unfold PlotCommit.voted
  dsimp only
  split
  · next h => exact List.contains_iff_mem.1 h
  · simp

theorem mem_voted_iff {r : Nat} : r ∈ (c.voted rank l).yes ↔ r = rank ∨ r ∈ c.yes := by
  unfold PlotCommit.voted
  dsimp only
  split
  · next h => exact ⟨.inr, fun e => e.elim (fun e => e ▸ List.contains_iff_mem.1 h) id⟩
  · rw [List.mem_append, List.mem_singleton, or_comm]

theorem plotVote_counts (hs : s.sequencer = s.ownRank) (hm : s.others.contains rank = true) {yes : Bool} :
    exec (.plotVote rank plot base yes l) s = .next (State.runCommits 2 (s.countPlotVote plot rank base yes l) plot) :=
  congrArg Host.Outcome.next (if_pos ⟨hs, hm⟩)

theorem plotVote_ignored (h : s.sequencer ≠ s.ownRank ∨ s.others.contains rank = false) {yes : Bool} : Ignores (.plotVote rank plot base yes l) s :=
  congrArg Host.Outcome.next (if_neg fun ⟨hs, hm⟩ => h.elim (absurd hs) fun e => absurd (e.symm.trans hm) (by decide))

theorem plotPrepareTimeout_ignored (h : ∀ c, s.fabric.plotCommits.find? (fun y => y.plot == plot) = some c → c.phase ≠ .preparing) :
    Ignores (.plotPrepareTimeout plot) s := by
  refine congrArg Host.Outcome.next ?_
  cases hc : s.fabric.plotCommits.find? (fun y => y.plot == plot) with
  | none => rfl
  | some c => exact if_neg (h c hc)

/-! A member's part -/

theorem plotPrepare_ignored {dg : Buf} (h : s.plotIndex? plot = none ∨ s.sequencer = s.ownRank) : Ignores (.plotPrepare rank plot base dg i d) s :=
  congrArg Host.Outcome.next (if_pos (h.imp_left fun e => by rw [e]; rfl))

theorem plotPrepare_votes {dg : Buf} (hx : (s.plotIndex? plot).isSome = true) (hs : s.sequencer ≠ s.ownRank) :
    let v := s.plotVote { plot := plot, base := base, rank := rank, inserted := i, deleted := d } dg
    exec (.plotPrepare rank plot base dg i d) s = .next (v.2.2.sendMsg s.sequencer .plotVote ([plot, base, v.1.toNat] ++ v.2.1.map (·.toNat))) :=
  congrArg Host.Outcome.next (if_neg fun h => h.elim (fun none => by rw [Option.isNone_iff_eq_none.1 none] at hx; cases hx) hs)

theorem plotDecision_none (h : s.prepared? plot = none) {commit : Bool} : Ignores (.plotDecision plot base commit) s := by
  refine congrArg Host.Outcome.next ?_
  rw [h]

theorem decisionQuery_ignored (h : s.prepared? plot = none ∨ s.sequencer = s.ownRank) : Ignores (.decisionQueryTimer true plot) s := by
  refine congrArg Host.Outcome.next ((if_pos rfl).trans ?_)
  cases hp : s.prepared? plot with
  | none => rfl
  | some p => exact if_pos (h.resolve_left (by simp [hp]))

section

variable (hp : s.prepared? plot = some p)
include hp

theorem plotDecision_other (h : p.base ≠ base ∨ s.sequencer = s.ownRank) {commit : Bool} : Ignores (.plotDecision plot base commit) s := by
  refine congrArg Host.Outcome.next ?_
  rw [hp]
  exact if_pos h

variable (hs : s.sequencer ≠ s.ownRank)
include hs

theorem decisionQuery_asks : exec (.decisionQueryTimer true plot) s = .next (s.sendMsg s.sequencer .decisionQuery [1, plot, p.base]) := by
  refine congrArg Host.Outcome.next ((if_pos rfl).trans ?_)
  rw [hp]
  exact if_neg hs

variable (hb : p.base = base)
include hb

theorem plotDecision_commits : exec (.plotDecision plot base true) s = .next
    ((s.applyPlot plot true).sendMsg (s.applyPlot plot true).sequencer .plotConfirm [plot, base + 1]) := by
  refine congrArg Host.Outcome.next ?_
  rw [hp]
  exact (if_neg fun h => h.elim (absurd hb) hs).trans (if_pos rfl)

theorem plotDecision_aborts (hr : p.rank ≠ s.ownRank) : exec (.plotDecision plot base false) s = .next (s.applyPlot plot false) := by
  refine congrArg Host.Outcome.next ?_
  rw [hp]
  exact (if_neg fun h => h.elim (absurd hb) hs).trans ((if_neg Bool.false_ne_true).trans (if_neg hr))

theorem plotDecision_abortsOwn {e : Nat × CommitList} {l : List (Nat × CommitList)} (hr : p.rank = s.ownRank)
    (hx : (s.applyPlot plot false).plotIndex? plot = some x) (hl : x.carried = e :: l) :
    exec (.plotDecision plot base false) s = .next ((s.applyPlot plot false).endCarried plot e.1 { status := .noResource }) := by
  refine congrArg Host.Outcome.next ?_
  rw [hp]
  refine (if_neg fun h => h.elim (absurd hb) hs).trans ((if_neg Bool.false_ne_true).trans ((if_pos hr).trans ?_))
  rw [hx, Option.bind_some, hl]
  rfl

end

/-! Confirmations -/

/-- The members that have confirmed, with one more. -/
def PlotCommit.confirmedBy (c : PlotCommit) (rank : Nat) : List Nat :=
  if c.confirmed.contains rank = true then c.confirmed else c.confirmed ++ [rank]

theorem commitConfirm_plot : exec (.commitConfirm rank true plot n) s = .next (s.plotConfirmed rank plot n) := congrArg Host.Outcome.next (if_pos rfl)

section

variable (hs : s.sequencer = s.ownRank) (hc : s.fabric.plotCommits.find? (fun y => y.plot == plot) = some c)
include hs hc

theorem plotConfirmed_other (h : c.phase ≠ .committed ∨ c.base + 1 ≠ n ∨ s.others.contains rank = false) : s.plotConfirmed rank plot n = s := by
  unfold State.plotConfirmed
  rw [if_pos hs, hc]
  refine if_neg fun ⟨hp, hb, hm⟩ => ?_
  obtain h | h | h := h
  · exact h hp
  · exact h hb
  · exact absurd (h.symm.trans hm) (by decide)

variable (hp : c.phase = .committed) (hm : s.others.contains rank = true)
include hp hm

theorem plotConfirmed_notes : s.plotConfirmed rank plot (c.base + 1) =
    if s.ranks.all (c.confirmedBy rank).contains then
      State.runCommits 2 ((s.modCommit c fun c' => { c' with confirmed := c.confirmedBy rank }).closeCommit c) plot
    else s.modCommit c fun c' => { c' with confirmed := c.confirmedBy rank } := by
  unfold State.plotConfirmed
  rw [if_pos hs, hc]
  exact if_pos ⟨hp, rfl, hm⟩

end

section

variable (hs : s.sequencer ≠ s.ownRank) (hx : s.plotIndex? plot = some x)
include hs hx

theorem plotConfirmed_ends {e : Nat × CommitList} {l : List (Nat × CommitList)} (hr : rank = s.sequencer) (hl : x.carried = e :: l)
    (hn : n = x.current) (hp : s.prepared? plot = none) :
    s.plotConfirmed rank plot n = s.endCarried plot e.1 { result0 := BitVec.ofNat 64 n } := by
  unfold State.plotConfirmed
  rw [if_neg hs, if_pos hr, hx]
  dsimp only
  rw [hl]
  exact if_pos ⟨hn, by rw [hp]; rfl⟩

theorem plotConfirmed_early (h : rank ≠ s.sequencer ∨ x.carried = [] ∨ n ≠ x.current ∨ (s.prepared? plot).isSome = true) :
    s.plotConfirmed rank plot n = s := by
  unfold State.plotConfirmed
  rw [if_neg hs]
  by_cases hr : rank = s.sequencer
  · rw [if_pos hr, hx]
    dsimp only
    cases hl : x.carried with
    | nil => rfl
    | cons e l =>
      refine if_neg fun ⟨hn, hp⟩ => ?_
      obtain h | h | h | h := h
      · exact h hr
      · rw [hl] at h; cases h
      · exact h hn
      · rw [Option.isNone_iff_eq_none.1 hp] at h; cases h
  · exact if_neg hr

end

end

/-! ### Summaries and searches (R355, R356) -/

section

variable {s : State} {y : PlotSummary}

/-- A summary of the same member and version is held. -/
def State.holdsSummary (s : State) (y : PlotSummary) : Bool :=
  s.fabric.summaries.any fun z => z.plot == y.plot && z.version == y.version && z.rank == y.rank

theorem holdsSummary_iff : s.holdsSummary y = true ↔ ∃ z ∈ s.fabric.summaries, z.plot = y.plot ∧ z.version = y.version ∧ z.rank = y.rank := by
  simp [State.holdsSummary, and_assoc]

theorem plotSummary_ignored (h : s.plotIndex? y.plot = none ∨ s.others.contains y.rank = false) : Ignores (.plotSummary y) s := by
  refine congrArg Host.Outcome.next (if_neg fun ⟨hx, hm⟩ => ?_)
  obtain h | h := h
  · rw [h] at hx; cases hx
  · exact absurd (h.symm.trans hm) (by decide)

variable (hx : (s.plotIndex? y.plot).isSome = true) (hm : s.others.contains y.rank = true)
include hx hm

theorem plotSummary_repeats (h : s.holdsSummary y = true) : Ignores (.plotSummary y) s :=
  congrArg Host.Outcome.next ((if_pos ⟨hx, hm⟩).trans (if_pos h))

theorem plotSummary_keeps (h : ¬ s.holdsSummary y = true) : exec (.plotSummary y) s = .next
    ((s.chargePool poolIndex (4 * y.counts.length)).modFabric fun f => { f with summaries := f.summaries ++ [y] }) :=
  congrArg Host.Outcome.next ((if_pos ⟨hx, hm⟩).trans (if_neg h))

end

section

variable {s : State} {rank sid plot : Nat} {msg : PlotMsg} {media : Media} {x : Index}

theorem plotSearchMessage_ignored (h : s.plotIndex? plot = none ∨ s.others.contains rank = false) :
    Ignores (.plotSearchMessage rank sid plot msg media) s := by
  refine congrArg Host.Outcome.next ?_
  cases hx : s.plotIndex? plot with
  | none => rfl
  | some x => exact if_pos (h.resolve_left (by simp [hx]))

variable (hx : s.plotIndex? plot = some x) (hm : s.others.contains rank = true)
include hx hm

/-- A member's part is answered, unless there is none. -/
theorem plotSearchMessage_part : exec (.plotSearchMessage rank sid plot msg media) s = .next
    (match (s.memberPart x msg media).1 with
      | some l => (s.memberPart x msg media).2.sendMsg rank .plotReply (sid :: l)
      | none => (s.memberPart x msg media).2) := by
  refine congrArg Host.Outcome.next ?_
  rw [hx]
  exact if_neg (by rw [hm]; decide)

theorem plotSearchMessage_answers {l : List Nat} {t : State} (h : s.memberPart x msg media = (some l, t)) :
    exec (.plotSearchMessage rank sid plot msg media) s = .next (t.sendMsg rank .plotReply (sid :: l)) := by
  rw [plotSearchMessage_part hx hm, h]

theorem plotSearchMessage_unserved {t : State} (h : s.memberPart x msg media = (none, t)) :
    exec (.plotSearchMessage rank sid plot msg media) s = .next t := by
  rw [plotSearchMessage_part hx hm, h]

end

theorem plotFreed_current {s : State} {rank plot n : Nat} {x : Index} (hx : s.plotIndex? plot = some x) (h : x.current ≤ n) :
    Ignores (.tableVersionFree rank true plot n) s := by
  unfold State.plotIndex? at hx
  refine congrArg Host.Outcome.next ((if_pos rfl).trans ?_)
  unfold State.plotFreed
  rw [hx]
  exact if_neg (Nat.not_lt.2 h)

theorem plotFreed_notes {s : State} {rank plot n : Nat} {x : Index} (hx : s.plotIndex? plot = some x) (h : n < x.current) :
    exec (.tableVersionFree rank true plot n) s = .next ((s.modFabric fun f => { f with
      plotFree := if f.plotFree.contains (plot, n, rank) = true then f.plotFree else f.plotFree ++ [(plot, n, rank)] }).sweepVersions x.handle) := by
  unfold State.plotIndex? at hx
  refine congrArg Host.Outcome.next ((if_pos rfl).trans ?_)
  unfold State.plotFreed
  rw [hx]
  exact if_pos h

/-- Settles O60: SET_PLOT by its statuses and by what a rise of the epoch keeps, the commits by the sequencer's and the member's lemmas, and the
member's part of a search. -/
theorem plots : Obligations.Plots := by
  refine ⟨?settings, ⟨fun s plot rank sid i d h => plotCommit_ignored h, ?commit, ?busy, ?votes, fun s rank plot base l h y => plotVote_ignored h,
    fun s plot h => plotPrepareTimeout_ignored h, fun s rank plot base dg i d h => plotPrepare_ignored h,
    fun s rank plot base dg i d hx hs => plotPrepare_votes hx hs, ?decision, ?confirm, ?ended⟩,
    ?summary, fun s y h => plotSummary_ignored h, fun s rank plot n x hx => ⟨plotFreed_current hx, plotFreed_notes hx⟩, ?search,
    fun s rank sid plot m media h => plotSearchMessage_ignored h⟩
  case settings =>
    intro s sid u b buf h hb p bad
    obtain ⟨⟨live, -, due, -, -⟩, -⟩ := id h
    refine ⟨fun hu => setPlot_waits hu none, fun hu hbad => ?_, fun hu good named kept => ?_, fun hu good unnamed => ?_,
      fun hu good named free x => ⟨_, setPlot_notStored h hb hu (plotErrs_nil good named free) x, ?_⟩, fun hu good named free =>
      ⟨_, setPlot_sets h hb hu (plotErrs_nil good named free), ?_⟩⟩
    · exact (setPlot_runs h hb hu none).trans (congrArg Host.Outcome.next (settle_refuses_badField h (by decide) (badField_mem_plotErrs hbad) _))
    · exact (setPlot_runs h hb hu none).trans (congrArg Host.Outcome.next (by
        rw [plotErrs_kept good named kept]; exact settle_refuses_one h (by decide) _ _))
    · obtain ⟨l, errs, stale⟩ := plotErrs_unnamed good unnamed
      refine (setPlot_runs h hb hu none).trans (congrArg Host.Outcome.next ?_)
      rw [errs]
      exact settle_refuses_first h (by decide) (fun x hx => by rw [stale x hx]; decide) _
    · have old := itemWriteBad_onConfig s itemPlot buf (some x)
      have fabric := old.keeps State.fabric fun _ _ _ => rfl
      have m3 := old.keeps (fun x => x.boot.m3) fun _ _ _ => rfl
      generalize s.itemWriteBad itemPlot buf (some x) = t at old fabric m3 ⊢
      refine ⟨?_, fabric, m3⟩
      obtain ⟨⟨live', hop, -⟩, -⟩ := h.onConfig old
      rw [State.failWith, begins_sid h, flagsOf_of_not_answer live' (by rw [hop]; decide)]
      exact endsWith_finish _ live' due
    · generalize ht : (s.withPlot buf).raiseEpoch.dropBits = t
      obtain ⟨plot, m3, epoch, rx, shut⟩ := plotSet_links s buf ht
      exact ⟨plot, m3, epoch, rx, shut, t, rfl⟩
  case commit =>
    intro s plot rank sid i d x hs hx known queued
    exact ⟨plotCommit_known hx, plotCommit_queues hs hx, plotCommit_stranger hs hx, fun l hk hr hc => plotCommit_own hs hx hk hr hc⟩
  case busy =>
    intro s plot rank sid i d x c hs hx hk hr hm hc hb
    have new : ¬ ∃ y ∈ s.fabric.plotCommits, y.plot = plot ∧ y.rank = rank ∧ y.sid = sid := fun ⟨y, hy, same⟩ => hk y hy same
    rw [plotCommit_queues hs hx new hr hm, runCommits_busy (c := c) _ hb]
    · rfl
    · show List.find? _ (_ ++ _) = _
      rw [List.find?_append, hc]
      rfl
  case votes =>
    intro s plot rank c hc hp hs hm
    refine ⟨fun l => ?_, plotPrepareTimeout_aborts hc hp, fun l all => ?_, fun l r hr ne out _ => ⟨_, plotVote_counts hs hm, ?_⟩⟩
    · rw [plotVote_counts hs hm, countPlotVote_no hc hp]
    · intro c'
      rw [plotVote_counts hs hm, countPlotVote_yes hc hp, if_pos]
      · rfl
      · exact List.all_eq_true.2 fun r hr => List.contains_iff_mem.2 (mem_voted_iff.2 (all r hr))
    · have waits : ¬ s.ranks.all (c.voted rank l).yes.contains = true := fun every =>
        (mem_voted_iff.1 (List.contains_iff_mem.1 (List.all_eq_true.1 every r hr))).elim ne out
      have first := find?_modCommit (rank := rank) (l := l) hc
      rw [countPlotVote_yes hc hp, if_neg waits, runCommits_busy first (.inr (List.ne_nil_of_mem mem_voted))]
      exact ⟨first, rfl, rfl⟩
  case decision =>
    intro s plot base
    refine ⟨fun none c => plotDecision_none none, fun p hp h c => plotDecision_other hp h,
      fun p x e l hp hb hs hr hx hl => plotDecision_abortsOwn hp hs hb hr hx hl,
      fun p hp hb hs => ⟨plotDecision_commits hp hs hb, plotDecision_aborts hp hs hb⟩, fun p hp hs => decisionQuery_asks hp hs, decisionQuery_ignored⟩
  case confirm =>
    intro s rank plot c hc hs l s1
    refine ⟨fun hp hm => ⟨fun ⟨r, hr, out⟩ => ?_, fun all => ?_⟩, fun n h => ?_⟩
    · rw [commitConfirm_plot, plotConfirmed_notes hs hc hp hm, if_neg]
      · rfl
      · exact fun every => out (List.contains_iff_mem.1 (List.all_eq_true.1 every r hr))
    · rw [commitConfirm_plot, plotConfirmed_notes hs hc hp hm, if_pos]
      · rfl
      · exact List.all_eq_true.2 fun r hr => List.contains_iff_mem.2 (all r hr)
    · exact commitConfirm_plot.trans (congrArg Host.Outcome.next (plotConfirmed_other hs hc h))
  case ended =>
    intro s rank plot n x hs hx
    exact ⟨fun e l hr hl hn hp => commitConfirm_plot.trans (congrArg Host.Outcome.next (plotConfirmed_ends hs hx hr hl hn hp)),
      fun h => commitConfirm_plot.trans (congrArg Host.Outcome.next (plotConfirmed_early hs hx h))⟩
  case summary =>
    intro s y hx hm
    refine ⟨fun h => plotSummary_repeats hx hm (holdsSummary_iff.2 h), fun h => plotSummary_keeps hx hm fun held => ?_⟩
    obtain ⟨z, hz, same⟩ := holdsSummary_iff.1 held
    exact h z hz same
  case search =>
    intro s rank sid plot x v hx hm
    refine ⟨fun n sk f a ne ps media hv => ?_, fun n q l media hv => ?_, fun n sk f a ne ps media hv => ?_, fun l media => ?_⟩
    · refine ⟨plotSearchMessage_answers hx hm ?_, List.length_take_le ..⟩
      unfold State.memberPart
      dsimp only
      rw [hv]
      rfl
    · refine plotSearchMessage_answers hx hm ?_
      unfold State.memberPart
      dsimp only
      rw [hv]
      rfl
    · refine plotSearchMessage_unserved hx hm ?_
      unfold State.memberPart
      dsimp only
      rw [hv]
    · exact plotSearchMessage_answers hx hm rfl

end Sys2Proof.Machine
end
